-- ==== Sys2Proof/Word.lean ====
section
/-! DEFINITION. The word types of the CK960: the 64-bit register word, the byte, byte strings, and the
sorted table that holds sparse state as plain data. -/

namespace Sys2Proof

/-- A 64-bit register, CSR or handle word. -/
abbrev W64 := BitVec 64

/-- One byte. -/
abbrev Byte := BitVec 8

/-- A byte string, lowest offset first (R6). -/
abbrev Bytes := List (BitVec 8)

/-- Sparse data by key, kept with strictly rising keys. -/
abbrev Tbl (α : Type) := List (Nat × α)

end Sys2Proof
end

