-- ==== Sys2Proof/Types.lean ====
section
/-! DEFINITION. The types of the operands that the commands carry: who issues an Ezsol instruction,
what a module, a host, the peer head, the Cairn or another array sent. -/

namespace Sys2Proof

/-- An operand of a release, with the access of the released master that violates in the same cycle, if there is one (R478). -/
structure Raced (α β : Type) where
  val   : α
  clash : Option β
  deriving DecidableEq, Repr

/-- The core that executes an Ezsol instruction (R33): datapath core `core` of `ridge`, or a management core. -/
inductive Agent where
  | dp (ridge core : Nat)
  | mg (core : Nat)
  deriving DecidableEq, Repr

/-- What the firmware writes into a LOP entry (R26–R28): the words of the entry but GEN. -/
structure LopUpdate where
  valid    : Bool
  typ      : Nat
  posUnit  : Nat
  phase    : Nat
  pool     : Nat
  device   : Bool
  done     : Nat
  work     : Nat
  position : W64
  total    : W64
  start    : W64
  /-- a new operation takes the entry (R30) -/
  taken    : Bool
  deriving DecidableEq, Repr

/-- A completion that arrives for a parameter read (R415, R416): data at an offset, or an error. -/
inductive ReadPiece where
  | data (off : Nat) (bytes : Bytes)
  | error
  deriving DecidableEq, Repr

/-- What a DRAM channel finds on its DIMM (R531): the rate in MT/s is the highest its SPD offers up to 6,400. -/
structure Dimm where
  present  : Bool
  spdOk    : Bool
  sizeGib  : Nat
  ranks2   : Bool
  rate     : Nat
  timingOk : Bool
  ms       : Nat
  deriving DecidableEq, Repr

/-- What the ECC of a DRAM line shows (R533). -/
inductive EccResult where
  | clean
  | corrected
  | uncorrectable
  deriving DecidableEq, Repr

/-- The I/O commands a host may send (R380, R382), and the two admin ones with rows of their own. -/
inductive HostOp where
  | read | write | flush | writeZeroes | dsm | verify | copy
  | store | retrieve | delete | exist | list
  | abort
  | other (opcode : Nat)
  deriving DecidableEq, Repr

/-- A command capsule, with its fields as the port reads them (R384, R393). Offsets and lengths are in bytes. -/
structure Capsule where
  cid      : Nat
  op       : HostOp
  nsid     : Nat
  start    : Nat
  /-- the length the command implies: NLB × 4,096, the value size, or the Copy length -/
  len      : Nat
  /-- Copy source start; Dataset Management ranges as start and length -/
  ranges   : List (Nat × Nat)
  key      : Bytes
  /-- Store options: must exist, must not exist; Retrieve and List sizes are in `len` -/
  mustExist    : Bool
  mustNotExist : Bool
  /-- options or range counts outside the table of R380 -/
  badOption : Bool
  /-- Write Zeroes: the deallocate bit -/
  dealloc  : Bool
  sgl      : Nat
  inline   : Option Bytes
  /-- data digest of the in-capsule data holds -/
  digestOk : Bool
  bytes    : Nat
  /-- the offset of a byte that makes the PDU header invalid, and whether the header digest holds (R393) -/
  badAt    : Option Nat := none
  hdgstOk  : Bool := true
  /-- the log page that a Get Log Page names -/
  lid      : Nat := 0
  deriving DecidableEq, Repr

/-- An H2CData PDU, or the answer of an RDMA Read, as the port sees it (R393, R395). -/
structure Pdu where
  /-- the offset of a byte that makes the header invalid -/
  badAt    : Option Nat
  hdgstOk  : Bool
  ttag     : Nat
  off      : Nat
  data     : Bytes
  last     : Bool
  ddgstOk  : Bool
  deriving DecidableEq, Repr

/-- What the check bits show when an access reaches the map cache or DRAM (06 errors in the cache, R533). -/
inductive MemFault where
  | none
  /-- single-bit error in the cache: corrected and counted -/
  | cacheSingle
  /-- double-bit error in the data of a line -/
  | cacheDouble
  /-- double-bit error in a tag -/
  | tagDouble
  /-- corrected DRAM error -/
  | dramCorrected
  /-- uncorrectable DRAM error -/
  | dramFatal
  deriving DecidableEq, Repr

/-- The Quinken identity of a module (R432), and what its controller reports (R433). -/
structure Ident where
  qmagic    : Nat
  qversion  : Nat
  slabs     : Nat
  qlcPe     : Nat
  tRQlc     : Nat
  tRSlc     : Nat
  tProgSlc  : Nat
  tProgRow  : Nat
  tErase    : Nat
  readBw    : Nat
  progBw    : Nat
  cwBytes   : Nat
  cwCorrect : Nat
  osets     : Nat
  capacity  : Nat
  /-- a dual-port subsystem, SGL support and enough I/O queues -/
  controllerOk : Bool
  /-- NSID 1 exists -/
  nsid1     : Bool
  /-- reservations, Write Exclusive, Preempt and Abort, Persist Through Power Loss -/
  reservations : Bool
  deriving DecidableEq, Repr

/-- No module. -/
def Ident.none : Ident :=
  { qmagic := 0, qversion := 0, slabs := 0, qlcPe := 0, tRQlc := 0, tRSlc := 0, tProgSlc := 0, tProgRow := 0,
    tErase := 0, readBw := 0, progBw := 0, cwBytes := 0, cwCorrect := 0, osets := 0, capacity := 0,
    controllerOk := false, nsid1 := false, reservations := false }

/-- What stands in one slab of a module that arrives: mode, next row, bound set, append table and pages. -/
structure SlabImage where
  slab    : Nat
  mode    : Nat
  row     : Nat
  oset    : Nat
  appends : List (Nat × Nat × Nat)
  pages   : List (Nat × Bytes)
  deriving DecidableEq, Repr

/-- What the medium and the link of a module do with one command (R436-R446). -/
inductive ModOut where
  /-- as asked, with at most this many bits corrected in one codeword -/
  | ok (corrected : Nat)
  /-- these pages cannot be returned -/
  | bad (pages : List Nat) (corrected : Nat)
  /-- the medium refuses the program or the erase -/
  | refuse
  /-- the other head holds the reservation by now -/
  | conflict
  /-- another NVMe status, in the layout of R93 -/
  | status (field : Nat)
  /-- a success that moved only this many bytes -/
  | short (bytes : Nat)
  /-- bytes moved beyond the length of the command -/
  | excess
  deriving DecidableEq, Repr

end Sys2Proof
end

