-- ==== Sys2Proof/Syntax.lean ====
section
/-! DEFINITION. The commands the block takes: one constructor per row of the table of operations and events. -/

namespace Sys2Proof

/-- The commands (one row of spec/opcode_table.json each), with the operands that its rule reads. -/
inductive Instr where
  /-- A write to a control-space register that has no row of its own stores or acts per its access type (R7). -/
  | registerWrite (m off width : Nat) (v : W64)
  /-- A clearing write to a W1C flag clears it, unless hardware sets it in the same cycle, in which case the set wins and EVCNT advances (R10). -/
  | w1cFlagClear (m off width : Nat) (v hwSet : W64)
  /-- A write to the control-space block of an absent unit is discarded and advances SYS.ABSENT_WRITES (R4). -/
  | absentUnitWrite (m off width : Nat) (v : W64)
  /-- A control-space access of a wrong width or alignment is discarded, reads zeros and advances SYS.BAD_ACCESS (R9). -/
  | badAccess (m bar off width : Nat) (wr : Bool)
  /-- A write to an RW counter takes the written value, plus one if a hardware increment falls in the same cycle (R11). -/
  | evcntWrite (m off width : Nat) (v : W64) (inc : Bool)
  /-- A host write completion is posted once both bivouac programs, the shadow acknowledgement and earlier overlapping writes have completed (R16). -/
  | writeCompletionPosted (cmd : Nat)
  /-- When no second module takes the data within 10 ms, the write completes with Data Transfer Error and records nothing (R17). -/
  | landingRetryTimeout (cmd : Nat)
  /-- The management firmware updates a long-operation entry by bumping GEN to odd, writing the words, and bumping GEN to even (R28). -/
  | lopEntryUpdate (m i : Nat) (u : LopUpdate)
  /-- A host capsule leaves the intake when a climb is free for it in its queue's ridge (R43). -/
  | capsuleTaken (queue : Nat)
  /-- A core switches to a resident READY climb, host class first, with the background share count deciding (R41). -/
  | climbDispatch (ridge core : Nat)
  /-- A climb that has run its quantum while another resident climb is READY returns to READY (R37). -/
  | quantumExpiry (ridge core : Nat)
  /-- A core with a free residency slot fills it with the longest-READY non-resident climb in 24 cycles (R40). -/
  | climbFill (ridge core : Nat)
  /-- A core with 16 full, non-READY slots spills its longest-WAITING climb to the climb store when a non-resident climb is READY (R40). -/
  | climbSpill (ridge core : Nat)
  /-- A climb RUNNING for WATCHDOG cycles since its count restarted takes the WATCHDOG trap, or ends with DOUBLE_TRAP inside its handler (R44). -/
  | watchdog (ridge core : Nat)
  /-- An exited or ended climb becomes FREE once its pending tokens and live children drain, and its buffers are then freed (R38). -/
  | climbFreed (cid : Nat)
  /-- A waiting buffer allocation is met in class and arrival order when granules free, and the climb becomes READY (R51). -/
  | hallocMet (ridge : Nat)
  /-- A granule of a freed buffer finishes its zero wipe and becomes free for allocation (R51). -/
  | granuleWipeDone (ridge granule : Nat)
  /-- A PARKED climb whose deadline passes becomes READY with result 1 (R98). -/
  | parkDeadline (cid : Nat)
  /-- A write of RDG[n].CLIMB.WAKE wakes a PARKED climb or sets its wake-pending bit (R39). -/
  | climbWake (m ridge : Nat) (v : W64)
  /-- The dispatcher checks a call entry in order (BAD_CALL to NOT_OWNER), then reads its parameter block and starts the climb or holds it (R59). -/
  | routeCallDispatch (internal : Option Bytes)
  /-- A held route call starts, in queue order, once its ridge (or any ridge for RIDGE 0xFF) has a climb for it (R61). -/
  | heldCallStart (ridge : Option Nat)
  /-- Route calls held during HANDOVER are checked when the mode ends (R60). -/
  | handoverCallCheck
  /-- The parameter block read completes and the route call climb starts, or the call completes with PARAM_FAULT (R59). -/
  | paramBlockRead (call : Nat) (ok : Bool)
  /-- A management core takes the lowest enabled high interrupt line between instructions when TRAP_ACTIVE is 0 (R102). -/
  | mgmtInterrupt (core : Nat)
  /-- A word that does not decode, or is illegal on the kind of core, takes ILLEGAL_INSTRUCTION (R74). -/
  | illegalInstruction (a : Agent) (word : BitVec 32)
  /-- Adds two registers modulo 2^64 (R75). -/
  | add (a : Agent) (rd ra rb : BitVec 5)
  /-- Subtracts two registers modulo 2^64 (R75). -/
  | sub (a : Agent) (rd ra rb : BitVec 5)
  /-- Bitwise AND of two registers (R75). -/
  | and (a : Agent) (rd ra rb : BitVec 5)
  /-- Bitwise OR of two registers (R75). -/
  | or (a : Agent) (rd ra rb : BitVec 5)
  /-- Bitwise XOR of two registers (R75). -/
  | xor (a : Agent) (rd ra rb : BitVec 5)
  /-- Shifts left by a register amount (R75). -/
  | shl (a : Agent) (rd ra rb : BitVec 5)
  /-- Shifts right with zero fill by a register amount (R75). -/
  | shr (a : Agent) (rd ra rb : BitVec 5)
  /-- Shifts right with sign fill by a register amount (R75). -/
  | sar (a : Agent) (rd ra rb : BitVec 5)
  /-- Low 64 bits of a product (R75). -/
  | mul (a : Agent) (rd ra rb : BitVec 5)
  /-- High 64 bits of the unsigned product (R75). -/
  | mulh (a : Agent) (rd ra rb : BitVec 5)
  /-- Unsigned division giving all ones on division by zero (R75). -/
  | divu (a : Agent) (rd ra rb : BitVec 5)
  /-- Unsigned minimum (R75). -/
  | min (a : Agent) (rd ra rb : BitVec 5)
  /-- Unsigned maximum (R75). -/
  | max (a : Agent) (rd ra rb : BitVec 5)
  /-- Counts leading zeros (R75). -/
  | clz (a : Agent) (rd ra : BitVec 5)
  /-- Counts one bits (R75). -/
  | popc (a : Agent) (rd ra : BitVec 5)
  /-- Adds a sign-extended immediate (R75). -/
  | addImm (a : Agent) (rd ra : BitVec 5) (imm : BitVec 16)
  /-- ANDs a zero-extended immediate (R75). -/
  | andImm (a : Agent) (rd ra : BitVec 5) (imm : BitVec 16)
  /-- ORs a zero-extended immediate (R75). -/
  | orImm (a : Agent) (rd ra : BitVec 5) (imm : BitVec 16)
  /-- XORs a zero-extended immediate (R75). -/
  | xorImm (a : Agent) (rd ra : BitVec 5) (imm : BitVec 16)
  /-- Shifts left by an immediate (R75). -/
  | shlImm (a : Agent) (rd ra : BitVec 5) (n : BitVec 6)
  /-- Shifts right with zero fill by an immediate (R75). -/
  | shrImm (a : Agent) (rd ra : BitVec 5) (n : BitVec 6)
  /-- Shifts right with sign fill by an immediate (R75). -/
  | sarImm (a : Agent) (rd ra : BitVec 5) (n : BitVec 6)
  /-- Writes 1 when two registers are equal (R75). -/
  | cmpeq (a : Agent) (rd ra rb : BitVec 5)
  /-- Writes 1 when two registers differ (R75). -/
  | cmpne (a : Agent) (rd ra rb : BitVec 5)
  /-- Writes 1 on signed less-than (R75). -/
  | cmplt (a : Agent) (rd ra rb : BitVec 5)
  /-- Writes 1 on signed greater-or-equal (R75). -/
  | cmpge (a : Agent) (rd ra rb : BitVec 5)
  /-- Writes 1 on unsigned less-than (R75). -/
  | cmpltu (a : Agent) (rd ra rb : BitVec 5)
  /-- Writes 1 on unsigned greater-or-equal (R75). -/
  | cmpgeu (a : Agent) (rd ra rb : BitVec 5)
  /-- Writes 1 when a register equals a sign-extended 12-bit immediate (R75). -/
  | cmpeqImm (a : Agent) (rd ra : BitVec 5) (imm : BitVec 12)
  /-- Writes 1 when a register differs from an immediate (R75). -/
  | cmpneImm (a : Agent) (rd ra : BitVec 5) (imm : BitVec 12)
  /-- Writes 1 on signed less-than an immediate (R75). -/
  | cmpltImm (a : Agent) (rd ra : BitVec 5) (imm : BitVec 12)
  /-- Writes 1 on signed greater-or-equal to an immediate (R75). -/
  | cmpgeImm (a : Agent) (rd ra : BitVec 5) (imm : BitVec 12)
  /-- Writes 1 on unsigned less-than an immediate (R75). -/
  | cmpltuImm (a : Agent) (rd ra : BitVec 5) (imm : BitVec 12)
  /-- Writes 1 on unsigned greater-or-equal to an immediate (R75). -/
  | cmpgeuImm (a : Agent) (rd ra : BitVec 5) (imm : BitVec 12)
  /-- Selects one of two registers by a condition register (R75). -/
  | sel (a : Agent) (rd rc ra rb : BitVec 5)
  /-- Loads a sign-extended 21-bit immediate (R75). -/
  | li (a : Agent) (rd : BitVec 5) (imm : BitVec 21)
  /-- Replaces one 16-bit field of the destination with an immediate (R75). -/
  | lui (a : Agent) (rd : BitVec 5) (k : BitVec 2) (imm : BitVec 16)
  /-- Extracts a bit field (R75). -/
  | bfx (a : Agent) (rd ra : BitVec 5) (pos lenm1 : BitVec 6)
  /-- Inserts a bit field into the destination (R75). -/
  | bfi (a : Agent) (rd ra : BitVec 5) (pos lenm1 : BitVec 6)
  /-- Loads one byte zero-extended, trapping on decode error or freezing on a ward violation (R76). -/
  | ldB (a : Agent) (rd ra : BitVec 5) (imm : BitVec 16) (f : MemFault)
  /-- Loads two aligned bytes zero-extended (R76). -/
  | ldH (a : Agent) (rd ra : BitVec 5) (imm : BitVec 16) (f : MemFault)
  /-- Loads four aligned bytes zero-extended (R76). -/
  | ldW (a : Agent) (rd ra : BitVec 5) (imm : BitVec 16) (f : MemFault)
  /-- Loads eight aligned bytes (R76). -/
  | ldD (a : Agent) (rd ra : BitVec 5) (imm : BitVec 16) (f : MemFault)
  /-- Stores one byte (R76). -/
  | stB (a : Agent) (rs ra : BitVec 5) (imm : BitVec 16) (f : MemFault)
  /-- Stores two aligned bytes (R76). -/
  | stH (a : Agent) (rs ra : BitVec 5) (imm : BitVec 16) (f : MemFault)
  /-- Stores four aligned bytes (R76). -/
  | stW (a : Agent) (rs ra : BitVec 5) (imm : BitVec 16) (f : MemFault)
  /-- Stores eight aligned bytes (R76). -/
  | stD (a : Agent) (rs ra : BitVec 5) (imm : BitVec 16) (f : MemFault)
  /-- Loads from a ridge buffer through a handle with exact range and alignment checks (R77). -/
  | hld (a : Agent) (rd : BitVec 5) (h : BitVec 4) (ra : BitVec 5) (size : BitVec 2) (imm : BitVec 10)
  /-- Stores to a ridge buffer through a handle with exact range and alignment checks (R77). -/
  | hst (a : Agent) (rs : BitVec 5) (h : BitVec 4) (ra : BitVec 5) (size : BitVec 2) (imm : BitVec 10)
  /-- Atomically adds to a DRAM or climb-local word and returns the old value (R78). -/
  | aadd (a : Agent) (rd ra rb : BitVec 5) (w32 : Bool)
  /-- Atomically compares and swaps a word, returning the old value (R78). -/
  | acas (a : Agent) (rd ra rb : BitVec 5) (w32 : Bool)
  /-- Atomically exchanges a word, returning the old value (R78). -/
  | axchg (a : Agent) (rd ra rb : BitVec 5) (w32 : Bool)
  /-- Branches when two registers are equal (R81). -/
  | beq (a : Agent) (ra rb : BitVec 5) (off : BitVec 16)
  /-- Branches when two registers differ (R81). -/
  | bne (a : Agent) (ra rb : BitVec 5) (off : BitVec 16)
  /-- Branches on signed less-than (R81). -/
  | blt (a : Agent) (ra rb : BitVec 5) (off : BitVec 16)
  /-- Branches on signed greater-or-equal (R81). -/
  | bge (a : Agent) (ra rb : BitVec 5) (off : BitVec 16)
  /-- Branches on unsigned less-than (R81). -/
  | bltu (a : Agent) (ra rb : BitVec 5) (off : BitVec 16)
  /-- Branches on unsigned greater-or-equal (R81). -/
  | bgeu (a : Agent) (ra rb : BitVec 5) (off : BitVec 16)
  /-- Jumps relative and links pc + 4 (R81). -/
  | jal (a : Agent) (rd : BitVec 5) (imm : BitVec 21)
  /-- Jumps to a register target and links, trapping on misalignment (R81). -/
  | jalr (a : Agent) (rd ra : BitVec 5) (imm : BitVec 16)
  /-- Allocates a ridge buffer, one handle per MiB, or waits until it can be met (R82). -/
  | halloc (a : Agent) (hd : BitVec 4) (ga : BitVec 5)
  /-- Frees the climb's own buffer unless a pending token references it (R82). -/
  | hfree (a : Agent) (hs : BitVec 4)
  /-- Makes a handle to a sub-range of a live handle (R82). -/
  | hslice (a : Agent) (hd hs : BitVec 4) (ga gb : BitVec 5)
  /-- Splits a handle into two at an offset (R82). -/
  | hsplit (a : Agent) (hd hs : BitVec 4) (ga : BitVec 5)
  /-- Copies up to 4,096 bytes between handles, overlap safe (R82). -/
  | hcopy (a : Agent) (hd hs : BitVec 4) (ga : BitVec 5)
  /-- Checks and queues an accelerator or port job on a token, or waits for a queue place (R83). -/
  | send (a : Agent) (cls : BitVec 5) (h : BitVec 4) (t : BitVec 3) (gd : BitVec 5) (flags : BitVec 9)
  /-- A SEND waiting for a queue place is accepted in arrival order when a place frees, and its token becomes PENDING (R83). -/
  | sendQueueAccept (ridge cls port : Nat)
  /-- Blocks until a token is DONE, then delivers its completion word (R97). -/
  | wait (a : Agent) (rd : BitVec 5) (t : BitVec 3)
  /-- Blocks until any token of a mask is DONE and consumes the lowest DONE one (R97). -/
  | waitany (a : Agent) (rd : BitVec 5) (mask : BitVec 8)
  /-- Tests a token without blocking (R97). -/
  | poll (a : Agent) (rd : BitVec 5) (t : BitVec 3)
  /-- Creates a child climb in a route slot, or completes the token with NO_CLIMB (R98). -/
  | spawn (a : Agent) (t : BitVec 3) (r1 r2 : BitVec 5)
  /-- Sleeps until a wake or deadline, or returns at once when a wake is pending (R98). -/
  | park (a : Agent) (r1 r2 : BitVec 5)
  /-- Returns the climb to READY behind others of its class (R98). -/
  | yield (a : Agent)
  /-- Fences and ends the climb with an exit code, posting its route call completion (R98). -/
  | exit (a : Agent) (r1 : BitVec 5)
  /-- Completes when every earlier access of the core has been performed for all masters (R80). -/
  | fence (a : Agent)
  /-- Reads a CSR (R99). -/
  | csrr (a : Agent) (rd : BitVec 5) (csr : BitVec 12)
  /-- Writes a CSR, returning its old value (R99). -/
  | csrw (a : Agent) (rd ra : BitVec 5) (csr : BitVec 12)
  /-- Sets bits of a CSR, returning its old value (R99). -/
  | csrset (a : Agent) (rd ra : BitVec 5) (csr : BitVec 12)
  /-- Clears bits of a CSR, returning its old value (R99). -/
  | csrclr (a : Agent) (rd ra : BitVec 5) (csr : BitVec 12)
  /-- Reads TIME into a register (R101). -/
  | time (a : Agent) (rd : BitVec 5)
  /-- Takes a SOFTWARE trap with an immediate (R101). -/
  | trap (a : Agent) (imm : BitVec 16)
  /-- Clears TRAP_ACTIVE and returns to tpc (R101). -/
  | eret (a : Agent)
  /-- Stops a management core until an enabled interrupt line is high (R101). -/
  | sleep (a : Agent)
  /-- Invalidates the management core's instruction cache (R101). -/
  | iinv (a : Agent)
  /-- Completes when every earlier control-space write has reached its unit (R101). -/
  | iofence (a : Agent)
  /-- A chunker job cuts its input with the gear hash and writes the boundary list and carried state (R108). -/
  | chkContentDefined (job : Nat)
  /-- A chunker job cuts its input at fixed chunk size (R109). -/
  | chkFixed (job : Nat)
  /-- The digest pipeline hashes a handle's bytes with SHA-256 (R88). -/
  | digDigest (job : Nat)
  /-- The digest pipeline hashes each chunk of a boundary list and writes fingerprint records (R118). -/
  | digChunks (job : Nat)
  /-- Claims or restarts a digest context and hashes data (R117). -/
  | digBegin (job : Nat)
  /-- Adds data to an owned digest context (R88). -/
  | digUpdate (job : Nat)
  /-- Adds data, writes the digest and releases the context (R88). -/
  | digFinal (job : Nat)
  /-- A coder lane encodes a chunk in byte mode into a frame, or a stored frame (R153). -/
  | coderEncodeByte (job : Nat)
  /-- A coder lane encodes a chunk in raster mode into a frame (R154). -/
  | coderEncodeRaster (job : Nat)
  /-- A coder lane checks and decodes a frame (R161). -/
  | coderDecode (job : Nat)
  /-- A coder lane continues an encode or decode from a continuation state (R160). -/
  | coderResume (job : Nat)
  /-- Encrypts a frame with XTS-AES-256 under the pool key and tweak (R90). -/
  | xtsEncrypt (job : Nat)
  /-- Decrypts a frame with XTS-AES-256 (R90). -/
  | xtsDecrypt (job : Nat)
  /-- Generates P and Q for a stripe row (R274). -/
  | parGeneratePq (job : Nat)
  /-- Generates P for a stripe row (R274). -/
  | parGenerateP (job : Nat)
  /-- Rebuilds up to two erased members of a row (R275). -/
  | parRecover (job : Nat)
  /-- Checks a row's P and Q, ending MISMATCH when either disagrees (R91). -/
  | parCheck (job : Nat)
  /-- Probes the index for fingerprints through the summary and index store (R132). -/
  | idxProbe (job : Nat) (runsOk : Bool)
  /-- Inserts index entries, answering EXISTED for fingerprints already held (R133). -/
  | idxInsert (job : Nat)
  /-- Removes index entries whose fingerprint and handle match (R134). -/
  | idxRemove (job : Nat)
  /-- Receives host data into a buffer, sending an XRDY PDU or RDMA Read for its range (R385). -/
  | hifReceive (job : Nat)
  /-- Sends read data to the host (R386). -/
  | hifTransmit (job : Nat)
  /-- Posts the NVMe completion of the climb's host command (R93). -/
  | hifComplete (job : Nat)
  /-- Erases a slab, clearing its mode, bound offset set and append table (R437). -/
  | eraseSlab (lib : Bool) (n : Nat) (o : ModOut)
  /-- Programs a QLC slab row or 1 to 16 SLC pages with their tags (R436). -/
  | programSlabRow (lib : Bool) (n : Nat) (o : ModOut)
  /-- Reads 1 to 16 pages with an offset set, reporting corrected bits and failed pages (R438). -/
  | readPage (job : Nat) (o : ModOut)
  /-- Appends one record group to a landing-log or relay slab, or answers DUPLICATE (R441). -/
  | journalAppend (lib : Bool) (n : Nat) (o : ModOut)
  /-- Reads tags of up to 256 pages with the bound offset set, zeroing those whose TAG_CRC fails (R439). -/
  | readTags (job : Nat) (o : ModOut)
  /-- Binds a slab's offset set for Read Tags (R440). -/
  | setReadOffsets (job : Nat) (o : ModOut)
  /-- Returns the module's 512-byte health page (R443). -/
  | readHealth (job : Nat) (page : Bytes) (o : ModOut)
  /-- The ROPE unit assigns SEQ and fills a record group, queues it to the journal buffer and shadow, and completes per R16 (R229). -/
  | ropeJournalRecords (job : Nat)
  /-- The ROPE unit sends shadow-state items to the shadow head (R324). -/
  | ropeShadowState (job : Nat)
  /-- A climb's Summit Book record is accepted and stored, or ends NOT_STORED (R96). -/
  | sbkRecord (job : Nat)
  /-- A write of CLAIM takes a free Notch context for the writing master (R120). -/
  | claim (m c width : Nat) (v : W64)
  /-- The owner's RELEASE wipes and frees a Notch context and sets FREED (R123). -/
  | nchRelease (m c width : Nat) (v : W64)
  /-- The warden releases a set of Notch contexts (R123). -/
  | forceRelease (m width : Nat) (v : W64)
  /-- A CTL write with START resets a context and loads an HMAC key (R124). -/
  | nchStart (m c width : Nat) (v : W64)
  /-- A DATA write feeds four message bytes, or is discarded with ERR_OVERRUN while BUSY (R125). -/
  | nchData (m c width : Nat) (v : W64)
  /-- A LAST write feeds the final word and starts padding and finalisation (R124). -/
  | nchLast (m c width : Nat) (v : W64)
  /-- A KEY write stores HMAC key bytes of an owned context (R119). -/
  | nchKeyWrite (m c k width : Nat) (v : W64)
  /-- A Notch context finishes hashing a block and BUSY clears (R125). -/
  | nchBlockDone (c : Nat)
  /-- A Notch context finishes its message and sets DONE with the digest (R124). -/
  | nchDigestDone (c : Nat)
  /-- The route library builds a summary of twice the buckets when occupancy passes 90 % or CUCKOO_FAIL is set (R136). -/
  | summaryGrow (pool base : Nat)
  /-- A started Traverse channel copies COUNT bytes (R166). -/
  | tvsCopy (ch lines : Nat)
  /-- A started channel separates interleaved elements into ways (R166). -/
  | tvsDeinterleave (ch lines : Nat)
  /-- A started channel joins ways into interleaved elements (R166). -/
  | tvsInterleave (ch lines : Nat)
  /-- A started channel splits samples into bit planes (R166). -/
  | tvsPlaneSplit (ch lines : Nat)
  /-- A started channel merges bit planes into samples (R166). -/
  | tvsPlaneMerge (ch lines : Nat)
  /-- An ABORT stops a busy channel after the line in progress with error ABORTED (R170). -/
  | tvsAbort (m ch width : Nat) (v : W64)
  /-- The channel's read-back of its last word returns and the channel ends DONE or READBACK (R167). -/
  | tvsReadback (ch : Nat)
  /-- The firmware loads a requested map page from flash, sets RESIDENT and wakes the waiting climbs (R175). -/
  | pageLoad (pool mpn : Nat) (marks : List (Nat × Nat × Nat × Nat))
  /-- Every DECAY seconds a background route halves every heat counter in resident pages (R184). -/
  | heatDecay (pool : Nat)
  /-- A cold 16 KiB group of holds is demoted into one run chunk under a range lock (R186). -/
  | merge (pool line group : Nat) (marks : List (Nat × Nat × Nat × Nat))
  /-- Map cache maintenance writes dirty lines to DRAM and keeps them valid (R194). -/
  | clean (m width : Nat) (v : W64)
  /-- Map cache maintenance drops lines, discarding dirty data (R194). -/
  | invalidate (m width : Nat) (v : W64)
  /-- Map cache maintenance writes dirty lines and then drops them (R194). -/
  | cleanInvalidate (m width : Nat) (v : W64)
  /-- A map cache maintenance operation ends and sets DONE or ERROR (R197). -/
  | maintDone
  /-- The reset invalidation and data wipe of the map cache end and READY is set (R198). -/
  | mapcWipeDone
  /-- The warden loads a pool's data key into the XTS slots of every present ridge (R202). -/
  | xtsKeyLoad (pool : Nat)
  /-- A pool's key slot is unloaded after its queued jobs (R202). -/
  | xtsKeyUnload (pool : Nat)
  /-- Creates a pool after a start-up vote, writing its superblock and key records (R205). -/
  | poolCreate (call : Nat) (granted : Option W64) (sum : Nat)
  /-- Deletes an empty pool and returns its modules (R206). -/
  | poolDelete (call : Nat)
  /-- Changes a pool's heat parameters (R203). -/
  | poolSet (call : Nat)
  /-- Creates an empty namespace in a pool (R203). -/
  | nsCreate (call : Nat)
  /-- Hides a namespace and walks its references down (R207). -/
  | nsDelete (call : Nat)
  /-- Writes namespace records (R208). -/
  | nsList (call : Nat)
  /-- Each second the route library recomputes the pool's bivouac target (R215). -/
  | bivouacTarget (pool : Nat)
  /-- Destage moves frames of sealed landing units into QLC segments (R225). -/
  | destage (pool : Nat) (marks : List (Nat × Nat × Nat × Nat))
  /-- When all k + 2 row programs complete, the mover stores new LOCs and submits MOVE entries (R223). -/
  | stripeRowComplete (pool seg : Nat)
  /-- An open segment is padded, programmed and sealed short at HANDOVER, release or SERVICE entry (R224). -/
  | segmentCloseShort (pool seg : Nat)
  /-- After 1 ms or 64 KiB, the journal buffer is written as whole pages to the journal triple (R233). -/
  | journalFlush (pool : Nat)
  /-- A write that cannot land submits a CANCEL group and posts its error completion once durable (R232). -/
  | cancel (cmd : Nat)
  /-- After 30 s or 1 GiB of journal, a checkpoint cuts, writes dirty pages and root pages, and writes a new anchor (R234). -/
  | checkpoint (pool : Nat)
  /-- When two anchor copies are durable, a CKPT entry is submitted and the previous checkpoint's images are freed (R235). -/
  | anchorDurable (pool : Nat)
  /-- Collection moves live chunks out of low-live segments while erased slabs are below 4 % of raw (R238). -/
  | collection (pool : Nat) (marks : List (Nat × Nat × Nat × Nat))
  /-- After a durable RELEASE, a source's slabs are erased and given SLAB entries with USE 6 (R239). -/
  | releaseErase (pool : Nat) (segment : Bool) (n : Nat)
  /-- A head assembling a pool as owner loads the anchor, replays the journal and landing logs, and scans tags (R241). -/
  | recovery (pool : Nat)
  /-- A LOC that leads to an erased or wrong page starts a marker search for the chunk (R244). -/
  | erasedReference (pool handle : Nat) (marks : List (Nat × Nat × Nat × Nat))
  /-- A command waiting 2 s for a chunk search completes with Unrecovered Read Error (R244). -/
  | erasedReferenceTimeout (cmd : Nat)
  /-- A segment on the rewrite list is collected whole with ORIGIN 9 (R249). -/
  | rewrite (pool : Nat) (marks : List (Nat × Nat × Nat × Nat))
  /-- Once a minute the library issues Read Health to each module and may start an evacuation (R256). -/
  | moduleHealthPoll (pool : Nat) (pages : List (Nat × Bytes))
  /-- A patrol pass starts and reads every page of the pool, checking rows and auditing chunks (R257). -/
  | patrolPass (pool : Nat) (marks : List (Nat × Nat × Nat × Nat)) (replica : List (Nat × Bytes))
  /-- Each hour patrol sets its read rate, and when time runs out writes PATROL_LATE (R258). -/
  | patrolRate (pool : Nat)
  /-- Every 100 ms and at each SLAB entry the pool's fill state is evaluated (R266). -/
  | fillStateEval (pool : Nat)
  /-- Each second the THROTTLED write budget gains 256 MiB, capped at 4 GiB (R267). -/
  | budgetRefill (pool : Nat)
  /-- Sets PATROL_DAYS and optionally starts a pass (R264). -/
  | patrolSet (call : Nat)
  /-- Writes namespace fixity records (R264). -/
  | fixitySummary (call : Nat)
  /-- Writes fixity failure entries (R264). -/
  | fixityFailures (call : Nat)
  /-- Writes one module record per module of the pool (R264). -/
  | mediaStatus (call : Nat)
  /-- A dirty-region bit becomes durable after two of three appends and the ROPE token, allowing the row program (R280). -/
  | regionBitDurable (pool seg : Nat)
  /-- A module absent for 5 s or failing reads is failed and its segments enter the rebuild queue (R285). -/
  | moduleFailed (pool m : Nat)
  /-- Rebuild takes a queued segment and rebuilds or collects its members (R289). -/
  | rebuild (pool : Nat) (marks : List (Nat × Nat × Nat × Nat))
  /-- Every 100 ms rebuild compares its rate with its floor and sets its class (R291). -/
  | rebuildRateWindow (pool bytes : Nat)
  /-- Chunks overlapping a lost strip are marked LOST and reported to hosts (R296). -/
  | lostChunk (pool seg row member : Nat)
  /-- A lost chunk is fetched from a replication target, verified and stored under its old handle (R298). -/
  | replicaRepair (pool handle : Nat)
  /-- A reshape moves its sources onto the new layout and flips each source (R300). -/
  | reshape (pool : Nat) (marks : List (Nat × Nat × Nat × Nat))
  /-- When every source has flipped, the reshape submits END and releases retained sources (R303). -/
  | reshapeEnd (pool : Nat)
  /-- Starts a reshape of a pool (R299). -/
  | reshapeStart (call : Nat)
  /-- Stops the running reshape at the next source (R303). -/
  | reshapeAbort (call : Nat)
  /-- Declares a module failed (R285). -/
  | moduleFail (call : Nat)
  /-- Writes one redundancy record (R305). -/
  | redundancyStatus (call : Nat)
  /-- Writes lost-list records (R305). -/
  | lostList (call : Nat)
  /-- A received HEARTBEAT renews the rope lease by its echo (R318). -/
  | heartbeat (frame : Bytes)
  /-- Every 2 µs the head sends a HEARTBEAT ahead of waiting frames (R318). -/
  | heartbeatSend
  /-- A 2 µs interval without a heartbeat counts as missed, and four in a row set SUSPECT (R319). -/
  | missedHeartbeat
  /-- A rope or Cairn lease expires and, with neither held, outputs are held (R318). -/
  | leaseExpiry
  /-- With no ACK progress for 4 µs, unacknowledged frames are sent again (R316). -/
  | ropeRetransmit
  /-- A rope lane goes down on lock loss or errors, possibly degrading the rope (R313). -/
  | laneDown (lane : Nat)
  /-- A lane clean for 100 ms comes back up (R313). -/
  | laneUp (lane : Nat)
  /-- The rope leaves degraded after 8 or more lanes have been up for 1 s (R313). -/
  | ropeUndegrade
  /-- At link-up, after 2^40 frames or 24 hours, a new rope session starts by REKEY (R317). -/
  | sessionRekey
  /-- At rope link-up the wardens exchange nonces and check values and derive the session keys (R464). -/
  | ropeLinkHandshake (nonce check : Bytes) (peerId : Nat)
  /-- The time master answers a TIME_REQ with T2 and T3 (R320). -/
  | timeReq (frame : Bytes)
  /-- Every 100 µs the follower sends TIME_REQ (R320). -/
  | timeReqSend
  /-- The follower computes the offset and slews its TIME rate (R320). -/
  | timeResp (frame : Bytes)
  /-- TIME_SYNCED clears when no exchange completes for 10 ms (R321). -/
  | timeUnsync
  /-- The shadow stores and acknowledges received groups and applies them or holds them pending (R322). -/
  | journal (frame : Bytes)
  /-- The owner marks ROPE tokens DONE up to the acknowledged SEQ (R322). -/
  | journalAck (frame : Bytes)
  /-- The shadow applies received shadow items to its DRAM copy (R324). -/
  | shadow (frame : Bytes)
  /-- The owner runs a command forwarded from the peer (R309). -/
  | forward (frame : Bytes) (cap : Capsule)
  /-- The receiving head posts a forwarded command's completion (R309). -/
  | forwardDone (frame : Bytes)
  /-- The owner keeps and streams groups to a joining head whose version is compatible (R340). -/
  | join (frame : Bytes)
  /-- The joining head becomes live shadow of a pool (R340). -/
  | caughtUp (frame : Bytes)
  /-- The receiving head of a planned move requests a vote with REASON 3 (R341). -/
  | ropeRelease (frame : Bytes)
  /-- The releasing head learns the moved pool has been adopted (R341). -/
  | taken (frame : Bytes)
  /-- A REKEY frame switches the session keys (R317). -/
  | rekey (frame : Bytes)
  /-- A YIELD frame from the peer starts a takeover vote and makes outstanding ROPE tokens DONE (R330). -/
  | ropeYield (frame : Bytes)
  /-- A Cairn HEALTH is checked for CRC, MAC and MSEQ and renews the Cairn lease (R326). -/
  | cairnHealth (msg : Bytes)
  /-- Every 4 µs the head sends HEALTH to the Cairn (R327). -/
  | cairnHealthSend
  /-- A grant makes the head fence the granted pools with Preempt and Abort (R332). -/
  | voteGrant (msg : Bytes)
  /-- Every 100 µs a head denied with RESULT 1 requests the vote again (R330). -/
  | voteRetry
  /-- A fatal fault holds outputs, drives PEER_YIELD_N low and sends YIELD, and the head enters QUARANTINE (R329). -/
  | yieldSequencer (cause : Nat)
  /-- PEER_YIELD_IN_N going low makes the head request a vote with REASON 0 (R330). -/
  | peerYieldIn
  /-- The peer becoming a suspect makes the head request a vote with REASON 1 (R330). -/
  | peerSuspect
  /-- When all preempts complete or the bound passes, the head sends FENCE_DONE and adopts the pools (R334). -/
  | fenceDone (done : List Nat)
  /-- A module not preempted within the bound is treated as absent and the preempt repeats every 1 ms (R333). -/
  | fencingBound (done : List Nat)
  /-- A pending group is tested against the landing logs and applied or reversed, releasing its in-doubt lock (R334). -/
  | tagCheck (pool seq : Nat)
  /-- While the rope is degraded the owner also appends each group to two relay logs (R338). -/
  | dualSend (pool : Nat)
  /-- The shadow takes groups from its Read Page at the tail of each relay log (R339). -/
  | relayRead (pool : Nat)
  /-- 50 ms after degradation, forwarded commands complete with Asymmetric Access Transition (R339). -/
  | forwardDegradeTimeout
  /-- At joint start-up each head claims its pools by vote with REASON 2 (R342). -/
  | startupClaim
  /-- Moves a pool to the peer by a planned move (R341). -/
  | poolMove (call : Nat) (denied : Bool)
  /-- Writes the pair record (R343). -/
  | pairStatus (call : Nat)
  /-- Yields the head with CAUSE 7 (R343). -/
  | yieldHead (call : Nat)
  /-- A write of CRN.YIELD.ASSERT yields the head with CAUSE 7 (R329). -/
  | crnYield (core : Nat) (v : W64)
  /-- Takes a snapshot at a snapshot cut and advances the pool epoch (R345). -/
  | snapCreate (call : Nat)
  /-- The epoch sweep refreshes lagging directory epochs (R351). -/
  | epochSweep (pool : Nat)
  /-- Deletes a snapshot and starts the drop walk (R353). -/
  | snapDelete (call : Nat)
  /-- The drop walk removes preserved images no snapshot needs and counts down their references (R353). -/
  | snapDropWalk (pool : Nat)
  /-- Presents a snapshot of a namespace as a new read-only namespace (R352). -/
  | snapExpose (call : Nat)
  /-- Removes an exposed namespace (R367). -/
  | snapHide (call : Nat)
  /-- Writes snapshot records (R367). -/
  | snapList (call : Nat)
  /-- Creates a replication pair (R367). -/
  | replCreate (call : Nat)
  /-- Accepts a pair on the target array (R355). -/
  | replAccept (call : Nat)
  /-- Ends a pair and aborts its round (R367). -/
  | replDelete (call : Nat)
  /-- Writes one pair record (R367). -/
  | replStatus (call : Nat)
  /-- Writes one pool record (R367). -/
  | poolStatus (call : Nat)
  /-- A due round takes a snapshot, walks the differences and sends manifests (R359). -/
  | replRound (pool pair : Nat)
  /-- After a lost connection the source reconnects with backoff and resumes from APPLIED (R362). -/
  | replReconnect (pool pair : Nat)
  /-- The target answers HELLO with its applied item (R363). -/
  | hello (msg : Bytes)
  /-- The source resumes the round after the acknowledged item (R363). -/
  | helloAck (pool pair : Nat) (msg : Bytes)
  /-- The target probes records, takes references and answers WANT (R360). -/
  | manifest (pool pair : Nat) (msg : Bytes)
  /-- The source reads, decrypts and sends the wanted chunks (R359). -/
  | want (pool pair : Nat) (msg : Bytes) (marks : List (Nat × Nat × Nat × Nat))
  /-- The target verifies and stores received frames and applies the item (R360). -/
  | replChunks (pool pair : Nat) (msg : Bytes)
  /-- The source records an item applied (R359). -/
  | applied (pool pair : Nat) (msg : Bytes)
  /-- The target snapshots, moves the round view and answers ROUND_DONE (R365). -/
  | roundEnd (pool pair : Nat) (msg : Bytes)
  /-- The source deletes its previous round snapshot and journals ROUND_END (R359). -/
  | roundDone (pool pair : Nat) (msg : Bytes)
  /-- The receiver returns a chunk by fingerprint (R366). -/
  | fetch (pool pair : Nat) (msg : Bytes) (marks : List (Nat × Nat × Nat × Nat))
  /-- The requester verifies a fetched chunk (R366). -/
  | fetchReply (pool pair : Nat) (msg : Bytes)
  /-- A FETCH unanswered after 10 s counts as absent (R366). -/
  | fetchTimeout (pool pair tag : Nat)
  /-- An ERROR message ends or pauses the round (R362). -/
  | replError (pool pair : Nat) (msg : Bytes)
  /-- A capsule enters the port intake, or the port stops reading the connection when the intake is full (R384). -/
  | capsuleArrival (queue : Nat) (cap : Capsule)
  /-- A waiting range-lock entry is granted when no earlier conflicting entry remains (R389). -/
  | rangeLockGrant (cmd : Nat)
  /-- An NVMe Read is served through the map (R380). -/
  | read (cmd : Nat) (marks : List (Nat × Nat × Nat × Nat))
  /-- An NVMe Write is chunked, deduplicated, coded, encrypted and landed (R16). -/
  | write (cmd : Nat) (marks : List (Nat × Nat × Nat × Nat))
  /-- An NVMe Flush completes at once (R380). -/
  | flush (cmd : Nat)
  /-- Makes holds or runs that read as zeros (R380). -/
  | writeZeroes (cmd : Nat)
  /-- Deallocates up to 256 ranges (R380). -/
  | datasetManagement (cmd : Nat)
  /-- Reads, decodes and checks data without returning it (R380). -/
  | verify (cmd : Nat) (marks : List (Nat × Nat × Nat × Nat))
  /-- Copies one source range within a namespace (R380). -/
  | copy (cmd : Nat) (marks : List (Nat × Nat × Nat × Nat))
  /-- A Key Value Store builds new pitches and swaps the key record (R183). -/
  | store (cmd : Nat) (marks : List (Nat × Nat × Nat × Nat))
  /-- A Key Value Retrieve returns a value (R382). -/
  | retrieve (cmd : Nat) (marks : List (Nat × Nat × Nat × Nat))
  /-- A Key Value Delete removes a key (R382). -/
  | delete (cmd : Nat)
  /-- A Key Value Exist tests a key (R382). -/
  | exist (cmd : Nat)
  /-- A Key Value List lists keys (R382). -/
  | list (cmd : Nat)
  /-- A fabrics Connect creates a controller or queue, or is refused (R377). -/
  | connect (port sub cntlid qid depth : Nat) (hostnqn subnqn : Bytes) (rdma hdgst ddgst : Bool) (grant kato : Nat)
  /-- An Abort command completes without aborting anything (R376). -/
  | abort (cmd : Nat)
  /-- A DH-HMAC-CHAP exchange authenticates a host or closes the connection (R378). -/
  | authentication (queue : Nat) (ok : Bool)
  /-- An H2CData PDU is checked and placed, or ends the connection or the command (R393). -/
  | h2cdata (queue : Nat) (pdu : Pdu)
  /-- A received frame is checked by MACsec and discarded when it fails (R373). -/
  | macsecFrame (port sub sci an pn : Nat) (secured icvOk : Bool)
  /-- MKA installs a secure association on a sub-port (R372). -/
  | mkaSakInstall (port sub : Nat) (tx : Bool) (sci an : Nat) (key : Bytes) (server : Bool)
  /-- A connection whose keep-alive expires is lost (R396). -/
  | keepAliveExpiry (cntlid : Nat)
  /-- On loss, each command of the connection is discarded, abandoned or run on (R397). -/
  | connectionLost (queue : Nat)
  /-- A received H2CTermReq ends the connection (R396). -/
  | termReq (queue : Nat)
  /-- A sub-port link down for 2 s loses its connections (R396). -/
  | subportLinkDown (port sub : Nat)
  /-- 50 ms after a loss every command has ended and the controller may be freed (R398). -/
  | cqtExpiry (queue : Nat)
  /-- A CONFIG write changing BREAKOUT or sub-ports while enabled is discarded with CFG_BUSY (R371). -/
  | hifConfigWrite (core port : Nat) (v : W64)
  /-- Reconfigures a host port (R400). -/
  | portConfig (call : Nat)
  /-- Installs a MACsec CAK and starts MKA (R400). -/
  | macsecCak (call : Nat)
  /-- Adds, replaces or removes a host entry (R400). -/
  | hostSet (call : Nat)
  /-- Sets the subsystem NQN (R400). -/
  | subsystemSet (call : Nat)
  /-- Writes sub-port status records (R400). -/
  | portStatus (call : Nat)
  /-- A CALL_TAIL doorbell adds call entries and raises management interrupt line 1, or sets DB_ERR (R410). -/
  | callTail (fn off width : Nat) (v : W64) (entries : List (Nat × Bytes))
  /-- A CPL_HEAD doorbell frees completion entries, or sets DB_ERR (R411). -/
  | cplHead (fn off width : Nat) (v : W64)
  /-- Setting ENABLE resets the call queue pointers and phase (R409). -/
  | callqEnable (m width : Nat) (v : W64)
  /-- Clearing ENABLE discards undispatched entries and later completions (R412). -/
  | callqDisable (m width : Nat) (v : W64)
  /-- A completion for a parameter read is placed or fails the read (R416). -/
  | pcieCompletion (call : Option Nat) (p : ReadPiece)
  /-- A parameter read request that times out fails the call with PARAM_FAULT (R416). -/
  | completionTimeout (call : Nat)
  /-- Enabling MSI-X or clearing the function mask sends pending level messages (R413). -/
  | msixUnmask (fn : Nat) (enable fmask : Bool) (vmask : Nat)
  /-- A change of Bus Master Enable stops or releases a function's requests (R423). -/
  | busMasterEnable (fn : Nat) (on mem : Bool)
  /-- A writeback held 1 s without bus mastering is discarded and its completion becomes PARAM_FAULT (R423). -/
  | writebackDiscard (call : Nat)
  /-- An FLR discards a function's pending work and resets its state (R424). -/
  | functionLevelReset (fn : Nat)
  /-- Loss of the endpoint link acts as an FLR on both functions and records HOST_LOST (R426). -/
  | pcieLinkDown
  /-- An access through a peer window reaches the active handle's buffer or is rejected (R417). -/
  | peerWindowAccess (off len : Nat) (data : Option Bytes)
  /-- A COMMIT starts making a window's shadow set active (R418). -/
  | commit (m w width : Nat) (v : W64)
  /-- When earlier TLPs are performed, the shadow set becomes active (R418). -/
  | commitComplete (w : Nat)
  /-- A shadow-set write is stored, or discarded with SHADOW_BUSY while a commit is pending (R418). -/
  | winShadowWrite (m w reg width : Nat) (v : W64)
  /-- A SIGNAL write stores a value and wakes the window's climb (R420). -/
  | signal (off width : Nat) (v : W64)
  /-- A write of WIN_READY sends PF1 vector w (R422). -/
  | winReady (m width : Nat) (v : W64)
  /-- Binds a peer window through a keeper climb (R422). -/
  | peerBind (call : Nat)
  /-- Unbinds a peer window (R422). -/
  | peerUnbind (call : Nat)
  /-- A target's link loss, CFS or timeouts mark it lost and end its jobs (R448). -/
  | moduleLost (port : Nat) (target : Option Nat) (cfs : Bool)
  /-- A retrained link re-enumerates, resets controllers, makes queues and registers keys (R449). -/
  | moduleLinkUp (port speed width : Nat) (flit expander : Bool) (ready : List Nat)
  /-- A hot-plugged module is checked and admitted or refused (R454). -/
  | moduleArrival (port target : Nat) (nested : Bool) (ident : Ident) (slabs : List SlabImage) (foreign : Bool)
  /-- A module command without completion in CMD_TIMEOUT ends TIMEOUT and its window closes (R447). -/
  | cmdTimeout (lib : Bool) (n : Nat)
  /-- A module access to no live window or a completion with no command is discarded and counted (R446). -/
  | strayAccess (port : Nat)
  /-- Adds a module to a pool (R454). -/
  | moduleAdd (call : Nat)
  /-- Removes a module from a pool and disables its link (R454). -/
  | moduleDetach (call : Nat)
  /-- Writes module records (R455). -/
  | moduleList (call : Nat)
  /-- A failed TRNG health test discards the sample block, and 100 ms of failures clear TRNG_OK (R458). -/
  | trngHealthFail (first : Bool)
  /-- The DRBG reseeds after 2^20 requests or 1 s (R458). -/
  | drbgReseed
  /-- The boot ROM chooses a slot, verifies and loads images, and releases the management cores (R467). -/
  | boot (headSel : Bool) (norErr loadErr : Nat)
  /-- After DRAM training the warden loads and hashes the route image and writes SYS.ROUTE_BASE (R467). -/
  | routeLoad (base : Nat) (loadErr : Bool)
  /-- The warden's RELEASE write unfreezes a master (R478). -/
  | wardRelease (m width : Nat) (v : Raced W64 (Nat × Bool))
  /-- The warden releases a frozen datapath core 1 ms after its freeze (R477). -/
  | coreReleaseTimer (ridge : Nat) (core : Raced Nat (Nat × Bool))
  /-- A management core kicks its watchdog bit (R479). -/
  | kick (m width : Nat) (v : W64)
  /-- An unkicked warden watchdog expires and the head yields with CAUSE 5 (R479). -/
  | watchdogExpiry (core : Option Nat)
  /-- A DOORBELL write passes new firmware requests to the warden (R475). -/
  | wdnDoorbell (m width : Nat) (v : W64)
  /-- Selecting EXTEST on JTAG makes the warden yield before it takes effect (R481). -/
  | extestSelect
  /-- Writes a signed quote (R472). -/
  | attest (call : Nat)
  /-- Writes the head's certificates (R486). -/
  | identityCerts (call : Nat)
  /-- Changes the lifecycle state (R484). -/
  | lifecycle (call : Nat)
  /-- Burns a revocation fuse on a verified statement (R469). -/
  | keyRevoke (call : Nat)
  /-- Raises the fused SVN to the running manifest's (R486). -/
  | svnCommit (call : Nat)
  /-- Installs the pair secret and Cairn key and retrains the rope (R464). -/
  | pairKeys (call : Nat)
  /-- Applies a Dravbor token for provisioning, scrap or debug (R483). -/
  | lifecycleToken (call : Nat)
  /-- Opens a Hinge Transfer session and answers OPEN_ACK (R494). -/
  | htOpen (addr udp : Nat) (dg : Bytes)
  /-- Accepts in-order image bytes and writes them to NOR (R495). -/
  | htData (addr udp : Nat) (dg : Bytes) (lag : Bool)
  /-- Stages the slot when all bytes are received, or answers SHORT (R496). -/
  | htClose (addr udp : Nat) (dg : Bytes)
  /-- Ends a Hinge Transfer session (R493). -/
  | htAbort (addr udp : Nat) (dg : Bytes)
  /-- An ACK is sent after 1 ms without an accepted DATA (R495). -/
  | htAckTimer
  /-- A session with no valid datagram for 10 s ends with IDLE (R496). -/
  | htIdle
  /-- ARMED clears when the arm time runs out (R503). -/
  | armExpiry
  /-- The console answers a request with a read-only text view (R488). -/
  | consoleRequest (uart : Bool) (addr udp : Nat) (req : Bytes)
  /-- Arms the update receiver for a time (R503). -/
  | updateArm (call : Nat)
  /-- Moves every owned pool to the peer and resets into the staged slot (R500). -/
  | hingeOver (call : Nat) (denied : Bool)
  /-- Writes the two slot records (R503). -/
  | updateStatus (call : Nat)
  /-- Opens a register-written Summit Book record (R507). -/
  | wrHdr (m off width : Nat) (v : W64)
  /-- Stages payload words of an open record (R507). -/
  | wrData (m off width : Nat) (v : W64)
  /-- Commits an open record or sets LEN_ERR (R508). -/
  | wrCommit (m width : Nat) (v : W64)
  /-- An accepted record is stored in the book, or counted missed when frozen or full (R509). -/
  | sbkStore
  /-- Stops Summit Book storage and starts the thaw timer (R511). -/
  | freeze (m width : Nat) (v : W64)
  /-- Resumes Summit Book storage (R511). -/
  | thaw (m width : Nat) (v : W64)
  /-- The book thaws FREEZE_MS after the last FREEZE (R511). -/
  | thawTimer
  /-- Asks the warden for a clear nonce (R513). -/
  | nonceReq (m width : Nat) (v : W64)
  /-- A clear nonce is invalidated after 10 s (R513). -/
  | nonceExpiry
  /-- Starts a token-checked clear of the book, or is refused (R515). -/
  | clear (m width : Nat) (v : W64)
  /-- The warden's token compare ends and the book is cleared or the clear refused (R515). -/
  | clearCompare
  /-- Every 60 s or on HALF the firmware copies new book records into harvest pages (R518). -/
  | harvest
  /-- Writes a book clear token (R514). -/
  | bookToken (call : Nat)
  /-- Writes harvest pages (R519). -/
  | bookRead (call : Nat)
  /-- Loss of the reference clock moves CLK_AON to the ring oscillator and yields the head (R522). -/
  | refLost
  /-- The returning reference takes back CLK_AON (R522). -/
  | refBack
  /-- Steps TIME forward, or sets STEP_REFUSED (R524). -/
  | timeSet (m width : Nat) (v : W64) (tick : Bool)
  /-- TIME reaching CLK.TIMER[m] raises management interrupt line 11 (R525). -/
  | timerCompare (core : Nat)
  /-- Domain 0 comes up alone on the standby rail and a POWER_ON reset takes effect (R527). -/
  | standbyRailUp (headSel : Bool)
  /-- PWR_GOOD high with RESET_N released starts the domain sequence (R527). -/
  | pwrGoodRise
  /-- The next power domain starts its header switches after 40 µs (R527). -/
  | domainPowerUp
  /-- A domain whose power-good is late stops the sequence or stays off (R528). -/
  | domainFault
  /-- PWR_GOOD falling yields the head and switches the domains off in reverse (R529). -/
  | pwrGoodFall
  /-- Switches a host or module port domain, or is refused (R530). -/
  | domainReq (m width : Nat) (v : W64)
  /-- A channel reads SPD and trains, or leaves the head in HALT (R531). -/
  | dramTraining (ch : Nat) (dimm : Dimm)
  /-- A channel's zero pattern fill ends and DRAM_DONE is set (R532). -/
  | dramFillDone (ch : Nat)
  /-- The scrubber reads each line once per period and corrects or poisons it (R533). -/
  | scrub (ch addr : Nat) (e : EccResult)
  /-- The firmware rebuilds a scrub-poisoned line or yields the head (R533). -/
  | ueScrubHandle (ch : Nat) (page : Option (Nat × Nat))
  /-- Puts a DRAM channel into self-refresh (R534). -/
  | srEnter (m ch width : Nat) (v : W64)
  /-- Takes a DRAM channel out of self-refresh (R534). -/
  | srExit (m ch width : Nat) (v : W64)
  /-- Enters SERVICE when the head owns no pool (R537). -/
  | serviceEnter (call : Nat)
  /-- Leaves SERVICE for JOINING or SOLO (R536). -/
  | serviceLeave (call : Nat)
  /-- Cleans the cache, puts DRAM in self-refresh and powers domains down (R538). -/
  | standbyEnter (call : Nat)
  /-- Powers domains up and returns to SERVICE (R538). -/
  | standbyLeave (call : Nat)
  /-- Erases unowned modules and fills DRAM, or aborts the wipe (R539). -/
  | deviceWipe (call : Option Nat) (m result : Nat)
  /-- Writes the power record (R546). -/
  | powerStatus (call : Nat)
  /-- A write of PWR.RESET starts a SOFTWARE reset (R540). -/
  | pwrReset (m width : Nat) (v : W64)
  /-- RESET_N low for 1 µs starts a PIN reset (R540). -/
  | resetN
  /-- After HOLD_S seconds in QUARANTINE the head resets itself unless AUTO_LIMIT is reached (R542). -/
  | quarantineAuto
  /-- AUTO_COUNT returns to 0 after an hour without an automatic reset (R542). -/
  | autoCountReset
  /-- A rail outside its warning band for 10 µs sets SUPPLY_WARN (R555). -/
  | supplyWarn
  /-- A rail outside its operating range for 1 µs yields the head with CAUSE 4 (R555). -/
  | supplyFault
  /-- Tj above 100 °C sets THERMAL_WARN and drives TEMP_ALERT_N low (R566). -/
  | thermalWarn (tj : BitVec 16)
  /-- Tj above 115 °C for 100 µs yields the head with CAUSE 3 (R566). -/
  | thermalShutdown (tj : BitVec 16)
  /-- Loss of the standby rail stops domain 0 and loses the Summit Book (R558). -/
  | standbyRailLost
  /-- An SMBus Block Read of code 0x01 returns the power record (R562). -/
  | smbusBlockRead (addr code : Nat)
  /-- TIME advances by one every 16 CLK_CORE cycles, or by four every CLK_AON cycle, at the rate the rope slew sets (R523). -/
  | timeTick
  /-- The endpoint link returns after a loss, LINK_UP is set, and the warden releases a frozen PCIe function (R426). -/
  | pcieLinkUp (speed : Nat) (width : Raced Nat (Nat × Nat × Bool))
  /-- Release of RESET_N ends a PIN reset, so the domain sequence continues and the head enters BOOT (R536). -/
  | resetNRelease
  /-- A host sub-port link comes up, LINK_UP is set, and MKA can install a secure association (R373). -/
  | subportLinkUp (port sub : Nat)
  /-- The Cairn port loses its link synchronisation and sets LINK_LOST (R325). -/
  | cairnLinkLost
  /-- A replication pair's TCP connection is lost and the round's PHASE becomes PAUSED (R362). -/
  | replConnectionLost (pool pair : Nat)
  /-- The zero wipe of an on-chip memory ends within 250 µs of its domain's power-up or reset, making it readable and setting SRAM_DONE (R485). -/
  | memoryWipeDone (group : Nat)
  deriving DecidableEq, Repr

end Sys2Proof
end

