-- ==== Sys2Proof/Config.lean ====
section
/-! DEFINITION. What one part or one run fixes and the spec leaves open: uninterpreted constants.
Nothing in Lean can evaluate one, so a statement about a result that uses one holds for every value of it.
Each is named in the assumption log. -/

namespace Sys2Proof.Config

/-- A free choice the spec leaves to the hardware or the shipped firmware, one for each value of the
counter `State.freeCtr` (log entry 3): which granules, slots, ways, handles, units and segments are taken. -/
opaque free : Nat → Nat

/-- A free 64-bit value, for results the spec calls undefined or leaves unstated (log entry 3). -/
opaque freeWord : Nat → BitVec 64

/-- One byte of an output whose contents the spec calls undefined (R162, R387, R438) or random (R458); log entry 3. -/
opaque freeByte : Nat → Nat → BitVec 8

/-- RSASSA-PSS verification (R466) of a message (second) and signature (third) under a modulus (first):
the standard is cited, not restated, by the spec (log entry 20). -/
opaque rsaVerify : Bytes → Bytes → Bytes → Bool

/-- SLH-DSA-SHA2-256s verification (R466), as above. -/
opaque slhVerify : Bytes → Bytes → Bytes → Bool

/-- RSASSA-PSS signature with the head's identity key (R472), by lifecycle generation. -/
opaque rsaSign : Nat → Bytes → Bytes

/-- SLH-DSA signature with the head's identity key (R472), by lifecycle generation. -/
opaque slhSign : Nat → Bytes → Bytes

/-- The four DER certificates of IDENTITY_CERTS (R470), by lifecycle generation and index. -/
opaque cert : Nat → Nat → Bytes

end Sys2Proof.Config
end

