-- ==== Sys2Proof/Machine/State.lean ====
section
/-! DEFINITION. The state of the block: every register, buffer, queue, counter, mode and pin the spec gives
the CK960, as plain data, and the queue of waiting commands. -/

namespace Sys2Proof.Machine

/-- The reasons a command can stop the model with a fault. -/
inductive Fault where
  /-- Kept for a behaviour the spec calls unpredictable without naming an effect. No meaning raises it: safe. -/
  | unspecified (what : String)
  deriving DecidableEq, Repr

/-- The reasons a command can be refused. -/
inductive Refusal where
  /-- Raised by an arm of the dispatcher whose command has no meaning yet: safe. -/
  | notModelled (mnemonic : String)
  deriving DecidableEq, Repr

/-- What leaves the block on its links and pins. -/
inductive Out where
  /-- an MSI-X message (R413) -/
  | msix (fn vec : Nat)
  /-- a posted write of PF0 (R414) -/
  | hostWrite (addr : Nat) (data : Bytes)
  /-- a parameter read (R415) -/
  | hostRead (addr len : Nat)
  /-- a rope frame (R314) -/
  | rope (frame : Bytes)
  /-- the rope's link handshake (R464) -/
  | ropeNonce (nonce check : Bytes)
  /-- a Cairn message (R325) -/
  | cairn (msg : Bytes)
  /-- a replication message on a pair's connection (R357) -/
  | repl (pool pair : Nat) (msg : Bytes)
  /-- a pair's connection is closed (R362) -/
  | replClose (pool pair : Nat)
  /-- an NVMe completion; st is the status field [14:0] of R93 -/
  | nvme (queue cid sqhd : Nat) (st : Nat) (dw0 dw1 : Nat)
  /-- read data to a host (R386) -/
  | hostData (queue cid off : Nat) (data : Bytes)
  /-- an XRDY PDU or RDMA Read request (R385) -/
  | xrdy (queue cid ttag off len : Nat)
  /-- a C2HTermReq (R393) -/
  | termReq (queue fes fei : Nat)
  /-- an Asynchronous Event (R383, R399) -/
  | aen (cntlid info page : Nat)
  /-- the completion of a fabrics Connect (R377) -/
  | connectReply (port sub cntlid qid st : Nat)
  /-- a datagram of the service port to an IPv4 address and a UDP port (R487) -/
  | svc (addr udp : Nat) (datagram : Bytes)
  /-- a console answer (R488) -/
  | console (text : Bytes)
  /-- an SMBus Block Read (R562) -/
  | smbus (block : Bytes)
  /-- the completion of an inbound read of a function: 0 Successful, 1 Unsupported Request, 4 Completer Abort (R417, R425) -/
  | pcieReply (fn status : Nat) (data : Bytes)
  deriving DecidableEq, Repr

/-! ### Climbs, cores and jobs (02, 03) -/

/-- Climb states (R36). -/
inductive CState where
  | free | ready | running | waiting | parked
  deriving DecidableEq, Repr

/-- A token (R48), with its completion word when DONE (R49). -/
inductive Tok where
  | idle
  | pending
  | done (word : W64)
  deriving DecidableEq, Repr

/-- A queued accelerator or port job (R83–R85): the copied descriptor and handle values of R84. -/
structure Job where
  cid     : Nat
  tok     : Nat
  cls     : Nat
  ordered : Bool
  desc    : Bytes
  /-- handle values in descriptor order, the primary handle first -/
  handles : List W64
  ridge   : Nat
  /-- CODER lane, or the port of a port class -/
  lane    : Nat
  profile : Nat
  /-- it occupies its CODER lane (R144) -/
  started : Bool := false
  /-- accepted after its pool's key slot began to be unloaded (R202) -/
  noKey   : Bool := false
  deriving DecidableEq, Repr

/-- What a WAITING climb waits for (R36, R37). -/
inductive Await where
  | none
  | token (mask : Nat)
  | alloc (bytes hd : Nat)
  /-- a library route's buffer for the data of its host command (R14, R51) -/
  | data (bytes : Nat)
  | queue (j : Job)
  deriving DecidableEq, Repr

/-- Why a climb left its program (R38, R49, R63, R65). -/
inductive EndWhy where
  | running
  | exit (code : Nat)
  | trap (cause : Nat)
  | freeze
  deriving DecidableEq, Repr

/-- What a climb was allocated for (R43, R68). -/
inductive Origin where
  | none
  | host (cmd : Nat)
  | call (call : Nat)
  | spawn
  | keeper (window : Nat)
  /-- the background job of a LOP entry (R15, R68) -/
  | job (entry : Nat)
  | library
  deriving DecidableEq, Repr

/-- One climb (R35–R39, R46–R48, R63). -/
structure Climb where
  state       : CState
  /-- the core on which it is resident (R40) -/
  core        : Option Nat
  bg          : Bool
  slot        : Nat
  g           : List W64
  h           : List W64
  t           : List Tok
  pc          : W64
  tpc         : W64
  tcause      : Nat
  tval        : W64
  trapActive  : Bool
  tlast       : Nat
  parent      : Option Nat
  parentTok   : Nat
  wakePending : Bool
  /-- TIME of the last state change -/
  since       : W64
  /-- order in which climbs became READY or WAITING, and in which they were freed (R40, R41, R47) -/
  stamp       : Nat
  /-- cycles RUNNING counted toward the watchdog (R44) -/
  run         : Nat
  /-- cycles since dispatch, for the quantum (R37) -/
  quant       : Nat
  await       : Await
  deadline    : Option W64
  /-- destination register of a PARK (R98) -/
  parkRd      : Nat
  ended       : EndWhy
  origin      : Origin
  deriving DecidableEq, Repr

/-- A FREE climb as after reset (R36, R47, R48). -/
def Climb.fresh : Climb :=
  { state := .free, core := none, bg := false, slot := 0, g := List.replicate 32 0,
    h := List.replicate 16 0, t := List.replicate 8 .idle, pc := 0, tpc := 0, tcause := 0, tval := 0,
    trapActive := false, tlast := 0, parent := none, parentTok := 0, wakePending := false, since := 0,
    stamp := 0, run := 0, quant := 0, await := .none, deadline := none, parkRd := 0, ended := .running,
    origin := .none }

/-- A datapath core (R34, R41, R65, R477). -/
structure DCore where
  running    : Option Nat
  share      : Nat
  busyCycles : W64
  switches   : W64
  freezeInfo : W64
  frozen     : Bool
  frozenAt   : W64
  /-- TIME of each freeze of the last 24 hours (R477) -/
  freezes    : List W64
  deriving DecidableEq, Repr

def DCore.fresh : DCore :=
  { running := none, share := 0, busyCycles := 0, switches := 0, freezeInfo := 0, frozen := false,
    frozenAt := 0, freezes := [] }

/-- A management core (R34, R69, R99–R102). -/
structure MCore where
  g          : List W64
  pc         : W64
  tpc        : W64
  tcause     : Nat
  tval       : W64
  trapActive : Bool
  trapvec    : W64
  irqmask    : Nat
  fwscratch  : W64
  syscount   : W64
  running    : Bool
  frozen     : Bool
  halted     : Bool
  sleeping   : Bool
  /-- TIME of the last kick of its watchdog bit (R479) -/
  kickedAt   : W64
  deriving DecidableEq, Repr

def MCore.fresh : MCore :=
  { g := List.replicate 32 0, pc := 0, tpc := 0, tcause := 0, tval := 0, trapActive := false, trapvec := 0,
    irqmask := 0, fwscratch := 0, syscount := 0, running := false, frozen := false, halted := false,
    sleeping := false, kickedAt := 0 }

/-- A live ridge buffer (R51–R53). -/
structure Buf where
  base  : Nat
  grans : Nat
  bytes : Nat
  owner : Nat
  deriving DecidableEq, Repr

/-- Where a route call stands (R59–R62, R411–R423). -/
inductive CallPhase where
  | held
  | handover
  | reading
  | running
  | ended
  deriving DecidableEq, Repr

/-- A route call that the dispatcher has taken (R56–R62). -/
structure Call where
  internal  : Bool
  entry     : Bytes
  phase     : CallPhase
  cid       : Option Nat
  ridge     : Nat
  /-- handle of the parameter buffer, null when PARAM_LEN is 0 -/
  param     : W64
  /-- bytes of the parameter read still due (R415) -/
  due       : Nat
  /-- the pieces of it that have arrived: position and length (R415, R416) -/
  got       : List (Nat × Nat) := []
  /-- its completions are discarded (R412, R424) -/
  discarded : Bool
  deriving DecidableEq, Repr

/-! ### Summit Book (17) -/

/-- A Summit Book record on its way into the book (R504, R509). -/
structure SbkRec where
  source  : Nat
  typ     : Nat
  flags   : Nat
  payload : Bytes
  /-- the SEND that wrote it, to be completed at storage (R96) -/
  job     : Option Nat
  deriving DecidableEq, Repr

/-- A staging buffer of R507. -/
structure SbkStage where
  hdr        : W64
  payload    : Bytes
  /-- low half of a word that waits for its high half -/
  low        : Option Bytes
  deriving DecidableEq, Repr

/-- The Summit Book (R504–R517). -/
structure Sbk where
  fill         : Nat
  gen          : Nat
  frozen       : Bool
  full         : Bool
  fullMissed   : Nat
  frozenMissed : Nat
  nonce        : Option Bytes
  nonceAt      : W64
  /-- a clear in progress: the writer's master code, the token as it stood, and the expected token -/
  clearing     : Option (Nat × Bytes × Bytes)
  thawAt       : W64
  queue        : List SbkRec
  stages       : Tbl SbkStage
  /-- commits held until the accepted space has room, by master (R509) -/
  heldCommits  : List (Nat × SbkStage) := []
  lenErrors    : BitVec 32
  rejected     : BitVec 32
  clearsDone   : BitVec 32
  clearsRefused : BitVec 32
  /-- the book's bytes below FILL -/
  book         : Tbl Byte
  deriving DecidableEq, Repr

/-! ### PCIe endpoint (13) -/

/-- MSI-X state of one function (R403, R413). -/
structure Msix where
  enable : Bool
  fmask  : Bool
  vmask  : Nat
  pba    : Nat
  deriving DecidableEq, Repr

/-- A posted write of PF0 that waits for Bus Master Enable (R423). -/
structure Posted where
  addr   : Nat
  data   : Bytes
  /-- call whose writeback this is -/
  call   : Option Nat
  /-- call whose completion entry this is -/
  cpl    : Option Nat
  since  : W64
  deriving DecidableEq, Repr

/-- A completion waiting for a place in the completion queue (R411). -/
structure Cpl where
  call   : Nat
  entry  : Bytes
  notify : Bool
  deriving DecidableEq, Repr

/-- The PCIe endpoint (R402–R426). -/
structure Pep where
  linkUp     : Bool
  speed      : Nat
  width      : Nat
  bme0       : Bool
  bme1       : Bool
  mse0       : Bool
  mse1       : Bool
  frozen0    : Bool
  frozen1    : Bool
  flrBusy0   : Bool
  flrBusy1   : Bool
  msix0      : Msix
  msix1      : Msix
  keyway     : Bytes
  /-- call entry slots (R404) -/
  slots      : Tbl Byte
  sqHead     : Nat
  sqTail     : Nat
  cqHead     : Nat
  cqTail     : Nat
  phase      : Bool
  /-- entries copied at the doorbell and not yet dispatched -/
  queue      : List Bytes
  cplWait    : List Cpl
  posted     : List Posted
  dispatched : BitVec 32
  completed  : BitVec 32
  /-- COMMITs in progress by window (R418) -/
  commits    : List Nat
  /-- keeper climb of a bound window (R422) -/
  keepers    : Tbl Nat
  /-- parameter reads that ended early, and the bytes still due of each (R416, R424) -/
  late       : Tbl Nat := []
  /-- the link has gone down and returned while a function was frozen (R425, R477) -/
  retrained  : Bool
  deriving DecidableEq, Repr

/-! ### Warden and lifecycle (15) -/

/-- The fuses of R457. -/
structure Fuses where
  serial     : W64
  macBase    : Nat
  part       : Nat
  ridges     : Nat
  hifs       : Nat
  drcs       : Nat
  mpcs       : W64
  keyHashRsa : List Bytes
  keyHashSlh : List Bytes
  revoke     : Nat
  dus        : Bytes
  lc         : Nat
  svn        : Nat
  deriving DecidableEq, Repr

/-- A record of the key area (R461), with its value as the area key unwraps it. -/
structure KeyRec where
  kind   : Nat
  index  : Nat
  value  : Bytes
  genRec : Nat
  deriving DecidableEq, Repr

/-- The warden's own state (R456–R486). -/
structure Wdn where
  romDone    : Bool
  verified   : Bool
  slot       : Nat
  fallback   : Bool
  trngOk     : Bool
  /-- TIME at which the present run of failed health tests began (R458) -/
  failsSince : Option W64
  /-- requests since the last reseed, and the TIME of it (R458) -/
  drbgReqs   : Nat
  reseedAt   : W64
  resultA    : Nat
  resultB    : Nat
  runningSvn : Nat
  /-- key slots that verified the running manifest: RSA, SLH (LCS.KEYSLOTS) -/
  rsaSlot    : Nat
  slhSlot    : Nat
  meas       : List Bytes
  doorbell   : Nat
  keyArea    : List KeyRec
  areaBlank  : Bool
  changing   : Bool
  /-- a lifecycle change from a Dravbor token lets the ladder serve early, with this generation (R460) -/
  ladderGen  : Option Nat
  jtagOpen   : Bool
  /-- the call whose quote is being made (R472) -/
  quoting    : Option Nat
  sramDone   : Bool
  dramDone   : Nat
  /-- bytes of the read-only route range from SYS.ROUTE_BASE (R54) -/
  routeLen   : Nat
  /-- TIME of the warden core's own watchdog kick (R479) -/
  kickedAt   : W64
  deriving DecidableEq, Repr

/-! ### Power, clocks and reset (18, 19) -/

/-- One DRAM channel (R531–R534). -/
structure Drc where
  present  : Bool
  trained  : Bool
  selfRef  : Bool
  slow     : Bool
  sizeGib  : Nat
  ranks2   : Bool
  rate     : Nat
  result   : Nat
  trainMs  : Nat
  filled   : Bool
  deriving DecidableEq, Repr

def Drc.fresh : Drc :=
  { present := false, trained := false, selfRef := false, slow := false, sizeGib := 0, ranks2 := false,
    rate := 0, result := 0, trainMs := 0, filled := false }

/-- Power, clocks, reset and modes (R520–R542, R555–R566). -/
structure Pwr where
  mode       : Nat
  prev       : Nat
  modeTime   : W64
  domains    : Nat
  seqBusy    : Bool
  seqLast    : Nat
  kind       : Nat
  source     : Nat
  autoCount  : Nat
  autoAt     : List W64
  faultDomain : Nat
  hasFault   : Bool
  tjNow      : Nat
  tjPeak     : Nat
  refOk      : Bool
  pllLock    : Bool
  holdover   : Bool
  aonInternal : Bool
  refLostSeen : Bool
  /-- pins: PWR_GOOD, RESET_N released, standby rail good -/
  pwrGood    : Bool
  resetN     : Bool
  standby    : Bool
  tempAlertN : Bool
  smbAlertN  : Bool
  yieldN     : Bool
  peerYieldN : Bool
  headSel    : Bool
  /-- bytes wiped per on-chip memory group still outstanding (R485) -/
  wiping     : List Nat
  /-- a single domain being switched at run time (R530) -/
  single     : Option Nat
  deriving DecidableEq, Repr

/-! ### Units of a ridge (04, 05, 06) -/

/-- A digest context (R116, R117): its owner and the bytes hashed so far. -/
structure DigCtx where
  owner : Nat
  data  : Bytes
  deriving DecidableEq, Repr

/-- A map cache entry (R190, R193): the line address and whether it is dirty. -/
structure CLine where
  line  : Nat
  dirty : Bool
  stamp : Nat
  deriving DecidableEq, Repr

/-- The map cache (R190–R199). -/
structure Mapc where
  /-- reset invalidation and wipe running (R198) -/
  wiping : Bool
  /-- the main array by 16 set + way -/
  main   : Tbl CLine
  /-- the victim cache by entry, 0 to 1,023 -/
  victim : Tbl CLine
  /-- DRAM's own 256 bytes of each dirty line, by line address -/
  dramOld : Tbl Bytes
  /-- what the data array still holds of a dropped main-array entry (R199) -/
  ghost  : Tbl Bytes
  /-- the maintenance operation in progress: its lines still to do -/
  maint  : Bool
  deriving DecidableEq, Repr

/-- A Notch context (R119–R126). -/
structure NchCtx where
  /-- owner's master code -/
  owner  : Nat
  key    : Bytes
  data   : Bytes
  started : Bool
  busy   : Bool
  /-- the final word has been fed -/
  last   : Bool
  done   : Bool
  digest : Bytes
  /-- CTL and the key bytes as START loaded them (R124) -/
  ctl    : W64 := 0
  loaded : Bytes := []
  deriving DecidableEq, Repr

/-- An entry of a pool's index store (R127): digest, chunk length, chunk handle, TOMBSTONE. -/
structure IdxEntry where
  digest : Bytes
  len    : Nat
  handle : Nat
  tomb   : Bool
  deriving DecidableEq, Repr
/-! ### Firmware update (16) -/

/-- A hinge record (R490). -/
structure HRec where
  state  : Nat
  reason : Nat
  gen    : Nat
  time   : W64
  len    : Nat
  sender : Nat
  deriving DecidableEq, Repr

/-- A boot NOR device (R489): its image area by offset, unlisted bytes reading as erased (0xFF), and its hinge records in
order of writing. The key area of R461 is held in `Wdn`. -/
structure Nor where
  image : Tbl Byte
  recs  : List HRec
  deriving DecidableEq, Repr

/-- The open Hinge Transfer session (R494-R496). -/
structure HtSession where
  id      : Nat
  addr    : Nat
  udp     : Nat
  total   : Nat
  got     : Nat
  /-- DATA accepted since the last ACK, and the TIME of the last accepted DATA -/
  since   : Nat
  dataAt  : W64
  /-- TIME of the last valid datagram of the session -/
  heardAt : W64
  slot    : Nat
  deriving DecidableEq, Repr

/-- The update receiver (R487-R503). -/
structure Upd where
  slots   : Tbl Nor
  /-- TIME at which ARMED clears -/
  armTo   : Option W64
  session : Option HtSession
  /-- the call of a hinge-over in progress (R500) -/
  hinge   : Option Nat
  deriving DecidableEq, Repr

def Nor.fresh : Nor := { image := [], recs := [] }
def Upd.fresh : Upd := { slots := [], armTo := none, session := none, hinge := none }

/-- A device wipe in progress (R539): the modules still to erase, the others with 0 erased, 1 lost or 2 failed, and the
bytes processed. -/
structure WipeJob where
  left    : List Nat
  ended   : List (Nat × Nat)
  done    : Nat
  total   : Nat
  start   : W64
  /-- channels whose fill has not ended -/
  filling : List Nat
  deriving DecidableEq, Repr

/-! ### Host fabric (12) -/

/-- How far a host command has come (R16, R384–R397). -/
inductive CmdPhase where
  /-- in the intake -/
  | intake
  /-- taken by a climb; its lock entries may still wait -/
  | taken
  /-- running, all entries granted -/
  | running
  /-- its record group has been accepted by the ROPE unit -/
  | accepted
  /-- forwarded to the owner over the rope -/
  | forwarded
  /-- abandoned or finished: only outstanding work remains -/
  | over
  deriving DecidableEq, Repr

/-- Why a command failed before its completion: SCT, SC, DNR (R393, R394, R68, R17). -/
structure NvmeStatus where
  sct : Nat
  sc  : Nat
  dnr : Bool
  /-- the Command Retry Delay and More fields, which only a HIF COMPLETE gives (R93) -/
  crd : Nat := 0
  more : Bool := false
  deriving DecidableEq, Repr

/-- An XRDY PDU or RDMA Read outstanding (R385, R386). -/
structure Xrdy where
  ttag : Nat
  /-- the RECEIVE job it serves, none for a library command's own, and the buffer -/
  job  : Option Nat
  h    : W64
  off  : Nat
  len  : Nat
  /-- next byte expected -/
  next : Nat
  /-- the range is being read and discarded (R394) -/
  drop : Bool
  deriving DecidableEq, Repr

/-- One host command in the head (R380–R397). -/
structure HCmd where
  queue   : Nat
  cap     : Capsule
  phase   : CmdPhase
  climb   : Option Nat
  /-- CMD_ID when the peer forwarded it to this head (R309) -/
  fwd     : Option Nat
  fail    : Option NvmeStatus
  xrdys   : List Xrdy
  /-- transfer ranges already received or under receipt (R387) -/
  ranges  : List (Nat × Nat)
  data    : Bytes
  /-- a completion that the holds of R318 and R336 keep back -/
  heldCpl : Option (NvmeStatus × Nat × Nat)
  /-- the HIF COMPLETE job has run (R387) -/
  completed : Bool
  /-- ROPE acknowledgement received; landed copies; SEQ of the record group (R16) -/
  acked   : Bool
  seq     : Option Nat
  /-- program completions still due before the write has landed, and when the second module was sought (R16, R17) -/
  progs   : Nat
  retryAt : Option W64
  /-- the connection was lost (R397) -/
  lost    : Bool
  /-- TIME from which the present wait is measured: search of R244, receipt -/
  since   : W64
  /-- the chunk whose search it waits for (R244) -/
  search  : Option Nat
  /-- the snapshot and namespace that it reads, as they stood at its arrival (R352, R365) -/
  snap    : Option (Nat × Nat)
  /-- read data that leaves with its completion -/
  rdata   : Bytes
  /-- it has found the lock table full, and has been counted (R390) -/
  stalled : Bool
  /-- the buffer that its climb has been given and not yet used (R14, R51) -/
  granted : Option W64 := none
  deriving DecidableEq, Repr

/-- A range-lock entry, in the order of entry (R388, R389). -/
structure Lock where
  cmd     : Option Nat
  nsid    : Nat
  start   : Nat
  len     : Nat
  key     : Option Bytes
  write   : Bool
  granted : Bool
  /-- from the 1,024 reserved entries: merges, in-doubt locks, forwarded commands -/
  reserved : Bool
  /-- SEQ and pool of the pending group behind an in-doubt lock (R334) -/
  doubt   : Option (Nat × Nat)
  /-- a merge's entry, which no read waits for (R187) -/
  merge   : Bool := false
  deriving DecidableEq, Repr

/-- A queue of a controller (R375, R379); admin queues have qid 0. -/
structure HQueue where
  port    : Nat
  sub     : Nat
  ridge   : Nat
  rdma    : Bool
  depth   : Nat
  sqhd    : Nat
  /-- SQHD as it stood when a hold began (R336) -/
  heldSqhd : Option Nat
  cntlid  : Nat
  qid     : Nat
  hdgst   : Bool
  ddgst   : Bool
  /-- XRDY PDUs the host granted in ICReq (R385) -/
  grant   : Nat
  authed  : Bool
  frozen  : Bool
  /-- the port has stopped reading the connection's stream (R384) -/
  stopped : Bool
  /-- TIME of the loss (R396–R398) -/
  lostAt  : Option W64
  kato    : Nat
  /-- TIME of the last traffic (R375) -/
  heardAt : W64
  deriving DecidableEq, Repr

/-- A controller (R374–R383, R399). -/
structure HCtrl where
  nqn     : Bytes
  port    : Nat
  sub     : Nat
  /-- Error Information entries, newest first, 256 at most -/
  errors  : List (NvmeStatus × Nat × Nat)
  errCount : Nat
  anaNotice : Bool
  /-- Namespace Attribute Changed notices enabled, and the Changed Namespace List (R203) -/
  nsNotice  : Bool
  changed   : List Nat
  deriving DecidableEq, Repr

/-- A host entry (R377, R378, R401). -/
structure HostEntry where
  nqn    : Bytes
  flags  : Nat
  hash   : Nat
  dh     : Nat
  secret : Bytes
  ctrl   : Bytes
  /-- INDEX of the host's record in the key area (R461) -/
  idx    : Nat := 0
  deriving DecidableEq, Repr

/-- A secure association (R372, R373). -/
structure SecAssoc where
  tx  : Bool
  sci : Nat
  an  : Nat
  key : Bytes
  /-- next packet number to send, or the lowest acceptable one -/
  pn  : Nat
  deriving DecidableEq, Repr

/-- A sub-port (R369–R373). -/
structure SubPort where
  up       : Bool
  downAt   : W64
  speed    : Nat
  entry    : Bytes
  sas      : List SecAssoc
  inUse    : Option Nat
  mka      : Bool
  rxBytes  : W64
  txBytes  : W64
  deriving DecidableEq, Repr

def SubPort.fresh : SubPort :=
  { up := false, downAt := 0, speed := 0, entry := [], sas := [], inUse := none, mka := false, rxBytes := 0,
    txBytes := 0 }

/-- The host side of the head (12). -/
structure HostSide where
  queues   : Tbl HQueue
  ctrls    : Tbl HCtrl
  cmds     : Tbl HCmd
  /-- order of creation of I/O queues, for the bindings of R14 -/
  created  : Nat
  locks    : List Lock
  lockPeak : Nat
  hosts    : List HostEntry
  nqn      : Bytes
  subs     : Tbl SubPort
  anaCount : Nat
  /-- an ANA change came while the outputs were held (R336) -/
  anaDue : Bool := false
  nextTtag : Nat
  deriving DecidableEq, Repr

/-! ### Pairing, the rope and the Cairn (10) -/

/-- One direction's session material (R314, R317). -/
structure RopeKey where
  session : Nat
  key     : Bytes
  deriving DecidableEq, Repr

/-- The rope (R312–R321). -/
structure Rope where
  linkUp     : Bool
  /-- lanes up, as a mask (R313) -/
  lanes      : Nat
  degraded   : Bool
  /-- TIME since which 8 or more lanes have been up (R313) -/
  goodSince  : Option W64
  /-- TIME at which the rope degraded (R339) -/
  degradedAt : W64
  txKey      : Option RopeKey
  rxKey      : Option RopeKey
  /-- the key a REKEY frame named, for receiving from the first frame of the new session (R317) -/
  rxNext     : Option RopeKey
  txCount    : Nat
  rxCount    : Nat
  /-- frames sent and not acknowledged, oldest first: COUNTER and bytes (R316) -/
  unacked    : List (Nat × Bytes)
  /-- TIME of the last ACK progress (R316) -/
  ackAt      : W64
  sessionAt  : W64
  rekeys     : Nat
  /-- sessions derived since the link came up (R464) -/
  linkRekeys : Nat
  nonces     : Option (Bytes × Bytes)
  hbNo       : Nat
  /-- heartbeats sent and not yet echoed: HB_NO and TIME (R318) -/
  hbSent     : List (Nat × W64)
  leaseTo    : W64
  lease      : Bool
  peerHb     : Nat
  missed     : Nat
  suspect    : Bool
  timeSynced : Bool
  master     : Bool
  /-- last measured offset in ns, as a 32-bit signed word (R320) -/
  offset     : BitVec 32
  /-- slew in force, in 1/256 ppm (CLK.SLEW) -/
  slew       : BitVec 32
  exchangeAt : W64
  /-- a joining head holds TIME still until the master catches up (R321) -/
  holdTime   : Bool
  peerMode   : Nat
  peerOwned  : Nat
  peerShadowed : Nat
  peerFlags  : Nat
  hbSentCnt  : W64
  hbMissed   : W64
  badAuth    : BitVec 32
  badFormat  : BitVec 32
  retrans    : W64
  /-- frames put off while 2 MiB wait for acknowledgement: TYPE and payload, oldest first (R316) -/
  putOff     : List (Nat × Bytes) := []
  deriving DecidableEq, Repr

/-- A VOTE_REQUEST that the Cairn has not answered (R330). -/
structure Vote where
  mseq   : Nat
  pools  : Nat
  reason : Nat
  deriving DecidableEq, Repr

/-- The Cairn port (R325–R328). -/
structure Crn where
  linkUp     : Bool
  lease      : Bool
  leaseTo    : W64
  ownInc     : Nat
  count      : Nat
  /-- the Cairn's INCARNATION and highest COUNT recorded (R326); 0 before the first -/
  inc        : Nat
  seen       : Nat
  /-- MSEQ of the newest Cairn HEALTH whose CRC and MAC verify (R327) -/
  echo       : Nat
  /-- own HEALTH messages sent: MSEQ and TIME (R318, R326) -/
  sent       : List (Nat × W64)
  peerAlive  : Bool
  owned      : Nat
  term       : W64
  votes      : List Vote
  /-- a denied request to be repeated, with the TIME of the denial (R330) -/
  retry      : Option (Vote × W64)
  msgSent    : BitVec 32
  msgAccepted : BitVec 32
  /-- messages other than HEALTH sent within the last 1 ms: MSEQ and TIME (R326) -/
  others     : List (Nat × W64) := []
  deriving DecidableEq, Repr

/-- A fencing in progress (R332, R333). -/
structure Fence where
  pools   : Nat
  term    : W64
  reason  : Nat
  /-- modules whose preempt has not completed -/
  left    : List Nat
  fenced  : Nat
  missing : Nat
  since   : W64
  deriving DecidableEq, Repr

/-- The pair: yield, holds and switch-over (R329–R342). -/
structure Pair where
  headIdClash : Bool
  yielded    : Bool
  yieldCause : Nat
  /-- every host-facing output is held (R318, R329, R336) -/
  holdAll    : Bool
  /-- pools whose outputs are held (R331, R341) -/
  holdPools  : Nat
  fence      : Option Fence
  /-- the peer yielded, so owned pools follow SOLO rules (R331) -/
  solo       : Bool
  switches   : Nat
  lastSwitch : W64
  lastGap    : Nat
  /-- joining: pools of which this head has become live shadow -/
  caughtUp   : Nat
  /-- pools for which the peer is a live shadow -/
  peerCaught : Nat
  /-- the peer is joining (R340) -/
  joining    : Bool
  /-- pools in a planned move: pool and direction, 0 releasing, 1 receiving (R341) -/
  moves      : Tbl Nat
  faultAt    : W64
  /-- pools created beside a serving peer that it has not yet caught up with (R205) -/
  newPools   : Nat := 0
  deriving DecidableEq, Repr

/-! ### Module ports and modules (14) -/

/-- A tagged page of a module: its 4,096 data bytes and 64 tag bytes, and whether the medium can return it (R438). -/
structure FPage where
  bytes : Bytes
  bad   : Bool
  deriving DecidableEq, Repr

/-- One slab of a module (R436, R437, R439, R442). -/
structure MSlab where
  /-- 0 erased, 1 QLC, 2 SLC -/
  mode    : Nat
  /-- next unprogrammed slab row in QLC mode -/
  row     : Nat
  pages   : Tbl FPage
  /-- bound offset set -/
  oset    : Nat
  /-- append table: HEAD, SEQ, first page -/
  appends : List (Nat × Nat × Nat)
  deriving DecidableEq, Repr

def MSlab.fresh : MSlab := { mode := 0, row := 0, pages := [], oset := 0, appends := [] }

/-- A module below a port (R429–R433, R446–R450). -/
structure Modu where
  present    : Bool
  admitted   : Bool
  refused    : Bool
  lost       : Bool
  detached   : Bool
  registered : Bool
  /-- this head holds the Write Exclusive reservation -/
  held       : Bool
  /-- the other head holds it -/
  foreign    : Bool
  ident      : Ident
  slabs      : Tbl MSlab
  /-- TIME of each timeout of the last 10 s (R448) and of each LENGTH ending of the last 60 s (R446) -/
  timeouts   : List W64
  lengths    : List W64
  lostAt     : W64
  /-- slabs of the present run of reads that completed as unreadable (R285) -/
  unreadable : List Nat
  critical   : Nat
  /-- the reservation key that this head has registered (R332); 0 while it has registered none -/
  regKey     : Nat := 0
  deriving DecidableEq, Repr

def Modu.fresh : Modu :=
  { present := false, admitted := false, refused := false, lost := false, detached := false, registered := false,
    held := false, foreign := false, ident := Ident.none, slabs := [], timeouts := [], lengths := [], lostAt := 0,
    unreadable := [], critical := 0 }

/-- A module port's link (R428, R429). -/
structure MPort where
  up       : Bool
  speed    : Nat
  width    : Nat
  flit     : Bool
  expander : Bool
  deriving DecidableEq, Repr

def MPort.fresh : MPort := { up := false, speed := 0, width := 0, flit := false, expander := false }

/-! ### Pools (06–11) -/

/-- This head's relation to a pool (R307). -/
inductive Rel where
  | none | owner | shadow
  deriving DecidableEq, Repr

/-- The pool parameters of R204. -/
structure PoolCfg where
  k        : Nat
  dedup    : Bool
  verify   : Bool
  maskBits : Nat
  days     : Nat
  minLen   : Nat
  maxLen   : Nat
  gib      : Nat
  sparePml : Nat
  promote  : Nat
  demote   : Nat
  decay    : Nat
  deriving DecidableEq, Repr

/-- A chunk-store record (R188): its two words. -/
structure CRec where
  loc : Nat
  ref : Nat
  deriving DecidableEq, Repr

/-- A run of a pitch (R178). -/
structure Run where
  handle : Nat
  nchunk : Nat
  pos    : Int
  deriving DecidableEq, Repr

/-- A valid hold entry (R181). -/
structure Hold where
  handle : Nat
  heat   : Nat
  zero   : Bool
  deriving DecidableEq, Repr

/-- A pitch line with its extension and hold pages (R177–R181). -/
structure Line where
  fixed   : Bool
  heat    : Nat
  runs    : List Run
  holds   : Tbl Hold
  holdMpn : Nat
  extMpn  : Nat
  /-- TIME of the last change (R263) -/
  time    : W64
  deriving DecidableEq, Repr

def Line.fresh : Line := { fixed := false, heat := 0, runs := [], holds := [], holdMpn := 0, extMpn := 0, time := 0 }

/-- A page directory entry (R174) and the climbs that wait for the page (R175). -/
structure DirE where
  present  : Bool
  resident : Bool
  dirty    : Bool
  loading  : Bool
  flash    : Nat
  epoch    : Nat
  waiters  : List Nat
  /-- DRAM address of the page while RESIDENT -/
  addr     : Nat := 0
  deriving DecidableEq, Repr

def DirE.fresh : DirE :=
  { present := false, resident := false, dirty := false, loading := false, flash := 0, epoch := 0, waiters := [] }

/-- An object record of a key index (R183). -/
structure Obj where
  key  : Bytes
  len  : Nat
  base : Nat
  time : W64
  deriving DecidableEq, Repr

/-- A namespace of a pool (R203, R207, R208, R352, R365). -/
structure Ns where
  kind     : Nat
  size     : Nat
  profile  : Option Bytes
  /-- PITCH_BASE: first pitch page and line -/
  base     : Nat
  objs     : List Obj
  deleting : Bool
  /-- exposed snapshot and the namespace it presents (R352, R365) -/
  snap     : Option (Nat × Nat)
  /-- replication target (R355) -/
  target   : Bool
  /-- full epoch of the key index (R347, R348) -/
  kepoch   : Nat
  /-- pool epochs at its creation and at its deletion, and whether its walk has ended (R207, R352) -/
  born     : Nat
  died     : Option Nat
  walked   : Bool
  /-- leaf pages of the key index, in key order (R183) -/
  leaves   : List Nat := []
  deriving DecidableEq, Repr

/-- What the pool records of a slab: USE of R227, MEMBER and OWNER, and the health table of R246–R255. -/
structure SlabUse where
  use       : Nat
  member    : Nat
  owner     : Nat
  wear      : Nat
  remembered : Nat
  triggered : Option W64
  /-- retire when next freed -/
  doomed    : Bool
  retired   : Bool
  spare     : Bool
  /-- erased, and so assignable -/
  erased    : Bool
  /-- SEQ of the group that assigned it (R211) -/
  since     : Nat
  /-- REASON of the event that doomed it (R251) -/
  why       : Nat := 0
  /-- triggered, and not rewritten since (R265) -/
  weak      : Bool := false
  deriving DecidableEq, Repr

def SlabUse.fresh : SlabUse :=
  { use := 6, member := 0, owner := 0, wear := 0, remembered := 0, triggered := .none, doomed := false,
    retired := false, spare := false, erased := false, since := 0 }

/-- A landing unit (R214, R216, R220). -/
structure LUnit where
  a      : Nat
  b      : Nat
  next   : Nat
  sealed : Bool
  /-- the ridge whose open unit it is, 0xFF while no ridge has taken it (R215, R216) -/
  ridge  : Nat
  front  : Bool
  order  : Nat
  /-- the copy that is lost: 0 neither, 1 copy A, 2 copy B (R220) -/
  lost   : Nat := 0
  /-- its RELEASE has been accepted (R239) -/
  released : Bool := false
  deriving DecidableEq, Repr

/-- A member of a segment: slab, state 0 GOOD, 1 FAILED, 2 REBUILDING, and the rows rebuilt (R273, R290). -/
structure Member where
  slab  : Nat
  state : Nat
  rows  : Nat
  deriving DecidableEq, Repr

/-- A chunk whose frame stands in a row buffer (R223): its LOC before and after, where its frame ends in the segment, and the ORIGIN of
its mover. -/
structure Moving where
  handle : Nat
  old    : Nat
  new    : Nat
  ende   : Nat
  origin : Nat
  deriving DecidableEq, Repr

/-- A segment record (R273), with the rows still missing programs and the lost rows (R223, R294). -/
structure Seg where
  k        : Nat
  state    : Nat
  rows     : Nat
  sealTime : W64
  regions  : Nat
  rewrite  : Bool
  source   : Bool
  retained : Bool
  lostRows : List Nat
  /-- lost data strips: row and member, and whether their chunks have been marked (R294, R296) -/
  lostStrips : List (Nat × Nat × Bool)
  members  : List Member
  /-- SEQ of the group that opened it -/
  opened   : Nat
  origin   : Nat
  /-- data not yet in a complete row, from row `rows` on -/
  buffer   : Bytes
  /-- chunks whose frame stands in the buffer, in its order -/
  moving   : List Moving
  /-- members whose program of the row in flight is not complete -/
  due      : List Nat
  /-- a row judged wrong and its member (R277) -/
  judged   : List (Nat × Nat)
  /-- REGION appends: modules still due and done (R280) -/
  regDue   : List Nat
  regDone  : Nat
  /-- SEQ of the newest REGION group, and the modules that hold it (R280, R282) -/
  regSeq   : Nat
  regMods  : List Nat
  /-- bytes of the row in flight -/
  flying   : Nat
  /-- data length of the segment, once it is being closed short (R224) -/
  closing  : Option Nat := .none
  deriving DecidableEq, Repr

/-- A segment before its members are known. -/
def Seg.fresh : Seg :=
  { k := 0, state := 0, rows := 0, sealTime := 0, regions := 0, rewrite := false, source := false, retained := false,
    lostRows := [], lostStrips := [], members := [], opened := 0, origin := 0, buffer := [], moving := [], due := [], judged := [],
    regDue := [], regDone := 0, regSeq := 0, regMods := [], flying := 0 }

/-- A module's landing log (R232). -/
structure LandLog where
  cur   : Nat
  spare : Option Nat
  seqs  : List Nat
  /-- full slabs that still hold groups above the durable point, with the SEQs in each -/
  olds  : List (Nat × List Nat) := []
  deriving DecidableEq, Repr

/-- A record group as accepted (R228, R229): its entries of 32 bytes, BEGIN first. -/
structure Group where
  seq     : Nat
  entries : List Bytes
  deriving DecidableEq, Repr

/-- A flush of the journal (R233): its highest SEQ, and the programs still due on each slab of the triple. -/
structure Flush where
  last : Nat
  left : Tbl Nat
  deriving DecidableEq, Repr

/-- A cancelled write whose CANCEL is not yet durable, with the command that waits for it (R232). -/
structure Cancelled where
  seq  : Nat
  by_  : Nat
  cmd  : Option Nat
  deriving DecidableEq, Repr

/-- The checkpoint state (R234–R236). -/
structure Ckpt where
  gen      : Nat
  startSeq : Nat
  at_      : W64
  /-- TIME of the cut of the last durable anchor (R244), and whether the pool waits for a cut (R234) -/
  anchorAt : W64 := 0
  cutting  : Bool := false
  /-- the checkpoint being written: its START_SEQ -/
  writing  : Option Nat
  copies   : Nat
  /-- bytes of journal flushed since the cut -/
  flushed  : Nat
  /-- previous images to count down -/
  olds     : List Nat
  /-- chains: slabs of the chain of the last anchor, and of the one being written -/
  chain    : List Nat
  newChain : List Nat
  sbGen    : Nat
  /-- 0 none, 1 pages landing, 2 chain to be written, 3 chain in flight, 4 anchors in flight -/
  stage    : Nat
  /-- chain programs due -/
  due      : Nat
  /-- where the journal stood at the cut: triple and page -/
  jat      : List Nat
  jp       : Nat
  dirLen   : Nat
  rootLen  : Nat
  openLen  : Nat
  deriving DecidableEq, Repr

/-- A rebuild (R288–R293). -/
structure Rebuild where
  running : Bool
  total   : Nat
  done    : Nat
  start   : W64
  yielding : Bool
  paused  : Bool
  /-- chunks repaired from a replica -/
  hostClass : Bool
  deriving DecidableEq, Repr

/-- A reshape (R299–R303). -/
structure Reshape where
  newK     : Nat
  exclude  : List Nat
  total    : Nat
  done     : Nat
  paused   : Bool
  id       : Nat
  deriving DecidableEq, Repr

/-- A lost-list record (R305). -/
structure LostRec where
  nsid   : Nat
  kind   : Nat
  key    : Bytes
  klen   : Nat
  handle : Nat
  state  : Nat
  deriving DecidableEq, Repr

/-- A failure entry of a patrol pass (R263, R265). -/
structure FixFail where
  nsid    : Nat
  kind    : Nat
  key     : Bytes
  klen    : Nat
  handle  : Nat
  cause   : Nat
  outcome : Nat
  deriving DecidableEq, Repr

/-- A patrol pass of a pool, running or the last complete one (R257–R265). -/
structure Pass where
  no       : Nat
  running  : Bool
  start    : W64
  stop     : W64
  due      : W64
  total    : Nat
  done     : Nat
  position : Nat
  /-- bytes per hour set by the last rate evaluation -/
  rate     : Nat
  late     : Bool
  repaired : Nat
  failed   : Nat
  failures : List FixFail
  /-- VERIFIED, FAILED and PENDING by namespace -/
  classes  : Tbl (Nat × Nat × Nat)
  /-- segments sealed when the pass started -/
  queue    : List Nat
  /-- by module, the highest corrected-bit fraction of the pass in hundredths of a per cent (R265) -/
  corr     : Tbl Nat
  /-- CHUNKS_REPAIRED and CHUNKS_FAILED by namespace (R265) -/
  repairedIn : Tbl Nat := []
  failedIn : Tbl Nat := []
  deriving DecidableEq, Repr

def Pass.fresh : Pass :=
  { no := 0, running := false, start := 0, stop := 0, due := 0, total := 0, done := 0, position := 0, rate := 0,
    late := false, repaired := 0, failed := 0, failures := [], classes := [], queue := [], corr := [] }

/-- A snapshot (R344, R353, R359, R368). -/
structure Snap where
  id       : Nat
  time     : W64
  repl     : Bool
  deleting : Bool
  deriving DecidableEq, Repr

/-- A preserved image (R348, R349): the page's lines, or a namespace's key records. -/
structure Preserved where
  mpn   : Nat
  low   : Nat
  high  : Nat
  flash : Nat
  lines : Tbl Line
  objs  : List Obj
  deriving DecidableEq, Repr

/-- An item of a replication round (R358, R359). -/
structure RItem where
  kind : Nat
  pos  : Nat
  key  : Bytes
  recs : Bytes
  /-- source: the chunk handle behind each record, 0 for a ZERO record -/
  handles : List Nat
  deriving DecidableEq, Repr

/-- Target: an item being received (R360): the handles found by record, the records still wanted, the verified frames, failures
so far, and whether its group is on its way. -/
structure RWork where
  item   : RItem
  found  : Tbl Nat
  wants  : List Nat
  frames : Tbl Bytes
  fails  : Nat
  busy   : Bool
  deriving DecidableEq, Repr

/-- A replication pair (R355–R366): source side or target side. -/
structure RPair where
  source    : Bool
  nsid      : Nat
  remote    : Nat
  hif       : Nat
  ipv6      : Bool
  tcp       : Nat
  period    : Nat
  addr      : Bytes
  remotePool : Bytes
  viewNsid  : Nat
  state     : Nat
  reason    : Nat
  round     : Nat
  roundAt   : W64
  doneAt    : W64
  targetSnap : Nat
  applied   : Nat
  chunksSent : Nat
  chunksShared : Nat
  bytesSent : Nat
  unwanted  : Nat
  /-- source: snapshots of the previous and the present round; target: the latest round snapshot -/
  prevSnap  : Option Nat
  curSnap   : Option Nat
  items     : List RItem
  /-- highest item sent; items acknowledged above `applied`; TIME of the last APPLIED entry in the journal (R363) -/
  sent      : Nat
  acked     : List Nat
  /-- highest item whose WANT has been counted -/
  wantSeen  : Nat
  appliedAt : W64
  /-- target: the items in hand, and whether ROUND is done -/
  work      : Tbl RWork
  /-- target: the pair id that the source gave -/
  peerId    : Nat
  done      : Bool
  connected : Bool
  backoff   : Nat
  retryAt   : W64
  /-- FETCH requests outstanding: TAG, handle, TIME -/
  fetches   : List (Nat × Nat × W64)
  deriving DecidableEq, Repr

/-- A pair before its first connection. -/
def RPair.fresh (source : Bool) : RPair :=
  { source := source, nsid := 0, remote := 0, hif := 0, ipv6 := false, tcp := 7946, period := 10, addr := [], remotePool := [],
    viewNsid := 0, state := 0, reason := 0, round := 0, roundAt := 0, doneAt := 0, targetSnap := 0, applied := 0, chunksSent := 0,
    chunksShared := 0, bytesSent := 0, unwanted := 0, prevSnap := .none, curSnap := .none, items := [], sent := 0, acked := [], wantSeen := 0,
    appliedAt := 0, work := [], peerId := 0, done := true, connected := false, backoff := 0, retryAt := 0, fetches := [] }

/-- One pool of the array, as this head holds it (R307). -/
structure Pool where
  /-- the number of the pool -/
  num : Nat
  rel       : Rel
  cfg       : PoolCfg
  poolId    : Bytes
  created   : W64
  epoch     : Nat
  snapEpoch : Nat
  /-- next SEQ; highest SEQ received -/
  seq       : Nat
  mods      : List Nat
  failed    : List Nat
  /-- modules that ended reshapes have excluded and that are still in the pool (R303, R454) -/
  excluded  : List Nat
  nss       : Tbl Ns
  dir       : Tbl DirE
  lines     : Tbl Line
  recs      : Tbl CRec
  digests   : Tbl Bytes
  /-- raster profile under which this head stored a chunk, empty for none (R164, R165) -/
  profs     : Tbl Bytes := []
  dying     : List Nat
  uses      : Tbl SlabUse
  units     : Tbl LUnit
  segs      : Tbl Seg
  nextUnit  : Nat
  nextSeg   : Nat
  nextSerial : Nat
  nextHandle : Nat
  nextMeta  : Nat
  nextMpn   : Nat
  logs      : Tbl LandLog
  triple    : List Nat
  jpage     : Nat
  triples   : List (List Nat)
  /-- the journal triple assigned to follow, and whether the journal is to move there before this one is full (R233, R249) -/
  nextTriple : List Nat := []
  jclose    : Bool := false
  /-- the bivouac target as last computed, and when (R215) -/
  bivGoal   : Nat := 0
  bivAt     : W64 := 0
  /-- climbs PARKed for a landing unit (R219) -/
  unitWait  : List Nat := []
  jbuf      : List Group
  flushes   : List Flush
  flushAt   : W64
  durable   : Nat
  cancels   : List Cancelled
  ckpt      : Ckpt
  rewrite   : List (Nat × Bool)
  /-- bytes programmed into segment data slabs by rewrites, and by every other mover (R250) -/
  progRewrite : Nat := 0
  progMoved : Nat := 0
  /-- segments that collection has opened; the segment of the wear gap that it moves, and from which count on the next may follow (R253) -/
  colSegs   : Nat := 0
  gapSeg    : Option Nat := .none
  gapNext   : Nat := 0
  /-- modules that an evacuation takes out of the pool (R256) -/
  evac      : List Nat := []
  /-- a patrol pass was asked for (R264) -/
  passNow   : Bool := false
  /-- D − 2 has fallen below 6 (R271) -/
  noWidth   : Bool := false
  collecting : Bool
  destageHost : Bool
  releases  : List (Nat × Nat × Nat)
  moved     : Tbl Nat
  rebuild   : Rebuild
  reshape   : Option Reshape
  lost      : List LostRec
  lostOver  : Nat
  lostFixed : Nat
  redundancy : Nat
  fill      : Nat
  budget    : Nat
  pass      : Pass
  lastPass  : Pass
  snaps     : List Snap
  preserved : List Preserved
  pairs     : Tbl RPair
  /-- the pair to ask next for a lost chunk, by handle (R366) -/
  asked     : Tbl Nat
  /-- modules of the two relay logs, while groups go to them (R338) -/
  relays    : List Nat
  /-- completed relay appends by SEQ -/
  relayed   : Tbl Nat
  /-- pending groups of an adopted pool that wait for their tag check (R334) -/
  checks    : List Group
  snapAt    : Option W64
  /-- shadow: host-write groups not yet landed or cancelled (R322) -/
  waiting   : List Group
  /-- owner: highest SEQ the shadow has acknowledged -/
  acked     : Nat
  /-- owner: groups sent to the shadow and not yet received by it, in the order of sending (R322, R338) -/
  sentSeqs  : List Nat
  /-- shadow: LOP entries of the owner by index (R324), and the queue shadow -/
  shadowLop : Tbl Bytes
  shadowQ   : List Bytes
  shadowDurable : Nat
  /-- shadow: ORIGIN_REF of received host-write groups by SEQ (R315, R334) -/
  refs      : Tbl Nat
  /-- forwarded commands accepted for the peer: CMD_ID -/
  ownerTerm : W64
  ownerTime : W64
  moveTo    : Option Nat
  /-- TIME of the last health poll (R256) -/
  healthAt  : W64
  /-- TIME of the last heat decay (R184) -/
  decayAt   : W64
  /-- taken at start-up and not yet recovered; recovered, and waiting for its first anchor (R241) -/
  recovering : Bool
  closed    : Bool
  /-- harvest pages by 16,384 head + index, and the next index of this head's ring (R518) -/
  harvest   : Tbl Bytes
  harvestAt : Nat
  deriving DecidableEq, Repr

/-- A program, append or erase that the shipped library has issued and that has not completed (R217, R223, R232,
R233, R239, R280, R454). -/
inductive Svc where
  /-- landing data of a command's copy: unit slab, first page, pages -/
  | land (pool cmd sa first : Nat) (pages : List Bytes) (retry : Bool)
  /-- append of a group to a landing log -/
  | append (pool cmd m : Nat) (g : Group) (retry : Bool)
  /-- append of a group to a relay log (R338) -/
  | relay (pool m : Nat) (g : Group)
  /-- append of a CANCEL -/
  | cancel (pool m : Nat) (g : Group)
  /-- append of a REGION group for a segment -/
  | region (pool seg m : Nat) (g : Group)
  /-- one copy of a flush -/
  | flush (pool last sa first : Nat) (pages : List Bytes)
  /-- one member of a stripe row -/
  | row (pool seg member sa first : Nat) (pages : List Bytes)
  /-- a rebuilt row on its target -/
  | rebuilt (pool seg member sa first : Nat) (pages : List Bytes)
  /-- erase of a released or a new slab -/
  | erase (pool sa : Nat)
  /-- the background erases of an added module, from this slab on (R454) -/
  | fresh (pool m slab : Nat)
  /-- a superblock page with a new anchor, on one module of the set (R235, R310) -/
  | anchor (pool m : Nat) (page : Bytes)
  /-- pages of a checkpoint chain (R235) -/
  | chain (pool sa first : Nat) (pages : List Bytes)
  deriving DecidableEq, Repr

/-- One chunk of a write in flight (R137): where it goes and what it is. -/
structure WItem where
  /-- pitch line, and the place in the pitch: 16 KiB group or 4 KiB piece of a block namespace, or a signed position -/
  line   : Nat
  pos    : Int
  /-- 0 a hold, 1 a 16 KiB chunk, 2 an object's chunk, 3 a ZERO hold, 4 nothing: the group is deallocated -/
  form   : Nat
  handle : Nat
  fresh  : Bool
  digest : Bytes
  olen   : Nat
  loc    : Nat
  /-- the coder frame, not encrypted -/
  frame  : Bytes
  /-- kept out of the index (R139) -/
  alone  : Bool
  deriving DecidableEq, Repr

/-- A write in flight (R137, R217): a host command's, a merge's or a replication item's. -/
structure WPlan where
  pool   : Nat
  nsid   : Nat
  origin : Nat
  items  : List WItem
  /-- object record stored or deleted: key, length, base; length and base count only for a store -/
  key    : Option (Bytes × Nat × Nat)
  delKey : Bool
  /-- SEQ reserved for its group -/
  seq    : Nat
  /-- programs, then appends, still due -/
  due    : Nat
  accepted : Bool
  /-- modules whose landing logs take the group -/
  mods   : List Nat
  /-- the replication pair and the item that this is -/
  pair   : Option (Nat × Nat)
  /-- SEQ of the CANCEL of an earlier group of it (R232) -/
  cancelBy : Nat := 0
  /-- its climb ended after the group was accepted: the group is to be cancelled (R68) -/
  aborted : Bool := false
  deriving DecidableEq, Repr

def PoolCfg.fresh : PoolCfg :=
  { k := 14, dedup := true, verify := false, maskBits := 15, days := 14, minLen := 8192, maxLen := 131072, gib := 0,
    sparePml := 15, promote := 32, demote := 4, decay := 64 }

/-- A pool before anything is written to it (R205, R230, R344). -/
def Pool.fresh : Pool :=
  { num := 0, rel := .none, cfg := PoolCfg.fresh, poolId := [], created := 0, epoch := 1, snapEpoch := 0, seq := 1, mods := [],
    failed := [], excluded := [], nss := [], dir := [], lines := [], recs := [], digests := [], dying := [], uses := [], units := [],
    segs := [], nextUnit := 0, nextSeg := 0, nextSerial := 0, nextHandle := 1, nextMeta := 0x800000000000,
    nextMpn := 0, logs := [], triple := [], jpage := 0, triples := [], jbuf := [], flushes := [], flushAt := 0,
    durable := 0, cancels := [],
    ckpt := { gen := 0, startSeq := 0, at_ := 0, writing := .none, copies := 0, flushed := 0, olds := [], chain := [],
              newChain := [], sbGen := 0, stage := 0, due := 0, jat := [], jp := 0, dirLen := 0, rootLen := 0,
              openLen := 0 },
    rewrite := [], collecting := false, destageHost := false, releases := [], moved := [],
    rebuild := { running := false, total := 0, done := 0, start := 0, yielding := false, paused := false,
                 hostClass := false },
    reshape := .none, lost := [], lostOver := 0, lostFixed := 0, redundancy := 0, fill := 0, budget := 0,
    pass := Pass.fresh, lastPass := Pass.fresh, snaps := [], preserved := [], pairs := [], asked := [], relays := [], relayed := [], checks := [], snapAt := .none,
    waiting := [], acked := 0, sentSeqs := [], shadowLop := [], shadowQ := [], shadowDurable := 0, refs := [], ownerTerm := 0, ownerTime := 0,
    moveTo := .none, healthAt := 0, decayAt := 0, recovering := false, closed := false,
    harvest := [], harvestAt := 0 }

/-- The Summit Book as it opens when domain 0 powers up (R516, R517): GEN 1, FILL 40 and the CLEARED record. -/
def Sbk.fresh : Sbk :=
  { fill := 40, gen := 1, frozen := false, full := false, fullMissed := 0, frozenMissed := 0, nonce := none,
    nonceAt := 0, clearing := none, thawAt := 0, queue := [], stages := [], lenErrors := 0, rejected := 0,
    clearsDone := 0, clearsRefused := 0,
    book := [(0, 40), (2, 1), (4, 8), (36, 255), (37, 1)] }

def Msix.fresh : Msix := { enable := false, fmask := false, vmask := 0xFF, pba := 0 }

/-- The endpoint after reset: link down, call queue disabled, windows null (13). -/
def Pep.fresh : Pep :=
  { linkUp := false, speed := 0, width := 0, bme0 := false, bme1 := false, mse0 := false, mse1 := false,
    frozen0 := false, frozen1 := false, flrBusy0 := false, flrBusy1 := false, msix0 := Msix.fresh,
    msix1 := Msix.fresh, keyway := [], slots := [], sqHead := 0, sqTail := 0, cqHead := 0, cqTail := 0,
    phase := true, queue := [], cplWait := [], posted := [], dispatched := 0, completed := 0, commits := [],
    keepers := [], retrained := false }

/-- The fuses of a CK960-F from wafer test: BLANK, every unit present (R2, R457). -/
def Fuses.blank : Fuses :=
  { serial := 1, macBase := 0, part := 0x0960, ridges := 0xFF, hifs := 0xFF, drcs := 0xFF,
    mpcs := 0xFFFFFFFFFFFFFFFF, keyHashRsa := [List.replicate 48 0, List.replicate 48 0],
    keyHashSlh := [List.replicate 48 0, List.replicate 48 0], revoke := 0, dus := List.replicate 32 0, lc := 0,
    svn := 0 }

/-- The warden after reset (15). -/
def Wdn.fresh : Wdn :=
  { romDone := false, verified := false, slot := 0, fallback := false, trngOk := false, failsSince := none,
    drbgReqs := 0, reseedAt := 0, resultA := 0, resultB := 0, runningSvn := 0, rsaSlot := 0, slhSlot := 0,
    meas := List.replicate 8 (List.replicate 48 0), doorbell := 0, keyArea := [], areaBlank := false,
    changing := false, ladderGen := none, jtagOpen := false, quoting := none, sramDone := false,
    dramDone := 0, routeLen := 0, kickedAt := 0 }

/-- Power and clocks at POWER_ON: mode BOOT by R541's reset value, domain 0 alone on (18). -/
def Pwr.fresh : Pwr :=
  { mode := 2, prev := 0, modeTime := 0, domains := 1, seqBusy := false, seqLast := 0, kind := 0, source := 0,
    autoCount := 0, autoAt := [], faultDomain := 0, hasFault := false, tjNow := 0, tjPeak := 0,
    refOk := false, pllLock := false, holdover := false, aonInternal := false, refLostSeen := false,
    pwrGood := false, resetN := false, standby := true, tempAlertN := true, smbAlertN := true,
    yieldN := false, peerYieldN := false, headSel := false, wiping := [], single := none }

/-- The rope after reset (10): no link, no session. -/
def Rope.fresh : Rope :=
  { linkUp := false, lanes := 0, degraded := false, goodSince := none, degradedAt := 0, txKey := none,
    rxKey := none, rxNext := none, txCount := 0, rxCount := 0, unacked := [], ackAt := 0, sessionAt := 0,
    rekeys := 0, linkRekeys := 0, nonces := none, hbNo := 0, hbSent := [], leaseTo := 0, lease := false, peerHb := 0, missed := 0,
    suspect := false, timeSynced := false, master := false, offset := 0, slew := 0, exchangeAt := 0,
    holdTime := false, peerMode := 0, peerOwned := 0, peerShadowed := 0, peerFlags := 0, hbSentCnt := 0,
    hbMissed := 0, badAuth := 0, badFormat := 0, retrans := 0 }

/-- The Cairn port after reset (10). -/
def Crn.fresh : Crn :=
  { linkUp := false, lease := false, leaseTo := 0, ownInc := 0, count := 0, inc := 0, seen := 0, echo := 0,
    sent := [], peerAlive := false, owned := 0, term := 0, votes := [], retry := none, msgSent := 0,
    msgAccepted := 0 }

/-- No yield, no hold, no fencing (10). -/
def Pair.fresh : Pair :=
  { headIdClash := false, yielded := false, yieldCause := 0, holdAll := false, holdPools := 0, fence := none,
    solo := false, switches := 0, lastSwitch := 0, lastGap := 0, caughtUp := 0, peerCaught := 0,
    joining := false, moves := [], faultAt := 0 }

/-- No queue, no command, no lock (12). -/
def HostSide.fresh : HostSide :=
  { queues := [], ctrls := [], cmds := [], created := 0, locks := [], lockPeak := 0, hosts := [], nqn := [],
    subs := [], anaCount := 0, nextTtag := 0 }

/-- The map cache after reset: being wiped (R198). -/
def Mapc.fresh : Mapc := { wiping := true, main := [], victim := [], dramOld := [], ghost := [], maint := false }

/-- The whole state of the block. -/
structure State where
  /-- the commands waiting, first in first out (the block's command queue) -/
  pending : List Instr
  /-- the stored registers by control-space offset; unlisted registers hold their reset value (R7, R22) -/
  regs : Tbl W64
  /-- the device's bytes by device address: DRAM, ridge buffers, climb-local memories (R21) -/
  mem : Tbl Byte
  /-- TIME (R523) -/
  time : W64
  /-- MODEL'S OWN: CLK_CORE cycles already counted within the present TIME tick; 0 at every command -/
  subTick : Nat
  /-- MODEL'S OWN: the order counter behind 'longest', 'oldest' and 'least recently' -/
  stamp : Nat
  /-- MODEL'S OWN: the counter that the free values of Config are applied to (log entry 3) -/
  freeCtr : Nat
  /-- MODEL'S OWN: what has left the block on its links and pins, oldest first -/
  out : List Out
  /-- climbs by cid = 1024 ridge + index (R35); unlisted: Climb.fresh -/
  climbs : Tbl Climb
  /-- datapath cores by 4 ridge + core (R33); unlisted: DCore.fresh -/
  cores : Tbl DCore
  /-- management cores (R33); unlisted: MCore.fresh -/
  mcores : Tbl MCore
  /-- accepted jobs by acceptance number (R83, R85) -/
  jobs : Tbl Job
  /-- live ridge buffers by 8192 ridge + slot (R51) -/
  bufs : Tbl Buf
  /-- slot generations by 8192 ridge + slot (R52); unlisted: 0 -/
  gens : Tbl Nat
  /-- freed granules whose wipe has not ended: 24576 ridge + first granule, count (R51) -/
  wipes : Tbl Nat
  /-- route calls by arrival order (R59-R62) -/
  calls : Tbl Call
  /-- completions on the internal call queue, not yet taken by the firmware (R34) -/
  internalCpl : List Bytes
  /-- level of management interrupt line 1 (R102, R410) -/
  bell : Bool
  /-- order in which finished LOP entries ended (R30) -/
  lopEnded : Tbl Nat
  /-- LOP entries whose job has been restarted once (R68) -/
  lopRetried : List Nat
  /-- operations, as TYPE and pool, whose job has FAILED (R68) -/
  opsFailed : List (Nat × Nat)
  /-- the Summit Book (R504-R517) -/
  sbk : Sbk
  /-- the PCIe endpoint (R402-R426) -/
  pep : Pep
  /-- the warden (R456-R486) -/
  wdn : Wdn
  /-- the fuses (R457) -/
  fuses : Fuses
  /-- power, clocks, reset, modes and pins (R520-R561) -/
  pwr : Pwr
  /-- DRAM channels (R531); unlisted: Drc.fresh -/
  drcs : Tbl Drc
  /-- the rope (R312-R321) -/
  rope : Rope
  /-- the Cairn port (R325-R328) -/
  crn : Crn
  /-- yield, holds, fencing and joining (R329-R342) -/
  pair : Pair
  /-- the pools of the array by number (R174-R310) -/
  pools : Tbl Pool
  /-- host fabric: connections, commands, locks, host table (R369-R401) -/
  host : HostSide
  /-- owned digest contexts by 64 ridge + context (R116, R117) -/
  digs : Tbl DigCtx
  /-- the map cache (R190-R199) -/
  mapc : Mapc
  /-- XTS key slots by pool, the same in every present ridge (R202) -/
  keySlots : Tbl Bytes
  /-- pools whose key slots are to be unloaded once the jobs queued before have ended (R202) -/
  keyEnding : List Nat
  /-- poisoned DRAM lines (R533) -/
  poisoned : List Nat
  /-- frozen Traverse channels (R171, R477) -/
  tvsFrozen : List Nat
  /-- owned Notch contexts (R119-R126); unlisted: free -/
  nch : Tbl NchCtx
  /-- entries of each pool's insert log, newest first (R127) -/
  idxStore : Tbl (List IdxEntry)
  /-- run pages of each pool's index store (R128) -/
  idxRuns : Tbl (List Bytes)
  /-- module port links by port (R428) -/
  ports : Tbl MPort
  /-- modules by 4 port + target (R429); unlisted: empty -/
  modules : Tbl Modu
  /-- programs, appends and erases of the shipped library in flight -/
  svc : Tbl Svc
  /-- writes in flight by command number, or by 2^32 + number for merges and replication items (R137, R217) -/
  plans : Tbl WPlan
  /-- what the checkpoint slabs hold, by 2^64 pool + GEN: the structures of R235 as they stood at the cut -/
  ckpts : Tbl Pool
  /-- the update receiver and the boot NOR devices (R487-R503) -/
  upd : Upd
  /-- Traverse read-backs issued, with the bytes the channel wrote into that word (R167) -/
  tvsBack : Tbl Bytes
  /-- the book offset up to which records have been harvested, under the present GEN (R518) -/
  harvested : Nat
  /-- TIME of the last harvest (R518) -/
  harvestedAt : W64
  /-- the device wipe (R539) -/
  wipeJob : Option WipeJob
  deriving DecidableEq, Repr

/-- The machine right after a POWER_ON reset (R541), with an empty command queue. -/
def State.reset : State :=
  { pending := [],
    regs := [],
    mem := [],
    time := 0,
    subTick := 0,
    stamp := 1,
    freeCtr := 0,
    out := [],
    climbs := [],
    cores := [],
    mcores := [],
    jobs := [],
    bufs := [],
    gens := [],
    wipes := [],
    calls := [],
    internalCpl := [],
    bell := false,
    lopEnded := [],
    lopRetried := [],
    opsFailed := [],
    sbk := Sbk.fresh,
    pep := Pep.fresh,
    wdn := Wdn.fresh,
    fuses := Fuses.blank,
    pwr := Pwr.fresh,
    drcs := [],
    rope := Rope.fresh,
    crn := Crn.fresh,
    pair := Pair.fresh,
    pools := [],
    host := HostSide.fresh,
    digs := [],
    mapc := Mapc.fresh,
    keySlots := [],
    keyEnding := [],
    poisoned := [],
    tvsFrozen := [],
    nch := [],
    idxStore := [],
    idxRuns := [],
    ports := [],
    modules := [],
    svc := [],
    plans := [],
    ckpts := [],
    upd := Upd.fresh,
    tvsBack := [],
    harvested := 0,
    harvestedAt := 0,
    wipeJob := none }

end Sys2Proof.Machine
end

