-- ==== Sys2Proof/Machine/Ops.lean ====
section
/-! DEFINITION. The named operations over tables, byte strings, memory, registers and the free values. -/

namespace Sys2Proof.Machine

/-- The outcome of one command. -/
abbrev Res := Host.Outcome State Fault Refusal

/-! ### Tables -/

/-- Entry `k` of a table, if it is listed. -/
def Tbl.find {α : Type} : Tbl α → Nat → Option α
  | [], _ => none
  | (j, v) :: t, k => if j = k then some v else Tbl.find t k

/-- Entry `k` of a table whose unlisted entries read as `d`. -/
def Tbl.getD {α : Type} (t : Tbl α) (k : Nat) (d : α) : α := (Tbl.find t k).getD d

/-- List entry `k`, keeping the keys strictly rising. -/
def Tbl.set {α : Type} : Tbl α → Nat → α → Tbl α
  | [], k, v => [(k, v)]
  | (j, w) :: t, k, v =>
    if k < j then (k, v) :: (j, w) :: t
    else if k = j then (k, v) :: t
    else (j, w) :: Tbl.set t k v

/-- Unlist entry `k`. -/
def Tbl.del {α : Type} : Tbl α → Nat → Tbl α
  | [], _ => []
  | (j, w) :: t, k => if k = j then t else if k < j then (j, w) :: t else (j, w) :: Tbl.del t k

/-- Change the listed entry `k`, if there is one. -/
def Tbl.upd {α : Type} (t : Tbl α) (k : Nat) (f : α → α) : Tbl α :=
  match Tbl.find t k with
  | some v => Tbl.set t k (f v)
  | none => t

/-- Keys strictly rising. -/
def Tbl.sorted {α : Type} : Tbl α → Bool
  | [] => true
  | [_] => true
  | (a, _) :: (b, y) :: t => decide (a < b) && Tbl.sorted ((b, y) :: t)

/-- The lowest key at or above `k` below `k + n` that is not listed. -/
def Tbl.firstFree {α : Type} (t : Tbl α) : Nat → Nat → Option Nat
  | _, 0 => none
  | k, n + 1 => if (Tbl.find t k).isNone then some k else Tbl.firstFree t (k + 1) n

/-- One more than the highest listed key. -/
def Tbl.next {α : Type} (t : Tbl α) : Nat := t.foldl (fun m p => max m (p.1 + 1)) 0

/-! ### Bits and bytes (R6) -/

/-- Bits `lo` to `lo + n - 1` of a number. -/
def bits (v lo n : Nat) : Nat := v / 2 ^ lo % 2 ^ n

/-- One bit of a number. -/
def bit (v i : Nat) : Bool := v.testBit i

/-- A Bool as 0 or 1. -/
def b2n (b : Bool) : Nat := if b then 1 else 0

/-- The low `n` bytes of a number, little-endian (R6). -/
def leBytes : Nat → Nat → Bytes
  | 0, _ => []
  | n + 1, v => BitVec.ofNat 8 v :: leBytes n (v / 256)

/-- The number that a little-endian byte string spells (R6). -/
def leNat : Bytes → Nat
  | [] => 0
  | b :: t => b.toNat + 256 * leNat t

/-- The low `n` bytes of a number, big-endian (standards' own formats, R6). -/
def beBytes (n v : Nat) : Bytes := (leBytes n v).reverse

/-- The number that a big-endian byte string spells. -/
def beNat (bs : Bytes) : Nat := leNat bs.reverse

/-- Bytes `o` to `o + n - 1` of a byte string as a little-endian number; missing bytes count as zero. -/
def fieldAt (bs : Bytes) (o n : Nat) : Nat := leNat ((bs.drop o).take n)

/-- `n` bytes of a byte string from offset `o`, padded with zeros. -/
def sliceAt (bs : Bytes) (o n : Nat) : Bytes :=
  let x := (bs.drop o).take n
  x ++ List.replicate (n - x.length) 0

/-- A byte string of exactly `n` bytes, cut or padded with zeros. -/
def padTo (n : Nat) (bs : Bytes) : Bytes := sliceAt bs 0 n

/-- Bytes `o` onward of a byte string replaced. -/
def spliceAt (bs : Bytes) (o : Nat) (x : Bytes) : Bytes :=
  sliceAt bs 0 o ++ x ++ bs.drop (o + x.length)

def zeros (n : Nat) : Bytes := List.replicate n 0

/-- The sum of a list of numbers. -/
def sumBy {α : Type} (f : α → Nat) (l : List α) : Nat := l.foldl (fun n x => n + f x) 0

/-- Ceiling of a division. -/
def ceilDiv (a b : Nat) : Nat := (a + b - 1) / b

/-- The element with the least key, the first such in a tie. -/
def minBy {α : Type} (f : α → Nat) : List α → Option α
  | [] => none
  | x :: t =>
    match minBy f t with
    | none => some x
    | some y => if f y < f x then some y else some x

/-! ### Memory: the device's bytes by device address (R21) -/

/-- The byte at an address; memory that nothing has written reads as zero (R51, R485). -/
def Mem.read (m : Tbl Byte) (a : Nat) : Byte := Tbl.getD m a 0

/-- Store a byte, keeping the canonical form: no entry equal to what an unlisted address reads as. -/
def Mem.write (m : Tbl Byte) (a : Nat) (b : Byte) : Tbl Byte :=
  if b = 0 then Tbl.del m a else Tbl.set m a b

def Mem.writeBytes (m : Tbl Byte) (a : Nat) : Bytes → Tbl Byte
  | [] => m
  | b :: t => Mem.writeBytes (Mem.write m a b) (a + 1) t

def Mem.readBytes (m : Tbl Byte) (a : Nat) : Nat → Bytes
  | 0 => []
  | n + 1 => Mem.read m a :: Mem.readBytes m (a + 1) n

/-- The bytes of [a, a + n) read as zero again. -/
def Mem.wipe (m : Tbl Byte) (a n : Nat) : Tbl Byte := m.filter (fun p => !(decide (a ≤ p.1) && decide (p.1 < a + n)))

/-- The canonical form of a memory: keys strictly rising, no entry that reads as an unlisted one. -/
def Mem.wf (m : Tbl Byte) : Bool := Tbl.sorted m && m.all (fun p => decide (p.2 ≠ 0))

namespace State

/-- The little-endian number in the `n` bytes at a device address. -/
def rdNat (s : State) (a n : Nat) : Nat := leNat (Mem.readBytes s.mem a n)

def rdBytes (s : State) (a n : Nat) : Bytes := Mem.readBytes s.mem a n

def wrBytes (s : State) (a : Nat) (bs : Bytes) : State := { s with mem := Mem.writeBytes s.mem a bs }

def wrNat (s : State) (a n v : Nat) : State := s.wrBytes a (leBytes n v)

/-! ### Free values (log entry 3) -/

/-- A free number below `n` (0 when `n` is 0): the choice the spec leaves open. -/
def pick (s : State) (n : Nat) : Nat := Config.free s.freeCtr % n

/-- The free value has been used: the next one is another. -/
def used (s : State) : State := { s with freeCtr := s.freeCtr + 1 }

/-- `n` random or undefined bytes. -/
def freeBytes (s : State) (n : Nat) : Bytes := (List.range n).map (fun i => Config.freeByte s.freeCtr i)

/-! ### Orders and outputs -/

/-- The next value of the order counter. -/
def tick (s : State) : State := { s with stamp := s.stamp + 1 }

/-- Something leaves the block on one of its links or pins. -/
def emit (s : State) (o : Out) : State := { s with out := s.out ++ [o] }

end State

end Sys2Proof.Machine
end

