-- ==== Sys2Proof/Machine/Aes.lean ====
section
/-! DEFINITION. AES-256 of FIPS 197, XTS-AES-256 of IEEE 1619 with ciphertext stealing (R200, R201), AES-256-GCM
of the rope frames (R314) and AES key wrap (R461, R462). -/

namespace Sys2Proof.Machine

def aesSbox0 : List Byte := [
   0x63, 0x7C, 0x77, 0x7B, 0xF2, 0x6B, 0x6F, 0xC5, 0x30, 0x01, 0x67, 0x2B, 0xFE, 0xD7, 0xAB, 0x76,
   0xCA, 0x82, 0xC9, 0x7D, 0xFA, 0x59, 0x47, 0xF0, 0xAD, 0xD4, 0xA2, 0xAF, 0x9C, 0xA4, 0x72, 0xC0,
   0xB7, 0xFD, 0x93, 0x26, 0x36, 0x3F, 0xF7, 0xCC, 0x34, 0xA5, 0xE5, 0xF1, 0x71, 0xD8, 0x31, 0x15,
   0x04, 0xC7, 0x23, 0xC3, 0x18, 0x96, 0x05, 0x9A, 0x07, 0x12, 0x80, 0xE2, 0xEB, 0x27, 0xB2, 0x75]
def aesSbox1 : List Byte := [
   0x09, 0x83, 0x2C, 0x1A, 0x1B, 0x6E, 0x5A, 0xA0, 0x52, 0x3B, 0xD6, 0xB3, 0x29, 0xE3, 0x2F, 0x84,
   0x53, 0xD1, 0x00, 0xED, 0x20, 0xFC, 0xB1, 0x5B, 0x6A, 0xCB, 0xBE, 0x39, 0x4A, 0x4C, 0x58, 0xCF,
   0xD0, 0xEF, 0xAA, 0xFB, 0x43, 0x4D, 0x33, 0x85, 0x45, 0xF9, 0x02, 0x7F, 0x50, 0x3C, 0x9F, 0xA8,
   0x51, 0xA3, 0x40, 0x8F, 0x92, 0x9D, 0x38, 0xF5, 0xBC, 0xB6, 0xDA, 0x21, 0x10, 0xFF, 0xF3, 0xD2]
def aesSbox2 : List Byte := [
   0xCD, 0x0C, 0x13, 0xEC, 0x5F, 0x97, 0x44, 0x17, 0xC4, 0xA7, 0x7E, 0x3D, 0x64, 0x5D, 0x19, 0x73,
   0x60, 0x81, 0x4F, 0xDC, 0x22, 0x2A, 0x90, 0x88, 0x46, 0xEE, 0xB8, 0x14, 0xDE, 0x5E, 0x0B, 0xDB,
   0xE0, 0x32, 0x3A, 0x0A, 0x49, 0x06, 0x24, 0x5C, 0xC2, 0xD3, 0xAC, 0x62, 0x91, 0x95, 0xE4, 0x79,
   0xE7, 0xC8, 0x37, 0x6D, 0x8D, 0xD5, 0x4E, 0xA9, 0x6C, 0x56, 0xF4, 0xEA, 0x65, 0x7A, 0xAE, 0x08]
def aesSbox3 : List Byte := [
   0xBA, 0x78, 0x25, 0x2E, 0x1C, 0xA6, 0xB4, 0xC6, 0xE8, 0xDD, 0x74, 0x1F, 0x4B, 0xBD, 0x8B, 0x8A,
   0x70, 0x3E, 0xB5, 0x66, 0x48, 0x03, 0xF6, 0x0E, 0x61, 0x35, 0x57, 0xB9, 0x86, 0xC1, 0x1D, 0x9E,
   0xE1, 0xF8, 0x98, 0x11, 0x69, 0xD9, 0x8E, 0x94, 0x9B, 0x1E, 0x87, 0xE9, 0xCE, 0x55, 0x28, 0xDF,
   0x8C, 0xA1, 0x89, 0x0D, 0xBF, 0xE6, 0x42, 0x68, 0x41, 0x99, 0x2D, 0x0F, 0xB0, 0x54, 0xBB, 0x16]
def aesSbox : List Byte := aesSbox0 ++ aesSbox1 ++ aesSbox2 ++ aesSbox3

def aesInv0 : List Byte := [
   0x52, 0x09, 0x6A, 0xD5, 0x30, 0x36, 0xA5, 0x38, 0xBF, 0x40, 0xA3, 0x9E, 0x81, 0xF3, 0xD7, 0xFB,
   0x7C, 0xE3, 0x39, 0x82, 0x9B, 0x2F, 0xFF, 0x87, 0x34, 0x8E, 0x43, 0x44, 0xC4, 0xDE, 0xE9, 0xCB,
   0x54, 0x7B, 0x94, 0x32, 0xA6, 0xC2, 0x23, 0x3D, 0xEE, 0x4C, 0x95, 0x0B, 0x42, 0xFA, 0xC3, 0x4E,
   0x08, 0x2E, 0xA1, 0x66, 0x28, 0xD9, 0x24, 0xB2, 0x76, 0x5B, 0xA2, 0x49, 0x6D, 0x8B, 0xD1, 0x25]
def aesInv1 : List Byte := [
   0x72, 0xF8, 0xF6, 0x64, 0x86, 0x68, 0x98, 0x16, 0xD4, 0xA4, 0x5C, 0xCC, 0x5D, 0x65, 0xB6, 0x92,
   0x6C, 0x70, 0x48, 0x50, 0xFD, 0xED, 0xB9, 0xDA, 0x5E, 0x15, 0x46, 0x57, 0xA7, 0x8D, 0x9D, 0x84,
   0x90, 0xD8, 0xAB, 0x00, 0x8C, 0xBC, 0xD3, 0x0A, 0xF7, 0xE4, 0x58, 0x05, 0xB8, 0xB3, 0x45, 0x06,
   0xD0, 0x2C, 0x1E, 0x8F, 0xCA, 0x3F, 0x0F, 0x02, 0xC1, 0xAF, 0xBD, 0x03, 0x01, 0x13, 0x8A, 0x6B]
def aesInv2 : List Byte := [
   0x3A, 0x91, 0x11, 0x41, 0x4F, 0x67, 0xDC, 0xEA, 0x97, 0xF2, 0xCF, 0xCE, 0xF0, 0xB4, 0xE6, 0x73,
   0x96, 0xAC, 0x74, 0x22, 0xE7, 0xAD, 0x35, 0x85, 0xE2, 0xF9, 0x37, 0xE8, 0x1C, 0x75, 0xDF, 0x6E,
   0x47, 0xF1, 0x1A, 0x71, 0x1D, 0x29, 0xC5, 0x89, 0x6F, 0xB7, 0x62, 0x0E, 0xAA, 0x18, 0xBE, 0x1B,
   0xFC, 0x56, 0x3E, 0x4B, 0xC6, 0xD2, 0x79, 0x20, 0x9A, 0xDB, 0xC0, 0xFE, 0x78, 0xCD, 0x5A, 0xF4]
def aesInv3 : List Byte := [
   0x1F, 0xDD, 0xA8, 0x33, 0x88, 0x07, 0xC7, 0x31, 0xB1, 0x12, 0x10, 0x59, 0x27, 0x80, 0xEC, 0x5F,
   0x60, 0x51, 0x7F, 0xA9, 0x19, 0xB5, 0x4A, 0x0D, 0x2D, 0xE5, 0x7A, 0x9F, 0x93, 0xC9, 0x9C, 0xEF,
   0xA0, 0xE0, 0x3B, 0x4D, 0xAE, 0x2A, 0xF5, 0xB0, 0xC8, 0xEB, 0xBB, 0x3C, 0x83, 0x53, 0x99, 0x61,
   0x17, 0x2B, 0x04, 0x7E, 0xBA, 0x77, 0xD6, 0x26, 0xE1, 0x69, 0x14, 0x63, 0x55, 0x21, 0x0C, 0x7D]
def aesInv : List Byte := aesInv0 ++ aesInv1 ++ aesInv2 ++ aesInv3

/-- Multiplication by x in GF(2^8) with polynomial 0x11B. -/
def xtime (b : Byte) : Byte := (b <<< 1) ^^^ (if b.msb then 0x1B else 0)

/-- Multiplication in GF(2^8) with polynomial 0x11B by a constant below 16. -/
def aesMul (k : Nat) (b : Byte) : Byte :=
  let b2 := xtime b
  let b4 := xtime b2
  let b8 := xtime b4
  (if bit k 0 then b else 0) ^^^ (if bit k 1 then b2 else 0) ^^^ (if bit k 2 then b4 else 0)
    ^^^ (if bit k 3 then b8 else 0)

def subByte (b : Byte) : Byte := aesSbox.getD b.toNat 0
def invSubByte (b : Byte) : Byte := aesInv.getD b.toNat 0

/-- The key schedule of AES-256: words newest first, `i` the index of the next word. -/
def aesExpand : Nat → Nat → Byte → List Bytes → List Bytes
  | 0, _, _, l => l
  | n + 1, i, rc, l =>
    let t := l.headD []
    let t' := if i % 8 = 0 then
        List.zipWith (· ^^^ ·) ((t.drop 1 ++ t.take 1).map subByte) [rc, 0, 0, 0]
      else if i % 8 = 4 then t.map subByte else t
    aesExpand n (i + 1) (if i % 8 = 0 then xtime rc else rc) (List.zipWith (· ^^^ ·) (l.getD 7 []) t' :: l)

/-- The 15 round keys of a 32-byte key. -/
def aesKeys (key : Bytes) : List Bytes :=
  let ws := (List.range 8).map (fun i => sliceAt key (4 * i) 4)
  let all := (aesExpand 52 8 1 ws.reverse).reverse
  (List.range 15).map (fun r => (all.drop (4 * r)).take 4 |>.flatten)

def xorB (a b : Bytes) : Bytes := List.zipWith (· ^^^ ·) a b

/-- ShiftRows on the column-major state (row r of column c is byte 4c + r). -/
def shiftRows (s : Bytes) : Bytes :=
  (List.range 16).map (fun i => s.getD (4 * ((i / 4 + i % 4) % 4) + i % 4) 0)
def invShiftRows (s : Bytes) : Bytes :=
  (List.range 16).map (fun i => s.getD (4 * ((i / 4 + 4 - i % 4) % 4) + i % 4) 0)

/-- One column times the circulant matrix with first row `k`. -/
def mixWith (k : List Nat) (s : Bytes) : Bytes :=
  (List.range 16).map (fun i =>
    (List.range 4).foldl (fun a j =>
      a ^^^ aesMul (k.getD ((j + 4 - i % 4) % 4) 0) (s.getD (4 * (i / 4) + j) 0)) 0)

/-- AES-256 encryption of one block. -/
def aesEnc (key blk : Bytes) : Bytes :=
  match aesKeys key with
  | [] => blk
  | k0 :: ks =>
    let mid := (ks.take 13).foldl (fun s k => xorB (mixWith [2, 3, 1, 1] (shiftRows (s.map subByte))) k) (xorB blk k0)
    xorB (shiftRows (mid.map subByte)) (ks.getD 13 [])

/-- AES-256 decryption of one block. -/
def aesDec (key blk : Bytes) : Bytes :=
  match (aesKeys key).reverse with
  | [] => blk
  | k0 :: ks =>
    let mid := (ks.take 13).foldl
      (fun s k => mixWith [14, 11, 13, 9] (xorB ((invShiftRows s).map invSubByte) k)) (xorB blk k0)
    xorB ((invShiftRows mid).map invSubByte) (ks.getD 13 [])

/-! ### XTS -/

/-- The XTS tweak times alpha: the 16 bytes as a little-endian number in GF(2^128). -/
def xtsAlpha (t : Bytes) : Bytes :=
  let v := leNat t
  leBytes 16 (if bit v 127 then (2 * v) ^^^ 0x87 else 2 * v)

/-- One XTS block under tweak `t`. -/
def xtsBlock (enc : Bool) (k1 t b : Bytes) : Bytes :=
  xorB (if enc then aesEnc k1 (xorB b t) else aesDec k1 (xorB b t)) t

/-- The blocks of one data unit, with ciphertext stealing when the last is short (`fuel` blocks at most). -/
def xtsBlocks (enc : Bool) (k1 : Bytes) : Nat → Bytes → Bytes → Bytes
  | 0, _, _ => []
  | fuel + 1, t, d =>
    if d.length ≤ 16 then xtsBlock enc k1 t d
    else if d.length < 32 then
      let t2 := xtsAlpha t
      let r := d.length - 16
      let first := xtsBlock enc k1 (if enc then t else t2) (d.take 16)
      let tail := d.drop 16
      xtsBlock enc k1 (if enc then t2 else t) (tail ++ first.drop r) ++ first.take r
    else xtsBlock enc k1 t (d.take 16) ++ xtsBlocks enc k1 fuel (xtsAlpha t) (d.drop 16)

/-- XTS-AES-256 of one data unit under a 64-byte key (Key1, Key2) and a 16-byte tweak value. -/
def xtsUnit (enc : Bool) (key tweak d : Bytes) : Bytes :=
  xtsBlocks enc (key.take 32) d.length (aesEnc (sliceAt key 32 32) tweak) d

/-! ### GCM -/

/-- Product in GF(2^128) with GCM's bit order: bit 127 of the big-endian number is the coefficient of x^0. -/
def gcmMul : Nat → Nat → Nat → Nat → Nat
  | 0, _, _, z => z
  | n + 1, x, v, z =>
    gcmMul n x (if bit v 0 then v / 2 ^^^ 0xE1000000000000000000000000000000 else v / 2)
      (if bit x n then z ^^^ v else z)

/-- GHASH of a padded byte string. -/
def ghash (h : Nat) (d : Bytes) : Nat :=
  (chunksOf16 d.length d).foldl (fun y b => gcmMul 128 (y ^^^ beNat (padTo 16 b)) h 0) 0
where
  chunksOf16 : Nat → Bytes → List Bytes
    | 0, _ => []
    | _, [] => []
    | f + 1, l => l.take 16 :: chunksOf16 f (l.drop 16)

def pad16 (d : Bytes) : Bytes := d ++ zeros ((16 - d.length % 16) % 16)

/-- The GCM key stream over `d` from counter `c`. -/
def gctr (key iv : Bytes) : Nat → Nat → Bytes → Bytes
  | 0, _, _ => []
  | _, _, [] => []
  | f + 1, c, d => xorB (d.take 16) (aesEnc key (iv ++ beBytes 4 c)) ++ gctr key iv f (c + 1) (d.drop 16)

/-- The 16-byte tag over additional data `a` and ciphertext `c`, with a 96-bit nonce. -/
def gcmTag (key iv a c : Bytes) : Bytes :=
  let h := beNat (aesEnc key (zeros 16))
  let s := ghash h (pad16 a ++ pad16 c ++ beBytes 8 (8 * a.length) ++ beBytes 8 (8 * c.length))
  xorB (beBytes 16 s) (aesEnc key (iv ++ beBytes 4 1))

def gcmCrypt (key iv d : Bytes) : Bytes := gctr key iv d.length 2 d

/-! ### AES key wrap (NIST SP 800-38F) -/

/-- One of the wrap's steps: register A and the semiblocks R. -/
def kwStep (key : Bytes) (n : Nat) (st : Bytes × List Bytes) (t : Nat) : Bytes × List Bytes :=
  let i := t % n
  let b := aesEnc key (st.1 ++ st.2.getD i [])
  (xorB (b.take 8) (beBytes 8 (t + 1)), st.2.set i (b.drop 8))

/-- AES-KW of a value of whole semiblocks. -/
def keyWrap (key v : Bytes) : Bytes :=
  let n := v.length / 8
  let r := (List.range n).map (fun i => sliceAt v (8 * i) 8)
  let e := (List.range (6 * n)).foldl (kwStep key n) (List.replicate 8 0xA6, r)
  e.1 ++ e.2.flatten

/-- One of the unwrap's steps. -/
def kwUnstep (key : Bytes) (n : Nat) (st : Bytes × List Bytes) (t : Nat) : Bytes × List Bytes :=
  let i := t % n
  let b := aesDec key (xorB st.1 (beBytes 8 (t + 1)) ++ st.2.getD i [])
  (b.take 8, st.2.set i (b.drop 8))

/-- AES-KW unwrap; none when the integrity value is wrong. -/
def keyUnwrap (key c : Bytes) : Option Bytes :=
  let n := c.length / 8 - 1
  let r := (List.range n).map (fun i => sliceAt c (8 * (i + 1)) 8)
  let e := (List.range (6 * n)).reverse.foldl (kwUnstep key n) (c.take 8, r)
  if e.1 = List.replicate 8 0xA6 then some e.2.flatten else none

end Sys2Proof.Machine
end

