-- ==== Sys2Proof/Machine/RegTable.lean ====
section
/-! DEFINITION. Control space: the blocks of R22 and R23, and the fields of every register with their access
type (R7) and reset value. A register is named by its offset from 0x0F00_0000_0000. -/

namespace Sys2Proof.Machine

/-- A block of control space (R22), with the sub-blocks of a ridge (R23). -/
inductive Blk where
  | sys | clk | pwr | lcs | wdn | ward | sbk | nch | tvs | upd | svc | crn | rope | pep | mapc | lop
  | drc (n : Nat) | hif (n : Nat) | mpc (n : Nat)
  | core (n m : Nat) | climb (n : Nat) | chk (n : Nat) | dig (n : Nat) | xts (n : Nat) | par (n : Nat)
  | idx (n : Nat) | coder (n : Nat) | fabric (n : Nat)
  deriving DecidableEq, Repr

/-- Base of control space (R21). -/
def ctlBase : Nat := 0x0F0000000000

/-- Size of control space (R21). -/
def ctlSize : Nat := 0x1800000

/-- The block and the offset in it of a control-space offset; none where R22 and R23 decode nothing. -/
def ctlBlock (off : Nat) : Option (Blk × Nat) :=
  let hi := off / 0x10000
  let lo := off % 0x10000
  if off < 0x100000 then
    match hi with
    | 0 => some (.sys, lo) | 1 => some (.clk, lo) | 2 => some (.pwr, lo) | 3 => some (.lcs, lo)
    | 4 => some (.wdn, lo) | 5 => some (.ward, lo) | 6 => some (.sbk, lo) | 7 => some (.nch, lo)
    | 8 => some (.tvs, lo) | 9 => some (.upd, lo) | 10 => some (.svc, lo) | 11 => some (.crn, lo)
    | 12 => some (.rope, lo) | 13 => some (.pep, lo) | 14 => some (.mapc, lo) | 15 => some (.lop, lo)
    | _ => none
  else if off < 0x180000 then some (.drc (hi - 0x10), lo)
  else if off < 0x200000 then none
  else if off < 0x280000 then some (.hif (hi - 0x20), lo)
  else if off < 0x400000 then none
  else if off < 0x800000 then some (.mpc (hi - 0x40), lo)
  else if off < 0x1000000 then none
  else if off < ctlSize then
    let n := off / 0x100000 - 0x10
    let sub := hi % 16
    if sub < 4 then some (.core n sub, lo)
    else match sub with
      | 4 => some (.climb n, lo) | 5 => some (.chk n, lo) | 6 => some (.dig n, lo) | 7 => some (.xts n, lo)
      | 8 => some (.par n, lo) | 9 => some (.idx n, lo) | 10 => some (.coder n, lo) | 15 => some (.fabric n, lo)
      | _ => none
  else none

/-- The base offset of a block in control space (R22, R23). -/
def Blk.base : Blk → Nat
  | .sys => 0 | .clk => 0x10000 | .pwr => 0x20000 | .lcs => 0x30000 | .wdn => 0x40000 | .ward => 0x50000
  | .sbk => 0x60000 | .nch => 0x70000 | .tvs => 0x80000 | .upd => 0x90000 | .svc => 0xA0000 | .crn => 0xB0000
  | .rope => 0xC0000 | .pep => 0xD0000 | .mapc => 0xE0000 | .lop => 0xF0000
  | .drc n => 0x100000 + n * 0x10000 | .hif n => 0x200000 + n * 0x10000 | .mpc n => 0x400000 + n * 0x10000
  | .core n m => 0x1000000 + n * 0x100000 + m * 0x10000 | .climb n => 0x1040000 + n * 0x100000
  | .chk n => 0x1050000 + n * 0x100000 | .dig n => 0x1060000 + n * 0x100000 | .xts n => 0x1070000 + n * 0x100000
  | .par n => 0x1080000 + n * 0x100000 | .idx n => 0x1090000 + n * 0x100000
  | .coder n => 0x10A0000 + n * 0x100000 | .fabric n => 0x10F0000 + n * 0x100000

/-- The fields of a register by access type (R7), as masks; a bit in none of them is RO or RSV. -/
structure RegDesc where
  reset : Nat := 0
  rw    : Nat := 0
  w1c   : Nat := 0
  w1s   : Nat := 0
  /-- written only by the warden (RO/L) -/
  rol   : Nat := 0
  deriving DecidableEq, Repr

def m64 : Nat := 0xFFFFFFFFFFFFFFFF
def m32 : Nat := 0xFFFFFFFF

/-- A register whose fields are all RW. -/
def rRW (mask : Nat) (reset : Nat := 0) : RegDesc := { rw := mask, reset := reset }
/-- A register whose fields are all W1C. -/
def rW1C (mask : Nat) : RegDesc := { w1c := mask }
/-- A register whose fields are all RO. -/
def rRO (reset : Nat := 0) : RegDesc := { reset := reset }
/-- A register whose fields are WO: it reads as zero and stores nothing; what a write does is its unit's action. -/
def rWO : RegDesc := {}
/-- A register whose fields are RO/L. -/
def rRL (mask : Nat) (reset : Nat := 0) : RegDesc := { rol := mask, reset := reset }

/-- SYS (00, 01, 02). -/
def regsSys : List (Nat × RegDesc) :=
  [(0x00, rRO), (0x08, rRO), (0x10, rRO), (0x18, rRO), (0x20, rRO), (0x28, rRO),
   (0x30, rW1C 0x8000000000000000), (0x40, rRL 0xFFFFFFFFF000), (0x48, rRO)]

/-- CLK (18). -/
def regsClk : List (Nat × RegDesc) :=
  [(0x00, rRO), (0x08, rRO), (0x10, rWO), (0x18, rRO), (0x20, rW1C 0xF),
   (0x40, rRW m64), (0x48, rRW m64), (0x50, rRW m64), (0x58, rRW m64)]

/-- PWR (18). -/
def regsPwr : List (Nat × RegDesc) :=
  [(0x00, rRO), (0x08, rRO), (0x10, rRO), (0x18, rRO), (0x20, rWO), (0x28, rRO), (0x30, rRO), (0x38, rWO),
   (0x40, rW1C 0xF), (0x48, rRO), (0x50, rRW 0xFFFFFF 0x3000A), (0x58, rRO)]

/-- LCS (15). -/
def regsLcs : List (Nat × RegDesc) := [(0x00, rRO), (0x08, rRO), (0x10, rRO), (0x18, rRO)]

/-- WDN (15). -/
def regsWdn : List (Nat × RegDesc) :=
  [(0x00, rRO), (0x08, rRO), (0x10, rRO), (0x18, rWO), (0x20, rRL 0xFFFF 10), (0x28, rWO), (0x30, rW1C 7),
   (0x38, rRO)]

/-- WARD (15); the region table follows separately. -/
def regsWard : List (Nat × RegDesc) :=
  [(0x00, rRL 1), (0x08, rW1C 0x8000000000000000), (0x10, rRO), (0x18, rRO), (0x20, rRO), (0x28, rRO),
   (0x30, rRO), (0x38, rWO)]

/-- SBK (17). -/
def regsSbk : List (Nat × RegDesc) :=
  [(0x00, rRO), (0x08, rRW 0x3FF0000 0x320000), (0x10, rRO), (0x18, rW1C 0x7F), (0x20, rRW 0x7F7F),
   (0x28, rRW 0x7F), (0x30, rRO), (0x38, rRO), (0x40, rWO), (0x48, rWO), (0x50, rWO), (0x58, rWO), (0x60, rRO),
   (0x68, rRO), (0x80, rWO), (0x88, rWO), (0x90, rWO)]

/-- PEP (13); the windows follow separately. -/
def regsPep : List (Nat × RegDesc) :=
  [(0x00, rRO), (0x08, rW1C 0xFFF), (0x10, rRW 0xFFF), (0x18, rRW 0x7FFFFFF), (0x20, rRW 0xFFFFFFFFFFFFF000),
   (0x28, rRO), (0x30, rRO), (0x38, rRO), (0x40, rRO), (0x48, rWO)]

/-- One peer window (13). -/
def regsWin : List (Nat × RegDesc) :=
  [(0x00, rRW m64 m64), (0x08, rRW 0xFFFF), (0x10, rRO m64), (0x18, rRO), (0x20, rWO), (0x28, rW1C 0xE),
   (0x30, rRO), (0x38, rRO)]

/-- LOP (01). -/
def regsLop : List (Nat × RegDesc) := [(0x800, rW1C m64), (0x808, rW1C m64)]

/-- DRC[n] (18). -/
def regsDrc : List (Nat × RegDesc) :=
  [(0x00, rRO), (0x08, rW1C 0xF), (0x10, rRO), (0x18, rW1C 0x8000000000000000), (0x20, rRW 0xFFFF0001 0x180001),
   (0x28, rWO), (0x30, rRO), (0x38, rRO), (0x40, rRO)]

/-- RDG[n].CORE[m] (02). -/
def regsCore : List (Nat × RegDesc) := [(0x00, rRO), (0x08, rRO), (0x10, rRO), (0x18, rRO)]

/-- RDG[n].CLIMB (02). -/
def regsClimb : List (Nat × RegDesc) :=
  [(0x00, rRO), (0x08, rRW 0xFFFFFFFFFFFFF7FF 0x00186A0081000040), (0x10, rW1C 7), (0x18, rWO), (0x20, rRW 0x3FF),
   (0x28, rRO), (0x30, rRO)]

/-- RDG[n] fabric and buffer allocator (02). -/
def regsFabric : List (Nat × RegDesc) := [(0x00, rRO), (0x08, rRW 0x7FFF 4096), (0x10, rRO)]

/-- HIF[n] (12). -/
def regsHif : List (Nat × RegDesc) :=
  [(0x00, rRW 0x7FFFF), (0x08, rRO), (0x10, rW1C 0x3FF), (0x18, rRW 0x3FF), (0x20, rRO), (0x28, rRO),
   (0x30, rRW 0xFFFF), (0x38, rRO), (0x40, rRO), (0x48, rRO), (0x50, rRO), (0x58, rRO), (0x60, rRO), (0x68, rRO),
   (0x70, rRO)]

/-- ROPE (10). -/
def regsRope : List (Nat × RegDesc) :=
  [(0x00, rRO), (0x08, rRW 0xFFFF0000), (0x10, rW1C 0x1FF), (0x18, rRW 0x1FF), (0x20, rRO), (0x28, rRO), (0x30, rRO),
   (0x38, rRO), (0x40, rRO), (0x48, rRO), (0x50, rRO)]

/-- CRN (10). -/
def regsCrn : List (Nat × RegDesc) :=
  [(0x00, rRO), (0x08, rRO), (0x10, rW1C 0xFF), (0x18, rRW 0xFF), (0x20, { w1s := 1 }), (0x28, rRO), (0x30, rRW 1),
   (0x38, rRO), (0x40, rRO)]

/-- MAPC (06); the regions follow separately. -/
def regsMapc : List (Nat × RegDesc) :=
  [(0x000, rW1C 0x700), (0x008, rRO), (0x010, rRO), (0x018, rRO), (0x020, rRO), (0x028, rRO),
   (0x200, rRW 0xFFFFFFFFFF00), (0x208, rRW 0xFFFFFF), (0x210, rRW 0x1FFFFFE), (0x218, rW1C 0xE), (0x300, rRW 0xFFFFF),
   (0x308, rRO)]

/-- RDG[n].XTS (06). -/
def regsXts : List (Nat × RegDesc) := [(0x00, rRO), (0x08, rRO), (0x10, rRO), (0x18, rW1C 3)]

/-- RDG[n].CHK (04). -/
def regsChk : List (Nat × RegDesc) := [(0x00, rRO), (0x08, rRO), (0x10, rRO), (0x18, rW1C 3)]
/-- RDG[n].DIG (04). -/
def regsDig : List (Nat × RegDesc) := [(0x00, rRO), (0x08, rRO), (0x10, rRO), (0x18, rW1C 3)]
/-- RDG[n].IDX (04). -/
def regsIdx : List (Nat × RegDesc) :=
  [(0x00, rRW 0xFFFFFFFFFFFF), (0x08, rRO), (0x10, rRO), (0x18, rRO), (0x20, rRO), (0x28, rRO), (0x30, rW1C 3)]
/-- NCH (04); the contexts follow separately. -/
def regsNch : List (Nat × RegDesc) :=
  [(0x00, rRO), (0x08, rW1C 0xFFFFFFFFFFFF), (0x10, rRW 0xFFFFFFFFFFFF), (0x18, rRO), (0x20, rWO)]
/-- One Notch context (04). -/
def regsNchCtx : List (Nat × RegDesc) := [(0x00, rRO 0xFF), (0x08, rRW 0x7FF), (0x10, rW1C 0x3C), (0x18, rRO)]

/-- One CODER lane (05). -/
def regsCoder : List (Nat × RegDesc) :=
  [(0x00, rRO), (0x08, rRO), (0x10, rRO), (0x18, rRO), (0x20, rRO), (0x28, rW1C 0x3FF)]
/-- RDG[n].PAR (09). -/
def regsPar : List (Nat × RegDesc) := [(0x00, rRO), (0x08, rRO), (0x10, rRO), (0x18, rW1C 3)]
/-- TVS (05); the channels follow separately. -/
def regsTvs : List (Nat × RegDesc) := [(0x00, rW1C m64), (0x08, rRO)]
/-- One Traverse channel (05). -/
def regsTvsCh : List (Nat × RegDesc) :=
  [(0x00, rRW 0xFFFFFFFFFFFF), (0x08, rRW 0xFFFFFFFFFFFF), (0x10, rRW m32), (0x18, rRW 0xFFC), (0x20, rW1C 0x1E),
   (0x28, rRO), (0x30, rRO)]
/-- MPC[n] (14). -/
def regsMpc : List (Nat × RegDesc) :=
  [(0x00, rRO), (0x08, rW1C 0x7FF), (0x10, rRW 0x7FF), (0x18, rRW 0xFFFF0003 0x3E80000), (0x20, rRW 3), (0x28, rRO),
   (0x30, rRO), (0x38, rRO), (0x40, rRO), (0x48, rRO), (0x50, rRO), (0x58, rRO)]
/-- UPD (16). -/
def regsUpd : List (Nat × RegDesc) :=
  [(0x00, rRO), (0x08, rRO), (0x10, rRO), (0x18, rW1C 0x1F), (0x20, rRW 0x1F), (0x28, rRO), (0x30, rRO)]
/-- SVC (16). -/
def regsSvc : List (Nat × RegDesc) := [(0x00, rRO), (0x08, rRW 7 1), (0x10, rRW 0x3FFFFFFFFF), (0x18, rRO), (0x20, rRO)]

/-- The registers of a block at an offset within it. -/
def blkDesc (b : Blk) (lo : Nat) : RegDesc :=
  if lo = 0xFFF8 then rRW m32 else
  let find := fun (l : List (Nat × RegDesc)) (o : Nat) => (Tbl.find l o).getD {}
  match b with
  | .sys => find regsSys lo
  | .clk => find regsClk lo
  | .pwr => find regsPwr lo
  | .lcs => find regsLcs lo
  | .wdn => find regsWdn lo
  | .ward =>
    if 0x1000 ≤ lo && decide (lo < 0x1400) then
      if lo % 16 = 0 then rRL 0xFFFFFFFFF001 else rRL 0xFFFFFFFFFFFFF000
    else find regsWard lo
  | .sbk => find regsSbk lo
  | .pep => if 0x100 ≤ lo && decide (lo < 0x300) then find regsWin (lo % 0x40) else find regsPep lo
  | .lop => find regsLop lo
  | .drc _ => find regsDrc lo
  | .core _ _ => find regsCore lo
  | .climb _ => find regsClimb lo
  | .fabric _ => find regsFabric lo
  | .hif _ => find regsHif lo
  | .mapc =>
    if 0x100 ≤ lo && decide (lo < 0x200) then
      if lo % 16 = 0 then rRW 0xFFFFFFFFF001 else if lo % 16 = 8 then rRW 0xFFFFFFFFF000 else {}
    else find regsMapc lo
  | .xts _ => find regsXts lo
  | .chk _ => find regsChk lo
  | .dig _ => find regsDig lo
  | .idx _ => find regsIdx lo
  | .nch => if 0x1000 ≤ lo && decide (lo < 0x2000) then find regsNchCtx (lo % 0x100) else find regsNch lo
  | .coder _ => if lo < 0x8000 then find regsCoder (lo % 0x800) else {}
  | .par _ => find regsPar lo
  | .tvs => if 0x1000 ≤ lo && decide (lo < 0x1800) then find regsTvsCh (lo % 0x40) else find regsTvs lo
  | .rope => find regsRope lo
  | .crn => find regsCrn lo
  | .mpc _ => find regsMpc lo
  | .upd => find regsUpd lo
  | .svc => find regsSvc lo

/-- The fields of the register slot at a control-space offset. -/
def regDesc (off : Nat) : RegDesc :=
  match ctlBlock off with
  | some (b, lo) => blkDesc b lo
  | none => {}

namespace State

/-- The stored value of a register: its reset value until something changes it. -/
def reg (s : State) (off : Nat) : W64 := Tbl.getD s.regs off (BitVec.ofNat 64 (regDesc off).reset)

/-- Store a register, keeping the canonical form: no entry equal to the reset value. -/
def setReg (s : State) (off : Nat) (v : W64) : State :=
  { s with regs := if v = BitVec.ofNat 64 (regDesc off).reset then Tbl.del s.regs off else Tbl.set s.regs off v }

/-- Bits of a stored register as a number. -/
def regBits (s : State) (off lo n : Nat) : Nat := bits (s.reg off).toNat lo n

/-- One bit of a stored register. -/
def regBit (s : State) (off i : Nat) : Bool := (s.reg off).getLsbD i

/-- Advance the counter in bits `lo` to `lo + w - 1` of a register by `n`; it wraps. -/
def bump (s : State) (off lo w n : Nat) : State :=
  let v := (s.reg off).toNat
  let f := bits v lo w
  s.setReg off (BitVec.ofNat 64 (v - f * 2 ^ lo + (f + n) % 2 ^ w * 2 ^ lo))

end State

end Sys2Proof.Machine
end

