-- ==== Sys2Proof/Machine/Flags.lean ====
section
/-! DEFINITION. Flags and counters: raising and clearing W1C flags (R10), the counters (R4, R9, R11, R24), the MSI-X
messages whose sources are levels (R31, R413) and the management interrupt lines (R102). -/

namespace Sys2Proof.Machine.State

/-! ### Register names used by more than one unit -/

def rSysAbsent : Nat := 0x18
def rSysBad : Nat := 0x20
def rSysDecode : Nat := 0x28
def rSysDecodeAddr : Nat := 0x30
def rRouteBase : Nat := 0x40
def rPepEvents : Nat := 0xD0008
def rPepEventsEn : Nat := 0xD0010
def rCallqCfg : Nat := 0xD0018
def rCqBase : Nat := 0xD0020
def rLopChanged : Nat := 0xF0800
def rLopChangedHost : Nat := 0xF0808
def rSbkEvents : Nat := 0x60018
def rSbkEventsEn : Nat := 0x60020
def rViolInfo : Nat := 0x50008
def rWdnEvents : Nat := 0x40030
def rPwrEvents : Nat := 0x20040
def rClkEvents : Nat := 0x10020
def rRopeEvents : Nat := 0xC0010
def rCrnEvents : Nat := 0xB0010
def rNchIrq : Nat := 0x70008
def rTvsIrq : Nat := 0x80000

/-- `EVCNT` of the unit that holds a register (R10, R23). -/
def evcntOf (off : Nat) : Nat := off / 0x10000 * 0x10000 + 0xFFF8

/-! ### PF0 and PF1 messages (R413) -/

/-- The MSI-X state of a function. -/
def msix (s : State) (fn : Nat) : Msix := if fn = 0 then s.pep.msix0 else s.pep.msix1

def setMsix (s : State) (fn : Nat) (m : Msix) : State :=
  { s with pep := if fn = 0 then { s.pep with msix0 := m } else { s.pep with msix1 := m } }

def bme (s : State) (fn : Nat) : Bool := if fn = 0 then s.pep.bme0 else s.pep.bme1

/-- Send vector `v` of function `fn`, or set its PBA bit while it is masked or the function may not issue
requests (R413, R423); with MSI-X Enable 0 nothing is sent and nothing is left pending. -/
def sendVec (s : State) (fn v : Nat) : State :=
  let m := s.msix fn
  if !m.enable then s
  else if m.fmask || bit m.vmask v || !s.bme fn then s.setMsix fn { m with pba := m.pba ||| 2 ^ v }
  else s.emit (.msix fn v)

/-- The levels of PF0 vectors 0, 2 and 3. -/
def pfLevel (s : State) (v : Nat) : Bool :=
  match v with
  | 0 => decide ((s.reg rPepEvents &&& s.reg rPepEventsEn) ≠ 0)
  | 2 => decide (s.reg rLopChangedHost ≠ 0)
  | 3 => decide ((s.regBits rSbkEvents 0 7) &&& (s.regBits rSbkEventsEn 8 7) ≠ 0)
  | _ => false

/-- Send the messages of the level sources that rose between `s0` and `s`. -/
def levelRise (s0 s : State) : State :=
  [0, 2, 3].foldl (fun t v => if s.pfLevel v && !s0.pfLevel v then t.sendVec 0 v else t) s

/-- The level vector whose source is this register, if any. -/
def vecOfReg (off : Nat) : Option Nat :=
  if off = rPepEvents then some 0 else if off = rLopChangedHost then some 2
  else if off = rSbkEvents then some 3 else none

/-- A clearing write to a level's source that leaves the level asserted sends its message again (R413). -/
def levelAgain (s : State) (off : Nat) : State :=
  match vecOfReg off with
  | some v => if s.pfLevel v then s.sendVec 0 v else s
  | none => s

/-! ### Management interrupt lines (R102) -/

/-- The enable-and-event level of an EVENTS and EVENTS_EN pair. -/
def evLevel (s : State) (ev en : Nat) : Bool := decide ((s.reg ev &&& s.reg en) ≠ 0)

/-- The level of management interrupt line `l` at management core `m`. -/
def irqLine (s : State) (m l : Nat) : Bool :=
  match l with
  | 0 => !s.internalCpl.isEmpty
  | 1 => s.bell
  | 2 => decide (s.reg rLopChanged ≠ 0)
  | 3 => decide ((s.regBits rSbkEvents 0 7) &&& (s.regBits rSbkEventsEn 0 7) ≠ 0)
  | 4 => s.evLevel rRopeEvents (rRopeEvents + 8)
  | 5 => s.evLevel rCrnEvents (rCrnEvents + 8)
  | 6 => s.regBit rViolInfo 63
  | 7 => (List.range 32).any (fun c => (s.regBit rTvsIrq c || s.regBit rTvsIrq (32 + c)) && s.regBit (0x81018 + c * 0x40) 11)
  | 8 => decide ((s.reg rNchIrq &&& s.reg (rNchIrq + 8)) ≠ 0)
  | 9 => (List.range 8).any (fun n => s.evLevel (0x200010 + n * 0x10000) (0x200018 + n * 0x10000))
  | 10 => (List.range 64).any (fun n => s.evLevel (0x400008 + n * 0x10000) (0x400010 + n * 0x10000))
  | 11 => decide (s.reg (0x10040 + m * 8) ≠ 0) && decide ((s.reg (0x10040 + m * 8)).toNat ≤ s.time.toNat)
  | _ => false

/-- `irqlines` of management core `m` (R100). -/
def irqLines (s : State) (m : Nat) : Nat := sumBy (fun l => b2n (s.irqLine m l) * 2 ^ l) (List.range 16)

/-- A sleeping core ends its SLEEP as soon as one of its enabled lines is high (R101); used before a line can fall again. -/
def wakeCores (s : State) : State :=
  { s with mcores := s.mcores.map (fun (p : Nat × MCore) =>
      if p.2.irqmask &&& s.irqLines p.1 = 0 then p else (p.1, { p.2 with sleeping := false })) }

/-- The registers whose write can lower a management interrupt line without clearing a flag: the enables and the compare registers. -/
def lineGate (slot : Nat) : Bool :=
  decide (slot ∈ [rSbkEventsEn, rRopeEvents + 8, rCrnEvents + 8, rNchIrq + 8])
    || (decide (0x10040 ≤ slot) && decide (slot < 0x10060))
    || (decide (slot % 0x10000 = 0x18) && decide (0x200000 ≤ slot) && decide (slot < 0x280000))
    || (decide (slot % 0x10000 = 0x10) && decide (0x400000 ≤ slot) && decide (slot < 0x800000))
    || (decide (0x81018 ≤ slot) && decide (slot < 0x81818) && decide (slot % 0x40 = 0x18))

/-! ### Flags (R10, R11) -/

/-- Hardware sets the W1C flags of `mask`. -/
def raise (s : State) (off : Nat) (mask : Nat) : State :=
  levelRise s (s.setReg off (s.reg off ||| BitVec.ofNat 64 mask))

/-- Number of one bits. -/
def popcount (v : Nat) : Nat := ((List.range 64).filter (fun i => bit v i)).length

/-- A clearing write `v` to the W1C flags of `mask`, while hardware sets the flags `hw` in the same cycle:
the set wins, and EVCNT counts each set that coincides with a clear (R10). -/
def clearFlags (s : State) (off : Nat) (mask v hw : W64) : State :=
  let c := v &&& mask
  let h := hw &&& mask
  let s0 := s.wakeCores
  let s1 := s0.setReg off ((s.reg off &&& ~~~c) ||| h)
  let s2 := s1.bump (evcntOf off) 0 32 (popcount (c &&& h).toNat)
  if c = 0 then levelRise s0 s2 else
    match vecOfReg off with
    | some _ => s2.levelAgain off
    | none => s2

/-! ### Counters of SYS -/

def countAbsent (s : State) : State := s.bump rSysAbsent 0 32 1
def countBad (s : State) : State := s.bump rSysBad 0 32 1

/-- A decode error of master `m` at `addr` (R24, R25). -/
def decodeError (s : State) (m addr : Nat) : State :=
  let s := s.bump rSysDecode 0 32 1
  if s.regBit rSysDecodeAddr 63 then s
  else s.setReg rSysDecodeAddr (BitVec.ofNat 64 (2 ^ 63 + m % 256 * 2 ^ 48 + addr % 2 ^ 48))

/-! ### Presence (R2–R4) -/

def ridgePresent (s : State) (n : Nat) : Bool := decide (n < 8) && bit s.fuses.ridges n
def hifPresent (s : State) (n : Nat) : Bool := decide (n < 8) && bit s.fuses.hifs n
def drcPresent (s : State) (n : Nat) : Bool := decide (n < 8) && bit s.fuses.drcs n
def mpcPresent (s : State) (n : Nat) : Bool := decide (n < 64) && s.fuses.mpcs.getLsbD n

/-- Is the unit of a block present? -/
def blkPresent (s : State) : Blk → Bool
  | .drc n => s.drcPresent n
  | .hif n => s.hifPresent n
  | .mpc n => s.mpcPresent n
  | .core n _ | .climb n | .chk n | .dig n | .xts n | .par n | .idx n | .coder n | .fabric n => s.ridgePresent n
  | _ => true

end Sys2Proof.Machine.State
end

