-- ==== Sys2Proof/Machine/Sha.lean ====
section
/-! DEFINITION. The digests the spec names by their standards: SHA-256, SHA-384 and SHA-512 of FIPS 180-4,
SHA3-256 of FIPS 202, HMAC of FIPS 198-1 (R115, R122–R126, R459), and the KDF of R459. -/

namespace Sys2Proof.Machine

/-- The 64 round constants of SHA-256. -/
def sha256K1 : List (BitVec 32) := [
   0x428A2F98, 0x71374491, 0xB5C0FBCF, 0xE9B5DBA5, 0x3956C25B, 0x59F111F1, 0x923F82A4, 0xAB1C5ED5,
   0xD807AA98, 0x12835B01, 0x243185BE, 0x550C7DC3, 0x72BE5D74, 0x80DEB1FE, 0x9BDC06A7, 0xC19BF174,
   0xE49B69C1, 0xEFBE4786, 0x0FC19DC6, 0x240CA1CC, 0x2DE92C6F, 0x4A7484AA, 0x5CB0A9DC, 0x76F988DA,
   0x983E5152, 0xA831C66D, 0xB00327C8, 0xBF597FC7, 0xC6E00BF3, 0xD5A79147, 0x06CA6351, 0x14292967]
def sha256K2 : List (BitVec 32) := [
   0x27B70A85, 0x2E1B2138, 0x4D2C6DFC, 0x53380D13, 0x650A7354, 0x766A0ABB, 0x81C2C92E, 0x92722C85,
   0xA2BFE8A1, 0xA81A664B, 0xC24B8B70, 0xC76C51A3, 0xD192E819, 0xD6990624, 0xF40E3585, 0x106AA070,
   0x19A4C116, 0x1E376C08, 0x2748774C, 0x34B0BCB5, 0x391C0CB3, 0x4ED8AA4A, 0x5B9CCA4F, 0x682E6FF3,
   0x748F82EE, 0x78A5636F, 0x84C87814, 0x8CC70208, 0x90BEFFFA, 0xA4506CEB, 0xBEF9A3F7, 0xC67178F2]
def sha256H : List (BitVec 32) := [
   0x6A09E667, 0xBB67AE85, 0x3C6EF372, 0xA54FF53A, 0x510E527F, 0x9B05688C, 0x1F83D9AB, 0x5BE0CD19]

/-- The 80 round constants of SHA-512 and SHA-384. -/
def sha512K1 : List (BitVec 64) := [
   0x428A2F98D728AE22, 0x7137449123EF65CD, 0xB5C0FBCFEC4D3B2F, 0xE9B5DBA58189DBBC,
   0x3956C25BF348B538, 0x59F111F1B605D019, 0x923F82A4AF194F9B, 0xAB1C5ED5DA6D8118,
   0xD807AA98A3030242, 0x12835B0145706FBE, 0x243185BE4EE4B28C, 0x550C7DC3D5FFB4E2,
   0x72BE5D74F27B896F, 0x80DEB1FE3B1696B1, 0x9BDC06A725C71235, 0xC19BF174CF692694,
   0xE49B69C19EF14AD2, 0xEFBE4786384F25E3, 0x0FC19DC68B8CD5B5, 0x240CA1CC77AC9C65,
   0x2DE92C6F592B0275, 0x4A7484AA6EA6E483, 0x5CB0A9DCBD41FBD4, 0x76F988DA831153B5,
   0x983E5152EE66DFAB, 0xA831C66D2DB43210, 0xB00327C898FB213F, 0xBF597FC7BEEF0EE4,
   0xC6E00BF33DA88FC2, 0xD5A79147930AA725, 0x06CA6351E003826F, 0x142929670A0E6E70,
   0x27B70A8546D22FFC, 0x2E1B21385C26C926, 0x4D2C6DFC5AC42AED, 0x53380D139D95B3DF,
   0x650A73548BAF63DE, 0x766A0ABB3C77B2A8, 0x81C2C92E47EDAEE6, 0x92722C851482353B]
def sha512K2 : List (BitVec 64) := [
   0xA2BFE8A14CF10364, 0xA81A664BBC423001, 0xC24B8B70D0F89791, 0xC76C51A30654BE30,
   0xD192E819D6EF5218, 0xD69906245565A910, 0xF40E35855771202A, 0x106AA07032BBD1B8,
   0x19A4C116B8D2D0C8, 0x1E376C085141AB53, 0x2748774CDF8EEB99, 0x34B0BCB5E19B48A8,
   0x391C0CB3C5C95A63, 0x4ED8AA4AE3418ACB, 0x5B9CCA4F7763E373, 0x682E6FF3D6B2B8A3,
   0x748F82EE5DEFB2FC, 0x78A5636F43172F60, 0x84C87814A1F0AB72, 0x8CC702081A6439EC,
   0x90BEFFFA23631E28, 0xA4506CEBDE82BDE9, 0xBEF9A3F7B2C67915, 0xC67178F2E372532B,
   0xCA273ECEEA26619C, 0xD186B8C721C0C207, 0xEADA7DD6CDE0EB1E, 0xF57D4F7FEE6ED178,
   0x06F067AA72176FBA, 0x0A637DC5A2C898A6, 0x113F9804BEF90DAE, 0x1B710B35131C471B,
   0x28DB77F523047D84, 0x32CAAB7B40C72493, 0x3C9EBE0A15C9BEBC, 0x431D67C49C100D4C,
   0x4CC5D4BECB3E42B6, 0x597F299CFC657E2A, 0x5FCB6FAB3AD6FAEC, 0x6C44198C4A475817]
def sha512H : List (BitVec 64) := [
   0x6A09E667F3BCC908, 0xBB67AE8584CAA73B, 0x3C6EF372FE94F82B, 0xA54FF53A5F1D36F1,
   0x510E527FADE682D1, 0x9B05688C2B3E6C1F, 0x1F83D9ABFB41BD6B, 0x5BE0CD19137E2179]
def sha384H : List (BitVec 64) := [
   0xCBBB9D5DC1059ED8, 0x629A292A367CD507, 0x9159015A3070DD17, 0x152FECD8F70E5939,
   0x67332667FFC00B31, 0x8EB44A8768581511, 0xDB0C2E0D64F98FA7, 0x47B5481DBEFA4FA4]

/-- One of the four rotation-and-shift mixes of FIPS 180-4: rotations `a` and `b`, then `c` rotated or shifted. -/
def shaMix {w : Nat} (a b c : Nat) (shift : Bool) (x : BitVec w) : BitVec w :=
  x.rotateRight a ^^^ x.rotateRight b ^^^ (if shift then x >>> c else x.rotateRight c)

/-- The next word of a message schedule held newest first. -/
def shaNext {w : Nat} (s0 s1 : BitVec w → BitVec w) (l : List (BitVec w)) : BitVec w :=
  s1 (l.getD 1 0) + l.getD 6 0 + s0 (l.getD 14 0) + l.getD 15 0

/-- The message schedule, newest first, extended by `n` words. -/
def shaSchedule {w : Nat} (s0 s1 : BitVec w → BitVec w) : Nat → List (BitVec w) → List (BitVec w)
  | 0, l => l
  | n + 1, l => shaSchedule s0 s1 n (shaNext s0 s1 l :: l)

/-- One round on the working variables a to h. -/
def shaRound {w : Nat} (S0 S1 : BitVec w → BitVec w) (v : List (BitVec w)) (kw : BitVec w) : List (BitVec w) :=
  match v with
  | [a, b, c, d, e, f, g, h] =>
    let t1 := h + S1 e + ((e &&& f) ^^^ (~~~e &&& g)) + kw
    let t2 := S0 a + ((a &&& b) ^^^ (a &&& c) ^^^ (b &&& c))
    [t1 + t2, a, b, c, d + t1, e, f, g]
  | _ => v

/-- The compression function over one block of 16 words. -/
def shaCompress {w : Nat} (k : List (BitVec w)) (s0 s1 S0 S1 : BitVec w → BitVec w)
    (h : List (BitVec w)) (blk : List (BitVec w)) : List (BitVec w) :=
  let ws := (shaSchedule s0 s1 (k.length - 16) blk.reverse).reverse
  List.zipWith (· + ·) h (List.foldl (shaRound S0 S1) h (List.zipWith (· + ·) k ws))

/-- A byte string cut into pieces of `n` bytes (`fuel` pieces at most). -/
def chunksOf {α : Type} (n : Nat) : Nat → List α → List (List α)
  | 0, _ => []
  | _, [] => []
  | fuel + 1, l => l.take n :: chunksOf n fuel (l.drop n)

/-- The message padded with 0x80, zeros and its bit length, for blocks of `blk` bytes and a length field of `ll`. -/
def shaPad (blk ll : Nat) (m : Bytes) : Bytes :=
  let z := (blk - (m.length + 1 + ll) % blk) % blk
  m ++ [0x80] ++ zeros z ++ beBytes ll (8 * m.length)

/-- The digest of a padded message over words of `wb` bytes. -/
def shaRun {w : Nat} (wb : Nat) (k : List (BitVec w)) (s0 s1 S0 S1 : BitVec w → BitVec w)
    (h : List (BitVec w)) (m : Bytes) : List (BitVec w) :=
  (chunksOf (16 * wb) m.length m).foldl
    (fun h b => shaCompress k s0 s1 S0 S1 h ((chunksOf wb 16 b).map (fun x => BitVec.ofNat w (beNat x)))) h

/-- SHA-256 (R115). -/
def sha256 (m : Bytes) : Bytes :=
  (shaRun 4 (sha256K1 ++ sha256K2) (shaMix 7 18 3 true) (shaMix 17 19 10 true) (shaMix 2 13 22 false)
    (shaMix 6 11 25 false) sha256H (shaPad 64 8 m)).flatMap (fun x => beBytes 4 x.toNat)

/-- SHA-512, or SHA-384 by its initial value and truncation. -/
def sha512With (h : List (BitVec 64)) (m : Bytes) : Bytes :=
  (shaRun 8 (sha512K1 ++ sha512K2) (shaMix 1 8 7 true) (shaMix 19 61 6 true) (shaMix 28 34 39 false)
    (shaMix 14 18 41 false) h (shaPad 128 16 m)).flatMap (fun x => beBytes 8 x.toNat)

def sha512 (m : Bytes) : Bytes := sha512With sha512H m

def sha384 (m : Bytes) : Bytes := (sha512With sha384H m).take 48

/-! ### SHA3-256 -/

/-- The 24 round constants of Keccak-f[1600]. -/
def keccakRC : List (BitVec 64) := [
   0x0000000000000001, 0x0000000000008082, 0x800000000000808A, 0x8000000080008000,
   0x000000000000808B, 0x0000000080000001, 0x8000000080008081, 0x8000000000008009,
   0x000000000000008A, 0x0000000000000088, 0x0000000080008009, 0x000000008000000A,
   0x000000008000808B, 0x800000000000008B, 0x8000000000008089, 0x8000000000008003,
   0x8000000000008002, 0x8000000000000080, 0x000000000000800A, 0x800000008000000A,
   0x8000000080008081, 0x8000000000008080, 0x0000000080000001, 0x8000000080008008]

/-- Rotation offsets, lane x + 5y. -/
def keccakRot : List Nat := [0, 1, 62, 28, 27, 36, 44, 6, 55, 20, 3, 10, 43, 25, 39, 41, 45, 15, 21, 8, 18, 2, 61, 56, 14]

/-- One round of Keccak-f[1600] on 25 lanes. -/
def keccakRound (a : List (BitVec 64)) (rc : BitVec 64) : List (BitVec 64) :=
  let c := (List.range 5).map (fun x => a.getD x 0 ^^^ a.getD (x + 5) 0 ^^^ a.getD (x + 10) 0
    ^^^ a.getD (x + 15) 0 ^^^ a.getD (x + 20) 0)
  let d := (List.range 5).map (fun x => c.getD ((x + 4) % 5) 0 ^^^ (c.getD ((x + 1) % 5) 0).rotateLeft 1)
  let t := (List.range 25).map (fun i => (a.getD i 0 ^^^ d.getD (i % 5) 0).rotateLeft (keccakRot.getD i 0))
  -- lane (x, y) of the permuted state comes from lane ((x + 3 y) mod 5, x)
  let b := (List.range 25).map (fun i => t.getD ((i % 5 + 3 * (i / 5)) % 5 + 5 * (i % 5)) 0)
  let e := (List.range 25).map (fun i =>
    let y := 5 * (i / 5)
    b.getD i 0 ^^^ (~~~(b.getD (y + (i + 1) % 5) 0) &&& b.getD (y + (i + 2) % 5) 0))
  match e with
  | x :: r => (x ^^^ rc) :: r
  | [] => []

/-- SHA3-256: rate 136 bytes, suffix 01, pad10*1. -/
def sha3_256 (m : Bytes) : Bytes :=
  let z := 136 - (m.length + 1) % 136
  let p := if z = 136 then m ++ [0x86] else m ++ [0x06] ++ zeros (z - 1) ++ [0x80]
  let absorb (a : List (BitVec 64)) (b : Bytes) : List (BitVec 64) :=
    let l := (chunksOf 8 17 b).map (fun x => BitVec.ofNat 64 (leNat x)) ++ List.replicate 8 0
    keccakRC.foldl keccakRound (List.zipWith (· ^^^ ·) a l)
  (((chunksOf 136 p.length p).foldl absorb (List.replicate 25 0)).take 4).flatMap (fun x => leBytes 8 x.toNat)

/-! ### HMAC and the KDF -/

/-- HMAC with hash `h` of block size `blk`. -/
def hmac (h : Bytes → Bytes) (blk : Nat) (key m : Bytes) : Bytes :=
  let k := padTo blk (if key.length ≤ blk then key else h key)
  h (k.map (· ^^^ 0x5C) ++ h (k.map (· ^^^ 0x36) ++ m))

def hmac256 (key m : Bytes) : Bytes := hmac sha256 64 key m
def hmac384 (key m : Bytes) : Bytes := hmac sha384 128 key m

/-- ASCII bytes of a label. -/
def ascii (l : String) : Bytes := l.toList.map (fun c => BitVec.ofNat 8 c.toNat)

/-- The KDF of R459: `n` bytes of K(1), K(2), … under HMAC-SHA-384. -/
def kdf (ki : Bytes) (label : String) (ctx : Bytes) (n : Nat) : Bytes :=
  ((List.range (ceilDiv n 48)).flatMap (fun i =>
    hmac384 ki (beBytes 4 (i + 1) ++ ascii label ++ [0] ++ ctx ++ beBytes 4 (8 * n)))).take n

end Sys2Proof.Machine
end

