-- ==== Sys2Proof/Machine/Book.lean ====
section
/-! DEFINITION. The Summit Book's own storage (R504–R517, R571): submitting, storing, freezing, clearing. -/

namespace Sys2Proof.Machine.State

/-- Bytes of a record in the book: LENGTH rounded up to a multiple of 8 (R504). -/
def recSize (r : SbkRec) : Nat := ceilDiv (16 + r.payload.length) 8 * 8

/-- Bytes of accepted records that are not yet stored (R509). -/
def sbkQueued (s : State) : Nat := sumBy recSize s.sbk.queue

/-- A record is accepted: it waits for its place in the book (R509). -/
def book (s : State) (source typ : Nat) (payload : Bytes) : State :=
  { s with sbk := { s.sbk with queue := s.sbk.queue ++
      [{ source := source, typ := typ, flags := 0, payload := payload, job := none }] } }

/-- The image of a record stored at `time` (R504). -/
def recImage (r : SbkRec) (time : W64) : Bytes :=
  let len := 16 + r.payload.length
  padTo (recSize r) (leBytes 8 (len + r.typ % 4096 * 2 ^ 16 + r.source % 256 * 2 ^ 28 + r.flags % 2 ^ 28 * 2 ^ 36)
    ++ leBytes 8 time.toNat ++ r.payload)

/-- Add one to a saturating 32-bit count. -/
def sat32 (n : Nat) : Nat := if n < m32 then n + 1 else n

/-- Store one record at FILL, or count it missed (R509, R511, R512, R515); the Bool tells whether it was stored. A record that arrives
during a clear counts as missed by a frozen book, and "passing 2 MiB" is exceeding it (DEDUCED, log entry 69). -/
def bookPut (s : State) (r : SbkRec) : State × Bool :=
  let b := s.sbk
  if b.frozen || b.clearing.isSome then ({ s with sbk := { b with frozenMissed := sat32 b.frozenMissed } }, false)
  else if b.full then ({ s with sbk := { b with fullMissed := sat32 b.fullMissed } }, false)
  else if b.fill + recSize r > 0x400000 then
    (({ s with sbk := { b with full := true, fullMissed := sat32 b.fullMissed } }).raise rSbkEvents 2, false)
  else
    let s1 := { s with sbk := { b with fill := b.fill + recSize r, book := Mem.writeBytes b.book b.fill (recImage r s.time) } }
    (if b.fill ≤ 0x200000 ∧ b.fill + recSize r > 0x200000 then s1.raise rSbkEvents 1 else s1, true)

/-- The book thaws: storage resumes and the nonce is void (R511, R513); a book that is not frozen stays as it is (DEDUCED, log
entry 69). -/
def bookThaw (s : State) : State :=
  if s.sbk.frozen then { s with sbk := { s.sbk with frozen := false, nonce := none } } else s

/-- FREEZE (R511): the thaw timer runs FREEZE_MS from now. -/
def bookFreeze (s : State) : State :=
  let ms := max 1 (s.regBits 0x60008 16 10)
  { s with sbk := { s.sbk with frozen := true, thawAt := s.time + BitVec.ofNat 64 (ms * 100000) } }

/-- NONCE_REQ (R513): a nonce from the DRBG, or NONCE_FAIL while TRNG_OK is 0 (R458). -/
def bookNonce (s : State) : State :=
  let s := { s with sbk := { s.sbk with nonce := none } }
  if s.wdn.trngOk then
    ({ s with sbk := { s.sbk with nonce := some (s.freeBytes 16), nonceAt := s.time },
              wdn := { s.wdn with drbgReqs := s.wdn.drbgReqs + 1 } }).used
  else s.raise rSbkEvents 0x20

/-- A CLEAR is refused (R515). -/
def bookRefuse (s : State) : State :=
  ({ s with sbk := { s.sbk with clearsRefused := s.sbk.clearsRefused + 1, nonce := none } }).raise rSbkEvents 0x10

/-- The 32 token bytes of `SBK.TOKEN`; the WO slots hold what was last written, for the warden only. -/
def bookTokenBytes (s : State) : Bytes :=
  [0x60040, 0x60048, 0x60050, 0x60058].flatMap (fun o => leBytes 8 (s.reg o).toNat)

/-- The clear token of R514 for a master and the present nonce and GEN, under a book key. -/
def clearToken (key nonce : Bytes) (m gen : Nat) : Bytes := hmac256 key (nonce ++ leBytes 1 m ++ leBytes 8 gen)

/-- CLEAR by master `m` (R515 steps 1 and 2); `key` is the book key, absent where R460 refuses it. A CLEAR during a clear is
refused, a fresh nonce or not (log entry 69). -/
def bookClear (s : State) (m : Nat) (key : Option Bytes) : State :=
  if !s.sbk.frozen || s.sbk.clearing.isSome then s.bookRefuse
  else match s.sbk.nonce with
    | none => s.bookRefuse
    | some n =>
      let expect := match key with
        | some k => clearToken k n m s.sbk.gen
        | none => []
      { s with sbk := { s.sbk with nonce := none, clearing := some (m, s.bookTokenBytes, expect) } }

/-- The CLEARED record of R516. -/
def clearedRec (b : Sbk) (m cause : Nat) : SbkRec :=
  { source := 0x80, typ := 1, flags := 0, job := none,
    payload := leBytes 8 b.gen ++ leBytes 4 b.fill ++ leBytes 4 b.fullMissed ++ leBytes 4 b.frozenMissed
      ++ leBytes 1 m ++ leBytes 1 cause ++ [0, 0] }

/-- The compare ends (R515 steps 3 and 4). -/
def bookCompare (s : State) : State :=
  match s.sbk.clearing with
  | none => s
  | some (m, got, expect) =>
    if got = expect then
      let r := clearedRec s.sbk m 0
      let s1 := { s with sbk := { s.sbk with
        fill := 0, gen := s.sbk.gen + 1, full := false, fullMissed := 0, frozenMissed := 0, frozen := false,
        clearing := none, book := [], clearsDone := s.sbk.clearsDone + 1 } }
      ((s1.bookPut r).1).raise rSbkEvents 8
    else
      ({ s with sbk := { s.sbk with clearing := none, clearsRefused := s.sbk.clearsRefused + 1 } }).raise rSbkEvents 0x10

/-! ### Register-written records (R507, R508) -/

/-- May this master stage records? -/
def stager (m : Nat) : Bool := (decide (0x20 ≤ m) && decide (m ≤ 0x23)) || decide (m = 0x60)

def sbkReject (s : State) : State := { s with sbk := { s.sbk with rejected := s.sbk.rejected + 1 } }

def setStage (s : State) (m : Nat) (g : SbkStage) : State :=
  { s with sbk := { s.sbk with stages := Tbl.set s.sbk.stages m g } }

/-- The staged bytes with a waiting low half completed by a zero high half. -/
def stageFlat (g : SbkStage) : Bytes :=
  match g.low with
  | some l => g.payload ++ l ++ zeros 4
  | none => g.payload

/-- A write of `SBK.WR_HDR` (R507). -/
def wrHdrAct (s : State) (m : Nat) (high : Bool) (width : Nat) (v : W64) : State :=
  if !stager m then s.sbkReject
  else if high then
    match Tbl.find s.sbk.stages m with
    | some g => if g.payload.isEmpty && g.low.isNone then
        s.setStage m { g with hdr := BitVec.ofNat 64 (g.hdr.toNat % 2 ^ 32 + v.toNat % 2 ^ 32 * 2 ^ 32) } else s
    | none => s
  else s.setStage m { hdr := if width = 8 then v else BitVec.ofNat 64 (v.toNat % 2 ^ 32), payload := [], low := none }

/-- A write of `SBK.WR_DATA` (R507). -/
def wrDataAct (s : State) (m : Nat) (high : Bool) (width : Nat) (v : W64) : State :=
  if !stager m then s.sbkReject
  else match Tbl.find s.sbk.stages m with
    | none => s
    | some g =>
      if width = 8 then s.setStage m { g with payload := stageFlat g ++ leBytes 8 v.toNat, low := none }
      else if high then
        s.setStage m { g with payload := g.payload ++ g.low.getD (zeros 4) ++ leBytes 4 v.toNat, low := none }
      else s.setStage m { g with payload := stageFlat g, low := some (leBytes 4 v.toNat) }

/-- Does a commit match its declared LENGTH (R508)? -/
def commitOk (g : SbkStage) : Bool :=
  let len := bits g.hdr.toNat 0 16
  decide (16 ≤ len) && decide (len ≤ 1024) && decide ((stageFlat g).length / 8 = ceilDiv (len - 16) 8)

/-- The record of a commit (R507, R508). -/
def commitRec (m : Nat) (g : SbkStage) : SbkRec :=
  { source := m, typ := bits g.hdr.toNat 16 12, flags := bits g.hdr.toNat 36 28,
    payload := (stageFlat g).take (bits g.hdr.toNat 0 16 - 16), job := none }

/-- A commit whose record has room in the accepted space is accepted (R509). -/
def commitNow (s : State) (m : Nat) (g : SbkStage) : State :=
  { s with sbk := { s.sbk with queue := s.sbk.queue ++ [commitRec m g] } }

/-- Has the accepted space room for a commit's record (R509)? -/
def commitFits (s : State) (m : Nat) (g : SbkStage) : Bool := decide (s.sbkQueued + recSize (commitRec m g) ≤ 16384)

/-- A write of `SBK.WR_COMMIT` (R507–R509): a record that disagrees with its LENGTH is not stored, one without room is held. -/
def wrCommitAct (s : State) (m : Nat) (v : W64) : State :=
  if !stager m then s.sbkReject
  else match Tbl.find s.sbk.stages m with
    | none => s
    | some g =>
      if !v.getLsbD 0 then s else
      let s1 := { s with sbk := { s.sbk with stages := Tbl.del s.sbk.stages m } }
      if !commitOk g then ({ s1 with sbk := { s1.sbk with lenErrors := s1.sbk.lenErrors + 1 } }).raise rSbkEvents 0x40
      else if s1.commitFits m g && s1.sbk.heldCommits.all (fun h => decide (h.1 ≠ m)) then s1.commitNow m g
      else { s1 with sbk := { s1.sbk with heldCommits := s1.sbk.heldCommits ++ [(m, g)] } }

/-- Held commits whose records now have room are accepted, in their order (R509). -/
def retryCommits (s : State) : State :=
  s.sbk.heldCommits.foldl (fun t h => if t.commitFits h.1 h.2 then t.commitNow h.1 h.2
      else { t with sbk := { t.sbk with heldCommits := t.sbk.heldCommits ++ [h] } }) { s with sbk := { s.sbk with heldCommits := [] } }

/-- The actions of a write of `SBK.CTRL`, in the order of R571; FREEZE_MS has already been stored. -/
def sbkCtrlAct (s : State) (m : Nat) (v : W64) (key : Option Bytes) : State :=
  let s := if v.getLsbD 0 then s.bookFreeze else s
  let s := if v.getLsbD 1 then s.bookThaw else s
  let s := if v.getLsbD 2 then s.bookNonce else s
  if v.getLsbD 3 then s.bookClear m key else s

end Sys2Proof.Machine.State
end

