-- ==== Sys2Proof/Machine/Crc.lean ====
section
/-! DEFINITION. CRC-32C (R149), and arithmetic in GF(2^8) with polynomial 0x11D as the parity engine uses it (R274). -/

namespace Sys2Proof.Machine

/-- One bit of the reflected Castagnoli CRC. -/
def crcBit : Nat → BitVec 32 → BitVec 32
  | 0, c => c
  | n + 1, c => crcBit n (if c.getLsbD 0 then (c >>> 1) ^^^ 0x82F63B78#32 else c >>> 1)

/-- The CRC-32C register after more bytes, before the final XOR (R149). -/
def crcRun (c : BitVec 32) (d : Bytes) : BitVec 32 := d.foldl (fun c b => crcBit 8 (c ^^^ b.setWidth 32)) c

/-- CRC-32C of a byte string (R149). -/
def crc32c (d : Bytes) : Nat := (crcRun 0xFFFFFFFF#32 d ^^^ 0xFFFFFFFF#32).toNat

/-! ### GF(2^8) with polynomial 0x11D (R274) -/

def gfMul2 (a : Byte) : Byte := (a <<< 1) ^^^ (if a.msb then 0x1D else 0)

/-- The product by the bits of the second factor, lowest first. -/
def gfMulN : Nat → Byte → Byte → Byte → Byte
  | 0, _, _, r => r
  | n + 1, a, b, r => gfMulN n (gfMul2 a) (b >>> 1) (if b.getLsbD 0 then r ^^^ a else r)

def gfMul (a b : Byte) : Byte := gfMulN 8 a b 0

/-- g^i with g = 2. -/
def gfPow : Nat → Byte
  | 0 => 1
  | n + 1 => gfMul2 (gfPow n)

/-- b^254, the inverse of a non-zero b. -/
def gfInvN : Nat → Byte → Byte
  | 0, _ => 1
  | n + 1, b => gfMul (gfInvN n b) b

def gfInv (b : Byte) : Byte := gfInvN 254 b

end Sys2Proof.Machine
end

