-- ==== Sys2Proof/Machine/Link.lean ====
section
/-! DEFINITION. The lifecycle state and the key ladder (R459, R460, R480), what the rope and the Cairn port send
(R314–R317, R325, R327), mode changes (R535, R536) and the yield sequencer (R329). -/

namespace Sys2Proof.Machine.State

/-! ### Lifecycle and keys -/

/-- The generation of LC in force: the highest with any bit set, or 0 (R480). -/
def lcGen (s : State) : Nat :=
  if bits s.fuses.lc 8 4 ≠ 0 then 2 else if bits s.fuses.lc 4 4 ≠ 0 then 1 else 0

/-- The lifecycle state: 0 BLANK, 1 PROVISIONED, 2 DEPLOYED, 3 RETURNED, 4 SCRAPPED (R480). -/
def lcState (s : State) : Nat :=
  if bit s.fuses.lc 12 then 4 else
  match bits s.fuses.lc (4 * s.lcGen) 4 with
  | 0 => 0
  | 1 => 1
  | 3 => 2
  | _ => 3

/-- Does the ladder serve a label in the present state (R460)? `early` labels are served during a change to
PROVISIONED. -/
def ladderServes (s : State) (early : Bool) : Bool :=
  match s.lcState with
  | 1 | 2 => true
  | 4 => false
  | _ => early && s.wdn.ladderGen.isSome

/-- A derivation of R459 from DUS with the lifecycle generation as context; none when R460 refuses it. -/
def dusKey (s : State) (label : String) (early : Bool) : Option Bytes :=
  if s.ladderServes early then
    some (kdf s.fuses.dus label (leBytes 1 (s.wdn.ladderGen.getD s.lcGen)) 32)
  else none

/-- A refused derivation sets KEY_REFUSED (R460). -/
def keyRefused (s : State) : State := s.raise rWdnEvents 2

/-- The book key (R459, R514). -/
def bookKey (s : State) : Option Bytes := s.dusKey "CK-SBK" false

/-- The value of a key-area record: the one with the highest GEN_REC (R461). -/
def areaKey (s : State) (kind index : Nat) : Option Bytes :=
  match (s.wdn.keyArea.filter (fun r => decide (r.kind = kind ∧ r.index = index))).reverse with
  | r :: _ => some r.value
  | [] => none

/-- The pair secret, and the peer's SERIAL that PAIR_KEYS gave with it (R464, R486; log entry 96). -/
def pairSecret (s : State) : Option Bytes := (s.areaKey 3 0).map (fun v => v.take 32)
def peerSerial (s : State) : Option Bytes := (s.areaKey 3 0).map (fun v => padTo 8 (v.drop 32))

/-- Write a key-area record, replacing an earlier one of its kind and index (R461). -/
def setAreaKey (s : State) (kind index : Nat) (v : Bytes) : State :=
  let old := s.wdn.keyArea
  let rest := old.filter (fun r => !decide (r.kind = kind ∧ r.index = index))
  let gen := old.foldl (fun n r => max n r.genRec) 0 + 1
  { s with wdn := { s.wdn with keyArea := rest ++ [{ kind := kind, index := index, value := v, genRec := gen }],
                               areaBlank := false } }

def delAreaKey (s : State) (kind index : Nat) : State :=
  { s with wdn := { s.wdn with
      keyArea := s.wdn.keyArea.filter (fun r => !decide (r.kind = kind ∧ r.index = index)) } }

/-- The head id of the strap (R306). -/
def headId (s : State) : Nat := b2n s.pwr.headSel

/-- The reservation key that this head registers on a module (R332). -/
def resvKey (s : State) : Nat := 0xD7B0000000000000 + s.fuses.serial.toNat % 2 ^ 32 * 0x10000 + s.headId

/-! ### The rope as a sender (R314–R317) -/

/-- The GCM nonce of a frame: session id, then COUNTER. -/
def ropeIv (k : RopeKey) (counter : Nat) : Bytes := leBytes 4 k.session ++ leBytes 8 counter

/-- The 24-byte header of R314. -/
def ropeHeader (typ flags len counter ack : Nat) : Bytes :=
  leBytes 2 0x9E17 ++ leBytes 1 typ ++ leBytes 1 flags ++ leBytes 4 len ++ leBytes 8 counter ++ leBytes 8 ack

/-- Bytes of the frames kept unacknowledged (R316). -/
def ropeUnacked (s : State) : Nat := sumBy (fun p => p.2.length) s.rope.unacked

/-- Does a frame with this payload still have room among the unacknowledged ones (R316)? -/
def ropeRoom (s : State) (payload : Bytes) : Bool := decide (s.ropeUnacked + payload.length + 40 ≤ 0x200000)

/-- Build, keep and send one frame; nothing is sent without a session, and once 2 MiB wait all but PRIORITY frames are put off, in order. -/
def sendRope (s : State) (typ : Nat) (prio : Bool) (payload : Bytes) : State :=
  match s.rope.txKey with
  | none => s
  | some k =>
    if !prio && (!s.rope.putOff.isEmpty || !s.ropeRoom payload) then
      { s with rope := { s.rope with putOff := s.rope.putOff ++ [(typ, payload)] } } else
    let c := s.rope.txCount + 1
    let h := ropeHeader typ (b2n prio) payload.length c s.rope.rxCount
    let iv := ropeIv k c
    let ct := gcmCrypt k.key iv payload
    let f := h ++ ct ++ gcmTag k.key iv h ct
    ({ s with rope := { s.rope with
        txCount := c, unacked := s.rope.unacked ++ [(c, f)],
        ackAt := if s.rope.unacked.isEmpty then s.time else s.rope.ackAt } }).emit (.rope f)

/-- Send frames that were put off, in order, as far as there is room (R316). -/
def sendPutOff : List (Nat × Bytes) → State → State
  | [], s => s
  | f :: r, s => if s.ropeRoom f.2 then sendPutOff r (s.sendRope f.1 false f.2) else { s with rope := { s.rope with putOff := f :: r } }

def ropeDrain (s : State) : State := sendPutOff s.rope.putOff { s with rope := { s.rope with putOff := [] } }

/-! ### The Cairn port as a sender (R325, R327) -/

/-- A message: TYPE, HEAD, LEN, MSEQ, payload, MAC, CRC. -/
def cairnMsg (key : Bytes) (typ head mseq : Nat) (payload : Bytes) : Bytes :=
  let a := leBytes 1 typ ++ leBytes 1 head ++ leBytes 2 payload.length ++ leBytes 8 mseq ++ payload
  let b := a ++ (hmac256 key a).take 16
  b ++ leBytes 4 (crc32c b)

/-- The MSEQ of the next message: COUNT and INCARNATION. -/
def nextMseq (s : State) : Nat := (s.crn.count + 1) % 2 ^ 48 + s.crn.ownInc * 2 ^ 48

/-- Send a message on the Cairn port; without the Cairn key or outside BOOT's end nothing is sent (R464, R545). -/
def sendCairn (s : State) (typ : Nat) (payload : Bytes) : State :=
  match s.areaKey 4 0 with
  | none => s
  | some k =>
    if s.pwr.mode = 0 ∨ s.pwr.mode = 2 then s else
    let q := s.nextMseq
    let others := s.crn.others.filter (fun p => decide ((s.time - p.2).toNat ≤ 100000)) ++ (if typ = 4 then [] else [(q, s.time)])
    ({ s with crn := { s.crn with count := s.crn.count + 1, msgSent := s.crn.msgSent + 1, others := others } }).emit
      (.cairn (cairnMsg k typ s.headId q payload))

/-! ### Pools of this head -/

/-- The pools this head owns, as a mask (R307). -/
def ownedMask (s : State) : Nat := sumBy (fun p => if p.2.rel = .owner then 2 ^ p.1 else 0) s.pools

def ownsPool (s : State) (p : Nat) : Bool := bit s.ownedMask p

/-- The pools for which this head is a live shadow, as a mask. -/
def shadowMask (s : State) : Nat :=
  sumBy (fun p => if p.2.rel = .shadow ∧ bit s.pair.caughtUp p.1 then 2 ^ p.1 else 0) s.pools

/-! ### Modes and the yield -/

/-- The head enters a mode (R535, R536), driving PEER_YIELD_N high as it leaves BRINGUP (R329); HALT stops every management core (R34). -/
def setMode (s : State) (m : Nat) : State :=
  if m = s.pwr.mode then s else
  let up := decide (s.pwr.mode = 3 ∧ m ≠ 2 ∧ m ≠ 8 ∧ m ≠ 11) && !s.pair.yielded
  let s := { s with pwr := { s.pwr with mode := m, prev := s.pwr.mode, modeTime := s.time, yieldN := s.pwr.yieldN || up } }
  if m = 11 then { s with mcores := s.mcores.map (fun p => (p.1, { p.2 with running := false })) } else s

/-- The payload that R343 asks of pair records: pools, term and cause. -/
def pairPayload (s : State) (pools cause : Nat) : Bytes :=
  leBytes 2 pools ++ leBytes 8 s.crn.term.toNat ++ leBytes 1 cause

/-- A PAIR_EVENT record (R343). -/
def pairEvent (s : State) (pools cause : Nat) : State := s.book 0x20 0x04A (s.pairPayload pools cause)

/-- A hold begins: the SQHD values are frozen as they stand (R336). -/
def freezeSqhd (s : State) : State :=
  { s with host := { s.host with queues := s.host.queues.map (fun p => (p.1, { p.2 with
    heldSqhd := some (p.2.heldSqhd.getD p.2.sqhd) })) } }

/-- The pools that a yield gives up: the owned ones, and those being taken (R337). -/
def yieldPools (s : State) : Nat :=
  s.crn.votes.foldl (fun a v => a ||| v.pools) (s.ownedMask ||| (match s.pair.fence with | some f => f.pools | none => 0))

/-- The yield sequencer (R329): outputs held, PEER_YIELD_N low, YIELD on both links, then QUARANTINE. -/
def yieldHead (s : State) (cause : Nat) : State :=
  if s.pair.yielded then s else
  let pools := s.yieldPools
  let s := { s with pair := { s.pair with yielded := true, yieldCause := cause, holdAll := true },
                    pwr := { s.pwr with yieldN := false } }
  let s := s.freezeSqhd
  let s := s.sendCairn 3 (leBytes 2 pools ++ leBytes 1 cause ++ zeros 5 ++ leBytes 8 s.time.toNat)
  let s := s.sendRope 0x0A true (leBytes 1 cause ++ zeros 7 ++ leBytes 8 s.time.toNat)
  let s := s.book 0x82 0x013 (s.pairPayload pools cause)
  if s.pwr.mode ∈ [4, 5, 6, 7, 9, 10] then s.setMode 8 else s

end Sys2Proof.Machine.State
end

