-- ==== Sys2Proof/Machine/Post.lean ====
section
/-! DEFINITION. What the head posts: completions of host commands (R16, R318, R336, R391, R392), posted writes and
completions of route calls (R57, R62, R411–R414, R423), and the range locks they release (R388, R389). -/

namespace Sys2Proof.Machine.State

/-! ### Posted writes of PF0 -/

/-- A posted write leaves at once, or waits in order for Bus Master Enable (R414, R423). -/
def post (s : State) (p : Posted) : State :=
  if s.pep.bme0 && s.pep.posted.isEmpty then s.emit (.hostWrite p.addr p.data)
  else { s with pep := { s.pep with posted := s.pep.posted ++ [p] } }

/-- Entries of the submission and completion queues (PEP.CALLQ_CFG; 0 acts as 1). -/
def sqEntries (s : State) : Nat := max 1 (s.regBits rCallqCfg 1 10) + 1
def cqEntries (s : State) : Nat := max 1 (s.regBits rCallqCfg 11 16) + 1

def callqOn (s : State) : Bool := s.regBit rCallqCfg 0

/-- Write one completion entry at CQ_TAIL with the current phase; vector 1 follows when NOTIFY is set (R411, R413). -/
def cplWrite (s : State) (c : Cpl) : State :=
  let t := s.pep.cqTail
  let e := c.entry.take 7 ++ leBytes 1 (b2n s.pep.phase) ++ c.entry.drop 8
  let t' := (t + 1) % s.cqEntries
  let s1 := { s with pep := { s.pep with
    cqTail := t', phase := if t' = 0 then !s.pep.phase else s.pep.phase, completed := s.pep.completed + 1 } }
  let s2 := s1.post { addr := (s.reg rCqBase).toNat + 16 * t, data := e, call := none, cpl := some c.call,
                      since := s.time }
  if c.notify then s2.sendVec 0 1 else s2

/-- Is the completion queue full? -/
def cqFull (s : State) : Bool := decide ((s.pep.cqTail + 1) % s.cqEntries = s.pep.cqHead)

/-- A completion: written at CQ_TAIL, or waiting in order while the queue is full (R411). -/
def cplPush (s : State) (c : Cpl) : State :=
  if s.cqFull || !s.pep.cplWait.isEmpty then
    ({ s with pep := { s.pep with cplWait := s.pep.cplWait ++ [c] } }).raise rPepEvents 0x200
  else s.cplWrite c

/-- Waiting completions are written while places are free. -/
def cplDrain : Nat → State → State
  | 0, s => s
  | n + 1, s =>
    match s.pep.cplWait with
    | [] => s
    | c :: r =>
      if s.cqFull then s
      else cplDrain n (cplWrite { s with pep := { s.pep with cplWait := r } } c)

/-! ### Route call entries (R56, R57) -/

def callSlot (e : Bytes) : Nat := fieldAt e 0 2
def callRidge (e : Bytes) : Nat := fieldAt e 2 1
def callNotify (e : Bytes) : Bool := bit (fieldAt e 3 1) 0
def callTag (e : Bytes) : Bytes := sliceAt e 4 4
def callPool (e : Bytes) : Nat := fieldAt e 8 1
def callArgc (e : Bytes) : Nat := fieldAt e 9 1
def callPlen (e : Bytes) : Nat := fieldAt e 0x0C 4
def callPaddr (e : Bytes) : Nat := fieldAt e 0x10 8
/-- ARGi, zero beyond ARGC (R62). -/
def callArg (e : Bytes) (i : Nat) : Nat := if i < callArgc e then fieldAt e (0x18 + 8 * i) 8 else 0

/-- The completion entry of R57, its PHASE still zero. -/
def callCplEntry (e : Bytes) (status ridge detail result : Nat) : Bytes :=
  callTag e ++ leBytes 1 status ++ leBytes 1 ridge ++ leBytes 1 detail ++ [0] ++ leBytes 8 result

/-- A call ends: its completion goes to the host's queue or to the firmware's (R34, R57, R412). -/
def endCall (s : State) (n : Nat) (status ridge detail result : Nat) : State :=
  match Tbl.find s.calls n with
  | none => s
  | some c =>
    let e := callCplEntry c.entry status ridge detail result
    let s1 := { s with calls := Tbl.del s.calls n }
    if c.discarded then s1
    else if c.internal then { s1 with internalCpl := s1.internalCpl ++ [e] }
    else s1.cplPush { call := n, entry := e, notify := callNotify c.entry }

/-! ### Range locks (R388–R391) -/

/-- Do two entries conflict (R389)? A read and a merge do not (R187). -/
def lockConflict (a b : Lock) : Bool :=
  decide (a.nsid = b.nsid) && (a.write || b.write) && !(a.merge && !b.write) && !(b.merge && !a.write) &&
  (match a.key, b.key with
   | some x, some y => decide (x = y)
   | none, none => decide (a.start < b.start + b.len) && decide (b.start < a.start + a.len)
   | _, _ => false)

/-- Release every entry of a command (R391). -/
def unlock (s : State) (cmd : Nat) : State :=
  { s with host := { s.host with locks := s.host.locks.filter (fun l => decide (l.cmd ≠ some cmd)) } }

/-! ### Completions of host commands -/

/-- The status field [14:0] of R93: SC, SCT, DNR. -/
def stField (st : NvmeStatus) : Nat :=
  st.sc % 256 + st.sct % 8 * 2 ^ 8 + st.crd % 4 * 2 ^ 11 + b2n st.more * 2 ^ 13 + b2n st.dnr * 2 ^ 14

def stOk : NvmeStatus := { sct := 0, sc := 0, dnr := false }
/-- Internal Error (R68). -/
def stInternal : NvmeStatus := { sct := 0, sc := 0x06, dnr := false }
/-- Data Transfer Error (R17). -/
def stTransfer : NvmeStatus := { sct := 0, sc := 0x04, dnr := false }
/-- Unrecovered Read Error (R18, R399). -/
def stUnrecovered : NvmeStatus := { sct := 2, sc := 0x81, dnr := false }
/-- Capacity Exceeded (R268, R392). -/
def stCapacity : NvmeStatus := { sct := 0, sc := 0x81, dnr := false }
/-- Invalid Field in Command, Invalid Command Opcode (R380). -/
def stField02 : NvmeStatus := { sct := 0, sc := 0x02, dnr := true }
def stOpcode : NvmeStatus := { sct := 0, sc := 0x01, dnr := true }
/-- Data SGL Length Invalid and Transient Transport Error (R393). -/
def stSgl : NvmeStatus := { sct := 0, sc := 0x0F, dnr := true }
def stTransient : NvmeStatus := { sct := 0, sc := 0x22, dnr := false }
/-- Asymmetric Access Inaccessible and Transition (R383). -/
def stInaccessible : NvmeStatus := { sct := 3, sc := 0x02, dnr := false }
def stTransition : NvmeStatus := { sct := 3, sc := 0x03, dnr := false }

def setCmd (s : State) (n : Nat) (c : HCmd) : State :=
  { s with host := { s.host with cmds := Tbl.set s.host.cmds n c } }

def delCmd (s : State) (n : Nat) : State := { s with host := { s.host with cmds := Tbl.del s.host.cmds n } }

/-- The pool of a namespace, if it exists (R203, R383). -/
def nsPool (s : State) (nsid : Nat) : Option Nat :=
  match s.pools.find? (fun p => p.2.nss.any (fun n => decide (n.1 = nsid))) with
  | some p => some p.1
  | none => none

/-- Does the head hold the rope lease or the Cairn lease (R318)? -/
def ropeLease (s : State) : Bool := decide (s.time.toNat < s.rope.leaseTo.toNat)
def cairnLease (s : State) : Bool := decide (s.time.toNat < s.crn.leaseTo.toNat)

/-- Are all host-facing outputs held (R318, R329)? -/
def allHeld (s : State) : Bool := s.pair.holdAll || !(s.ropeLease || s.cairnLease)

/-- Are the host-facing outputs for this command held (R318, R329, R331, R336)? -/
def outputsHeld (s : State) (c : HCmd) : Bool :=
  s.allHeld ||
  match s.nsPool c.cap.nsid with
  | some p => bit s.pair.holdPools p
  | none => false

/-- Has a pool that this head owns a live shadow (R307), so that groups wait for its acknowledgement? -/
def hasShadow (s : State) (p : Nat) : Bool :=
  bit s.pair.peerCaught p && !s.pair.solo

/-- Does the peer get a pool's stream: a live shadow, or a head that joins (R322, R340)? -/
def streams (s : State) (p : Nat) : Bool := s.hasShadow p || s.pair.joining

/-- The header of a SHADOW item (R324). -/
def shadowHead (p kind len : Nat) : Bytes := leBytes 1 p ++ leBytes 1 kind ++ leBytes 2 len

/-- The remove item of a write's queue shadow (R324). -/
def shadowRemove (s : State) (n : Nat) (c : HCmd) : State :=
  match s.nsPool c.cap.nsid, Tbl.find s.host.queues c.queue with
  | some p, some q =>
    if s.streams p && s.host.locks.any (fun l => decide (l.cmd = some n) && l.write) then
      s.sendRope 0x06 false (shadowHead p 4 8 ++ leBytes 2 q.cntlid ++ leBytes 2 q.qid ++ leBytes 2 c.cap.cid ++ zeros 2)
    else s
  | _, _ => s

/-- The SQHD a completion reports: the one of the beginning of a hold while it lasts (R336). -/
def reportedSqhd (q : HQueue) : Nat := q.heldSqhd.getD q.sqhd

/-- Post the completion of a host command, over the fabric or to the head that forwarded it, and release its
entries; a lost connection gets no completion (R309, R391, R397). -/
def postNow (s : State) (n : Nat) (c : HCmd) (st : NvmeStatus) (dw0 dw1 : Nat) (readData : Bytes) : State :=
  let s1 := ((s.shadowRemove n c).delCmd n).unlock n
  match c.fwd with
  | some id =>
    if c.lost then s1 else
    s1.sendRope 0x08 false (leBytes 8 id ++ leBytes 4 dw0 ++ leBytes 4 dw1 ++ zeros 4 ++ leBytes 2 c.cap.cid
      ++ leBytes 2 (stField st * 2) ++ readData)
  | none =>
    if c.lost then s1 else
    match Tbl.find s1.host.queues c.queue with
    | none => s1
    | some q =>
      let s2 := if readData.isEmpty then s1 else s1.emit (.hostData c.queue c.cap.cid 0 readData)
      s2.emit (.nvme c.queue c.cap.cid (reportedSqhd q) (stField st) dw0 dw1)

/-- Complete a host command now, or keep the completion while outputs are held. -/
def complete (s : State) (n : Nat) (st : NvmeStatus) (dw0 dw1 : Nat) : State :=
  match Tbl.find s.host.cmds n with
  | none => s
  | some c =>
    if s.outputsHeld c && !c.lost then s.setCmd n { c with heldCpl := some (st, dw0, dw1), phase := .over }
    else s.postNow n c st dw0 dw1 (if st = stOk then c.rdata else [])

/-- The notice of an ANA change to each controller that enabled it (R383). -/
def anaNotify (s : State) : State :=
  s.host.ctrls.foldl (fun t q => if q.2.anaNotice then t.emit (.aen q.1 0x03 0x0C) else t) s

/-- ANA changes that came while the outputs were held are announced (R336). -/
def releaseAna (s : State) : State :=
  if s.host.anaDue && !s.allHeld then ({ s with host := { s.host with anaDue := false } }).anaNotify else s

/-- Post every kept completion whose outputs are no longer held, in arrival order (R336). -/
def releaseHeld (s : State) : State :=
  let s := s.releaseAna
  let s0 := { s with host := { s.host with queues := s.host.queues.map (fun p => (p.1, { p.2 with
    heldSqhd := if s.pair.holdAll || decide (s.pair.holdPools ≠ 0) then p.2.heldSqhd else none })) } }
  s.host.cmds.foldl (fun t p =>
    match p.2.heldCpl with
    | some (st, d0, d1) => if t.outputsHeld p.2 then t else t.postNow p.1 p.2 st d0 d1 (if st = stOk then p.2.rdata else [])
    | none => t) s0

end Sys2Proof.Machine.State
end

