-- ==== Sys2Proof/Machine/Refs.lean ====
section
/-! DEFINITION. Chunk-store records and their reference counts (R140, R141, R188), pages of a pool's map, and the plans of
writes in flight: what the end of a climb must be able to take back (R68, R142). -/

namespace Sys2Proof.Machine

/-! ### Chunk-store records (R188) -/

def mkLoc (seg off : Nat) (biv : Bool) : Nat := seg % 2 ^ 32 + off % 2 ^ 27 * 2 ^ 32 + b2n biv * 2 ^ 59
def mkRef (flen olen cnt : Nat) (meta' : Bool) : Nat :=
  flen % 2 ^ 21 + (olen - 1) % 2 ^ 20 * 2 ^ 21 + cnt % 2 ^ 20 * 2 ^ 41 + b2n meta' * 2 ^ 62 + 2 ^ 63

def CRec.seg (r : CRec) : Nat := bits r.loc 0 32
/-- Frame start in bytes. -/
def CRec.off (r : CRec) : Nat := bits r.loc 32 27 * 16
def CRec.biv (r : CRec) : Bool := bit r.loc 59
def CRec.lost (r : CRec) : Bool := bit r.loc 60
def CRec.flen (r : CRec) : Nat := bits r.ref 0 21
def CRec.olen (r : CRec) : Nat := bits r.ref 21 20 + 1
def CRec.cnt (r : CRec) : Nat := bits r.ref 41 20
def CRec.dying (r : CRec) : Bool := bit r.ref 61
def CRec.isMeta (r : CRec) : Bool := bit r.ref 62
def CRec.valid (r : CRec) : Bool := bit r.ref 63
def CRec.live (r : CRec) : Bool := r.valid && !r.dying

/-- The same record with another count and DYING flag. -/
def CRec.withCnt (r : CRec) (c : Nat) (dying : Bool) : CRec :=
  { r with ref := bits r.ref 0 41 + c % 2 ^ 20 * 2 ^ 41 + b2n dying * 2 ^ 61 + bits r.ref 62 2 * 2 ^ 62 }

def CRec.setLost (r : CRec) : CRec := { r with loc := if r.lost then r.loc else r.loc + 2 ^ 60 }

/-- The record of a handle; an unlisted one is all zeros. -/
def Pool.rec' (p : Pool) (h : Nat) : CRec := Tbl.getD p.recs h { loc := 0, ref := 0 }

namespace Pool

/-! ### Lines, pages and records -/

def line (p : Pool) (ln : Nat) : Line := Tbl.getD p.lines ln Line.fresh
def setLine (p : Pool) (ln : Nat) (l : Line) : Pool :=
  { p with lines := if l = Line.fresh then Tbl.del p.lines ln else Tbl.set p.lines ln l }
def dirE (p : Pool) (mpn : Nat) : DirE := Tbl.getD p.dir mpn DirE.fresh
def setDir (p : Pool) (mpn : Nat) (d : DirE) : Pool := { p with dir := Tbl.set p.dir mpn d }
def slabUse (p : Pool) (sa : Nat) : SlabUse := Tbl.getD p.uses sa SlabUse.fresh
def setUse (p : Pool) (sa : Nat) (u : SlabUse) : Pool := { p with uses := Tbl.set p.uses sa u }
/-- Store a record (R188); its chunk-store page becomes dirty, unless it is a root page (R143, R235). -/
def setRec (p : Pool) (h : Nat) (r : CRec) : Pool :=
  let p1 := { p with recs := Tbl.set p.recs h r }
  if h ≥ 2 ^ 47 then p1 else
  let mpn := p.num * 2 ^ 44 + 2 ^ 43 + h / 256
  p1.setDir mpn { p1.dirE mpn with present := true, resident := true, dirty := true }

/-- The count of a chunk changes; reaching zero sets DYING and lists the handle where a REMOVE is due (R140, R141). -/
def refAdd (p : Pool) (h : Nat) (d : Int) : Pool :=
  match Tbl.find p.recs h with
  | none => p
  | some r =>
    let c := ((r.cnt : Int) + d).toNat
    let c := if c > 0xFFFFF then 0xFFFFF else c
    let die := decide (c = 0) && decide (d < 0) && r.valid
    let p1 := p.setRec h (r.withCnt c (r.dying || die))
    if die && !r.dying && p.cfg.dedup && !r.isMeta && !decide (h ∈ p.dying) then { p1 with dying := p1.dying ++ [h] } else p1

end Pool

/-! ### Writes in flight (R68, R140, R142) -/

/-- The references that a write in flight holds beyond the map: its shared chunks (R140). -/
def State.heldRefs (w : WPlan) : List Nat :=
  let fresh := (w.items.filter WItem.fresh).map WItem.handle
  (w.items.filter (fun i => decide (i.form < 3) && !i.fresh && !decide (i.handle ∈ fresh))).map WItem.handle

/-- The chunks that a write stores under new handles: their record stands with count 1 from then on (R137, R140). -/
def State.freshItems (w : WPlan) : List WItem := w.items.filter (fun i => i.fresh && decide (i.form < 3) && !i.frame.isEmpty)

/-- A write that is given up counts the chunks it stored down (R141). -/
def State.dropFresh (w : WPlan) (x : Pool) : Pool := (freshItems w).foldl (fun y i => y.refAdd i.handle (-1)) x

namespace State

def plan (s : State) (n : Nat) : Option WPlan := Tbl.find s.plans n
def setPlan (s : State) (n : Nat) (w : WPlan) : State := { s with plans := Tbl.set s.plans n w }
/-- The plan number of a library write that no host command owns. -/
def nextPlan (s : State) : Nat := max (2 ^ 34) (Tbl.next s.plans)
def delPlan (s : State) (n : Nat) : State := { s with plans := Tbl.del s.plans n }

/-- The programs and appends of a write in flight are forgotten; what they have written is never named by the map. -/
def dropSvcs (s : State) (n : Nat) : State :=
  { s with svc := s.svc.filter (fun q => match q.2 with
    | .land _ c _ _ _ _ => decide (c ≠ n)
    | .append _ c _ _ _ => decide (c ≠ n)
    | _ => true) }

/-- The climb of a write has ended by trap or freeze (R68, R142): a plan whose group is not accepted gives its references back and
goes; one whose group is accepted is marked, and the group is cancelled when its next program ends (R232). -/
def endPlan (s : State) (n : Nat) : State :=
  match s.plan n with
  | none => s
  | some w =>
    if w.accepted then s.setPlan n { w with aborted := true }
    else
      let s1 := { s with pools := Tbl.upd s.pools w.pool (fun x => dropFresh w ((heldRefs w).foldl (fun y h => y.refAdd h (-1)) { x with num := w.pool })) }
      (s1.delPlan n).dropSvcs n

end State

end Sys2Proof.Machine
end

