-- ==== Sys2Proof/Machine/Climb.lean ====
section
/-! DEFINITION. Climbs and cores (R33–R53, R63–R68): residency, allocation, tokens, buffers, traps and freezing. -/

namespace Sys2Proof.Machine

/-- An entry of the route table (R54). -/
structure Route where
  entry     : Nat
  codeKib   : Nat
  handler   : Nat
  valid     : Bool
  opened    : Bool
  callable  : Bool
  bg        : Bool
  writeback : Bool
  args      : Nat
  deriving DecidableEq, Repr

/-! ### Handles (R51, R52) -/

/-- The null handle. -/
def nullH : W64 := 0xFFFFFFFFFFFFFFFF

/-- Length in bytes: 0 means 1 MiB. -/
def hLen (h : W64) : Nat := if bits h.toNat 0 20 = 0 then 0x100000 else bits h.toNat 0 20
def hOff (h : W64) : Nat := bits h.toNat 20 24
def hSlot (h : W64) : Nat := bits h.toNat 44 13
def hGen (h : W64) : Nat := bits h.toNat 57 7

/-- The handle of buffer (slot, generation) at an offset, of a length up to 1 MiB. -/
def mkH (slot gen off len : Nat) : W64 :=
  BitVec.ofNat 64 (len % 2 ^ 20 + off % 2 ^ 24 * 2 ^ 20 + slot % 2 ^ 13 * 2 ^ 44 + gen % 2 ^ 7 * 2 ^ 57)

/-- A completion word (R49). -/
def cplWord (status cls result : Nat) : W64 :=
  BitVec.ofNat 64 (status % 256 + cls % 32 * 2 ^ 8 + result % 2 ^ 32 * 2 ^ 32)

namespace State

/-! ### Addresses (R21) -/

def bufBase (ridge : Nat) : Nat := 0x080000000000 + ridge * 0x2000000
/-- The context of a climb in its climb store. -/
def storeAddr (cid : Nat) : Nat := 0x0A0000000000 + cid / 1024 * 0x100000 + cid % 1024 * 0x400
/-- Its climb-local memory. -/
def localAddr (cid : Nat) : Nat := storeAddr cid + 0x200

/-! ### Accessors -/

def climb (s : State) (cid : Nat) : Climb := Tbl.getD s.climbs cid Climb.fresh
def setClimb (s : State) (cid : Nat) (c : Climb) : State := { s with climbs := Tbl.set s.climbs cid c }
def updClimb (s : State) (cid : Nat) (f : Climb → Climb) : State := s.setClimb cid (f (s.climb cid))
def core (s : State) (k : Nat) : DCore := Tbl.getD s.cores k DCore.fresh
def setCore (s : State) (k : Nat) (c : DCore) : State := { s with cores := Tbl.set s.cores k c }
def mcore (s : State) (m : Nat) : MCore := Tbl.getD s.mcores m MCore.fresh
def setMcore (s : State) (m : Nat) (c : MCore) : State := { s with mcores := Tbl.set s.mcores m c }

/-- The control-space base of a ridge's CLIMB sub-block. -/
def climbBlk (ridge : Nat) : Nat := 0x1040000 + ridge * 0x100000

/-- RESERVE; values above 256 act as 256. -/
def reserve (s : State) (ridge : Nat) : Nat := min 256 (s.regBits (climbBlk ridge + 8) 0 11)
def quantum (s : State) (ridge : Nat) : Nat := s.regBits (climbBlk ridge + 8) 12 16
def bgShare (s : State) (ridge : Nat) : Nat := s.regBits (climbBlk ridge + 8) 28 4
def wdLimit (s : State) (ridge : Nat) : Nat := s.regBits (climbBlk ridge + 8) 32 32

/-- The climbs of a ridge that are not FREE. -/
def ridgeClimbs (s : State) (ridge : Nat) : List (Nat × Climb) :=
  s.climbs.filter (fun p => decide (p.1 / 1024 = ridge) && decide (p.2.state ≠ .free))

/-- How many climbs of a ridge are in a state. -/
def countState (s : State) (ridge : Nat) (st : CState) : Nat :=
  ((s.ridgeClimbs ridge).filter (fun p => decide (p.2.state = st))).length

/-- How many climbs of a ridge are FREE. -/
def freeClimbs (s : State) (ridge : Nat) : Nat := 1024 - (s.ridgeClimbs ridge).length

/-- The climbs resident on a core. -/
def residents (s : State) (k : Nat) : List (Nat × Climb) :=
  s.climbs.filter (fun p => decide (p.2.core = some k))

/-- The climb RUNNING on a datapath core. -/
def runningOn (s : State) (ridge core : Nat) : Option Nat := (s.core (4 * ridge + core)).running

/-- The callable routes of the library (R568): ARGS, one more than the highest ARGn that its row of the call tables names, and WRITEBACK,
which a route that returns records sets (R264). -/
def libSig (slot : Nat) : Option (Nat × Bool) :=
  if slot ∈ [40, 41, 53, 62, 64, 69, 70, 82, 83, 99, 101, 105, 112, 113, 114, 115] then some (0, false)
  else if slot ∈ [51, 55, 61, 73, 97, 106, 117] then some (0, true)
  else if slot ∈ [44, 60, 65, 67, 71, 89, 104, 116] then some (1, false)
  else if slot ∈ [45, 49, 56, 68, 72, 84, 94, 108] then some (1, true)
  else if slot ∈ [48, 52, 54, 81, 92, 93, 98, 100, 102] then some (2, false)
  else if slot ∈ [50, 109] then some (2, true)
  else if slot ∈ [42, 43, 66, 80, 88] then some (3, false)
  else if slot = 96 then some (4, true)
  else none

/-- What the call tables fix of a library slot's entry (R568, R569): a listed slot is callable with its ARGS and WRITEBACK, any other
slot of the library is not callable. Open slots are as their entry says. -/
def libFix (slot : Nat) (r : Route) : Route :=
  if 192 ≤ slot then r
  else match libSig slot with
    | some (args, wb) => { r with callable := true, args := args, writeback := wb, opened := false }
    | none => { r with callable := false, opened := false }

/-- The route table entry of a slot, read where `SYS.ROUTE_BASE` points (R54); a library slot's CALLABLE, ARGS and WRITEBACK are those
of the call tables, whatever image is loaded (DEDUCED, log entry 72). -/
def route (s : State) (slot : Nat) : Route :=
  let a := s.regBits rRouteBase 0 48 + 16 * slot
  let w0 := s.rdNat a 8
  let w1 := s.rdNat (a + 8) 8
  let r : Route := { entry := bits w0 0 48, codeKib := bits w0 48 16,
                     handler := bits w1 0 48, valid := bit w1 48, opened := bit w1 49,
                     callable := bit w1 50, bg := bit w1 51, writeback := bit w1 52, args := bits w1 56 3 }
  libFix slot r

/-! ### State changes (R36, R37) -/

/-- A climb changes state; the order stamp and TIME record when. -/
def chg (s : State) (cid : Nat) (st : CState) : State :=
  let c := s.climb cid
  (s.setClimb cid { c with state := st, since := s.time, stamp := s.stamp }).tick

/-- The core on which a climb is RUNNING has no RUNNING climb any more. -/
def offCore (s : State) (cid : Nat) : State :=
  match (s.climb cid).core with
  | some k => if (s.core k).running = some cid then s.setCore k { s.core k with running := none } else s
  | none => s

/-- A RUNNING climb leaves RUNNING for another state. -/
def leave (s : State) (cid : Nat) (st : CState) : State := (s.offCore cid).chg cid st

/-- A blocked climb becomes READY. -/
def wakeUp (s : State) (cid : Nat) : State := (s.updClimb cid (fun c => { c with await := .none })).chg cid .ready

/-- The core a new climb goes to: the unfrozen core with the fewest residents, if it has a slot (R40). -/
def homeCore (s : State) (ridge : Nat) : Option Nat :=
  match minBy (fun k => (s.residents k).length)
      ((List.range 4).map (fun m => 4 * ridge + m) |>.filter (fun k => !(s.core k).frozen)) with
  | some k => if (s.residents k).length < 16 then some k else none
  | none => none

/-- The FREE climb freed least recently; climbs not used since reset come first, in index order (R47). -/
def oldestFree (s : State) (ridge : Nat) : Option Nat :=
  let free := (List.range 1024).filter (fun i => decide ((s.climb (1024 * ridge + i)).state = .free))
  match free.find? (fun i => (Tbl.find s.climbs (1024 * ridge + i)).isNone) with
  | some i => some (1024 * ridge + i)
  | none => (minBy (fun i => (s.climb (1024 * ridge + i)).stamp) free).map (fun i => 1024 * ridge + i)

/-- Allocate a FREE climb of a ridge and make it READY, its local memory zeroed (R43, R46–R48). -/
def allocClimb (s : State) (ridge : Nat) (init : Climb) : Option (Nat × State) :=
  match s.oldestFree ridge with
  | none => none
  | some cid =>
    let c := { init with
      core := s.homeCore ridge, state := .ready, since := s.time, stamp := s.stamp }
    some (cid, ({ s with climbs := Tbl.set s.climbs cid c, mem := Mem.wipe s.mem (localAddr cid) 512 }).tick)

/-! ### Buffers (R51–R53) -/

/-- Is the handle live in a ridge (R52)? -/
def liveH (s : State) (ridge : Nat) (h : W64) : Bool :=
  decide (h ≠ nullH) && (Tbl.find s.bufs (8192 * ridge + hSlot h)).isSome
    && decide (Tbl.getD s.gens (8192 * ridge + hSlot h) 0 = hGen h)

/-- The buffer a live handle names. -/
def bufOf (s : State) (ridge : Nat) (h : W64) : Buf :=
  (Tbl.find s.bufs (8192 * ridge + hSlot h)).getD { base := 0, grans := 0, bytes := 0, owner := 0 }

/-- The device address of byte 0 of a handle's range. -/
def hAddr (s : State) (ridge : Nat) (h : W64) : Nat :=
  bufBase ridge + (s.bufOf ridge h).base * 1024 + hOff h

/-- The bytes of a handle's range. -/
def hBytes (s : State) (ridge : Nat) (h : W64) : Bytes := s.rdBytes (s.hAddr ridge h) (hLen h)

/-- Write bytes at an offset of a handle's range. -/
def hWrite (s : State) (ridge : Nat) (h : W64) (off : Nat) (d : Bytes) : State :=
  s.wrBytes (s.hAddr ridge h + off) d

/-- Granules taken by live buffers and by wipes that have not ended. -/
def takenGrans (s : State) (ridge : Nat) : Nat :=
  sumBy (fun p => p.2.grans) (s.bufs.filter (fun p => decide (p.1 / 8192 = ridge)))
  + sumBy (fun p => p.2) (s.wipes.filter (fun p => decide (p.1 / 24576 = ridge)))

/-- `RDG[n].BUF_FREE` (R51). -/
def freeGrans (s : State) (ridge : Nat) : Nat := 24576 - s.takenGrans ridge

/-- `RDG[n].BUF_LIVE`. -/
def liveBufs (s : State) (ridge : Nat) : Nat := (s.bufs.filter (fun p => decide (p.1 / 8192 = ridge))).length

/-- `RDG[n].BUF_RESERVE`; values above 12,288 act as 12,288. -/
def bufReserve (s : State) (ridge : Nat) : Nat := min 12288 (s.regBits (0x10F0008 + ridge * 0x100000) 0 15)

/-- Is the run of `n` granules from `b` free? -/
def gransFree (s : State) (ridge b n : Nat) : Bool :=
  decide (b + n ≤ 24576)
  && (s.bufs.all (fun p => decide (p.1 / 8192 ≠ ridge) || decide (p.2.base + p.2.grans ≤ b) || decide (b + n ≤ p.2.base)))
  && (s.wipes.all (fun p => decide (p.1 / 24576 ≠ ridge) || decide (p.1 % 24576 + p.2 ≤ b) || decide (b + n ≤ p.1 % 24576)))

/-- Where a buffer of `n` granules may start. -/
def placements (s : State) (ridge n : Nat) : List Nat := (List.range 24576).filter (fun b => s.gransFree ridge b n)

/-- Can an allocation of `bytes` be met for this class (R51)? -/
def allocable (s : State) (ridge bytes : Nat) (bg : Bool) : Bool :=
  let n := ceilDiv bytes 1024
  decide (s.liveBufs ridge < 8191)
    && decide (n + (if bg then 0 else s.bufReserve ridge) ≤ s.freeGrans ridge)
    && !(s.placements ridge n).isEmpty

/-- Allocate a buffer: which granules and which slot are free choices (log entry 3). -/
def allocBuf (s : State) (ridge bytes owner : Nat) : Nat × State :=
  let n := ceilDiv bytes 1024
  let ps := s.placements ridge n
  let b := ps.getD (s.pick ps.length) 0
  let s1 := s.used
  let slots := (List.range 8191).filter (fun k => (Tbl.find s.bufs (8192 * ridge + k)).isNone)
  let k := slots.getD (s1.pick slots.length) 0
  (k, { s1.used with bufs := Tbl.set s.bufs (8192 * ridge + k) { base := b, grans := n, bytes := bytes, owner := owner } })

/-- The handle of byte range [off, off + len) of the buffer in a slot. -/
def slotH (s : State) (ridge slot off len : Nat) : W64 := mkH slot (Tbl.getD s.gens (8192 * ridge + slot) 0) off len

/-- Free the buffer in a slot: its generation advances and its granules are wiped (R51, R52). -/
def freeBuf (s : State) (ridge slot : Nat) : State :=
  match Tbl.find s.bufs (8192 * ridge + slot) with
  | none => s
  | some b =>
    { s with bufs := Tbl.del s.bufs (8192 * ridge + slot),
             gens := Tbl.set s.gens (8192 * ridge + slot) ((Tbl.getD s.gens (8192 * ridge + slot) 0 + 1) % 128),
             wipes := Tbl.set s.wipes (24576 * ridge + b.base) b.grans }

/-- Offset of a peer window's registers in control space. -/
def winReg (w : Nat) : Nat := 0xD0100 + w * 0x40

/-- Does an active or a pending set of a peer window name this buffer (R419)? -/
def windowNames (s : State) (ridge slot : Nat) : Bool :=
  (List.range 8).any (fun w =>
    let names := fun (h ctl : W64) => decide (h ≠ nullH) && decide (bits ctl.toNat 0 3 = ridge)
      && decide (hSlot h = slot) && s.liveH ridge h
    names (s.reg (winReg w + 0x10)) (s.reg (winReg w + 0x18))
      || (decide (w ∈ s.pep.commits) && names (s.reg (winReg w)) (s.reg (winReg w + 8))))

/-- The buffers that a climb owns, as slots. -/
def ownedBufs (s : State) (cid : Nat) : List Nat :=
  (s.bufs.filter (fun p => decide (p.1 / 8192 = cid / 1024) && decide (p.2.owner = cid))).map (fun p => p.1 % 8192)

/-! ### Tokens (R48, R49) -/

def Tok.isPending : Tok → Bool
  | .pending => true
  | _ => false

def Tok.isDone : Tok → Bool
  | .done _ => true
  | _ => false

/-- A token becomes DONE. Completions for a climb that has ended are discarded (R38); a WAITING climb whose token
this is becomes READY (R37), a PARKED one stays PARKED (R98). -/
def doneToken (s : State) (cid tok : Nat) (w : W64) : State :=
  let c := s.climb cid
  if c.ended ≠ .running then s.setClimb cid { c with t := c.t.set tok .idle }
  else
    let s1 := s.setClimb cid { c with t := c.t.set tok (.done w) }
    match c.state, c.await with
    | .waiting, .token m => if bit m tok then s1.wakeUp cid else s1
    | _, _ => s1

/-- The live children of a climb. -/
def liveChild (s : State) (cid : Nat) : Bool :=
  s.climbs.any (fun p => decide (p.2.state ≠ .free) && decide (p.2.parent = some cid))

/-- Has an ended climb drained: no pending token, no live child, no buffer that a window names (R37, R38, R419)? -/
def drained (s : State) (cid : Nat) : Bool :=
  !(s.climb cid).t.any Tok.isPending && !s.liveChild cid
    && (s.ownedBufs cid).all (fun k => !s.windowNames (cid / 1024) k)

/-- The completion word of a SPAWN token (R49). -/
def spawnWord : EndWhy → W64
  | .exit code => cplWord 0 0x1F code
  | .trap cause => cplWord 0x41 0x1F cause
  | .freeze => cplWord 0x42 0x1F 0
  | .running => cplWord 0 0x1F 0

/-- A climb becomes FREE: its buffers and digest contexts are freed and its parent's token becomes DONE
(R38, R49, R53, R117). -/
def freeClimb (s : State) (cid : Nat) : State :=
  let c := s.climb cid
  let s1 := (s.ownedBufs cid).foldl (fun t k => t.freeBuf (cid / 1024) k) s
  let s2 := { s1 with digs := s1.digs.filter (fun p => decide (p.2.owner ≠ cid)) }
  let s3 := s2.chg cid .free
  let s4 := s3.updClimb cid (fun c => { c with core := none, await := .none, bg := c.bg })
  match c.parent with
  | some p => s4.doneToken p c.parentTok (spawnWord c.ended)
  | none => s4

/-- The digest contexts of a climb that has ended are released, but for those that a queued job of it names (R117). -/
def dropCtx (s : State) (cid : Nat) : State :=
  if (s.climb cid).ended = .running then s
  else { s with digs := s.digs.filter (fun p => decide (p.2.owner ≠ cid) || s.jobs.any (fun q =>
    decide (q.2.cid = cid) && decide (q.2.cls = 2) && decide (q.2.ridge = p.1 / 64) && decide (2 ≤ fieldAt q.2.desc 0 1)
      && decide (fieldAt q.2.desc 2 1 = p.1 % 64))) }

/-- A climb leaves its program: it holds no residency slot, and becomes FREE once it has drained (R37, R38). -/
def retire (s : State) (cid : Nat) (why : EndWhy) : State :=
  let s1 := s.offCore cid
  let s2 := (s1.updClimb cid (fun c => { c with core := none, ended := why, await := .none })).dropCtx cid
  if s2.drained cid then s2.freeClimb cid else s2.chg cid .waiting

/-- The climb of a library route takes its turn on a core: what it waits for is there, so it is READY, is dispatched, and is RUNNING
when its route's last instructions act (R36, R37). A row of the library stands for the whole run of its route, between two instructions
of the climb that the core shows as RUNNING (DESIGN CHOICE, log entry 70). -/
def libTurn (s : State) (cid : Nat) : State :=
  let c := s.climb cid
  if c.state = .running then s
  else
    let s1 := if c.state = .ready then s else s.wakeUp cid
    let home := match c.core with
      | some k => some k
      | none => s1.homeCore (cid / 1024)
    let s2 := (s1.updClimb cid (fun d => { d with core := home, deadline := none, quant := 0 })).chg cid .running
    match home with
    | some k => s2.setCore k { s2.core k with switches := (s2.core k).switches + 1 }
    | none => s2

/-- The EXIT of a library route's climb (R37). -/
def libEnd (s : State) (cid : Nat) (why : EndWhy) : State := (s.libTurn cid).retire cid why

/-- A PARK of a library route whose condition has not come yet (R37, R39, R44): a wake that came before is consumed and the PARK
returns at once, the route finds its condition still absent and parks again. -/
def libPark (s : State) (cid : Nat) : State :=
  let s1 := (s.libTurn cid).updClimb cid (fun c => { c with wakePending := false, run := 0, parkRd := 0 })
  (s1.leave cid .parked).updClimb cid (fun c => { c with core := none })

/-! ### Background jobs (R15, R68) -/

/-- STATE of a LOP entry, and its PHASE (R26). -/
def lopWord (s : State) (i : Nat) : Nat := (s.reg (0xF0000 + i * 0x20)).toNat
def lopPhase (w : Nat) : Nat := bits w 5 3

/-- The climb of a LOP entry's job: background class, in a ridge of the job's; none while no climb is FREE there. -/
def jobClimb (s : State) (i ridge : Nat) : State :=
  let slot := s.pick 192
  match s.used.allocClimb ridge { Climb.fresh with bg := true, slot := slot, pc := BitVec.ofNat 64 (s.route slot).entry, origin := .job i } with
  | some (_, s1) => s1
  | none => s

/-- The job of a LOP entry has lost its climb (R68): it is restarted once from its POSITION; the second time PHASE becomes FAILED. -/
def jobEnded (s : State) (i ridge : Nat) : State :=
  if i ∉ s.lopRetried then { s with lopRetried := s.lopRetried ++ [i] }.jobClimb i ridge
  else
    let w := s.lopWord i
    let v := w - bits w 5 3 * 2 ^ 5 + 4 * 2 ^ 5 - bits w 32 16 * 2 ^ 32 + (bits w 32 16 + 2) % 2 ^ 16 * 2 ^ 32
    let s1 := { s.setReg (0xF0000 + i * 0x20) (BitVec.ofNat 64 v) with
      lopEnded := Tbl.set s.lopEnded i s.stamp, opsFailed := s.opsFailed ++ [(bits w 1 3, bits w 8 4)] }
    (s1.tick.raise 0xF0800 (2 ^ i)).raise 0xF0808 (2 ^ i)

/-- What the originator of a climb that ended by trap or freeze sees (R68, R142). -/
def tellOrigin (s : State) (cid : Nat) (status detail : Nat) : State :=
  match (s.climb cid).origin with
  | .host n => (s.endPlan n).complete n stInternal 0 0
  | .call n => s.endCall n status (cid / 1024) detail 0
  | .job i => s.jobEnded i (cid / 1024)
  | _ => s

/-- A library route completes its host command and exits. -/
def finishCmd (s : State) (n : Nat) (st : NvmeStatus) (dw0 dw1 : Nat) : State :=
  match Tbl.find s.host.cmds n with
  | none => s
  | some c =>
    let s1 := s.complete n st dw0 dw1
    match c.climb with
    | some k => if (s1.climb k).state ≠ .free ∧ (s1.climb k).ended = .running then s1.libEnd k (.exit 0) else s1
    | none => s1

/-- Master code of the core a climb runs on (R505); ridge's core 0 for one that runs on none. -/
def coreCode (s : State) (cid : Nat) : Nat := (s.climb cid).core.getD (4 * (cid / 1024))

/-- A climb ends by trap with a cause noted (R63, R64, R68). -/
def endByTrap (s : State) (cid cause : Nat) : State :=
  let c := s.climb cid
  let r := cid / 1024
  let s1 := (s.raise (climbBlk r + 0x10) 1).bump (climbBlk r + 0x30) 0 32 1
  let s2 := s1.book (s.coreCode cid) 0x040
    (leBytes 2 cid ++ leBytes 1 c.slot ++ leBytes 1 c.tcause ++ leBytes 8 c.tval.toNat ++ leBytes 8 c.tpc.toNat)
  (s2.tellOrigin cid 0x08 cause).retire cid (.trap cause)

/-- A climb takes a trap (R63): saved state and the handler, or the end by trap. -/
def trapClimb (s : State) (cid cause : Nat) (tval tpc : W64) : State :=
  let c := s.climb cid
  if c.trapActive then
    (s.setClimb cid { c with tcause := 0x0D, tval := BitVec.ofNat 64 cause }).endByTrap cid 0x0D
  else
    let h := (s.route c.slot).handler
    if h = 0 then (s.setClimb cid { c with tpc := tpc, tcause := cause, tval := tval }).endByTrap cid cause
    else s.setClimb cid { c with tpc := tpc, tcause := cause, tval := tval, trapActive := true, pc := BitVec.ofNat 64 h }

/-- A management core takes a trap or an interrupt; a trap inside a trap halts it (R102). -/
def trapMcore (s : State) (m cause : Nat) (tval tpc : W64) : State :=
  let c := s.mcore m
  if c.trapActive then s.setMcore m { c with halted := true }
  else s.setMcore m { c with tpc := tpc, tcause := cause, tval := tval, trapActive := true, pc := c.trapvec }

/-! ### Freezing (R65, R66) -/

/-- The core of a violating climb freezes (R65); with four frozen cores the ridge has hung (R66). R65 names no items for its record:
it holds cid, route slot and address (DESIGN CHOICE, log entry 71). -/
def freezeCore (s : State) (ridge m addr : Nat) : State :=
  let k := 4 * ridge + m
  let d := s.core k
  let day : W64 := 8640000000000
  let keep := d.freezes.filter (fun t => decide ((s.time - t).toNat < day.toNat))
  match d.running with
  | none => s
  | some cid =>
    let c := s.climb cid
    let s1 := s.setCore k { d with
      frozen := true, frozenAt := s.time, freezes := s.time :: keep,
      freezeInfo := BitVec.ofNat 64 (cid % 1024 + addr % 2 ^ 48 * 2 ^ 16) }
    let s2 := s1.setClimb cid { c with tcause := 0x0E, tval := BitVec.ofNat 64 addr }
    let s3 := ((s2.tellOrigin cid 0x09 0x0E).retire cid .freeze).raise (climbBlk ridge + 0x10) 4
    let s4 := { s3 with climbs := s3.climbs.map (fun (p : Nat × Climb) =>
      (p.1, if p.2.core = some k then { p.2 with core := none } else p.2)) }
    let s5 := s4.setCore k { s4.core k with running := none }
    let s6 := s5.book k 0x041 (leBytes 2 cid ++ leBytes 1 c.slot ++ leBytes 8 addr)
    if (List.range 4).all (fun j => (s6.core (4 * ridge + j)).frozen) then s6.yieldHead 2 else s6

/-! ### The commands of residency and dispatch (R37, R40, R41, R44) -/

/-- READY longest among some climbs. -/
def longest (l : List (Nat × Climb)) : Option Nat := (minBy (fun p => p.2.stamp) l).map Prod.fst

/-- The dispatch choice of R41: the climb and the new share count. -/
def dispatchPick (s : State) (ridge m : Nat) : Option (Nat × Nat) :=
  let k := 4 * ridge + m
  let ready := (s.residents k).filter (fun p => decide (p.2.state = .ready))
  let host := longest (ready.filter (fun p => !p.2.bg))
  let bg := longest (ready.filter (fun p => p.2.bg))
  let share := (s.core k).share
  match host, bg with
  | none, none => none
  | some h, none => some (h, share)
  | none, some b => some (b, 0)
  | some h, some b =>
    if s.bgShare ridge ≠ 0 ∧ s.bgShare ridge ≤ share + 1 then some (b, 0) else some (h, share + 1)

/-- Is a core free to dispatch: not frozen and with no RUNNING climb? -/
def coreIdle (s : State) (k : Nat) : Bool := !(s.core k).frozen && (s.core k).running.isNone

end State

open State

/-- CLIMB_DISPATCH (R41). -/
def execClimbDispatch (ridge m : Nat) (s : State) : Res :=
  let k := 4 * ridge + m
  if !s.coreIdle k then .next s else
  match s.dispatchPick ridge m with
  | none => .next s
  | some (cid, share) =>
    let s1 := s.chg cid .running
    let s2 := s1.updClimb cid (fun c => { c with quant := 0 })
    .next (s2.setCore k { s2.core k with
      running := some cid, share := share, switches := (s2.core k).switches + 1 })

/-- Another resident climb of the core is READY. -/
def State.otherReady (s : State) (k : Nat) : Bool :=
  (s.residents k).any (fun p => decide (p.2.state = .ready))

/-- QUANTUM_EXPIRY (R37). -/
def execQuantumExpiry (ridge m : Nat) (s : State) : Res :=
  match s.runningOn ridge m with
  | none => .next s
  | some cid =>
    if s.quantum ridge ≠ 0 ∧ s.quantum ridge ≤ (s.climb cid).quant ∧ s.otherReady (4 * ridge + m) = true then
      .next (s.leave cid .ready)
    else .next s

/-- The non-resident READY climbs of a ridge. -/
def State.strays (s : State) (ridge : Nat) : List (Nat × Climb) :=
  (s.ridgeClimbs ridge).filter (fun p => decide (p.2.state = .ready) && p.2.core.isNone)

/-- CLIMB_FILL (R40). -/
def execClimbFill (ridge m : Nat) (s : State) : Res :=
  let k := 4 * ridge + m
  if (s.core k).frozen ∨ 16 ≤ (s.residents k).length ∨ 4 ≤ m then .next s else
  match longest (s.strays ridge) with
  | none => .next s
  | some cid => .next (s.updClimb cid (fun c => { c with core := some k }))

/-- CLIMB_SPILL (R40). -/
def execClimbSpill (ridge m : Nat) (s : State) : Res :=
  let k := 4 * ridge + m
  let rs := s.residents k
  if rs.length < 16 ∨ rs.any (fun p => decide (p.2.state = .ready)) = true ∨ (s.strays ridge).isEmpty = true then .next s
  else match longest (rs.filter (fun p => decide (p.2.state = .waiting))) with
    | none => .next s
    | some cid => .next (s.updClimb cid (fun c => { c with core := none }))

/-- WATCHDOG (R44): the trap, with the cycles run as its value. -/
def execWatchdog (ridge m : Nat) (s : State) : Res :=
  match s.runningOn ridge m with
  | none => .next s
  | some cid =>
    let c := s.climb cid
    if s.wdLimit ridge ≠ 0 ∧ s.wdLimit ridge ≤ c.run then
      .next ((s.updClimb cid (fun c => { c with run := 0 })).trapClimb cid 0x0C (BitVec.ofNat 64 c.run) c.pc)
    else .next s

/-- CLIMB_FREED (R37, R38). -/
def execClimbFreed (cid : Nat) (s : State) : Res :=
  let c := s.climb cid
  if c.state ≠ .free ∧ c.ended ≠ .running ∧ s.drained cid = true then .next (s.freeClimb cid) else .next s

/-- The oldest waiting allocation of a class in a ridge. -/
def State.oldestAlloc (s : State) (ridge : Nat) (bg : Bool) : Option (Nat × Climb) :=
  minBy (fun p => p.2.stamp) ((s.ridgeClimbs ridge).filter (fun p =>
    decide (p.2.state = .waiting) && decide (p.2.bg = bg) &&
    (match p.2.await with | .alloc _ _ | .data _ => true | _ => false)))

/-- Can a request of a class be met at once: room for it, and no older request of its class waits in the ridge (R51)? -/
def State.allocTurn (s : State) (ridge bytes : Nat) (bg : Bool) : Bool :=
  (s.oldestAlloc ridge bg).isNone && s.allocable ridge bytes bg

/-- Put the handles of a buffer of `n` bytes into h[hd] onward, one per MiB (R82). -/
def State.giveHandles (s : State) (cid slot n hd : Nat) : State :=
  let r := ceilDiv n 0x100000
  let hs := (List.range r).map (fun i => s.slotH (cid / 1024) slot (i * 0x100000) (min 0x100000 (n - i * 0x100000)))
  s.updClimb cid (fun c => { c with h := c.h.take hd ++ hs ++ c.h.drop (hd + r) })

/-- Meet one waiting allocation: the HALLOC completes and the climb becomes READY. -/
def State.meetAlloc (s : State) (cid : Nat) : State :=
  match (s.climb cid).await with
  | .alloc n hd =>
    let (slot, s1) := s.allocBuf (cid / 1024) n cid
    let s2 := s1.giveHandles cid slot n hd
    (s2.updClimb cid (fun c => { c with pc := c.pc + 4 })).wakeUp cid
  | .data n =>
    let (slot, s1) := s.allocBuf (cid / 1024) n cid
    let h := s1.slotH (cid / 1024) slot 0 (min 0x100000 n)
    (match (s.climb cid).origin with
      | .host k => { s1 with host := { s1.host with cmds := Tbl.upd s1.host.cmds k (fun c => { c with granted := some h }) } }
      | _ => s1).wakeUp cid
  | _ => s

/-- Can this waiting request be met? -/
def State.canMeet (s : State) (p : Nat × Climb) : Bool :=
  match p.2.await with
  | .alloc n _ | .data n => s.allocable (p.1 / 1024) n p.2.bg
  | _ => false

/-- HALLOC_MET (R51): the older of the two classes' oldest requests first, else the other's. -/
def execHallocMet (ridge : Nat) (s : State) : Res :=
  match s.oldestAlloc ridge false, s.oldestAlloc ridge true with
  | none, none => .next s
  | some a, none => .next (if s.canMeet a then s.meetAlloc a.1 else s)
  | none, some b => .next (if s.canMeet b then s.meetAlloc b.1 else s)
  | some a, some b =>
    let (x, y) := if a.2.stamp < b.2.stamp then (a, b) else (b, a)
    .next (if s.canMeet x then s.meetAlloc x.1 else if s.canMeet y then s.meetAlloc y.1 else s)

/-- GRANULE_WIPE_DONE (R51): the first unwiped granule of a freed run reads as zero and is free. -/
def execGranuleWipeDone (ridge granule : Nat) (s : State) : Res :=
  match Tbl.find s.wipes (24576 * ridge + granule) with
  | none => .next s
  | some n =>
    let w := Tbl.del s.wipes (24576 * ridge + granule)
    .next { s with
      wipes := if n ≤ 1 then w else Tbl.set w (24576 * ridge + granule + 1) (n - 1),
      mem := Mem.wipe s.mem (bufBase ridge + granule * 1024) 1024 }

/-- End a PARK with result `v` (R98). -/
def State.endPark (s : State) (cid : Nat) (v : W64) : State :=
  (s.updClimb cid (fun c => { c with
    g := if c.parkRd = 0 then c.g else c.g.set c.parkRd v, pc := c.pc + 4, deadline := none })).wakeUp cid

/-- PARK_DEADLINE (R98). -/
def execParkDeadline (cid : Nat) (s : State) : Res :=
  let c := s.climb cid
  match c.state, c.deadline with
  | .parked, some d => if d.toNat ≤ s.time.toNat then .next (s.endPark cid 1) else .next s
  | _, _ => .next s

/-- A wake arrives for a climb (R39). -/
def State.wake (s : State) (cid : Nat) : State :=
  match (s.climb cid).state with
  | .free => s
  | .parked => s.endPark cid 0
  | _ => s.updClimb cid (fun c => { c with wakePending := true })

end Sys2Proof.Machine
end

