-- ==== Sys2Proof/Machine/MapCache.lean ====
section
/-! DEFINITION. The map cache (R190–R199): lookups, allocation, recalls, errors and maintenance. `State.mem` is the
coherent view every master has; `Mapc.dramOld` keeps DRAM's own bytes of dirty lines. -/

namespace Sys2Proof.Machine

namespace State

def rMapc : Nat := 0xE0000

/-- Does an enabled `MAPC.REGION` hold the line's page (R192)? -/
def mapcCovers (s : State) (line : Nat) : Bool :=
  (List.range 16).any (fun r =>
    let b := s.reg (rMapc + 0x100 + r * 16)
    let l := s.reg (rMapc + 0x108 + r * 16)
    b.getLsbD 0 && decide (bits b.toNat 12 36 ≤ line / 16) && decide (line / 16 ≤ bits l.toNat 12 36))

def mainOf (s : State) (line : Nat) : Option Nat :=
  (s.mapc.main.find? (fun p => decide (p.2.line = line))).map Prod.fst
def victimOf (s : State) (line : Nat) : Option Nat :=
  (s.mapc.victim.find? (fun p => decide (p.2.line = line))).map Prod.fst

def lineBytes (s : State) (line : Nat) : Bytes := s.rdBytes (line * 256) 256

/-- The DRAM channel of a DRAM address: 256-byte lines interleaved over the present channels (R21). -/
def channelOf (s : State) (a : Nat) : Nat :=
  let chs := (List.range 8).filter s.drcPresent
  chs.getD (a / 256 % chs.length) 0

def drcBlk (n : Nat) : Nat := 0x100000 + n * 0x10000

/-- One line is read from or written to its DRAM channel (`DRC[n].RD_BYTES`, `WR_BYTES`). -/
def dramLine (s : State) (line : Nat) (wr : Bool) : State :=
  s.bump (drcBlk (s.channelOf (line * 256)) + (if wr then 0x40 else 0x38)) 0 64 256

/-- A dirty line reaches DRAM. -/
def writeback (s : State) (line : Nat) : State :=
  (({ s with mapc := { s.mapc with dramOld := Tbl.del s.mapc.dramOld line } }).bump (rMapc + 0x20) 0 64 1).dramLine line true

/-- A line enters the victim cache; when it is full the oldest entry leaves, written to DRAM if dirty (R193). -/
def toVictim (s : State) (c : CLine) : State :=
  let c := { c with stamp := s.stamp }
  match Tbl.firstFree s.mapc.victim 0 1024 with
  | some i => ({ s with mapc := { s.mapc with victim := Tbl.set s.mapc.victim i c } }).tick
  | none =>
    match minBy (fun p => p.2.stamp) s.mapc.victim with
    | none => s
    | some (i, o) =>
      let s1 := if o.dirty then s.writeback o.line else s
      ({ s1 with mapc := { s1.mapc with victim := Tbl.set s1.mapc.victim i c } }).tick

/-- The entries of a set whose ways have power: ways 0 to 7 lie in domain 4, ways 8 to 15 in domain 5 (R190). -/
def waysOf (s : State) (set : Nat) : List Nat :=
  ((List.range 16).filter (fun w => bit s.pwr.domains (4 + w / 8))).map (fun w => 16 * set + w)

/-- The entry of a set that pseudo-LRU gives up: of the replacement's choice, but never the one used last (R190; free value, log entry
3). -/
def lruWay (s : State) (ks : List Nat) : Option Nat :=
  let age := fun (k : Nat) => match Tbl.find s.mapc.main k with
    | some c => c.stamp
    | none => 0
  let newest := ks.foldl (fun m k => max m (age k)) 0
  let old := ks.filter (fun k => decide (age k < newest))
  let cands := if old.isEmpty then ks else old
  cands[s.pick cands.length]?

/-- A line is placed in its set: an empty way, or one whose line enters the victim cache (R190, R193). A set without a powered way
takes nothing, and DRAM has the line's bytes. -/
def toMain (s : State) (c : CLine) : State :=
  let ks := s.waysOf (c.line % 24576)
  let put := fun (t : State) (k : Nat) =>
    ({ t with mapc := { t.mapc with main := Tbl.set t.mapc.main k { c with stamp := t.stamp }, ghost := Tbl.del t.mapc.ghost k } }).tick
  match ks.find? (fun k => (Tbl.find s.mapc.main k).isNone) with
  | some k => put s k
  | none =>
    match s.lruWay ks with
    | some k => put (match Tbl.find s.mapc.main k with
      | some o => s.used.toVictim o
      | none => s.used) k
    | none => if c.dirty then s.writeback c.line else s

/-- A write makes a held line dirty; DRAM keeps its own bytes until the line is written back. -/
def dirtyLine (s : State) (line : Nat) (c : CLine) : CLine × State :=
  if c.dirty then (c, s)
  else ({ c with dirty := true },
        { s with mapc := { s.mapc with dramOld := Tbl.set s.mapc.dramOld line (s.lineBytes line) } })

/-- One lookup for one line (R191–R193). -/
def lineAccess (s : State) (line : Nat) (wr : Bool) : State :=
  match s.mainOf line with
  | some k =>
    let c := (Tbl.find s.mapc.main k).getD { line := line, dirty := false, stamp := 0 }
    let (c, s) := if wr then s.dirtyLine line c else (c, s)
    ({ s with mapc := { s.mapc with main := Tbl.set s.mapc.main k { c with stamp := s.stamp } } }).tick.bump (rMapc + 8) 0 64 1
  | none =>
    match s.victimOf line with
    | some i =>
      let c := (Tbl.find s.mapc.victim i).getD { line := line, dirty := false, stamp := 0 }
      let (c, s) := if wr then s.dirtyLine line c else (c, s)
      let s := { s with mapc := { s.mapc with victim := Tbl.del s.mapc.victim i } }
      (s.toMain c).bump (rMapc + 0x18) 0 64 1
    | none =>
      let s := s.bump (rMapc + 0x10) 0 64 1
      if s.mapcCovers line then
        let c : CLine := { line := line, dirty := false, stamp := 0 }
        let (c, s) := if wr then (s.dramLine line false).dirtyLine line c else (c, s.dramLine line false)
        s.toMain c
      else s.dramLine line wr

/-- The DRAM lines of [a, a + n). -/
def linesOf (a n : Nat) : List Nat :=
  if n = 0 then [] else (List.range ((a + n - 1) / 256 - a / 256 + 1)).map (fun i => a / 256 + i)

/-- An access to DRAM by a master passes through the map cache; a write is noted before its bytes change. -/
def dramTouch (s : State) (a n : Nat) (wr : Bool) : State :=
  (linesOf a n).foldl (fun t l => t.lineAccess l wr) s

/-- The same for a device address of any range: only DRAM has lines. -/
def dmaTouch (s : State) (a n : Nat) (wr : Bool) : State := if a < 0x020000000000 then s.dramTouch a n wr else s

/-! ### Errors (06; R533) -/

/-- A corrected DRAM error (R533). -/
def dramCorrected (s : State) (ch : Nat) : State := (s.raise (drcBlk ch + 8) 1).bump (drcBlk ch + 0x10) 0 32 1

/-- First uncorrectable line since VALID was cleared. -/
def ueAddr (s : State) (ch a : Nat) : State :=
  if s.regBit (drcBlk ch + 0x18) 63 then s
  else s.setReg (drcBlk ch + 0x18) (BitVec.ofNat 64 (2 ^ 63 + a / 256 * 256 % 2 ^ 48))

/-- A line is poisoned. -/
def poison (s : State) (line : Nat) : State :=
  if line ∈ s.poisoned then s else { s with poisoned := line :: s.poisoned }

/-- An uncorrectable error on a read by a master (R533): poison, UE_READ, and a yield with CAUSE 1. -/
def dramFatalRead (s : State) (ch a : Nat) : State :=
  ((((s.poison (a / 256)).raise (drcBlk ch + 8) 2).bump (drcBlk ch + 0x10) 32 32 1).ueAddr ch a).yieldHead 1

/-- A double-bit error in a dirty line or a tag: ECC_FATAL, a record, and a yield with CAUSE 6. -/
def mapcFatal (s : State) (a : Nat) : State :=
  ((s.raise rMapc 0x400).book 0x83 0x014 (leBytes 8 a)).yieldHead 6

/-- What the check bits do on an access to line `a / 256` (06 errors in the cache, R533). -/
def eccAct (s : State) (a : Nat) (f : MemFault) : State :=
  let line := a / 256
  match f with
  | .none => if line ∈ s.poisoned then s.dramFatalRead (s.channelOf a) a else s
  | .cacheSingle => (s.raise rMapc 0x100).bump (rMapc + 0x28) 0 32 1
  | .cacheDouble =>
    match s.mainOf line with
    | none => s
    | some k =>
      if ((Tbl.find s.mapc.main k).map (fun c => c.dirty)).getD false then s.mapcFatal a
      else
        (({ s with mapc := { s.mapc with main := Tbl.del s.mapc.main k } }).raise rMapc 0x200).bump (rMapc + 0x28) 32 32 1
  | .tagDouble => s.mapcFatal a
  | .dramCorrected => s.dramCorrected (s.channelOf a)
  | .dramFatal => s.dramFatalRead (s.channelOf a) a

/-! ### Maintenance (R194–R197) -/

/-- The DRAM bytes of a dirty line come back when the line is dropped unwritten. -/
def dropDirty (s : State) (line : Nat) : State :=
  match Tbl.find s.mapc.dramOld line with
  | some old =>
    { s with mem := Mem.writeBytes s.mem (line * 256) old, mapc := { s.mapc with dramOld := Tbl.del s.mapc.dramOld line } }
  | none => s

/-- One maintenance operation on one held line: 0 CLEAN, 1 INVALIDATE, 2 CLEAN_INVALIDATE. -/
def maintEntry (s : State) (op : Nat) (vic : Bool) (k : Nat) : State :=
  let t := if vic then s.mapc.victim else s.mapc.main
  match Tbl.find t k with
  | none => s
  | some c =>
    let bytes := s.lineBytes c.line
    let s1 := if op = 1 then (if c.dirty then s.dropDirty c.line else s)
              else if c.dirty then s.writeback c.line else s
    if op = 0 then
      { s1 with mapc := if vic then { s1.mapc with victim := Tbl.set s1.mapc.victim k { c with dirty := false } }
                        else { s1.mapc with main := Tbl.set s1.mapc.main k { c with dirty := false } } }
    else
      { s1 with mapc := if vic then { s1.mapc with victim := Tbl.del s1.mapc.victim k }
                        else { s1.mapc with main := Tbl.del s1.mapc.main k,
                                            ghost := Tbl.set s1.mapc.ghost k bytes } }

/-- Maintain every entry of both arrays. -/
def maintAll (s : State) (op : Nat) : State :=
  let s1 := s.mapc.main.foldl (fun t p => t.maintEntry op false p.1) s
  s.mapc.victim.foldl (fun t p => t.maintEntry op true p.1) s1

/-- Maintain one line wherever it is held. -/
def maintLine (s : State) (op line : Nat) : State :=
  match s.mainOf line with
  | some k => s.maintEntry op false k
  | none =>
    match s.victimOf line with
    | some i => s.maintEntry op true i
    | none => s

/-- Maintain the held lines of [first, first + n). -/
def maintRange (s : State) (op first n : Nat) : State :=
  let held := (s.mapc.main ++ s.mapc.victim).filter
    (fun p => decide (first ≤ p.2.line) && decide (p.2.line < first + n))
  held.foldl (fun t p => t.maintLine op p.2.line) s

def maintStat (s : State) (lo w v : Nat) : State :=
  let r := (s.reg (rMapc + 0x218)).toNat
  s.setReg (rMapc + 0x218) (BitVec.ofNat 64 (r - bits r lo w * 2 ^ lo + v % 2 ^ w * 2 ^ lo))

/-- The installed DRAM capacity in bytes (R21, R531). -/
def dramBytes (s : State) : Nat :=
  sumBy (fun n => if (Tbl.getD s.drcs n Drc.fresh).trained then (Tbl.getD s.drcs n Drc.fresh).sizeGib * 2 ^ 30 else 0)
    ((List.range 8).filter s.drcPresent)

/-- A START of maintenance (R194–R197): the effect on every line reached; `MAINT_DONE` then ends it. -/
def maintStart (s : State) : State :=
  let c := (s.reg (rMapc + 0x210)).toNat
  let op := bits c 1 2
  let addr := bits (s.reg (rMapc + 0x200)).toNat 8 40
  let len := bits (s.reg (rMapc + 0x208)).toNat 0 24
  let set := bits c 5 15
  let way := bits c 20 5
  if s.mapc.maint then s.raise (rMapc + 0x218) 8
  else
    let begun := fun (t : State) (err lines : Nat) =>
      ({ t with mapc := { t.mapc with maint := true } }).maintStat 4 4 err |>.maintStat 16 24 lines
    if op = 3 then begun s 3 0
    else if bit c 4 then begun (s.maintAll op) 0 (393216 + 1024)
    else if !bit c 3 then
      if len ≠ 0 ∧ s.dramBytes < (addr + len) * 256 then begun s 1 0 else begun (s.maintRange op addr len) 0 len
    else if way < 16 then
      if 24576 ≤ set then begun s 2 0 else begun (s.maintEntry op false (16 * set + way)) 0 1
    else if way = 16 then
      if 1024 ≤ set then begun s 2 0 else begun (s.maintEntry op true set) 0 1
    else begun s 2 0

/-- The whole cache is cleaned and invalidated (R534, R538) or invalidated (R539). -/
def mapcFlush (s : State) (op : Nat) : State := s.maintAll op

/-- Every reset, domain power-up and lifecycle change invalidates the cache, dirty lines lost (R198). -/
def mapcReset (s : State) : State :=
  let s1 := s.mapc.dramOld.foldl (fun t p => t.dropDirty p.1) s
  { s1 with mapc := Mapc.fresh }

end State

/-- MAINT_DONE (R197). -/
def execMaintDone (s : State) : Res :=
  if s.mapc.maint then
    let s1 := { s with mapc := { s.mapc with maint := false } }
    .next (s1.raise (State.rMapc + 0x218) (if bits (s1.reg (State.rMapc + 0x218)).toNat 4 4 = 0 then 2 else 4))
  else .next s

/-- MAPC_WIPE_DONE (R198): READY. -/
def execMapcWipeDone (s : State) : Res := .next { s with mapc := { s.mapc with wiping := false } }

end Sys2Proof.Machine
end

