-- ==== Sys2Proof/Machine/Notch.lean ====
section
/-! DEFINITION. The Notch digest unit (R119–R126): what a write of each register does, and the ends of its work. -/

namespace Sys2Proof.Machine

namespace State

def rNch : Nat := 0x70000
def nchReg (c : Nat) : Nat := 0x71000 + c * 0x100

/-- The context's hash function (CTL.ALG) with its block and digest sizes. -/
def nchHash (alg : Nat) : Bytes → Bytes :=
  match alg with
  | 0 => sha256
  | 1 => sha384
  | 2 => sha512
  | _ => sha3_256

def nchBlock (alg : Nat) : Nat :=
  match alg with
  | 0 => 64
  | 1 => 128
  | 2 => 128
  | _ => 136

def setNch (s : State) (c : Nat) (x : NchCtx) : State := { s with nch := Tbl.set s.nch c x }

/-- Wipe and free a context; FREED is set (R123). -/
def nchFree (s : State) (c : Nat) : State :=
  if (Tbl.find s.nch c).isNone then s else
  (({ s with nch := Tbl.del s.nch c }).setReg (nchReg c + 8) 0 |>.setReg (nchReg c + 0x10) 0).raise rNchIrq (2 ^ (32 + c))

/-- An owning master is frozen: its contexts are wiped and freed (R123). -/
def nchFreeOwned (s : State) (m : Nat) : State :=
  s.nch.foldl (fun t p => if p.2.owner = m then t.nchFree p.1 else t) s

/-- A lifecycle change wipes every context (R484). -/
def nchWipe (s : State) : State := s.nch.foldl (fun t p => t.nchFree p.1) s

/-- A write by a master that does not own the context (R121). -/
def nchForeign (s : State) : State := s.bump (rNch + 0x18) 0 32 1

/-- Set an error flag of a context and its IRQ bit: 2 ERR_OVERRUN, 3 ERR_SEQ, 4 ERR_COUNT, 5 ERR_KEY. -/
def nchErr (s : State) (c flag : Nat) : State :=
  (s.raise (nchReg c + 0x10) (2 ^ flag)).raise rNchIrq (2 ^ (16 + c))

/-- An error ends the message: no word is taken and DONE is not set before the next START (R126). -/
def nchStop (s : State) (c : Nat) (x : NchCtx) : State := s.setNch c { x with started := false, last := false }
def nchFail (s : State) (c : Nat) (x : NchCtx) (flag : Nat) : State := (s.nchStop c x).nchErr c flag

def nchFailed (s : State) (c : Nat) : Bool := decide (s.regBits (nchReg c + 0x10) 2 4 ≠ 0)

/-- A write of `OWNER`: CLAIM and RELEASE (R120, R121, R123). -/
def nchOwnerAct (s : State) (m c : Nat) (v : W64) : State :=
  match Tbl.find s.nch c with
  | none =>
    if v.getLsbD 9 then
      s.setNch c { owner := m, key := zeros 64, data := [], started := false, busy := false, last := false,
                   done := false, digest := [] }
    else s.nchForeign
  | some x =>
    if v.getLsbD 9 then s
    else if x.owner ≠ m then s.nchForeign
    else if v.getLsbD 10 then s.nchFree c else s

/-- A write of `CTL` by the owner (R124, R126): START resets the context and loads ALG, HMAC and the key. -/
def nchCtlAct (s : State) (m c : Nat) (x : NchCtx) (v : W64) : State :=
  let ladder := v.getLsbD 4
  let keep : W64 := if ladder && decide (m ≠ 0x60) then v &&& 0x7EF else v &&& 0x7FF
  let s1 := s.setReg (nchReg c + 8) keep
  let s2 := if ladder && decide (m ≠ 0x60) then s1.nchFail c x 5 else s1
  if !v.getLsbD 11 then s2
  else
    let s3 := s2.setReg (nchReg c + 0x10) 0
    let n := if ladder then 32 else bits v.toNat 5 6 + 1
    let load := fun (k : Bytes) => { x with
      data := [], started := true, busy := false, last := false, done := false, digest := [], ctl := keep, loaded := k.take n }
    let fresh := load x.key
    if ladder && decide (m ≠ 0x60) then (s3.setNch c { fresh with started := false }).nchErr c 5
    else if 4 ≤ bits v.toNat 0 3 then (s3.setNch c { fresh with started := false }).nchErr c 3
    else if ladder then
      match s.bookKey with
      | some k => s3.setNch c { load (padTo 64 k) with key := padTo 64 k }
      | none => ((s3.setNch c { fresh with started := false }).keyRefused).nchErr c 5
    else s3.setNch c fresh

/-- Bytes fed to a context; a completed block makes it BUSY (R125). -/
def nchFeed (s : State) (c : Nat) (x : NchCtx) (d : Bytes) : State :=
  let alg := bits x.ctl.toNat 0 3
  let data := x.data ++ d
  s.setNch c { x with data := data, busy := decide (data.length % nchBlock alg = 0) }

/-- A write of `DATA` by the owner (R125, R126). -/
def nchDataAct (s : State) (c : Nat) (x : NchCtx) (v : W64) : State :=
  if s.nchFailed c then s
  else if x.busy then s.nchFail c x 2
  else if !x.started || x.last || x.done then s.nchFail c x 3
  else if x.data.length + 4 > 2 ^ 61 - 1 then s.nchFail c x 4
  else s.nchFeed c x (leBytes 4 v.toNat)

/-- A write of `LAST` by the owner (R124–R126). -/
def nchLastAct (s : State) (c : Nat) (x : NchCtx) (v : W64) : State :=
  let n := bits v.toNat 32 3
  if s.nchFailed c then s
  else if x.busy then s.nchFail c x 2
  else if !x.started || x.last || x.done then s.nchFail c x 3
  else if 4 < n then s.nchFail c x 4
  else if x.data.length + n > 2 ^ 61 - 1 then s.nchFail c x 4
  else s.setNch c { x with data := x.data ++ (leBytes 4 v.toNat).take n, busy := true, last := true }

/-- The digest of a finished message: plain, or HMAC under the key bytes that START loaded. -/
def nchDigest (x : NchCtx) : Bytes :=
  let alg := bits x.ctl.toNat 0 3
  if x.ctl.getLsbD 3 then hmac (nchHash alg) (nchBlock alg) x.loaded x.data else nchHash alg x.data

/-- A write of a context register at offset `lo` in the context (R121); `hw` holds the flags of STAT that hardware sets in the same
cycle (R10). -/
def nchWrite (s : State) (m c lo : Nat) (v mask hw : W64) : State :=
  if lo = 0 then s.nchOwnerAct m c v
  else match Tbl.find s.nch c with
    | none => s.nchForeign
    | some x =>
      if x.owner ≠ m then s.nchForeign
      else if lo = 8 then (if mask.getLsbD 0 then s.nchCtlAct m c x v else s)
      else if lo = 0x10 then
        let set := hw &&& 0x3C
        let s1 := s.clearFlags (nchReg c + 0x10) 0x3C (v &&& mask) set
        if set = 0 then s1 else (s1.nchStop c x).raise rNchIrq (2 ^ (16 + c))
      else if lo = 0x20 then (if mask.getLsbD 0 then s.nchDataAct c x v else s)
      else if lo = 0x28 then (if mask.getLsbD 0 then s.nchLastAct c x v else s)
      else if 0x40 ≤ lo ∧ lo < 0x80 then
        let k := lo - 0x40
        let old := BitVec.ofNat 64 (fieldAt x.key k 8)
        s.setNch c { x with key := spliceAt x.key k (leBytes 8 ((old &&& ~~~mask) ||| v).toNat) }
      else s

end State

/-- NCH_BLOCK_DONE (R125): the block is hashed. -/
def execNchBlockDone (c : Nat) (s : State) : Res :=
  match Tbl.find s.nch c with
  | none => .next s
  | some x => if x.busy && !x.last then .next (s.setNch c { x with busy := false }) else .next s

/-- NCH_DIGEST_DONE (R124): DONE and the digest. -/
def execNchDigestDone (c : Nat) (s : State) : Res :=
  match Tbl.find s.nch c with
  | none => .next s
  | some x =>
    if x.busy && x.last then
      .next ((s.setNch c { x with busy := false, done := true, digest := State.nchDigest x }).raise State.rNchIrq (2 ^ c))
    else .next s

end Sys2Proof.Machine
end

