-- ==== Sys2Proof/Machine/Access.lean ====
section
/-! DEFINITION. How an access is judged (R4, R9, R21–R25, R46, R199, R473–R478, R485): the decode of device
addresses, the ward profiles and grants, and violations with their freezes. -/

namespace Sys2Proof.Machine

/-- What a device address range decodes to (R21). -/
inductive Region where
  | dram
  | rbuf (n : Nat)
  | diag
  | store (n : Nat)
  | ctl
  deriving DecidableEq, Repr

namespace State

/-- The range that holds one byte address, if any. -/
def decodeByte (s : State) (a : Nat) : Option Region :=
  if a < 0x020000000000 then (if a < s.dramBytes then some .dram else none)
  else if 0x080000000000 ≤ a ∧ a < 0x080010000000 then
    let n := (a - 0x080000000000) / 0x2000000
    if a % 0x2000000 < 0x1800000 ∧ s.ridgePresent n = true then some (.rbuf n) else none
  else if 0x090000000000 ≤ a ∧ a < 0x090006000000 then some .diag
  else if 0x0A0000000000 ≤ a ∧ a < 0x0A0000800000 then
    let n := (a - 0x0A0000000000) / 0x100000
    if s.ridgePresent n then some (.store n) else none
  else if ctlBase ≤ a ∧ a < ctlBase + ctlSize then
    (if (ctlBlock (a - ctlBase)).isSome then some .ctl else none)
  else none

/-- The range that holds every byte of [a, a + n), n at least 1; none is a decode error in full (R24, R25). Each control-space block of
R22 counts as a decoded range of its own, so an access across two of them is a decode error (DESIGN CHOICE, log entry 77). -/
def decodeAddr (s : State) (a n : Nat) : Option Region :=
  match s.decodeByte a, s.decodeByte (a + n - 1) with
  | some x, some y =>
    if x ≠ y then none
    else if x = .ctl ∧ (ctlBlock (a - ctlBase)).map Prod.fst ≠ (ctlBlock (a + n - 1 - ctlBase)).map Prod.fst then none
    else some x
  | _, _ => none

/-! ### Profiles (R473) -/

/-- Ward profile of a climb: LIBRARY or OPEN by its route. -/
def climbProfile (s : State) (cid : Nat) : Nat := if (s.route (s.climb cid).slot).opened then 3 else 2

/-- The ward profile of a master code. -/
def profileOf (s : State) (m : Nat) : Nat :=
  if m < 0x20 then
    match (s.core m).running with
    | some cid => s.climbProfile cid
    | none => 2
  else if m < 0x24 then 1
  else if 0x30 ≤ m ∧ m < 0x34 then 0
  else if 0x34 ≤ m ∧ m < 0x50 then 4
  else if m = 0x50 then 5
  else if m = 0x51 then 6
  else if m = 0x60 then 0
  else 7

/-- The grants of R475 for one register slot, by profile; `own` is the climb's ridge. -/
def ctlGrant (prof own : Nat) (wr : Bool) (b : Blk) (lo : Nat) : Bool :=
  let slot := lo / 8 * 8
  let mgmt := decide (prof = 1)
  let pf0 := decide (prof = 5)
  let lib := decide (prof = 2)
  let ridge := fun (n : Nat) (wake : Bool) =>
    mgmt || (lib && decide (own = n) && (!wr || wake)) || (pf0 && !wr)
  if prof = 0 then true else
  match b with
  | .wdn => (mgmt && (!wr || decide (slot = 0x18) || decide (slot = 0x28))) || (pf0 && !wr)
  | .ward | .lcs => (mgmt || pf0) && !wr
  | .nch => (mgmt && !(wr && decide (slot = 0x20))) || (pf0 && !wr)
  | .core n _ | .chk n | .dig n | .xts n | .par n | .idx n | .coder n | .fabric n => ridge n false
  | .climb n => ridge n (decide (slot = 0x18))
  | .lop => (mgmt && !(wr && decide (slot = 0x808))) || (lib && !wr) || (pf0 && (!wr || decide (slot = 0x808)))
  | .tvs => if 0x1000 ≤ lo ∧ lo < 0x1100 then (mgmt || pf0) && !wr else mgmt || (pf0 && !wr)
  | .sbk | .pep => mgmt || pf0
  | _ => mgmt || (pf0 && !wr)

/-- Does the region table admit one page to a profile (R476)? A page in no region admits MGMT only. -/
def regionAdmits (s : State) (prof page : Nat) (wr : Bool) : Bool :=
  match (List.range 64).find? (fun r =>
      let b := s.reg (0x51000 + r * 16)
      let l := s.reg (0x51008 + r * 16)
      b.getLsbD 0 && decide (bits b.toNat 12 36 ≤ page) && decide (page ≤ bits l.toNat 12 36)) with
  | some r => (s.reg (0x51008 + r * 16)).getLsbD (48 + 2 * prof + b2n wr)
  | none => decide (prof = 1)

/-- Does a page lie in the range of the route image, which is read-only to every master but the warden (R54, R467)? -/
def routePage (s : State) (page : Nat) : Bool :=
  let b := s.regBits rRouteBase 0 48
  decide (s.wdn.routeLen ≠ 0) && decide (b / 4096 ≤ page) && decide (page ≤ (b + s.wdn.routeLen - 1) / 4096)

/-- Every page of [a, a + n) admits the access. -/
def pagesAdmit (s : State) (prof a n : Nat) (wr : Bool) : Bool :=
  (List.range ((a + n - 1) / 4096 - a / 4096 + 1)).all (fun i => s.regionAdmits prof (a / 4096 + i) wr && !(wr && s.routePage (a / 4096 + i)))

/-- No master but the warden reaches a DRAM range before its channel's DRAM_DONE, or while a fill runs on it
(R485, R539). -/
def dramOpen (s : State) (a n : Nat) : Bool :=
  (linesOf a n).all (fun l => bit s.wdn.dramDone (s.channelOf (l * 256)))

/-- The judgement of R474 on a decoded access by a climb or another master; `cid` is the climb's id. -/
def wardOk (s : State) (prof : Nat) (cid : Option Nat) (r : Region) (a n : Nat) (wr : Bool) : Bool :=
  if prof = 0 then true else
  match r with
  | .ctl =>
    match ctlBlock (a - ctlBase) with
    | some (b, lo) => ctlGrant prof (cid.getD 0 / 1024) wr b lo
    | none => false
  | .store _ =>
    match cid with
    | some c => decide (localAddr c ≤ a) && decide (a + n ≤ localAddr c + 512)
    | none => decide (prof = 1) && !wr
  | .diag => decide (prof = 1) && !wr
  | .dram => decide (prof ≠ 3) && decide (prof ≠ 6) && decide (prof ≠ 7) && s.pagesAdmit prof a n wr && s.dramOpen a n
  | .rbuf _ => decide (prof ≠ 3) && decide (prof ≠ 6) && decide (prof ≠ 7) && s.pagesAdmit prof a n wr

/-! ### Violations (R477, R478) -/

/-- A violation is recorded: the Summit Book record, VIOL_COUNT, and VIOL_INFO with VIOL_ADDR while VALID is 0. -/
def violRecord (s : State) (m prof queue addr : Nat) (wr : Bool) (cls : Option Nat) : State :=
  let s1 := s.book 0x60 0x012 (leBytes 1 m ++ leBytes 1 prof ++ leBytes 2 queue ++ leBytes 8 addr ++ leBytes 1 (b2n wr)
    ++ leBytes 1 (cls.getD 0))
  let s2 := s1.bump 0x50018 0 32 1
  if s2.regBit rViolInfo 63 then s2
  else (s2.setReg rViolInfo (BitVec.ofNat 64 (m % 256 + prof % 8 * 2 ^ 8 + b2n wr * 2 ^ 11 + queue % 2 ^ 16 * 2 ^ 12
      + b2n cls.isSome * 2 ^ 28 + cls.getD 0 % 32 * 2 ^ 29 + 2 ^ 63))).setReg 0x50010 (BitVec.ofNat 64 (addr % 2 ^ 48))

/-- A function freezes (R425). -/
def freezeFn (s : State) (fn : Nat) : State :=
  ({ s with pep := if fn = 0 then { s.pep with frozen0 := true } else { s.pep with frozen1 := true } }).raise rPepEvents 0x800

/-- A violation by master `m`: recorded, and the master frozen (R65, R171, R425, R477). -/
def violate (s : State) (m addr : Nat) (wr : Bool) (cls : Option Nat) : State :=
  let s1 := s.violRecord m (s.profileOf m) 0 addr wr cls
  if m < 0x20 then s1.freezeCore (m / 4) (m % 4) (if cls.isSome then 0 else addr)
  else if m < 0x24 then (s1.setMcore (m - 0x20) { s1.mcore (m - 0x20) with frozen := true }).nchFreeOwned m
  else if 0x30 ≤ m ∧ m < 0x50 then
    { s1 with tvsFrozen := if m - 0x30 ∈ s1.tvsFrozen then s1.tvsFrozen else (m - 0x30) :: s1.tvsFrozen }
  else if m = 0x50 then s1.freezeFn 0
  else if m = 0x51 then s1.freezeFn 1
  else s1

/-! ### Control-space gate -/

/-- What becomes of a control-space access before any register acts. -/
inductive Gate where
  /-- it reaches the register slot -/
  | open
  /-- it is discarded and reads as zeros, with this state -/
  | shut (s : State)
  /-- it is a decode error, with this state -/
  | error (s : State)
  /-- it is a ward violation, with this state -/
  | viol (s : State)
  deriving DecidableEq, Repr

/-- The gate in order: a frozen function or one without Memory Space Enable (R424, R425), decode (R24, R25), absent units (R4), width and alignment (R9), wards (R474, R475). -/
def gate (s : State) (m off width : Nat) (wr : Bool) : Gate :=
  if (decide (m = 0x50) && (s.pep.frozen0 || !s.pep.mse0)) || (decide (m = 0x51) && (s.pep.frozen1 || !s.pep.mse1)) then .shut s else
  match s.decodeAddr (ctlBase + off) width with
  | none => .error (s.decodeError m (ctlBase + off))
  | some _ =>
    match ctlBlock off with
    | none => .error (s.decodeError m (ctlBase + off))
    | some (b, lo) =>
      if !s.blkPresent b then .shut (if wr then s.countAbsent else s)
      else if ¬ ((width = 4 ∨ width = 8) ∧ off % width = 0) then .shut s.countBad
      else
        let own := if m < 0x20 then m / 4 else 0
        if ctlGrant (s.profileOf m) own wr b lo then .open
        else .viol (s.violate m (ctlBase + off) wr none)

/-- May a master write this register? Those of CLK, ROPE, IDX, HIF, MPC and SVC named here take the management cores' writes alone, those
of PEP also PF0's, and those of DRC also the warden's: a write by another master changes nothing (the register tables of 04, 10, 12, 13,
14, 16 and 18). -/
def writerOk (m : Nat) (b : Blk) (lo : Nat) : Bool :=
  let mgmt := decide (0x20 ≤ m ∧ m < 0x24)
  match b with
  | .clk => mgmt || decide (lo ≠ 0x10 ∧ ¬ (0x40 ≤ lo ∧ lo < 0x60))
  | .rope => mgmt || decide (lo ≠ 8)
  | .idx _ => mgmt || decide (lo ≠ 0)
  | .hif _ => mgmt || decide (lo ≠ 0)
  | .mpc _ => mgmt || decide (lo ≠ 0x18)
  | .svc => mgmt
  | .pep => mgmt || decide (m = 0x50)
  | .drc _ => mgmt || decide (m = 0x60)
  | _ => true

/-- `writerOk` of the register that an offset lies in. -/
def mayWrite (m off : Nat) : Bool :=
  match ctlBlock (off / 8 * 8) with
  | some (b, lo) => writerOk m b lo
  | none => true

/-- The 64-bit value that a write of `width` bytes puts on the slot's bits, and the mask of those bits. -/
def slotValue (off width : Nat) (v : W64) : W64 × W64 :=
  if width = 8 then (v, BitVec.allOnes 64)
  else if off % 8 = 0 then (v &&& 0xFFFFFFFF, 0xFFFFFFFF)
  else (v <<< 32, 0xFFFFFFFF00000000)

end State

end Sys2Proof.Machine
end

