-- ==== Sys2Proof/Machine/Units.lean ====
section
/-! DEFINITION. The accelerator units of a ridge: queued jobs (R83–R86, R570), the chunker (R107–R112), the digest
pipeline (R115–R118), the index probe (R129–R135) and the XTS unit (R90, R200–R202). -/

namespace Sys2Proof.Machine

namespace State

/-! ### Jobs -/

/-- The control-space base of a sub-block `k` of a ridge (R23). -/
def ridgeBlk (ridge k : Nat) : Nat := 0x1000000 + ridge * 0x100000 + k * 0x10000

/-- The OP byte of a job's descriptor. -/
def jobOp (j : Job) : Nat := fieldAt j.desc 0 1

/-- Earlier jobs still hold back this one: with ORDERED, every earlier job of the same climb and class (R84); on a
digest context, every earlier job that names it (R117). -/
def heldBack (s : State) (n : Nat) (j : Job) : Bool :=
  s.jobs.any (fun p => decide (p.1 < n) && decide (p.2.cls = j.cls) &&
    ((j.ordered && decide (p.2.cid = j.cid)) ||
     (decide (j.cls = 2) && decide (p.2.ridge = j.ridge) && decide (2 ≤ jobOp p.2) && decide (2 ≤ jobOp j)
        && decide (fieldAt p.2.desc 2 1 = fieldAt j.desc 2 1))))

/-- The job of this number, if it is one of a class and operation that may start now; a CODER job is one that occupies its lane. -/
def startable (s : State) (n cls : Nat) (op : Nat → Bool) : Option Job :=
  match Tbl.find s.jobs n with
  | some j => if j.cls = cls ∧ op (jobOp j) = true ∧ s.heldBack n j = false ∧ (cls ≠ 3 ∨ j.started = true) then some j else none
  | none => none

/-- Each idle CODER lane of a ridge starts the first job queued on it that nothing holds back (R144). -/
def startLanes (s : State) (ridge : Nat) : State :=
  (List.range 16).foldl (fun (t : State) l =>
    let mine := t.jobs.filter (fun (q : Nat × Job) => decide (q.2.cls = 3 ∧ q.2.ridge = ridge ∧ q.2.lane = l))
    if mine.any (fun q => q.2.started) then t else
    match mine.find? (fun q => !t.heldBack q.1 q.2) with
    | some q => { t with jobs := Tbl.set t.jobs q.1 { q.2 with started := true } }
    | none => t) s

/-- Does an XTS job of any ridge, queued before the slot began to be unloaded, name this pool's slot (R202)? -/
def xtsNamed (s : State) (pool : Nat) : Bool :=
  s.jobs.any (fun p => decide (p.2.cls = 4) && !p.2.noKey && decide (fieldAt p.2.desc 2 1 = pool))

/-- The key slots whose last such job has ended are cleared (R202). -/
def endKeys (s : State) : State :=
  (s.keyEnding.filter (fun p => !s.xtsNamed p)).foldl (fun t p =>
    { t with keySlots := Tbl.del t.keySlots p, keyEnding := t.keyEnding.filter (fun q => decide (q ≠ p)) }) s

/-- A pool's key slot is unloaded: it waits for the jobs that name it and are already queued (R202). -/
def unloadKey (s : State) (p : Nat) : State :=
  ({ s with keyEnding := if p ∈ s.keyEnding then s.keyEnding else s.keyEnding ++ [p] }).endKeys

/-- A job ends: its place is free and its token becomes DONE with the completion word (R49, R85); a context of an ended
climb that no queued job names any more is released (R117), and its CODER lane takes the next job (R144). -/
def finish (s : State) (n : Nat) (j : Job) (status result : Nat) : State :=
  let s1 := (({ s with jobs := Tbl.del s.jobs n }).doneToken j.cid j.tok (cplWord status j.cls result)).dropCtx j.cid
  if j.cls = 3 then s1.startLanes j.ridge else if j.cls = 4 then s1.endKeys else s1

/-- The i-th handle of a job. -/
def jh (j : Job) (i : Nat) : W64 := j.handles.getD i nullH

/-! ### Chunker -/

/-- gear[i] (R107). -/
def gear (b : Byte) : W64 := BitVec.ofNat 64 (leNat ((sha256 [b]).take 8))

/-- What a scan has found: boundaries newest first, hash and length of the current chunk, cuts at MAX_LEN, and
whether a boundary found no room. -/
structure Scan where
  ends  : List Nat
  hash  : W64
  len   : Nat
  max   : Nat
  full  : Bool
  deriving DecidableEq, Repr

/-- The scan of R108 from position `p`, with room for `cap` boundaries: a list exactly full at the end is no OUT_SPACE, and a cut at MAX_LEN
counts as one whatever the hash is (DEDUCED, log entry 88). -/
def cdcScan (minL maxL t cap : Nat) : Nat → Bytes → Scan → Scan
  | _, [], k => k
  | p, b :: rest, k =>
    let h := (k.hash <<< 1) + gear b
    let l := k.len + 1
    if (minL ≤ l ∧ (h >>> 32).toNat < t) ∨ l = maxL then
      if k.ends.length < cap then
        cdcScan minL maxL t cap (p + 1) rest
          { k with ends := (p + 1) :: k.ends, hash := 0, len := 0, max := k.max + (if l = maxL then 1 else 0) }
      else { k with full := true }
    else cdcScan minL maxL t cap (p + 1) rest { k with hash := h, len := l }

/-- The scan of R109. -/
def fixedScan (maxL cap : Nat) : Nat → Bytes → Scan → Scan
  | _, [], k => k
  | p, _ :: rest, k =>
    let l := k.len + 1
    if l = maxL then
      if k.ends.length < cap then fixedScan maxL cap (p + 1) rest { k with ends := (p + 1) :: k.ends, len := 0 }
      else { k with full := true }
    else fixedScan maxL cap (p + 1) rest { k with len := l }

/-- FINAL: the end of the input is a boundary when a chunk is open (R108, R109). -/
def scanFinal (cap n : Nat) (fixed : Bool) (k : Scan) : Scan :=
  if k.full ∨ k.len = 0 then k
  else if k.ends.length < cap then { k with ends := n :: k.ends, hash := if fixed then k.hash else 0, len := 0 }
  else { k with full := true }

/-- A CHK job runs (R87, R108–R112). -/
def chkRun (s : State) (n : Nat) (j : Job) (fixed : Bool) : State :=
  let d := j.desc
  let input := s.hBytes j.ridge (jh j 0)
  let out := jh j 1
  let cap := (hLen out - 16) / 4
  let hash := BitVec.ofNat 64 (fieldAt d 0x10 8)
  let carry := fieldAt d 0x0C 4
  let k0 : Scan := { ends := [], hash := hash, len := carry, max := 0, full := false }
  let maxL := fieldAt d 8 4
  let k1 := if fixed then fixedScan maxL cap 0 input k0
    else cdcScan (fieldAt d 4 4) maxL (2 ^ 32 / (2 ^ fieldAt d 2 1 - fieldAt d 4 4)) cap 0 input k0
  let k := if bit (fieldAt d 3 1) 0 then scanFinal cap input.length fixed k1 else k1
  let cnt := k.ends.length
  let (h, c) := if k.full then (if cnt = 0 then (hash, carry) else (0, 0)) else (k.hash, k.len)
  let eaten := if k.full then k.ends.headD 0 else input.length
  let b := ridgeBlk j.ridge 5
  let s1 := s.hWrite j.ridge out 0
    (leBytes 8 h.toNat ++ leBytes 4 c ++ leBytes 4 cnt ++ k.ends.reverse.flatMap (leBytes 4))
  let s2 := ((s1.bump b 0 64 eaten).bump (b + 8) 0 64 cnt).bump (b + 0x10) 0 64 k.max
  if k.full then (s2.raise (b + 0x18) 1).finish n j 0x10 cnt else s2.finish n j 0 cnt

/-! ### Digest pipeline -/

/-- A DIG job has hashed `len` bytes and ends. -/
def digEnd (s : State) (n : Nat) (j : Job) (len status result : Nat) : State :=
  let b := ridgeBlk j.ridge 6
  ((s.bump (b + 8) 0 64 len).bump (b + 0x10) 0 64 1).finish n j status result

/-- The library's hash of a chunk goes through a ridge's DIG, and its cutting of an object through the CHK (R118; one job to each,
log entry 82). -/
def libDigest (s : State) (r len : Nat) : State := (s.bump (ridgeBlk r 6 + 8) 0 64 len).bump (ridgeBlk r 6 + 0x10) 0 64 1
def libCut (s : State) (r len cuts maxCuts : Nat) : State :=
  ((s.bump (ridgeBlk r 5) 0 64 len).bump (ridgeBlk r 5 + 8) 0 64 cuts).bump (ridgeBlk r 5 + 0x10) 0 64 maxCuts

/-- The end offsets of a boundary list in the CHK output layout. -/
def boundaries (l : Bytes) : List Nat := (List.range (fieldAt l 0x0C 4)).map (fun i => fieldAt l (16 + 4 * i) 4)

/-- Strictly rising from 0 and within the data (R118). -/
def boundsOk (n : Nat) : Nat → List Nat → Bool
  | _, [] => true
  | p, e :: r => decide (p < e) && decide (e ≤ n) && boundsOk n e r

/-- The 48-byte records of the chunks that the ends cut. -/
def chunkRecords (d : Bytes) : Nat → List Nat → Bytes
  | _, [] => []
  | p, e :: r => sha256 ((d.drop p).take (e - p)) ++ leBytes 4 (e - p) ++ zeros 12 ++ chunkRecords d e r

/-- A CHUNKS job runs (R118). -/
def digChunksRun (s : State) (n : Nat) (j : Job) : State :=
  let d := s.hBytes j.ridge (jh j 0)
  let l := s.hBytes j.ridge (jh j 1)
  let b := ridgeBlk j.ridge 6
  let cnt := fieldAt l 0x0C 4
  let ends := boundaries l
  if l.length < 16 + 4 * cnt ∨ boundsOk d.length 0 ends = false then (s.raise (b + 0x18) 2).digEnd n j 0 0x11 0
  else
    let fit := min cnt (hLen (jh j 2) / 48)
    let recs := chunkRecords d 0 (ends.take fit)
    let s1 := s.hWrite j.ridge (jh j 2) 0 recs
    let hashed := (ends.take fit).getLastD 0
    if fit < cnt then (s1.raise (b + 0x18) 1).digEnd n j hashed 0x10 fit else s1.digEnd n j hashed 0 cnt

/-- A job on a context (R88, R116, R117): 2 BEGIN, 3 UPDATE, 4 FINAL. -/
def digCtxRun (s : State) (n : Nat) (j : Job) (op : Nat) : State :=
  let c := 64 * j.ridge + fieldAt j.desc 2 1
  let d := s.hBytes j.ridge (jh j 0)
  match Tbl.find s.digs c, op with
  | none, 2 => ({ s with digs := Tbl.set s.digs c { owner := j.cid, data := d } }).digEnd n j d.length 0 0
  | some x, 2 =>
    if x.owner = j.cid then
      ({ s with digs := Tbl.set s.digs c { owner := j.cid, data := d } }).digEnd n j d.length 0 0
    else s.finish n j 1 0
  | some x, 3 =>
    if x.owner = j.cid then
      ({ s with digs := Tbl.set s.digs c { x with data := x.data ++ d } }).digEnd n j d.length 0 0
    else s.finish n j 1 0
  | some x, _ =>
    if x.owner = j.cid then
      (({ s with digs := Tbl.del s.digs c }).hWrite j.ridge (jh j 1) 0 (sha256 (x.data ++ d))).digEnd n j d.length 0 0
    else s.finish n j 1 0
  | none, _ => s.finish n j 1 0

/-! ### Index (R127–R135) -/

/-- A pool's index descriptor, read where `POOL_TABLE` points: ENABLED, summary base, log2 B. -/
def idxDesc (s : State) (ridge pool : Nat) : Bool × Nat × Nat :=
  let a := s.regBits (ridgeBlk ridge 9) 0 48 + 64 * pool
  (bit (s.rdNat a 1) 0, s.rdNat (a + 8) 8, s.rdNat (a + 0x10) 8)

/-- The insert log of a pool's descriptor: base, capacity in entries (R135). -/
def idxLogAt (s : State) (ridge pool : Nat) : Nat × Nat :=
  let a := s.regBits (ridgeBlk ridge 9) 0 48 + 64 * pool
  (s.rdNat (a + 0x18) 8, s.rdNat (a + 0x20) 8)

/-- The 48 bytes of an index entry (R127). -/
def entryBytes (e : IdxEntry) : Bytes :=
  padTo 32 e.digest ++ leBytes 4 e.len ++ leBytes 2 (b2n e.tomb) ++ zeros 2 ++ leBytes 6 e.handle ++ zeros 2

def entryRead (b : Bytes) : IdxEntry :=
  { digest := sliceAt b 0 32, len := fieldAt b 0x20 4, handle := fieldAt b 0x28 6, tomb := bit (fieldAt b 0x24 2) 0 }

/-- A run page (R128): number, count, first digest, TIME, CRC-32C, and the entries. -/
def runPage (no : Nat) (time : W64) (es : List IdxEntry) : Bytes :=
  let first := match es with | e :: _ => padTo 32 e.digest | [] => zeros 32
  let head := leBytes 4 no ++ leBytes 2 es.length ++ zeros 2 ++ first ++ leBytes 8 time.toNat
  let body := es.flatMap entryBytes
  padTo 16384 (head ++ leBytes 4 (crc32c (head ++ body)) ++ zeros 12 ++ body)

def runPages (no : Nat) (time : W64) : Nat → List IdxEntry → List Bytes
  | 0, _ => []
  | f + 1, l => if l.isEmpty then [] else runPage no time (l.take 340) :: runPages no time f (l.drop 340)

/-- Does a run page verify (R128)? -/
def runPageOk (b : Bytes) : Bool :=
  decide (fieldAt b 0x30 4 = crc32c (b.take 0x30 ++ sliceAt b 64 (48 * fieldAt b 4 2)))

def runPageEntries (b : Bytes) : List IdxEntry := (List.range (fieldAt b 4 2)).map (fun i => entryRead (sliceAt b (64 + 48 * i) 48))

def sameFp (digest : Bytes) (len : Nat) (e : IdxEntry) : Bool := decide (e.digest = digest) && decide (e.len = len)

/-- The insert log of a pool, newest entry first, and the pages of its run. -/
def idxLog (s : State) (pool : Nat) : List IdxEntry := Tbl.getD s.idxStore pool []
def idxRun' (s : State) (pool : Nat) : List Bytes := Tbl.getD s.idxRuns pool []

/-- The run page in which a fingerprint stands if it is in the run. -/
def runPageFor (s : State) (pool : Nat) (digest : Bytes) : Option Bytes :=
  ((s.idxRun' pool).filter (fun b => decide (beNat (sliceAt b 8 32) ≤ beNat (padTo 32 digest)))).getLast?

/-- The entry of a fingerprint in a pool's index store: the insert log, newest first, then the run. -/
def idxFind (s : State) (pool : Nat) (digest : Bytes) (len : Nat) : Option IdxEntry :=
  match (s.idxLog pool).find? (sameFp digest len) with
  | some e => if e.tomb then none else some e
  | none => match s.runPageFor pool digest with
    | some b => (runPageEntries b).find? (sameFp digest len)
    | none => none

/-- Does finding a fingerprint take a run page? -/
def needsRun (s : State) (pool : Nat) (digest : Bytes) (len : Nat) : Bool :=
  !(s.idxLog pool).any (sameFp digest len) && (s.runPageFor pool digest).isSome

/-- Place an entry in the order of a run (R128). -/
def insFp (e : IdxEntry) : List IdxEntry → List IdxEntry
  | [] => [e]
  | x :: r =>
    if beNat x.digest < beNat e.digest ∨ (x.digest = e.digest ∧ x.len ≤ e.len) then x :: insFp e r else e :: x :: r

/-- The entries of an insert log that stand: each fingerprint's newest. -/
def newestOf : List IdxEntry → List IdxEntry
  | [] => []
  | e :: r => e :: (newestOf r).filter (fun x => !sameFp e.digest e.len x)

/-- The index store of a pool: every entry that stands. -/
def idxOf (s : State) (pool : Nat) : List IdxEntry :=
  let log := newestOf (s.idxLog pool)
  let old := ((s.idxRun' pool).flatMap runPageEntries).filter (fun x => !log.any (sameFp x.digest x.len))
  log.filter (fun e => !e.tomb) ++ old

/-- A full insert log is merged into a new run (R127, R128). When a merge comes, and that it makes one run of the old run and the
log, is the model's choice (DESIGN CHOICE, log entry 78). -/
def mergeRun (s : State) (pool : Nat) : State :=
  let es := (s.idxOf pool).foldl (fun l e => insFp e l) []
  let no := match s.idxRun' pool with
    | b :: _ => fieldAt b 0 4 + 1
    | [] => 0
  { s with idxStore := Tbl.del s.idxStore pool, idxRuns := Tbl.set s.idxRuns pool (runPages no s.time (es.length + 1) es) }

/-- A summary slot: tag, handle, length, VALID (R129). -/
structure SumSlot where
  tag    : Bytes
  handle : Nat
  len    : Nat
  valid  : Bool
  deriving DecidableEq, Repr

def slotAddr (base b k : Nat) : Nat := base + b * 256 + 16 + 24 * k

def readSlot (s : State) (base b k : Nat) : SumSlot :=
  let x := s.rdBytes (slotAddr base b k) 24
  { tag := sliceAt x 0 12, handle := fieldAt x 12 6, len := fieldAt x 0x12 3, valid := bit (fieldAt x 0x15 1) 0 }

def writeSlot (s : State) (base b k : Nat) (e : SumSlot) : State :=
  s.wrBytes (slotAddr base b k)
    (padTo 12 e.tag ++ leBytes 6 e.handle ++ leBytes 3 e.len ++ leBytes 1 (b2n e.valid) ++ [0, 0])

def overflow (s : State) (base b : Nat) : Bool := bit (s.rdNat (base + b * 256) 1) 0
def setOverflow (s : State) (base b : Nat) : State := s.wrNat (base + b * 256) 1 1

/-- The mask m of R130, from a tag. -/
def tagMask (tag : Bytes) (log2b : Nat) : Nat :=
  let m := fieldAt tag 0 8 % 2 ^ log2b
  if m = 0 then 1 else m

/-- The two buckets of a fingerprint (R130). -/
def buckets (digest : Bytes) (log2b : Nat) : Nat × Nat :=
  let b1 := fieldAt digest 12 8 % 2 ^ log2b
  (b1, b1 ^^^ tagMask digest log2b)

/-- The slots of the two buckets that match a fingerprint. -/
def matches' (s : State) (base log2b : Nat) (digest : Bytes) (len : Nat) : List (Nat × Nat × SumSlot) :=
  let (b1, b2) := buckets digest log2b
  [b1, b2].flatMap (fun b => (List.range 10).filterMap (fun k =>
    let e := s.readSlot base b k
    if e.valid ∧ e.tag = sliceAt digest 0 12 ∧ e.len = len then some (b, k, e) else none))

/-- A free slot of a bucket. -/
def freeSlot (s : State) (base b : Nat) : Option Nat :=
  (List.range 10).find? (fun k => !(s.readSlot base b k).valid)

/-- The displacements of R131: at step `i` the entry in slot `i mod 10` of bucket `b` makes room for `e`. An entry
that still finds no slot is left out: it is answered with the bucket it last looked in. -/
def displace (base log2b : Nat) : Nat → Nat → State → Nat → SumSlot → State × Option (SumSlot × Nat)
  | 0, _, s, b, e => (s, some (e, b))
  | fuel + 1, i, s, b, e =>
    let old := s.readSlot base b (i % 10)
    let b' := b ^^^ tagMask old.tag log2b
    let s1 := ((s.dramTouch (base + b * 256) 256 true).writeSlot base b (i % 10) e).dramTouch (base + b' * 256) 256 true
    match s1.freeSlot base b' with
    | some k => (s1.writeSlot base b' k old, none)
    | none => displace base log2b fuel (i + 1) s1 b' old

/-- Place an entry in the summary; the Bool tells of CUCKOO_FAIL (R131). Displacement begins in b1, and of several free slots of a
bucket the lowest is taken (DESIGN CHOICE, log entry 79). -/
def sumInsert (s : State) (base log2b : Nat) (digest : Bytes) (e : SumSlot) : State × Bool :=
  let (b1, b2) := buckets digest log2b
  match s.freeSlot base b1 with
  | some k => (s.writeSlot base b1 k e, false)
  | none =>
    match s.freeSlot base b2 with
    | some k => (s.writeSlot base b2 k e, false)
    | none =>
      match displace base log2b 64 0 s b1 e with
      | (s1, none) => (s1, false)
      | (s1, some (x, b)) => ((s1.setOverflow base b).setOverflow base (b ^^^ tagMask x.tag log2b), true)

/-- An entry joins the insert log in DRAM (R127, R135); a full log is merged. -/
def idxAppend (s : State) (ridge pool : Nat) (e : IdxEntry) : State :=
  let (lb, cap) := s.idxLogAt ridge pool
  let n := (s.idxLog pool).length
  let s1 := if n < cap then (s.dramTouch (lb + 48 * n) 48 true).wrBytes (lb + 48 * n) (entryBytes e) else s
  let s2 := { s1 with idxStore := Tbl.set s1.idxStore pool (e :: s1.idxLog pool) }
  if cap ≠ 0 ∧ n + 1 ≥ cap then s2.mergeRun pool else s2

/-- Record `i` of an IDX job: digest, length, handle. -/
def idxRecord (s : State) (j : Job) (i : Nat) : Bytes × Nat × Nat :=
  let r := sliceAt (s.hBytes j.ridge (jh j 0)) (48 * i) 48
  (sliceAt r 0 32, fieldAt r 0x20 4, fieldAt r 0x28 6)

/-- The answer of R132 to one record: the handle if FOUND, whether it is unconfirmed, summary matches refuted, and
whether a run page had to be read. -/
structure ProbeAns where
  found : Option Nat
  loose : Bool
  wrong : Nat
  read  : Bool
  deriving DecidableEq, Repr

/-- One PROBE record (R132). `summaryOnly` also answers for a run page whose CRC fails (R128). -/
def probeOne (s : State) (base log2b pool : Nat) (digest : Bytes) (len : Nat) (summaryOnly : Bool) : ProbeAns :=
  let ms := s.matches' base log2b digest len
  let (b1, b2) := buckets digest log2b
  let ovf := s.overflow base b1 || s.overflow base b2
  let run := s.needsRun pool digest len
  match ms with
  | m :: _ =>
    if summaryOnly then { found := some m.2.2.handle, loose := true, wrong := 0, read := false }
    else match s.idxFind pool digest len with
      | some e =>
        if ms.any (fun x => decide (x.2.2.handle = e.handle)) then
          { found := some e.handle, loose := false, wrong := 0, read := run }
        else { found := if ovf then some e.handle else none, loose := false, wrong := ms.length, read := run }
      | none => { found := none, loose := false, wrong := ms.length, read := run }
  | [] =>
    if !ovf then { found := none, loose := false, wrong := 0, read := false }
    else if summaryOnly then { found := none, loose := true, wrong := 0, read := false }
    else match s.idxFind pool digest len with
      | some e => { found := some e.handle, loose := false, wrong := 0, read := run }
      | none => { found := none, loose := false, wrong := 0, read := run }

/-- The two bucket lines of a fingerprint are read through the map cache. -/
def touchBuckets (s : State) (base log2b : Nat) (digest : Bytes) (wr : Bool) : State :=
  let (b1, b2) := buckets digest log2b
  (s.dramTouch (base + b1 * 256) 256 wr).dramTouch (base + b2 * 256) 256 wr

/-- The answer word of a PROBE record (R92). -/
def probeWord (a : ProbeAns) : Nat :=
  (match a.found with | some h => h % 2 ^ 48 + 2 ^ 48 | none => 0) + b2n a.loose * 2 ^ 49

/-- One probe of a ridge's IDX (R128, R132): `runsOk` tells whether a run page that is read verifies. -/
def idxProbe (s : State) (ridge base log2b pool : Nat) (digest : Bytes) (len : Nat) (summaryOnly runsOk : Bool) : State × ProbeAns :=
  let blk := ridgeBlk ridge 9
  let s1 := s.touchBuckets base log2b digest false
  let full := s1.probeOne base log2b pool digest len summaryOnly
  let bad := full.read && !(runsOk && ((s1.runPageFor pool digest).map runPageOk).getD true)
  let a := if bad then s1.probeOne base log2b pool digest len true else full
  let s2 := s1.bump (blk + 8) 0 64 1
  let s3 := if a.found.isSome && !a.loose then s2.bump (blk + 0x10) 0 64 1 else s2
  let s4 := (s3.bump (blk + 0x18) 0 64 a.wrong).bump (blk + 0x20) 0 64 (b2n full.read)
  (if bad then s4.raise (blk + 0x30) 2 else s4, a)

/-- One insert of a ridge's IDX (R131, R133): the handle that stood there, if one did. -/
def idxInsert (s : State) (ridge base log2b pool : Nat) (digest : Bytes) (len h : Nat) : State × Option Nat :=
  let blk := ridgeBlk ridge 9
  let s1 := s.bump (blk + 0x20) 0 64 (b2n (s.probeOne base log2b pool digest len false).read)
  match s.idxFind pool digest len with
  | some e => (s1.bump (blk + 0x28) 0 64 1, some e.handle)
  | none =>
    let e : IdxEntry := { digest := digest, len := len, handle := h, tomb := false }
    let s2 := (s1.idxAppend ridge pool e).touchBuckets base log2b digest true
    let (s3, failed) := s2.sumInsert base log2b digest { tag := sliceAt digest 0 12, handle := h, len := len, valid := true }
    (if failed then s3.raise (blk + 0x30) 1 else s3, none)

/-- One removal of a ridge's IDX (R134): true where an entry matched. -/
def idxRemove (s : State) (ridge base log2b pool : Nat) (digest : Bytes) (len h : Nat) : State × Bool :=
  let s0 := s.bump (ridgeBlk ridge 9 + 0x20) 0 64 (b2n (s.probeOne base log2b pool digest len false).read)
  match s.idxFind pool digest len with
  | some e =>
    if e.handle ≠ h then (s0, false) else
    let s2 := (s0.idxAppend ridge pool { e with tomb := true }).touchBuckets base log2b digest true
    match (s2.matches' base log2b digest len).find? (fun x => decide (x.2.2.handle = h)) with
    | some (b, k, x) => (s2.writeSlot base b k { x with valid := false }, true)
    | none => (s2, true)
  | none => (s0, false)

/-- PROBE record `i`: the answer is written and counted. -/
def probeStep (j : Job) (base log2b : Nat) (runsOk : Bool) (st : State × Nat) (i : Nat) : State × Nat :=
  let (s, n) := st
  let (d, len, _) := s.idxRecord j i
  let r := s.idxProbe j.ridge base log2b (fieldAt j.desc 2 1) d len (bit (fieldAt j.desc 3 1) 0) runsOk
  (r.1.hWrite j.ridge (jh j 1) (8 * i) (leBytes 8 (probeWord r.2)), n + b2n r.2.found.isSome)

/-- INSERT record `i` (R131, R133): the state and the number of records that existed. -/
def insertStep (j : Job) (base log2b : Nat) (st : State × Nat) (i : Nat) : State × Nat :=
  let (s, n) := st
  let (d, len, h) := s.idxRecord j i
  match s.idxInsert j.ridge base log2b (fieldAt j.desc 2 1) d len h with
  | (s1, some e) => (s1.hWrite j.ridge (jh j 0) (48 * i + 0x28) (leBytes 8 (e % 2 ^ 48 + 2 ^ 63)), n + 1)
  | (s1, none) => (s1, n)

/-- REMOVE record `i` (R134): the state and the number of records that matched no entry. -/
def removeStep (j : Job) (base log2b : Nat) (st : State × Nat) (i : Nat) : State × Nat :=
  let (s, n) := st
  let (d, len, h) := s.idxRecord j i
  let r := s.idxRemove j.ridge base log2b (fieldAt j.desc 2 1) d len h
  (r.1, n + b2n !r.2)

/-- An IDX job runs record by record (R132–R135); without an enabled index it ends NO_INDEX (R134). Its accesses to DRAM wait while the
map cache is being wiped (R198). -/
def idxRun (s : State) (n : Nat) (j : Job) (op : Nat) (runsOk : Bool) : State :=
  let pool := fieldAt j.desc 2 1
  let cnt := fieldAt j.desc 4 4
  let (en, base, log2b) := s.idxDesc j.ridge pool
  if s.mapc.wiping then s else
  let s := s.dramTouch (s.regBits (ridgeBlk j.ridge 9) 0 48 + 64 * pool) 64 false
  if !en then s.finish n j 0x13 0
  else if op = 0 then
    let (s1, k) := (List.range cnt).foldl (probeStep j base log2b runsOk) (s, 0)
    s1.finish n j 0 k
  else if op = 1 then
    let (s1, k) := (List.range cnt).foldl (insertStep j base log2b) (s, 0)
    if k = 0 then s1.finish n j 0 0 else s1.finish n j 0x11 k
  else
    let (s1, k) := (List.range cnt).foldl (removeStep j base log2b) (s, 0)
    if k = 0 then s1.finish n j 0 0 else s1.finish n j 0x12 k

/-! ### XTS (R90, R200–R202) -/

/-- The 4 KiB data units of an input (R90, R201). A final unit under 16 bytes has nothing to steal from in its own
unit and no stated result: it is `rest`, free bytes (log entry 3). -/
def xtsUnits (enc : Bool) (key rest : Bytes) (seg : Nat) : Nat → Nat → Bytes → Bytes
  | 0, _, _ => []
  | f + 1, off, d =>
    if d.length = 0 then []
    else if d.length < 16 then rest.take d.length
    else xtsUnit enc key (leBytes 8 off ++ leBytes 8 seg) (d.take 4096) ++ xtsUnits enc key rest seg f (off + 4096) (d.drop 4096)

/-- An XTS job runs. -/
def xtsRun (s : State) (n : Nat) (j : Job) (enc : Bool) : State :=
  let b := ridgeBlk j.ridge 7
  let d := s.hBytes j.ridge (jh j 0)
  if d.length < 16 then (s.raise (b + 0x18) 2).finish n j 1 0
  else match if j.noKey then none else Tbl.find s.keySlots (fieldAt j.desc 2 1) with
    | none => (s.raise (b + 0x18) 1).finish n j 0x10 0
    | some key =>
      let out := xtsUnits enc key (s.freeBytes 16) (fieldAt j.desc 8 8) (d.length / 4096 + 1) (fieldAt j.desc 0x10 8) d
      ((s.used.hWrite j.ridge (jh j 1) 0 out).bump (b + (if enc then 8 else 0x10)) 0 64 d.length).finish n j 0 0

end State

/-- CHK_CONTENT_DEFINED (R108). -/
def execChkContentDefined (n : Nat) (s : State) : Res :=
  match s.startable n 1 (fun o => decide (o = 0)) with
  | some j => .next (s.chkRun n j false)
  | none => .next s

/-- CHK_FIXED (R109). -/
def execChkFixed (n : Nat) (s : State) : Res :=
  match s.startable n 1 (fun o => decide (o = 1)) with
  | some j => .next (s.chkRun n j true)
  | none => .next s

/-- DIG_DIGEST (R88). -/
def execDigDigest (n : Nat) (s : State) : Res :=
  match s.startable n 2 (fun o => decide (o = 0)) with
  | some j =>
    let d := s.hBytes j.ridge (State.jh j 0)
    .next ((s.hWrite j.ridge (State.jh j 1) 0 (sha256 d)).digEnd n j d.length 0 0)
  | none => .next s

/-- DIG_CHUNKS (R118). -/
def execDigChunks (n : Nat) (s : State) : Res :=
  match s.startable n 2 (fun o => decide (o = 1)) with
  | some j => .next (s.digChunksRun n j)
  | none => .next s

/-- DIG_BEGIN (R88, R116). -/
def execDigBegin (n : Nat) (s : State) : Res :=
  match s.startable n 2 (fun o => decide (o = 2)) with
  | some j => .next (s.digCtxRun n j 2)
  | none => .next s

/-- DIG_UPDATE (R88, R116). -/
def execDigUpdate (n : Nat) (s : State) : Res :=
  match s.startable n 2 (fun o => decide (o = 3)) with
  | some j => .next (s.digCtxRun n j 3)
  | none => .next s

/-- DIG_FINAL (R88, R116). -/
def execDigFinal (n : Nat) (s : State) : Res :=
  match s.startable n 2 (fun o => decide (o = 4)) with
  | some j => .next (s.digCtxRun n j 4)
  | none => .next s

/-- IDX_PROBE (R132). -/
def execIdxProbe (n : Nat) (runsOk : Bool) (s : State) : Res :=
  match s.startable n 6 (fun o => decide (o = 0)) with
  | some j => .next (s.idxRun n j 0 runsOk)
  | none => .next s

/-- IDX_INSERT (R133). -/
def execIdxInsert (n : Nat) (s : State) : Res :=
  match s.startable n 6 (fun o => decide (o = 1)) with
  | some j => .next (s.idxRun n j 1 true)
  | none => .next s

/-- IDX_REMOVE (R134). -/
def execIdxRemove (n : Nat) (s : State) : Res :=
  match s.startable n 6 (fun o => decide (o = 2)) with
  | some j => .next (s.idxRun n j 2 true)
  | none => .next s

/-- XTS_ENCRYPT (R90). -/
def execXtsEncrypt (n : Nat) (s : State) : Res :=
  match s.startable n 4 (fun o => decide (o = 0)) with
  | some j => .next (s.xtsRun n j true)
  | none => .next s

/-- XTS_DECRYPT (R90). -/
def execXtsDecrypt (n : Nat) (s : State) : Res :=
  match s.startable n 4 (fun o => decide (o = 1)) with
  | some j => .next (s.xtsRun n j false)
  | none => .next s

/-- XTS_KEY_LOAD (R202): the warden unwraps the pool's data key into every present ridge's slot. -/
def execXtsKeyLoad (pool : Nat) (s : State) : Res :=
  match s.areaKey 5 pool with
  | some k => .next (if pool < 16 then { s with keySlots := Tbl.set s.keySlots pool k, keyEnding := s.keyEnding.filter (fun q => decide (q ≠ pool)) } else s)
  | none => .next s

/-- XTS_KEY_UNLOAD (R202): it waits for the jobs that name the slot and are already queued. -/
def execXtsKeyUnload (pool : Nat) (s : State) : Res :=
  .next (s.unloadKey pool)

end Sys2Proof.Machine
end

