-- ==== Sys2Proof/Machine/Par.lean ====
section
/-! DEFINITION. The parity unit (R91, R274–R276): generation, recovery and check of strips. -/

namespace Sys2Proof.Machine

/-! ### Strips -/

/-- A strip times a coefficient. -/
def mulStrip (c : Byte) (d : Bytes) : Bytes := d.map (gfMul c)

/-- XOR of strips of `n` bytes. -/
def xorStrips (n : Nat) (l : List Bytes) : Bytes := l.foldl (fun a d => List.zipWith (· ^^^ ·) a d) (zeros n)

/-- P of the data strips (R274). -/
def parP (n : Nat) (l : List Bytes) : Bytes := xorStrips n l

/-- Q of the data strips, whose first is member `i` (R274). -/
def parQ (n : Nat) (l : List Bytes) : Bytes :=
  xorStrips n ((List.range l.length).map (fun i => mulStrip (gfPow i) (l.getD i [])))

/-- The strips of all members, data, P and Q, with the erased ones rebuilt (R275). -/
def recoverAll (n : Nat) (d : List Bytes) (p q : Bytes) (erased : List Nat) : List Bytes :=
  let k := d.length
  let gone := (List.range k).filter (fun i => decide (i ∈ erased))
  let clear := (List.range k).map (fun i => if i ∈ erased then zeros n else d.getD i [])
  let data := match gone with
    | [] => d
    | [x] =>
      let dx := if k ∈ erased then mulStrip (gfPow (255 - x)) (xorStrips n [q, parQ n clear])
                else xorStrips n (p :: clear)
      d.set x dx
    | x :: y :: _ =>
      let pxy := xorStrips n (p :: clear)
      let qxy := xorStrips n [q, parQ n clear]
      let dy := mulStrip (gfInv (gfPow x ^^^ gfPow y)) (xorStrips n [mulStrip (gfPow x) pxy, qxy])
      (d.set y dy).set x (xorStrips n [pxy, dy])
  data ++ [if k ∈ erased then parP n data else p, if k + 1 ∈ erased then parQ n data else q]

namespace State

/-! ### Jobs. The handles are: primary, P, Q (but for OP 1), the further data handles, HOUT (OP 2). -/

def parK (j : Job) : Nat := fieldAt j.desc 2 1
def parLen (j : Job) : Nat := fieldAt j.desc 4 4

/-- The data strips of a PAR job. -/
def parStrips (s : State) (j : Job) : List Bytes :=
  let skip := if jobOp j = 1 then 2 else 3
  let hs := jh j 0 :: (j.handles.drop skip).take (fieldAt j.desc 3 1 - 1)
  let d := hs.flatMap (fun h => s.hBytes j.ridge h)
  (List.range (parK j)).map (fun i => sliceAt d (i * parLen j) (parLen j))

/-- A PAR job has read `bytes` strip bytes and ends (R570). -/
def parEnd (s : State) (n : Nat) (j : Job) (bytes status result : Nat) : State :=
  let b := ridgeBlk j.ridge 8
  ((s.bump b 0 64 bytes).bump (b + 8) 0 64 1).finish n j status result

/-- GENERATE (R274, R276). -/
def parGenerate (s : State) (n : Nat) (j : Job) (both : Bool) : State :=
  let d := s.parStrips j
  let l := parLen j
  let s1 := s.hWrite j.ridge (jh j 1) 0 (parP l d)
  let s2 := if both then s1.hWrite j.ridge (jh j 2) 0 (parQ l d) else s1
  s2.parEnd n j (parK j * l) 0 0

/-- RECOVER (R275, R276). -/
def parRecover (s : State) (n : Nat) (j : Job) : State :=
  let l := parLen j
  let e1 := fieldAt j.desc 8 1
  let e2 := fieldAt j.desc 9 1
  let erased := if e2 = 0xFF then [e1] else [e1, e2]
  let all := recoverAll l (s.parStrips j) (s.rdBytes (s.hAddr j.ridge (jh j 1)) l) (s.rdBytes (s.hAddr j.ridge (jh j 2)) l) erased
  let out := erased.flatMap (fun e => all.getD e [])
  let s1 := s.hWrite j.ridge (j.handles.getLastD nullH) 0 out
  (s1.bump (ridgeBlk j.ridge 8 + 0x10) 0 64 1).parEnd n j (parK j * l) 0 0

/-- CHECK (R91). -/
def parCheck (s : State) (n : Nat) (j : Job) : State :=
  let l := parLen j
  let d := s.parStrips j
  let bad := b2n (decide (parP l d ≠ s.rdBytes (s.hAddr j.ridge (jh j 1)) l))
    + 2 * b2n (decide (parQ l d ≠ s.rdBytes (s.hAddr j.ridge (jh j 2)) l))
  if bad = 0 then s.parEnd n j ((parK j + 2) * l) 0 0
  else (s.raise (ridgeBlk j.ridge 8 + 0x18) 1).parEnd n j ((parK j + 2) * l) 0x10 bad

end State

/-- PAR_GENERATE_PQ (R274). -/
def execParGeneratePq (n : Nat) (s : State) : Res :=
  match s.startable n 5 (fun o => decide (o = 0)) with
  | some j => .next (s.parGenerate n j true)
  | none => .next s

/-- PAR_GENERATE_P (R276). -/
def execParGenerateP (n : Nat) (s : State) : Res :=
  match s.startable n 5 (fun o => decide (o = 1)) with
  | some j => .next (s.parGenerate n j false)
  | none => .next s

/-- PAR_RECOVER (R275). -/
def execParRecover (n : Nat) (s : State) : Res :=
  match s.startable n 5 (fun o => decide (o = 2)) with
  | some j => .next (s.parRecover n j)
  | none => .next s

/-- PAR_CHECK (R91). -/
def execParCheck (n : Nat) (s : State) : Res :=
  match s.startable n 5 (fun o => decide (o = 3)) with
  | some j => .next (s.parCheck n j)
  | none => .next s

end Sys2Proof.Machine
end

