-- ==== Sys2Proof/Machine/Modules.lean ====
section
/-! DEFINITION. Flash modules and their ports (R209, R212, R213, R428–R453): slabs, pages and tags, the Quinken
commands as a module performs them, and what a port does with their endings. -/

namespace Sys2Proof.Machine

/-! ### Slab addresses and tags (R209, R212, R213) -/

/-- A slab address as one number: module (4 port + target) and slab index. -/
def saOf (m slab : Nat) : Nat := m * 2 ^ 32 + slab
def saMod (sa : Nat) : Nat := sa / 2 ^ 32
def saSlab (sa : Nat) : Nat := sa % 2 ^ 32

/-- The 6-byte form: PORT, TARGET, SLAB. -/
def saBytes (sa : Nat) : Bytes := leBytes 1 (saMod sa / 4) ++ leBytes 1 (saMod sa % 4) ++ leBytes 4 (saSlab sa)
def saRead (b : Bytes) (o : Nat) : Nat := saOf (4 * fieldAt b o 1 + fieldAt b (o + 1) 1) (fieldAt b (o + 2) 4)

/-- The failure domain of a module: its port (R270). -/
def domainOf (m : Nat) : Nat := m / 4
/-- The module-port group of a module (R428). -/
def groupOf (m : Nat) : Nat := m / 32

/-- TAG_CRC of a page (R212). -/
def tagCrc (data tag : Bytes) : Nat := crc32c (data ++ tag.take 60)

/-- A page as programmed: data, tag, and the TAG_CRC that the port fills in (R213). -/
def sealPage (data tag : Bytes) : Bytes := padTo 4096 data ++ padTo 60 tag ++ leBytes 4 (tagCrc (padTo 4096 data) (padTo 60 tag))

def pageData (p : Bytes) : Bytes := p.take 4096
def pageTag (p : Bytes) : Bytes := p.drop 4096

/-- Does the page's TAG_CRC verify? -/
def pageOk (p : Bytes) : Bool := decide (fieldAt p 4156 4 = tagCrc (pageData p) (pageTag p))

/-! ### The medium (R436–R443) -/

/-- A program (R436): the Status Code, 0 for success, and the slab afterwards. `blank` tells whether the pages of a
refused program read as erased. Tests in the order range, mode, order (log entry 30). -/
def slabProgram (slabs : Nat) (sl : MSlab) (slab first mode : Nat) (pages : List Bytes) (refused blank : Bool) : Nat × MSlab :=
  let n := pages.length
  if slab ≥ slabs ∨ first + n > (if mode = 0 then 16384 else 4096) then (0x86, sl)
  else if sl.mode ≠ 0 ∧ sl.mode ≠ mode + 1 then (0x87, sl)
  else if mode = 0 ∧ (n ≠ 16 ∨ first ≠ 16 * sl.row) then (0x80, sl)
  else if mode = 1 ∧ (List.range n).any (fun i => (Tbl.find sl.pages (first + i)).isSome) then (0x81, sl)
  else
    let put := fun (t : Tbl FPage) (i : Nat) => Tbl.set t (first + i) { bytes := pages.getD i [], bad := refused }
    let sl' := { sl with mode := mode + 1, row := if mode = 0 then sl.row + 1 else 0,
                         pages := if refused && blank then sl.pages else (List.range n).foldl put sl.pages }
    (if refused then 0x82 else 0, sl')

/-- The pages [first, first + n) as Read Page finds them (R438): 0 returned, 1 erased, 2 uncorrectable, with bytes; those of
page `i` that is uncorrectable stand at its place in `junk`. -/
def slabRead (sl : MSlab) (first n : Nat) (bad : List Nat) (junk : Bytes) : List (Nat × Bytes) :=
  (List.range n).map (fun i =>
    match Tbl.find sl.pages (first + i) with
    | none => if i ∈ bad then (2, sliceAt junk (4160 * i) 4160) else (1, List.replicate 4160 0xFF)
    | some p => if p.bad || decide (i ∈ bad) then (2, sliceAt junk (4160 * i) 4160) else (0, p.bytes))

/-- A set of indices as a bitmap. -/
def bitmap (l : List Nat) : Nat := sumBy (fun i => 2 ^ i) l

/-- The tag of page `i` of an append (R441). -/
def appendTag (pool serial page epoch seq i len : Nat) : Bytes :=
  leBytes 1 1 ++ leBytes 1 5 ++ leBytes 1 pool ++ leBytes 1 0 ++ leBytes 4 serial ++ leBytes 2 page ++ leBytes 2 0
    ++ leBytes 4 epoch ++ leBytes 8 (if i = 0 then seq else 0) ++ leBytes 8 0 ++ leBytes 6 0 ++ leBytes 2 i ++ leBytes 4 len
    ++ zeros 16

/-- A Journal Append (R441, R442): Status Code, DUPLICATE, first page, and the slab afterwards. -/
def slabAppend (sl : MSlab) (serial pool head epoch seq : Nat) (data : Bytes) (refused : Bool) : Nat × Bool × Nat × MSlab :=
  match sl.appends.find? (fun a => decide (a.1 = head ∧ a.2.1 = seq)) with
  | some a => (0, true, a.2.2, sl)
  | none =>
    if sl.mode = 1 then (0x87, false, 0, sl) else
    let n := ceilDiv data.length 4096
    let first := sl.pages.foldl (fun m p => max m (p.1 + 1)) 0
    if first + n > 4096 then (0x88, false, 0, sl) else
    let page := fun i => sealPage (sliceAt data (4096 * i) 4096) (appendTag pool serial (first + i) epoch seq i data.length)
    let sl' := { sl with mode := 2,
                         pages := (List.range n).foldl (fun t i => Tbl.set t (first + i) { bytes := page i, bad := refused }) sl.pages,
                         appends := if refused then sl.appends else sl.appends ++ [(head, seq, first)] }
    (if refused then 0x82 else 0, false, first, sl')

namespace State

/-! ### Modules and ports of the state -/

def modu (s : State) (m : Nat) : Modu := Tbl.getD s.modules m Modu.fresh
def setModu (s : State) (m : Nat) (x : Modu) : State := { s with modules := Tbl.set s.modules m x }
def mport (s : State) (p : Nat) : MPort := Tbl.getD s.ports p MPort.fresh
def setMport (s : State) (p : Nat) (x : MPort) : State := { s with ports := Tbl.set s.ports p x }
def mslab (s : State) (sa : Nat) : MSlab := Tbl.getD (s.modu (saMod sa)).slabs (saSlab sa) MSlab.fresh
def setMslab (s : State) (sa : Nat) (sl : MSlab) : State :=
  s.setModu (saMod sa) { s.modu (saMod sa) with slabs := Tbl.set (s.modu (saMod sa)).slabs (saSlab sa) sl }

/-- Present and admitted: the module takes commands. -/
def modUp (s : State) (m : Nat) : Bool := (s.modu m).present && (s.modu m).admitted && !(s.modu m).lost

/-- The control-space base of a module port. -/
def mpcBlk (p : Nat) : Nat := 0x400000 + p * 0x10000

/-- A module event (MPC.EVENTS) and one of the four counts of MPC.ERRORS. -/
def mpcEvent (s : State) (p flag : Nat) : State := s.raise (mpcBlk p + 8) flag
def mpcError (s : State) (p field flag : Nat) : State := (s.bump (mpcBlk p + 0x48) (16 * field) 16 1).mpcEvent p flag

/-- Entries of a TIME list that are at most `ms` old. -/
def recent (s : State) (l : List W64) (ms : Nat) : List W64 := l.filter (fun t => decide ((s.time - t).toNat ≤ ms * 100000))

/-- A completed command moved bytes from and to the module. -/
def mpcCount (s : State) (p rd wr : Nat) : State :=
  ((s.bump (mpcBlk p + 0x30) 0 64 1).bump (mpcBlk p + 0x38) 0 64 rd).bump (mpcBlk p + 0x40) 0 64 wr

/-- A LENGTH ending of a module (R446). -/
def noteLength (s : State) (m : Nat) : State :=
  let x := s.modu m
  (s.setModu m { x with lengths := s.recent (x.lengths ++ [s.time]) 60000 }).mpcError (m / 4) 1 0x20

/-- The write-class gate of the reservation: the other head holds it, now or by this outcome (R333, R450). -/
def conflictBy (s : State) (m : Nat) (o : ModOut) : Bool := (s.modu m).foreign || decide (o = .conflict)

/-- The reservation passes to the other head (R332, R333). -/
def loseReservation (s : State) (m : Nat) : State :=
  (s.setModu m { s.modu m with held := false, foreign := true }).mpcEvent (m / 4) 0x200

/-! ### Commands: STATUS, RESULT and the state afterwards -/

/-- The status field of R93 for a Quinken failure, and for a Reservation Conflict. -/
def quinken (sc : Nat) : Nat := sc + 7 * 256
def resvConflict : Nat := 0x83

/-- A job's ending: the module is not admitted or lost (R447), else `f`. -/
def issued (s : State) (m : Nat) (f : State → Nat × Nat × State) : Nat × Nat × State :=
  let x := s.modu m
  if x.lost then (0x23, 0, s) else if !x.admitted || x.detached then (0x25, 0, s) else f s

/-- A module's answer to a command that its table does not list (R436, R438, R441): not stated, a free status; the medium stays as it is
(log entry 98). -/
def unlisted (s : State) (m : Nat) : Nat × Nat × State := (0x20, s.pick (2 ^ 15), s.used.mpcCount (m / 4) 0 0)

/-- Endings that a write-class command shares: conflict, another status, a length that disagrees (R446); `len` bytes move. RESULT of a
LENGTH ending of a write-class command is not stated: a free value (log entry 98). -/
def writeEnd (s : State) (m len : Nat) (o : ModOut) (f : State → Nat × Nat × State) : Nat × Nat × State :=
  let p := m / 4
  if s.conflictBy m o then (0x20, resvConflict, (s.loseReservation m).mpcCount p 0 0) else
  match o with
  | .status v => (0x20, v % 2 ^ 15, s.mpcCount p 0 0)
  | .short n => (0x22, s.pick (2 ^ 32), (s.used.noteLength m).mpcCount p 0 n)
  | .excess => let r := f s.used; (0x22, s.pick (2 ^ 32), (r.2.2.noteLength m).mpcCount p 0 len)
  | _ => let r := f s; (r.1, r.2.1, r.2.2.mpcCount p 0 len)

def refusedBy (o : ModOut) : Bool := decide (o = .refuse)

/-- Erase Slab (R437). -/
def cmdErase (s : State) (sa : Nat) (o : ModOut) : Nat × Nat × State :=
  s.issued (saMod sa) (fun s => s.writeEnd (saMod sa) 0 o (fun s =>
    if saSlab sa ≥ (s.modu (saMod sa)).ident.slabs then (0x20, quinken 0x86, s)
    else if refusedBy o then (0x20, quinken 0x83, s)
    else (0, 0, s.setModu (saMod sa) { s.modu (saMod sa) with slabs := Tbl.del (s.modu (saMod sa)).slabs (saSlab sa) })))

/-- Program Slab Row (R436): the pages of R213, mode 0 QLC or 1 SLC. -/
def cmdProgram (s : State) (sa first mode : Nat) (pages : List Bytes) (o : ModOut) : Nat × Nat × State :=
  s.issued (saMod sa) (fun s => if 16 < pages.length then s.unlisted (saMod sa) else
    s.writeEnd (saMod sa) (4160 * pages.length) o (fun s =>
    let r := slabProgram (s.modu (saMod sa)).ident.slabs (s.mslab sa) (saSlab sa) first mode pages (refusedBy o) (decide (s.pick 2 = 0))
    let s' := if refusedBy o then s.used else s
    (if r.1 = 0 then 0 else 0x20, if r.1 = 0 then 0 else quinken r.1, s'.setMslab sa r.2)))

/-- Journal Append (R441, R442). -/
def cmdAppend (s : State) (sa serial pool head epoch seq : Nat) (data : Bytes) (o : ModOut) : Nat × Nat × State :=
  s.issued (saMod sa) (fun s => s.writeEnd (saMod sa) data.length o (fun s =>
    if saSlab sa ≥ (s.modu (saMod sa)).ident.slabs then (0x20, quinken 0x86, s) else
    let r := slabAppend (s.mslab sa) serial pool head epoch seq data (refusedBy o)
    let s' := if r.2.1 then s.bump (mpcBlk (saMod sa / 4) + 0x50) 0 32 1 else s
    if r.1 = 0 then (0, b2n r.2.1 + r.2.2.1 * 2 ^ 16, s'.setMslab sa r.2.2.2)
    else (0x20, quinken r.1, s'.setMslab sa r.2.2.2)))

/-- Set Read Offsets (R439). -/
def cmdSetOffsets (s : State) (sa oset : Nat) (o : ModOut) : Nat × Nat × State :=
  s.issued (saMod sa) (fun s => s.writeEnd (saMod sa) 0 o (fun s =>
    if saSlab sa ≥ (s.modu (saMod sa)).ident.slabs then (0x20, quinken 0x86, s)
    else if oset > 5 then (0x20, quinken 0x89, s)
    else (0, 0, s.setMslab sa { s.mslab sa with oset := oset })))

/-- Read Page (R438, R444): STATUS, RESULT, the bytes of each page, and the state. -/
def cmdRead (s : State) (sa first n oset : Nat) (o : ModOut) : (Nat × Nat × State) × List (Nat × Bytes) :=
  let m := saMod sa
  let p := m / 4
  let x := s.modu m
  if x.lost then ((0x23, 0, s), []) else if !x.admitted || x.detached then ((0x25, 0, s), []) else
  let sl := s.mslab sa
  if 16 < n then (s.unlisted m, [])
  else if oset > 5 then ((0x20, quinken 0x89, s.mpcCount p 0 0), [])
  else if saSlab sa ≥ x.ident.slabs ∨ first + n > (if sl.mode = 2 then 4096 else 16384) then
    ((0x20, quinken 0x86, s.mpcCount p 0 0), [])
  else
  let go := fun (bad : List Nat) (corr : Nat) =>
    let r := slabRead sl first n bad (s.freeBytes (4160 * n))
    let gone := (List.range n).filter (fun i => decide ((r.getD i (0, [])).1 ≠ 0))
    let torn := (List.range n).filter (fun i => decide ((r.getD i (0, [])).1 = 0) && !pageOk (r.getD i (0, [])).2)
    let r' := (List.range n).map (fun i => if i ∈ torn then (2, (r.getD i (0, [])).2) else r.getD i (0, []))
    let s1 := s.used.mpcCount p (4160 * n) 0
    let s2 := if torn.isEmpty then s1 else s1.mpcError p 0 0x10
    let bm := bitmap (gone ++ torn) * 2 ^ 16
    if !gone.isEmpty then
      let allErased := gone.all (fun i => decide ((r.getD i (0, [])).1 = 1))
      ((0x20, quinken (if allErased then 0x85 else 0x84) + bm, s2), r')
    else if !torn.isEmpty then ((0x21, bm, s2), r')
    else ((0, corr % 2 ^ 16 + oset * 2 ^ 16, s2), r')
  match o with
  | .ok c => go [] c
  | .bad l c => go l c
  | .status v => ((0x20, v % 2 ^ 15, s.mpcCount p 0 0), [])
  | .short k => ((0x22, k, (s.noteLength m).mpcCount p k 0), [])
  | .excess => ((0x22, 4160 * n, (s.noteLength m).mpcCount p (4160 * n) 0), [])
  | _ => go [] 0

/-- Read Tags (R439): the 64-byte tags, or 0xFF, or zeros, and how many were zeroed. -/
def cmdTags (s : State) (sa first n : Nat) (o : ModOut) : (Nat × Nat × State) × List Bytes :=
  let m := saMod sa
  let p := m / 4
  let x := s.modu m
  if x.lost then ((0x23, 0, s), []) else if !x.admitted || x.detached then ((0x25, 0, s), []) else
  let sl := s.mslab sa
  if saSlab sa ≥ x.ident.slabs ∨ first + n > (if sl.mode = 2 then 4096 else 16384) then
    ((0x20, quinken 0x86, s.mpcCount p 0 0), [])
  else
  let go := fun (bad : List Nat) =>
    let r := slabRead sl first n bad []
    let tags := r.map (fun q =>
      if q.1 = 1 then List.replicate 64 0xFF else if q.1 = 0 && pageOk q.2 then pageTag q.2 else zeros 64)
    let z := (tags.filter (fun t => decide (t = zeros 64))).length
    let s1 := s.mpcCount p (72 * n) 0
    if z = 0 then ((0, 0, s1), tags) else ((0x21, z, s1.mpcError p 0 0x10), tags)
  match o with
  | .bad l _ => go l
  | .status v => ((0x20, v % 2 ^ 15, s.mpcCount p 0 0), [])
  | .short k => ((0x22, k, (s.noteLength m).mpcCount p k 0), [])
  | .excess => ((0x22, 72 * n, (s.noteLength m).mpcCount p (72 * n) 0), [])
  | _ => go []

/-! ### Port jobs (R94, R431, R435) -/

/-- Fields of an MPC descriptor. -/
def mpcModule (j : Job) : Nat := 4 * fieldAt j.desc 2 1 + fieldAt j.desc 3 1 % 4
def mpcSa (j : Job) : Nat := saOf (mpcModule j) (fieldAt j.desc 8 4)
def mpcFirst (j : Job) : Nat := fieldAt j.desc 0x0C 2
def mpcPages (j : Job) : Nat := bits (fieldAt j.desc 0x0C 4) 16 5 + 1

/-- The pages a Program job assembles from its data and tag handles (R213, R431). -/
def mpcProgramPages (s : State) (j : Job) : List Bytes :=
  let d := s.hBytes j.ridge (jh j 0)
  let t := s.hBytes j.ridge (jh j 1)
  (List.range (mpcPages j)).map (fun i => sealPage (sliceAt d (4096 * i) 4096) (sliceAt t (64 * i) 64))

/-- A port job ends with STATUS and RESULT. -/
def mpcDone (n : Nat) (j : Job) (r : Nat × Nat × State) : State := r.2.2.finish n j r.1 r.2.1

/-- The primary handle after a LENGTH ending: its contents must not be used, and are free (R446). -/
def lengthSpoil (s : State) (j : Job) (status n : Nat) : State :=
  if status = 0x22 then (s.used).hWrite j.ridge (jh j 0) 0 (s.freeBytes n) else s

/-- READ_PAGE of a queued job: pages and tags land in the primary handle unless the length disagrees. -/
def mpcReadJob (s : State) (n : Nat) (j : Job) (o : ModOut) : State :=
  let r := s.cmdRead (mpcSa j) (mpcFirst j) (mpcPages j) (bits (fieldAt j.desc 0x10 4) 0 3) o
  let d := r.2.flatMap (fun q => pageData q.2) ++ r.2.flatMap (fun q => pageTag q.2)
  mpcDone n j (r.1.1, r.1.2.1, if d.isEmpty then r.1.2.2.lengthSpoil j r.1.1 (4160 * mpcPages j) else r.1.2.2.hWrite j.ridge (jh j 0) 0 d)

/-- READ_TAGS of a queued job. -/
def mpcTagsJob (s : State) (n : Nat) (j : Job) (o : ModOut) : State :=
  let r := s.cmdTags (mpcSa j) (mpcFirst j) (bits (fieldAt j.desc 0x10 4) 0 8 + 1) o
  let d := r.2.flatMap id
  mpcDone n j (r.1.1, r.1.2.1, if d.isEmpty then r.1.2.2.lengthSpoil j r.1.1 (64 * (bits (fieldAt j.desc 0x10 4) 0 8 + 1))
    else r.1.2.2.hWrite j.ridge (jh j 0) 0 d)

/-- READ_HEALTH (R443): the page the module gives. -/
def mpcHealthJob (s : State) (n : Nat) (j : Job) (page : Bytes) (o : ModOut) : State :=
  let m := mpcModule j
  mpcDone n j (s.issued m (fun s =>
    match o with
    | .status v => (0x20, v % 2 ^ 15, s.mpcCount (m / 4) 0 0)
    | .short k => (0x22, k, ((s.noteLength m).mpcCount (m / 4) k 0).lengthSpoil j 0x22 512)
    | .excess => (0x22, 512, ((s.noteLength m).mpcCount (m / 4) 512 0).lengthSpoil j 0x22 512)
    | _ => (0, 0, ((s.setModu m { s.modu m with critical := (page.getD 0 0).toNat }).hWrite j.ridge (jh j 0) 0 (padTo 512 page)).mpcCount
        (m / 4) 512 0)))

end State

/-- STRAY_ACCESS (R446): counted, no job affected. -/
def execStrayAccess (port : Nat) (s : State) : Res := .next (s.mpcError port 3 0x80)

end Sys2Proof.Machine
end

