-- ==== Sys2Proof/Machine/Entries.lean ====
section
/-! DEFINITION. Journal entries and record groups (R226–R229, R251, R279, R290, R301, R354, R462) and what applying
an entry does to a pool's state, the same for the owner, its shadow and recovery (R141, R142, R228, R242, R322). -/

namespace Sys2Proof.Machine

/-! ### Entries (R226, R227) -/

/-- An entry; INDEX, LAST and TIME_LO are filled in with the group. -/
def entry (typ flags pool : Nat) (payload : Bytes) : Bytes :=
  leBytes 1 typ ++ leBytes 1 flags ++ leBytes 1 pool ++ zeros 5 ++ padTo 24 payload

def eTyp (e : Bytes) : Nat := fieldAt e 0 1

def eChunk (p h : Nat) (r : CRec) : Bytes := entry 0x02 0 p (leBytes 6 h ++ zeros 2 ++ leBytes 8 r.loc ++ leBytes 8 r.ref)
/-- DELTA is +1 or -1 times n. -/
def eRef (p h : Nat) (up : Bool) (n : Nat) : Bytes :=
  entry 0x03 0 p (leBytes 6 h ++ zeros 2 ++ leBytes 4 (if up then n else 2 ^ 32 - n))
def eMove (p h new old : Nat) : Bytes := entry 0x04 0 p (leBytes 6 h ++ zeros 2 ++ leBytes 8 new ++ leBytes 8 old)
/-- A pitch line is named by MPN × 16 + line. -/
def eMap (p ln slot : Nat) (r : Run) (ins : Bool) : Bytes :=
  entry 0x05 (2 * b2n ins) p (leBytes 6 (ln / 16) ++ leBytes 1 (ln % 16) ++ [0] ++ leBytes 2 slot ++ leBytes 2 r.nchunk
    ++ leBytes 6 r.handle ++ leBytes 4 (r.pos % 2 ^ 32).toNat)
def eLine (p ln : Nat) (l : Line) : Bytes :=
  entry 0x06 0 p (leBytes 6 (ln / 16) ++ leBytes 1 (ln % 16) ++ leBytes 1 (b2n l.fixed + 2 * b2n (!l.holds.isEmpty)
    + 4 * b2n (decide (l.runs.length > 12))) ++ leBytes 6 l.holdMpn ++ leBytes 6 l.extMpn)
def eHold (p ln piece : Nat) (h : Option Hold) (holdMpn : Nat) : Bytes :=
  entry 0x07 0 p (leBytes 6 (ln / 16) ++ leBytes 1 (ln % 16) ++ leBytes 1 piece ++ leBytes 6 holdMpn
    ++ leBytes 6 ((h.map Hold.handle).getD 0) ++ leBytes 1 (match h with | some x => 1 + 2 * b2n x.zero | none => 0))
def eKey (p nsid : Nat) (key : Bytes) (del : Bool) : Bytes :=
  entry 0x08 0 p (leBytes 2 nsid ++ leBytes 1 key.length ++ leBytes 1 (b2n del) ++ zeros 4 ++ padTo 16 key)
def eValue (p len base : Nat) : Bytes := entry 0x09 0 p (leBytes 8 len ++ leBytes 8 base)
def ePage (p mpn op epoch flash : Nat) : Bytes :=
  entry 0x0A 0 p (leBytes 6 mpn ++ leBytes 1 op ++ [0] ++ leBytes 2 epoch ++ zeros 2 ++ leBytes 6 flash)
def eSlab (p sa use member owner : Nat) : Bytes :=
  entry 0x0B 0 p (saBytes sa ++ leBytes 1 use ++ leBytes 1 member ++ leBytes 4 owner)
def eSeal (p seg what ende rows : Nat) : Bytes :=
  entry 0x0C 0 p (leBytes 4 seg ++ leBytes 1 what ++ zeros 3 ++ leBytes 4 ende ++ leBytes 2 rows)
def eRelease (p seg what : Nat) : Bytes := entry 0x0D 0 p (leBytes 4 seg ++ leBytes 1 what)
def eCkpt (p start gen : Nat) : Bytes := entry 0x0E 0 p (leBytes 8 start ++ leBytes 8 gen)
def eCancel (p seq : Nat) : Bytes := entry 0x0F 0 p (leBytes 8 seq)
def eSnap (p op nsid id x : Nat) : Bytes :=
  entry 0x14 0 p (leBytes 1 op ++ zeros 3 ++ leBytes 4 nsid ++ leBytes 8 id ++ leBytes 6 x)
def ePreserve (p mpn low high : Nat) : Bytes := entry 0x15 0 p (leBytes 6 mpn ++ zeros 2 ++ leBytes 8 low ++ leBytes 8 high)
def eRepl (p pair op round value : Nat) : Bytes :=
  entry 0x16 0 p (leBytes 4 pair ++ leBytes 1 op ++ zeros 3 ++ leBytes 4 round ++ zeros 4 ++ leBytes 8 value)
def eDigest (p h half : Nat) (d : Bytes) : Bytes := entry 0x18 0 p (leBytes 6 h ++ leBytes 1 half ++ [0] ++ d)
def eHealth (p sa action reason wear value : Nat) : Bytes :=
  entry 0x19 0 p (saBytes sa ++ leBytes 1 action ++ leBytes 1 reason ++ leBytes 4 wear ++ leBytes 2 value)
def eRegion (p seg b k : Nat) : Bytes := entry 0x1A 0 p (leBytes 4 seg ++ leBytes 2 b ++ leBytes 1 k)
def eMember (p seg mem st rows new old : Nat) : Bytes :=
  entry 0x1B 0 p (leBytes 4 seg ++ leBytes 1 mem ++ leBytes 1 st ++ leBytes 2 rows ++ saBytes new ++ saBytes old)
/-- SEGMENT stands in a FLIP alone, PORT and TARGET in an EXCLUDE, TOTAL in a START (R301). -/
def eReshape (p op newK seg m id total : Nat) : Bytes :=
  let only := fun (o v : Nat) => if op = o then v else 0
  entry 0x1C 0 p (leBytes 1 op ++ leBytes 1 newK ++ zeros 2 ++ leBytes 4 (only 2 seg) ++ leBytes 1 (only 1 (m / 4)) ++ leBytes 1 (only 1 (m % 4))
    ++ zeros 2 ++ leBytes 4 id ++ leBytes 4 (only 0 total))
def eKeywrap (p part : Nat) (w : Bytes) : Bytes := entry 0x1D 0 p (leBytes 1 part ++ zeros 7 ++ w)
/-- The model's own layouts in the range the spec leaves to other chapters (log entry 31): 0x10 namespace, 0x11 its
profile, 0x12 module, 0x13 heat parameters. -/
def eNs (p nsid op kind base size : Nat) : Bytes :=
  entry 0x10 0 p (leBytes 4 nsid ++ leBytes 1 op ++ leBytes 1 kind ++ zeros 2 ++ leBytes 8 base ++ leBytes 8 size)
def eProfile (p nsid : Nat) (prof : Bytes) : Bytes := entry 0x11 0 p (leBytes 4 nsid ++ zeros 4 ++ padTo 16 prof)
/-- Sixteen of the 64 bytes of a replication pair's block (log entry 31). -/
def ePair (p pair part : Nat) (d : Bytes) : Bytes :=
  entry 0x11 0 p (leBytes 4 pair ++ [1] ++ leBytes 1 part ++ zeros 2 ++ padTo 16 d)
def eModule (p m : Nat) (add : Bool) : Bytes := entry 0x12 0 p (saBytes (saOf m 0) ++ leBytes 1 (b2n add))
/-- The pool is deleted (R206; log entry 31): the peer drops it. -/
def eGone (p : Nat) : Bytes := entry 0x12 0 p (zeros 6 ++ [2])
def poolGone (e : Bytes) : Bool := decide (eTyp e = 0x12) && decide (fieldAt e 0x0E 1 = 2)
def eHeat (p promote demote decay : Nat) : Bytes := entry 0x13 0 p (leBytes 1 promote ++ leBytes 1 demote ++ leBytes 2 decay)
/-- All pool parameters of R204, in the creation group. -/
def eParams (p : Nat) (c : PoolCfg) : Bytes :=
  entry 0x13 0 p (leBytes 1 c.promote ++ leBytes 1 c.demote ++ leBytes 2 c.decay ++ leBytes 1 c.k
    ++ leBytes 1 (b2n !c.dedup + 2 * b2n c.verify) ++ leBytes 1 c.maskBits ++ leBytes 1 c.days ++ leBytes 4 c.minLen
    ++ leBytes 4 c.maxLen ++ leBytes 2 c.gib ++ leBytes 1 c.sparePml ++ [0] ++ [1])

/-! ### Groups (R228, R229) -/

/-- A BEGIN entry before the ROPE unit fills it. -/
def eBegin (p origin : Nat) : Bytes := entry 0x01 0 p (zeros 18 ++ leBytes 1 origin)

/-- INDEX, LAST, TIME_LO of the entries, and of BEGIN the SEQ, TIME_HI, EPOCH, COUNT and GROUP_CRC. -/
def fillGroup (seq epoch : Nat) (time : W64) (es : List Bytes) : List Bytes :=
  let n := es.length
  let es1 := (List.range n).map (fun i =>
    let e := es.getD i []
    let fl := bits (fieldAt e 1 1) 1 1 * 2 + b2n (decide (i + 1 = n))
    spliceAt (spliceAt (spliceAt e 1 (leBytes 1 fl)) 3 (leBytes 1 i)) 4 (leBytes 4 time.toNat))
  match es1 with
  | [] => []
  | b :: r =>
    let b := spliceAt b 8 (leBytes 8 seq ++ leBytes 4 (time.toNat / 2 ^ 32) ++ leBytes 4 epoch ++ leBytes 2 n)
    let b := spliceAt b 0x1C (zeros 4)
    spliceAt b 0x1C (leBytes 4 (crc32c (b ++ r.flatMap id))) :: r

/-- A byte string as entries of 32 bytes. -/
def entriesOf (d : Bytes) : List Bytes := (List.range (d.length / 32)).map (fun i => sliceAt d (32 * i) 32)

/-- Is this a valid group (R228)? `crc` also checks GROUP_CRC. -/
def groupOk (crc : Bool) (es : List Bytes) : Bool :=
  let n := es.length
  let b := es.getD 0 []
  decide (2 ≤ n) && decide (n ≤ 1024) && decide (eTyp b = 1) && decide (fieldAt b 0x18 2 = n)
    && (List.range n).all (fun i => decide (fieldAt (es.getD i []) 3 1 = i % 256)
        && bit (fieldAt (es.getD i []) 1 1) 0 == decide (i + 1 = n))
    && (!crc || decide (fieldAt b 0x1C 4 = crc32c ((spliceAt b 0x1C (zeros 4)) ++ (es.drop 1).flatMap id)))

def Group.begin' (g : Group) : Bytes := g.entries.getD 0 []
def Group.origin (g : Group) : Nat := fieldAt g.begin' 0x1A 1
def Group.epoch (g : Group) : Nat := fieldAt g.begin' 0x14 4
/-- TIME of acceptance. -/
def Group.time (g : Group) : W64 := BitVec.ofNat 64 (fieldAt g.begin' 4 4 + fieldAt g.begin' 0x10 4 * 2 ^ 32)
def Group.bytes (g : Group) : Bytes := g.entries.flatMap id
def Group.body (g : Group) : List Bytes := g.entries.drop 1

namespace Pool

/-- The references of a FIXED line by 16 KiB group. -/
def cellsOf (l : Line) : Tbl Nat :=
  l.runs.foldl (fun t r => (List.range r.nchunk).foldl (fun t i => Tbl.set t (r.pos.toNat / 16384 + i) (r.handle + i)) t) []

/-- Maximal runs of consecutive handles in consecutive groups (R178). -/
def runsOf : Tbl Nat → List Run
  | [] => []
  | (i, h) :: t =>
    match runsOf t with
    | r :: rs =>
      if r.pos = (16384 * (i + 1) : Nat) ∧ r.handle = h + 1 ∧ r.nchunk < 64 then
        { handle := h, nchunk := r.nchunk + 1, pos := (16384 * i : Nat) } :: rs
      else { handle := h, nchunk := 1, pos := (16384 * i : Nat) } :: r :: rs
    | [] => [{ handle := h, nchunk := 1, pos := (16384 * i : Nat) }]

/-- A 32-bit signed field. -/
def signed32 (v : Nat) : Int := if v < 2 ^ 31 then (v : Int) else (v : Int) - 2 ^ 32

/-- The chunk references that a page's lines hold: each chunk of each run and each hold (R140). -/
def lineRefs (l : Line) : List Nat :=
  l.runs.flatMap (fun r => (List.range r.nchunk).map (fun i => r.handle + i))
    ++ (l.holds.filter (fun h => !h.2.zero)).map (fun h => h.2.handle)

/-- The lines of a page. -/
def pageLines (p : Pool) (mpn : Nat) : Tbl Line := p.lines.filter (fun q => decide (q.1 / 16 = mpn))

/-- Full epoch of a page (R347). -/
def fullEpoch (p : Pool) (e : Nat) : Nat := p.snapEpoch - (p.snapEpoch + 65536 - e % 65536) % 65536

/-- The number under which a namespace's key index is preserved whole (log entry 36). -/
def keyMpn (pn nsid : Nat) : Nat := pn * 2 ^ 44 + 2 ^ 42 + nsid % 2 ^ 32

/-- A leaf page of the preserved index (R349; its number is the model's, log entry 36): 126 records each. -/
def presMpn (p : Pool) (i : Nat) : Nat := p.num * 2 ^ 44 + 2 ^ 40 + i

/-- The number of harvest page `i`: 16,384 for each head (R518; log entry 36). -/
def harvestMpn (p : Pool) (i : Nat) : Nat := p.num * 2 ^ 44 + 5 * 2 ^ 40 + i

/-- The order of the preserved index: MPN, then HIGH (R349). -/
def presLt (a b : Preserved) : Bool := decide (a.mpn < b.mpn) || (decide (a.mpn = b.mpn) && decide (a.high < b.high))

/-- The preserved index becomes `l`; its leaves are dirty from the one on that holds record `i`, and those it no longer needs go. -/
def setPreserved (p : Pool) (l : List Preserved) (i : Nat) : Pool :=
  let n := ceilDiv l.length 126
  let dir := p.dir.filter (fun q => decide (bits q.1 40 4 ≠ 1) || decide (q.1 % 2 ^ 40 < n))
  (List.range n).foldl (fun (q : Pool) j =>
    if j < i / 126 then q else q.setDir (q.presMpn j) { q.dirE (q.presMpn j) with present := true, resident := true, dirty := true })
    { p with preserved := l, dir := dir }

/-- A preserved image enters the index, or leaves it. -/
def addPreserved (p : Pool) (im : Preserved) : Pool :=
  let low := p.preserved.filter (fun x => presLt x im)
  p.setPreserved (low ++ [im] ++ p.preserved.filter (fun x => !presLt x im)) low.length
def delPreserved (p : Pool) (mpn high : Nat) : Pool :=
  let here := fun (x : Preserved) => decide (x.mpn = mpn ∧ x.high = high)
  p.setPreserved (p.preserved.filter (fun x => !here x)) ((p.preserved.findIdx? here).getD 0)

/-- Preserve a page with an interval (R348): the image and its counts. A key index is copied with its records. -/
def preserve (p : Pool) (mpn low high : Nat) : Pool :=
  if bits mpn 42 2 = 1 then
    let n := mpn % 2 ^ 32
    match Tbl.find p.nss n with
    | some x =>
      let im : Preserved := { mpn := mpn, low := low, high := high, flash := 0, lines := [], objs := x.objs }
      { p.addPreserved im with nss := Tbl.set p.nss n { x with kepoch := p.snapEpoch } }
    | none => p
  else
  let ls := p.pageLines mpn
  let p1 := ls.foldl (fun (q : Pool) x => (lineRefs x.2).foldl (fun q h => q.refAdd h 1) q) p
  let p2 := p1.setDir mpn { p1.dirE mpn with epoch := p1.snapEpoch % 65536 }
  let im : Preserved := { mpn := mpn, low := low, high := high, flash := 0, lines := ls, objs := [] }
  p2.addPreserved im

def updNs (p : Pool) (n : Nat) (f : Ns → Ns) : Pool := { p with nss := Tbl.upd p.nss n f }

/-- A page that exists has changed in DRAM (R174, R175). -/
def touch (p : Pool) (mpn : Nat) : Pool :=
  let d := p.dirE mpn
  if mpn ≠ 0 ∧ d.present = true then p.setDir mpn { d with resident := true, dirty := true } else p

/-- A pitch line has changed, with its hold page or its extension pages (R175, R177–R181). -/
def touchLine (p : Pool) (ln : Nat) (hold : Bool) : Pool :=
  let l := p.line ln
  let p1 := p.touch (ln / 16)
  if hold then p1.touch l.holdMpn
  else if l.runs.length > 12 then (let q := p1.touch l.extMpn; if l.runs.length > 267 then q.touch (l.extMpn + 1) else q)
  else p1

/-- The objects of a namespace change: the leaf pages of its key index whose records differ are dirty (R175, R183). -/
def setObjs (p : Pool) (n : Nat) (f : List Obj → List Obj) : Pool :=
  match Tbl.find p.nss n with
  | none => p
  | some x =>
    let new := f x.objs
    (List.range x.leaves.length).foldl (fun (q : Pool) i =>
      if (x.objs.drop (63 * i)).take 63 = (new.drop (63 * i)).take 63 then q else q.touch (x.leaves.getD i 0))
      (p.updNs n (fun y => { y with objs := new }))

/-- The fixity page of a handle (R260; its number is the model's, log entry 36). -/
def fixMpn (p : Pool) (h : Nat) : Nat := p.num * 2 ^ 44 + 2 ^ 41 + h / 128
def updSeg (p : Pool) (n : Nat) (f : Seg → Seg) : Pool := { p with segs := Tbl.upd p.segs n f }
def updUnit (p : Pool) (n : Nat) (f : LUnit → LUnit) : Pool := { p with units := Tbl.upd p.units n f }

/-- Live bytes of a segment (R238). -/
def liveBytes (p : Pool) (n : Nat) : Nat :=
  sumBy (fun q => if q.2.live && !q.2.biv && decide (q.2.seg = n) then 16 + ceilDiv q.2.flen 16 * 16 else 0) p.recs

/-- Key order: bytes, then length (R183). -/
def keyLt (a b : Bytes) : Bool :=
  let x := beNat (padTo 16 a); let y := beNat (padTo 16 b)
  decide (x < y) || (decide (x = y) && decide (a.length < b.length))

def putObj (l : List Obj) (o : Obj) : List Obj :=
  let rest := l.filter (fun x => decide (x.key ≠ o.key))
  rest.filter (fun x => keyLt x.key o.key) ++ [o] ++ rest.filter (fun x => keyLt o.key x.key)

/-- SLAB (R227): what the slab is used for. Wear advances when a slab is freed after its erase (R252). A landing log's spare becomes
current with the entry that assigns the next spare (R232). -/
def applySlab (p : Pool) (sa use member owner seq : Nat) (time : W64) : Pool :=
  let u := p.slabUse sa
  if use = 6 then
    let qlc := decide (u.use = 2)
    let doom := u.doomed
    p.setUse sa { u with
      use := 6, member := 0, owner := 0, wear := u.wear + (if qlc then 10 else 1), erased := !doom,
      retired := u.retired || doom, remembered := 0, since := seq, weak := false }
  else
    let p1 := p.setUse sa { u with use := use, member := member, owner := owner, erased := false, remembered := 0, since := seq }
    match use with
    | 0 =>
      let b := match Tbl.find p1.units owner with
        | some x => x.b
        | none => 0
      let x : LUnit := { a := sa, b := b, next := 0, sealed := false, ridge := 0xFF, front := false, order := time.toNat }
      { p1 with units := Tbl.set p1.units owner x, nextUnit := max p1.nextUnit (owner + 1) }
    | 1 => { (p1.updUnit owner (fun x => { x with b := sa })) with nextUnit := max p1.nextUnit (owner + 1) }
    | 3 => { p1 with nextSerial := max p1.nextSerial (owner + 1) }
    | 4 =>
      let l := Tbl.getD p1.logs (saMod sa) { cur := sa, spare := none, seqs := [] }
      let l' : LandLog := if l.cur = sa then l else match l.spare with
        | none => { l with spare := some sa }
        | some b => if b = sa then l else { cur := b, spare := some sa, seqs := [], olds := l.olds ++ [(l.cur, l.seqs)] }
      { p1 with logs := Tbl.set p1.logs (saMod sa) l', nextSerial := max p1.nextSerial (owner + 1) }
    | 5 => { p1 with nextSerial := max p1.nextSerial (owner + 1) }
    | _ => p1

/-- The number from which the pairs that this array accepted as target are numbered (log entry 31). -/
def targetPairs : Nat := 65536

/-- A part of a pair's block (R368). -/
def pairPart (p : Pool) (n part : Nat) (d : Bytes) : Pool :=
  let r := Tbl.getD p.pairs n (RPair.fresh (decide (n < targetPairs)))
  let r' := match part with
    | 0 => { r with nsid := fieldAt d 0 4, remote := fieldAt d 4 4, hif := fieldAt d 8 1, ipv6 := bit (fieldAt d 9 1) 0,
                    tcp := if fieldAt d 0x0A 2 = 0 then 7946 else fieldAt d 0x0A 2, period := fieldAt d 0x0C 4 }
    | 1 => { r with addr := d }
    | 2 => { r with remotePool := d }
    | _ => { r with viewNsid := fieldAt d 0 4 }
  { p with pairs := Tbl.set p.pairs n r',
           nss := if r'.source || decide (part ≠ 3) then p.nss else Tbl.upd p.nss r'.nsid (fun x => { x with target := true }) }

/-- Apply one entry. The optional operand is a KEY entry that waits for its VALUE (R227), and after the VALUE its namespace with no
key: the pages created next are leaves of that key index (R183, log entry 36). The state of open segments carried by SLAB entries
with USE 2 names the member. -/
def applyEntry (seq : Nat) (time : W64) (st : Pool × Option (Nat × Bytes)) (e : Bytes) : Pool × Option (Nat × Bytes) :=
  let (p, key) := st
  let f := fieldAt e
  let ln := f 8 6 * 16 + f 0x0E 1 % 16
  let h := f 8 6
  match eTyp e with
  | 0x02 =>
    let r : CRec := { loc := f 0x10 8, ref := f 0x18 8 }
    ({ p.setRec h r with nextHandle := if h < 2 ^ 47 then max p.nextHandle (h + 1) else p.nextHandle }, none)
  | 0x03 => (p.refAdd h (signed32 (f 0x10 4)), none)
  | 0x04 =>
    let r := p.rec' h
    let n : CRec := { r with loc := f 0x10 8 }
    let p1 := p.updSeg n.seg (fun g => if n.biv = true ∨ g.state ≠ 0 ∨ g.k = 0 then g else { g with rows := max g.rows ((n.off + n.flen - 1) / (g.k * 65536) + 1) })
    (if r.loc = f 0x18 8 then p1.setRec h n else p1, none)
  | 0x05 =>
    let l := p.line ln
    let slot := f 0x10 2
    let r : Run := { handle := f 0x14 6, nchunk := f 0x12 2, pos := signed32 (f 0x1A 4) }
    let rs := if r.nchunk = 0 then l.runs.eraseIdx slot
              else if bit (f 1 1) 1 then l.runs.take slot ++ [r] ++ l.runs.drop slot
              else l.runs.take slot ++ [r] ++ l.runs.drop (slot + 1)
    ((p.setLine ln { l with runs := rs, time := time }).touchLine ln false, none)
  | 0x06 =>
    let l := p.line ln
    ((p.setLine ln { l with fixed := bit (f 0x0F 1) 0, holdMpn := f 0x10 6, extMpn := f 0x16 6 }).touchLine ln false, none)
  | 0x07 =>
    let l := p.line ln
    let piece := f 0x0F 1
    let hs := if bit (f 0x1C 1) 0 then
        Tbl.set l.holds piece { handle := f 0x16 6, heat := (match Tbl.find l.holds piece with | some x => x.heat | none => 0),
                                zero := bit (f 0x1C 1) 1 }
      else Tbl.del l.holds piece
    ((p.setLine ln { l with holds := hs, time := time, holdMpn := if hs.isEmpty then 0 else f 0x10 6 }).touchLine ln true, none)
  | 0x08 =>
    let n := f 8 2
    let k := sliceAt e 0x10 (f 0x0A 1)
    if f 0x0B 1 = 1 then (p.setObjs n (fun os => os.filter (fun o => decide (o.key ≠ k))), none)
    else (p, some (n, k))
  | 0x09 =>
    match key with
    | some (n, k) => (p.setObjs n (fun os => putObj os { key := k, len := f 8 8, base := f 0x10 8, time := time }), some (n, []))
    | none => (p, none)
  | 0x0A =>
    let d := p.dirE h
    match f 0x0E 1 with
    | 0 =>
      let p1 := p.setDir h { d with present := true, resident := true, dirty := true, epoch := f 0x10 2 }
      let p2 := { p1 with nextMpn := max p1.nextMpn (h % 2 ^ 43 + 1) }
      match key with
      | some (n, []) => (p2.updNs n (fun x => { x with leaves := x.leaves ++ [h] }), some (n, []))
      | _ => (p2, none)
    | 1 => ({ p with dir := Tbl.del p.dir h, lines := p.lines.filter (fun q => decide (q.1 / 16 ≠ h)),
                     nss := p.nss.map (fun (q : Nat × Ns) => (q.1, { q.2 with leaves := q.2.leaves.filter (fun m => decide (m ≠ h)) })) }, none)
    | _ => (p.setDir h { d with flash := f 0x14 6, epoch := f 0x10 2 }, none)
  | 0x0B =>
    let sa := saRead e 8
    let p1 := p.applySlab sa (f 0x0E 1) (f 0x0F 1) (f 0x10 4) seq time
    if f 0x0E 1 = 2 then
      let n := f 0x10 4
      let s0 := Seg.fresh
      let s1 := Tbl.getD p1.segs n { s0 with opened := seq }
      let i := f 0x0F 1
      let ms := if i < s1.members.length then s1.members else s1.members ++ [{ slab := sa, state := 0, rows := 0 }]
      ({ p1 with segs := Tbl.set p1.segs n { s1 with members := ms, k := if s1.state = 0 then ms.length - 2 else s1.k },
                 nextSeg := max p1.nextSeg (n + 1) }, none)
    else (p1, none)
  | 0x0C =>
    let n := f 8 4
    if f 0x0C 1 = 0 then (p.updUnit n (fun u => { u with sealed := true }), none)
    else (p.updSeg n (fun g => { g with state := if f 0x14 2 = 1024 then 1 else 2, rows := f 0x14 2, sealTime := time,
                                        regions := 0, buffer := [], moving := [], due := [], closing := none }), none)
  | 0x0D =>
    let n := f 8 4
    if f 0x0C 1 = 0 then (p.updUnit n (fun u => { u with sealed := true, released := true }), none)
    else (p.updSeg n (fun g => { g with state := 3 }), none)
  | 0x0E => ({ p with ckpt := { p.ckpt with startSeq := f 8 8, gen := f 0x10 8 } }, none)
  | 0x10 =>
    let n := f 8 4
    if f 0x0C 1 = 0 then
      let x : Ns := { kind := f 0x0D 1, size := f 0x18 8, profile := none, base := f 0x10 8, objs := [],
                      deleting := false, snap := none, target := false, kepoch := p.snapEpoch,
                      born := p.snapEpoch, died := none, walked := false }
      ({ p with nss := Tbl.set p.nss n x, nextMpn := max p.nextMpn (x.base / 16 % 2 ^ 43 + ceilDiv x.size (2 ^ 24)) }, none)
    else if f 0x0C 1 = 1 then (p.updNs n (fun x => { x with deleting := true, died := some (x.died.getD p.snapEpoch) }), none)
    else ({ p with nss := Tbl.del p.nss n }, none)
  | 0x11 =>
    if f 0x0C 1 = 1 then (p.pairPart (f 8 4) (f 0x0D 1) (sliceAt e 0x10 16), none)
    else (p.updNs (f 8 4) (fun x => { x with profile := some (sliceAt e 0x10 16) }), none)
  | 0x12 =>
    if poolGone e then (p, none) else
    let m := saMod (saRead e 8)
    let rest := p.failed.filter (fun x => decide (x ≠ m))
    let us := p.uses.filter (fun q => decide (saMod q.1 ≠ m))
    let ms := if f 0x0E 1 = 1 then (if m ∈ p.mods then p.mods else p.mods ++ [m]) else p.mods.filter (fun x => decide (x ≠ m))
    ({ p with mods := ms, failed := rest, uses := us, excluded := p.excluded.filter (fun x => decide (x ≠ m)) }, none)
  | 0x13 =>
    let c := { p.cfg with promote := f 8 1, demote := f 9 1, decay := f 0x0A 2 }
    if f 0x1C 1 = 0 then ({ p with cfg := c }, none)
    else ({ p with cfg := { c with
      k := f 0x0C 1, dedup := !bit (f 0x0D 1) 0, verify := bit (f 0x0D 1) 1, maskBits := f 0x0E 1, days := f 0x0F 1,
      minLen := f 0x10 4, maxLen := f 0x14 4, gib := f 0x18 2, sparePml := f 0x1A 1 } }, none)
  | 0x14 =>
    let id := f 0x10 8
    match f 8 1 with
    | 0 =>
      let x : Snap := { id := id, time := time, repl := decide (f 0x0C 4 = 1), deleting := false }
      ({ p with snaps := p.snaps ++ [x], snapEpoch := id + 1, snapAt := some time }, none)
    | 1 => ({ p with snaps := p.snaps.filter (fun x => decide (x.id ≠ id)) }, none)
    | 2 =>
      let src := f 0x0C 4
      match Tbl.find p.nss src with
      | some n => ({ p with nss := Tbl.set p.nss (f 0x18 4) { n with snap := some (id, src), deleting := false, target := false } }, none)
      | none => (p, none)
    | 3 => ({ p with nss := Tbl.del p.nss (f 0x0C 4) }, none)
    | _ =>
      let mpn := f 0x18 6
      match p.preserved.find? (fun x => decide (x.mpn = mpn ∧ x.high = id)) with
      | some im =>
        let p1 := im.lines.foldl (fun (q : Pool) x => (lineRefs x.2).foldl (fun q h => q.refAdd h (-1)) q) p
        let p2 := if im.flash = 0 then p1 else p1.refAdd im.flash (-1)
        (p2.delPreserved mpn id, none)
      | none => (p, none)
  | 0x15 => (p.preserve h (f 0x10 8) (f 0x18 8), none)
  | 0x16 =>
    match f 0x0C 1 with
    | 1 => ({ p with pairs := Tbl.upd p.pairs (f 8 4) (fun r => { r with round := f 0x10 4, curSnap := some (f 0x18 8) }) }, none)
    | 2 => ({ p with pairs := Tbl.upd p.pairs (f 8 4) (fun r => { r with applied := max r.applied (f 0x18 8) }) }, none)
    | 3 => ({ p with pairs := Tbl.upd p.pairs (f 8 4) (fun r => { r with prevSnap := r.curSnap, curSnap := none }) }, none)
    | 4 => ({ p with pairs := Tbl.del p.pairs (f 8 4),
                     nss := match Tbl.find p.pairs (f 8 4) with
                       | some r => if r.source then p.nss else Tbl.upd p.nss r.nsid (fun x => { x with target := false })
                       | none => p.nss }, none)
    | _ => (p, none)
  | 0x18 =>
    let d := padTo 32 (Tbl.getD p.digests h [])
    let p := p.setDir (p.fixMpn h) { p.dirE (p.fixMpn h) with present := true, resident := true, dirty := true }
    ({ p with digests := Tbl.set p.digests h (if f 0x0E 1 = 0 then sliceAt e 0x10 16 ++ d.drop 16 else d.take 16 ++ sliceAt e 0x10 16) }, none)
  | 0x19 =>
    let sa := saRead e 8
    let u := p.slabUse sa
    match f 0x0E 1 with
    | 0 =>
      let again := match u.triggered with
        | some t => decide ((time - t).toNat ≤ 90 * 86400 * 100000000)
        | none => false
      let unread := decide (f 0x0F 1 = 2)
      (p.setUse sa { u with triggered := some time, weak := true, doomed := u.doomed || unread || again,
                            why := if u.doomed then u.why else if unread then 2 else 6 }, none)
    | 1 => (p.setUse sa { u with retired := true, erased := false }, none)
    | 2 => (p.setUse sa { u with spare := false }, none)
    | _ => (p.setUse sa { u with remembered := f 0x14 2 }, none)
  | 0x1A => (p.updSeg (f 8 4) (fun g => { g with regions := f 0x0C 2 }), none)
  | 0x1B =>
    -- a member without a target yet has NEW 0: it is FAILED (log entry 31)
    let i := f 0x0C 1
    match f 0x0D 1 with
    | 2 => (p.updSeg (f 8 4) (fun g => { g with lostRows := if f 0x0E 2 ∈ g.lostRows then g.lostRows else g.lostRows ++ [f 0x0E 2], rewrite := true }), none)
    | st =>
      let x : Member := if saRead e 0x10 = 0 then { slab := saRead e 0x16, state := 1, rows := 0 }
        else { slab := saRead e 0x10, state := if st = 0 then 0 else 2, rows := f 0x0E 2 }
      (p.updSeg (f 8 4) (fun g => { g with members := g.members.set i x }), none)
  | 0x1C =>
    match f 8 1 with
    | 0 =>
      let x : Reshape := { newK := f 9 1, exclude := [], total := f 0x18 4, done := 0, paused := false, id := f 0x14 4 }
      let k := if f 9 1 = 0 then p.cfg.k else f 9 1
      ({ p with reshape := some x, segs := p.segs.map (fun (q : Nat × Seg) =>
          if (q.2.state = 1 ∨ q.2.state = 2) ∧ q.2.k ≠ k then (q.1, { q.2 with source := true }) else q) }, none)
    | 1 =>
      let m := 4 * f 0x10 1 + f 0x11 1
      ({ p with reshape := p.reshape.map (fun (r : Reshape) => { r with exclude := if m ∈ r.exclude then r.exclude else r.exclude ++ [m] }),
                segs := p.segs.map (fun (q : Nat × Seg) =>
                  if (q.2.state = 1 ∨ q.2.state = 2) ∧ q.2.retained = false ∧ (q.2.members.any (fun y => decide (saMod y.slab = m))) = true then
                    (q.1, { q.2 with source := true }) else q) }, none)
    | 2 =>
      let p1 := p.updSeg (f 0x0C 4) (fun g => { g with source := false, retained := true, rewrite := false })
      ({ p1 with reshape := p.reshape.map (fun (r : Reshape) => { r with done := r.done + 1 }),
                 rewrite := p.rewrite.filter (fun x => decide (x.1 ≠ f 0x0C 4)) }, none)
    | op =>
      let clear := p.segs.map (fun (q : Nat × Seg) => (q.1, { q.2 with source := false }))
      match p.reshape with
      | some r =>
        if op = 3 then ({ p with reshape := none, segs := clear, excluded := (p.excluded ++ r.exclude).eraseDups,
                                 cfg := if r.newK = 0 then p.cfg else { p.cfg with k := r.newK } }, none)
        else ({ p with reshape := none, segs := clear }, none)
      | none => (p, none)
  | _ => (p, none)

/-- Apply every entry of a group after its BEGIN. -/
def applyGroup (p : Pool) (g : Group) : Pool := (g.body.foldl (applyEntry g.seq g.time) (p, none)).1

/-- The entries of a host-write group that a shadow applies on receipt (R322): CHUNK, and REF with a positive DELTA. -/
def early (e : Bytes) : Bool := decide (eTyp e = 2) || (decide (eTyp e = 3) && decide (0 < signed32 (fieldAt e 0x10 4)))

def applyEarly (p : Pool) (g : Group) : Pool := ((g.body.filter early).foldl (applyEntry g.seq g.time) (p, none)).1
def applyLate (p : Pool) (g : Group) : Pool := ((g.body.filter (fun e => !early e)).foldl (applyEntry g.seq g.time) (p, none)).1

/-- Reverse the early entries of a cancelled group (R322). -/
def reverseEarly (p : Pool) (g : Group) : Pool :=
  (g.body.filter early).foldl (fun q e =>
    let h := fieldAt e 8 6
    if eTyp e = 2 then { q with recs := Tbl.del q.recs h, digests := Tbl.del q.digests h }
    else q.refAdd h (-(signed32 (fieldAt e 0x10 4)))) p

end Pool

end Sys2Proof.Machine
end

