-- ==== Sys2Proof/Machine/PageImg.lean ====
section
/-! DEFINITION. Map pages as bytes (R173–R183, R188, R260): what a page of DRAM or flash holds, and a page read back into the pool
(R175, R176). -/

namespace Sys2Proof.Machine

/-! ### Writing -/

def runBytes (r : Run) : Bytes :=
  leBytes 6 r.handle ++ leBytes 2 r.nchunk ++ leBytes 4 (if 0 ≤ r.pos then r.pos.toNat else 2 ^ 32 - (-r.pos).toNat) ++ zeros 4

/-- A pitch line (R177). -/
def lineBytes (l : Line) : Bytes :=
  let fl := b2n l.fixed + 2 * b2n !l.holds.isEmpty + 4 * b2n (decide (l.extMpn ≠ 0))
  padTo 256 ([1] ++ leBytes 1 fl ++ leBytes 1 (min 12 l.runs.length) ++ leBytes 1 l.heat ++ leBytes 2 l.runs.length ++ zeros 2
    ++ leBytes 8 l.holdMpn ++ leBytes 8 l.extMpn ++ zeros 8 ++ leBytes 32 (sumBy (fun h => 2 ^ h.1) l.holds)
    ++ (l.runs.take 12).flatMap runBytes)

/-- An extension page (R179). -/
def extBytes (rs : List Run) (next : Nat) : Bytes :=
  padTo 4096 ([2, 0] ++ leBytes 2 rs.length ++ zeros 4 ++ leBytes 8 next ++ rs.flatMap runBytes)

/-- A hold page (R181). -/
def holdBytes (l : Line) : Bytes :=
  (List.range 256).flatMap (fun i => match Tbl.find l.holds i with
    | some h => leBytes 6 h.handle ++ leBytes 1 h.heat ++ leBytes 1 (1 + 2 * b2n h.zero) ++ zeros 8
    | none => zeros 16)

/-- A chunk-store record (R188). -/
def recBytes (r : CRec) : Bytes := leBytes 8 r.loc ++ leBytes 8 r.ref

/-- An object record (R183). -/
def objBytes (o : Obj) : Bytes :=
  padTo 16 o.key ++ leBytes 1 o.key.length ++ zeros 7 ++ leBytes 8 o.len ++ leBytes 8 o.base ++ leBytes 8 o.time.toNat ++ zeros 16

/-- A leaf page of a key index: the header, which the spec does not lay out and which is taken as zeros (log entry 36), and up to
63 records. -/
def leafBytes (os : List Obj) : Bytes := padTo 4096 (zeros 64 ++ os.flatMap objBytes)

/-- The 16 lines of a pitch page. -/
def pitchBytes (ls : Tbl Line) (mpn : Nat) : Bytes :=
  (List.range 16).flatMap (fun i => match Tbl.find ls (16 * mpn + i) with
    | some l => lineBytes l
    | none => zeros 256)

/-- The line whose hold page, or extension page, a page is. -/
def holdOwner (x : Pool) (mpn : Nat) : Option (Nat × Line) := x.lines.find? (fun q => decide (q.2.holdMpn ≠ 0) && decide (q.2.holdMpn = mpn))
def extOwner (x : Pool) (mpn : Nat) : Option (Nat × Line) :=
  x.lines.find? (fun q => decide (q.2.extMpn ≠ 0) && decide (q.2.extMpn = mpn ∨ q.2.extMpn + 1 = mpn))

/-- The namespace, and the place among its leaf pages, of a page of a key index. -/
def leafOwner (x : Pool) (mpn : Nat) : Option (Nat × Nat) :=
  x.nss.findSome? (fun q => match q.2.leaves.findIdx? (fun m => decide (m = mpn)) with
    | some i => some (q.1, i)
    | none => none)

/-- A record of the preserved index, and a leaf of it behind its 64-byte header (R349). -/
def presBytes (m : Preserved) : Bytes := leBytes 6 m.mpn ++ zeros 2 ++ leBytes 8 m.low ++ leBytes 8 m.high ++ leBytes 6 m.flash ++ zeros 2
def presLeaf (l : List Preserved) : Bytes := padTo 4096 (zeros 64 ++ l.flatMap presBytes)

/-- The 4,096 bytes of a map page as it stands: chunk-store, fixity, preserved-index, harvest, hold, extension,
key-index or pitch page. -/
def pageImage (x : Pool) (mpn : Nat) : Bytes :=
  if bit mpn 43 then (List.range 256).flatMap (fun i => recBytes (x.rec' (mpn % 2 ^ 43 * 256 + i)))
  else if bit mpn 41 then (List.range 128).flatMap (fun i => padTo 32 (Tbl.getD x.digests (mpn % 2 ^ 41 * 128 + i) []))
  else if bits mpn 40 4 = 5 then padTo 4096 (Tbl.getD x.harvest (mpn % 2 ^ 40) [])
  else if bits mpn 40 4 = 1 then presLeaf ((x.preserved.drop (126 * (mpn % 2 ^ 40))).take 126)
  else match holdOwner x mpn with
  | some q => holdBytes q.2
  | none =>
    match extOwner x mpn with
    | some q =>
      if q.2.extMpn = mpn then extBytes ((q.2.runs.drop 12).take 255) (if q.2.runs.length > 267 then mpn + 1 else 0)
      else extBytes (q.2.runs.drop 267) 0
    | none =>
      match leafOwner x mpn with
      | some (n, i) => match Tbl.find x.nss n with
        | some ns => leafBytes ((ns.objs.drop (63 * i)).take 63)
        | none => leafBytes []
      | none => pitchBytes x.lines mpn

/-- Members of a segment that are not GOOD. -/
def State.notGood (g : Seg) : Nat := (g.members.filter (fun m => decide (m.state ≠ 0))).length

/-- FLAGS of a segment record (R273). -/
def segFlags (g : Seg) : Nat :=
  b2n (decide (State.notGood g = 1)) + 2 * b2n (decide (2 ≤ State.notGood g)) + 4 * b2n g.rewrite + 8 * b2n g.source + 16 * b2n g.retained
    + 32 * b2n (!g.lostRows.isEmpty)

/-- A segment record (R273). -/
def segRecord (x : Pool) (n : Nat) (g : Seg) : Bytes :=
  leBytes 4 n ++ leBytes 1 g.k ++ leBytes 1 g.state ++ leBytes 2 g.rows ++ leBytes 8 (x.liveBytes n) ++ leBytes 8 g.sealTime.toNat
    ++ leBytes 2 g.regions ++ leBytes 2 (segFlags g) ++ zeros 4
    ++ padTo 224 (g.members.flatMap (fun m => saBytes m.slab ++ leBytes 1 m.state))

/-- The segment table of a checkpoint (R273): a count, then a record for each segment that is not released. -/
def segTable (x : Pool) : Bytes :=
  let l := x.segs.filter (fun q => decide (q.2.state ≠ 3))
  leBytes 4 l.length ++ l.flatMap (fun q => segRecord x q.1 q.2)

/-- A preserved image of a pitch page. -/
def preservedImage (im : Preserved) : Bytes := pitchBytes im.lines im.mpn

/-- The original of a META chunk (R176). -/
def metaBytes (page : Bytes) : Bytes := page ++ leBytes 4 (crc32c page)

/-- Does the original of a META chunk verify (R176)? -/
def metaOk (b : Bytes) : Bool := decide (b.length = 4100) && decide (fieldAt b 4096 4 = crc32c (b.take 4096))

/-! ### Reading -/

/-- The runs that some bytes hold. -/
def runsRead (n : Nat) (b : Bytes) : List Run :=
  (List.range n).map (fun i => { handle := fieldAt b (16 * i) 6, nchunk := fieldAt b (16 * i + 6) 2, pos := Pool.signed32 (fieldAt b (16 * i + 8) 4) })

/-- A pitch line as its bytes say, with nothing yet of its hold and extension pages; none where the line is empty. -/
def lineRead (b : Bytes) (old : Line) : Option Line :=
  if fieldAt b 0 1 ≠ 1 then none else
  some { old with
    fixed := bit (fieldAt b 1 1) 0, heat := 0, holdMpn := if bit (fieldAt b 1 1) 1 then fieldAt b 8 8 else 0,
    extMpn := if bit (fieldAt b 1 1) 2 then fieldAt b 0x10 8 else 0,
    runs := runsRead (fieldAt b 2 1) (b.drop 0x40) ++ old.runs.drop 12 }

/-- The holds of a hold page, their heat zero. -/
def holdsRead (b : Bytes) : Tbl Hold :=
  (List.range 256).foldl (fun t i =>
    let fl := fieldAt b (16 * i + 7) 1
    if bit fl 0 then Tbl.set t i { handle := fieldAt b (16 * i) 6, heat := 0, zero := bit fl 1 } else t) []

/-- A leaf of the preserved index read back: a record that is not known yet enters the index. -/
def presRead (x : Pool) (b : Bytes) : Pool :=
  (List.range 126).foldl (fun y i =>
    let r := sliceAt b (64 + 32 * i) 32
    let m : Preserved := { mpn := fieldAt r 0 6, low := fieldAt r 8 8, high := fieldAt r 0x10 8, flash := fieldAt r 0x18 6, lines := [], objs := [] }
    if r = zeros 32 ∨ y.preserved.any (fun z => decide (z.mpn = m.mpn ∧ z.high = m.high)) = true then y else y.addPreserved m) x

/-- A segment record read back, over what else is known of the segment (R273). -/
def segRead (old : Seg) (b : Bytes) : Seg :=
  let fl := fieldAt b 0x1A 2
  { old with
    k := fieldAt b 4 1, state := fieldAt b 5 1, rows := fieldAt b 6 2, sealTime := BitVec.ofNat 64 (fieldAt b 0x10 8),
    regions := fieldAt b 0x18 2, rewrite := bit fl 2, source := bit fl 3, retained := bit fl 4,
    members := (List.range (fieldAt b 4 1 + 2)).map (fun i =>
      { slab := saRead b (0x20 + 7 * i), state := bits (fieldAt b (0x26 + 7 * i) 1) 0 2,
        rows := ((old.members[i]?).map Member.rows).getD 0 }) }

/-- The segment table read back: the records, and of the segments already released what is known. -/
def segTableRead (b : Bytes) (known : Tbl Seg) : Tbl Seg :=
  (List.range (fieldAt b 0 4)).foldl (fun t i =>
    let r := sliceAt b (4 + 256 * i) 256
    Tbl.set t (fieldAt r 0 4) (segRead (Tbl.getD known (fieldAt r 0 4) Seg.fresh) r)) (known.filter (fun q => decide (q.2.state = 3)))

def objsRead (b : Bytes) : List Obj :=
  (List.range 63).filterMap (fun i =>
    let r := sliceAt b (64 + 64 * i) 64
    let n := fieldAt r 0x10 1
    if n = 0 then none
    else some { key := r.take n, len := fieldAt r 0x18 8, base := fieldAt r 0x20 8, time := BitVec.ofNat 64 (fieldAt r 0x28 8) })

/-- A page read from flash becomes the page in DRAM: its lines, holds, runs, records, digests or objects, every heat counter zero
(R175, R184). -/
def loadPage (x : Pool) (mpn : Nat) (b : Bytes) : Pool :=
  if bit mpn 43 then
    { x with recs := (List.range 256).foldl (fun t i =>
        let r : CRec := { loc := fieldAt b (16 * i) 8, ref := fieldAt b (16 * i + 8) 8 }
        let h := mpn % 2 ^ 43 * 256 + i
        if r.loc = 0 ∧ r.ref = 0 then Tbl.del t h else Tbl.set t h r) x.recs }
  else if bit mpn 41 then
    { x with digests := (List.range 128).foldl (fun t i =>
        let d := sliceAt b (32 * i) 32
        let h := mpn % 2 ^ 41 * 128 + i
        if d = zeros 32 then Tbl.del t h else Tbl.set t h d) x.digests }
  else if bits mpn 40 4 = 5 then { x with harvest := Tbl.set x.harvest (mpn % 2 ^ 40) b }
  else if bits mpn 40 4 = 1 then presRead x b
  else match holdOwner x mpn with
  | some q => x.setLine q.1 { q.2 with holds := holdsRead b }
  | none =>
    match extOwner x mpn with
    | some q =>
      let rs := runsRead (fieldAt b 2 2) (b.drop 16)
      x.setLine q.1 { q.2 with runs := if q.2.extMpn = mpn then q.2.runs.take 12 ++ rs ++ q.2.runs.drop 267 else q.2.runs.take 267 ++ rs }
    | none =>
      match leafOwner x mpn with
      | some (n, i) => { x with nss := Tbl.upd x.nss n (fun ns => { ns with objs := ns.objs.take (63 * i) ++ objsRead b ++ ns.objs.drop (63 * i + 63) }) }
      | none => (List.range 16).foldl (fun y i =>
          let ln := 16 * mpn + i
          match lineRead (sliceAt b (256 * i) 256) (y.line ln) with
          | some l => y.setLine ln l
          | none => { y with lines := Tbl.del y.lines ln }) x

end Sys2Proof.Machine
end

