-- ==== Sys2Proof/Machine/Coder.lean ====
section
/-! DEFINITION. The predictive coder (R144–R163): byte-mode and raster-mode blocks, frames, continuation states. -/

namespace Sys2Proof.Machine

/-! ### Byte mode (R153) -/

/-- A cell: the probability of a 1 in 1/65,536, and the bits seen. -/
structure Cell where
  p : Nat
  n : Nat
  deriving DecidableEq, Repr

/-- `cell_update`. -/
def Cell.update (c : Cell) (b : Bool) : Cell :=
  let d : Int := (if b then 65535 else 0) - (c.p : Int)
  { p := ((c.p : Int) + d * ((65536 / (c.n + 2) : Nat) : Int) / 65536).toNat, n := min 15 (c.n + 1) }

/-- The models of one block, with the bytes coded so far. -/
structure ByteModel where
  t1  : Array Cell
  t2  : Array Cell
  tm  : Array Cell
  hm  : Array Nat
  m   : Nat
  len : Nat
  x   : Array Byte
  deriving DecidableEq, Repr

def ByteModel.fresh : ByteModel :=
  { t1 := Array.replicate 65536 { p := 32768, n := 0 }, t2 := Array.replicate 65536 { p := 32768, n := 0 },
    tm := Array.replicate 32 { p := 49152, n := 0 }, hm := Array.replicate 4096 0, m := 0, len := 0, x := #[] }

def Cell.zero : Cell := { p := 0, n := 0 }

/-- Byte `i - k` of the block, 0 before its start. -/
def ByteModel.back (w : ByteModel) (k : Nat) : Nat :=
  if k ≤ w.x.size then (w.x.getD (w.x.size - k) 0).toNat else 0

/-- The cells that predict bit `j` of the current byte, given the partial byte `c0`. -/
structure Ctx where
  i1   : Nat
  i2   : Nat
  im   : Nat
  live : Bool
  ex   : Bool
  p    : Nat
  deriving DecidableEq, Repr

/-- The blended probability that bit `j` is 1. -/
def ByteModel.ctx (w : ByteModel) (j c0 : Nat) : Ctx :=
  let c1 := w.back 1
  let c2 := w.back 2
  let pb := if 0 < w.len then (w.x.getD w.m 0).toNat else 0
  let i1 := c1 * 256 + c0
  let i2 := ((c2 * 0x2d) ^^^ (c1 * 32) ^^^ (c0 * 0x107)) % 65536
  let a := w.t1.getD i1 Cell.zero
  let b := w.t2.getD i2 Cell.zero
  let live := decide (0 < w.len) && decide ((pb ||| 256) / 2 ^ (j + 1) = c0)
  let ex := pb.testBit j
  let im := 2 * min w.len 15 + b2n ex
  let mc := w.tm.getD im Cell.zero
  let wm := (mc.n + 1) * min w.len 8
  let num := (a.n + 1) * a.p + (b.n + 1) * b.p + (if live then wm * (if ex then mc.p else 65535 - mc.p) else 0)
  let den := a.n + b.n + 2 + (if live then wm else 0)
  { i1 := i1, i2 := i2, im := im, live := live, ex := ex, p := max 32 (min 65503 (num / den)) }

/-- The cells learn the bit. -/
def ByteModel.learn (w : ByteModel) (k : Ctx) (b : Bool) : ByteModel :=
  { w with
    t1 := w.t1.setIfInBounds k.i1 ((w.t1.getD k.i1 Cell.zero).update b),
    t2 := w.t2.setIfInBounds k.i2 ((w.t2.getD k.i2 Cell.zero).update b),
    tm := if k.live then w.tm.setIfInBounds k.im ((w.tm.getD k.im Cell.zero).update (b == k.ex)) else w.tm }

/-- The byte is complete: the match model follows or looks for a repeat. -/
def ByteModel.push (w : ByteModel) (v : Byte) : ByteModel :=
  let hit := decide (0 < w.len) && decide (w.x.getD w.m 0 = v)
  let m := if hit then w.m + 1 else w.m
  let len := if hit then min (w.len + 1) 65535 else 0
  let x := w.x.push v
  let i := w.x.size
  if i < 2 then { w with m := m, len := len, x := x } else
  let a := x.getD (i - 2) 0
  let b := x.getD (i - 1) 0
  let h := ((a.toNat * 0x1f3 + b.toNat) * 0x1f3 + v.toNat) % 4096
  let q := w.hm.getD h 0
  let found := decide (len = 0) && decide (q ≠ 0) && decide (x.getD (q - 3) 0 = a) && decide (x.getD (q - 2) 0 = b)
    && decide (x.getD (q - 1) 0 = v)
  { w with m := if found then q else m, len := if found then 1 else len, x := x, hm := w.hm.setIfInBounds h (i + 1) }

/-- The range encoder; `out` is newest first. -/
structure RcEnc where
  low   : Nat
  range : Nat
  held  : Bool
  pend  : Nat
  nff   : Nat
  out   : Bytes
  deriving DecidableEq, Repr

def RcEnc.shiftLow (r : RcEnc) : RcEnc :=
  if r.low < 0xff000000 ∨ 0xffffffff < r.low then
    let cy := r.low / 2 ^ 32
    let o1 := if r.held then BitVec.ofNat 8 (r.pend + cy) :: r.out else r.out
    { r with out := List.replicate r.nff (BitVec.ofNat 8 (0xff + cy)) ++ o1, nff := 0, pend := r.low / 2 ^ 24 % 256,
             held := true, low := r.low % 2 ^ 24 * 256 }
  else { r with nff := r.nff + 1, low := r.low % 2 ^ 24 * 256 }

/-- Renormalise; at most four bytes leave. -/
def RcEnc.norm : Nat → RcEnc → RcEnc
  | 0, r => r
  | n + 1, r => if r.range < 0x01000000 then norm n { r.shiftLow with range := r.range * 256 } else r

def RcEnc.bit (r : RcEnc) (b : Bool) (p : Nat) : RcEnc :=
  let split := r.range / 65536 * p
  RcEnc.norm 4 (if b then { r with range := split } else { r with low := r.low + split, range := r.range - split })

/-- Encode one byte. -/
def encByte (st : ByteModel × RcEnc) (v : Byte) : ByteModel × RcEnc :=
  let (w, r, _) := [7, 6, 5, 4, 3, 2, 1, 0].foldl (fun (t : ByteModel × RcEnc × Nat) j =>
    let (w, r, c0) := t
    let b := v.getLsbD j
    let k := w.ctx j c0
    (w.learn k b, r.bit b k.p, c0 * 2 + b2n b)) (st.1, st.2, 1)
  (w.push v, r)

/-- The coded bytes of a block in byte mode. -/
def encodeByteBlock (x : Bytes) : Bytes :=
  let st := x.foldl encByte
    (ByteModel.fresh, { low := 0, range := 0xffffffff, held := false, pend := 0, nff := 0, out := [] })
  ([0, 1, 2, 3, 4].foldl (fun r _ => r.shiftLow) st.2).out.reverse

/-- The range decoder: the bytes still to read (zeros beyond the end) and how many were taken. -/
structure RcDec where
  code  : Nat
  range : Nat
  rest  : Bytes
  taken : Nat
  deriving DecidableEq, Repr

def RcDec.norm : Nat → RcDec → RcDec
  | 0, r => r
  | n + 1, r =>
    if r.range < 0x01000000 then
      norm n { r with range := r.range * 256, code := (r.code * 256 + (r.rest.headD 0).toNat) % 2 ^ 32,
                      rest := r.rest.tail, taken := r.taken + 1 }
    else r

def RcDec.bit (r : RcDec) (p : Nat) : Bool × RcDec :=
  let split := r.range / 65536 * p
  if r.code < split then (true, RcDec.norm 4 { r with range := split })
  else (false, RcDec.norm 4 { r with code := r.code - split, range := r.range - split })

/-- Decode one byte. -/
def decByte (st : ByteModel × RcDec) : ByteModel × RcDec :=
  let (w, r, c0) := [7, 6, 5, 4, 3, 2, 1, 0].foldl (fun (t : ByteModel × RcDec × Nat) j =>
    let (w, r, c0) := t
    let k := w.ctx j c0
    let (b, r1) := r.bit k.p
    (w.learn k b, r1, c0 * 2 + b2n b)) (st.1, st.2, 1)
  (w.push (BitVec.ofNat 8 c0), r)

def decBytes : Nat → ByteModel × RcDec → ByteModel × RcDec
  | 0, st => st
  | n + 1, st => decBytes n (decByte st)

/-- The `n` original bytes of a byte-mode block, if it consumes exactly its coded bytes. -/
def decodeByteBlock (c : Bytes) (n : Nat) : Option Bytes :=
  let (w, r) := decBytes n (ByteModel.fresh,
    { code := beNat (padTo 4 c), range := 0xffffffff, rest := c.drop 4, taken := 4 })
  if r.taken = c.length then some w.x.toList else none

/-! ### Raster mode (R154) -/

/-- The adaptive state of a raster block: contexts 0 to 7 and, at 8, the run context. -/
structure RasterCtx where
  a : List Nat
  n : List Nat
  deriving DecidableEq, Repr

def RasterCtx.fresh (nb : Nat) : RasterCtx :=
  { a := List.replicate 8 (max 2 (2 ^ (nb - 5))) ++ [16], n := List.replicate 9 1 }

def kOf (a n kmax : Nat) : Nat := ((List.range kmax).find? (fun k => decide (a ≤ n * 2 ^ k))).getD kmax

def RasterCtx.k (c : RasterCtx) (q kmax : Nat) : Nat := kOf (c.a.getD q 0) (c.n.getD q 1) kmax

def RasterCtx.tally (c : RasterCtx) (q v : Nat) : RasterCtx :=
  let a := c.a.getD q 0 + v
  let n := c.n.getD q 0 + 1
  if n = 64 then { a := c.a.set q (a / 2), n := c.n.set q (n / 2) } else { a := c.a.set q a, n := c.n.set q n }

/-- The low `n` bits of `v`, most significant first. -/
def bitsOf (v n : Nat) : List Bool := (List.range n).map (fun i => v.testBit (n - 1 - i))

/-- The code word of `rice`. -/
def rice (v k esc : Nat) : List Bool :=
  let q := v / 2 ^ k
  if q < 24 then List.replicate q false ++ [true] ++ bitsOf v k
  else List.replicate 24 false ++ [true] ++ bitsOf v esc

/-- A sample of the block under way, by row and column. -/
def sampleAt (s : Array Nat) (width r x : Nat) : Nat := s.getD (r * width + x) 0

/-- The neighbours a, b, c. -/
def nbrs (s : Array Nat) (width r x : Nat) : Nat × Nat × Nat :=
  let a := if 0 < x then sampleAt s width r (x - 1) else if 0 < r then sampleAt s width (r - 1) 0 else 0
  let b := if 0 < r then sampleAt s width (r - 1) x else a
  let c := if 0 < r ∧ 0 < x then sampleAt s width (r - 1) (x - 1) else b
  (a, b, c)

/-- The prediction: median edge detector, or planar. -/
def predict (planar : Bool) (maxv a b c : Nat) : Nat :=
  if planar then (max 0 (min (maxv : Int) ((a : Int) + b - c))).toNat
  else if max a b ≤ c then min a b else if c ≤ min a b then max a b else a + b - c

/-- The context number of a regular sample. -/
def rasterQ (nb a b c : Nat) : Nat :=
  let d0 := (max a c - min a c) + (max b c - min b c)
  let d := if nb = 16 then d0 / 256 else d0
  if d = 0 then 0 else if d ≤ 2 then 1 else if d ≤ 6 then 2 else if d ≤ 14 then 3 else if d ≤ 30 then 4
  else if d ≤ 62 then 5 else if d ≤ 126 then 6 else 7

/-- The shape of a raster block. -/
structure RShape where
  nb     : Nat
  planar : Bool
  width  : Nat
  total  : Nat
  deriving DecidableEq, Repr

def RShape.maxv (h : RShape) : Nat := 2 ^ h.nb - 1

/-- Samples of row `r`. -/
def RShape.rowLen (h : RShape) (r : Nat) : Nat := min h.width (h.total - r * h.width)

/-- v of a residue: e and its sign fold (R154). -/
def foldE (h : RShape) (s pred : Nat) : Nat :=
  let e := (s + 2 ^ h.nb - pred) % 2 ^ h.nb
  if h.maxv / 2 < e then 2 * (2 ^ h.nb - e) - 1 else 2 * e

/-- The sample of a fold and a prediction. -/
def unfoldE (h : RShape) (v pred : Nat) : Nat :=
  if v % 2 = 0 then (pred + v / 2) % 2 ^ h.nb
  else (((pred : Int) - ((v / 2 + 1 : Nat) : Int)) % ((2 ^ h.nb : Nat) : Int)).toNat

/-- Samples from position `i`, `n` at most, equal to `v`. -/
def runLen (s : Array Nat) (v : Nat) : Nat → Nat → Nat
  | _, 0 => 0
  | i, n + 1 => if s.getD i 0 = v then runLen s v (i + 1) n + 1 else 0

/-- Code one regular sample at position `i`. -/
def encRegular (h : RShape) (s : Array Nat) (i : Nat) (c : RasterCtx) : List Bool × RasterCtx :=
  let (a, b, cc) := nbrs s h.width (i / h.width) (i % h.width)
  let v := foldE h (s.getD i 0) (predict h.planar h.maxv a b cc)
  let q := rasterQ h.nb a b cc
  (rice v (c.k q h.nb) h.nb, c.tally q v)

/-- Code samples from position `i`; `acc` holds the bit groups, newest first. -/
def encSamples (h : RShape) (s : Array Nat) : Nat → Nat → RasterCtx → List (List Bool) → List (List Bool)
  | 0, _, _, acc => acc
  | f + 1, i, c, acc =>
    if h.total ≤ i then acc else
    let (a, b, cc) := nbrs s h.width (i / h.width) (i % h.width)
    if a = b ∧ b = cc then
      let left := h.rowLen (i / h.width) - i % h.width
      let run := runLen s a i left
      let bits := rice run (c.k 8 16) 17
      let c1 := c.tally 8 run
      if run = left then encSamples h s f (i + run) c1 (bits :: acc)
      else
        let (e, c2) := encRegular h s (i + run) c1
        encSamples h s f (i + run + 1) c2 (e :: bits :: acc)
    else
      let (e, c1) := encRegular h s i c
      encSamples h s f (i + 1) c1 (e :: acc)

/-- Bits packed into bytes from bit 7 downward, zero bits up to a byte boundary. -/
def packBits : Nat → List Bool → Bytes
  | 0, _ => []
  | f + 1, l =>
    match l with
    | [] => []
    | _ => BitVec.ofNat 8 ((l.take 8 ++ List.replicate (8 - (l.take 8).length) false).foldl (fun n b => 2 * n + b2n b) 0)
        :: packBits f (l.drop 8)

/-- The samples of a plane's bytes. -/
def samplesOf (bps : Nat) : Nat → Bytes → List Nat
  | 0, _ => []
  | f + 1, d => match d with
    | [] => []
    | _ => leNat (d.take bps) :: samplesOf bps f (d.drop bps)

/-- The shape of a block of `n` bytes under a SAMPLE byte and WIDTH (R89). -/
def blockShape (sample width n : Nat) : RShape :=
  let bps := 1 + sample % 2
  { nb := 8 * bps, planar := bit sample 3, width := width, total := n / bps }

/-- The coded bytes of a block in raster mode. -/
def encodeRasterBlock (sample width : Nat) (d : Bytes) : Bytes :=
  let h := blockShape sample width d.length
  let s := (samplesOf (1 + sample % 2) d.length d).toArray
  let l := ((encSamples h s (h.total + 1) 0 (RasterCtx.fresh h.nb) []).reverse).flatten
  packBits (l.length + 1) l

/-- `n` bits as a number, with the bits that follow. -/
def takeBits (n : Nat) (l : List Bool) : Option (Nat × List Bool) :=
  if (l.take n).length = n then some ((l.take n).foldl (fun m b => 2 * m + b2n b) 0, l.drop n) else none

/-- Zero bits before the first one, with the bits after it. -/
def takeZeros : List Bool → Option (Nat × List Bool)
  | [] => none
  | true :: l => some (0, l)
  | false :: l => (takeZeros l).map (fun p => (p.1 + 1, p.2))

/-- Read one `rice` word; more than 24 zeros is no word. -/
def unrice (k esc : Nat) (l : List Bool) : Option (Nat × List Bool) :=
  match takeZeros l with
  | none => none
  | some (q, r) =>
    if q < 24 then (takeBits k r).map (fun p => (q * 2 ^ k + p.1, p.2))
    else if q = 24 then takeBits esc r else none

/-- Decode one regular sample. -/
def decRegular (h : RShape) (s : Array Nat) (c : RasterCtx) (l : List Bool) :
    Option (Nat × RasterCtx × List Bool) :=
  let i := s.size
  let (a, b, cc) := nbrs s h.width (i / h.width) (i % h.width)
  let q := rasterQ h.nb a b cc
  (unrice (c.k q h.nb) h.nb l).map (fun p =>
    (unfoldE h p.1 (predict h.planar h.maxv a b cc), c.tally q p.1, p.2))

/-- Decode samples until the block is complete. -/
def decSamples (h : RShape) : Nat → Array Nat → RasterCtx → List Bool → Option (Array Nat × List Bool)
  | 0, s, _, l => some (s, l)
  | f + 1, s, c, l =>
    let i := s.size
    if h.total ≤ i then some (s, l) else
    let (a, b, cc) := nbrs s h.width (i / h.width) (i % h.width)
    if a = b ∧ b = cc then
      let left := h.rowLen (i / h.width) - i % h.width
      match unrice (c.k 8 16) 17 l with
      | none => none
      | some (run, l1) =>
        if left < run then none else
        let s1 := s ++ Array.replicate run a
        let c1 := c.tally 8 run
        if run = left then decSamples h f s1 c1 l1
        else match decRegular h s1 c1 l1 with
          | none => none
          | some (v, c2, l2) => decSamples h f (s1.push v) c2 l2
    else
      match decRegular h s c l with
      | none => none
      | some (v, c1, l1) => decSamples h f (s.push v) c1 l1

/-- The `n` original bytes of a raster block, if its last sample ends in the final byte with zero padding. -/
def decodeRasterBlock (sample width : Nat) (c : Bytes) (n : Nat) : Option Bytes :=
  let h := blockShape sample width n
  let l := c.flatMap (fun b => bitsOf b.toNat 8)
  match decSamples h (h.total + 1) #[] (RasterCtx.fresh h.nb) l with
  | none => none
  | some (s, r) =>
    if r.length < 8 ∧ r.all (fun b => !b) = true then some (s.toList.flatMap (leBytes (1 + sample % 2))) else none

/-! ### Blocks and frames (R147–R152) -/

/-- Planes and bytes per sample of a SAMPLE byte (R89). -/
def planesOf (sample : Nat) : Nat := bits sample 1 2 + 1
def bpsOf (sample : Nat) : Nat := 1 + sample % 2

/-- Cut `n` bytes from offset `o` into pieces of `k`. -/
def pieces (k : Nat) : Nat → Nat → Nat → List (Nat × Nat)
  | 0, _, _ => []
  | f + 1, o, n => if n = 0 then [] else (o, min k n) :: pieces k f (o + min k n) (n - min k n)

/-- The coding blocks of an original as offset and length (R151, R152). -/
def codingBlocks (raster : Bool) (sample width n : Nat) : List (Nat × Nat) :=
  if raster then
    let plane := n / planesOf sample
    let rb := max 1 (65536 / (width * bpsOf sample))
    (List.range (planesOf sample)).flatMap (fun p => pieces (rb * width * bpsOf sample) (plane + 1) (p * plane) plane)
  else pieces 65536 (n + 1) 0 n

def encodeBlock (raster : Bool) (sample width : Nat) (d : Bytes) : Bytes :=
  if raster then encodeRasterBlock sample width d else encodeByteBlock d

def decodeBlock (raster : Bool) (sample width : Nat) (c : Bytes) (n : Nat) : Option Bytes :=
  if raster then decodeRasterBlock sample width c n else decodeByteBlock c n

/-- The frame header of R147. -/
def frameHeader (mode orig body sample width crc blocks : Nat) : Bytes :=
  let h := leBytes 2 0xF0C5 ++ [1] ++ leBytes 1 mode ++ leBytes 4 orig ++ leBytes 4 body ++ leBytes 1 sample ++ zeros 3
    ++ leBytes 4 width ++ leBytes 4 crc ++ leBytes 4 blocks
  h ++ leBytes 4 (crc32c h)

/-- The continuation state of R158, without its FORMAT and CRC. -/
structure CState' where
  kind     : Nat
  sample   : Nat
  width    : Nat
  orig     : Nat
  blocks   : Nat
  consumed : Nat
  produced : Nat
  totalIn  : Nat
  totalOut : Nat
  origCrc  : BitVec 32
  bodyCrc  : BitVec 32
  expect   : Nat
  body     : Nat
  stage    : Nat
  header   : Bytes
  deriving DecidableEq, Repr

def CState'.fresh (kind sample width orig : Nat) : CState' :=
  { kind := kind, sample := sample, width := width, orig := orig, blocks := 0, consumed := 0, produced := 0, totalIn := 0,
    totalOut := 0, origCrc := 0xFFFFFFFF, bodyCrc := 0xFFFFFFFF, expect := 0, body := 0, stage := 0, header := zeros 32 }

/-- The 4,096 bytes of a state. -/
def CState'.image (c : CState') : Bytes :=
  let b := leBytes 2 1 ++ leBytes 1 c.kind ++ leBytes 1 c.sample ++ leBytes 4 c.width ++ leBytes 4 c.orig
    ++ leBytes 4 c.blocks ++ leBytes 4 c.consumed ++ leBytes 4 c.produced ++ leBytes 4 c.totalIn ++ leBytes 4 c.totalOut
    ++ leBytes 4 c.origCrc.toNat ++ leBytes 4 c.bodyCrc.toNat ++ leBytes 4 c.expect ++ leBytes 4 c.body
    ++ leBytes 1 c.stage ++ zeros 15 ++ (if c.stage = 1 ∧ c.kind ≠ 2 then padTo 32 c.header else zeros 32)
  let b := padTo 0xFFC b
  b ++ leBytes 4 (crc32c b)

/-- The state in 4,096 bytes. -/
def CState'.read (b : Bytes) : CState' :=
  { kind := fieldAt b 2 1, sample := fieldAt b 3 1, width := fieldAt b 4 4, orig := fieldAt b 8 4, blocks := fieldAt b 0xC 4,
    consumed := 0, produced := 0, totalIn := fieldAt b 0x18 4, totalOut := fieldAt b 0x1C 4,
    origCrc := BitVec.ofNat 32 (fieldAt b 0x20 4), bodyCrc := BitVec.ofNat 32 (fieldAt b 0x24 4),
    expect := fieldAt b 0x28 4, body := fieldAt b 0x2C 4, stage := fieldAt b 0x30 1, header := zeros 32 }

/-- Is a state with `n` input bytes BAD_STATE (R160)? -/
def badState (b : Bytes) (n : Nat) : Bool :=
  let c := CState'.read b
  decide (fieldAt b 0xFFC 4 ≠ crc32c (b.take 0xFFC)) || decide (fieldAt b 0 2 ≠ 1) || decide (c.stage ≠ 0)
    || decide (2 < c.kind) || (sliceAt b 0x31 15).any (fun x => decide (x ≠ 0))
    || (sliceAt b 0x60 3996).any (fun x => decide (x ≠ 0))
    || (if c.kind = 2 then decide (n + c.totalIn < 36 + c.body) else decide (n + c.totalIn ≠ c.orig))

/-- Checks 1 to 5 of R161 on an input: the STATUS of the first that fails. -/
def frameChecks (d : Bytes) (expect : Nat) : Option Nat :=
  if d.length < 32 then some 0x14 else
  let mode := fieldAt d 3 1
  let orig := fieldAt d 4 4
  let body := fieldAt d 8 4
  let sample := fieldAt d 0xC 1
  let width := fieldAt d 0x10 4
  let blocks := fieldAt d 0x18 4
  if fieldAt d 0 2 ≠ 0xF0C5 ∨ fieldAt d 2 1 ≠ 1 ∨ 2 < mode ∨ fieldAt d 0xD 3 ≠ 0 ∨ fieldAt d 0x1C 4 ≠ crc32c (d.take 28) then
    some 0x13
  else if expect ≠ 0 ∧ expect ≠ orig then some 0x15
  else if orig = 0 ∨ 1048576 < orig then some 0x17
  else if mode = 0 ∧ (body ≠ orig ∨ blocks ≠ 0 ∨ sample ≠ 0 ∨ width ≠ 0) then some 0x17
  else if mode = 1 ∧ (sample ≠ 0 ∨ width ≠ 0) then some 0x17
  else if mode = 2 ∧ (16 ≤ sample ∨ width = 0 ∨ 65536 < width ∨ orig % (planesOf sample * bpsOf sample) ≠ 0) then some 0x17
  else if mode ≠ 0 ∧ blocks ≠ (codingBlocks (decide (mode = 2)) sample width orig).length then some 0x17
  else if d.length < 36 + body then some 0x14
  else none

/-! ### Jobs -/

/-- What a coder job ends with. -/
structure CoderEnd where
  status : Nat
  out    : Bytes
  /-- the new continuation state, if one is written -/
  state  : Option CState'
  eaten  : Nat
  frames : Nat
  stored : Nat
  /-- the output (its first bytes) and, with EXPANDS, the state hold nothing usable -/
  junk   : Nat
  junkSt : Bool
  deriving DecidableEq, Repr

def coderFail (status : Nat) : CoderEnd :=
  { status := status, out := [], state := none, eaten := 0, frames := 0, stored := 0, junk := 0, junkSt := false }

/-- What the blocks of an encode have come to: the state, the output newest first, and the offset in the input; none
when the body reached ORIG_LEN (R155). -/
def encBlocks (cap : Nat) (rest : Bytes) (first : Bool) :
    List (Nat × Nat) → CState' → Bytes → Nat → Option (CState' × Bytes × Nat × Bool)
  | [], c, out, pos => some (c, out, pos, decide (out.length + 4 ≤ cap))
  | (_, n) :: bs, c, out, pos =>
    let blk := (rest.drop pos).take n
    let coded := encodeBlock (decide (c.kind = 1)) c.sample c.width blk
    let piece := leBytes 4 coded.length ++ coded
    let body := c.body + piece.length
    if c.orig ≤ body then none else
    let head := if first ∧ out.isEmpty = true then 32 else 0
    if cap < out.length + piece.length + (if bs.isEmpty then 4 else 0) + head then some (c, out, pos, false)
    else encBlocks cap rest first bs
      { c with blocks := c.blocks + 1, body := body, origCrc := crcRun c.origCrc blk, bodyCrc := crcRun c.bodyCrc piece }
      (out ++ zeros head ++ piece) (pos + n)

/-- An encode, or the resume of one (R151–R159). `c.body` counts body bytes over all jobs here. -/
def encodeRun (c0 : CState') (rest : Bytes) (cap : Nat) (resume : Bool) : CoderEnd :=
  let c := { c0 with body := c0.totalOut - 32 }
  let first := decide (c.totalOut = 0)
  match encBlocks cap rest first ((codingBlocks (decide (c.kind = 1)) c.sample c.width c.orig).drop c.blocks) c [] 0 with
  | none =>
    if resume = true ∨ cap < c.orig + 36 then
      { coderFail 0x11 with junk := cap, junkSt := true }
    else
      let reg := crcRun 0xFFFFFFFF rest
      let crc := (reg ^^^ 0xFFFFFFFF).toNat
      let h := frameHeader 0 c.orig c.orig 0 0 crc 0
      let frame := h ++ rest ++ leBytes 4 crc
      let st := { c0 with
        sample := 0, width := 0, blocks := 0, consumed := c.orig, produced := frame.length, totalIn := c.orig, totalOut := frame.length,
        origCrc := reg, bodyCrc := reg, stage := 1, header := h }
      { coderFail 0 with
        out := frame, eaten := c.orig, frames := 1, stored := 1, state := some st }
  | some (c1, out, pos, done) =>
    let out1 := if done then out ++ leBytes 4 (c1.bodyCrc ^^^ 0xFFFFFFFF).toNat else out
    let h := frameHeader (c1.kind + 1) c1.orig c1.body c1.sample c1.width (c1.origCrc ^^^ 0xFFFFFFFF).toNat c1.blocks
    let st := { c1 with
      body := 0, consumed := pos, produced := out1.length, totalIn := c1.totalIn + pos,
      totalOut := c1.totalOut + out1.length, stage := b2n done, header := h }
    { coderFail (if done then 0 else 0x10) with
      out := if done = true ∧ resume = false then h ++ out1.drop 32 else out1,
      eaten := pos, frames := b2n done, state := some st }

/-- What the blocks of a decode have come to; none is a failure of check 6. `used` counts body bytes read. -/
def decBlocks (cap : Nat) (raster : Bool) :
    List (Nat × Nat) → CState' → Bytes → Bytes → Nat → Option (CState' × Bytes × Bytes × Nat × Bool)
  | [], c, d, out, used => some (c, d, out, used, true)
  | (_, n) :: bs, c, d, out, used =>
    if cap < out.length + n then some (c, d, out, used, false) else
    let left := c.body - used
    let len := fieldAt d 0 3
    if left < 4 ∨ fieldAt d 3 1 ≠ 0 ∨ left < 4 + len then none else
    match decodeBlock raster c.sample c.width ((d.drop 4).take len) n with
    | none => none
    | some x =>
      decBlocks cap raster bs
        { c with blocks := c.blocks + 1, origCrc := crcRun c.origCrc x, bodyCrc := crcRun c.bodyCrc (d.take (4 + len)) }
        (d.drop (4 + len)) (out ++ x) (used + 4 + len)

/-- A failure of checks 6 to 9: the output that the job would have produced is undefined (R162). -/
def decodeFail (status cap want : Nat) : CoderEnd := { coderFail status with junk := min cap want }

/-- Checks 8 and 9 in the job that completes the frame, and the ends of R157 and R158. -/
def decodeEnd (c : CState') (d0 d out : Bytes) (used cap want head : Nat) (done : Bool) : CoderEnd :=
  if done = true ∧ used ≠ c.body then decodeFail 0x15 cap want
  else if done = true ∧ fieldAt d 0 4 ≠ (c.bodyCrc ^^^ 0xFFFFFFFF).toNat then decodeFail 0x16 cap want
  else if done = true ∧ (c.origCrc ^^^ 0xFFFFFFFF).toNat ≠ c.expect then decodeFail 0x18 cap want
  else
    let eaten := if out.isEmpty then 0 else head + (d0.length - d.length) + (if done then 4 else 0)
    let st := { c with
      consumed := eaten, produced := out.length, totalIn := c.totalIn + eaten,
      totalOut := c.totalOut + out.length, stage := b2n done }
    { coderFail (if done then 0 else 0x10) with
      out := out, eaten := eaten, frames := b2n done, state := some st }

/-- A decode from the frame's first byte (R161). -/
def decodeRun (d : Bytes) (expect cap : Nat) : CoderEnd :=
  match frameChecks d expect with
  | some st => coderFail st
  | none =>
    let mode := fieldAt d 3 1
    let orig := fieldAt d 4 4
    let c0 := CState'.fresh 2 (fieldAt d 0xC 1) (fieldAt d 0x10 4) orig
    let c := { c0 with expect := fieldAt d 0x14 4, body := fieldAt d 8 4 }
    let body := d.drop 32
    if mode = 0 then
      if cap < orig then decodeEnd c body body [] 0 cap orig 32 false
      else
        let x := body.take orig
        decodeEnd { c with origCrc := crcRun c.origCrc x, bodyCrc := crcRun c.bodyCrc x } body (body.drop orig) x orig
          cap orig 32 true
    else
      match decBlocks cap (decide (mode = 2)) (codingBlocks (decide (mode = 2)) c.sample c.width orig) c body [] 0 with
      | none => decodeFail 0x17 cap orig
      | some (c1, d1, out, used, done) => decodeEnd c1 body d1 out used cap orig 32 done

/-- The resume of a stopped decode: raster frames have a WIDTH (R158, R161 check 4). -/
def decodeResume (c : CState') (d : Bytes) (cap : Nat) : CoderEnd :=
  let raster := decide (c.width ≠ 0)
  let want := c.orig - c.totalOut
  match decBlocks cap raster ((codingBlocks raster c.sample c.width c.orig).drop c.blocks) c d [] (c.totalIn - 32) with
  | none => decodeFail 0x17 cap want
  | some (c1, d1, out, used, done) => decodeEnd c1 d d1 out used cap want 0 done

/-- A resume (R160). -/
def resumeRun (st d : Bytes) (cap : Nat) : CoderEnd :=
  if badState st d.length then coderFail 0x12
  else
    let c := CState'.read st
    if c.kind ≠ 2 then encodeRun c d cap true
    else if c.totalIn = 0 then decodeRun d 0 cap
    else decodeResume c d cap

namespace State

/-- The registers of a lane (R23). -/
def laneReg (ridge lane : Nat) : Nat := ridgeBlk ridge 10 + lane * 0x800

/-- A coder job runs and ends: output, continuation state, counters and STATUS (R157–R163). -/
def coderFinish (s : State) (n : Nat) (j : Job) (e : CoderEnd) : State :=
  let b := laneReg j.ridge j.lane
  let h := jh j 1
  let st := jh j 2
  let s1 := s.hWrite j.ridge h 0 e.out
  let s2 := if e.junk = 0 then s1 else (s1.hWrite j.ridge h 0 (s1.freeBytes e.junk)).used
  let s3 := if st = nullH then s2
    else match e.state with
      | some c => s2.hWrite j.ridge st 0 c.image
      | none => if e.junkSt then (s2.hWrite j.ridge st 0 (s2.freeBytes 4096)).used else s2
  let s4 := (((s3.bump (b + 8) 0 64 e.eaten).bump (b + 0x10) 0 64 e.out.length).bump (b + 0x18) 0 64 e.frames).bump
    (b + 0x20) 0 64 e.stored
  let s5 := if 0x10 ≤ e.status then s4.raise (b + 0x28) (2 ^ (e.status - 0x10)) else s4
  s5.finish n j e.status e.out.length

end State

/-- CODER_ENCODE_BYTE (R153). -/
def execCoderEncodeByte (n : Nat) (s : State) : Res :=
  match s.startable n 3 (fun o => decide (o = 0)) with
  | some j =>
    let d := s.hBytes j.ridge (State.jh j 0)
    .next (s.coderFinish n j (encodeRun (CState'.fresh 0 0 0 d.length) d (hLen (State.jh j 1)) false))
  | none => .next s

/-- CODER_ENCODE_RASTER (R152, R154). -/
def execCoderEncodeRaster (n : Nat) (s : State) : Res :=
  match s.startable n 3 (fun o => decide (o = 1)) with
  | some j =>
    let d := s.hBytes j.ridge (State.jh j 0)
    let sample := fieldAt j.desc 2 1
    if d.length % (planesOf sample * bpsOf sample) ≠ 0 then .next (s.coderFinish n j (coderFail 0x19))
    else .next (s.coderFinish n j
      (encodeRun (CState'.fresh 1 sample (fieldAt j.desc 4 4) d.length) d (hLen (State.jh j 1)) false))
  | none => .next s

/-- CODER_DECODE (R161). -/
def execCoderDecode (n : Nat) (s : State) : Res :=
  match s.startable n 3 (fun o => decide (o = 2)) with
  | some j =>
    .next (s.coderFinish n j
      (decodeRun (s.hBytes j.ridge (State.jh j 0)) (fieldAt j.desc 8 4) (hLen (State.jh j 1))))
  | none => .next s

/-- CODER_RESUME (R160). -/
def execCoderResume (n : Nat) (s : State) : Res :=
  match s.startable n 3 (fun o => decide (o = 3)) with
  | some j =>
    .next (s.coderFinish n j
      (resumeRun (s.rdBytes (s.hAddr j.ridge (State.jh j 2)) 4096) (s.hBytes j.ridge (State.jh j 0)) (hLen (State.jh j 1))))
  | none => .next s

end Sys2Proof.Machine
end

