-- ==== Sys2Proof/Machine/Pools.lean ====
section
/-! DEFINITION. Pools as this head runs them: accepting record groups (R229–R231, R322), slab assignment (R215, R253,
R255, R270–R272), the index as the library uses it (R137, R141), frames (R164, R165, R200, R201), long-operation
entries (R26–R31), page residency and copy-on-write (R175, R348). -/

namespace Sys2Proof.Machine

/-- The 64 MiB of a slab (R209). -/
def slabBytes : Nat := 0x4000000

namespace State

/-! ### Pools -/

def pool (s : State) (p : Nat) : Pool := { Tbl.getD s.pools p Pool.fresh with num := p }
def setPool (s : State) (p : Nat) (x : Pool) : State := { s with pools := Tbl.set s.pools p x }
def updPool (s : State) (p : Nat) (f : Pool → Pool) : State :=
  { s with pools := Tbl.upd s.pools p (fun x => f { x with num := p }) }
def owns (s : State) (p : Nat) : Bool := decide ((s.pool p).rel = .owner)

/-- Does the head run foreground library work: serving modes (R535)? -/
def serving (s : State) : Bool := decide (s.pwr.mode ∈ [5, 6, 7])

/-! ### Long-operation entries (R26–R31) -/

/-- The job of an entry ends with its operation: its climb exits. -/
def jobDone (s : State) (i : Nat) : State :=
  s.climbs.foldl (fun t (p : Nat × Climb) =>
    if p.2.origin = .job i ∧ p.2.state ≠ .free ∧ p.2.ended = .running then t.libEnd p.1 (.exit 0) else t) s

/-- A new operation takes an entry: its job runs in the ridge that its call names, else in the one with the most FREE climbs (R15). -/
def jobStart (s : State) (i typ pool : Nat) (ridge : Option Nat) : State :=
  let r := match ridge with
    | some r => some r
    | none => minBy (fun n => 1024 - s.freeClimbs n) ((List.range 8).filter s.ridgePresent)
  let s1 := { s.jobDone i with
    lopRetried := s.lopRetried.filter (fun j => decide (j ≠ i)), opsFailed := s.opsFailed.filter (fun o => decide (o ≠ (typ, pool))) }
  match r with
  | some r => s1.jobClimb i r
  | none => s1

/-- Has an operation stopped because its job FAILED (R68)? -/
def opFailed (s : State) (typ pool : Nat) : Bool := decide ((typ, pool) ∈ s.opsFailed)

/-- The item that shows a pool's shadow one of its LOP entries, sent with each update (R324). -/
def shadowLopSend (s : State) (i pool : Nat) : State :=
  let w := fun (k : Nat) => leBytes 8 (s.reg (0xF0000 + i * 0x20 + 8 * k)).toNat
  if s.streams pool then s.sendRope 0x06 false (shadowHead pool 0 40 ++ leBytes 1 i ++ zeros 7 ++ w 0 ++ w 1 ++ w 2 ++ w 3) else s

/-- The items that show a pool's shadow how far some landing units and segments are written (R324). -/
def shadowUnitSend (s : State) (p : Nat) (units : List Nat) : State :=
  if !s.streams p then s else
  units.foldl (fun t n => match Tbl.find (s.pool p).units n with
    | some u => t.sendRope 0x06 false (shadowHead p 1 8 ++ leBytes 4 n ++ leBytes 4 u.next)
    | none => t) s

def shadowSegSend (s : State) (p n : Nat) : State :=
  match s.streams p, Tbl.find (s.pool p).segs n with
  | true, some g => s.sendRope 0x06 false (shadowHead p 2 16 ++ leBytes 4 n ++ zeros 4 ++ leBytes 8 (g.rows * g.k * 4096))
  | _, _ => s

/-- Write an entry whole: STATE without GEN, then POSITION, TOTAL and START; GEN advances by two (R28). -/
def lopWrite (s : State) (i typ posUnit phase pool : Nat) (device : Bool) (done total : Nat) (position : Nat) (start : W64)
    (taken : Bool) : State :=
  let o := 0xF0000 + i * 0x20
  let w := s.lopWord i
  let pct := if phase = 3 then 10000 else if total = 0 then 0 else min 9999 (10000 * done / total)
  let gen := (bits w 32 16 + 2) % 2 ^ 16
  let v := 1 + typ * 2 + posUnit * 16 + phase * 32 + pool % 16 * 2 ^ 8 + b2n device * 2 ^ 12 + pct * 2 ^ 16 + gen * 2 ^ 32
  let s1 := (((s.setReg o (BitVec.ofNat 64 v)).setReg (o + 8) (BitVec.ofNat 64 position)).setReg (o + 0x10)
    (BitVec.ofNat 64 total)).setReg (o + 0x18) start
  let s1 := if phase ∈ [3, 4, 5] then { s1 with lopEnded := Tbl.set s1.lopEnded i s.stamp }.tick
            else { s1 with lopEnded := Tbl.del s1.lopEnded i }
  let s2 := if taken || decide (lopPhase w ≠ phase) then (s1.raise 0xF0800 (2 ^ i)).raise 0xF0808 (2 ^ i) else s1
  if device then s2 else s2.shadowLopSend i pool

/-- The entry of a pool's unfinished operation of a type. -/
def lopFind (s : State) (typ pool : Nat) : Option Nat :=
  (List.range 63).find? (fun i =>
    let w := s.lopWord i
    bit w 0 && decide (bits w 1 3 = typ) && decide (bits w 8 4 = pool) && !decide (lopPhase w ∈ [3, 4, 5]))

/-- The entry a new operation takes (R30). -/
def lopFree (s : State) : Nat :=
  match (List.range 63).find? (fun i => !bit (s.lopWord i) 0) with
  | some i => i
  | none =>
    ((minBy (fun i => Tbl.getD s.lopEnded i 0) ((List.range 63).filter (fun i => decide (lopPhase (s.lopWord i) ∈ [3, 4, 5])))).getD 0)

/-- Report a pool operation, taking an entry if it has none; an operation that FAILED reports nothing more (R68). `ridge` is the one that
its call names. -/
def lopReportIn (s : State) (ridge : Option Nat) (typ posUnit phase pool done total position : Nat) (start : W64) : State :=
  match s.lopFind typ pool with
  | some i =>
    let s1 := s.lopWrite i typ posUnit phase pool false done total position start false
    if phase ∈ [3, 4, 5] then s1.jobDone i else s1
  | none =>
    let i := s.lopFree
    (s.lopWrite i typ posUnit phase pool false done total position start true).jobStart i typ pool ridge

def lopReport (s : State) (typ posUnit phase pool done total position : Nat) (start : W64) : State :=
  if s.opFailed typ pool then s else s.lopReportIn none typ posUnit phase pool done total position start

/-- The entry of a stopped operation is released (R29). -/
def lopRelease (s : State) (typ pool : Nat) : State :=
  match s.lopFind typ pool with
  | some i =>
    let s1 := s.setReg (0xF0000 + i * 0x20) (BitVec.ofNat 64 ((bits (s.lopWord i) 32 16 + 2) % 2 ^ 16 * 2 ^ 32))
    (s1.shadowLopSend i pool).jobDone i
  | none => s

/-! ### The index as the library uses it (R137, R141) -/

/-- The ridge whose units serve the library's work outside any climb: the lowest present one (DESIGN CHOICE, log entry 80). -/
def libRidge (s : State) : Nat := ((List.range 8).find? s.ridgePresent).getD 0

/-- The pool's summary: base and log2 B, when an index is enabled for it in the lowest present ridge's table. -/
def summary (s : State) (p : Nat) : Option (Nat × Nat) :=
  let d := s.idxDesc s.libRidge p
  if d.1 && s.regBits (ridgeBlk s.libRidge 9) 0 48 ≠ 0 then some (d.2.1, d.2.2) else none

/-- Buckets of a pool's summary with OVERFLOW set. -/
def overCount (s : State) (p : Nat) : Nat :=
  match s.summary p with
  | some (b, l) => ((List.range (2 ^ l)).filter (fun k => s.overflow b k)).length
  | none => 0

/-- Probe through a ridge's IDX (R132, R137): the handle found. Where no summary stands yet, the index store alone answers. -/
def svcProbe (s : State) (r p : Nat) (digest : Bytes) (len : Nat) (summaryOnly : Bool) : State × Option Nat :=
  match s.summary p with
  | some (b, l) => let a := s.idxProbe r b l p digest len summaryOnly true; (a.1, a.2.found)
  | none => (s, (s.idxFind p digest len).map IdxEntry.handle)

/-- Insert a fingerprint; answers the handle that stood before it (EXISTED). -/
def svcInsert (s : State) (r p : Nat) (digest : Bytes) (len h : Nat) : State × Option Nat :=
  match s.summary p with
  | some (b, l) => s.idxInsert r b l p digest len h
  | none => match s.idxFind p digest len with
    | some e => (s, some e.handle)
    | none => (s.idxAppend r p { digest := digest, len := len, handle := h, tomb := false }, none)

/-- Remove a fingerprint of a handle. -/
def svcRemove (s : State) (r p : Nat) (digest : Bytes) (len h : Nat) : State :=
  match s.summary p with
  | some (b, l) => (s.idxRemove r b l p digest len h).1
  | none => match s.idxFind p digest len with
    | some e => if e.handle = h then s.idxAppend r p { e with tomb := true } else s
    | none => s

/-- Is a slab's assignment durable (R211)? -/
def slabReady (x : Pool) (sa : Nat) : Bool := decide ((x.slabUse sa).since ≤ x.durable)

/-- The REMOVEs of the dying list complete (R141). -/
def settleDying (s : State) (p : Nat) : State :=
  let x := s.pool p
  let s1 := x.dying.foldl (fun t h => t.svcRemove s.libRidge p (padTo 32 (Tbl.getD x.digests h [])) (x.rec' h).olen h) s
  s1.updPool p (fun q => { q with dying := [] })

/-! ### Slabs, raw capacity and width (R215, R253–R255, R270–R272) -/

/-- The modules of a pool that may take a new slab: present, not failed, not excluded by a reshape. -/
def usable (s : State) (p : Nat) : List Nat :=
  let x := s.pool p
  x.mods.filter (fun m => s.modUp m && !decide (m ∈ x.failed) && !decide (m ∈ x.excluded) && !decide (m ∈ (match x.reshape with | some r => r.exclude | none => [])))

/-- The assignable erased slabs of a module. -/
def erasedOn (x : Pool) (m : Nat) : List (Nat × SlabUse) :=
  x.uses.filter (fun q => decide (saMod q.1 = m) && q.2.erased && !q.2.retired && !q.2.spare)

/-- The erased slab of lowest wear on some modules; ties to the module with most erased slabs, then the lowest PORT and
TARGET (R253, R272). -/
def pickSlab (s : State) (p : Nat) (ms : List Nat) : Option Nat :=
  let x := s.pool p
  let cands := ms.flatMap (fun m => erasedOn x m)
  (minBy (fun q => q.2.wear * 2 ^ 80 + (2 ^ 32 - (erasedOn x (saMod q.1)).length) * 2 ^ 40 + q.1) cands).map Prod.fst

/-- The tags that the scan of R243 may read from a module: 16,384 for each member of an open segment, 4,096 for each slab of an open
landing unit, landing log or journal triple. -/
def tagLoad (x : Pool) (m : Nat) : Nat :=
  let on := fun (a : Nat) => b2n (decide (saMod a = m))
  16384 * sumBy (fun q => if q.2.state = 0 then sumBy (fun y => on y.slab) q.2.members else 0) x.segs
    + 4096 * (sumBy (fun q => if q.2.sealed then 0 else on q.2.a + on q.2.b) x.units + sumBy (fun q => on q.2.cur) x.logs
      + sumBy on (x.triple ++ x.nextTriple ++ x.triples.flatMap id))

/-- D of R271: domains with a usable module that holds an erased slab. -/
def domainsD (s : State) (p : Nat) : List Nat :=
  ((s.usable p).filter (fun m => !(erasedOn (s.pool p) m).isEmpty)).map domainOf |>.eraseDups

/-- K in force: a running reshape's, else the pool's. -/
def poolK (x : Pool) : Nat := match x.reshape with
  | some r => if r.newK = 0 then x.cfg.k else r.newK
  | none => x.cfg.k

/-- The write width (R271). -/
def writeWidth (s : State) (p : Nat) : Nat := min (poolK (s.pool p)) ((s.domainsD p).length - 2)

/-- The superblock set (R310): up to five modules in distinct domains, in the pool's module order. -/
def sbSet (x : Pool) : List Nat :=
  let firsts := x.mods.filter (fun m => decide ((x.mods.find? (fun y => decide (domainOf y = domainOf m))) = some m))
  if x.mods.length < 5 then x.mods else firsts.take 5

/-- Slabs counted in raw (R215, R255): those neither spare nor retired. -/
def rawSlabs (s : State) (p : Nat) : Nat :=
  let x := s.pool p
  sumBy (fun m => (s.modu m).ident.slabs) x.mods - (x.uses.filter (fun q => q.2.spare || q.2.retired)).length

/-- Slabs that hold a segment member, journal, checkpoint or superblock (R215). -/
def takenSlabs (s : State) (p : Nat) : Nat :=
  let x := s.pool p
  (x.uses.filter (fun q => decide (q.2.use ∈ [2, 3, 5]) && !q.2.retired)).length + 2 * (sbSet x).length

def freeSlabs (s : State) (p : Nat) : Nat := s.rawSlabs p - s.takenSlabs p

/-- The bivouac target in bytes (R215). -/
def bivTarget (s : State) (p : Nat) : Nat :=
  let raw := s.rawSlabs p * slabBytes
  let free := s.freeSlabs p * slabBytes
  min (max (free / 4) (raw / 200)) (raw * 8 / 100)

/-- Slabs the bivouac holds. -/
def bivSlabs (x : Pool) : Nat := (x.uses.filter (fun q => decide (q.2.use ∈ [0, 1, 4]))).length

/-- User data standing in the bivouac, in bytes: pages taken of its units. -/
def bivFill (x : Pool) : Nat := sumBy (fun u => u.2.next * 4096) x.units

/-! ### Record groups (R229–R231, R322) -/

/-- Put a group into the journal buffer in SEQ order (R231). -/
def insSeq (l : List Group) (g : Group) : List Group :=
  l.filter (fun y => decide (y.seq ≤ g.seq)) ++ [g] ++ l.filter (fun y => decide (g.seq < y.seq))

/-- A JOURNAL item of R315. -/
def journalItem (p kind bytes ref : Nat) (d : Bytes) : Bytes :=
  leBytes 1 p ++ leBytes 1 kind ++ zeros 2 ++ leBytes 4 bytes ++ leBytes 8 ref ++ d

/-- The ROPE unit accepts a group (R229): SEQ, the filled entries, the journal buffer (R231), the shadow stream (R322).
A host write (ORIGIN 0) is pending until it lands; every other group is applied at once. -/
def acceptGroup (s : State) (p origin : Nat) (es : List Bytes) (reserved : Option Nat) (ref : Nat) : State × Group :=
  let x := s.pool p
  let q := reserved.getD x.seq
  let g : Group := { seq := q, entries := fillGroup q x.epoch s.time (eBegin p origin :: es) }
  let x1 := { x with seq := if reserved.isSome then x.seq else x.seq + 1, jbuf := insSeq x.jbuf g }
  let x2 := if origin = 0 then { (x1.applyEarly g) with waiting := x1.waiting ++ [g] } else x1.applyGroup g
  let s1 := (s.setPool p x2).settleDying p
  let s2 := if s.streams p then
      (s1.sendRope 0x04 false (journalItem p 0 g.bytes.length ref g.bytes)).updPool p (fun y => { y with sentSeqs := y.sentSeqs ++ [q] })
    else s1
  let s3 := if s.rope.degraded then
      (s.pool p).relays.foldl (fun (t : State) m => { t with svc := Tbl.set t.svc (Tbl.next t.svc) (.relay p m g) }) s2
    else s2
  (s3, g)

/-! ### The fill state (R266) -/

/-- Modules of the pool that have a spare slab. -/
def sparedModules (x : Pool) : Nat := (x.mods.filter (fun m => x.uses.any (fun q => decide (saMod q.1 = m) && q.2.spare && !q.2.retired))).length

/-- The state that the free fraction and the spare reserves give: 0 NORMAL, 1 THROTTLED, 2 WRITE_PROTECTED. -/
def fillNext (old raw free spared : Nat) : Nat :=
  let byF := fun (o : Nat) => if 1000 * free < 15 * raw then 1 else if o = 1 ∧ 1000 * free < 20 * raw then 1 else 0
  if 1000 * free < 5 * raw ∨ spared = 0 then 2
  else if old = 2 then (if 1000 * free ≥ 10 * raw then byF 1 else 2)
  else byF old

/-- Evaluate the pool's state; a change is booked with the state, f in hundredths of a per cent, and the spared modules. -/
def evalFill (s : State) (p : Nat) : State :=
  let x := s.pool p
  let raw := s.rawSlabs p
  let free := s.freeSlabs p
  let n := fillNext x.fill raw free (sparedModules x)
  if raw = 0 ∨ n = x.fill then s
  else (s.setPool p { x with fill := n }).book 0x20 0x04B
    (leBytes 1 p ++ leBytes 1 n ++ leBytes 2 (10000 * free / raw) ++ leBytes 2 (sparedModules x))

/-- A group of the library; the fill state is evaluated at each SLAB entry (R266). -/
def submit (s : State) (p origin : Nat) (es : List Bytes) : State :=
  if es.isEmpty then s else
  let s1 := (s.acceptGroup p origin es none 0).1
  if es.any (fun e => decide (eTyp e = 0x0B)) then s1.evalFill p else s1

/-- A host-write group has landed (R217, R322): its other entries are applied and the LANDED mark is sent. -/
def landed (s : State) (p seq : Nat) : State :=
  match (s.pool p).waiting.find? (fun g => decide (g.seq = seq)) with
  | none => s
  | some g =>
    let s1 := (s.updPool p (fun x => { (x.applyLate g) with waiting := x.waiting.filter (fun y => decide (y.seq ≠ seq)) })).settleDying p
    if s.streams p then s1.sendRope 0x04 false (journalItem p 1 0 seq []) else s1

/-- A host-write group is cancelled: what it had applied is reversed (R232, R322). -/
def unland (s : State) (p seq : Nat) : State :=
  match (s.pool p).waiting.find? (fun g => decide (g.seq = seq)) with
  | none => s
  | some g => s.updPool p (fun x => { (x.reverseEarly g) with waiting := x.waiting.filter (fun y => decide (y.seq ≠ seq)) })

/-! ### Pages: residency and copy-on-write (R175, R348) -/

/-- A page that must be loaded before it is used. -/
def absentPage (s : State) (p mpn : Nat) : Bool :=
  let d := (s.pool p).dirE mpn
  d.present && !d.resident

/-- PAGE_LOAD_REQUEST (R175): the climb waits, PARKed, for the page. -/
def requestPage (s : State) (p mpn : Nat) (climb : Option Nat) : State :=
  let s1 := s.updPool p (fun x =>
    let d := x.dirE mpn
    x.setDir mpn { d with
      loading := true,
      waiters := match climb with | some c => if c ∈ d.waiters then d.waiters else d.waiters ++ [c] | none => d.waiters })
  match climb with
  | some c => if (s.climb c).state ≠ .free ∧ (s.climb c).state ≠ .parked ∧ (s.climb c).ended = .running then s1.libPark c else s1
  | none => s1

/-- The entries that come before a change of a page (R348), and the pool with EPOCH moved up where no snapshot needs it. -/
def cowPage (x : Pool) (pn mpn : Nat) : Pool × List Bytes :=
  let d := x.dirE mpn
  if !d.present then
    (x.setDir mpn { d with present := true, resident := true, dirty := true, epoch := x.snapEpoch % 65536 },
     [ePage pn mpn 0 (x.snapEpoch % 65536) 0])
  else
    let e := x.fullEpoch d.epoch
    if e < x.snapEpoch then
      if x.snaps.any (fun n => decide (e ≤ n.id) && decide (n.id < x.snapEpoch) && !n.deleting) then
        (x, [ePreserve pn mpn e (x.snapEpoch - 1)])
      else (x.setDir mpn { d with epoch := x.snapEpoch % 65536, dirty := true }, [])
    else (x.setDir mpn { d with dirty := true }, [])

/-- The key index of a namespace is about to change: a PRESERVE where a snapshot still needs it (R348). -/
def keyCow (x : Pool) (pn nsid : Nat) : List Bytes :=
  match Tbl.find x.nss nsid with
  | some n =>
    if n.kepoch < x.snapEpoch ∧ x.snaps.any (fun z => decide (n.kepoch ≤ z.id) && decide (z.id < x.snapEpoch) && !z.deleting) then
      [ePreserve pn (Pool.keyMpn pn nsid) n.kepoch (x.snapEpoch - 1)]
    else []
  | none => []

/-- A new page number of the pool (R173). -/
def mpnOf (pn idx : Nat) : Nat := pn * 2 ^ 44 + idx

/-! ### Lines -/

/-- The hold and extension pages that a changed line gives back or takes (R179, R181, R186): `l` before the map entries of
a group, `l'` after them. A second extension page follows the first in number. -/
def linePages (x : Pool) (pn ln : Nat) (l l' : Line) : Pool × List Bytes :=
  let e1 := if l'.holds.isEmpty && decide (l.holdMpn ≠ 0) then [ePage pn l.holdMpn 1 0 0] else []
  let mk := fun (m : Nat) => ePage pn m 0 (x.snapEpoch % 65536) 0
  let n := l'.runs.length
  if n > 12 ∧ l.extMpn = 0 then
    let m := mpnOf pn x.nextMpn
    ({ x with nextMpn := x.nextMpn + 2 },
     e1 ++ [mk m] ++ (if n > 267 then [mk (m + 1)] else []) ++ [eLine pn ln { l' with extMpn := m }])
  else if n ≤ 12 ∧ l.extMpn ≠ 0 then
    (x, e1 ++ [ePage pn l.extMpn 1 0 0] ++ (if l.runs.length > 267 then [ePage pn (l.extMpn + 1) 1 0 0] else [])
      ++ [eLine pn ln { l' with extMpn := 0 }])
  else
    (x, e1 ++ (if n > 267 ∧ l.runs.length ≤ 267 then [mk (l.extMpn + 1)]
      else if n ≤ 267 ∧ l.runs.length > 267 then [ePage pn (l.extMpn + 1) 1 0 0] else []))

/-- One copy fewer of an element. -/
def eraseOne (l : List Nat) (h : Nat) : List Nat := l.erase h

/-- REF entries for a change of references: what `new` names beyond `old` up, what `old` names beyond `new` down; the
handles of `fresh` start with one reference in their record (R137, R142). -/
def refDiff (pn : Nat) (old new fresh : List Nat) : List Bytes :=
  let up := fresh.foldl eraseOne (old.foldl eraseOne new)
  let down := new.foldl eraseOne old
  (up.eraseDups.map (fun h => eRef pn h true (up.count h))) ++ (down.eraseDups.map (fun h => eRef pn h false (down.count h)))

/-! ### Frames (R164, R165, R200, R201) -/

/-- Elements of `es` bytes in `w` ways gathered by way: the planar order of a DEINTERLEAVE (R165, R166). -/
def deinterleave (es w : Nat) (d : Bytes) : Bytes :=
  let n := d.length / (es * w)
  (List.range w).flatMap (fun k => (List.range n).flatMap (fun i => sliceAt d ((i * w + k) * es) es))

def interleave (es w : Nat) (d : Bytes) : Bytes :=
  let n := d.length / (es * w)
  (List.range n).flatMap (fun i => (List.range w).flatMap (fun k => sliceAt d ((k * n + i) * es) es))

/-- A raster profile of R208: sample byte of R152, planes × bytes per sample, WIDTH, interleaved. -/
def profSample (prof : Bytes) : Nat :=
  let f := fieldAt prof 0 1
  bits f 0 1 + (fieldAt prof 1 1 - 1) * 2 + bits f 2 1 * 8
def profUnit (prof : Bytes) : Nat := fieldAt prof 1 1 * (1 + bits (fieldAt prof 0 1) 0 1)

/-- Encode a new chunk (R156, R164, R165). -/
def encodeChunk (prof : Option Bytes) (d : Bytes) : Bytes :=
  match prof with
  | some q =>
    if d.length % profUnit q = 0 then
      let x := if bit (fieldAt q 0 1) 1 then deinterleave (1 + bits (fieldAt q 0 1) 0 1) (fieldAt q 1 1) d else d
      (encodeRun (CState'.fresh 1 (profSample q) (fieldAt q 4 4) x.length) x (x.length + 36) false).out
    else (encodeRun (CState'.fresh 0 0 0 d.length) d (d.length + 36) false).out
  | none => (encodeRun (CState'.fresh 0 0 0 d.length) d (d.length + 36) false).out

/-- Decode a frame into the bytes as the host wrote them: none when the coder ends with an error (R18, R161). -/
def decodeChunk (prof : Option Bytes) (f : Bytes) (olen : Nat) : Option Bytes :=
  let e := decodeRun f 0 olen
  if e.status = 0 ∧ e.out.length = olen then
    some (match prof with
      | some q =>
        if fieldAt f 3 1 = 2 ∧ bit (fieldAt q 0 1) 1 then interleave (1 + bits (fieldAt q 0 1) 0 1) (fieldAt q 1 1) e.out
        else if fieldAt f 3 1 = 0 ∧ bit (fieldAt q 0 1) 1 ∧ olen % profUnit q = 0 then
          interleave (1 + bits (fieldAt q 0 1) 0 1) (fieldAt q 1 1) e.out
        else e.out
      | none => e.out)
  else none

/-- Encrypt or decrypt a frame at a place (R200, R201). -/
def cryptFrame (s : State) (p : Nat) (enc : Bool) (loc : Nat) (f : Bytes) : Bytes :=
  xtsUnits enc (Tbl.getD s.keySlots p []) (s.freeBytes 16) (bits loc 0 32) (f.length / 4096 + 1) (bits loc 32 27 * 16) f

/-- A frame of MODE 0 (R176). -/
def plainFrame (d : Bytes) : Bytes :=
  frameHeader 0 d.length d.length 0 0 (crc32c d) 0 ++ d ++ leBytes 4 (crc32c d)

end State

end Sys2Proof.Machine
end

