-- ==== Sys2Proof/Machine/View.lean ====
section
/-! DEFINITION. The map as a namespace or a snapshot shows it (R350, R352, R365), and the raster profile under which a chunk was
stored (R164, R165). -/

namespace Sys2Proof.Machine

namespace State

/-! ### The map at a snapshot (R350) -/

/-- The preserved image that serves a page at a snapshot. -/
def imageAt (x : Pool) (mpn id : Nat) : Option Preserved :=
  match minBy (fun (m : Preserved) => m.high) (x.preserved.filter (fun m => decide (m.mpn % 2 ^ 44 = mpn % 2 ^ 44) && decide (id ≤ m.high))) with
  | some m => if m.low ≤ id then some m else none
  | none => none

/-- A pitch line as it stood at a snapshot; the live line with no snapshot named. -/
def lineAt (x : Pool) (snap : Option Nat) (ln : Nat) : Line :=
  match snap with
  | none => x.line ln
  | some id =>
    match imageAt x (ln / 16) id with
    | some m => Tbl.getD m.lines ln Line.fresh
    | none =>
      let d := x.dirE (ln / 16)
      if d.present ∧ x.fullEpoch d.epoch ≤ id then x.line ln else Line.fresh

/-- The object records of a namespace as they stood at a snapshot. -/
def objsAt (x : Pool) (nsid : Nat) (snap : Option Nat) : List Obj :=
  match snap, Tbl.find x.nss nsid with
  | none, some n => n.objs
  | some id, some n =>
    (match imageAt x (Pool.keyMpn 0 nsid) id with
     | some m => m.objs
     | none => if n.kepoch ≤ id ∧ n.born ≤ id then n.objs else [])
  | _, none => []

/-- The snapshot that a namespace presents, and the namespace whose map it reads. -/
def nsView (nsid : Nat) (n : Ns) : Option Nat × Nat :=
  match n.snap with
  | some (id, src) => (some id, src)
  | none => (none, nsid)

/-- The lines of a pool that a map page or a preserved image lists. -/
def allLines (x : Pool) (snap : Option Nat) : List Nat :=
  match snap with
  | none => x.lines.map Prod.fst
  | some _ => (x.preserved.foldl (fun (t : Tbl Line) m => m.lines.foldl (fun t q => Tbl.set t q.1 q.2) t) x.lines).map Prod.fst

/-- The map lines of a namespace: a block's range, or every object's pitches. -/
def nsLines (x : Pool) (nsid : Nat) (n : Ns) : List Nat :=
  let v := nsView nsid n
  if n.kind = 0 then (allLines x v.1).filter (fun ln => decide (n.base ≤ ln ∧ ln < n.base + n.size / 0x100000))
  else (objsAt x v.2 v.1).flatMap (fun o => (List.range (ceilDiv o.len 0x100000)).map (fun i => o.base + i))

/-- The raster profile under which a chunk was stored (R164, R165): the one its writer's namespace had; of a chunk that this head has
not stored itself, that of the first namespace that names it (log entry 81). -/
def profOf (x : Pool) (h : Nat) : Option Bytes :=
  match Tbl.find x.profs h with
  | some q => if q.isEmpty then none else some q
  | none =>
    match x.nss.find? (fun q => (nsLines x q.1 q.2).any (fun ln => decide (h ∈ Pool.lineRefs (lineAt x (nsView q.1 q.2).1 ln)))) with
    | some q => q.2.profile
    | none => none

end State

end Sys2Proof.Machine
end

