-- ==== Sys2Proof/Machine/Store.lean ====
section
/-! DEFINITION. Reading what a pool stores: the retry ladder and triggers (R245–R250, R254), failed modules (R285,
R286), segments and degraded reads (R221, R275, R287), frames and chunks (R18, R218, R278). -/

namespace Sys2Proof.Machine

/-- What the medium does to page reads: slab address, page, the ladder level that succeeds (8: none), corrected bits.
Pages that no entry names succeed at level 0 with none corrected, unless the medium has lost them. -/
abbrev Marks := List (Nat × Nat × Nat × Nat)

/-- A page as a climb sees it after the ladder. -/
inductive PageRd where
  | ok (bytes : Bytes)
  | erased
  | unreadable
  | away
  deriving DecidableEq, Repr

namespace State

/-- A record of the route library (R505); its climb's core is taken as core 0 of ridge 0 (log entry 32). -/
def libBook (s : State) (typ : Nat) (payload : Bytes) : State := s.book 0x00 typ payload

/-! ### Redundancy and failed modules (R285, R286) -/

/-- FULL, DEGRADED or CRITICAL (R286). -/
def redundancyOf (x : Pool) : Nat :=
  x.segs.foldl (fun r q => if q.2.state = 3 then r else max r (min 2 (notGood q.2))) 0

/-- A change of redundancy state writes a record. -/
def setRedundancy (s : State) (p : Nat) : State :=
  let x := s.pool p
  let r := redundancyOf x
  if r = x.redundancy then s else (s.updPool p (fun y => { y with redundancy := r })).libBook 0x10A (leBytes 1 p ++ leBytes 1 r)

/-- Groups of 64 segments for the MEMBER entries of a failed module. -/
def inGroups (s : State) (p origin : Nat) (n : Nat) : Nat → List Bytes → State
  | 0, _ => s
  | f + 1, l => if l.isEmpty then s else inGroups (s.submit p origin (l.take n)) p origin n f (l.drop n)

/-- The MEMBER entries that mark the members on a module FAILED (R285): one to each segment, so a group of 64 holds 64 segments. -/
def failEntries (x : Pool) (p m : Nat) : List Bytes :=
  (x.segs.filter (fun q => decide (q.2.state ≠ 3))).flatMap (fun q =>
    (List.range q.2.members.length).filterMap (fun i =>
      let a := (q.2.members.getD i { slab := 0, state := 0, rows := 0 }).slab
      if saMod a = m then some (eMember p q.1 i 1 0 0 a) else none))

/-- A module is failed (R285): the record, its members FAILED in groups of 64 segments, its segments in the rebuild queue. A rebuild that
had FAILED may start anew (R68, log entry 47). -/
def failModule (s : State) (p m : Nat) : State :=
  let x := s.pool p
  if decide (m ∈ x.failed) || !decide (m ∈ x.mods) then s else
  let hit := (x.segs.filter (fun q => decide (q.2.state ≠ 3) && decide (notGood q.2 = 0) && q.2.members.any (fun y => decide (saMod y.slab = m))))
  let again := s.opFailed 0 p
  let mark := fun (g : Seg) => { g with members := g.members.map (fun y =>
      if saMod y.slab = m then { y with state := 1, rows := 0 } else y) }
  let es := failEntries x p m
  let s0 := (s.libBook 0x109 (leBytes 1 p ++ leBytes 1 (m / 4) ++ leBytes 1 (m % 4))).inGroups p 6 64 (es.length + 1) es
  let s1 := { s0 with opsFailed := s0.opsFailed.filter (fun o => decide (o ≠ (0, p))) }
  let s2 := s1.updPool p (fun y => { y with
      failed := y.failed ++ [m],
      segs := y.segs.map (fun q => if q.2.state ≠ 3 then (q.1, mark q.2) else q),
      units := y.units.map (fun q => if saMod q.2.a = m ∨ saMod q.2.b = m then
        (q.1, { q.2 with front := true, lost := if q.2.lost ≠ 0 then q.2.lost else if saMod q.2.a = m then 1 else 2 }) else q),
      rebuild := { y.rebuild with total := y.rebuild.total + hit.length, running := y.rebuild.running && !again } })
  s2.setRedundancy p

/-- The pools that hold a module. -/
def poolsOf (s : State) (m : Nat) : List Nat := (s.pools.filter (fun q => decide (m ∈ q.2.mods))).map Prod.fst

/-- The pool that owns a module, if this head owns it. -/
def ownerOf (s : State) (m : Nat) : Option Nat := (s.poolsOf m).find? (fun p => s.owns p)

/-- Eight LENGTH endings within 60 s fail the module (R446). -/
def checkLengths (s : State) (m : Nat) : State :=
  if (s.recent (s.modu m).lengths 60000).length ≥ 8 then
    match s.ownerOf m with
    | some p => s.failModule p m
    | none => s
  else s

/-- A read of a module completed as unreadable, or not (R285). -/
def noteRead (s : State) (p sa : Nat) (unread : Bool) : State :=
  let m := saMod sa
  let x := s.modu m
  if unread then
    let l := (x.unreadable ++ [saSlab sa])
    let s1 := s.setModu m { x with unreadable := l }
    if l.length ≥ 16 ∧ l.eraseDups.length ≥ 4 then s1.failModule p m else s1
  else if x.unreadable.isEmpty then s else s.setModu m { x with unreadable := [] }

/-! ### Triggers (R248–R250) -/

/-- A segment joins the rewrite list once; those met by an unreadable page come first (R250). -/
def listRewrite (x : Pool) (n : Nat) (unread front : Bool) : Pool :=
  let y := x.updSeg n (fun g => { g with rewrite := true })
  if front then { y with rewrite := (n, true) :: y.rewrite.filter (fun q => decide (q.1 ≠ n)) }
  else if y.rewrite.any (fun q => decide (q.1 = n)) then
    { y with rewrite := y.rewrite.map (fun q => if q.1 = n then (n, q.2 || unread) else q) }
  else { y with rewrite := y.rewrite ++ [(n, unread)] }

/-- Assign a fresh journal triple (R233): three modules in distinct domains, and in distinct groups as far as they go. -/
def pickTriple (s : State) (p : Nat) : List Nat :=
  let ms := (s.usable p).filter (fun m => !(erasedOn (s.pool p) m).isEmpty)
  let groups := (ms.map groupOf).eraseDups
  let step := fun (l : List Nat) (spread : Bool) =>
    let ok := ms.filter (fun m => !(l.map (fun a => domainOf (saMod a))).contains (domainOf m)
        && (!spread || !(l.map (fun a => groupOf (saMod a))).contains (groupOf m)))
    match s.pickSlab p ok with
    | some a => l ++ [a]
    | none => l
  let a := step [] false
  let b := step a true
  let b := if b.length = a.length then step a false else b
  let c := step b (decide (groups.length ≥ 3))
  if c.length = b.length then step b false else c

/-- The next triple is assigned by SLAB entries (R233); the journal stays on the present one until they are durable (R211). -/
def assignTriple (s : State) (p : Nat) : State :=
  if !(s.pool p).nextTriple.isEmpty then s else
  let l := s.pickTriple p
  if l.length < 3 then s else
  let ser := (s.pool p).nextSerial
  (s.submit p 4 (l.map (fun a => eSlab p a 3 0 ser))).updPool p (fun x => { x with nextTriple := l })

/-- The journal is to leave its present triple (R249, R254). -/
def newTriple (s : State) (p : Nat) : State := (s.assignTriple p).updPool p (fun x => { x with jclose := true })

/-- The assigned triple becomes the current one once its SLAB entries are durable (R211, R233). -/
def turnTriple (x : Pool) : Pool :=
  if x.nextTriple.length < 3 ∨ !(x.nextTriple.all (fun a => slabReady x a)) then x
  else { x with triples := if x.triple.isEmpty then x.triples else x.triples ++ [x.triple],
                triple := x.nextTriple, nextTriple := [], jclose := false, jpage := 0 }

/-- A landing log of a module that takes new slabs: its current slab and one spare (R232, R300). -/
def needLog (s : State) (p m : Nat) : State :=
  let x := s.pool p
  if !decide (m ∈ s.usable p) then s else
  match Tbl.find x.logs m with
  | some l =>
    if l.spare.isSome then s else
    match s.pickSlab p [m] with
    | some a => s.submit p 4 [eSlab p a 4 0 x.nextSerial]
    | none => s
  | none =>
    match s.pickSlab p [m] with
    | none => s
    | some a =>
      let s1 := s.submit p 4 [eSlab p a 4 0 x.nextSerial]
      match s1.pickSlab p [m] with
      | some b => s1.submit p 4 [eSlab p b 4 0 (x.nextSerial + 1)]
      | none => s1

/-- The spare of a landing log becomes current (R232, R442); the old slab is freed after its erase where every group in it is durable,
else it is kept until then. -/
def switchLog (s : State) (p m : Nat) (freeOld : Bool) : State :=
  match Tbl.find (s.pool p).logs m with
  | none => s
  | some l =>
    match l.spare with
    | none => s
    | some a =>
      let s1 := s.updPool p (fun x => { x with logs := Tbl.set x.logs m {
        cur := a, spare := none, seqs := [], olds := if freeOld then l.olds else l.olds ++ [(l.cur, l.seqs)] } })
      let s2 := if freeOld then { s1 with svc := Tbl.set s1.svc (Tbl.next s1.svc) (.erase p l.cur) } else s1
      s2.needLog p m

/-- The action of R249 for a triggered slab, by its use. -/
def triggerAct (s : State) (p sa : Nat) (unread : Bool) : State :=
  let u := (s.pool p).slabUse sa
  match u.use with
  | 0 | 1 => s.updPool p (fun x => x.updUnit u.owner (fun y => { y with front := true, lost := if unread ∧ y.lost = 0 then u.use + 1 else y.lost }))
  | 2 => s.updPool p (fun x => listRewrite x u.owner unread false)
  | 3 => s.newTriple p
  | 4 => s.switchLog p (saMod sa) false
  | 5 => s.updPool p (fun x => { x with ckpt := { x.ckpt with flushed := 2 ^ 30 } })
  | _ => s

/-- SLAB_TRIGGER (R248, R249): the HEALTH entry and the action. Reasons: 0 corrected bits, 1 level, 2 unreadable. -/
def trigger (s : State) (p sa reason value : Nat) : State :=
  if !s.owns p then s else
  let u := (s.pool p).slabUse sa
  (s.submit p 9 [eHealth p sa 0 reason u.wear value]).triggerAct p sa (decide (reason = 2))

/-! ### The retry ladder (R245, R246) -/

/-- The offset set of a ladder level. -/
def ladderSet (remembered level : Nat) : Nat := if level ≤ 1 then remembered else if level = 2 then 0 else level - 2

/-- Is a level of the ladder read (R245)? One whose set equals that of the level before is skipped. -/
def levelRead (remembered level : Nat) : Bool :=
  decide (level = 0) || decide (ladderSet remembered level ≠ ladderSet remembered (level - 1))

/-- The levels that a read climbs, up to the one that succeeds: the first that is read from `level` on; 8 where none is. -/
def climbLevels (remembered level : Nat) : List Nat × Nat :=
  let l := (List.range 8).filter (levelRead remembered)
  match l.find? (fun i => decide (level ≤ i)) with
  | some e => (l.filter (fun i => decide (i ≤ e)), e)
  | none => (l, 8)

/-- Read one page through the ladder: what a climb gets, with remembered sets, triggers and a Read Page counted for each level that is
read. -/
def readPg (s : State) (p sa page : Nat) (marks : Marks) : PageRd × State :=
  let m := saMod sa
  if !s.modUp m || decide (m ∈ (s.pool p).failed) then (.away, s) else
  let u := (s.pool p).slabUse sa
  let (asked, corr) := match marks.find? (fun k => decide (k.1 = sa ∧ k.2.1 = page)) with
    | some k => (k.2.2.1, k.2.2.2)
    | none => (0, 0)
  let (levels, lvl) := climbLevels u.remembered asked
  match Tbl.find (s.mslab sa).pages page with
  | none => (.erased, s.mpcCount (m / 4) 4160 0)
  | some f =>
    if f.bad || !pageOk f.bytes || decide (lvl ≥ 8) then
      let all := ((List.range 8).filter (levelRead u.remembered)).length
      let t := (List.range all).foldl (fun t _ => t.mpcCount (m / 4) (if f.bad || decide (lvl ≥ 8) then 0 else 4160) 0) s
      ((.unreadable), (t.noteRead p sa true).trigger p sa 2 0)
    else
      let set := ladderSet u.remembered lvl
      let t := ((levels.drop 1).foldl (fun t _ => t.mpcCount (m / 4) 0 0) s).mpcCount (m / 4) 4160 0
      let s1 := t.noteRead p sa false
      let s2 := if set ≠ u.remembered ∧ s1.owns p then
          ((s1.submit p 9 [eHealth p sa 3 1 u.wear set]).setMslab sa { s1.mslab sa with oset := set }).mpcCount (m / 4) 0 0
        else s1
      let cap := (s.modu m).ident.cwCorrect
      let s3 := if lvl ≥ 3 then s2.trigger p sa 1 lvl
        else if corr * 100 > cap * 60 then s2.trigger p sa 0 corr else s2
      (.ok f.bytes, s3)

/-! ### Segments (R221) -/

def segK (g : Seg) : Nat := g.k
/-- Where data byte `d` of a segment lies: member, row, page. -/
def segMember (k d : Nat) : Nat := d / 65536 % k
def segRow (k d : Nat) : Nat := d / (k * 65536)
def segPageOf (k d : Nat) : Nat := 16 * segRow k d + d % 65536 / 4096

/-- Is a member's strip of a row usable directly? -/
def memberOk (s : State) (p : Nat) (g : Seg) (i row : Nat) : Bool :=
  match g.members[i]? with
  | none => false
  | some m => decide (m.state = 0 ∨ (m.state = 2 ∧ row < m.rows)) && s.modUp (saMod m.slab)
      && !decide (saMod m.slab ∈ (s.pool p).failed) && !g.judged.contains (row, i)

/-- One page of one member, directly: its 4,096 bytes. -/
def memberPage (s : State) (p : Nat) (g : Seg) (i page : Nat) (marks : Marks) : PageRd × State :=
  match g.members[i]? with
  | none => (.away, s)
  | some m => s.readPg p m.slab page marks

/-- The pages of members read directly, with those that could not be. -/
def gather (p : Nat) (g : Seg) (page : Nat) (marks : Marks) (erase : List (Nat × Nat)) :
    List Nat → State → List (Nat × Bytes) × State
  | [], s => ([], s)
  | i :: l, s =>
    if erase.contains (page / 16, i) || !s.memberOk p g i (page / 16) then gather p g page marks erase l s else
    match s.memberPage p g i page marks with
    | (.ok b, s1) => let r := gather p g page marks erase l s1; ((i, pageData b) :: r.1, r.2)
    | (_, s1) => gather p g page marks erase l s1

/-- A page of the members for a degraded read (R287): the data members and P, then Q where fewer than k of them could be read. -/
def gatherRow (p : Nat) (g : Seg) (page : Nat) (marks : Marks) (erase : List (Nat × Nat)) (s : State) : List (Nat × Bytes) × State :=
  let r := gather p g page marks erase (List.range (g.k + 1)) s
  if r.1.length ≥ g.k then r else
  let q := gather p g page marks erase [g.k + 1] r.2
  (r.1 ++ q.1, q.2)

/-- One page of one member, reconstructed from the others when it must be (R275, R287): none beyond two erasures, in a
lost row, or in a row that was never written (R224). -/
def segPage (s : State) (p n i page : Nat) (marks : Marks) (erase : List (Nat × Nat)) : Option Bytes × State :=
  match Tbl.find (s.pool p).segs n with
  | none => (none, s)
  | some g =>
    let row := page / 16
    if row ≥ g.rows then (none, s) else
    let direct := if erase.contains (row, i) || !s.memberOk p g i row then (PageRd.away, s) else s.memberPage p g i page marks
    match direct with
    | (.ok b, s1) => (some (pageData b), s1)
    | (_, s1) =>
      if row ∈ g.lostRows then (none, s1) else
      let r := gatherRow p g page marks ((row, i) :: erase) s1
      let have' := r.1
      let gone := (List.range (g.k + 2)).filter (fun j => !(have'.any (fun q => decide (q.1 = j))))
      if gone.length > 2 then (none, r.2) else
      let get := fun j => match have'.find? (fun q => decide (q.1 = j)) with | some q => q.2 | none => zeros 4096
      let all := recoverAll 4096 ((List.range g.k).map get) (get g.k) (get (g.k + 1)) gone
      (some (all.getD i []), r.2)

/-- Data bytes [off, off + len) of a segment, page by page. -/
def segBytes (p n : Nat) (marks : Marks) (erase : List (Nat × Nat)) (k : Nat) : Nat → Nat → Nat → State → Option Bytes × State
  | 0, _, _, s => (some [], s)
  | f + 1, off, len, s =>
    if len = 0 then (some [], s) else
    let c := min len (4096 - off % 4096)
    match s.segPage p n (segMember k off) (segPageOf k off) marks erase with
    | (none, s1) => (none, s1)
    | (some b, s1) =>
      let r := segBytes p n marks erase k f (off + c) (len - c) s1
      (r.1.map (fun t => sliceAt b (off % 4096) c ++ t), r.2)

/-! ### Frames and chunks -/

/-- A frame in the bivouac, page by page, from one copy, and from the other where a page of the first is unreadable (R218). -/
def landBytes (p a b : Nat) (marks : Marks) : Nat → Nat → State → Option Bytes × State
  | 0, _, s => (some [], s)
  | f + 1, page, s =>
    let ra := s.readPg p a page marks
    let rb := match ra.1 with
      | .ok x => (some x, ra.2)
      | _ => match ra.2.readPg p b page marks with
        | (.ok x, s2) => (some x, s2)
        | (_, s2) => (none, s2)
    match rb.1 with
    | none => (none, rb.2)
    | some x =>
      let r := landBytes p a b marks f (page + 1) rb.2
      (r.1.map (fun t => pageData x ++ t), r.2)

/-- The k of a segment, 1 when it is unknown. -/
def kOfSeg (x : Pool) (n : Nat) : Nat := match Tbl.find x.segs n with
  | some g => max 1 g.k
  | none => 1

/-- The encrypted frame of a record, with some strips taken as erased. -/
def readFrame (s : State) (p : Nat) (r : CRec) (marks : Marks) (erase : List (Nat × Nat)) : Option Bytes × State :=
  if r.biv then
    match Tbl.find (s.pool p).units r.seg with
    | none => (none, s)
    | some u =>
      let (c, d) := if u.lost = 1 then (u.b, u.a) else (u.a, u.b)
      let q := landBytes p c d marks (ceilDiv r.flen 4096) (r.off / 4096) s
      (q.1.map (List.take r.flen), q.2)
  else segBytes p r.seg marks erase (kOfSeg (s.pool p) r.seg) (r.flen / 4096 + 2) r.off r.flen s

/-- Decrypt and decode a frame of a record (R200, R18). -/
def openFrame (s : State) (p : Nat) (prof : Option Bytes) (r : CRec) (f : Bytes) : Option Bytes :=
  decodeChunk prof (s.cryptFrame p false r.loc f) r.olen

/-- The trials of R278 for one strip: it alone, with P, then with each other member. -/
def trialsFor (k row i : Nat) : List (List (Nat × Nat)) :=
  [(row, i)] :: [(row, i), (row, k)] :: ((List.range (k + 2)).filter (fun j => decide (j ≠ i ∧ j ≠ k))).map (fun j => [(row, i), (row, j)])

/-- The strips of a frame as row and member. -/
def stripsOf (k off len : Nat) : List (Nat × Nat) :=
  (List.range (len / 65536 + 2)).filterMap (fun j =>
    let d := (off / 65536 + j) * 65536
    if d < off + len then some (segRow k d, segMember k d) else none)

/-- The first trial whose result verifies. -/
def runTrials (p : Nat) (prof : Option Bytes) (r : CRec) (marks : Marks) (ok : Bytes → Bool) : List (List (Nat × Nat)) → State → Option Bytes × State
  | [], s => (none, s)
  | t :: l, s =>
    match s.readFrame p r marks t with
    | (some f, s1) =>
      match s1.openFrame p prof r f with
      | some d => if ok d then (some d, s1) else runTrials p prof r marks ok l s1
      | none => runTrials p prof r marks ok l s1
    | (none, s1) => runTrials p prof r marks ok l s1

/-- A chunk's original, verified by the coder frame and by `ok` (R18): none where nothing verifies; a reconstruction schedules a
rewrite, a failure is booked with the handle. A LOST chunk attempts no reconstruction (R296). -/
def readGood (s : State) (p : Nat) (prof : Option Bytes) (h : Nat) (marks : Marks) (ok : Bytes → Bool) : Option Bytes × State :=
  let r := (s.pool p).rec' h
  if !r.valid then (none, s)
  else if r.lost then (none, s) else
  let a := s.readFrame p r marks []
  let good := match a.1 with
    | some f => (a.2.openFrame p prof r f).filter ok
    | none => none
  match good with
  | some d => (some d, a.2)
  | none =>
    let k := kOfSeg (s.pool p) r.seg
    let b := if r.biv then (none, a.2)
      else runTrials p prof r marks ok ((stripsOf k r.off r.flen).flatMap (fun q => trialsFor k q.1 q.2)) a.2
    match b.1 with
    | some d => (some d, b.2.updPool p (fun x => listRewrite x r.seg true false))
    | none => (none, b.2.libBook 0x10D (leBytes 6 h))

/-- A data chunk's original, as the host wrote it: put back in order under the profile with which it was stored (R165). -/
def readChunk (s : State) (p h : Nat) (marks : Marks) : Option Bytes × State :=
  s.readGood p (profOf (s.pool p) h) h marks (fun _ => true)

/-- A map page's original of 4,100 bytes, its CRC-32C verified, rebuilt from parity where it must be (R18, R176). -/
def readMeta (s : State) (p h : Nat) (marks : Marks) : Option Bytes × State := s.readGood p none h marks metaOk

end State

end Sys2Proof.Machine
end

