-- ==== Sys2Proof/Machine/Wire.lean ====
section
/-! DEFINITION. The messages of a replication pair (R357, R358), and the acknowledgement of an applied item (R360). -/

namespace Sys2Proof.Machine

/-- A message: its 32-byte header and the body. -/
def replMsg (typ pair round item : Nat) (body : Bytes) : Bytes :=
  let h := leBytes 2 0x5E1A ++ leBytes 1 typ ++ [0] ++ leBytes 4 body.length ++ leBytes 4 pair ++ leBytes 4 round ++ leBytes 8 item
    ++ leBytes 4 (crc32c body)
  h ++ leBytes 4 (crc32c h) ++ body

namespace State

def pairOf (s : State) (p n : Nat) : Option RPair := Tbl.find (s.pool p).pairs n
def updPair (s : State) (p n : Nat) (f : RPair → RPair) : State := s.updPool p (fun x => { x with pairs := Tbl.upd x.pairs n f })

/-- The pair id that a message carries: the source's. -/
def wireId (n : Nat) (r : RPair) : Nat := if r.source then n else r.peerId

/-- Send a message on a pair's connection, if it is up. -/
def sendRepl (s : State) (p n typ item : Nat) (body : Bytes) : State :=
  match s.pairOf p n with
  | some r => if r.connected then s.emit (.repl p n (replMsg typ (wireId n r) r.round item body)) else s
  | none => s

/-- The highest item of the round with every earlier one applied (R358, HELLO_ACK). -/
def appliedTo (r : RPair) : Nat :=
  match (r.work.filter (fun q => decide (q.1 ≤ r.applied))) with
  | q :: _ => q.1 - 1
  | [] => r.applied

/-- The group of an item has landed: APPLIED (R360). -/
def itemApplied (s : State) (p n item : Nat) : State :=
  (s.updPair p n (fun r => { r with applied := max r.applied item, work := Tbl.del r.work item })).sendRepl p n 6 item []

end State

end Sys2Proof.Machine
end

