-- ==== Sys2Proof/Machine/Landing.lean ====
section
/-! DEFINITION. Landing a write (R16, R17, R137–R142, R212–R220, R232), the flushed journal (R233), erases and
retirement (R239, R240, R252, R254, R255), and the ends of every program the library has in flight. -/

namespace Sys2Proof.Machine

namespace State

/-! ### Tags (R212) -/

def mkTag (kind pool flags seg page member epoch seq : Nat) (time : W64) (handle aux len : Nat) : Bytes :=
  leBytes 1 1 ++ leBytes 1 kind ++ leBytes 1 pool ++ leBytes 1 flags ++ leBytes 4 seg ++ leBytes 2 page ++ leBytes 1 member ++ [0]
    ++ leBytes 4 epoch ++ leBytes 8 seq ++ leBytes 8 time.toNat ++ leBytes 6 handle ++ leBytes 2 aux ++ leBytes 4 len

/-! ### Library work in flight -/

def addSvc (s : State) (w : Svc) : State := { s with svc := Tbl.set s.svc (Tbl.next s.svc) w }
def addSvcs (s : State) (l : List Svc) : State := l.foldl addSvc s
/-! ### Landing units and logs (R214, R216, R219, R232) -/

/-- Usable open units of a ridge. -/
def openUnits (x : Pool) (ridge : Nat) : List (Nat × LUnit) :=
  x.units.filter (fun q => !q.2.sealed && decide (q.2.ridge = ridge))

def unitReady (x : Pool) (u : LUnit) : Bool :=
  slabReady x u.a && slabReady x u.b && [saMod u.a, saMod u.b].all (fun m =>
    match Tbl.find x.logs m with
    | some l => slabReady x l.cur
    | none => false)

/-- The number of the next landing unit (R214, R240): increasing, and once all have been used the lowest whose slabs are erased. -/
def unitNo (x : Pool) : Nat :=
  if x.nextUnit ≤ 0xFFFFFFFE then x.nextUnit
  else ((List.range (x.units.length + 1)).find? (fun i => (Tbl.find x.units i).isNone)).getD 0xFFFFFFFE

/-- The bivouac takes two erased slabs as a unit, on modules that share no expander, with landing logs, where the tag scan has room
for it (R214, R215, R243); none where no slab is free. -/
def takeUnit (s : State) (p : Nat) : Option State :=
  let ms := (s.usable p).filter (fun m => decide (tagLoad (s.pool p) m + 4096 ≤ 131072))
  match s.pickSlab p ms with
  | none => none
  | some a =>
    match s.pickSlab p (ms.filter (fun m => decide (domainOf m ≠ domainOf (saMod a)))) with
    | none => none
    | some b =>
      let u := unitNo (s.pool p)
      let s1 := s.submit p 4 [eSlab p a 0 0 u, eSlab p b 1 0 u]
      some ((s1.needLog p (saMod a)).needLog p (saMod b))

/-- The bivouac takes erased slabs until its slabs reach the target (R215). -/
def fillBivouac (p : Nat) : Nat → State → State
  | 0, s => s
  | f + 1, s =>
    let x := s.pool p
    if (bivSlabs x + 2) * slabBytes > x.bivGoal then s else
    match s.takeUnit p with
    | some t => fillBivouac p f t
    | none => s

/-- A ridge opens one of the bivouac's units (R216, R219): at most two stay open for it; nothing while no unit is ready. -/
def openUnit (s : State) (p ridge : Nat) : State :=
  let x := s.pool p
  if (openUnits x ridge).length ≥ 2 then s else
  match x.units.find? (fun q => !q.2.sealed && decide (q.2.ridge = 0xFF) && decide (q.2.lost = 0) && unitReady x q.2) with
  | some q => s.updPool p (fun y => y.updUnit q.1 (fun u => { u with ridge := ridge }))
  | none => s

/-- SEAL a landing unit (R216). -/
def sealUnit (s : State) (p u : Nat) : State := s.submit p 4 [eSeal p u 0 0 0]

/-- The pages and tags of one encrypted frame in a unit. -/
def framePages (p epoch seq : Nat) (time : W64) (unit first : Nat) (copyB : Bool) (h : Nat) (f : Bytes) : List Bytes :=
  let n := ceilDiv f.length 4096
  (List.range n).map (fun i => sealPage (sliceAt f (4096 * i) 4096)
    (mkTag 1 p (b2n (decide (i = 0)) + 2 * b2n (decide (i + 1 = n)) + 4 * b2n copyB) unit (first + i) 0 epoch seq time h i f.length))

/-- Cut pages into programs of at most 16 (R216). -/
def programs (p cmd sa first : Nat) (retry : Bool) : Nat → List Bytes → List Svc
  | 0, _ => []
  | f + 1, l => if l.isEmpty then [] else .land p cmd sa first (l.take 16) retry :: programs p cmd sa (first + 16) retry f (l.drop 16)

/-- The open unit of a ridge that takes a frame of `n` pages (R216): one that the frame does not fit in is sealed, and the frame
continues in another. -/
def unitFor (p ridge n : Nat) : Nat → State → State × Option (Nat × LUnit)
  | 0, s => (s, none)
  | f + 1, s =>
    let ready := fun (t : State) => (openUnits (t.pool p) ridge).find? (fun q => unitReady (t.pool p) q.2)
    match ready s with
    | some (u, w) => if w.next + n ≤ 4096 then (s, some (u, w)) else unitFor p ridge n f (s.sealUnit p u)
    | none =>
      let s1 := s.openUnit p ridge
      if (ready s1).isSome then unitFor p ridge n f s1 else (s, none)

/-- Place the fresh chunks of a write in open units of a ridge: the items with their LOC, the programs, the units used;
none where no unit can take them. -/
def placeItems (p cmd ridge seq : Nat) (retry : Bool) : List WItem → State → State × Option (List WItem × List Svc × List Nat)
  | [], s => (s, some ([], [], []))
  | it :: rest, s =>
    if !it.fresh then
      let r := placeItems p cmd ridge seq retry rest s
      (r.1, r.2.map (fun z => (it :: z.1, z.2.1, z.2.2)))
    else
      let n := ceilDiv it.frame.length 4096
      match unitFor p ridge n (2 * ((s.pool p).units.length + 2)) s with
      | (s0, none) => (s0, none)
      | (s0, some (u, w)) =>
        let loc := mkLoc u (256 * w.next) true
        let f := s0.cryptFrame p true loc it.frame
        let e := (s0.pool p).epoch
        let pa := framePages p e seq s0.time u w.next false it.handle f
        let pb := framePages p e seq s0.time u w.next true it.handle f
        let s1 := s0.updPool p (fun y => y.updUnit u (fun z => { z with next := z.next + n }))
        let r := placeItems p cmd ridge seq retry rest s1
        (r.1, r.2.map (fun z =>
          ({ it with loc := loc } :: z.1,
           programs p cmd w.a w.next retry (n + 1) pa ++ programs p cmd w.b w.next retry (n + 1) pb ++ z.2.1,
           if u ∈ z.2.2 then z.2.2 else u :: z.2.2)))

/-- The units that an attempt to place has sealed stay sealed in `before`; nothing else of the attempt is kept. -/
def keepSeals (before after : State) (p : Nat) : State :=
  ((before.pool p).units.filter (fun q => !q.2.sealed && (match Tbl.find (after.pool p).units q.1 with | some u => u.sealed | none => false))).foldl
    (fun t q => t.sealUnit p q.1) before

/-- Several lists of items, each under the next SEQ (R212): a checkpoint's META chunks, one list for each of its groups. -/
def placeLists (p cmd ridge : Nat) : Nat → List (List WItem) → State → State × Option (List WItem × List Svc × List Nat)
  | _, [], s => (s, some ([], [], []))
  | seq, l :: rest, s =>
    match placeItems p cmd ridge seq false l s with
    | (s1, none) => (s1, none)
    | (s1, some a) =>
      match placeLists p cmd ridge (seq + 1) rest s1 with
      | (s2, none) => (s2, none)
      | (s2, some b) => (s2, some (a.1 ++ b.1, a.2.1 ++ b.2.1, (a.2.2 ++ b.2.2).eraseDups))

/-- The items of a checkpoint by group: 500 to each. -/
def metaLists : Nat → List WItem → List (List WItem)
  | 0, _ => []
  | f + 1, l => if l.isEmpty then [] else l.take 500 :: metaLists f (l.drop 500)

/-- The modules of some units. -/
def unitMods (x : Pool) (l : List Nat) : List Nat :=
  (l.flatMap (fun u => match Tbl.find x.units u with | some w => [saMod w.a, saMod w.b] | none => [])).eraseDups

/-- The ridge a write's unit belongs to: its climb's. -/
def cmdRidge (s : State) (n : Nat) : Nat :=
  match Tbl.find s.host.cmds n with
  | some c => match c.climb with
    | some k => k / 1024
    | none => match Tbl.find s.host.queues c.queue with
      | some q => q.ridge
      | none => 0
  | none => ((List.range 8).find? (fun r => s.ridgePresent r)).getD 0

/-! ### The record group of a write (R137–R142, R227) -/

/-- ORIGIN_REF of a command (R315). -/
def originRef (s : State) (n : Nat) : Nat :=
  match Tbl.find s.host.cmds n with
  | some c =>
    match c.fwd with
    | some id => id % 2 ^ 63 + 2 ^ 63
    | none => match Tbl.find s.host.queues c.queue with
      | some q => c.cap.cid % 2 ^ 16 + q.qid % 2 ^ 16 * 2 ^ 16 + q.cntlid % 2 ^ 16 * 2 ^ 32
      | none => 0
  | none => 0

/-- Can a reference be taken on a chunk (R140, R296)? -/
def refTakable (x : Pool) (h : Nat) : Bool :=
  let r := x.rec' h
  r.live && decide (1 ≤ r.cnt) && decide (r.cnt ≤ 1048574) && !r.lost

/-- The INSERTs of a write's fresh chunks, once its programs have completed (R137 step 3): the items with the handles
that their places will hold, and the chunks whose own copy goes unused. -/
def insertItems (r' p : Nat) : List WItem → List (Nat × Nat) → State → State × List WItem × List WItem
  | [], _, s => (s, [], [])
  | it0 :: rest, sw, s =>
    let it := match sw.find? (fun q => decide (q.1 = it0.handle)) with
      | some q => { it0 with handle := q.2, fresh := false }
      | none => it0
    if !it.fresh || it.alone || !(s.pool p).cfg.dedup then
      let r := insertItems r' p rest sw s
      (r.1, it :: r.2.1, r.2.2)
    else
      match s.svcInsert r' p it.digest it.olen it.handle with
      | (s1, none) => let r := insertItems r' p rest sw s1; (r.1, it :: r.2.1, r.2.2)
      | (s1, some h) =>
        let x := s1.pool p
        if refTakable x h then
          let r := insertItems r' p rest ((it.handle, h) :: sw) s1
          (r.1, { it with handle := h, fresh := false } :: r.2.1, it :: r.2.2)
        else
          let s2 := if (x.rec' h).cnt = 0xFFFFF then ((s1.svcRemove r' p it.digest it.olen h).svcInsert r' p it.digest it.olen it.handle).1 else s1
          let r := insertItems r' p rest sw s2
          (r.1, it :: r.2.1, r.2.2)

/-- What an item displaces in the current line: the handles it counts down (R142, R185). -/
def displaced (x : Pool) (it : WItem) : List Nat :=
  let l := x.line it.line
  let hold := fun (i : Nat) => match Tbl.find l.holds i with
    | some h => if h.zero then [] else [h.handle]
    | none => []
  match it.form with
  | 0 | 3 => hold it.pos.toNat
  | 2 => []
  | _ =>
    let c := match Tbl.find (Pool.cellsOf l) it.pos.toNat with | some h => [h] | none => []
    c ++ (List.range 4).flatMap (fun i => hold (4 * it.pos.toNat + i))

/-- How many runs two lists share at their front. -/
def sameRuns : List Run → List Run → Nat
  | a :: l, b :: m => if a = b then sameRuns l m + 1 else 0
  | _, _ => 0

/-- The MAP entries that turn the runs of a line into others, each by the slot at which it acts (R227): what differs between the
common front and the common end is replaced, then inserted or removed. -/
def runDiff (pn ln : Nat) (old new : List Run) : List Bytes :=
  let a := sameRuns old new
  let b := sameRuns (old.drop a).reverse (new.drop a).reverse
  let o := old.length - a - b
  let n := (new.drop a).take (new.length - a - b)
  let m := min o n.length
  (List.range n.length).map (fun i =>
      eMap pn ln (a + i) (n.getD i { handle := 0, nchunk := 0, pos := 0 }) (decide (m ≤ i)))
    ++ List.replicate (o - m) (eMap pn ln (a + m) { handle := 0, nchunk := 0, pos := 0 } false)

/-- The runs of a line once some items have been written to it: a block's 16 KiB groups set or cleared, an object's chunks in
the order of their positions (R178). -/
def runsWith (l : Line) (its : List WItem) : List Run :=
  if its.any (fun i => decide (i.form = 2)) then
    its.foldl (fun rs i => if i.form ≠ 2 then rs else
      rs.filter (fun r => decide (r.pos < i.pos)) ++ [{ handle := i.handle, nchunk := 1, pos := i.pos }]
        ++ rs.filter (fun r => decide (i.pos < r.pos))) l.runs
  else if its.any (fun i => decide (i.form = 1 ∨ i.form = 4)) then
    Pool.runsOf (its.foldl (fun t i => match i.form with
      | 1 => Tbl.set t i.pos.toNat i.handle
      | 4 => Tbl.del t i.pos.toNat
      | _ => t) (Pool.cellsOf l))
  else l.runs

/-- The HOLD entries of an item: its own hold, or the removal of the four that its 16 KiB group had. -/
def holdEntries (pn : Nat) (l : Line) (it : WItem) : List Bytes :=
  match it.form with
  | 0 => [eHold pn it.line it.pos.toNat (some { handle := it.handle, heat := 0, zero := false }) l.holdMpn]
  | 3 => [eHold pn it.line it.pos.toNat (some { handle := 0, heat := 0, zero := true }) l.holdMpn]
  | 1 | 4 => (List.range 4).filterMap (fun i =>
      if (Tbl.find l.holds (4 * it.pos.toNat + i)).isSome then some (eHold pn it.line (4 * it.pos.toNat + i) none 0) else none)
  | _ => []

/-- The map entries of the items of one line. -/
def lineEntries (pn : Nat) (x : Pool) (items : List WItem) (ln : Nat) : List Bytes :=
  let l := x.line ln
  let its := items.filter (fun i => decide (i.line = ln))
  runDiff pn ln l.runs (runsWith l its) ++ its.flatMap (holdEntries pn l)

/-- The map entries that turn a pitch into what its items say, for a replicated pitch (R360). -/
def pitchEntries (pn : Nat) (x : Pool) (items : List WItem) (ln : Nat) : List Bytes :=
  let l := x.line ln
  let its := items.filter (fun i => decide (i.line = ln))
  let holds := its.filter (fun i => decide (i.form = 0 ∨ i.form = 3))
  runDiff pn ln l.runs (runsWith { l with runs := [] } its)
    ++ (l.holds.filter (fun h => !holds.any (fun i => decide (i.pos.toNat = h.1)))).map (fun h => eHold pn ln h.1 none 0)
    ++ holds.flatMap (holdEntries pn l)

/-- Make a page ready for a change: created, or preserved for a snapshot, with its hold page. -/
def readyLine (p : Nat) (st : State × List Bytes) (ln : Nat) (needHold fixed : Bool) : State × List Bytes :=
  let (s, es) := st
  let mpn := ln / 16
  let (x1, e1) := cowPage (s.pool p) p mpn
  let l := x1.line ln
  let (x2, e2) := if needHold && decide (l.holdMpn = 0) then
      (({ x1 with nextMpn := x1.nextMpn + 1 }).setLine ln { l with holdMpn := mpnOf p x1.nextMpn },
       [ePage p (mpnOf p x1.nextMpn) 0 (x1.snapEpoch % 65536) 0])
    else (x1, [])
  let l2 := x2.line ln
  let e3 := if l2.fixed = fixed then [] else [eLine p ln { l2 with fixed := fixed }]
  (s.setPool p x2, es ++ e1 ++ e2 ++ e3)

/-- The entries of a whole write, in the order of R142. -/
def planEntries (s : State) (p : Nat) (w : WPlan) (items wasted : List WItem) : State × List Bytes :=
  let lns := (items.map WItem.line).eraseDups
  let fixed := match Tbl.find (s.pool p).nss w.nsid with | some n => decide (n.kind = 0) | none => true
  let pre := lns.foldl (fun st ln => readyLine p st ln (items.any (fun i => decide (i.line = ln ∧ (i.form = 0 ∨ i.form = 3)))) fixed) (s, [])
  let s1 := pre.1
  let x := s1.pool p
  let chunk := fun (i : WItem) (cnt : Nat) (die : Bool) =>
    [eChunk p i.handle { loc := i.loc, ref := (CRec.withCnt { loc := 0, ref := mkRef i.frame.length i.olen cnt false } cnt die).ref },
     eDigest p i.handle 0 (i.digest.take 16), eDigest p i.handle 1 (i.digest.drop 16)]
  let fresh := (items.filter (fun i => i.fresh && !i.frame.isEmpty))
  let news := fresh.flatMap (fun i => chunk i 1 false) ++ wasted.flatMap (fun i => chunk i 0 true)
  let names := (items.filter (fun i => decide (i.form < 3))).map WItem.handle
  let ups := refDiff p [] names (fresh.map WItem.handle)
  let old := match w.key with
    | some (k, _, _) => match Tbl.find x.nss w.nsid with
      | some n => match n.objs.find? (fun (o : Obj) => decide (o.key = k)) with
        | some o => (List.range (ceilDiv o.len 0x100000)).map (fun i => o.base + i)
        | none => []
      | none => []
    | none => []
  let marked := (items.filter (fun i => decide (i.form = 9))).map WItem.line
  let gone' := items.flatMap (fun i => if i.form = 9 then Pool.lineRefs (x.line i.line) else if i.line ∈ marked then [] else displaced x i)
  let downs := refDiff p (gone' ++ old.flatMap (fun ln => Pool.lineRefs (x.line ln))) [] []
  let maps := lns.flatMap (fun ln => if ln ∈ marked then pitchEntries p x items ln else lineEntries p x items ln)
  let keys := match w.key with
    | some (k, len, base) => if w.delKey then [eKey p w.nsid k true] else [eKey p w.nsid k false, eValue p len base]
    | none => []
  let x' := (maps.foldl (fun st e => Pool.applyEntry x.seq s.time st e) (x, none)).1
  let post := lns.foldl (fun (st : Pool × List Bytes) ln =>
    let r := linePages st.1 p ln (x.line ln) (x'.line ln)
    (r.1, st.2 ++ r.2)) (x, [])
  let count := match w.key, Tbl.find x.nss w.nsid with
    | some (k, _, _), some n =>
      let there := n.objs.any (fun (o : Obj) => decide (o.key = k))
      if w.delKey then n.objs.length - b2n there else n.objs.length + b2n !there
    | _, _ => 0
  let leaves := match w.key, Tbl.find x.nss w.nsid with
    | some _, some n =>
      if ceilDiv count 63 > n.leaves.length then [ePage p (mpnOf p post.1.nextMpn) 0 (x.snapEpoch % 65536) 0]
      else if ceilDiv count 63 < n.leaves.length then [ePage p (n.leaves.getLastD 0) 1 0 0] else []
    | _, _ => []
  let gone := (old.map (fun ln => ln / 16)).eraseDups
  let frees := gone.map (fun m => ePage p m 1 0 0)
  let kept := gone.flatMap (fun m => if (x.dirE m).present then (cowPage x p m).2 else []) ++ (if w.key.isSome then keyCow x p w.nsid else [])
  (s1.setPool p post.1, news ++ kept ++ pre.2 ++ maps ++ post.2 ++ keys ++ leaves ++ ups ++ downs ++ frees)

def holdRefs (s : State) (w : WPlan) (d : Int) : State :=
  s.updPool w.pool (fun x => (heldRefs w).foldl (fun y h => y.refAdd h d) x)

/-- A write ends before its group is accepted: its references are returned (R142). -/
def abandonPlan (s : State) (n : Nat) : State :=
  match s.plan n with
  | some w => ((if w.accepted then s else ((s.holdRefs w (-1)).updPool w.pool (dropFresh w)).settleDying w.pool)).delPlan n
  | none => s

/-- Repaired chunks have landed under their own handles (R298): LOC without LOST, the index entry again, the lost list. -/
def sameDone (s : State) (p : Nat) (items : List WItem) : State :=
  items.foldl (fun t i =>
    let r := (t.pool p).rec' i.handle
    if !r.valid || r.dying then t else
    let r' : CRec := { r with loc := i.loc }
    let t1 := t.submit p 6 [eChunk p i.handle r']
    let t2 := if (t1.pool p).cfg.dedup then (t1.svcInsert t1.libRidge p i.digest i.olen i.handle).1 else t1
    t2.updPool p (fun x => { x with
      lost := x.lost.map (fun l => if l.handle = i.handle then { l with state := 2 } else l),
      lostFixed := x.lostFixed + 1,
      pass := { x.pass with failures := x.pass.failures.map (fun f => if f.handle = i.handle then { f with outcome := 1 } else f) },
      lastPass := { x.lastPass with failures := x.lastPass.failures.map (fun f => if f.handle = i.handle then { f with outcome := 1 } else f) } })) s

/-- The META chunks of a checkpoint have landed (R235 step 1): their records, and FLASH of the pages and preserved images
that they hold, each group under the SEQ that the tags of its chunks name; the images they replace are counted down later. -/
def metaDone (s : State) (p seq : Nat) (items : List WItem) : State :=
  let x := s.pool p
  let es := fun (l : List WItem) => l.flatMap (fun i =>
    [eChunk p i.handle { loc := i.loc, ref := mkRef i.frame.length i.olen 1 true }]
      ++ (if i.form = 5 then [ePage p i.line 2 (x.dirE i.line).epoch i.handle] else []))
  let olds := (items.filter (fun i => decide (i.form = 5))).filterMap (fun i =>
    if (x.dirE i.line).flash = 0 then none else some (x.dirE i.line).flash)
  let ls := metaLists (items.length + 1) items
  let s1 := (List.range ls.length).foldl (fun t k => (t.acceptGroup p 5 (es (ls.getD k [])) (some (seq + k)) 0).1) s
  let flash := fun (im : Preserved) => match items.find? (fun i => decide (i.form = 6 ∧ i.line = im.mpn ∧ i.pos = (im.high : Int))) with
    | some i => { im with flash := i.handle }
    | none => im
  s1.updPool p (fun y =>
    let z := if items.any (fun i => decide (i.form = 6)) then y.setPreserved (y.preserved.map flash) 0 else y
    { z with ckpt := { z.ckpt with olds := olds, stage := 2 } })

/-- Does an entry change a pitch line? -/
def entryLine (e : Bytes) : Option Nat :=
  if eTyp e = 5 ∨ eTyp e = 6 ∨ eTyp e = 7 then some (fieldAt e 8 6 * 16 + fieldAt e 0x0E 1 % 16) else none

/-- Must a write's group wait (log entry 33)? A MAP entry names a run by its slot, so the groups that change one line are accepted in
SEQ order, each once the one before has landed or is cancelled. -/
def lineBusy (s : State) (n : Nat) (w : WPlan) : Bool :=
  let lns := w.items.map WItem.line
  (s.pool w.pool).waiting.any (fun g => g.body.any (fun e => match entryLine e with | some ln => decide (ln ∈ lns) | none => false))
    || s.plans.any (fun q => decide (q.1 ≠ n) && decide (q.2.pool = w.pool) && !q.2.accepted && decide (q.2.seq ≠ 0)
      && decide (q.2.seq < w.seq) && q.2.items.any (fun i => decide (i.form < 5 ∨ i.form = 9) && decide (i.line ∈ lns)))

/-- The landing units that a group's CHUNK entries name. -/
def groupUnits (g : Group) : List Nat :=
  ((g.body.filter (fun e => decide (eTyp e = 2) && (CRec.biv { loc := fieldAt e 0x10 8, ref := 0 }))).map (fun e =>
    CRec.seg { loc := fieldAt e 0x10 8, ref := 0 })).eraseDups

/-- The write's group is accepted and its appends are issued (R137, R138, R217). -/
def acceptPlan (s : State) (n : Nat) : State :=
  match s.plan n with
  | none => s
  | some w =>
    if s.lineBusy n w && w.items.all (fun i => decide (i.form < 5 ∨ i.form = 9)) then s else
    let (s1, items, wasted) := insertItems (s.cmdRidge n) w.pool w.items [] s
    let (s2, es) := planEntries s1 w.pool w items wasted
    if w.items.all (fun i => decide (i.form = 7)) && !w.items.isEmpty then (s1.sameDone w.pool w.items).delPlan n else
    if w.origin = 5 then (s1.metaDone w.pool w.seq w.items).delPlan n else
    if w.origin ≠ 0 then
      let s3 := ((((s2.acceptGroup w.pool w.origin es (some w.seq) 0).1).holdRefs w (-1)).unlock n).delPlan n
      match w.pair with
      | some (k, i) => s3.itemApplied w.pool k i
      | none => s3
    else
    let (s3a, g) := s2.acceptGroup w.pool 0 es (some w.seq) (s.originRef n)
    let s3 := (s3a.holdRefs w (-1)).shadowUnitSend w.pool (groupUnits g)
    let s4 := (s3.setPlan n { w with items := items, accepted := true, due := w.mods.length }).addSvcs
      (w.mods.map (fun m => .append w.pool n m g false))
    match Tbl.find s4.host.cmds n with
    | some c => s4.setCmd n { c with phase := .accepted, seq := some w.seq }
    | none => s4

/-- Writes that wait only for a line (log entry 33) are accepted, in SEQ order, as far as the lines are free. -/
def unstall (s : State) (p : Nat) : State :=
  let due := s.plans.filter (fun q => decide (q.2.pool = p) && !q.2.accepted && decide (q.2.due = 0) && decide (q.2.seq ≠ 0))
  (List.range due.length).foldl (fun t _ => due.foldl (fun u q => match u.plan q.1 with
    | some w => if w.accepted || decide (w.due ≠ 0) || decide (w.seq = 0) then u else u.acceptPlan q.1
    | none => u) t) s

/-- The heat of the pitches that a host write touches (R184, R185). -/
def heatUp (s : State) (p : Nat) (items : List WItem) : State :=
  let lns := (items.map WItem.line).eraseDups
  s.updPool p (fun x => lns.foldl (fun y ln =>
    let l := y.line ln
    y.setLine ln { l with heat := min 255 (l.heat + 1) }) x)

/-- The heat of the holds that a host write has made or replaced (R184). -/
def heatHolds (items : List WItem) (x : Pool) : Pool :=
  ((items.filter (fun i => decide (i.form = 0 ∨ i.form = 3))).map WItem.line).eraseDups.foldl (fun y ln =>
    let l := y.line ln
    y.setLine ln { l with holds := l.holds.map (fun h =>
      if items.any (fun i => decide (i.line = ln ∧ (i.form = 0 ∨ i.form = 3) ∧ i.pos = (h.1 : Int))) then
        (h.1, { h.2 with heat := min 255 (h.2.heat + 4) }) else h) }) x

/-- The records of the chunks that a write stores, from now on with count 1 (R137, R140), and the profile of each (R165). -/
def storeFresh (s : State) (w : WPlan) : State :=
  s.updPool w.pool (fun x =>
    let prof := match Tbl.find x.nss w.nsid with
      | some n => n.profile.getD []
      | none => []
    (freshItems w).foldl (fun y i =>
      let z := y.setRec i.handle { loc := i.loc, ref := mkRef i.frame.length i.olen 1 false }
      { z with profs := Tbl.set z.profs i.handle prof }) x)

/-- Issue a plan: its chunks placed and programmed, or its group accepted at once when nothing is new (R137, R138); with false, and
only the units sealed on the way, while no landing unit can take it or a cut is awaited (R234). The landing logs of an all-shared
write are those of an open unit. -/
def issuePlan (s : State) (n ridge : Nat) (w : WPlan) : State × Bool :=
  let p := w.pool
  let seq := (s.pool p).seq
  if (s.pool p).ckpt.cutting then (s, false) else
  match placeItems p n ridge seq false w.items s with
  | (s1, none) => (s.keepSeals s1 p, false)
  | (s1, some (items, svcs, units)) =>
    let (s1, units) := if units.isEmpty then
        let (t, u) := unitFor p ridge 0 (2 * ((s1.pool p).units.length + 2)) s1
        (t, (u.map Prod.fst).toList)
      else (s1, units)
    if units.isEmpty then (s.keepSeals s1 p, false) else
    let w1 := { w with items := items, seq := seq, due := svcs.length, mods := unitMods (s1.pool p) units }
    let s2 := ((s1.updPool p (fun y => { y with seq := max y.seq (seq + 1) })).setPlan n w1).addSvcs svcs
    let s3 := (s2.holdRefs w1 1).storeFresh w1
    (if svcs.isEmpty then s3.acceptPlan n else s3, true)

/-! ### Retirement and erases (R252, R254, R255) -/

/-- A slab retires and a spare of its module joins the pool. Reasons: 3 program, 4 erase, 5 worn, 6 trigger. -/
def retireSlab (s : State) (p sa reason : Nat) : State :=
  let x := s.pool p
  let u := x.slabUse sa
  if u.retired then s else
  let spare := (x.uses.find? (fun q => decide (saMod q.1 = saMod sa) && q.2.spare && q.2.erased)).map Prod.fst
  s.submit p 9 (eHealth p sa 1 reason u.wear 0 :: match spare with
    | some a => [eHealth p a 2 reason (x.slabUse a).wear 0]
    | none => [])

/-- The spare reserve of a module in slabs (R255). -/
def spareWant (s : State) (p m : Nat) : Nat := (s.modu m).ident.slabs * (s.pool p).cfg.sparePml / 1000

/-- An evacuated module that holds no slab in use leaves the pool (R256). -/
def evacDone (s : State) (p : Nat) : State :=
  let x := s.pool p
  if x.reshape.isSome then s else
  let out := x.evac.filter (fun m => x.uses.all (fun q => !decide (saMod q.1 = m) || decide (q.2.use = 6)))
  if out.isEmpty then s else
  (s.submit p 7 (out.map (fun m => eModule p m false))).updPool p (fun y => { y with evac := y.evac.filter (fun m => !decide (m ∈ out)) })

/-- An erase has completed (R239, R252, R254, R255): USE 6, wear, retirement, the write budget. The spare reserve of a module is filled
by the sweep that follows its adding (`sweep`) and by nothing later. -/
def erased (s : State) (p sa : Nat) (sweep : Bool) : State :=
  let x := s.pool p
  let u := x.slabUse sa
  let limit := 10 * (s.modu (saMod sa)).ident.qlcPe
  let worn := decide (limit ≤ u.wear + (if u.use = 2 then 10 else 1))
  let s1 := s.submit p 4 [eSlab p sa 6 0 0]
  let s2 := if worn || u.doomed then
      (s1.updPool p (fun y => y.setUse sa { y.slabUse sa with retired := false })).retireSlab p sa (if worn then 5 else u.why) else s1
  let spares := ((s2.pool p).uses.filter (fun q => decide (saMod q.1 = saMod sa) && q.2.spare)).length
  let s3 := s2.updPool p (fun y =>
    let v := y.slabUse sa
    if v.retired then y else y.setUse sa { v with spare := sweep && decide (spares < s.spareWant p (saMod sa)), erased := true })
  let s4 := if u.use = 2 then s3.updPool p (fun y => { y with budget := min (4 * 2 ^ 30) (y.budget + slabBytes * 4 / 5) }) else s3
  (s4.updPool p (fun y =>
    { y with segs := y.segs.filter (fun q => !(decide (q.2.state = 3) && q.2.members.all (fun m => decide ((y.slabUse m.slab).use = 6)))) })).evacDone p

/-! ### ANA and conflicts (R308, R333, R383) -/

/-- ANA_CHANGE (R383): the change count, and a notice to each controller that enabled it, put off while the outputs are held (R336). -/
def anaChange (s : State) : State :=
  let s1 := { s with host := { s.host with anaCount := s.host.anaCount + 1 } }
  if s1.allHeld then { s1 with host := { s1.host with anaDue := true } } else s1.anaNotify

/-- RESERVATION_CONFLICT (R333): the pool is no longer served, and the head joins for it. -/
def conflictStop (s : State) (m : Nat) : State :=
  match s.ownerOf m with
  | none => s
  | some p =>
    let s1 := (s.updPool p (fun x => { x with rel := .none })).anaChange
    let s2 := { s1 with pair := { s1.pair with caughtUp := s1.pair.caughtUp &&& (0xFFFF - 2 ^ p) } }
    if s2.ownedMask = 0 ∧ s2.pwr.mode ∈ [5, 6, 7] then s2.setMode 4 else s2

/-! ### Cancels (R17, R232) -/

/-- A landing has failed (R17): the search for another module begins. -/
def landFailed (s : State) (n : Nat) : State :=
  let s1 := s.dropSvcs n
  match Tbl.find s1.host.cmds n with
  | some c => s1.setCmd n { c with retryAt := some (c.retryAt.getD (s.time + 1000000)) }
  | none => s1

/-- The group of a write is cancelled by name (R232): what it had applied is reversed, and the CANCEL goes to the same landing logs.
Answers the CANCEL's SEQ. -/
def cancelGroup (s : State) (n : Nat) (w : WPlan) : State × Nat :=
  let g := s.acceptGroup w.pool 4 [eCancel w.pool w.seq] none 0
  (((g.1.unland w.pool w.seq).dropSvcs n).addSvcs (w.mods.map (fun m => .cancel w.pool m g.2)), g.2.seq)

/-- The error completion of a command waits until a CANCEL is durable (R232). -/
def afterCancel (s : State) (p by_ : Nat) (cmd : Option Nat) : State :=
  let x : Cancelled := { seq := by_, by_ := by_, cmd := cmd }
  s.updPool p (fun y => { y with cancels := y.cancels ++ [x] })

/-- A write whose group has been accepted is given up; the chunks it stored leave the index (R141). -/
def cancelPlan (s : State) (n : Nat) (w : WPlan) (cmd : Option Nat) : State :=
  let g0 := s.cancelGroup n w
  let g := ((if (s.pool w.pool).cfg.dedup then
    (freshItems w).foldl (fun t i => t.svcRemove (s.cmdRidge n) w.pool i.digest i.olen i.handle) g0.1 else g0.1), g0.2)
  ((g.1.afterCancel w.pool g.2 cmd).delPlan n).unstall w.pool

/-- Place the data of a write on another pair of modules. A group already accepted is cancelled and a new one follows
(R17, R232); while no unit can take it, the write waits for one. -/
def landAgain (s : State) (n : Nat) : State :=
  match s.plan n with
  | none => s
  | some w0 =>
    let p := w0.pool
    let ridge := s.cmdRidge n
    let g := if w0.accepted then let c := s.cancelGroup n w0; (c.1.holdRefs w0 1, c.2) else (s, w0.cancelBy)
    let w := { w0 with cancelBy := g.2, accepted := false }
    let s0 := g.1
    let seq := (s0.pool p).seq
    match placeItems p n ridge seq true w.items s0 with
    | (s1, none) => ((s0.keepSeals s1 p).setPlan n { w with seq := 0, due := 0 }).unstall p
    | (s1, some (items, svcs, units)) =>
      let w1 := { w with items := items, seq := seq, due := svcs.length,
                         mods := if units.isEmpty then w.mods else unitMods (s1.pool p) units }
      let s2 := (((s1.updPool p (fun y => { y with seq := max y.seq (seq + 1) })).setPlan n w1).addSvcs svcs).storeFresh w1
      if svcs.isEmpty then s2.acceptPlan n else s2

/-- Writes that failed to land and found no other module are tried again when a unit may have come (R17). -/
def landRetry (s : State) (p : Nat) : State :=
  (s.plans.filter (fun q => decide (q.2.pool = p) && !q.2.accepted && decide (q.2.due = 0) && decide (q.2.seq = 0))).foldl
    (fun t q => t.landAgain q.1) s

/-- A write waits, PARKed, for a landing unit (R219). -/
def waitUnit (s : State) (p n : Nat) : State :=
  match Tbl.find s.host.cmds n with
  | some c => match c.climb with
    | some k => if (s.climb k).state ≠ .free ∧ (s.climb k).state ≠ .parked ∧ (s.climb k).ended = .running then
        (s.updPool p (fun x => { x with unitWait := x.unitWait ++ [k] })).libPark k
      else s
    | none => s
  | none => s

/-- Units may have come or drained: the writes that wait for one try again (R17, R219). -/
def unitsCome (s : State) (p : Nat) : State :=
  let s1 := (s.pool p).unitWait.foldl (fun t c => t.wake c) (s.updPool p (fun x => { x with unitWait := [] }))
  s1.landRetry p

/-- A slab that failed a program of a write: its unit takes no more, and it retires unless the command timed out. -/
def unitFailed (s : State) (p sa : Nat) (retire : Bool) : State :=
  let u := (s.pool p).slabUse sa
  let s1 := if (Tbl.find (s.pool p).units u.owner).isSome then
      (s.sealUnit p u.owner).updPool p (fun x => x.updUnit u.owner (fun z => { z with front := true })) else s
  if retire then s1.retireSlab p sa 3 else s1

/-! ### Landed writes (R16, R217) -/

/-- One program or append of a write has completed; the last one moves the write on. -/
def planStep (s : State) (n : Nat) : State :=
  match s.plan n with
  | none => s
  | some w =>
    let s1 := s.setPlan n { w with due := w.due - 1 }
    if w.accepted && w.aborted then s.cancelPlan n w none
    else if w.due > 1 then s1
    else if !w.accepted then (s1.acceptPlan n).unstall w.pool
    else
      let s2 := (s1.landed w.pool w.seq).updPool w.pool (heatHolds w.items)
      (match Tbl.find s2.host.cmds n with
      | some c => (s2.setCmd n { c with progs := 0, retryAt := none }).delPlan n
      | none => s2.delPlan n).unstall w.pool

/-! ### The flushed journal (R233) -/

/-- Flush pages: 128 entries each, PAD at the end, tags of KIND 6. -/
def flushPages (p epoch serial first : Nat) (time : W64) (gs : List Group) : List Bytes :=
  let all := gs.flatMap Group.bytes
  (List.range (ceilDiv all.length 4096)).map (fun i =>
    let starts := gs.foldl (fun (st : Nat × Nat) g =>
      (st.1 + g.bytes.length, if st.2 = 0 ∧ st.1 ≥ 4096 * i ∧ st.1 < 4096 * (i + 1) then g.seq else st.2)) (0, 0)
    sealPage (sliceAt all (4096 * i) 4096) (mkTag 6 p 0 serial (first + i) 0 epoch starts.2 time 0 0 0))

/-- Programs of at most 16 pages of a flush on one slab. -/
def flushSvcs (p last sa first : Nat) : Nat → List Bytes → List Svc
  | 0, _ => []
  | f + 1, l => if l.isEmpty then [] else .flush p last sa first (l.take 16) :: flushSvcs p last sa (first + 16) f (l.drop 16)

/-- The SEQ below which every group has been accepted: the lowest that a write in flight has reserved (R231). -/
def heldSeq (s : State) (p : Nat) : Nat :=
  (s.plans.filter (fun q => decide (q.2.pool = p) && !q.2.accepted && decide (q.2.seq ≠ 0))).foldl (fun m q => min m q.2.seq) (2 ^ 64)

/-- The groups at the front of a list that fit in some bytes. -/
def flushPrefix : Nat → List Group → List Group
  | _, [] => []
  | room, g :: r => if g.bytes.length ≤ room then g :: flushPrefix (room - g.bytes.length) r else []

/-- One flush of what has gathered, in SEQ order (R231, R233): whole pages to the three slabs, at most 1,024 pages at a time. The next
triple is assigned while the present one still has room for its SLAB entries. -/
def flushNow (s : State) (p : Nat) : State :=
  let ready := fun (t : State) => flushPrefix (1024 * 4096) ((t.pool p).jbuf.filter (fun g => decide (g.seq < s.heldSeq p)))
  let pagesIn := fun (gs : List Group) => ceilDiv (sumBy (fun g => g.bytes.length) gs) 4096
  if (ready s).isEmpty then s else
  let s1 := if (s.pool p).jpage + pagesIn (ready s) + 1024 > 4096 then s.assignTriple p else s
  let gs := ready s1
  let full := decide ((s1.pool p).jpage + pagesIn gs > 4096)
  let x := if full || (s1.pool p).jclose then turnTriple (s1.pool p) else s1.pool p
  if x.triple.length < 3 ∨ x.jpage + pagesIn gs > 4096 then s1 else
  let ps := flushPages p x.epoch (x.slabUse (x.triple.getD 0 0)).owner x.jpage s.time gs
  let last := gs.foldl (fun m g => max m g.seq) 0
  let svcs := x.triple.flatMap (fun a => flushSvcs p last a x.jpage (ps.length + 1) ps)
  (s1.setPool p { x with
      jbuf := x.jbuf.filter (fun g => decide (last < g.seq)), jpage := x.jpage + ps.length, flushAt := s.time,
      flushes := x.flushes ++ [{ last := last, left := x.triple.foldl (fun t a => Tbl.set t a (ceilDiv ps.length 16)) [] }],
      ckpt := { x.ckpt with flushed := x.ckpt.flushed + 4096 * ps.length } }).addSvcs svcs

/-- Full landing-log slabs whose groups are all durable are freed after their erase (R232). -/
def freeLogs (p durable : Nat) (s : State) : State :=
  let gone := (s.pool p).logs.flatMap (fun q => (q.2.olds.filter (fun o => o.2.all (fun n => decide (n ≤ durable)))).map Prod.fst)
  (s.updPool p (fun x => { x with logs := x.logs.map (fun q =>
    (q.1, { q.2 with olds := q.2.olds.filter (fun o => !decide (o.1 ∈ gone)) })) })).addSvcs (gone.map (fun a => .erase p a))

/-- The landing log of a module that a reshape excludes is given up once no open unit lies on the module, no write is on its way there
and its groups are durable (R232, R300). -/
def leaveLogs (s : State) (p : Nat) : State :=
  let x := s.pool p
  let out := (match x.reshape with | some r => r.exclude | none => []) ++ x.excluded
  let gone := x.logs.filter (fun q => decide (q.1 ∈ out) && q.2.seqs.all (fun n => decide (n ≤ x.durable)) && q.2.olds.isEmpty
    && !x.units.any (fun u => !u.2.sealed && decide (saMod u.2.a = q.1 ∨ saMod u.2.b = q.1))
    && !s.plans.any (fun w => decide (w.2.pool = p) && decide (q.1 ∈ w.2.mods)))
  (s.updPool p (fun y => { y with logs := y.logs.filter (fun q => !gone.any (fun g => decide (g.1 = q.1))) })).addSvcs
    (gone.flatMap (fun q => (q.2.cur :: q.2.spare.toList).map (fun a => .erase p a)))

/-- Landing units whose slabs' USE 6 entries are durable: their numbers may be used again (R240). -/
def freeUnits (x : Pool) : Pool :=
  { x with units := x.units.filter (fun q =>
      !(q.2.released && [q.2.a, q.2.b].all (fun a => decide ((x.slabUse a).use = 6) && slabReady x a))) }

/-- What follows when the durable point reaches a SEQ: freed landing logs (R232), the completions that waited for a CANCEL
(R232), erases of released slabs (R239), segments that the rebuild queue loses that way counted as done (R289, R292), the shadow's
copy (R324). -/
def durableAct (s : State) (p : Nat) : State :=
  let x := s.pool p
  let s0 := x.logs.foldl (fun t q =>
    if !q.2.seqs.isEmpty && q.2.seqs.all (fun n => decide (n ≤ x.durable)) && q.2.spare.isSome then t.switchLog p q.1 true else t) s
  let s1 := (freeLogs p x.durable s0).leaveLogs p
  let s2 := (x.cancels.filter (fun c => decide (c.by_ ≤ x.durable))).foldl (fun t c => match c.cmd with
    | some n => t.finishCmd n stTransfer 0 0
    | none => t) s1
  let due := x.releases.filter (fun r => decide (r.2.2 ≤ x.durable))
  let rebuilt := if x.rebuild.running then (due.filter (fun r => decide (r.1 = 1) && (match Tbl.find x.segs r.2.1 with
    | some g => decide (0 < notGood g)
    | none => false))).length else 0
  let slabsOf := fun (r : Nat × Nat × Nat) => if r.1 = 0 then
      match Tbl.find x.units r.2.1 with | some u => [u.a, u.b] | none => []
    else match Tbl.find x.segs r.2.1 with | some g => g.members.map Member.slab | none => []
  let s3 := s2.addSvcs (due.flatMap (fun r => (slabsOf r).map (fun a => .erase p a)))
  let s4 := s3.updPool p (fun y => { y with
    cancels := y.cancels.filter (fun c => !decide (c.by_ ≤ x.durable)),
    releases := y.releases.filter (fun r => !decide (r.2.2 ≤ x.durable)),
    rebuild := { y.rebuild with done := y.rebuild.done + rebuilt } })
  let s4 := (s4.updPool p freeUnits).unitsCome p
  if s4.streams p then s4.sendRope 0x06 false (shadowHead p 5 8 ++ leBytes 8 x.durable) else s4

/-- Take the durable flushes off the front of the list: those with two whole copies (R233). -/
def durableFlushes : List Flush → Nat → List Flush × Nat
  | [], d => ([], d)
  | f :: r, d => if (f.left.filter (fun q => decide (q.2 = 0))).length ≥ 2 then durableFlushes r (max d f.last) else (f :: r, d)

/-- A flush program on a slab has completed: durable with two of the three copies (R233), FLUSH_DURABLE. -/
def flushDone (s : State) (p last sa : Nat) : State :=
  let x := s.pool p
  let fl := x.flushes.map (fun f => if f.last = last then { f with left := Tbl.upd f.left sa (fun n => n - 1) } else f)
  let r := durableFlushes fl x.durable
  let s1 := s.setPool p { x with flushes := r.1, durable := r.2 }
  if r.2 ≠ x.durable then s1.durableAct p else s1

/-! ### Ends of the library's work -/

/-- Does an ending with this STATUS and RESULT retire the slab (R254, R447)? Not after a timeout or a lost module. -/
def retires (status : Nat) : Bool := !decide (status ∈ [0x23, 0x24, 0x25])

/-- A landing program has ended (R16, R17). -/
def landEnd (s : State) (p cmd sa : Nat) (status result : Nat) : State :=
  if status = 0 then s.planStep cmd
  else
    let s1 := if result % 2 ^ 16 = resvConflict ∧ status = 0x20 then s.conflictStop (saMod sa) else s.unitFailed p sa (retires status)
    (s1.landFailed cmd).landAgain cmd

/-- A program of a module's current landing-log slab has failed: the slab retires and the spare takes over (R254). -/
def logFailed (s : State) (p m status : Nat) : State :=
  if !retires status then s else
  match Tbl.find (s.pool p).logs m with
  | some l => (s.retireSlab p l.cur 3).switchLog p m false
  | none => s

/-- A landing-log append has ended; LOG_FULL makes the spare current and appends again (R232, R442). -/
def appendEnd (s : State) (p cmd m : Nat) (g : Group) (status result : Nat) : State :=
  if status = 0 then
    (s.updPool p (fun x => { x with logs := Tbl.upd x.logs m (fun l => { l with seqs := l.seqs ++ [g.seq] }) })).planStep cmd
  else if status = 0x20 ∧ result % 2 ^ 16 = quinken 0x88 then (s.switchLog p m false).addSvc (.append p cmd m g true)
  else if status = 0x20 ∧ result % 2 ^ 16 = resvConflict then s.conflictStop m
  else ((s.logFailed p m status).landFailed cmd).landAgain cmd

/-- A flush copy has ended; a failure retires the slab and moves the journal to a new triple (R233, R249, R254). -/
def flushEnd (s : State) (p last sa : Nat) (status result : Nat) : State :=
  if status = 0 then s.flushDone p last sa
  else if status = 0x20 ∧ result % 2 ^ 16 = resvConflict then s.conflictStop (saMod sa)
  else
    let s1 := if retires status then s.retireSlab p sa 3 else s
    if sa ∈ (s1.pool p).triple then s1.newTriple p else s1

/-- The serial of a landing log's slab and its current slab. -/
def logOf (s : State) (p m : Nat) : Option (Nat × Nat) :=
  (Tbl.find (s.pool p).logs m).map (fun l => (l.cur, ((s.pool p).slabUse l.cur).owner))

/-- The append of a group to a module's landing log. -/
def appendGroup (s : State) (p m : Nat) (g : Group) (o : ModOut) : Nat × Nat × State :=
  match s.logOf p m with
  | none => (0x25, 0, s)
  | some (sa, ser) => s.cmdAppend sa ser p s.headId g.epoch g.seq g.bytes o

/-- Has the module's current landing-log slab a durable assignment (R211)? An append waits until it has. -/
def logReady (s : State) (p m : Nat) : Bool :=
  match Tbl.find (s.pool p).logs m with
  | some l => slabReady (s.pool p) l.cur
  | none => true

end State

/-! ### Commands -/

/-- WRITE_COMPLETION_POSTED (R16): landed on both modules and, in PAIRED with a live shadow, acknowledged. Overlapping
earlier writes have completed, because their locks are gone. -/
def execWriteCompletionPosted (cmd : Nat) (s : State) : Res :=
  match Tbl.find s.host.cmds cmd with
  | none => .next s
  | some c =>
    match c.seq, s.nsPool c.cap.nsid with
    | some q, some p =>
      if c.phase = .accepted ∧ (s.plan cmd).isNone ∧ (!s.hasShadow p ∨ q ∉ (s.pool p).sentSeqs) then
        .next (s.finishCmd cmd State.stOk 0 0)
      else .next s
    | none, some p => .next (s.unstall p)
    | _, _ => .next s

/-- LANDING_RETRY_TIMEOUT (R17): 10 ms without a second module; the write fails. A group that has been accepted is
cancelled, and the completion waits for the CANCEL to be durable (R232). -/
def execLandingRetryTimeout (cmd : Nat) (s : State) : Res :=
  match Tbl.find s.host.cmds cmd, s.plan cmd with
  | some c, some w =>
    match c.retryAt with
    | none => .next s
    | some t =>
      if t.toNat > s.time.toNat then .next (s.landRetry w.pool) else
      if w.accepted then .next (s.cancelPlan cmd w (some cmd))
      else
        let s1 := (s.landFailed cmd).abandonPlan cmd
        if w.cancelBy > (s1.pool w.pool).durable then .next (s1.afterCancel w.pool w.cancelBy (some cmd))
        else .next (s1.finishCmd cmd State.stTransfer 0 0)
  | _, _ => .next s

/-- CANCEL (R232): a write whose group has been accepted cannot land; the group is cancelled by name. -/
def execCancel (cmd : Nat) (s : State) : Res :=
  match s.plan cmd with
  | none => .next s
  | some w =>
    if !w.accepted then .next s else .next (s.cancelPlan cmd w (some cmd))

/-- JOURNAL_FLUSH (R233): 1 ms after the previous flush, or with 64 KiB gathered. -/
def execJournalFlush (pool : Nat) (s : State) : Res :=
  let x := s.pool pool
  if s.owns pool ∧ ((s.time - x.flushAt).toNat ≥ 100000 ∨ sumBy (fun g => g.bytes.length) x.jbuf ≥ 0x10000) then
    .next (s.flushNow pool)
  else .next s

/-- BIVOUAC_TARGET (R215): each second the target is computed again, and the bivouac takes erased slabs up to it. -/
def execBivouacTarget (pool : Nat) (s : State) : Res :=
  let x := s.pool pool
  if !s.owns pool || decide ((s.time - x.bivAt).toNat < 100000000) then .next s else
  let s1 := s.updPool pool (fun y => { y with bivGoal := s.bivTarget pool, bivAt := s.time })
  .next ((State.fillBivouac pool (x.uses.length / 2 + 1) s1).unitsCome pool)

/-- BUDGET_REFILL (R267): 256 MiB a second, to 4 GiB. -/
def execBudgetRefill (pool : Nat) (s : State) : Res :=
  .next (s.updPool pool (fun x => { x with budget := min (4 * 2 ^ 30) (x.budget + 2 ^ 28) }))

end Sys2Proof.Machine
end

