-- ==== Sys2Proof/Machine/Audit.lean ====
section
/-! DEFINITION. The fixity audit (R261, R262), lost chunks and the positions that name them (R296, R297, R399), the
repair of a chunk under its own handle (R298), and the search for a chunk by its markers (R244, R302). -/

namespace Sys2Proof.Machine

namespace State

/-- The places that name a chunk (R297): namespace, kind, key or pitch offset, key length, first LBA. -/
def positionsOf (x : Pool) (h : Nat) : List (Nat × Nat × Bytes × Nat × Nat) :=
  x.nss.flatMap (fun q =>
    let n := q.2
    let v := nsView q.1 n
    if n.walked then [] else
    if n.kind = 0 then
      ((nsLines x q.1 n).filter (fun ln => decide (h ∈ Pool.lineRefs (lineAt x v.1 ln)))).map (fun ln =>
        let l := lineAt x v.1 ln
        let off := (ln - n.base) * 0x100000
        let cell := (Pool.cellsOf l).find? (fun c => decide (c.2 = h))
        let hold := l.holds.find? (fun c => decide (c.2.handle = h) && !c.2.zero)
        let at_ := match cell, hold with
          | some c, some d => min (16384 * c.1) (4096 * d.1)
          | some c, none => 16384 * c.1
          | none, some d => 4096 * d.1
          | none, none => 0
        (q.1, 0, padTo 16 (leBytes 8 off), 0, (off + at_) / 4096))
    else
      ((objsAt x v.2 v.1).filter (fun o => (List.range (ceilDiv o.len 0x100000)).any (fun i => decide (h ∈ Pool.lineRefs (lineAt x v.1 (o.base + i)))))).map
        (fun o => (q.1, 1, padTo 16 o.key, o.key.length, 2 ^ 64 - 1)))

/-- An Error Information entry in every controller, and the Asynchronous Event (R399). -/
def postError (s : State) (st : NvmeStatus) (nsid lba : Nat) : State :=
  let s1 := { s with host := { s.host with ctrls := s.host.ctrls.map (fun (q : Nat × HCtrl) =>
    (q.1, { q.2 with errors := ((st, nsid, lba) :: q.2.errors).take 256, errCount := q.2.errCount + 1 })) } }
  s1.host.ctrls.foldl (fun t q => t.emit (.aen q.1 0x01 0xC1)) s1

/-- A chunk is lost (R296, R297): LOST in its record, journaled, out of the index, and each position that names it reported
and listed. -/
def loseChunk (s : State) (p h : Nat) : State :=
  let r := (s.pool p).rec' h
  if !r.valid || r.lost then s else
  let s1 := s.submit p 6 [eChunk p h r.setLost]
  let s2 := s1.svcRemove s1.libRidge p (padTo 32 (Tbl.getD (s1.pool p).digests h [])) r.olen h
  (positionsOf (s2.pool p) h).foldl (fun t q =>
    let x := t.pool p
    let lr : LostRec := { nsid := q.1, kind := q.2.1, key := q.2.2.1, klen := q.2.2.2.1, handle := h, state := 0 }
    let t1 := if x.lost.length < 1048576 then t.setPool p { x with lost := x.lost ++ [lr] }
      else t.setPool p { x with lostOver := x.lostOver + 1 }
    t1.postError stUnrecovered q.1 q.2.2.2.2) s2

/-- Do these bytes match the fixity table (R261 step 4)? -/
def fixityOk (x : Pool) (h : Nat) (d : Bytes) : Bool :=
  decide (sha256 d = padTo 32 (Tbl.getD x.digests h [])) && decide (d.length = (x.rec' h).olen)

/-- Store a chunk's bytes again under its own handle through the bivouac (R298); nothing while no unit can take them. -/
def storeSame (s : State) (p h : Nat) (d : Bytes) : State :=
  let x := s.pool p
  let it : WItem := { line := 0, pos := 0, form := 7, handle := h, fresh := true, digest := sha256 d, olen := d.length, loc := 0,
                      frame := encodeChunk (profOf x h) d, alone := true }
  let n := s.nextPlan
  match placeItems p n (s.cmdRidge n) x.seq false [it] s with
  | (s1, none) => s.keepSeals s1 p
  | (s1, some (its, svcs, units)) =>
    let w : WPlan := { pool := p, nsid := 0, origin := 6, items := its, key := none, delKey := false, seq := x.seq, due := svcs.length,
                       accepted := false, mods := unitMods (s1.pool p) units, pair := none }
    ((s1.updPool p (fun y => { y with seq := max y.seq (x.seq + 1) })).setPlan n w).addSvcs svcs

/-- The highest corrected-bit fractions of a pass, by module (R265). -/
def noteCorr (s : State) (x : Pool) (marks : Marks) : Pool :=
  marks.foldl (fun y m =>
    let cap := (s.modu (saMod m.1)).ident.cwCorrect
    let v := if cap = 0 then 0 else 10000 * m.2.2.2 / cap
    { y with pass := { y.pass with corr := Tbl.set y.pass.corr (saMod m.1) (max v (Tbl.getD y.pass.corr (saMod m.1) 0)) } }) x

/-- Does the medium give every page of a frame in a segment, and is no member of its rows judged wrong (R262, R277)? Members that are
not GOOD are no finding: their bytes are a degraded read's (R287). -/
def frameWhole (s : State) (p : Nat) (r : CRec) (marks : Marks) : Bool :=
  match Tbl.find (s.pool p).segs r.seg with
  | none => false
  | some g =>
    let k := max 1 g.k
    (List.range (r.flen / 4096 + 2)).all (fun j =>
      let d := r.off / 4096 * 4096 + 4096 * j
      let i := segMember k d
      let sa := (g.members.getD i { slab := 0, state := 0, rows := 0 }).slab
      decide (r.off + r.flen ≤ d) || (!g.judged.contains (segRow k d, i)
        && (!s.memberOk p g i (segRow k d) || (match Tbl.find (s.mslab sa).pages (segPageOf k d) with
          | some f => !f.bad && pageOk f.bytes
              && !marks.any (fun m => decide (m.1 = sa) && decide (m.2.1 = segPageOf k d) && decide (8 ≤ m.2.2.1))
          | none => false))))

/-- What an audit finds (R261, R262): the CAUSE of R265 where something is wrong, and the bytes where reconstruction has already
given them. -/
def auditRead (s : State) (p h : Nat) (prof : Option Bytes) (marks : Marks) : Option Nat × Option Bytes × State :=
  let x := s.pool p
  let r := x.rec' h
  let whole := r.biv || s.frameWhole p r marks
  match s.readFrame p r marks [] with
  | (none, s1) => (some 2, none, s1)
  | (some f, s1) =>
    match s1.openFrame p prof r f with
    | none => (some (if whole then 0 else 2), none, s1)
    | some d =>
      if fixityOk x h d then (if whole then none else some 2, some d, s1)
      else (some (if whole then 1 else 2), none, s1)

/-- One more chunk repaired or failed, in the pass and for each namespace that names it (R265). -/
def countIn (x : Pool) (h : Nat) (t : Tbl Nat) : Tbl Nat :=
  ((positionsOf x h).map Prod.fst).eraseDups.foldl (fun t n => Tbl.set t n (Tbl.getD t n 0 + 1)) t

/-- REPAIRED (R262): the data is rewritten under the chunk's own handle, its segment joins the rewrite list, FIXITY_REPAIR. -/
def repaired (s : State) (p h : Nat) (d : Bytes) : State :=
  let r := (s.pool p).rec' h
  let s1 := s.updPool p (fun y =>
    let z := { y with pass := { y.pass with repaired := y.pass.repaired + 1, repairedIn := countIn y h y.pass.repairedIn } }
    if r.biv then z else listRewrite z r.seg true false)
  (s1.storeSame p h d).libBook 0x104 (leBytes 1 p ++ leBytes 6 h)

/-- FAILED (R262): in the pass's failure list with each position that names the chunk, lost (R296), FIXITY_FAIL. -/
def auditFailed (s : State) (p h cause : Nat) : State :=
  let fs := (positionsOf (s.pool p) h).map (fun q =>
    ({ nsid := q.1, kind := q.2.1, key := q.2.2.1, klen := q.2.2.2.1, handle := h, cause := cause, outcome := 0 } : FixFail))
  let s1 := (s.updPool p (fun y => { y with pass := { y.pass with
    failed := y.pass.failed + 1, failedIn := countIn y h y.pass.failedIn, failures := y.pass.failures ++ fs } })).loseChunk p h
  s1.libBook 0x105 (leBytes 1 p ++ leBytes 6 h ++ leBytes 1 cause)

/-- Audit one chunk (R261, R262): verified; or repaired from P and Q or from the replica's bytes; or FAILED and lost. A chunk that is
LOST already attempts no reconstruction (R296) and is FAILED in this pass too. A mover (`none`) has no replica at hand: where the
pool has a replication target, the chunk stays for patrol to judge. -/
def auditChunk (s : State) (p h : Nat) (marks : Marks) (replica : Option (List (Nat × Bytes))) : State :=
  let x := s.pool p
  let r := x.rec' h
  if !r.live || r.isMeta then s else
  let prof := profOf x h
  let fromReplica := fun (t : State) (cause : Nat) =>
    match (replica.getD []).find? (fun q => decide (q.1 = h) && fixityOk x h q.2) with
    | some q => t.repaired p h q.2
    | none => if replica.isNone && x.pairs.any (fun q => q.2.source) then t else t.auditFailed p h cause
  if r.lost then fromReplica s 2 else
  match s.auditRead p h prof marks with
  | (none, _, s1) => s1
  | (some _, some d, s1) => s1.repaired p h d
  | (some cause, none, s1) =>
    let k := kOfSeg x r.seg
    let b := if r.biv then (none, s1)
      else runTrials p prof r marks (fixityOk x h) ((stripsOf k r.off r.flen).flatMap (fun q => trialsFor k q.1 q.2)) s1
    match b.1 with
    | some d => b.2.repaired p h d
    | none => fromReplica b.2 cause

/-! ### The marker search (R244, R302) -/

/-- Walk the markers of one page from a byte offset; places of a chunk with this handle and frame length. -/
def walkMarkers (p n k : Nat) (h flen : Nat) (marks : Marks) : Nat → Nat → Nat → State → List Nat × State
  | 0, _, _, s => ([], s)
  | f + 1, at_, stop, s =>
    if at_ ≥ stop then ([], s) else
    match segBytes p n marks [] k 2 at_ 16 s with
    | (none, s1) => ([], s1)
    | (some b, s1) =>
      if fieldAt b 0 2 ≠ 0xC15B ∨ fieldAt b 14 2 ≠ (crc32c (b.take 14)) % 2 ^ 16 then ([], s1) else
      let r := walkMarkers p n k h flen marks f (at_ + 16 + ceilDiv (fieldAt b 10 3) 16 * 16) stop s1
      (if fieldAt b 4 6 = h ∧ fieldAt b 10 3 = flen then (at_ + 16) :: r.1 else r.1, r.2)

/-- Places of a chunk in one segment, from the tags of KIND 2. -/
def searchSeg (p n : Nat) (h flen : Nat) (marks : Marks) (s : State) : List Nat × State :=
  match Tbl.find (s.pool p).segs n with
  | none => ([], s)
  | some g =>
    ((List.range (g.rows * g.k * 16)).foldl (fun (st : List Nat × State) i =>
      let m := i / 16 % g.k
      let row := i / (16 * g.k)
      let page := 16 * row + i % 16
      let start := (row * g.k + m) * 65536 + i % 16 * 4096
      match Tbl.find (st.2.mslab (g.members.getD m { slab := 0, state := 0, rows := 0 }).slab).pages page with
      | some f =>
        let aux := fieldAt f.bytes (4096 + 0x26) 2
        if f.bad || !pageOk f.bytes || decide (fieldAt f.bytes 4097 1 ≠ 2) || decide (aux = 0xFFFF) then st else
        let r := walkMarkers p n g.k h flen marks 256 (start + 16 * aux) (start + 4096) st.2
        (st.1 ++ r.1, r.2)
      | none => st) ([], s))

/-- Search some segments; the first place whose frame decrypts, decodes and matches the fingerprint. -/
def searchSegs (p h : Nat) (marks : Marks) : List Nat → State → Option Nat × State
  | [], s => (none, s)
  | n :: l, s =>
    let r := (s.pool p).rec' h
    let q := searchSeg p n h r.flen marks s
    let hit := q.1.foldl (fun (st : Option Nat × State) off =>
      if st.1.isSome then st else
      let c : CRec := { loc := mkLoc n (off / 16) false, ref := r.ref }
      match st.2.readFrame p c marks [] with
      | (some f, s1) => match s1.openFrame p (profOf (s1.pool p) h) c f with
        | some d => if fixityOk (s1.pool p) h d then (some c.loc, s1) else (none, s1)
        | none => (none, s1)
      | (none, s1) => (none, s1)) (none, q.2)
    match hit with
    | (some loc, s1) => (some loc, s1)
    | (none, s1) => searchSegs p h marks l s1

/-- Does a record's LOC lead to a page that reads as erased, or whose tag names another segment or handle (R244)? -/
def locWrong (s : State) (p h : Nat) : Bool :=
  let x := s.pool p
  let r := x.rec' h
  if !r.live || r.lost then false else
  if r.biv then
    match Tbl.find x.units r.seg with
    | none => true
    | some u =>
      let ok := fun (a : Nat) => match Tbl.find (s.mslab a).pages (r.off / 4096) with
        | some f => f.bad || (decide (fieldAt f.bytes (4096 + 0x20) 6 = h) && decide (fieldAt f.bytes (4096 + 4) 4 = r.seg))
        | none => false
      !(ok u.a) && !(ok u.b)
  else
    match Tbl.find x.segs r.seg with
    | none => true
    | some g =>
      match Tbl.find (s.mslab (g.members.getD (segMember g.k r.off) { slab := 0, state := 0, rows := 0 }).slab).pages (segPageOf g.k r.off) with
      | some f => !f.bad && decide (fieldAt f.bytes (4096 + 4) 4 ≠ r.seg)
      | none => decide ((g.members.getD (segMember g.k r.off) { slab := 0, state := 0, rows := 0 }).state = 0)

/-- The segments of the search, in its order (R244, R302): those sealed since the newest anchor, those open, and those that a reshape
retains. -/
def searchOrder (x : Pool) : List Nat :=
  let l := x.segs.filter (fun q => decide (q.2.state ≠ 3))
  let sealed := l.filter (fun q => decide (q.2.state ≠ 0) && !q.2.retained && decide (q.2.sealTime.toNat ≥ x.ckpt.anchorAt.toNat))
  (sealed ++ l.filter (fun q => decide (q.2.state = 0)) ++ l.filter (fun q => decide (q.2.state ≠ 0) && q.2.retained)).map Prod.fst

/-- A chunk whose LOC leads to an erased or foreign page is searched by its markers (R244, R302): found, a MOVE group corrects its LOC and
the record names both places; else it is lost. The commands that wait for it go on. -/
def findErased (s : State) (p h : Nat) (marks : Marks) : State :=
  let r := (s.pool p).rec' h
  let free := fun (t : State) => { t with host := { t.host with cmds := t.host.cmds.map (fun (q : Nat × HCmd) =>
    if q.2.search = some h then (q.1, { q.2 with search := none }) else q) } }
  match searchSegs p h marks (searchOrder (s.pool p)) s with
  | (some loc, s1) =>
    let s2 := (s1.submit p 9 [eMove p h loc r.loc]).updPool p (fun y => y.updSeg (bits loc 0 32) (fun g =>
      if g.retained then { g with retained := false, source := y.reshape.isSome } else g))
    free (s2.libBook 0x101 (leBytes 1 p ++ leBytes 6 h ++ leBytes 8 r.loc ++ leBytes 8 loc))
  | (none, s1) => free (s1.loseChunk p h)

end State

end Sys2Proof.Machine
end

