-- ==== Sys2Proof/Machine/Movers.lean ====
section
/-! DEFINITION. Movers (R189, R221–R225, R238, R239, R253, R259, R271, R272, R280–R282, R300): destage, collection, rewrites
and reshape fill segments row by row; sealing, closing short, releasing and erasing. -/

namespace Sys2Proof.Machine

namespace State

/-! ### Segments -/

/-- The segment marker of a frame (R222). -/
def marker (p h flen : Nat) : Bytes :=
  let b := leBytes 2 0xC15B ++ leBytes 1 p ++ [0] ++ leBytes 6 h ++ leBytes 3 flen ++ [0]
  b ++ leBytes 2 (crc32c b)

/-- The slabs of a new segment, one member at a time in unused domains (R272), on modules that the tag scan leaves room for
(R243). -/
def pickMembers (s : State) (p : Nat) : Nat → List Nat → List Nat
  | 0, l => l
  | n + 1, l =>
    match s.pickSlab p ((s.usable p).filter (fun m => !(l.map (fun a => domainOf (saMod a))).contains (domainOf m)
        && decide (tagLoad (s.pool p) m + 16384 ≤ 131072))) with
    | some a => pickMembers s p n (l ++ [a])
    | none => l

/-- Open segments of a class: destage, or everything else (R224). -/
def openSegs (x : Pool) (origin : Nat) : List (Nat × Seg) :=
  x.segs.filter (fun q => decide (q.2.state = 0) && decide ((q.2.origin = 1) ↔ (origin = 1)))

/-- Those that still take frames: not being closed short. -/
def takingSegs (x : Pool) (origin : Nat) : List (Nat × Seg) := (openSegs x origin).filter (fun q => q.2.closing.isNone)

/-- Open a segment of the write width (R221, R271): with D − 2 below 6 nothing opens, and NO_WIDTH is booked once. -/
def openSeg (s : State) (p origin : Nat) : State :=
  let k := s.writeWidth p
  if k < 6 then (if (s.pool p).noWidth then s else (s.updPool p (fun x => { x with noWidth := true })).libBook 0x108 (leBytes 1 p)) else
  let s := s.updPool p (fun x => { x with noWidth := false })
  if (openSegs (s.pool p) origin).length ≥ 8 then s else
  let l := s.pickMembers p (k + 2) []
  if l.length < k + 2 then s else
  let n := (s.pool p).nextSeg
  let s1 := s.submit p origin ((List.range (k + 2)).map (fun i => eSlab p (l.getD i 0) 2 i n))
  s1.updPool p (fun x => { (x.updSeg n (fun g => { g with origin := origin, k := k })) with
                                     colSegs := x.colSegs + b2n (decide (origin = 2)) })

/-- Close a segment at its last complete row (R254, R284, R335): SEAL with the rows written, END their data; chunks of an
unfinished row keep their LOC. -/
def closeSeg (s : State) (p n : Nat) : State :=
  match Tbl.find (s.pool p).segs n with
  | none => s
  | some g =>
    if g.state ≠ 0 then s else
    let s1 := { s with svc := s.svc.filter (fun q => match q.2 with
      | .row a b _ _ _ _ => !decide (a = p ∧ b = n)
      | .region a b _ _ => !decide (a = p ∧ b = n)
      | _ => true) }
    s1.submit p g.origin [eSeal p n 1 (g.rows * g.k * 4096) g.rows]

/-! ### Rows (R223, R280) -/

/-- The tag of one page of a row (R212). -/
def rowTag (p n : Nat) (g : Seg) (epoch : Nat) (time : W64) (member page : Nat) (pad : Bool) : Bytes :=
  let kind := if member < g.k then 2 else if member = g.k then 3 else 4
  let start := (page / 16 * g.k + member) * 65536 + page % 16 * 4096
  let first := g.moving.find? (fun m => let a := bits m.new 32 27 * 16 - 16; decide (start ≤ a) && decide (a < start + 4096))
  let (h, aux) := match first with
    | some m => if kind = 2 then (m.handle, (bits m.new 32 27 * 16 - 16 - start) / 16) else (0, 0)
    | none => (0, if kind = 2 then 0xFFFF else 0)
  mkTag kind p (8 * b2n (pad && decide (kind = 2))) n page member epoch g.opened time h aux g.k

/-- The strips of the row in the buffer, with P and Q (R274). -/
def rowStrips (g : Seg) : List Bytes :=
  let d := (List.range g.k).map (fun i => sliceAt g.buffer (65536 * i) 65536)
  d ++ [parP 65536 d, parQ 65536 d]

/-- The pages of one member's strip. -/
def stripPages (p n : Nat) (g : Seg) (epoch : Nat) (time : W64) (member : Nat) (strip : Bytes) (live : Nat) : List Bytes :=
  (List.range 16).map (fun i =>
    let page := 16 * g.rows + i
    sealPage (sliceAt strip (4096 * i) 4096) (rowTag p n g epoch time member page (decide (live ≤ 65536 * member + 4096 * i))))

/-- The three modules of a REGION group (R280): distinct domains and groups, off the segment where possible. -/
def regionMods (s : State) (p : Nat) (g : Seg) : List Nat :=
  let all := (s.usable p).filter (fun m => (Tbl.find (s.pool p).logs m).isSome)
  let off := all.filter (fun m => !(g.members.map (fun y => saMod y.slab)).contains m)
  let choose := fun (l : List Nat) (spread : Bool) => l.foldl (fun (a : List Nat) m =>
    if a.length < 3 ∧ !(a.map domainOf).contains (domainOf m) ∧ (!spread ∨ !(a.map groupOf).contains (groupOf m)) then a ++ [m] else a) []
  let a := choose off true
  if a.length = 3 then a else
  let b := choose all true
  if b.length = 3 then b else choose all false

/-- Modules that may take the place of one of the three (R282), those that the rule of R280 prefers first. -/
def regionFourth (s : State) (p : Nat) (g : Seg) (m : Nat) : List Nat :=
  let rest := g.regDue.filter (fun k => decide (k ≠ m))
  let all := (s.usable p).filter (fun k => (Tbl.find (s.pool p).logs k).isSome && !decide (k ∈ g.regDue))
  let apart := all.filter (fun k => !(rest.map domainOf).contains (domainOf k) && !(rest.map groupOf).contains (groupOf k))
  apart.filter (fun k => !(g.members.map (fun y => saMod y.slab)).contains k) ++ apart ++ all

/-- Set the region's bit by a REGION group and three appends (R280); complete regions are cleared in the same entry. -/
def setRegion (s : State) (p n : Nat) (g : Seg) : State :=
  if s.svc.any (fun q => match q.2 with
    | .region a b _ _ => decide (a = p) && decide (b = 2 ^ 32)
    | _ => false) then s else
  let ms := s.regionMods p g
  let a := s.acceptGroup p g.origin [eRegion p n (2 ^ (g.rows / 64)) g.k] none 0
  (a.1.updPool p (fun x => x.updSeg n (fun y => { y with regDue := ms, regDone := 0, regSeq := a.2.seq, regMods := [] }))).addSvcs
    (ms.map (fun m => .region p n m a.2))

/-- Bytes that rewrites and the other movers program into the data slabs of a segment with one row (R250): a row counts for
rewrites when its last chunk moves with ORIGIN 9. -/
def countRow (g : Seg) (x : Pool) : Pool :=
  if (g.moving.getLast?.map Moving.origin) = some 9 then { x with progRewrite := x.progRewrite + g.k * 65536 }
  else { x with progMoved := x.progMoved + g.k * 65536 }

/-- Issue the row that stands in the buffer, once its slabs are durable and its region's bit is durable (R211, R223, R280). In a segment
that is being closed short, pages beyond the data are tagged PAD (R224). -/
def issueRow (s : State) (p n : Nat) : State :=
  match Tbl.find (s.pool p).segs n with
  | none => s
  | some g =>
    let x := s.pool p
    if g.state ≠ 0 ∨ g.flying ≠ 0 ∨ g.buffer.length < g.k * 65536 then s
    else if !(g.members.all (fun m => slabReady x m.slab)) then s
    else if !bit g.regions (g.rows / 64) then s.setRegion p n g
    else if !g.regDue.isEmpty then s
    else
      let live := (g.closing.getD ((g.rows + 1) * (g.k * 65536))) - g.rows * (g.k * 65536)
      let strips := rowStrips g
      let svcs := (List.range (g.k + 2)).map (fun i =>
        Svc.row p n i ((g.members.getD i { slab := 0, state := 0, rows := 0 }).slab) (16 * g.rows)
          (stripPages p n g x.epoch s.time i (strips.getD i []) live))
      (s.updPool p (fun y => (countRow g y).updSeg n (fun z => { z with flying := 1, due := List.range (g.k + 2) }))).addSvcs svcs

/-- An open segment is closed short (R224 steps 1 and 2): its partly filled rows are padded with zeros and programmed; the SEAL follows
the last of them, or at once where nothing is in the buffer. -/
def closeShort (s : State) (p n : Nat) : State :=
  match Tbl.find (s.pool p).segs n with
  | none => s
  | some g =>
    if g.state ≠ 0 ∨ g.flying ≠ 0 then s
    else if g.closing.isSome then s.issueRow p n
    else if g.buffer.isEmpty then s.closeSeg p n
    else
      let row := g.k * 65536
      (s.updPool p (fun x => x.updSeg n (fun y => { y with
        closing := some (g.rows * row + g.buffer.length), buffer := padTo (ceilDiv g.buffer.length row * row) y.buffer }))).issueRow p n

/-- Put one frame into an open segment of a class (R223 step 1): marker, frame encrypted for its place. The chunk's old LOC
stays until its row is complete. -/
def putFrame (s : State) (p n h origin : Nat) (r : CRec) (plain : Bytes) : State :=
  match Tbl.find (s.pool p).segs n with
  | none => s
  | some g =>
    let at_ := g.rows * g.k * 65536 + g.buffer.length
    let loc := mkLoc n ((at_ + 16) / 16) false
    let f := s.cryptFrame p true loc plain
    let b := g.buffer ++ marker p h r.flen ++ f
    let b := b ++ zeros ((16 - b.length % 16) % 16)
    let s1 := s.updPool p (fun x => x.updSeg n (fun y => { y with
      buffer := b, moving := y.moving ++ [{ handle := h, old := r.loc, new := loc, ende := at_ + 16 + f.length, origin := origin }] }))
    s1.issueRow p n

/-- Is the chunk on its way in some open segment? -/
def inMove (x : Pool) (h : Nat) : Bool := x.segs.any (fun q => q.2.moving.any (fun m => decide (m.handle = h)))

/-- Room in a segment for a frame. -/
def segRoom (g : Seg) (flen : Nat) : Bool :=
  decide (g.rows * g.k * 65536 + g.buffer.length + 16 + flen ≤ g.k * slabBytes)

/-- An open segment of a class with room for a frame (R223); where none has, those that are too full for it are closed short and a
new one is opened. -/
def roomFor (s : State) (p origin flen : Nat) : State × Option Nat :=
  let find := fun (t : State) => ((takingSegs (t.pool p) origin).find? (fun q => segRoom q.2 flen)).map Prod.fst
  match find s with
  | some n => (s, some n)
  | none =>
    let s1 := ((takingSegs (s.pool p) origin).foldl (fun t q => t.closeShort p q.1) s).openSeg p origin
    (s1, find s1)

/-- Does a chunk stand in a segment that patrol has still to read in the running pass (R259)? -/
def aheadOfPatrol (x : Pool) (r : CRec) : Bool :=
  x.pass.running && !r.biv && decide (r.seg > x.pass.position) && decide (r.seg ∈ x.pass.queue)

/-- Move one chunk by a mover of an ORIGIN: read from where it stands, decrypted, re-encrypted (R201, R223, R225). Ahead of patrol it
is audited as well (R259), and stays where it is when that finds it wrong (R262). A LOC that leads to an erased or foreign page is
searched for (R244). -/
def moveChunk (s : State) (p h origin : Nat) (marks : Marks) : State :=
  let r := (s.pool p).rec' h
  if s.locWrong p h then s.findErased p h marks else
  let s0 := if aheadOfPatrol (s.pool p) r then (s.updPool p (fun x => s.noteCorr x marks)).auditChunk p h marks none else s
  if (s0.pool p).rec' h ≠ r ∨ s0.plans.any (fun q => decide (q.2.pool = p) && q.2.items.any (fun i => decide (i.form = 7 ∧ i.handle = h))) then s0 else
  match s0.readFrame p r marks [] with
  | (none, s1) => s1
  | (some f, s1) =>
    let plain := s1.cryptFrame p false r.loc f
    match s1.roomFor p origin r.flen with
    | (s2, some n) => s2.putFrame p n h origin r plain
    | (s2, none) => s2

/-- The live chunks that a unit or a segment still holds, in the order of their offsets. -/
def chunksOf (x : Pool) (biv : Bool) (n : Nat) : List (Nat × CRec) :=
  let l := x.recs.filter (fun q => q.2.valid && decide (q.2.biv = biv) && decide (q.2.seg = n) && !q.2.dying && !q.2.lost)
  let ins := fun (a : List (Nat × CRec)) (q : Nat × CRec) =>
    a.filter (fun z => decide (z.2.off ≤ q.2.off)) ++ [q] ++ a.filter (fun z => decide (z.2.off > q.2.off))
  l.foldl ins []

/-- Is the unit or segment drained: no live chunk, and no DYING one on the dying list (R225, R239)? -/
def drainedSrc (x : Pool) (biv : Bool) (n : Nat) : Bool :=
  x.recs.all (fun q => !(q.2.valid && decide (q.2.biv = biv) && decide (q.2.seg = n)) || (q.2.dying && !decide (q.1 ∈ x.dying)))

/-- Does some pending host write name the unit (R323)? -/
def unitPending (s : State) (p n : Nat) : Bool :=
  ((s.pool p).waiting.any (fun g => g.body.any (fun e => decide (eTyp e = 2) && bit (fieldAt e 0x10 8) 59 && decide (fieldAt e 0x10 4 = n))))
  || s.plans.any (fun q => decide (q.2.pool = p) && q.2.items.any (fun i => i.fresh && decide (bits i.loc 0 32 = n)))

/-- Where the MOVE of a source's last chunk stands: key of a unit or a segment. -/
def srcKey (biv : Bool) (n : Nat) : Nat := n + b2n biv * 2 ^ 40

/-- RELEASE of a drained source (R239): the records of its DYING chunks lose VALID in the same group; those that one group cannot
hold lose it in groups before. -/
def release (s : State) (p : Nat) (biv : Bool) (n origin : Nat) : State :=
  let x := s.pool p
  if x.releases.any (fun r => decide (r.1 = b2n (!biv) ∧ r.2.1 = n)) then s else
  let dead := (x.recs.filter (fun q => q.2.valid && decide (q.2.biv = biv) && decide (q.2.seg = n))).map
    (fun q => eChunk p q.1 { q.2 with ref := q.2.ref % 2 ^ 63 })
  let a := (s.inGroups p origin 1000 dead.length (dead.drop 1000)).acceptGroup p origin (dead.take 1000 ++ [eRelease p n (b2n (!biv))]) none 0
  a.1.updPool p (fun y => { y with
    releases := y.releases ++ [(b2n (!biv), n, a.2.seq)],
    rewrite := if biv then y.rewrite else y.rewrite.filter (fun q => decide (q.1 ≠ n)) })

/-! ### Choice of sources -/

/-- The unit that destage takes: those at the front first, then the oldest sealed one (R220, R225). -/
def destageUnit (s : State) (p : Nat) : Option Nat :=
  let x := s.pool p
  let c := x.units.filter (fun q => (q.2.sealed || q.2.front) && !s.unitPending p q.1 && (chunksOf x true q.1).any (fun z => !inMove x z.1))
  (minBy (fun q => (1 - b2n q.2.front) * 2 ^ 80 + q.2.order) c).map Prod.fst

/-- The ORIGIN with which a segment is emptied: a rewrite's, a reshape's or collection's (R227, R250, R300). -/
def segOrigin (x : Pool) (n : Nat) : Nat :=
  if x.rewrite.any (fun q => decide (q.1 = n)) then 9
  else match Tbl.find x.segs n with
    | some g => if g.retained || g.source then 7 else 2
    | none => 2

/-- Destage's class changes at 75 % and 50 % of the landing capacity (R219). -/
def destageClass (s : State) (p : Nat) : State :=
  s.updPool p (fun x =>
    let cap := s.bivTarget p / 8
    let f := bivFill x
    { x with destageHost := if f * 4 ≥ cap * 3 then true else if f * 2 < cap then false else x.destageHost })

/-- Segments that collection may take: sealed, neither a reshape's source nor retained, nor the one patrol reads (R238,
R259, R292, R300). -/
def collectable (x : Pool) : List (Nat × Seg) :=
  x.segs.filter (fun q => decide (q.2.state = 1 ∨ q.2.state = 2) && !q.2.source && !q.2.retained
    && !(x.pass.running && decide (x.pass.position = q.1)))

/-- WEAR% in hundredths of a point of a slab (R252). -/
def wearOf (s : State) (p sa : Nat) : Nat :=
  let lim := 10 * (s.modu (saMod sa)).ident.qlcPe
  if lim = 0 then 0 else 10000 * ((s.pool p).slabUse sa).wear / lim

/-- The sealed segment that holds the least-worn slab, where the wear gap passes 10 points (R253). -/
def wearGap (s : State) (p : Nat) : Option Nat :=
  let ws := (collectable (s.pool p)).flatMap (fun q => q.2.members.map (fun m => (s.wearOf p m.slab, q.1)))
  match minBy Prod.fst ws with
  | some (w, n) => if ws.foldl (fun a q => max a q.1) 0 > w + 1000 then some n else none
  | none => none

/-- A move across the wear gap begins, at most one for every 50 segments that collection writes, and lasts until its segment is
gone (R253). -/
def gapPick (s : State) (p : Nat) : State :=
  let x := s.pool p
  let on := match x.gapSeg with
    | some n => (collectable x).any (fun q => decide (q.1 = n))
    | none => false
  if on then s else
  match s.wearGap p with
  | some n =>
    if x.gapNext ≤ x.colSegs then s.updPool p (fun y => { y with gapSeg := some n, gapNext := y.colSegs + 50 })
    else s.updPool p (fun y => { y with gapSeg := none })
  | none => s.updPool p (fun y => { y with gapSeg := none })

/-- The segment collection takes now: the rewrite list first, then a move across the wear gap, then lowest live fraction, oldest SEAL
on a tie (R238, R249, R250, R253). -/
def collectSource (s : State) (p : Nat) : Option (Nat × Nat) :=
  let x := s.pool p
  let ok := collectable x
  let listed := (x.rewrite.filter Prod.snd ++ x.rewrite.filter (fun q => !q.2)).filter (fun q =>
    ok.any (fun z => decide (z.1 = q.1) && decide (notGood z.2 = 0)))
  match listed with
  | q :: _ => some (q.1, 9)
  | [] =>
    match x.gapSeg with
    | some n => if ok.any (fun z => decide (z.1 = n)) then some (n, 2) else none
    | none =>
      if !x.collecting then none
      else (minBy (fun q => x.liveBytes q.1 * 2 ^ 90 / (max 1 q.2.k) + q.2.sealTime.toNat) ok).map (fun q => (q.1, 2))

/-- Erased slabs outside the bivouac, in bytes (R238). -/
def erasedBytes (x : Pool) : Nat := (x.uses.filter (fun q => q.2.erased && !q.2.spare && !q.2.retired)).length * slabBytes

/-- Collection starts below 4 % of raw and stops at 6 % (R238). -/
def collectSwitch (s : State) (p : Nat) : State :=
  s.updPool p (fun x =>
    let raw := s.rawSlabs p * slabBytes
    let e := erasedBytes x
    { x with collecting := if e * 100 < raw * 4 then true else if e * 100 ≥ raw * 6 then false else x.collecting })

/-- Move the next chunk of a source segment, or release it when it is drained and its last MOVE is durable. -/
def emptySeg (s : State) (p n origin : Nat) (marks : Marks) : State :=
  let x := s.pool p
  match (chunksOf x false n).find? (fun q => !inMove x q.1) with
  | some q => s.moveChunk p q.1 origin marks
  | none =>
    if drainedSrc x false n ∧ Tbl.getD x.moved (srcKey false n) 0 ≤ x.durable then s.release p false n origin else s

/-- The MOVE entries of a row, in the order of its chunks (R223 step 4), in groups of one ORIGIN and at most 1,000 entries (R228). -/
def submitMoves (p : Nat) : Nat → List Moving → State → State
  | 0, _, s => s
  | f + 1, l, s =>
    match l with
    | [] => s
    | m :: _ =>
      let now := (l.takeWhile (fun z => decide (z.origin = m.origin))).take 1000
      let a := s.acceptGroup p m.origin (now.map (fun z => eMove p z.handle z.new z.old)) none 0
      let mv := fun (t : Tbl Nat) => now.foldl (fun t z => Tbl.set t (srcKey (bit z.old 59) (bits z.old 0 32)) a.2.seq) t
      submitMoves p f (l.drop now.length) (a.1.updPool p (fun x => { x with moved := mv x.moved }))

/-! ### Row ends -/

/-- A member's row program has ended (R223, R254). -/
def rowEnd (s : State) (p n i sa : Nat) (status result : Nat) : State :=
  if status = 0 then s.updPool p (fun x => x.updSeg n (fun g => { g with due := g.due.filter (fun d => decide (d ≠ i)) }))
  else if status = 0x20 ∧ result % 2 ^ 16 = resvConflict then s.conflictStop (saMod sa)
  else
    let s1 := if retires status then s.retireSlab p sa 3 else s
    s1.closeSeg p n

/-- A REGION append has ended; a failure before completion goes to a fourth module (R280, R282). -/
def regionEnd (s : State) (p n m : Nat) (g : Group) (status result : Nat) : State :=
  if status = 0 then
    (s.updPool p (fun x => { x with logs := Tbl.upd x.logs m (fun l => { l with seqs := l.seqs ++ [g.seq] }) })).updPool p
      (fun x => x.updSeg n (fun y => { y with regDone := y.regDone + 1, regMods := y.regMods ++ [m] }))
  else if status = 0x20 ∧ result % 2 ^ 16 = resvConflict then s.conflictStop m
  else if status = 0x20 ∧ result % 2 ^ 16 = quinken 0x88 then (s.switchLog p m false).addSvc (.region p n m g)
  else
    let s := s.logFailed p m status
    match Tbl.find (s.pool p).segs n with
    | none =>
      if n ≠ 2 ^ 32 then s else
      match (s.usable p).filter (fun k => (Tbl.find (s.pool p).logs k).isSome && decide (domainOf k ≠ domainOf m)) with
      | k :: _ => s.addSvc (.region p n k g)
      | [] => s
    | some y =>
      match s.regionFourth p y m with
      | k :: _ => (s.updPool p (fun x => x.updSeg n (fun z => { z with regDue := z.regDue ++ [k] }))).addSvc (.region p n k g)
      | [] => s

/-- A rebuilt row's program has ended on its target (R289): the member's ROWS advance; a failed target is replaced (R254,
R293). -/
def rebuiltEnd (s : State) (p n i sa first : Nat) (status result : Nat) : State :=
  if status = 0 then
    s.updPool p (fun x => x.updSeg n (fun g => { g with members := g.members.map (fun m =>
      if m.slab = sa ∧ m.state = 2 then { m with rows := max m.rows (first / 16 + 1) } else m) }))
  else if status = 0x20 ∧ result % 2 ^ 16 = resvConflict then s.conflictStop (saMod sa)
  else
    let s1 := if retires status then s.retireSlab p sa 3 else s
    s1.updPool p (fun x => x.updSeg n (fun g => { g with members := g.members.map (fun m =>
      if m.slab = sa then { m with state := 1, rows := 0 } else m) }))

/-- A reshape reaches its end when every source has flipped and no excluded module holds a slab in use (R303). The retained sources' own
slabs are released by END itself. -/
def reshapeEnded (x : Pool) (r : Reshape) : Bool :=
  x.segs.all (fun q => !q.2.source) && x.uses.all (fun q => !decide (saMod q.1 ∈ r.exclude) || decide (q.2.use = 6)
    || x.segs.any (fun g => g.2.retained && g.2.members.any (fun m => decide (m.slab = q.1))))

end State

/-! ### Commands -/

/-- DESTAGE (R225): the next chunk of the next unit goes to a destage segment; background work stops outside serving modes. -/
def execDestage (pool : Nat) (marks : Marks) (s : State) : Res :=
  if !s.owns pool then .next s else
  let s := s.destageClass pool
  match s.destageUnit pool with
  | none => .next s
  | some u =>
    let x := s.pool pool
    match (State.chunksOf x true u).find? (fun q => !State.inMove x q.1) with
    | some q => .next (s.moveChunk pool q.1 1 marks)
    | none => .next s

/-- COLLECTION (R238). -/
def execCollection (pool : Nat) (marks : Marks) (s : State) : Res :=
  if !s.owns pool then .next s else
  let s := (s.collectSwitch pool).gapPick pool
  match s.collectSource pool with
  | none => .next s
  | some (n, origin) => .next (s.emptySeg pool n origin marks)

/-- REGION_BIT_DURABLE (R280): two of the three appends are complete and, with a live shadow, the group is acknowledged; the
row may then be issued. -/
def execRegionBitDurable (pool seg : Nat) (s : State) : Res :=
  match Tbl.find (s.pool pool).segs seg with
  | none => .next s
  | some g =>
    if g.regDone ≥ 2 ∧ !g.regDue.isEmpty ∧ (!s.hasShadow pool ∨ g.regSeq ∉ (s.pool pool).sentSeqs) then
      .next ((s.updPool pool (fun x => x.updSeg seg (fun y => { y with regDue := [] }))).issueRow pool seg)
    else .next s

/-- STRIPE_ROW_COMPLETE (R223): all k + 2 programs are complete; LOC stores and MOVE entries for the chunks that end in the
row; the segment is sealed with its last row, END its data length in 16-byte units (R224). -/
def execStripeRowComplete (pool seg : Nat) (s : State) : Res :=
  match Tbl.find (s.pool pool).segs seg with
  | none => .next s
  | some g =>
    if g.flying = 0 ∨ !g.due.isEmpty ∨ (s.pool pool).ckpt.cutting then .next s else
    let bytes := g.k * 65536
    let ends := g.moving.filter (fun m => decide (m.ende ≤ (g.rows + 1) * bytes))
    let live := ends.filter (fun m => ((s.pool pool).rec' m.handle).valid && decide (((s.pool pool).rec' m.handle).loc = m.old))
    let s1 := s.updPool pool (fun x => x.updSeg seg (fun y => { y with
      rows := y.rows + 1, flying := 0, buffer := y.buffer.drop bytes,
      moving := y.moving.filter (fun m => !decide (m.ende ≤ (g.rows + 1) * bytes)) }))
    let s2 := (State.submitMoves pool live.length live s1).shadowSegSend pool seg
    let last := decide (g.rows + 1 = 1024) || (g.closing.isSome && decide (g.buffer.length ≤ bytes))
    .next (if last then s2.submit pool g.origin [eSeal pool seg 1 (ceilDiv (g.closing.getD ((g.rows + 1) * bytes)) 16) (g.rows + 1)]
      else s2.issueRow pool seg)

/-- SEGMENT_CLOSE_SHORT (R224): in mode HANDOVER, or while the pool is being released, the partly filled row is padded, programmed and
sealed; with nothing in the row the SEAL follows at once. A head in SERVICE owns no pool. -/
def execSegmentCloseShort (pool seg : Nat) (s : State) : Res :=
  if s.pwr.mode = 7 ∨ (s.pool pool).moveTo.isSome then .next (s.closeShort pool seg) else .next s

/-- RELEASE_ERASE (R239): a drained source whose last MOVE is durable is released; its slabs are erased once the RELEASE is
durable. -/
def execReleaseErase (pool : Nat) (segment : Bool) (n : Nat) (s : State) : Res :=
  let x := s.pool pool
  let there := if segment then (match Tbl.find x.segs n with | some g => decide (g.state = 1 ∨ g.state = 2) && !g.retained | none => false)
    else (match Tbl.find x.units n with | some u => u.sealed | none => false) && !s.unitPending pool n
  if s.owns pool ∧ there ∧ State.drainedSrc x (!segment) n ∧ Tbl.getD x.moved (State.srcKey (!segment) n) 0 ≤ x.durable then
    .next (s.release pool (!segment) n (if segment then State.segOrigin x n else 1))
  else .next s

/-- REWRITE (R249, R250): the first segment of the rewrite list moves one chunk on, with ORIGIN 9. -/
def execRewrite (pool : Nat) (marks : Marks) (s : State) : Res :=
  if !s.owns pool then .next s else
  match s.collectSource pool with
  | some (n, 9) => .next (s.emptySeg pool n 9 marks)
  | _ => .next s

end Sys2Proof.Machine
end

