-- ==== Sys2Proof/Machine/Ckpt.lean ====
section
/-! DEFINITION. Superblocks and anchors (R236, R310, R311), and checkpoints
(R234, R235). -/

namespace Sys2Proof.Machine

namespace State

/-! ### Superblocks (R236, R310) -/

/-- The checkpoint anchor. -/
def anchorBytes (x : Pool) (p gen start : Nat) (time : W64) : Bytes :=
  let c := x.ckpt
  let sa := fun (l : List Nat) => (List.range 3).flatMap (fun i => match l[i]? with | some a => saBytes a | none => zeros 6)
  let a := leBytes 2 1 ++ leBytes 1 p ++ [0] ++ leBytes 4 x.epoch ++ leBytes 8 gen ++ leBytes 8 start ++ leBytes 8 time.toNat
    ++ sa (c.newChain.take 3) ++ sa c.jat ++ leBytes 4 c.jp ++ leBytes 8 c.dirLen ++ leBytes 8 c.rootLen ++ leBytes 8 c.openLen
    ++ zeros 28
  a ++ leBytes 4 (crc32c a)

/-- The newest superblock page of a module for a pool whose SB_CRC verifies. -/
def sbRead (s : State) (m p : Nat) : Option Bytes :=
  let pages := [0, 1].flatMap (fun k => (s.mslab (saOf m k)).pages.map (fun q => q.2))
  let ok := (pages.filter (fun f => !f.bad && pageOk f.bytes && decide (fieldAt f.bytes 4097 1 = 7) && decide (fieldAt f.bytes 2 1 % 16 = p)
    && decide (fieldAt f.bytes 0xFFC 4 = crc32c (f.bytes.take 0xFFC)))).map FPage.bytes
  ok.foldl (fun a b => match a with
    | some c => if fieldAt b 0x20 8 ≥ fieldAt c 0x20 8 then some b else some c
    | none => some b) none

/-- The superblock with the highest SB_GEN that this head can see for a pool on its set. -/
def sbSeen (s : State) (p : Nat) : Bytes :=
  ((sbSet (s.pool p)).filterMap (fun m => s.sbRead m p)).foldl (fun a b => if a.isEmpty ∨ fieldAt a 0x20 8 < fieldAt b 0x20 8 then b else a) []

/-- The SB_GEN of the next superblock page: one more than the highest this head has seen. -/
def sbNext (s : State) (p : Nat) : Nat := max (s.pool p).ckpt.sbGen (fieldAt (s.sbSeen p) 0x20 8) + 1

/-- A superblock page with an anchor. `state` is OWNER_STATE. The peer's serial is the one that PAIR_KEYS gave, else the newest page's
(log entry 96). -/
def sbPage (s : State) (p : Nat) (anchor : Bytes) (deleted : Bool) (owner state : Nat) : Bytes :=
  let x := s.pool p
  let peer := s.peerSerial.getD (padTo 8 (sliceAt (s.sbSeen p) (0x40 + 8 * (1 - s.headId)) 8))
  let own := leBytes 8 s.fuses.serial.toNat
  let serials := if s.headId = 0 then own ++ peer else peer ++ own
  let d := leBytes 2 1 ++ leBytes 1 p ++ [0] ++ leBytes 4 (b2n deleted) ++ padTo 16 x.poolId ++ leBytes 8 x.created.toNat
    ++ leBytes 8 (s.sbNext p) ++ leBytes 1 owner ++ leBytes 1 state ++ leBytes 1 (x.moveTo.getD 0) ++ [0] ++ leBytes 4 x.epoch
    ++ leBytes 8 x.ownerTerm.toNat ++ leBytes 8 x.ownerTime.toNat ++ serials
    ++ padTo 30 ((sbSet x).flatMap (fun m => saBytes (saOf m 0))) ++ zeros 18 ++ padTo 128 anchor ++ zeros 3836
  sealPage (d ++ leBytes 4 (crc32c d)) (mkTag 7 p 0 0 0 0 x.epoch 0 s.time 0 0 0)

/-- Where a module's next superblock page goes: label slab, page, and whether that slab must be erased first. A retired label slab
(R254) is left. -/
def labelSpot (s : State) (m : Nat) : Nat × Nat × Bool :=
  let last := fun (k : Nat) => (s.mslab (saOf m k)).pages.foldl (fun a q => max a (fieldAt q.2.bytes 0x20 8)) 0
  let cnt := fun (k : Nat) => (s.mslab (saOf m k)).pages.foldl (fun a q => max a (q.1 + 1)) 0
  let bad := fun (k : Nat) => s.pools.any (fun q => (q.2.slabUse (saOf m k)).retired)
  let new := if last 1 > last 0 then 1 else 0
  let cur := if bad new && !bad (1 - new) then 1 - new else new
  if cnt cur < 4096 then (saOf m cur, cnt cur, false) else (saOf m (1 - cur), 0, true)

/-- Write a superblock page of pool `p` to a module, its place in the tag (R212): STATUS, RESULT, state. An erase of the label slab is
wear (R252). -/
def labelWrite (s : State) (p m : Nat) (page : Bytes) (o : ModOut) : Nat × Nat × State :=
  let (sa, first, erase) := s.labelSpot m
  let s1 := if erase then
      (s.cmdErase sa (.ok 0)).2.2.updPool p (fun x => x.setUse sa { x.slabUse sa with wear := (x.slabUse sa).wear + 1 })
    else s
  s1.cmdProgram sa first 1 [sealPage (pageData page) (spliceAt ((pageTag page).take 60) 8 (leBytes 2 first))] o

/-- Write a superblock to every copy at once (R311). -/
def sbWriteAll (s : State) (p : Nat) (anchor : Bytes) (deleted : Bool) (owner state : Nat) : State :=
  let page := s.sbPage p anchor deleted owner state
  ((sbSet (s.pool p)).foldl (fun t m => (t.labelWrite p m page (.ok 0)).2.2) s).updPool p (fun x =>
    { x with ckpt := { x.ckpt with sbGen := s.sbNext p } })

/-- The anchor that the newest superblock of a pool's set carries. -/
def lastAnchor (s : State) (p : Nat) : Bytes :=
  match (sbSet (s.pool p)).filterMap (fun m => s.sbRead m p) with
  | b :: _ => sliceAt b 0x80 128
  | [] => zeros 128

/-! ### Checkpoints (R234, R235) -/

/-- Handles for the META chunks of a checkpoint (R235): the next ones of the reserved range, and once it has been used up the first
that stand free in a row. -/
def metaBase (x : Pool) (n : Nat) : Nat :=
  if x.nextMeta + n ≤ 0x800100000000 then x.nextMeta
  else ((0x800000000000 :: (x.recs.filter (fun q => decide (0x800000000000 ≤ q.1))).map (fun q => q.1 + 1)).find? (fun b =>
    decide (b + n ≤ 0x800100000000) && (List.range n).all (fun i => !(x.rec' (b + i)).valid))).getD x.nextMeta

/-- The META items of a cut: every dirty page, and every preserved image without a flash copy. -/
def metaItems (x : Pool) : List WItem :=
  let ps := x.dir.filter (fun q => q.2.present && q.2.resident && q.2.dirty)
  let ims := x.preserved.filter (fun m => decide (m.flash = 0) && m.objs.isEmpty)
  let base := metaBase x (ps.length + ims.length)
  let item := fun (form ln : Nat) (pos : Int) (i : Nat) (page : Bytes) =>
    let d := metaBytes page
    ({ line := ln, pos := pos, form := form, handle := base + i, fresh := true, digest := [], olen := d.length, loc := 0,
       frame := plainFrame d, alone := true } : WItem)
  let a := (List.range ps.length).map (fun i => let q := ps.getD i (0, DirE.fresh); item 5 q.1 0 i (pageImage x q.1))
  let b := (List.range ims.length).map (fun i =>
    match ims[i]? with
    | some m => item 6 m.mpn (m.high : Int) (ps.length + i) (preservedImage m)
    | none => item 6 0 0 0 [])
  a ++ b

/-- Is anything of the pool in flight that the cut must wait for (R234)? -/
def cutBusy (s : State) (p : Nat) : Bool := !(s.pool p).waiting.isEmpty || s.plans.any (fun q => decide (q.2.pool = p))

def ckptPlan (p : Nat) : Nat := 2 ^ 33 + p

/-- The cut (R234): START_SEQ, where the journal stands, and the META chunks on their way. A copy of the pool as it stands at the cut
serves every image of this checkpoint. -/
def ckptCut (s : State) (p : Nat) : State :=
  let s := if (s.pool p).triple.isEmpty then s.newTriple p else s
  let x := s.pool p
  let items := metaItems x
  let lists := metaLists (items.length + 1) items
  let ridge := ((List.range 8).find? (fun r => s.ridgePresent r)).getD 0
  match placeLists p (ckptPlan p) ridge x.seq lists s with
  | (s1, none) => s.keepSeals s1 p
  | (s1, some (its, svcs, units)) =>
    let w : WPlan := { pool := p, nsid := 0, origin := 5, items := its, key := none, delKey := false, seq := x.seq,
                       due := svcs.length, accepted := false, mods := unitMods (s1.pool p) units, pair := none }
    let s3 := s1.updPool p (fun y => { y with
      seq := max y.seq (x.seq + lists.length),
      nextMeta := max y.nextMeta (min 0x800100000000 (metaBase x items.length + items.length)),
      dir := y.dir.map (fun q => if q.2.dirty then (q.1, { q.2 with dirty := false }) else q),
      ckpt := { y.ckpt with writing := some x.seq, at_ := s.time, flushed := 0, copies := 0, stage := 1, jat := y.triple, jp := y.jpage,
                            newChain := [], cutting := false } })
    let s4 := { s3 with ckpts := Tbl.set s3.ckpts (2 ^ 64 * p + x.ckpt.gen + 1) x }
    if svcs.isEmpty then s4.metaDone p x.seq [] else (s4.setPlan (ckptPlan p) w).addSvcs svcs

/-- A directory entry (R174). -/
def dirBytes (d : DirE) : Bytes :=
  leBytes 8 (b2n d.present + 2 * b2n d.resident + 4 * b2n d.dirty + 8 * b2n d.loading + d.addr / 4096 * 4096) ++ leBytes 6 d.flash ++ leBytes 2 d.epoch

/-- The image of a checkpoint chain: root pages, root table, directory, segment table (R273), open-segment list (R235, R243). The root table's SEGMENT is
the root page's number among root pages and its OFFSET the page's place in the image, each directory entry stands behind its MPN, and
the order within the list is the model's (log entry 37). -/
def chainImage (x : Pool) : Bytes × Bytes × Bytes :=
  let roots := ((x.recs.filter (fun q => decide (q.1 ≥ 2 ^ 47))).map (fun q => q.1 / 256)).eraseDups
  let root := roots.flatMap (fun n => (List.range 256).flatMap (fun i => recBytes (x.rec' (n * 256 + i))))
  let table := (List.range roots.length).flatMap (fun i => leBytes 8 (mkLoc (roots.getD i 0 % 2 ^ 32) (256 * i) false))
  let dir := x.dir.flatMap (fun q => leBytes 8 q.1 ++ dirBytes { q.2 with resident := false, dirty := false, loading := false, addr := 0 })
  let open' := (x.units.filter (fun q => !q.2.sealed)).flatMap (fun q => saBytes q.2.a ++ saBytes q.2.b)
    ++ x.logs.flatMap (fun q => saBytes q.2.cur ++ q.2.olds.flatMap (fun o => saBytes o.1))
    ++ (x.segs.filter (fun q => decide (q.2.state = 0))).flatMap (fun q => leBytes 4 q.1)
    ++ (x.triple :: x.nextTriple :: x.triples).flatMap (fun t => t.flatMap saBytes)
  (root ++ table, dir, segTable x ++ open')

/-- The pool as a checkpoint writes it: as it stood at the cut, with the records of the new META chunks and FLASH of the pages that
they hold (R235 step 2). -/
def ckptImage (s : State) (p : Nat) : Pool :=
  let x := s.pool p
  let im := Tbl.getD s.ckpts (2 ^ 64 * p + x.ckpt.gen + 1) x
  let flash := fun (m : Nat) (d : DirE) => if d.dirty then (x.dirE m).flash else d.flash
  let new := (im.dir.filter (fun q => q.2.dirty)).map (fun q => (x.dirE q.1).flash) ++ x.preserved.map Preserved.flash
  { im with
    dir := im.dir.map (fun q => (q.1, { q.2 with dirty := false, flash := flash q.1 q.2 })),
    preserved := im.preserved.map (fun m => match x.preserved.find? (fun n => decide (n.mpn = m.mpn ∧ n.high = m.high)) with
      | some n => { m with flash := n.flash }
      | none => m),
    recs := new.foldl (fun t h => if h = 0 then t else Tbl.set t h (x.rec' h)) im.recs }

/-- Further slabs of the three chains, each on its chain's module (R235): the firsts, then the seconds, and so on. -/
def chainSlabs (s : State) (p : Nat) : Nat → List Nat → List Nat
  | 0, l => l
  | f + 1, l =>
    let more := ((List.range 3).filterMap (fun c =>
      let m := saMod (l.getD c 0)
      minBy (fun q => q.2.wear * 2 ^ 80 + q.1) ((erasedOn (s.pool p) m).filter (fun q => !decide (q.1 ∈ l))))).map Prod.fst
    if more.length < 3 then [] else chainSlabs s p f (l ++ more)

/-- The programs of one checkpoint slab, `i`-th of its chain: its pages of the image, and a last page that names the next slab (R235). -/
def chainSvcs (s : State) (p : Nat) (slabs : List Nat) (img : Bytes) (j : Nat) : List Svc :=
  let x := s.pool p
  let a := slabs.getD j 0
  let i := j / 3
  let n := min 4095 (ceilDiv img.length 4096 - 4095 * i)
  let link := match slabs[j + 3]? with | some b => saBytes b | none => zeros 6
  let page := fun (q : Nat) => sealPage (if q = n then link else sliceAt img (4096 * (4095 * i + q)) 4096)
    (mkTag 7 p 0 (x.slabUse a).owner q 0 x.epoch 0 s.time 0 0 0)
  (List.range (ceilDiv (n + 1) 16)).map (fun k => Svc.chain p a (16 * k) ((List.range (min 16 (n + 1 - 16 * k))).map (fun q => page (16 * k + q))))

/-- The three chains (R211, R235 step 2): their slabs are assigned, and once that is durable they are programmed. -/
def ckptChain (s : State) (p : Nat) : State :=
  let x := s.pool p
  if x.ckpt.stage ≠ 2 then s else
  let im := s.ckptImage p
  let (r, d, o) := chainImage im
  let img := r ++ d ++ o
  if x.ckpt.newChain.isEmpty then
    let firsts := s.pickTriple p
    if firsts.length < 3 then s else
    let slabs := chainSlabs s p (ceilDiv (ceilDiv img.length 4096) 4095 - 1) firsts
    if slabs.isEmpty then s else
    (s.submit p 5 ((List.range slabs.length).map (fun i => eSlab p (slabs.getD i 0) 5 (i % 3) (x.nextSerial + i)))).updPool p (fun y =>
      { y with ckpt := { y.ckpt with newChain := slabs } })
  else if !(x.ckpt.newChain.all (fun a => slabReady x a)) then s else
  let svcs := (List.range x.ckpt.newChain.length).flatMap (fun j => s.chainSvcs p x.ckpt.newChain img j)
  ({ s with ckpts := Tbl.set s.ckpts (2 ^ 64 * p + x.ckpt.gen + 1) im }.setPool p { x with
    ckpt := { x.ckpt with stage := 3, due := svcs.length, rootLen := r.length, dirLen := d.length, openLen := o.length } }).addSvcs svcs

/-- The new anchor goes to every copy of the superblock (R235 step 3, R311). -/
def ckptAnchor (s : State) (p : Nat) : State :=
  let x := s.pool p
  let a := anchorBytes x p (x.ckpt.gen + 1) (x.ckpt.writing.getD 0) x.ckpt.at_
  let page := s.sbPage p a false s.headId (b2n x.moveTo.isSome)
  (s.setPool p { x with ckpt := { x.ckpt with stage := 4, copies := 0, sbGen := s.sbNext p } }).addSvcs
    ((sbSet x).map (fun m => .anchor p m page))

/-- A chain program has ended; a failure abandons this checkpoint, and the next one starts over. -/
def chainEnd (s : State) (p sa : Nat) (status result : Nat) : State :=
  if status = 0 then
    let s1 := s.updPool p (fun x => { x with ckpt := { x.ckpt with due := x.ckpt.due - 1 } })
    if (s1.pool p).ckpt.due = 0 ∧ (s1.pool p).ckpt.stage = 3 then s1.ckptAnchor p else s1
  else if status = 0x20 ∧ result % 2 ^ 16 = resvConflict then s.conflictStop (saMod sa)
  else
    let s1 := if retires status then s.retireSlab p sa 3 else s
    let rest := (s1.pool p).ckpt.newChain.filter (fun a => !((s1.pool p).slabUse a).retired)
    let s2 := { s1 with svc := s1.svc.filter (fun q => match q.2 with
      | .chain a _ _ _ => decide (a ≠ p)
      | _ => true) }
    (s2.updPool p (fun x => { x with ckpt := { x.ckpt with stage := 0, writing := none, newChain := [], flushed := 2 ^ 30 } })).addSvcs
      (rest.map (fun a => .erase p a))

/-- A copy of the anchor has ended. -/
def anchorEnd (s : State) (p m : Nat) (status result : Nat) : State :=
  if status = 0 then s.updPool p (fun x => { x with ckpt := { x.ckpt with copies := x.ckpt.copies + 1 } })
  else if status = 0x20 ∧ result % 2 ^ 16 = resvConflict then s.conflictStop m
  else if retires status then s.retireSlab p (s.labelSpot m).1 3 else s

/-- Journal triples that precede the one the anchor names. -/
def triplesBefore (x : Pool) : List (List Nat) :=
  if x.ckpt.jat = x.triple then x.triples else x.triples.takeWhile (fun t => decide (t ≠ x.ckpt.jat))

/-- Two copies of the anchor are durable (R235 step 4): CKPT, the previous images counted down, slabs freed. -/
def ckptDone (s : State) (p : Nat) : State :=
  let x := s.pool p
  let old := triplesBefore x
  let s1 := s.submit p 5 (eCkpt p (x.ckpt.writing.getD 0) (x.ckpt.gen + 1) :: (x.ckpt.olds.take 1000).map (fun h => eRef p h false 1))
  let s2 := s1.inGroups p 5 1000 (x.ckpt.olds.length + 1) ((x.ckpt.olds.drop 1000).map (fun h => eRef p h false 1))
  let s3 := s2.addSvcs ((old.flatMap id ++ x.ckpt.chain).map (fun a => .erase p a))
  let s4 := { s3 with ckpts := Tbl.del s3.ckpts (2 ^ 64 * p + x.ckpt.gen) }
  s4.updPool p (fun y => { y with
    triples := y.triples.drop old.length, closed := false,
    ckpt := { y.ckpt with stage := 0, writing := none, olds := [], chain := x.ckpt.newChain, newChain := [], gen := x.ckpt.gen + 1, anchorAt := x.ckpt.at_ } })

end State

/-! ### Commands -/

/-- CHECKPOINT (R234, R235): 30 s after the previous one or after 1 GiB of journal, the cut; then each stage that can
start. While something of the pool is in flight, the pool takes nothing new and the cut waits for it. -/
def execCheckpoint (pool : Nat) (s : State) : Res :=
  let x := s.pool pool
  if !s.owns pool then .next s
  else match x.ckpt.stage with
  | 0 =>
    if (s.time - x.ckpt.at_).toNat ≥ 3000000000 ∨ x.ckpt.flushed ≥ 2 ^ 30 ∨ x.closed then
      if s.cutBusy pool then .next (s.updPool pool (fun y => { y with ckpt := { y.ckpt with cutting := true } })) else .next (s.ckptCut pool)
    else .next s
  | 2 => .next (s.ckptChain pool)
  | _ => .next s

/-- ANCHOR_DURABLE (R235 step 4). -/
def execAnchorDurable (pool : Nat) (s : State) : Res :=
  let x := s.pool pool
  if s.owns pool ∧ x.ckpt.stage = 4 ∧ x.ckpt.copies ≥ 2 then
    let s1 := s.ckptDone pool
    if x.closed then .next s1.anaChange else .next s1
  else .next s

end Sys2Proof.Machine
end

