-- ==== Sys2Proof/Machine/EzWord.lean ====
section
/-! DEFINITION. Ezsol instruction words (R72–R75, R76–R82, R97–R101): the forms, an encoder and a decoder. -/

namespace Sys2Proof.Machine

/-! ### Forms (R72) -/

def formR (op : BitVec 6) (rd ra rb : BitVec 5) (func : BitVec 11) : BitVec 32 := op ++ rd ++ ra ++ rb ++ func
def formI (op : BitVec 6) (rd ra : BitVec 5) (imm : BitVec 16) : BitVec 32 := op ++ rd ++ ra ++ imm
def formJ (op : BitVec 6) (rd : BitVec 5) (imm : BitVec 21) : BitVec 32 := op ++ rd ++ imm
def formK (op : BitVec 6) (rd : BitVec 5) (k : BitVec 2) (imm : BitVec 16) : BitVec 32 := op ++ rd ++ 0#3 ++ k ++ imm
def formF (op : BitVec 6) (rd ra : BitVec 5) (pos len : BitVec 6) (ins : BitVec 1) : BitVec 32 :=
  op ++ rd ++ ra ++ pos ++ len ++ 0#3 ++ ins
def formHM (op : BitVec 6) (g : BitVec 5) (h : BitVec 4) (ra : BitVec 5) (size : BitVec 2) (imm : BitVec 10) : BitVec 32 :=
  op ++ g ++ h ++ ra ++ size ++ imm
def formHX (op : BitVec 6) (ga : BitVec 5) (hd hs : BitVec 4) (gb : BitVec 5) (func : BitVec 3) : BitVec 32 :=
  op ++ ga ++ hd ++ hs ++ gb ++ 0#5 ++ func
def formSD (op : BitVec 6) (cls : BitVec 5) (h : BitVec 4) (t : BitVec 3) (gd : BitVec 5) (flags : BitVec 9) : BitVec 32 :=
  op ++ cls ++ h ++ t ++ gd ++ flags
def formTK (op : BitVec 6) (rd : BitVec 5) (t : BitVec 3) (mask : BitVec 8) (func : BitVec 2) : BitVec 32 :=
  op ++ rd ++ t ++ mask ++ 0#8 ++ func
def formCL (op : BitVec 6) (r1 r2 : BitVec 5) (t : BitVec 3) (func : BitVec 3) : BitVec 32 :=
  op ++ r1 ++ r2 ++ t ++ 0#10 ++ func
def formCS (op : BitVec 6) (rd ra : BitVec 5) (func : BitVec 2) (csr : BitVec 12) : BitVec 32 :=
  op ++ rd ++ ra ++ func ++ 0#2 ++ csr
def formSY (op : BitVec 6) (rd func : BitVec 5) (imm : BitVec 16) : BitVec 32 := op ++ rd ++ func ++ imm

/-! ### Encoder -/

/-- The word of an Ezsol instruction; none for the commands that are no instruction. -/
def ezEncode : Instr → Option (BitVec 32)
  | .add _ rd ra rb => some (formR 0x01 rd ra rb 0x000)
  | .sub _ rd ra rb => some (formR 0x01 rd ra rb 0x001)
  | .and _ rd ra rb => some (formR 0x01 rd ra rb 0x002)
  | .or _ rd ra rb => some (formR 0x01 rd ra rb 0x003)
  | .xor _ rd ra rb => some (formR 0x01 rd ra rb 0x004)
  | .shl _ rd ra rb => some (formR 0x01 rd ra rb 0x005)
  | .shr _ rd ra rb => some (formR 0x01 rd ra rb 0x006)
  | .sar _ rd ra rb => some (formR 0x01 rd ra rb 0x007)
  | .mul _ rd ra rb => some (formR 0x01 rd ra rb 0x008)
  | .mulh _ rd ra rb => some (formR 0x01 rd ra rb 0x009)
  | .divu _ rd ra rb => some (formR 0x01 rd ra rb 0x00A)
  | .min _ rd ra rb => some (formR 0x01 rd ra rb 0x00B)
  | .max _ rd ra rb => some (formR 0x01 rd ra rb 0x00C)
  | .clz _ rd ra => some (formR 0x01 rd ra 0 0x00D)
  | .popc _ rd ra => some (formR 0x01 rd ra 0 0x00E)
  | .addImm _ rd ra imm => some (formI 0x02 rd ra imm)
  | .andImm _ rd ra imm => some (formI 0x03 rd ra imm)
  | .orImm _ rd ra imm => some (formI 0x04 rd ra imm)
  | .xorImm _ rd ra imm => some (formI 0x05 rd ra imm)
  | .shlImm _ rd ra n => some (formI 0x06 rd ra (0#8 ++ 0#2 ++ n))
  | .shrImm _ rd ra n => some (formI 0x06 rd ra (0#8 ++ 1#2 ++ n))
  | .sarImm _ rd ra n => some (formI 0x06 rd ra (0#8 ++ 2#2 ++ n))
  | .cmpeq _ rd ra rb => some (formR 0x07 rd ra rb 0)
  | .cmpne _ rd ra rb => some (formR 0x07 rd ra rb 1)
  | .cmplt _ rd ra rb => some (formR 0x07 rd ra rb 2)
  | .cmpge _ rd ra rb => some (formR 0x07 rd ra rb 3)
  | .cmpltu _ rd ra rb => some (formR 0x07 rd ra rb 4)
  | .cmpgeu _ rd ra rb => some (formR 0x07 rd ra rb 5)
  | .cmpeqImm _ rd ra imm => some (formI 0x08 rd ra (0#4 ++ imm))
  | .cmpneImm _ rd ra imm => some (formI 0x08 rd ra (1#4 ++ imm))
  | .cmpltImm _ rd ra imm => some (formI 0x08 rd ra (2#4 ++ imm))
  | .cmpgeImm _ rd ra imm => some (formI 0x08 rd ra (3#4 ++ imm))
  | .cmpltuImm _ rd ra imm => some (formI 0x08 rd ra (4#4 ++ imm))
  | .cmpgeuImm _ rd ra imm => some (formI 0x08 rd ra (5#4 ++ imm))
  | .sel _ rd rc ra rb => some (formR 0x09 rd ra rb (rc ++ 0#6))
  | .li _ rd imm => some (formJ 0x0A rd imm)
  | .lui _ rd k imm => some (formK 0x0B rd k imm)
  | .ldB _ rd ra imm _ => some (formI 0x0C rd ra imm)
  | .ldH _ rd ra imm _ => some (formI 0x0D rd ra imm)
  | .ldW _ rd ra imm _ => some (formI 0x0E rd ra imm)
  | .ldD _ rd ra imm _ => some (formI 0x0F rd ra imm)
  | .stB _ rs ra imm _ => some (formI 0x10 rs ra imm)
  | .stH _ rs ra imm _ => some (formI 0x11 rs ra imm)
  | .stW _ rs ra imm _ => some (formI 0x12 rs ra imm)
  | .stD _ rs ra imm _ => some (formI 0x13 rs ra imm)
  | .hld _ rd h ra size imm => some (formHM 0x14 rd h ra size imm)
  | .hst _ rs h ra size imm => some (formHM 0x15 rs h ra size imm)
  | .aadd _ rd ra rb w => some (formR 0x16 rd ra rb (if w then 4 else 0))
  | .acas _ rd ra rb w => some (formR 0x16 rd ra rb (if w then 5 else 1))
  | .axchg _ rd ra rb w => some (formR 0x16 rd ra rb (if w then 6 else 2))
  | .bfx _ rd ra pos len => some (formF 0x17 rd ra pos len 0)
  | .bfi _ rd ra pos len => some (formF 0x17 rd ra pos len 1)
  | .beq _ ra rb off => some (formI 0x18 ra rb off)
  | .bne _ ra rb off => some (formI 0x19 ra rb off)
  | .blt _ ra rb off => some (formI 0x1A ra rb off)
  | .bge _ ra rb off => some (formI 0x1B ra rb off)
  | .bltu _ ra rb off => some (formI 0x1C ra rb off)
  | .bgeu _ ra rb off => some (formI 0x1D ra rb off)
  | .jal _ rd imm => some (formJ 0x1E rd imm)
  | .jalr _ rd ra imm => some (formI 0x1F rd ra imm)
  | .halloc _ hd ga => some (formHX 0x20 ga hd 0 0 0)
  | .hfree _ hs => some (formHX 0x20 0 0 hs 0 1)
  | .hslice _ hd hs ga gb => some (formHX 0x20 ga hd hs gb 2)
  | .hsplit _ hd hs ga => some (formHX 0x20 ga hd hs 0 3)
  | .hcopy _ hd hs ga => some (formHX 0x20 ga hd hs 0 4)
  | .send _ cls h t gd flags => some (formSD 0x21 cls h t gd flags)
  | .wait _ rd t => some (formTK 0x22 rd t 0 0)
  | .waitany _ rd mask => some (formTK 0x22 rd 0 mask 1)
  | .poll _ rd t => some (formTK 0x22 rd t 0 2)
  | .spawn _ t r1 r2 => some (formCL 0x23 r1 r2 t 0)
  | .park _ r1 r2 => some (formCL 0x23 r1 r2 0 1)
  | .yield _ => some (formCL 0x23 0 0 0 2)
  | .exit _ r1 => some (formCL 0x23 r1 0 0 3)
  | .fence _ => some (formCL 0x23 0 0 0 4)
  | .csrr _ rd csr => some (formCS 0x24 rd 0 0 csr)
  | .csrw _ rd ra csr => some (formCS 0x24 rd ra 1 csr)
  | .csrset _ rd ra csr => some (formCS 0x24 rd ra 2 csr)
  | .csrclr _ rd ra csr => some (formCS 0x24 rd ra 3 csr)
  | .time _ rd => some (formSY 0x25 rd 0x00 0)
  | .trap _ imm => some (formSY 0x25 0 0x01 imm)
  | .eret _ => some (formSY 0x25 0 0x02 0)
  | .sleep _ => some (formSY 0x25 0 0x10 0)
  | .iinv _ => some (formSY 0x25 0 0x11 0)
  | .iofence _ => some (formSY 0x25 0 0x12 0)
  | _ => none

/-! ### Decoder (R73, R74) -/

/-- Opcode 0x01: integer register operations (R75). -/
def decInt (a : Agent) (rd ra rb : BitVec 5) : Nat → Option Instr
  | 0x0 => some (.add a rd ra rb) | 0x1 => some (.sub a rd ra rb) | 0x2 => some (.and a rd ra rb)
  | 0x3 => some (.or a rd ra rb) | 0x4 => some (.xor a rd ra rb) | 0x5 => some (.shl a rd ra rb)
  | 0x6 => some (.shr a rd ra rb) | 0x7 => some (.sar a rd ra rb) | 0x8 => some (.mul a rd ra rb)
  | 0x9 => some (.mulh a rd ra rb) | 0xA => some (.divu a rd ra rb) | 0xB => some (.min a rd ra rb)
  | 0xC => some (.max a rd ra rb)
  | 0xD => if rb = 0 then some (.clz a rd ra) else none
  | 0xE => if rb = 0 then some (.popc a rd ra) else none
  | _ => none

/-- Opcode 0x06: shifts by immediate. -/
def decShift (a : Agent) (rd ra : BitVec 5) (n : BitVec 6) : Nat → Option Instr
  | 0 => some (.shlImm a rd ra n) | 1 => some (.shrImm a rd ra n) | 2 => some (.sarImm a rd ra n)
  | _ => none

/-- Opcode 0x07: compares by register. -/
def decCmp (a : Agent) (rd ra rb : BitVec 5) : Nat → Option Instr
  | 0 => some (.cmpeq a rd ra rb) | 1 => some (.cmpne a rd ra rb) | 2 => some (.cmplt a rd ra rb)
  | 3 => some (.cmpge a rd ra rb) | 4 => some (.cmpltu a rd ra rb) | 5 => some (.cmpgeu a rd ra rb)
  | _ => none

/-- Opcode 0x08: compares by immediate. -/
def decCmpImm (a : Agent) (rd ra : BitVec 5) (i : BitVec 12) : Nat → Option Instr
  | 0 => some (.cmpeqImm a rd ra i) | 1 => some (.cmpneImm a rd ra i) | 2 => some (.cmpltImm a rd ra i)
  | 3 => some (.cmpgeImm a rd ra i) | 4 => some (.cmpltuImm a rd ra i) | 5 => some (.cmpgeuImm a rd ra i)
  | _ => none

/-- Opcode 0x16: atomics (R78). -/
def decAtomic (a : Agent) (rd ra rb : BitVec 5) : Nat → Option Instr
  | 0 => some (.aadd a rd ra rb false) | 1 => some (.acas a rd ra rb false) | 2 => some (.axchg a rd ra rb false)
  | 4 => some (.aadd a rd ra rb true) | 5 => some (.acas a rd ra rb true) | 6 => some (.axchg a rd ra rb true)
  | _ => none

/-- Opcode 0x20: handle instructions (R82). -/
def decHandle (a : Agent) (ga : BitVec 5) (hd hs : BitVec 4) (gb : BitVec 5) : Nat → Option Instr
  | 0 => if hs = 0 ∧ gb = 0 then some (.halloc a hd ga) else none
  | 1 => if ga = 0 ∧ hd = 0 ∧ gb = 0 then some (.hfree a hs) else none
  | 2 => some (.hslice a hd hs ga gb)
  | 3 => if gb = 0 then some (.hsplit a hd hs ga) else none
  | 4 => if gb = 0 then some (.hcopy a hd hs ga) else none
  | _ => none

/-- Opcode 0x22: tokens (R97). -/
def decToken (a : Agent) (rd : BitVec 5) (t : BitVec 3) (mask : BitVec 8) : Nat → Option Instr
  | 0 => if mask = 0 then some (.wait a rd t) else none
  | 1 => if t = 0 then some (.waitany a rd mask) else none
  | 2 => if mask = 0 then some (.poll a rd t) else none
  | _ => none

/-- Opcode 0x23: climb instructions (R98). -/
def decClimb (a : Agent) (r1 r2 : BitVec 5) (t : BitVec 3) : Nat → Option Instr
  | 0 => some (.spawn a t r1 r2)
  | 1 => if t = 0 then some (.park a r1 r2) else none
  | 2 => if r1 = 0 ∧ r2 = 0 ∧ t = 0 then some (.yield a) else none
  | 3 => if r2 = 0 ∧ t = 0 then some (.exit a r1) else none
  | 4 => if r1 = 0 ∧ r2 = 0 ∧ t = 0 then some (.fence a) else none
  | _ => none

/-- Opcode 0x24: control and status registers (R99). -/
def decCsr (a : Agent) (rd ra : BitVec 5) (csr : BitVec 12) : Nat → Option Instr
  | 0 => if ra = 0 then some (.csrr a rd csr) else none
  | 1 => some (.csrw a rd ra csr)
  | 2 => some (.csrset a rd ra csr)
  | _ => some (.csrclr a rd ra csr)

/-- Opcode 0x25: time, traps and system instructions (R101). -/
def decSys (a : Agent) (rd : BitVec 5) (imm : BitVec 16) : Nat → Option Instr
  | 0x00 => if imm = 0 then some (.time a rd) else none
  | 0x01 => if rd = 0 then some (.trap a imm) else none
  | 0x02 => if rd = 0 ∧ imm = 0 then some (.eret a) else none
  | 0x10 => if rd = 0 ∧ imm = 0 then some (.sleep a) else none
  | 0x11 => if rd = 0 ∧ imm = 0 then some (.iinv a) else none
  | 0x12 => if rd = 0 ∧ imm = 0 then some (.iofence a) else none
  | _ => none

/-- Are a SEND's class and flags listed (R85)? -/
def sendListed (cls : BitVec 5) (flags : BitVec 9) : Bool :=
  decide (cls.toNat ∈ [1, 2, 3, 4, 5, 6, 8, 9, 10, 11]) && decide (flags.toNat < 2)

/-- The instruction a word spells for a core; none where it does not decode (R74). -/
def ezDecode (a : Agent) (w : BitVec 32) : Option Instr :=
  let rd := w.extractLsb' 21 5
  let ra := w.extractLsb' 16 5
  let rb := w.extractLsb' 11 5
  let func := w.extractLsb' 0 11
  let imm := w.extractLsb' 0 16
  match (w.extractLsb' 26 6).toNat with
  | 0x01 => decInt a rd ra rb func.toNat
  | 0x02 => some (.addImm a rd ra imm)
  | 0x03 => some (.andImm a rd ra imm)
  | 0x04 => some (.orImm a rd ra imm)
  | 0x05 => some (.xorImm a rd ra imm)
  | 0x06 => if w.extractLsb' 8 8 = 0 then decShift a rd ra (w.extractLsb' 0 6) (w.extractLsb' 6 2).toNat else none
  | 0x07 => decCmp a rd ra rb func.toNat
  | 0x08 => decCmpImm a rd ra (w.extractLsb' 0 12) (w.extractLsb' 12 4).toNat
  | 0x09 => if w.extractLsb' 0 6 = 0 then some (.sel a rd (w.extractLsb' 6 5) ra rb) else none
  | 0x0A => some (.li a rd (w.extractLsb' 0 21))
  | 0x0B => if w.extractLsb' 18 3 = 0 then some (.lui a rd (w.extractLsb' 16 2) imm) else none
  | 0x0C => some (.ldB a rd ra imm .none)
  | 0x0D => some (.ldH a rd ra imm .none)
  | 0x0E => some (.ldW a rd ra imm .none)
  | 0x0F => some (.ldD a rd ra imm .none)
  | 0x10 => some (.stB a rd ra imm .none)
  | 0x11 => some (.stH a rd ra imm .none)
  | 0x12 => some (.stW a rd ra imm .none)
  | 0x13 => some (.stD a rd ra imm .none)
  | 0x14 => some (.hld a rd (w.extractLsb' 17 4) (w.extractLsb' 12 5) (w.extractLsb' 10 2) (w.extractLsb' 0 10))
  | 0x15 => some (.hst a rd (w.extractLsb' 17 4) (w.extractLsb' 12 5) (w.extractLsb' 10 2) (w.extractLsb' 0 10))
  | 0x16 => decAtomic a rd ra rb func.toNat
  | 0x17 =>
    let pos := w.extractLsb' 10 6
    let len := w.extractLsb' 4 6
    if w.extractLsb' 1 3 = 0 ∧ pos.toNat + len.toNat < 64 then
      (if w.extractLsb' 0 1 = 0 then some (.bfx a rd ra pos len) else some (.bfi a rd ra pos len))
    else none
  | 0x18 => some (.beq a rd ra imm)
  | 0x19 => some (.bne a rd ra imm)
  | 0x1A => some (.blt a rd ra imm)
  | 0x1B => some (.bge a rd ra imm)
  | 0x1C => some (.bltu a rd ra imm)
  | 0x1D => some (.bgeu a rd ra imm)
  | 0x1E => some (.jal a rd (w.extractLsb' 0 21))
  | 0x1F => some (.jalr a rd ra imm)
  | 0x20 =>
    if w.extractLsb' 3 5 = 0 then
      decHandle a rd (w.extractLsb' 17 4) (w.extractLsb' 13 4) (w.extractLsb' 8 5) (w.extractLsb' 0 3).toNat
    else none
  | 0x21 =>
    let flags := w.extractLsb' 0 9
    if sendListed rd flags then
      some (.send a rd (w.extractLsb' 17 4) (w.extractLsb' 14 3) (w.extractLsb' 9 5) flags)
    else none
  | 0x22 =>
    if w.extractLsb' 2 8 = 0 then decToken a rd (w.extractLsb' 18 3) (w.extractLsb' 10 8) (w.extractLsb' 0 2).toNat
    else none
  | 0x23 =>
    if w.extractLsb' 3 10 = 0 then decClimb a rd ra (w.extractLsb' 13 3) (w.extractLsb' 0 3).toNat else none
  | 0x24 =>
    if w.extractLsb' 12 2 = 0 then decCsr a rd ra (w.extractLsb' 0 12) (w.extractLsb' 14 2).toNat else none
  | 0x25 => decSys a rd imm ra.toNat
  | _ => none

end Sys2Proof.Machine
end

