-- ==== Sys2Proof/Machine/Ezsol.lean ====
section
/-! DEFINITION. Ezsol instructions that need no device access (R69–R75, R81, R82, R97–R102): integer, compare, branch,
handle, token, climb, CSR and system instructions. -/

namespace Sys2Proof.Machine

namespace State

/-! ### The executing core -/

/-- The climb RUNNING on a datapath core. -/
def agentCid (s : State) : Agent → Option Nat
  | .dp r c => if r < 8 ∧ c < 4 then (s.core (4 * r + c)).running else none
  | .mg _ => none

/-- The pc of the executing context. -/
def pcOf (s : State) (a : Agent) : W64 :=
  match a with
  | .dp _ _ => match s.agentCid a with | some cid => (s.climb cid).pc | none => 0
  | .mg m => (s.mcore m).pc

/-- Does the core execute an instruction: a climb RUNNING, or a management core running and not asleep (R36, R101)? -/
def ready (s : State) (a : Agent) : Bool :=
  match a with
  | .dp _ _ => (s.agentCid a).isSome
  | .mg m =>
    let c := s.mcore m
    decide (m < 4) && c.running && !c.frozen && !c.halted && !(c.sleeping && decide (c.irqmask &&& s.irqLines m = 0))

/-- Is the pc within the running route's code (R55)? A management core fetches anywhere in its image. -/
def fetchOk (s : State) (a : Agent) : Bool :=
  match a with
  | .dp _ _ =>
    match s.agentCid a with
    | some cid =>
      let r := s.route (s.climb cid).slot
      decide (r.entry ≤ (s.climb cid).pc.toNat) && decide ((s.climb cid).pc.toNat < r.entry + r.codeKib * 1024)
    | none => true
  | .mg _ => true

/-- The core fetches and executes its next instruction. -/
def issues (s : State) (a : Agent) : Bool := s.ready a && s.fetchOk a

/-- A core that was asleep goes on (R101). -/
def awake (s : State) (a : Agent) : State :=
  match a with
  | .dp _ _ => s
  | .mg m => s.setMcore m { s.mcore m with sleeping := false }

/-- General register `x`; g0 reads as zero (R69). -/
def getG (s : State) (a : Agent) (x : BitVec 5) : W64 :=
  if x = 0 then 0 else
  match a with
  | .dp _ _ => match s.agentCid a with | some cid => (s.climb cid).g.getD x.toNat 0 | none => 0
  | .mg m => (s.mcore m).g.getD x.toNat 0

/-- `wr(rd, v)`: a write to g0 is discarded (R69). -/
def wr (s : State) (a : Agent) (rd : BitVec 5) (v : W64) : State :=
  if rd = 0 then s else
  match a with
  | .dp _ _ => match s.agentCid a with
    | some cid => s.updClimb cid (fun c => { c with g := c.g.set rd.toNat v })
    | none => s
  | .mg m => s.setMcore m { s.mcore m with g := (s.mcore m).g.set rd.toNat v }

def setPc (s : State) (a : Agent) (v : W64) : State :=
  match a with
  | .dp _ _ => match s.agentCid a with
    | some cid => s.updClimb cid (fun c => { c with pc := v })
    | none => s
  | .mg m => s.setMcore m { s.mcore m with pc := v }

/-- The pc moves past the instruction. -/
def adv (s : State) (a : Agent) : State := s.setPc a (s.pcOf a + 4)

/-- The instruction takes a trap (R63, R102). -/
def ezTrap (s : State) (a : Agent) (cause : Nat) (tval tpc : W64) : State :=
  match a with
  | .dp _ _ => match s.agentCid a with
    | some cid => s.trapClimb cid cause tval tpc
    | none => s
  | .mg m => s.trapMcore m cause tval tpc

/-- A trap at the instruction itself. -/
def trapHere (s : State) (a : Agent) (cause : Nat) (tval : W64) : State := s.ezTrap a cause tval (s.pcOf a)

/-- ILLEGAL_INSTRUCTION with the word (R74). -/
def illegal (s : State) (a : Agent) (i : Instr) : State :=
  s.trapHere a 0x01 (((ezEncode i).getD 0).setWidth 64)

/-- Execute one instruction on a core: nothing where the core executes none, INSTRUCTION_FETCH outside the route. -/
def ez (s : State) (a : Agent) (f : State → State) : State :=
  if s.ready a then
    let t := s.awake a
    if s.fetchOk a then f t else t.trapHere a 0x04 (t.pcOf a)
  else s

/-- A register result: `wr(rd, v)` and the next pc. -/
def result (s : State) (a : Agent) (rd : BitVec 5) (v : W64) : State := (s.wr a rd v).adv a

/-- An instruction of datapath cores alone (R34). -/
def ezClimb (s : State) (a : Agent) (i : Instr) (f : Nat → State → State) : State :=
  s.ez a (fun t => match t.agentCid a with
    | some cid => f cid t
    | none => t.illegal a i)

/-- An instruction of management cores alone (R34). -/
def ezMgmt (s : State) (a : Agent) (i : Instr) (f : Nat → State → State) : State :=
  s.ez a (fun t => match a with
    | .mg m => f m t
    | .dp _ _ => t.illegal a i)

/-! ### Integer operations (R75) -/

def clz64 (v : W64) : Nat := ((List.range 64).find? (fun i => v.getLsbD (63 - i))).getD 64
def maskLen (n : Nat) : W64 := BitVec.ofNat 64 (2 ^ n - 1)
def lowSh (v : W64) : Nat := v.toNat % 64

/-- The quotient of DIVU. -/
def divu64 (x y : W64) : W64 := if y = 0 then BitVec.allOnes 64 else x / y

def mulh64 (x y : W64) : W64 := BitVec.ofNat 64 (x.toNat * y.toNat / 2 ^ 64)

/-- LUI: a 16-bit field of the destination replaced. -/
def lui64 (old : W64) (k : BitVec 2) (imm : BitVec 16) : W64 :=
  (old &&& ~~~((0xFFFF : W64) <<< (16 * k.toNat))) ||| (imm.setWidth 64 <<< (16 * k.toNat))

def bfx64 (v : W64) (pos len : Nat) : W64 := (v >>> pos) &&& maskLen len
def bfi64 (old v : W64) (pos len : Nat) : W64 := (old &&& ~~~(maskLen len <<< pos)) ||| ((v &&& maskLen len) <<< pos)

def b64 (b : Bool) : W64 := if b then 1 else 0

end State

open State

/-- An instruction `wr(rd, op(g[ra], g[rb]))`. -/
def opRR (op : W64 → W64 → W64) (a : Agent) (rd ra rb : BitVec 5) (s : State) : Res :=
  .next (s.ez a (fun t => t.result a rd (op (t.getG a ra) (t.getG a rb))))

/-- An instruction `wr(rd, op(g[ra]))`. -/
def opR (op : W64 → W64) (a : Agent) (rd ra : BitVec 5) (s : State) : Res :=
  .next (s.ez a (fun t => t.result a rd (op (t.getG a ra))))

/-- ADD (R75). -/
def execAdd (a : Agent) (rd ra rb : BitVec 5) (s : State) : Res := opRR (· + ·) a rd ra rb s
/-- SUB (R75). -/
def execSub (a : Agent) (rd ra rb : BitVec 5) (s : State) : Res := opRR (· - ·) a rd ra rb s
/-- AND (R75). -/
def execAnd (a : Agent) (rd ra rb : BitVec 5) (s : State) : Res := opRR (· &&& ·) a rd ra rb s
/-- OR (R75). -/
def execOr (a : Agent) (rd ra rb : BitVec 5) (s : State) : Res := opRR (· ||| ·) a rd ra rb s
/-- XOR (R75). -/
def execXor (a : Agent) (rd ra rb : BitVec 5) (s : State) : Res := opRR (· ^^^ ·) a rd ra rb s
/-- SHL (R75). -/
def execShl (a : Agent) (rd ra rb : BitVec 5) (s : State) : Res := opRR (fun x y => x <<< lowSh y) a rd ra rb s
/-- SHR (R75). -/
def execShr (a : Agent) (rd ra rb : BitVec 5) (s : State) : Res := opRR (fun x y => x >>> lowSh y) a rd ra rb s
/-- SAR (R75). -/
def execSar (a : Agent) (rd ra rb : BitVec 5) (s : State) : Res := opRR (fun x y => x.sshiftRight (lowSh y)) a rd ra rb s
/-- MUL (R75). -/
def execMul (a : Agent) (rd ra rb : BitVec 5) (s : State) : Res := opRR (· * ·) a rd ra rb s
/-- MULH (R75). -/
def execMulh (a : Agent) (rd ra rb : BitVec 5) (s : State) : Res := opRR mulh64 a rd ra rb s
/-- DIVU (R75). -/
def execDivu (a : Agent) (rd ra rb : BitVec 5) (s : State) : Res := opRR divu64 a rd ra rb s
/-- MIN (R75). -/
def execMin (a : Agent) (rd ra rb : BitVec 5) (s : State) : Res :=
  opRR (fun x y => if x.ult y then x else y) a rd ra rb s
/-- MAX (R75). -/
def execMax (a : Agent) (rd ra rb : BitVec 5) (s : State) : Res :=
  opRR (fun x y => if x.ult y then y else x) a rd ra rb s
/-- CLZ (R75). -/
def execClz (a : Agent) (rd ra : BitVec 5) (s : State) : Res := opR (fun x => BitVec.ofNat 64 (clz64 x)) a rd ra s
/-- POPC (R75). -/
def execPopc (a : Agent) (rd ra : BitVec 5) (s : State) : Res := opR (fun x => BitVec.ofNat 64 (popcount x.toNat)) a rd ra s
/-- ADD with a sign-extended immediate (R75). -/
def execAddImm (a : Agent) (rd ra : BitVec 5) (imm : BitVec 16) (s : State) : Res :=
  opR (· + imm.signExtend 64) a rd ra s
/-- AND with a zero-extended immediate (R75). -/
def execAndImm (a : Agent) (rd ra : BitVec 5) (imm : BitVec 16) (s : State) : Res := opR (· &&& imm.setWidth 64) a rd ra s
/-- OR with a zero-extended immediate (R75). -/
def execOrImm (a : Agent) (rd ra : BitVec 5) (imm : BitVec 16) (s : State) : Res := opR (· ||| imm.setWidth 64) a rd ra s
/-- XOR with a zero-extended immediate (R75). -/
def execXorImm (a : Agent) (rd ra : BitVec 5) (imm : BitVec 16) (s : State) : Res := opR (· ^^^ imm.setWidth 64) a rd ra s
/-- SHL by an immediate (R75). -/
def execShlImm (a : Agent) (rd ra : BitVec 5) (n : BitVec 6) (s : State) : Res := opR (· <<< n.toNat) a rd ra s
/-- SHR by an immediate (R75). -/
def execShrImm (a : Agent) (rd ra : BitVec 5) (n : BitVec 6) (s : State) : Res := opR (· >>> n.toNat) a rd ra s
/-- SAR by an immediate (R75). -/
def execSarImm (a : Agent) (rd ra : BitVec 5) (n : BitVec 6) (s : State) : Res :=
  opR (fun x => x.sshiftRight n.toNat) a rd ra s
/-- CMPEQ (R75). -/
def execCmpeq (a : Agent) (rd ra rb : BitVec 5) (s : State) : Res := opRR (fun x y => b64 (x == y)) a rd ra rb s
/-- CMPNE (R75). -/
def execCmpne (a : Agent) (rd ra rb : BitVec 5) (s : State) : Res := opRR (fun x y => b64 (x != y)) a rd ra rb s
/-- CMPLT (R75). -/
def execCmplt (a : Agent) (rd ra rb : BitVec 5) (s : State) : Res := opRR (fun x y => b64 (x.slt y)) a rd ra rb s
/-- CMPGE (R75). -/
def execCmpge (a : Agent) (rd ra rb : BitVec 5) (s : State) : Res := opRR (fun x y => b64 (!x.slt y)) a rd ra rb s
/-- CMPLTU (R75). -/
def execCmpltu (a : Agent) (rd ra rb : BitVec 5) (s : State) : Res := opRR (fun x y => b64 (x.ult y)) a rd ra rb s
/-- CMPGEU (R75). -/
def execCmpgeu (a : Agent) (rd ra rb : BitVec 5) (s : State) : Res := opRR (fun x y => b64 (!x.ult y)) a rd ra rb s
/-- CMPEQ with an immediate (R75). -/
def execCmpeqImm (a : Agent) (rd ra : BitVec 5) (imm : BitVec 12) (s : State) : Res :=
  opR (fun x => b64 (x == imm.signExtend 64)) a rd ra s
/-- CMPNE with an immediate (R75). -/
def execCmpneImm (a : Agent) (rd ra : BitVec 5) (imm : BitVec 12) (s : State) : Res :=
  opR (fun x => b64 (x != imm.signExtend 64)) a rd ra s
/-- CMPLT with an immediate (R75). -/
def execCmpltImm (a : Agent) (rd ra : BitVec 5) (imm : BitVec 12) (s : State) : Res :=
  opR (fun x => b64 (x.slt (imm.signExtend 64))) a rd ra s
/-- CMPGE with an immediate (R75). -/
def execCmpgeImm (a : Agent) (rd ra : BitVec 5) (imm : BitVec 12) (s : State) : Res :=
  opR (fun x => b64 (!x.slt (imm.signExtend 64))) a rd ra s
/-- CMPLTU with an immediate (R75). -/
def execCmpltuImm (a : Agent) (rd ra : BitVec 5) (imm : BitVec 12) (s : State) : Res :=
  opR (fun x => b64 (x.ult (imm.signExtend 64))) a rd ra s
/-- CMPGEU with an immediate (R75). -/
def execCmpgeuImm (a : Agent) (rd ra : BitVec 5) (imm : BitVec 12) (s : State) : Res :=
  opR (fun x => b64 (!x.ult (imm.signExtend 64))) a rd ra s
/-- SEL (R75). -/
def execSel (a : Agent) (rd rc ra rb : BitVec 5) (s : State) : Res :=
  .next (s.ez a (fun t => t.result a rd (if t.getG a rc ≠ 0 then t.getG a ra else t.getG a rb)))
/-- LI (R75). -/
def execLi (a : Agent) (rd : BitVec 5) (imm : BitVec 21) (s : State) : Res :=
  .next (s.ez a (fun t => t.result a rd (imm.signExtend 64)))
/-- LUI (R75). -/
def execLui (a : Agent) (rd : BitVec 5) (k : BitVec 2) (imm : BitVec 16) (s : State) : Res :=
  .next (s.ez a (fun t => t.result a rd (lui64 (t.getG a rd) k imm)))
/-- BFX (R75); a field past bit 63 does not decode (R74). -/
def execBfx (a : Agent) (rd ra : BitVec 5) (pos lenm1 : BitVec 6) (s : State) : Res :=
  .next (s.ez a (fun t =>
    if 64 ≤ pos.toNat + lenm1.toNat then t.illegal a (.bfx a rd ra pos lenm1)
    else t.result a rd (bfx64 (t.getG a ra) pos.toNat (lenm1.toNat + 1))))
/-- BFI (R75). -/
def execBfi (a : Agent) (rd ra : BitVec 5) (pos lenm1 : BitVec 6) (s : State) : Res :=
  .next (s.ez a (fun t =>
    if 64 ≤ pos.toNat + lenm1.toNat then t.illegal a (.bfi a rd ra pos lenm1)
    else t.result a rd (bfi64 (t.getG a rd) (t.getG a ra) pos.toNat (lenm1.toNat + 1))))

/-- A word that does not decode (R74). -/
def execIllegalInstruction (a : Agent) (word : BitVec 32) (s : State) : Res :=
  if (ezDecode a word).isSome then .next s
  else .next (s.ez a (fun t => t.trapHere a 0x01 (word.setWidth 64)))

/-! ### Control transfer (R81) -/

/-- A branch on a comparison of g[ra] with g[rb]. -/
def branch (cond : W64 → W64 → Bool) (a : Agent) (ra rb : BitVec 5) (off : BitVec 16) (s : State) : Res :=
  .next (s.ez a (fun t =>
    if cond (t.getG a ra) (t.getG a rb) then t.setPc a (t.pcOf a + (off.signExtend 64) * 4) else t.adv a))

/-- BEQ (R81). -/
def execBeq (a : Agent) (ra rb : BitVec 5) (off : BitVec 16) (s : State) : Res := branch (fun x y => x == y) a ra rb off s
/-- BNE (R81). -/
def execBne (a : Agent) (ra rb : BitVec 5) (off : BitVec 16) (s : State) : Res := branch (fun x y => x != y) a ra rb off s
/-- BLT (R81). -/
def execBlt (a : Agent) (ra rb : BitVec 5) (off : BitVec 16) (s : State) : Res := branch (fun x y => x.slt y) a ra rb off s
/-- BGE (R81). -/
def execBge (a : Agent) (ra rb : BitVec 5) (off : BitVec 16) (s : State) : Res := branch (fun x y => !x.slt y) a ra rb off s
/-- BLTU (R81). -/
def execBltu (a : Agent) (ra rb : BitVec 5) (off : BitVec 16) (s : State) : Res := branch (fun x y => x.ult y) a ra rb off s
/-- BGEU (R81). -/
def execBgeu (a : Agent) (ra rb : BitVec 5) (off : BitVec 16) (s : State) : Res := branch (fun x y => !x.ult y) a ra rb off s

/-- JAL (R81). -/
def execJal (a : Agent) (rd : BitVec 5) (imm : BitVec 21) (s : State) : Res :=
  .next (s.ez a (fun t =>
    let pc := t.pcOf a
    (t.wr a rd (pc + 4)).setPc a (pc + (imm.signExtend 64) * 4)))

/-- JALR (R81): a misaligned target traps and leaves rd. -/
def execJalr (a : Agent) (rd ra : BitVec 5) (imm : BitVec 16) (s : State) : Res :=
  .next (s.ez a (fun t =>
    let dest := t.getG a ra + imm.signExtend 64
    if dest.toNat % 4 ≠ 0 then t.trapHere a 0x02 dest
    else (t.wr a rd (t.pcOf a + 4)).setPc a dest))

/-! ### Handle instructions (R82) -/

namespace State

/-- Handle register `h` of a climb. -/
def getH (s : State) (cid : Nat) (h : BitVec 4) : W64 := (s.climb cid).h.getD h.toNat nullH

def setH (s : State) (cid : Nat) (h : BitVec 4) (v : W64) : State :=
  s.updClimb cid (fun c => { c with h := c.h.set h.toNat v })

/-- Does a queued job of any climb of the ridge name this buffer (R52)? -/
def jobNames (s : State) (ridge slot : Nat) : Bool :=
  s.jobs.any (fun p => decide (p.2.ridge = ridge)
    && p.2.handles.any (fun h => decide (h ≠ nullH) && decide (hSlot h = slot) && s.liveH ridge h))

/-- The length of a handle register for `hlenN`: 0 for the null handle. -/
def hlenReg (h : W64) : Nat := if h = nullH then 0 else hLen h

/-- A waiting allocation of the same class is older (R51). -/
def allocQueued (s : State) (cid : Nat) : Bool := (s.oldestAlloc (cid / 1024) (s.climb cid).bg).isSome

/-- HALLOC of a running climb. -/
def hallocRun (s : State) (a : Agent) (cid : Nat) (hd : BitVec 4) (n : Nat) : State :=
  let v := BitVec.ofNat 64 n
  if n = 0 ∨ 0x1000000 < n then s.trapHere a 0x0A v
  else if 16 < hd.toNat + ceilDiv n 0x100000 then s.trapHere a 0x0A v
  else if !s.allocQueued cid && s.allocable (cid / 1024) n (s.climb cid).bg then
    let (slot, s1) := s.allocBuf (cid / 1024) n cid
    (s1.giveHandles cid slot n hd.toNat).adv a
  else (s.updClimb cid (fun c => { c with await := .alloc n hd.toNat })).leave cid .waiting

/-- HFREE. -/
def hfreeRun (s : State) (a : Agent) (cid : Nat) (hs : BitVec 4) : State :=
  let r := cid / 1024
  let h := s.getH cid hs
  if !s.liveH r h then s.trapHere a 0x06 h
  else if (s.bufOf r h).owner ≠ cid then s.trapHere a 0x0A h
  else if s.jobNames r (hSlot h) || s.windowNames r (hSlot h) then s.trapHere a 0x09 h
  else ((s.freeBuf r (hSlot h)).setH cid hs nullH).adv a

/-- HSLICE. -/
def hsliceRun (s : State) (a : Agent) (cid : Nat) (hd hs : BitVec 4) (o n : Nat) : State :=
  let h := s.getH cid hs
  if !s.liveH (cid / 1024) h then s.trapHere a 0x06 h
  else if n = 0 ∨ 0x100000 < n then s.trapHere a 0x0A (BitVec.ofNat 64 n)
  else if hLen h ≤ o ∨ hLen h < o + n then s.trapHere a 0x05 h
  else (s.setH cid hd (mkH (hSlot h) (hGen h) (hOff h + o) n)).adv a

/-- HSPLIT. -/
def hsplitRun (s : State) (a : Agent) (cid : Nat) (hd hs : BitVec 4) (n : Nat) : State :=
  let h := s.getH cid hs
  if !s.liveH (cid / 1024) h then s.trapHere a 0x06 h
  else if hd = hs ∨ n = 0 ∨ n = hLen h then s.trapHere a 0x0A (BitVec.ofNat 64 n)
  else if hLen h < n then s.trapHere a 0x05 h
  else ((s.setH cid hd (mkH (hSlot h) (hGen h) (hOff h + n) (hLen h - n))).setH cid hs
    (mkH (hSlot h) (hGen h) (hOff h) n)).adv a

/-- HCOPY: the bytes are read before any is written. -/
def hcopyRun (s : State) (a : Agent) (cid : Nat) (hd hs : BitVec 4) (n : Nat) : State :=
  let r := cid / 1024
  let h := s.getH cid hs
  let d := s.getH cid hd
  if !s.liveH r h then s.trapHere a 0x06 h
  else if !s.liveH r d then s.trapHere a 0x06 d
  else if n = 0 ∨ 4096 < n then s.trapHere a 0x0A (BitVec.ofNat 64 n)
  else if hLen h < n then s.trapHere a 0x05 h
  else if hLen d < n then s.trapHere a 0x05 d
  else (s.hWrite r d 0 (s.rdBytes (s.hAddr r h) n)).adv a

end State

/-- HALLOC (R51, R82). -/
def execHalloc (a : Agent) (hd : BitVec 4) (ga : BitVec 5) (s : State) : Res :=
  .next (s.ezClimb a (.halloc a hd ga) (fun cid t => t.hallocRun a cid hd (t.getG a ga).toNat))
/-- HFREE (R52, R82). -/
def execHfree (a : Agent) (hs : BitVec 4) (s : State) : Res :=
  .next (s.ezClimb a (.hfree a hs) (fun cid t => t.hfreeRun a cid hs))
/-- HSLICE (R82). -/
def execHslice (a : Agent) (hd hs : BitVec 4) (ga gb : BitVec 5) (s : State) : Res :=
  .next (s.ezClimb a (.hslice a hd hs ga gb)
    (fun cid t => t.hsliceRun a cid hd hs (t.getG a ga).toNat (t.getG a gb).toNat))
/-- HSPLIT (R82). -/
def execHsplit (a : Agent) (hd hs : BitVec 4) (ga : BitVec 5) (s : State) : Res :=
  .next (s.ezClimb a (.hsplit a hd hs ga) (fun cid t => t.hsplitRun a cid hd hs (t.getG a ga).toNat))
/-- HCOPY (R82). -/
def execHcopy (a : Agent) (hd hs : BitVec 4) (ga : BitVec 5) (s : State) : Res :=
  .next (s.ezClimb a (.hcopy a hd hs ga) (fun cid t => t.hcopyRun a cid hd hs (t.getG a ga).toNat))

/-! ### Tokens (R97) -/

namespace State

def tok (s : State) (cid t : Nat) : Tok := (s.climb cid).t.getD t .idle
def setTok (s : State) (cid t : Nat) (k : Tok) : State := s.updClimb cid (fun c => { c with t := c.t.set t k })

/-- A climb blocks on tokens: the watchdog count restarts (R44). -/
def block (s : State) (cid mask : Nat) : State :=
  (s.updClimb cid (fun c => { c with await := .token mask, run := 0 })).leave cid .waiting

/-- WAIT. -/
def waitRun (s : State) (a : Agent) (cid : Nat) (rd : BitVec 5) (t : Nat) : State :=
  match s.tok cid t with
  | .idle => s.trapHere a 0x08 (BitVec.ofNat 64 t)
  | .pending => s.block cid (2 ^ t)
  | .done w => (s.setTok cid t .idle).result a rd w

/-- WAITANY. -/
def waitanyRun (s : State) (a : Agent) (cid : Nat) (rd : BitVec 5) (mask : Nat) : State :=
  let set := (List.range 8).filter (fun t => bit mask t)
  match set with
  | [] => s.trapHere a 0x0A 0
  | low :: _ =>
    if set.all (fun t => decide (s.tok cid t = .idle)) then s.trapHere a 0x08 (BitVec.ofNat 64 low)
    else match set.find? (fun t => Tok.isDone (s.tok cid t)) with
      | none => s.block cid mask
      | some k =>
        match s.tok cid k with
        | .done w => ((s.setTok cid k .idle).updClimb cid (fun c => { c with tlast := k })).result a rd w
        | _ => s

/-- POLL. -/
def pollRun (s : State) (a : Agent) (cid : Nat) (rd : BitVec 5) (t : Nat) : State :=
  match s.tok cid t with
  | .idle => s.trapHere a 0x08 (BitVec.ofNat 64 t)
  | .pending => s.result a rd (BitVec.allOnes 64)
  | .done w => (s.setTok cid t .idle).result a rd w

end State

/-- WAIT (R97). -/
def execWait (a : Agent) (rd : BitVec 5) (t : BitVec 3) (s : State) : Res :=
  .next (s.ezClimb a (.wait a rd t) (fun cid u => u.waitRun a cid rd t.toNat))
/-- WAITANY (R97). -/
def execWaitany (a : Agent) (rd : BitVec 5) (mask : BitVec 8) (s : State) : Res :=
  .next (s.ezClimb a (.waitany a rd mask) (fun cid u => u.waitanyRun a cid rd mask.toNat))
/-- POLL (R97). -/
def execPoll (a : Agent) (rd : BitVec 5) (t : BitVec 3) (s : State) : Res :=
  .next (s.ezClimb a (.poll a rd t) (fun cid u => u.pollRun a cid rd t.toNat))

/-! ### Climb instructions (R98) -/

namespace State

/-- The registers a SPAWN child starts with: g1 to g6 of the parent. -/
def childRegs (c : Climb) : List W64 :=
  (List.range 32).map (fun i => if 1 ≤ i ∧ i ≤ 6 then c.g.getD i 0 else 0)

/-- The handles a SPAWN child starts with. -/
def childHandles (c : Climb) (mask : Nat) : List W64 :=
  (List.range 16).map (fun i => if bit mask i then c.h.getD i nullH else nullH)

/-- SPAWN. -/
def spawnRun (s : State) (a : Agent) (cid t slot mask : Nat) : State :=
  let c := s.climb cid
  let r := s.route slot
  if s.tok cid t ≠ .idle then s.trapHere a 0x07 (BitVec.ofNat 64 t)
  else if 255 < slot ∨ r.valid = false ∨ ((s.route c.slot).opened = true ∧ r.opened = false) then
    s.trapHere a 0x0A (BitVec.ofNat 64 slot)
  else if 65536 ≤ mask then s.trapHere a 0x0A (BitVec.ofNat 64 mask)
  else
    let enough := if r.bg then decide (0 < s.freeClimbs (cid / 1024))
      else decide (s.reserve (cid / 1024) < s.freeClimbs (cid / 1024))
    let child := { Climb.fresh with
      bg := r.bg, slot := slot, g := childRegs c, h := childHandles c mask, pc := BitVec.ofNat 64 r.entry,
      parent := some cid, parentTok := t, origin := .spawn }
    if enough then
      match s.allocClimb (cid / 1024) child with
      | some (_, s1) => (s1.setTok cid t .pending).adv a
      | none => (s.setTok cid t (.done (cplWord 0x40 0x1F 0))).adv a
    else (s.setTok cid t (.done (cplWord 0x40 0x1F 0))).adv a

/-- PARK. -/
def parkRun (s : State) (a : Agent) (cid : Nat) (r1 r2 : BitVec 5) : State :=
  let c := s.climb cid
  if c.wakePending then
    (s.updClimb cid (fun c => { c with wakePending := false, run := 0 })).result a r1 0
  else
    let d := s.getG a r2
    let dl := if d = 0 then none else some (s.time + d)
    let s1 := (s.updClimb cid (fun c => { c with deadline := dl, parkRd := r1.toNat, run := 0 })).leave cid .parked
    s1.updClimb cid (fun c => { c with core := none })

/-- The completion of a route call at its climb's EXIT, after any writeback (R62). -/
def callExit (s : State) (n code : Nat) (g1 : W64) : State :=
  match Tbl.find s.calls n with
  | none => s
  | some c =>
    let e := c.entry
    let wb := (s.route (callSlot e)).writeback && decide (callPlen e ≠ 0) && s.liveH c.ridge c.param && !c.discarded
    let d := s.rdBytes (bufBase c.ridge + (s.bufOf c.ridge c.param).base * 1024) (callPlen e)
    let s1 := if !wb then s
      else if c.internal then (s.dmaTouch (callPaddr e) d.length true).wrBytes (callPaddr e) d
      else s.post { addr := callPaddr e, data := d, call := some n, cpl := none, since := s.time }
    s1.endCall n (if code = 0 then 0 else 1) c.ridge code g1.toNat

/-- EXIT. -/
def exitRun (s : State) (cid code : Nat) (g1 : W64) : State :=
  let c := s.climb cid
  if c.trapActive = true ∧ code ≠ 0 then s.endByTrap cid c.tcause
  else
    let s1 := match c.origin with
      | .call n => s.callExit n code g1
      | _ => s
    s1.retire cid (.exit code)

end State

/-- SPAWN (R50, R98). -/
def execSpawn (a : Agent) (t : BitVec 3) (r1 r2 : BitVec 5) (s : State) : Res :=
  .next (s.ezClimb a (.spawn a t r1 r2)
    (fun cid u => u.spawnRun a cid t.toNat (u.getG a r1).toNat (u.getG a r2).toNat))
/-- PARK (R98). -/
def execPark (a : Agent) (r1 r2 : BitVec 5) (s : State) : Res :=
  .next (s.ezClimb a (.park a r1 r2) (fun cid u => u.parkRun a cid r1 r2))
/-- YIELD (R98): behind the READY climbs of its class, the watchdog count restarting (R44). -/
def execYield (a : Agent) (s : State) : Res :=
  .next (s.ezClimb a (.yield a) (fun cid u =>
    ((u.adv a).updClimb cid (fun c => { c with run := 0 })).leave cid .ready))
/-- EXIT (R37, R38, R98). -/
def execExit (a : Agent) (r1 : BitVec 5) (s : State) : Res :=
  .next (s.ezClimb a (.exit a r1) (fun cid u => u.exitRun cid ((u.getG a r1).toNat % 256) (u.getG a 1)))
/-- FENCE (R34, R80): every earlier access of an in-order core has been performed. -/
def execFence (a : Agent) (s : State) : Res := .next (s.ez a (fun t => t.adv a))

/-! ### Control and status registers (R99, R100) -/

namespace State

/-- The CSRs that a datapath climb reads. -/
def csrClimb (s : State) (cid n : Nat) : Option W64 :=
  let c := s.climb cid
  let r := cid / 1024
  let mask := fun (f : Tok → Bool) => sumBy (fun t => b2n (f (c.t.getD t .idle)) * 2 ^ t) (List.range 8)
  match n with
  | 0x000 => some (BitVec.ofNat 64 cid)
  | 0x001 => some (BitVec.ofNat 64 (match c.parent with | some p => p + 2 ^ 13 | none => 0))
  | 0x002 => some (BitVec.ofNat 64 c.slot)
  | 0x003 => some (BitVec.ofNat 64 (localAddr cid))
  | 0x004 => some (b64 c.bg)
  | 0x008 => some c.tpc
  | 0x009 => some (BitVec.ofNat 64 c.tcause)
  | 0x00A => some c.tval
  | 0x00B => some (b64 c.trapActive)
  | 0x010 => some (BitVec.ofNat 64 (mask Tok.isPending + mask Tok.isDone * 256))
  | 0x011 => some (BitVec.ofNat 64 c.tlast)
  | 0x020 => some (BitVec.ofNat 64 c.run)
  | 0x021 => some (BitVec.ofNat 64 (s.wdLimit r))
  | k => if 0x040 ≤ k ∧ k < 0x050 then some (BitVec.ofNat 64 (hlenReg (c.h.getD (k - 0x40) nullH))) else none

/-- The CSRs that a management core reads; those of climbs read as zero. -/
def csrMgmt (s : State) (m n : Nat) : Option W64 :=
  let c := s.mcore m
  match n with
  | 0x008 => some c.tpc
  | 0x009 => some (BitVec.ofNat 64 c.tcause)
  | 0x00A => some c.tval
  | 0x00B => some (b64 c.trapActive)
  | 0x800 => some c.trapvec
  | 0x801 => some (BitVec.ofNat 64 c.irqmask)
  | 0x802 => some (BitVec.ofNat 64 (s.irqLines m))
  | 0x803 => some c.fwscratch
  | 0x804 => some (BitVec.ofNat 64 m)
  | 0x805 => some c.syscount
  | k =>
    if k < 5 ∨ k = 0x010 ∨ k = 0x011 ∨ k = 0x020 ∨ k = 0x021 ∨ (0x040 ≤ k ∧ k < 0x050) then some 0 else none

/-- A CSR's value; none where the number is not listed for the core. -/
def csrRead (s : State) (a : Agent) (n : Nat) : Option W64 :=
  match a with
  | .dp _ _ => match s.agentCid a with | some cid => s.csrClimb cid n | none => none
  | .mg m => s.csrMgmt m n

/-- May a CSR be written? -/
def csrRw (a : Agent) (n : Nat) : Bool :=
  decide (n = 0x008) || (match a with
    | .dp _ _ => false
    | .mg _ => decide (n = 0x800) || decide (n = 0x801) || decide (n = 0x803))

/-- Write a CSR that may be written; `irqmask` has 16 bits. -/
def csrWrite (s : State) (a : Agent) (n : Nat) (v : W64) : State :=
  match a with
  | .dp _ _ => match s.agentCid a with
    | some cid => s.updClimb cid (fun c => { c with tpc := v })
    | none => s
  | .mg m =>
    let c := s.mcore m
    if n = 0x008 then s.setMcore m { c with tpc := v }
    else if n = 0x800 then s.setMcore m { c with trapvec := v }
    else if n = 0x801 then s.setMcore m { c with irqmask := v.toNat % 65536 }
    else s.setMcore m { c with fwscratch := v }

/-- A CSR instruction: the old value goes to rd; `new` is what is written, if anything. -/
def csrRun (s : State) (a : Agent) (i : Instr) (rd : BitVec 5) (n : Nat) (new : Option (W64 → W64)) : State :=
  match s.csrRead a n with
  | none => s.illegal a i
  | some old =>
    match new with
    | none => s.result a rd old
    | some f => if csrRw a n then (s.csrWrite a n (f old)).result a rd old else s.illegal a i

end State

/-- CSRR (R99). -/
def execCsrr (a : Agent) (rd : BitVec 5) (csr : BitVec 12) (s : State) : Res :=
  .next (s.ez a (fun t => t.csrRun a (.csrr a rd csr) rd csr.toNat none))
/-- CSRW (R99). -/
def execCsrw (a : Agent) (rd ra : BitVec 5) (csr : BitVec 12) (s : State) : Res :=
  .next (s.ez a (fun t => t.csrRun a (.csrw a rd ra csr) rd csr.toNat (some (fun _ => t.getG a ra))))
/-- CSRSET (R99): with ra = 0 it writes nothing. -/
def execCsrset (a : Agent) (rd ra : BitVec 5) (csr : BitVec 12) (s : State) : Res :=
  .next (s.ez a (fun t => t.csrRun a (.csrset a rd ra csr) rd csr.toNat
    (if ra = 0 then none else some (fun old => old ||| t.getG a ra))))
/-- CSRCLR (R99): with ra = 0 it writes nothing. -/
def execCsrclr (a : Agent) (rd ra : BitVec 5) (csr : BitVec 12) (s : State) : Res :=
  .next (s.ez a (fun t => t.csrRun a (.csrclr a rd ra csr) rd csr.toNat
    (if ra = 0 then none else some (fun old => old &&& ~~~(t.getG a ra)))))

/-! ### Time, traps and system instructions (R101, R102) -/

namespace State

/-- TRAP_ACTIVE of the executing context. -/
def trapActive (s : State) (a : Agent) : Bool :=
  match a with
  | .dp _ _ => match s.agentCid a with | some cid => (s.climb cid).trapActive | none => false
  | .mg m => (s.mcore m).trapActive

/-- ERET's effect: TRAP_ACTIVE clears and execution continues at tpc, whatever its low bits are (DESIGN CHOICE, log entry 87). A management core that returns from
line 0 has taken the internal completions, and one that returns from line 1 has served the doorbell once PF0's queue is empty
(R102; DESIGN CHOICE, log entry 28). -/
def trapReturn (s : State) (a : Agent) : State :=
  match a with
  | .dp _ _ => match s.agentCid a with
    | some cid => s.updClimb cid (fun c => { c with trapActive := false, pc := c.tpc })
    | none => s
  | .mg m =>
    let c := s.mcore m
    let s1 := if c.tcause = 0x20 then { s.wakeCores with internalCpl := [] }
      else if c.tcause = 0x21 then { s.wakeCores with bell := s.bell && !s.pep.queue.isEmpty } else s
    s1.setMcore m { c with trapActive := false, pc := c.tpc }

/-- The lowest management interrupt line that is high and enabled. -/
def lowLine (s : State) (m : Nat) : Option Nat :=
  (List.range 16).find? (fun l => bit ((s.mcore m).irqmask) l && s.irqLine m l)

end State

/-- TIME (R101). -/
def execTime (a : Agent) (rd : BitVec 5) (s : State) : Res := .next (s.ez a (fun t => t.result a rd t.time))
/-- TRAP (R101): SOFTWARE, with tpc at the next instruction. -/
def execTrap (a : Agent) (imm : BitVec 16) (s : State) : Res :=
  .next (s.ez a (fun t => t.ezTrap a 0x0B (imm.setWidth 64) (t.pcOf a + 4)))
/-- ERET (R63, R101). -/
def execEret (a : Agent) (s : State) : Res :=
  .next (s.ez a (fun t => if t.trapActive a then t.trapReturn a else t.illegal a (.eret a)))
/-- SLEEP (R101): the core stops until an enabled line is high. -/
def execSleep (a : Agent) (s : State) : Res :=
  .next (s.ezMgmt a (.sleep a) (fun m t =>
    let u := t.adv a
    u.setMcore m { u.mcore m with sleeping := true }))
/-- IINV (R101): instruction caches hold no state of this model, so only the pc moves. -/
def execIinv (a : Agent) (s : State) : Res := .next (s.ezMgmt a (.iinv a) (fun _ t => t.adv a))
/-- IOFENCE (R101): every earlier control-space write has been performed. -/
def execIofence (a : Agent) (s : State) : Res := .next (s.ezMgmt a (.iofence a) (fun _ t => t.adv a))

/-- MGMT_INTERRUPT (R102): taken between instructions, the lowest line first. -/
def execMgmtInterrupt (m : Nat) (s : State) : Res :=
  let c := s.mcore m
  if m < 4 ∧ c.running = true ∧ c.frozen = false ∧ c.halted = false ∧ c.trapActive = false then
    match s.lowLine m with
    | none => .next s
    | some l =>
      .next (s.setMcore m { c with
        tpc := c.pc, tcause := 0x20 + l, tval := 0, trapActive := true, pc := c.trapvec, sleeping := false })
  else .next s

end Sys2Proof.Machine
end

