-- ==== Sys2Proof/Machine/Lib.lean ====
section
/-! DEFINITION. The shipped library's callable routes (R54, R62, R568): the call they serve, its parameter block, and
how they exit. -/

namespace Sys2Proof.Machine

namespace State

/-- The running call of a library route's slot. -/
def libCall (s : State) (n slot : Nat) : Option Call :=
  match Tbl.find s.calls n with
  | some c => if c.phase = .running ∧ callSlot c.entry = slot then some c else none
  | none => none

/-- Base of a call's parameter buffer, while it lives. -/
def paramBase (s : State) (c : Call) : Option Nat :=
  if callPlen c.entry ≠ 0 && s.liveH c.ridge c.param then some (bufBase c.ridge + (s.bufOf c.ridge c.param).base * 1024) else none

/-- The parameter block of a call. -/
def paramBytes (s : State) (c : Call) : Bytes :=
  match s.paramBase c with
  | some b => s.rdBytes b (callPlen c.entry)
  | none => []

/-- The route writes into its parameter block from its start, as much as fits. -/
def setParam (s : State) (c : Call) (d : Bytes) : State :=
  match s.paramBase c with
  | some b => s.wrBytes b (d.take (callPlen c.entry))
  | none => s

/-- The library's route exits with a code and a RESULT. -/
def libExit (s : State) (n code result : Nat) : State :=
  match Tbl.find s.calls n with
  | none => s
  | some c =>
    let s1 := s.callExit n code (BitVec.ofNat 64 result)
    match c.cid with
    | some k => s1.libEnd k (.exit code)
    | none => s1

/-- An exit whose RESULT the spec does not state (log entry 34): success, or ROUTE_STATUS with a DETAIL. -/
def libDone (s : State) (n : Nat) : State := s.used.libExit n 0 (s.pick (2 ^ 64))
def libFail (s : State) (n detail : Nat) : State := s.used.libExit n detail (s.pick (2 ^ 64))

/-- A route that returns records (R264; log entry 35): as many whole records as fit, RESULT their number. -/
def libRecords (s : State) (n : Nat) (recs : List Bytes) : State :=
  match Tbl.find s.calls n with
  | none => s
  | some c =>
    let size := (recs.headD [0]).length
    let fit := recs.take (callPlen c.entry / size)
    (s.setParam c (fit.flatMap id)).libExit n 0 fit.length

end State

end Sys2Proof.Machine
end

