-- ==== Sys2Proof/Machine/Ports.lean ====
section
/-! DEFINITION. What the module ports do beyond reads (R284, R285, R429–R455): the write-class commands and their ends,
timeouts, lost and returning modules, arrivals, and the calls that add, detach and list modules. -/

namespace Sys2Proof.Machine

namespace State

/-! ### Ends of library programs (R17, R223, R233, R254, R280, R289, R454) -/

/-- The module a library program is for. -/
def svcMod (x : Svc) : Nat :=
  match x with
  | .land _ _ sa _ _ _ => saMod sa
  | .append _ _ m _ _ => m
  | .relay _ m _ => m
  | .cancel _ m _ => m
  | .region _ _ m _ => m
  | .flush _ _ sa _ _ => saMod sa
  | .row _ _ _ sa _ _ => saMod sa
  | .rebuilt _ _ _ sa _ _ => saMod sa
  | .erase _ sa => saMod sa
  | .fresh _ m _ => m
  | .anchor _ m _ => m
  | .chain _ sa _ _ => saMod sa

/-- A CANCEL's append has ended: LOG_FULL goes to the spare; another failure leaves it to the flush (R232). -/
def cancelEnd (s : State) (p m : Nat) (g : Group) (status result : Nat) : State :=
  if status = 0 then s.updPool p (fun x => { x with logs := Tbl.upd x.logs m (fun l => { l with seqs := l.seqs ++ [g.seq] }) })
  else if status = 0x20 ∧ result % 2 ^ 16 = quinken 0x88 then (s.switchLog p m false).addSvc (.cancel p m g)
  else if status = 0x20 ∧ result % 2 ^ 16 = resvConflict then s.conflictStop m
  else s.logFailed p m status

/-- ROPE jobs whose group the shadow has received, or needs no shadow, are done, but for those that ORDERED holds back (R16, R84, R95): the descriptor of an accepted job
is followed by its SEQ. -/
def ropeJobsDone (s : State) (p : Nat) : State :=
  s.jobs.foldl (fun t (j : Nat × Job) =>
    if j.2.cls = 0x0A ∧ j.2.desc.length = 40 ∧ fieldAt j.2.desc 2 1 = p ∧ t.heldBack j.1 j.2 = false
        ∧ (!t.hasShadow p ∨ fieldAt j.2.desc 32 8 ∉ (t.pool p).sentSeqs) then t.finish j.1 j.2 0 (fieldAt j.2.desc 32 4) else t) s

/-- A relay append has ended (R338): with both complete, the group counts as received by the shadow. -/
def relayEnd (s : State) (p m : Nat) (g : Group) (status result : Nat) : State :=
  if status = 0 then
    (s.updPool p (fun x =>
      let n := Tbl.getD x.relayed g.seq 0 + 1
      if n ≥ 2 then { x with relayed := Tbl.del x.relayed g.seq, sentSeqs := x.sentSeqs.erase g.seq }
      else { x with relayed := Tbl.set x.relayed g.seq n })).ropeJobsDone p
  else if status = 0x20 ∧ result % 2 ^ 16 = quinken 0x88 then (s.switchLog p m false).addSvc (.relay p m g)
  else if status = 0x20 ∧ result % 2 ^ 16 = resvConflict then s.conflictStop m
  else s.logFailed p m status

/-- An erase has ended (R239, R254): success frees the slab, a refusal retires it, anything else is tried again. -/
def eraseEnd (s : State) (p sa : Nat) (status result : Nat) : State :=
  if status = 0 then s.erased p sa false
  else if status = 0x20 ∧ result % 2 ^ 16 = resvConflict then s.conflictStop (saMod sa)
  else if retires status then s.retireSlab p sa 4
  else s.addSvc (.erase p sa)

/-- The sweep of an added module goes on to its next slab (R454). -/
def freshEnd (s : State) (p m k : Nat) (status result : Nat) : State :=
  if status = 0x20 ∧ result % 2 ^ 16 = resvConflict then s.conflictStop m
  else if !decide (m ∈ (s.pool p).mods) then s
  else
    let s1 := if status = 0 then s.erased p (saOf m k) true else if retires status then s.retireSlab p (saOf m k) 4 else s
    let k' := if status = 0 ∨ retires status then k + 1 else k
    if k' < (s1.modu m).ident.slabs then s1.addSvc (.fresh p m k') else s1

/-- A library program of any kind has ended. -/
def svcEnd (s : State) (x : Svc) (status result : Nat) : State :=
  match x with
  | .land p cmd sa _ _ _ => s.landEnd p cmd sa status result
  | .append p cmd m g _ => s.appendEnd p cmd m g status result
  | .relay p m g => s.relayEnd p m g status result
  | .cancel p m g => s.cancelEnd p m g status result
  | .region p n m g => s.regionEnd p n m g status result
  | .flush p last sa _ _ => s.flushEnd p last sa status result
  | .row p n i sa _ _ => s.rowEnd p n i sa status result
  | .rebuilt p n i sa first _ => s.rebuiltEnd p n i sa first status result
  | .erase p sa => s.eraseEnd p sa status result
  | .fresh p m k => s.freshEnd p m k status result
  | .anchor p m _ => s.anchorEnd p m status result
  | .chain p sa _ _ => s.chainEnd p sa status result

def delSvc (s : State) (n : Nat) : State := { s with svc := Tbl.del s.svc n }

/-- Run one library program on its module: its STATUS, RESULT and the state (R436, R437, R441). -/
def svcRun (s : State) (x : Svc) (o : ModOut) : Nat × Nat × State :=
  match x with
  | .land _ _ sa first pages _ => s.cmdProgram sa first 1 pages o
  | .flush _ _ sa first pages => s.cmdProgram sa first 1 pages o
  | .row _ _ _ sa first pages => s.cmdProgram sa first 0 pages o
  | .rebuilt _ _ _ sa first pages => s.cmdProgram sa first 0 pages o
  | .append p _ m g _ => s.appendGroup p m g o
  | .relay p m g => s.appendGroup p m g o
  | .cancel p m g => s.appendGroup p m g o
  | .region p _ m g => s.appendGroup p m g o
  | .erase _ sa => s.cmdErase sa o
  | .fresh _ m k => s.cmdErase (saOf m k) o
  | .anchor p m page => s.labelWrite p m page o
  | .chain _ sa first pages => s.cmdProgram sa first 1 pages o

/-- Kinds of library program: 0 program, 1 append, 2 erase. -/
def svcKind : Svc → Nat
  | .land .. => 0
  | .flush .. => 0
  | .row .. => 0
  | .rebuilt .. => 0
  | .append .. => 1
  | .cancel .. => 1
  | .relay .. => 1
  | .region .. => 1
  | .erase .. => 2
  | .fresh .. => 2
  | .anchor .. => 0
  | .chain .. => 0

/-- Does an append wait because the slab it goes to has no durable assignment yet (R211)? -/
def svcHeld (s : State) (x : Svc) : Bool :=
  match x with
  | .append p _ m _ _ => !s.logReady p m
  | .relay p m _ => !s.logReady p m
  | .cancel p m _ => !s.logReady p m
  | .region p _ m _ => !s.logReady p m
  | _ => false

/-- A library program of a kind completes with what its module made of it. -/
def svcComplete (s : State) (n kind : Nat) (o : ModOut) : State :=
  match Tbl.find s.svc n with
  | none => s
  | some x =>
    if svcKind x ≠ kind ∨ s.svcHeld x then s else
    let r := (s.delSvc n).svcRun x o
    (r.2.2.svcEnd x r.1 r.2.1).checkLengths (svcMod x)

/-- A queued job's write-class command completes: a Reservation Conflict stops its pool (R333), lengths are counted
(R446). -/
def jobComplete (s : State) (n : Nat) (j : Job) (r : Nat × Nat × State) : State :=
  let s1 := mpcDone n j r
  let s2 := if r.1 = 0x20 ∧ r.2.1 = resvConflict then s1.conflictStop (mpcModule j) else s1
  s2.checkLengths (mpcModule j)

/-- Journal Append of a queued job (R435, R441): ENTRIES, SERIAL, POOL, HEAD, EPOCH and SEQ as the descriptor gives them. -/
def mpcAppendJob (s : State) (j : Job) (o : ModOut) : Nat × Nat × State :=
  let d := j.desc
  let w := fieldAt d 0x10 4
  if bits w 0 11 < 2 ∨ 1024 < bits w 0 11 then s.issued (mpcModule j) (fun s => s.unlisted (mpcModule j)) else
  s.cmdAppend (mpcSa j) (fieldAt d 0x0C 4) (bits w 16 4) (bits w 20 1) (fieldAt d 0x14 4) (fieldAt d 0x18 8)
    (s.hBytes j.ridge (jh j 0)) o

/-! ### Lost and absent modules (R220, R282, R284, R447, R448) -/

/-- Open segments whose region bits a lost module held: the bitmaps of all open segments go to a replacement (R282). -/
def regionCopy (s : State) (p m : Nat) : State :=
  let x := s.pool p
  let hit := x.segs.any (fun q => decide (q.2.state = 0) && decide (m ∈ q.2.regMods))
  if !hit then s else
  let openS := x.segs.filter (fun q => decide (q.2.state = 0) && decide (q.2.regions ≠ 0))
  match (s.usable p).filter (fun k => (Tbl.find x.logs k).isSome && decide (domainOf k ≠ domainOf m)) with
  | [] => s
  | k :: _ =>
    let a := s.acceptGroup p 4 (openS.map (fun q => eRegion p q.1 q.2.regions q.2.k)) none 0
    (a.1.updPool p (fun y => { y with segs := y.segs.map (fun q =>
      (q.1, { q.2 with regMods := q.2.regMods.filter (fun z => decide (z ≠ m)) ++ (if q.2.state = 0 then [k] else []) })) })).addSvc
      (.region p (2 ^ 32) k a.2)

/-- MODULE_ABSENT for a pool of this head (R284): open segments are sealed at their last complete row, units go to the
front, journal triple and checkpoint chain are replaced. -/
def absentIn (s : State) (m p : Nat) : State :=
  let x := s.pool p
  let segs := (x.segs.filter (fun q => decide (q.2.state = 0) && q.2.members.any (fun y => decide (saMod y.slab = m)))).map Prod.fst
  let s1 := segs.foldl (fun t n => t.closeSeg p n) s
  let s2 := s1.updPool p (fun y => { y with
    units := y.units.map (fun q => (q.1, if saMod q.2.a = m ∨ saMod q.2.b = m then { q.2 with front := true } else q.2)) })
  let s3 := (x.units.filter (fun q => !q.2.sealed && decide (saMod q.2.a = m ∨ saMod q.2.b = m))).foldl (fun t q => t.sealUnit p q.1) s2
  let s4 := if x.triple.any (fun a => decide (saMod a = m)) then s3.newTriple p else s3
  let s5 := if (x.ckpt.chain ++ x.ckpt.newChain).any (fun a => decide (saMod a = m)) then
      s4.updPool p (fun y => { y with ckpt := { y.ckpt with flushed := 2 ^ 30 } }) else s4
  s5.regionCopy p m

/-- The jobs of a target end with LOST (R447, R448): RESULT [0] tells whether the command had been submitted. -/
def loseJobs (s : State) (m : Nat) : State :=
  (s.jobs.filter (fun q => decide (q.2.cls = 9) && decide (mpcModule q.2 = m))).foldl (fun t q =>
    t.finish q.1 q.2 0x23 (b2n !(s.heldBack q.1 q.2))) s

/-- A target is lost: its jobs and the library's programs end, and the module is absent (R284, R448). -/
def loseModule (s : State) (m : Nat) (cfs : Bool) : State :=
  let x := s.modu m
  if !x.present || x.lost then s else
  let s1 := ((s.setModu m { x with present := false, lost := true, lostAt := s.time }).mpcEvent (m / 4) (4 + 0x100 * b2n cfs)).loseJobs m
  let gone := s1.svc.filter (fun q => decide (svcMod q.2 = m))
  let s2 := { s1 with svc := s1.svc.filter (fun q => !decide (svcMod q.2 = m)) }
  let s3 := ((s2.poolsOf m).filter (fun p => s2.owns p)).foldl (fun t p => t.absentIn m p) s2
  gone.foldl (fun t q => t.svcEnd q.2 0x23 1) s3

/-- A port's link goes down: every target below it is lost (R448). -/
def losePort (s : State) (p : Nat) : State :=
  let s1 := (s.setMport p { s.mport p with up := false }).mpcEvent p 1
  (List.range 4).foldl (fun t i => t.loseModule (4 * p + i) false) s1

/-- Does the port run (`MPC[n].CONFIG`)? -/
def mpcRuns (s : State) (p : Nat) : Bool :=
  s.mpcPresent p && s.regBit (mpcBlk p + 0x18) 0 && !s.regBit (mpcBlk p + 0x18) 1

/-- A command times out (R447, R448): counted; the third within 10 s loses the module. -/
def noteTimeout (s : State) (m : Nat) : State :=
  let x := s.modu m
  let l := s.recent (x.timeouts ++ [s.time]) 10000
  let s1 := (s.setModu m { x with timeouts := l }).mpcError (m / 4) 2 0x40
  if l.length ≥ 3 then s1.loseModule m false else s1

/-! ### Admission (R429, R432, R433) -/

/-- The first test of R433 that fails, numbered from 1 in the order of the rule; 0 when the module is admitted. -/
def admitTest (i : Ident) (nested : Bool) : Nat :=
  if nested then 6
  else if i.qmagic ≠ 0x4B51 ∨ i.qversion ≠ 1 ∨ i.osets ≠ 6 ∨ i.capacity ≠ i.slabs * 67108864 then 1
  else if i.slabs < 1024 ∨ i.cwCorrect = 0 then 2
  else if !i.controllerOk then 3
  else if !i.nsid1 then 4
  else if !i.reservations then 5
  else 0

/-- The medium of an arriving module: the slabs that the command lists, over what this head last saw on that target (log entry 100). -/
def imageSlabs (kept : Tbl MSlab) (l : List SlabImage) : Tbl MSlab :=
  l.foldl (fun t i => Tbl.set t i.slab
    { mode := i.mode, row := i.row, oset := i.oset, appends := i.appends,
      pages := i.pages.foldl (fun u q => Tbl.set u q.1 { bytes := q.2, bad := false }) [] }) kept

/-! ### The module calls (R454, R455) -/

/-- The pool that holds a module, failed or not. -/
def holderOf (s : State) (m : Nat) : Option Nat := (s.poolsOf m).head?

/-- STATE of a module record (R455). -/
def moduleState (s : State) (m : Nat) : Nat :=
  let x := s.modu m
  if x.detached then 6
  else if s.pools.any (fun q => decide (m ∈ q.2.failed)) then 5
  else if x.lost then 4
  else if x.refused then 1
  else if !x.present then 0
  else if (s.holderOf m).isSome then 3 else 2

/-- A module record of MODULE_LIST. -/
def moduleRec (s : State) (m : Nat) : Bytes :=
  leBytes 1 (m / 4) ++ leBytes 1 (m % 4) ++ leBytes 1 (s.moduleState m) ++ leBytes 1 ((s.holderOf m).getD 0xFF)
    ++ leBytes 4 (s.modu m).ident.slabs ++ leBytes 2 (s.modu m).ident.qversion ++ zeros 6

/-- The module that ARG0 and ARG1 name, if they are in range. -/
def callModule (e : Bytes) : Option Nat :=
  if callArg e 0 < 64 ∧ callArg e 1 < 4 ∧ callPool e < 16 then some (4 * callArg e 0 + callArg e 1) else none

/-- MODULE_ADD (R454): the reservation, slabs 0 and 1 erased, the addition journaled, the background erases. -/
def addModule (s : State) (p m : Nat) : State :=
  let x := s.modu m
  let s1 := s.setModu m { x with held := true, foreign := false, detached := false, unreadable := [],
                                 slabs := Tbl.del (Tbl.del x.slabs 0) 1 }
  let s2 := s1.updPool p (fun y => { y with uses := y.uses.filter (fun q => decide (saMod q.1 ≠ m)) })
  (s2.submit p 9 [eModule p m true]).addSvc (.fresh p m 2)

/-- MODULE_DETACH (R454). -/
def detachModule (s : State) (p m : Nat) : State :=
  let x := s.modu m
  let s1 := if decide (m ∈ (s.pool p).mods) then s.submit p 9 [eModule p m false] else s
  let s2 := { s1 with svc := s1.svc.filter (fun q => !decide (svcMod q.2 = m)) }
  let s3 := (s2.setModu m { x with held := false, foreign := false, registered := false, regKey := 0, detached := true,
                                   present := false, admitted := false }).loseJobs m
  if (s3.mport (m / 4)).expander then s3 else s3.setMport (m / 4) { s3.mport (m / 4) with up := false }

end State

/-! ### Commands -/

/-- ERASE_SLAB (R437): a library erase `n`, or a queued job `n`. -/
def execEraseSlab (lib : Bool) (n : Nat) (o : ModOut) (s : State) : Res :=
  if lib then .next (s.svcComplete n 2 o) else
  match s.startable n 9 (fun op => op == 0x80) with
  | none => .next s
  | some j => .next (s.jobComplete n j (s.cmdErase (State.mpcSa j) o))

/-- PROGRAM_SLAB_ROW (R436). -/
def execProgramSlabRow (lib : Bool) (n : Nat) (o : ModOut) (s : State) : Res :=
  if lib then .next (s.svcComplete n 0 o) else
  match s.startable n 9 (fun op => op == 0x81) with
  | none => .next s
  | some j => .next (s.jobComplete n j
      (s.cmdProgram (State.mpcSa j) (State.mpcFirst j) (bits (fieldAt j.desc 0x10 4) 0 1) (s.mpcProgramPages j) o))

/-- JOURNAL_APPEND (R441, R442). -/
def execJournalAppend (lib : Bool) (n : Nat) (o : ModOut) (s : State) : Res :=
  if lib then .next (s.svcComplete n 1 o) else
  match s.startable n 9 (fun op => op == 0x85) with
  | none => .next s
  | some j => .next (s.jobComplete n j (s.mpcAppendJob j o))

/-- SET_READ_OFFSETS (R440). -/
def execSetReadOffsets (job : Nat) (o : ModOut) (s : State) : Res :=
  match s.startable job 9 (fun op => op == 0x88) with
  | none => .next s
  | some j => .next (s.jobComplete job j (s.cmdSetOffsets (State.mpcSa j) (bits (fieldAt j.desc 0x10 4) 0 3) o))

/-- READ_PAGE (R438, R446). -/
def execReadPage (job : Nat) (o : ModOut) (s : State) : Res :=
  match s.startable job 9 (fun op => op == 0x82) with
  | none => .next s
  | some j => .next ((s.mpcReadJob job j o).checkLengths (State.mpcModule j))

/-- READ_TAGS (R439, R446). -/
def execReadTags (job : Nat) (o : ModOut) (s : State) : Res :=
  match s.startable job 9 (fun op => op == 0x86) with
  | none => .next s
  | some j => .next ((s.mpcTagsJob job j o).checkLengths (State.mpcModule j))

/-- READ_HEALTH (R443, R446). -/
def execReadHealth (job : Nat) (page : Bytes) (o : ModOut) (s : State) : Res :=
  match s.startable job 9 (fun op => op == 0x8A) with
  | none => .next s
  | some j => .next ((s.mpcHealthJob job j page o).checkLengths (State.mpcModule j))

/-- CMD_TIMEOUT (R447): the command's window closes and it ends with TIMEOUT. RESULT is not stated: a free value. -/
def execCmdTimeout (lib : Bool) (n : Nat) (s : State) : Res :=
  if lib then
    match Tbl.find s.svc n with
    | none => .next s
    | some x => .next (((s.delSvc n).noteTimeout (State.svcMod x)).svcEnd x 0x24 0)
  else
    match s.startable n 9 (fun _ => true) with
    | none => .next s
    | some j => .next ((s.used.finish n j 0x24 (s.pick (2 ^ 32))).noteTimeout (State.mpcModule j))

/-- MODULE_LOST (R448): a target loses its link or reports CSTS.CFS, or the port's own link goes down. -/
def execModuleLost (port : Nat) (target : Option Nat) (cfs : Bool) (s : State) : Res :=
  match target with
  | none => if (s.mport port).up then .next (s.losePort port) else .next s
  | some t => .next (s.loseModule (4 * port + t % 4) cfs)

/-- MODULE_LINK_UP (R449): the link is up and the four steps are done for the targets of `ready`. -/
def execModuleLinkUp (port speed width : Nat) (flit expander : Bool) (ready : List Nat) (s : State) : Res :=
  if !s.mpcRuns port then .next s else
  let s1 := ((s.setMport port { up := true, speed := speed, width := width, flit := flit, expander := expander }).bump
    (State.mpcBlk port + 0x58) 0 32 1).mpcEvent port 2
  .next ((ready.filter (fun t => decide (t < 4))).foldl (fun u t =>
    let m := 4 * port + t
    let x := u.modu m
    if x.lost && !x.detached then
      (u.setModu m { x with present := true, lost := false, registered := x.admitted,
                            regKey := if x.admitted then u.resvKey else 0, timeouts := [] }).mpcEvent port 8
    else u) s1)

/-- MODULE_ARRIVAL (R429, R430, R433, R454): a hot-plugged module is checked, and admitted or refused. -/
def execModuleArrival (port target : Nat) (nested : Bool) (ident : Ident) (slabs : List SlabImage) (foreign : Bool)
    (s : State) : Res :=
  if !s.mpcRuns port || decide (target ≥ 4) || !(s.mport port).up || (decide (target ≠ 0) && !(s.mport port).expander) || (s.modu (4 * port + target)).present then .next s else
  let m := 4 * port + target
  let test := State.admitTest ident nested
  let f := Modu.fresh
  let x : Modu := { f with
    present := true, admitted := decide (test = 0), refused := decide (test ≠ 0), registered := decide (test = 0),
    regKey := if test = 0 then s.resvKey else 0, held := decide (test = 0) && (s.modu m).held && !foreign,
    foreign := foreign, ident := ident, slabs := State.imageSlabs (s.modu m).slabs slabs }
  let s1 := (s.setModu m x).mpcEvent port 8
  if test = 0 then .next s1
  else .next ((s1.mpcEvent port 0x400).book 0x20 0x044 (leBytes 1 port ++ leBytes 1 target ++ leBytes 1 test))

/-- MODULE_FAILED (R285): absent for 5 s. -/
def execModuleFailed (pool m : Nat) (s : State) : Res :=
  let x := s.modu m
  if s.owns pool ∧ x.present = false ∧ (s.time - x.lostAt).toNat ≥ 500000000 then .next (s.failModule pool m) else .next s

/-- MODULE_ADD (R454, R455). -/
def execModuleAdd (call : Nat) (s : State) : Res :=
  match s.libCall call 92 with
  | none => .next s
  | some c =>
    match State.callModule c.entry with
    | none => .next (s.libFail call 0x78)
    | some m =>
      let x := s.modu m
      if !x.present || x.refused || !x.admitted then .next (s.libFail call 0x79)
      else if s.pools.any (fun q => decide (m ∈ q.2.mods) && !decide (m ∈ q.2.failed)) then .next (s.libFail call 0x7A)
      else .next ((s.addModule (State.callPool c.entry) m).libDone call)

/-- MODULE_DETACH (R454, R455). -/
def execModuleDetach (call : Nat) (s : State) : Res :=
  match s.libCall call 93 with
  | none => .next s
  | some c =>
    match State.callModule c.entry with
    | none => .next (s.libFail call 0x78)
    | some m =>
      let x := s.modu m
      if !x.present || x.refused then .next (s.libFail call 0x79)
      else if s.pools.any (fun q => q.2.uses.any (fun u => decide (saMod u.1 = m) && decide (u.2.use ≠ 6))) then
        .next (s.libFail call 0x7B)
      else .next ((s.detachModule (State.callPool c.entry) m).libDone call)

/-- MODULE_LIST (R455). -/
def execModuleList (call : Nat) (s : State) : Res :=
  match s.libCall call 94 with
  | none => .next s
  | some c =>
    if State.callArg c.entry 0 ≥ 256 then .next (s.libFail call 0x78)
    else .next (s.libRecords call (((List.range 256).drop (State.callArg c.entry 0)).map (fun m => s.moduleRec m)))

end Sys2Proof.Machine
end

