-- ==== Sys2Proof/Machine/Map.lean ====
section
/-! DEFINITION. The map at work (R137–R140, R175, R184–R187), the summary's growth (R136), and the pool and namespace
routes (R113, R202–R208). -/

namespace Sys2Proof.Machine

namespace State

/-! ### New chunks (R137–R140) -/

/-- The raster profile of a namespace. -/
def nsProfile (s : State) (p nsid : Nat) : Option Bytes :=
  match Tbl.find (s.pool p).nss nsid with
  | some n => n.profile
  | none => none

/-- Has some bucket of the pool's summary overflowed (R131, R137)? -/
def summaryOver (s : State) (p : Nat) : Bool := decide (s.overCount p ≠ 0)

/-- The probe of step 1 of R137. -/
def hostProbe (s : State) (r p : Nat) (digest : Bytes) (len : Nat) : State × Option Nat :=
  if s.summaryOver p then
    match s.svcProbe r p digest len true with
    | (s1, some _) => s1.svcProbe r p digest len false
    | q => q
  else s.svcProbe r p digest len false

/-- One new chunk of a write: shared where a confirmed match can be referenced, else stored under a new handle (R137,
R139). `r` is the ridge of the write. -/
def chunkItem (s0 : State) (r p nsid ln : Nat) (pos : Int) (form : Nat) (d : Bytes) (marks : Marks) : WItem × State :=
  let s := s0.libDigest r d.length
  let x := s.pool p
  let dig := sha256 d
  let shared := fun (h : Nat) =>
    ({ line := ln, pos := pos, form := form, handle := h, fresh := false, digest := dig, olen := d.length, loc := 0, frame := [],
       alone := false } : WItem)
  let stored := fun (alone : Bool) =>
    ({ line := ln, pos := pos, form := form, handle := x.nextHandle, fresh := true, digest := dig, olen := d.length, loc := 0,
       frame := encodeChunk (s.nsProfile p nsid) d, alone := alone } : WItem)
  let take := fun (t : State) => t.updPool p (fun y => { y with nextHandle := x.nextHandle + 1 })
  if !x.cfg.dedup then (stored false, take s) else
  match s.hostProbe r p dig d.length with
  | (s1, none) => (stored false, take s1)
  | (s1, some h) =>
    if !refTakable x h then (stored false, take s1)
    else if !x.cfg.verify then (shared h, s1)
    else
      let q := s1.readChunk p h marks
      if q.1 = some d then (shared h, q.2)
      else if q.1.isNone then (stored true, take q.2)
      else (stored true, (take q.2).libBook 0x100 (leBytes 6 h ++ leBytes 6 x.nextHandle))

/-- A namespace's pitch line at a byte offset (R182). -/
def lineOf (s : State) (p nsid off : Nat) : Nat :=
  match Tbl.find (s.pool p).nss nsid with
  | some n => n.base + off / 0x100000
  | none => 0

/-! ### Pages and heat (R175, R184) -/

/-- The heat counters of a page become zero, or are halved: those of its pitches, or of the holds that it holds. -/
def coolPage (x : Pool) (mpn : Nat) (f : Nat → Nat) : Pool :=
  { x with lines := x.lines.map (fun q =>
      (q.1, { q.2 with
        heat := if q.1 / 16 = mpn then f q.2.heat else q.2.heat
        holds := if q.2.holdMpn = mpn then q.2.holds.map (fun h => (h.1, { h.2 with heat := f h.2.heat })) else q.2.holds })) }

/-- A page is in DRAM again, at a place of the firmware's choice: every climb that asked for it is woken (R175). -/
def pageIn (s : State) (p mpn : Nat) : State :=
  let d := (s.pool p).dirE mpn
  let a := 4096 * s.pick (2 ^ 28)
  let s1 := s.used.updPool p (fun x =>
    coolPage (x.setDir mpn { d with resident := true, dirty := false, loading := false, waiters := [], addr := a }) mpn (fun _ => 0))
  d.waiters.foldl (fun t c => t.wake c) s1

/-- Pages that a plan in flight has pinned. -/
def pinned (s : State) (p mpn : Nat) : Bool :=
  s.plans.any (fun q => decide (q.2.pool = p) && q.2.items.any (fun i => decide (i.line / 16 = mpn)))

/-- With a page come in, the firmware may evict one that is clean and that nothing has pinned (R175); which one is open. -/
def evictPage (s : State) (p keep : Nat) : State :=
  let c := (s.pool p).dir.filter (fun q => q.2.present && q.2.resident && !q.2.dirty && decide (q.2.flash ≠ 0) && decide (q.1 ≠ keep)
    && !s.pinned p q.1)
  match c.drop (s.pick (c.length + 1)) with
  | q :: _ => s.used.updPool p (fun x => x.setDir q.1 { q.2 with resident := false, addr := 0 })
  | [] => s.used

/-! ### Merges (R186) -/

/-- The bytes of a 16 KiB group as the map gives them, holds over the chunk beneath. -/
def groupBytes (s : State) (p : Nat) (l : Line) (g : Nat) (marks : Marks) : Option Bytes × State :=
  let holds := (List.range 4).map (fun i => Tbl.find l.holds (4 * g + i))
  let under := if holds.all Option.isSome then (some (zeros 16384), s) else
    match Tbl.find (Pool.cellsOf l) g with
    | some h => s.readChunk p h marks
    | none => (some (zeros 16384), s)
  match under.1 with
  | none => (none, under.2)
  | some base =>
    (List.range 4).foldl (fun (st : Option Bytes × State) i =>
      match st.1, holds.getD i none with
      | some d, some h =>
        if h.zero then (some (spliceAt d (4096 * i) (zeros 4096)), st.2) else
        let r := st.2.readChunk p h.handle marks
        (r.1.map (fun b => spliceAt d (4096 * i) (padTo 4096 b)), r.2)
      | _, _ => st) (some base, under.2)

/-- Namespace and offset of a line of a block namespace. -/
def nsOfLine (x : Pool) (ln : Nat) : Option (Nat × Nat) :=
  (x.nss.find? (fun q => decide (q.2.kind = 0 ∧ q.2.snap = none ∧ q.2.base ≤ ln ∧ ln < q.2.base + q.2.size / 0x100000))).map
    (fun q => (q.1, (ln - q.2.base) * 0x100000))

/-- How warm a group with holds is: its warmest hold, then its pitch. -/
def groupHeat (l : Line) (g : Nat) : Nat :=
  256 * ((List.range 4).filterMap (fun i => Tbl.find l.holds (4 * g + i))).foldl (fun m h => max m h.heat) 0 + l.heat

/-- Is a group the coldest of those with holds in the pool's block namespaces (R186)? -/
def coldest (x : Pool) (l : Line) (g : Nat) : Bool :=
  (x.lines.filter (fun q => (nsOfLine x q.1).isSome)).all (fun q =>
    (q.2.holds.map (fun h => h.1 / 4)).all (fun i => decide (groupHeat l g ≤ groupHeat q.2 i)))

/-- May the group be demoted now (R186)? Past 1/64 of the map's DRAM the coldest group goes first. -/
def mergeDue (s : State) (p : Nat) (l : Line) (g : Nat) : Bool :=
  let x := s.pool p
  let hs := (List.range 4).filterMap (fun i => Tbl.find l.holds (4 * g + i))
  let holdPages := (x.lines.filter (fun q => !q.2.holds.isEmpty)).length
  !hs.isEmpty && ((hs.all (fun h => decide (h.heat < x.cfg.demote)) && decide (l.heat < x.cfg.promote))
    || (decide (holdPages * 64 > (x.dir.filter (fun q => q.2.resident)).length) && coldest x l g))

/-! ### Growth of the summary (R136) -/

/-- DRAM that all summaries take (R136). -/
def summaryTotal (s : State) : Nat :=
  sumBy (fun p => match s.summary p with | some (_, k) => 2 ^ k * 256 | none => 0) (List.range 16)

/-- A new table of twice the buckets at `base`, filled from the index store, and the descriptors moved to it. -/
def growSummary (s : State) (p base log2b : Nat) : State :=
  let n := 2 ^ log2b * 256
  let s0 := s.dramTouch base n true
  let s1 := { s0 with mem := Mem.wipe s0.mem base n }
  let s2 := (s1.idxOf p).foldl (fun (t : State) e =>
    let r := (t.touchBuckets base log2b e.digest true).sumInsert base log2b e.digest
      { tag := sliceAt e.digest 0 12, handle := e.handle, len := e.len, valid := true }
    if r.2 then r.1.raise (ridgeBlk r.1.libRidge 9 + 0x30) 1 else r.1) s1
  (List.range 8).foldl (fun t r =>
    let a := t.regBits (ridgeBlk r 9) 0 48 + 64 * p
    if t.ridgePresent r && decide (t.regBits (ridgeBlk r 9) 0 48 ≠ 0) then
      (((t.dramTouch a 24 true).wrNat a 1 1).wrNat (a + 8) 8 base).wrNat (a + 0x10) 8 log2b
    else t) s2

/-- log2 of a power of two. -/
def log2Of (n : Nat) : Nat := ((List.range 64).find? (fun i => decide (2 ^ i ≥ n))).getD 0

/-! ### Pool routes (R113, R203–R206) -/

/-- The parameters of a POOL_CREATE block with their defaults. -/
def poolParams (d : Bytes) : PoolCfg :=
  let dflt := fun (v z : Nat) => if v = 0 then z else v
  { k := dflt (fieldAt d 0 1) 14, dedup := !bit (fieldAt d 1 1) 0, verify := bit (fieldAt d 1 1) 1, maskBits := dflt (fieldAt d 2 1) 15,
    days := dflt (fieldAt d 3 1) 14, minLen := dflt (fieldAt d 4 4) 8192, maxLen := dflt (fieldAt d 8 4) 131072,
    gib := fieldAt d 0x0C 2, sparePml := dflt (fieldAt d 0x0E 2) 15, promote := dflt (fieldAt d 0x10 1) 32,
    demote := if fieldAt d 0x11 1 = 0xFF then 4 else fieldAt d 0x11 1, decay := dflt (fieldAt d 0x12 2) 64 }

def poolModules (d : Bytes) : List Nat :=
  (List.range (fieldAt d 0x14 2)).map (fun i => 4 * fieldAt d (0x20 + 2 * i) 1 + fieldAt d (0x21 + 2 * i) 1)

/-- The DETAIL of a POOL_CREATE that its arguments refuse, in the order of R205 step 1; 0 where they hold. -/
def poolCheck (s : State) (p : Nat) (d : Bytes) : Nat :=
  let c := poolParams d
  let n := fieldAt d 0x14 2
  let ms := poolModules d
  if !decide (s.pwr.mode ∈ [5, 6, 9]) then 0x2B
  else if p ≥ 16 ∨ n < 1 ∨ n > 256 ∨ d.length ≠ 32 + 2 * n ∨ c.k < 6 ∨ c.k > 30 ∨ fieldAt d 1 1 > 3 ∨ c.days < 3 ∨ c.days > 60
      ∨ c.sparePml < 5 ∨ c.sparePml > 50 ∨ c.demote > 254 ∨ c.demote ≥ c.promote
      ∨ c.decay > 3600 ∨ sliceAt d 0x16 10 ≠ zeros 10
      ∨ (List.range n).any (fun i => decide (fieldAt d (0x20 + 2 * i) 1 > 63 ∨ fieldAt d (0x21 + 2 * i) 1 > 3)) then 0x20
  else if (c.gib ≠ 0 ∧ (c.gib > 1024 ∨ 2 ^ log2Of c.gib ≠ c.gib)) ∨ c.minLen < 2048 ∨ c.minLen > 65536 ∨ c.maskBits < 12 ∨ c.maskBits > 18 ∨ c.maxLen < 16384 ∨ c.maxLen > 262144
      ∨ c.minLen > 2 ^ (c.maskBits - 1) ∨ c.maxLen < 2 ^ (c.maskBits + 1) then 0x21
  else if (s.pool p).rel ≠ .none ∨ s.modules.any (fun m => (s.sbRead m.1 p).any (fun b => !bit (fieldAt b 4 4) 0)) then 0x22
  else if (s.pools.filter (fun q => decide (q.2.rel ≠ .none))).length ≥ 16 then 0x27
  else if ms.any (fun m => !(s.modUp m) || (s.holderOf m).isSome) ∨ ms.eraseDups.length ≠ n then 0x29
  else if (ms.map domainOf).eraseDups.length < c.k + 4 then 0x43
  else 0

/-- The pool transfer key of a pool (R459). -/
def transferKey (s : State) (poolId : Bytes) : Bytes := kdf (s.pairSecret.getD []) "CK-POOLXFER" poolId 32

/-- The five KEYWRAP entries of a pool's key (R462). -/
def keywraps (s : State) (p : Nat) (poolId : Bytes) : List Bytes :=
  match s.areaKey 5 p with
  | some k =>
    let w := keyWrap (s.transferKey poolId) k
    (List.range 5).map (fun i => eKeywrap p i (padTo 16 (sliceAt w (16 * i) (if i = 4 then 8 else 16))))
  | none => []

/-- Three modules of a new pool in distinct domains, the first slab after the labels of each for its journal. -/
def firstTriple (ms : List Nat) : List Nat :=
  (ms.foldl (fun (a : List Nat) m => if a.length < 3 ∧ !(a.map domainOf).contains (domainOf m) then a ++ [m] else a) []).map (fun m => saOf m 2)

/-- A VOTE_REQUEST (R327, R330). -/
def voteRequest (s : State) (pools reason : Nat) (epochs : List (Nat × Nat)) : State :=
  let es := (List.range 16).flatMap (fun i => leBytes 4 (match epochs.find? (fun q => decide (q.1 = i)) with | some q => q.2 | none => 0))
  let q := s.nextMseq
  let s1 := s.sendCairn 1 (leBytes 8 s.crn.term.toNat ++ leBytes 1 reason ++ [0] ++ leBytes 2 pools ++ zeros 4 ++ es)
  if s1.crn.count = s.crn.count then s1
  else { s1 with crn := { s1.crn with votes := s1.crn.votes ++ [{ mseq := q, pools := pools, reason := reason }] } }

/-- POOL_CREATE after its grant (R205 steps 3 to 5, R462): reservations, label slabs erased, superblock, key, the creation
group made durable on a first journal triple, and the first anchor. -/
def createPool (s : State) (p : Nat) (d : Bytes) (term : W64) : State :=
  let c := poolParams d
  let ms := poolModules d
  let id := s.freeBytes 16
  let s := s.used
  let key := s.freeBytes 64
  let s := s.used
  let s0 := ms.foldl (fun (t : State) m =>
    let x := t.modu m
    t.setModu m { x with held := true, foreign := false, slabs := Tbl.del (Tbl.del (Tbl.del x.slabs 0) 1) 2 }) s
  let tr := firstTriple ms
  let x0 := Pool.fresh
  let x1 : Pool := { x0 with
    rel := .owner, cfg := c, poolId := id, created := s.time, ownerTerm := term, ownerTime := s.time, mods := [],
    nextMpn := 1, decayAt := s.time, flushAt := s.time, healthAt := s.time }
  let s1 := ((s0.setPool p x1).setAreaKey 5 p key)
  let s1 := { s1 with keySlots := Tbl.set s1.keySlots p key }
  let s2 := s1.submit p 4 (eParams p c :: ms.map (fun m => eModule p m true) ++ s1.keywraps p id ++ tr.map (fun a => eSlab p a 3 0 0))
  let s3 := s2.updPool p (fun y => { y with triple := tr })
  let gs := (s3.pool p).jbuf
  let last := gs.foldl (fun m g => max m g.seq) 0
  let ps := flushPages p 1 0 0 s.time gs
  let s4 := tr.foldl (fun t a => (List.range (ceilDiv ps.length 16)).foldl (fun t i =>
    (t.cmdProgram a (16 * i) 1 ((ps.drop (16 * i)).take 16) (.ok 0)).2.2) t) s3
  let s5 := s4.updPool p (fun y =>
    { y with jbuf := [], jpage := ps.length, durable := last,
             uses := ms.foldl (fun t m => if saOf m 2 ∈ tr then t else Tbl.set t (saOf m 2) { SlabUse.fresh with erased := true }) y.uses,
             ckpt := { y.ckpt with at_ := s.time, jat := tr, jp := 0, gen := 1, startSeq := 1 } })
  let s6 := s5.sbWriteAll p (anchorBytes (s5.pool p) p 1 1 s.time) false s.headId 0
  let s7 := { s6 with ckpts := Tbl.set s6.ckpts (2 ^ 64 * p + 1) (s6.pool p) }
  let s8 : State := s7.addSvcs (ms.map (fun m => .fresh p m 3))
  let s9 := if s8.pwr.mode = 9 then s8.setMode 6
    else if s8.rope.linkUp = true ∧ s8.pair.solo = false ∧ s8.rope.peerMode ∈ [4, 5, 6, 7] then
      { s8 with pair := { s8.pair with newPools := s8.pair.newPools ||| 2 ^ p } }
    else s8
  s9.anaChange

/-- Nothing stands in a pool (R206). -/
def poolEmpty (x : Pool) : Bool := x.nss.isEmpty && x.snaps.isEmpty && x.pairs.isEmpty

/-- POOL_DELETE (R206, R463). -/
def deletePool (s0 : State) (p : Nat) : State :=
  let ms := (s0.pool p).mods
  let s := s0.submit p 4 [eGone p]
  let s1 := s.sbWriteAll p (s.lastAnchor p) true s.headId 0
  let s2 := ms.foldl (fun (t : State) m => t.setModu m { t.modu m with held := false, foreign := false, registered := false, regKey := 0 }) s1
  let s3 := (({ s2 with pools := Tbl.del s2.pools p, idxStore := Tbl.del s2.idxStore p, idxRuns := Tbl.del s2.idxRuns p,
                        svc := s2.svc.filter (fun q => !decide (svcMod q.2 ∈ ms)) }).unloadKey p).delAreaKey 5 p
  s3.anaChange

/-! ### Namespaces (R203, R207, R208) -/

/-- Every namespace this head knows, by NSID, with its pool. -/
def allNs (s : State) : Tbl (Nat × Ns) :=
  s.pools.foldl (fun t (q : Nat × Pool) => q.2.nss.foldl (fun t (n : Nat × Ns) => Tbl.set t n.1 (q.1, n.2)) t) []

/-- The Changed Namespace List, and a notice to the controllers that enabled it (R203). -/
def nsChanged (s : State) (nsid : Nat) : State :=
  let s1 := { s with host := { s.host with ctrls := s.host.ctrls.map (fun (q : Nat × HCtrl) =>
    (q.1, { q.2 with changed := if nsid ∈ q.2.changed then q.2.changed else q.2.changed ++ [nsid] })) } }
  s1.host.ctrls.foldl (fun t q => if q.2.nsNotice then t.emit (.aen q.1 0x00 0x04) else t) s1

def profileOk (d : Bytes) : Bool :=
  decide (d.length = 16) && decide (fieldAt d 0 1 < 8) && decide (1 ≤ fieldAt d 1 1) && decide (fieldAt d 1 1 ≤ 4)
    && decide (fieldAt d 2 2 = 0) && decide (1 ≤ fieldAt d 4 4) && decide (fieldAt d 4 4 ≤ 65536) && decide (sliceAt d 8 8 = zeros 8)

/-- The namespace record of R208. -/
def nsRec (s : State) (nsid p : Nat) (n : Ns) : Bytes :=
  let fl := b2n n.profile.isSome + 2 * b2n n.snap.isSome + 4 * b2n n.target
    + 8 * b2n (n.snap.isSome || n.target || decide ((s.pool p).fill = 2)) + 16 * b2n n.deleting
  leBytes 4 nsid ++ leBytes 1 p ++ leBytes 1 n.kind ++ leBytes 2 fl ++ leBytes 8 n.size ++ padTo 16 (n.profile.getD [])

/-- The walk of a deleted namespace (R207): references down, pages freed, each freeing a change under R348. -/
def nsWalk (s : State) (p nsid : Nat) : State :=
  match Tbl.find (s.pool p).nss nsid with
  | none => s
  | some n =>
    let x := s.pool p
    let lns := nsLines x nsid n
    let pages := (lns.flatMap (fun ln => let l := x.line ln; [ln / 16] ++ (if l.holdMpn = 0 then [] else [l.holdMpn])
      ++ (if l.extMpn = 0 then [] else if l.runs.length > 267 then [l.extMpn, l.extMpn + 1] else [l.extMpn])) ++ n.leaves).eraseDups
    let s1 := pages.foldl (fun (t : State) m =>
      let y := t.pool p
      if !(y.dirE m).present then t else
      let refs := ((y.pageLines m).map (fun q => Pool.lineRefs q.2)).flatten
      t.submit p 4 ((cowPage y p m).2 ++ refDiff p refs [] [] ++ [ePage p m 1 0 0])) s
    let s2 := if n.kind = 1 then s1.submit p 4 (keyCow (s1.pool p) p nsid ++ [eNs p nsid 1 n.kind n.base n.size]) else s1
    if (s2.pool p).snaps.isEmpty then s2.submit p 4 [eNs p nsid 2 n.kind n.base n.size]
    else s2.updPool p (fun y => y.updNs nsid (fun z => { z with objs := [], walked := true }))

end State

/-! ### Commands -/

/-- PAGE_LOAD (R175, R176): the flash copy of a page that was asked for is read into DRAM and becomes the page; until it verifies, its
waiters wait. -/
def execPageLoad (pool mpn : Nat) (marks : List (Nat × Nat × Nat × Nat)) (s : State) : Res :=
  let d := (s.pool pool).dirE mpn
  if !d.loading || d.resident then .next s
  else if d.flash = 0 then .next (s.pageIn pool mpn)
  else
    match s.readMeta pool d.flash marks with
    | (some b, t) => .next (((t.updPool pool (fun x => loadPage x mpn (b.take 4096))).pageIn pool mpn).evictPage pool mpn)
    | (none, t) => .next t

/-- HEAT_DECAY (R184): every DECAY seconds each counter of a resident page is halved. -/
def execHeatDecay (pool : Nat) (s : State) : Res :=
  let x := s.pool pool
  if (s.time - x.decayAt).toNat < x.cfg.decay * 100000000 then .next s else
  .next (s.setPool pool ((x.dir.filter (fun q => q.2.resident)).foldl (fun y q => State.coolPage y q.1 (fun h => h / 2)) { x with decayAt := s.time }))

/-- MERGE (R186): a group of 16 KiB is demoted. A conflicting lock makes the merge wait; the lock it takes is held until its
group is journaled. -/
def execMerge (pool line group : Nat) (marks : List (Nat × Nat × Nat × Nat)) (s : State) : Res :=
  let x := s.pool pool
  let l := x.line line
  match State.nsOfLine x line with
  | none => .next s
  | some (nsid, off) =>
    if !s.owns pool || decide (group ≥ 64) || s.absentPage pool (line / 16) || !s.mergeDue pool l group then .next s else
    let n := s.nextPlan
    let lock : Lock := { cmd := some n, nsid := nsid, start := off + 16384 * group, len := 16384, key := none, write := true,
                         granted := true, reserved := true, doubt := none, merge := true }
    if s.host.locks.any (fun o => State.lockConflict o lock) then .next s else
    let r := s.groupBytes pool l group marks
    match r.1 with
    | none => .next r.2
    | some d =>
      let (it, s1) := r.2.chunkItem (s.cmdRidge n) pool nsid line (group : Int) 1 d marks
      let w : WPlan := { pool := pool, nsid := nsid, origin := 3, items := [it], key := none, delKey := false, seq := 0, due := 0,
                         accepted := false, mods := [], pair := none }
      let s2 := { s1 with host := { s1.host with locks := s1.host.locks ++ [lock] } }
      match s2.issuePlan n (s2.cmdRidge n) w with
      | (s3, true) => .next s3
      | (s3, false) => .next (s.keepSeals s3 pool)

/-- SUMMARY_GROW (R136): past 90 % occupancy or after CUCKOO_FAIL, a table of twice the buckets at `base`. -/
def execSummaryGrow (pool base : Nat) (s : State) : Res :=
  match s.summary pool with
  | none => .next s
  | some (_, l) =>
    let full := decide ((s.idxOf pool).length * 10 > 9 * 10 * 2 ^ l)
      || ((List.range 8).filter s.ridgePresent).any (fun r => s.regBit (State.ridgeBlk r 9 + 0x30) 0)
    if full && decide (l < 32) && decide (s.summaryTotal + 2 ^ l * 256 ≤ 1536 * 2 ^ 30) then .next (s.growSummary pool base (l + 1)) else .next s

/-- POOL_CREATE (R203–R205, R458, R460; the last DETAILs: log entry 99). `granted` is the Cairn's answer: the term of its grant, or none where it denies. `sum` is where
the pool's summary stands in DRAM. -/
def execPoolCreate (call : Nat) (granted : Option W64) (sum : Nat) (s : State) : Res :=
  match s.libCall call 40 with
  | none => .next s
  | some c =>
    let p := State.callPool c.entry
    let d := s.paramBytes c
    let e := s.poolCheck p d
    if e ≠ 0 then .next (s.libFail call e)
    else if !s.wdn.trngOk then .next (s.libFail call 0x84)
    else if !s.ladderServes false then .next (s.keyRefused.libFail call 0x81) else
    let s1 := s.voteRequest (2 ^ p) 2 [(p, 1)]
    match granted with
    | none => .next (s1.libFail call 0x22)
    | some t =>
      let s2 := ({ s1 with crn := { s1.crn with term := if t.toNat > s1.crn.term.toNat then t else s1.crn.term } }).createPool p d t
      let g := (State.poolParams d).gib
      let l := if g = 0 then 10 else State.log2Of (g * 4194304)
      let s3 := if (State.poolParams d).dedup && decide (sum ≠ 0) && decide (s2.summaryTotal + 2 ^ l * 256 ≤ 1536 * 2 ^ 30) then s2.growSummary p sum l else s2
      .next (s3.libDone call)

/-- POOL_DELETE (R206). -/
def execPoolDelete (call : Nat) (s : State) : Res :=
  match s.libCall call 41 with
  | none => .next s
  | some c =>
    let p := State.callPool c.entry
    if !s.owns p then .next (s.libFail call 0x23)
    else if !State.poolEmpty (s.pool p) then .next (s.libFail call 0x24)
    else .next ((s.deletePool p).libDone call)

/-- POOL_SET (R184, R203). -/
def execPoolSet (call : Nat) (s : State) : Res :=
  match s.libCall call 42 with
  | none => .next s
  | some c =>
    let p := State.callPool c.entry
    let cfg := (s.pool p).cfg
    let pick := fun (i old : Nat) => if State.callArg c.entry i = 0 then old else State.callArg c.entry i
    let (a, b, d) := (pick 0 cfg.promote, pick 1 cfg.demote, pick 2 cfg.decay)
    if !s.owns p then .next (s.libFail call 0x23)
    else if a > 255 ∨ b > 254 ∨ d > 3600 ∨ b ≥ a then .next (s.libFail call 0x20)
    else .next ((s.submit p 4 [eHeat p a b d]).libDone call)

/-- NS_CREATE (R203, R208, R268). -/
def execNsCreate (call : Nat) (s : State) : Res :=
  match s.libCall call 43 with
  | none => .next s
  | some c =>
    let p := State.callPool c.entry
    let nsid := State.callArg c.entry 0
    let kind := State.callArg c.entry 1
    let size := State.callArg c.entry 2
    let d := s.paramBytes c
    if !s.owns p then .next (s.libFail call 0x23)
    else if nsid < 1 ∨ nsid > 0xFFFFFFFE ∨ kind > 1 ∨ (kind = 1 ∧ size ≠ 0)
        ∨ (kind = 0 ∧ (size < 1048576 ∨ size > 2 ^ 56 ∨ size % 1048576 ≠ 0)) then .next (s.libFail call 0x20)
    else if State.callPlen c.entry ≠ 0 ∧ !State.profileOk d then .next (s.libFail call 0x28)
    else if (s.pool p).fill = 2 then .next (s.libFail call 0x31)
    else if s.allNs.length ≥ 4096 then .next (s.libFail call 0x27)
    else if (Tbl.find s.allNs nsid).isSome then .next (s.libFail call 0x25)
    else
      let base := if kind = 0 then 16 * State.mpnOf p (s.pool p).nextMpn else 0
      let es := eNs p nsid 0 kind base size :: (if State.callPlen c.entry = 0 then [] else [eProfile p nsid d])
      .next (((s.submit p 4 es).nsChanged nsid).libDone call)

/-- NS_DELETE (R207): invisible at once; when the commands already admitted have ended, the walk runs and the call
completes. -/
def execNsDelete (call : Nat) (s : State) : Res :=
  match s.libCall call 44 with
  | none => .next s
  | some c =>
    let nsid := State.callArg c.entry 0
    match Tbl.find s.allNs nsid with
    | none => .next (s.libFail call 0x26)
    | some (p, n) =>
      if n.walked then .next (s.libFail call 0x26)
      else if !s.owns p then .next (s.libFail call 0x23)
      else if n.target || n.snap.isSome || (s.pool p).pairs.any (fun q => decide (q.2.nsid = nsid)) then .next (s.libFail call 0x2A)
      else
        let s1 := if n.deleting then s else (s.submit p 4 [eNs p nsid 1 n.kind n.base n.size]).nsChanged nsid
        if s1.host.cmds.any (fun q => decide (q.2.cap.nsid = nsid)) then .next s1
        else .next ((s1.nsWalk p nsid).libDone call)

/-- NS_LIST (R208). -/
def execNsList (call : Nat) (s : State) : Res :=
  match s.libCall call 45 with
  | none => .next s
  | some c => .next (s.libRecords call (((s.allNs.filter (fun q => !q.2.2.walked)).drop (State.callArg c.entry 0)).map (fun q => s.nsRec q.1 q.2.1 q.2.2)))

end Sys2Proof.Machine
end

