-- ==== Sys2Proof/Machine/Media.lean ====
section
/-! DEFINITION. Media patrol and the fixity routes (R257–R266, R277), and the fill state's evaluation (R266). -/

namespace Sys2Proof.Machine

namespace State

/-- A day in TIME ticks. -/
def dayTicks : Nat := 86400 * 100000000

/-- When the pool's next pass may start (R258): at once where PATROL_SET has asked for one (R264). -/
def passDue (x : Pool) : Nat := if x.passNow then 0 else (if x.pass.no = 0 then x.created.toNat else x.pass.start.toNat) + x.cfg.days * dayTicks

/-- Every page of a slab is read through the ladder. -/
def readSlab (p sa : Nat) (marks : Marks) (s : State) : State :=
  (s.mslab sa).pages.foldl (fun t q => (t.readPg p sa q.1 marks).2) s

/-- The bytes of a sealed segment that a pass reads. -/
def segSize (g : Seg) : Nat := g.rows * (g.k + 2) * 65536

/-- Bytes still to be read in a pass. -/
def passLeft (x : Pool) : Nat := sumBy (fun n => match Tbl.find x.segs n with | some g => segSize g | none => 0) x.pass.queue

/-- A pass starts (R257 step 1): its queue and period, a LOP entry (R29, R30), and the reads of everything that is not a
sealed segment. -/
def passStart (s : State) (p : Nat) (marks : Marks) : State :=
  let x := s.pool p
  let q := (x.segs.filter (fun g => decide (g.2.state = 1 ∨ g.2.state = 2))).map Prod.fst
  let f := Pass.fresh
  let ps : Pass := { f with no := x.pass.no + 1, running := true, start := s.time, due := s.time + BitVec.ofNat 64 (x.cfg.days * dayTicks),
                            total := q.length, queue := q, position := q.headD 0 }
  let s1 := s.setPool p { s.noteCorr { x with pass := ps } marks with passNow := false, lastPass := if x.pass.no = 0 then x.lastPass else x.pass }
  let slabs := x.units.flatMap (fun u => [u.2.a, u.2.b]) ++ (x.segs.filter (fun g => decide (g.2.state = 0))).flatMap (fun g => g.2.members.map Member.slab)
    ++ (x.triple :: x.triples).flatMap id ++ x.ckpt.chain
  (slabs.foldl (fun t a => readSlab p a marks t) s1).lopReportIn none 2 0 0 p 0 q.length (q.headD 0) s.time

/-- The judgement of a mismatching row from its syndromes (R277): k for P, k + 1 for Q, a data member, or none. -/
def judgeRow (g : Seg) (strips : List Bytes) (pp qq : Bytes) : Option Nat :=
  let sp := xorB pp (parP 65536 strips)
  let sq := xorB qq (parQ 65536 strips)
  let zp := sp.all (fun b => decide (b = 0))
  let zq := sq.all (fun b => decide (b = 0))
  if !zp && zq then some g.k
  else if zp && !zq then some (g.k + 1)
  else (List.range g.k).find? (fun z => decide (sq = mulBy z sp))
where mulBy (z : Nat) (d : Bytes) : Bytes :=
  parQ d.length ((List.range (z + 1)).map (fun i => if i = z then d else zeros d.length))

/-- One row of a segment is read whole and its parity checked (R257 step 3); of a lost row the surviving strips are read and nothing is
checked (R294). -/
def patrolRow (p n : Nat) (marks : Marks) (s : State) (row : Nat) : State :=
  match Tbl.find (s.pool p).segs n with
  | none => s
  | some g =>
    let pages := (List.range 16).foldl (fun (st : List (List (Nat × Bytes)) × State) i =>
      let r := gather p g (16 * row + i) marks [] (List.range (g.k + 2)) st.2
      (st.1 ++ [r.1], r.2)) ([], s)
    if pages.1.any (fun l => decide (l.length < g.k + 2)) || decide (row ∈ g.lostRows) then pages.2 else
    let strip := fun (j : Nat) => pages.1.flatMap (fun l => match l.find? (fun q => decide (q.1 = j)) with | some q => q.2 | none => zeros 4096)
    let ds := (List.range g.k).map strip
    let pp := strip g.k
    let qq := strip (g.k + 1)
    if pp = parP 65536 ds ∧ qq = parQ 65536 ds then pages.2
    else
      let j := judgeRow g ds pp qq
      let s1 := pages.2.updPool p (fun x => (listRewrite x n true true).updSeg n (fun y => match j with
        | some z => { y with judged := y.judged ++ [(row, z)] }
        | none => y))
      s1.libBook 0x107 (leBytes 1 p ++ leBytes 4 n ++ leBytes 2 row ++ leBytes 1 (j.getD 0xFF))

/-- The chunks that the markers of a segment lead to (R261): each record, VALID and not DYING, whose LOC lies in it stands for its
marker (DESIGN CHOICE, log entry 93); a LOST one is audited too. -/
def auditable (x : Pool) (n : Nat) : List Nat :=
  (x.recs.filter (fun q => q.2.live && !q.2.biv && decide (q.2.seg = n))).map Prod.fst

/-- One segment of a pass: all its rows, then the chunks its markers lead to (R257, R261). -/
def patrolSeg (s : State) (p n : Nat) (marks : Marks) (replica : List (Nat × Bytes)) : State :=
  match Tbl.find (s.pool p).segs n with
  | none => s
  | some g =>
    if g.state ≠ 1 ∧ g.state ≠ 2 then s else
    let s1 := (List.range g.rows).foldl (fun t r => patrolRow p n marks t r) s
    let s2 := s1.updPool p (fun x => s1.noteCorr x marks)
    (auditable (s2.pool p) n).foldl (fun t h => t.auditChunk p h marks (some replica)) s2

/-- The classes of R263: each object of each namespace, or each 1 MiB pitch of a block namespace, is pending, failed or verified; a pitch
that nothing was written to names no failed chunk. -/
def classify (x : Pool) (start : W64) : Tbl (Nat × Nat × Nat) :=
  let bad := x.pass.failures.map FixFail.handle
  x.nss.foldl (fun t (q : Nat × Ns) =>
    let cls := fun (time : W64) (refs : List Nat) =>
      if time.toNat > start.toNat then 2 else if refs.any (fun h => decide (h ∈ bad)) then 1 else 0
    let v := nsView q.1 q.2
    let l := if q.2.kind = 0 then
        let ls := nsLines x q.1 q.2
        ls.map (fun ln => cls (lineAt x v.1 ln).time (Pool.lineRefs (lineAt x v.1 ln))) ++ List.replicate (ceilDiv q.2.size 0x100000 - ls.length) 0
      else (objsAt x v.2 v.1).map (fun o => cls o.time ((List.range (ceilDiv o.len 0x100000)).flatMap (fun i => Pool.lineRefs (lineAt x v.1 (o.base + i)))))
    Tbl.set t q.1 (l.count 0, l.count 1, l.count 2)) []

/-- PATROL_PASS_END (R263). -/
def passEnd (s : State) (p : Nat) : State :=
  let x := s.pool p
  let c := classify x x.pass.start
  let ps := { x.pass with running := false, stop := s.time, classes := c, done := x.pass.total }
  let s1 := s.setPool p { x with pass := ps, lastPass := ps }
  let sum := fun (f : Nat × Nat × Nat → Nat) => sumBy (fun q => f q.2) c
  let s2 := s1.libBook 0x106 (leBytes 1 p ++ leBytes 4 ps.no ++ leBytes 8 (sum Prod.fst) ++ leBytes 4 (sum (fun z => z.2.1)) ++ leBytes 4 (sum (fun z => z.2.2)))
  s2.lopReport 2 0 3 p ps.total ps.total ps.position ps.start

/-- The pass a fixity route names: 0 is the last complete one. -/
def passOf (x : Pool) (n : Nat) : Option Pass :=
  let last := if x.pass.running then x.lastPass else x.pass
  if n = 0 then (if last.no = 0 then none else some last)
  else if n = x.pass.no then some x.pass else if n = x.lastPass.no then some x.lastPass else none

def sat (n v : Nat) : Nat := min v (2 ^ (8 * n) - 1)

/-- A namespace fixity record (R265). -/
def fixityRec (p : Nat) (ps : Pass) (nsid kind : Nat) : Bytes :=
  let c := Tbl.getD ps.classes nsid (0, 0, 0)
  leBytes 4 nsid ++ leBytes 1 p ++ leBytes 1 kind ++ zeros 2 ++ leBytes 4 ps.no ++ zeros 4 ++ leBytes 8 ps.start.toNat
    ++ leBytes 8 (if ps.running then 0 else ps.stop.toNat) ++ leBytes 8 c.1 ++ leBytes 4 (sat 4 c.2.1) ++ leBytes 4 (sat 4 c.2.2)
    ++ leBytes 8 (sat 8 (Tbl.getD ps.repairedIn nsid 0)) ++ leBytes 8 (sat 8 (Tbl.getD ps.failedIn nsid 0))

def failRec (f : FixFail) : Bytes :=
  leBytes 4 f.nsid ++ leBytes 1 f.kind ++ leBytes 1 f.klen ++ zeros 2 ++ padTo 16 f.key ++ leBytes 6 f.handle ++ leBytes 1 f.cause ++ leBytes 1 f.outcome

/-- A module media record (R265). -/
def mediaRec (s : State) (p m : Nat) : Bytes :=
  let x := s.pool p
  let us := x.uses.filter (fun q => decide (saMod q.1 = m))
  let n := (s.modu m).ident.slabs
  let wears := us.map (fun q => s.wearOf p q.1)
  let ev := match x.reshape with | some r => decide (m ∈ r.exclude) | none => false
  leBytes 1 (m / 4) ++ leBytes 1 (m % 4) ++ leBytes 2 (b2n ev + 2 * b2n (decide ((s.modu m).critical ≠ 0))) ++ leBytes 4 n
    ++ leBytes 4 (us.filter (fun q => q.2.retired)).length ++ leBytes 4 (us.filter (fun q => q.2.spare)).length
    ++ leBytes 4 (us.filter (fun q => q.2.weak)).length
    ++ leBytes 2 (sat 2 (wears.foldl max 0)) ++ leBytes 2 (sat 2 (if n = 0 then 0 else wears.foldl (· + ·) 0 / n))
    ++ leBytes 2 (sat 2 (Tbl.getD x.pass.corr m 0)) ++ zeros 6

end State

/-! ### Commands -/

/-- PATROL_PASS (R257, R29): a pass that is due starts; a running one reads its next segment, and ends after the last. A
rebuild of the pool stops it; a pass whose job FAILED ends there (R68). -/
def execPatrolPass (pool : Nat) (marks : List (Nat × Nat × Nat × Nat)) (replica : List (Nat × Bytes)) (s : State) : Res :=
  let x := s.pool pool
  if !s.owns pool || x.rebuild.running then .next s
  else if x.pass.running && s.opFailed 2 pool then .next (s.setPool pool { x with pass := { x.pass with running := false, stop := s.time } })
  else if !x.pass.running then
    if s.time.toNat ≥ State.passDue x then .next (s.passStart pool marks) else .next s
  else match x.pass.queue with
  | [] => .next (s.passEnd pool)
  | n :: rest =>
    let s1 := s.patrolSeg pool n marks replica
    let s2 := s1.updPool pool (fun y => { y with pass := { y.pass with queue := rest, done := y.pass.done + 1, position := rest.headD (n + 1) } })
    let ps := (s2.pool pool).pass
    let s3 := s2.lopReport 2 0 0 pool ps.done ps.total ps.position ps.start
    if rest.isEmpty then .next (s3.passEnd pool) else .next s3

/-- PATROL_RATE (R258): each hour, the bytes still to be read over the time left; with no time left the pass is late. -/
def execPatrolRate (pool : Nat) (s : State) : Res :=
  let x := s.pool pool
  if !s.owns pool || !x.pass.running then .next s else
  let hour := 3600 * 100000000
  let bw := sumBy (fun m => if s.modUp m then (s.modu m).ident.readBw * 1000000 else 0) x.mods
  if x.pass.due.toNat ≤ s.time.toNat then
    let s1 := s.setPool pool { x with pass := { x.pass with late := true, rate := bw * 3600 / 20 } }
    if x.pass.late then .next s1 else .next (s1.libBook 0x103 (leBytes 1 pool ++ leBytes 4 x.pass.no))
  else
    .next (s.setPool pool { x with pass := { x.pass with rate := State.passLeft x * hour / (x.pass.due.toNat - s.time.toNat) } })

/-- FILL_STATE_EVAL (R266). -/
def execFillStateEval (pool : Nat) (s : State) : Res := if s.owns pool then .next (s.evalFill pool) else .next s

/-- PATROL_SET (R264). A pass asked for while a rebuild holds patrol starts when the rebuild has ended (R29). -/
def execPatrolSet (call : Nat) (s : State) : Res :=
  match s.libCall call 48 with
  | none => .next s
  | some c =>
    let p := State.callPool c.entry
    let d := State.callArg c.entry 0
    if !s.owns p || decide (d < 3) || decide (d > 60) || decide (State.callArg c.entry 1 > 1) then .next (s.libFail call 0x30) else
    let cfg := { (s.pool p).cfg with days := d }
    let s1 := (s.submit p 4 [eParams p cfg]).updPool p (fun x =>
      if x.pass.running then { x with pass := { x.pass with due := x.pass.start + BitVec.ofNat 64 (d * State.dayTicks) } } else x)
    let s2 := if State.callArg c.entry 1 = 1 ∧ (s1.pool p).pass.running = false then
        (if (s1.pool p).rebuild.running then s1.updPool p (fun x => { x with passNow := true }) else s1.passStart p []) else s1
    .next (s2.libDone call)

/-- FIXITY_SUMMARY (R264, R265). -/
def execFixitySummary (call : Nat) (s : State) : Res :=
  match s.libCall call 49 with
  | none => .next s
  | some c =>
    let p := State.callPool c.entry
    match State.passOf (s.pool p) (State.callArg c.entry 0) with
    | none => .next (s.libFail call 0x30)
    | some ps => .next (s.libRecords call ((s.pool p).nss.map (fun q => State.fixityRec p ps q.1 q.2.kind)))

/-- FIXITY_FAILURES (R264, R265). -/
def execFixityFailures (call : Nat) (s : State) : Res :=
  match s.libCall call 50 with
  | none => .next s
  | some c =>
    match State.passOf (s.pool (State.callPool c.entry)) (State.callArg c.entry 0) with
    | none => .next (s.libFail call 0x30)
    | some ps => .next (s.libRecords call ((ps.failures.drop (State.callArg c.entry 1)).map State.failRec))

/-- MEDIA_STATUS (R264, R265). -/
def execMediaStatus (call : Nat) (s : State) : Res :=
  match s.libCall call 51 with
  | none => .next s
  | some c =>
    let p := State.callPool c.entry
    .next (s.libRecords call ((s.pool p).mods.map (fun m => s.mediaRec p m)))

end Sys2Proof.Machine
end

