-- ==== Sys2Proof/Machine/Rebuild.lean ====
section
/-! DEFINITION. Rebuild (R288–R296), reshape and evacuation (R256, R299–R304), and the redundancy routes (R285, R304, R305). -/

namespace Sys2Proof.Machine

namespace State

/-! ### Rebuild (R288–R294) -/

/-- Does a segment stand in the rebuild queue, and in which class (R288)? -/
def rebuildClass (g : Seg) : Option Nat :=
  if g.state = 3 ∨ g.state = 0 ∨ g.retained = true then none else if notGood g ≥ 2 then some 0 else if notGood g = 1 then some 1 else none

def rebuildQueue (x : Pool) : List (Nat × Seg) :=
  x.segs.filter (fun q => decide (rebuildClass q.2 = some 0)) ++ x.segs.filter (fun q => decide (rebuildClass q.2 = some 1))

/-- The first of the queue that collection does not drain now (R292). -/
def rebuildNext (s : State) (p : Nat) : Option (Nat × Seg) :=
  (rebuildQueue (s.pool p)).find? (fun q => !decide ((s.collectSource p).map Prod.fst = some q.1))

/-- Segments with a member that is not GOOD, and those of them that rebuild skips because they are RETAINED (R288). -/
def rebuildAll (x : Pool) : List (Nat × Seg) := x.segs.filter (fun q => decide (q.2.state ≠ 3) && decide (0 < notGood q.2))
def rebuildSkipped (x : Pool) : Nat := ((rebuildAll x).filter (fun q => q.2.retained)).length

/-- The pool's declared module read bandwidth in bytes per second, and rebuild's floor (R291). -/
def readBandwidth (s : State) (p : Nat) : Nat := sumBy (fun m => if s.modUp m then (s.modu m).ident.readBw * 1000000 else 0) (s.pool p).mods
def rebuildFloor (s : State) (p : Nat) : Nat := max 4000000000 (s.readBandwidth p / 10)

/-- PHASE of the rebuild's entry. -/
def rebuildPhase (r : Rebuild) : Nat := if r.paused then 2 else if r.yielding then 1 else 0

def rebuildReport (s : State) (p phase : Nat) : State :=
  let x := s.pool p
  let q := rebuildQueue x
  let pos := match q with | y :: _ => y.1 | [] => x.nextSeg
  s.lopReport 0 0 phase p (x.rebuild.done + rebuildSkipped x) x.rebuild.total pos x.rebuild.start

/-- A rebuild starts: its LOP entry, and patrol's entry released (R29). -/
def rebuildStart (s : State) (p : Nat) : State :=
  let x := s.pool p
  let q := rebuildQueue x
  let n := (rebuildAll x).length
  let r : Rebuild := { running := true, total := n, done := 0, start := s.time, yielding := false, paused := false, hostClass := true }
  ((s.setPool p { x with rebuild := r }).lopRelease 2 p).lopReportIn none 0 0 0 p (rebuildSkipped x) n (match q with | y :: _ => y.1 | [] => x.nextSeg) s.time

/-- The rebuild ends; a running patrol pass takes a new entry and goes on (R29). -/
def rebuildFinish (s : State) (p : Nat) : State :=
  let s1 := (s.rebuildReport p 3).updPool p (fun x => { x with rebuild := { x.rebuild with running := false } })
  let ps := (s1.pool p).pass
  if ps.running then s1.lopReport 2 0 0 p ps.done ps.total ps.position ps.start else s1

/-- A target for member `i` that is not GOOD (R272, R289 step 2): a domain that no other member of the segment uses. -/
def pickTarget (s : State) (p : Nat) (g : Seg) (i : Nat) : Option Nat :=
  let used := ((g.members.eraseIdx i).map (fun m => domainOf (saMod m.slab)))
  s.pickSlab p ((s.usable p).filter (fun m => !used.contains (domainOf m)))

/-- Follow the marker chain from a byte offset (R222) to the first marker in [start, start + 4,096): its handle and place. -/
def chainTo (s : State) (p n k start : Nat) : Nat → Nat → Option (Nat × Nat)
  | 0, _ => none
  | f + 1, at_ =>
    if at_ ≥ start + 4096 then none else
    match (segBytes p n [] [] k 2 at_ 16 s).1 with
    | none => none
    | some b =>
      if fieldAt b 0 2 ≠ 0xC15B ∨ fieldAt b 14 2 ≠ crc32c (b.take 14) % 2 ^ 16 then none
      else if start ≤ at_ then some (fieldAt b 4 6, (at_ - start) / 16)
      else chainTo s p n k start f (at_ + 16 + ceilDiv (fieldAt b 10 3) 16 * 16)

/-- The first marker in a page of a segment, by the chain (R222, R289 step 3): from the nearest page before it whose tag names one. -/
def firstMarker (s : State) (p n : Nat) (g : Seg) (start : Nat) : Option (Nat × Nat) :=
  let aux := fun (j : Nat) => -- the marker that the tag of data page j names
    let d := 4096 * j
    match g.members[segMember g.k d]? with
    | none => none
    | some m => match (if m.state = 0 then Tbl.find (s.mslab m.slab).pages (segPageOf g.k d) else none) with
      | none => none
      | some f => if f.bad || !pageOk f.bytes || decide (fieldAt f.bytes (4096 + 0x26) 2 = 0xFFFF) then none
                  else some (d + 16 * fieldAt f.bytes (4096 + 0x26) 2)
  s.chainTo p n g.k start (start / 16 + 257) (((List.range (start / 4096)).reverse.findSome? aux).getD 0)

/-- The tag of a rebuilt page (R289 step 3): HANDLE and AUX from the segment's marker chain. -/
def rebuiltTag (s : State) (p n : Nat) (g : Seg) (member page : Nat) (pad : Bool) : Bytes :=
  let x := s.pool p
  let kind := if member < g.k then 2 else if member = g.k then 3 else 4
  let start := (page / 16 * g.k + member) * 65536 + page % 16 * 4096
  let (h, aux) := match (if kind = 2 ∧ !pad then s.firstMarker p n g start else none) with
    | some q => q
    | none => (0, if kind = 2 then 0xFFFF else 0)
  mkTag kind p (8 * b2n pad) n page member x.epoch g.opened s.time h aux g.k

/-- The strips of a row that could be read among some members, page by page: member and its 64 KiB. -/
def stripsRead (p : Nat) (g : Seg) (row : Nat) (marks : Marks) (l : List Nat) (s : State) : List (Nat × Bytes) × State :=
  let pages := (List.range 16).foldl (fun (st : List (List (Nat × Bytes)) × State) i =>
    let r := gather p g (16 * row + i) marks [] l st.2
    (st.1 ++ [r.1], r.2)) ([], s)
  (l.filterMap (fun j =>
    if pages.1.all (fun l => l.any (fun q => decide (q.1 = j))) then
      some (j, pages.1.flatMap (fun l => match l.find? (fun q => decide (q.1 = j)) with | some q => q.2 | none => []))
    else none), pages.2)

/-- The k strips that a rebuild reads (R287, R289 step 3): the data members and P, then Q where fewer than k could be read. -/
def rowRead (p : Nat) (g : Seg) (row : Nat) (marks : Marks) (s : State) : List (Nat × Bytes) × State :=
  let r := stripsRead p g row marks (List.range (g.k + 1)) s
  if r.1.length ≥ g.k then r else
  let q := stripsRead p g row marks [g.k + 1] r.2
  (r.1 ++ q.1, q.2)

/-- The programs of one row on its targets. -/
def rebuiltSvcs (s : State) (p n : Nat) (g : Seg) (row : Nat) (targets : List Nat) (strips : List Bytes) (pad : Bool) : List Svc :=
  targets.map (fun i =>
    let strip := strips.getD i []
    Svc.rebuilt p n i (g.members.getD i { slab := 0, state := 0, rows := 0 }).slab (16 * row)
      ((List.range 16).map (fun j => sealPage (sliceAt strip (4096 * j) 4096) (s.rebuiltTag p n g i (16 * row + j) pad))))

/-- ROW_LOST (R294, R297): padded on the targets, recorded, never a source again, the segment to the front. -/
def rowLost (s : State) (p n : Nat) (g : Seg) (row : Nat) (targets erased : List Nat) : State :=
  let s1 := s.submit p 6 (targets.map (fun i =>
    let sa := (g.members.getD i { slab := 0, state := 0, rows := 0 }).slab
    eMember p n i 2 row sa 0))
  let s2 := s1.updPool p (fun x => (listRewrite x n true true).updSeg n (fun y => { y with
    lostRows := if row ∈ y.lostRows then y.lostRows else y.lostRows ++ [row],
    lostStrips := y.lostStrips ++ (erased.filter (fun i => decide (i < g.k))).map (fun i => (row, i, false)) }))
  let s3 := s2.libBook 0x10B (leBytes 1 p ++ leBytes 4 n ++ leBytes 2 row ++ leBytes 4 (bitmap erased))
  s3.addSvcs (s3.rebuiltSvcs p n g row targets (List.replicate (g.k + 2) (zeros 65536)) true)

/-- The next row of a segment in rebuild. -/
def rebuildRow (s : State) (p n : Nat) (marks : Marks) : State :=
  match Tbl.find (s.pool p).segs n with
  | none => s
  | some g =>
    let busy := s.svc.any (fun q => match q.2 with
      | .rebuilt a b _ _ _ _ => decide (a = p ∧ b = n)
      | _ => false)
    let tg := (List.range (g.k + 2)).filter (fun i => decide ((g.members.getD i { slab := 0, state := 0, rows := 0 }).state = 2))
    let rowsOf := fun (i : Nat) => (g.members.getD i { slab := 0, state := 0, rows := 0 }).rows
    if busy ∨ tg.isEmpty ∨ !(tg.all (fun i => slabReady (s.pool p) (g.members.getD i { slab := 0, state := 0, rows := 0 }).slab)) then s else
    let row := tg.foldl (fun a i => min a (rowsOf i)) g.rows
    if row ≥ g.rows then
      let s1 := s.submit p 6 (tg.map (fun i => eMember p n i 0 g.rows (g.members.getD i { slab := 0, state := 0, rows := 0 }).slab 0))
      let s2 := s1.updPool p (fun x => if (match Tbl.find x.segs n with | some y => decide (notGood y = 0) | none => true) then
        { x with rebuild := { x.rebuild with done := x.rebuild.done + 1 } } else x)
      (s2.setRedundancy p).rebuildReport p (rebuildPhase (s2.pool p).rebuild)
    else
      let now := tg.filter (fun i => decide (rowsOf i = row))
      let r := rowRead p g row marks s
      let gone := (List.range (g.k + 2)).filter (fun j => !(r.1.any (fun q => decide (q.1 = j))))
      let s1 := if row % 64 = 0 ∧ row > 0 then r.2.submit p 6 (now.map (fun i =>
        eMember p n i 1 row (g.members.getD i { slab := 0, state := 0, rows := 0 }).slab 0)) else r.2
      if gone.length > 2 then s1.rowLost p n g row now gone
      else
        let get := fun j => match r.1.find? (fun q => decide (q.1 = j)) with | some q => q.2 | none => zeros 65536
        let all := recoverAll 65536 ((List.range g.k).map get) (get g.k) (get (g.k + 1)) gone
        s1.addSvcs (s1.rebuiltSvcs p n g row now all false)

/-- Targets for the members of a segment that have none (R289 step 2); without a slab the rebuild pauses (R293). -/
def rebuildTargets (s : State) (p n : Nat) : State :=
  match Tbl.find (s.pool p).segs n with
  | none => s
  | some g =>
    let need := (List.range (g.k + 2)).filter (fun i => decide ((g.members.getD i { slab := 0, state := 0, rows := 0 }).state = 1))
    need.foldl (fun t i =>
      let h := (Tbl.find (t.pool p).segs n).getD g
      match t.pickTarget p h i with
      | some a =>
        let old := (h.members.getD i { slab := 0, state := 0, rows := 0 }).slab
        (t.submit p 6 [eSlab p a 2 i n, eMember p n i 1 0 a old]).updPool p (fun x => { x with rebuild := { x.rebuild with paused := false } })
      | none =>
        let t1 := t.updPool p (fun x => { x with rebuild := { x.rebuild with paused := true } })
        (if (t.pool p).rebuild.paused then t1 else t1.libBook 0x108 (leBytes 1 p)).rebuildReport p 2) s

/-- LIVE below 25 %: the segment is collected with ORIGIN 6 instead (R289 step 1). -/
def rebuildCollects (x : Pool) (n : Nat) (g : Seg) : Bool := decide (x.liveBytes n * 4 < g.k * slabBytes)

/-! ### Reshape (R299–R303) -/

/-- The K that a reshape asks for. -/
def newK (x : Pool) (k : Nat) : Nat := if k = 0 then x.cfg.k else k

/-- The sources of a reshape (R299). -/
def reshapeSources (x : Pool) (k : Nat) (ex : List Nat) : List (Nat × Seg) :=
  x.segs.filter (fun q => decide (q.2.state = 1 ∨ q.2.state = 2) && (decide (q.2.k ≠ newK x k) || q.2.members.any (fun m => decide (saMod m.slab ∈ ex))))

/-- Why RESHAPE_START is refused; 0 where it is not (R299, R304). -/
def reshapeCheck (s : State) (p k : Nat) (ex : List Nat) : Nat :=
  let x := s.pool p
  let left := x.mods.filter (fun m => !decide (m ∈ ex) && !decide (m ∈ x.failed))
  let srcs := reshapeSources x k ex
  let live := sumBy (fun q => x.liveBytes q.1) srcs
  let outside := sumBy (fun m => (s.modu m).ident.slabs - (x.uses.filter (fun q => decide (saMod q.1 = m) &&
    (q.2.spare || q.2.retired || decide (q.2.use ≠ 6)))).length) left * slabBytes
  let kk := newK x k
  if x.reshape.isSome then 0x41
  else if k ≠ 0 ∧ (k < 6 ∨ k > 30) then 0x40
  else if ex.any (fun m => !decide (m ∈ x.mods)) then 0x44
  else if (left.map domainOf).eraseDups.length < kk + 4 then 0x43
  else if outside * 10 * kk < 11 * live * (kk + 2) then 0x42
  else 0

/-- What follows an exclusion (R300): journal triple and chain replaced at once, open units sealed and drained first, landing logs
given up. -/
def excludeActs (s : State) (p : Nat) (ex : List Nat) : State :=
  let x := s.pool p
  let s0 := (x.units.filter (fun q => !q.2.sealed && decide (saMod q.2.a ∈ ex ∨ saMod q.2.b ∈ ex))).foldl (fun t q => t.sealUnit p q.1) s
  let s1 := if x.triple.any (fun a => decide (saMod a ∈ ex)) then s0.newTriple p else s0
  (s1.updPool p (fun y => { y with
    ckpt := if (y.ckpt.chain ++ y.ckpt.newChain).any (fun a => decide (saMod a ∈ ex)) then { y.ckpt with flushed := 2 ^ 30 } else y.ckpt,
    units := y.units.map (fun q => if saMod q.2.a ∈ ex ∨ saMod q.2.b ∈ ex then (q.1, { q.2 with front := true }) else q) })).leaveLogs p

/-- A reshape starts: START and EXCLUDE entries, sources, LOP entry at its first source (R26, R299, R300), in the ridge of its call. -/
def reshapeStart (s : State) (p k : Nat) (ex : List Nat) (ridge : Option Nat) : State :=
  let x := s.pool p
  let src := reshapeSources x k ex
  let t := src.length
  let id := s.stamp % 2 ^ 32
  let s1 := s.tick.submit p 7 (eReshape p 0 k 0 0 id t :: ex.map (fun m => eReshape p 1 k 0 m id t))
  (s1.excludeActs p ex).lopReportIn ridge 1 0 0 p 0 t (match src with | q :: _ => q.1 | [] => x.nextSeg) s.time

/-- The START of the running reshape's entry. -/
def lopStart (s : State) (typ p : Nat) : W64 := match s.lopFind typ p with
  | some i => s.reg (0xF0000 + i * 0x20 + 0x18)
  | none => s.time

def reshapeReport (s : State) (p phase : Nat) : State :=
  let x := s.pool p
  match x.reshape with
  | none => s
  | some r =>
    let pos := match x.segs.find? (fun q => q.2.source) with | some q => q.1 | none => x.nextSeg
    s.lopReport 1 0 phase p r.done r.total pos (s.lopStart 1 p)

/-- END or ABORT: the retained sources are released (R303); after END an evacuated module leaves the pool when it is empty (R256). -/
def reshapeStop (s : State) (p op phase : Nat) : State :=
  let x := s.pool p
  match x.reshape with
  | none => s
  | some r =>
    let s1 := (s.reshapeReport p phase).submit p 7 [eReshape p op r.newK 0 0 r.id r.total]
    let s2 := (x.segs.filter (fun q => q.2.retained)).foldl (fun t q => t.release p false q.1 7) s1
    if op = 3 then s2.evacDone p else s2.updPool p (fun y => { y with evac := [] })

/-- An evacuation of a module (R256, R301): a reshape that excludes it, or one more exclusion of the running one. -/
def evacuate (s0 : State) (p m : Nat) : State :=
  let x := s0.pool p
  if m ∈ x.failed ∨ m ∈ x.evac then s0 else
  let s := s0.updPool p (fun y => { y with evac := y.evac ++ [m] })
  match x.reshape with
  | some r =>
    if m ∈ r.exclude then s else
    let more := (x.segs.filter (fun q => decide (q.2.state = 1 ∨ q.2.state = 2) && !q.2.source && !q.2.retained
      && q.2.members.any (fun y => decide (saMod y.slab = m)))).length
    let s1 := (s.submit p 7 [eReshape p 1 r.newK 0 m r.id (r.total + more)]).updPool p (fun y =>
      { y with reshape := y.reshape.map (fun z => { z with total := z.total + more }) })
    (s1.excludeActs p [m]).reshapeReport p 0
  | none => if s.reshapeCheck p 0 [m] = 0 then s.reshapeStart p 0 [m] none else s0

/-- The module has no spares left and has retired more than 5 % of its slabs (R256). -/
def wornOut (s : State) (p m : Nat) : Bool :=
  let us := (s.pool p).uses.filter (fun q => decide (saMod q.1 = m))
  !us.any (fun q => q.2.spare && !q.2.retired) && decide ((us.filter (fun q => q.2.retired)).length * 20 > (s.modu m).ident.slabs)

/-! ### Records (R305) -/

def redundancyRec (s : State) (p : Nat) : Bytes :=
  let x := s.pool p
  let live := x.segs.filter (fun q => decide (q.2.state ≠ 3))
  leBytes 1 p ++ leBytes 1 (redundancyOf x) ++ leBytes 1 (s.writeWidth p) ++ leBytes 1 x.cfg.k ++ leBytes 2 (s.domainsD p).length
    ++ leBytes 2 x.failed.length ++ leBytes 8 (live.filter (fun q => decide (notGood q.2 = 1))).length
    ++ leBytes 8 (live.filter (fun q => decide (2 ≤ notGood q.2))).length ++ leBytes 8 (sumBy (fun q => q.2.lostRows.length) live)
    ++ leBytes 8 (x.recs.filter (fun q => q.2.valid && q.2.lost)).length ++ leBytes 8 x.lostFixed ++ leBytes 8 (s.rebuildFloor p)
    ++ leBytes 8 x.lostOver

def lostRec (l : LostRec) : Bytes :=
  leBytes 4 l.nsid ++ leBytes 1 l.kind ++ leBytes 1 l.klen ++ leBytes 1 l.state ++ [0] ++ padTo 16 l.key ++ leBytes 6 l.handle ++ zeros 2

end State

/-! ### Commands -/

/-- REBUILD (R288–R294): a pool with members that are not GOOD starts a rebuild, and each command takes the next step on the
next segment that collection does not drain now; with none left the rebuild is DONE. -/
def execRebuild (pool : Nat) (marks : List (Nat × Nat × Nat × Nat)) (s : State) : Res :=
  if !s.owns pool then .next s else
  let x := s.pool pool
  if (State.rebuildQueue x).isEmpty then (if x.rebuild.running then .next (s.rebuildFinish pool) else .next s)
  else if !x.rebuild.running then .next (s.rebuildStart pool)
  else if s.opFailed 0 pool then .next s
  else match s.rebuildNext pool with
  | none => .next s
  | some q =>
    if State.rebuildCollects x q.1 q.2 then
      .next ((s.emptySeg pool q.1 6 marks).rebuildReport pool (State.rebuildPhase x.rebuild))
    else if q.2.members.any (fun m => decide (m.state = 1)) then .next (s.rebuildTargets pool q.1)
    else .next (s.rebuildRow pool q.1 marks)

/-- REBUILD_RATE_WINDOW (R291): 100 ms of rebuild at `bytes` read. -/
def execRebuildRateWindow (pool bytes : Nat) (s : State) : Res :=
  let x := s.pool pool
  if !x.rebuild.running then .next s else
  let rate := bytes * 10
  let floor := s.rebuildFloor pool
  let r := { x.rebuild with hostClass := decide (rate < floor), yielding := decide (rate * 10 ≤ floor * 11) }
  .next ((s.setPool pool { x with rebuild := r }).rebuildReport pool (State.rebuildPhase r))

/-- LOST_CHUNK (R296, R297): the chunks whose frames overlap a lost data strip. -/
def execLostChunk (pool seg row member : Nat) (s : State) : Res :=
  let x := s.pool pool
  match Tbl.find x.segs seg with
  | none => .next s
  | some g =>
    if !(g.lostStrips.contains (row, member, false)) then .next s else
    let a := (row * g.k + member) * 65536
    let hs := x.recs.filter (fun q => q.2.live && !q.2.biv && !q.2.lost && decide (q.2.seg = seg) && decide (q.2.off < a + 65536) && decide (a < q.2.off + q.2.flen))
    let s1 := hs.foldl (fun t q => t.loseChunk pool q.1) s
    .next (s1.updPool pool (fun y => y.updSeg seg (fun z => { z with
      lostStrips := z.lostStrips.map (fun l => if l.1 = row ∧ l.2.1 = member then (row, member, true) else l) })))

/-- RESHAPE_START (R299, R304). -/
def execReshapeStart (call : Nat) (s : State) : Res :=
  match s.libCall call 52 with
  | none => .next s
  | some c =>
    let p := State.callPool c.entry
    let k := State.callArg c.entry 0
    let n := State.callArg c.entry 1
    let d := s.paramBytes c
    if n > 255 ∨ d.length < 2 * n ∨ (List.range n).any (fun i => decide (fieldAt d (2 * i) 1 > 63 ∨ fieldAt d (2 * i + 1) 1 > 3)) then
      .next (s.libFail call 0x40) else
    let ex := (List.range n).map (fun i => 4 * fieldAt d (2 * i) 1 + fieldAt d (2 * i + 1) 1)
    let e := s.reshapeCheck p k ex
    if e ≠ 0 then .next (s.libFail call e)
    else .next ((s.reshapeStart p k ex (if c.ridge < 8 then some c.ridge else none)).libExit call 0 (State.reshapeSources (s.pool p) k ex).length)

/-- RESHAPE (R300, R302, R303): the lowest source that patrol does not read now (R259) moves one chunk on, or flips when it is drained and its last MOVE durable.
It pauses during a rebuild and below a free fraction of 2 %. -/
def execReshape (pool : Nat) (marks : List (Nat × Nat × Nat × Nat)) (s : State) : Res :=
  let x := s.pool pool
  match x.reshape with
  | none => .next s
  | some r =>
    if !s.owns pool || s.opFailed 1 pool then .next s else
    let hold := x.rebuild.running || decide (s.freeSlabs pool * 50 < s.rawSlabs pool)
    if hold then
      .next ((s.setPool pool { x with reshape := some { r with paused := true } }).reshapeReport pool 2)
    else
      let s0 := if r.paused then (s.setPool pool { x with reshape := some { r with paused := false } }) else s
      match x.segs.find? (fun q => q.2.source && !(x.pass.running && decide (x.pass.position = q.1))) with
      | none => .next ((s0.leaveLogs pool).reshapeReport pool 0)
      | some q =>
        match (State.chunksOf x false q.1).find? (fun z => !State.inMove x z.1) with
        | some z => .next ((s0.moveChunk pool z.1 7 marks).reshapeReport pool 0)
        | none =>
          if State.drainedSrc x false q.1 ∧ Tbl.getD x.moved (State.srcKey false q.1) 0 ≤ x.durable then
            .next ((s0.submit pool 7 [eReshape pool 2 r.newK q.1 0 r.id r.total]).reshapeReport pool 0)
          else .next s0

/-- RESHAPE_END (R303). -/
def execReshapeEnd (pool : Nat) (s : State) : Res :=
  let x := s.pool pool
  match x.reshape with
  | none => .next s
  | some r => if s.owns pool && State.reshapeEnded x r && !s.opFailed 1 pool then .next (s.reshapeStop pool 3 3) else .next s

/-- RESHAPE_ABORT (R303, R304). -/
def execReshapeAbort (call : Nat) (s : State) : Res :=
  match s.libCall call 53 with
  | none => .next s
  | some c =>
    let p := State.callPool c.entry
    if (s.pool p).reshape.isNone then .next (s.libFail call 0x41) else .next ((s.reshapeStop p 4 5).libDone call)

/-- MODULE_FAIL (R285, R304). -/
def execModuleFail (call : Nat) (s : State) : Res :=
  match s.libCall call 54 with
  | none => .next s
  | some c =>
    let p := State.callPool c.entry
    if State.callArg c.entry 0 > 63 ∨ State.callArg c.entry 1 > 3 then .next (s.libFail call 0x40) else
    let m := 4 * State.callArg c.entry 0 + State.callArg c.entry 1
    if !decide (m ∈ (s.pool p).mods) then .next (s.libFail call 0x44) else .next ((s.failModule p m).libDone call)

/-- REDUNDANCY_STATUS (R304, R305). -/
def execRedundancyStatus (call : Nat) (s : State) : Res :=
  match s.libCall call 55 with
  | none => .next s
  | some c => .next (s.libRecords call [s.redundancyRec (State.callPool c.entry)])

/-- LOST_LIST (R304, R305). -/
def execLostList (call : Nat) (s : State) : Res :=
  match s.libCall call 56 with
  | none => .next s
  | some c => .next (s.libRecords call (((s.pool (State.callPool c.entry)).lost.drop (State.callArg c.entry 0)).map State.lostRec))

/-- MODULE_HEALTH_POLL (R256): Read Health to each module of the pool once a minute; a critical warning, or a module worn
out, starts an evacuation. -/
def execModuleHealthPoll (pool : Nat) (pages : List (Nat × Bytes)) (s : State) : Res :=
  let x := s.pool pool
  if !s.owns pool || decide ((s.time - x.healthAt).toNat < 6000000000) then .next s else
  let s1 := s.setPool pool { x with healthAt := s.time }
  .next (x.mods.foldl (fun t m =>
    if !t.modUp m then t else
    let t1 := match pages.find? (fun q => decide (q.1 = m)) with
      | some q => (t.setModu m { t.modu m with critical := (q.2.getD 0 0).toNat }).mpcCount (m / 4) 512 0
      | none => t
    if (t1.modu m).critical ≠ 0 ∨ t1.wornOut pool m = true then t1.evacuate pool m else t1) s1)

/-- ERASED_REFERENCE (R244, R302): a LOC that leads to an erased or foreign page: the chunk is searched by its markers, found
and moved, or lost. Commands that wait for it go on. A command also waits for a chunk whose every trial failed while a reshape retains
sources. -/
def execErasedReference (pool handle : Nat) (marks : List (Nat × Nat × Nat × Nat)) (s : State) : Res :=
  if s.owns pool && (s.locWrong pool handle || s.host.cmds.any (fun q => decide (q.2.search = some handle))) then
    .next (s.findErased pool handle marks) else .next s

/-- ERASED_REFERENCE_TIMEOUT (R244): a command has waited 2 s for a search. -/
def execErasedReferenceTimeout (cmd : Nat) (s : State) : Res :=
  match Tbl.find s.host.cmds cmd with
  | none => .next s
  | some c =>
    if c.search.isSome ∧ (s.time - c.since).toNat ≥ 200000000 then .next (s.finishCmd cmd State.stUnrecovered 0 0) else .next s

end Sys2Proof.Machine
end

