-- ==== Sys2Proof/Machine/Snap.lean ====
section
/-! DEFINITION. Snapshots (R344–R353, R367, R368): the cut, the epoch sweep, exposure, deletion and the drop walk, and what
a namespace held at a snapshot (R350). -/

namespace Sys2Proof.Machine

namespace State

/-- Did a namespace exist at a snapshot (R352)? -/
def nsExisted (x : Pool) (nsid id : Nat) : Bool :=
  match Tbl.find x.nss nsid with
  | some n => n.snap.isNone && decide (n.born ≤ id) && (match n.died with | some d => decide (id < d) | none => true)
  | none => false

/-! ### The cut and deletion (R345, R346, R353, R365) -/

/-- Is this NSID the round view of a pair (R365)? -/
def isView (x : Pool) (nsid : Nat) : Bool := x.pairs.any (fun q => !q.2.source && decide (q.2.viewNsid = nsid) && decide (nsid ≠ 0))

/-- The first namespace that exposes a snapshot under R352. -/
def exposer (x : Pool) (id : Nat) : Option Nat :=
  (x.nss.find? (fun q => decide (q.2.snap.map Prod.fst = some id) && !isView x q.1)).map Prod.fst

/-- Has 1 s passed since the pool's last snapshot (R346)? -/
def snapSpaced (s : State) (p : Nat) : Bool :=
  match (s.pool p).snapAt with
  | some t => decide ((s.time - t).toNat ≥ 100000000)
  | none => true

/-- The snapshot itself, once nothing of the pool is in flight: a SNAP group with OP CREATE. NSID 1 in it marks a round's
snapshot (log entry 31). -/
def snapTake (s : State) (p : Nat) (repl : Bool) : Nat × State :=
  let id := (s.pool p).snapEpoch
  (id, (s.submit p 4 [eSnap p 0 (b2n repl) id 0]).updPool p (fun x => { x with ckpt := { x.ckpt with cutting := false } }))

/-- The cut of a snapshot waits for what is in flight; until then the pool takes nothing new (R234, R345). -/
def cutWait (s : State) (p : Nat) : State := s.updPool p (fun x => { x with ckpt := { x.ckpt with cutting := true } })

/-- A snapshot goes, or waits DELETING while it is exposed (R353, R365). -/
def dropSnap (s : State) (p id : Nat) : State :=
  let x := s.pool p
  if !x.snaps.any (fun n => decide (n.id = id)) then s
  else if (exposer x id).isSome then
    s.updPool p (fun y => { y with snaps := y.snaps.map (fun n => if n.id = id then { n with deleting := true } else n) })
  else s.submit p 4 [eSnap p 1 0 id 0]

/-- The descriptors of deleted namespaces that no snapshot needs any more (R352). -/
def purgeNs (s : State) (p : Nat) : State :=
  let x := s.pool p
  let old := x.nss.filter (fun q => q.2.deleting && q.2.walked && !x.snaps.any (fun n => nsExisted x q.1 n.id))
  old.foldl (fun t q => t.submit p 4 [eNs p q.1 2 q.2.kind q.2.base q.2.size]) s

/-- Does a command that was admitted earlier still read a snapshot (R365)? -/
def snapRead (s : State) (p id : Nat) : Bool :=
  s.host.cmds.any (fun q => decide (q.2.snap.map Prod.fst = some id) && decide (s.nsPool q.2.cap.nsid = some p))

/-- The snapshot record of R368. -/
def snapRec (x : Pool) (n : Snap) : Bytes :=
  let e := exposer x n.id
  leBytes 8 n.id ++ leBytes 8 n.time.toNat ++ leBytes 4 (b2n n.repl + 2 * b2n e.isSome + 4 * b2n n.deleting) ++ leBytes 4 (e.getD 0) ++ zeros 8

/-- A count that saturates at its field's width (R368). -/
def satBytes (n v : Nat) : Bytes := leBytes n (min v (2 ^ (8 * n) - 1))

/-- The pool record of R368. -/
def poolRec (s : State) (p : Nat) : Bytes :=
  let x := s.pool p
  let rs := (x.recs.map Prod.snd).filter CRec.live
  let over' := s.overCount p
  leBytes 1 p ++ leBytes 1 x.fill ++ leBytes 1 x.redundancy ++ [0] ++ satBytes 4 x.snaps.length ++ leBytes 8 x.snapEpoch
    ++ satBytes 8 rs.length ++ satBytes 8 (sumBy (fun r => ceilDiv r.flen 16 * 16) rs) ++ satBytes 8 (sumBy CRec.olen rs)
    ++ satBytes 8 x.preserved.length ++ satBytes 8 over' ++ satBytes 8 (rs.filter (fun r => decide (r.cnt = 1048575))).length

end State

open State

/-! ### Commands -/

/-- SNAP_CREATE (R345, R346, R367, R268): refused, or taken once every accepted write has landed or been cancelled; until then
the call waits. -/
def execSnapCreate (call : Nat) (s : State) : Res :=
  match s.libCall call 64 with
  | none => .next s
  | some c =>
    let p := callPool c.entry
    let x := s.pool p
    if !s.owns p then .next (s.libFail call 0x23)
    else if x.fill = 2 then .next (s.libFail call 0x31)
    else if x.snaps.length ≥ 65535 then .next (s.libFail call 0x61)
    else if !s.snapSpaced p then .next (s.libFail call 0x62)
    else if s.cutBusy p then .next (s.cutWait p)
    else
      let r := s.snapTake p false
      .next (r.2.libExit call 0 r.1)

/-- EPOCH_SWEEP (R351): one pass over the PRESENT epoched entries of a pool: an entry that lags by 16,384 is preserved where a
snapshot needs it, else its EPOCH is brought up. -/
def execEpochSweep (pool : Nat) (s : State) : Res :=
  if !s.owns pool then .next s else
  .next (((s.pool pool).dir.filter (fun q => q.2.present && decide (bits q.1 40 4 = 0))).foldl (fun t q =>
    let x := t.pool pool
    let d := x.dirE q.1
    if x.snapEpoch - x.fullEpoch d.epoch < 16384 then t else
    let up := [ePage pool q.1 2 (x.snapEpoch % 65536) d.flash]
    match leafOwner x q.1 with
    | some (n, _) => t.submit pool 4 (keyCow x pool n ++ up)
    | none =>
      let r := cowPage x pool q.1
      (t.setPool pool { r.1 with dir := x.dir }).submit pool 4 (if r.2.isEmpty then up else r.2)) s)

/-- SNAP_DELETE (R352, R353, R367). -/
def execSnapDelete (call : Nat) (s : State) : Res :=
  match s.libCall call 65 with
  | none => .next s
  | some c =>
    let p := callPool c.entry
    let x := s.pool p
    let id := callArg c.entry 0
    if !s.owns p then .next (s.libFail call 0x23)
    else if !x.snaps.any (fun n => decide (n.id = id)) then .next (s.libFail call 0x63)
    else if (exposer x id).isSome then .next (s.libFail call 0x64)
    else .next ((s.dropSnap p id).libDone call)

/-- SNAP_DROP_WALK (R353): every preserved image whose interval holds no remaining snapshot is dropped, each in a group of its
own; commands that still read a deleted snapshot hold its images back (R365). -/
def execSnapDropWalk (pool : Nat) (s : State) : Res :=
  if !s.owns pool then .next s else
  let x := s.pool pool
  let gone := x.preserved.filter (fun m => !x.snaps.any (fun n => decide (m.low ≤ n.id ∧ n.id ≤ m.high))
    && !s.host.cmds.any (fun q => match q.2.snap with
      | some z => decide (m.low ≤ z.1 ∧ z.1 ≤ m.high) && decide (s.nsPool q.2.cap.nsid = some pool)
      | none => false))
  .next ((gone.foldl (fun t m => t.submit pool 4 [eSnap pool 4 0 m.high m.mpn]) s).purgeNs pool)

/-- SNAP_EXPOSE (R352, R367). -/
def execSnapExpose (call : Nat) (s : State) : Res :=
  match s.libCall call 66 with
  | none => .next s
  | some c =>
    let p := callPool c.entry
    let x := s.pool p
    let id := callArg c.entry 0
    let src := callArg c.entry 1
    let new := callArg c.entry 2
    if !s.owns p then .next (s.libFail call 0x23)
    else if new < 1 ∨ new > 0xFFFFFFFE ∨ src > 0xFFFFFFFE then .next (s.libFail call 0x60)
    else if !x.snaps.any (fun n => decide (n.id = id)) then .next (s.libFail call 0x63)
    else if !nsExisted x src id then .next (s.libFail call 0x26)
    else if s.allNs.length ≥ 4096 then .next (s.libFail call 0x27)
    else if (Tbl.find s.allNs new).isSome then .next (s.libFail call 0x25)
    else .next (((s.submit p 4 [eSnap p 2 src id new]).nsChanged new).libDone call)

/-- SNAP_HIDE (R365, R367): the exposed namespace goes, and with its last exposure a snapshot marked DELETING. -/
def execSnapHide (call : Nat) (s : State) : Res :=
  match s.libCall call 67 with
  | none => .next s
  | some c =>
    let nsid := callArg c.entry 0
    match Tbl.find s.allNs nsid with
    | none => .next (s.libFail call 0x26)
    | some (p, n) =>
      if !s.owns p then .next (s.libFail call 0x23)
      else match n.snap with
        | none => .next (s.libFail call 0x60)
        | some (id, _) =>
          if isView (s.pool p) nsid then .next (s.libFail call 0x60) else
          let s1 := (s.submit p 4 [eSnap p 3 nsid id 0]).nsChanged nsid
          let s2 := if (s1.pool p).snaps.any (fun (z : Snap) => decide (z.id = id) && z.deleting) then s1.dropSnap p id else s1
          .next (s2.libDone call)

/-- SNAP_LIST (R367, R368). -/
def execSnapList (call : Nat) (s : State) : Res :=
  match s.libCall call 68 with
  | none => .next s
  | some c =>
    let x := s.pool (callPool c.entry)
    if !s.owns (callPool c.entry) then .next (s.libFail call 0x23) else
    .next (s.libRecords call ((x.snaps.drop (callArg c.entry 0)).map (snapRec x)))

/-- POOL_STATUS (R367, R368). -/
def execPoolStatus (call : Nat) (s : State) : Res :=
  match s.libCall call 73 with
  | none => .next s
  | some c =>
    if !s.owns (callPool c.entry) then .next (s.libFail call 0x23) else .next (s.libRecords call [s.poolRec (callPool c.entry)])

end Sys2Proof.Machine
end

