-- ==== Sys2Proof/Machine/Repl.lean ====
section
/-! DEFINITION. Replication (R355–R366): pairs, rounds at the source, items at the target, faults, and the repair of a lost
chunk by its fingerprint (R298). -/

namespace Sys2Proof.Machine

namespace State

/-! ### Links (R356, R373) -/

def subPort (s : State) (port sub : Nat) : SubPort := Tbl.getD s.host.subs (8 * port + sub) SubPort.fresh
def hifBlk (n : Nat) : Nat := 0x200000 + n * 0x10000

/-- A secure association in force (R373). -/
def secure (s : State) (port sub : Nat) : Bool :=
  let p := s.subPort port sub
  s.regBit (hifBlk port) (11 + sub) && p.sas.any (fun a => a.tx && decide (p.inUse = some a.an)) && p.sas.any (fun a => !a.tx)

/-- Has a port a link on which replication may run? -/
def secureHif (s : State) (port : Nat) : Bool := (List.range 8).any (fun i => (s.subPort port i).up && s.secure port i)

/-! ### Items of a round (R358, R359) -/

def recBytes (dig : Bytes) (olen flags : Nat) (off : Int) : Bytes :=
  padTo 32 dig ++ leBytes 4 olen ++ leBytes 4 flags ++ leBytes 8 (off % 2 ^ 64).toNat

def digestOf (x : Pool) (h : Nat) : Bytes := padTo 32 (Tbl.getD x.digests h [])

/-- The chunks of a line's runs with their offsets in the pitch (R182). -/
def runChunks (x : Pool) (l : Line) : List (Nat × Int) :=
  l.runs.flatMap (fun r =>
    ((List.range r.nchunk).foldl (fun (st : List (Nat × Int) × Int) i =>
      (st.1 ++ [(r.handle + i, st.2)], st.2 + (if l.fixed then 16384 else ((x.rec' (r.handle + i)).olen : Int)))) ([], r.pos)).1)

/-- What a round compares of a line: its runs and its hold entries, not their heat. -/
def lineKey (l : Line) : List Run × List (Nat × Nat × Bool) := (l.runs, l.holds.map (fun h => (h.1, h.2.handle, h.2.zero)))

/-- The item of a pitch as it stands at a snapshot. -/
def pitchItem (x : Pool) (off : Nat) (l : Line) : RItem :=
  let cs := runChunks x l
  let a := cs.flatMap (fun c => recBytes (digestOf x c.1) (x.rec' c.1).olen 0 c.2)
  let b := l.holds.flatMap (fun h => if h.2.zero then recBytes [] 4096 3 (4096 * h.1 : Nat)
    else recBytes (digestOf x h.2.handle) (x.rec' h.2.handle).olen 1 (4096 * h.1 : Nat))
  { kind := if cs.isEmpty && l.holds.isEmpty then 3 else 0, pos := off, key := [], recs := a ++ b,
    handles := cs.map Prod.fst ++ l.holds.map (fun h => if h.2.zero then 0 else h.2.handle) }

/-- The chunks of an object with their offsets in it, each once. -/
def objChunks (x : Pool) (snap : Option Nat) (o : Obj) : List (Nat × Int) :=
  ((List.range (ceilDiv o.len 0x100000)).flatMap (fun i =>
    (runChunks x (lineAt x snap (o.base + i))).map (fun (c : Nat × Int) => ((c.1, c.2 + ((0x100000 * i : Nat) : Int)) : Nat × Int)))).eraseDups

/-- The item of an object record at a snapshot. -/
def objItem (x : Pool) (snap : Option Nat) (o : Obj) : RItem :=
  let cs := objChunks x snap o
  { kind := 1, pos := o.len, key := o.key, recs := cs.flatMap (fun c => recBytes (digestOf x c.1) (x.rec' c.1).olen 0 c.2),
    handles := cs.map Prod.fst }

/-- The walk of a round (R359 step 2): what differs between two snapshots of a namespace, in its order. -/
def roundItems (x : Pool) (nsid : Nat) (prev : Option Nat) (cur : Nat) : List RItem :=
  match Tbl.find x.nss nsid with
  | none => []
  | some n =>
    if n.kind = 0 then
      (nsLines x nsid { n with snap := some (cur, nsid) }).filterMap (fun ln =>
        let a := match prev with
          | some id => lineAt x (some id) ln
          | none => Line.fresh
        let b := lineAt x (some cur) ln
        if lineKey a = lineKey b then none else some (pitchItem x ((ln - n.base) * 0x100000) b))
    else
      let a := match prev with
        | some id => objsAt x nsid (some id)
        | none => []
      let b := objsAt x nsid (some cur)
      ((a ++ b).foldl Pool.putObj []).filterMap (fun k =>
        match b.find? (fun (o : Obj) => decide (o.key = k.key)) with
        | some o => if o ∈ a then none else some (objItem x (some cur) o)
        | none => some { kind := 2, pos := 0, key := k.key, recs := [], handles := [] })

/-- What an item counts in the long-operation entry (R361). -/
def itemWeight (i : RItem) : Nat := match i.kind with
  | 1 => i.pos
  | 2 => 1
  | _ => 1048576

/-- The body of a MANIFEST. -/
def manifestBody (i : RItem) : Bytes :=
  leBytes 1 i.kind ++ leBytes 1 i.key.length ++ zeros 2 ++ leBytes 4 (i.recs.length / 48) ++ leBytes 8 i.pos ++ padTo 16 i.key ++ i.recs

/-! ### The source -/

/-- Report the round of a pair (R361). -/
def replReport (s : State) (p n phase : Nat) : State :=
  match s.pairOf p n with
  | none => s
  | some r =>
    let ws := (List.range r.items.length).map (fun i => (i + 1, match r.items[i]? with | some z => itemWeight z | none => 0))
    let done := sumBy (fun w => if w.1 ≤ r.applied ∨ w.1 ∈ r.acked then w.2 else 0) ws
    s.lopReport 4 1 phase p done (sumBy (fun w => w.2) ws) done r.roundAt

/-- MANIFESTs go out with at most 64 items unacknowledged. -/
def sendItems (p n : Nat) : Nat → State → State
  | 0, s => s
  | f + 1, s =>
    match s.pairOf p n with
    | none => s
    | some r =>
      if !r.connected ∨ r.sent - (r.applied + r.acked.length) ≥ 64 then s else
      match r.items[r.sent]? with
      | none => s
      | some i => sendItems p n f ((s.sendRepl p n 3 (r.sent + 1) (manifestBody i)).updPair p n (fun z => { z with sent := z.sent + 1 }))

/-- After the last APPLIED, ROUND_END. -/
def roundEnd (s : State) (p n : Nat) : State :=
  match s.pairOf p n with
  | some r => if r.curSnap.isSome ∧ r.applied = r.items.length then s.sendRepl p n 7 0 (leBytes 8 r.items.length) else s
  | none => s

/-- A connection has gone (R362): the source pauses and tries again after 1 s, doubling to 60 s. -/
def pairLost (s : State) (p n reason : Nat) : State :=
  match s.pairOf p n with
  | none => s
  | some r =>
    let b := if r.backoff = 0 then 1 else min 60 (2 * r.backoff)
    let s1 := s.updPair p n (fun z => { z with
      connected := false, reason := reason, state := if z.source then (if z.curSnap.isSome then 3 else 1) else 0,
      backoff := b, retryAt := s.time + BitVec.ofNat 64 (b * 100000000) })
    if r.source && r.curSnap.isSome then s1.replReport p n 2 else s1

/-- An ERROR message; codes 0, 1 and 4 close the connection as well. -/
def replError (s : State) (p n code item : Nat) : State :=
  let s1 := s.sendRepl p n 0x0B item (leBytes 1 code ++ zeros 7 ++ leBytes 8 item)
  if code ∈ [0, 1, 4] then (s1.emit (.replClose p n)).pairLost p n 1 else s1

/-- A round of the source is over: S_(r−1) goes, ROUND_END is journaled (R359 step 5). -/
def roundOver (s : State) (p n : Nat) (target : Option Nat) : State :=
  match s.pairOf p n with
  | none => s
  | some r =>
    let s1 := s.replReport p n 3
    let s2 := match r.prevSnap with
      | some id => s1.dropSnap p id
      | none => s1
    (s2.submit p 8 [eRepl p n 3 r.round 0]).updPair p n (fun z => { z with
      state := 0, reason := 0, doneAt := s.time, targetSnap := target.getD z.targetSnap, items := [], sent := 0, acked := [] })

/-- A round ends without success: FAILED or ABORTED, and S_r is deleted (R362, R367). -/
def roundStop (s : State) (p n phase : Nat) : State :=
  match s.pairOf p n with
  | none => s
  | some r =>
    match r.curSnap with
    | none => s
    | some id => ((s.replReport p n phase).dropSnap p id).updPair p n (fun z => { z with curSnap := none, items := [], sent := 0, acked := [], state := 4 })

/-- The frames that a WANT asks for, decrypted (R359 step 4). -/
def fetchFrame (s : State) (p h : Nat) (marks : Marks) : Option Bytes × State :=
  let r := (s.pool p).rec' h
  if !r.valid || r.lost then (none, s) else
  let f := s.readFrame p r marks []
  (f.1.map (fun b => f.2.cryptFrame p false r.loc b), f.2)

def chunkEntry (i : Nat) (f : Bytes) : Bytes :=
  leBytes 4 i ++ leBytes 4 f.length ++ zeros 8 ++ padTo (ceilDiv f.length 16 * 16) f

/-- Entries packed into bodies of at most 4,194,304 bytes (R357). -/
def packBodies : List Bytes → List Bytes
  | [] => []
  | e :: l =>
    match packBodies l with
    | b :: bs => if e.length + b.length ≤ 4194304 then (e ++ b) :: bs else e :: b :: bs
    | [] => [e]

/-- Is it this pair's turn (R29, R361)? -/
def roundDue (s : State) (p n : Nat) : Bool :=
  let x := s.pool p
  let due := fun (r : RPair) => if r.round = 0 then 0 else r.roundAt.toNat + r.period * 100000000
  let open' := x.pairs.filter (fun q => q.2.source && decide (due q.2 ≤ s.time.toNat))
  match minBy (fun (q : Nat × RPair) => due q.2) open' with
  | some q => decide (q.1 = n) && !x.pairs.any (fun z => z.2.source && z.2.curSnap.isSome)
  | none => false

/-! ### Repair by fingerprint (R298, R366) -/

def setLostState (s : State) (p h st : Nat) : State :=
  s.updPool p (fun x => { x with lost := x.lost.map (fun l => if l.handle = h then { l with state := st } else l) })

/-- Ask the next pair in pair-id order; with none left the chunk is unrepairable. -/
def fetchNext (s : State) (p h : Nat) : State :=
  let x := s.pool p
  let from' := Tbl.getD x.asked h 0
  match x.pairs.find? (fun q => q.2.source && q.2.connected && decide (from' ≤ q.1)) with
  | some q =>
    let tag := s.stamp
    let s1 := s.tick.updPool p (fun y => { y with asked := Tbl.set y.asked h (q.1 + 1) })
    let s2 := (s1.updPair p q.1 (fun z => { z with fetches := z.fetches ++ [(tag, h, s.time)] })).setLostState p h 1
    s2.sendRepl p q.1 9 0 (leBytes 8 tag ++ digestOf x h ++ leBytes 4 (x.rec' h).olen ++ zeros 4)
  | none => (s.updPool p (fun y => { y with asked := Tbl.del y.asked h })).setLostState p h 3

/-- Take a FETCH off a pair's list: the handle it was for. -/
def fetchTake (s : State) (p n tag : Nat) : Option (Nat × State) :=
  match s.pairOf p n with
  | none => none
  | some r =>
    match r.fetches.find? (fun f => decide (f.1 = tag)) with
    | some f => some (f.2.1, s.updPair p n (fun z => { z with fetches := z.fetches.filter (fun g => decide (g.1 ≠ tag)) }))
    | none => none

/-! ### The target (R360, R365) -/

/-- Return the references that an item in hand holds. -/
def dropWork (s : State) (p n item : Nat) : State :=
  match s.pairOf p n with
  | none => s
  | some r =>
    match Tbl.find r.work item with
    | none => s
    | some w =>
      let s1 := s.updPair p n (fun z => { z with work := Tbl.del z.work item })
      if w.busy then s1 else (s1.updPool p (fun x => w.found.foldl (fun y f => y.refAdd f.2 (-1)) x)).settleDying p

/-- The round in hand is abandoned or a new one begins. -/
def dropWorks (s : State) (p n : Nat) : State :=
  match s.pairOf p n with
  | some r => r.work.foldl (fun t w => t.dropWork p n w.1) s
  | none => s

/-- A message names a later round than the one in hand. -/
def targetRound (s : State) (p n round : Nat) : State :=
  match s.pairOf p n with
  | some r => if round > r.round then
      (s.dropWorks p n).updPair p n (fun z => { z with round := round, applied := 0, done := false, roundAt := s.time, state := 2 }) else s
  | none => s

/-- Where a chunk of an object lies: each pitch it touches, with its signed offset there. -/
def objPlaces (base : Nat) (off : Int) (len : Nat) : List (Nat × Int) :=
  let a := (off / 0x100000).toNat
  let b := ((off + (len : Int) - 1) / 0x100000).toNat
  (List.range (b + 1 - a)).map (fun i => (base + a + i, off - (0x100000 * (a + i) : Nat)))

/-- Pitch lines for a new object of a length. -/
def newBase (s : State) (p len : Nat) : Nat × State :=
  let x := s.pool p
  (16 * mpnOf p x.nextMpn, s.setPool p { x with nextMpn := x.nextMpn + ceilDiv (ceilDiv len 0x100000) 16 })

def rec48 (w : RWork) (i : Nat) : Bytes := sliceAt w.item.recs (48 * i) 48

/-- The items of a replicated item, its fresh chunks under new handles. -/
def workItems (w : RWork) (base : Nat) (next : Nat) : List WItem :=
  let n := w.item.recs.length / 48
  ((List.range n).foldl (fun (st : List WItem × Nat) i =>
    let r := rec48 w i
    let olen := fieldAt r 0x20 4
    let fl := fieldAt r 0x24 4
    let off : Int := (BitVec.ofNat 64 (fieldAt r 0x28 8)).toInt
    let (h, fr, fresh) := match Tbl.find w.found i with
      | some h => (h, ([] : Bytes), false)
      | none => (st.2, Tbl.getD w.frames i [], !bit fl 1)
    let mk := fun (ln : Nat) (pos : Int) (form : Nat) (fresh : Bool) =>
      ({ line := ln, pos := pos, form := form, handle := h, fresh := fresh, digest := sliceAt r 0 32, olen := olen, loc := 0, frame := fr,
         alone := false } : WItem)
    let its :=
      if bit fl 1 then [{ mk base (off / 4096) 3 false with handle := 0 }]
      else if bit fl 0 then [mk base (off / 4096) 0 fresh]
      else if w.item.kind = 0 then [mk base (off / 16384) 1 fresh]
      else
        let ps := objPlaces base off olen
        (List.range ps.length).map (fun j => match ps[j]? with
          | some q => mk q.1 q.2 2 (fresh && decide (j = 0))
          | none => mk base 0 4 false)
    (st.1 ++ its, if fresh then st.2 + 1 else st.2)) ([], next)).1

/-- Apply an item whose chunks are all here: one group with ORIGIN 8 once they have landed; none while no unit can take it. -/
def applyWork (s : State) (p n item : Nat) : Option State :=
  match s.pairOf p n with
  | none => some s
  | some r =>
    match Tbl.find r.work item, Tbl.find (s.pool p).nss r.nsid with
    | some w, some ns =>
      if w.busy || !w.wants.isEmpty then some s else
      let x := s.pool p
      let (base, s1) := if w.item.kind = 1 then s.newBase p w.item.pos else (ns.base + w.item.pos / 0x100000, s)
      let its := workItems w base x.nextHandle
      let fresh := (its.filter WItem.fresh).length
      let marker : WItem := { line := base, pos := 0, form := 9, handle := 0, fresh := false, digest := [], olen := 0, loc := 0, frame := [], alone := true }
      let plan : WPlan := {
        pool := p, nsid := r.nsid, origin := 8, items := if w.item.kind = 0 ∨ w.item.kind = 3 then marker :: its else its,
        key := if w.item.kind = 1 ∨ w.item.kind = 2 then some (w.item.key, w.item.pos, base) else none,
        delKey := decide (w.item.kind = 2), seq := 0, due := 0, accepted := false, mods := [], pair := some (n, item) }
      let s2 := s1.updPool p (fun y => { y with nextHandle := y.nextHandle + fresh })
      let s3 := s2.updPair p n (fun z => { z with work := Tbl.upd z.work item (fun v => { v with busy := true }) })
      match s3.issuePlan s3.nextPlan (s3.cmdRidge s3.nextPlan) plan with
      | (s4, true) => some ((s4.updPool p (fun y => w.found.foldl (fun y f => y.refAdd f.2 (-1)) y)).settleDying p)
      | (_, false) => none
    | _, _ => some s

/-! ### Messages (R357, R362) -/

/-- What is wrong with a message of a type: the ERROR code, if anything. -/
def msgBad (typ : Nat) (m : Bytes) : Option Nat :=
  let body := m.drop 32
  let f := fieldAt body
  let len := fieldAt m 4 4
  if m.length < 32 ∨ fieldAt m 0 2 ≠ 0x5E1A ∨ fieldAt m 2 1 ≠ typ then some 0
  else if fieldAt m 0x1C 4 ≠ crc32c (m.take 0x1C) then some 1
  else if len > 4194304 ∨ body.length ≠ len then some 0
  else if fieldAt m 0x18 4 ≠ crc32c body then some 1
  else
    let ok := match typ with
      | 1 => decide (len = 32)
      | 2 => decide (len = 16)
      | 3 => decide (len = 32 + 48 * f 4 4) && decide (f 0 1 ≤ 3) && decide (f 1 1 ≤ 16)
      | 6 => decide (len = 0)
      | 7 => decide (len = 8)
      | 8 => decide (len = 8)
      | 9 => decide (len = 48)
      | 10 => decide (len = 16 + f 12 4)
      | 11 => decide (len = 16)
      | _ => true
    if ok then none else some 0

/-- Receive a message of a type on a pair's connection: a bad one is answered with ERROR and closes the connection. -/
def recvRepl (s : State) (p n typ : Nat) (m : Bytes) (f : RPair → Nat → Bytes → Res) : Res :=
  match s.pairOf p n with
  | none => .next s
  | some r =>
    if !r.connected || !s.owns p then .next s else
    match msgBad typ m with
    | some code => .next (s.replError p n code 0)
    | none => f r (fieldAt m 0x10 8) (m.drop 32)

/-- The entries of a CHUNKS body: index and frame; none where the lengths do not add up. -/
def chunkEntries : Nat → Bytes → Option (List (Nat × Bytes))
  | 0, _ => none
  | f + 1, b =>
    if b.isEmpty then some []
    else
      let n := fieldAt b 4 4
      if b.length < 16 + ceilDiv n 16 * 16 then none
      else (chunkEntries f (b.drop (16 + ceilDiv n 16 * 16))).map (fun l => (fieldAt b 0 4, sliceAt b 16 n) :: l)

def bitmapBytes (n : Nat) (l : List Nat) : Bytes := leBytes (ceilDiv n 8) (sumBy (fun i => 2 ^ i) l)

/-- The pair record of R368. -/
def pairRec (n : Nat) (r : RPair) : Bytes :=
  leBytes 4 n ++ leBytes 1 r.state ++ leBytes 1 r.reason ++ zeros 2 ++ leBytes 4 r.round ++ zeros 4 ++ leBytes 8 r.doneAt.toNat
    ++ leBytes 8 (if r.source then r.targetSnap else r.curSnap.getD 0) ++ satBytes 8 r.applied ++ satBytes 8 r.chunksSent
    ++ satBytes 8 r.chunksShared ++ satBytes 8 r.bytesSent

/-- Every pair this head knows, with its pool. -/
def allPairs (s : State) : List (Nat × Nat × RPair) := s.pools.flatMap (fun q => q.2.pairs.map (fun r => (q.1, r.1, r.2)))

/-- Is a pair block well formed (R368)? -/
def pairBlockOk (d : Bytes) : Bool :=
  decide (d.length = 64) && decide (fieldAt d 8 1 < 8) && decide (fieldAt d 9 1 ≤ 1) && decide (10 ≤ fieldAt d 0x0C 4)
    && decide (fieldAt d 0x0C 4 ≤ 86400) && decide (sliceAt d 0x34 12 = zeros 12)

/-- The entries that record a pair. -/
def pairEntries (p n : Nat) (d : Bytes) : List Bytes :=
  eRepl p n 0 0 0 :: (List.range 4).map (fun i => ePair p n i (sliceAt d (16 * i) 16))

end State

open State

/-! ### Calls -/

/-- REPL_CREATE (R355, R367, R268). -/
def execReplCreate (call : Nat) (s : State) : Res :=
  match s.libCall call 69 with
  | none => .next s
  | some c =>
    let p := callPool c.entry
    let x := s.pool p
    let d := s.paramBytes c
    let mine := s.allPairs.filter (fun q => q.2.2.source)
    if !s.owns p then .next (s.libFail call 0x23)
    else if !pairBlockOk d then .next (s.libFail call 0x60)
    else if x.fill = 2 then .next (s.libFail call 0x31)
    else
      let ok := match Tbl.find x.nss (fieldAt d 0 4) with
        | some n => !n.deleting && n.snap.isNone
        | none => false
      if !ok ∨ mine.length ≥ 256 ∨ (mine.filter (fun q => decide (q.1 = p))).length ≥ 16 then .next (s.libFail call 0x65)
      else
        let n := ((List.range 257).find? (fun i => !mine.any (fun q => decide (q.2.1 = i)))).getD 0
        .next ((s.submit p 4 (pairEntries p n d)).libExit call 0 n)

/-- REPL_ACCEPT (R355, R365, R367). -/
def execReplAccept (call : Nat) (s : State) : Res :=
  match s.libCall call 70 with
  | none => .next s
  | some c =>
    let p := callPool c.entry
    let x := s.pool p
    let d := s.paramBytes c
    let view := fieldAt d 0x30 4
    if !s.owns p then .next (s.libFail call 0x23)
    else if !pairBlockOk d then .next (s.libFail call 0x60)
    else
      let ok := match Tbl.find x.nss (fieldAt d 0 4) with
        | some n => !n.deleting && n.snap.isNone && !n.target && x.cfg.dedup
        | none => false
      if !ok then .next (s.libFail call 0x65)
      else if view ≠ 0 ∧ (Tbl.find s.allNs view).isSome then .next (s.libFail call 0x25)
      else
        let n := Tbl.next (s.allPairs.map (fun q => (q.2.1, ())) ++ [(Pool.targetPairs - 1, ())])
        .next ((s.submit p 4 (pairEntries p n d)).libDone call)

/-- REPL_DELETE (R367): the round in progress is ABORTED and its snapshot deleted. -/
def execReplDelete (call : Nat) (s : State) : Res :=
  match s.libCall call 71 with
  | none => .next s
  | some c =>
    let n := callArg c.entry 0
    match s.allPairs.find? (fun q => decide (q.2.1 = n)) with
    | none => .next (s.libFail call 0x66)
    | some (p, _, r) =>
      if !s.owns p then .next (s.libFail call 0x23) else
      let s1 := if r.source then s.roundStop p n 5 else s.dropWorks p n
      let s2 := if r.connected then s1.emit (.replClose p n) else s1
      let view := if !r.source && decide (r.viewNsid ≠ 0) && (Tbl.find (s.pool p).nss r.viewNsid).isSome then
        [eSnap p 3 r.viewNsid (r.curSnap.getD 0) 0] else []
      .next ((s2.submit p 4 (eRepl p n 4 r.round 0 :: view)).libDone call)

/-- REPL_STATUS (R367, R368). -/
def execReplStatus (call : Nat) (s : State) : Res :=
  match s.libCall call 72 with
  | none => .next s
  | some c =>
    match s.allPairs.find? (fun q => decide (q.2.1 = callArg c.entry 0)) with
    | none => .next (s.libFail call 0x66)
    | some q => .next (s.libRecords call [pairRec q.2.1 q.2.2])

/-! ### Rounds -/

/-- REPL_ROUND (R359, R361): a due round takes its snapshot, once nothing is in flight, walks, and sends. -/
def execReplRound (pool pair : Nat) (s : State) : Res :=
  match s.pairOf pool pair with
  | none => .next s
  | some r =>
    if !s.owns pool || !r.source || !s.roundDue pool pair || !s.snapSpaced pool
        || decide ((s.pool pool).snaps.length ≥ 65535) then .next s
    else if s.cutBusy pool then .next (s.cutWait pool) else
    let (id, s1) := s.snapTake pool true
    let s2 := s1.submit pool 8 [eRepl pool pair 1 (r.round + 1) id]
    let items := roundItems (s2.pool pool) r.nsid r.prevSnap id
    let s3 := s2.updPair pool pair (fun z => { z with
      items := items, sent := 0, applied := 0, acked := [], wantSeen := 0, roundAt := s.time, state := if z.connected then 2 else 3 })
    let s4 := s3.replReport pool pair (if r.connected then 0 else 2)
    .next ((sendItems pool pair 64 s4).roundEnd pool pair)

/-- REPL_RECONNECT (R356, R362, R363): the source opens the pair's connection, where MACsec is in force, and says HELLO; after a
write-protected target it asks again every 60 s. -/
def execReplReconnect (pool pair : Nat) (s : State) : Res :=
  match s.pairOf pool pair with
  | none => .next s
  | some r =>
    if !s.owns pool || !r.source || decide (s.time.toNat < r.retryAt.toNat) || (r.connected && decide (r.reason ≠ 4)) then .next s
    else if !s.secureHif r.hif then .next (s.updPair pool pair (fun z => { z with connected := false, reason := 3 }))
    else
      let s1 := s.updPair pool pair (fun z => { z with connected := true, state := 1, retryAt := s.time + 6000000000 })
      .next (s1.sendRepl pool pair 1 0 (padTo 16 (s.pool pool).poolId ++ leBytes 4 r.nsid ++ leBytes 4 r.remote ++ zeros 8))

/-- HELLO (R355, R363): the target finds the accepted pair and answers with what it has applied of the round. -/
def execHello (msg : Bytes) (s : State) : Res :=
  match msgBad 1 msg with
  | some code => .next ((s.emit (.repl 255 0 (replMsg 0x0B (fieldAt msg 8 4) (fieldAt msg 0x0C 4) 0 (leBytes 1 code ++ zeros 15)))).emit (.replClose 255 0))
  | none =>
    let b := msg.drop 32
    let round := fieldAt msg 0x0C 4
    match s.allPairs.find? (fun q => !q.2.2.source && decide (padTo 16 q.2.2.remotePool = sliceAt b 0 16)
        && decide (q.2.2.remote = fieldAt b 16 4) && decide (q.2.2.nsid = fieldAt b 20 4)) with
    | none => .next (s.emit (.repl 255 0 (replMsg 2 (fieldAt msg 8 4) round 0 (leBytes 1 1 ++ zeros 15))))
    | some (p, n, _) =>
      if !s.owns p then .next (s.emit (.repl p n (replMsg 2 (fieldAt msg 8 4) round 0 (leBytes 1 2 ++ zeros 15))))
      else
        let s1 := (s.updPair p n (fun z => { z with connected := true, peerId := fieldAt msg 8 4, reason := 0 })).targetRound p n round
        match s1.pairOf p n with
        | none => .next s1
        | some r =>
          let a := if round < r.round ∨ r.done then 2 ^ 64 - 1 else appliedTo r
          .next (s1.emit (.repl p n (replMsg 2 r.peerId round 0 (zeros 8 ++ leBytes 8 a))))

/-- HELLO_ACK (R363): the source walks again and sends from the item after APPLIED. -/
def execHelloAck (pool pair : Nat) (msg : Bytes) (s : State) : Res :=
  s.recvRepl pool pair 2 msg (fun r _ b =>
    if !r.source then .next s
    else if fieldAt b 0 1 ≠ 0 then .next ((s.emit (.replClose pool pair)).pairLost pool pair 2)
    else
      let s1 := s.updPair pool pair (fun z => { z with backoff := 0, reason := 0 })
      match r.curSnap with
      | none => .next (s1.updPair pool pair (fun z => { z with state := 0 }))
      | some id =>
        let a := fieldAt b 8 8
        if a = 2 ^ 64 - 1 then .next (s1.roundOver pool pair none) else
        let items := roundItems (s1.pool pool) r.nsid r.prevSnap id
        let s2 := (s1.updPair pool pair (fun z => { z with
          state := 2, items := items, applied := min a items.length, sent := min a items.length, acked := [] })).replReport pool pair 0
        .next ((sendItems pool pair 64 s2).roundEnd pool pair))

/-- MANIFEST (R360, R362): the target probes the records, takes references and asks for the rest. -/
def execManifest (pool pair : Nat) (msg : Bytes) (s : State) : Res :=
  s.recvRepl pool pair 3 msg (fun r0 item b =>
    if r0.source then .next s
    else if (s.pool pool).fill = 2 then .next (s.replError pool pair 3 item)
    else
      let s1 := s.targetRound pool pair (fieldAt msg 0x0C 4)
      match s1.pairOf pool pair, Tbl.find (s1.pool pool).nss r0.nsid with
      | some r, some ns =>
        let kind := fieldAt b 0 1
        let top := r.work.foldl (fun a q => max a q.1) r.applied
        if fieldAt msg 0x0C 4 < r.round ∨ item < 1 ∨ item > top + 1 then .next (s1.replError pool pair 4 item)
        else if (ns.kind = 0 ∧ ((kind = 1 ∨ kind = 2) ∨ fieldAt b 8 8 % 0x100000 ≠ 0 ∨ fieldAt b 8 8 ≥ ns.size))
            ∨ (ns.kind = 1 ∧ (kind = 0 ∨ kind = 3 ∨ fieldAt b 1 1 < 1)) then .next (s1.replError pool pair 0 item)
        else if (match Tbl.find r.work item with | some w => w.busy | none => false) then .next s1
        else
          let s2 := s1.dropWork pool pair item
          let n := fieldAt b 4 4
          let it : RItem := { kind := kind, pos := fieldAt b 8 8, key := sliceAt b 16 (fieldAt b 1 1), recs := b.drop 32, handles := [] }
          let probe := (List.range n).foldl (fun (st : State × Tbl Nat × List Nat) i =>
            let q := sliceAt it.recs (48 * i) 48
            if bit (fieldAt q 0x24 4) 1 then st else
            match st.1.svcProbe st.1.libRidge pool (sliceAt q 0 32) (fieldAt q 0x20 4) false with
            | (t, some h) => if refTakable (t.pool pool) h then
                (t.updPool pool (fun x => x.refAdd h 1), Tbl.set st.2.1 i h, st.2.2) else (t, st.2.1, st.2.2 ++ [i])
            | (t, none) => (t, st.2.1, st.2.2 ++ [i])) (s2, [], [])
          let w : RWork := { item := it, found := probe.2.1, wants := probe.2.2, frames := [], fails := 0, busy := false }
          let s3 := (probe.1.updPair pool pair (fun z => { z with work := Tbl.set z.work item w })).sendRepl pool pair 4 item (bitmapBytes n w.wants)
          (match s3.applyWork pool pair item with
          | some s4 => .next s4
          | none => .next s)
      | _, _ => .next s1)

/-- WANT (R359 step 4): the source reads, decrypts and sends the wanted chunks. -/
def execWant (pool pair : Nat) (msg : Bytes) (marks : List (Nat × Nat × Nat × Nat)) (s : State) : Res :=
  s.recvRepl pool pair 4 msg (fun r item b =>
    match r.items[item - 1]? with
    | none => .next (s.replError pool pair 4 item)
    | some it =>
      if item = 0 ∨ b.length ≠ ceilDiv it.handles.length 8 then .next (s.replError pool pair 0 item) else
      let ws := (List.range it.handles.length).filter (fun i => bit (leNat b) i)
      let got := ws.foldl (fun (st : List Bytes × Nat × State) i =>
        match st.2.2.fetchFrame pool (it.handles.getD i 0) marks with
        | (some f, t) => (st.1 ++ [chunkEntry i f], st.2.1 + f.length, t)
        | (none, t) => (st.1, st.2.1, t)) ([], 0, s)
      let s1 := got.2.2.updPair pool pair (fun z => { z with
        chunksSent := z.chunksSent + got.1.length, bytesSent := z.bytesSent + got.2.1,
        chunksShared := if item > z.wantSeen then z.chunksShared + (it.handles.length - ws.length) else z.chunksShared,
        wantSeen := max z.wantSeen item })
      .next ((packBodies got.1).foldl (fun t body => t.sendRepl pool pair 5 item body) s1))

/-- REPL_CHUNKS (R360, R362): the target verifies each frame; bad ones are wanted again, the third failure of an item fails the
round; a complete item is applied. -/
def execReplChunks (pool pair : Nat) (msg : Bytes) (s : State) : Res :=
  s.recvRepl pool pair 5 msg (fun r item b =>
    match chunkEntries (b.length + 1) b with
    | none => .next (s.replError pool pair 0 item)
    | some es =>
      match Tbl.find r.work item with
      | none => .next (s.updPair pool pair (fun z => { z with unwanted := z.unwanted + es.length }))
      | some w =>
        let prof := s.nsProfile pool r.nsid
        let res := es.foldl (fun (st : RWork × List Nat × Nat) e =>
          if !decide (e.1 ∈ st.1.wants) then (st.1, st.2.1, st.2.2 + 1) else
          let q := rec48 w e.1
          let good := match decodeChunk prof e.2 (fieldAt q 0x20 4) with
            | some d => decide (sha256 d = sliceAt q 0 32)
            | none => false
          if good then ({ st.1 with wants := st.1.wants.filter (fun i => decide (i ≠ e.1)), frames := Tbl.set st.1.frames e.1 e.2 }, st.2.1, st.2.2)
          else ({ st.1 with fails := st.1.fails + 1 }, st.2.1 ++ [e.1], st.2.2)) (w, [], 0)
        let s1 := s.updPair pool pair (fun z => { z with work := Tbl.set z.work item res.1, unwanted := z.unwanted + res.2.2 })
        if res.1.fails ≥ 3 then .next ((s1.replError pool pair 2 item).dropWorks pool pair)
        else if !res.2.1.isEmpty then .next (s1.sendRepl pool pair 4 item (bitmapBytes (w.item.recs.length / 48) res.2.1))
        else match s1.applyWork pool pair item with
          | some s2 => .next s2
          | none => .next s)

/-- APPLIED (R359, R363): the source records an item applied, journals it at most once each 100 ms, and goes on. -/
def execApplied (pool pair : Nat) (msg : Bytes) (s : State) : Res :=
  s.recvRepl pool pair 6 msg (fun r item _ =>
    if !r.source || decide (item = 0) || decide (item > r.sent) then .next (s.replError pool pair 4 item)
    else if item ≤ r.applied ∨ item ∈ r.acked then .next s
    else
      let ak := item :: r.acked
      let upTo := (List.range r.sent).foldl (fun a _ => if (a + 1) ∈ ak then a + 1 else a) r.applied
      let s1 := s.updPair pool pair (fun z => { z with applied := upTo, acked := ak.filter (fun i => decide (i > upTo)) })
      let s2 := if (s.time - r.appliedAt).toNat ≥ 10000000 then
          (s1.submit pool 8 [eRepl pool pair 2 r.round upTo]).updPair pool pair (fun z => { z with appliedAt := s.time }) else s1
      .next ((sendItems pool pair 64 (s2.replReport pool pair 0)).roundEnd pool pair))

/-- ROUND_END (R359, R365): with every item applied and nothing in flight, the target takes its snapshot, moves the view in the
group that deletes the previous round's snapshot, and answers. -/
def execRoundEnd (pool pair : Nat) (msg : Bytes) (s : State) : Res :=
  s.recvRepl pool pair 7 msg (fun r _ b =>
    if r.source then .next s
    else if !r.work.isEmpty ∨ r.applied ≠ fieldAt b 0 8 then .next (s.replError pool pair 4 0)
    else if !s.snapSpaced pool || decide ((s.pool pool).snaps.length ≥ 65535) then .next s
    else if s.cutBusy pool then .next (s.cutWait pool)
    else
      let (id, s1) := s.snapTake pool true
      let x := s1.pool pool
      let view := if r.viewNsid = 0 then [] else [eSnap pool 2 r.nsid id r.viewNsid]
      let keep := match r.curSnap with
        | some o => (exposer x o).isSome
        | none => true
      let del := match r.curSnap with
        | some o => if keep then [] else [eSnap pool 1 0 o 0]
        | none => []
      let s2 := s1.submit pool 8 (view ++ del)
      let s3 := match r.curSnap with
        | some o => if keep then s2.dropSnap pool o else s2
        | none => s2
      let s4 := if r.viewNsid ≠ 0 ∧ (Tbl.find (s.pool pool).nss r.viewNsid).isNone then s3.nsChanged r.viewNsid else s3
      let s5 := s4.updPair pool pair (fun z => { z with curSnap := some id, done := true, doneAt := s.time, state := 0 })
      .next (s5.sendRepl pool pair 8 0 (leBytes 8 id)))

/-- ROUND_DONE (R359 step 5). -/
def execRoundDone (pool pair : Nat) (msg : Bytes) (s : State) : Res :=
  s.recvRepl pool pair 8 msg (fun r _ b =>
    if r.source && r.curSnap.isSome && decide (r.applied = r.items.length) then .next (s.roundOver pool pair (some (fieldAt b 0 8)))
    else .next (s.replError pool pair 4 0))

/-- REPL_ERROR (R362): code 2 fails the round, code 3 pauses it for 60 s, the others close the connection. -/
def execReplError (pool pair : Nat) (msg : Bytes) (s : State) : Res :=
  s.recvRepl pool pair 11 msg (fun r _ b =>
    match fieldAt b 0 1 with
    | 2 =>
      if r.source then
        .next ((s.roundStop pool pair 4).libBook 0x10C (leBytes 1 pool ++ leBytes 4 pair ++ leBytes 8 (fieldAt b 8 8)))
      else .next (s.dropWorks pool pair)
    | 3 =>
      let s1 := s.updPair pool pair (fun z => { z with state := 3, reason := 4, retryAt := s.time + 6000000000 })
      .next (if r.source && r.curSnap.isSome then s1.replReport pool pair 2 else s1)
    | _ => .next ((s.emit (.replClose pool pair)).pairLost pool pair 1))

/-- REPL_CONNECTION_LOST (R362). -/
def execReplConnectionLost (pool pair : Nat) (s : State) : Res :=
  match s.pairOf pool pair with
  | some r => if r.connected then .next (s.pairLost pool pair 1) else .next s
  | none => .next s

/-! ### Fetches -/

/-- REPLICA_REPAIR (R298, R366): a lost chunk of a pool with a replication target is asked for by its fingerprint. -/
def execReplicaRepair (pool handle : Nat) (s : State) : Res :=
  let x := s.pool pool
  let r := x.rec' handle
  if !s.owns pool || !r.live || !r.lost || !x.pairs.any (fun q => q.2.source)
      || x.pairs.any (fun q => q.2.fetches.any (fun f => decide (f.2.1 = handle))) then .next s
  else .next (s.fetchNext pool handle)

/-- FETCH (R366): the receiver answers with the decrypted frame, absent, or unreadable. -/
def execFetch (pool pair : Nat) (msg : Bytes) (marks : List (Nat × Nat × Nat × Nat)) (s : State) : Res :=
  s.recvRepl pool pair 9 msg (fun _ _ b =>
    let answer := fun (t : State) (res : Nat) (f : Bytes) =>
      Host.Outcome.next (t.sendRepl pool pair 10 0 (sliceAt b 0 8 ++ leBytes 1 res ++ zeros 3 ++ leBytes 4 f.length ++ f))
    match s.svcProbe s.libRidge pool (sliceAt b 8 32) (fieldAt b 40 4) false with
    | (s, none) => answer s 1 []
    | (s, some h) =>
      if !refTakable (s.pool pool) h then answer s 1 [] else
      match s.fetchFrame pool h marks with
      | (some f, t) => answer t 0 f
      | (none, t) => answer t 2 [])

/-- FETCH_REPLY (R298, R366): the frame is decoded and verified; anything else sends the request to the next pair. -/
def execFetchReply (pool pair : Nat) (msg : Bytes) (s : State) : Res :=
  s.recvRepl pool pair 10 msg (fun _ _ b =>
    match s.fetchTake pool pair (fieldAt b 0 8) with
    | none => .next s
    | some (h, s1) =>
      let x := s1.pool pool
      let d := if fieldAt b 8 1 = 0 then decodeChunk (profOf x h) (sliceAt b 16 (fieldAt b 12 4)) (x.rec' h).olen else none
      match d with
      | some d => if fixityOk x h d then
          .next ((s1.updPool pool (fun y => { y with asked := Tbl.del y.asked h })).storeSame pool h d)
        else .next (s1.fetchNext pool h)
      | none => .next (s1.fetchNext pool h))

/-- FETCH_TIMEOUT (R366): a request unanswered after 10 s counts as absent. -/
def execFetchTimeout (pool pair tag : Nat) (s : State) : Res :=
  match s.pairOf pool pair with
  | none => .next s
  | some r =>
    match r.fetches.find? (fun f => decide (f.1 = tag)) with
    | none => .next s
    | some f =>
      if (s.time - f.2.2).toNat < 1000000000 then .next s else
      match s.fetchTake pool pair tag with
      | some (h, s1) => .next (s1.fetchNext pool h)
      | none => .next s

end Sys2Proof.Machine
end

