-- ==== Sys2Proof/Machine/Host.lean ====
section
/-! DEFINITION. The host fabric (R369–R401): ports and sub-ports, MACsec, connections and controllers, the intake, the
range-lock table, data from hosts, lost connections, the HIF jobs and the port routes. -/

namespace Sys2Proof.Machine

namespace State

/-! ### Ports (R369–R371) -/

def hifEvents (n : Nat) : Nat := hifBlk n + 0x10
def hifEvent (s : State) (n flag : Nat) : State := s.raise (hifEvents n) (2 ^ flag)
def hifOn (s : State) (n : Nat) : Bool := s.hifPresent n && s.regBit (hifBlk n) 0
/-- Sub-ports of a port under its BREAKOUT, and the rate of each in Gb/s (R369). -/
def subCount (s : State) (n : Nat) : Nat := 2 ^ s.regBits (hifBlk n) 1 2
def subRate (s : State) (n : Nat) : Nat := 800 / s.subCount n
def subOn (s : State) (n i : Nat) : Bool := s.hifOn n && decide (i < s.subCount n) && s.regBit (hifBlk n) (3 + i)
def setSub (s : State) (n i : Nat) (x : SubPort) : State :=
  { s with host := { s.host with subs := Tbl.set s.host.subs (8 * n + i) x } }

/-- Does a sub-port carry NVMe traffic (R373)? -/
def carries (s : State) (n i : Nat) : Bool :=
  s.subOn n i && (s.subPort n i).up && (!s.regBit (hifBlk n) (11 + i) || s.secure n i)

/-- NVMe payload bytes received and sent: the port's counters and the sub-port's. -/
def rxBytes (s : State) (n i k : Nat) : State :=
  let x := s.subPort n i
  (s.bump (hifBlk n + 0x48) 0 64 k).setSub n i { x with rxBytes := x.rxBytes + BitVec.ofNat 64 k }
def txBytes (s : State) (n i k : Nat) : State :=
  let x := s.subPort n i
  (s.bump (hifBlk n + 0x50) 0 64 k).setSub n i { x with txBytes := x.txBytes + BitVec.ofNat 64 k }

/-! ### Queues and commands -/

def hqueue (s : State) (q : Nat) : Option HQueue := Tbl.find s.host.queues q
def setQueue (s : State) (q : Nat) (x : HQueue) : State :=
  { s with host := { s.host with queues := Tbl.set s.host.queues q x } }
def hcmd (s : State) (n : Nat) : Option HCmd := Tbl.find s.host.cmds n

/-- A command that nothing has happened to yet. -/
def HCmd.mk0 (queue : Nat) (cap : Capsule) (snap : Option (Nat × Nat)) : HCmd :=
  { queue := queue, cap := cap, phase := .intake, climb := none, fwd := none, fail := none, xrdys := [], ranges := [], data := [],
    heldCpl := none, completed := false, acked := false, seq := none, progs := 0, retryAt := none, lost := false, since := 0,
    search := none, snap := snap, rdata := [], stalled := false }

/-- Commands of a queue, oldest first. -/
def cmdsOf (s : State) (q : Nat) : List (Nat × HCmd) := s.host.cmds.filter (fun c => decide (c.2.queue = q))
/-- Capsules in a port's intake. -/
def intakeOf (s : State) (n : Nat) : List (Nat × HCmd) :=
  s.host.cmds.filter (fun c => decide (c.2.phase = .intake) && (match s.hqueue c.2.queue with | some q => decide (q.port = n) | none => false))
/-- `HIF[n].INTAKE.FREE` (R384). -/
def intakeFree (s : State) (n : Nat) : Nat := 8388608 - sumBy (fun c => c.2.cap.bytes) (s.intakeOf n)

/-- The port reads its streams again once there is room for a full capsule. -/
def unstop (s : State) (n : Nat) : State :=
  if s.intakeFree n < 8256 then s else
  { s with host := { s.host with queues := s.host.queues.map (fun (q : Nat × HQueue) =>
      (q.1, if q.2.port = n then { q.2 with stopped := false } else q.2)) } }

/-- A climb of a command ends with its program. -/
def dropClimb (s : State) (c : HCmd) : State :=
  match c.climb with
  | some k => if (s.climb k).state ≠ .free ∧ (s.climb k).ended = .running then s.libEnd k (.exit 0) else s
  | none => s

/-- Pending HIF jobs of a command end with a STATUS (R387). -/
def endHifJobs (s : State) (n status : Nat) : State :=
  s.jobs.foldl (fun t (j : Nat × Job) =>
    if j.2.cls = 8 ∧ (t.climb j.2.cid).origin = .host n then t.finish j.1 j.2 status 0 else t) s

/-! ### Losing a connection (R396, R397) -/

/-- A command takes a write entry, or would: its fate under R397 is that of a write. -/
def isWrite (op : HostOp) : Bool := decide (op ∈ [HostOp.write, .writeZeroes, .dsm, .copy, .store, .delete])

/-- The fate of one command at the loss of its connection (R397). -/
def loseCmd (s : State) (n : Nat) : State :=
  match s.hcmd n with
  | none => s
  | some c =>
    let s1 := (s.endHifJobs n 0x10).setCmd n { c with lost := true, xrdys := [] }
    match c.phase with
    | .intake => s1.delCmd n
    | .accepted | .forwarded => s1
    | .over => if c.heldCpl.isSome then (((s1.shadowRemove n c).delCmd n).unlock n) else s1
    | _ => if isWrite c.cap.op then
        let s2 := (s1.landFailed n).abandonPlan n
        (((s2.shadowRemove n c).dropClimb c).delCmd n).unlock n
      else s1

/-- A connection is lost. -/
def loseQueue (s : State) (q : Nat) : State :=
  match s.hqueue q with
  | none => s
  | some x =>
    if x.lostAt.isSome then s else
    let s1 := (s.setQueue q { x with lostAt := some s.time }).hifEvent x.port 7
    (s1.cmdsOf q).foldl (fun t c => t.loseCmd c.1) s1 |>.unstop x.port

def loseQueues (s : State) (f : HQueue → Bool) : State :=
  (s.host.queues.filter (fun q => f q.2)).foldl (fun t q => t.loseQueue q.1) s

/-- A fatal response (R393): C2HTermReq, then the loss; on RoCEv2 the queue pair enters Error (R395). -/
def fatal (s : State) (q port fes fei : Nat) : State :=
  if (Tbl.find s.host.queues q).any HQueue.rdma then s.loseQueue q else
  (((s.emit (.termReq q fes fei)).bump (hifBlk port + 0x60) 0 32 1).hifEvent port 5).loseQueue q

/-- The port stops: every connection on it ends (R371). -/
def portOff (s : State) (n : Nat) : State := s.loseQueues (fun q => decide (q.port = n))

/-- A write of `HIF[n].CONFIG` (R371). -/
def hifConfig (s : State) (n : Nat) (v : W64) : State :=
  let b := hifBlk n
  let new := v.toNat % 2 ^ 19
  let old := s.regBits b 0 19
  if bit old 0 && decide (bits new 1 10 ≠ bits old 1 10) then s.hifEvent n 9
  else
    let s1 := s.setReg b (BitVec.ofNat 64 new)
    if bit old 0 && !bit new 0 then s1.portOff n else s1

/-! ### The capsule's own checks (R268, R352, R380, R382, R383, R393) -/

def ofNvme (sct sc : Nat) (dnr : Bool) : NvmeStatus := { sct := sct, sc := sc, dnr := dnr }

/-- What a command is to this head: served here, forwarded to the peer, left in the intake while the pool's outputs are held, or refused. -/
inductive Way where
  | serve (pool : Nat)
  | forward
  | held
  | refuse (st : NvmeStatus)
  deriving DecidableEq, Repr

/-- The ANA state of a pool's group on this head decides (R308, R309, R383); a capsule for a pool whose outputs are held waits in the
intake (R336). -/
def wayOf (s : State) (p : Nat) : Way :=
  if bit s.pair.holdPools p then .held
  else if (Tbl.find s.pair.moves p).isSome then .refuse stTransition
  else if s.owns p then .serve p
  else if bit s.shadowMask p && !s.rope.degraded && s.rope.linkUp then .forward
  else .refuse stInaccessible

/-- The ANA state that the log page shows for a pool's group, in the standard's code (R308, R383). -/
def anaCode (s : State) (p : Nat) : Nat := match s.wayOf p with
  | .serve _ => 1
  | .forward => 2
  | .held => 15
  | .refuse st => if st = stTransition then 15 else 3

/-- Is this an opcode of the namespace's command set (R380, R382)? -/
def opOf (kind : Nat) (op : HostOp) : Bool :=
  if kind = 0 then decide (op ∈ [HostOp.read, .write, .flush, .writeZeroes, .dsm, .verify, .copy])
  else decide (op ∈ [HostOp.store, .retrieve, .delete, .exist, .list, .flush])

/-- Commands that a write-protected namespace refuses (R352), and those that a WRITE_PROTECTED pool refuses (R268). -/
def wpRefused (op : HostOp) : Bool := decide (op ∈ [HostOp.write, .store, .delete, .writeZeroes, .copy, .dsm])
def fullRefused (c : Capsule) : Bool := decide (c.op ∈ [HostOp.write, .store, .copy]) || (decide (c.op = .writeZeroes) && !c.dealloc)

/-- The byte ranges that a block command names. -/
def capRanges (c : Capsule) : List (Nat × Nat) :=
  match c.op with
  | .dsm => c.ranges
  | .copy => (c.start, c.len) :: c.ranges.take 1
  | .flush => []
  | _ => [(c.start, c.len)]

/-- The status that a capsule gets without running; none where it runs. -/
def capStatus (c : Capsule) (n : Ns) (fill : Nat) : Option NvmeStatus :=
  if !opOf n.kind c.op then some stOpcode
  else if c.badOption ∨ (c.op = .copy ∧ c.ranges.length ≠ 1) ∨ c.ranges.length > 256 then some stField02
  else if n.kind = 1 ∧ c.op ≠ .list ∧ c.op ≠ .flush ∧ (c.key.length < 1 ∨ c.key.length > 16) then some (ofNvme 0 0x86 true)
  else if n.kind = 1 ∧ c.op = .store ∧ c.len > 1073741824 then some (ofNvme 0 0x85 true)
  else if n.kind = 0 ∧ (capRanges c).any (fun r => decide (r.1 + r.2 > n.size)) then some (ofNvme 0 0x80 true)
  else if n.kind = 0 ∧ c.op ≠ .dsm ∧ c.len > 2 ^ 30 then some stField02
  else if (n.snap.isSome || n.target) && wpRefused c.op then some (ofNvme 0 0x20 true)
  else if fill = 2 && fullRefused c then some stCapacity
  else if c.op ∈ [HostOp.read, .write, .copy, .store, .retrieve] ∧ c.sgl ≠ c.len then some stSgl
  else match c.inline with
    | some d => if d.length ≠ c.sgl then some stSgl else if !c.digestOk then some stTransient else none
    | none => none

/-! ### Range locks (R388–R390) -/

/-- The entries of a command. -/
def locksOf (n : Nat) (c : Capsule) (reserved : Bool) : List Lock :=
  let e := fun (st ln : Nat) (key : Option Bytes) (wr : Bool) =>
    ({ cmd := some n, nsid := c.nsid, start := st, len := ln, key := key, write := wr, granted := false, reserved := reserved,
       doubt := none } : Lock)
  match c.op with
  | .read | .verify => [e c.start c.len none false]
  | .write | .writeZeroes => [e c.start c.len none true]
  | .dsm =>
    match minBy Prod.fst c.ranges with
    | some lo => [e lo.1 (c.ranges.foldl (fun m r => max m (r.1 + r.2)) 0 - lo.1) none true]
    | none => []
  | .copy => (c.ranges.take 1).map (fun r => e r.1 c.len none false) ++ [e c.start c.len none true]
  | .store | .delete => [e 0 0 (some c.key) true]
  | .retrieve | .exist => [e 0 0 (some c.key) false]
  | _ => []

def lockRoom (s : State) (k : Nat) : Bool := decide ((s.host.locks.filter (fun l => !l.reserved)).length + k ≤ 65536 - 1024)

/-- The entries enter together; each is granted when nothing that entered before it conflicts (R389). A command never
waits for itself. -/
def enterLocks (s : State) (ls : List Lock) : State :=
  let old := s.host.locks
  let new := ls.map (fun l => { l with granted := !old.any (fun o => lockConflict o l) })
  let all := old ++ new
  { s with host := { s.host with locks := all, lockPeak := max s.host.lockPeak all.length } }

/-- Have all the entries of a command been granted? -/
def allGranted (s : State) (n : Nat) : Bool := s.host.locks.all (fun l => decide (l.cmd ≠ some n) || l.granted)

/-- Grant what may be granted of a command's entries, in the order of the table. -/
def grantLocks (n : Nat) : List Lock → List Lock → List Lock
  | _, [] => []
  | before, l :: r =>
    let x := if l.cmd = some n && !l.granted && !(before.any (fun o => decide (o.cmd ≠ some n) && lockConflict o l)) then
        { l with granted := true } else l
    x :: grantLocks n (before ++ [x]) r

/-- The queue-shadow items of a command that has taken write entries, one for each (R324). -/
def shadowAdd (s : State) (p : Nat) (q : HQueue) (c : Capsule) : State :=
  let op := match c.op with
    | .write => 0x01 | .writeZeroes => 0x08 | .dsm => 0x09 | .copy => 0x19 | .store => 0x01 | .delete => 0x10 | _ => 0
  if !s.streams p || !isWrite c.op then s else
  let ids := leBytes 2 q.cntlid ++ leBytes 2 q.qid ++ leBytes 2 c.cid ++ leBytes 1 op
  ((locksOf 0 c false).filter (fun l => l.write)).foldl (fun t l => match l.key with
    | some k => t.sendRope 0x06 false (shadowHead p 6 32 ++ ids ++ leBytes 1 k.length ++ leBytes 4 c.nsid ++ zeros 4 ++ padTo 16 k)
    | none => t.sendRope 0x06 false (shadowHead p 3 32 ++ ids ++ [0] ++ leBytes 4 c.nsid ++ zeros 4 ++ leBytes 8 l.start ++ leBytes 8 l.len)) s

/-- A climb for a host command (R43, R46), always in the host class (R41): only while more than RESERVE are FREE. Which library route serves it is CK960's own
choice (log entry 3). -/
def hostClimb (s : State) (ridge n : Nat) : Option (Nat × State) :=
  if s.freeClimbs ridge ≤ s.reserve ridge then none else
  let slot := s.pick 192
  let r := s.route slot
  s.used.allocClimb ridge { Climb.fresh with slot := slot, bg := false, pc := BitVec.ofNat 64 r.entry, origin := .host n }

/-- A capsule leaves the intake: SQHD moves on (DEDUCED: the slot is free once the command has been taken), room is made. -/
def takenOff (s : State) (q : Nat) (x : HQueue) : State :=
  (s.setQueue q { x with sqhd := (x.sqhd + 1) % max 1 x.depth }).unstop x.port

/-- A command ends at its capsule, with no climb and no entry. -/
def refuseCap (s : State) (n q : Nat) (x : HQueue) (c : HCmd) (st : NvmeStatus) : State :=
  ((s.takenOff q x).setCmd n { c with phase := .over }).complete n st 0 0

/-- A capsule of an I/O queue whose turn it is. -/
def takeIo (s : State) (n q : Nat) (x : HQueue) (c : HCmd) : State :=
  let go := fun (ls : List Lock) (sh : Option Nat) =>
    if !s.lockRoom ls.length then
      let s1 := s.hifEvent x.port 4
      if c.stalled then s1 else (s1.bump (hifBlk 0 + 0x1008) 0 64 1).setCmd n { c with stalled := true }
    else
      match s.hostClimb x.ridge n with
      | none => s.raise (climbBlk x.ridge + 0x10) 2
      | some (k, s1) =>
        let s2 := (s1.takenOff q x).enterLocks ls
        let s3 := match sh with | some p => s2.shadowAdd p x c.cap | none => s2
        s3.setCmd n { c with climb := some k, phase := if s3.allGranted n then .running else .taken, since := s.time }
  if c.cap.op = .flush then go [] none else
  match Tbl.find s.allNs c.cap.nsid with
  | none => s.refuseCap n q x c (ofNvme 0 0x0B true)
  | some (p, ns) =>
    if ns.deleting then s.refuseCap n q x c (ofNvme 0 0x0B true) else
    match s.wayOf p with
    | .held => s
    | .refuse st => s.refuseCap n q x c st
    | w =>
      match capStatus c.cap ns (s.pool p).fill with
      | some st =>
        let s1 := if st = stTransient then s.bump (hifBlk x.port + 0x68) 32 32 1 else s
        s1.refuseCap n q x c st
      | none => if w = .forward then go [] none else go (locksOf n c.cap false) (some p)

/-- The log pages whose content is the CK960's own: ANA (R383), the error log (R399), and the lost list of the controller's namespaces
(R399, R305). The layouts of the first two are the standard's (log entry 40). -/
def logPage (s : State) (cntlid lid : Nat) : Option Bytes :=
  match lid with
  | 0x0C => some (leBytes 8 s.host.anaCount ++ leBytes 2 16 ++ zeros 6 ++ (List.range 16).flatMap (fun p =>
      let ns := (s.allNs.filter (fun q => decide (q.2.1 = p) && !q.2.2.deleting)).map Prod.fst
      leBytes 4 (p + 1) ++ leBytes 4 ns.length ++ leBytes 8 s.host.anaCount ++ leBytes 1 (s.anaCode p) ++ zeros 15 ++ ns.flatMap (leBytes 4)))
  | 0x01 => (Tbl.find s.host.ctrls cntlid).map (fun c => padTo 16384 ((List.range c.errors.length).flatMap (fun i =>
      let e := c.errors.getD i (stUnrecovered, 0, 0)
      leBytes 8 (c.errCount - i) ++ zeros 4 ++ leBytes 2 (2 * stField e.1) ++ zeros 2 ++ leBytes 8 e.2.2 ++ leBytes 4 e.2.1 ++ leBytes 1 0xC1 ++ zeros 35)))
  | 0xC1 => some (s.pools.flatMap (fun q => q.2.lost.flatMap lostRec))
  | _ => none

/-- A capsule of an admin queue (R375, R376): an Abort runs unless four are in progress; a Get Log Page of the log pages above gives
them; the others are the standard's, and what they answer is not stated (log entry 40). -/
def takeAdmin (s : State) (n q : Nat) (x : HQueue) (c : HCmd) : State :=
  let aborts := (s.host.cmds.filter (fun d => decide (d.2.cap.op = .abort ∧ d.2.phase ≠ .intake) && (match s.hqueue d.2.queue with
    | some y => decide (y.cntlid = x.cntlid)
    | none => false))).length
  match c.cap.op with
  | .abort =>
    if aborts ≥ 4 then s.refuseCap n q x c (ofNvme 1 0x03 false)
    else (s.takenOff q x).setCmd n { c with phase := .running }
  | .other o =>
    match s.logPage x.cntlid c.cap.lid with
    | some d =>
      if o = 2 then s.refuseCap n q x { c with rdata := sliceAt (padTo (c.cap.start + c.cap.len) d) c.cap.start c.cap.len } stOk
      else s.used.refuseCap n q x c (ofNvme (s.pick (2 ^ 3)) (s.pick (2 ^ 11) % 256) false)
    | none => s.used.refuseCap n q x c (ofNvme (s.pick (2 ^ 3)) (s.pick (2 ^ 11) % 256) false)
  | _ => s.used.refuseCap n q x c (ofNvme (s.pick (2 ^ 3)) (s.pick (2 ^ 11) % 256) false)

/-! ### Controllers (R375–R378) -/

/-- The present ridges in index order. -/
def ridges (s : State) : List Nat := (List.range 8).filter (fun r => s.ridgePresent r)

/-- The ridge of the next I/O queue (R14). -/
def nextRidge (s : State) : Nat := s.ridges.getD (s.host.created % max 1 s.ridges.length) 0

def ctrlBase (s : State) : Nat := 0x400 * s.headId + 1

def trimZ (b : Bytes) : Bytes := (b.reverse.dropWhile (fun x => decide (x = 0))).reverse

def hostEntry (s : State) (nqn : Bytes) : Option HostEntry := s.host.hosts.find? (fun h => decide (h.nqn = nqn))

/-- The number of a host entry: its own, or for a new one the lowest free (R461). -/
def hostIndex (s : State) (nqn : Bytes) : Nat :=
  match s.hostEntry nqn with
  | some h => h.idx
  | none => ((List.range (s.host.hosts.length + 1)).find? (fun i => s.host.hosts.all (fun h => decide (h.idx ≠ i)))).getD 0

def stConnect (sc : Nat) : NvmeStatus := ofNvme 1 sc true

/-! ### Data from hosts (R385, R386, R394) -/

/-- XRDY PDUs or RDMA Reads that a command may have outstanding. -/
def xrdyMax (q : HQueue) : Nat := if q.rdma then 4 else min 4 q.grant

/-- Send one XRDY PDU or RDMA Read. -/
def sendXrdy (s : State) (n : Nat) (q : HQueue) (c : HCmd) (job : Option Nat) (h : W64) (off len : Nat) : State :=
  let t := s.host.nextTtag
  let x : Xrdy := { ttag := t, job := job, h := h, off := off, len := len, next := off, drop := false }
  let s1 := { s with host := { s.host with nextTtag := t + 1 } }
  ((s1.setCmd n { c with xrdys := c.xrdys ++ [x], ranges := c.ranges ++ [(off, len)] }).emit (.xrdy c.queue c.cap.cid t off len)).bump
    (hifBlk q.port + 0x70) 0 64 1

/-- Where the next range of a command's data begins. -/
def nextOff (c : HCmd) : Nat := c.ranges.foldl (fun m r => max m (r.1 + r.2)) 0

/-- A buffer for bytes of a command's data in its climb's ridge (R14, R51): given now, given before by HALLOC_MET, or the climb waits
for it behind the older requests of its class. -/
def dataBuf (s : State) (n : Nat) (c : HCmd) (k len : Nat) : Option W64 × State :=
  let r := k / 1024
  match c.granted, (s.climb k).await with
  | some h, _ => (some h, s.setCmd n { c with granted := none })
  | none, .data _ => (none, s)
  | none, _ =>
    if s.allocTurn r len (s.climb k).bg then
      let (slot, s1) := s.allocBuf r len k
      (some (s1.slotH r slot 0 (min 0x100000 len)), s1)
    else (none, ((s.libTurn k).updClimb k (fun d => { d with await := .data len })).leave k .waiting)

/-- The largest command whose data stays in its ridge's buffer whole until it completes (R14); the library passes the data of a longer
one on in pieces (DESIGN CHOICE, log entry 73). -/
def wholeMax : Nat := 0x400000

/-- The library asks for a command's data, a MiB at a time into buffers of its climb, in ascending order. -/
def askData (n : Nat) (q : HQueue) : Nat → State → State
  | 0, s => s
  | f + 1, s =>
    match s.hcmd n with
    | none => s
    | some c =>
      match c.climb with
      | none => s
      | some k =>
        let off := nextOff c
        let len := min 0x100000 (c.cap.len - off)
        if off ≥ c.cap.len ∨ c.xrdys.length ≥ xrdyMax q then s else
        match s.dataBuf n c k len with
        | (some h, s1) =>
          match s1.hcmd n with
          | some c1 => askData n q f (s1.sendXrdy n q c1 none h off len)
          | none => s1
        | (none, s1) => s1

/-- Has all the data of a command arrived? -/
def dataIn (c : HCmd) : Bool := c.xrdys.isEmpty && decide (nextOff c ≥ c.cap.len)

/-- The next step towards a command's data: none while it is not all there. -/
def getData (s : State) (n : Nat) (c : HCmd) : Option Bytes × State :=
  match c.cap.inline with
  | some d =>
    match c.climb with
    | none => (some d, s)
    | some k =>
      if !c.ranges.isEmpty || d.isEmpty then (some d, s) else
      match s.dataBuf n c k d.length with
      | (some h, s1) =>
        ((some d), match s1.hcmd n with
          | some c1 => (s1.hWrite (k / 1024) h 0 d).setCmd n { c1 with ranges := [(0, d.length)] }
          | none => s1)
      | (none, s1) => (none, s1)
  | none =>
    if dataIn c then (some (padTo c.cap.len c.data), s) else
    match s.hqueue c.queue with
    | some q => (none, askData n q 4 s)
    | none => (none, s)

/-- A command that has failed posts its completion once nothing is due any more (R394). -/
def failNow (s : State) (n : Nat) : State :=
  match s.hcmd n with
  | none => s
  | some c => match c.fail with
    | some st => if c.xrdys.isEmpty then ((s.landFailed n).abandonPlan n).finishCmd n st 0 0 else s
    | none => s

/-- A waiting allocation of a climb is cancelled (R394). -/
def noAlloc (c : Climb) : Climb := { c with await := match c.await with
  | .alloc _ _ | .data _ => .none
  | a => a }

/-- A data digest has failed (R394): the rest is read and discarded, the pending RECEIVE jobs end, and an allocation that waits for the
command is cancelled. -/
def digestFail (s : State) (n : Nat) (bad : Xrdy) : State :=
  match s.hcmd n with
  | none => s
  | some c =>
    let s1 := match bad.job with
      | some k => match Tbl.find s.jobs k with
        | some j => s.finish k j 0x11 0
        | none => s
      | none => s
    let s2 := s1.endHifJobs n 0x12
    let s3 := match c.climb with
      | some k => s2.updClimb k noAlloc
      | none => s2
    s3.setCmd n { c with fail := some stTransient, xrdys := c.xrdys.map (fun x => { x with drop := true }) }

/-- Good bytes answer an XRDY: into the buffer, and the command's data for a library command, whose buffers stay its own until it ends
(R14, R38). -/
def placeData (s : State) (n : Nat) (x : Xrdy) (d : Bytes) : State :=
  match s.hcmd n with
  | none => s
  | some c =>
    let ridge := (c.climb.getD 0) / 1024
    let s1 := if s.liveH ridge x.h then s.hWrite ridge x.h (x.next - x.off) d else s
    let c1 := { c with data := if x.job.isNone then spliceAt c.data x.next d else c.data }
    let full := decide (x.next + d.length = x.off + x.len)
    let c2 := { c1 with
      xrdys := if full then c1.xrdys.filter (fun y => decide (y.ttag ≠ x.ttag))
        else c1.xrdys.map (fun y => if y.ttag = x.ttag then { y with next := x.next + d.length } else y) }
    let s2 := s1.setCmd n c2
    if !full then s2 else
    match x.job with
    | none => if c.cap.len ≤ wholeMax then s2 else s2.freeBuf ridge (hSlot x.h)
    | some k => match Tbl.find s2.jobs k with
      | some j => s2.finish k j 0 x.len
      | none => s2

/-- Bytes of a range that is being discarded. -/
def dropData (s : State) (n : Nat) (x : Xrdy) (k : Nat) : State :=
  match s.hcmd n with
  | none => s
  | some c =>
    let full := decide (x.next + k = x.off + x.len)
    let s1 := s.setCmd n { c with
      xrdys := if full then c.xrdys.filter (fun y => decide (y.ttag ≠ x.ttag))
        else c.xrdys.map (fun y => if y.ttag = x.ttag then { y with next := x.next + k } else y) }
    s1.failNow n

/-- The command of a queue that a TTAG belongs to, with its XRDY. -/
def ttagOf (s : State) (q ttag : Nat) : Option (Nat × Xrdy) :=
  (s.cmdsOf q).findSome? (fun c => (c.2.xrdys.find? (fun x => decide (x.ttag = ttag))).map (fun x => (c.1, x)))

end State

open State

/-! ### Connections -/

/-- CONNECT (R14, R374, R375, R377, R378). QID 0 makes a controller. -/
def execConnect (port sub cntlid qid depth : Nat) (hostnqn subnqn : Bytes) (rdma hdgst ddgst : Bool) (grant kato : Nat) (s : State) : Res :=
  if !s.carries port sub then .next s else
  let no := fun (sc : Nat) => Res.next' (s.emit (.connectReply port sub cntlid qid (stField (stConnect sc))))
  match s.hostEntry hostnqn with
  | none => no 0x84
  | some h =>
    if !bit h.flags 0 then no 0x84
    else if subnqn ≠ s.host.nqn then no 0x82
    else
      let mk := fun (id : Nat) (ridge : Nat) => ({
        port := port, sub := sub, ridge := ridge, rdma := rdma, depth := depth, sqhd := 0,
        heldSqhd := if s.pair.holdAll then some 0 else none, cntlid := id, qid := qid, hdgst := hdgst, ddgst := ddgst, grant := grant,
        authed := !bit h.flags 1, frozen := false, stopped := false, lostAt := none, kato := kato, heardAt := s.time } : HQueue)
      if qid = 0 then
        if depth < 1 ∨ depth > 32 then no 0x82 else
        match Tbl.firstFree s.host.ctrls s.ctrlBase 1024 with
        | none => no 0x81
        | some id =>
          let c : HCtrl := { nqn := hostnqn, port := port, sub := sub, errors := [], errCount := 0, anaNotice := false, nsNotice := false, changed := [] }
          let s1 := { s with host := { s.host with ctrls := Tbl.set s.host.ctrls id c } }
          .next ((s1.setQueue (65536 + id) (mk id 0)).emit (.connectReply port sub id 0 0))
      else
        match Tbl.find s.host.ctrls cntlid, Tbl.firstFree s.host.queues 0 65536 with
        | some c, some q =>
          if c.nqn ≠ hostnqn ∨ c.port ≠ port ∨ c.sub ≠ sub ∨ qid > 128 ∨ depth < 1 ∨ depth > 4096
              ∨ s.host.queues.any (fun x => decide (x.2.cntlid = cntlid ∧ x.2.qid = qid)) then no 0x82 else
          let s1 := { s with host := { s.host with created := s.host.created + 1 } }
          .next ((s1.setQueue q (mk cntlid s.nextRidge)).emit (.connectReply port sub cntlid qid 0))
        | _, _ => no 0x82
where Res.next' (s : State) : Res := .next s

/-- AUTHENTICATION (R378): the exchange succeeds, or it fails: AUTH_FAIL, a record that names the host, the connection closed. -/
def execAuthentication (queue : Nat) (ok : Bool) (s : State) : Res :=
  match s.hqueue queue with
  | none => .next s
  | some x =>
    if x.lostAt.isSome then .next s
    else if ok then .next (s.setQueue queue { x with authed := true, heardAt := s.time })
    else
      let nqn := match Tbl.find s.host.ctrls x.cntlid with | some c => c.nqn | none => []
      .next (((s.hifEvent x.port 8).book 0x20 0x045 (nqn.take 223)).loseQueue queue)

/-- KEEP_ALIVE_EXPIRY (R375, R396): a controller from which nothing came for KATO, counted in units of 100 ms. -/
def execKeepAliveExpiry (cntlid : Nat) (s : State) : Res :=
  let qs := s.host.queues.filter (fun q => decide (q.2.cntlid = cntlid) && q.2.lostAt.isNone)
  let last := qs.foldl (fun m q => max m q.2.heardAt.toNat) 0
  match qs.find? (fun q => decide (q.2.qid = 0)) with
  | none => .next s
  | some a =>
    if a.2.kato ≠ 0 ∧ s.time.toNat ≥ last + ceilDiv a.2.kato 100 * 10000000 then
      .next (s.loseQueues (fun q => decide (q.cntlid = cntlid)))
    else .next s

/-- CONNECTION_LOST (R395–R397): the transport has given the connection up. -/
def execConnectionLost (queue : Nat) (s : State) : Res := .next (s.loseQueue queue)

/-- TERM_REQ (R396): an H2CTermReq has been received. -/
def execTermReq (queue : Nat) (s : State) : Res :=
  match s.hqueue queue with
  | none => .next s
  | some x =>
    if x.lostAt.isSome then .next s
    else .next (((s.bump (hifBlk x.port + 0x60) 32 32 1).hifEvent x.port 6).loseQueue queue)

/-- CQT_EXPIRY (R398): 50 ms after a loss every command has ended; the last queue frees its controller. -/
def execCqtExpiry (queue : Nat) (s : State) : Res :=
  match s.hqueue queue with
  | none => .next s
  | some x =>
    match x.lostAt with
    | none => .next s
    | some t =>
      if (s.time - t).toNat < 5000000 then .next s else
      let s1 := (s.cmdsOf queue).foldl (fun u c => if c.2.phase = .accepted ∨ c.2.phase = .forwarded then u else u.finishCmd c.1 stInternal 0 0) s
      if !(s1.cmdsOf queue).isEmpty then .next s1 else
      let s2 := { s1 with host := { s1.host with queues := Tbl.del s1.host.queues queue } }
      if s2.host.queues.any (fun q => decide (q.2.cntlid = x.cntlid)) then .next s2
      else .next { s2 with host := { s2.host with ctrls := Tbl.del s2.host.ctrls x.cntlid } }

/-- SUBPORT_LINK_DOWN (R396): the link goes down; while it stays down for more than 2 s its connections are lost. -/
def execSubportLinkDown (port sub : Nat) (s : State) : Res :=
  let x := s.subPort port sub
  if x.up then .next ((s.setSub port sub { x with up := false, downAt := s.time }).hifEvent port 0)
  else if (s.time - x.downAt).toNat > 200000000 then .next (s.loseQueues (fun q => decide (q.port = port ∧ q.sub = sub)))
  else .next s

/-- Has the last phase of the start-up begun (R543, R544; DEDUCED, log entry 102)? -/
def State.hostsOpen (s : State) : Bool := decide (4 ≤ s.pwr.mode) && decide (s.pwr.mode ≤ 10)

/-- SUBPORT_LINK_UP (R369, R373, R544): an enabled sub-port trains at the rate of its BREAKOUT; before the last phase of the start-up
its transmitters are idle. -/
def execSubportLinkUp (port sub : Nat) (s : State) : Res :=
  let x := s.subPort port sub
  if x.up || !s.subOn port sub || !s.hostsOpen then .next s
  else .next ((s.setSub port sub { x with up := true, speed := s.subRate port }).hifEvent port 1)

/-- HIF_CONFIG_WRITE (R371): a management core writes CONFIG. -/
def execHifConfigWrite (core port : Nat) (v : W64) (s : State) : Res :=
  match s.gate (0x20 + core % 4) (hifBlk port) 8 true with
  | .open => .next (s.hifConfig port v)
  | .shut t | .error t | .viol t => .next t

/-! ### MACsec (R372, R373) -/

/-- The replay window of a sub-port; 64 before PORT_CONFIG sets it. -/
def State.replayWindow (x : SubPort) : Nat := if x.entry.isEmpty then 64 else fieldAt x.entry 8 4

/-- MACSEC_FRAME (R373): a protected frame that fails its check, is replayed or names no SA is discarded and counted. An
unprotected frame counts nothing; what it carries has rows of its own. -/
def execMacsecFrame (port sub sci an pn : Nat) (secured icvOk : Bool) (s : State) : Res :=
  if !secured then .next s else
  let x := s.subPort port sub
  let drop := fun (lo w : Nat) => (s.bump (hifBlk port + 0x58) lo w 1).hifEvent port 2
  match x.sas.find? (fun a => !a.tx && decide (a.sci = sci ∧ a.an = an % 4)) with
  | none => .next (drop 48 16)
  | some a =>
    if pn < a.pn then .next (drop 32 16)
    else if !icvOk then .next (drop 0 32)
    else .next (s.setSub port sub { x with sas := x.sas.map (fun b => if b = a then { a with pn := max a.pn (pn + 1 - replayWindow x) } else b) })

/-- MKA_SAK_INSTALL (R372): MKA, which runs under the CAK, installs an SA; as key server the CK960 takes the SAK from the
warden's TRNG. One transmit channel, up to 16 receive channels, four association numbers each. -/
def execMkaSakInstall (port sub : Nat) (tx : Bool) (sci an : Nat) (key : Bytes) (server : Bool) (s : State) : Res :=
  let x := s.subPort port sub
  let kept := x.sas.filter (fun a => !(decide (a.tx = tx ∧ a.an = an % 4) && (tx || decide (a.sci = sci))))
  let scis := ((kept.filter (fun a => !a.tx)).map SecAssoc.sci).eraseDups
  if !x.mka || (server && !s.wdn.trngOk) || (!tx && !decide (sci ∈ scis) && decide (scis.length ≥ 16)) then .next s else
  let (k, s1) := if server then (s.freeBytes 32, s.used) else (padTo 32 key, s)
  let a : SecAssoc := { tx := tx, sci := sci, an := an % 4, key := k, pn := 1 }
  .next (s1.setSub port sub { x with sas := kept ++ [a], inUse := if tx then some (an % 4) else x.inUse })

/-! ### Capsules and locks -/

/-- CAPSULE_ARRIVAL (R378, R384, R393, R395): into the intake, or the port stops reading the stream. -/
def execCapsuleArrival (queue : Nat) (cap : Capsule) (s : State) : Res :=
  match s.hqueue queue with
  | none => .next s
  | some x =>
    if x.lostAt.isSome || !s.carries x.port x.sub then .next s
    else if cap.badAt.isSome then .next (s.fatal queue x.port 0x01 (cap.badAt.getD 0))
    else if x.hdgst && !cap.hdgstOk then .next ((s.bump (hifBlk x.port + 0x68) 0 32 1).fatal queue x.port 0x03 0)
    else if (cap.inline.getD []).length > 8192 ∨ cap.bytes > 8256 then .next (s.fatal queue x.port 0x05 0)
    else if s.intakeFree x.port < 8256 then
      let s1 := s.setQueue queue { x with stopped := true }
      .next (if s.host.queues.any (fun q => decide (q.2.port = x.port) && q.2.stopped) then s1 else s1.hifEvent x.port 3)
    else
      let n := Tbl.next s.host.cmds
      let snap := match Tbl.find s.allNs cap.nsid with | some (_, ns) => ns.snap | none => none
      let s1 := (s.setQueue queue { x with heardAt := s.time }).setCmd n (HCmd.mk0 queue cap snap)
      .next (s1.rxBytes x.port x.sub (cap.inline.getD []).length)

/-- CAPSULE_TAKEN (R43, R384, R388–R390): the oldest capsule of a queue. -/
def execCapsuleTaken (queue : Nat) (s : State) : Res :=
  match s.hqueue queue, (s.cmdsOf queue).find? (fun c => decide (c.2.phase = .intake)) with
  | some x, some (n, c) =>
    if x.lostAt.isSome then .next s
    else if !x.authed then .next (s.refuseCap n queue x c (ofNvme 1 0x91 true))
    else if x.qid = 0 then .next (s.takeAdmin n queue x c)
    else .next (s.takeIo n queue x c)
  | _, _ => .next s

/-- RANGE_LOCK_GRANT (R389). -/
def execRangeLockGrant (cmd : Nat) (s : State) : Res :=
  let s1 := { s with host := { s.host with locks := grantLocks cmd [] s.host.locks } }
  match s1.hcmd cmd with
  | some c => if c.phase = .taken ∧ s1.allGranted cmd = true then .next (s1.setCmd cmd { c with phase := .running, since := s.time }) else .next s1
  | none => .next s1

/-! ### Data -/

/-- H2CDATA (R385, R393, R394): a PDU that answers an XRDY, or the data of an RDMA Read. -/
def execH2cdata (queue : Nat) (pdu : Pdu) (s : State) : Res :=
  match s.hqueue queue with
  | none => .next s
  | some x =>
    if x.lostAt.isSome || !s.carries x.port x.sub then .next s else
    let s := s.setQueue queue { x with heardAt := s.time }
    match pdu.badAt with
    | some fei => .next (s.fatal queue x.port 0x01 fei)
    | none =>
      if x.hdgst && !pdu.hdgstOk then .next ((s.bump (hifBlk x.port + 0x68) 0 32 1).fatal queue x.port 0x03 0) else
      match s.ttagOf queue pdu.ttag with
      | none => .next (s.fatal queue x.port 0x02 0)
      | some (n, y) =>
        let stop := pdu.off + pdu.data.length
        if pdu.off ≠ y.next then .next (s.fatal queue x.port 0x02 0)
        else if stop > y.off + y.len then .next (s.fatal queue x.port 0x04 0)
        else if pdu.last ≠ decide (stop = y.off + y.len) then .next (s.fatal queue x.port 0x02 0)
        else
          let s1 := s.rxBytes x.port x.sub pdu.data.length
          if y.drop then .next (s1.dropData n y pdu.data.length)
          else if x.ddgst && !pdu.ddgstOk then
            .next (((s1.bump (hifBlk x.port + 0x68) 32 32 1).digestFail n y).dropData n { y with drop := true } pdu.data.length)
          else .next (s1.placeData n y pdu.data)

/-! ### HIF jobs (R93, R385–R387) -/

namespace State

/-- The host command that a job's climb serves. -/
def jobCmd (s : State) (j : Job) : Option (Nat × HCmd) :=
  match (s.climb j.cid).origin with
  | .host n => (s.hcmd n).map (fun c => (n, c))
  | _ => none

/-- The range of a RECEIVE or TRANSMIT. -/
def hifRange (j : Job) : Nat × Nat :=
  (fieldAt j.desc 4 4, if fieldAt j.desc 8 4 = 0 then hLen (jh j 0) else fieldAt j.desc 8 4)

/-- Does a command take data from its host, or give it data? -/
def takesData (op : HostOp) : Bool := decide (op ∈ [HostOp.write, .store])
def givesData (op : HostOp) : Bool := decide (op ∈ [HostOp.read, .retrieve, .list])

end State

/-- HIF_RECEIVE (R385–R387). -/
def execHifReceive (job : Nat) (s : State) : Res :=
  match s.startable job 8 (fun o => decide (o = 0)) with
  | none => .next s
  | some j =>
    match s.jobCmd j with
    | none => .next (s.finish job j 1 0)
    | some (n, c) =>
      let (off, len) := hifRange j
      if c.lost then .next (s.finish job j 0x10 0)
      else if c.fail.isSome then .next (s.finish job j 0x12 0)
      else if c.xrdys.any (fun x => decide (x.job = some job)) then .next s
      else if !takesData c.cap.op ∨ off + len > c.cap.len ∨ len > 0x100000
          ∨ c.ranges.any (fun r => decide (off < r.1 + r.2 ∧ r.1 < off + len)) then .next (s.finish job j 1 0)
      else match c.cap.inline with
        | some d =>
          let s1 := s.setCmd n { c with ranges := c.ranges ++ [(off, len)] }
          .next ((s1.hWrite j.ridge (jh j 0) 0 (sliceAt d off len)).finish job j 0 len)
        | none =>
          match s.hqueue c.queue with
          | none => .next (s.finish job j 0x10 0)
          | some q =>
            let earlier := s.jobs.any (fun p => decide (p.1 ≠ job ∧ p.2.cls = 8 ∧ p.2.cid = j.cid ∧ jobOp p.2 = 0) && decide ((hifRange p.2).1 < off)
              && !c.xrdys.any (fun x => decide (x.job = some p.1)))
            if c.xrdys.length ≥ xrdyMax q ∨ earlier = true then .next s
            else .next (s.sendXrdy n q c (some job) (jh j 0) off len)

/-- HIF_TRANSMIT (R386, R387). A range outside the command's transfer ends BAD_DESCRIPTOR, as R387 has it for RECEIVE (DEDUCED, log entry 86). -/
def execHifTransmit (job : Nat) (s : State) : Res :=
  match s.startable job 8 (fun o => decide (o = 1)) with
  | none => .next s
  | some j =>
    match s.jobCmd j with
    | none => .next (s.finish job j 1 0)
    | some (_, c) =>
      let (off, len) := hifRange j
      if c.lost then .next (s.finish job j 0x10 0)
      else if !givesData c.cap.op ∨ off + len > c.cap.len ∨ len > hLen (jh j 0) then .next (s.finish job j 1 0)
      else
        let d := s.rdBytes (s.hAddr j.ridge (jh j 0)) len
        let s1 := match s.hqueue c.queue with | some q => s.txBytes q.port q.sub len | none => s
        .next ((s1.emit (.hostData c.queue c.cap.cid off d)).finish job j 0 len)

/-- HIF_COMPLETE (R93, R387, R391). -/
def execHifComplete (job : Nat) (s : State) : Res :=
  match s.startable job 8 (fun o => decide (o = 2)) with
  | none => .next s
  | some j =>
    match s.jobCmd j with
    | none => .next (s.finish job j 1 0)
    | some (n, c) =>
      if c.lost then .next (s.finish job j 0x10 0)
      else if c.completed then .next (s.finish job j 1 0)
      else
        let f := fieldAt j.desc 2 2
        let st : NvmeStatus := { sct := bits f 8 3, sc := bits f 0 8, dnr := bit f 14, crd := bits f 11 2, more := bit f 13 }
        let s1 := (s.setCmd n { c with completed := true }).complete n st (fieldAt j.desc 0x10 4) (fieldAt j.desc 0x14 4)
        .next (s1.finish job j 0 0)

/-! ### Calls (R400, R401) -/

namespace State

/-- The entries of a PORT_CONFIG block. -/
def portEntries (d : Bytes) : List Bytes := (List.range (d.length / 96)).map (fun i => sliceAt d (96 * i) 96)

def portEntryOk (mask cnt : Nat) (e : Bytes) : Bool :=
  decide (fieldAt e 0 1 < cnt) && bit mask (fieldAt e 0 1) && decide (fieldAt e 1 1 < 8) && decide (fieldAt e 2 2 < 4095)
    && decide (1500 ≤ fieldAt e 4 2) && decide (fieldAt e 4 2 ≤ 9000) && decide (1 ≤ fieldAt e 7 1) && decide (fieldAt e 7 1 ≤ 4)
    && decide (fieldAt e 8 4 < 2 ^ 30)

end State

/-- PORT_CONFIG (R369–R371, R400): ENABLE cleared, the configuration applied, ENABLE set. -/
def execPortConfig (call : Nat) (s : State) : Res :=
  match s.libCall call 80 with
  | none => .next s
  | some c =>
    let port := callArg c.entry 0
    let br := callArg c.entry 1
    let en := callArg c.entry 2
    let es := portEntries (s.paramBytes c)
    let n := 2 ^ br
    if port ≥ 8 ∨ br > 3 ∨ en ≥ 2 ^ n ∨ s.hifPresent port = false ∨ callPlen c.entry ≠ 96 * popcount en ∨ es.length ≠ popcount en
        ∨ es.any (fun e => !portEntryOk en n e) = true ∨ (es.map (fun e => fieldAt e 0 1)).eraseDups.length ≠ es.length then
      .next (s.libFail call 0x70)
    else if s.regBit (hifBlk port) 0 = true ∧ s.regBits (hifBlk port) 1 2 ≠ br then .next (s.libFail call 0x71)
    else
      let req := sumBy (fun e => b2n (bit (fieldAt e 1 1) 2) * 2 ^ fieldAt e 0 1) es
      let s1 := s.hifConfig port (s.reg (hifBlk port) &&& ~~~1)
      let s2 := s1.setReg (hifBlk port) (BitVec.ofNat 64 (1 + br * 2 + en * 8 + req * 2 ^ 11))
      let s3 := es.foldl (fun (t : State) e => t.setSub port (fieldAt e 0 1) { t.subPort port (fieldAt e 0 1) with entry := e }) s2
      let s4 := (List.range 8).foldl (fun (t : State) i =>
        if t.subOn port i then t else t.setSub port i { t.subPort port i with up := false, downAt := t.time }) s3
      .next (s4.libDone call)

/-- MACSEC_CAK (R372, R400). -/
def execMacsecCak (call : Nat) (s : State) : Res :=
  match s.libCall call 81 with
  | none => .next s
  | some c =>
    let port := callArg c.entry 0
    let sub := callArg c.entry 1
    if port ≥ 8 ∨ sub ≥ 8 ∨ s.hifPresent port = false ∨ callPlen c.entry ≠ 64 then .next (s.libFail call 0x70) else
    if !s.ladderServes false then .next (s.keyRefused.libFail call 0x81) else
    let s1 := s.setAreaKey 6 (8 * port + sub) (s.paramBytes c)
    .next ((s1.setSub port sub { s1.subPort port sub with mka := true }).libDone call)

/-- HOST_SET (R377, R378, R400, R461): the host's secret is a record of the key area. -/
def execHostSet (call : Nat) (s : State) : Res :=
  match s.libCall call 82 with
  | none => .next s
  | some c =>
    let d := s.paramBytes c
    let nqn := trimZ (d.take 256)
    let fl := fieldAt d 0x100 4
    let others := s.host.hosts.filter (fun h => decide (h.nqn ≠ nqn))
    if callPlen c.entry ≠ 512 ∨ nqn = [] ∨ fl > 7 ∨ fieldAt d 0x104 1 > 3 ∨ fieldAt d 0x105 1 > 6 then .next (s.libFail call 0x70)
    else
    let idx := s.hostIndex nqn
    if bit fl 2 then .next (({ s with host := { s.host with hosts := others } }.delAreaKey 7 idx).libDone call)
    else if others.length ≥ 4096 then .next (s.libFail call 0x72)
    else if !s.ladderServes false then .next (s.keyRefused.libFail call 0x81)
    else
      let h : HostEntry := { nqn := nqn, flags := fl, hash := fieldAt d 0x104 1, dh := fieldAt d 0x105 1, secret := sliceAt d 0x108 64,
                             ctrl := if sliceAt d 0x148 64 = zeros 64 then [] else sliceAt d 0x148 64, idx := idx }
      .next (({ s with host := { s.host with hosts := others ++ [h] } }.setAreaKey 7 idx h.secret).libDone call)

/-- SUBSYSTEM_SET (R374, R400). -/
def execSubsystemSet (call : Nat) (s : State) : Res :=
  match s.libCall call 83 with
  | none => .next s
  | some c =>
    let nqn := trimZ (s.paramBytes c)
    if callPlen c.entry ≠ 256 ∨ nqn = [] then .next (s.libFail call 0x70)
    else .next ({ s with host := { s.host with nqn := nqn } }.libDone call)

/-- PORT_STATUS (R400, R401). -/
def execPortStatus (call : Nat) (s : State) : Res :=
  match s.libCall call 84 with
  | none => .next s
  | some c =>
    let port := callArg c.entry 0
    if port ≥ 8 ∨ s.hifPresent port = false then .next (s.libFail call 0x70) else
    .next (s.libRecords call ((List.range (s.subCount port)).map (fun i =>
      let x := s.subPort port i
      let qs := s.host.queues.filter (fun q => decide (q.2.port = port ∧ q.2.sub = i))
      let cs := s.host.ctrls.filter (fun k => decide (k.2.port = port ∧ k.2.sub = i))
      leBytes 1 port ++ leBytes 1 i ++ leBytes 2 (b2n x.up + 2 * b2n (s.secure port i)) ++ leBytes 2 (if x.up then x.speed else 0) ++ zeros 2
        ++ leBytes 4 cs.length ++ leBytes 4 qs.length ++ leBytes 8 x.rxBytes.toNat ++ leBytes 8 x.txBytes.toNat)))

end Sys2Proof.Machine
end

