-- ==== Sys2Proof/Machine/Cmds.lean ====
section
/-! DEFINITION. What the library does with the host commands of R380 and R382: block reads and writes, deallocations, copies,
and the Key Value commands (R16–R18, R106, R137–R142, R182–R185, R218, R267, R348). -/

namespace Sys2Proof.Machine

namespace State

/-! ### Running commands -/

/-- A command whose entries have been granted, of one of these operations, that no earlier step still occupies. -/
def runCmd (s : State) (n : Nat) (ops : List HostOp) : Option HCmd :=
  match s.hcmd n with
  | some c => if c.phase = .running ∧ c.cap.op ∈ ops ∧ c.fail.isNone ∧ c.search.isNone ∧ (s.plan n).isNone then some c else none
  | none => none

/-- A command that the peer forwarded runs here without a climb; so does one whose climb is not PARKED. -/
def parked (s : State) (c : HCmd) : Bool :=
  match c.climb with
  | some k => decide ((s.climb k).state = .parked)
  | none => false

/-- The pool, the snapshot and the namespace whose map a command reads (R350, R365). -/
def view (s : State) (c : HCmd) : Option (Nat × Option Nat × Nat) :=
  match Tbl.find s.allNs c.cap.nsid with
  | none => none
  | some (p, _) => match c.snap with
    | some (id, src) => some (p, some id, src)
    | none => some (p, none, c.cap.nsid)

/-- The pitches of a byte range: line, and the range within it. -/
def pitches (base : Nat) : Nat → Nat → Nat → List (Nat × Nat × Nat)
  | 0, _, _ => []
  | f + 1, off, len =>
    if len = 0 then [] else
    let k := min len (0x100000 - off % 0x100000)
    (base + off / 0x100000, off % 0x100000, k) :: pitches base f (off + k) (len - k)

def pitchesOf (base off len : Nat) : List (Nat × Nat × Nat) := pitches base (len / 0x100000 + 2) off len

/-- The chunk-store pages that hold some records (R188). -/
def recPages (x : Pool) (hs : List Nat) : List Nat := (hs.filter (fun h => decide (h ≠ 0))).map (fun h => x.num * 2 ^ 44 + 2 ^ 43 + h / 256)

/-- The map pages that some lines need: their own, their hold pages and their extension pages. -/
def pagesOf (x : Pool) (snap : Option Nat) (lns : List Nat) : List Nat :=
  (lns.flatMap (fun ln =>
    let l := lineAt x snap ln
    [ln / 16] ++ (if l.holdMpn = 0 then [] else [l.holdMpn])
      ++ (if l.extMpn = 0 then [] else if l.runs.length > 267 then [l.extMpn, l.extMpn + 1] else [l.extMpn]))).eraseDups

/-- The pages that a write to some lines needs: those of the lines, and the records of the chunks that they name. -/
def writePages (x : Pool) (lns : List Nat) : List Nat :=
  (pagesOf x none lns ++ recPages x (lns.flatMap (fun ln => Pool.lineRefs (x.line ln)))).eraseDups

/-- The leaf page of a live key index in which a key stands or would stand, and, for a change, those that follow it (R183). -/
def keyPages (x : Pool) (snap : Option Nat) (nsid : Nat) (key : Bytes) (onward : Bool) : List Nat :=
  match snap, Tbl.find x.nss nsid with
  | none, some n =>
    let l := n.leaves.drop ((n.objs.filter (fun o => Pool.keyLt o.key key)).length / 63)
    if onward then l else l.take 1
  | _, _ => []

/-- Load requests for the pages that are not in DRAM (R175); true where one is absent. -/
def needPages (s : State) (p : Nat) (climb : Option Nat) (ms : List Nat) : Bool × State :=
  match ms.filter (fun m => s.absentPage p m) with
  | [] => (false, s)
  | l => (true, l.foldl (fun t m => t.requestPage p m climb) s)

/-! ### Reading (R18, R182, R187) -/

/-- What a range of a namespace reads as. -/
inductive RangeRd where
  | ok (bytes : Bytes)
  /-- this chunk has to be searched for (R244) -/
  | search (h : Nat)
  | bad
  deriving DecidableEq, Repr

/-- The chunks that a pitch places in [a, a + len), with their positions; holds over runs. -/
def placed (x : Pool) (l : Line) (a len : Nat) : List (Nat × Int × Bool) :=
  let held := fun (q : Nat) => (Tbl.find l.holds (q / 4096)).isSome
  let runs := (runChunks x l).filter (fun (c : Nat × Int) =>
    let n : Int := if l.fixed then 16384 else ((x.rec' c.1).olen : Int)
    let lo := max (a : Int) c.2
    let hi := min ((a + len : Nat) : Int) (c.2 + n)
    decide (lo < hi) && (List.range ((hi - lo).toNat / 4096 + 2)).any (fun i =>
      let q := lo.toNat / 4096 * 4096 + 4096 * i
      decide ((q : Int) < hi) && !held q))
  let holds := l.holds.filter (fun (h : Nat × Hold) => decide (4096 * h.1 < a + len ∧ a < 4096 * h.1 + 4096))
  runs.map (fun (c : Nat × Int) => (c.1, c.2, false)) ++ holds.map (fun (h : Nat × Hold) => (if h.2.zero then 0 else h.2.handle, ((4096 * h.1 : Nat) : Int), true))

/-- Lay bytes at a signed position over a window that begins at `a`. -/
def overlay (w : Bytes) (a : Nat) (pos : Int) (d : Bytes) : Bytes :=
  let lo := max (a : Int) pos
  let hi := min ((a + w.length : Nat) : Int) (pos + (d.length : Int))
  if hi ≤ lo then w else spliceAt w (lo - (a : Int)).toNat ((d.drop (lo - pos).toNat).take (hi - lo).toNat)

/-- Bytes [a, a + len) of a pitch. A chunk whose LOC leads astray, or whose every trial failed while a reshape retains sources, is
searched for first (R244, R302). -/
def readPitch (s : State) (p : Nat) (l : Line) (a len : Nat) (marks : Marks) : RangeRd × State :=
  (placed (s.pool p) l a len).foldl (fun (st : RangeRd × State) (c : Nat × Int × Bool) =>
    match st.1 with
    | .ok w =>
      if c.2.2 && decide (c.1 = 0) then (.ok (overlay w a c.2.1 (zeros 4096)), st.2) else
      if st.2.locWrong p c.1 then (.search c.1, st.2) else
      match st.2.readChunk p c.1 marks with
      | (some d, t) => (.ok (overlay w a c.2.1 (if c.2.2 then padTo 4096 d else d)), t)
      | (none, t) =>
        if ((t.pool p).rec' c.1).live && !((t.pool p).rec' c.1).lost && (t.pool p).segs.any (fun g => g.2.retained) then (.search c.1, t)
        else (.bad, t)
    | _ => st) (.ok (zeros len), s)

/-- The bytes of some pitch ranges, one after another. -/
def readPitches (p : Nat) (snap : Option Nat) (marks : Marks) : List (Nat × Nat × Nat) → State → RangeRd × State
  | [], s => (.ok [], s)
  | (ln, a, len) :: r, s =>
    match s.readPitch p (lineAt (s.pool p) snap ln) a len marks with
    | (.ok w, s1) =>
      match readPitches p snap marks r s1 with
      | (.ok v, s2) => (.ok (w ++ v), s2)
      | q => q
    | q => q

/-- An object command runs once the leaf pages that it reads are in DRAM (R175, R183). -/
def withKeys (s : State) (p : Nat) (climb : Option Nat) (pages : List Nat) (f : State → State) : State :=
  match s.needPages p climb pages with
  | (true, t) => t
  | (false, t) => f t

/-- A command waits while a chunk is searched for (R244). -/
def waitSearch (s : State) (n h : Nat) : State :=
  match s.hcmd n with
  | some c => s.setCmd n { c with search := some h, since := s.time }
  | none => s

/-- The object record that a command names. -/
def objOf (s : State) (p : Nat) (snap : Option Nat) (src : Nat) (key : Bytes) : Option Obj :=
  (objsAt (s.pool p) src snap).find? (fun o => decide (o.key = key))

/-- Where the bytes that a command reads lie. -/
def readPlaces (s : State) (c : HCmd) (p : Nat) (src : Nat) (off len : Nat) : List (Nat × Nat × Nat) :=
  match Tbl.find (s.pool p).nss src with
  | some n => pitchesOf n.base off len
  | none => []

/-- Read some places for a command: the bytes, or what the step does instead. -/
def fetchPlaces (s : State) (n : Nat) (c : HCmd) (p : Nat) (snap : Option Nat) (ps : List (Nat × Nat × Nat)) (marks : Marks) :
    Option Bytes × State :=
  let x := s.pool p
  let recs := recPages x (ps.flatMap (fun q => (placed x (lineAt x snap q.1) q.2.1 q.2.2).map Prod.fst))
  match s.needPages p c.climb (pagesOf x snap (ps.map Prod.fst) ++ recs).eraseDups with
  | (true, t) => (none, t)
  | (false, t) =>
    match readPitches p snap marks ps t with
    | (.ok d, u) => (some d, u)
    | (.search h, u) => (none, u.waitSearch n h)
    | (.bad, u) => (none, u.finishCmd n stUnrecovered 0 0)

/-- Data goes out with the completion (R386). -/
def sendRead (s : State) (n : Nat) (d : Bytes) (dw0 : Nat) : State :=
  match s.hcmd n with
  | none => s
  | some c =>
    let s1 := s.setCmd n { c with rdata := d }
    let s2 := match s.hqueue c.queue with | some q => s1.txBytes q.port q.sub d.length | none => s1
    s2.finishCmd n stOk dw0 0

/-! ### Forwarding (R309) -/

/-- A submission queue entry of a capsule, in the standard's layout (log entry 41). -/
def sqeOf (c : Capsule) : Bytes :=
  let kv := decide (c.op ∈ [HostOp.store, .retrieve, .delete, .exist, .list])
  let code := match c.op with
    | .read => 0x02 | .write => 0x01 | .flush => 0x00 | .writeZeroes => 0x08 | .dsm => 0x09 | .verify => 0x0C | .copy => 0x19
    | .store => 0x01 | .retrieve => 0x02 | .delete => 0x10 | .exist => 0x14 | .list => 0x06 | .abort => 0x08 | .other o => o
  let k := padTo 16 c.key
  let head := leBytes 1 code ++ [0] ++ leBytes 2 c.cid ++ leBytes 4 c.nsid
  if kv then
    head ++ (k.take 8) ++ zeros 16 ++ zeros 8 ++ leBytes 4 c.len
      ++ leBytes 1 c.key.length ++ leBytes 1 (b2n c.mustExist + 2 * b2n c.mustNotExist) ++ zeros 2 ++ zeros 8 ++ (k.drop 8)
  else
    head ++ zeros 16 ++ leBytes 8 0 ++ leBytes 4 c.sgl ++ zeros 4 ++ leBytes 8 (c.start / 4096) ++ leBytes 4 ((c.len / 4096 + 65535) % 65536 + b2n c.dealloc * 2 ^ 25)
      ++ zeros 12

/-- A command for a pool of the peer crosses the rope with its data. -/
def forwardCmd (s : State) (n : Nat) (c : HCmd) (d : Bytes) : State :=
  (s.setCmd n { c with phase := .forwarded }).sendRope 0x07 false (leBytes 8 n ++ sqeOf c.cap ++ d)

/-- Does this head serve a command's pool itself? -/
def serves (s : State) (c : HCmd) : Bool :=
  match s.nsPool c.cap.nsid with
  | some p => s.owns p
  | none => false

/-- A read-type command: abandoned when its connection is lost (R397), forwarded, or run. -/
def readCmd (s : State) (n : Nat) (ops : List HostOp) (f : HCmd → Nat → Option Nat → Nat → State) : State :=
  match s.runCmd n ops with
  | none => s
  | some c =>
    if c.lost then s.finishCmd n stOk 0 0
    else if s.parked c then s
    else if !s.serves c then s.forwardCmd n c []
    else match s.view c with
      | some (p, snap, src) => f c p snap src
      | none => s.finishCmd n (ofNvme 0 0x0B true) 0 0

/-! ### Writing (R106, R137–R142, R184, R185, R267) -/

/-- Is the region of an aligned 16 KiB promoted to holds (R185)? HEAT counts this write. -/
def promoted (x : Pool) (l : Line) : Bool := decide (min 255 (l.heat + 1) ≥ x.cfg.promote)

/-- The pieces of a block range: line, position in the pitch, form, offset in the data and length. -/
def blockPieces (x : Pool) (base : Nat) : Nat → Nat → Nat → Nat → List (Nat × Nat × Nat × Nat × Nat)
  | 0, _, _, _ => []
  | f + 1, off, at_, len =>
    if len = 0 then [] else
    let ln := base + off / 0x100000
    let q := off % 0x100000
    if off % 16384 = 0 ∧ len ≥ 16384 ∧ promoted x (x.line ln) = false then
      (ln, q / 16384, 1, at_, 16384) :: blockPieces x base f (off + 16384) (at_ + 16384) (len - 16384)
    else (ln, q / 4096, 0, at_, 4096) :: blockPieces x base f (off + 4096) (at_ + 4096) (len - 4096)

/-- The items of some pieces, each a new chunk (R137). -/
def pieceItems (r' p nsid : Nat) (d : Bytes) (marks : Marks) : List (Nat × Nat × Nat × Nat × Nat) → State → List WItem × State
  | [], s => ([], s)
  | (ln, pos, form, at_, len) :: r, s =>
    let (it, s1) := s.chunkItem r' p nsid ln (pos : Int) form (sliceAt d at_ len) marks
    let q := pieceItems r' p nsid d marks r s1
    (it :: q.1, q.2)

/-- A plan of a host command, not yet issued. -/
def mkPlan (p nsid : Nat) (items : List WItem) (key : Option (Bytes × Nat × Nat)) (del : Bool) : WPlan :=
  { pool := p, nsid := nsid, origin := 0, items := items, key := key, delKey := del, seq := 0, due := 0, accepted := false, mods := [],
    pair := none }

/-- Budget that a write draws in THROTTLED (R267). -/
def budgetOf (s : State) (p : Nat) (items : List WItem) : Nat :=
  let k := s.writeWidth p
  if k = 0 then 0 else sumBy (fun (i : WItem) => if i.fresh then i.frame.length else 0) items * (k + 2) / k

/-- Issue a host write (R137, R216, R267): `before` where the budget or a cut keeps it waiting; without a landing unit it waits PARKed,
with its range lock and its buffer (R219). -/
def issueHost (before s : State) (n : Nat) (w : WPlan) : State :=
  let need := if (s.pool w.pool).fill = 1 then s.budgetOf w.pool w.items else 0
  if need > (s.pool w.pool).budget then before else
  let s1 := s.updPool w.pool (fun x => { x with budget := x.budget - need })
  let s2 := s1.heatUp w.pool w.items
  match s2.issuePlan n (s2.cmdRidge n) w with
  | (t, true) => t
  | (t, false) => if (s2.pool w.pool).ckpt.cutting then before else (before.keepSeals t w.pool).waitUnit w.pool n

/-- A write-type command once its data is there: forwarded, or run when the pages it changes are in DRAM. -/
def writeCmd (s : State) (n : Nat) (ops : List HostOp) (f : State → HCmd → Nat → Bytes → List Nat × (State → State)) : State :=
  match s.runCmd n ops with
  | none => s
  | some c =>
    if s.parked c then s else
    match (if takesData c.cap.op && c.fwd.isNone then s.getData n c else (some c.data, s)) with
    | (none, t) => t
    | (some d, t) =>
      if !t.serves c then t.forwardCmd n c d else
      match t.nsPool c.cap.nsid with
      | none => t.finishCmd n (ofNvme 0 0x0B true) 0 0
      | some p =>
        let (pages, act) := f t c p d
        match t.needPages p c.climb pages with
        | (true, u) => u
        | (false, u) => act u

/-- The pieces of a deallocated or zeroed range: whole groups leave the map, the rest become ZERO holds (R181, R380). -/
def zeroPieces (base : Nat) : Nat → Nat → Nat → List (Nat × Nat × Nat)
  | 0, _, _ => []
  | f + 1, off, len =>
    if len = 0 then [] else
    let ln := base + off / 0x100000
    let q := off % 0x100000
    if off % 16384 = 0 ∧ len ≥ 16384 then (ln, q / 16384, 4) :: zeroPieces base f (off + 16384) (len - 16384)
    else (ln, q / 4096, 3) :: zeroPieces base f (off + 4096) (len - 4096)

def zeroItem (z : Nat × Nat × Nat) : WItem :=
  { line := z.1, pos := (z.2.1 : Int), form := z.2.2, handle := 0, fresh := false, digest := [], olen := 4096, loc := 0, frame := [],
    alone := true }

/-- Zero some ranges of a block namespace. -/
def zeroCmd (s : State) (n : Nat) (ops : List HostOp) (ranges : Capsule → List (Nat × Nat)) : State :=
  s.writeCmd n ops (fun t c p _ =>
    let base := match Tbl.find (t.pool p).nss c.cap.nsid with | some z => z.base | none => 0
    let zs := ((ranges c.cap).flatMap (fun r => zeroPieces base (r.2 / 4096 + 2) r.1 r.2)).eraseDups
    (writePages (t.pool p) (zs.map Prod.fst), fun u => issueHost u u n (mkPlan p c.cap.nsid (zs.map zeroItem) none false)))

/-- Write bytes to a block range. -/
def writeBlock (s u : State) (n : Nat) (c : HCmd) (p : Nat) (off : Nat) (d : Bytes) (marks : Marks) : State :=
  let base := match Tbl.find (u.pool p).nss c.cap.nsid with | some z => z.base | none => 0
  let ps := blockPieces (u.pool p) base (d.length / 4096 + 2) off 0 d.length
  let (items, u1) := pieceItems (u.cmdRidge n) p c.cap.nsid d marks ps u
  issueHost s u1 n (mkPlan p c.cap.nsid items none false)

/-! ### Objects (R106, R183) -/

/-- Cut an object's value with the pool's parameters (R106, R108). -/
def cutScan (x : Pool) (d : Bytes) : Scan :=
  let c := x.cfg
  let cap := d.length + 1
  let k := cdcScan c.minLen c.maxLen (2 ^ 32 / (2 ^ c.maskBits - c.minLen)) cap 0 d { ends := [], hash := 0, len := 0, max := 0, full := false }
  scanFinal cap d.length false k

/-- Offsets and lengths of the chunks of an object's value. -/
def cutObject (x : Pool) (d : Bytes) : List (Nat × Nat) :=
  (((cutScan x d).ends.reverse.foldl (fun (st : List (Nat × Nat) × Nat) e => (st.1 ++ [(st.2, e - st.2)], e)) ([], 0)).1)

/-- The items of a value: each chunk once, and named again in every further pitch that it touches. -/
def objectItems (r' p nsid base : Nat) (d : Bytes) (marks : Marks) : List (Nat × Nat) → State → List WItem × State
  | [], s => ([], s)
  | (off, len) :: r, s =>
    match objPlaces base (off : Int) len with
    | [] => objectItems r' p nsid base d marks r s
    | (ln, pos) :: more =>
      let (it, s1) := s.chunkItem r' p nsid ln pos 2 (sliceAt d off len) marks
      let again := more.map (fun (z : Nat × Int) => { it with line := z.1, pos := z.2, fresh := false, frame := [] })
      let q := objectItems r' p nsid base d marks r s1
      (it :: again ++ q.1, q.2)

/-- Keys of an answer to List from a key on, in the order of R183, in the standard's layout (log entry 41). -/
def listKeys (os : List Obj) (start : Bytes) (room : Nat) : Bytes :=
  let after := fun (k : Bytes) => decide (beNat (padTo 16 start) < beNat (padTo 16 k)
    ∨ (beNat (padTo 16 start) = beNat (padTo 16 k) ∧ start.length ≤ k.length))
  let ks := (os.map Obj.key).filter after
  let enc := fun (k : Bytes) => leBytes 2 k.length ++ padTo ((k.length + 5) / 4 * 4 - 2) k
  let r := ks.foldl (fun (st : Nat × Bytes) k => if st.2.length + (enc k).length + 4 ≤ room then (st.1 + 1, st.2 ++ enc k) else (st.1, st.2)) (0, [])
  leBytes 4 r.1 ++ r.2

def stNoKey : NvmeStatus := ofNvme 0 0x87 true
def stKeyExists : NvmeStatus := ofNvme 0 0x89 true

end State

open State

/-! ### Commands -/

/-- READ (R18, R182, R380, R386). -/
def execRead (cmd : Nat) (marks : List (Nat × Nat × Nat × Nat)) (s : State) : Res :=
  .next (s.readCmd cmd [.read] (fun c p snap src =>
    match s.fetchPlaces cmd c p snap (s.readPlaces c p src c.cap.start c.cap.len) marks with
    | (some d, t) => t.sendRead cmd d 0
    | (none, t) => t))

/-- VERIFY (R18, R380): reads, decodes, checks; returns nothing. -/
def execVerify (cmd : Nat) (marks : List (Nat × Nat × Nat × Nat)) (s : State) : Res :=
  .next (s.readCmd cmd [.verify] (fun c p snap src =>
    match s.fetchPlaces cmd c p snap (s.readPlaces c p src c.cap.start c.cap.len) marks with
    | (some _, t) => t.finishCmd cmd stOk 0 0
    | (none, t) => t))

/-- WRITE (R16, R106, R137–R142, R185): data in, pieces cut, chunks placed; the completion follows the landing. -/
def execWrite (cmd : Nat) (marks : List (Nat × Nat × Nat × Nat)) (s : State) : Res :=
  .next (s.writeCmd cmd [.write] (fun t c p d =>
    let base := match Tbl.find (t.pool p).nss c.cap.nsid with | some z => z.base | none => 0
    (writePages (t.pool p) ((pitchesOf base c.cap.start c.cap.len).map Prod.fst), fun u => writeBlock u u cmd c p c.cap.start d marks)))

/-- FLUSH (R380, R392): completes at once. -/
def execFlush (cmd : Nat) (s : State) : Res :=
  .next (match s.runCmd cmd [.flush] with
    | some _ => s.finishCmd cmd stOk 0 0
    | none => s)

/-- WRITE_ZEROES (R181, R380). -/
def execWriteZeroes (cmd : Nat) (s : State) : Res :=
  .next (s.zeroCmd cmd [.writeZeroes] (fun c => [(c.start, c.len)]))

/-- DATASET_MANAGEMENT (R181, R380): deallocate. -/
def execDatasetManagement (cmd : Nat) (s : State) : Res :=
  .next (s.zeroCmd cmd [.dsm] (fun c => c.ranges))

/-- COPY (R380): the source is read and written at the destination; equal chunks are shared as in any write. -/
def execCopy (cmd : Nat) (marks : List (Nat × Nat × Nat × Nat)) (s : State) : Res :=
  .next (s.writeCmd cmd [.copy] (fun t c p _ =>
    let base := match Tbl.find (t.pool p).nss c.cap.nsid with | some z => z.base | none => 0
    let src := (c.cap.ranges.headD (0, 0)).1
    let a := pitchesOf base src c.cap.len
    let b := pitchesOf base c.cap.start c.cap.len
    (writePages (t.pool p) ((a ++ b).map Prod.fst), fun u =>
      match u.fetchPlaces cmd c p none a marks with
      | (some d, v) => writeBlock u v cmd c p c.cap.start d marks
      | (none, v) => v)))

/-- STORE (R106, R137, R183, R382). -/
def execStore (cmd : Nat) (marks : List (Nat × Nat × Nat × Nat)) (s : State) : Res :=
  .next (s.writeCmd cmd [.store] (fun t c p d =>
    let old := t.objOf p none c.cap.nsid c.cap.key
    let olds := match old with | some o => (List.range (ceilDiv o.len 0x100000)).map (fun i => o.base + i) | none => []
    ((keyPages (t.pool p) none c.cap.nsid c.cap.key true ++ writePages (t.pool p) olds).eraseDups, fun u =>
      if c.cap.mustExist && old.isNone then u.finishCmd cmd stNoKey 0 0
      else if c.cap.mustNotExist && old.isSome then u.finishCmd cmd stKeyExists 0 0
      else
        let k := cutScan (u.pool p) d
        let (base, u1) := (u.libCut (u.cmdRidge cmd) d.length k.ends.length k.max).newBase p d.length
        let (items, u2) := objectItems (u.cmdRidge cmd) p c.cap.nsid base d marks (cutObject (u1.pool p) d) u1
        issueHost u u2 cmd (mkPlan p c.cap.nsid items (some (c.cap.key, d.length, base)) false))))

/-- DELETE (R183, R382). -/
def execDelete (cmd : Nat) (s : State) : Res :=
  .next (s.writeCmd cmd [.delete] (fun t c p _ =>
    match t.objOf p none c.cap.nsid c.cap.key with
    | none => (keyPages (t.pool p) none c.cap.nsid c.cap.key false, fun u => u.finishCmd cmd stNoKey 0 0)
    | some o => ((keyPages (t.pool p) none c.cap.nsid c.cap.key true
          ++ writePages (t.pool p) ((List.range (ceilDiv o.len 0x100000)).map (fun i => o.base + i))).eraseDups,
        fun u => issueHost u u cmd (mkPlan p c.cap.nsid [] (some (c.cap.key, o.len, o.base)) true))))

/-- RETRIEVE (R382): the value, as much as the host's buffer takes; Dword 0 is its size. -/
def execRetrieve (cmd : Nat) (marks : List (Nat × Nat × Nat × Nat)) (s : State) : Res :=
  .next (s.readCmd cmd [.retrieve] (fun c p snap src =>
    s.withKeys p c.climb (keyPages (s.pool p) snap src c.cap.key false) (fun u =>
    match u.objOf p snap src c.cap.key with
    | none => u.finishCmd cmd stNoKey 0 0
    | some o =>
      match u.fetchPlaces cmd c p snap (pitchesOf o.base 0 (min o.len c.cap.len)) marks with
      | (some d, t) => t.sendRead cmd d o.len
      | (none, t) => t)))

/-- EXIST (R382). -/
def execExist (cmd : Nat) (s : State) : Res :=
  .next (s.readCmd cmd [.exist] (fun c p snap src =>
    s.withKeys p c.climb (keyPages (s.pool p) snap src c.cap.key false) (fun u =>
    match u.objOf p snap src c.cap.key with
    | none => u.finishCmd cmd stNoKey 0 0
    | some _ => u.finishCmd cmd stOk 0 0)))

/-- LIST (R382). -/
def execList (cmd : Nat) (s : State) : Res :=
  .next (s.readCmd cmd [.list] (fun c p snap src =>
    s.withKeys p c.climb (keyPages (s.pool p) snap src c.cap.key true) (fun u =>
    u.sendRead cmd (listKeys (objsAt (u.pool p) src snap) c.cap.key c.cap.len) 0)))

/-- ABORT (R376): nothing is aborted; Dword 0 bit 0 says so. -/
def execAbort (cmd : Nat) (s : State) : Res :=
  .next (match s.runCmd cmd [.abort] with
    | some _ => s.finishCmd cmd stOk 1 0
    | none => s)

end Sys2Proof.Machine
end

