-- ==== Sys2Proof/Machine/Recovery.lean ====
section
/-! DEFINITION. Recovery of a pool that a head assembles (R228, R241–R243, R283, R295): the anchor and its image, the
flushed journal, the landing logs, and the tag scan. -/

namespace Sys2Proof.Machine

/-- Cut a stream of entries into groups: the valid ones in order, and how many were torn (R228). -/
def parseGroups : Nat → List Bytes → List Group → Nat → List Group × Nat
  | 0, _, gs, torn => (gs, torn)
  | _, [], gs, torn => (gs, torn)
  | f + 1, e :: rest, gs, torn =>
    if eTyp e ≠ 1 then parseGroups f rest gs torn else
    let n := fieldAt e 0x18 2
    let es := (e :: rest).take n
    if groupOk true es then parseGroups f ((e :: rest).drop n) (gs ++ [{ seq := fieldAt e 8 8, entries := es }]) torn
    else parseGroups f rest gs (torn + 1)

namespace State

/-- A journal page on any of the three slabs of a triple (R242). -/
def jpageOf (s : State) (triple : List Nat) (i : Nat) : Option Bytes :=
  triple.findSome? (fun a =>
    if !s.modUp (saMod a) then none else
    match Tbl.find (s.mslab a).pages i with
    | some f => if !f.bad && pageOk f.bytes && decide (fieldAt f.bytes 4097 1 = 6) then some f.bytes else none
    | none => none)

/-- The pages of a triple from page `i` until one is absent on all three. -/
def jpages (s : State) (triple : List Nat) : Nat → Nat → Bytes
  | 0, _ => []
  | f + 1, i => match s.jpageOf triple i with
    | some b => pageData b ++ s.jpages triple f (i + 1)
    | none => []

/-- The SLAB entries of some groups that assign journal slabs, as triples in the order of their serials (R233). -/
def nextTriples (gs : List Group) : List (List Nat) :=
  let es := gs.flatMap (fun g => g.body.filter (fun e => decide (eTyp e = 0x0B) && decide (fieldAt e 0x0E 1 = 3)))
  let sers := (es.map (fun e => fieldAt e 0x10 4)).eraseDups
  sers.map (fun n => (es.filter (fun e => decide (fieldAt e 0x10 4 = n))).map (fun e => saRead e 8))

/-- The flushed journal from a triple and a page on, following SLAB entries from triple to triple (R241 step 3); `known` is a triple
that was assigned before the page. -/
def readJournal (s : State) (known : List (List Nat)) : Nat → List (List Nat) → List Nat → Nat → List Group × Nat × List (List Nat)
  | 0, done, t, _ => ([], 0, done ++ [t])
  | f + 1, done, t, page =>
    let es := entriesOf (s.jpages t 4096 page)
    let (gs, torn) := parseGroups (es.length + 1) es [] 0
    match (known ++ nextTriples gs).find? (fun n => !decide (n ∈ done ++ [t])) with
    | some n =>
      let r := readJournal s known f (done ++ [t]) n 0
      (gs ++ r.1, torn + r.2.1, r.2.2)
    | none => (gs, torn, done ++ [t])

/-- The groups of a landing-log slab (R441). -/
def logGroups (s : State) (sa : Nat) : List Group :=
  let ps := (s.mslab sa).pages
  ps.filterMap (fun q =>
    let b := q.2.bytes
    if q.2.bad || !pageOk b || decide (fieldAt b 4097 1 ≠ 5) || decide (fieldAt b (4096 + 0x26) 2 ≠ 0) then none else
    let len := fieldAt b (4096 + 0x28) 4
    let d := (List.range (ceilDiv len 4096)).flatMap (fun i => match Tbl.find ps (q.1 + i) with
      | some f => pageData f.bytes
      | none => [])
    let es := entriesOf (d.take len)
    if groupOk true es then some { seq := fieldAt (es.getD 0 []) 8 8, entries := es } else none)

/-- Does a page of a unit's slab carry a valid tag of KIND 1 with this SEQ and HANDLE? -/
def landTag (s : State) (sa page seq h : Nat) : Bool :=
  match Tbl.find (s.mslab sa).pages page with
  | some f => s.modUp (saMod sa) && !f.bad && pageOk f.bytes && decide (fieldAt f.bytes 4097 1 = 1)
      && decide (fieldAt f.bytes (4096 + 0x10) 8 = seq) && decide (fieldAt f.bytes (4096 + 0x20) 6 = h)
  | none => false

/-- The landing-log test of R242: each page that a CHUNK entry names is there with its tag, on one copy at least. -/
def groupLanded (s : State) (x : Pool) (g : Group) : Bool :=
  (g.body.filter (fun e => decide (eTyp e = 2))).all (fun e =>
    let r : CRec := { loc := fieldAt e 0x10 8, ref := fieldAt e 0x18 8 }
    !r.biv || match Tbl.find x.units r.seg with
      | some u => (List.range (ceilDiv r.flen 4096)).all (fun i =>
          s.landTag u.a (r.off / 4096 + i) g.seq (fieldAt e 8 6) || s.landTag u.b (r.off / 4096 + i) g.seq (fieldAt e 8 6))
      | none => false)

/-- SEQs that CANCEL entries name. -/
def cancelled (gs : List Group) : List Nat :=
  gs.flatMap (fun g => (g.body.filter (fun e => decide (eTyp e = 0x0F))).map (fun e => fieldAt e 8 8))

/-- SEQs that replay skips (R242): a group is applied once a group read has a TIME 20 ms (2,000,000 ticks) past its own, or at the
end; a CANCEL skips it that was read by then. -/
def skippedSeqs (gs : List Group) : List Nat :=
  (gs.filter (fun g =>
    let upto := gs.takeWhile (fun y => decide (y.time.toNat < g.time.toNat + 2000000))
    decide (g.seq ∈ cancelled (gs.take (upto.length + 1))))).map Group.seq

/-- Insert a group in SEQ order; of two with one SEQ the higher EPOCH stays (R242). -/
def insGroup (l : List Group) (g : Group) : List Group :=
  match l.find? (fun y => decide (y.seq = g.seq)) with
  | some y => if y.epoch ≥ g.epoch then l else l.map (fun z => if z.seq = g.seq then g else z)
  | none => l.filter (fun y => decide (y.seq < g.seq)) ++ [g] ++ l.filter (fun y => decide (y.seq > g.seq))

/-- The programmed pages of a slab end here. -/
def pagesEnd (s : State) (sa : Nat) : Nat := (s.mslab sa).pages.foldl (fun a q => max a (q.1 + 1)) 0

/-- Does row `r` of a segment count (R243, R283)? Every member on a present module carries valid tags naming it, and at most
two members are on failed modules. -/
def rowThere (s : State) (n : Nat) (g : Seg) (r : Nat) : Bool :=
  let away := g.members.filter (fun m => !s.modUp (saMod m.slab))
  decide (away.length ≤ 2) && g.members.all (fun m => !s.modUp (saMod m.slab) || (List.range 16).all (fun i =>
    match Tbl.find (s.mslab m.slab).pages (16 * r + i) with
    | some f => !f.bad && pageOk f.bytes && decide (fieldAt f.bytes (4096 + 4) 4 = n) && decide (2 ≤ fieldAt f.bytes 4097 1)
    | none => false))

/-- Rows of a rebuild target whose tags verify and name segment and member, from row `r` on (R295). -/
def rebuiltRows (s : State) (n i sa : Nat) : Nat → Nat → Nat
  | 0, r => r
  | f + 1, r =>
    if (List.range 16).all (fun j => match Tbl.find (s.mslab sa).pages (16 * r + j) with
      | some x => !x.bad && pageOk x.bytes && decide (fieldAt x.bytes (4096 + 4) 4 = n) && decide (fieldAt x.bytes (4096 + 0x0A) 1 = i)
      | none => false) then rebuiltRows s n i sa f (r + 1) else r

/-- Complete rows of an open segment from row `r` on, in the regions whose bits are set (R243, R283). -/
def scanFrom (s : State) (n : Nat) (g : Seg) : Nat → Nat → Nat
  | 0, r => r
  | f + 1, r => if bit g.regions (r / 64) && s.rowThere n g r then s.scanFrom n g f (r + 1) else r

/-- Complete rows of an open segment (R243, R283): the rows before its first set region, and those after the last that the journal
shows as far as they count. -/
def scanRows (s : State) (n : Nat) (g : Seg) : Nat :=
  s.scanFrom n g 1024 (max g.rows (64 * ((List.range 16).find? (fun i => bit g.regions i)).getD 0))

/-- The newest anchor of a pool on the modules this head can read, as the superblock that carries it. Of pools that have had one number the
one created last counts. -/
def newestAnchor (s : State) (p : Nat) : Option Bytes :=
  let sbs := s.modules.filterMap (fun m => if s.modUp m.1 then s.sbRead m.1 p else none)
  let made := sbs.foldl (fun a b => max a (fieldAt b 0x18 8)) 0
  let ok := (sbs.filter (fun b => decide (fieldAt b 0x18 8 = made))).filter (fun b => decide (fieldAt b 0xFC 4 = crc32c (sliceAt b 0x80 124)))
  ok.foldl (fun a b => match a with
    | some c => if fieldAt b 0x88 8 > fieldAt c 0x88 8 then some b else some c
    | none => some b) none

/-! ### The checkpoint image (R241 step 2, R247) -/

/-- A checkpoint page as some slabs of the chains hold it: the first that verifies. -/
def chainPage (s : State) (slabs : List Nat) (i : Nat) : Option Bytes :=
  slabs.findSome? (fun a =>
    if !s.modUp (saMod a) then none else
    match Tbl.find (s.mslab a).pages i with
    | some f => if !f.bad && pageOk f.bytes && decide (fieldAt f.bytes 4097 1 = 7) then some (pageData f.bytes) else none
    | none => none)

/-- The image that the chains hold from some slabs on: each page from whichever chain has it readable, each chain's next slab from its
own last page. -/
def chainRead (s : State) : Nat → List Nat → Nat → Option Bytes
  | 0, _, _ => none
  | f + 1, slabs, len =>
    let n := min 4095 (ceilDiv len 4096)
    let ps := (List.range n).map (fun i => s.chainPage slabs i)
    if ps.any Option.isNone then none else
    let d := (ps.flatMap (fun o => o.getD [])).take len
    if d.length ≥ len then some d else
    (chainRead s f (slabs.filterMap (fun a => (s.chainPage [a] n).map (fun b => saRead b 0))) (len - d.length)).map (d ++ ·)

/-- The root records, the page directory and the segment table of an image; no page is loaded yet. The tables that the spec saves without
a layout (namespaces, slabs, units, snapshots, pairs) come from the copy that the checkpoint kept (log entry 37). -/
def readImage (b : Bytes) (rootLen dirLen : Nat) (tables : Pool) : Pool :=
  let n := rootLen / 4104
  let roots := (List.range n).foldl (fun (t : Tbl CRec) i =>
    let loc := fieldAt b (4096 * n + 8 * i) 8
    let at_ := bits loc 32 27 * 16
    (List.range 256).foldl (fun t j =>
      let r : CRec := { loc := fieldAt b (at_ + 16 * j) 8, ref := fieldAt b (at_ + 16 * j + 8) 8 }
      if r.loc = 0 ∧ r.ref = 0 then t else Tbl.set t ((2 ^ 39 + bits loc 0 32 % 2 ^ 24) * 256 + j) r) t) []
  let dir := (List.range (dirLen / 24)).foldl (fun (t : Tbl DirE) i =>
    let o := rootLen + 24 * i
    let d := DirE.fresh
    Tbl.set t (fieldAt b o 8) { d with present := bit (fieldAt b (o + 8) 8) 0, flash := fieldAt b (o + 16) 6, epoch := fieldAt b (o + 22) 2 }) []
  { tables with
    recs := roots, dir := dir, segs := segTableRead (b.drop (rootLen + dirLen)) tables.segs, lines := [], digests := [],
    nss := tables.nss.map (fun (q : Nat × Ns) => (q.1, { q.2 with objs := [] })) }

/-- The pool as the checkpoint of an anchor holds it. -/
def flashImage (s : State) (sb : Bytes) (tables : Pool) : Pool :=
  let (r, d, o) := (fieldAt sb (0x80 + 0x50) 8, fieldAt sb (0x80 + 0x48) 8, fieldAt sb (0x80 + 0x58) 8)
  match s.chainRead 64 ([0, 1, 2].map (fun i => saRead sb (0x80 + 0x20 + 6 * i))) (r + d + o) with
  | some b => readImage b r d tables
  | none => tables

/-- Does a page stand among the pitch pages of some namespace? -/
def pitchPage (x : Pool) (mpn : Nat) : Bool :=
  x.nss.any (fun q => (decide (q.2.kind = 0) && decide (q.2.base / 16 ≤ mpn) && decide (16 * mpn < q.2.base + q.2.size / 0x100000))
    || q.2.objs.any (fun o => decide (o.base / 16 ≤ mpn) && decide (16 * mpn < o.base + ceilDiv o.len 0x100000)))

/-- The pages that the directory names on flash are read into the image: leaf pages first, then pitch pages, then the pages that pitches
name. `at_` has the places of their chunks. A page that no copy verifies stays unloaded (R176). -/
def loadPages (s : State) (p : Nat) (at_ x : Pool) : Pool :=
  let t := s.setPool p at_
  let put := fun (y : Pool) (m : Nat) => match (t.readMeta p (y.dirE m).flash []).1 with
    | some b => loadPage y m (b.take 4096)
    | none => y
  let on := (x.dir.filter (fun q => decide (q.2.flash ≠ 0))).map Prod.fst
  let leaves := x.nss.flatMap (fun q => q.2.leaves)
  let x1 := (leaves.filter (fun m => decide (m ∈ on))).foldl put x
  let rest := on.filter (fun m => !decide (m ∈ leaves))
  let x2 := (rest.filter (fun m => pitchPage x1 m)).foldl put x1
  (rest.filter (fun m => !pitchPage x1 m)).foldl put x2

/-- The image of an anchor as this head takes it up: pages come on demand (R175, R241 step 2). -/
def loadImage (im live : Pool) (gen start : Nat) (jat : List Nat) (jp : Nat) : Pool :=
  { im with
    rel := live.rel, epoch := live.epoch, ownerTerm := live.ownerTerm, ownerTime := live.ownerTime, jbuf := [], flushes := [],
    waiting := [], cancels := [], durable := 0, triple := jat, triples := [], nextTriple := [], jclose := false, jpage := jp, acked := 0, sentSeqs := [],
    shadowLop := [], shadowQ := [], unitWait := [],
    pairs := im.pairs.map (fun (q : Nat × RPair) => (q.1, { q.2 with connected := false, backoff := 0, retryAt := 0, work := [], fetches := [] })),
    units := im.units.map (fun (q : Nat × LUnit) => (q.1, { q.2 with ridge := 0xFF })),
    dir := im.dir.map (fun q => (q.1, { q.2 with resident := decide (q.2.flash = 0), loading := false, waiters := [], dirty := decide (q.2.flash = 0) })),
    ckpt := { im.ckpt with gen := gen, startSeq := start, stage := 0, writing := none, chain := im.ckpt.newChain, newChain := [],
                           jat := jat, jp := jp, flushed := 2 ^ 30, cutting := false, anchorAt := im.ckpt.at_ },
    recovering := false, closed := true, moveTo := none }

/-- Of two groups that carry one SEQ, the one with the lower EPOCH, which is not applied (R242). -/
def outdone (l : List Group) : List Group :=
  l.filter (fun g => l.any (fun y => decide (y.seq = g.seq) && decide (y.epoch > g.epoch)))

/-- Replay of an anchor and its flushed journal (R241 steps 1 to 3): the pool, the groups read, those applied, the torn ones, and the
triples. The pages of the image are read where the replayed journal has moved their chunks to. -/
def replayImage (s : State) (p : Nat) (sb : Bytes) : Pool × List Group × List Group × Nat × List (List Nat) :=
  let gen := fieldAt sb 0x88 8
  let start := fieldAt sb 0x90 8
  let jat := [0, 1, 2].map (fun i => saRead sb (0x80 + 0x32 + 6 * i))
  let jp := fieldAt sb (0x80 + 0x44) 4
  let live := s.pool p
  let tables := Tbl.getD s.ckpts (2 ^ 64 * p + gen) live
  let im0 := loadImage (s.flashImage sb tables) live gen start jat jp
  let (flushed, torn, triples) := s.readJournal (if tables.nextTriple.isEmpty then [] else [tables.nextTriple]) 64 [] jat jp
  let fl := (flushed.filter (fun g => decide (g.seq ≥ start))).foldl insGroup []
  let no := skippedSeqs flushed
  let apply := fun (x : Pool) => (fl.filter (fun g => !decide (g.seq ∈ no))).foldl (fun y g => y.applyGroup g) x
  (apply (s.loadPages p (apply im0) im0), flushed, fl, torn, triples)

/-- Recovery (R241): the pool as replayed, with the last SEQ applied, the groups skipped and the rows discarded; open
segments are closed short, units keep their dead pages, and what a RELEASE names is erased again (R239). -/
def recoverPool (s : State) (p : Nat) (sb : Bytes) : State :=
  let start := fieldAt sb 0x90 8
  let jat := [0, 1, 2].map (fun i => saRead sb (0x80 + 0x32 + 6 * i))
  let live := s.pool p
  let (x1, flushed, fl, torn, triples) := s.replayImage p sb
  let durable := flushed.foldl (fun a g => max a g.seq) 0
  let apply := fun (x : Pool) (l : List Group) (no : List Nat) => (l.filter (fun g => !decide (g.seq ∈ no))).foldl (fun y g => y.applyGroup g) x
  let slabs := x1.logs.flatMap (fun q => q.2.cur :: q.2.spare.toList ++ q.2.olds.map Prod.fst)
  let logs := (slabs.flatMap (fun a => if s.modUp (saMod a) then s.logGroups a else [])).filter (fun g => decide (g.seq > durable))
  let ll := logs.foldl insGroup []
  let no := skippedSeqs (flushed ++ logs)
  let good := ll.filter (fun g => s.groupLanded x1 g || decide (g.origin ≠ 0))
  let x2 := apply x1 good no
  let last := (fl ++ good).foldl (fun a g => max a g.seq) start
  let skipped := torn + ((fl ++ ll).filter (fun g => decide (g.seq ∈ no))).length + (ll.length - good.length)
  let dy := (x2.recs.filter (fun q => q.2.valid && q.2.dying && !q.2.isMeta && x2.cfg.dedup)).map Prod.fst
  let x3 := { x2 with
    seq := last + 2 ^ 20, durable := last, dying := dy, epoch := live.epoch,
    triple := triples.getLastD jat, triples := triples.dropLast, jpage := (triples.getLastD jat).foldl (fun a t => max a (s.pagesEnd t)) 0,
    units := x2.units.map (fun q => (q.1, { q.2 with next := max q.2.next (max (s.pagesEnd q.2.a) (s.pagesEnd q.2.b)) })),
    segs := x2.segs.map (fun (q : Nat × Seg) => if q.2.state = 0 then
      (q.1, { q.2 with rows := s.scanRows q.1 q.2, buffer := [], moving := [], due := [], flying := 0, regDue := [] })
      else (q.1, { q.2 with members := (List.range q.2.members.length).map (fun i =>
        let m := q.2.members.getD i { slab := 0, state := 0, rows := 0 }
        if m.state = 2 then { m with rows := s.rebuiltRows q.1 i m.slab 1024 m.rows } else m) })) }
  let torn' := sumBy (fun q => if q.2.state = 0 then
      (q.2.members.foldl (fun a m => max a (ceilDiv (s.pagesEnd m.slab) 16)) 0) - q.2.rows else 0) x3.segs
  let s1 := (s.setPool p x3).settleDying p
  let s2 := (x3.segs.filter (fun q => decide (q.2.state = 0))).foldl (fun t q => t.closeSeg p q.1) s1
  let s3 := s2.submit p 4 [eHeat p x3.cfg.promote x3.cfg.demote x3.cfg.decay]
  let again := (x3.units.filter (fun q => q.2.released)).flatMap (fun q => [q.2.a, q.2.b])
    ++ (x3.segs.filter (fun q => decide (q.2.state = 3))).flatMap (fun q => q.2.members.map Member.slab)
  let s4 := s3.addSvcs ((again.filter (fun a => decide ((x3.slabUse a).use ≠ 6))).map (fun a => .erase p a))
  let s5 := (outdone (flushed ++ logs)).foldl (fun t g => t.libBook 0x102 (leBytes 8 g.seq ++ leBytes 4 g.epoch)) s4
  (s5.libBook 0x102 (leBytes 8 last ++ leBytes 4 skipped ++ leBytes 4 torn')).setRedundancy p

end State

/-! ### Commands -/

/-- RECOVERY (R241): a pool that this head took at start-up is recovered; it opens to hosts once the first anchor is durable.
With every owned pool recovered, a head in BRINGUP enters SOLO (R536). -/
def execRecovery (pool : Nat) (s : State) : Res :=
  if !s.owns pool || !(s.pool pool).recovering then .next s else
  match s.newestAnchor pool with
  | none => .next s
  | some sb =>
    let s1 := s.recoverPool pool sb
    if s1.pwr.mode = 3 ∧ s1.pair.headIdClash = false ∧ !s1.pools.any (fun q => decide (q.2.rel = .owner) && q.2.recovering) then
      .next (s1.setMode 6)
    else .next s1

end Sys2Proof.Machine
end

