-- ==== Sys2Proof/Machine/Pairing.lean ====
section
/-! DEFINITION. Pairing (R306–R343): rope frames and sessions, leases, shared time, shadowing, forwarding, the Cairn, votes,
fencing, adoption, dual-send, joining, planned moves and the pair routes. -/

namespace Sys2Proof.Machine

namespace State

/-! ### The rope as a receiver (R314–R317) -/

def ropeEvent (s : State) (flag : Nat) : State := s.raise rRopeEvents (2 ^ flag)
def crnEvent (s : State) (flag : Nat) : State := s.raise rCrnEvents (2 ^ flag)

/-- A discard that FRAMES_BAD.FORMAT counts. -/
def badFormat (s : State) : State := ({ s with rope := { s.rope with badFormat := s.rope.badFormat + 1 } }).ropeEvent 5
def badAuth (s : State) : State := ({ s with rope := { s.rope with badAuth := s.rope.badAuth + 1 } }).ropeEvent 4

/-- Does a frame verify under a key? -/
def frameOk (k : RopeKey) (f : Bytes) : Bool :=
  let n := fieldAt f 4 4
  decide (gcmTag k.key (ropeIv k (fieldAt f 8 8)) (f.take 24) ((f.drop 24).take n) = sliceAt f (24 + n) 16)

/-- An accepted frame: COUNTER, and what its ACK acknowledges. An ACK above the counter of this session speaks of the one before. -/
def acceptFrame (s : State) (f : Bytes) : State :=
  let ack := fieldAt f 0x10 8
  let left := if ack ≤ s.rope.txCount then s.rope.unacked.filter (fun p => decide (p.1 > ack)) else s.rope.unacked
  ({ s with rope := { s.rope with
      rxCount := s.rope.rxCount + 1, unacked := left,
      ackAt := if left.length = s.rope.unacked.length then s.rope.ackAt else s.time } }).ropeDrain

/-- Receive a frame of one TYPE (R316): its payload when it is accepted, and the state. -/
def recvRope (s : State) (typ : Nat) (f : Bytes) : Option Bytes × State :=
  let n := fieldAt f 4 4
  let t := fieldAt f 2 1
  if f.length < 40 ∨ f.length ≠ 40 + n ∨ fieldAt f 0 2 ≠ 0x9E17 ∨ t < 1 ∨ t > 10 ∨ n > 16384 then (none, s.badFormat)
  else if t ≠ typ then (none, s)
  else
    let open' := fun (k : RopeKey) => gcmCrypt k.key (ropeIv k (fieldAt f 8 8)) ((f.drop 24).take n)
    match s.rope.rxKey with
    | none => (none, s)
    | some k =>
      if frameOk k f then
        if fieldAt f 8 8 = s.rope.rxCount + 1 then (some (open' k), s.acceptFrame f) else (none, s)
      else match s.rope.rxNext with
        | some k2 =>
          if frameOk k2 f ∧ fieldAt f 8 8 = 1 then
            (some (open' k2), ({ s with rope := { s.rope with rxKey := some k2, rxNext := none, rxCount := 0 } }).acceptFrame f)
          else (none, s.badAuth)
        | none => (none, s.badAuth)

/-- Act on an accepted frame. -/
def withFrame (s : State) (typ : Nat) (f : Bytes) (act : Bytes → State → State) : State :=
  match s.recvRope typ f with
  | (some d, t) => act d t
  | (none, t) => t

/-- A CONTROL frame with this OP. -/
def withControl (s : State) (op : Nat) (f : Bytes) (act : Nat → Nat → State → State) : State :=
  let r := s.recvRope 9 f
  match r.1 with
  | some d => if fieldAt d 0 1 = op then act (fieldAt d 1 2) (fieldAt d 8 8) r.2 else s
  | none => r.2

def sendControl (s : State) (op pools arg : Nat) : State :=
  s.sendRope 9 false (leBytes 1 op ++ leBytes 2 pools ++ zeros 5 ++ leBytes 8 arg)

/-- The keys of session `n` since link-up (R459, R464): sending, receiving. -/
def sessionKeys (s : State) (n : Nat) : Option (RopeKey × RopeKey) :=
  match s.pairSecret, s.rope.nonces with
  | some secret, some (a, b) =>
    let k := kdf secret "CK-ROPE" (a ++ b ++ beBytes 4 n) 68
    let id := leNat (k.drop 64)
    let k01 : RopeKey := { session := id, key := sliceAt k 0 32 }
    let k10 : RopeKey := { session := id, key := sliceAt k 32 32 }
    some (if s.headId = 0 then (k01, k10) else (k10, k01))
  | _, _ => none

/-- Switch the sending direction to the next session, naming it in a REKEY frame (R317). Frames still unacknowledged under
the old one are not sent again. -/
def rekeyTx (s : State) : State :=
  match s.sessionKeys (s.rope.linkRekeys + 1) with
  | none => s
  | some (tx, rx) =>
    let s1 := s.sendControl 4 0 tx.session
    ({ s1 with rope := { s1.rope with
        txKey := some tx, rxNext := some rx, txCount := 0, unacked := [], sessionAt := s.time, rekeys := s.rope.rekeys + 1,
        linkRekeys := s.rope.linkRekeys + 1 } }).ropeEvent 8

/-- TIME × 16 plus the CLK_CORE cycle (R320). -/
def stampT (s : State) : Nat := s.time.toNat * 16 + s.subTick % 16

/-! ### Modes of the pair (R536) -/

/-- Is this head live shadow of every pool of the peer, and the peer of every pool of this head? -/
def bothLive (s : State) : Bool :=
  s.rope.linkUp && !s.pair.solo && decide (s.rope.peerOwned &&& s.shadowMask = s.rope.peerOwned)
    && decide (s.ownedMask &&& s.pair.peerCaught = s.ownedMask)

/-- Leave HANDOVER once every grant and move has ended. -/
def settleMode (s : State) : State :=
  if s.pwr.mode = 7 ∧ s.crn.votes.isEmpty ∧ s.pair.moves.isEmpty ∧ (match s.pair.fence with | some f => decide (f.pools = 0) | none => true) = true then
    if s.bothLive then s.setMode 5
    else if s.ownedMask = 0 ∧ s.shadowMask = 0 then s.setMode 4 else s.setMode 6
  else s

/-- The changes of mode that the peer's state brings (R306, R340, R536); a join that is complete is recorded (R343). -/
def pairMode (s : State) : State :=
  let served := decide (s.rope.peerMode ∈ [4, 5, 6, 7])
  if s.pwr.mode = 3 ∧ served ∧ s.pair.headIdClash = false then s.setMode 4
  else if s.pwr.mode = 4 ∧ s.rope.peerMode ∈ [5, 6, 7] ∧ s.bothLive then (s.setMode 5).pairEvent s.shadowMask 0
  else if s.pwr.mode = 6 ∧ s.rope.peerMode ∈ [4, 5, 6, 7] ∧ s.bothLive then s.setMode 5
  else if s.pwr.mode = 5 ∧ (s.ownedMask &&& (s.pair.peerCaught ||| s.pair.newPools) ≠ s.ownedMask) then s.setMode 6
  else s

/-! ### Joining (R340, R462, R502) -/

def fwVersion (s : State) : Nat := fieldAt s.pep.keyway 0x10 8
def majorOf (v : Nat) : Nat := bits v 48 16

/-- Register on every module of a pool without acquiring (R332, R340). -/
def registerPool (s : State) (p : Nat) : State :=
  (s.pool p).mods.foldl (fun t m => if t.modUp m then t.setModu m { t.modu m with registered := true, regKey := t.resvKey, foreign := true } else t) s

/-- Load a pool of the peer read-only, as recovery does but writing nothing (R340). -/
def loadShadow (s : State) (p : Nat) : State :=
  match s.newestAnchor p with
  | none => s
  | some sb =>
    let jat := [0, 1, 2].map (fun i => saRead sb (0x80 + 0x32 + 6 * i))
    let (x, _, gs, _, triples) := s.replayImage p sb
    let last := gs.foldl (fun a g => max a g.seq) 0
    (s.setPool p { x with rel := .shadow, seq := max x.seq (last + 1), epoch := fieldAt sb 0x2C 4, poolId := sliceAt sb 8 16, shadowDurable := last,
                          triple := triples.getLastD jat, closed := false }).registerPool p

/-- The joining head's own steps, once its TIME is the master's and the Cairn has been heard; a serving head takes them for a pool that
its peer has just created (R205). -/
def joinPeer (s : State) : State :=
  let want := (List.range 16).filter (fun p => bit s.rope.peerOwned p && decide ((s.pool p).rel = .none))
  if ¬ (s.pwr.mode ∈ [4, 5, 6]) ∨ (s.rope.timeSynced = false ∧ s.rope.master = false) ∨ s.rope.holdTime ∨ s.crn.inc = 0 ∨ want.isEmpty then s else
  let s1 := want.foldl (fun t p => t.loadShadow p) s
  s1.sendControl 0 (sumBy (fun p => 2 ^ p) want) s.fwVersion

/-! ### Heartbeats and leases (R318, R319) -/

/-- The time master (R320), told by the first heartbeat of a link: the head that was serving, or head 0 of two that start together.
Of two serving heads the one that was master stays it. -/
def masterBy (s : State) (peerMode : Nat) : Bool :=
  match decide (s.pwr.mode ∈ [5, 6, 7]), decide (peerMode ∈ [5, 6, 7]) with
  | true, true => s.rope.master
  | true, false => true
  | false, true => false
  | false, false => decide (s.headId = 0)

def heard (s : State) (d : Bytes) : State :=
  let r := s.rope
  let echo := fieldAt d 8 8
  let lease := match r.hbSent.find? (fun p => decide (p.1 = echo)) with
    | some p => if (p.2 + 1000).toNat > r.leaseTo.toNat then p.2 + 1000 else r.leaseTo
    | none => r.leaseTo
  let sh := fieldAt d 0x1C 2
  let s1 := { s with
    rope := { r with
      leaseTo := lease, lease := decide (s.time.toNat < lease.toNat), hbSent := r.hbSent.filter (fun p => decide (p.1 > echo)),
      peerHb := fieldAt d 0 8, missed := 0, master := if r.peerHb = 0 then s.masterBy (fieldAt d 0x18 1) else r.master, suspect := false, peerMode := fieldAt d 0x18 1, peerFlags := fieldAt d 0x19 1,
      peerOwned := fieldAt d 0x1A 2, peerShadowed := sh },
    pair := { s.pair with peerCaught := s.pair.peerCaught &&& sh } }
  (s1.pairMode.joinPeer).releaseHeld

/-! ### Shadowing (R322, R324, R462) -/

/-- The wrapper that a group's KEYWRAP entries carry, if it has all five parts. -/
def wrapperOf (g : Group) : Option Bytes :=
  let part := fun (i : Nat) => g.body.find? (fun e => decide (eTyp e = 0x1D) && decide (fieldAt e 8 1 = i))
  match part 0, part 1, part 2, part 3, part 4 with
  | some a, some b, some c, some d, some e =>
    some (sliceAt a 0x10 16 ++ sliceAt b 0x10 16 ++ sliceAt c 0x10 16 ++ sliceAt d 0x10 16 ++ sliceAt e 0x10 8)
  | _, _, _, _, _ => none

/-- The pool key of a wrapper goes into the key area and, on a live shadow, into the ridges (R462). -/
def takeWrapper (s : State) (p : Nat) (w : Bytes) : State :=
  match keyUnwrap (s.transferKey (s.pool p).poolId) w with
  | some k => let s1 := s.setAreaKey 5 p k; { s1 with keySlots := Tbl.set s1.keySlots p k }
  | none => s

/-- The peer has deleted the pool (R206, R463): its key slots and key record go, and its modules' reservations. -/
def dropPool (s : State) (p : Nat) : State :=
  let s1 := (s.pool p).mods.foldl (fun (t : State) m => t.setModu m { t.modu m with held := false, foreign := false, registered := false, regKey := 0 }) s
  ({ s1 with pools := Tbl.del s1.pools p, idxStore := Tbl.del s1.idxStore p, idxRuns := Tbl.del s1.idxRuns p }.unloadKey p).delAreaKey 5 p

/-- The shadow stores one group and applies what R322 applies now; a group it holds already is discarded. -/
def storeGroup (s : State) (p : Nat) (g : Group) (ref : Nat) : State :=
  let x := s.pool p
  if x.rel ≠ .shadow ∨ x.jbuf.any (fun y => decide (y.seq = g.seq)) = true ∨ x.waiting.any (fun y => decide (y.seq = g.seq)) = true
      ∨ g.seq ≤ x.shadowDurable then s else
  let x1 := { x with jbuf := insSeq x.jbuf g, seq := max x.seq (g.seq + 1), refs := if g.origin = 0 then Tbl.set x.refs g.seq ref else x.refs }
  let x2 := if g.origin = 0 then { (x1.applyEarly g) with waiting := x1.waiting ++ [g] } else x1.applyGroup g
  let s1 := (cancelled [g]).foldl (fun t q => t.unland p q) (s.setPool p x2)
  match wrapperOf g with
  | some w => s1.takeWrapper p w
  | none => if g.body.any poolGone then s1.dropPool p else s1

/-- A LANDED mark. -/
def markLanded (s : State) (p seq : Nat) : State :=
  match (s.pool p).waiting.find? (fun g => decide (g.seq = seq)) with
  | none => s
  | some g => s.updPool p (fun x => { (x.applyLate g) with waiting := x.waiting.filter (fun y => decide (y.seq ≠ seq)) })

/-- The items of a JOURNAL payload; the groups stored, pool and SEQ, newest last. -/
def journalItems : Nat → Bytes → State × List (Nat × Nat) → State × List (Nat × Nat)
  | 0, _, st => st
  | f + 1, d, st =>
    if d.length < 16 then st else
    let p := fieldAt d 0 1
    let n := fieldAt d 4 4
    let ref := fieldAt d 8 8
    if fieldAt d 1 1 = 1 then journalItems f (d.drop 16) (st.1.markLanded p ref, st.2)
    else
      let es := entriesOf ((d.drop 16).take n)
      let g : Group := { seq := fieldAt (es.getD 0 []) 8 8, entries := es }
      if p < 16 ∧ (st.1.pool p).rel = .shadow ∧ groupOk true es = true then
        let w := (wrapperOf g).isSome
        let s1 := st.1.storeGroup p g ref
        let s2 := if w ∧ bit s1.pair.caughtUp p = false then
            ({ s1 with pair := { s1.pair with caughtUp := s1.pair.caughtUp ||| 2 ^ p } }).sendControl 1 (2 ^ p) 0 else s1
        journalItems f (d.drop (16 + n)) (s2, st.2 ++ [(p, g.seq)])
      else journalItems f (d.drop (16 + n)) st

/-- JOURNAL_ACK for the pools with news: the group stored last. -/
def sendAck (s : State) (l : List (Nat × Nat)) : State :=
  let ps := (l.map Prod.fst).eraseDups
  if ps.isEmpty then s else
  s.sendRope 5 false (ps.flatMap (fun p => leBytes 1 p ++ zeros 7 ++ leBytes 8 ((l.filter (fun q => decide (q.1 = p))).foldl (fun _ q => q.2) 0)))

/-- The groups sent up to and with SEQ have been received: in the order of sending, because a write's SEQ is reserved before
its group is accepted. -/
def ackTo (l : List Nat) (q : Nat) : List Nat :=
  if q ∈ l then (l.dropWhile (fun x => decide (x ≠ q))).drop 1 else l.filter (fun x => decide (x > q))

/-- A SHADOW item (R324). -/
def shadowItem (s : State) (p kind : Nat) (b : Bytes) : State :=
  match kind with
  | 0 => s.updPool p (fun x => { x with shadowLop := Tbl.set x.shadowLop (fieldAt b 0 1) (sliceAt b 8 32) })
  | 1 => s.updPool p (fun x => x.updUnit (fieldAt b 0 4) (fun u => { u with next := max u.next (fieldAt b 4 4) }))
  | 2 => s.updPool p (fun x => x.updSeg (fieldAt b 0 4) (fun g => { g with rows := max g.rows (16 * fieldAt b 8 8 / (max 1 g.k * 65536)) }))
  | 3 => s.updPool p (fun x => { x with shadowQ := x.shadowQ ++ [[3] ++ b] })
  | 6 => s.updPool p (fun x => { x with shadowQ := x.shadowQ ++ [[6] ++ b] })
  | 4 => s.updPool p (fun x =>
      let id := b.take 6
      { x with shadowQ := x.shadowQ.filter (fun e => decide ((e.drop 1).take 6 ≠ id)) })
  | 5 => s.updPool p (fun x => { x with
      shadowDurable := max x.shadowDurable (fieldAt b 0 8), jbuf := x.jbuf.filter (fun g => decide (g.seq > fieldAt b 0 8)) })
  | _ => s

def shadowItems : Nat → Bytes → State → State
  | 0, _, s => s
  | f + 1, d, s =>
    if d.length < 4 then s else
    let n := fieldAt d 2 2
    let p := fieldAt d 0 1
    shadowItems f (d.drop (4 + n)) (if (s.pool p).rel = .shadow then s.shadowItem p (fieldAt d 1 1) ((d.drop 4).take n) else s)

/-! ### Votes and takeover (R330–R333) -/

/-- The pools the peer owns, as its last heartbeat or this head's own shadowing has it. -/
def peerPools (s : State) : Nat :=
  if s.rope.peerOwned ≠ 0 then s.rope.peerOwned else sumBy (fun q => if q.2.rel = .shadow then 2 ^ q.1 else 0) s.pools

def epochsOf (s : State) (mask : Nat) : List (Nat × Nat) :=
  (List.range 16).filterMap (fun p => if bit mask p then some (p, (s.pool p).epoch) else none)

/-- Ask for the peer's pools: HANDOVER, their outputs held, VOTE_REQUEST (R330, R331). -/
def takeover (s : State) (reason : Nat) : State :=
  let ps := s.peerPools
  if ¬ (s.pwr.mode ∈ [5, 6, 7]) ∨ ps = 0 ∨ s.crn.votes.any (fun v => decide (v.reason ≤ 1)) = true ∨ s.pair.fence.isSome then s else
  let s1 := { s with pair := { s.pair with holdPools := s.pair.holdPools ||| ps, faultAt := s.time } }
  ((s1.freezeSqhd).setMode 7).voteRequest ps reason (s1.epochsOf ps)

/-- The peer is gone for this head's own pools: SOLO rules, every outstanding ROPE token DONE (R331). -/
def goSolo (s : State) : State :=
  let s1 := { s with pair := { s.pair with solo := true, peerCaught := 0, joining := false } }
  let s2 := s1.pools.foldl (fun t q => t.updPool q.1 (fun x => { x with sentSeqs := [], relays := [] })) s1
  s2.pools.foldl (fun t q => t.ropeJobsDone q.1) s2

/-- Receive a Cairn message of one TYPE (R325, R326): its payload and MSEQ when it is accepted. -/
def recvCairn (s : State) (typ : Nat) (m : Bytes) : Option (Bytes × Nat) × State :=
  let n := fieldAt m 2 2
  if m.length < 32 ∨ m.length ≠ 32 + n then (none, s.crnEvent 5)
  else if fieldAt m (28 + n) 4 ≠ crc32c (m.take (28 + n)) then (none, s.crnEvent 4)
  else match s.areaKey 4 0 with
    | none => (none, s)
    | some k =>
      if (hmac256 k (m.take (12 + n))).take 16 ≠ sliceAt m (12 + n) 16 then (none, s.crnEvent 3)
      else if fieldAt m 0 1 ≠ typ ∨ fieldAt m 1 1 ≠ 0x0F then (none, s)
      else
        let q := fieldAt m 4 8
        let d := (m.drop 12).take n
        let s1 := if typ = 4 then { s with crn := { s.crn with echo := q } } else s
        let inc := q / 2 ^ 48
        let cnt := q % 2 ^ 48
        let own := (s.crn.sent ++ s.crn.others).any (fun p => decide (p.1 = fieldAt d 8 8) && decide ((s.time - p.2).toNat ≤ 100000))
        let ok := if inc = s.crn.inc ∧ s.crn.inc ≠ 0 then decide (cnt > s.crn.seen) else decide (typ = 4) && own
        if ok then (some (d, q), { s1 with crn := { s1.crn with inc := inc, seen := cnt, msgAccepted := s1.crn.msgAccepted + 1, linkUp := true } })
        else (none, s1.crnEvent 7)

def maxTerm (a : W64) (b : Nat) : W64 := if b > a.toNat then BitVec.ofNat 64 b else a

/-! ### Adoption (R32, R334) -/

/-- The lock that a queue-shadow entry stands for (R388). -/
def shadowLock (p seq : Nat) (e : Bytes) : Lock :=
  let key := decide (fieldAt e 0 1 = 6)
  { cmd := none, nsid := fieldAt e 9 4, start := if key then 0 else fieldAt e 17 8, len := if key then 0 else fieldAt e 25 8,
    key := if key then some ((e.drop 17).take (fieldAt e 8 1)) else none, write := true, granted := true, reserved := true, doubt := some (p, seq) }

/-- The ORIGIN_REF of a queue-shadow entry. -/
def shadowRef (e : Bytes) : Nat := fieldAt e 5 2 + fieldAt e 3 2 * 2 ^ 16 + fieldAt e 1 2 * 2 ^ 32

/-- The in-doubt locks of a pool's pending groups: the queue-shadow entries of each, or the forwarded command's own. -/
def doubtLocks (s : State) (p : Nat) : List Lock :=
  let x := s.pool p
  x.waiting.flatMap (fun g =>
    let ref := Tbl.getD x.refs g.seq 0
    match x.shadowQ.filter (fun e => decide (shadowRef e = ref)) with
    | e :: es => (e :: es).map (shadowLock p g.seq)
    | [] =>
      if bit ref 63 then
        match s.hcmd (ref % 2 ^ 63) with
        | some c => ((locksOf 0 c.cap true).filter (fun l => l.write)).map (fun l =>
            { l with cmd := none, granted := true, doubt := some (p, g.seq) })
        | none => []
      else [])

/-- LOP_SWITCHOVER_RESTORE (R32). -/
def restoreLop (s : State) (p : Nat) : State :=
  (s.pool p).shadowLop.foldl (fun t q =>
    let w := fieldAt q.2 0 8
    if !bit w 0 ∨ bits w 8 4 ≠ p ∨ lopPhase w ∈ [3, 4, 5] then t else
    let mine := t.lopWord q.1
    let i := if q.1 < 63 ∧ (!bit mine 0 ∨ lopPhase mine ∈ [3, 4, 5]) then q.1 else t.lopFree
    let o := 0xF0000 + i * 0x20
    let v := w - bits w 5 3 * 32
    let t1 := (((t.setReg o (BitVec.ofNat 64 v)).setReg (o + 8) (BitVec.ofNat 64 (fieldAt q.2 8 8))).setReg (o + 0x10)
      (BitVec.ofNat 64 (fieldAt q.2 16 8))).setReg (o + 0x18) (BitVec.ofNat 64 (fieldAt q.2 24 8))
    ({ t1 with lopEnded := Tbl.del t1.lopEnded i }.raise 0xF0800 (2 ^ i)).raise 0xF0808 (2 ^ i)) s

/-- The index store of a pool from its chunk store: every live chunk that may be shared. -/
def rebuildIndex (s : State) (p : Nat) : State :=
  let x := s.pool p
  let es := (x.recs.filter (fun q => q.2.live && !q.2.isMeta && !q.2.lost)).map (fun q =>
    ({ digest := digestOf x q.1, len := q.2.olen, handle := q.1, tomb := false } : IdxEntry))
  if x.cfg.dedup then { s with idxStore := Tbl.set s.idxStore p es, idxRuns := Tbl.del s.idxRuns p } else s

/-- A forwarded command at the receiving head, once its pool has been taken over (R334 step 4): its group's outcome is awaited
or is known, or it runs here. -/
def resumeForwarded (s : State) (p n : Nat) (c : HCmd) : State :=
  let x := s.pool p
  match x.refs.find? (fun q => decide (q.2 = n + 2 ^ 63)) with
  | some (seq, _) => if x.waiting.any (fun g => decide (g.seq = seq)) then s else s.finishCmd n stOk 0 0
  | none =>
    let s1 := s.enterLocks (locksOf n c.cap true)
    s1.setCmd n { c with phase := if s1.allGranted n then .running else .taken }

/-- The pool's own fields when this head becomes its owner (R334). -/
def adoptClaim (x : Pool) (term time : W64) : Pool :=
  { x with
    rel := .owner, epoch := x.epoch + 1, seq := x.seq - 1 + 2 ^ 20, ownerTerm := term, ownerTime := time, sentSeqs := [],
    relays := [], relayed := [], durable := max x.durable x.shadowDurable, closed := false, healthAt := time, decayAt := time,
    moveTo := none,
    pairs := x.pairs.map (fun (q : Nat × RPair) => (q.1, { q.2 with connected := false, backoff := 0, retryAt := 0, work := [], fetches := [] })) }

/-- The landing units advanced to what their slabs hold. -/
def adoptUnits (s : State) (us : Tbl LUnit) : Tbl LUnit :=
  us.map (fun (q : Nat × LUnit) =>
    (q.1, { q.2 with ridge := 0xFF
                     next := max q.2.next (max (s.pagesEnd q.2.a) (s.pagesEnd q.2.b)) }))

/-- An open segment at the rows its members hold. -/
def adoptSeg (s : State) (n : Nat) (g : Seg) : Seg :=
  if g.state = 0 then
    { g with rows := s.scanRows n g, buffer := [], moving := [], due := [], flying := 0, regDue := [] }
  else g

/-- The relay logs of a pool read to their end: the groups that this head does not hold yet, stored in SEQ order (R337, R339). -/
def readRelays (s : State) (p : Nat) : State × List Group :=
  let x := s.pool p
  let slabs := x.logs.flatMap (fun q => q.2.cur :: q.2.spare.toList)
  let gs := ((slabs.flatMap (fun a => if s.modUp (saMod a) then s.logGroups a else [])).filter (fun g =>
    decide (x.shadowDurable < g.seq) && !(x.jbuf ++ x.waiting).any (fun y => decide (y.seq = g.seq)))).foldl insGroup []
  (gs.foldl (fun t g => t.storeGroup p g 0) s, gs)

/-- Adopt one pool (R334 steps 1 to 5, R311), its relay logs read first while the rope is degraded (R337). REASON 2 hands it to recovery,
REASON 3 finds nothing pending. -/
def adoptPool (s : State) (term : W64) (reason p : Nat) : State :=
  let s := if reason ≤ 1 ∧ s.rope.degraded then (s.readRelays p).1 else s
  let s1 := s.setPool p (adoptClaim (s.pool p) term s.time)
  if reason = 2 then (s1.sbWriteAll p (s1.lastAnchor p) false s1.headId 0).updPool p (fun y => { y with recovering := true }) else
  let s2 := s1.enterLocks (s1.doubtLocks p)
  let us := s2.adoptUnits (s2.pool p).units
  let gs := (s2.pool p).segs.map (fun (q : Nat × Seg) => (q.1, s2.adoptSeg q.1 q.2))
  let s3 := s2.updPool p (fun y => { y with
    checks := y.waiting, shadowQ := [], flushAt := s2.time, units := us, segs := gs,
    jpage := y.triple.foldl (fun a t => max a (s2.pagesEnd t)) 0 })
  let s4 := ((s3.pool p).segs.filter (fun (q : Nat × Seg) => decide (q.2.state = 0))).foldl (fun (t : State) (q : Nat × Seg) => t.closeSeg p q.1) s3
  let s5 := ((s4.rebuildIndex p).restoreLop p).newTriple p
  let s6 := s5.sbWriteAll p (s5.lastAnchor p) false s5.headId 0
  (s6.host.cmds.filter (fun (c : Nat × HCmd) => decide (c.2.phase = .forwarded ∧ s6.nsPool c.2.cap.nsid = some p))).foldl
    (fun (t : State) (c : Nat × HCmd) => t.resumeForwarded p c.1 c.2) s6

/-- FENCE_DONE has been sent: the pools are adopted, announced, and their holds end (R334–R336). -/
def adopt (s : State) (f : Fence) : State :=
  let ps := (List.range 16).filter (fun p => bit f.pools p)
  let s0 := s.sendCairn 5 (leBytes 8 f.term.toNat ++ leBytes 2 f.pools ++ leBytes 2 f.fenced ++ leBytes 2 f.left.length ++ zeros 2)
  let s1 := if f.reason = 3 then s0.sendControl 3 f.pools 0 else s0
  let s2 := ps.foldl (fun t p => t.adoptPool f.term f.reason p) s1
  let keep := 0xFFFF - f.pools % 2 ^ 16
  let s3 := { s2 with pair := { s2.pair with
    holdPools := s2.pair.holdPools &&& keep, caughtUp := s2.pair.caughtUp &&& keep,
    moves := s2.pair.moves.filter (fun q => !bit f.pools q.1),
    fence := if f.left.isEmpty then none else some { f with pools := 0, since := s.time } } }
  let s4 := if f.reason ≤ 1 then
      { s3 with rope := { s3.rope with master := true, peerOwned := 0 },
                pair := { s3.pair with switches := s3.pair.switches + 1, lastSwitch := s.time, lastGap := (s.time - s3.pair.faultAt).toNat * 10 } }
    else s3
  let s5 := (s4.anaChange.settleMode).pairEvent f.pools f.reason
  s5.releaseHeld

/-- Preempts that have completed: this head holds those modules' reservations (R332). -/
def preempted (s : State) (f : Fence) (done : List Nat) : State × Fence :=
  let hit := f.left.filter (fun m => decide (m ∈ done))
  (hit.foldl (fun t m => t.setModu m { t.modu m with held := true, foreign := false, registered := true, regKey := t.resvKey }) s,
   { f with left := f.left.filter (fun m => !decide (m ∈ done)), fenced := f.fenced + hit.length })

/-- A pending group of an adopted pool is resolved (R334 step 3): applied, or reversed; its in-doubt locks go; a forwarded
command whose group it is completes. -/
def resolveGroup (s : State) (p : Nat) (g : Group) : State :=
  let x := s.pool p
  let good := s.groupLanded x g && !x.jbuf.any (fun y => decide (g.seq ∈ cancelled [y]))
  let s1 := if good then s.markLanded p g.seq else s.unland p g.seq
  let s2 := s1.updPool p (fun y => { y with checks := y.checks.filter (fun z => decide (z.seq ≠ g.seq)) })
  let s3 := { s2 with host := { s2.host with locks := s2.host.locks.filter (fun l => decide (l.doubt ≠ some (p, g.seq))) } }
  let ref := Tbl.getD x.refs g.seq 0
  if bit ref 63 then s3.finishCmd (ref % 2 ^ 63) (if good then stOk else stTransfer) 0 0 else s3

/-! ### Dual-send (R338) -/

/-- Two modules for the relay logs: distinct domains, and distinct groups where they exist. -/
def relayMods (s : State) (p : Nat) : List Nat :=
  let ms := s.usable p
  let a := ms.headD 0
  let far := ms.filter (fun m => decide (domainOf m ≠ domainOf a ∧ groupOf m ≠ groupOf a))
  let near := ms.filter (fun m => decide (domainOf m ≠ domainOf a))
  if ms.isEmpty then [] else
  match far ++ near with
  | b :: _ => [a, b]
  | [] => [a]

/-- The owner's side of a degraded rope: forwarded commands are those of a lost connection (R339). -/
def degrade (s : State) : State :=
  let s1 := ({ s with rope := { s.rope with degraded := true, degradedAt := s.time, goodSince := none } }).ropeEvent 1
  let s2 := (s1.host.cmds.filter (fun c => c.2.fwd.isSome)).foldl (fun t c => t.loseCmd c.1) s1
  let dual := s.ownedMask &&& (if s.pair.solo then 0 else s.pair.peerCaught)
  (if dual = 0 then s2 else s2.pairEvent dual 0).anaChange

/-- A lane goes down (R313, R339): below eight lanes the rope is degraded; with none its link is down. -/
def laneDown (s : State) (lane : Nat) : State :=
  if lane ≥ 16 ∨ bit s.rope.lanes lane = false then s else
  let m := s.rope.lanes - 2 ^ lane
  let s1 := ({ s with rope := { s.rope with lanes := m, goodSince := if popcount m < 8 then none else s.rope.goodSince } }).ropeEvent 0
  let s2 := if popcount m < 8 ∧ s.rope.degraded = false then s1.degrade else s1
  if m = 0 then { s2 with rope := { s2.rope with linkUp := false } } else s2

end State

open State

/-! ### Rope frames -/

/-- HEARTBEAT (R318, R319, R340, R536). -/
def execHeartbeat (frame : Bytes) (s : State) : Res := .next (s.withFrame 1 frame (fun d t => t.heard d))

/-- HEARTBEAT_SEND (R315, R318). -/
def execHeartbeatSend (s : State) : Res :=
  match s.rope.txKey with
  | none => .next s
  | some _ =>
    let n := s.rope.hbNo + 1
    let s1 := { s with rope := { s.rope with hbNo := n, hbSent := s.rope.hbSent ++ [(n, s.time)], hbSentCnt := s.rope.hbSentCnt + 1 } }
    .next (s1.sendRope 1 true (leBytes 8 n ++ leBytes 8 s.rope.peerHb ++ leBytes 8 s.time.toNat ++ leBytes 1 s.pwr.mode
      ++ leBytes 1 (b2n s.pair.yielded + 2 * b2n s.cairnLease) ++ leBytes 2 s.ownedMask ++ leBytes 2 s.shadowMask ++ zeros 2))

/-- MISSED_HEARTBEAT (R319): 2 µs with no valid heartbeat; the fourth in a row makes the peer a suspect. -/
def execMissedHeartbeat (s : State) : Res :=
  let n := s.rope.missed + 1
  let s1 := { s with rope := { s.rope with missed := n, hbMissed := s.rope.hbMissed + 1, suspect := s.rope.suspect || decide (n ≥ 4) } }
  .next (if n = 4 then s1.ropeEvent 3 else s1)

/-- LEASE_EXPIRY (R318, R329, R336): leases run out; with neither held the outputs are held, and after 1 ms the head yields. -/
def execLeaseExpiry (s : State) : Res :=
  let r := s.rope.lease && !s.ropeLease
  let c := s.crn.lease && !s.cairnLease
  let s1 := if r then { s with rope := { s.rope with lease := false } } else s
  let s2 := if c then ({ s1 with crn := { s1.crn with lease := false } }).crnEvent 2 else s1
  if s2.ropeLease || s2.cairnLease then .next s2
  else if r || c then .next ({ s2 with pair := { s2.pair with faultAt := s.time } }).freezeSqhd
  else if s2.pwr.mode ∈ [4, 5, 6, 7] ∧ (s.time - s2.pair.faultAt).toNat ≥ 100000 then .next (s2.yieldHead 8)
  else .next s2

/-- ROPE_RETRANSMIT (R316): every unacknowledged frame again, byte for byte. -/
def execRopeRetransmit (s : State) : Res :=
  if s.rope.unacked.isEmpty ∨ (s.time - s.rope.ackAt).toNat < 400 then .next s else
  let s1 := s.rope.unacked.foldl (fun t p => t.emit (.rope p.2)) s
  .next { s1 with rope := { s1.rope with ackAt := s.time, retrans := s1.rope.retrans + BitVec.ofNat 64 s.rope.unacked.length } }

/-- LANE_DOWN (R313): lock lost, or too many uncorrectable codewords. -/
def execLaneDown (lane : Nat) (s : State) : Res := .next (s.laneDown lane)

/-- LANE_UP (R313): a lane that has run clean for 100 ms and is not held down. -/
def execLaneUp (lane : Nat) (s : State) : Res :=
  if lane ≥ 16 ∨ bit s.rope.lanes lane = true ∨ s.regBit 0xC0008 (16 + lane) = true then .next s else
  let m := s.rope.lanes + 2 ^ lane
  .next { s with rope := { s.rope with lanes := m, goodSince := if popcount m ≥ 8 ∧ s.rope.goodSince.isNone then some s.time else s.rope.goodSince } }

/-- ROPE_UNDEGRADE (R313). -/
def execRopeUndegrade (s : State) : Res :=
  match s.rope.goodSince with
  | some t =>
    if s.rope.degraded ∧ popcount s.rope.lanes ≥ 8 ∧ (s.time - t).toNat ≥ 100000000 then
      .next (({ s with rope := { s.rope with degraded := false } }).ropeEvent 2).anaChange
    else .next s
  | none => .next s

/-- SESSION_REKEY (R317, R458): after 2^40 frames in either direction, or 24 hours; with TRNG_OK 0 the head yields instead. -/
def execSessionRekey (s : State) : Res :=
  if s.rope.txKey.isSome ∧ (s.rope.txCount ≥ 2 ^ 40 ∨ s.rope.rxCount ≥ 2 ^ 40 ∨ (s.time - s.rope.sessionAt).toNat ≥ 8640000000000) then
    .next (if s.wdn.trngOk then s.rekeyTx else s.yieldHead 7)
  else .next s

/-- ROPE_LINK_HANDSHAKE (R306, R464): nonces and check values cross; equal ones start session 0 since link-up. With TRNG_OK 0 the
warden gives no nonce, and no session starts (R458). -/
def execRopeLinkHandshake (nonce check : Bytes) (peerId : Nat) (s : State) : Res :=
  if !s.wdn.trngOk then .next s else
  let mine := s.freeBytes 32
  let s := s.used
  let (a, b) := if s.headId = 0 then (mine, padTo 32 nonce) else (padTo 32 nonce, mine)
  let own := (hmac384 (s.pairSecret.getD []) (a ++ b)).take 8
  let s1 := s.emit (.ropeNonce mine own)
  let s1 := { s1 with rope := { s1.rope with
    linkUp := true, lanes := 0xFFFF - s1.regBits 0xC0008 16 16, txKey := none, rxKey := none, rxNext := none, unacked := [], putOff := [],
    nonces := some (a, b), linkRekeys := 0, peerHb := 0,
    goodSince := some (s1.rope.goodSince.getD s.time) } }
  if peerId = s.headId then .next (({ s1 with pair := { s1.pair with headIdClash := true } }).book 0x20 0x046 [])
  else if (s.areaKey 3 0).isNone ∨ check ≠ own then .next (s1.book 0x20 0x048 [])
  else match s1.sessionKeys 0 with
    | none => .next s1
    | some (tx, rx) =>
      .next ({ s1 with rope := { s1.rope with
        txKey := some tx, rxKey := some rx, txCount := 0, rxCount := 0, sessionAt := s.time, rekeys := s1.rope.rekeys + 1, missed := 0,
        hbNo := 0, hbSent := [] } }).releaseHeld

/-- TIME_REQ (R320): the master answers with its arrival and send times. -/
def execTimeReq (frame : Bytes) (s : State) : Res :=
  .next (s.withFrame 2 frame (fun d t =>
    if t.rope.master then t.sendRope 3 false (leBytes 8 (fieldAt d 0 8) ++ leBytes 8 t.stampT ++ leBytes 8 t.stampT) else t))

/-- TIME_REQ_SEND (R320). -/
def execTimeReqSend (s : State) : Res :=
  if s.rope.master then .next s else .next (s.sendRope 2 false (leBytes 8 s.stampT))

/-- TIME_RESP (R320, R321): the offset; a joining head steps TIME or holds it, a serving one slews. -/
def execTimeResp (frame : Bytes) (s : State) : Res :=
  .next (s.withFrame 3 frame (fun d t =>
    let f := fun (o : Nat) => (fieldAt d o 8 : Int)
    let off := ((f 8 - f 0) - ((t.stampT : Int) - f 16)) / 2
    let ns := off * 5 / 8
    let ok := decide (-100 ≤ ns ∧ ns ≤ 100)
    let r := { t.rope with offset := BitVec.ofInt 32 ns, exchangeAt := t.time }
    if t.pwr.mode = 4 ∧ t.rope.timeSynced = false then
      if off ≥ 0 then { t with rope := { r with timeSynced := true, holdTime := false }, time := t.time + BitVec.ofNat 64 (off / 16).toNat }
      else if -off / 16 ≤ 1000000 then { t with rope := { r with holdTime := !ok, timeSynced := ok } }
      else ({ t with rope := r }).book 0x20 0x047 []
    else
      let m := t.pick 51201
      let t1 := { t.used with rope := { r with slew := if off ≥ 0 then BitVec.ofNat 32 m else -(BitVec.ofNat 32 m), timeSynced := ok } }
      if ok then t1 else t1.ropeEvent 6))

/-- TIME_UNSYNC (R321): no exchange for 10 ms. -/
def execTimeUnsync (s : State) : Res :=
  if s.rope.timeSynced ∧ s.rope.master = false ∧ (s.time - s.rope.exchangeAt).toNat ≥ 1000000 then
    .next (({ s with rope := { s.rope with timeSynced := false } }).ropeEvent 6)
  else .next s

/-- JOURNAL (R322, R340): groups stored, applied or held pending; JOURNAL_ACK. -/
def execJournal (frame : Bytes) (s : State) : Res :=
  .next (s.withFrame 4 frame (fun d t =>
    let r := journalItems (d.length / 16 + 1) d (t, [])
    (r.1.sendAck r.2).pairMode))

/-- JOURNAL_ACK (R322, R339): the ROPE tokens of acknowledged groups are DONE; relays end after the rope has recovered. -/
def execJournalAck (frame : Bytes) (s : State) : Res :=
  .next (s.withFrame 5 frame (fun d t =>
    (List.range (d.length / 16)).foldl (fun u i =>
      let p := fieldAt d (16 * i) 1
      let q := fieldAt d (16 * i + 8) 8
      (u.updPool p (fun x => { x with
        sentSeqs := ackTo x.sentSeqs q, acked := max x.acked q, relays := if u.rope.degraded then x.relays else [] })).ropeJobsDone p) t))

/-- SHADOW (R324). -/
def execShadow (frame : Bytes) (s : State) : Res :=
  .next (s.withFrame 6 frame (fun d t => shadowItems (d.length / 4 + 1) d t))

/-- FORWARD (R309, R388): the owner takes the peer's command, with entries of the reserved part of the table. -/
def execForward (frame : Bytes) (cap : Capsule) (s : State) : Res :=
  .next (s.withFrame 7 frame (fun d t =>
    let n := Tbl.next t.host.cmds
    let data := d.drop 72
    let snap := match Tbl.find t.allNs cap.nsid with | some (_, ns) => ns.snap | none => none
    let c : HCmd := { HCmd.mk0 (2 ^ 20) cap snap with fwd := some (fieldAt d 0 8), data := data, phase := .taken, since := t.time }
    let t1 := t.setCmd n c
    match Tbl.find t.allNs cap.nsid with
    | none => t1.complete n (ofNvme 0 0x0B true) 0 0
    | some (p, ns) =>
      if !t.owns p ∨ ns.deleting then t1.complete n stTransition 0 0 else
      match capStatus { cap with inline := none } ns (t.pool p).fill with
      | some st => t1.complete n st 0 0
      | none =>
        let t2 := t1.enterLocks (locksOf n cap true)
        let (k, t3) := match t2.hostClimb (t2.ridges.getD (t2.pick t2.ridges.length) 0) n with
          | some (k, u) => (some k, u)
          | none => (none, t2)
        t3.setCmd n { c with climb := k, phase := if t3.allGranted n then .running else .taken }))

/-- FORWARD_DONE (R309): the receiving head posts the completion. -/
def execForwardDone (frame : Bytes) (s : State) : Res :=
  .next (s.withFrame 8 frame (fun d t =>
    let n := fieldAt d 0 8
    match t.hcmd n with
    | none => t
    | some c =>
      if c.phase ≠ .forwarded then t else
      let f := fieldAt d 0x16 2 / 2
      let st := ofNvme (bits f 8 3) (bits f 0 8) (bit f 14)
      (t.setCmd n { c with rdata := d.drop 24 }).finishCmd n st (fieldAt d 8 4) (fieldAt d 12 4)))

/-- What a joining head needs of a pool: every group from the anchor's START_SEQ onward, with its LANDED mark where the write has landed
(R322, R340). -/
def State.sendHistory (s : State) (p : Nat) : State :=
  let x := s.pool p
  let old := match s.newestAnchor p with
    | some sb => (s.replayImage p sb).2.2.1
    | none => []
  let here := x.waiting.foldl insSeq (x.jbuf.filter (fun g => !x.waiting.any (fun y => decide (y.seq = g.seq))))
  let gs := old.filter (fun g => !here.any (fun y => decide (y.seq = g.seq))) ++ here
  gs.foldl (fun t g =>
    let t1 := t.sendRope 4 false (journalItem p 0 g.bytes.length (Tbl.getD x.refs g.seq 0) g.bytes)
    if g.origin = 0 ∧ !x.waiting.any (fun y => decide (y.seq = g.seq)) then t1.sendRope 4 false (journalItem p 1 0 g.seq []) else t1) s

/-- JOIN (R340, R462, R502): the owner streams what it holds, journals the pool key again, and keeps streaming. A version that
is not compatible is ignored; after 10 s of the session a record says so. -/
def execJoin (frame : Bytes) (s : State) : Res :=
  .next (s.withControl 0 frame (fun pools arg t =>
    let a := majorOf arg
    let b := majorOf t.fwVersion
    if a > b + 1 ∨ b > a + 1 then
      if (t.time - t.rope.sessionAt).toNat ≥ 1000000000 then t.book 0x20 0x049 [] else t
    else
      let ps := (List.range 16).filter (fun p => bit pools p && t.owns p)
      let t1 := ps.foldl (fun u p => u.sendHistory p) t
      let t2 := { t1 with pair := { t1.pair with joining := true, solo := false } }
      ps.foldl (fun u p => u.submit p 4 (u.keywraps p (u.pool p).poolId)) t2))

/-- CAUGHT_UP (R340). -/
def execCaughtUp (frame : Bytes) (s : State) : Res :=
  .next (s.withControl 1 frame (fun pools _ t =>
    let m := t.pair.peerCaught ||| (pools &&& t.ownedMask)
    let all := decide (t.ownedMask &&& m = t.ownedMask)
    let t1 := { t with pair := { t.pair with
      peerCaught := m, joining := t.pair.joining && !all, solo := false, newPools := t.pair.newPools &&& (0xFFFF - pools % 2 ^ 16) } }
    (if all then t1.pairEvent pools 0 else t1).pairMode.anaChange))

/-- ROPE_RELEASE (R341): the receiving head of a planned move asks for the pool. -/
def execRopeRelease (frame : Bytes) (s : State) : Res :=
  .next (s.withControl 2 frame (fun pools _ t =>
    let mine := pools &&& t.shadowMask
    if mine = 0 then t else
    let t1 := { t with pair := { t.pair with
      moves := (List.range 16).foldl (fun m p => if bit mine p then Tbl.set m p 1 else m) t.pair.moves } }
    (t1.setMode 7).voteRequest mine 3 (t1.epochsOf mine)))

/-- TAKEN (R341): the releasing head is now the pool's live shadow, and the call completes. -/
def execTaken (frame : Bytes) (s : State) : Res :=
  .next (s.withControl 3 frame (fun pools _ t =>
    (List.range 16).foldl (fun u p =>
      if !bit pools p ∨ Tbl.find u.pair.moves p ≠ some 2 then u else
      let u1 := u.updPool p (fun x => { x with rel := .shadow, moveTo := none, relays := [], sentSeqs := [], shadowDurable := x.durable })
      let u2 := (u1.pool p).mods.foldl (fun v m => v.setModu m { v.modu m with held := false, foreign := true }) u1
      let u3 := { u2 with pair := { u2.pair with
        moves := Tbl.del u2.pair.moves p, caughtUp := u2.pair.caughtUp ||| 2 ^ p, peerCaught := u2.pair.peerCaught &&& (0xFFFF - 2 ^ p),
        holdPools := u2.pair.holdPools &&& (0xFFFF - 2 ^ p) } }
      let u4 := (u3.anaChange.settleMode).releaseHeld
      match u4.calls.find? (fun (c : Nat × Call) => decide (c.2.phase = .running ∧ callSlot c.2.entry = 60 ∧ callPool c.2.entry = p)) with
      | some c => u4.libDone c.1
      | none => u4) t))

/-- REKEY (R317): this side switches too, and awaits the first frame of the named session. -/
def execRekey (frame : Bytes) (s : State) : Res :=
  .next (s.withControl 4 frame (fun _ arg t =>
    match t.rope.txKey with
    | some k => if k.session = arg then t else t.rekeyTx
    | none => t))

/-- A planned move ends without effect on this head's ownership (R341). -/
def State.moveOff (s : State) (p : Nat) : State :=
  let t1 := { s with pair := { s.pair with moves := Tbl.del s.pair.moves p, holdPools := s.pair.holdPools &&& (0xFFFF - 2 ^ p) } }
  ((t1.updPool p (fun x => { x with moveTo := none })).settleMode).releaseHeld

/-- ROPE_YIELD (R330, R331): a planned move that it crosses becomes an unplanned switch-over (R337). -/
def execRopeYield (frame : Bytes) (s : State) : Res :=
  .next (s.withFrame 10 frame (fun _ t =>
    ((t.pair.moves.foldl (fun u q => u.moveOff q.1) (t.ropeEvent 7)).goSolo).takeover 0))

/-! ### Leases of the Cairn, votes -/

/-- CAIRN_HEALTH (R318, R325–R327). -/
def execCairnHealth (msg : Bytes) (s : State) : Res :=
  match s.recvCairn 4 msg with
  | (none, t) => .next t
  | (some (d, _), t) =>
    let echo := fieldAt d 8 8
    let to' := match t.crn.sent.find? (fun p => decide (p.1 = echo)) with
      | some p => if (p.2 + 1200).toNat > t.crn.leaseTo.toNat then p.2 + 1200 else t.crn.leaseTo
      | none => t.crn.leaseTo
    let t1 := { t with crn := { t.crn with
      leaseTo := to', lease := decide (t.time.toNat < to'.toNat), peerAlive := bit (fieldAt d 1 1) 0, owned := fieldAt d 2 2,
      term := maxTerm t.crn.term (fieldAt d 16 8) } }
    .next t1.releaseHeld

/-- CAIRN_HEALTH_SEND (R326, R327): an INCARNATION is drawn before the first message. -/
def execCairnHealthSend (s : State) : Res :=
  let s0 := if s.crn.ownInc = 0 then { s.used with crn := { s.crn with ownInc := s.pick 65535 + 1 } } else s
  let q := s0.nextMseq
  let s1 := s0.sendCairn 4 (leBytes 1 s.pwr.mode ++ leBytes 1 (b2n s.ropeLease + 2 * b2n s.rope.suspect + 4 * b2n s.pair.yielded)
    ++ leBytes 2 s.ownedMask ++ zeros 4 ++ leBytes 8 s.crn.echo ++ leBytes 8 s.crn.term.toNat ++ leBytes 8 s.time.toNat)
  if s1.crn.count = s0.crn.count then .next s1
  else .next { s1 with crn := { s1.crn with sent := s1.crn.sent.filter (fun p => decide ((s.time - p.2).toNat ≤ 100000)) ++ [(q, s.time)] } }

/-- CAIRN_LINK_LOST (R325): the port loses its synchronisation. -/
def execCairnLinkLost (s : State) : Res := .next (({ s with crn := { s.crn with linkUp := false } }).crnEvent 6)

/-- VOTE_GRANT (R330–R332): granted pools are fenced; a denial ends the request, and RESULT 1 repeats it. -/
def execVoteGrant (msg : Bytes) (s : State) : Res :=
  match s.recvCairn 2 msg with
  | (none, t) => .next t
  | (some (d, _), t) =>
    let t := { t with crn := { t.crn with term := maxTerm t.crn.term (fieldAt d 0 8) } }
    match t.crn.votes.find? (fun v => decide (v.mseq = fieldAt d 16 8)) with
    | none => .next t
    | some v =>
      if fieldAt d 8 1 ≠ t.headId then .next t else
      let t1 := { t with crn := { t.crn with votes := t.crn.votes.filter (fun w => decide (w.mseq ≠ v.mseq)), retry := none } }
      let granted := fieldAt d 10 2
      if fieldAt d 9 1 = 0 ∧ granted ≠ 0 then
        let t2 := t1.crnEvent 0
        let t3 := if v.reason ≤ 1 then t2.goSolo else t2
        let ms := ((List.range 16).flatMap (fun p => if bit granted p then (t3.pool p).mods else [])).eraseDups
        let f : Fence := { pools := granted, term := BitVec.ofNat 64 (fieldAt d 0 8), reason := v.reason, left := ms, fenced := 0, missing := 0, since := t.time }
        .next { t3 with pair := { t3.pair with fence := some f } }
      else
        let t2 := (t1.crnEvent 1).pairEvent v.pools v.reason
        let t3 := { t2 with
          crn := { t2.crn with retry := if fieldAt d 9 1 = 1 ∧ v.reason ≤ 1 then some (v, t.time) else none },
          pair := { t2.pair with holdPools := t2.pair.holdPools &&& (0xFFFF - v.pools % 2 ^ 16),
                                 moves := t2.pair.moves.filter (fun q => !(decide (q.2 = 1) && bit v.pools q.1)) } }
        .next (t3.settleMode.releaseHeld)

/-- VOTE_RETRY (R330): every 100 µs while the condition lasts. -/
def execVoteRetry (s : State) : Res :=
  match s.crn.retry with
  | none => .next s
  | some (v, t) =>
    if (s.time - t).toNat < 10000 then .next s else
    let s1 := { s with crn := { s.crn with retry := none } }
    if v.reason = 0 ∧ s.pwr.peerYieldN = true ∧ s.pair.solo = false then .next s1
    else if v.reason = 1 ∧ s.rope.suspect = false then .next s1
    else .next (s1.takeover v.reason)

/-- PEER_YIELD_IN (R330): the peer's yield line reads low. -/
def execPeerYieldIn (s : State) : Res :=
  .next (({ s with pwr := { s.pwr with peerYieldN := false } }).takeover 0)

/-- PEER_SUSPECT (R330). -/
def execPeerSuspect (s : State) : Res := if s.rope.suspect then .next (s.takeover 1) else .next s

/-- YIELD_SEQUENCER (R329): a fatal fault of one of the eight causes. -/
def execYieldSequencer (cause : Nat) (s : State) : Res :=
  if 1 ≤ cause ∧ cause ≤ 8 then .next (s.yieldHead cause) else .next s

/-- CRN_YIELD (R329): a management core writes `CRN.YIELD`. -/
def execCrnYield (core : Nat) (v : W64) (s : State) : Res :=
  match s.gate (0x20 + core % 4) 0xB0020 8 true with
  | .open => if v.getLsbD 0 then .next ((s.setReg 0xB0020 1).yieldHead 7) else .next s
  | .shut t | .error t | .viol t => .next t

/-! ### Fencing and adoption -/

/-- FENCE_DONE (R332, R334): these modules' preempts have completed; with none left the pools are adopted. -/
def execFenceDone (done : List Nat) (s : State) : Res :=
  match s.pair.fence with
  | none => .next s
  | some f =>
    let (t, g) := s.preempted f done
    if g.pools ≠ 0 ∧ g.left.isEmpty then .next (t.adopt g)
    else .next { t with pair := { t.pair with fence := if g.pools = 0 ∧ g.left.isEmpty then none else some g } }

/-- The modules that have missed the fencing bound are absent for the adopted pools (R284, R333). -/
def State.fenceAbsent (s : State) (pools : Nat) (left : List Nat) : State :=
  left.foldl (fun t m => ((t.poolsOf m).filter (fun p => bit pools p && t.owns p)).foldl (fun u p => u.absentIn m p) t) s

/-- FENCING_BOUND (R333): 16 µs after the grant a module not yet preempted is absent, and the pools are adopted; its preempt is
repeated every 1 ms. -/
def execFencingBound (done : List Nat) (s : State) : Res :=
  match s.pair.fence with
  | none => .next s
  | some f =>
    if (s.time - f.since).toNat < (if f.pools = 0 then 100000 else 1600) then .next s else
    let (t, g) := s.preempted f done
    if f.pools ≠ 0 then
      let t1 := g.left.foldl (fun u m => u.setModu m { u.modu m with lost := true, lostAt := u.time }) t
      .next ((t1.adopt { g with missing := g.left.length }).fenceAbsent f.pools g.left)
    else
      let back := f.left.filter (fun m => decide (m ∈ done))
      let t1 := back.foldl (fun u m => u.setModu m { u.modu m with lost := false }) t
      .next { t1 with pair := { t1.pair with fence := if g.left.isEmpty then none else some { g with since := s.time } } }

/-- TAG_CHECK (R334 step 3). -/
def execTagCheck (pool seq : Nat) (s : State) : Res :=
  match (s.pool pool).checks.find? (fun g => decide (g.seq = seq)) with
  | some g => if s.owns pool then .next (s.resolveGroup pool g) else .next s
  | none => .next s

/-! ### Dual-send -/

/-- DUAL_SEND (R338): the relays are chosen, and every group not yet acknowledged is appended to both. -/
def execDualSend (pool : Nat) (s : State) : Res :=
  let x := s.pool pool
  if !s.owns pool || !s.rope.degraded || !s.streams pool || !x.relays.isEmpty then .next s else
  let ms := s.relayMods pool
  if ms.length < 2 then .next s else
  let s1 := ms.foldl (fun t m => t.needLog pool m) s
  let gs := x.jbuf.filter (fun g => decide (g.seq ∈ x.sentSeqs))
  let s2 := s1.updPool pool (fun y => { y with relays := ms })
  .next (s2.addSvcs (gs.flatMap (fun g => ms.map (fun m => Svc.relay pool m g))))

/-- RELAY_READ (R339): the shadow takes the groups it does not hold from the landing logs, in SEQ order. -/
def execRelayRead (pool : Nat) (s : State) : Res :=
  let x := s.pool pool
  if x.rel ≠ .shadow ∨ s.rope.degraded = false then .next s else
  let r := s.readRelays pool
  .next (r.1.sendAck (r.2.map (fun g => (pool, g.seq))))

/-- FORWARD_DEGRADE_TIMEOUT (R339): 50 ms after degradation the receiving head completes what it had forwarded. -/
def execForwardDegradeTimeout (s : State) : Res :=
  if s.rope.degraded = false ∨ (s.time - s.rope.degradedAt).toNat < 5000000 then .next s else
  .next ((s.host.cmds.filter (fun c => decide (c.2.phase = .forwarded))).foldl (fun t c => t.finishCmd c.1 stTransition 0 0) s)

/-! ### Starting together, planned moves, the routes -/

/-- STARTUP_CLAIM (R342): the pools found on the modules are claimed by vote. -/
def execStartupClaim (s : State) : Res :=
  if s.pwr.mode ≠ 3 ∨ s.wdn.routeLen = 0 ∨ s.pair.headIdClash ∨ !s.crn.votes.isEmpty ∨ s.pair.fence.isSome then .next s else
  let alone := decide (s.rope.peerHb = 0 ∧ (s.time - s.pwr.modeTime).toNat ≥ 200000000)
  let found := (List.range 16).filterMap (fun p => (s.newestAnchor p).map (fun sb => (p, sb)))
  let found := found.filter (fun q => !bit (fieldAt q.2 4 4) 0 && decide ((s.pool q.1).rel = .none))
  let s1 := found.foldl (fun (t : State) q =>
    let live := t.pool q.1
    let im := Tbl.getD t.ckpts (2 ^ 64 * q.1 + fieldAt q.2 0x88 8) live
    t.setPool q.1 { im with rel := .none, epoch := fieldAt q.2 0x2C 4, poolId := sliceAt q.2 8 16 }) s
  let mine := found.filter (fun (q : Nat × Bytes) =>
    let o := fieldAt q.2 0x28 1
    alone || decide (o = s.headId) || (s1.pool q.1).mods.any (fun m => (s1.modu m).held)
      || (decide (o > 1) && (decide (s.pwr.peerYieldN = false) || decide (s.headId = 0))))
  let mask := sumBy (fun (q : Nat × Bytes) => 2 ^ q.1) mine
  if mask ≠ 0 then .next (s1.voteRequest mask 2 (s1.epochsOf mask))
  else if s1.pools.all (fun (q : Nat × Pool) => decide (q.2.rel = .none)) && found.isEmpty && !decide (s.rope.peerMode ∈ [4, 5, 6, 7]) then
    .next (s1.setMode 9)
  else .next s1

/-- A planned move begins: the superblocks name the receiver, outputs are held, and the mode is HANDOVER (R341). -/
def State.moveBegin (s : State) (p to' : Nat) : State :=
  let s1 := s.updPool p (fun x => { x with moveTo := some to' })
  let s2 := s1.sbWriteAll p (s1.lastAnchor p) false s1.headId 1
  let s3 := { s2 with pair := { s2.pair with moves := Tbl.set s2.pair.moves p 0, holdPools := s2.pair.holdPools ||| 2 ^ p } }
  s3.freezeSqhd.setMode 7

/-- One further step of a releasing move: open segments close short, then RELEASE goes to the receiver (R341). -/
def State.moveDrive (s : State) (p to' : Nat) : State :=
  if s.cutBusy p ∨ s.svc.any (fun q => decide (svcMod q.2 ∈ (s.pool p).mods)) = true then s else
  let opens := (s.pool p).segs.filter (fun (q : Nat × Seg) => decide (q.2.state = 0))
  if !opens.isEmpty then opens.foldl (fun (t : State) (q : Nat × Seg) => t.closeShort p q.1) s
  else ({ s with pair := { s.pair with moves := Tbl.set s.pair.moves p 2 } }).sendControl 2 (2 ^ p) to'

/-- The Cairn has denied the receiver's vote: the move ends here (R341). -/
def State.moveDenied (s : State) (p : Nat) : State :=
  let s1 := s.moveOff p
  ((s1.sbWriteAll p (s1.lastAnchor p) false s1.headId 0).anaChange).pairEvent (2 ^ p) 3

/-- POOL_MOVE (R341, R343): MOVING in the superblock, HANDOVER, the holds; then, with nothing in flight, open segments closed
short and RELEASE. TAKEN completes the call; `denied` tells that the vote was denied. -/
def execPoolMove (call : Nat) (denied : Bool) (s : State) : Res :=
  match s.libCall call 60 with
  | none => .next s
  | some c =>
    let p := callPool c.entry
    let to' := callArg c.entry 0
    match Tbl.find s.pair.moves p with
    | none =>
      if p ≥ 16 ∨ to' > 1 ∨ to' = s.headId ∨ s.owns p = false then .next (s.libFail call 0x50)
      else if s.hasShadow p = false ∨ s.rope.degraded then .next (s.libFail call 0x51)
      else .next (s.moveBegin p to')
    | some 0 => .next (s.moveDrive p to')
    | some _ => if denied then .next ((s.moveDenied p).libFail call 0x52) else .next s

/-- PAIR_STATUS (R343). -/
def execPairStatus (call : Nat) (s : State) : Res :=
  match s.libCall call 61 with
  | none => .next s
  | some _ =>
    let r := s.rope
    let dual := s.pools.any (fun q => !q.2.relays.isEmpty)
    let lag := sumBy (fun q => if q.2.rel = .shadow then q.2.waiting.length else 0) s.pools
    .next (s.libRecords call [leBytes 1 s.headId ++ leBytes 1 s.pwr.mode ++ leBytes 1 r.peerMode ++ leBytes 1 (popcount r.lanes)
      ++ leBytes 2 (b2n r.degraded + 2 * b2n dual + 4 * b2n s.ropeLease + 8 * b2n s.cairnLease + 16 * b2n r.timeSynced)
      ++ leBytes 2 s.ownedMask ++ leBytes 8 s.crn.term.toNat ++ leBytes 2 s.shadowMask ++ leBytes 2 r.peerOwned
      ++ leBytes 4 r.offset.toNat ++ leBytes 4 lag ++ leBytes 4 s.pair.switches ++ leBytes 8 s.pair.lastSwitch.toNat
      ++ leBytes 4 s.pair.lastGap ++ zeros 20])

/-- YIELD_HEAD (R343): the completion goes out before the hold. -/
def execYieldHead (call : Nat) (s : State) : Res :=
  match s.libCall call 62 with
  | none => .next s
  | some _ => .next ((s.libDone call).yieldHead 7)

/-! ### ROPE jobs (R95, R228, R229, R324) -/

namespace State

/-- The ROPE unit accepts a record group: SEQ assigned and the buffer filled; without a live shadow the token is DONE. A pool that this head
does not own ends BAD_DESCRIPTOR (DESIGN CHOICE, log entry 85). -/
def ropeAccept (s : State) (n : Nat) (j : Job) : State :=
  let p := fieldAt j.desc 2 1
  let es := entriesOf (s.hBytes j.ridge (jh j 0))
  let b := es.getD 0 []
  if p ≥ 16 ∨ s.owns p = false ∨ hLen (jh j 0) % 32 ≠ 0 ∨ groupOk false es = false then s.finish n j 1 0 else
  let r := s.acceptGroup p (fieldAt b 0x1A 1) (es.drop 1) none (s.originRef 0)
  let g := r.2
  let s1 := r.1.hWrite j.ridge (jh j 0) 0 g.bytes
  let s2 := { s1 with jobs := Tbl.set s1.jobs n { j with desc := padTo 32 j.desc ++ leBytes 8 g.seq } }
  if s2.hasShadow p then s2 else s2.ropeJobsDone p

end State

/-- ROPE_JOURNAL_RECORDS (R16, R229, R331): a job not yet accepted is; one whose group the shadow has received is done. -/
def execRopeJournalRecords (job : Nat) (s : State) : Res :=
  match s.startable job 0x0A (fun o => decide (o = 0)) with
  | none => .next s
  | some j => if j.desc.length = 40 then .next (s.ropeJobsDone (fieldAt j.desc 2 1)) else .next (s.ropeAccept job j)

/-- ROPE_SHADOW_STATE (R95, R324): the items go to the shadow; no SEQ is given, and RESULT is 0 (DESIGN CHOICE, log entry 85). -/
def execRopeShadowState (job : Nat) (s : State) : Res :=
  match s.startable job 0x0A (fun o => decide (o = 1)) with
  | none => .next s
  | some j =>
    let p := fieldAt j.desc 2 1
    if p ≥ 16 ∨ s.owns p = false then .next (s.finish job j 1 0) else
    let s1 := if s.streams p then s.sendRope 6 false (s.hBytes j.ridge (jh j 0)) else s
    .next ((List.range 16).foldl (fun t q => t.ropeJobsDone q) (s1.finish job j 0 0))

end Sys2Proof.Machine
end

