-- ==== Sys2Proof/Machine/Pcie.lean ====
section
/-! DEFINITION. The PCIe endpoint (13): doorbells, the call queue's configuration, completions of parameter reads, MSI-X,
bus mastering, function resets, the link, peer windows and their keepers. -/

namespace Sys2Proof.Machine

namespace State

/-- A write to a register slot: its action on the slot's bits where the gate is open (R4, R9, R24, R474) and the register takes this
master's writes. -/
def gated (s : State) (m off width : Nat) (v : W64) (act : W64 → W64 → State → State) : State :=
  match s.gate m off width true with
  | .open => if mayWrite m off then act (slotValue off width v).1 (slotValue off width v).2 s else s
  | .shut t => t
  | .error t => t
  | .viol t => t

def pepEvent (s : State) (b : Nat) : State := s.raise rPepEvents (2 ^ b)

/-- Does a function take accesses to its BARs (R424, R425)? -/
def fnOpen (s : State) (fn : Nat) : Bool :=
  s.pep.linkUp && (if fn = 0 then s.pep.mse0 && !s.pep.frozen0 else s.pep.mse1 && !s.pep.frozen1)

/-- An address inside a BAR that decodes nothing (R404). -/
def barError (s : State) (fn bar off : Nat) : State := s.decodeError (0x50 + fn) (off % 2 ^ 44 + bar * 2 ^ 44)

/-- A write to an 8-byte slot of R405: 64 bits, or 32 bits at its first byte. -/
def slotWrite (off width : Nat) : Bool := (decide (width = 8) || decide (width = 4)) && decide (off % 8 = 0)

/-! ### The call queue (R409–R412) -/

/-- Management interrupt line 1 rises (R102, R410). -/
def ringBell (s : State) : State := { s with bell := true }

/-- The entry in slot `i` (R404). -/
def slotEntry (s : State) (i : Nat) : Bytes := Mem.readBytes s.pep.slots (64 * i) 64

/-- A `CALL_TAIL` doorbell (R410): the dispatcher copies the entries at once and moves SQ_HEAD past them. -/
def callTailAct (s : State) (v : Nat) : State :=
  if !s.callqOn then s.pepEvent 8 else
  let n := s.sqEntries
  let s1 := s.ringBell
  let queued := (s.pep.sqTail + n - s.pep.sqHead) % n
  let added := (v + n - s.pep.sqTail) % n
  if n ≤ v ∨ n - 1 - queued < added then s1.pepEvent 8
  else
    { s1 with pep := { s1.pep with
      queue := s1.pep.queue ++ (List.range added).map (fun i => s1.slotEntry ((s1.pep.sqTail + i) % n)), sqTail := v, sqHead := v } }

/-- A `CPL_HEAD` doorbell (R411). -/
def cplHeadAct (s : State) (v : Nat) : State :=
  if !s.callqOn then s.pepEvent 8 else
  let n := s.cqEntries
  let s1 := s.ringBell
  if n ≤ v ∨ (s.pep.cqTail + n - s.pep.cqHead) % n < (v + n - s.pep.cqHead) % n then s1.pepEvent 8
  else
    let s2 := { s1 with pep := { s1.pep with cqHead := v } }
    s2.cplDrain (s2.pep.cplWait.length)

/-- Has the dispatcher not begun a call: held before its parameter read, or not checked since a handover (R412)? -/
def undispatched (c : Call) : Bool := decide (c.phase = .handover) || (decide (c.phase = .held) && decide (c.param = nullH))

/-- PF0's calls that the dispatcher holds are dropped; the others' writebacks and completions are discarded (R412, R424). -/
def dropCalls (s : State) : State :=
  { s.wakeCores with
    calls := (s.calls.filter (fun (p : Nat × Call) => p.2.internal || !undispatched p.2)).map
      (fun (p : Nat × Call) => (p.1, if p.2.internal then p.2 else { p.2 with discarded := true })),
    bell := false
    pep := { s.pep with queue := [], cplWait := [] } }

/-- Setting ENABLE (R409). -/
def callqReset (s : State) : State :=
  { s with pep := { s.pep with sqHead := 0, sqTail := 0, cqHead := 0, cqTail := 0, phase := true } }

/-- A write of `PEP.CALLQ_CFG` or `PEP.CQ_BASE` (R409, R412). -/
def callqWrite (s : State) (off : Nat) (v mask : W64) : State :=
  let rw := BitVec.ofNat 64 (regDesc off).rw
  let old := s.reg off
  let new := (old &&& ~~~(mask &&& rw)) ||| (v &&& mask &&& rw)
  if s.callqOn then
    if off = rCallqCfg ∧ new = old &&& ~~~(1 : W64) then (s.dropCalls).setReg off new
    else s.pepEvent 10
  else
    let s1 := s.setReg off new
    if off = rCallqCfg ∧ new.getLsbD 0 = true then s1.callqReset else s1

/-! ### Parameter reads (R415, R416) -/

/-- What is still due of a read that ended early goes on arriving, and is discarded (R416, R424). -/
def lateRead (s : State) (n due : Nat) : State :=
  if due = 0 then s else { s with pep := { s.pep with late := Tbl.set s.pep.late n due } }

/-- A completion that names a read which ended early is discarded; none of its bytes left due, its tags are free (R416). -/
def lateArrive (s : State) (n due got : Nat) : State :=
  { s with pep := { s.pep with late := if due ≤ got then Tbl.del s.pep.late n else Tbl.set s.pep.late n (due - got) } }

/-- A parameter read fails: the buffer is freed, and the call completes with PARAM_FAULT and no climb (R59, R416). -/
def paramFault (s : State) (n : Nat) (c : Call) : State :=
  let s := if c.internal then s else s.lateRead n c.due
  let s1 := if c.param = nullH then s else s.freeBuf c.ridge (hSlot c.param)
  s1.endCall n 0x07 0xFF 0 0

/-- Place one completion of a read at its position, or fail the read: bytes beyond the block, or that have come already, are not due
(R415, R416). -/
def readPiece (s : State) (n : Nat) (c : Call) (p : ReadPiece) : State :=
  let fail := ((s.pepEvent 6).bump 0xD0040 16 16 1).paramFault n c
  match p with
  | .error => fail
  | .data off d =>
    if d.isEmpty || decide (callPlen c.entry < off + d.length) || decide (c.due < d.length)
        || c.got.any (fun g => decide (off < g.1 + g.2) && decide (g.1 < off + d.length)) then fail
    else
      let s1 := s.wrBytes (bufBase c.ridge + (s.bufOf c.ridge c.param).base * 1024 + off) d
      { s1 with calls := Tbl.set s1.calls n { c with due := c.due - d.length, got := (off, d.length) :: c.got } }

/-! ### MSI-X and bus mastering (R413, R423) -/

/-- Messages that a change of masks or of bus mastering releases; `lvl` sends the asserted levels too. -/
def msixRelease (s : State) (fn : Nat) (lvl : Bool) : State :=
  (List.range 8).foldl (fun (t : State) (v : Nat) =>
    let m := t.msix fn
    if bit m.pba v || (lvl && decide (fn = 0) && t.pfLevel v) then
      (t.setMsix fn { m with pba := m.pba &&& (0xFF - 2 ^ v) }).sendVec fn v
    else t) s

/-- The waiting posted writes leave in their order (R423). -/
def postedOut (s : State) : State :=
  s.pep.posted.foldl (fun t p => t.emit (.hostWrite p.addr p.data)) { s with pep := { s.pep with posted := [] } }

/-! ### Peer windows (R417–R422) -/

def winEvent (s : State) (w b : Nat) : State := s.raise (winReg w + 0x28) (2 ^ b)

/-- A rejected access of a window (R417, R420). -/
def winReject (s : State) (w : Nat) : State := (s.winEvent w 1).bump 0xD0040 48 16 1

/-- The set under which an access is translated: one that arrives while a commit is pending waits for it and finds the
shadow set (R418). -/
def winSet (s : State) (w : Nat) : W64 × W64 :=
  if w ∈ s.pep.commits then (s.reg (winReg w), s.reg (winReg w + 8)) else (s.reg (winReg w + 0x10), s.reg (winReg w + 0x18))

/-- May [x, x + n) of the window be reached in this direction? -/
def winAdmits (s : State) (w x n : Nat) (wr : Bool) : Bool :=
  let (h, c) := s.winSet w
  s.liveH (bits c.toNat 0 3) h && decide (x + n ≤ hLen h) && (if wr then c.getLsbD 4 else c.getLsbD 3)

/-- A write of COMMIT (R418). -/
def commitAct (s : State) (w : Nat) (v : W64) : State :=
  if !v.getLsbD 0 then s
  else if w ∈ s.pep.commits then s.winEvent w 3
  else { s with pep := { s.pep with commits := s.pep.commits ++ [w] } }

/-- A write of a shadow register (R418). -/
def shadowAct (s : State) (w : Nat) (off : Nat) (v mask : W64) : State :=
  if w ∈ s.pep.commits then s.winEvent w 2
  else
    let rw := BitVec.ofNat 64 (regDesc off).rw
    s.setReg off ((s.reg off &&& ~~~(mask &&& rw)) ||| (v &&& mask &&& rw))

/-- Commit the null handle on a window (R422, R424). -/
def commitNull (s : State) (w : Nat) : State := (s.setReg (winReg w) nullH).commitAct w 1

/-- The keeper serves a signal (R422): it SPAWNs the open route with h0 the buffer and g1 the signal value, unless a
signal is still being served or no climb is FREE. -/
def keeperServe (s : State) (w : Nat) : State :=
  match Tbl.find s.pep.keepers w with
  | none => s
  | some k =>
    let c := s.climb k
    if c.wakePending = false ∨ s.liveChild k = true ∨ s.freeClimbs (k / 1024) ≤ (if (s.route ((c.g.getD 1 0).toNat)).bg then 0 else s.reserve (k / 1024)) then s
    else
      let slot := (c.g.getD 1 0).toNat
      let r := s.route slot
      let child := { Climb.fresh with
        bg := r.bg, slot := slot, g := (List.replicate 32 0).set 1 (s.reg (winReg w + 0x30)),
        h := (List.replicate 16 nullH).set 0 (s.reg (winReg w + 0x10)), pc := BitVec.ofNat 64 r.entry,
        parent := some k, parentTok := 0, origin := .spawn }
      match s.allocClimb (k / 1024) child with
      | some (_, s1) => s1.updClimb k (fun c => { c with wakePending := false, t := c.t.set 0 .pending })
      | none => s

/-- A SIGNAL write that R405 accepts (R420). -/
def signalAct (s : State) (w : Nat) (v : W64) : State :=
  let h := s.reg (winReg w + 0x10)
  let c := s.reg (winReg w + 0x18)
  if h = nullH ∨ c.getLsbD 15 = false then s.winReject w
  else
    let s1 := s.setReg (winReg w + 0x30) v
    let cid := 1024 * bits c.toNat 0 3 + bits c.toNat 5 10
    if Tbl.find s.pep.keepers w = some cid then (s1.updClimb cid (fun c => { c with wakePending := true })).keeperServe w
    else s1.wake cid

/-- A write of `PEP.WIN_READY` (R422): PF1 vectors; only the management cores' writes count. -/
def winReadyAct (s : State) (m : Nat) (v : W64) : State :=
  if m < 0x20 ∨ 0x24 ≤ m then s
  else (List.range 8).foldl (fun t w => if v.getLsbD w then (t.sendVec 1 w).keeperServe w else t) s

/-- The shadow set becomes active (R418); a keeper whose window now names nothing frees its buffer and exits (R422). -/
def commitDone (s : State) (w : Nat) : State :=
  let s1 := (s.setReg (winReg w + 0x10) (s.reg (winReg w))).setReg (winReg w + 0x18) (s.reg (winReg w + 8))
  let s2 := { s1 with pep := { s1.pep with commits := s1.pep.commits.filter (fun x => decide (x ≠ w)) } }
  match Tbl.find s2.pep.keepers w with
  | none => s2
  | some k =>
    if s2.reg (winReg w + 0x10) ≠ nullH then s2 else
    let s3 := (s2.ownedBufs k).foldl (fun t b => t.freeBuf (k / 1024) b) s2
    let s4 := { s3 with pep := { s3.pep with keepers := Tbl.del s3.pep.keepers w } }.libEnd k (.exit 0)
    match s4.calls.find? (fun (c : Nat × Call) => decide (c.2.phase = .running ∧ callSlot c.2.entry = 89 ∧ callArg c.2.entry 0 = w)) with
    | some c => s4.libDone c.1
    | none => s4

/-! ### Function reset (R424, R426) -/

/-- A Function Level Reset of PF0, its record's counts taken first. -/
def flr0 (s : State) : State :=
  let held := (s.calls.filter (fun (p : Nat × Call) => !p.2.internal && undispatched p.2)).length
  let reads := s.calls.filter (fun (p : Nat × Call) => !p.2.internal && decide (p.2.phase = .reading))
  let entries := s.pep.queue.length + held
  let writes := s.pep.posted.length
  let s1 := s.dropCalls
  let s2 := reads.foldl (fun t p =>
    let u := if p.2.param = nullH then t else t.freeBuf p.2.ridge (hSlot p.2.param)
    ({ u with calls := Tbl.del u.calls p.1 }).lateRead p.1 p.2.due) s1
  let s3 := ((s2.setReg rCallqCfg 0).setReg rCqBase 0).setReg rPepEventsEn 0
  let s4 := { s3.callqReset with pep := { s3.callqReset.pep with
    posted := [], bme0 := false, mse0 := false, msix0 := Msix.fresh, flrBusy0 := true } }
  (s4.pepEvent 2).book 0x20 0x043 (leBytes 1 0 ++ leBytes 4 entries ++ leBytes 4 reads.length ++ leBytes 4 reads.length ++ leBytes 4 writes ++ [0])

/-- A Function Level Reset of PF1: the null handle on every window. -/
def flr1 (s : State) : State :=
  let bound := s.pep.keepers.length
  let s1 := (List.range 8).foldl (fun t w => if w ∈ t.pep.commits then t.setReg (winReg w) nullH else t.commitNull w) s
  let s2 := { s1 with pep := { s1.pep with bme1 := false, mse1 := false, msix1 := Msix.fresh, flrBusy1 := true } }
  (s2.pepEvent 3).book 0x20 0x043 (leBytes 1 1 ++ leBytes 4 0 ++ leBytes 4 0 ++ leBytes 4 0 ++ leBytes 4 0 ++ leBytes 1 bound)

/-- The warden has released a frozen master (R477). -/
def released (s : State) : State := s.raise rWdnEvents 4

/-- The release of a frozen master, or the violation of that master in the same cycle, by its address and direction: it wins, and the
release is counted in WARD's EVCNT (R478). -/
def releaseOr (s : State) (m queue : Nat) (clash : Option (Nat × Bool)) (free : State → State) : State :=
  match clash with
  | none => (free s).released
  | some (a, wr) => (s.violRecord m (s.profileOf m) queue a wr none).bump (evcntOf 0x50038) 0 32 1

end State

open State

/-- CALL_TAIL (R405, R410): writes of call entries, then the doorbell. -/
def execCallTail (fn off width : Nat) (v : W64) (entries : List (Nat × Bytes)) (s : State) : Res :=
  if fn ≠ 0 ∨ s.fnOpen 0 = false then .next s else
  let s1 := { s with pep := { s.pep with slots := entries.foldl (fun t e =>
    if e.1 + e.2.length ≤ 0x10000 then Mem.writeBytes t e.1 e.2 else t) s.pep.slots } }
  if off < 0x10000 then .next s1
  else if 0x10010 ≤ off then .next (s1.barError 0 2 off)
  else if !slotWrite off width || decide (off ≠ 0x10000) then .next s1.countBad
  else .next (s1.callTailAct (v.toNat % 2 ^ 32))

/-- CPL_HEAD (R405, R411). -/
def execCplHead (fn off width : Nat) (v : W64) (s : State) : Res :=
  if fn ≠ 0 ∨ s.fnOpen 0 = false then .next s
  else if off < 0x10000 ∨ 0x10010 ≤ off then .next (s.barError 0 2 off)
  else if !slotWrite off width || decide (off ≠ 0x10008) then .next s.countBad
  else .next (s.cplHeadAct (v.toNat % 2 ^ 32))

/-- CALLQ_ENABLE (R409). -/
def execCallqEnable (m width : Nat) (v : W64) (s : State) : Res :=
  .next (s.gated m rCallqCfg width v (fun x k t => t.callqWrite rCallqCfg x k))

/-- CALLQ_DISABLE (R412). -/
def execCallqDisable (m width : Nat) (v : W64) (s : State) : Res :=
  .next (s.gated m rCallqCfg width v (fun x k t => t.callqWrite rCallqCfg x k))

/-- PCIE_COMPLETION (R415, R416). -/
def execPcieCompletion (call : Option Nat) (p : ReadPiece) (s : State) : Res :=
  let stray := (s.pepEvent 7).bump 0xD0040 32 16 1
  match call with
  | none => .next stray
  | some n =>
    match Tbl.find s.pep.late n with
    | some due => .next (s.lateArrive n due (match p with | .data _ d => d.length | .error => 1))
    | none =>
    match Tbl.find s.calls n with
    | none => .next stray
    | some c => if c.internal ∨ c.phase ≠ .reading ∨ c.due = 0 then .next stray else .next (s.readPiece n c p)

/-- COMPLETION_TIMEOUT (R416); a read that ended early has its tags back. -/
def execCompletionTimeout (call : Nat) (s : State) : Res :=
  if (Tbl.find s.pep.late call).isSome then .next { s with pep := { s.pep with late := Tbl.del s.pep.late call } } else
  match Tbl.find s.calls call with
  | none => .next s
  | some c =>
    if c.internal ∨ c.phase ≠ .reading ∨ c.due = 0 then .next s
    else .next (((s.pepEvent 5).bump 0xD0040 0 16 1).paramFault call c)

/-- MSIX_UNMASK (R413): MSI-X Enable, the Function Mask and the vector masks as written. -/
def execMsixUnmask (fn : Nat) (enable fmask : Bool) (vmask : Nat) (s : State) : Res :=
  let m := s.msix fn
  let lvl := enable && ((!m.enable) || (m.fmask && !fmask))
  .next ((s.setMsix fn { m with enable := enable, fmask := fmask, vmask := vmask % 256 }).msixRelease fn lvl)

/-- BUS_MASTER_ENABLE (R423, R424): Bus Master Enable and Memory Space Enable as written. The first such request that a function accepts
after its reset ends FLR_BUSY (DESIGN CHOICE, log entry 97), and a Bus Master Enable that falls sets BME_OFF (DEDUCED, log entry 103). -/
def execBusMasterEnable (fn : Nat) (on mem : Bool) (s : State) : Res :=
  let was := if fn = 0 then s.pep.bme0 else s.pep.bme1
  let s1 := { s with pep := if fn = 0 then { s.pep with bme0 := on, mse0 := mem, flrBusy0 := false } else { s.pep with bme1 := on, mse1 := mem, flrBusy1 := false } }
  if !on then .next (if was then s1.pepEvent 4 else s1)
  else .next ((if fn = 0 then s1.postedOut else s1).msixRelease fn false)

/-- WRITEBACK_DISCARD (R423). -/
def execWritebackDiscard (call : Nat) (s : State) : Res :=
  match s.pep.posted.find? (fun p => decide (p.call = some call) && decide (p.since.toNat + 100000000 ≤ s.time.toNat)) with
  | none => .next s
  | some w =>
    if s.pep.bme0 then .next s else
    let fault := fun (e : Bytes) => e.take 4 ++ [0x07] ++ e.drop 5
    let ps := (s.pep.posted.erase w).map (fun (p : Posted) => if p.cpl = some call then { p with data := fault p.data } else p)
    let cs := s.pep.cplWait.map (fun (c : Cpl) => if c.call = call then { c with entry := fault c.entry } else c)
    .next ({ s with pep := { s.pep with posted := ps, cplWait := cs } }.pepEvent 4)

/-- FUNCTION_LEVEL_RESET (R424). -/
def execFunctionLevelReset (fn : Nat) (s : State) : Res := .next (if fn = 0 then s.flr0 else s.flr1)

/-- PCIE_LINK_DOWN (R426). -/
def execPcieLinkDown (s : State) : Res :=
  if !s.pep.linkUp then .next s else
  let s1 := (s.flr0.flr1).pepEvent 0
  .next ({ s1 with pep := { s1.pep with linkUp := false, speed := 0, width := 0, retrained := false } }.book 0x20 0x042 [])

/-- PCIE_LINK_UP (R402, R426, R477): the link trains; a frozen function is released once the link has gone down and returned,
unless it violates in the same cycle (R478): the operand's clash gives the function, the address and the direction. -/
def execPcieLinkUp (speed : Nat) (width : Raced Nat (Nat × Nat × Bool)) (s : State) : Res :=
  if s.pep.linkUp ∨ bit s.pwr.domains 79 = false then .next s else
  let s1 := { s with pep := { s.pep with linkUp := true, speed := speed % 8, width := width.val % 32, retrained := true } }
  let hit := fun (fn : Nat) => (width.clash.filter (fun c => decide (c.1 = fn))).map Prod.snd
  let s2 := if s1.pep.frozen0 then s1.releaseOr 0x50 0 (hit 0) (fun t => { t with pep := { t.pep with frozen0 := false } }) else s1
  let s3 := if s2.pep.frozen1 then s2.releaseOr 0x51 0 (hit 1) (fun t => { t with pep := { t.pep with frozen1 := false } }) else s2
  .next (s3.pepEvent 1)

/-- PEER_WINDOW_ACCESS (R417, R425): a write with its bytes, or a read. -/
def execPeerWindowAccess (off len : Nat) (data : Option Bytes) (s : State) : Res :=
  let w := off / 0x100000
  let x := off % 0x100000
  let reply := fun (t : State) (st : Nat) (d : Bytes) => match data with
    | some _ => t
    | none => t.emit (.pcieReply 1 st d)
  if !s.pep.linkUp then .next s
  else if s.pep.frozen1 then .next (reply s 4 [])
  else if !s.pep.mse1 then .next (reply s 1 [])
  else if 8 ≤ w then .next s
  else
    let n := match data with | some d => d.length | none => len
    if !s.winAdmits w x n data.isSome then .next (reply (s.winReject w) 1 [])
    else
      let (h, c) := s.winSet w
      match data with
      | some d => .next ((s.hWrite (bits c.toNat 0 3) h x d).bump (winReg w + 0x38) 0 64 d.length)
      | none => .next (reply s 0 (s.rdBytes (s.hAddr (bits c.toNat 0 3) h + x) len))

/-- COMMIT (R418). -/
def execCommit (m w width : Nat) (v : W64) (s : State) : Res :=
  if 8 ≤ w then .next s else .next (s.gated m (winReg w + 0x20) width v (fun x _ t => t.commitAct w x))

/-- COMMIT_COMPLETE (R418). -/
def execCommitComplete (w : Nat) (s : State) : Res := if w ∈ s.pep.commits then .next (s.commitDone w) else .next s

/-- WIN_SHADOW_WRITE (R418): register 0 is SHADOW_HANDLE, 8 is SHADOW_CTL. -/
def execWinShadowWrite (m w reg width : Nat) (v : W64) (s : State) : Res :=
  if 8 ≤ w ∨ (reg ≠ 0 ∧ reg ≠ 8) then .next s
  else .next (s.gated m (winReg w + reg) width v (fun x k t => t.shadowAct w (winReg w + reg) x k))

/-- SIGNAL (R405, R420). -/
def execSignal (off width : Nat) (v : W64) (s : State) : Res :=
  if !s.fnOpen 1 then .next s
  else if 64 ≤ off then .next (s.barError 1 2 off)
  else if !slotWrite off width then .next s.countBad
  else .next (s.signalAct (off / 8) (if width = 8 then v else v &&& 0xFFFFFFFF))

/-- WIN_READY (R422). -/
def execWinReady (m width : Nat) (v : W64) (s : State) : Res :=
  .next (s.gated m 0xD0048 width v (fun x _ t => t.winReadyAct m x))

/-- PEER_BIND (R421, R422): the keeper starts once a climb and a buffer are there, and the call ends once the window is
active. -/
def execPeerBind (call : Nat) (s : State) : Res :=
  match s.libCall call 88 with
  | none => .next s
  | some c =>
    let w := callArg c.entry 0
    let n := callArg c.entry 1
    let slot := callArg c.entry 2
    if 8 ≤ w ∨ n = 0 ∨ 0x100000 < n ∨ slot < 192 ∨ 256 ≤ slot then .next (s.libFail call 0x74) else
    match Tbl.find s.pep.keepers w with
    | some k =>
      if (s.climb k).origin = .keeper w ∧ (s.climb k).g.getD 2 0 = BitVec.ofNat 64 call then
        if w ∈ s.pep.commits then .next s
        else .next ((s.updClimb k (fun c => { c with g := c.g.set 2 0 })).libExit call 0 (s.reg (winReg w + 0x10)).toNat)
      else .next (s.libFail call 0x75)
    | none =>
      if s.reg (winReg w + 0x10) ≠ nullH ∨ w ∈ s.pep.commits then .next (s.libFail call 0x75)
      else if s.freeClimbs c.ridge = 0 ∨ s.allocTurn c.ridge n true = false then .next s
      else
        let g := ((List.replicate 32 (0 : W64)).set 1 (BitVec.ofNat 64 slot)).set 2 (BitVec.ofNat 64 call)
        match s.allocClimb c.ridge { Climb.fresh with bg := true, origin := .keeper w, g := g } with
        | none => .next s
        | some (k, s1) =>
          let (b, s2) := s1.allocBuf c.ridge n k
          let s3 := { s2 with pep := { s2.pep with keepers := Tbl.set s2.pep.keepers w k } }
          let s4 := (s3.setReg (winReg w) (s3.slotH c.ridge b 0 n)).setReg (winReg w + 8)
            (BitVec.ofNat 64 (c.ridge % 8 + 2 ^ 4 + k % 1024 * 2 ^ 5 + 2 ^ 15))
          .next ((s4.commitAct w 1).libPark k)

/-- PEER_UNBIND (R421, R422): a signal still being served ends first; the call ends when the keeper exits. -/
def execPeerUnbind (call : Nat) (s : State) : Res :=
  match s.libCall call 89 with
  | none => .next s
  | some c =>
    let w := callArg c.entry 0
    if 8 ≤ w then .next (s.libFail call 0x74) else
    match Tbl.find s.pep.keepers w with
    | none => .next (s.libFail call 0x76)
    | some k =>
      let s1 := s.keeperServe w
      if s1.liveChild k ∨ (s1.climb k).wakePending = true ∨ w ∈ s1.pep.commits then .next s1
      else .next (s1.commitNull w)

end Sys2Proof.Machine
end

