-- ==== Sys2Proof/Machine/Calls.lean ====
section
/-! DEFINITION. The route call dispatcher (R56–R62): checks, holds, parameter blocks and the climbs of route calls. -/

namespace Sys2Proof.Machine

namespace State

/-- The owner that a parameter buffer has before its climb starts. -/
def noClimb : Nat := 2 ^ 20

/-- The mode's answer to a call (R60). -/
def modeAdmits (s : State) (slot : Nat) : Bool :=
  if s.pwr.mode ∈ [4, 5, 6, 9] then true
  else if s.pwr.mode = 10 then decide (slot = 116 ∨ slot = 117)
  else if s.pwr.mode = 1 then decide (slot = 115 ∨ slot = 117)
  else false

/-- Does a call name an absent unit (R5): its ridge, the host port or the module port of an argument? A number beyond the ports of any
part is an argument out of range, which the route reports (DEDUCED, log entry 74). -/
def callAbsent (s : State) (e : Bytes) : Bool :=
  let slot := callSlot e
  let port := callArg e 0
  (decide (callRidge e ≠ 0xFF) && !s.ridgePresent (callRidge e))
    || (decide (slot ∈ [80, 81, 84]) && decide (port < 8) && !s.hifPresent port)
    || (decide (slot ∈ [54, 92, 93]) && decide (port < 64) && !s.mpcPresent port)

/-- The first check of R59 that a call entry fails. -/
def callCheck (s : State) (e : Bytes) : Option Nat :=
  let slot := callSlot e
  let r := s.route slot
  let ridge := callRidge e
  let pool := callPool e
  if fieldAt e 3 1 / 2 ≠ 0 ∨ fieldAt e 0x0A 2 ≠ 0 ∨ 255 < slot ∨ 5 < callArgc e ∨ (r.valid && r.callable && decide (r.args < callArgc e)) = true
      ∨ 0x100000 < callPlen e ∨ (7 < ridge ∧ ridge ≠ 0xFF) ∨ (15 < pool ∧ pool ≠ 0xFF) then some 0x02
  else if r.valid = false ∨ r.callable = false then some 0x03
  else if s.callAbsent e then some 0x04
  else if s.modeAdmits slot = false then some 0x05
  else if pool ≠ 0xFF ∧ slot ≠ 40 ∧ s.owns pool = false then some 0x06
  else none

/-- The present ridge with the most FREE climbs, the lowest in a tie (R15). -/
def mostFree (s : State) : Option Nat := minBy (fun n => 1024 - s.freeClimbs n) ((List.range 8).filter s.ridgePresent)

/-- A call's climb starts (R62). -/
def callClimb (s : State) (n : Nat) (c : Call) : State :=
  let e := c.entry
  let r := s.route (callSlot e)
  let g := (List.range 32).map (fun i =>
    if 1 ≤ i ∧ i ≤ 5 then BitVec.ofNat 64 (callArg e (i - 1)) else if i = 6 then BitVec.ofNat 64 (callPool e) else 0)
  match s.allocClimb c.ridge { Climb.fresh with
      bg := r.bg, slot := callSlot e, g := g, h := (List.replicate 16 0).set 0 c.param, pc := BitVec.ofNat 64 r.entry, origin := .call n } with
  | none => s
  | some (cid, s1) =>
    let s2 := { s1 with
      calls := Tbl.set s1.calls n { c with phase := .running, cid := some cid },
      bufs := if c.param = nullH then s1.bufs
              else Tbl.upd s1.bufs (8192 * c.ridge + hSlot c.param) (fun b => { b with owner := cid }) }
    s2

/-- PF0's calls that the dispatcher has taken in hand are counted. -/
def countCall (s : State) (c : Call) : State :=
  if c.internal then s else { s with pep := { s.pep with dispatched := s.pep.dispatched + 1 } }

/-- Can a call start in a ridge: a FREE climb (R43) and room for its parameter block? -/
def callRoom (s : State) (c : Call) (ridge : Nat) : Bool :=
  decide (0 < s.freeClimbs ridge) && (decide (callPlen c.entry = 0)
    || s.allocTurn ridge (callPlen c.entry) (s.route (callSlot c.entry)).bg)

/-- Start a call in a ridge: its parameter block is read first (R59, R62, R415). -/
def startCall (s : State) (n : Nat) (c : Call) (ridge : Nat) : State :=
  let s0 := s.countCall c
  let len := callPlen c.entry
  if len = 0 then s0.callClimb n { c with ridge := ridge, param := nullH }
  else
    let (slot, s1) := s0.allocBuf ridge len noClimb
    let c1 := { c with ridge := ridge, param := s1.slotH ridge slot 0 len, phase := .reading, due := len }
    let s2 := { s1 with calls := Tbl.set s1.calls n c1 }
    if c.internal then s2 else s2.emit (.hostRead (callPaddr c.entry) len)

/-- A call ends at a check (R58, R59). -/
def refuseCall (s : State) (n : Nat) (c : Call) (status : Nat) : State := (s.countCall c).endCall n status 0xFF 0 0

def setCall (s : State) (n : Nat) (c : Call) : State := { s with calls := Tbl.set s.calls n c }

/-- Has an earlier call of the same choice of ridge not started yet (R61): held, its parameter block still being read, or not checked
since a handover? -/
def heldBefore (s : State) (n : Nat) (ridge : Nat) : Bool :=
  s.calls.any (fun p => decide (p.1 < n) && decide (p.2.phase ∈ [CallPhase.held, .reading, .handover]) && decide (callRidge p.2.entry = ridge))

/-- A call whose parameter block is in its buffer starts, or is held while its ridge has no climb for it: NO_FREE (R43, R61). -/
def climbOrHold (s : State) (n : Nat) (c : Call) : State :=
  if s.freeClimbs c.ridge = 0 then (s.raise (climbBlk c.ridge + 0x10) 2).setCall n { c with phase := .held, due := 0 }
  else s.callClimb n { c with due := 0 }

/-- The ridge in which a call would start now. -/
def callTarget (s : State) (c : Call) : Option Nat :=
  if callRidge c.entry = 0xFF then s.mostFree else some (callRidge c.entry)

/-- A checked call starts, runs without a climb in STANDBY, or is held (R60, R61). A call with RIDGE 0xFF that finds no climb sets NO_FREE
of the ridge that R15 picks (DESIGN CHOICE, log entry 75). -/
def placeCall (s : State) (n : Nat) (c : Call) : State :=
  if s.pwr.mode = 1 then
    ((s.countCall c).setCall n { c with phase := .running, ridge := 0xFF, param := nullH })
  else
    match s.callTarget c with
    | none => s.setCall n { c with phase := .held }
    | some r =>
      if s.heldBefore n (callRidge c.entry) then s.setCall n { c with phase := .held }
      else if s.callRoom c r then s.startCall n c r
      else (if s.freeClimbs r = 0 then s.raise (climbBlk r + 0x10) 2 else s).setCall n { c with phase := .held }

/-- The dispatcher's checks and what follows them (R59–R61). -/
def judgeCall (s : State) (n : Nat) (c : Call) : State :=
  match s.callCheck c.entry with
  | some st => (s.setCall n c).refuseCall n c st
  | none => s.placeCall n c

/-- The dispatcher takes one entry. -/
def takeCall (s : State) (internal : Bool) (e : Bytes) : State :=
  let n := s.stamp
  let c : Call := { internal := internal, entry := padTo 64 e, phase := .held, cid := none, ridge := 0xFF, param := nullH, due := 0,
                    discarded := false }
  if s.pwr.mode = 7 then s.tick.setCall n { c with phase := .handover } else s.tick.judgeCall n c

end State

open State

/-- ROUTE_CALL_DISPATCH (R59–R61): the oldest entry of PF0's queue, or an entry of the firmware. -/
def execRouteCallDispatch (internal : Option Bytes) (s : State) : Res :=
  match internal with
  | some e => .next (s.takeCall true e)
  | none =>
    match s.pep.queue with
    | [] => .next s
    | e :: q =>
      if !s.pep.bme0 || s.pep.frozen0 || !s.pep.linkUp then .next s
      else
        let s1 := { s.wakeCores with pep := { s.pep with queue := q }, bell := s.bell && !q.isEmpty }
        .next (s1.takeCall false e)

/-- HELD_CALL_START (R61): the oldest held call of a ridge, or the oldest that names none, in the ridge that R15 picks now; a call whose
parameter block has been read starts in the ridge where it lies. -/
def execHeldCallStart (ridge : Option Nat) (s : State) : Res :=
  match s.calls.find? (fun (p : Nat × Call) => decide (p.2.phase = .held) && decide (callRidge p.2.entry = ridge.getD 0xFF)) with
  | none => .next s
  | some (n, c) =>
    if s.heldBefore n (callRidge c.entry) then .next s
    else if c.param ≠ nullH then .next (if s.freeClimbs c.ridge = 0 then s else s.callClimb n c)
    else match s.callTarget c with
      | none => .next s
      | some r => if s.callRoom c r then .next (s.startCall n c r) else .next s

/-- HANDOVER_CALL_CHECK (R60): once the mode has ended, the calls held during it are checked in order. -/
def execHandoverCallCheck (s : State) : Res :=
  if s.pwr.mode = 7 then .next s else
  .next (s.calls.foldl (fun (t : State) (p : Nat × Call) =>
    if p.2.phase = .handover then t.judgeCall p.1 { p.2 with phase := .held } else t) s)

/-- PARAM_BLOCK_READ (R59, R62): the block is in the buffer, and the climb starts; for a call of the firmware, `ok` tells whether
the block's device addresses could be read. -/
def execParamBlockRead (call : Nat) (ok : Bool) (s : State) : Res :=
  match Tbl.find s.calls call with
  | none => .next s
  | some c =>
    if c.phase ≠ .reading then .next s
    else if !c.internal then
      if c.due ≠ 0 then .next s else .next (s.climbOrHold call c)
    else if !ok then .next (s.paramFault call c)
    else
      let s0 := s.dmaTouch (callPaddr c.entry) (callPlen c.entry) false
      let s1 := s0.wrBytes (bufBase c.ridge + (s.bufOf c.ridge c.param).base * 1024) (s.rdBytes (callPaddr c.entry) (callPlen c.entry))
      .next (s1.climbOrHold call c)

/-- CLIMB_WAKE (R39, R475): a write of `RDG[n].CLIMB.WAKE`. -/
def execClimbWake (m ridge : Nat) (v : W64) (s : State) : Res :=
  .next (s.gated m (climbBlk ridge + 0x18) 8 v (fun x _ t => t.wake (1024 * ridge + bits x.toNat 0 10)))

/-- LOP_ENTRY_UPDATE (R26–R31): the firmware's update of one entry; a write by any other master is a violation. -/
def execLopEntryUpdate (m i : Nat) (u : LopUpdate) (s : State) : Res :=
  if 64 ≤ i then .next s else
  .next (s.gated m (0xF0000 + i * 0x20) 8 0 (fun _ _ t =>
    if m < 0x20 ∨ 0x24 ≤ m then t
    else
      let old := t.lopWord i
      let gen := bits old 32 16
      let pct := if u.phase = 3 then 10000 else min 9999 (10000 * u.done / max 1 u.work)
      let w := b2n u.valid + u.typ % 8 * 2 + b2n (decide (u.posUnit ≠ 0)) * 2 ^ 4 + u.phase % 8 * 2 ^ 5 + u.pool % 16 * 2 ^ 8
        + b2n u.device * 2 ^ 12 + pct * 2 ^ 16 + (gen + 2) % 65536 * 2 ^ 32
      let t1 := (((t.setReg (0xF0000 + i * 0x20) (BitVec.ofNat 64 w)).setReg (0xF0008 + i * 0x20) u.position).setReg
        (0xF0010 + i * 0x20) u.total).setReg (0xF0018 + i * 0x20) u.start
      let t2 := if u.phase ∈ [3, 4, 5] ∧ lopPhase old ∉ [3, 4, 5] then
          { t1 with lopEnded := Tbl.set t1.lopEnded i t1.stamp }.tick else t1
      let t3 := if u.taken ∨ lopPhase old ≠ u.phase then (t2.raise rLopChanged (2 ^ i)).raise rLopChangedHost (2 ^ i) else t2
      if u.device then t3 else t3.shadowLopSend i (u.pool % 16)))

end Sys2Proof.Machine
end

