-- ==== Sys2Proof/Machine/Reset.lean ====
section
/-! DEFINITION. The resets of R540 as one operation: what each item holds afterwards (R485, R541). -/

namespace Sys2Proof.Machine.State

/-- The power domains whose memories are wiped after power-up and after a reset (R485, R526): the warden's SRAM, the management
memory and Notch, the map cache, climb stores and buffers, instruction caches, unit contexts and XTS slots, host intakes,
rope buffers. -/
def memDomains : List Nat :=
  [1, 2, 4, 5] ++ (List.range 48).map (fun i => 6 + i) ++ (List.range 8).map (fun i => 62 + i) ++ [78]

/-- What stays of a module across a reset of the head: its medium and its reservations (R433, R447). -/
def keepModu (m : Modu) : Modu :=
  { Modu.fresh with slabs := m.slabs, registered := m.registered, regKey := m.regKey, held := m.held, foreign := m.foreign }

/-- The book across a reset (R513, R515, R517). -/
def keepBook (b : Sbk) : Sbk :=
  { b with nonce := none, clearing := none, stages := [], queue := b.queue.map (fun r => { r with job := none }) }

/-- Power and clocks across a reset of a kind from a source (R541). -/
def resetPwr (p : Pwr) (time : W64) (kind source : Nat) : Pwr :=
  { p with
    mode := 2, prev := p.mode, modeTime := time, kind := kind, source := source, faultDomain := 0, hasFault := false,
    refLostSeen := false, tjPeak := p.tjNow, yieldN := false, wiping := memDomains.filter (fun d => bit p.domains d), single := none }

/-- A reset of R540 other than POWER_ON: kind 1 PIN, 2 SOFTWARE, 3 QUARANTINE_AUTO, with the master that asked for it. -/
def resetHead (s : State) (kind source : Nat) : State :=
  let q := s.reg 0x20050
  let r := { State.reset with
    pending := s.pending, time := s.time, subTick := s.subTick, stamp := s.stamp, freeCtr := s.freeCtr, out := s.out,
    sbk := keepBook s.sbk, fuses := s.fuses, pwr := resetPwr s.pwr s.time kind source }
  let r1 := { r with
    wdn := { Wdn.fresh with keyArea := s.wdn.keyArea, areaBlank := s.wdn.areaBlank },
    modules := s.modules.map (fun (m : Nat × Modu) => (m.1, keepModu m.2)), ckpts := s.ckpts,
    upd := { s.upd with armTo := none, session := none, hinge := none },
    harvested := s.harvested, harvestedAt := s.harvestedAt }
  r1.setReg 0x20050 q

end Sys2Proof.Machine.State
end

