-- ==== Sys2Proof/Machine/Warden.lean ====
section
/-! DEFINITION. The warden (15): random numbers, signed objects, the boot ROM and the route load, measurements and quotes,
releases of frozen masters, the watchdog, the lifecycle, and the calls of R486. -/

namespace Sys2Proof.Machine

namespace State

/-! ### Signed objects (R465, R466) -/

def sigLen : Nat := 30624

/-- The live slot whose fused hash a key matches, other than an excepted one (R466, R469). -/
def slotOf (s : State) (hashes : List Bytes) (base : Nat) (key : Bytes) (skip : Option Nat) : Option Nat :=
  [0, 1].find? (fun i => !bit s.fuses.revoke (base + i) && decide (some i ≠ skip) && decide (hashes.getD i [] = sha384 key))

/-- Verify a message under its signature block: the RSA and SLH-DSA slots, or the code of R468. -/
def verifySigned (s : State) (msg blk : Bytes) (skipRsa skipSlh : Option Nat) : Nat ⊕ (Nat × Nat) :=
  let n := sliceAt blk 0 384
  let pk := sliceAt blk 0x180 64
  match s.slotOf s.fuses.keyHashRsa 0 n skipRsa with
  | none => .inl 0x03
  | some r =>
    if decide ((n.headD 0).toNat < 0x80) || !Config.rsaVerify n msg (sliceAt blk 0x1C0 384) then .inl 0x03
    else match s.slotOf s.fuses.keyHashSlh 2 pk skipSlh with
      | none => .inl 0x04
      | some k => if Config.slhVerify pk msg (sliceAt blk 0x340 29792) then .inr (r, k) else .inl 0x04

/-! ### Boot slots and manifests (R489–R491, R497–R499) -/

def nor (s : State) (slot : Nat) : Nor := Tbl.getD s.upd.slots slot Nor.fresh

def setNor (s : State) (slot : Nat) (x : Nor) : State := { s with upd := { s.upd with slots := Tbl.set s.upd.slots slot x } }

/-- Bytes of a slot's image area; unwritten flash reads as ones. -/
def norBytes (s : State) (slot off n : Nat) : Bytes := (List.range n).map (fun i => Tbl.getD (s.nor slot).image (off + i) 0xFF)

/-- The newest hinge record of a slot; a slot without one counts as ACTIVE with GEN 0 (R490). -/
def hrec (s : State) (slot : Nat) : HRec :=
  (s.nor slot).recs.getLastD { state := 4, reason := 0, gen := 0, time := 0, len := 0xFE00000, sender := 0 }

/-- Append a hinge record with the next GEN; a full area of 16,384 records is erased first, and opens with the newest (R490). -/
def putRec (s : State) (slot state reason : Nat) (time : W64) (len sender : Nat) : State :=
  let g := ((s.nor 0).recs ++ (s.nor 1).recs).foldl (fun n r => max n r.gen) 0 + 1
  let old := (s.nor slot).recs
  s.setNor slot { s.nor slot with recs := (if 16384 ≤ old.length then old.drop (old.length - 1) else old) ++
    [{ state := state, reason := reason, gen := g, time := time, len := len, sender := sender }] }

/-- A hinge record as its slot's device holds it (R490). -/
def hrecBytes (r : HRec) : Bytes :=
  let b := leBytes 4 0x45474E48 ++ leBytes 2 1 ++ leBytes 1 r.state ++ leBytes 1 r.reason ++ leBytes 8 r.gen ++ leBytes 8 r.time.toNat
    ++ leBytes 4 r.len ++ leBytes 4 r.sender ++ zeros 28
  b ++ leBytes 4 (crc32c b)

/-- A record that changes a slot's state and keeps the rest of its newest record. -/
def markRec (s : State) (slot state reason : Nat) (time : W64) : State :=
  s.putRec slot state reason time (s.hrec slot).len (s.hrec slot).sender

/-- The header of a slot's manifest. -/
def manHead (s : State) (slot : Nat) : Bytes := s.norBytes slot 0 64
def manEntries (h : Bytes) : Nat := fieldAt h 6 2
def manLen (h : Bytes) : Nat := fieldAt h 0x0C 4
def manEntry (s : State) (slot i : Nat) : Bytes := s.norBytes slot (64 + 64 * i) 64

def eKind (e : Bytes) : Nat := fieldAt e 0 1
def ePartOff (e : Bytes) : Nat := fieldAt e 4 4
def ePartLen (e : Bytes) : Nat := fieldAt e 8 4

/-- Do the parts ascend without overlap within the image? -/
def partsAscend (len : Nat) : Nat → List Bytes → Bool
  | _, [] => true
  | at', e :: r => decide (at' ≤ ePartOff e) && decide (ePartOff e + ePartLen e ≤ len) && partsAscend len (ePartOff e + ePartLen e) r

/-- Is one manifest entry well-formed (R498)? -/
def entryGood (mlen : Nat) (e : Bytes) : Bool :=
  decide (eKind e ≤ 6) && (if eKind e = 6 then decide (192 ≤ fieldAt e 1 1) else decide (fieldAt e 1 1 = 0))
    && decide (fieldAt e 2 2 = 0) && decide (fieldAt e 0x3C 4 = 0) && decide (ePartOff e % 4096 = 0) && decide (mlen ≤ ePartOff e)
    && decide (1 ≤ ePartLen e)

/-- Is the manifest well-formed (R497–R499)? -/
def manGood (s : State) (slot : Nat) : Bool :=
  let h := s.manHead slot
  let n := manEntries h
  let es := (List.range n).map (s.manEntry slot)
  let opens := es.filter (fun e => decide (eKind e = 6))
  decide (fieldAt h 0 4 = 0x4E414D48) && decide (fieldAt h 4 2 = 1) && decide (6 ≤ n) && decide (n ≤ 70)
    && decide (manLen h = 64 + 64 * n + sigLen) && decide (fieldAt h 0x28 24 = 0) && decide (fieldAt h 0x0A 2 ≤ 64)
    && decide (fieldAt h 8 2 ∈ [0, s.fuses.part]) && decide (fieldAt h 8 2 ∈ [0, 0x0960, 0x0940, 0x0920])
    && es.all (entryGood (manLen h))
    && (List.range 6).all (fun k => decide ((es.filter (fun e => decide (eKind e = k))).length = 1))
    && decide ((opens.map (fun e => fieldAt e 1 1)).eraseDups.length = opens.length)
    && opens.all (fun e =>
      let w := fieldAt (s.norBytes slot (ePartOff e + 8) 8) 0 8
      bit w 49 && !(!bit w 51 && !bit w 50))
    && partsAscend (s.hrec slot).len 0 es

/-- Verification of a slot (R467 step 3): the key slots, or the code of R468. -/
def verifySlot (s : State) (slot : Nat) : Nat ⊕ (Nat × Nat) :=
  if !s.manGood slot then .inl 0x02 else
  let h := s.manHead slot
  let signed := manLen h - sigLen
  match s.verifySigned (s.norBytes slot 0 signed) (s.norBytes slot signed sigLen) none none with
  | .inl c => .inl c
  | .inr k =>
    let es := (List.range (manEntries h)).map (s.manEntry slot)
    if fieldAt h 0x0A 2 < s.fuses.svn then .inl 0x06
    else if 128 * 2 ^ 20 < sumBy ePartLen es then .inl 0x07
    else if es.any (fun e => decide (sha384 (s.norBytes slot (ePartOff e) (ePartLen e)) ≠ sliceAt e 0x0C 48)) then .inl 0x05
    else .inr k

/-- The first slot to try (R491). -/
def firstSlot (s : State) : Nat :=
  let a := s.hrec 0
  let b := s.hrec 1
  let pick := fun (st : Nat) =>
    if a.state = st ∧ b.state = st then some (if a.gen < b.gen then 1 else 0)
    else if a.state = st then some 0 else if b.state = st then some 1 else none
  match pick 2 with
  | some k => k
  | none => (pick 4).getD 0

/-! ### The keyway table (R407, R408) -/

/-- A descriptor. -/
def kwDesc (unit index flags window size fn bar addr : Nat) : Bytes :=
  leBytes 2 unit ++ leBytes 1 index ++ leBytes 1 0x20 ++ leBytes 4 flags ++ leBytes 8 window ++ leBytes 4 size ++ leBytes 1 fn
    ++ leBytes 1 bar ++ [0, 0] ++ leBytes 8 addr

/-- The descriptor of a control-space block. -/
def kwCtl (unit index base size : Nat) : Bytes :=
  kwDesc unit index (if unit = 0x07 ∨ unit = 0x0E ∨ unit = 0x10 then 3 else 1) (0x800000 + base) size 0 0 (ctlBase + base)

/-- Bases of the single units by unit code from 0x01. -/
def kwSingles : List Nat :=
  [0, 0x10000, 0x20000, 0x30000, 0x40000, 0x50000, 0x60000, 0x70000, 0x80000, 0x90000, 0xA0000, 0xB0000, 0xC0000, 0xD0000, 0xE0000,
   0xF0000]

/-- Every descriptor, sorted by UNIT and INDEX; absent units have none. -/
def kwDescs (s : State) : List Bytes :=
  (List.range 16).map (fun i => kwCtl (i + 1) 0 (kwSingles.getD i 0) 0x10000)
    ++ ((List.range 8).filter s.drcPresent).map (fun n => kwCtl 0x11 n (0x100000 + n * 0x10000) 0x10000)
    ++ ((List.range 8).filter s.hifPresent).map (fun n => kwCtl 0x12 n (0x200000 + n * 0x10000) 0x10000)
    ++ ((List.range 64).filter s.mpcPresent).map (fun n => kwCtl 0x13 n (0x400000 + n * 0x10000) 0x10000)
    ++ ((List.range 8).filter s.ridgePresent).map (fun n => kwCtl 0x14 n (0x1000000 + n * 0x100000) 0x100000)
    ++ [kwDesc 0x30 0 3 0 0x10010 0 2 0]
    ++ (List.range 8).map (fun w => kwDesc 0x31 w 3 (w * 0x100000) 0x100000 1 0 0)

/-- The keyway table. -/
def keywayTable (s : State) (man : Bytes) : Bytes :=
  let ds := s.kwDescs
  let h := fun (crc : Nat) => leBytes 4 0x5941574B ++ leBytes 2 1 ++ leBytes 2 64 ++ leBytes 2 ds.length ++ leBytes 2 32
    ++ leBytes 2 s.fuses.part ++ leBytes 1 2 ++ leBytes 1 s.headId ++ sliceAt man 0x10 8 ++ sliceAt man 0x18 8
    ++ leBytes 8 s.fuses.serial.toNat ++ zeros 8 ++ leBytes 4 crc ++ zeros 12
  h (crc32c (h 0 ++ ds.flatMap id)) ++ ds.flatMap id

/-! ### Measurements (R471) -/

/-- Extend register i with an object. -/
def extend (s : State) (i : Nat) (x : Bytes) : State :=
  { s with wdn := { s.wdn with meas := s.wdn.meas.set i (sha384 (s.wdn.meas.getD i (zeros 48) ++ sha384 x)) } }

/-- A part of a slot's image by kind. -/
def partOf (s : State) (slot k : Nat) : Bytes :=
  match ((List.range (manEntries (s.manHead slot))).map (s.manEntry slot)).find? (fun e => decide (eKind e = k)) with
  | some e => s.norBytes slot (ePartOff e) (ePartLen e)
  | none => []

/-- The open route entries of a slot's manifest in slot order. -/
def openParts (s : State) (slot : Nat) : List (Nat × Bytes) :=
  let es := ((List.range (manEntries (s.manHead slot))).map (s.manEntry slot)).filter (fun e => decide (eKind e = 6))
  ((List.range 64).map (fun i => 192 + i)).filterMap (fun k =>
    (es.find? (fun e => decide (fieldAt e 1 1 = k))).map (fun e => (k, s.norBytes slot (ePartOff e) (ePartLen e))))

/-- LCS.STATE and LCS.KEYSLOTS as words, and the SVN field of the warden. -/
def lcsState (s : State) : Nat := s.lcState + s.lcGen * 2 ^ 3 + b2n s.wdn.jtagOpen * 2 ^ 5 + b2n s.wdn.changing * 2 ^ 6
def lcsSlots (s : State) : Nat := s.fuses.revoke % 16 + s.wdn.rsaSlot % 2 * 2 ^ 4 + s.wdn.slhSlot % 2 * 2 ^ 5
def svnWord (s : State) : Nat := s.fuses.svn % 128 + s.wdn.runningSvn % 128 * 2 ^ 8

/-! ### The boot ROM (R467, R468, R491) -/

def setResult (s : State) (slot code : Nat) : State :=
  { s with wdn := if slot = 0 then { s.wdn with resultA := code } else { s.wdn with resultB := code } }

/-- A rejected slot. -/
def rejectSlot (s : State) (slot code : Nat) : State := (s.setResult slot code).markRec slot 5 code 0

/-- The warden and the management cores start from a verified slot (R467 steps 5 and 6). -/
def bootSlot (s : State) (slot : Nat) (keys : Nat × Nat) (fallback : Bool) : State :=
  let man := s.manHead slot
  let s1 := s.setResult slot 0x01
  let s2 := { s1 with wdn := { s1.wdn with
    romDone := true, verified := true, slot := slot, fallback := fallback, trngOk := true, reseedAt := s.time, kickedAt := s.time,
    runningSvn := fieldAt man 0x0A 2, rsaSlot := keys.1, slhSlot := keys.2 } }
  let s3 := (s2.extend 0 (s2.norBytes slot 0 (manLen man))).extend 1 (s2.partOf slot 0)
  let s4 := [1, 2, 3, 4].foldl (fun t k => t.extend 2 (t.partOf slot k)) s3
  let s5 := s4.extend 5 (leBytes 8 (s4.lcsState + s4.lcsSlots * 2 ^ 32) ++ leBytes 2 s4.svnWord)
  let s6 := (s5.book 0x60 0x010 [])
  let s7 := { s6 with
    mcores := (List.range 4).map (fun m => (m, { MCore.fresh with running := true, kickedAt := s.time })),
    pep := { s6.pep with keyway := s6.keywayTable man } }
  s7.setMode 3

/-- One attempt at a slot; the Bool tells that it booted. -/
def trySlot (s : State) (slot norErr loadErr : Nat) (fallback : Bool) : State × Bool :=
  let s1 := if (s.hrec slot).state = 2 then s.markRec slot 3 0 0 else s
  if bit norErr slot then (s1.rejectSlot slot 0x08, false)
  else match s1.verifySlot slot with
    | .inl c => (s1.rejectSlot slot c, false)
    | .inr k => if bit loadErr slot then (s1.rejectSlot slot 0x09, false) else (s1.bootSlot slot k fallback, true)

/-- Erase both key areas (R467 step 1, R484 step 4). -/
def eraseKeys (s : State) : State := { s with wdn := { s.wdn with keyArea := [], areaBlank := true } }

/-- A record of the key area as both devices hold it (R461): the value wrapped under the area key of its generation. -/
def areaRecord (s : State) (r : KeyRec) : Bytes :=
  let w := match s.dusKey "CK-AREA" true with
    | some k => keyWrap k r.value
    | none => []
  let b := leBytes 1 r.kind ++ leBytes 1 r.index ++ zeros 2 ++ leBytes 4 r.value.length ++ leBytes 8 r.genRec ++ padTo 104 w ++ zeros 4
  b ++ leBytes 4 (crc32c b)

/-- The 1 MiB key area of either boot NOR device (R461): its records, then blank flash. -/
def areaImage (s : State) : Bytes :=
  let b := s.wdn.keyArea.flatMap s.areaRecord
  b ++ List.replicate (0x100000 - b.length) 0xFF

/-! ### Lifecycle changes (R480, R484) -/

/-- The LC bits of a state in a generation, over the bits already burned. -/
def lcBits (old state gen : Nat) : Nat :=
  match state with
  | 1 => old ||| (1 * 2 ^ (4 * gen))
  | 2 => old ||| (3 * 2 ^ (4 * gen))
  | 3 => old ||| (7 * 2 ^ (4 * gen))
  | _ => old ||| 2 ^ 12

/-- A lifecycle change from its record to its reset. -/
def lifeChange (s : State) (state gen : Nat) : State :=
  let s1 := { s.book 0x60 0x011 (leBytes 1 s.lcState ++ leBytes 1 state) with wdn := { s.wdn with changing := true } }
  let s2 := { s1 with fuses := { s1.fuses with lc := lcBits s1.fuses.lc state gen } }
  let s3 := { s2.nchWipe with keySlots := [], wdn := { s2.nchWipe.wdn with ladderGen := none } }
  let s4 := if state = 3 ∨ state = 4 then s3.eraseKeys else s3
  s4.resetHead 2 0x60

/-- The identity of R470 is made and stored: two private keys from the DRBG. -/
def makeIdentity (s : State) : State :=
  let s1 := (s.setAreaKey 1 0 (s.freeBytes 32)).used
  let s2 := (s1.setAreaKey 2 0 (s1.freeBytes 32)).used
  { s2 with wdn := { s2.wdn with drbgReqs := s2.wdn.drbgReqs + 2 } }

/-- Does the head own no pool and stand in SERVICE (R482)? -/
def inService (s : State) : Bool := decide (s.pwr.mode = 9) && decide (s.ownedMask = 0)

/-- Is a call's ARG1 the head's SERIAL? -/
def serialOk (s : State) (c : Call) : Bool := decide (callArg c.entry 1 = s.fuses.serial.toNat)

/-! ### Releases (R477, R478) -/

/-- How often a core has frozen within the last 24 hours. -/
def freezeCount (s : State) (k : Nat) : Nat :=
  ((s.core k).freezes.filter (fun t => decide ((s.time - t).toNat < 8640000000000))).length

/-- The release of a master; one that is not frozen stays as it is. `clash` is a violation of that master in the same cycle (R478). -/
def releaseMaster (s : State) (m queue : Nat) (clash : Option (Nat × Bool)) : State :=
  if m < 0x20 then
    if (s.core m).frozen && decide (s.freezeCount m < 3) then
      s.releaseOr m 0 clash (fun t => t.setCore m { t.core m with frozen := false })
    else s
  else if 0x30 ≤ m ∧ m < 0x50 then
    if m - 0x30 ∈ s.tvsFrozen then
      s.releaseOr m 0 clash (fun t => ({ t with tvsFrozen := t.tvsFrozen.erase (m - 0x30) }).setReg (0x81020 + (m - 0x30) * 0x40)
        (t.reg (0x81020 + (m - 0x30) * 0x40) &&& ~~~(0x21 : W64)))
    else s
  else if m = 0x50 then
    if s.pep.frozen0 && s.pep.retrained then s.releaseOr m 0 clash (fun t => { t with pep := { t.pep with frozen0 := false } }) else s
  else if m = 0x51 then
    if s.pep.frozen1 && s.pep.retrained then s.releaseOr m 0 clash (fun t => { t with pep := { t.pep with frozen1 := false } }) else s
  else if 0x70 ≤ m ∧ m < 0x78 then
    match s.host.queues.find? (fun (q : Nat × HQueue) => q.2.frozen && decide (q.2.port = m - 0x70) && decide (q.2.qid = queue)) with
    | some (k, q) => s.releaseOr m queue clash (fun t => t.setQueue k { q with frozen := false })
    | none => s
  else s

/-- A write of `WARD.RELEASE`. -/
def releaseAct (s : State) (v : W64) (clash : Option (Nat × Bool)) : State := s.releaseMaster (bits v.toNat 0 8) (bits v.toNat 8 16) clash

/-- A write of `WDN.KICK` (R479): each core kicks its own bit; a frozen core serves the watchdog no more (R67). -/
def kickAct (s : State) (m : Nat) (v : W64) : State :=
  if m < 0x20 ∨ 0x24 ≤ m ∨ (s.mcore (m - 0x20)).frozen = true then s
  else if v.getLsbD (m - 0x20) then s.setMcore (m - 0x20) { s.mcore (m - 0x20) with kickedAt := s.time } else s

/-- A write of `WDN.DOORBELL`: the tail of the firmware's request ring. -/
def wdnBellAct (s : State) (v : W64) : State := { s with wdn := { s.wdn with doorbell := bits v.toNat 0 16 } }

/-- The watchdog's period in ticks of TIME. -/
def wdPeriod (s : State) : Nat := s.regBits 0x40020 0 16 * 100000

/-! ### Quotes (R472) -/

/-- Bytes 0x000 to 0x1BF of a quote. -/
def quoteBody (s : State) (c : Call) : Bytes :=
  leBytes 4 0x544F5551 ++ leBytes 2 1 ++ leBytes 1 s.lcState ++ leBytes 1 s.headId ++ leBytes 8 s.fuses.serial.toNat
    ++ leBytes 8 s.time.toNat ++ (List.range 4).flatMap (fun i => leBytes 8 (callArg c.entry i)) ++ leBytes 2 s.fuses.svn
    ++ leBytes 2 s.wdn.runningSvn ++ leBytes 4 (s.wdn.resultA + s.wdn.resultB * 2 ^ 8) ++ s.wdn.meas.flatMap (fun m => padTo 48 m)

def quote (s : State) (c : Call) : Bytes :=
  let b := s.quoteBody c
  b ++ padTo 384 (Config.rsaSign s.lcGen b) ++ padTo 29792 (Config.slhSign s.lcGen b)

end State

open State

/-- TRNG_HEALTH_FAIL (R458): the sample block is discarded; `first` tells that the tests passed before this one. -/
def execTrngHealthFail (first : Bool) (s : State) : Res :=
  let since := if first then s.time else s.wdn.failsSince.getD s.time
  let s1 := { s with wdn := { s.wdn with failsSince := some since } }
  let s2 := (s1.raise rWdnEvents 1).bump 0x40038 0 32 1
  .next (if 10000000 ≤ (s.time - since).toNat then { s2 with wdn := { s2.wdn with trngOk := false } } else s2)

/-- DRBG_RESEED (R458). -/
def execDrbgReseed (s : State) : Res :=
  if s.wdn.trngOk ∧ (2 ^ 20 ≤ s.wdn.drbgReqs ∨ 100000000 ≤ (s.time - s.wdn.reseedAt).toNat) then
    .next (({ s with wdn := { s.wdn with drbgReqs := 0, reseedAt := s.time } }).bump 0x40038 32 32 1)
  else .next s

/-- BOOT (R467, R468, R485, R491, R306): the ROM runs once the warden's domain is up, RESET_N is released and its memory and the management
memory are wiped.
`norErr` and `loadErr` name the slots whose device cannot be read and whose parts differ at load. -/
def execBoot (headSel : Bool) (norErr loadErr : Nat) (s : State) : Res :=
  if s.pwr.mode ≠ 2 ∨ s.pwr.resetN = false ∨ s.wdn.romDone ∨ bit s.pwr.domains 1 = false ∨ bit s.pwr.domains 2 = false
      ∨ 1 ∈ s.pwr.wiping ∨ 2 ∈ s.pwr.wiping then .next s else
  let s0 := { s with pwr := { s.pwr with headSel := headSel } }
  let s1 := if s0.lcState = 3 ∨ s0.lcState = 4 then s0.eraseKeys else s0
  if s1.lcState = 4 then .next (({ s1 with wdn := { s1.wdn with romDone := true } }).setMode 11) else
  let s2 := [0, 1].foldl (fun t k => if (t.hrec k).state = 3 then t.markRec k 5 0x0A 0 else t) s1
  let f := s2.firstSlot
  let (s3, ok) := s2.trySlot f norErr loadErr false
  if ok then .next s3 else
  let (s4, ok2) := s3.trySlot (1 - f) norErr loadErr true
  if ok2 then .next s4 else .next (({ s4 with wdn := { s4.wdn with romDone := true } }).setMode 11)

/-- ROUTE_LOAD (R54, R467, R491): the route table at `base`, the library's code and each open route's code after it. A part that
differs at load resets the head into the other slot. -/
def execRouteLoad (base : Nat) (loadErr : Bool) (s : State) : Res :=
  let chs := (List.range 8).filter s.drcPresent
  if s.pwr.mode ≠ 3 ∨ s.wdn.verified = false ∨ s.wdn.routeLen ≠ 0 ∨ base % 4096 ≠ 0 ∨ chs.all (fun n => bit s.wdn.dramDone n) = false then .next s
  else
    let k := s.wdn.slot
    if loadErr then .next (((s.setResult k 0x09).markRec k 5 0x09 s.time).resetHead 2 0x60)
    else
      let lib := s.partOf k 5
      let opens := s.openParts k
      let table := padTo 3072 lib ++ (List.range 64).flatMap (fun i =>
        match opens.find? (fun o => decide (o.1 = 192 + i)) with
        | some o => padTo 16 o.2
        | none => zeros 16)
      let image := table ++ lib.drop 3072 ++ opens.flatMap (fun o => o.2.drop 16)
      if s.decodeAddr base image.length ≠ some .dram then .next s else
      let s1 := (s.dramTouch base image.length true).wrBytes base image
      let s2 := opens.foldl (fun t o => t.extend 4 o.2) (s1.extend 3 lib)
      let s3 : State := ({ s2 with wdn := { s2.wdn with routeLen := image.length } }).setReg rRouteBase (BitVec.ofNat 64 base)
      let s4 := if (s3.hrec k).state = 3 then s3.markRec k 4 0 s3.time else s3
      .next (if s4.lcState = 0 ∨ s4.lcState = 3 then s4.setMode 9 else s4)

/-- WARD_RELEASE (R477, R478). -/
def execWardRelease (m width : Nat) (v : Raced W64 (Nat × Bool)) (s : State) : Res :=
  .next (s.gated m 0x50038 width v.val (fun x _ t => t.releaseAct x v.clash))

/-- CORE_RELEASE_TIMER (R477): 1 ms after the freeze, unless it was the third within 24 hours. -/
def execCoreReleaseTimer (ridge : Nat) (core : Raced Nat (Nat × Bool)) (s : State) : Res :=
  let k := 4 * ridge + core.val
  if (s.core k).frozen ∧ core.val < 4 ∧ 100000 ≤ (s.time - (s.core k).frozenAt).toNat then .next (s.releaseMaster k 0 core.clash) else .next s

/-- KICK (R479). -/
def execKick (m width : Nat) (v : W64) (s : State) : Res := .next (s.gated m 0x40018 width v (fun x _ t => t.kickAct m x))

/-- WATCHDOG_EXPIRY (R479): of a management core, or of the warden's own core. -/
def execWatchdogExpiry (core : Option Nat) (s : State) : Res :=
  let at' := match core with
    | some m => (s.mcore m).kickedAt
    | none => s.wdn.kickedAt
  if s.wdn.verified ∧ s.pwr.mode ≠ 11 ∧ (match core with | some m => decide (m < 4) | none => true) = true
      ∧ s.wdPeriod ≤ (s.time - at').toNat then .next (s.yieldHead 5)
  else .next s

/-- WDN_DOORBELL (R475). -/
def execWdnDoorbell (m width : Nat) (v : W64) (s : State) : Res := .next (s.gated m 0x40028 width v (fun x _ t => t.wdnBellAct x))

/-- EXTEST_SELECT (R481). -/
def execExtestSelect (s : State) : Res := .next (s.yieldHead 7)

/-- ATTEST (R472, R486): the first step begins the quote, the second ends it. -/
def execAttest (call : Nat) (s : State) : Res :=
  match s.libCall call 96 with
  | none => .next s
  | some c =>
    if s.wdn.quoting = some call then .next ({ s with wdn := { s.wdn with quoting := none } }.libRecords call [s.quote c])
    else if callPlen c.entry < sigLen then .next (s.libFail call 0x80)
    else if s.lcState ≠ 1 ∧ s.lcState ≠ 2 then .next (s.libFail call 0x81)
    else if !s.wdn.trngOk then .next (s.libFail call 0x84)
    else if (match s.wdn.quoting with | some n => (s.libCall n 96).isSome | none => false) = true then .next (s.libFail call 0x85)
    else .next { s with wdn := { s.wdn with quoting := some call, drbgReqs := s.wdn.drbgReqs + 1 } }

/-- IDENTITY_CERTS (R470, R486). -/
def execIdentityCerts (call : Nat) (s : State) : Res :=
  match s.libCall call 97 with
  | none => .next s
  | some c =>
    if s.lcState ≠ 1 ∧ s.lcState ≠ 2 then .next (s.libFail call 0x81) else
    let certs := (List.range 4).map (fun i =>
      let d := Config.cert s.lcGen i
      leBytes 4 d.length ++ zeros 4 ++ d)
    let fit := (List.range 5).foldl (fun n k => if 8 + ((certs.take k).flatMap id).length ≤ callPlen c.entry then k else n) 0
    .next ((s.setParam c (leBytes 2 fit ++ zeros 6 ++ (certs.take fit).flatMap id)).libExit call 0 fit)

/-- LIFECYCLE (R482, R484, R486). -/
def execLifecycle (call : Nat) (s : State) : Res :=
  match s.libCall call 98 with
  | none => .next s
  | some c =>
    let st := callArg c.entry 0
    if 4 < st then .next (s.libFail call 0x80)
    else if !((st = 2 ∧ s.lcState = 1 ∧ (s.areaKey 3 0).isSome ∧ (s.areaKey 4 0).isSome) ∨ (st = 3 ∧ s.lcState = 2)
        ∨ (st = 4 ∧ s.lcState ≠ 4)) then .next (s.libFail call 0x81)
    else if !s.inService || !s.serialOk c then .next (s.libFail call 0x82)
    else .next ((s.libDone call).lifeChange st s.lcGen)

/-- KEY_REVOKE (R469, R486). -/
def execKeyRevoke (call : Nat) (s : State) : Res :=
  match s.libCall call 99 with
  | none => .next s
  | some c =>
    let d := s.paramBytes c
    let alg := fieldAt d 0 1
    let slot := fieldAt d 1 1
    if d.length < 12 + sigLen ∨ 1 < alg ∨ 1 < slot ∨ fieldAt d 2 2 ≠ 0 then .next (s.libFail call 0x80)
    else
      let skip := fun (a : Nat) => if alg = a then some slot else none
      match s.verifySigned (d.take 12) ((d.drop 12).take sigLen) (skip 0) (skip 1) with
      | .inl _ => .next (s.libFail call 0x83)
      | .inr _ =>
        let serial := fieldAt d 4 8
        let running := if alg = 0 then s.wdn.rsaSlot else s.wdn.slhSlot
        if (serial ≠ 0 ∧ serial ≠ s.fuses.serial.toNat) ∨ bit s.fuses.revoke (2 * alg + (1 - slot)) = true ∨ running = slot then
          .next (s.libFail call 0x83)
        else .next ({ s with fuses := { s.fuses with revoke := s.fuses.revoke ||| 2 ^ (2 * alg + slot) } }.libDone call)

/-- SVN_COMMIT (R486). -/
def execSvnCommit (call : Nat) (s : State) : Res :=
  match s.libCall call 100 with
  | none => .next s
  | some c =>
    if s.wdn.runningSvn ≤ s.fuses.svn then .next (s.libFail call 0x80)
    else if !s.serialOk c then .next (s.libFail call 0x82)
    else .next ({ s with fuses := { s.fuses with svn := s.wdn.runningSvn } }.libDone call)

/-- PAIR_KEYS (R464, R486): the keys are stored, the peer's SERIAL beside the pair secret (log entry 96), and the rope retrains under
them. -/
def execPairKeys (call : Nat) (s : State) : Res :=
  match s.libCall call 101 with
  | none => .next s
  | some c =>
    let d := s.paramBytes c
    if d.length < 72 then .next (s.libFail call 0x80)
    else if s.lcState ≠ 1 then .next (s.libFail call 0x81)
    else
      let s1 := (s.setAreaKey 3 0 (d.take 32 ++ sliceAt d 64 8)).setAreaKey 4 0 ((d.drop 32).take 32)
      .next ({ s1 with rope := { s1.rope with
        linkUp := false, lanes := 0, txKey := none, rxKey := none, rxNext := none, unacked := [], putOff := [], nonces := none } }.libDone call)

/-- LIFECYCLE_TOKEN (R481–R484, R486). -/
def execLifecycleToken (call : Nat) (s : State) : Res :=
  match s.libCall call 102 with
  | none => .next s
  | some c =>
    let d := s.paramBytes c
    let op := fieldAt d 0 1
    if d.length ≠ 16 + sigLen ∨ 3 < op ∨ fieldAt d 1 7 ≠ 0 then .next (s.libFail call 0x80)
    else if !((op = 0 ∧ s.lcState = 0) ∨ (op = 1 ∧ s.lcState = 3 ∧ s.lcGen < 2) ∨ (op = 2 ∧ s.lcState ≠ 4) ∨ (op = 3 ∧ s.lcState = 3)) then
      .next (s.libFail call 0x81)
    else if !s.inService || !s.serialOk c then .next (s.libFail call 0x82)
    else if fieldAt d 8 8 ≠ s.fuses.serial.toNat then .next (s.libFail call 0x83)
    else match s.verifySigned (d.take 16) (d.drop 16) none none with
      | .inl _ => .next (s.libFail call 0x83)
      | .inr _ =>
        if op = 3 then .next ({ s with wdn := { s.wdn with jtagOpen := true } }.libDone call)
        else if op = 2 then .next ((s.libDone call).lifeChange 4 s.lcGen)
        else if !s.wdn.trngOk then .next (s.libFail call 0x84)
        else
          let gen := if op = 0 then 0 else s.lcGen + 1
          let s1 := if op = 0 then ({ s with fuses := { s.fuses with dus := s.freeBytes 32 } }).used else s
          let s2 := { s1 with wdn := { s1.wdn with ladderGen := some gen } }.makeIdentity
          .next ((s2.libDone call).lifeChange 1 gen)

/-- MEMORY_WIPE_DONE (R485): the wipe of one group of on-chip memories ends. -/
def execMemoryWipeDone (group : Nat) (s : State) : Res :=
  if group ∈ s.pwr.wiping then
    let l := s.pwr.wiping.filter (fun d => decide (d ≠ group))
    .next { s with pwr := { s.pwr with wiping := l }, wdn := { s.wdn with sramDone := l.isEmpty && !s.pwr.seqBusy } }
  else .next s

end Sys2Proof.Machine
end

