-- ==== Sys2Proof/Machine/Update.lean ====
section
/-! DEFINITION. Firmware update and hinge-over (16): the Hinge Transfer Protocol, the console, and the calls of R503. -/

namespace Sys2Proof.Machine

namespace State

def rUpdEvents : Nat := 0x90018
def rUpdDrops : Nat := 0x90028
def rSvcFrames : Nat := 0xA0018

def updEvent (s : State) (b : Nat) : State := s.raise rUpdEvents (2 ^ b)

/-- Does the service port serve (R487, SVC.CONFIG)? -/
def svcUp (s : State) : Bool := bit s.pwr.domains 79 && (decide (s.pwr.mode = 11) || s.regBit 0xA0008 0)

/-- A datagram of the Hinge Transfer Protocol (R492). -/
def htDatagram (typ status session offset : Nat) : Bytes :=
  let h := leBytes 2 0x5448 ++ leBytes 1 typ ++ leBytes 1 status ++ leBytes 4 session ++ leBytes 4 0 ++ zeros 4 ++ leBytes 8 offset
  h ++ leBytes 4 (crc32c h)

/-- A reply to an address and a port. -/
def htReply (s : State) (addr udp typ status session offset : Nat) : State :=
  (s.emit (.svc addr udp (htDatagram typ status session offset))).bump rSvcFrames 32 32 1

def htTyp (d : Bytes) : Nat := fieldAt d 2 1
def htSession (d : Bytes) : Nat := fieldAt d 4 4
def htLen (d : Bytes) : Nat := fieldAt d 8 4
def htOff (d : Bytes) : Nat := fieldAt d 0x10 8
def htPayload (d : Bytes) : Bytes := (d.drop 24).take (htLen d)

/-- The first check of R496 that a datagram fails: 1 form, 2 CRC. -/
def htBad (d : Bytes) : Nat :=
  let n := htLen d
  let t := htTyp d
  if d.length ≠ 28 + n ∨ fieldAt d 0 2 ≠ 0x5448 ∨ t = 0 ∨ 7 < t ∨ fieldAt d 0x0C 4 ≠ 0 ∨ htSession d = 0
      ∨ (t = 3 ∧ (n = 0 ∨ 1408 < n)) ∨ (t = 1 ∧ (n ≠ 8 ∨ fieldAt d 28 4 ≠ 0)) then 1
  else if crc32c (d.take (24 + n)) ≠ fieldAt d (24 + n) 4 then 2
  else 0

/-- A datagram of one TYPE that R496 does not discard goes on; the others are counted. -/
def withHt (s : State) (typ : Nat) (d : Bytes) (f : State → State) : State :=
  if !s.svcUp then s else
  let s1 := s.bump rSvcFrames 0 32 1
  match htBad d with
  | 1 => s1.bump rUpdDrops 0 16 1
  | 2 => s1.bump rUpdDrops 16 16 1
  | _ => if htTyp d = typ then f s1 else s1

def setSession (s : State) (h : Option HtSession) : State := { s with upd := { s.upd with session := h } }

/-- A datagram that names the open session: from its own sender it goes on, from another it is answered ABORT with SENDER (R496). -/
def inSession (s : State) (addr udp : Nat) (d : Bytes) (f : HtSession → State → State) : State :=
  match s.upd.session with
  | none => s
  | some h =>
    if h.id ≠ htSession d then s
    else if h.addr ≠ addr ∨ h.udp ≠ udp then s.htReply addr udp 7 7 h.id 0
    else f { h with heardAt := s.time } s

/-- The session ends, its slot staying as it is. -/
def endSession (s : State) (event : Nat) : State := (s.setSession none).updEvent event

/-- May an OPEN be accepted now (R494)? -/
def htArmed (s : State) : Bool := decide (s.pwr.mode = 11) || s.upd.armTo.isSome

/-- The slot that a transfer fills (R494). -/
def htTarget (s : State) : Nat :=
  if s.pwr.mode = 11 then (if (s.hrec 1).gen < (s.hrec 0).gen then 1 else 0) else 1 - s.wdn.slot

/-- The TIME that a hinge record carries: 0 from the boot ROM (R490). -/
def recTime (s : State) : W64 := if s.pwr.mode = 11 then 0 else s.time

/-- A refused OPEN. -/
def htRefuse (s : State) (addr udp session code : Nat) : State :=
  let s1 := (s.htReply addr udp 2 code session 0).updEvent 4
  if code = 1 then s1.bump rUpdDrops 48 16 1 else s1

/-- OPEN (R494, R496). -/
def htOpenAct (s : State) (addr udp : Nat) (d : Bytes) : State :=
  let id := htSession d
  let total := fieldAt d 24 4
  match s.upd.session with
  | some h =>
    if h.id ≠ id then s.htRefuse addr udp id 2
    else if h.addr ≠ addr ∨ h.udp ≠ udp then s.htReply addr udp 7 7 id 0
    else (s.setSession (some { h with heardAt := s.time })).htReply addr udp 2 0 id 0
  | none =>
    if !s.htArmed then s.htRefuse addr udp id 1
    else if total < 53249 ∨ 266338304 < total then s.htRefuse addr udp id 3
    else
      let k := s.htTarget
      let s1 := s.putRec k 1 0 s.recTime total addr
      let h : HtSession := { id := id, addr := addr, udp := udp, total := total, got := 0, since := 0, dataAt := s.time, heardAt := s.time, slot := k }
      ((s1.setSession (some h)).updEvent 0).htReply addr udp 2 0 id 0

/-- Image bytes reach the NOR device, each sector erased before its first byte (R494). -/
def norWrite (s : State) (k off : Nat) (d : Bytes) : State :=
  let x := s.nor k
  let starts := (List.range (d.length / 65536 + 2)).map (fun i => (off / 65536 + i) * 65536)
  let erased := (starts.filter (fun a => decide (off ≤ a) && decide (a < off + d.length))).foldl (fun m a => Mem.wipe m a 65536) x.image
  let img := (List.range d.length).foldl (fun m i => Tbl.set m (off + i) (d.getD i 0)) erased
  s.setNor k { x with image := img.filter (fun (p : Nat × Byte) => decide (p.2 ≠ 0xFF)) }

/-- DATA (R495, R496). -/
def htDataAct (s : State) (d : Bytes) (lag : Bool) (h : HtSession) : State :=
  let p := htPayload d
  if h.total < htOff d + p.length then (s.htReply h.addr h.udp 7 5 h.id 0).endSession 2
  else if htOff d ≠ h.got then
    ((s.setSession (some h)).bump rUpdDrops 32 16 1).htReply h.addr h.udp 4 0 h.id h.got
  else
    let s1 := s.norWrite h.slot h.got p
    let h1 := { h with got := h.got + p.length, since := h.since + 1, dataAt := s.time }
    if 16 ≤ h1.since ∧ lag = false then (s1.setSession (some { h1 with since := 0 })).htReply h.addr h.udp 4 0 h.id h1.got
    else s1.setSession (some h1)

/-- CLOSE (R496). -/
def htCloseAct (s : State) (h : HtSession) : State :=
  if h.got < h.total then (s.setSession (some h)).htReply h.addr h.udp 6 4 h.id h.got
  else (((s.putRec h.slot 2 0 s.recTime h.total h.addr).setSession none).updEvent 1).htReply h.addr h.udp 6 0 h.id h.got

/-- A slot record of UPDATE_STATUS (R503). -/
def slotRec (s : State) (k : Nat) : Bytes :=
  let r := s.hrec k
  let m := s.manHead k
  leBytes 1 k ++ leBytes 1 r.state ++ leBytes 1 r.reason ++ [0] ++ sliceAt m 0x0C 4 ++ leBytes 8 r.gen ++ leBytes 8 r.time.toNat
    ++ sliceAt m 0x10 8 ++ sliceAt m 0x18 8 ++ sliceAt m 0x0A 2 ++ zeros 22

/-- A hinge-over ends without its reset. -/
def hingeOff (s : State) : State := { s with upd := { s.upd with hinge := none } }

end State

open State

/-- HT_OPEN (R492–R494, R496). -/
def execHtOpen (addr udp : Nat) (dg : Bytes) (s : State) : Res := .next (s.withHt 1 dg (fun t => t.htOpenAct addr udp dg))

/-- HT_DATA (R495, R496); while the NOR writes lag, the ACK is held back. -/
def execHtData (addr udp : Nat) (dg : Bytes) (lag : Bool) (s : State) : Res :=
  .next (s.withHt 3 dg (fun t => t.inSession addr udp dg (fun h u => u.htDataAct dg lag h)))

/-- HT_CLOSE (R496). -/
def execHtClose (addr udp : Nat) (dg : Bytes) (s : State) : Res :=
  .next (s.withHt 5 dg (fun t => t.inSession addr udp dg (fun h u => u.htCloseAct h)))

/-- HT_ABORT (R493). -/
def execHtAbort (addr udp : Nat) (dg : Bytes) (s : State) : Res :=
  .next (s.withHt 7 dg (fun t => t.inSession addr udp dg (fun _ u => u.endSession 2)))

/-- HT_ACK_TIMER (R495): 1 ms without an accepted DATA. -/
def execHtAckTimer (s : State) : Res :=
  match s.upd.session with
  | none => .next s
  | some h =>
    if (s.time - h.dataAt).toNat < 100000 then .next s
    else .next ((s.setSession (some { h with since := 0, dataAt := s.time })).htReply h.addr h.udp 4 0 h.id h.got)

/-- HT_IDLE (R496): 10 s without a valid datagram. -/
def execHtIdle (s : State) : Res :=
  match s.upd.session with
  | none => .next s
  | some h =>
    if (s.time - h.heardAt).toNat < 1000000000 then .next s
    else .next ((s.htReply h.addr h.udp 7 6 h.id 0).endSession 3)

/-- ARM_EXPIRY (R503). -/
def execArmExpiry (s : State) : Res :=
  match s.upd.armTo with
  | some t => if t.toNat ≤ s.time.toNat then .next { s with upd := { s.upd with armTo := none } } else .next s
  | none => .next s

/-- CONSOLE_REQUEST (R488): a text view, whose wording the spec does not give (a free value); it changes no other state. -/
def execConsoleRequest (uart : Bool) (addr udp : Nat) (_req : Bytes) (s : State) : Res :=
  let text := s.used.freeBytes (s.pick 1408 + 1)
  let s1 := s.used.used
  if uart then
    if s.pwr.mode = 11 ∨ s.regBit 0xA0008 2 = true then .next (s1.emit (.console text)) else .next s
  else if s.svcUp then
    .next (((s1.emit (.svc addr udp text)).bump rSvcFrames 0 32 1).bump rSvcFrames 32 32 1)
  else .next s

/-- UPDATE_ARM (R503). -/
def execUpdateArm (call : Nat) (s : State) : Res :=
  match s.libCall call 104 with
  | none => .next s
  | some c =>
    let n := callArg c.entry 0
    if 60 < n then .next (s.libFail call 0x88)
    else .next ({ s with upd := { s.upd with
      armTo := if n = 0 then none else some (s.time + BitVec.ofNat 64 (n * 6000000000)) } }.libDone call)

/-- HINGE_OVER (R500, R501): repeated while owned pools move to the peer; `denied` tells that a move's vote was denied. -/
def execHingeOver (call : Nat) (denied : Bool) (s : State) : Res :=
  match s.libCall call 105 with
  | none => .next s
  | some _ =>
    let owned := (List.range 16).filter (fun p => s.owns p)
    if s.upd.hinge ≠ some call then
      if s.pwr.mode ≠ 5 then .next (s.libFail call 0x8A)
      else if (s.hrec 0).state ≠ 2 ∧ (s.hrec 1).state ≠ 2 then .next (s.libFail call 0x89)
      else if owned.all (fun p => s.hasShadow p) = false then .next (s.libFail call 0x8A)
      else .next { s with upd := { s.upd with hinge := some call } }
    else if s.pair.solo ∨ s.rope.suspect then .next (s.hingeOff.libFail call 0x8C)
    else match s.pair.moves.find? (fun (m : Nat × Nat) => s.owns m.1) with
      | some (p, 0) => .next (s.moveDrive p (1 - s.headId))
      | some (p, _) => if denied then .next (((s.moveDenied p).hingeOff).libFail call 0x8B) else .next s
      | none =>
        match owned with
        | p :: _ => .next (s.moveBegin p (1 - s.headId))
        | [] => if s.pair.moves.isEmpty then .next ((s.libDone call).resetHead 2 0x20) else .next s

/-- UPDATE_STATUS (R503). -/
def execUpdateStatus (call : Nat) (s : State) : Res :=
  match s.libCall call 106 with
  | none => .next s
  | some _ => .next (s.libRecords call [s.slotRec 0, s.slotRec 1])

end Sys2Proof.Machine
end

