-- ==== Sys2Proof/Machine/Summit.lean ====
section
/-! DEFINITION. The commands of the Summit Book (17): register-written records, storage, freezing, clearing, harvesting and the calls
of R519. -/

namespace Sys2Proof.Machine

namespace State

def rSbk : Nat := 0x60000

/-- The end of a SEND of class 0x0B (R96): stored, or NOT_STORED. -/
def sbkJobDone (s : State) (job : Option Nat) (ok : Bool) : State :=
  match job with
  | none => s
  | some n =>
    match Tbl.find s.jobs n with
    | none => s
    | some j => { s with jobs := Tbl.del s.jobs n }.doneToken j.cid j.tok (cplWord (if ok then 0 else 0x10) 0x0B 0)

/-- Store the oldest accepted record; records of one cycle already stand in the order of R509. -/
def sbkStoreOne (s : State) : State :=
  match s.sbk.queue with
  | [] => s
  | r :: q =>
    let (s1, ok) := { s with sbk := { s.sbk with queue := q } }.bookPut r
    (s1.sbkJobDone r.job ok).retryCommits

/-- A write of `SBK.CTRL` (R511, R513, R515, R571): FREEZE_MS first, then the actions; the ladder refuses the book
key to an accepted CLEAR where R460 says so. -/
def sbkCtrl (s : State) (m : Nat) (v mask : W64) : State :=
  let k : W64 := mask &&& 0x3FF0000
  let s1 := s.setReg 0x60008 ((s.reg 0x60008 &&& ~~~k) ||| (v &&& k))
  let s2 := s1.sbkCtrlAct m v s1.bookKey
  if s2.sbk.clearing.isSome && s1.sbk.clearing.isNone && s1.bookKey.isNone then s2.keyRefused else s2

/-- The lowest-numbered pool that this head owns. -/
def lowestOwned (s : State) : Option Nat := (List.range 16).find? (fun p => s.owns p)

/-- A harvest page (R518). -/
def harvestPage (s : State) (off n : Nat) : Bytes :=
  padTo 4096 (leBytes 1 s.headId ++ zeros 3 ++ leBytes 4 s.sbk.gen ++ leBytes 4 off ++ leBytes 2 n ++ zeros 2
    ++ Mem.readBytes s.sbk.book off n)

/-- Copy the book's new bytes up to FILL into harvest pages of a pool, which are map pages that the next checkpoint writes. -/
def harvestInto (p : Nat) : Nat → State → State
  | 0, s => s
  | k + 1, s =>
    if s.sbk.fill ≤ s.harvested then s
    else
      let n := min 4080 (s.sbk.fill - s.harvested)
      let x := s.pool p
      let i := 16384 * s.headId + x.harvestAt % 16384
      let y := { x with harvest := Tbl.set x.harvest i (s.harvestPage s.harvested n), harvestAt := (x.harvestAt + 1) % 16384 }
      let z := y.setDir (y.harvestMpn i) { y.dirE (y.harvestMpn i) with present := true, resident := true, dirty := true }
      harvestInto p k { s.setPool p z with harvested := s.harvested + n }

end State

open State

/-- WR_HDR (R507): offset 0 or 4 of the register. -/
def execWrHdr (m off width : Nat) (v : W64) (s : State) : Res :=
  .next (s.gated m (0x60080 + off % 8) width v (fun _ _ t => t.wrHdrAct m (decide (off % 8 = 4)) width v))

/-- WR_DATA (R507). -/
def execWrData (m off width : Nat) (v : W64) (s : State) : Res :=
  .next (s.gated m (0x60088 + off % 8) width v (fun _ _ t => t.wrDataAct m (decide (off % 8 = 4)) width v))

/-- WR_COMMIT (R507–R509). -/
def execWrCommit (m width : Nat) (v : W64) (s : State) : Res :=
  .next (s.gated m 0x60090 width v (fun x _ t => t.wrCommitAct m x))

/-- SBK_STORE (R509, R511, R512). -/
def execSbkStore (s : State) : Res := .next s.sbkStoreOne

/-- FREEZE (R511, R571). -/
def execFreeze (m width : Nat) (v : W64) (s : State) : Res := .next (s.gated m 0x60008 width v (fun x k t => t.sbkCtrl m x k))
/-- THAW (R511, R571). -/
def execThaw (m width : Nat) (v : W64) (s : State) : Res := .next (s.gated m 0x60008 width v (fun x k t => t.sbkCtrl m x k))
/-- NONCE_REQ (R513, R571). -/
def execNonceReq (m width : Nat) (v : W64) (s : State) : Res := .next (s.gated m 0x60008 width v (fun x k t => t.sbkCtrl m x k))
/-- CLEAR (R515, R571). -/
def execClear (m width : Nat) (v : W64) (s : State) : Res := .next (s.gated m 0x60008 width v (fun x k t => t.sbkCtrl m x k))

/-- THAW_TIMER (R511): FREEZE_MS after the last FREEZE; it waits while CLEARING is 1. -/
def execThawTimer (s : State) : Res :=
  if s.sbk.frozen ∧ s.sbk.clearing.isNone = true ∧ s.sbk.thawAt.toNat ≤ s.time.toNat then .next (s.bookThaw.raise rSbkEvents 4)
  else .next s

/-- NONCE_EXPIRY (R513): 10 s. -/
def execNonceExpiry (s : State) : Res :=
  if s.sbk.nonce.isSome ∧ 1000000000 ≤ (s.time - s.sbk.nonceAt).toNat then .next { s with sbk := { s.sbk with nonce := none } }
  else .next s

/-- CLEAR_COMPARE (R515 steps 2 to 4). -/
def execClearCompare (s : State) : Res :=
  if s.sbk.clearing.isSome then
    let s1 := s.bookCompare
    .next (if s1.sbk.gen = s.sbk.gen then s1 else { s1 with harvested := 0 })
  else .next s

/-- HARVEST (R518): every 60 s or on HALF, into the lowest-numbered owned pool. -/
def execHarvest (s : State) : Res :=
  match s.lowestOwned with
  | none => .next s
  | some p =>
    if s.regBit rSbkEvents 0 = true ∨ 6000000000 ≤ (s.time - s.harvestedAt).toNat then
      .next { harvestInto p 1100 s with harvestedAt := s.time }
    else .next s

/-- BOOK_TOKEN (R514, R519). -/
def execBookToken (call : Nat) (s : State) : Res :=
  match s.libCall call 108 with
  | none => .next s
  | some c =>
    let m := callArg c.entry 0
    if !(decide (0x20 ≤ m ∧ m ≤ 0x23) || decide (m = 0x50)) || decide (callPlen c.entry < 32) then .next (s.libFail call 0x90)
    else match s.bookKey with
      | none => .next (s.keyRefused.libFail call 0x92)
      | some k =>
        match s.sbk.nonce with
        | none => .next (s.libFail call 0x91)
        | some n => .next (s.libRecords call [clearToken k n m s.sbk.gen])

/-- BOOK_READ (R518, R519). -/
def execBookRead (call : Nat) (s : State) : Res :=
  match s.libCall call 109 with
  | none => .next s
  | some c =>
    let p := callPool c.entry
    let h := callArg c.entry 0
    let i := callArg c.entry 1
    if 15 < p ∨ 1 < h ∨ 16384 ≤ i then .next (s.libFail call 0x90)
    else
      let x := s.pool p
      if (Tbl.find x.harvest (16384 * h + i)).isNone then .next (s.libFail call 0x93)
      else
        let n := callPlen c.entry / 4096
        let pages := (List.range (min n (16384 - i))).map (fun k => Tbl.find x.harvest (16384 * h + i + k))
        .next (s.libRecords call ((pages.takeWhile Option.isSome).map (fun o => o.getD [])))

end Sys2Proof.Machine
end

