-- ==== Sys2Proof/Machine/Power.lean ====
section
/-! DEFINITION. Power, clocks, TIME, DRAM training and scrubbing, resets and modes (18), and the low-speed signals and limits that
the block itself watches (19). -/

namespace Sys2Proof.Machine

namespace State

def pwrEvent (s : State) (b : Nat) : State := s.raise rPwrEvents (2 ^ b)
def clkEvent (s : State) (b : Nat) : State := s.raise rClkEvents (2 ^ b)

/-! ### Power domains (R526–R530) -/

/-- The order in which domains come up after domain 0 (R527). -/
def domainOrder : List Nat :=
  [3, 1, 2, 79] ++ (List.range 8).map (fun i => 54 + i) ++ [4, 5] ++ (List.range 48).map (fun i => 6 + i) ++ [78]
    ++ (List.range 8).map (fun i => 70 + i) ++ (List.range 8).map (fun i => 62 + i)

/-- Does a domain hold a unit that is present (R4, R527)? -/
def domainPresent (s : State) (d : Nat) : Bool :=
  if 6 ≤ d ∧ d < 14 then s.ridgePresent (d - 6)
  else if 14 ≤ d ∧ d < 46 then s.ridgePresent ((d - 14) / 4)
  else if 46 ≤ d ∧ d < 54 then s.ridgePresent (d - 46)
  else if 54 ≤ d ∧ d < 62 then s.drcPresent (d - 54)
  else if 62 ≤ d ∧ d < 70 then s.hifPresent (d - 62)
  else if 70 ≤ d ∧ d < 78 then (List.range 8).any (fun i => s.mpcPresent (8 * (d - 70) + i))
  else true

/-- The next domain of the sequence, if any is left. -/
def nextDomain (s : State) : Option Nat := domainOrder.find? (fun d => s.domainPresent d && !bit s.pwr.domains d)

/-- A domain is good; its memories are wiped before any master reaches them (R527). -/
def domainOn (s : State) (d : Nat) : State :=
  let s1 := { s with pwr := { s.pwr with
    domains := s.pwr.domains ||| 2 ^ d, seqLast := d,
    wiping := if d ∈ memDomains then s.pwr.wiping ++ [d] else s.pwr.wiping } }
  if d = 4 ∨ d = 5 then s1.mapcReset else s1

/-- A domain is switched off. -/
def domainOff (s : State) (d : Nat) : State :=
  { s with pwr := { s.pwr with domains := s.pwr.domains &&& (2 ^ 80 - 1 - 2 ^ d) } }

/-- The ports of a module port group lose their links with their domain. -/
def groupOff (s : State) (g : Nat) : State :=
  { s with ports := s.ports.filter (fun (p : Nat × MPort) => decide (p.1 / 8 ≠ g)) }

/-- Is any target of a module port group admitted? -/
def groupAdmitted (s : State) (g : Nat) : Bool :=
  s.modules.any (fun (m : Nat × Modu) => decide (m.1 / 32 = g) && m.2.admitted)

/-- A write of `PWR.DOMAIN_REQ` (R530). -/
def domainReqAct (s : State) (v : W64) : State :=
  let d := bits v.toNat 0 7
  let on := v.getLsbD 7
  if d < 62 ∨ 77 < d ∨ s.pwr.seqBusy ∨ s.domainPresent d = false
      ∨ (on = false ∧ d < 70 ∧ s.regBit (hifBlk (d - 62)) 0 = true) ∨ (on = false ∧ 70 ≤ d ∧ s.groupAdmitted (d - 70) = true) then
    s.pwrEvent 1
  else if on = bit s.pwr.domains d then s
  else if on then { s with pwr := { s.pwr with single := some d, seqBusy := true, seqLast := d } }
  else if d < 70 then s.domainOff d
  else (s.domainOff d).groupOff (d - 70)

/-- What survives the loss of every supply: fuses, the NOR devices and the modules' media. -/
def coldState (s : State) : State :=
  { State.reset with
    pending := s.pending, stamp := s.stamp, freeCtr := s.freeCtr, out := s.out, fuses := s.fuses,
    wdn := { Wdn.fresh with keyArea := s.wdn.keyArea, areaBlank := s.wdn.areaBlank },
    modules := s.modules.map (fun (m : Nat × Modu) => (m.1, keepModu m.2)), ckpts := s.ckpts,
    upd := { s.upd with armTo := none, session := none, hinge := none } }

/-- The domain sequence starts or goes on while PWR_GOOD is high and RESET_N is released (R527, R536, R558). -/
def powerOn (s : State) : State :=
  if !s.pwr.pwrGood || !s.pwr.resetN then s
  else
    let s1 := if s.pwr.mode = 0 then s.resetHead 1 0 else s
    { s1 with pwr := { s1.pwr with seqBusy := s1.nextDomain.isSome } }

/-! ### DRAM (R531–R533) -/

def drc (s : State) (n : Nat) : Drc := Tbl.getD s.drcs n Drc.fresh
def setDrc (s : State) (n : Nat) (d : Drc) : State := { s with drcs := Tbl.set s.drcs n d }

/-- The outcome of a training (DRC[n].TRAIN): 0 passed, 1 no DIMM, 2 SPD error or capacity, 3 rate, 4 timing. -/
def trainResult (s : State) (d : Dimm) : Nat :=
  if !d.present then 1
  else if !d.spdOk then 2
  else if d.sizeGib ∉ [16, 32, 64, 128, 256] ∨ s.drcs.any (fun (c : Nat × Drc) => c.2.trained && decide (c.2.sizeGib ≠ d.sizeGib)) = true then 2
  else if d.rate < 4800 then 3
  else if !d.timingOk then 4
  else 0

/-- The bytes of one channel read as zero, but for the route image during a device wipe (R485, R539). -/
def fillChannel (s : State) (ch : Nat) : State :=
  { s with
    mem := s.mem.filter (fun (p : Nat × Byte) => decide (s.dramBytes ≤ p.1) || decide (s.channelOf p.1 ≠ ch) || s.routePage (p.1 / 4096)),
    poisoned := s.poisoned.filter (fun l => decide (s.channelOf (l * 256) ≠ ch)),
    wdn := { s.wdn with dramDone := s.wdn.dramDone ||| 2 ^ ch } }

/-- The device wipe ends: LOP entry 63, its record, and SERVICE (R536, R539). -/
def wipeEnd (s : State) (j : WipeJob) : State :=
  let s1 := s.lopWrite 63 3 1 3 0 true j.total j.total j.total j.start false
  let s2 := s1.book 0x20 0x018 (j.ended.flatMap (fun m => leBytes 1 (m.1 / 4) ++ leBytes 1 (m.1 % 4) ++ leBytes 1 m.2))
  ({ s2 with wipeJob := none }).setMode 9

/-- Progress of the wipe in LOP entry 63. -/
def wipeReport (s : State) (j : WipeJob) : State := s.lopWrite 63 3 1 0 0 true j.done j.total j.done j.start false

/-- The fill starts once every module has been dealt with: the map cache is invalidated, and no master reaches the
channels until their fills end. -/
def wipeFill (s : State) (j : WipeJob) : State :=
  let s1 := s.mapcFlush 1
  let chs := (List.range 8).filter s.drcPresent
  { s1 with wdn := { s1.wdn with dramDone := 0 }, wipeJob := some { j with filling := chs } }

/-- One DRAM channel's share of the installed bytes. -/
def channelBytes (s : State) (ch : Nat) : Nat := (s.drc ch).sizeGib * 2 ^ 30

/-- A write of `DRC[n].CTL`: self-refresh is entered and left only in the STANDBY transitions (R534). -/
def srAct (s : State) (ch : Nat) (v : W64) : State :=
  if s.pwr.mode ≠ 9 ∧ s.pwr.mode ≠ 1 then s
  else if v.getLsbD 0 then s.setDrc ch { s.drc ch with selfRef := true }
  else if v.getLsbD 1 then s.setDrc ch { s.drc ch with selfRef := false }
  else s

/-- Every present channel's self-refresh. -/
def allSelfRef (s : State) (on : Bool) : State :=
  ((List.range 8).filter s.drcPresent).foldl (fun t n => t.setDrc n { t.drc n with selfRef := on }) s

/-! ### TIME (R523, R524) -/

/-- A write of `CLK.TIME_SET`, with a tick in the same cycle or not (R11, R524). -/
def timeSetAct (s : State) (v : W64) (tick : Bool) : State :=
  if s.time.toNat < v.toNat then { s with time := if tick then v + 1 else v }
  else (if tick then { s with time := s.time + 1 } else s).clkEvent 3

/-- Cycles pass on the cores: 16 of CLK_CORE and 8 of CLK_SYS to a tick (R37, R44, R100, R520). -/
def coreCycles (s : State) : State :=
  let s1 := s.cores.foldl (fun (t : State) (p : Nat × DCore) =>
    match p.2.running with
    | some cid =>
      (t.updClimb cid (fun c => { c with run := c.run + 16, quant := c.quant + 16 })).setCore p.1 { p.2 with busyCycles := p.2.busyCycles + 16 }
    | none => t) s
  { s1 with mcores := s1.mcores.map (fun (p : Nat × MCore) =>
      (p.1, if p.2.running then { p.2 with syscount := p.2.syscount + 8 } else p.2)) }

/-! ### Modes (R536–R539, R546) -/

/-- The head stops shadowing (R537). -/
def stopShadowing (s : State) : State :=
  { s with
    pools := s.pools.map (fun (p : Nat × Pool) => (p.1, if p.2.rel = .shadow then { p.2 with rel := .none } else p.2)),
    pair := { s.pair with caughtUp := 0 } }

/-- Domains that STANDBY keeps: 0, 1, 2, 3, 54 to 61 and 79 (R535). -/
def standbyMask : Nat := 15 + 255 * 2 ^ 54 + 2 ^ 79

/-- Step 3 of STANDBY_ENTER: every other domain goes off, and what its memories held is lost (R538). -/
def standbyOff (s : State) : State :=
  let s1 := { s with
    climbs := [], cores := [], jobs := [], bufs := [], wipes := [], digs := [], keySlots := [], mapc := Mapc.fresh, ports := [],
    modules := s.modules.map (fun (m : Nat × Modu) => (m.1, keepModu m.2)),
    mem := s.mem.filter (fun (p : Nat × Byte) => decide (p.1 < 0x020000000000)) }
  let s2 := { s1 with
    rope := Rope.fresh, host := { HostSide.fresh with hosts := s.host.hosts, nqn := s.host.nqn },
    pwr := { s1.pwr with domains := s1.pwr.domains &&& standbyMask } }
  s2.setMode 1

/-- The 64-byte power record (R546). -/
def powerRecord (s : State) : Bytes :=
  let chs := (List.range 8).filter s.drcPresent
  let rates := (chs.map (fun n => (s.drc n).rate)).filter (fun r => decide (r ≠ 0))
  padTo 64 (leBytes 1 s.pwr.mode ++ leBytes 1 s.pwr.prev ++ leBytes 1 s.pwr.kind ++ leBytes 1 s.pwr.autoCount
    ++ leBytes 2 s.pwr.tjNow ++ leBytes 2 s.pwr.tjPeak ++ leBytes 8 s.pwr.modeTime.toNat ++ leBytes 10 s.pwr.domains ++ [0, 0]
    ++ leBytes 8 s.dramBytes ++ leBytes 2 (rates.foldl min (rates.headD 0))
    ++ leBytes 2 (b2n (chs.any (fun n => (s.drc n).slow)) + b2n s.pwr.refLostSeen * 2 + b2n s.pwr.hasFault * 4))

/-- A temperature in 1/8 °C as a signed number. -/
def tjInt (v : Nat) : Int := (BitVec.ofNat 16 v).toInt

/-- A new junction temperature (PWR.TJ). -/
def setTj (s : State) (tj : BitVec 16) : State :=
  { s with pwr := { s.pwr with
    tjNow := tj.toNat, tjPeak := if tjInt s.pwr.tjPeak < tj.toInt then tj.toNat else s.pwr.tjPeak } }

/-- SMB_ALERT_N is low while THERMAL_WARN or SUPPLY_WARN is set (R562). -/
def smbAlert (s : State) : State :=
  { s with pwr := { s.pwr with smbAlertN := decide (s.regBits rPwrEvents 2 2 = 0) } }

end State

open State

/-- REF_LOST (R522). -/
def execRefLost (s : State) : Res :=
  let s1 := { s with pwr := { s.pwr with refOk := false, aonInternal := true, holdover := true, refLostSeen := true } }
  .next (((s1.clkEvent 0).book 0x60 0x015 []).yieldHead 7)

/-- REF_BACK (R522). -/
def execRefBack (s : State) : Res :=
  .next ({ s with pwr := { s.pwr with refOk := true, aonInternal := false, holdover := false } }.clkEvent 1)

/-- TIME_SET (R524); `tick` tells that a tick falls in the same cycle. -/
def execTimeSet (m width : Nat) (v : W64) (tick : Bool) (s : State) : Res :=
  .next (s.gated m 0x10010 width v (fun x _ t => t.timeSetAct x tick))

/-- TIMER_COMPARE (R525): the line's level follows TIME and the register. -/
def execTimerCompare (_core : Nat) (s : State) : Res := .next s

/-- STANDBY_RAIL_UP (R527, R541, R561): domain 0 comes up with a POWER_ON reset and HEAD_SEL is sampled. -/
def execStandbyRailUp (headSel : Bool) (s : State) : Res :=
  if s.pwr.standby then .next s
  else
    let t := s.coldState
    .next { t with pwr := { t.pwr with headSel := headSel } }

/-- PWR_GOOD_RISE (R527, R536, R540). -/
def execPwrGoodRise (s : State) : Res :=
  if s.pwr.pwrGood ∨ s.pwr.standby = false then .next s
  else .next ({ s with pwr := { s.pwr with pwrGood := true, refOk := true, pllLock := true } }.powerOn)

/-- DOMAIN_POWER_UP (R527, R530). -/
def execDomainPowerUp (s : State) : Res :=
  match s.pwr.single with
  | some d =>
    let t := s.domainOn d
    .next { t with pwr := { t.pwr with single := none, seqBusy := false } }
  | none =>
    if !s.pwr.seqBusy || !s.pwr.pwrGood || !s.pwr.resetN then .next s
    else match s.nextDomain with
      | none => .next { s with pwr := { s.pwr with seqBusy := false } }
      | some d =>
        let t := s.domainOn d
        .next { t with pwr := { t.pwr with seqBusy := t.nextDomain.isSome } }

/-- DOMAIN_FAULT (R528, R530): the domain now being started does not come up. -/
def execDomainFault (s : State) : Res :=
  let fault := fun (d : Nat) (t : State) =>
    let t1 := { t with pwr := { t.pwr with
      faultDomain := if t.pwr.hasFault then t.pwr.faultDomain else d, hasFault := true, seqLast := d, seqBusy := false, single := none } }
    (t1.pwrEvent 0).book 0x81 0x016 (leBytes 1 d)
  match s.pwr.single with
  | some d => .next (fault d s)
  | none =>
    if !s.pwr.seqBusy then .next s
    else match s.nextDomain with
      | none => .next s
      | some d => .next (if s.pwr.mode = 1 then fault d s else (fault d s).setMode 11)

/-- PWR_GOOD_FALL (R529, R536): the yield, then every domain but 0 off. -/
def execPwrGoodFall (s : State) : Res :=
  if !s.pwr.pwrGood then .next s
  else
    let s1 := s.yieldHead 4
    let s2 := s1.resetHead s.pwr.kind s.pwr.source
    .next { s2 with pwr := { s2.pwr with mode := 0, pwrGood := false, domains := 1, seqBusy := false, pllLock := false, wiping := [] } }

/-- DOMAIN_REQ (R530). -/
def execDomainReq (m width : Nat) (v : W64) (s : State) : Res := .next (s.gated m 0x20020 width v (fun x _ t => t.domainReqAct x))

/-- DRAM_TRAINING (R531, R532): channels train one at a time, in ascending order. -/
def execDramTraining (ch : Nat) (dimm : Dimm) (s : State) : Res :=
  if s.pwr.mode ≠ 3 ∨ s.drcPresent ch = false ∨ bit s.pwr.domains (54 + ch) = false ∨ (s.drc ch).trained
      ∨ (List.range ch).any (fun n => s.drcPresent n && !(s.drc n).trained) = true then .next s
  else
    let r := s.trainResult dimm
    let rate := min 6400 dimm.rate
    let d : Drc :=
      { present := dimm.present, trained := decide (r = 0), selfRef := false, slow := decide (r = 0 ∧ rate < 6400),
        sizeGib := if dimm.present then dimm.sizeGib else 0, ranks2 := dimm.present && dimm.ranks2, rate := if r = 0 then rate else 0,
        result := r, trainMs := dimm.ms, filled := false }
    let s1 := s.setDrc ch d
    if r = 0 then .next s1
    else .next (((s1.raise (drcBlk ch + 8) 8).book 0x60 0x017 (leBytes 1 ch ++ leBytes 1 r)).setMode 11)

/-- DRAM_FILL_DONE (R485, R532, R539). -/
def execDramFillDone (ch : Nat) (s : State) : Res :=
  if (s.drc ch).trained = false ∨ bit s.wdn.dramDone ch = true then .next s
  else
    let s1 := (s.fillChannel ch).setDrc ch { s.drc ch with filled := true }
    match s1.wipeJob with
    | some j =>
      if ch ∉ j.filling then .next s1 else
      let j1 := { j with filling := j.filling.erase ch, done := j.done + s1.channelBytes ch }
      if j1.filling.isEmpty then .next (s1.wipeEnd j1) else .next ({ s1 with wipeJob := some j1 }.wipeReport j1)
    | none => .next s1

/-- SCRUB (R533): one line of a channel, read directly from DRAM. -/
def execScrub (ch addr : Nat) (e : EccResult) (s : State) : Res :=
  if (s.drc ch).trained = false ∨ s.channelOf addr ≠ ch ∨ s.dramBytes ≤ addr ∨ s.regBit (drcBlk ch + 0x20) 0 = false then .next s
  else match e with
    | .clean => .next s
    | .corrected => .next (s.dramCorrected ch)
    | .uncorrectable => .next ((((s.poison (addr / 256)).raise (drcBlk ch + 8) 4).bump (drcBlk ch + 0x10) 32 32 1).ueAddr ch addr)

/-- UE_SCRUB_HANDLE (R533): a line of a clean resident map page (named by the firmware's own frame table) or of an index summary is
rebuilt and rewritten; else the head yields with CAUSE 1. -/
def execUeScrubHandle (ch : Nat) (page : Option (Nat × Nat)) (s : State) : Res :=
  if s.regBit (drcBlk ch + 8) 2 = false ∨ s.regBit (drcBlk ch + 0x18) 63 = false then .next s
  else
    let a := s.regBits (drcBlk ch + 0x18) 0 48
    let clean := match page with
      | some (p, mpn) => ((s.pool p).dirE mpn).resident && !((s.pool p).dirE mpn).dirty
      | none => false
    let inSummary := (List.range 16).any (fun p => match s.summary p with
      | some (b, l) => decide (b ≤ a) && decide (a < b + 2 ^ l * 256)
      | none => false)
    let s1 := (s.setReg (drcBlk ch + 8) (s.reg (drcBlk ch + 8) &&& ~~~(4 : W64))).setReg (drcBlk ch + 0x18) (s.reg (drcBlk ch + 0x18) &&& (2 ^ 63 - 1 : W64))
    if clean || inSummary then .next { s1 with poisoned := s1.poisoned.filter (fun l => decide (l ≠ a / 256)) }
    else .next (s1.yieldHead 1)

/-- SR_ENTER (R534). -/
def execSrEnter (m ch width : Nat) (v : W64) (s : State) : Res :=
  if 8 ≤ ch then .next s else .next (s.gated m (drcBlk ch + 0x28) width v (fun x _ t => t.srAct ch x))

/-- SR_EXIT (R534). -/
def execSrExit (m ch width : Nat) (v : W64) (s : State) : Res :=
  if 8 ≤ ch then .next s else .next (s.gated m (drcBlk ch + 0x28) width v (fun x _ t => t.srAct ch x))

/-- SERVICE_ENTER (R536, R537, R546). -/
def execServiceEnter (call : Nat) (s : State) : Res :=
  match s.libCall call 112 with
  | none => .next s
  | some _ =>
    if s.pwr.mode = 9 then .next (s.libDone call)
    else if s.pwr.mode ∉ [4, 5, 6] then .next (s.libFail call 0xA1)
    else if s.ownedMask ≠ 0 then .next (s.libFail call 0xA2)
    else .next ((s.stopShadowing.setMode 9).libDone call)

/-- SERVICE_LEAVE (R536, R546). -/
def execServiceLeave (call : Nat) (s : State) : Res :=
  match s.libCall call 113 with
  | none => .next s
  | some _ =>
    if s.pwr.mode ≠ 9 ∨ (s.lcState ≠ 1 ∧ s.lcState ≠ 2) then .next (s.libFail call 0xA1)
    else if s.ownedMask ≠ 0 then .next ((s.setMode 6).libDone call)
    else if s.rope.peerMode ∈ [4, 5, 6, 7] then .next ((s.setMode 4).libDone call)
    else .next (s.libFail call 0xA1)

/-- STANDBY_ENTER (R538, R546): it waits until no other call runs. -/
def execStandbyEnter (call : Nat) (s : State) : Res :=
  match s.libCall call 114 with
  | none => .next s
  | some _ =>
    if s.pwr.mode ≠ 9 ∨ (s.lcState ≠ 1 ∧ s.lcState ≠ 2) then .next (s.libFail call 0xA1)
    else if s.calls.any (fun (c : Nat × Call) => decide (c.1 ≠ call)) then .next s
    else .next ((((s.mapcFlush 2).allSelfRef true).libDone call).standbyOff)

/-- STANDBY_LEAVE (R538, R546): the domains come up again, DRAM leaves self-refresh, and the head is in SERVICE. -/
def execStandbyLeave (call : Nat) (s : State) : Res :=
  match s.libCall call 115 with
  | none => .next s
  | some _ =>
    if s.pwr.mode = 9 then .next (s.libDone call)
    else if s.pwr.mode ≠ 1 then .next (s.libFail call 0xA1)
    else if s.nextDomain.isSome then .next { s with pwr := { s.pwr with seqBusy := true } }
    else .next (((s.allSelfRef false).setMode 9).libDone call)

/-- DEVICE_WIPE (R480, R539, R546): a call starts or aborts the wipe; without one, module `m` ends its erases as 0 erased, 1 lost or 2
failed, and after the last the DRAM fill begins. -/
def execDeviceWipe (call : Option Nat) (m result : Nat) (s : State) : Res :=
  match call with
  | some n =>
    match s.libCall n 116 with
    | none => .next s
    | some c =>
      match callArg c.entry 0 with
      | 0 =>
        if s.pwr.mode = 10 then .next (s.libFail n 0xA3)
        else if s.pwr.mode ≠ 9 ∨ s.lcState = 0 then .next (s.libFail n 0xA1)
        else
          let ms := (s.modules.filter (fun (q : Nat × Modu) => (q.2.admitted || q.2.detached)
            && !s.pools.any (fun (p : Nat × Pool) => decide (q.1 ∈ p.2.mods)))).map Prod.fst
          let total := sumBy (fun k => (s.modu k).ident.capacity) ms + s.dramBytes
          let j : WipeJob := { left := ms, ended := [], done := 0, total := total, start := s.time, filling := [] }
          let s1 := (s.lopWrite 63 3 1 0 0 true 0 total 0 s.time true).setMode 10
          let s2 := if ms.isEmpty then s1.wipeFill j else { s1 with wipeJob := some j }
          .next (s2.libDone n)
      | 1 =>
        if s.pwr.mode = 9 then .next (s.libDone n)
        else match s.wipeJob with
          | none => .next (s.libFail n 0xA1)
          | some j =>
            let s1 := s.lopWrite 63 3 1 5 0 true j.done j.total j.done j.start false
            .next (({ s1 with wipeJob := none }.setMode 9).libDone n)
      | _ => .next (s.libFail n 0xA0)
  | none =>
    match s.wipeJob with
    | none => .next s
    | some j =>
      if m ∉ j.left then .next s else
      let s1 := if result = 0 then s.setModu m { s.modu m with slabs := [] } else s
      let j1 := { j with left := j.left.erase m, ended := j.ended ++ [(m, min 2 result)], done := j.done + (s.modu m).ident.capacity }
      let s2 := ({ s1 with wipeJob := some j1 }).wipeReport j1
      .next (if j1.left.isEmpty then s2.wipeFill j1 else s2)

/-- POWER_STATUS (R546); in STANDBY the firmware writes the record itself, without a climb (R60). -/
def execPowerStatus (call : Nat) (s : State) : Res :=
  match s.libCall call 117 with
  | none => .next s
  | some c =>
    if c.cid.isSome then .next (s.libRecords call [s.powerRecord])
    else
      let n := if 64 ≤ callPlen c.entry then 1 else 0
      let s1 := if n = 0 ∨ c.discarded then s
        else if c.internal then (s.dmaTouch (callPaddr c.entry) 64 true).wrBytes (callPaddr c.entry) s.powerRecord
        else s.post { addr := callPaddr c.entry, data := s.powerRecord, call := some call, cpl := none, since := s.time }
      .next (s1.endCall call 0 0xFF 0 n)

/-- PWR_RESET (R540). -/
def execPwrReset (m width : Nat) (v : W64) (s : State) : Res :=
  .next (s.gated m 0x20038 width v (fun x _ t => if x.getLsbD 0 then t.resetHead 2 m else t))

/-- RESET_N (R540, R558, R561): asserted for at least 1 µs. -/
def execResetN (s : State) : Res :=
  if !s.pwr.resetN then .next s
  else
    let s1 := if s.pwr.mode = 0 then s else s.resetHead 1 0
    .next { s1 with pwr := { s1.pwr with resetN := false, seqBusy := false } }

/-- RESET_N_RELEASE (R536, R558). -/
def execResetNRelease (s : State) : Res :=
  if s.pwr.resetN ∨ s.pwr.standby = false then .next s else .next ({ s with pwr := { s.pwr with resetN := true } }.powerOn)

/-- QUARANTINE_AUTO (R542): after HOLD_S seconds, unless AUTO_LIMIT automatic resets lie within the hour before. -/
def execQuarantineAuto (s : State) : Res :=
  let hold := max 1 (s.regBits 0x20050 0 16) * 100000000
  let limit := s.regBits 0x20050 16 8
  let due := s.pwr.modeTime.toNat + hold
  if s.pwr.mode ≠ 8 ∨ s.time.toNat < due
      ∨ limit ≤ (s.pwr.autoAt.filter (fun t => decide (due < t.toNat + 360000000000))).length then .next s
  else
    let s1 := { s with pwr := { s.pwr with autoCount := min 255 (s.pwr.autoCount + 1), autoAt := (s.time :: s.pwr.autoAt).take 256 } }
    .next (s1.resetHead 3 0)

/-- AUTO_COUNT_RESET (R542): an hour without an automatic reset. -/
def execAutoCountReset (s : State) : Res :=
  match s.pwr.autoAt with
  | t :: _ => if t.toNat + 360000000000 ≤ s.time.toNat then .next { s with pwr := { s.pwr with autoCount := 0 } } else .next s
  | [] => .next s

/-- SUPPLY_WARN (R555). -/
def execSupplyWarn (s : State) : Res := .next (s.pwrEvent 2).smbAlert

/-- SUPPLY_FAULT (R555). -/
def execSupplyFault (s : State) : Res := .next (s.yieldHead 4)

/-- THERMAL_WARN (R566): set above 100 °C, cleared below 97 °C. -/
def execThermalWarn (tj : BitVec 16) (s : State) : Res :=
  let s1 := s.setTj tj
  if 800 < tj.toInt then .next ({ s1 with pwr := { s1.pwr with tempAlertN := false } }.pwrEvent 3).smbAlert
  else if tj.toInt < 776 then
    .next (({ s1 with pwr := { s1.pwr with tempAlertN := true } }).setReg rPwrEvents (s1.reg rPwrEvents &&& ~~~(8 : W64))).smbAlert
  else .next s1

/-- THERMAL_SHUTDOWN (R566): above 115 °C for 100 µs. -/
def execThermalShutdown (tj : BitVec 16) (s : State) : Res :=
  let s1 := s.setTj tj
  if 920 < tj.toInt then .next (s1.yieldHead 3) else .next s1

/-- STANDBY_RAIL_LOST (R558): domain 0 and TIME stop, and the book is lost. -/
def execStandbyRailLost (s : State) : Res :=
  let t := s.coldState
  .next { t with pwr := { t.pwr with mode := 0, standby := false, domains := 0 } }

/-- SMBUS_BLOCK_READ (R545, R562). -/
def execSmbusBlockRead (addr code : Nat) (s : State) : Res :=
  if addr = 0x5A + s.headId ∧ code = 1 ∧ s.pwr.mode ∉ [0, 2, 11] then .next (s.emit (.smbus s.powerRecord)) else .next s

/-- TIME_TICK (R321, R523). -/
def execTimeTick (s : State) : Res :=
  if !s.pwr.standby then .next s
  else
    let core := s.pwr.pllLock && bit s.pwr.domains 3
    let s1 := if core then s.coreCycles else s
    .next (if s1.rope.holdTime then s1 else { s1 with time := s1.time + (if core then 1 else 4) })

end Sys2Proof.Machine
end

