-- ==== Sys2Proof/Machine/Traverse.lean ====
section
/-! DEFINITION. The bytes behind a decoded device address (R21, R46, R199), and the Traverse channels (R166–R172). -/

namespace Sys2Proof.Machine

namespace State

/-! ### Reading and writing decoded ranges -/

/-- A token as its climb's context holds it (R46); 0 for one that is PENDING or IDLE (DESIGN CHOICE, log entry 83). -/
def tokWord : Tok → Nat
  | .done w => w.toNat
  | _ => 0

/-- The first 512 bytes of a climb's context: current for a climb that is not resident (R46). -/
def ctxBytes (s : State) (cid : Nat) : Bytes :=
  let c := s.climb cid
  let words := fun (n : Nat) (l : List Nat) => padTo (8 * n) (l.flatMap (leBytes 8))
  words 32 ((c.g.set 0 0).map BitVec.toNat) ++ words 16 (c.h.map BitVec.toNat) ++ words 8 (c.t.map tokWord)
    ++ leBytes 8 c.pc.toNat ++ leBytes 8 c.tpc.toNat ++ leBytes 8 c.tval.toNat ++ leBytes 8 (c.tcause % 256)
    ++ leBytes 8 ((match c.parent with | some p => p % 8192 + 2 ^ 13 | none => 0) + c.slot % 256 * 2 ^ 16)
    ++ leBytes 8 c.since.toNat ++ zeros 16

/-- One byte of the map cache's diagnostic window (R199): what the data array holds of that entry. -/
def diagByte (s : State) (a : Nat) : Byte :=
  let o := a - 0x090000000000
  let k := 16 * (o % 0x600000 / 256) + o / 0x600000
  match Tbl.find s.mapc.main k with
  | some c => Mem.read s.mem (c.line * 256 + o % 256)
  | none => (Tbl.getD s.mapc.ghost k []).getD (o % 256) 0

/-- The first half of a resident climb's context is not current: those bytes are free (log entry 3). -/
def storeByte (s : State) (a : Nat) : Byte :=
  let o := a - 0x0A0000000000
  let cid := o / 1024
  if 512 ≤ o % 1024 then Mem.read s.mem a
  else if (s.climb cid).core.isSome then Config.freeByte s.freeCtr (o % 512)
  else (s.ctxBytes cid).getD (o % 512) 0

/-- One byte of a decoded range other than control space. -/
def spaceByte (s : State) (r : Region) (a : Nat) : Byte :=
  match r with
  | .diag => s.diagByte a
  | .store _ => s.storeByte a
  | _ => Mem.read s.mem a

/-- A master reads [a, a + n): the bytes, and the state after the map cache's lookups. -/
def spaceRead (s : State) (r : Region) (a n : Nat) : Bytes × State :=
  let d := (List.range n).map (fun i => s.spaceByte r (a + i))
  match r with
  | .dram => (d, s.dramTouch a n false)
  | .store _ => (d, s.used)
  | _ => (d, s)

/-- A master writes bytes to a decoded range other than control space; the contexts' first halves and the diagnostic
window hold no bytes of their own. -/
def spaceWrite (s : State) (r : Region) (a : Nat) (d : Bytes) : State :=
  match r with
  | .dram => (s.dramTouch a d.length true).wrBytes a d
  | .diag => s
  | .store _ => if 512 ≤ a % 1024 then s.wrBytes a d else s
  | _ => s.wrBytes a d

/-! ### Traverse channels -/

def tvsReg (c : Nat) : Nat := 0x81000 + c * 0x40

/-- A channel's operation as started: OP, element size, ways, SRC, DST and COUNT. -/
structure TvsJob where
  op    : Nat
  e     : Nat
  ways  : Nat
  src   : Nat
  dst   : Nat
  count : Nat
  deriving DecidableEq, Repr

def tvsJob (s : State) (c : Nat) : TvsJob :=
  let ctl := (s.reg (tvsReg c + 0x18)).toNat
  { op := bits ctl 2 3, e := 2 ^ bits ctl 5 2, ways := bits ctl 7 4 + 1, src := s.regBits (tvsReg c) 0 48,
    dst := s.regBits (tvsReg c + 8) 0 48, count := s.regBits (tvsReg c + 0x10) 0 32 }

def tvsBusy (s : State) (c : Nat) : Bool := s.regBit (tvsReg c + 0x20) 0

/-- The source bytes behind destination byte `x`, as offsets from SRC with the source bit and the bit they give; whole
bytes give one entry with bit 8 (R166). -/
def tvsSources (j : TvsJob) (x : Nat) : List (Nat × Nat) :=
  let n := j.count / (j.ways * j.e)
  let m := j.count / j.e
  match j.op with
  | 1 => let i := x / j.e
         [((i % n * j.ways + i / n) * j.e + x % j.e, 8)]
  | 2 => let i := x / j.e
         [((i % j.ways * n + i / j.ways) * j.e + x % j.e, 8)]
  | 3 => let p := x / (m / 8)
         let k := x % (m / 8)
         (List.range 8).map (fun b => ((8 * k + b) * j.e + p / 8, p % 8))
  | 4 => let n := x / j.e
         (List.range 8).map (fun t => ((8 * (x % j.e) + t) * (m / 8) + n / 8, n % 8))
  | _ => [(x, 8)]

/-- The destination byte that source bytes give. -/
def tvsByte (srcs : List (Nat × Nat)) (val : Nat → Byte) : Byte :=
  match srcs with
  | [(o, 8)] => val o
  | l => BitVec.ofNat 8 (sumBy (fun (q : (Nat × Nat) × Nat) => b2n ((val q.1.1).getLsbD q.1.2) * 2 ^ q.2) l.zipIdx)

/-- Is COUNT allowed by R166? -/
def tvsCountOk (j : TvsJob) : Bool :=
  match j.op with
  | 0 => decide (1 ≤ j.count)
  | 1 => decide (1 ≤ j.count ∧ j.count % (j.ways * j.e) = 0)
  | 2 => decide (1 ≤ j.count ∧ j.count % (j.ways * j.e) = 0)
  | _ => decide (1 ≤ j.count ∧ j.e ≤ 2 ∧ j.count % (8 * j.e) = 0)

/-- A channel ends with an error (R168, R170, R171). -/
def tvsFail (s : State) (c code : Nat) : State :=
  let r := tvsReg c + 0x20
  let v := (s.reg r).toNat
  let v := v - bits v 8 4 * 2 ^ 8 - bits v 0 1
  ({ s with tvsBack := Tbl.del s.tvsBack c }.setReg r (BitVec.ofNat 64 (v ||| 4 ||| (code * 2 ^ 8)))).raise rTvsIrq (2 ^ (32 + c))

/-- START on an idle channel (R168). -/
def tvsStart (s : State) (c : Nat) : State :=
  let s1 := ((s.setReg (tvsReg c + 0x20) (s.reg (tvsReg c + 0x20) &&& 0x18)).setReg (tvsReg c + 0x30) 0).setReg rTvsIrq
    (s.reg rTvsIrq &&& ~~~(BitVec.ofNat 64 (2 ^ c + 2 ^ (32 + c))))
  let j := s1.tvsJob c
  if 4 < j.op then s1.tvsFail c 1
  else if !tvsCountOk j then s1.tvsFail c 2
  else if j.src < j.dst + j.count ∧ j.dst < j.src + j.count then s1.tvsFail c 3
  else s1.setReg (tvsReg c + 0x20) (s1.reg (tvsReg c + 0x20) ||| 1)

/-- ABORT of a busy channel (R170). -/
def tvsAbortAct (s : State) (c : Nat) : State := if (Tbl.find s.tvsBack c).isSome then s else s.tvsFail c 7

def tvsFlag (s : State) (c b : Nat) : State :=
  s.setReg (tvsReg c + 0x20) (s.reg (tvsReg c + 0x20) ||| BitVec.ofNat 64 (2 ^ b))

/-- A write of `TVS.CH[c].CTL` (R168–R170); a frozen channel ignores it (R171). -/
def tvsCtlAct (s : State) (c : Nat) (v mask : W64) : State :=
  if c ∈ s.tvsFrozen then s
  else if s.tvsBusy c then
    let s1 := if v.getLsbD 0 then s.tvsFlag c 3 else s
    if v.getLsbD 1 then s1.tvsAbortAct c
    else if v.getLsbD 0 then s1
    else if (mask &&& 0xFFC) = 0 then s1 else s1.tvsFlag c 4
  else
    let k : W64 := mask &&& 0xFFC
    let s1 := s.setReg (tvsReg c + 0x18) ((s.reg (tvsReg c + 0x18) &&& ~~~k) ||| (v &&& k))
    if v.getLsbD 0 then s1.tvsStart c else s1

/-- A write of SRC, DST or COUNT (R169, R171). -/
def tvsParamAct (s : State) (c off : Nat) (v mask : W64) : State :=
  if c ∈ s.tvsFrozen then s
  else if s.tvsBusy c then s.tvsFlag c 4
  else
    let k := mask &&& BitVec.ofNat 64 (regDesc off).rw
    s.setReg off ((s.reg off &&& ~~~k) ||| (v &&& k))

/-- What an access of a channel comes to: its range, a decode error, or a violation with its address. -/
inductive TvsAcc where
  | ok (r : Region)
  | decode (a : Nat)
  | viol (a : Nat)
  deriving DecidableEq, Repr

/-- The judgement of an access of channel `c` (R171, R172). -/
def tvsAcc (s : State) (c a n : Nat) (wr : Bool) : TvsAcc :=
  match s.decodeAddr a n with
  | none => .decode a
  | some r => if s.wardOk (s.profileOf (0x30 + c)) none r a n wr then .ok r else .viol a

/-- Every byte of a list of addresses is judged; the first that fails decides. -/
def tvsAll (s : State) (c : Nat) : List Nat → TvsAcc
  | [] => .ok .dram
  | a :: t => match s.tvsAcc c a 1 false with
    | .ok _ => tvsAll s c t
    | x => x

/-- A failed access ends the channel (R171). -/
def tvsRefused (s : State) (c : Nat) (wr : Bool) : TvsAcc → State
  | .decode a => (s.decodeError (0x30 + c) a).tvsFail c 4
  | .viol a => (s.violate (0x30 + c) a wr none).tvsFail c 5
  | .ok _ => s

/-- One source byte as the channel reads it; control space does not answer lines (R9). -/
def tvsVal (s : State) (a : Nat) : Byte :=
  match s.decodeByte a with
  | some .ctl => 0
  | some r => s.spaceByte r a
  | none => 0

/-- One destination line is written (R166, R167), DRAM accesses held while the map cache wipes (R198); the Bool tells whether
the channel goes on. -/
def tvsLine (s : State) (c : Nat) : State × Bool :=
  let j := s.tvsJob c
  let done := s.regBits (tvsReg c + 0x30) 0 32
  let a := j.dst + done
  let n := min (j.count - done) (64 - a % 64)
  let srcs := (List.range n).map (fun i => tvsSources j (done + i))
  let addrs := ((srcs.flatMap id).map (fun q => j.src + q.1)).dedup
  match s.tvsAll c addrs with
  | .ok _ =>
    match s.tvsAcc c a n true with
    | .ok r =>
      if s.mapc.wiping && (decide (r = .dram) || addrs.any (fun x => decide (s.decodeByte x = some .dram))) then (s, false) else
      let d := srcs.map (fun l => tvsByte l (fun o => s.tvsVal (j.src + o)))
      let lines := ((addrs.filter (fun x => decide (s.decodeByte x = some .dram))).map (fun x => x / 256)).dedup
      let s1 := lines.foldl (fun (t : State) l => (t.eccAct (l * 256) .none).lineAccess l false) s
      let s2 := if r = .ctl then s1.countBad else s1.spaceWrite r a d
      let s3 := (s2.setReg (tvsReg c + 0x30) (BitVec.ofNat 64 (done + n))).setReg (tvsReg c + 0x28) (BitVec.ofNat 64 (a + n - 1))
      if done + n < j.count then (s3, true)
      else
        let last := j.dst + j.count - 1
        let w := max j.dst (last / 8 * 8)
        ({ s3 with tvsBack := Tbl.set s3.tvsBack c (d.drop (n - min n (last + 1 - w))) }, false)
    | x => (s.tvsRefused c true x, false)
  | x => (s.tvsRefused c false x, false)

/-- Up to so many destination lines of a busy channel. -/
def tvsMove (c : Nat) : Nat → State → State
  | 0, s => s
  | k + 1, s =>
    match s.tvsLine c with
    | (t, true) => tvsMove c k t
    | (t, false) => t

/-- The read-back returns: the channel is done where the bytes are those it wrote (R167). -/
def tvsJudge (s : State) (c : Nat) (now wrote : Bytes) : State :=
  if now = wrote then
    let r := tvsReg c + 0x20
    ({ s with tvsBack := Tbl.del s.tvsBack c }.setReg r ((s.reg r &&& ~~~(1 : W64)) ||| 2)).raise rTvsIrq (2 ^ c)
  else s.tvsFail c 6

/-- The read-back of the aligned word that holds the last byte (R167): an access like any other of the channel, so it is decoded and
judged (R171), looked up in the map cache, and held while that wipes (R198). -/
def tvsEnd (s : State) (c : Nat) (wrote : Bytes) : State :=
  let j := s.tvsJob c
  let last := j.dst + j.count - 1
  let word := last / 8 * 8
  match s.tvsAcc c word 8 false with
  | .ok r =>
    let now := (List.range wrote.length).map (fun i => s.tvsVal (last + 1 - wrote.length + i))
    if r = .dram then
      if s.mapc.wiping then s else (((s.eccAct word .none).lineAccess (word / 256) false)).tvsJudge c now wrote
    else s.tvsJudge c now wrote
  | x => s.tvsRefused c false x

end State

open State

/-- A busy channel of one operation moves on by `lines` destination lines. -/
def tvsRun (op ch lines : Nat) (s : State) : Res :=
  if ch < 32 ∧ s.tvsBusy ch = true ∧ ch ∉ s.tvsFrozen ∧ (s.tvsJob ch).op = op ∧ (Tbl.find s.tvsBack ch).isNone = true then
    .next (tvsMove ch lines s)
  else .next s

/-- TVS_COPY (R166). -/
def execTvsCopy (ch lines : Nat) (s : State) : Res := tvsRun 0 ch lines s
/-- TVS_DEINTERLEAVE (R166). -/
def execTvsDeinterleave (ch lines : Nat) (s : State) : Res := tvsRun 1 ch lines s
/-- TVS_INTERLEAVE (R166). -/
def execTvsInterleave (ch lines : Nat) (s : State) : Res := tvsRun 2 ch lines s
/-- TVS_PLANE_SPLIT (R166). -/
def execTvsPlaneSplit (ch lines : Nat) (s : State) : Res := tvsRun 3 ch lines s
/-- TVS_PLANE_MERGE (R166). -/
def execTvsPlaneMerge (ch lines : Nat) (s : State) : Res := tvsRun 4 ch lines s

/-- TVS_ABORT (R170). -/
def execTvsAbort (m ch width : Nat) (v : W64) (s : State) : Res :=
  if 32 ≤ ch then .next s else .next (s.gated m (tvsReg ch + 0x18) width v (fun x k t => t.tvsCtlAct ch x k))

/-- TVS_READBACK (R167). -/
def execTvsReadback (ch : Nat) (s : State) : Res :=
  match Tbl.find s.tvsBack ch with
  | none => .next s
  | some d => .next (s.tvsEnd ch d)

end Sys2Proof.Machine
end

