-- ==== Sys2Proof/Machine/Send.lean ====
section
/-! DEFINITION. SEND (R80, R83–R96): what each class's descriptor names and fixes, the checks in their order, and acceptance. -/

namespace Sys2Proof.Machine

/-- What a descriptor names, in its order: the further handles after the primary one. -/
structure Named where
  /-- is there a primary handle? -/
  primary : Bool
  /-- further handle registers in descriptor order, with the bytes each must hold at least, and whether it may be null -/
  others  : List (Nat × Nat × Bool)
  /-- bytes that the primary handle must hold at least -/
  need    : Nat
  deriving DecidableEq, Repr

namespace State

/-- Field of a 32-byte descriptor. -/
abbrev df (d : Bytes) (o n : Nat) : Nat := fieldAt d o n

/-- Bytes from `o` to the end of a descriptor that are reserved and zero. -/
def restZero (d : Bytes) (o : Nat) : Bool := (d.drop o).all (fun b => decide (b = 0))

/-! ### Contents (R86–R96, R110, R145, R435) -/

/-- A CHK descriptor's contents (R87, R110); `out` is the length of the output handle. -/
def chkValid (d : Bytes) (out : Nat) : Bool :=
  let maxL := df d 8 4
  decide (bits (df d 1 1) 4 4 = 0) && decide (df d 3 1 < 2) && restZero d 0x18 && decide (16 ≤ out) && decide (df d 0x0C 4 < maxL) &&
  (match df d 0 1 with
  | 0 => decide (10 ≤ df d 2 1 ∧ df d 2 1 ≤ 20 ∧ 256 ≤ df d 4 4 ∧ df d 4 4 < 2 ^ df d 2 1 ∧ 2 ^ df d 2 1 ≤ maxL ∧ maxL ≤ 1048576)
  | 1 => decide (df d 2 1 = 0 ∧ df d 4 4 = 0 ∧ df d 0x10 8 = 0 ∧ maxL % 4096 = 0 ∧ 4096 ≤ maxL ∧ maxL ≤ 1048576)
  | _ => false)

/-- A DIG descriptor's contents (R88). -/
def digValid (d : Bytes) : Bool :=
  restZero d 3 &&
  (match df d 0 1 with
  | 0 => decide (df d 1 1 < 16 ∧ df d 2 1 = 0)
  | 1 => decide (df d 2 1 = 0)
  | 2 => decide (df d 1 1 = 0 ∧ df d 2 1 < 56)
  | 3 => decide (df d 1 1 = 0 ∧ df d 2 1 < 56)
  | 4 => decide (df d 1 1 < 16 ∧ df d 2 1 < 56)
  | _ => false)

/-- A CODER descriptor's contents (R89, R145). -/
def coderValid (d : Bytes) : Bool :=
  decide (df d 3 1 = 0) && restZero d 0x0C &&
  (match df d 0 1 with
  | 0 => decide (df d 2 1 = 0 ∧ df d 4 4 = 0 ∧ df d 8 4 = 0)
  | 1 => decide (df d 2 1 < 16 ∧ 1 ≤ df d 4 4 ∧ df d 4 4 ≤ 65536 ∧ df d 8 4 = 0)
  | 2 => decide (df d 2 1 = 0 ∧ df d 4 4 = 0)
  | 3 => decide (df d 2 1 = 0 ∧ df d 4 4 = 0 ∧ df d 8 4 = 0)
  | _ => false)

/-- An XTS descriptor's contents (R90). -/
def xtsValid (d : Bytes) : Bool :=
  decide (df d 0 1 < 2 ∧ df d 1 1 < 16 ∧ df d 2 1 < 16 ∧ df d 3 5 = 0 ∧ df d 0x10 8 % 16 = 0) && restZero d 0x18

/-- Do K, NH and STRIP_LEN hold listed values (R91)? -/
def parShape (d : Bytes) : Bool :=
  decide (1 ≤ df d 2 1 ∧ df d 2 1 ≤ 30 ∧ 1 ≤ df d 3 1 ∧ df d 3 1 ≤ 16 ∧ df d 4 4 % 128 = 0 ∧ 128 ≤ df d 4 4 ∧ df d 4 4 ≤ 65536)

/-- E1 and E2 of a recover (R91, R275). -/
def parErased (d : Bytes) : Bool :=
  let k := df d 2 1
  decide (df d 8 1 ≤ k + 1 ∧ (df d 9 1 = 0xFF ∨ df d 9 1 ≤ k + 1) ∧ df d 8 1 ≠ df d 9 1)

/-- A PAR descriptor's contents (R91). -/
def parValid (d : Bytes) : Bool :=
  parShape d && restZero d 0x0B &&
  (match df d 0 1 with
  | 0 => decide (df d 8 1 = 0xFF ∧ df d 9 1 = 0xFF ∧ df d 0x0A 1 = 0)
  | 1 => decide (df d 1 1 < 16 ∧ df d 8 1 = 0xFF ∧ df d 9 1 = 0xFF ∧ df d 0x0A 1 = 0)
  | 2 => parErased d && decide (df d 0x0A 1 < 16)
  | 3 => decide (df d 8 1 = 0xFF ∧ df d 9 1 = 0xFF ∧ df d 0x0A 1 = 0)
  | _ => false)

/-- An IDX descriptor's contents (R92). -/
def idxValid (d : Bytes) : Bool :=
  decide (df d 2 1 < 16 ∧ 1 ≤ df d 4 4 ∧ df d 4 4 ≤ 21845) && restZero d 8 &&
  (match df d 0 1 with
  | 0 => decide (df d 1 1 < 16 ∧ df d 3 1 < 2)
  | 1 => decide (df d 1 1 = 0 ∧ df d 3 1 = 0)
  | 2 => decide (df d 1 1 = 0 ∧ df d 3 1 = 0)
  | _ => false)

/-- A HIF descriptor's contents (R93). -/
def hifValid (d : Bytes) : Bool :=
  decide (df d 1 1 = 0 ∧ df d 0x0C 4 = 0) && restZero d 0x18 &&
  (match df d 0 1 with
  | 0 => decide (df d 2 2 = 0 ∧ df d 0x10 8 = 0)
  | 1 => decide (df d 2 2 = 0 ∧ df d 0x10 8 = 0)
  | 2 => decide (df d 2 2 < 2 ^ 15 ∧ df d 4 8 = 0)
  | _ => false)

/-- The Quinken opcodes of R434. -/
def mpcOpcodes : List Nat := [0x80, 0x81, 0x82, 0x85, 0x86, 0x88, 0x8A]

/-- An MPC descriptor's contents (R94, R434, R435); `len` is the length of the primary handle. -/
def mpcValid (d : Bytes) (len : Nat) : Bool :=
  let op := df d 0 1
  let force := bit (df d 3 1) 2
  decide (op ∈ mpcOpcodes) && decide (df d 2 1 < 64 ∧ df d 3 1 < 8) && (!force || decide (op = 0x81 ∨ op = 0x85))
    && (if op = 0x81 then decide (df d 1 1 < 16) else decide (df d 1 1 = 0))
    && (decide (op ≠ 0x85) || decide (len = bits (df d 0x10 4) 0 11 * 32))

/-- A ROPE descriptor's contents (R95). -/
def ropeValid (d : Bytes) : Bool := decide (df d 0 1 < 2 ∧ df d 1 1 = 0 ∧ df d 2 1 < 16) && restZero d 3

/-- An SBK descriptor's contents (R96). -/
def sbkValid (d : Bytes) (len : Nat) : Bool :=
  decide (df d 0 1 = 0 ∧ df d 1 1 = 0 ∧ df d 2 2 < 2 ^ 12 ∧ df d 4 4 < 2 ^ 28 ∧ len ≤ 1008) && restZero d 8

/-! ### What a descriptor names and fixes (R83, R87–R96, R146, R435) -/

/-- The primary handle alone, with no extent. -/
def primaryOnly : Named := { primary := true, others := [], need := 0 }

/-- A handle register in the low or the high nibble of H2. Each nibble is a field of its own (R83): one that must be zero but
is not leaves the other's register tested (log entry 22). -/
def h2lo (d : Bytes) : Nat := df d 1 1 % 16
def h2hi (d : Bytes) : Nat := df d 1 1 / 16

/-- The data handles of a PAR job after the primary one. -/
def parFurther (d : Bytes) (h : Nat) : List Nat := ((List.range (df d 3 1 - 1)).map (fun i => h + 1 + i)).filter (fun r => decide (r < 16))

/-- The output of a recover: E1's strip, and E2's. -/
def parOut (d : Bytes) : Nat := df d 4 4 * (if df d 9 1 = 0xFF then 1 else 2)

/-- What a PAR descriptor names. Whole strips and their total are judged apart. With an unlisted K or NH the P and Q extents count no bytes
(DESIGN CHOICE, log entry 84). -/
def parNamed (d : Bytes) (h : Nat) : Named :=
  let l := if parShape d then df d 4 4 else 0
  let p := (h2lo d, l, false)
  let q := (h2hi d, l, false)
  let further := if decide (1 ≤ df d 3 1 ∧ df d 3 1 ≤ 16) then (parFurther d h).map (fun r => (r, 0, false)) else []
  match df d 0 1 with
  | 0 => { primary := true, others := p :: q :: further, need := 0 }
  | 1 => { primary := true, others := p :: further, need := 0 }
  | 2 => { primary := true, need := 0, others := p :: q :: further
            ++ [(df d 0x0A 1 % 16, if parShape d && parErased d then parOut d else 0, false)] }
  | 3 => { primary := true, others := p :: q :: further, need := 0 }
  | _ => primaryOnly

/-- What an MPC descriptor names. -/
def mpcNamed (d : Bytes) : Named :=
  let n := bits (df d 0x0C 4) 16 5 + 1
  match df d 0 1 with
  | 0x80 => { primary := false, others := [], need := 0 }
  | 0x81 => { primary := true, others := [(h2lo d, n * 64, false)], need := n * 4096 }
  | 0x82 => { primary := true, others := [], need := n * 4160 }
  | 0x85 => { primary := true, others := [], need := bits (df d 0x10 4) 0 11 * 32 }
  | 0x86 => { primary := true, others := [], need := (bits (df d 0x10 4) 0 8 + 1) * 64 }
  | 0x88 => { primary := false, others := [], need := 0 }
  | 0x8A => { primary := true, others := [], need := 512 }
  | _ => primaryOnly

/-- What a descriptor of a class names; `len` is the length of the primary handle, `h` its register. -/
def named (cls : Nat) (d : Bytes) (h len : Nat) : Named :=
  let out := fun (need : Nat) => [(h2lo d, need, false)]
  match cls with
  | 1 => if df d 0 1 < 2 then { primary := true, others := out 0, need := 0 } else primaryOnly
  | 2 =>
    match df d 0 1 with
    | 0 => { primary := true, others := out 32, need := 0 }
    | 1 => { primary := true, others := [(h2lo d, 0, false), (h2hi d, 0, false)], need := 0 }
    | 4 => { primary := true, others := out 32, need := 0 }
    | _ => primaryOnly
  | 3 => if df d 0 1 < 4 then
      { primary := true, others := [(h2lo d, 0, false), (h2hi d, 4096, decide (df d 0 1 ≠ 3))], need := 0 } else primaryOnly
  | 4 => if df d 0 1 < 2 then { primary := true, others := out len, need := 0 } else primaryOnly
  | 5 => parNamed d h
  | 6 =>
    let n := if 1 ≤ df d 4 4 ∧ df d 4 4 ≤ 21845 then df d 4 4 else 0
    (match df d 0 1 with
    | 0 => { primary := true, others := out (8 * n), need := 48 * n }
    | 1 => { primary := true, others := [], need := 48 * n }
    | 2 => { primary := true, others := [], need := 48 * n }
    | _ => primaryOnly)
  | 8 =>
    (match df d 0 1 with
    | 0 => { primary := true, others := [], need := df d 8 4 }
    | 1 => { primary := true, others := [], need := df d 8 4 }
    | 2 => { primary := false, others := [], need := 0 }
    | _ => primaryOnly)
  | 9 => mpcNamed d
  | _ => primaryOnly

/-! ### Queues (R83, R85, R509) -/

/-- The depth of a class's queue. -/
def queueDepth (cls : Nat) : Nat :=
  match cls with
  | 4 => 32
  | 5 => 32
  | 6 => 128
  | 8 => 256
  | 9 => 512
  | 0x0A => 128
  | 0x0B => 16
  | _ => 64

/-- Do two jobs stand in the same queue: one ridge's, and for a port class one port's? -/
def sameQueue (a b : Job) : Bool :=
  decide (a.cls = b.cls ∧ a.ridge = b.ridge) && (!(decide (a.cls = 8) || decide (a.cls = 9)) || decide (a.lane = b.lane))

/-- Bytes of a job's record while it waits in the book's accepted space (R509). -/
def jobRecord (j : Job) : Nat := ceilDiv (16 + hLen (jh j 0)) 8 * 8

/-- Is there a place for a job, and for a record's bytes? -/
def queueFree (s : State) (j : Job) : Bool :=
  decide ((s.jobs.filter (fun (p : Nat × Job) => sameQueue p.2 j)).length < queueDepth j.cls)
    && (decide (j.cls ≠ 0x0B) || decide (1008 < hLen (jh j 0)) || decide (s.sbkQueued + jobRecord j ≤ 16384))

/-- The job a WAITING climb waits to queue. -/
def waitsFor (c : Climb) : Option Job :=
  match c.state, c.await with
  | .waiting, .queue j => some j
  | _, _ => none

/-- The climb that has waited longest for a place in this job's queue. -/
def queueHead (s : State) (j : Job) : Option (Nat × Climb) :=
  minBy (fun (p : Nat × Climb) => p.2.stamp) (s.climbs.filter (fun (p : Nat × Climb) => match waitsFor p.2 with
    | some k => sameQueue k j
    | none => false))

/-- The CODER lane with the fewest jobs, the lowest in a tie (R85). -/
def coderLane (s : State) (ridge : Nat) : Nat :=
  (minBy (fun l => (s.jobs.filter (fun (p : Nat × Job) => decide (p.2.cls = 3 ∧ p.2.ridge = ridge ∧ p.2.lane = l))).length) (List.range 16)).getD 0

/-! ### Acceptance (R83 check 8, R86) -/

/-- Is the content of a job valid (R83)? -/
def jobValid (s : State) (j : Job) : Bool :=
  let d := j.desc
  let len := hLen (jh j 0)
  match j.cls with
  | 1 => chkValid d (hLen (jh j 1))
  | 2 => digValid d
  | 3 => coderValid d
  | 4 => xtsValid d
  | 5 => parValid d
  | 6 => idxValid d
  | 8 => hifValid d && (s.jobCmd j).isSome
  | 9 => mpcValid d len
  | 0x0A => ropeValid d
  | _ => sbkValid d len

/-- A unit's STATUS register holds BAD_DESCRIPTOR in bit 1 for these classes (R112, R202, R277). -/
def badFlag (s : State) (j : Job) : State :=
  match j.cls with
  | 1 => s.raise (ridgeBlk j.ridge 5 + 0x18) 2
  | 4 => s.raise (ridgeBlk j.ridge 7 + 0x18) 2
  | 5 => s.raise (ridgeBlk j.ridge 8 + 0x18) 2
  | _ => s

/-- The record of a class 0x0B job (R96, R505). -/
def sbkRecOf (s : State) (n : Nat) (j : Job) : SbkRec :=
  { source := s.coreCode j.cid, typ := df j.desc 2 2, flags := df j.desc 4 4, payload := s.hBytes j.ridge (jh j 0), job := some n }

/-- The job is queued and its token becomes PENDING; a job of invalid contents, or for an absent port, is done at once, a
record group gets its SEQ, and a record joins those the book has accepted. -/
def acceptJob (s : State) (j0 : Job) : State :=
  let n := Tbl.next s.jobs
  let j := if j0.cls = 3 then { j0 with lane := s.coderLane j0.ridge }
    else if j0.cls = 4 then { j0 with noKey := decide (fieldAt j0.desc 2 1 ∈ s.keyEnding) } else j0
  let s1 := { s with jobs := Tbl.set s.jobs n j }.setTok j.cid j.tok .pending
  if !s1.jobValid j then (s1.badFlag j).finish n j 1 0
  else if j.cls = 9 ∧ s1.mpcPresent j.lane = false then s1.finish n j 2 0
  else if j.cls = 0x0A ∧ jobOp j = 0 then s1.ropeAccept n j
  else if j.cls = 3 then s1.startLanes j.ridge
  else if j.cls = 0x0B then { s1 with sbk := { s1.sbk with queue := s1.sbk.queue ++ [s1.sbkRecOf n j] } }
  else s1

/-! ### The checks in order (R83) -/

/-- Check 5: the first handle that is null or stale. -/
def staleHandle (s : State) (ridge : Nat) (nm : Named) (prim : W64) (regs : List W64) : Option W64 :=
  if nm.primary && !s.liveH ridge prim then some prim
  else (nm.others.filterMap (fun o =>
    let v := regs.getD o.1 nullH
    if s.liveH ridge v || (o.2.2 && decide (v = nullH)) then none else some v)).head?

/-- The data strips of a PAR job fill its handles wholly (R91); the first handle that does not, the primary for the total. -/
def parExtent (d : Bytes) (h : Nat) (regs : List W64) : Option W64 :=
  if !parShape d || decide (3 < df d 0 1) then none
  else
    let l := df d 4 4
    let hs := (h :: parFurther d h).map (fun r => regs.getD r nullH)
    match hs.find? (fun v => decide (hLen v % l ≠ 0)) with
    | some v => some v
    | none => if 16 < h + df d 3 1 ∨ sumBy hLen hs ≠ df d 2 1 * l then some (regs.getD h nullH) else none

/-- Check 6: the first handle that does not hold an extent. -/
def shortHandle (cls h : Nat) (d : Bytes) (nm : Named) (prim : W64) (regs : List W64) : Option W64 :=
  let primShort := nm.primary && decide (hLen prim < nm.need)
  if primShort then some prim
  else
    let par := if cls = 5 then parExtent d h regs else none
    if par = some prim then par
    else
      match nm.others.find? (fun o => let v := regs.getD o.1 nullH
          decide (v ≠ nullH) && (decide (hLen v < o.2.1) || decide (par = some v))) with
      | some o => some (regs.getD o.1 nullH)
      | none => none

/-- The job that a SEND asks for. -/
def mkJob (s : State) (cid cls h t flags : Nat) (d : Bytes) : Job :=
  let c := s.climb cid
  let prim := c.h.getD h nullH
  let nm := named cls d h (hLen prim)
  let lane := match cls with
    | 9 => df d 2 1
    | 8 => match c.origin with
      | .host n => match s.hcmd n with
        | some x => match s.hqueue x.queue with
          | some q => q.port
          | none => 0
        | none => 0
      | _ => 0
    | _ => 0
  { cid := cid, tok := t, cls := cls, ordered := bit flags 0, desc := d,
    handles := (if nm.primary then prim else nullH) :: nm.others.map (fun o => c.h.getD o.1 nullH),
    ridge := cid / 1024, lane := lane, profile := s.climbProfile cid }

/-- SEND of a running climb (R80, R83, R84). -/
def sendRun (s : State) (a : Agent) (cid cls h t flags off : Nat) : State :=
  let c := s.climb cid
  if s.climbProfile cid = 3 ∧ cls ∉ [1, 2, 3, 5] then s.violate (s.coreCode cid) 0 false (some cls)
  else if s.tok cid t ≠ .idle then s.trapHere a 0x07 (BitVec.ofNat 64 t)
  else if off % 32 ≠ 0 ∨ 480 < off then s.trapHere a 0x0A (BitVec.ofNat 64 off)
  else
    let d := s.rdBytes (localAddr cid + off) 32
    let prim := c.h.getD h nullH
    let nm := named cls d h (hLen prim)
    match s.staleHandle (cid / 1024) nm prim c.h with
    | some v => s.trapHere a 0x06 v
    | none =>
      match shortHandle cls h d nm prim c.h with
      | some v => s.trapHere a 0x05 v
      | none =>
        let j := s.mkJob cid cls h t flags d
        if s.queueFree j && (s.queueHead j).isNone then (s.acceptJob j).adv a
        else (s.updClimb cid (fun x => { x with await := .queue j })).leave cid .waiting

end State

open State

/-- SEND (R83). -/
def execSend (a : Agent) (cls : BitVec 5) (h : BitVec 4) (t : BitVec 3) (gd : BitVec 5) (flags : BitVec 9) (s : State) : Res :=
  .next (s.ezClimb a (.send a cls h t gd flags) (fun cid u =>
    if !sendListed cls flags then u.illegal a (.send a cls h t gd flags)
    else u.sendRun a cid cls.toNat h.toNat t.toNat flags.toNat (u.getG a gd).toNat))

/-- SEND_QUEUE_ACCEPT (R83): the SEND that has waited longest takes the free place, and its climb becomes READY. -/
def execSendQueueAccept (ridge cls port : Nat) (s : State) : Res :=
  let probe : Job := { cid := 1024 * ridge, tok := 0, cls := cls, ordered := false, desc := [], handles := [], ridge := ridge,
                       lane := port, profile := 0 }
  match s.queueHead probe with
  | none => .next s
  | some (cid, c) =>
    match waitsFor c with
    | none => .next s
    | some j =>
      if !s.queueFree j then .next s
      else .next (((s.acceptJob j).updClimb cid (fun x => { x with pc := x.pc + 4 })).wakeUp cid)

/-- SBK_RECORD (R96): the accepted records up to the job's own are stored, or counted missed. -/
def execSbkRecord (job : Nat) (s : State) : Res :=
  match s.sbk.queue.findIdx? (fun r => decide (r.job = some job)) with
  | none => .next s
  | some i => .next ((List.range (i + 1)).foldl (fun (t : State) _ => t.sbkStoreOne) s)

end Sys2Proof.Machine
end

