-- ==== Sys2Proof/Machine/Control.lean ====
section
/-! DEFINITION. Control space as a whole (R7–R11): what a register slot reads as, where its value stands in the structured state
rather than in `State.regs`, and what a write of it does. -/

namespace Sys2Proof.Machine

namespace State

/-- The stored word of a slot as a number. -/
def rn (s : State) (off : Nat) : Nat := (s.reg off).toNat

/-! ### Reads -/

/-- SYS (R2, R3, R34). -/
def readSys (s : State) (lo : Nat) : Nat :=
  match lo with
  | 0x00 => s.fuses.part % 2 ^ 16 + 2 * 2 ^ 16
  | 0x08 => s.fuses.ridges % 256 + s.fuses.hifs % 256 * 2 ^ 8 + s.fuses.drcs % 256 * 2 ^ 16
  | 0x10 => s.fuses.mpcs.toNat
  | 0x48 => sumBy (fun m => (b2n (s.mcore m).frozen + 2 * b2n (s.mcore m).running) * 2 ^ (8 * m)) (List.range 4)
  | _ => s.rn lo

/-- CLK (R320, R520–R525). -/
def readClk (s : State) (lo : Nat) : Nat :=
  match lo with
  | 0x00 => b2n s.pwr.pllLock + 2 * b2n s.pwr.refOk + 4 * b2n s.pwr.holdover + 8 * b2n s.pwr.aonInternal
  | 0x08 => s.time.toNat
  | 0x18 => s.rope.slew.toNat
  | _ => s.rn (0x10000 + lo)

/-- PWR (18). -/
def readPwr (s : State) (lo : Nat) : Nat :=
  let p := s.pwr
  match lo with
  | 0x00 => p.mode % 16 + p.prev % 16 * 16
  | 0x08 => p.modeTime.toNat
  | 0x10 => p.domains % 2 ^ 64
  | 0x18 => bits p.domains 64 16
  | 0x28 => b2n p.seqBusy + p.seqLast % 128 * 2 ^ 8
  | 0x30 => p.kind % 4 + p.source % 256 * 2 ^ 8 + p.autoCount % 256 * 2 ^ 16
  | 0x48 => p.faultDomain % 128
  | 0x58 => p.tjNow % 2 ^ 16 + p.tjPeak % 2 ^ 16 * 2 ^ 16
  | _ => s.rn (0x20000 + lo)

/-- LCS (15). -/
def readLcs (s : State) (lo : Nat) : Nat :=
  match lo with
  | 0x00 => s.lcsState
  | 0x08 => s.lcsSlots
  | 0x10 => b2n s.wdn.sramDone + s.wdn.dramDone % 256 * 2 + b2n s.wdn.areaBlank * 2 ^ 9
  | 0x18 => s.fuses.serial.toNat
  | _ => s.rn (0x30000 + lo)

/-- WDN (15). -/
def readWdn (s : State) (lo : Nat) : Nat :=
  let w := s.wdn
  if 0x100 ≤ lo ∧ lo < 0x280 then fieldAt (w.meas.getD ((lo - 0x100) / 0x30) []) ((lo - 0x100) % 0x30) 8 else
  match lo with
  | 0x00 => b2n w.romDone + 2 * b2n w.verified + 4 * (w.slot % 2) + 8 * b2n w.fallback + 16 * b2n w.trngOk + 32 * b2n (s.ladderServes false)
  | 0x08 => w.resultA % 256 + w.resultB % 256 * 2 ^ 8
  | 0x10 => s.svnWord
  | _ => s.rn (0x40000 + lo)

/-- WARD (15). -/
def readWard (s : State) (lo : Nat) : Nat :=
  match lo with
  | 0x20 => sumBy (fun k => b2n (s.core k).frozen * 2 ^ k) (List.range 32)
  | 0x28 => sumBy (fun m => b2n (s.mcore m).frozen * 2 ^ m) (List.range 4)
      + sumBy (fun c => if c ∈ s.tvsFrozen then 2 ^ (4 + c) else 0) (List.range 32) + b2n s.pep.frozen0 * 2 ^ 36 + b2n s.pep.frozen1 * 2 ^ 37
  | 0x30 => (s.host.queues.filter (fun (q : Nat × HQueue) => q.2.frozen)).length
  | _ => s.rn (0x50000 + lo)

/-- SBK (R504–R517); the window shows one page of the book. -/
def readSbk (s : State) (lo : Nat) : Nat :=
  let b := s.sbk
  if 0x4000 ≤ lo ∧ lo < 0xC000 then leNat (Mem.readBytes b.book (32768 * s.regBits 0x60028 0 7 + (lo - 0x4000)) 8)
  else if 0x40 ≤ lo ∧ lo < 0x60 then 0
  else match lo with
    | 0x00 => b.fill % 2 ^ 23 + b2n b.frozen * 2 ^ 23 + b2n b.full * 2 ^ 24 + b2n b.nonce.isSome * 2 ^ 25 + b2n b.clearing.isSome * 2 ^ 26
        + b.gen % 2 ^ 32 * 2 ^ 32
    | 0x10 => b.fullMissed % 2 ^ 32 + b.frozenMissed % 2 ^ 32 * 2 ^ 32
    | 0x30 => fieldAt (b.nonce.getD []) 0 8
    | 0x38 => fieldAt (b.nonce.getD []) 8 8
    | 0x60 => b.lenErrors.toNat + b.rejected.toNat * 2 ^ 32
    | 0x68 => b.clearsDone.toNat + b.clearsRefused.toNat * 2 ^ 32
    | _ => s.rn (0x60000 + lo)

/-- One register of a Notch context (R120–R126); DIGEST reads as zero to all but the owner (R121). -/
def readNchCtx (s : State) (m c lo : Nat) : Nat :=
  match Tbl.find s.nch c with
  | none => if lo = 0 then 0xFF else s.rn (nchReg c + lo)
  | some x =>
    if 0x80 ≤ lo ∧ lo < 0xC0 then (if x.owner = m then fieldAt x.digest (lo - 0x80) 8 else 0)
    else match lo with
      | 0x00 => x.owner % 256 + 2 ^ 8
      | 0x10 => s.rn (nchReg c + 0x10) + b2n x.busy + 2 * b2n (x.done && !s.nchFailed c)
      | 0x18 => x.data.length
      | _ => s.rn (nchReg c + lo)

def readNch (s : State) (m lo : Nat) : Nat :=
  if 0x1000 ≤ lo ∧ lo < 0x2000 then s.readNchCtx m ((lo - 0x1000) / 0x100) (lo % 0x100)
  else if lo = 0 then sumBy (fun c => if (Tbl.find s.nch c).isNone then 2 ^ c else 0) (List.range 16)
  else s.rn (0x70000 + lo)

/-- TVS (R166–R172). -/
def readTvs (s : State) (lo : Nat) : Nat :=
  if lo = 8 then sumBy (fun c => b2n (s.tvsBusy c) * 2 ^ c) (List.range 32)
  else if 0x1000 ≤ lo ∧ lo < 0x1800 ∧ lo % 0x40 = 0x20 then
    s.rn (0x80000 + lo) + (if (lo - 0x1000) / 0x40 ∈ s.tvsFrozen then 2 ^ 5 else 0)
  else s.rn (0x80000 + lo)

/-- UPD (16). TARGET_SLOT reads as reset, 0, while no transfer is armed or open (log entry 27). -/
def readUpd (s : State) (lo : Nat) : Nat :=
  let u := s.upd
  match lo with
  | 0x00 => b2n u.armTo.isSome + 2 * b2n u.session.isSome + 4 * (if u.armTo.isSome ∨ u.session.isSome then s.htTarget % 2 else 0)
      + (s.hrec 0).state % 8 * 2 ^ 3 + (s.hrec 1).state % 8 * 2 ^ 6
  | 0x08 => match u.session with
    | some h => h.got % 2 ^ 32 + h.total % 2 ^ 32 * 2 ^ 32
    | none => 0
  | 0x10 => match u.session with
    | some h => h.addr % 2 ^ 32 + h.udp % 2 ^ 16 * 2 ^ 32
    | none => 0
  | 0x30 => match u.armTo with
    | some t => (t.toNat - s.time.toNat) / 100000 % 2 ^ 32
    | none => 0
  | _ => s.rn (0x90000 + lo)

/-- SVC (16). The state of the service port's link is none of the block's: those bits of `SVC.STATUS` are free (log entry 3). -/
def readSvc (s : State) (lo : Nat) : Nat := if lo = 0 then (Config.freeWord s.freeCtr).toNat % 32 else s.rn (0xA0000 + lo)

/-- CRN (10). -/
def readCrn (s : State) (lo : Nat) : Nat :=
  let c := s.crn
  match lo with
  | 0x00 => b2n c.linkUp + 2 * b2n c.lease + 4 * b2n c.peerAlive + 8 * b2n (!s.pwr.yieldN) + c.owned % 2 ^ 16 * 2 ^ 16
  | 0x08 => c.term.toNat
  | 0x28 => s.pair.yieldCause % 256
  | 0x38 => c.msgSent.toNat + c.msgAccepted.toNat * 2 ^ 32
  | 0x40 => c.ownInc % 2 ^ 16 + c.inc % 2 ^ 16 * 2 ^ 16
  | _ => s.rn (0xB0000 + lo)

/-- ROPE (10). -/
def readRope (s : State) (lo : Nat) : Nat :=
  let r := s.rope
  match lo with
  | 0x00 => b2n r.linkUp + popcount r.lanes % 32 * 2 + b2n r.degraded * 2 ^ 6 + b2n r.txKey.isSome * 2 ^ 7 + b2n r.lease * 2 ^ 8
      + b2n r.suspect * 2 ^ 9 + b2n r.timeSynced * 2 ^ 10 + s.headId * 2 ^ 11 + b2n (!s.pwr.peerYieldN) * 2 ^ 12 + b2n r.master * 2 ^ 13
  | 0x08 => s.rn (0xC0000 + lo) + r.lanes % 2 ^ 16
  | 0x20 => r.hbSentCnt.toNat
  | 0x28 => r.hbMissed.toNat
  | 0x30 => r.badAuth.toNat + r.badFormat.toNat * 2 ^ 32
  | 0x38 => r.retrans.toNat
  | 0x40 => r.offset.toNat
  | 0x48 => (match r.txKey with | some k => k.session % 2 ^ 32 | none => 0) + r.rekeys % 2 ^ 32 * 2 ^ 32
  | 0x50 => sumBy (fun (q : Nat × Pool) => if q.2.rel = .shadow then q.2.waiting.length else 0) s.pools % 2 ^ 32
  | _ => s.rn (0xC0000 + lo)

/-- Calls of PF0 dispatched and not yet ended. -/
def callsActive (s : State) : Nat :=
  (s.calls.filter (fun (c : Nat × Call) => !c.2.internal && decide (c.2.phase = .reading ∨ c.2.phase = .running))).length

/-- PEP (13). -/
def readPep (s : State) (lo : Nat) : Nat :=
  let p := s.pep
  match lo with
  | 0x00 => b2n p.linkUp + p.speed % 8 * 2 + p.width % 32 * 2 ^ 4 + b2n (decide (p.speed = 6)) * 2 ^ 9 + b2n p.bme0 * 2 ^ 10 + b2n p.bme1 * 2 ^ 11
      + b2n p.frozen0 * 2 ^ 12 + b2n p.frozen1 * 2 ^ 13 + b2n p.flrBusy0 * 2 ^ 14 + b2n p.flrBusy1 * 2 ^ 15
  | 0x28 => p.sqHead % 2 ^ 10 + p.sqTail % 2 ^ 10 * 2 ^ 16 + p.cqTail % 2 ^ 16 * 2 ^ 32 + p.cqHead % 2 ^ 16 * 2 ^ 48
  | 0x30 => s.callsActive % 2 ^ 32
  | 0x38 => p.dispatched.toNat + p.completed.toNat * 2 ^ 32
  | _ => s.rn (0xD0000 + lo)

/-- The tag that `MAPC.DIAG_SEL` selects (R195, R199). -/
def diagTag (s : State) : Nat :=
  let sel := s.rn (rMapc + 0x300)
  let set := bits sel 0 15
  let way := bits sel 15 5
  let e := if way < 16 then Tbl.find s.mapc.main (16 * set + way) else if way = 16 then Tbl.find s.mapc.victim set else none
  match e with
  | some c => 1 + 2 * b2n c.dirty + c.line % 2 ^ 40 * 4
  | none => 0

/-- MAPC (06). -/
def readMapc (s : State) (lo : Nat) : Nat :=
  match lo with
  | 0x000 => s.rn rMapc + b2n (!s.mapc.wiping) + 2 * b2n s.mapc.wiping
  | 0x218 => s.rn (rMapc + 0x218) + b2n s.mapc.maint
  | 0x308 => s.diagTag
  | _ => s.rn (rMapc + lo)

/-- DRC[n] (18). -/
def readDrc (s : State) (n lo : Nat) : Nat :=
  let d := s.drc n
  match lo with
  | 0x00 => b2n d.present + 2 * b2n d.trained + 4 * b2n d.selfRef + 8 * b2n d.slow + d.sizeGib % 512 * 2 ^ 8 + b2n d.ranks2 * 2 ^ 17
      + d.rate / 4 % 2 ^ 13 * 2 ^ 32
  | 0x30 => d.result % 256 + d.trainMs % 2 ^ 24 * 2 ^ 8
  | _ => s.rn (drcBlk n + lo)

/-- `HIF[n].QSTATE0` (R379). -/
def qstate0 (s : State) (n : Nat) : Nat :=
  let k := s.regBits (hifBlk n + 0x30) 0 16
  match s.hqueue k with
  | none => 0
  | some q =>
    if q.port ≠ n then 0 else
    1 + b2n q.rdma * 2 + q.sub % 8 * 2 ^ 2 + q.ridge % 8 * 2 ^ 5 + b2n q.heldSqhd.isSome * 2 ^ 8 + b2n q.hdgst * 2 ^ 9 + b2n q.ddgst * 2 ^ 10
      + (q.depth - 1) % 2 ^ 12 * 2 ^ 12 + q.heldSqhd.getD q.sqhd % 2 ^ 12 * 2 ^ 24 + (s.cmdsOf k).length % 2 ^ 12 * 2 ^ 36

/-- HIF[n] (12). -/
def readHif (s : State) (n lo : Nat) : Nat :=
  match lo with
  | 0x08 => sumBy (fun i => b2n (s.subPort n i).up * 2 ^ i + b2n (s.subPort n i).inUse.isSome * 2 ^ (8 + i)
      + b2n (s.subOn n i && !(s.subPort n i).up) * 2 ^ (16 + i)) (List.range 8)
  | 0x20 => s.intakeFree n % 2 ^ 24 + (s.intakeOf n).length % 2 ^ 16 * 2 ^ 24
  | 0x28 => (s.host.queues.filter (fun (q : Nat × HQueue) => decide (q.2.port = n))).length % 2 ^ 17
  | 0x38 => s.qstate0 n
  | 0x40 => if s.qstate0 n = 0 then 0 else match s.hqueue (s.regBits (hifBlk n + 0x30) 0 16) with
    | some q => q.cntlid % 2 ^ 16 + q.qid % 2 ^ 16 * 2 ^ 16
    | none => 0
  | 0x1000 => if n ≠ 0 then 0 else
      let used := (s.host.locks.filter (fun l => l.granted)).length
      used % 2 ^ 17 + (s.host.locks.length - used) % 2 ^ 17 * 2 ^ 17 + s.host.lockPeak % 2 ^ 17 * 2 ^ 34
  | _ => s.rn (hifBlk n + lo)

/-- Commands outstanding on a module: jobs and the library's own. -/
def moduleBusy (s : State) (m : Nat) : Nat :=
  (s.jobs.filter (fun (j : Nat × Job) => decide (j.2.cls = 9 ∧ mpcModule j.2 = m))).length
    + (s.svc.filter (fun (x : Nat × Svc) => decide (svcMod x.2 = m))).length

/-- MPC[n] (14). -/
def readMpc (s : State) (n lo : Nat) : Nat :=
  match lo with
  | 0x00 =>
    let p := s.mport n
    b2n p.up + p.speed % 8 * 2 + p.width % 8 * 2 ^ 4 + b2n p.flit * 2 ^ 7 + b2n p.expander * 2 ^ 8
      + sumBy (fun t => let x := s.modu (4 * n + t)
          b2n x.present * 2 ^ (9 + t) + b2n x.lost * 2 ^ (13 + t) + b2n x.admitted * 2 ^ (17 + t)) (List.range 4)
  | 0x28 =>
    let m := 4 * n + s.regBits (mpcBlk n + 0x20) 0 2
    let x := s.modu m
    b2n x.present + 2 * b2n x.admitted + 4 * b2n x.lost + 8 * b2n x.held + 16 * b2n x.registered + s.moduleBusy m % 2 ^ 13 * 2 ^ 8
      + (if x.lost then min 65535 ((s.time - x.lostAt).toNat / 100000) else 0) * 2 ^ 32
  | _ => s.rn (mpcBlk n + lo)

/-- A core of a ridge (02). -/
def readCore (s : State) (n m lo : Nat) : Nat :=
  let k := 4 * n + m
  let d := s.core k
  match lo with
  | 0x00 => b2n d.frozen + (s.residents k).length % 32 * 2 + b2n d.running.isSome * 2 ^ 6 + d.running.getD 0 % 1024 * 2 ^ 7
  | 0x08 => d.busyCycles.toNat
  | 0x10 => d.switches.toNat
  | 0x18 => d.freezeInfo.toNat
  | _ => s.rn (ridgeBlk n m + lo)

/-- The code of a climb state in INSPECT. -/
def stateCode : CState → Nat
  | .free => 0 | .ready => 1 | .running => 2 | .waiting => 3 | .parked => 4

/-- `RDG[n].CLIMB.INSPECT` (R45). -/
def inspect (s : State) (n : Nat) : Nat :=
  let c := s.climb (1024 * n + s.regBits (climbBlk n + 0x20) 0 10)
  stateCode c.state + b2n c.core.isSome * 2 ^ 3 + c.core.getD 0 % 4 * 2 ^ 4 + b2n c.bg * 2 ^ 6 + b2n c.trapActive * 2 ^ 7 + c.slot % 256 * 2 ^ 8
    + sumBy (fun t => b2n (Tok.isPending (c.t.getD t .idle)) * 2 ^ (16 + t)) (List.range 8) + b2n c.wakePending * 2 ^ 24
    + min 0xFFFFFFFF (s.time - c.since).toNat * 2 ^ 32

/-- RDG[n].CLIMB (02). -/
def readClimb (s : State) (n lo : Nat) : Nat :=
  match lo with
  | 0x00 => s.freeClimbs n + s.countState n .ready * 2 ^ 11 + s.countState n .waiting * 2 ^ 22 + s.countState n .parked * 2 ^ 33
      + s.countState n .running * 2 ^ 44
  | 0x28 => s.inspect n
  | _ => s.rn (climbBlk n + lo)

/-- RDG[n] fabric (02). -/
def readFabric (s : State) (n lo : Nat) : Nat :=
  match lo with
  | 0x00 => s.freeGrans n % 2 ^ 15
  | 0x10 => s.liveBufs n % 2 ^ 13
  | _ => s.rn (ridgeBlk n 15 + lo)

/-- RDG[n].DIG (04). -/
def readDig (s : State) (n lo : Nat) : Nat :=
  if lo = 0 then sumBy (fun c => b2n (Tbl.find s.digs (64 * n + c)).isSome * 2 ^ c) (List.range 56) else s.rn (ridgeBlk n 6 + lo)

/-- RDG[n].XTS (06). -/
def readXts (s : State) (n lo : Nat) : Nat :=
  if lo = 0 then sumBy (fun p => b2n (Tbl.find s.keySlots p).isSome * 2 ^ p) (List.range 16) else s.rn (ridgeBlk n 7 + lo)

/-- A CODER lane (05): BUSY with its oldest job that no earlier job holds back. -/
def readCoder (s : State) (n lo : Nat) : Nat :=
  if lo % 0x800 = 0 then
    match s.jobs.find? (fun (j : Nat × Job) => decide (j.2.cls = 3 ∧ j.2.ridge = n ∧ j.2.lane = lo / 0x800) && j.2.started) with
    | some j => 1 + jobOp j.2 % 4 * 2
    | none => 0
  else s.rn (ridgeBlk n 10 + lo)

/-- What a register slot reads as to a master; the fields of R7 that read as zero do. -/
def ctlRead (s : State) (m slot : Nat) : W64 :=
  match ctlBlock slot with
  | none => 0
  | some (b, lo) => BitVec.ofNat 64 (match b with
    | .sys => s.readSys lo | .clk => s.readClk lo | .pwr => s.readPwr lo | .lcs => s.readLcs lo | .wdn => s.readWdn lo
    | .ward => s.readWard lo | .sbk => s.readSbk lo | .nch => s.readNch m lo | .tvs => s.readTvs lo | .upd => s.readUpd lo
    | .svc => s.readSvc lo | .crn => s.readCrn lo | .rope => s.readRope lo | .pep => s.readPep lo | .mapc => s.readMapc lo
    | .drc n => s.readDrc n lo | .hif n => s.readHif n lo | .mpc n => s.readMpc n lo | .core n k => s.readCore n k lo
    | .climb n => s.readClimb n lo | .dig n => s.readDig n lo | .xts n => s.readXts n lo | .coder n => s.readCoder n lo
    | .fabric n => s.readFabric n lo
    | .lop | .chk _ | .par _ | .idx _ => s.rn slot)

/-- A read of `width` bytes at an offset. -/
def ctlValue (s : State) (m off width : Nat) : W64 :=
  let v := s.ctlRead m (off / 8 * 8)
  if width = 8 then v else if off % 8 = 0 then v &&& 0xFFFFFFFF else v >>> 32

/-! ### Writes -/

/-- A write by access type (R7, R10): RW and RO/L fields store, W1S sets, W1C clears, with the flags that hardware sets in the
same cycle in `hw`. -/
def plainWrite (s : State) (m slot : Nat) (v mask hw : W64) : State :=
  let d := regDesc slot
  let k := mask &&& BitVec.ofNat 64 (if m = 0x60 then d.rw ||| d.rol else d.rw)
  let s := if lineGate slot then s.wakeCores else s
  let s1 := levelRise s (s.setReg slot ((s.reg slot &&& ~~~k) ||| (v &&& k) ||| (v &&& mask &&& BitVec.ofNat 64 d.w1s)))
  if d.w1c = 0 then s1 else s1.clearFlags slot (BitVec.ofNat 64 d.w1c) (v &&& mask) hw

/-- A LOP entry's word written by the firmware, the reserved bits of STATE left zero (R26, R30): a PHASE change or a new operation is announced. -/
def lopStore (s : State) (m slot : Nat) (v mask : W64) : State :=
  if m < 0x20 ∨ 0x24 ≤ m then s else
  let i := slot % 0x800 / 0x20
  let old := s.reg slot
  let stored : W64 := if slot % 0x20 = 0 then 0x0000FFFF3FFF1FFF else BitVec.allOnes 64
  let new := ((old &&& ~~~mask) ||| (v &&& mask)) &&& stored
  let s1 := s.setReg slot new
  if slot % 0x20 ≠ 0 then s1
  else
    let was := bits old.toNat 5 3
    let now := bits new.toNat 5 3
    let s2 := if now ∈ [3, 4, 5] ∧ was ∉ [3, 4, 5] then { s1 with lopEnded := Tbl.set s1.lopEnded i s1.stamp }.tick else s1
    if was ≠ now ∨ (old.getLsbD 0 = false ∧ new.getLsbD 0 = true) then (s2.raise rLopChanged (2 ^ i)).raise rLopChangedHost (2 ^ i) else s2

/-- PWR writes. -/
def writePwr (s : State) (m lo : Nat) (v mask hw : W64) : State :=
  match lo with
  | 0x20 => s.domainReqAct v
  | 0x38 => if v.getLsbD 0 then s.resetHead 2 m else s
  | 0x40 => (s.plainWrite m 0x20040 v mask hw).smbAlert
  | _ => s.plainWrite m (0x20000 + lo) v mask hw

/-- WDN and WARD writes; the region table takes no write once LOCK is set (R476). -/
def writeWdn (s : State) (m lo : Nat) (v mask hw : W64) : State :=
  match lo with
  | 0x18 => s.kickAct m v
  | 0x28 => s.wdnBellAct v
  | _ => s.plainWrite m (0x40000 + lo) v mask hw

def writeWard (s : State) (m lo : Nat) (v mask hw : W64) : State :=
  if lo = 0x38 then (if m = 0x60 then s.releaseAct v none else s)
  else if (lo = 0 ∨ (0x1000 ≤ lo ∧ lo < 0x1400)) ∧ s.regBit 0x50000 0 = true then s
  else s.plainWrite m (0x50000 + lo) v mask hw

/-- SBK writes (R507–R515, R571). -/
def writeSbk (s : State) (m off width lo : Nat) (v mask hw : W64) : State :=
  let high := decide (off % 8 = 4)
  let raw := if high then v >>> 32 else v
  if 0x40 ≤ lo ∧ lo < 0x60 then s.setReg (0x60000 + lo) ((s.reg (0x60000 + lo) &&& ~~~mask) ||| (v &&& mask))
  else match lo with
    | 0x08 => s.sbkCtrl m v mask
    | 0x80 => s.wrHdrAct m high width raw
    | 0x88 => s.wrDataAct m high width raw
    | 0x90 => s.wrCommitAct m v
    | _ => s.plainWrite m (0x60000 + lo) v mask hw

/-- NCH writes (R120–R126). -/
def writeNch (s : State) (m lo : Nat) (v mask hw : W64) : State :=
  if 0x1000 ≤ lo ∧ lo < 0x2000 then
    s.nchWrite m ((lo - 0x1000) / 0x100) (lo % 0x100) v mask hw
  else if lo = 0x20 then (List.range 16).foldl (fun (t : State) c => if v.getLsbD c then t.nchFree c else t) s
  else s.plainWrite m (0x70000 + lo) v mask hw

/-- TVS writes (R168–R172). -/
def writeTvs (s : State) (m lo : Nat) (v mask hw : W64) : State :=
  if lo = 0 then s.plainWrite m 0x80000 (if m = 0x60 then v else v &&& 0xFFFFFFF0FFFFFFF0) mask hw
  else if 0x1000 ≤ lo ∧ lo < 0x1800 then
    let c := (lo - 0x1000) / 0x40
    if lo % 0x40 = 0x18 then s.tvsCtlAct c v mask
    else if lo % 0x40 < 0x18 then s.tvsParamAct c (0x80000 + lo) v mask
    else if c ∈ s.tvsFrozen then s
    else s.plainWrite m (0x80000 + lo) v mask hw
  else s.plainWrite m (0x80000 + lo) v mask hw

/-- ROPE writes: a lane held down loses its link (R313). -/
def writeRope (s : State) (m lo : Nat) (v mask hw : W64) : State :=
  if lo = 8 then
    let s1 := s.plainWrite m 0xC0008 v mask hw
    (List.range 16).foldl (fun t i => if t.regBit 0xC0008 (16 + i) then t.laneDown i else t) s1
  else s.plainWrite m (0xC0000 + lo) v mask hw

/-- CRN writes (R329). -/
def writeCrn (s : State) (m lo : Nat) (v mask hw : W64) : State :=
  let s1 := s.plainWrite m (0xB0000 + lo) v mask hw
  match lo with
  | 0x20 => if v.getLsbD 0 then s1.yieldHead 7 else s1
  | 0x30 => if v.getLsbD 0 && !s1.regBit 0xB0020 0 && !s1.pair.yielded then { s1 with pwr := { s1.pwr with yieldN := true } } else s1
  | _ => s1

/-- PEP writes (R409, R412, R418, R422). -/
def writePep (s : State) (m lo : Nat) (v mask hw : W64) : State :=
  if 0x100 ≤ lo ∧ lo < 0x300 then
    let w := (lo - 0x100) / 0x40
    match lo % 0x40 with
    | 0x00 => s.shadowAct w (0xD0000 + lo) v mask
    | 0x08 => s.shadowAct w (0xD0000 + lo) v mask
    | 0x20 => s.commitAct w v
    | _ => s.plainWrite m (0xD0000 + lo) v mask hw
  else match lo with
    | 0x18 => s.callqWrite (0xD0000 + lo) v mask
    | 0x20 => s.callqWrite (0xD0000 + lo) v mask
    | 0x48 => s.winReadyAct m v
    | _ => s.plainWrite m (0xD0000 + lo) v mask hw

/-- A write of a maintenance register of the map cache (R194, R197). -/
def maintWrite (s : State) (m lo : Nat) (v mask hw : W64) : State :=
  if s.mapc.maint then (if lo = 0x210 ∧ v.getLsbD 0 = true then s.maintStart else s)
  else
    let s1 := s.plainWrite m (rMapc + lo) v mask hw
    if lo = 0x210 ∧ v.getLsbD 0 = true then s1.maintStart else s1

def writeMapc (s : State) (m lo : Nat) (v mask hw : W64) : State :=
  if 0x200 ≤ lo ∧ lo ≤ 0x210 then s.maintWrite m lo v mask hw else s.plainWrite m (rMapc + lo) v mask hw

/-- MPC writes: a port disabled or held down loses its link (R448). -/
def writeMpc (s : State) (m n lo : Nat) (v mask hw : W64) : State :=
  let s1 := s.plainWrite m (mpcBlk n + lo) v mask hw
  if lo = 0x18 ∧ (s1.mport n).up = true ∧ s1.mpcRuns n = false then s1.losePort n else s1

/-- A write to a register slot that the gate has let through. -/
def ctlWrite (s : State) (m off width : Nat) (v mask hw : W64) : State :=
  let slot := off / 8 * 8
  match ctlBlock slot with
  | none => s
  | some (b, lo) =>
    match b with
    | .clk => if lo = 0x10 then s.timeSetAct v false else s.plainWrite m slot v mask hw
    | .pwr => s.writePwr m lo v mask hw
    | .wdn => s.writeWdn m lo v mask hw
    | .ward => s.writeWard m lo v mask hw
    | .sbk => s.writeSbk m off width lo v mask hw
    | .nch => s.writeNch m lo v mask hw
    | .tvs => s.writeTvs m lo v mask hw
    | .crn => s.writeCrn m lo v mask hw
    | .rope => s.writeRope m lo v mask hw
    | .pep => s.writePep m lo v mask hw
    | .mapc => s.writeMapc m lo v mask hw
    | .lop => if lo < 0x800 then s.lopStore m slot v mask else s.plainWrite m slot v mask hw
    | .drc n => if lo = 0x28 then s.srAct n v else s.plainWrite m slot v mask hw
    | .climb n => if lo = 0x18 then s.wake (1024 * n + bits v.toNat 0 10) else s.plainWrite m slot v mask hw
    | .hif n => if lo = 0 then s.hifConfig n ((s.reg slot &&& ~~~mask) ||| (v &&& mask)) else s.plainWrite m slot v mask hw
    | .mpc n => s.writeMpc m n lo v mask hw
    | _ => s.plainWrite m slot v mask hw

/-- A write to control space: the gate, then the register (R4, R7, R9, R24, R474). -/
def regWrite (s : State) (m off width : Nat) (v hw : W64) : State :=
  s.gated m off width v (fun x k t => t.ctlWrite m off width x k hw)

end State

open State

/-- REGISTER_WRITE (R7). -/
def execRegisterWrite (m off width : Nat) (v : W64) (s : State) : Res := .next (s.regWrite m off width v 0)

/-- W1C_FLAG_CLEAR (R10); `hwSet` are the flags that hardware sets in the same cycle. -/
def execW1cFlagClear (m off width : Nat) (v hwSet : W64) (s : State) : Res := .next (s.regWrite m off width v hwSet)

/-- ABSENT_UNIT_WRITE (R4). -/
def execAbsentUnitWrite (m off width : Nat) (v : W64) (s : State) : Res := .next (s.regWrite m off width v 0)

/-- The completion of an inbound read of a function, with its status and data (R24, R405, R425). -/
def State.answerRead (s : State) (m : Nat) (wr : Bool) (status : Nat) (d : Bytes) : State :=
  if (m = 0x50 ∨ m = 0x51) ∧ wr = false then s.emit (.pcieReply (m - 0x50) status d) else s

/-- A closed function's answer: Completer Abort while it is frozen, Unsupported Request without Memory Space Enable (R424, R425). -/
def State.answerShut (s : State) (m : Nat) (wr : Bool) : State :=
  let fn := m - 0x50
  if !s.pep.linkUp then s
  else if (if fn = 0 then s.pep.frozen0 else s.pep.frozen1) then s.answerRead m wr 4 []
  else s.answerRead m wr 1 []

/-- BAD_ACCESS (R9, R24, R405): an access of a width or alignment that R9 does not list, in control space (`bar` 0) or at a doorbell or
signal slot of BAR 2. -/
def execBadAccess (m bar off width : Nat) (wr : Bool) (s : State) : Res :=
  if bar = 2 ∧ (m = 0x50 ∨ m = 0x51) then
    let fn := m - 0x50
    let lo := if fn = 0 then 0x10000 else 0
    let hi := if fn = 0 then 0x10010 else 0x40
    if !s.fnOpen fn then .next (s.answerShut m wr)
    else if off < lo then .next s
    else if hi ≤ off then .next ((s.barError fn 2 off).answerRead m wr 1 [])
    else if wr && slotWrite off width then .next s
    else .next (s.countBad.answerRead m wr 0 (zeros width))
  else if (m = 0x50 ∨ m = 0x51) ∧ s.fnOpen (m - 0x50) = false then .next (s.answerShut m wr)
  else
    match s.gate m off width wr with
    | .open => .next s
    | .shut t => .next (t.answerRead m wr 0 (zeros width))
    | .error t => .next (t.answerRead m wr 1 [])
    | .viol t => .next (t.answerRead m wr 4 [])

/-- EVCNT_WRITE (R11): with a hardware increment in the same cycle the counter takes the written value plus one. -/
def execEvcntWrite (m off width : Nat) (v : W64) (inc : Bool) (s : State) : Res :=
  let slot := off / 8 * 8
  .next (s.gated m off width v (fun x k t =>
    let t1 := t.ctlWrite m off width x k 0
    if inc && decide (slot % 0x10000 = 0xFFF8) then t1.bump slot 0 32 1 else t1))

/-! ### Notch rows (R120–R126) -/

/-- CLAIM (R120). -/
def execClaim (m c width : Nat) (v : W64) (s : State) : Res :=
  if 16 ≤ c then .next s else .next (s.regWrite m (nchReg c) width v 0)
/-- NCH_RELEASE (R123). -/
def execNchRelease (m c width : Nat) (v : W64) (s : State) : Res :=
  if 16 ≤ c then .next s else .next (s.regWrite m (nchReg c) width v 0)
/-- FORCE_RELEASE (R123). -/
def execForceRelease (m width : Nat) (v : W64) (s : State) : Res := .next (s.regWrite m (rNch + 0x20) width v 0)
/-- NCH_START (R124). -/
def execNchStart (m c width : Nat) (v : W64) (s : State) : Res :=
  if 16 ≤ c then .next s else .next (s.regWrite m (nchReg c + 8) width v 0)
/-- NCH_DATA (R125). -/
def execNchData (m c width : Nat) (v : W64) (s : State) : Res :=
  if 16 ≤ c then .next s else .next (s.regWrite m (nchReg c + 0x20) width v 0)
/-- NCH_LAST (R124). -/
def execNchLast (m c width : Nat) (v : W64) (s : State) : Res :=
  if 16 ≤ c then .next s else .next (s.regWrite m (nchReg c + 0x28) width v 0)
/-- NCH_KEY_WRITE (R119). -/
def execNchKeyWrite (m c k width : Nat) (v : W64) (s : State) : Res :=
  if 16 ≤ c ∨ 8 ≤ k then .next s else .next (s.regWrite m (nchReg c + 0x40 + 8 * k) width v 0)

/-! ### Maintenance of the map cache (R194–R197): a write of MAINT_CTL -/

/-- CLEAN (R194). -/
def execClean (m width : Nat) (v : W64) (s : State) : Res := .next (s.regWrite m (rMapc + 0x210) width v 0)
/-- INVALIDATE (R194). -/
def execInvalidate (m width : Nat) (v : W64) (s : State) : Res := .next (s.regWrite m (rMapc + 0x210) width v 0)
/-- CLEAN_INVALIDATE (R194). -/
def execCleanInvalidate (m width : Nat) (v : W64) (s : State) : Res := .next (s.regWrite m (rMapc + 0x210) width v 0)

end Sys2Proof.Machine
end

