-- ==== Sys2Proof/Machine/EzMem.lean ====
section
/-! DEFINITION. The memory instructions of Ezsol (R76–R80): loads, stores, accesses through a handle and atomics. One step
performs one access for all masters, in program order. -/

namespace Sys2Proof.Machine

/-- What an access of a core comes to before it is performed. -/
inductive CoreAcc where
  /-- DRAM does not answer until the map cache is ready: the core waits -/
  | held
  /-- the instruction ends in a trap or a ward violation, with this state -/
  | ends (s : State)
  /-- control space -/
  | ctl
  /-- a range of memory -/
  | mem (r : Region)
  deriving DecidableEq, Repr

namespace State

/-- Master code of a core (R25). -/
def masterOf : Agent → Nat
  | .dp r c => 4 * r + c
  | .mg m => 0x20 + m

/-- The judgement of a naturally aligned access of `n` bytes: decode (R24), wards (R474), the map cache's wipe (R198). -/
def coreAcc (s : State) (a : Agent) (x n : Nat) (wr : Bool) : CoreAcc :=
  let m := masterOf a
  match s.decodeAddr x n with
  | none => .ends ((s.decodeError m x).trapHere a 0x03 (BitVec.ofNat 64 x))
  | some .ctl => .ctl
  | some r =>
    if s.wardOk (s.profileOf m) (s.agentCid a) r x n wr then (if r = .dram ∧ s.mapc.wiping = true then .held else .mem r)
    else .ends (s.violate m x wr none)

/-- The error that an access can meet: in the cache only for a line it holds, in DRAM only for a line it fetches; a store
reads nothing from DRAM (R533). -/
def faultAt (s : State) (x : Nat) (wr : Bool) (f : MemFault) : MemFault :=
  let held := (s.mainOf (x / 256)).isSome
  match f with
  | .none => .none
  | .dramCorrected | .dramFatal => if held || wr || (s.victimOf (x / 256)).isSome then .none else f
  | _ => if held then f else .none

/-- Does a load get nothing that the spec states: an uncorrectable error, or a dirty line or a tag lost? -/
def dataLost (s : State) (x : Nat) (f : MemFault) : Bool :=
  match f with
  | .none => decide (x / 256 ∈ s.poisoned)
  | .dramFatal | .tagDouble => true
  | .cacheDouble =>
    match s.mainOf (x / 256) with
    | some k => ((Tbl.find s.mapc.main k).map (fun c => c.dirty)).getD false
    | none => false
  | _ => false

/-- The check bits at work on a DRAM access (06, R533); a store over a poisoned line is no read of it. -/
def eccTouch (s : State) (r : Region) (x : Nat) (wr : Bool) (f : MemFault) : State :=
  if r ≠ .dram then s
  else
    let g := s.faultAt x wr f
    if wr && decide (g = .none) then s else s.eccAct x g

/-- A value read from memory; lost data is a free value (log entry 3). -/
def coreRead (s : State) (r : Region) (x n : Nat) (f : MemFault) : W64 × State :=
  let lost := decide (r = .dram) && s.dataLost x (s.faultAt x false f)
  let t := s.eccTouch r x false f
  let (d, u) := t.spaceRead r x n
  if lost then (Config.freeWord u.freeCtr &&& maskLen (8 * n), u.used) else (BitVec.ofNat 64 (leNat d), u)

/-- A load (R76). -/
def ldRun (t : State) (a : Agent) (rd : BitVec 5) (addr : W64) (n : Nat) (f : MemFault) : State :=
  let x := addr.toNat
  if x % n ≠ 0 then t.trapHere a 0x02 addr
  else
    match t.coreAcc a x n false with
    | .held => t
    | .ends u => u
    | .ctl =>
      let off := x - ctlBase
      match t.gate (masterOf a) off n false with
      | .open => (if off / 8 * 8 = 0xA0000 then t.used else t).result a rd (t.ctlValue (masterOf a) off n)
      | .shut u => u.result a rd 0
      | .error u => u.trapHere a 0x03 addr
      | .viol u => u
    | .mem r => (t.coreRead r x n f).2.result a rd (t.coreRead r x n f).1

/-- A store (R76). A register's effect follows the pc's advance, since it may stop or reset the core. -/
def stRun (t : State) (a : Agent) (v : W64) (addr : W64) (n : Nat) (f : MemFault) : State :=
  let x := addr.toNat
  if x % n ≠ 0 then t.trapHere a 0x02 addr
  else
    match t.coreAcc a x n true with
    | .held => t
    | .ends u => u
    | .ctl =>
      let off := x - ctlBase
      match t.gate (masterOf a) off n true with
      | .open => (t.adv a).ctlWrite (masterOf a) off n (slotValue off n v).1 (slotValue off n v).2 0
      | .shut u => u.adv a
      | .error u => u.trapHere a 0x03 addr
      | .viol u => u
    | .mem r => ((t.eccTouch r x true f).spaceWrite r x (leBytes n v.toNat)).adv a

/-- `hm_access` of R77: the checks and the address. -/
def hmAccess (t : State) (a : Agent) (cid : Nat) (h : BitVec 4) (ra : BitVec 5) (size : BitVec 2) (imm : BitVec 10)
    (f : Nat → State → State) : State :=
  let hv := t.getH cid h
  let n := 2 ^ size.toNat
  let off := (t.getG a ra).toNat + imm.toNat
  if !t.liveH (cid / 1024) hv then t.trapHere a 0x06 hv
  else if hLen hv < n ∨ hLen hv - n < off then t.trapHere a 0x05 hv
  else
    let x := t.hAddr (cid / 1024) hv + off
    if x % n ≠ 0 then t.trapHere a 0x02 (BitVec.ofNat 64 x) else f x t

/-- Does an atomic's address lie in DRAM or in the climb's own local memory (R78)? Of a misaligned one, which MISALIGNED answers next, only
the address counts. -/
def atomHome (t : State) (a : Agent) (x : Nat) : Bool :=
  decide (x < 0x020000000000) ||
  (match t.agentCid a with
   | some c => decide (localAddr c ≤ x) && decide (x < localAddr c + 512)
   | none => false)

/-- An atomic (R78): `op` gives the value stored, if any, from the old value. -/
def atomRun (t : State) (a : Agent) (rd : BitVec 5) (addr : W64) (w32 : Bool) (op : W64 → Option W64) : State :=
  let n := if w32 then 4 else 8
  let x := addr.toNat
  if !t.atomHome a x then t.trapHere a 0x0A addr
  else if x % n ≠ 0 then t.trapHere a 0x02 addr
  else
    match t.coreAcc a x n true with
    | .held => t
    | .ends u => u
    | .ctl => t
    | .mem r =>
      let lost := decide (r = .dram) && t.dataLost x .none
      let old := if lost then Config.freeWord t.freeCtr &&& maskLen (8 * n) else BitVec.ofNat 64 (leNat (t.rdBytes x n))
      let t1 := t.eccTouch r x false .none
      let t2 := if lost then t1.used else t1
      let t3 := match op old with
        | some v => t2.spaceWrite r x (leBytes n v.toNat)
        | none => if r = Region.dram then t2.dramTouch x n false else t2
      t3.result a rd old

end State

open State

/-- LD.B (R76). -/
def execLdB (a : Agent) (rd ra : BitVec 5) (imm : BitVec 16) (f : MemFault) (s : State) : Res :=
  .next (s.ez a (fun t => t.ldRun a rd (t.getG a ra + imm.signExtend 64) 1 f))
/-- LD.H (R76). -/
def execLdH (a : Agent) (rd ra : BitVec 5) (imm : BitVec 16) (f : MemFault) (s : State) : Res :=
  .next (s.ez a (fun t => t.ldRun a rd (t.getG a ra + imm.signExtend 64) 2 f))
/-- LD.W (R76). -/
def execLdW (a : Agent) (rd ra : BitVec 5) (imm : BitVec 16) (f : MemFault) (s : State) : Res :=
  .next (s.ez a (fun t => t.ldRun a rd (t.getG a ra + imm.signExtend 64) 4 f))
/-- LD.D (R76). -/
def execLdD (a : Agent) (rd ra : BitVec 5) (imm : BitVec 16) (f : MemFault) (s : State) : Res :=
  .next (s.ez a (fun t => t.ldRun a rd (t.getG a ra + imm.signExtend 64) 8 f))
/-- ST.B (R76). -/
def execStB (a : Agent) (rs ra : BitVec 5) (imm : BitVec 16) (f : MemFault) (s : State) : Res :=
  .next (s.ez a (fun t => t.stRun a (t.getG a rs) (t.getG a ra + imm.signExtend 64) 1 f))
/-- ST.H (R76). -/
def execStH (a : Agent) (rs ra : BitVec 5) (imm : BitVec 16) (f : MemFault) (s : State) : Res :=
  .next (s.ez a (fun t => t.stRun a (t.getG a rs) (t.getG a ra + imm.signExtend 64) 2 f))
/-- ST.W (R76). -/
def execStW (a : Agent) (rs ra : BitVec 5) (imm : BitVec 16) (f : MemFault) (s : State) : Res :=
  .next (s.ez a (fun t => t.stRun a (t.getG a rs) (t.getG a ra + imm.signExtend 64) 4 f))
/-- ST.D (R76). -/
def execStD (a : Agent) (rs ra : BitVec 5) (imm : BitVec 16) (f : MemFault) (s : State) : Res :=
  .next (s.ez a (fun t => t.stRun a (t.getG a rs) (t.getG a ra + imm.signExtend 64) 8 f))

/-- HLD (R77). -/
def execHld (a : Agent) (rd : BitVec 5) (h : BitVec 4) (ra : BitVec 5) (size : BitVec 2) (imm : BitVec 10) (s : State) : Res :=
  .next (s.ezClimb a (.hld a rd h ra size imm) (fun cid t => t.hmAccess a cid h ra size imm
    (fun x u => u.result a rd (BitVec.ofNat 64 (leNat (u.rdBytes x (2 ^ size.toNat)))))))

/-- HST (R77). -/
def execHst (a : Agent) (rs : BitVec 5) (h : BitVec 4) (ra : BitVec 5) (size : BitVec 2) (imm : BitVec 10) (s : State) : Res :=
  .next (s.ezClimb a (.hst a rs h ra size imm) (fun cid t => t.hmAccess a cid h ra size imm
    (fun x u => (u.wrBytes x (leBytes (2 ^ size.toNat) (u.getG a rs).toNat)).adv a)))

/-- The part of a register that an atomic uses. -/
def atomPart (w32 : Bool) (v : W64) : W64 := if w32 then v &&& 0xFFFFFFFF else v

/-- AADD (R78). -/
def execAadd (a : Agent) (rd ra rb : BitVec 5) (w32 : Bool) (s : State) : Res :=
  .next (s.ez a (fun t => t.atomRun a rd (t.getG a ra) w32 (fun old => some (atomPart w32 (old + t.getG a rb)))))
/-- ACAS (R78). -/
def execAcas (a : Agent) (rd ra rb : BitVec 5) (w32 : Bool) (s : State) : Res :=
  .next (s.ez a (fun t => t.atomRun a rd (t.getG a ra) w32 (fun old =>
    if old = atomPart w32 (t.getG a rd) then some (atomPart w32 (t.getG a rb)) else none)))
/-- AXCHG (R78). -/
def execAxchg (a : Agent) (rd ra rb : BitVec 5) (w32 : Bool) (s : State) : Res :=
  .next (s.ez a (fun t => t.atomRun a rd (t.getG a ra) w32 (fun _ => some (atomPart w32 (t.getG a rb)))))

end Sys2Proof.Machine
end

