-- ==== Sys2Proof/Machine/Dispatch.lean ====
section
/-! DEFINITION. Which meaning each command has: one arm per constructor, each one direct call. -/

namespace Sys2Proof.Machine

def exec (i : Instr) (s : State) : Host.Outcome State Fault Refusal :=
  match i with
  | .registerWrite m off width v => Sys2Proof.Machine.execRegisterWrite m off width v s
  | .w1cFlagClear m off width v hwSet => Sys2Proof.Machine.execW1cFlagClear m off width v hwSet s
  | .absentUnitWrite m off width v => Sys2Proof.Machine.execAbsentUnitWrite m off width v s
  | .badAccess m bar off width wr => Sys2Proof.Machine.execBadAccess m bar off width wr s
  | .evcntWrite m off width v inc => Sys2Proof.Machine.execEvcntWrite m off width v inc s
  | .writeCompletionPosted cmd => Sys2Proof.Machine.execWriteCompletionPosted cmd s
  | .landingRetryTimeout cmd => Sys2Proof.Machine.execLandingRetryTimeout cmd s
  | .lopEntryUpdate m k u => Sys2Proof.Machine.execLopEntryUpdate m k u s
  | .capsuleTaken queue => Sys2Proof.Machine.execCapsuleTaken queue s
  | .climbDispatch ridge core => Sys2Proof.Machine.execClimbDispatch ridge core s
  | .quantumExpiry ridge core => Sys2Proof.Machine.execQuantumExpiry ridge core s
  | .climbFill ridge core => Sys2Proof.Machine.execClimbFill ridge core s
  | .climbSpill ridge core => Sys2Proof.Machine.execClimbSpill ridge core s
  | .watchdog ridge core => Sys2Proof.Machine.execWatchdog ridge core s
  | .climbFreed cid => Sys2Proof.Machine.execClimbFreed cid s
  | .hallocMet ridge => Sys2Proof.Machine.execHallocMet ridge s
  | .granuleWipeDone ridge granule => Sys2Proof.Machine.execGranuleWipeDone ridge granule s
  | .parkDeadline cid => Sys2Proof.Machine.execParkDeadline cid s
  | .climbWake m ridge v => Sys2Proof.Machine.execClimbWake m ridge v s
  | .routeCallDispatch internal => Sys2Proof.Machine.execRouteCallDispatch internal s
  | .heldCallStart ridge => Sys2Proof.Machine.execHeldCallStart ridge s
  | .handoverCallCheck => Sys2Proof.Machine.execHandoverCallCheck s
  | .paramBlockRead call ok => Sys2Proof.Machine.execParamBlockRead call ok s
  | .mgmtInterrupt core => Sys2Proof.Machine.execMgmtInterrupt core s
  | .illegalInstruction a word => Sys2Proof.Machine.execIllegalInstruction a word s
  | .add a rd ra rb => Sys2Proof.Machine.execAdd a rd ra rb s
  | .sub a rd ra rb => Sys2Proof.Machine.execSub a rd ra rb s
  | .and a rd ra rb => Sys2Proof.Machine.execAnd a rd ra rb s
  | .or a rd ra rb => Sys2Proof.Machine.execOr a rd ra rb s
  | .xor a rd ra rb => Sys2Proof.Machine.execXor a rd ra rb s
  | .shl a rd ra rb => Sys2Proof.Machine.execShl a rd ra rb s
  | .shr a rd ra rb => Sys2Proof.Machine.execShr a rd ra rb s
  | .sar a rd ra rb => Sys2Proof.Machine.execSar a rd ra rb s
  | .mul a rd ra rb => Sys2Proof.Machine.execMul a rd ra rb s
  | .mulh a rd ra rb => Sys2Proof.Machine.execMulh a rd ra rb s
  | .divu a rd ra rb => Sys2Proof.Machine.execDivu a rd ra rb s
  | .min a rd ra rb => Sys2Proof.Machine.execMin a rd ra rb s
  | .max a rd ra rb => Sys2Proof.Machine.execMax a rd ra rb s
  | .clz a rd ra => Sys2Proof.Machine.execClz a rd ra s
  | .popc a rd ra => Sys2Proof.Machine.execPopc a rd ra s
  | .addImm a rd ra imm => Sys2Proof.Machine.execAddImm a rd ra imm s
  | .andImm a rd ra imm => Sys2Proof.Machine.execAndImm a rd ra imm s
  | .orImm a rd ra imm => Sys2Proof.Machine.execOrImm a rd ra imm s
  | .xorImm a rd ra imm => Sys2Proof.Machine.execXorImm a rd ra imm s
  | .shlImm a rd ra n => Sys2Proof.Machine.execShlImm a rd ra n s
  | .shrImm a rd ra n => Sys2Proof.Machine.execShrImm a rd ra n s
  | .sarImm a rd ra n => Sys2Proof.Machine.execSarImm a rd ra n s
  | .cmpeq a rd ra rb => Sys2Proof.Machine.execCmpeq a rd ra rb s
  | .cmpne a rd ra rb => Sys2Proof.Machine.execCmpne a rd ra rb s
  | .cmplt a rd ra rb => Sys2Proof.Machine.execCmplt a rd ra rb s
  | .cmpge a rd ra rb => Sys2Proof.Machine.execCmpge a rd ra rb s
  | .cmpltu a rd ra rb => Sys2Proof.Machine.execCmpltu a rd ra rb s
  | .cmpgeu a rd ra rb => Sys2Proof.Machine.execCmpgeu a rd ra rb s
  | .cmpeqImm a rd ra imm => Sys2Proof.Machine.execCmpeqImm a rd ra imm s
  | .cmpneImm a rd ra imm => Sys2Proof.Machine.execCmpneImm a rd ra imm s
  | .cmpltImm a rd ra imm => Sys2Proof.Machine.execCmpltImm a rd ra imm s
  | .cmpgeImm a rd ra imm => Sys2Proof.Machine.execCmpgeImm a rd ra imm s
  | .cmpltuImm a rd ra imm => Sys2Proof.Machine.execCmpltuImm a rd ra imm s
  | .cmpgeuImm a rd ra imm => Sys2Proof.Machine.execCmpgeuImm a rd ra imm s
  | .sel a rd rc ra rb => Sys2Proof.Machine.execSel a rd rc ra rb s
  | .li a rd imm => Sys2Proof.Machine.execLi a rd imm s
  | .lui a rd k imm => Sys2Proof.Machine.execLui a rd k imm s
  | .bfx a rd ra pos lenm1 => Sys2Proof.Machine.execBfx a rd ra pos lenm1 s
  | .bfi a rd ra pos lenm1 => Sys2Proof.Machine.execBfi a rd ra pos lenm1 s
  | .ldB a rd ra imm f => Sys2Proof.Machine.execLdB a rd ra imm f s
  | .ldH a rd ra imm f => Sys2Proof.Machine.execLdH a rd ra imm f s
  | .ldW a rd ra imm f => Sys2Proof.Machine.execLdW a rd ra imm f s
  | .ldD a rd ra imm f => Sys2Proof.Machine.execLdD a rd ra imm f s
  | .stB a rs ra imm f => Sys2Proof.Machine.execStB a rs ra imm f s
  | .stH a rs ra imm f => Sys2Proof.Machine.execStH a rs ra imm f s
  | .stW a rs ra imm f => Sys2Proof.Machine.execStW a rs ra imm f s
  | .stD a rs ra imm f => Sys2Proof.Machine.execStD a rs ra imm f s
  | .hld a rd h ra size imm => Sys2Proof.Machine.execHld a rd h ra size imm s
  | .hst a rs h ra size imm => Sys2Proof.Machine.execHst a rs h ra size imm s
  | .aadd a rd ra rb w32 => Sys2Proof.Machine.execAadd a rd ra rb w32 s
  | .acas a rd ra rb w32 => Sys2Proof.Machine.execAcas a rd ra rb w32 s
  | .axchg a rd ra rb w32 => Sys2Proof.Machine.execAxchg a rd ra rb w32 s
  | .beq a ra rb off => Sys2Proof.Machine.execBeq a ra rb off s
  | .bne a ra rb off => Sys2Proof.Machine.execBne a ra rb off s
  | .blt a ra rb off => Sys2Proof.Machine.execBlt a ra rb off s
  | .bge a ra rb off => Sys2Proof.Machine.execBge a ra rb off s
  | .bltu a ra rb off => Sys2Proof.Machine.execBltu a ra rb off s
  | .bgeu a ra rb off => Sys2Proof.Machine.execBgeu a ra rb off s
  | .jal a rd imm => Sys2Proof.Machine.execJal a rd imm s
  | .jalr a rd ra imm => Sys2Proof.Machine.execJalr a rd ra imm s
  | .halloc a hd ga => Sys2Proof.Machine.execHalloc a hd ga s
  | .hfree a hs => Sys2Proof.Machine.execHfree a hs s
  | .hslice a hd hs ga gb => Sys2Proof.Machine.execHslice a hd hs ga gb s
  | .hsplit a hd hs ga => Sys2Proof.Machine.execHsplit a hd hs ga s
  | .hcopy a hd hs ga => Sys2Proof.Machine.execHcopy a hd hs ga s
  | .send a cls h t gd flags => Sys2Proof.Machine.execSend a cls h t gd flags s
  | .sendQueueAccept ridge cls port => Sys2Proof.Machine.execSendQueueAccept ridge cls port s
  | .wait a rd t => Sys2Proof.Machine.execWait a rd t s
  | .waitany a rd mask => Sys2Proof.Machine.execWaitany a rd mask s
  | .poll a rd t => Sys2Proof.Machine.execPoll a rd t s
  | .spawn a t r1 r2 => Sys2Proof.Machine.execSpawn a t r1 r2 s
  | .park a r1 r2 => Sys2Proof.Machine.execPark a r1 r2 s
  | .yield a => Sys2Proof.Machine.execYield a s
  | .exit a r1 => Sys2Proof.Machine.execExit a r1 s
  | .fence a => Sys2Proof.Machine.execFence a s
  | .csrr a rd csr => Sys2Proof.Machine.execCsrr a rd csr s
  | .csrw a rd ra csr => Sys2Proof.Machine.execCsrw a rd ra csr s
  | .csrset a rd ra csr => Sys2Proof.Machine.execCsrset a rd ra csr s
  | .csrclr a rd ra csr => Sys2Proof.Machine.execCsrclr a rd ra csr s
  | .time a rd => Sys2Proof.Machine.execTime a rd s
  | .trap a imm => Sys2Proof.Machine.execTrap a imm s
  | .eret a => Sys2Proof.Machine.execEret a s
  | .sleep a => Sys2Proof.Machine.execSleep a s
  | .iinv a => Sys2Proof.Machine.execIinv a s
  | .iofence a => Sys2Proof.Machine.execIofence a s
  | .chkContentDefined job => Sys2Proof.Machine.execChkContentDefined job s
  | .chkFixed job => Sys2Proof.Machine.execChkFixed job s
  | .digDigest job => Sys2Proof.Machine.execDigDigest job s
  | .digChunks job => Sys2Proof.Machine.execDigChunks job s
  | .digBegin job => Sys2Proof.Machine.execDigBegin job s
  | .digUpdate job => Sys2Proof.Machine.execDigUpdate job s
  | .digFinal job => Sys2Proof.Machine.execDigFinal job s
  | .coderEncodeByte job => Sys2Proof.Machine.execCoderEncodeByte job s
  | .coderEncodeRaster job => Sys2Proof.Machine.execCoderEncodeRaster job s
  | .coderDecode job => Sys2Proof.Machine.execCoderDecode job s
  | .coderResume job => Sys2Proof.Machine.execCoderResume job s
  | .xtsEncrypt job => Sys2Proof.Machine.execXtsEncrypt job s
  | .xtsDecrypt job => Sys2Proof.Machine.execXtsDecrypt job s
  | .parGeneratePq job => Sys2Proof.Machine.execParGeneratePq job s
  | .parGenerateP job => Sys2Proof.Machine.execParGenerateP job s
  | .parRecover job => Sys2Proof.Machine.execParRecover job s
  | .parCheck job => Sys2Proof.Machine.execParCheck job s
  | .idxProbe job runsOk => Sys2Proof.Machine.execIdxProbe job runsOk s
  | .idxInsert job => Sys2Proof.Machine.execIdxInsert job s
  | .idxRemove job => Sys2Proof.Machine.execIdxRemove job s
  | .hifReceive job => Sys2Proof.Machine.execHifReceive job s
  | .hifTransmit job => Sys2Proof.Machine.execHifTransmit job s
  | .hifComplete job => Sys2Proof.Machine.execHifComplete job s
  | .eraseSlab lib n o => Sys2Proof.Machine.execEraseSlab lib n o s
  | .programSlabRow lib n o => Sys2Proof.Machine.execProgramSlabRow lib n o s
  | .readPage job o => Sys2Proof.Machine.execReadPage job o s
  | .journalAppend lib n o => Sys2Proof.Machine.execJournalAppend lib n o s
  | .readTags job o => Sys2Proof.Machine.execReadTags job o s
  | .setReadOffsets job o => Sys2Proof.Machine.execSetReadOffsets job o s
  | .readHealth job page o => Sys2Proof.Machine.execReadHealth job page o s
  | .ropeJournalRecords job => Sys2Proof.Machine.execRopeJournalRecords job s
  | .ropeShadowState job => Sys2Proof.Machine.execRopeShadowState job s
  | .sbkRecord job => Sys2Proof.Machine.execSbkRecord job s
  | .claim m c width v => Sys2Proof.Machine.execClaim m c width v s
  | .nchRelease m c width v => Sys2Proof.Machine.execNchRelease m c width v s
  | .forceRelease m width v => Sys2Proof.Machine.execForceRelease m width v s
  | .nchStart m c width v => Sys2Proof.Machine.execNchStart m c width v s
  | .nchData m c width v => Sys2Proof.Machine.execNchData m c width v s
  | .nchLast m c width v => Sys2Proof.Machine.execNchLast m c width v s
  | .nchKeyWrite m c k width v => Sys2Proof.Machine.execNchKeyWrite m c k width v s
  | .nchBlockDone c => Sys2Proof.Machine.execNchBlockDone c s
  | .nchDigestDone c => Sys2Proof.Machine.execNchDigestDone c s
  | .summaryGrow pool base => Sys2Proof.Machine.execSummaryGrow pool base s
  | .tvsCopy ch lines => Sys2Proof.Machine.execTvsCopy ch lines s
  | .tvsDeinterleave ch lines => Sys2Proof.Machine.execTvsDeinterleave ch lines s
  | .tvsInterleave ch lines => Sys2Proof.Machine.execTvsInterleave ch lines s
  | .tvsPlaneSplit ch lines => Sys2Proof.Machine.execTvsPlaneSplit ch lines s
  | .tvsPlaneMerge ch lines => Sys2Proof.Machine.execTvsPlaneMerge ch lines s
  | .tvsAbort m ch width v => Sys2Proof.Machine.execTvsAbort m ch width v s
  | .tvsReadback ch => Sys2Proof.Machine.execTvsReadback ch s
  | .pageLoad pool mpn marks => Sys2Proof.Machine.execPageLoad pool mpn marks s
  | .heatDecay pool => Sys2Proof.Machine.execHeatDecay pool s
  | .merge pool line group marks => Sys2Proof.Machine.execMerge pool line group marks s
  | .clean m width v => Sys2Proof.Machine.execClean m width v s
  | .invalidate m width v => Sys2Proof.Machine.execInvalidate m width v s
  | .cleanInvalidate m width v => Sys2Proof.Machine.execCleanInvalidate m width v s
  | .maintDone => Sys2Proof.Machine.execMaintDone s
  | .mapcWipeDone => Sys2Proof.Machine.execMapcWipeDone s
  | .xtsKeyLoad pool => Sys2Proof.Machine.execXtsKeyLoad pool s
  | .xtsKeyUnload pool => Sys2Proof.Machine.execXtsKeyUnload pool s
  | .poolCreate call granted sum => Sys2Proof.Machine.execPoolCreate call granted sum s
  | .poolDelete call => Sys2Proof.Machine.execPoolDelete call s
  | .poolSet call => Sys2Proof.Machine.execPoolSet call s
  | .nsCreate call => Sys2Proof.Machine.execNsCreate call s
  | .nsDelete call => Sys2Proof.Machine.execNsDelete call s
  | .nsList call => Sys2Proof.Machine.execNsList call s
  | .bivouacTarget pool => Sys2Proof.Machine.execBivouacTarget pool s
  | .destage pool marks => Sys2Proof.Machine.execDestage pool marks s
  | .stripeRowComplete pool seg => Sys2Proof.Machine.execStripeRowComplete pool seg s
  | .segmentCloseShort pool seg => Sys2Proof.Machine.execSegmentCloseShort pool seg s
  | .journalFlush pool => Sys2Proof.Machine.execJournalFlush pool s
  | .cancel cmd => Sys2Proof.Machine.execCancel cmd s
  | .checkpoint pool => Sys2Proof.Machine.execCheckpoint pool s
  | .anchorDurable pool => Sys2Proof.Machine.execAnchorDurable pool s
  | .collection pool marks => Sys2Proof.Machine.execCollection pool marks s
  | .releaseErase pool segment n => Sys2Proof.Machine.execReleaseErase pool segment n s
  | .recovery pool => Sys2Proof.Machine.execRecovery pool s
  | .erasedReference pool handle marks => Sys2Proof.Machine.execErasedReference pool handle marks s
  | .erasedReferenceTimeout cmd => Sys2Proof.Machine.execErasedReferenceTimeout cmd s
  | .rewrite pool marks => Sys2Proof.Machine.execRewrite pool marks s
  | .moduleHealthPoll pool pages => Sys2Proof.Machine.execModuleHealthPoll pool pages s
  | .patrolPass pool marks replica => Sys2Proof.Machine.execPatrolPass pool marks replica s
  | .patrolRate pool => Sys2Proof.Machine.execPatrolRate pool s
  | .fillStateEval pool => Sys2Proof.Machine.execFillStateEval pool s
  | .budgetRefill pool => Sys2Proof.Machine.execBudgetRefill pool s
  | .patrolSet call => Sys2Proof.Machine.execPatrolSet call s
  | .fixitySummary call => Sys2Proof.Machine.execFixitySummary call s
  | .fixityFailures call => Sys2Proof.Machine.execFixityFailures call s
  | .mediaStatus call => Sys2Proof.Machine.execMediaStatus call s
  | .regionBitDurable pool seg => Sys2Proof.Machine.execRegionBitDurable pool seg s
  | .moduleFailed pool m => Sys2Proof.Machine.execModuleFailed pool m s
  | .rebuild pool marks => Sys2Proof.Machine.execRebuild pool marks s
  | .rebuildRateWindow pool bytes => Sys2Proof.Machine.execRebuildRateWindow pool bytes s
  | .lostChunk pool seg row member => Sys2Proof.Machine.execLostChunk pool seg row member s
  | .replicaRepair pool handle => Sys2Proof.Machine.execReplicaRepair pool handle s
  | .reshape pool marks => Sys2Proof.Machine.execReshape pool marks s
  | .reshapeEnd pool => Sys2Proof.Machine.execReshapeEnd pool s
  | .reshapeStart call => Sys2Proof.Machine.execReshapeStart call s
  | .reshapeAbort call => Sys2Proof.Machine.execReshapeAbort call s
  | .moduleFail call => Sys2Proof.Machine.execModuleFail call s
  | .redundancyStatus call => Sys2Proof.Machine.execRedundancyStatus call s
  | .lostList call => Sys2Proof.Machine.execLostList call s
  | .heartbeat frame => Sys2Proof.Machine.execHeartbeat frame s
  | .heartbeatSend => Sys2Proof.Machine.execHeartbeatSend s
  | .missedHeartbeat => Sys2Proof.Machine.execMissedHeartbeat s
  | .leaseExpiry => Sys2Proof.Machine.execLeaseExpiry s
  | .ropeRetransmit => Sys2Proof.Machine.execRopeRetransmit s
  | .laneDown lane => Sys2Proof.Machine.execLaneDown lane s
  | .laneUp lane => Sys2Proof.Machine.execLaneUp lane s
  | .ropeUndegrade => Sys2Proof.Machine.execRopeUndegrade s
  | .sessionRekey => Sys2Proof.Machine.execSessionRekey s
  | .ropeLinkHandshake nonce check peerId => Sys2Proof.Machine.execRopeLinkHandshake nonce check peerId s
  | .timeReq frame => Sys2Proof.Machine.execTimeReq frame s
  | .timeReqSend => Sys2Proof.Machine.execTimeReqSend s
  | .timeResp frame => Sys2Proof.Machine.execTimeResp frame s
  | .timeUnsync => Sys2Proof.Machine.execTimeUnsync s
  | .journal frame => Sys2Proof.Machine.execJournal frame s
  | .journalAck frame => Sys2Proof.Machine.execJournalAck frame s
  | .shadow frame => Sys2Proof.Machine.execShadow frame s
  | .forward frame cap => Sys2Proof.Machine.execForward frame cap s
  | .forwardDone frame => Sys2Proof.Machine.execForwardDone frame s
  | .join frame => Sys2Proof.Machine.execJoin frame s
  | .caughtUp frame => Sys2Proof.Machine.execCaughtUp frame s
  | .ropeRelease frame => Sys2Proof.Machine.execRopeRelease frame s
  | .taken frame => Sys2Proof.Machine.execTaken frame s
  | .rekey frame => Sys2Proof.Machine.execRekey frame s
  | .ropeYield frame => Sys2Proof.Machine.execRopeYield frame s
  | .cairnHealth msg => Sys2Proof.Machine.execCairnHealth msg s
  | .cairnHealthSend => Sys2Proof.Machine.execCairnHealthSend s
  | .voteGrant msg => Sys2Proof.Machine.execVoteGrant msg s
  | .voteRetry => Sys2Proof.Machine.execVoteRetry s
  | .yieldSequencer cause => Sys2Proof.Machine.execYieldSequencer cause s
  | .peerYieldIn => Sys2Proof.Machine.execPeerYieldIn s
  | .peerSuspect => Sys2Proof.Machine.execPeerSuspect s
  | .fenceDone done => Sys2Proof.Machine.execFenceDone done s
  | .fencingBound done => Sys2Proof.Machine.execFencingBound done s
  | .tagCheck pool seq => Sys2Proof.Machine.execTagCheck pool seq s
  | .dualSend pool => Sys2Proof.Machine.execDualSend pool s
  | .relayRead pool => Sys2Proof.Machine.execRelayRead pool s
  | .forwardDegradeTimeout => Sys2Proof.Machine.execForwardDegradeTimeout s
  | .startupClaim => Sys2Proof.Machine.execStartupClaim s
  | .poolMove call denied => Sys2Proof.Machine.execPoolMove call denied s
  | .pairStatus call => Sys2Proof.Machine.execPairStatus call s
  | .yieldHead call => Sys2Proof.Machine.execYieldHead call s
  | .crnYield core v => Sys2Proof.Machine.execCrnYield core v s
  | .snapCreate call => Sys2Proof.Machine.execSnapCreate call s
  | .epochSweep pool => Sys2Proof.Machine.execEpochSweep pool s
  | .snapDelete call => Sys2Proof.Machine.execSnapDelete call s
  | .snapDropWalk pool => Sys2Proof.Machine.execSnapDropWalk pool s
  | .snapExpose call => Sys2Proof.Machine.execSnapExpose call s
  | .snapHide call => Sys2Proof.Machine.execSnapHide call s
  | .snapList call => Sys2Proof.Machine.execSnapList call s
  | .replCreate call => Sys2Proof.Machine.execReplCreate call s
  | .replAccept call => Sys2Proof.Machine.execReplAccept call s
  | .replDelete call => Sys2Proof.Machine.execReplDelete call s
  | .replStatus call => Sys2Proof.Machine.execReplStatus call s
  | .poolStatus call => Sys2Proof.Machine.execPoolStatus call s
  | .replRound pool pair => Sys2Proof.Machine.execReplRound pool pair s
  | .replReconnect pool pair => Sys2Proof.Machine.execReplReconnect pool pair s
  | .hello msg => Sys2Proof.Machine.execHello msg s
  | .helloAck pool pair msg => Sys2Proof.Machine.execHelloAck pool pair msg s
  | .manifest pool pair msg => Sys2Proof.Machine.execManifest pool pair msg s
  | .want pool pair msg marks => Sys2Proof.Machine.execWant pool pair msg marks s
  | .replChunks pool pair msg => Sys2Proof.Machine.execReplChunks pool pair msg s
  | .applied pool pair msg => Sys2Proof.Machine.execApplied pool pair msg s
  | .roundEnd pool pair msg => Sys2Proof.Machine.execRoundEnd pool pair msg s
  | .roundDone pool pair msg => Sys2Proof.Machine.execRoundDone pool pair msg s
  | .fetch pool pair msg marks => Sys2Proof.Machine.execFetch pool pair msg marks s
  | .fetchReply pool pair msg => Sys2Proof.Machine.execFetchReply pool pair msg s
  | .fetchTimeout pool pair tag => Sys2Proof.Machine.execFetchTimeout pool pair tag s
  | .replError pool pair msg => Sys2Proof.Machine.execReplError pool pair msg s
  | .capsuleArrival queue cap => Sys2Proof.Machine.execCapsuleArrival queue cap s
  | .rangeLockGrant cmd => Sys2Proof.Machine.execRangeLockGrant cmd s
  | .read cmd marks => Sys2Proof.Machine.execRead cmd marks s
  | .write cmd marks => Sys2Proof.Machine.execWrite cmd marks s
  | .flush cmd => Sys2Proof.Machine.execFlush cmd s
  | .writeZeroes cmd => Sys2Proof.Machine.execWriteZeroes cmd s
  | .datasetManagement cmd => Sys2Proof.Machine.execDatasetManagement cmd s
  | .verify cmd marks => Sys2Proof.Machine.execVerify cmd marks s
  | .copy cmd marks => Sys2Proof.Machine.execCopy cmd marks s
  | .store cmd marks => Sys2Proof.Machine.execStore cmd marks s
  | .retrieve cmd marks => Sys2Proof.Machine.execRetrieve cmd marks s
  | .delete cmd => Sys2Proof.Machine.execDelete cmd s
  | .exist cmd => Sys2Proof.Machine.execExist cmd s
  | .list cmd => Sys2Proof.Machine.execList cmd s
  | .connect port sub cntlid qid depth hostnqn subnqn rdma hdgst ddgst grant kato => Sys2Proof.Machine.execConnect port sub cntlid qid depth hostnqn subnqn rdma hdgst ddgst grant kato s
  | .abort cmd => Sys2Proof.Machine.execAbort cmd s
  | .authentication queue ok => Sys2Proof.Machine.execAuthentication queue ok s
  | .h2cdata queue pdu => Sys2Proof.Machine.execH2cdata queue pdu s
  | .macsecFrame port sub sci an pn secured icvOk => Sys2Proof.Machine.execMacsecFrame port sub sci an pn secured icvOk s
  | .mkaSakInstall port sub tx sci an key server => Sys2Proof.Machine.execMkaSakInstall port sub tx sci an key server s
  | .keepAliveExpiry cntlid => Sys2Proof.Machine.execKeepAliveExpiry cntlid s
  | .connectionLost queue => Sys2Proof.Machine.execConnectionLost queue s
  | .termReq queue => Sys2Proof.Machine.execTermReq queue s
  | .subportLinkDown port sub => Sys2Proof.Machine.execSubportLinkDown port sub s
  | .cqtExpiry queue => Sys2Proof.Machine.execCqtExpiry queue s
  | .hifConfigWrite core port v => Sys2Proof.Machine.execHifConfigWrite core port v s
  | .portConfig call => Sys2Proof.Machine.execPortConfig call s
  | .macsecCak call => Sys2Proof.Machine.execMacsecCak call s
  | .hostSet call => Sys2Proof.Machine.execHostSet call s
  | .subsystemSet call => Sys2Proof.Machine.execSubsystemSet call s
  | .portStatus call => Sys2Proof.Machine.execPortStatus call s
  | .callTail fn off width v entries => Sys2Proof.Machine.execCallTail fn off width v entries s
  | .cplHead fn off width v => Sys2Proof.Machine.execCplHead fn off width v s
  | .callqEnable m width v => Sys2Proof.Machine.execCallqEnable m width v s
  | .callqDisable m width v => Sys2Proof.Machine.execCallqDisable m width v s
  | .pcieCompletion call p => Sys2Proof.Machine.execPcieCompletion call p s
  | .completionTimeout call => Sys2Proof.Machine.execCompletionTimeout call s
  | .msixUnmask fn enable fmask vmask => Sys2Proof.Machine.execMsixUnmask fn enable fmask vmask s
  | .busMasterEnable fn on mem => Sys2Proof.Machine.execBusMasterEnable fn on mem s
  | .writebackDiscard call => Sys2Proof.Machine.execWritebackDiscard call s
  | .functionLevelReset fn => Sys2Proof.Machine.execFunctionLevelReset fn s
  | .pcieLinkDown => Sys2Proof.Machine.execPcieLinkDown s
  | .peerWindowAccess off len data => Sys2Proof.Machine.execPeerWindowAccess off len data s
  | .commit m w width v => Sys2Proof.Machine.execCommit m w width v s
  | .commitComplete w => Sys2Proof.Machine.execCommitComplete w s
  | .winShadowWrite m w reg width v => Sys2Proof.Machine.execWinShadowWrite m w reg width v s
  | .signal off width v => Sys2Proof.Machine.execSignal off width v s
  | .winReady m width v => Sys2Proof.Machine.execWinReady m width v s
  | .peerBind call => Sys2Proof.Machine.execPeerBind call s
  | .peerUnbind call => Sys2Proof.Machine.execPeerUnbind call s
  | .moduleLost port target cfs => Sys2Proof.Machine.execModuleLost port target cfs s
  | .moduleLinkUp port speed width flit expander ready => Sys2Proof.Machine.execModuleLinkUp port speed width flit expander ready s
  | .moduleArrival port target nested ident slabs foreign => Sys2Proof.Machine.execModuleArrival port target nested ident slabs foreign s
  | .cmdTimeout lib n => Sys2Proof.Machine.execCmdTimeout lib n s
  | .strayAccess port => Sys2Proof.Machine.execStrayAccess port s
  | .moduleAdd call => Sys2Proof.Machine.execModuleAdd call s
  | .moduleDetach call => Sys2Proof.Machine.execModuleDetach call s
  | .moduleList call => Sys2Proof.Machine.execModuleList call s
  | .trngHealthFail first => Sys2Proof.Machine.execTrngHealthFail first s
  | .drbgReseed => Sys2Proof.Machine.execDrbgReseed s
  | .boot headSel norErr loadErr => Sys2Proof.Machine.execBoot headSel norErr loadErr s
  | .routeLoad base loadErr => Sys2Proof.Machine.execRouteLoad base loadErr s
  | .wardRelease m width v => Sys2Proof.Machine.execWardRelease m width v s
  | .coreReleaseTimer ridge core => Sys2Proof.Machine.execCoreReleaseTimer ridge core s
  | .kick m width v => Sys2Proof.Machine.execKick m width v s
  | .watchdogExpiry core => Sys2Proof.Machine.execWatchdogExpiry core s
  | .wdnDoorbell m width v => Sys2Proof.Machine.execWdnDoorbell m width v s
  | .extestSelect => Sys2Proof.Machine.execExtestSelect s
  | .attest call => Sys2Proof.Machine.execAttest call s
  | .identityCerts call => Sys2Proof.Machine.execIdentityCerts call s
  | .lifecycle call => Sys2Proof.Machine.execLifecycle call s
  | .keyRevoke call => Sys2Proof.Machine.execKeyRevoke call s
  | .svnCommit call => Sys2Proof.Machine.execSvnCommit call s
  | .pairKeys call => Sys2Proof.Machine.execPairKeys call s
  | .lifecycleToken call => Sys2Proof.Machine.execLifecycleToken call s
  | .htOpen addr udp dg => Sys2Proof.Machine.execHtOpen addr udp dg s
  | .htData addr udp dg lag => Sys2Proof.Machine.execHtData addr udp dg lag s
  | .htClose addr udp dg => Sys2Proof.Machine.execHtClose addr udp dg s
  | .htAbort addr udp dg => Sys2Proof.Machine.execHtAbort addr udp dg s
  | .htAckTimer => Sys2Proof.Machine.execHtAckTimer s
  | .htIdle => Sys2Proof.Machine.execHtIdle s
  | .armExpiry => Sys2Proof.Machine.execArmExpiry s
  | .consoleRequest uart addr udp req => Sys2Proof.Machine.execConsoleRequest uart addr udp req s
  | .updateArm call => Sys2Proof.Machine.execUpdateArm call s
  | .hingeOver call denied => Sys2Proof.Machine.execHingeOver call denied s
  | .updateStatus call => Sys2Proof.Machine.execUpdateStatus call s
  | .wrHdr m off width v => Sys2Proof.Machine.execWrHdr m off width v s
  | .wrData m off width v => Sys2Proof.Machine.execWrData m off width v s
  | .wrCommit m width v => Sys2Proof.Machine.execWrCommit m width v s
  | .sbkStore => Sys2Proof.Machine.execSbkStore s
  | .freeze m width v => Sys2Proof.Machine.execFreeze m width v s
  | .thaw m width v => Sys2Proof.Machine.execThaw m width v s
  | .thawTimer => Sys2Proof.Machine.execThawTimer s
  | .nonceReq m width v => Sys2Proof.Machine.execNonceReq m width v s
  | .nonceExpiry => Sys2Proof.Machine.execNonceExpiry s
  | .clear m width v => Sys2Proof.Machine.execClear m width v s
  | .clearCompare => Sys2Proof.Machine.execClearCompare s
  | .harvest => Sys2Proof.Machine.execHarvest s
  | .bookToken call => Sys2Proof.Machine.execBookToken call s
  | .bookRead call => Sys2Proof.Machine.execBookRead call s
  | .refLost => Sys2Proof.Machine.execRefLost s
  | .refBack => Sys2Proof.Machine.execRefBack s
  | .timeSet m width v tick => Sys2Proof.Machine.execTimeSet m width v tick s
  | .timerCompare core => Sys2Proof.Machine.execTimerCompare core s
  | .standbyRailUp headSel => Sys2Proof.Machine.execStandbyRailUp headSel s
  | .pwrGoodRise => Sys2Proof.Machine.execPwrGoodRise s
  | .domainPowerUp => Sys2Proof.Machine.execDomainPowerUp s
  | .domainFault => Sys2Proof.Machine.execDomainFault s
  | .pwrGoodFall => Sys2Proof.Machine.execPwrGoodFall s
  | .domainReq m width v => Sys2Proof.Machine.execDomainReq m width v s
  | .dramTraining ch dimm => Sys2Proof.Machine.execDramTraining ch dimm s
  | .dramFillDone ch => Sys2Proof.Machine.execDramFillDone ch s
  | .scrub ch addr e => Sys2Proof.Machine.execScrub ch addr e s
  | .ueScrubHandle ch page => Sys2Proof.Machine.execUeScrubHandle ch page s
  | .srEnter m ch width v => Sys2Proof.Machine.execSrEnter m ch width v s
  | .srExit m ch width v => Sys2Proof.Machine.execSrExit m ch width v s
  | .serviceEnter call => Sys2Proof.Machine.execServiceEnter call s
  | .serviceLeave call => Sys2Proof.Machine.execServiceLeave call s
  | .standbyEnter call => Sys2Proof.Machine.execStandbyEnter call s
  | .standbyLeave call => Sys2Proof.Machine.execStandbyLeave call s
  | .deviceWipe call m result => Sys2Proof.Machine.execDeviceWipe call m result s
  | .powerStatus call => Sys2Proof.Machine.execPowerStatus call s
  | .pwrReset m width v => Sys2Proof.Machine.execPwrReset m width v s
  | .resetN => Sys2Proof.Machine.execResetN s
  | .quarantineAuto => Sys2Proof.Machine.execQuarantineAuto s
  | .autoCountReset => Sys2Proof.Machine.execAutoCountReset s
  | .supplyWarn => Sys2Proof.Machine.execSupplyWarn s
  | .supplyFault => Sys2Proof.Machine.execSupplyFault s
  | .thermalWarn tj => Sys2Proof.Machine.execThermalWarn tj s
  | .thermalShutdown tj => Sys2Proof.Machine.execThermalShutdown tj s
  | .standbyRailLost => Sys2Proof.Machine.execStandbyRailLost s
  | .smbusBlockRead addr code => Sys2Proof.Machine.execSmbusBlockRead addr code s
  | .timeTick => Sys2Proof.Machine.execTimeTick s
  | .pcieLinkUp speed width => Sys2Proof.Machine.execPcieLinkUp speed width s
  | .resetNRelease => Sys2Proof.Machine.execResetNRelease s
  | .subportLinkUp port sub => Sys2Proof.Machine.execSubportLinkUp port sub s
  | .cairnLinkLost => Sys2Proof.Machine.execCairnLinkLost s
  | .replConnectionLost pool pair => Sys2Proof.Machine.execReplConnectionLost pool pair s
  | .memoryWipeDone group => Sys2Proof.Machine.execMemoryWipeDone group s

end Sys2Proof.Machine
end

