-- ==== Sys2Proof/WellFormed.lean ====
section
/-! DEFINITION. Which commands are well formed: operands within the ranges their rules give. Every meaning is total and an
ill-formed command changes nothing that its rule does not name; the checks say which commands the block can be sent. -/

namespace Sys2Proof

open Machine Machine.State

/-- A core that exists in the architecture (R33). -/
def Agent.wf : Agent → Bool
  | .dp r c => decide (r < 8) && decide (c < 4)
  | .mg m => decide (m < 4)

/-- The master codes of `SYS.DECODE_ADDR` (R25). -/
def masterOk (m : Nat) : Bool :=
  decide (m < 0x24) || (decide (0x30 ≤ m) && decide (m < 0x52)) || decide (m = 0x60) || (decide (0x70 ≤ m) && decide (m < 0x78))

/-- Operands within their ranges. -/
def Instr.wf : Instr → Bool
  | .registerWrite m off width _ => masterOk m && decide (off < ctlSize) && decide (1 ≤ width)
  | .w1cFlagClear m off width _ _ => masterOk m && decide (off < ctlSize) && decide (1 ≤ width)
  | .absentUnitWrite m off width _ => masterOk m && decide (off < ctlSize) && decide (1 ≤ width)
  | .badAccess m _ off width _ => masterOk m && decide (off < ctlSize) && decide (1 ≤ width)
  | .evcntWrite m off width _ _ => masterOk m && decide (off < ctlSize) && decide (1 ≤ width)
  | .writeCompletionPosted _ => true
  | .landingRetryTimeout _ => true
  | .lopEntryUpdate m i _ => masterOk m && decide (i < 64)
  | .capsuleTaken _ => true
  | .climbDispatch ridge core => decide (ridge < 8) && decide (core < 4)
  | .quantumExpiry ridge core => decide (ridge < 8) && decide (core < 4)
  | .climbFill ridge core => decide (ridge < 8) && decide (core < 4)
  | .climbSpill ridge core => decide (ridge < 8) && decide (core < 4)
  | .watchdog ridge core => decide (ridge < 8) && decide (core < 4)
  | .climbFreed cid => decide (cid < 8192)
  | .hallocMet ridge => decide (ridge < 8)
  | .granuleWipeDone ridge _ => decide (ridge < 8)
  | .parkDeadline cid => decide (cid < 8192)
  | .climbWake m ridge _ => masterOk m && decide (ridge < 8)
  | .routeCallDispatch _ => true
  | .heldCallStart ridge => ridge.all (fun x => decide (x < 8))
  | .handoverCallCheck => true
  | .paramBlockRead _ _ => true
  | .mgmtInterrupt core => decide (core < 4)
  | .illegalInstruction a word => a.wf && (ezDecode a word).isNone
  | .add a _ _ _ => a.wf
  | .sub a _ _ _ => a.wf
  | .and a _ _ _ => a.wf
  | .or a _ _ _ => a.wf
  | .xor a _ _ _ => a.wf
  | .shl a _ _ _ => a.wf
  | .shr a _ _ _ => a.wf
  | .sar a _ _ _ => a.wf
  | .mul a _ _ _ => a.wf
  | .mulh a _ _ _ => a.wf
  | .divu a _ _ _ => a.wf
  | .min a _ _ _ => a.wf
  | .max a _ _ _ => a.wf
  | .clz a _ _ => a.wf
  | .popc a _ _ => a.wf
  | .addImm a _ _ _ => a.wf
  | .andImm a _ _ _ => a.wf
  | .orImm a _ _ _ => a.wf
  | .xorImm a _ _ _ => a.wf
  | .shlImm a _ _ _ => a.wf
  | .shrImm a _ _ _ => a.wf
  | .sarImm a _ _ _ => a.wf
  | .cmpeq a _ _ _ => a.wf
  | .cmpne a _ _ _ => a.wf
  | .cmplt a _ _ _ => a.wf
  | .cmpge a _ _ _ => a.wf
  | .cmpltu a _ _ _ => a.wf
  | .cmpgeu a _ _ _ => a.wf
  | .cmpeqImm a _ _ _ => a.wf
  | .cmpneImm a _ _ _ => a.wf
  | .cmpltImm a _ _ _ => a.wf
  | .cmpgeImm a _ _ _ => a.wf
  | .cmpltuImm a _ _ _ => a.wf
  | .cmpgeuImm a _ _ _ => a.wf
  | .sel a _ _ _ _ => a.wf
  | .li a _ _ => a.wf
  | .lui a _ _ _ => a.wf
  | .bfx a _ _ pos lenm1 => a.wf && decide (pos.toNat + lenm1.toNat < 64)
  | .bfi a _ _ pos lenm1 => a.wf && decide (pos.toNat + lenm1.toNat < 64)
  | .ldB a _ _ _ _ => a.wf
  | .ldH a _ _ _ _ => a.wf
  | .ldW a _ _ _ _ => a.wf
  | .ldD a _ _ _ _ => a.wf
  | .stB a _ _ _ _ => a.wf
  | .stH a _ _ _ _ => a.wf
  | .stW a _ _ _ _ => a.wf
  | .stD a _ _ _ _ => a.wf
  | .hld a _ _ _ _ _ => a.wf
  | .hst a _ _ _ _ _ => a.wf
  | .aadd a _ _ _ _ => a.wf
  | .acas a _ _ _ _ => a.wf
  | .axchg a _ _ _ _ => a.wf
  | .beq a _ _ _ => a.wf
  | .bne a _ _ _ => a.wf
  | .blt a _ _ _ => a.wf
  | .bge a _ _ _ => a.wf
  | .bltu a _ _ _ => a.wf
  | .bgeu a _ _ _ => a.wf
  | .jal a _ _ => a.wf
  | .jalr a _ _ _ => a.wf
  | .halloc a _ _ => a.wf
  | .hfree a _ => a.wf
  | .hslice a _ _ _ _ => a.wf
  | .hsplit a _ _ _ => a.wf
  | .hcopy a _ _ _ => a.wf
  | .send a cls _ _ _ flags => a.wf && sendListed cls flags
  | .sendQueueAccept ridge cls _ => decide (ridge < 8) && decide (cls < 32)
  | .wait a _ _ => a.wf
  | .waitany a _ _ => a.wf
  | .poll a _ _ => a.wf
  | .spawn a _ _ _ => a.wf
  | .park a _ _ => a.wf
  | .yield a => a.wf
  | .exit a _ => a.wf
  | .fence a => a.wf
  | .csrr a _ _ => a.wf
  | .csrw a _ _ _ => a.wf
  | .csrset a _ _ _ => a.wf
  | .csrclr a _ _ _ => a.wf
  | .time a _ => a.wf
  | .trap a _ => a.wf
  | .eret a => a.wf
  | .sleep a => a.wf
  | .iinv a => a.wf
  | .iofence a => a.wf
  | .chkContentDefined _ => true
  | .chkFixed _ => true
  | .digDigest _ => true
  | .digChunks _ => true
  | .digBegin _ => true
  | .digUpdate _ => true
  | .digFinal _ => true
  | .coderEncodeByte _ => true
  | .coderEncodeRaster _ => true
  | .coderDecode _ => true
  | .coderResume _ => true
  | .xtsEncrypt _ => true
  | .xtsDecrypt _ => true
  | .parGeneratePq _ => true
  | .parGenerateP _ => true
  | .parRecover _ => true
  | .parCheck _ => true
  | .idxProbe _ _ => true
  | .idxInsert _ => true
  | .idxRemove _ => true
  | .hifReceive _ => true
  | .hifTransmit _ => true
  | .hifComplete _ => true
  | .eraseSlab _ _ _ => true
  | .programSlabRow _ _ _ => true
  | .readPage _ _ => true
  | .journalAppend _ _ _ => true
  | .readTags _ _ => true
  | .setReadOffsets _ _ => true
  | .readHealth _ _ _ => true
  | .ropeJournalRecords _ => true
  | .ropeShadowState _ => true
  | .sbkRecord _ => true
  | .claim m c width _ => masterOk m && decide (c < 16) && decide (1 ≤ width)
  | .nchRelease m c width _ => masterOk m && decide (c < 16) && decide (1 ≤ width)
  | .forceRelease m width _ => masterOk m && decide (1 ≤ width)
  | .nchStart m c width _ => masterOk m && decide (c < 16) && decide (1 ≤ width)
  | .nchData m c width _ => masterOk m && decide (c < 16) && decide (1 ≤ width)
  | .nchLast m c width _ => masterOk m && decide (c < 16) && decide (1 ≤ width)
  | .nchKeyWrite m c k width _ => masterOk m && decide (c < 16) && decide (k < 8) && decide (1 ≤ width)
  | .nchBlockDone c => decide (c < 16)
  | .nchDigestDone c => decide (c < 16)
  | .summaryGrow pool _ => decide (pool < 16)
  | .tvsCopy ch _ => decide (ch < 32)
  | .tvsDeinterleave ch _ => decide (ch < 32)
  | .tvsInterleave ch _ => decide (ch < 32)
  | .tvsPlaneSplit ch _ => decide (ch < 32)
  | .tvsPlaneMerge ch _ => decide (ch < 32)
  | .tvsAbort m ch width _ => masterOk m && decide (ch < 32) && decide (1 ≤ width)
  | .tvsReadback ch => decide (ch < 32)
  | .pageLoad pool _ _ => decide (pool < 16)
  | .heatDecay pool => decide (pool < 16)
  | .merge pool _ _ _ => decide (pool < 16)
  | .clean m width _ => masterOk m && decide (1 ≤ width)
  | .invalidate m width _ => masterOk m && decide (1 ≤ width)
  | .cleanInvalidate m width _ => masterOk m && decide (1 ≤ width)
  | .maintDone => true
  | .mapcWipeDone => true
  | .xtsKeyLoad pool => decide (pool < 16)
  | .xtsKeyUnload pool => decide (pool < 16)
  | .poolCreate _ _ _ => true
  | .poolDelete _ => true
  | .poolSet _ => true
  | .nsCreate _ => true
  | .nsDelete _ => true
  | .nsList _ => true
  | .bivouacTarget pool => decide (pool < 16)
  | .destage pool _ => decide (pool < 16)
  | .stripeRowComplete pool _ => decide (pool < 16)
  | .segmentCloseShort pool _ => decide (pool < 16)
  | .journalFlush pool => decide (pool < 16)
  | .cancel _ => true
  | .checkpoint pool => decide (pool < 16)
  | .anchorDurable pool => decide (pool < 16)
  | .collection pool _ => decide (pool < 16)
  | .releaseErase pool _ _ => decide (pool < 16)
  | .recovery pool => decide (pool < 16)
  | .erasedReference pool _ _ => decide (pool < 16)
  | .erasedReferenceTimeout _ => true
  | .rewrite pool _ => decide (pool < 16)
  | .moduleHealthPoll pool _ => decide (pool < 16)
  | .patrolPass pool _ _ => decide (pool < 16)
  | .patrolRate pool => decide (pool < 16)
  | .fillStateEval pool => decide (pool < 16)
  | .budgetRefill pool => decide (pool < 16)
  | .patrolSet _ => true
  | .fixitySummary _ => true
  | .fixityFailures _ => true
  | .mediaStatus _ => true
  | .regionBitDurable pool _ => decide (pool < 16)
  | .moduleFailed pool _ => decide (pool < 16)
  | .rebuild pool _ => decide (pool < 16)
  | .rebuildRateWindow pool _ => decide (pool < 16)
  | .lostChunk pool _ _ _ => decide (pool < 16)
  | .replicaRepair pool _ => decide (pool < 16)
  | .reshape pool _ => decide (pool < 16)
  | .reshapeEnd pool => decide (pool < 16)
  | .reshapeStart _ => true
  | .reshapeAbort _ => true
  | .moduleFail _ => true
  | .redundancyStatus _ => true
  | .lostList _ => true
  | .heartbeat _ => true
  | .heartbeatSend => true
  | .missedHeartbeat => true
  | .leaseExpiry => true
  | .ropeRetransmit => true
  | .laneDown lane => decide (lane < 16)
  | .laneUp lane => decide (lane < 16)
  | .ropeUndegrade => true
  | .sessionRekey => true
  | .ropeLinkHandshake _ _ _ => true
  | .timeReq _ => true
  | .timeReqSend => true
  | .timeResp _ => true
  | .timeUnsync => true
  | .journal _ => true
  | .journalAck _ => true
  | .shadow _ => true
  | .forward _ _ => true
  | .forwardDone _ => true
  | .join _ => true
  | .caughtUp _ => true
  | .ropeRelease _ => true
  | .taken _ => true
  | .rekey _ => true
  | .ropeYield _ => true
  | .cairnHealth _ => true
  | .cairnHealthSend => true
  | .voteGrant _ => true
  | .voteRetry => true
  | .yieldSequencer _ => true
  | .peerYieldIn => true
  | .peerSuspect => true
  | .fenceDone _ => true
  | .fencingBound _ => true
  | .tagCheck pool _ => decide (pool < 16)
  | .dualSend pool => decide (pool < 16)
  | .relayRead pool => decide (pool < 16)
  | .forwardDegradeTimeout => true
  | .startupClaim => true
  | .poolMove _ _ => true
  | .pairStatus _ => true
  | .yieldHead _ => true
  | .crnYield core _ => decide (core < 4)
  | .snapCreate _ => true
  | .epochSweep pool => decide (pool < 16)
  | .snapDelete _ => true
  | .snapDropWalk pool => decide (pool < 16)
  | .snapExpose _ => true
  | .snapHide _ => true
  | .snapList _ => true
  | .replCreate _ => true
  | .replAccept _ => true
  | .replDelete _ => true
  | .replStatus _ => true
  | .poolStatus _ => true
  | .replRound pool _ => decide (pool < 16)
  | .replReconnect pool _ => decide (pool < 16)
  | .hello _ => true
  | .helloAck pool _ _ => decide (pool < 16)
  | .manifest pool _ _ => decide (pool < 16)
  | .want pool _ _ _ => decide (pool < 16)
  | .replChunks pool _ _ => decide (pool < 16)
  | .applied pool _ _ => decide (pool < 16)
  | .roundEnd pool _ _ => decide (pool < 16)
  | .roundDone pool _ _ => decide (pool < 16)
  | .fetch pool _ _ _ => decide (pool < 16)
  | .fetchReply pool _ _ => decide (pool < 16)
  | .fetchTimeout pool _ _ => decide (pool < 16)
  | .replError pool _ _ => decide (pool < 16)
  | .capsuleArrival _ _ => true
  | .rangeLockGrant _ => true
  | .read _ _ => true
  | .write _ _ => true
  | .flush _ => true
  | .writeZeroes _ => true
  | .datasetManagement _ => true
  | .verify _ _ => true
  | .copy _ _ => true
  | .store _ _ => true
  | .retrieve _ _ => true
  | .delete _ => true
  | .exist _ => true
  | .list _ => true
  | .connect port sp _ _ _ _ _ _ _ _ _ _ => decide (port < 8) && decide (sp < 8)
  | .abort _ => true
  | .authentication _ _ => true
  | .h2cdata _ _ => true
  | .macsecFrame port sp _ _ _ _ _ => decide (port < 8) && decide (sp < 8)
  | .mkaSakInstall port sp _ _ _ _ _ => decide (port < 8) && decide (sp < 8)
  | .keepAliveExpiry _ => true
  | .connectionLost _ => true
  | .termReq _ => true
  | .subportLinkDown port sp => decide (port < 8) && decide (sp < 8)
  | .cqtExpiry _ => true
  | .hifConfigWrite core port _ => decide (core < 4) && decide (port < 8)
  | .portConfig _ => true
  | .macsecCak _ => true
  | .hostSet _ => true
  | .subsystemSet _ => true
  | .portStatus _ => true
  | .callTail fn _ width _ _ => decide (fn < 2) && decide (1 ≤ width)
  | .cplHead fn _ width _ => decide (fn < 2) && decide (1 ≤ width)
  | .callqEnable m width _ => masterOk m && decide (1 ≤ width)
  | .callqDisable m width _ => masterOk m && decide (1 ≤ width)
  | .pcieCompletion _ _ => true
  | .completionTimeout _ => true
  | .msixUnmask fn _ _ _ => decide (fn < 2)
  | .busMasterEnable fn _ _ => decide (fn < 2)
  | .writebackDiscard _ => true
  | .functionLevelReset fn => decide (fn < 2)
  | .pcieLinkDown => true
  | .peerWindowAccess _ _ _ => true
  | .commit m w width _ => masterOk m && decide (w < 8) && decide (1 ≤ width)
  | .commitComplete w => decide (w < 8)
  | .winShadowWrite m w _ width _ => masterOk m && decide (w < 8) && decide (1 ≤ width)
  | .signal _ width _ => decide (1 ≤ width)
  | .winReady m width _ => masterOk m && decide (1 ≤ width)
  | .peerBind _ => true
  | .peerUnbind _ => true
  | .moduleLost port _ _ => decide (port < 64)
  | .moduleLinkUp port _ _ _ _ _ => decide (port < 64)
  | .moduleArrival port _ _ _ _ _ => decide (port < 64)
  | .cmdTimeout _ _ => true
  | .strayAccess port => decide (port < 64)
  | .moduleAdd _ => true
  | .moduleDetach _ => true
  | .moduleList _ => true
  | .trngHealthFail _ => true
  | .drbgReseed => true
  | .boot _ _ _ => true
  | .routeLoad _ _ => true
  | .wardRelease m width _ => masterOk m && decide (1 ≤ width)
  | .coreReleaseTimer ridge core => decide (ridge < 8) && decide (core.val < 4)
  | .kick m width _ => masterOk m && decide (1 ≤ width)
  | .watchdogExpiry core => core.all (fun x => decide (x < 4))
  | .wdnDoorbell m width _ => masterOk m && decide (1 ≤ width)
  | .extestSelect => true
  | .attest _ => true
  | .identityCerts _ => true
  | .lifecycle _ => true
  | .keyRevoke _ => true
  | .svnCommit _ => true
  | .pairKeys _ => true
  | .lifecycleToken _ => true
  | .htOpen _ _ _ => true
  | .htData _ _ _ _ => true
  | .htClose _ _ _ => true
  | .htAbort _ _ _ => true
  | .htAckTimer => true
  | .htIdle => true
  | .armExpiry => true
  | .consoleRequest _ _ _ _ => true
  | .updateArm _ => true
  | .hingeOver _ _ => true
  | .updateStatus _ => true
  | .wrHdr m _ width _ => masterOk m && decide (1 ≤ width)
  | .wrData m _ width _ => masterOk m && decide (1 ≤ width)
  | .wrCommit m width _ => masterOk m && decide (1 ≤ width)
  | .sbkStore => true
  | .freeze m width _ => masterOk m && decide (1 ≤ width)
  | .thaw m width _ => masterOk m && decide (1 ≤ width)
  | .thawTimer => true
  | .nonceReq m width _ => masterOk m && decide (1 ≤ width)
  | .nonceExpiry => true
  | .clear m width _ => masterOk m && decide (1 ≤ width)
  | .clearCompare => true
  | .harvest => true
  | .bookToken _ => true
  | .bookRead _ => true
  | .refLost => true
  | .refBack => true
  | .timeSet m width _ _ => masterOk m && decide (1 ≤ width)
  | .timerCompare core => decide (core < 4)
  | .standbyRailUp _ => true
  | .pwrGoodRise => true
  | .domainPowerUp => true
  | .domainFault => true
  | .pwrGoodFall => true
  | .domainReq m width _ => masterOk m && decide (1 ≤ width)
  | .dramTraining ch _ => decide (ch < 8)
  | .dramFillDone ch => decide (ch < 8)
  | .scrub ch _ _ => decide (ch < 8)
  | .ueScrubHandle ch _ => decide (ch < 8)
  | .srEnter m ch width _ => masterOk m && decide (ch < 8) && decide (1 ≤ width)
  | .srExit m ch width _ => masterOk m && decide (ch < 8) && decide (1 ≤ width)
  | .serviceEnter _ => true
  | .serviceLeave _ => true
  | .standbyEnter _ => true
  | .standbyLeave _ => true
  | .deviceWipe _ m _ => masterOk m
  | .powerStatus _ => true
  | .pwrReset m width _ => masterOk m && decide (1 ≤ width)
  | .resetN => true
  | .quarantineAuto => true
  | .autoCountReset => true
  | .supplyWarn => true
  | .supplyFault => true
  | .thermalWarn _ => true
  | .thermalShutdown _ => true
  | .standbyRailLost => true
  | .smbusBlockRead _ _ => true
  | .timeTick => true
  | .pcieLinkUp _ _ => true
  | .resetNRelease => true
  | .subportLinkUp port sp => decide (port < 8) && decide (sp < 8)
  | .cairnLinkLost => true
  | .replConnectionLost pool _ => decide (pool < 16)
  | .memoryWipeDone _ => true

end Sys2Proof
end

