-- ==== Sys2Proof/Safety.lean ====
section
/-! DEFINITION. The terms in which the statements speak of runs: commands that complete, what stays as it was, and the
forms of the state's data that every command keeps. -/

namespace Sys2Proof.Machine

/-- The next state of a command is `t`. -/
abbrev gives (c : Instr) (s t : State) : Prop := exec c s = .next t

/-- The register file of the core's context has its 32 registers. -/
def State.filesWhole (s : State) (a : Agent) : Bool :=
  match a with
  | .dp _ _ => match s.agentCid a with
    | some cid => decide ((s.climb cid).g.length = 32) && decide ((s.climb cid).h.length = 16) && decide ((s.climb cid).t.length = 8)
    | none => true
  | .mg m => decide ((s.mcore m).g.length = 32)

/-- Beside the general registers and the pc of one core's context, nothing differs; a management core is awake. -/
def onlyRegs (a : Agent) (s t : State) : Prop :=
  t = { s with climbs := t.climbs, mcores := t.mcores } ∧
  (∀ cid, t.climb cid = if s.agentCid a = some cid then { s.climb cid with g := (t.climb cid).g, pc := (t.climb cid).pc } else s.climb cid) ∧
  (∀ m, t.mcore m = if a = .mg m then { s.mcore m with g := (t.mcore m).g, pc := (t.mcore m).pc, sleeping := false } else s.mcore m)

/-! ### The tables of the Ezsol chapter, as the statements read them -/

/-- The integer rows of R75: the core, the destination and the value that `wr` gets from the core's registers; BFX and BFI
with a field inside the word. -/
def intRow (s : State) : Instr → Option (Agent × BitVec 5 × W64)
  | .add a rd ra rb => some (a, rd, s.getG a ra + s.getG a rb)
  | .sub a rd ra rb => some (a, rd, s.getG a ra - s.getG a rb)
  | .and a rd ra rb => some (a, rd, s.getG a ra &&& s.getG a rb)
  | .or a rd ra rb => some (a, rd, s.getG a ra ||| s.getG a rb)
  | .xor a rd ra rb => some (a, rd, s.getG a ra ^^^ s.getG a rb)
  | .shl a rd ra rb => some (a, rd, s.getG a ra <<< ((s.getG a rb).toNat % 64))
  | .shr a rd ra rb => some (a, rd, s.getG a ra >>> ((s.getG a rb).toNat % 64))
  | .sar a rd ra rb => some (a, rd, (s.getG a ra).sshiftRight ((s.getG a rb).toNat % 64))
  | .mul a rd ra rb => some (a, rd, BitVec.ofNat 64 ((s.getG a ra).toNat * (s.getG a rb).toNat))
  | .mulh a rd ra rb => some (a, rd, BitVec.ofNat 64 ((s.getG a ra).toNat * (s.getG a rb).toNat / 2 ^ 64))
  | .divu a rd ra rb => some (a, rd, if s.getG a rb = 0 then ~~~0 else BitVec.ofNat 64 ((s.getG a ra).toNat / (s.getG a rb).toNat))
  | .min a rd ra rb => some (a, rd, BitVec.ofNat 64 (min (s.getG a ra).toNat (s.getG a rb).toNat))
  | .max a rd ra rb => some (a, rd, BitVec.ofNat 64 (max (s.getG a ra).toNat (s.getG a rb).toNat))
  | .clz a rd ra => some (a, rd, BitVec.ofNat 64 (if s.getG a ra = 0 then 64 else 63 - Nat.log2 (s.getG a ra).toNat))
  | .popc a rd ra => some (a, rd, BitVec.ofNat 64 ((List.range 64).countP (fun i => (s.getG a ra).getLsbD i)))
  | .addImm a rd ra imm => some (a, rd, s.getG a ra + imm.signExtend 64)
  | .andImm a rd ra imm => some (a, rd, s.getG a ra &&& imm.setWidth 64)
  | .orImm a rd ra imm => some (a, rd, s.getG a ra ||| imm.setWidth 64)
  | .xorImm a rd ra imm => some (a, rd, s.getG a ra ^^^ imm.setWidth 64)
  | .shlImm a rd ra n => some (a, rd, s.getG a ra <<< n.toNat)
  | .shrImm a rd ra n => some (a, rd, s.getG a ra >>> n.toNat)
  | .sarImm a rd ra n => some (a, rd, (s.getG a ra).sshiftRight n.toNat)
  | .cmpeq a rd ra rb => some (a, rd, if s.getG a ra = s.getG a rb then 1 else 0)
  | .cmpne a rd ra rb => some (a, rd, if s.getG a ra = s.getG a rb then 0 else 1)
  | .cmplt a rd ra rb => some (a, rd, if (s.getG a ra).toInt < (s.getG a rb).toInt then 1 else 0)
  | .cmpge a rd ra rb => some (a, rd, if (s.getG a rb).toInt ≤ (s.getG a ra).toInt then 1 else 0)
  | .cmpltu a rd ra rb => some (a, rd, if (s.getG a ra).toNat < (s.getG a rb).toNat then 1 else 0)
  | .cmpgeu a rd ra rb => some (a, rd, if (s.getG a rb).toNat ≤ (s.getG a ra).toNat then 1 else 0)
  | .cmpeqImm a rd ra i => some (a, rd, if s.getG a ra = i.signExtend 64 then 1 else 0)
  | .cmpneImm a rd ra i => some (a, rd, if s.getG a ra = i.signExtend 64 then 0 else 1)
  | .cmpltImm a rd ra i => some (a, rd, if (s.getG a ra).toInt < i.toInt then 1 else 0)
  | .cmpgeImm a rd ra i => some (a, rd, if i.toInt ≤ (s.getG a ra).toInt then 1 else 0)
  | .cmpltuImm a rd ra i => some (a, rd, if (s.getG a ra).toNat < (i.signExtend 64).toNat then 1 else 0)
  | .cmpgeuImm a rd ra i => some (a, rd, if (i.signExtend 64).toNat ≤ (s.getG a ra).toNat then 1 else 0)
  | .sel a rd rc ra rb => some (a, rd, if s.getG a rc = 0 then s.getG a rb else s.getG a ra)
  | .li a rd imm => some (a, rd, imm.signExtend 64)
  | .lui a rd k imm => some (a, rd, (s.getG a rd &&& ~~~((0xFFFF : W64) <<< (16 * k.toNat))) ||| (imm.setWidth 64 <<< (16 * k.toNat)))
  | .bfx a rd ra pos lenm1 =>
    if pos.toNat + lenm1.toNat < 64 then some (a, rd, (s.getG a ra >>> pos.toNat) &&& BitVec.ofNat 64 (2 ^ (lenm1.toNat + 1) - 1))
    else none
  | .bfi a rd ra pos lenm1 =>
    if pos.toNat + lenm1.toNat < 64 then
      let m := BitVec.ofNat 64 (2 ^ (lenm1.toNat + 1) - 1)
      some (a, rd, (s.getG a rd &&& ~~~(m <<< pos.toNat)) ||| ((s.getG a ra &&& m) <<< pos.toNat))
    else none
  | _ => none

/-- The core of an Ezsol instruction. -/
def coreOf : Instr → Option Agent
  | .add a _ _ _ => some a
  | .sub a _ _ _ => some a
  | .and a _ _ _ => some a
  | .or a _ _ _ => some a
  | .xor a _ _ _ => some a
  | .shl a _ _ _ => some a
  | .shr a _ _ _ => some a
  | .sar a _ _ _ => some a
  | .mul a _ _ _ => some a
  | .mulh a _ _ _ => some a
  | .divu a _ _ _ => some a
  | .min a _ _ _ => some a
  | .max a _ _ _ => some a
  | .clz a _ _ => some a
  | .popc a _ _ => some a
  | .addImm a _ _ _ => some a
  | .andImm a _ _ _ => some a
  | .orImm a _ _ _ => some a
  | .xorImm a _ _ _ => some a
  | .shlImm a _ _ _ => some a
  | .shrImm a _ _ _ => some a
  | .sarImm a _ _ _ => some a
  | .cmpeq a _ _ _ => some a
  | .cmpne a _ _ _ => some a
  | .cmplt a _ _ _ => some a
  | .cmpge a _ _ _ => some a
  | .cmpltu a _ _ _ => some a
  | .cmpgeu a _ _ _ => some a
  | .cmpeqImm a _ _ _ => some a
  | .cmpneImm a _ _ _ => some a
  | .cmpltImm a _ _ _ => some a
  | .cmpgeImm a _ _ _ => some a
  | .cmpltuImm a _ _ _ => some a
  | .cmpgeuImm a _ _ _ => some a
  | .sel a _ _ _ _ => some a
  | .li a _ _ => some a
  | .lui a _ _ _ => some a
  | .ldB a _ _ _ _ => some a
  | .ldH a _ _ _ _ => some a
  | .ldW a _ _ _ _ => some a
  | .ldD a _ _ _ _ => some a
  | .stB a _ _ _ _ => some a
  | .stH a _ _ _ _ => some a
  | .stW a _ _ _ _ => some a
  | .stD a _ _ _ _ => some a
  | .hld a _ _ _ _ _ => some a
  | .hst a _ _ _ _ _ => some a
  | .aadd a _ _ _ _ => some a
  | .acas a _ _ _ _ => some a
  | .axchg a _ _ _ _ => some a
  | .bfx a _ _ _ _ => some a
  | .bfi a _ _ _ _ => some a
  | .beq a _ _ _ => some a
  | .bne a _ _ _ => some a
  | .blt a _ _ _ => some a
  | .bge a _ _ _ => some a
  | .bltu a _ _ _ => some a
  | .bgeu a _ _ _ => some a
  | .jal a _ _ => some a
  | .jalr a _ _ _ => some a
  | .halloc a _ _ => some a
  | .hfree a _ => some a
  | .hslice a _ _ _ _ => some a
  | .hsplit a _ _ _ => some a
  | .hcopy a _ _ _ => some a
  | .send a _ _ _ _ _ => some a
  | .wait a _ _ => some a
  | .waitany a _ _ => some a
  | .poll a _ _ => some a
  | .spawn a _ _ _ => some a
  | .park a _ _ => some a
  | .yield a => some a
  | .exit a _ => some a
  | .fence a => some a
  | .csrr a _ _ => some a
  | .csrw a _ _ _ => some a
  | .csrset a _ _ _ => some a
  | .csrclr a _ _ _ => some a
  | .time a _ => some a
  | .trap a _ => some a
  | .eret a => some a
  | .sleep a => some a
  | .iinv a => some a
  | .iofence a => some a
  | .illegalInstruction a _ => some a
  | _ => none

/-- Does an instruction carry no memory fault? Only loads and stores name one, and no word spells it. -/
def faultFree : Instr → Bool
  | .ldB _ _ _ _ f | .ldH _ _ _ _ f | .ldW _ _ _ _ f | .ldD _ _ _ _ f => decide (f = .none)
  | .stB _ _ _ _ f | .stH _ _ _ _ f | .stW _ _ _ _ f | .stD _ _ _ _ f => decide (f = .none)
  | _ => true

/-- Memory and registers in their canonical form. -/
def formsKept (s : State) : Bool := Mem.wf s.mem && Tbl.sorted s.regs

/-- The condition of a branch and its offset (R81). -/
def branchRow (s : State) : Instr → Option (Agent × Prop × BitVec 16)
  | .beq a ra rb off => some (a, s.getG a ra = s.getG a rb, off)
  | .bne a ra rb off => some (a, s.getG a ra ≠ s.getG a rb, off)
  | .blt a ra rb off => some (a, (s.getG a ra).toInt < (s.getG a rb).toInt, off)
  | .bge a ra rb off => some (a, (s.getG a rb).toInt ≤ (s.getG a ra).toInt, off)
  | .bltu a ra rb off => some (a, (s.getG a ra).toNat < (s.getG a rb).toNat, off)
  | .bgeu a ra rb off => some (a, (s.getG a rb).toNat ≤ (s.getG a ra).toNat, off)
  | _ => none

/-- `t` is `s` after a trap of a core that R63 and R102 let take it: the context of the core has the cause, its value and the
saved pc, TRAP_ACTIVE is set, and the pc is the handler's address. -/
def trapTaken (a : Agent) (s t : State) (cause : Nat) (tval tpc : W64) : Prop :=
  match a with
  | .dp _ _ => ∃ cid, s.agentCid a = some cid ∧
      t = s.setClimb cid { s.climb cid with
        tpc := tpc, tcause := cause, tval := tval, trapActive := true, pc := BitVec.ofNat 64 (s.route (s.climb cid).slot).handler }
  | .mg m => t = s.setMcore m { s.mcore m with
        tpc := tpc, tcause := cause, tval := tval, trapActive := true, pc := (s.mcore m).trapvec, sleeping := false }

/-- May the core take a trap: TRAP_ACTIVE is 0, and a climb's route has a handler (R63)? -/
def trapReady (a : Agent) (s : State) : Bool :=
  match a with
  | .dp _ _ => match s.agentCid a with
    | some cid => !(s.climb cid).trapActive && decide ((s.route (s.climb cid).slot).handler ≠ 0)
    | none => false
  | .mg m => !(s.mcore m).trapActive

/-- The jobs once job `j` has been queued as number `n`: a CODER job takes a lane and an idle lane starts it (R85, R144), and an XTS
job queued while its slot is being unloaded finds no key (R202). -/
def queuedAs (s : State) (n : Nat) (j : Job) : Tbl Job :=
  if j.cls = 3 then ({ s with jobs := Tbl.set s.jobs n { j with lane := s.coderLane j.ridge } }.startLanes j.ridge).jobs
  else Tbl.set s.jobs n (if j.cls = 4 then { j with noKey := decide (fieldAt j.desc 2 1 ∈ s.keyEnding) } else j)

/-- The jobs once job `n` has ended: a CODER lane that it leaves idle starts its next job (R144). -/
def jobsAfter (s : State) (n : Nat) (j : Job) : Tbl Job :=
  if j.cls = 3 then ({ s with jobs := Tbl.del s.jobs n }.startLanes j.ridge).jobs else Tbl.del s.jobs n

/-- A job has ended with a STATUS and a RESULT: its place in the queue is free, and the token that a climb still running its
program named holds the completion word (R49, R85). -/
def jobEnds (s t : State) (n : Nat) (j : Job) (status result : Nat) : Prop :=
  t.jobs = jobsAfter s n j ∧
  ((s.climb j.cid).ended = .running → j.tok < (s.climb j.cid).t.length →
    t.tok j.cid j.tok = .done (cplWord status j.cls result))

/-- Beside the jobs, the contexts of an ended climb, the tokens and wait of the job's climb, and for an XTS job the key slots that are
being unloaded, nothing differs. -/
def onlyJob (j : Job) (s t : State) : Prop :=
  t = { s with jobs := t.jobs, digs := t.digs, climbs := t.climbs, stamp := t.stamp, keySlots := t.keySlots, keyEnding := t.keyEnding } ∧
  (j.cls ≠ 4 → t.keySlots = s.keySlots ∧ t.keyEnding = s.keyEnding) ∧
  ((s.climb j.cid).ended = .running → t.digs = s.digs) ∧
  (∀ c, c ≠ j.cid → t.climb c = s.climb c) ∧
  t.climb j.cid = { s.climb j.cid with
    t := (t.climb j.cid).t, state := (t.climb j.cid).state, await := (t.climb j.cid).await, since := (t.climb j.cid).since,
    stamp := (t.climb j.cid).stamp }

/-- The XOR of the first n bytes of a row. -/
def xorTo (n : Nat) (f : Nat → Byte) : Byte := (List.range n).foldl (fun a i => a ^^^ f i) 0

/-- Blocks whose registers all follow their access types alone: no write of them acts on the block's other state. -/
def plainBlk : Blk → Bool
  | .sys | .lcs | .upd | .svc | .rope => true
  | .core _ _ | .chk _ | .dig _ | .xts _ | .par _ | .idx _ | .coder _ | .fabric _ => true
  | _ => false

/-! ### The chunker's loop -/

/-- What the loop of R108 holds after some bytes: hash, l, the ends emitted, p, and how many of them l = max emitted. -/
structure Cdc where
  hash : W64
  l    : Nat
  ends : List Nat
  p    : Nat
  maxs : Nat

/-- The body of the loop of R108 for one byte. -/
def Cdc.next (minL maxL t : Nat) (x : Cdc) (b : Byte) : Cdc :=
  let h := x.hash * 2 + State.gear b
  if (minL ≤ x.l + 1 ∧ (h >>> 32).toNat < t) ∨ x.l + 1 = maxL then
    { hash := 0, l := 0, ends := x.ends ++ [x.p + 1], p := x.p + 1, maxs := x.maxs + (if x.l + 1 = maxL then 1 else 0) }
  else { x with hash := h, l := x.l + 1, p := x.p + 1 }

/-- R108: the loop over the input, and its last line. -/
def Cdc.run (minL maxL t : Nat) (hash : W64) (carry : Nat) (final : Bool) (d : Bytes) : Cdc :=
  let x := d.foldl (Cdc.next minL maxL t) { hash := hash, l := carry, ends := [], p := 0, maxs := 0 }
  if final = true ∧ 0 < x.l then { x with hash := 0, l := 0, ends := x.ends ++ [d.length] } else x

end Sys2Proof.Machine
end

