-- ==== Sys2Proof/Certificates/Slice0/Obligations.lean ====
section
/-! DEFINITION. The statements about the block, for the provers. Each is a proposition over all states; a docstring names the
rules it formalises. -/

open Sys2Proof Sys2Proof.Machine Sys2Proof.Machine.State

/-- R75 and R69 for every integer row, register and immediate forms, on climbs and on management cores. -/
def Obligations.IntegerRowsWriteTheirValue : Prop :=
  ∀ (s : State) (i : Instr) (a : Agent) (rd : BitVec 5) (v : W64),
    intRow s i = some (a, rd, v) → s.issues a = true → s.filesWhole a = true →
    ∃ t, gives i s t ∧ t.getG a rd = (if rd = 0 then 0 else v) ∧ (∀ x, x ≠ rd → t.getG a x = s.getG a x) ∧
      t.pcOf a = s.pcOf a + 4 ∧ onlyRegs a s t

/-- R81, with R55 at the target of a transfer. -/
def Obligations.ControlTransfersMoveThePc : Prop :=
  (∀ (s : State) (i : Instr) (a : Agent) (c : Prop) (off : BitVec 16),
    branchRow s i = some (a, c, off) → s.issues a = true → s.filesWhole a = true →
    ∃ t, gives i s t ∧ (c → t.pcOf a = s.pcOf a + 4 * off.signExtend 64) ∧ (¬ c → t.pcOf a = s.pcOf a + 4) ∧
      (∀ x, t.getG a x = s.getG a x) ∧ onlyRegs a s t) ∧
  (∀ (s : State) (a : Agent) (rd : BitVec 5) (imm : BitVec 21), s.issues a = true → s.filesWhole a = true →
    ∃ t, gives (.jal a rd imm) s t ∧ t.getG a rd = (if rd = 0 then 0 else s.pcOf a + 4) ∧
      (∀ x, x ≠ rd → t.getG a x = s.getG a x) ∧ t.pcOf a = s.pcOf a + 4 * imm.signExtend 64 ∧ onlyRegs a s t) ∧
  (∀ (s : State) (a : Agent) (rd ra : BitVec 5) (imm : BitVec 16), s.issues a = true → s.filesWhole a = true →
    (s.getG a ra + imm.signExtend 64).toNat % 4 = 0 →
    ∃ t, gives (.jalr a rd ra imm) s t ∧ t.getG a rd = (if rd = 0 then 0 else s.pcOf a + 4) ∧
      (∀ x, x ≠ rd → t.getG a x = s.getG a x) ∧ t.pcOf a = s.getG a ra + imm.signExtend 64 ∧ onlyRegs a s t) ∧
  (∀ (s : State) (a : Agent) (rd ra : BitVec 5) (imm : BitVec 16), s.issues a = true → trapReady a s = true →
    (s.getG a ra + imm.signExtend 64).toNat % 4 ≠ 0 →
    ∃ t, gives (.jalr a rd ra imm) s t ∧ trapTaken a s t 0x02 (s.getG a ra + imm.signExtend 64) (s.pcOf a)) ∧
  (∀ (s : State) (i : Instr) (a : Agent), coreOf i = some a → (∀ w, i ≠ .illegalInstruction a w) → s.ready a = true →
    s.fetchOk a = false → trapReady a s = true → ∃ t, gives i s t ∧ trapTaken a s t 0x04 (s.pcOf a) (s.pcOf a))

/-- R101 and R102 with R63, R74 and R34; acknowledging lines 0 and 1 at the ERET from them is the model's choice (log entry 28). -/
def Obligations.SystemInstructionsAndTraps : Prop :=
  (∀ (s : State) (a : Agent) (rd : BitVec 5), s.issues a = true → s.filesWhole a = true →
    ∃ t, gives (.time a rd) s t ∧ t.getG a rd = (if rd = 0 then 0 else s.time) ∧
      (∀ x, x ≠ rd → t.getG a x = s.getG a x) ∧ t.pcOf a = s.pcOf a + 4 ∧ onlyRegs a s t) ∧
  (∀ (s : State) (a : Agent) (imm : BitVec 16), s.issues a = true → trapReady a s = true →
    ∃ t, gives (.trap a imm) s t ∧ trapTaken a s t 0x0B (imm.setWidth 64) (s.pcOf a + 4)) ∧
  (∀ (s : State) (r c cid : Nat), s.issues (.dp r c) = true → s.agentCid (.dp r c) = some cid →
    (s.climb cid).trapActive = true →
    gives (.eret (.dp r c)) s (s.setClimb cid { s.climb cid with trapActive := false, pc := (s.climb cid).tpc })) ∧
  (∀ (s : State) (m : Nat), s.issues (.mg m) = true → (s.mcore m).trapActive = true →
    ∃ t, gives (.eret (.mg m)) s t ∧
      t.mcore m = { s.mcore m with trapActive := false, pc := (s.mcore m).tpc, sleeping := false } ∧
      (∀ k, k ≠ m → t.mcore k = { s.mcore k with sleeping := (t.mcore k).sleeping }) ∧
      t = { s with
        mcores := t.mcores
        internalCpl := if (s.mcore m).tcause = 0x20 then [] else s.internalCpl
        bell := s.bell && !(decide ((s.mcore m).tcause = 0x21) && s.pep.queue.isEmpty) }) ∧
  (∀ (s : State) (a : Agent) (i : Instr), i ∈ [.fence a, .iinv a, .iofence a] → s.issues a = true → s.filesWhole a = true →
    (i = .fence a ∨ ∃ m, a = .mg m) →
    ∃ t, gives i s t ∧ t.pcOf a = s.pcOf a + 4 ∧ (∀ x, t.getG a x = s.getG a x) ∧ onlyRegs a s t) ∧
  (∀ (s : State) (m : Nat), s.issues (.mg m) = true →
    gives (.sleep (.mg m)) s (s.setMcore m { s.mcore m with pc := (s.mcore m).pc + 4, sleeping := true })) ∧
  (∀ (s : State) (a : Agent) (w : BitVec 32), ezDecode a w = none → s.issues a = true → trapReady a s = true →
    ∃ t, gives (.illegalInstruction a w) s t ∧ trapTaken a s t 0x01 (w.setWidth 64) (s.pcOf a)) ∧
  (∀ (s : State) (r c : Nat) (i : Instr), i ∈ [.sleep (.dp r c), .iinv (.dp r c), .iofence (.dp r c)] →
    s.issues (.dp r c) = true → trapReady (.dp r c) s = true →
    ∃ w t, ezEncode i = some w ∧ gives i s t ∧ trapTaken (.dp r c) s t 0x01 (w.setWidth 64) (s.pcOf (.dp r c))) ∧
  (∀ (s : State) (m l : Nat), m < 4 → (s.mcore m).running = true → (s.mcore m).frozen = false → (s.mcore m).halted = false →
    (s.mcore m).trapActive = false → l < 16 → bit (s.mcore m).irqmask l = true → s.irqLine m l = true →
    (∀ k < l, ¬ (bit (s.mcore m).irqmask k = true ∧ s.irqLine m k = true)) →
    ∃ t, gives (.mgmtInterrupt m) s t ∧
      t.mcore m = { s.mcore m with tpc := (s.mcore m).pc, tcause := 0x20 + l, tval := 0, trapActive := true,
                                   pc := (s.mcore m).trapvec, sleeping := false } ∧
      (∀ k, k ≠ m → t.mcore k = s.mcore k) ∧
      t = { s with mcores := t.mcores })

/-- R99 and R100. -/
def Obligations.CsrInstructionsReadAndWrite : Prop :=
  (∀ (s : State) (a : Agent) (rd ra : BitVec 5) (n : BitVec 12) (old : W64) (i : Instr),
    i ∈ [.csrr a rd n, .csrset a rd 0 n, .csrclr a rd 0 n] → s.issues a = true → s.filesWhole a = true →
    (s.awake a).csrRead a n.toNat = some old →
    ∃ t, gives i s t ∧ t.getG a rd = (if rd = 0 then 0 else old) ∧ (∀ x, x ≠ rd → t.getG a x = s.getG a x) ∧
      t.pcOf a = s.pcOf a + 4 ∧ onlyRegs a s t) ∧
  (∀ (s : State) (m : Nat) (rd ra : BitVec 5) (n : BitVec 12) (old : W64) (p : Instr × W64),
    p ∈ [(.csrw (.mg m) rd ra n, s.getG (.mg m) ra), (.csrset (.mg m) rd ra n, old ||| s.getG (.mg m) ra),
         (.csrclr (.mg m) rd ra n, old &&& ~~~(s.getG (.mg m) ra))] →
    (ra = 0 → p.1 = .csrw (.mg m) rd ra n) → s.issues (.mg m) = true → s.filesWhole (.mg m) = true →
    (s.awake (.mg m)).csrRead (.mg m) n.toNat = some old → n.toNat ∈ [0x008, 0x800, 0x801, 0x803] →
    gives p.1 s (s.setMcore m { s.mcore m with
      g := if rd = 0 then (s.mcore m).g else (s.mcore m).g.set rd.toNat old, pc := (s.mcore m).pc + 4, sleeping := false,
      tpc := if n.toNat = 0x008 then p.2 else (s.mcore m).tpc,
      trapvec := if n.toNat = 0x800 then p.2 else (s.mcore m).trapvec,
      irqmask := if n.toNat = 0x801 then p.2.toNat % 65536 else (s.mcore m).irqmask,
      fwscratch := if n.toNat = 0x803 then p.2 else (s.mcore m).fwscratch })) ∧
  (∀ (s : State) (r c cid : Nat) (rd ra : BitVec 5) (p : Instr × W64),
    p ∈ [(.csrw (.dp r c) rd ra 0x008, s.getG (.dp r c) ra), (.csrset (.dp r c) rd ra 0x008, (s.climb cid).tpc ||| s.getG (.dp r c) ra),
         (.csrclr (.dp r c) rd ra 0x008, (s.climb cid).tpc &&& ~~~(s.getG (.dp r c) ra))] →
    (ra = 0 → p.1 = .csrw (.dp r c) rd ra 0x008) → s.issues (.dp r c) = true → s.agentCid (.dp r c) = some cid →
    gives p.1 s (s.setClimb cid { s.climb cid with
      g := if rd = 0 then (s.climb cid).g else (s.climb cid).g.set rd.toNat (s.climb cid).tpc, pc := (s.climb cid).pc + 4, tpc := p.2 })) ∧
  (∀ (s : State) (a : Agent) (rd ra : BitVec 5) (n : BitVec 12) (i : Instr),
    ((s.awake a).csrRead a n.toNat = none ∧ i ∈ [.csrr a rd n, .csrw a rd ra n, .csrset a rd ra n, .csrclr a rd ra n]) ∨
    (csrRw a n.toNat = false ∧ ra ≠ 0 ∧ i ∈ [.csrw a rd ra n, .csrset a rd ra n, .csrclr a rd ra n]) →
    s.issues a = true → trapReady a s = true →
    ∃ w t, ezEncode i = some w ∧ gives i s t ∧ trapTaken a s t 0x01 (w.setWidth 64) (s.pcOf a)) ∧
  (∀ (s : State) (r c cid : Nat), s.agentCid (.dp r c) = some cid →
    s.csrRead (.dp r c) 0x000 = some (BitVec.ofNat 64 cid) ∧
    s.csrRead (.dp r c) 0x001 = some (match (s.climb cid).parent with | some p => BitVec.ofNat 64 (p + 8192) | none => 0) ∧
    s.csrRead (.dp r c) 0x002 = some (BitVec.ofNat 64 (s.climb cid).slot) ∧
    s.csrRead (.dp r c) 0x003 = some (BitVec.ofNat 64 (localAddr cid)) ∧
    s.csrRead (.dp r c) 0x004 = some (if (s.climb cid).bg then 1 else 0) ∧
    s.csrRead (.dp r c) 0x008 = some (s.climb cid).tpc ∧
    s.csrRead (.dp r c) 0x009 = some (BitVec.ofNat 64 (s.climb cid).tcause) ∧
    s.csrRead (.dp r c) 0x00A = some (s.climb cid).tval ∧
    s.csrRead (.dp r c) 0x00B = some (if (s.climb cid).trapActive then 1 else 0) ∧
    s.csrRead (.dp r c) 0x011 = some (BitVec.ofNat 64 (s.climb cid).tlast) ∧
    s.csrRead (.dp r c) 0x020 = some (BitVec.ofNat 64 (s.climb cid).run) ∧
    s.csrRead (.dp r c) 0x021 = some (BitVec.ofNat 64 (s.wdLimit (cid / 1024))) ∧
    (∀ k < 16, s.csrRead (.dp r c) (0x040 + k) = some (BitVec.ofNat 64 (hlenReg ((s.climb cid).h.getD k nullH)))) ∧
    (∀ n, 0x800 ≤ n → s.csrRead (.dp r c) n = none)) ∧
  (∀ (s : State) (m : Nat),
    s.csrRead (.mg m) 0x008 = some (s.mcore m).tpc ∧ s.csrRead (.mg m) 0x009 = some (BitVec.ofNat 64 (s.mcore m).tcause) ∧
    s.csrRead (.mg m) 0x00A = some (s.mcore m).tval ∧ s.csrRead (.mg m) 0x00B = some (if (s.mcore m).trapActive then 1 else 0) ∧
    s.csrRead (.mg m) 0x800 = some (s.mcore m).trapvec ∧ s.csrRead (.mg m) 0x801 = some (BitVec.ofNat 64 (s.mcore m).irqmask) ∧
    s.csrRead (.mg m) 0x802 = some (BitVec.ofNat 64 (s.irqLines m)) ∧ s.csrRead (.mg m) 0x803 = some (s.mcore m).fwscratch ∧
    s.csrRead (.mg m) 0x804 = some (BitVec.ofNat 64 m) ∧ s.csrRead (.mg m) 0x805 = some (s.mcore m).syscount ∧
    (∀ n ∈ [0x000, 0x001, 0x002, 0x003, 0x004, 0x010, 0x011, 0x020, 0x021], s.csrRead (.mg m) n = some 0) ∧
    (∀ k < 16, s.csrRead (.mg m) (0x040 + k) = some 0))

/-- R97. -/
def Obligations.TokenInstructionsConsumeAndBlock : Prop :=
  (∀ (s : State) (r c cid : Nat) (rd : BitVec 5) (k : BitVec 3) (w : W64) (i : Instr),
    i ∈ [.wait (.dp r c) rd k, .poll (.dp r c) rd k] → s.issues (.dp r c) = true → s.agentCid (.dp r c) = some cid →
    s.tok cid k.toNat = .done w →
    gives i s (s.setClimb cid { s.climb cid with
      t := (s.climb cid).t.set k.toNat .idle, pc := (s.climb cid).pc + 4,
      g := if rd = 0 then (s.climb cid).g else (s.climb cid).g.set rd.toNat w })) ∧
  (∀ (s : State) (r c cid k : Nat) (rd : BitVec 5) (mask : BitVec 8) (w : W64),
    s.issues (.dp r c) = true → s.agentCid (.dp r c) = some cid → k < 8 → bit mask.toNat k = true → s.tok cid k = .done w →
    (∀ j < k, bit mask.toNat j = true → Tok.isDone (s.tok cid j) = false) →
    gives (.waitany (.dp r c) rd mask) s (s.setClimb cid { s.climb cid with
      t := (s.climb cid).t.set k .idle, tlast := k, pc := (s.climb cid).pc + 4,
      g := if rd = 0 then (s.climb cid).g else (s.climb cid).g.set rd.toNat w })) ∧
  (∀ (s : State) (r c cid : Nat) (rd : BitVec 5) (k : BitVec 3),
    s.issues (.dp r c) = true → s.agentCid (.dp r c) = some cid → s.tok cid k.toNat = .pending →
    gives (.poll (.dp r c) rd k) s (s.setClimb cid { s.climb cid with
      pc := (s.climb cid).pc + 4, g := if rd = 0 then (s.climb cid).g else (s.climb cid).g.set rd.toNat (~~~0) })) ∧
  (∀ (s : State) (r c cid : Nat) (i : Instr) (rd : BitVec 5) (k : BitVec 3) (mask : BitVec 8),
    s.issues (.dp r c) = true → s.agentCid (.dp r c) = some cid →
    (i = .wait (.dp r c) rd k ∧ s.tok cid k.toNat = .pending ∧ mask.toNat = 2 ^ k.toNat) ∨
    (i = .waitany (.dp r c) rd mask ∧ (∀ j < 8, bit mask.toNat j = true → Tok.isDone (s.tok cid j) = false) ∧
      ∃ j < 8, bit mask.toNat j = true ∧ s.tok cid j = .pending) →
    ∃ t, gives i s t ∧ t.climb cid = { s.climb cid with
        state := .waiting, await := .token mask.toNat, run := 0, since := s.time, stamp := s.stamp } ∧
      (∀ n, n ≠ cid → t.climb n = s.climb n) ∧
      (∀ q, (t.core q).running = if (s.climb cid).core = some q ∧ (s.core q).running = some cid then none else (s.core q).running) ∧
      t = { s with climbs := t.climbs, cores := t.cores, stamp := s.stamp + 1 }) ∧
  (∀ (s : State) (r c cid : Nat) (i : Instr) (rd : BitVec 5) (k : BitVec 3) (mask : BitVec 8) (cause v : Nat),
    s.issues (.dp r c) = true → s.agentCid (.dp r c) = some cid → trapReady (.dp r c) s = true →
    (i ∈ [.wait (.dp r c) rd k, .poll (.dp r c) rd k] ∧ s.tok cid k.toNat = .idle ∧ cause = 0x08 ∧ v = k.toNat) ∨
    (i = .waitany (.dp r c) rd mask ∧ (∀ j < 8, bit mask.toNat j = true → s.tok cid j = .idle) ∧
      cause = 0x08 ∧ v < 8 ∧ bit mask.toNat v = true ∧ ∀ j < v, bit mask.toNat j = false) ∨
    (i = .waitany (.dp r c) rd 0 ∧ cause = 0x0A ∧ v = 0) →
    ∃ t, gives i s t ∧ trapTaken (.dp r c) s t cause (BitVec.ofNat 64 v) (s.pcOf (.dp r c)))

/-- R51, R52 and R82; where a buffer lies and which slot it takes are free (log entries 3 and 17). -/
def Obligations.HandleInstructionsAllocateAndCut : Prop :=
  (∀ (s : State) (r c cid n : Nat) (hd : BitVec 4) (ga : BitVec 5),
    s.issues (.dp r c) = true → s.agentCid (.dp r c) = some cid → n = (s.getG (.dp r c) ga).toNat → 0 < n → n ≤ 0x1000000 →
    hd.toNat + ceilDiv n 0x100000 ≤ 16 → s.allocQueued cid = false → s.allocable (cid / 1024) n (s.climb cid).bg = true →
    (∃ k < 8191, Tbl.find s.bufs (8192 * (cid / 1024) + k) = none) →
    ∃ t slot b, gives (.halloc (.dp r c) hd ga) s t ∧ slot < 8191 ∧ Tbl.find s.bufs (8192 * (cid / 1024) + slot) = none ∧
      s.gransFree (cid / 1024) b (ceilDiv n 1024) = true ∧
      t = { s with climbs := t.climbs, freeCtr := s.freeCtr + 2,
                   bufs := Tbl.set s.bufs (8192 * (cid / 1024) + slot) { base := b, grans := ceilDiv n 1024, bytes := n, owner := cid } } ∧
      t.climb cid = { s.climb cid with
        pc := (s.climb cid).pc + 4,
        h := (s.climb cid).h.take hd.toNat
          ++ (List.range (ceilDiv n 0x100000)).map (fun i => mkH slot (Tbl.getD s.gens (8192 * (cid / 1024) + slot) 0) (i * 0x100000) (min 0x100000 (n - i * 0x100000)))
          ++ (s.climb cid).h.drop (hd.toNat + ceilDiv n 0x100000) } ∧
      (∀ k, k ≠ cid → t.climb k = s.climb k)) ∧
  (∀ (s : State) (r c cid n : Nat) (hd : BitVec 4) (ga : BitVec 5),
    s.issues (.dp r c) = true → s.agentCid (.dp r c) = some cid → n = (s.getG (.dp r c) ga).toNat → 0 < n → n ≤ 0x1000000 →
    hd.toNat + ceilDiv n 0x100000 ≤ 16 → (s.allocQueued cid = true ∨ s.allocable (cid / 1024) n (s.climb cid).bg = false) →
    ∃ t, gives (.halloc (.dp r c) hd ga) s t ∧ t.climb cid = { s.climb cid with
        state := .waiting, await := .alloc n hd.toNat, since := s.time, stamp := s.stamp } ∧
      t = { s with climbs := t.climbs, cores := t.cores, stamp := s.stamp + 1 }) ∧
  (∀ (s : State) (r c cid : Nat) (hs : BitVec 4), s.issues (.dp r c) = true → s.agentCid (.dp r c) = some cid →
    s.liveH (cid / 1024) (s.getH cid hs) = true → (s.bufOf (cid / 1024) (s.getH cid hs)).owner = cid →
    s.jobNames (cid / 1024) (hSlot (s.getH cid hs)) = false → s.windowNames (cid / 1024) (hSlot (s.getH cid hs)) = false →
    ∃ t, gives (.hfree (.dp r c) hs) s t ∧
      t.climb cid = { s.climb cid with pc := (s.climb cid).pc + 4, h := (s.climb cid).h.set hs.toNat nullH } ∧
      (∀ k, k ≠ cid → t.climb k = s.climb k) ∧
      t = { s with climbs := t.climbs, bufs := Tbl.del s.bufs (8192 * (cid / 1024) + hSlot (s.getH cid hs)),
                   gens := Tbl.set s.gens (8192 * (cid / 1024) + hSlot (s.getH cid hs)) ((hGen (s.getH cid hs) + 1) % 128),
                   wipes := Tbl.set s.wipes (24576 * (cid / 1024) + (s.bufOf (cid / 1024) (s.getH cid hs)).base)
                     (s.bufOf (cid / 1024) (s.getH cid hs)).grans }) ∧
  (∀ (s : State) (r c cid o n : Nat) (hd hs : BitVec 4) (ga gb : BitVec 5),
    s.issues (.dp r c) = true → s.agentCid (.dp r c) = some cid → o = (s.getG (.dp r c) ga).toNat → n = (s.getG (.dp r c) gb).toNat →
    s.liveH (cid / 1024) (s.getH cid hs) = true → 0 < n → n ≤ 0x100000 → o < hLen (s.getH cid hs) → o + n ≤ hLen (s.getH cid hs) →
    gives (.hslice (.dp r c) hd hs ga gb) s (s.setClimb cid { s.climb cid with
      pc := (s.climb cid).pc + 4,
      h := (s.climb cid).h.set hd.toNat
        (mkH (hSlot (s.getH cid hs)) (hGen (s.getH cid hs)) (hOff (s.getH cid hs) + o) n) })) ∧
  (∀ (s : State) (r c cid n : Nat) (hd hs : BitVec 4) (ga : BitVec 5),
    s.issues (.dp r c) = true → s.agentCid (.dp r c) = some cid → n = (s.getG (.dp r c) ga).toNat →
    s.liveH (cid / 1024) (s.getH cid hs) = true → hd ≠ hs → 0 < n → n < hLen (s.getH cid hs) →
    gives (.hsplit (.dp r c) hd hs ga) s (s.setClimb cid { s.climb cid with
      pc := (s.climb cid).pc + 4,
      h := ((s.climb cid).h.set hd.toNat
          (mkH (hSlot (s.getH cid hs)) (hGen (s.getH cid hs)) (hOff (s.getH cid hs) + n) (hLen (s.getH cid hs) - n))).set hs.toNat
          (mkH (hSlot (s.getH cid hs)) (hGen (s.getH cid hs)) (hOff (s.getH cid hs)) n) })) ∧
  (∀ (s : State) (r c cid n : Nat) (hd hs : BitVec 4) (ga : BitVec 5),
    s.issues (.dp r c) = true → s.agentCid (.dp r c) = some cid → n = (s.getG (.dp r c) ga).toNat → Mem.wf s.mem = true →
    s.liveH (cid / 1024) (s.getH cid hs) = true → s.liveH (cid / 1024) (s.getH cid hd) = true → 0 < n → n ≤ 4096 →
    n ≤ hLen (s.getH cid hs) → n ≤ hLen (s.getH cid hd) →
    ∃ t, gives (.hcopy (.dp r c) hd hs ga) s t ∧ t = { s with climbs := t.climbs, mem := t.mem } ∧
      t.climb cid = { s.climb cid with pc := (s.climb cid).pc + 4 } ∧
      (∀ i < n, Mem.read t.mem (s.hAddr (cid / 1024) (s.getH cid hd) + i) = Mem.read s.mem (s.hAddr (cid / 1024) (s.getH cid hs) + i)) ∧
      (∀ x, x < s.hAddr (cid / 1024) (s.getH cid hd) ∨ s.hAddr (cid / 1024) (s.getH cid hd) + n ≤ x →
        Mem.read t.mem x = Mem.read s.mem x)) ∧
  (∀ (s : State) (r c cid cause : Nat) (i : Instr) (v : W64) (hd hs : BitVec 4) (ga gb : BitVec 5),
    s.issues (.dp r c) = true → s.agentCid (.dp r c) = some cid → trapReady (.dp r c) s = true →
    (i ∈ [.hfree (.dp r c) hs, .hslice (.dp r c) hd hs ga gb, .hsplit (.dp r c) hd hs ga, .hcopy (.dp r c) hd hs ga] ∧
      s.liveH (cid / 1024) (s.getH cid hs) = false ∧ cause = 0x06 ∧ v = s.getH cid hs) ∨
    (i = .halloc (.dp r c) hd ga ∧ v = s.getG (.dp r c) ga ∧ cause = 0x0A ∧
      (v = 0 ∨ 0x1000000 < v.toNat ∨ 16 < hd.toNat + ceilDiv v.toNat 0x100000)) ∨
    (i = .hfree (.dp r c) hs ∧ v = s.getH cid hs ∧ s.liveH (cid / 1024) v = true ∧
      (((s.bufOf (cid / 1024) v).owner ≠ cid ∧ cause = 0x0A) ∨
       ((s.bufOf (cid / 1024) v).owner = cid ∧ cause = 0x09 ∧
        (s.jobNames (cid / 1024) (hSlot v) = true ∨ s.windowNames (cid / 1024) (hSlot v) = true)))) ∨
    (i = .hslice (.dp r c) hd hs ga gb ∧ s.liveH (cid / 1024) (s.getH cid hs) = true ∧
      (((s.getG (.dp r c) gb = 0 ∨ 0x100000 < (s.getG (.dp r c) gb).toNat) ∧ cause = 0x0A ∧ v = s.getG (.dp r c) gb) ∨
       (0 < (s.getG (.dp r c) gb).toNat ∧ (s.getG (.dp r c) gb).toNat ≤ 0x100000 ∧ cause = 0x05 ∧ v = s.getH cid hs ∧
        hLen (s.getH cid hs) < (s.getG (.dp r c) ga).toNat + (s.getG (.dp r c) gb).toNat))) ∨
    (i = .hsplit (.dp r c) hd hs ga ∧ s.liveH (cid / 1024) (s.getH cid hs) = true ∧
      ((hd = hs ∧ cause = 0x0A ∧ v = s.getG (.dp r c) ga) ∨
       (hd ≠ hs ∧ hLen (s.getH cid hs) < (s.getG (.dp r c) ga).toNat ∧ cause = 0x05 ∧ v = s.getH cid hs))) →
    ∃ t, gives i s t ∧ trapTaken (.dp r c) s t cause v (s.pcOf (.dp r c)))

/-- R98 with R37, R38, R46 to R50. -/
def Obligations.ClimbInstructionsSpawnParkYieldExit : Prop :=
  (∀ (s : State) (r c cid ch slot mask : Nat) (k : BitVec 3) (r1 r2 : BitVec 5),
    s.issues (.dp r c) = true → s.agentCid (.dp r c) = some cid → (s.climb cid).state ≠ .free → s.tok cid k.toNat = .idle →
    slot = (s.getG (.dp r c) r1).toNat → mask = (s.getG (.dp r c) r2).toNat → slot ≤ 255 → (s.route slot).valid = true →
    ((s.route (s.climb cid).slot).opened = true → (s.route slot).opened = true) → mask < 65536 →
    (if (s.route slot).bg then 0 else s.reserve (cid / 1024)) < s.freeClimbs (cid / 1024) → s.oldestFree (cid / 1024) = some ch →
    ∃ t, gives (.spawn (.dp r c) k r1 r2) s t ∧
      t.climb ch = { Climb.fresh with
        state := .ready, core := s.homeCore (cid / 1024), bg := (s.route slot).bg, slot := slot,
        g := (List.range 32).map (fun i => if 1 ≤ i ∧ i ≤ 6 then (s.climb cid).g.getD i 0 else 0),
        h := (List.range 16).map (fun i => if bit mask i then (s.climb cid).h.getD i nullH else nullH),
        pc := BitVec.ofNat 64 (s.route slot).entry, parent := some cid, parentTok := k.toNat, origin := .spawn,
        since := s.time, stamp := s.stamp } ∧
      t.climb cid = { s.climb cid with t := (s.climb cid).t.set k.toNat .pending, pc := (s.climb cid).pc + 4 } ∧
      (∀ n, n ≠ cid → n ≠ ch → t.climb n = s.climb n) ∧
      (∀ x, Mem.read t.mem x = if localAddr ch ≤ x ∧ x < localAddr ch + 512 then 0 else Mem.read s.mem x) ∧
      t = { s with climbs := t.climbs, mem := t.mem, stamp := s.stamp + 1 }) ∧
  (∀ (s : State) (r c cid slot mask : Nat) (k : BitVec 3) (r1 r2 : BitVec 5),
    s.issues (.dp r c) = true → s.agentCid (.dp r c) = some cid → s.tok cid k.toNat = .idle →
    slot = (s.getG (.dp r c) r1).toNat → mask = (s.getG (.dp r c) r2).toNat → slot ≤ 255 → (s.route slot).valid = true →
    ((s.route (s.climb cid).slot).opened = true → (s.route slot).opened = true) → mask < 65536 →
    s.freeClimbs (cid / 1024) ≤ (if (s.route slot).bg then 0 else s.reserve (cid / 1024)) →
    gives (.spawn (.dp r c) k r1 r2) s (s.setClimb cid { s.climb cid with
      t := (s.climb cid).t.set k.toNat (.done (cplWord 0x40 0x1F 0)), pc := (s.climb cid).pc + 4 })) ∧
  (∀ (s : State) (r c cid cause : Nat) (k : BitVec 3) (r1 r2 : BitVec 5) (v : W64),
    s.issues (.dp r c) = true → s.agentCid (.dp r c) = some cid → trapReady (.dp r c) s = true →
    (s.tok cid k.toNat ≠ .idle ∧ cause = 0x07 ∧ v = BitVec.ofNat 64 k.toNat) ∨
    (s.tok cid k.toNat = .idle ∧ cause = 0x0A ∧ v = s.getG (.dp r c) r1 ∧
      (255 < v.toNat ∨ (s.route v.toNat).valid = false ∨
        ((s.route (s.climb cid).slot).opened = true ∧ (s.route v.toNat).opened = false))) →
    ∃ t, gives (.spawn (.dp r c) k r1 r2) s t ∧ trapTaken (.dp r c) s t cause v (s.pcOf (.dp r c))) ∧
  (∀ (s : State) (r c cid : Nat) (r1 r2 : BitVec 5),
    s.issues (.dp r c) = true → s.agentCid (.dp r c) = some cid → (s.climb cid).wakePending = true →
    gives (.park (.dp r c) r1 r2) s (s.setClimb cid { s.climb cid with
      wakePending := false, run := 0, pc := (s.climb cid).pc + 4,
      g := if r1 = 0 then (s.climb cid).g else (s.climb cid).g.set r1.toNat 0 })) ∧
  (∀ (s : State) (r c cid : Nat) (r1 r2 : BitVec 5),
    s.issues (.dp r c) = true → s.agentCid (.dp r c) = some cid → (s.climb cid).wakePending = false →
    ∃ t, gives (.park (.dp r c) r1 r2) s t ∧
      t.climb cid = { s.climb cid with
        state := .parked, core := none, run := 0, since := s.time, stamp := s.stamp, parkRd := r1.toNat,
        deadline := if s.getG (.dp r c) r2 = 0 then none else some (s.time + s.getG (.dp r c) r2) } ∧
      (∀ n, n ≠ cid → t.climb n = s.climb n) ∧ t = { s with climbs := t.climbs, cores := t.cores, stamp := s.stamp + 1 }) ∧
  (∀ (s : State) (r c cid : Nat), s.issues (.dp r c) = true → s.agentCid (.dp r c) = some cid →
    ∃ t, gives (.yield (.dp r c)) s t ∧
      t.climb cid = { s.climb cid with
        state := .ready, pc := (s.climb cid).pc + 4, run := 0, since := s.time, stamp := s.stamp } ∧
      (∀ n, n ≠ cid → t.climb n = s.climb n) ∧ t = { s with climbs := t.climbs, cores := t.cores, stamp := s.stamp + 1 }) ∧
  (∀ (s : State) (r c cid code : Nat) (r1 : BitVec 5),
    s.issues (.dp r c) = true → s.agentCid (.dp r c) = some cid → (s.climb cid).trapActive = false →
    (s.climb cid).origin = .spawn → code = (s.getG (.dp r c) r1).toNat % 256 → (s.climb cid).t.any Tok.isPending = false →
    s.liveChild cid = false → s.ownedBufs cid = [] → (s.climb cid).parent ≠ some cid →
    ∃ t, gives (.exit (.dp r c) r1) s t ∧
      (t.climb cid).state = .free ∧ (t.climb cid).core = none ∧ (t.climb cid).ended = .exit code ∧
      (∀ p, (s.climb cid).parent = some p → (s.climb p).ended = .running →
        (t.climb p).t = (s.climb p).t.set (s.climb cid).parentTok (.done (cplWord 0 0x1F code))))

/-- R76, with R24, R474 and R198. -/
def Obligations.LoadsAndStoresReachMemory : Prop :=
  (∀ (s : State) (a : Agent) (rd ra : BitVec 5) (imm : BitVec 16) (p : Instr × Nat) (x : Nat) (r : Region),
    p ∈ [(.ldB a rd ra imm .none, 1), (.ldH a rd ra imm .none, 2), (.ldW a rd ra imm .none, 4), (.ldD a rd ra imm .none, 8)] →
    s.issues a = true → s.filesWhole a = true → x = (s.getG a ra + imm.signExtend 64).toNat → x % p.2 = 0 →
    s.decodeAddr x p.2 = some r → s.wardOk (s.profileOf (masterOf a)) (s.agentCid a) r x p.2 false = true →
    (r = .dram ∧ s.mapc.wiping = false ∧ x / 256 ∉ s.poisoned) ∨ (∃ n, r = .rbuf n) ∨ ((∃ n, r = .store n) ∧ 512 ≤ x % 1024) →
    ∃ t, gives p.1 s t ∧
      t.getG a rd = (if rd = 0 then 0 else BitVec.ofNat 64 (leNat (Mem.readBytes s.mem x p.2))) ∧
      (∀ y, y ≠ rd → t.getG a y = s.getG a y) ∧ t.pcOf a = s.pcOf a + 4 ∧
      t = { s with climbs := t.climbs, mcores := t.mcores, regs := t.regs, mapc := t.mapc, stamp := t.stamp, freeCtr := t.freeCtr }) ∧
  (∀ (s : State) (a : Agent) (rs ra : BitVec 5) (imm : BitVec 16) (p : Instr × Nat) (x : Nat) (r : Region),
    p ∈ [(.stB a rs ra imm .none, 1), (.stH a rs ra imm .none, 2), (.stW a rs ra imm .none, 4), (.stD a rs ra imm .none, 8)] →
    s.issues a = true → s.filesWhole a = true → Mem.wf s.mem = true → x = (s.getG a ra + imm.signExtend 64).toNat → x % p.2 = 0 →
    s.decodeAddr x p.2 = some r → s.wardOk (s.profileOf (masterOf a)) (s.agentCid a) r x p.2 true = true →
    (r = .dram ∧ s.mapc.wiping = false) ∨ (∃ n, r = .rbuf n) ∨ ((∃ n, r = .store n) ∧ 512 ≤ x % 1024) →
    ∃ t, gives p.1 s t ∧ Mem.readBytes t.mem x p.2 = leBytes p.2 (s.getG a rs).toNat ∧
      (∀ y, y < x ∨ x + p.2 ≤ y → Mem.read t.mem y = Mem.read s.mem y) ∧
      (∀ y, t.getG a y = s.getG a y) ∧ t.pcOf a = s.pcOf a + 4 ∧
      t = { s with climbs := t.climbs, mcores := t.mcores, mem := t.mem, regs := t.regs, mapc := t.mapc, stamp := t.stamp, freeCtr := t.freeCtr }) ∧
  (∀ (s : State) (a : Agent) (rd ra : BitVec 5) (imm : BitVec 16) (f : MemFault) (p : Instr × Nat) (addr : W64),
    p ∈ [(.ldB a rd ra imm f, 1), (.ldH a rd ra imm f, 2), (.ldW a rd ra imm f, 4), (.ldD a rd ra imm f, 8),
         (.stB a rd ra imm f, 1), (.stH a rd ra imm f, 2), (.stW a rd ra imm f, 4), (.stD a rd ra imm f, 8)] →
    s.issues a = true → trapReady a s = true → addr = s.getG a ra + imm.signExtend 64 → addr.toNat % p.2 ≠ 0 →
    ∃ t, gives p.1 s t ∧ trapTaken a s t 0x02 addr (s.pcOf a)) ∧
  (∀ (s : State) (r c : Nat) (rd ra : BitVec 5) (imm : BitVec 16) (f : MemFault) (p : Instr × Nat × Bool) (x : Nat),
    p ∈ [(.ldB (.dp r c) rd ra imm f, 1, false), (.ldH (.dp r c) rd ra imm f, 2, false), (.ldW (.dp r c) rd ra imm f, 4, false),
         (.ldD (.dp r c) rd ra imm f, 8, false), (.stB (.dp r c) rd ra imm f, 1, true), (.stH (.dp r c) rd ra imm f, 2, true),
         (.stW (.dp r c) rd ra imm f, 4, true), (.stD (.dp r c) rd ra imm f, 8, true)] →
    s.issues (.dp r c) = true → x = (s.getG (.dp r c) ra + imm.signExtend 64).toNat → x % p.2.1 = 0 →
    (s.decodeAddr x p.2.1 = none →
      gives p.1 s ((s.decodeError (4 * r + c) x).trapHere (.dp r c) 0x03 (BitVec.ofNat 64 x))) ∧
    (∀ g, s.decodeAddr x p.2.1 = some g → g ≠ .ctl →
      s.wardOk (s.profileOf (4 * r + c)) (s.agentCid (.dp r c)) g x p.2.1 p.2.2 = false →
      gives p.1 s (s.violate (4 * r + c) x p.2.2 none)) ∧
    (s.decodeAddr x p.2.1 = some .dram → s.mapc.wiping = true →
      s.wardOk (s.profileOf (4 * r + c)) (s.agentCid (.dp r c)) .dram x p.2.1 p.2.2 = true → gives p.1 s s))

/-- R77 and R34; that the wards do not judge an access through a handle is the model's reading (log entry 13). -/
def Obligations.HandleAccessesReachTheBuffer : Prop :=
  (∀ (s : State) (r c cid x n : Nat) (rd ra : BitVec 5) (h : BitVec 4) (size : BitVec 2) (imm : BitVec 10),
    s.issues (.dp r c) = true → s.agentCid (.dp r c) = some cid → s.filesWhole (.dp r c) = true → n = 2 ^ size.toNat →
    s.liveH (cid / 1024) (s.getH cid h) = true → (s.getG (.dp r c) ra).toNat + imm.toNat + n ≤ hLen (s.getH cid h) →
    x = s.hAddr (cid / 1024) (s.getH cid h) + ((s.getG (.dp r c) ra).toNat + imm.toNat) → x % n = 0 →
    ∃ t, gives (.hld (.dp r c) rd h ra size imm) s t ∧
      t.getG (.dp r c) rd = (if rd = 0 then 0 else BitVec.ofNat 64 (leNat (Mem.readBytes s.mem x n))) ∧
      (∀ y, y ≠ rd → t.getG (.dp r c) y = s.getG (.dp r c) y) ∧ t.pcOf (.dp r c) = s.pcOf (.dp r c) + 4 ∧
      onlyRegs (.dp r c) s t) ∧
  (∀ (s : State) (r c cid x n : Nat) (rs ra : BitVec 5) (h : BitVec 4) (size : BitVec 2) (imm : BitVec 10),
    s.issues (.dp r c) = true → s.agentCid (.dp r c) = some cid → n = 2 ^ size.toNat → Mem.wf s.mem = true →
    s.liveH (cid / 1024) (s.getH cid h) = true → (s.getG (.dp r c) ra).toNat + imm.toNat + n ≤ hLen (s.getH cid h) →
    x = s.hAddr (cid / 1024) (s.getH cid h) + ((s.getG (.dp r c) ra).toNat + imm.toNat) → x % n = 0 →
    ∃ t, gives (.hst (.dp r c) rs h ra size imm) s t ∧ Mem.readBytes t.mem x n = leBytes n (s.getG (.dp r c) rs).toNat ∧
      (∀ y, y < x ∨ x + n ≤ y → Mem.read t.mem y = Mem.read s.mem y) ∧
      t = { s.setClimb cid { s.climb cid with pc := (s.climb cid).pc + 4 } with mem := t.mem }) ∧
  (∀ (s : State) (r c cid n cause : Nat) (g ra : BitVec 5) (h : BitVec 4) (size : BitVec 2) (imm : BitVec 10) (v : W64) (i : Instr),
    i ∈ [.hld (.dp r c) g h ra size imm, .hst (.dp r c) g h ra size imm] → s.issues (.dp r c) = true →
    s.agentCid (.dp r c) = some cid → trapReady (.dp r c) s = true → n = 2 ^ size.toNat →
    (s.liveH (cid / 1024) (s.getH cid h) = false ∧ cause = 0x06 ∧ v = s.getH cid h) ∨
    (s.liveH (cid / 1024) (s.getH cid h) = true ∧ hLen (s.getH cid h) < (s.getG (.dp r c) ra).toNat + imm.toNat + n ∧
      cause = 0x05 ∧ v = s.getH cid h) ∨
    (s.liveH (cid / 1024) (s.getH cid h) = true ∧ (s.getG (.dp r c) ra).toNat + imm.toNat + n ≤ hLen (s.getH cid h) ∧
      (s.hAddr (cid / 1024) (s.getH cid h) + ((s.getG (.dp r c) ra).toNat + imm.toNat)) % n ≠ 0 ∧ cause = 0x02 ∧
      v = BitVec.ofNat 64 (s.hAddr (cid / 1024) (s.getH cid h) + ((s.getG (.dp r c) ra).toNat + imm.toNat))) →
    ∃ t, gives i s t ∧ trapTaken (.dp r c) s t cause v (s.pcOf (.dp r c))) ∧
  (∀ (s : State) (m : Nat) (i : Instr), coreOf i = some (.mg m) → s.issues (.mg m) = true → trapReady (.mg m) s = true →
    (∃ w, ezEncode i = some w ∧ ((w.extractLsb' 26 6).toNat ∈ [0x14, 0x15, 0x20, 0x21, 0x22] ∨
      ((w.extractLsb' 26 6).toNat = 0x23 ∧ (w.extractLsb' 0 3).toNat ≠ 4))) →
    ∃ w t, ezEncode i = some w ∧ gives i s t ∧ trapTaken (.mg m) s t 0x01 (w.setWidth 64) (s.pcOf (.mg m)))

/-- R78. -/
def Obligations.AtomicsReadAndWriteAtOnce : Prop :=
  (∀ (s : State) (a : Agent) (rd ra rb : BitVec 5) (w : Bool) (p : Instr × Option Nat) (x n old : Nat) (r : Region),
    n = (if w then 4 else 8) → x = (s.getG a ra).toNat → old = leNat (Mem.readBytes s.mem x n) →
    p ∈ [(.aadd a rd ra rb w, some ((old + (s.getG a rb).toNat) % 256 ^ n)), (.axchg a rd ra rb w, some ((s.getG a rb).toNat % 256 ^ n)),
         (.acas a rd ra rb w, if old = (s.getG a rd).toNat % 256 ^ n then some ((s.getG a rb).toNat % 256 ^ n) else none)] →
    s.issues a = true → s.filesWhole a = true → Mem.wf s.mem = true → s.atomHome a x = true → x % n = 0 →
    s.decodeAddr x n = some r → s.wardOk (s.profileOf (masterOf a)) (s.agentCid a) r x n true = true →
    (r = .dram ∧ s.mapc.wiping = false ∧ x / 256 ∉ s.poisoned) ∨ ((∃ k, r = .store k) ∧ 512 ≤ x % 1024) →
    ∃ t, gives p.1 s t ∧ t.getG a rd = (if rd = 0 then 0 else BitVec.ofNat 64 old) ∧
      (∀ y, y ≠ rd → t.getG a y = s.getG a y) ∧ t.pcOf a = s.pcOf a + 4 ∧
      leNat (Mem.readBytes t.mem x n) = p.2.getD old ∧
      (∀ y, y < x ∨ x + n ≤ y → Mem.read t.mem y = Mem.read s.mem y)) ∧
  (∀ (s : State) (a : Agent) (rd ra rb : BitVec 5) (w : Bool) (i : Instr) (x n cause : Nat),
    i ∈ [.aadd a rd ra rb w, .axchg a rd ra rb w, .acas a rd ra rb w] → n = (if w then 4 else 8) → x = (s.getG a ra).toNat →
    s.issues a = true → trapReady a s = true →
    (s.atomHome a x = false ∧ cause = 0x0A) ∨ (s.atomHome a x = true ∧ x % n ≠ 0 ∧ cause = 0x02) →
    ∃ t, gives i s t ∧ trapTaken a s t cause (s.getG a ra) (s.pcOf a)) ∧
  (∀ (s : State) (r c : Nat) (rd ra rb : BitVec 5) (w : Bool) (i : Instr) (x n : Nat) (g : Region),
    i ∈ [.aadd (.dp r c) rd ra rb w, .axchg (.dp r c) rd ra rb w, .acas (.dp r c) rd ra rb w] → n = (if w then 4 else 8) →
    x = (s.getG (.dp r c) ra).toNat → s.issues (.dp r c) = true → s.atomHome (.dp r c) x = true → x % n = 0 →
    s.decodeAddr x n = some g → g ≠ .ctl → s.wardOk (s.profileOf (4 * r + c)) (s.agentCid (.dp r c)) g x n true = false →
    gives i s (s.violate (4 * r + c) x true none))

/-- R83 to R86. Which handle a PAR failure names is the model's reading (log entry 22). -/
def Obligations.SendChecksAndQueues : Prop :=
  (∀ (s : State) (r c cid n : Nat) (cls : BitVec 5) (h : BitVec 4) (k : BitVec 3) (gd : BitVec 5) (flags : BitVec 9) (j : Job),
    s.issues (.dp r c) = true → s.agentCid (.dp r c) = some cid → sendListed cls flags = true →
    (s.climbProfile cid = 3 → cls.toNat ∈ [1, 2, 3, 5]) → s.tok cid k.toNat = .idle →
    (s.getG (.dp r c) gd).toNat % 32 = 0 → (s.getG (.dp r c) gd).toNat ≤ 480 →
    j = s.mkJob cid cls.toNat h.toNat k.toNat flags.toNat (s.rdBytes (localAddr cid + (s.getG (.dp r c) gd).toNat) 32) →
    s.staleHandle (cid / 1024) (named cls.toNat j.desc h.toNat (hLen (s.getH cid h))) (s.getH cid h) (s.climb cid).h = none →
    shortHandle cls.toNat h.toNat j.desc (named cls.toNat j.desc h.toNat (hLen (s.getH cid h))) (s.getH cid h) (s.climb cid).h = none →
    n = Tbl.next s.jobs →
    (s.queueFree j = true → s.queueHead j = none → s.jobValid j = true → cls.toNat ∉ [0x0A, 0x0B] →
      (cls.toNat = 9 → s.mpcPresent j.lane = true) →
      gives (.send (.dp r c) cls h k gd flags) s
        { s.setClimb cid { s.climb cid with t := (s.climb cid).t.set k.toNat .pending, pc := (s.climb cid).pc + 4 } with
          jobs := queuedAs s n j }) ∧
    (s.queueFree j = true → s.queueHead j = none → s.jobValid j = false → (s.climb cid).ended = .running →
      ∃ t, gives (.send (.dp r c) cls h k gd flags) s t ∧ (k.toNat < (s.climb cid).t.length → t.tok cid k.toNat = .done (cplWord 1 cls.toNat 0)) ∧
        t.pcOf (.dp r c) = s.pcOf (.dp r c) + 4) ∧
    (s.queueFree j = false ∨ (s.queueHead j).isSome = true →
      ∃ t, gives (.send (.dp r c) cls h k gd flags) s t ∧
        t.climb cid = { s.climb cid with state := .waiting, await := .queue j, since := s.time, stamp := s.stamp } ∧
        t = { s with climbs := t.climbs, cores := t.cores, stamp := s.stamp + 1 })) ∧
  (∀ (s : State) (r c cid cause : Nat) (cls : BitVec 5) (h : BitVec 4) (k : BitVec 3) (gd : BitVec 5) (flags : BitVec 9) (v : W64)
    (nm : Named) (d : Bytes),
    s.issues (.dp r c) = true → s.agentCid (.dp r c) = some cid → trapReady (.dp r c) s = true → sendListed cls flags = true →
    (s.climbProfile cid = 3 → cls.toNat ∈ [1, 2, 3, 5]) →
    d = s.rdBytes (localAddr cid + (s.getG (.dp r c) gd).toNat) 32 → nm = named cls.toNat d h.toNat (hLen (s.getH cid h)) →
    (s.tok cid k.toNat ≠ .idle ∧ cause = 0x07 ∧ v = BitVec.ofNat 64 k.toNat) ∨
    (s.tok cid k.toNat = .idle ∧ ((s.getG (.dp r c) gd).toNat % 32 ≠ 0 ∨ 480 < (s.getG (.dp r c) gd).toNat) ∧ cause = 0x0A ∧
      v = s.getG (.dp r c) gd) ∨
    (s.tok cid k.toNat = .idle ∧ (s.getG (.dp r c) gd).toNat % 32 = 0 ∧ (s.getG (.dp r c) gd).toNat ≤ 480 ∧
      ((s.staleHandle (cid / 1024) nm (s.getH cid h) (s.climb cid).h = some v ∧ cause = 0x06) ∨
       (s.staleHandle (cid / 1024) nm (s.getH cid h) (s.climb cid).h = none ∧
        shortHandle cls.toNat h.toNat d nm (s.getH cid h) (s.climb cid).h = some v ∧ cause = 0x05))) →
    ∃ t, gives (.send (.dp r c) cls h k gd flags) s t ∧ trapTaken (.dp r c) s t cause v (s.pcOf (.dp r c))) ∧
  (∀ (s : State) (r c cid : Nat) (cls : BitVec 5) (h : BitVec 4) (k : BitVec 3) (gd : BitVec 5) (flags : BitVec 9),
    s.issues (.dp r c) = true → s.agentCid (.dp r c) = some cid →
    (sendListed cls flags = false → trapReady (.dp r c) s = true →
      ∃ w t, ezEncode (.send (.dp r c) cls h k gd flags) = some w ∧ gives (.send (.dp r c) cls h k gd flags) s t ∧
        trapTaken (.dp r c) s t 0x01 (w.setWidth 64) (s.pcOf (.dp r c))) ∧
    (sendListed cls flags = true → s.climbProfile cid = 3 → cls.toNat ∉ [1, 2, 3, 5] →
      gives (.send (.dp r c) cls h k gd flags) s (s.violate (s.coreCode cid) 0 false (some cls.toNat)))) ∧
  (∀ (s : State) (ridge cls port cid : Nat) (x : Climb) (j : Job),
    s.queueHead { cid := 1024 * ridge, tok := 0, cls := cls, ordered := false, desc := [], handles := [], ridge := ridge,
                  lane := port, profile := 0 } = some (cid, x) → waitsFor x = some j → s.queueFree j = true →
    s.jobValid j = true → j.cls ∉ [0x0A, 0x0B] → (j.cls = 9 → s.mpcPresent j.lane = true) → j.cid = cid → s.climb cid = x →
    ∃ t, gives (.sendQueueAccept ridge cls port) s t ∧ t.jobs = queuedAs s (Tbl.next s.jobs) j ∧
      t.climb cid = { x with t := x.t.set j.tok .pending, pc := x.pc + 4, await := .none, state := .ready,
                             since := s.time, stamp := s.stamp } ∧
      t = { s with climbs := t.climbs, jobs := t.jobs, stamp := s.stamp + 1 })

/-- R85, R49, R37, R38, R98 and R117 for the end of a job; R10 for flags; the shared operations on registers and memory. -/
def Obligations.SharedOperationsChangeOnePlace : Prop :=
  (∀ (s : State) (n : Nat) (j : Job) (status result : Nat),
    jobEnds s (s.finish n j status result) n j status result ∧ onlyJob j s (s.finish n j status result) ∧
    ((s.climb j.cid).ended = .running → ((s.finish n j status result).climb j.cid).state =
      (match (s.climb j.cid).state, (s.climb j.cid).await with
       | .waiting, .token m => if bit m j.tok then .ready else .waiting
       | x, _ => x)) ∧
    ((s.climb j.cid).ended ≠ .running →
      ((s.finish n j status result).climb j.cid).t = (s.climb j.cid).t.set j.tok .idle)) ∧
  (∀ (s : State) (o r n : Nat), Tbl.sorted s.regs = true →
    (s.bump o 0 64 n).reg r = (if r = o then s.reg o + BitVec.ofNat 64 n else s.reg r) ∧
    Tbl.sorted (s.bump o 0 64 n).regs = true ∧ s.bump o 0 64 n = { s with regs := (s.bump o 0 64 n).regs }) ∧
  (∀ (s : State) (o r m : Nat), Tbl.sorted s.regs = true → o ∉ [rPepEvents, rLopChangedHost, rSbkEvents] →
    (s.raise o m).reg r = (if r = o then s.reg o ||| BitVec.ofNat 64 m else s.reg r) ∧
    Tbl.sorted (s.raise o m).regs = true ∧
    (o ∉ [rPepEventsEn, rSbkEventsEn] → s.raise o m = { s with regs := (s.raise o m).regs })) ∧
  (∀ (s : State) (a x : Nat) (d : Bytes), Mem.wf s.mem = true →
    Mem.read (s.wrBytes a d).mem x = (if a ≤ x ∧ x < a + d.length then d.getD (x - a) 0 else Mem.read s.mem x) ∧
    Mem.wf (s.wrBytes a d).mem = true)

/-- R87, R108, R109 and R112. -/
def Obligations.ChunkerWritesItsBoundaries : Prop :=
  (∀ (s : State) (n maxL carry len : Nat) (j : Job) (out : W64) (ends fits : List Nat),
    s.startable n 1 (fun o => decide (o = 1)) = some j → len = hLen (jh j 0) → out = jh j 1 → 16 ≤ hLen out →
    maxL = fieldAt j.desc 8 4 → carry = fieldAt j.desc 0x0C 4 → 0 < maxL → carry < maxL →
    ends = (List.range (len + 1)).filter (fun p => decide (0 < p) && decide ((carry + p) % maxL = 0))
      ++ (if bit (fieldAt j.desc 3 1) 0 = true ∧ (carry + len) % maxL ≠ 0 then [len] else []) →
    fits = ends.take ((hLen out - 16) / 4) →
    (fits = ends → gives (.chkFixed n) s
      ((((s.hWrite j.ridge out 0
        (leBytes 8 (fieldAt j.desc 0x10 8) ++ leBytes 4 (if bit (fieldAt j.desc 3 1) 0 then 0 else (carry + len) % maxL)
          ++ leBytes 4 ends.length ++ ends.flatMap (leBytes 4))).bump (ridgeBlk j.ridge 5) 0 64 len).bump
        (ridgeBlk j.ridge 5 + 8) 0 64 ends.length).bump (ridgeBlk j.ridge 5 + 0x10) 0 64 0 |>.finish n j 0 ends.length)) ∧
    (fits ≠ ends → gives (.chkFixed n) s
      (((((s.hWrite j.ridge out 0
        ((if fits = [] then leBytes 8 (fieldAt j.desc 0x10 8) ++ leBytes 4 carry else zeros 12)
          ++ leBytes 4 fits.length ++ fits.flatMap (leBytes 4))).bump (ridgeBlk j.ridge 5) 0 64 (fits.getLastD 0)).bump
        (ridgeBlk j.ridge 5 + 8) 0 64 fits.length).bump (ridgeBlk j.ridge 5 + 0x10) 0 64 0).raise (ridgeBlk j.ridge 5 + 0x18) 1
        |>.finish n j 0x10 fits.length))) ∧
  (∀ (s : State) (n maxL : Nat) (j : Job) (out : W64) (x : Cdc),
    s.startable n 1 (fun o => decide (o = 0)) = some j → out = jh j 1 → 16 ≤ hLen out → maxL = fieldAt j.desc 8 4 →
    x = Cdc.run (fieldAt j.desc 4 4) maxL (2 ^ 32 / (2 ^ fieldAt j.desc 2 1 - fieldAt j.desc 4 4))
      (BitVec.ofNat 64 (fieldAt j.desc 0x10 8)) (fieldAt j.desc 0x0C 4) (bit (fieldAt j.desc 3 1) 0) (s.hBytes j.ridge (jh j 0)) →
    (x.ends.length ≤ (hLen out - 16) / 4 → gives (.chkContentDefined n) s
      ((((s.hWrite j.ridge out 0 (leBytes 8 x.hash.toNat ++ leBytes 4 x.l ++ leBytes 4 x.ends.length ++ x.ends.flatMap (leBytes 4))).bump
        (ridgeBlk j.ridge 5) 0 64 (hLen (jh j 0))).bump (ridgeBlk j.ridge 5 + 8) 0 64 x.ends.length).bump
        (ridgeBlk j.ridge 5 + 0x10) 0 64 x.maxs |>.finish n j 0 x.ends.length)) ∧
    ((hLen out - 16) / 4 < x.ends.length →
      ∃ t m, gives (.chkContentDefined n) s t ∧ m ≤ (hLen out - 16) / 4 ∧
        jobEnds s t n j 0x10 ((hLen out - 16) / 4) ∧
        t.mem = (s.hWrite j.ridge out 0
          ((if hLen out < 20 then leBytes 8 (fieldAt j.desc 0x10 8) ++ leBytes 4 (fieldAt j.desc 0x0C 4) else zeros 12)
            ++ leBytes 4 ((hLen out - 16) / 4) ++ (x.ends.take ((hLen out - 16) / 4)).flatMap (leBytes 4))).mem ∧
        t.regs = (((((s.bump (ridgeBlk j.ridge 5) 0 64 ((x.ends.take ((hLen out - 16) / 4)).getLastD 0)).bump
          (ridgeBlk j.ridge 5 + 8) 0 64 ((hLen out - 16) / 4)).bump (ridgeBlk j.ridge 5 + 0x10) 0 64 m).raise
          (ridgeBlk j.ridge 5 + 0x18) 1)).regs))

/-- R88 and R115 to R118. -/
def Obligations.DigestJobsHash : Prop :=
  (∀ (s : State) (n : Nat) (j : Job) (d : Bytes), d = s.hBytes j.ridge (jh j 0) →
    s.startable n 2 (fun o => decide (o = 0)) = some j →
    gives (.digDigest n) s
      ((((s.hWrite j.ridge (jh j 1) 0 (sha256 d)).bump (ridgeBlk j.ridge 6 + 8) 0 64 (hLen (jh j 0))).bump
        (ridgeBlk j.ridge 6 + 0x10) 0 64 1).finish n j 0 0)) ∧
  (∀ (s : State) (n ctx : Nat) (j : Job) (d : Bytes), d = s.hBytes j.ridge (jh j 0) → ctx = 64 * j.ridge + fieldAt j.desc 2 1 →
    (s.startable n 2 (fun o => decide (o = 2)) = some j → (∀ x, Tbl.find s.digs ctx = some x → x.owner = j.cid) →
      gives (.digBegin n) s
        ((({ s with digs := Tbl.set s.digs ctx { owner := j.cid, data := d } }).bump (ridgeBlk j.ridge 6 + 8) 0 64 (hLen (jh j 0))).bump
          (ridgeBlk j.ridge 6 + 0x10) 0 64 1 |>.finish n j 0 0)) ∧
    (∀ x, s.startable n 2 (fun o => decide (o = 3)) = some j → Tbl.find s.digs ctx = some x → x.owner = j.cid →
      gives (.digUpdate n) s
        ((({ s with digs := Tbl.set s.digs ctx { owner := j.cid, data := x.data ++ d } }).bump
          (ridgeBlk j.ridge 6 + 8) 0 64 (hLen (jh j 0))).bump (ridgeBlk j.ridge 6 + 0x10) 0 64 1 |>.finish n j 0 0)) ∧
    (∀ x, s.startable n 2 (fun o => decide (o = 4)) = some j → Tbl.find s.digs ctx = some x → x.owner = j.cid →
      gives (.digFinal n) s
        (((({ s with digs := Tbl.del s.digs ctx }).hWrite j.ridge (jh j 1) 0 (sha256 (x.data ++ d))).bump
          (ridgeBlk j.ridge 6 + 8) 0 64 (hLen (jh j 0))).bump (ridgeBlk j.ridge 6 + 0x10) 0 64 1 |>.finish n j 0 0)) ∧
    (∀ x c, (c = .digBegin n ∧ s.startable n 2 (fun o => decide (o = 2)) = some j) ∨
        (c = .digUpdate n ∧ s.startable n 2 (fun o => decide (o = 3)) = some j) ∨
        (c = .digFinal n ∧ s.startable n 2 (fun o => decide (o = 4)) = some j) →
      Tbl.find s.digs ctx = some x → x.owner ≠ j.cid → gives c s (s.finish n j 1 0)) ∧
    (∀ c, (c = .digUpdate n ∧ s.startable n 2 (fun o => decide (o = 3)) = some j) ∨
        (c = .digFinal n ∧ s.startable n 2 (fun o => decide (o = 4)) = some j) →
      Tbl.find s.digs ctx = none → gives c s (s.finish n j 1 0))) ∧
  (∀ (s : State) (n cnt fit : Nat) (j : Job) (d l : Bytes) (ends : List Nat),
    s.startable n 2 (fun o => decide (o = 1)) = some j → d = s.hBytes j.ridge (jh j 0) → l = s.hBytes j.ridge (jh j 1) →
    cnt = fieldAt l 0x0C 4 → ends = (List.range cnt).map (fun i => fieldAt l (16 + 4 * i) 4) →
    fit = min cnt (hLen (jh j 2) / 48) →
    (16 + 4 * cnt ≤ hLen (jh j 1) → (0 :: ends).Pairwise (· < ·) → (∀ e ∈ ends, e ≤ hLen (jh j 0)) →
      ∃ recs t, gives (.digChunks n) s t ∧ recs.length = 48 * fit ∧
        (∀ i < fit, sliceAt recs (48 * i) 48 =
          sha256 ((d.drop ((0 :: ends).getD i 0)).take (ends.getD i 0 - (0 :: ends).getD i 0))
            ++ leBytes 4 (ends.getD i 0 - (0 :: ends).getD i 0) ++ zeros 12) ∧
        (fit = cnt → t = (((s.hWrite j.ridge (jh j 2) 0 recs).bump (ridgeBlk j.ridge 6 + 8) 0 64 (ends.getLastD 0)).bump
          (ridgeBlk j.ridge 6 + 0x10) 0 64 1).finish n j 0 cnt) ∧
        (fit < cnt → t = ((((s.hWrite j.ridge (jh j 2) 0 recs).raise (ridgeBlk j.ridge 6 + 0x18) 1).bump
          (ridgeBlk j.ridge 6 + 8) 0 64 ((ends.take fit).getLastD 0)).bump (ridgeBlk j.ridge 6 + 0x10) 0 64 1).finish n j 0x10 fit)) ∧
    (hLen (jh j 1) < 16 + 4 * cnt ∨ ¬ (0 :: ends).Pairwise (· < ·) ∨ (∃ e ∈ ends, hLen (jh j 0) < e) →
      gives (.digChunks n) s ((((s.raise (ridgeBlk j.ridge 6 + 0x18) 2).bump (ridgeBlk j.ridge 6 + 8) 0 64 0).bump
        (ridgeBlk j.ridge 6 + 0x10) 0 64 1).finish n j 0x11 0))) ∧
  (∀ (s : State) (n m : Nat) (j k : Job) (c : Instr),
    c ∈ [.digDigest n, .digChunks n, .digBegin n, .digUpdate n, .digFinal n] →
    Tbl.find s.jobs n = some j → (m, k) ∈ s.jobs → m < n → j.cls = 2 → k.cls = 2 →
    (j.ordered = true ∧ k.cid = j.cid) ∨
      (k.ridge = j.ridge ∧ 2 ≤ jobOp j ∧ 2 ≤ jobOp k ∧ fieldAt k.desc 2 1 = fieldAt j.desc 2 1) →
    gives c s s)

/-- R92 and R127 to R135. What the spec leaves open in them is as log entries 78 and 79 say (the model's reading or choice). -/
def Obligations.IndexJobsProbeInsertRemove : Prop :=
  (∀ (s : State) (n o : Nat) (r : Bool) (j : Job) (c : Instr),
    (c = .idxProbe n r ∧ o = 0) ∨ (c = .idxInsert n ∧ o = 1) ∨ (c = .idxRemove n ∧ o = 2) →
    s.startable n 6 (fun x => decide (x = o)) = some j →
    (s.mapc.wiping = true → gives c s s) ∧
    (s.mapc.wiping = false → bit (s.rdNat (s.regBits (ridgeBlk j.ridge 9) 0 48 + 64 * fieldAt j.desc 2 1) 1) 0 = false →
      ∃ t, gives c s t ∧ jobEnds s t n j 0x13 0 ∧ t.mem = s.mem ∧ t.idxStore = s.idxStore ∧ t.idxRuns = s.idxRuns)) ∧
  (∀ (s : State) (n o : Nat) (r : Bool) (j : Job) (c : Instr),
    (c = .idxProbe n r ∧ o = 0) ∨ (c = .idxInsert n ∧ o = 1) ∨ (c = .idxRemove n ∧ o = 2) →
    s.startable n 6 (fun x => decide (x = o)) = some j → s.mapc.wiping = false →
    bit (s.rdNat (s.regBits (ridgeBlk j.ridge 9) 0 48 + 64 * fieldAt j.desc 2 1) 1) 0 = true →
    ∃ t k, gives c s t ∧ k ≤ fieldAt j.desc 4 4 ∧ jobEnds s t n j (if o = 0 ∨ k = 0 then 0 else 0x10 + o) k ∧
      (o = 0 → t.idxStore = s.idxStore ∧ t.idxRuns = s.idxRuns)) ∧
  (∀ (s : State) (n pool len h base log2b b1 b2 lb cap m : Nat) (r : Bool) (j : Job) (dig : Bytes) (ridge : Nat),
    ridge = j.ridge → pool = fieldAt j.desc 2 1 → s.idxDesc ridge pool = (true, base, log2b) → fieldAt j.desc 4 4 = 1 →
    s.idxRecord j 0 = (dig, len, h) → (b1, b2) = buckets dig log2b → s.mapc.wiping = false → Tbl.sorted s.regs = true →
    s.idxLogAt ridge pool = (lb, cap) → m = (s.idxLog pool).length →
    (∀ e so ovf ms, s.startable n 6 (fun x => decide (x = 0)) = some j → so = bit (fieldAt j.desc 3 1) 0 →
      e = s.idxFind pool dig len → ovf = (s.overflow base b1 || s.overflow base b2) → ms = s.matches' base log2b dig len →
      (s.needsRun pool dig len = true → r = true ∧ ∀ b, s.runPageFor pool dig = some b → runPageOk b = true) →
      ∃ t, gives (.idxProbe n r) s t ∧
        t.mem = (s.hWrite ridge (jh j 1) 0 (leBytes 8 (match ms, e, so, ovf with
          | x :: _, _, true, _ => 2 ^ 49 + 2 ^ 48 + x.2.2.handle % 2 ^ 48
          | [], _, true, v => b2n v * 2 ^ 49
          | [], some y, false, true => 2 ^ 48 + y.handle % 2 ^ 48
          | x, some y, false, v => if x ≠ [] ∧ (v = true ∨ x.any (fun z => decide (z.2.2.handle = y.handle)) = true)
              then 2 ^ 48 + y.handle % 2 ^ 48 else 0
          | _, none, false, _ => 0))).mem ∧ t.idxStore = s.idxStore ∧ t.idxRuns = s.idxRuns) ∧
    (∀ k e u, s.startable n 6 (fun x => decide (x = 1)) = some j → s.idxFind pool dig len = none →
      e = ({ digest := dig, len := len, handle := h, tomb := false } : IdxEntry) →
      u = (if m < cap then s.wrBytes (lb + 48 * m) (entryBytes e) else s) → u.freeSlot base b1 = some k →
      ∃ t, gives (.idxInsert n) s t ∧ jobEnds s t n j 0 0 ∧
        (cap = 0 ∨ m + 1 < cap → t.idxStore = Tbl.set s.idxStore pool (e :: s.idxLog pool) ∧ t.idxRuns = s.idxRuns) ∧
        t.mem = (u.writeSlot base b1 k { tag := sliceAt dig 0 12, handle := h, len := len, valid := true }).mem) ∧
    (∀ e, s.startable n 6 (fun x => decide (x = 1)) = some j → s.idxFind pool dig len = some e →
      ∃ t, gives (.idxInsert n) s t ∧ jobEnds s t n j 0x11 1 ∧ t.idxStore = s.idxStore ∧ t.idxRuns = s.idxRuns ∧
        t.mem = (s.hWrite ridge (jh j 0) 0x28 (leBytes 8 (e.handle % 2 ^ 48 + 2 ^ 63))).mem ∧
        t.reg (ridgeBlk ridge 9 + 0x28) = s.reg (ridgeBlk ridge 9 + 0x28) + 1) ∧
    (∀ e, s.startable n 6 (fun x => decide (x = 2)) = some j → s.idxFind pool dig len = some e → e.handle = h →
      ∃ t, gives (.idxRemove n) s t ∧ jobEnds s t n j 0 0 ∧
        (cap = 0 ∨ m + 1 < cap → t.idxStore = Tbl.set s.idxStore pool ({ e with tomb := true } :: s.idxLog pool) ∧ t.idxRuns = s.idxRuns)) ∧
    (s.startable n 6 (fun x => decide (x = 2)) = some j → (∀ e, s.idxFind pool dig len = some e → e.handle ≠ h) →
      ∃ t, gives (.idxRemove n) s t ∧ jobEnds s t n j 0x12 1 ∧ t.mem = s.mem ∧ t.idxStore = s.idxStore ∧ t.idxRuns = s.idxRuns))

/-- R90 and R200 to R202; a last unit of under 16 bytes has no stated result and is free (log entry 3). -/
def Obligations.XtsJobsAndKeySlots : Prop :=
  (∀ (s : State) (n : Nat) (j : Job) (enc : Bool) (c : Instr) (d : Bytes),
    (enc = true ∧ c = .xtsEncrypt n ∧ s.startable n 4 (fun o => decide (o = 0)) = some j) ∨
    (enc = false ∧ c = .xtsDecrypt n ∧ s.startable n 4 (fun o => decide (o = 1)) = some j) →
    d = s.hBytes j.ridge (jh j 0) →
    (hLen (jh j 0) < 16 → gives c s ((s.raise (ridgeBlk j.ridge 7 + 0x18) 2).finish n j 1 0)) ∧
    (16 ≤ hLen (jh j 0) → j.noKey = true ∨ Tbl.find s.keySlots (fieldAt j.desc 2 1) = none →
      gives c s ((s.raise (ridgeBlk j.ridge 7 + 0x18) 1).finish n j 0x10 0)) ∧
    (∀ key, 16 ≤ hLen (jh j 0) → j.noKey = false → Tbl.find s.keySlots (fieldAt j.desc 2 1) = some key →
      ∃ o, o.length = d.length ∧
        (∀ k, 4096 * k + 16 ≤ d.length →
          (o.drop (4096 * k)).take 4096 = xtsUnit enc key
            (leBytes 8 (fieldAt j.desc 0x10 8 + 4096 * k) ++ leBytes 8 (fieldAt j.desc 8 8)) ((d.drop (4096 * k)).take 4096)) ∧
        gives c s ((({ s with freeCtr := s.freeCtr + 1 }).hWrite j.ridge (jh j 1) 0 o).bump
          (ridgeBlk j.ridge 7 + (if enc then 8 else 0x10)) 0 64 (hLen (jh j 0)) |>.finish n j 0 0))) ∧
  (∀ (s : State) (pool : Nat) (k : Bytes), pool < 16 → s.areaKey 5 pool = some k →
    gives (.xtsKeyLoad pool) s { s with
      keySlots := Tbl.set s.keySlots pool k, keyEnding := s.keyEnding.filter (fun q => decide (q ≠ pool)) }) ∧
  (∀ (s : State) (pool : Nat), Tbl.sorted s.keySlots = true →
    ∃ t, gives (.xtsKeyUnload pool) s t ∧ t = { s with keySlots := t.keySlots, keyEnding := t.keyEnding } ∧
      ((∀ p ∈ s.jobs, p.2.cls = 4 → p.2.noKey = false → fieldAt p.2.desc 2 1 ≠ pool) →
        Tbl.find t.keySlots pool = none ∧ pool ∉ t.keyEnding) ∧
      ((∃ p ∈ s.jobs, p.2.cls = 4 ∧ p.2.noKey = false ∧ fieldAt p.2.desc 2 1 = pool) →
        Tbl.find t.keySlots pool = Tbl.find s.keySlots pool ∧ pool ∈ t.keyEnding) ∧
      (∀ q, q ≠ pool → q ∉ s.keyEnding → Tbl.find t.keySlots q = Tbl.find s.keySlots q)) ∧
  (∀ (s : State) (n pool status result : Nat) (j : Job), j.cls = 4 → Tbl.sorted s.keySlots = true → pool ∈ s.keyEnding →
    (∀ p ∈ Tbl.del s.jobs n, p.2.cls = 4 → p.2.noKey = false → fieldAt p.2.desc 2 1 ≠ pool) →
    Tbl.find (s.finish n j status result).keySlots pool = none ∧ pool ∉ (s.finish n j status result).keyEnding)

/-- R155, R157 and R160 to R163; the bytes of a failed decode are free (log entry 3). -/
def Obligations.CoderJobsEncodeAndDecode : Prop :=
  (∀ (s : State) (n : Nat) (j : Job) (c : Instr) (sts : List Nat),
    (c = .coderEncodeByte n ∧ s.startable n 3 (fun o => decide (o = 0)) = some j ∧ sts = [0, 0x10, 0x11]) ∨
    (c = .coderEncodeRaster n ∧ s.startable n 3 (fun o => decide (o = 1)) = some j ∧ sts = [0, 0x10, 0x11, 0x19]) ∨
    (c = .coderDecode n ∧ s.startable n 3 (fun o => decide (o = 2)) = some j ∧ sts = [0, 0x10, 0x13, 0x14, 0x15, 0x16, 0x17, 0x18]) ∨
    (c = .coderResume n ∧ s.startable n 3 (fun o => decide (o = 3)) = some j ∧
      sts = [0, 0x10, 0x11, 0x12, 0x13, 0x14, 0x15, 0x16, 0x17, 0x18]) →
    ∃ t st len, gives c s t ∧ jobEnds s t n j st len ∧ st ∈ sts ∧ len ≤ hLen (jh j 1) ∧
      (∀ x, (x < s.hAddr j.ridge (jh j 1) ∨ s.hAddr j.ridge (jh j 1) + hLen (jh j 1) ≤ x) →
        (jh j 2 = nullH ∨ x < s.hAddr j.ridge (jh j 2) ∨ s.hAddr j.ridge (jh j 2) + 4096 ≤ x) →
        Mem.read t.mem x = Mem.read s.mem x) ∧
      t = { s with mem := t.mem, regs := t.regs, jobs := t.jobs, climbs := t.climbs, stamp := t.stamp, digs := t.digs,
                   freeCtr := t.freeCtr }) ∧
  (∀ (s : State) (n : Nat) (j : Job), s.startable n 3 (fun o => decide (o = 1)) = some j →
    hLen (jh j 0) % (planesOf (fieldAt j.desc 2 1) * bpsOf (fieldAt j.desc 2 1)) ≠ 0 →
    ∃ t, gives (.coderEncodeRaster n) s t ∧ jobEnds s t n j 0x19 0 ∧ t.mem = s.mem) ∧
  (∀ (s : State) (n len : Nat) (j : Job) (d : Bytes), s.startable n 3 (fun o => decide (o = 0)) = some j →
    d = s.hBytes j.ridge (jh j 0) → len = hLen (jh j 0) → len ≤ 4 → jh j 2 = nullH →
    (len + 36 ≤ hLen (jh j 1) → ∃ t, gives (.coderEncodeByte n) s t ∧ jobEnds s t n j 0 (len + 36) ∧
      t.mem = (s.hWrite j.ridge (jh j 1) 0
        (frameHeader 0 len len 0 0 (crc32c d) 0 ++ d ++ leBytes 4 (crc32c d))).mem) ∧
    (hLen (jh j 1) < len + 36 → ∃ t, gives (.coderEncodeByte n) s t ∧ jobEnds s t n j 0x11 0)) ∧
  (∀ (s : State) (n len : Nat) (j : Job) (x rest : Bytes), s.startable n 3 (fun o => decide (o = 2)) = some j →
    s.hBytes j.ridge (jh j 0) = frameHeader 0 len len 0 0 (crc32c x) 0 ++ x ++ leBytes 4 (crc32c x) ++ rest →
    x.length = len → 0 < len → len ≤ 1048576 → fieldAt j.desc 8 4 ∈ [0, len] → jh j 2 = nullH →
    (len ≤ hLen (jh j 1) → ∃ t, gives (.coderDecode n) s t ∧ jobEnds s t n j 0 len ∧
      t.mem = (s.hWrite j.ridge (jh j 1) 0 x).mem) ∧
    (hLen (jh j 1) < len → ∃ t, gives (.coderDecode n) s t ∧ jobEnds s t n j 0x10 0 ∧ t.mem = s.mem)) ∧
  (∀ (s : State) (n : Nat) (j : Job), s.startable n 3 (fun o => decide (o = 3)) = some j →
    badState (s.rdBytes (s.hAddr j.ridge (jh j 2)) 4096) (hLen (jh j 0)) = true →
    ∃ t, gives (.coderResume n) s t ∧ jobEnds s t n j 0x12 0 ∧ t.mem = s.mem)

/-- R91 and R274 to R276. -/
def Obligations.ParityJobsFollowTheField : Prop :=
  (∀ (s : State) (n k l op : Nat) (j : Job) (c : Instr) (d : Nat → Nat → Byte),
    (c = .parGeneratePq n ∧ op = 0) ∨ (c = .parGenerateP n ∧ op = 1) →
    s.startable n 5 (fun o => decide (o = op)) = some j → k = fieldAt j.desc 2 1 → l = fieldAt j.desc 4 4 →
    (∀ m i, d m i = ((s.parStrips j).getD m []).getD i 0) →
    ∃ p q, p.length = l ∧ q.length = l ∧
      (∀ i < l, p.getD i 0 = xorTo k (fun m => d m i) ∧ q.getD i 0 = xorTo k (fun m => gfMul (gfPow m) (d m i))) ∧
      gives c s ((((if op = 0 then (s.hWrite j.ridge (jh j 1) 0 p).hWrite j.ridge (jh j 2) 0 q else s.hWrite j.ridge (jh j 1) 0 p).bump
        (ridgeBlk j.ridge 8) 0 64 (k * l)).bump (ridgeBlk j.ridge 8 + 8) 0 64 1).finish n j 0 0)) ∧
  (∀ (s : State) (n k l e1 e2 : Nat) (j : Job) (d : Nat → Nat → Byte) (p q : Nat → Byte),
    s.startable n 5 (fun o => decide (o = 2)) = some j → k = fieldAt j.desc 2 1 → l = fieldAt j.desc 4 4 → k ≤ 30 →
    e1 = fieldAt j.desc 8 1 → e2 = fieldAt j.desc 9 1 → e1 ≤ k + 1 → e2 ≤ k + 1 ∨ e2 = 0xFF → e1 ≠ e2 →
    (∀ m i, d m i = ((s.parStrips j).getD m []).getD i 0) →
    (∀ i, p i = (s.rdBytes (s.hAddr j.ridge (jh j 1)) l).getD i 0) → (∀ i, q i = (s.rdBytes (s.hAddr j.ridge (jh j 2)) l).getD i 0) →
    ∃ o : Bytes, o.length = (if e2 = 0xFF then l else 2 * l) ∧
      gives (.parRecover n) s ((((s.hWrite j.ridge (j.handles.getLastD nullH) 0 o).bump (ridgeBlk j.ridge 8 + 0x10) 0 64 1).bump
        (ridgeBlk j.ridge 8) 0 64 (k * l)).bump (ridgeBlk j.ridge 8 + 8) 0 64 1 |>.finish n j 0 0) ∧
      (∀ i < l,
        (e1 < k → (e2 = 0xFF ∨ e2 = k + 1) → o.getD i 0 = p i ^^^ xorTo k (fun m => if m = e1 then 0 else d m i)) ∧
        (e1 < k → e2 = k → o.getD i 0 = gfMul (gfPow (255 - e1)) (q i ^^^ xorTo k (fun m => if m = e1 then 0 else gfMul (gfPow m) (d m i)))) ∧
        (e1 = k → e2 = 0xFF ∨ e2 = k + 1 → o.getD i 0 = xorTo k (fun m => d m i)) ∧
        (e1 = k + 1 → e2 = 0xFF ∨ e2 = k → o.getD i 0 = xorTo k (fun m => gfMul (gfPow m) (d m i))) ∧
        (∀ x y, (x = e1 ∧ y = e2) ∨ (x = e2 ∧ y = e1) → x < y → y < k →
          o.getD ((if y = e2 then l else 0) + i) 0 = gfMul (gfInv (gfPow x ^^^ gfPow y))
            (gfMul (gfPow x) (p i ^^^ xorTo k (fun m => if m = x ∨ m = y then 0 else d m i))
              ^^^ (q i ^^^ xorTo k (fun m => if m = x ∨ m = y then 0 else gfMul (gfPow m) (d m i)))) ∧
          o.getD ((if x = e2 then l else 0) + i) 0 =
            p i ^^^ xorTo k (fun m => if m = x ∨ m = y then 0 else d m i) ^^^ o.getD ((if y = e2 then l else 0) + i) 0))) ∧
  (∀ (s : State) (n k l : Nat) (j : Job) (d : Nat → Nat → Byte) (okP okQ : Prop),
    s.startable n 5 (fun o => decide (o = 3)) = some j → k = fieldAt j.desc 2 1 → l = fieldAt j.desc 4 4 →
    (∀ m i, d m i = ((s.parStrips j).getD m []).getD i 0) →
    (okP ↔ ∀ i < l, (s.rdBytes (s.hAddr j.ridge (jh j 1)) l).getD i 0 = xorTo k (fun m => d m i)) →
    (okQ ↔ ∀ i < l, (s.rdBytes (s.hAddr j.ridge (jh j 2)) l).getD i 0 = xorTo k (fun m => gfMul (gfPow m) (d m i))) →
    (okP → okQ → gives (.parCheck n) s (((s.bump (ridgeBlk j.ridge 8) 0 64 ((k + 2) * l)).bump (ridgeBlk j.ridge 8 + 8) 0 64 1).finish n j 0 0)) ∧
    (∀ r, (r = 1 ∧ ¬ okP ∧ okQ) ∨ (r = 2 ∧ okP ∧ ¬ okQ) ∨ (r = 3 ∧ ¬ okP ∧ ¬ okQ) →
      gives (.parCheck n) s ((((s.raise (ridgeBlk j.ridge 8 + 0x18) 1).bump (ridgeBlk j.ridge 8) 0 64 ((k + 2) * l)).bump
        (ridgeBlk j.ridge 8 + 8) 0 64 1).finish n j 0x10 r)))

/-- R7, R9 to R11, R4, R24, R25 and R474, for the five rows of register accesses; that a register with one named writer keeps its value
under another's write is the model's reading (log entry 101). -/
def Obligations.RegisterWritesFollowTheirTypes : Prop :=
  (∀ (s : State) (m off width slot lo : Nat) (b : Blk) (v x mask k old : W64) (c : Instr),
    c ∈ [.registerWrite m off width v, .absentUnitWrite m off width v, .w1cFlagClear m off width v 0, .evcntWrite m off width v false] →
    s.gate m off width true = .open → slot = off / 8 * 8 → ctlBlock slot = some (b, lo) → plainBlk b = true → Tbl.sorted s.regs = true →
    (x, mask) = slotValue off width v → old = s.reg slot →
    k = mask &&& BitVec.ofNat 64 (if m = 0x60 then (regDesc slot).rw ||| (regDesc slot).rol else (regDesc slot).rw) →
    (mayWrite m off = false → gives c s s) ∧
    (mayWrite m off = true → slot ≠ 0xC0008 →
      ∃ t, gives c s t ∧ t = { s with regs := t.regs, mcores := t.mcores } ∧
        (∀ n, t.mcore n = { s.mcore n with sleeping := (t.mcore n).sleeping }) ∧ (∀ r, r ≠ slot → t.reg r = s.reg r) ∧
        t.reg slot = ((old &&& ~~~k) ||| (x &&& k) ||| (x &&& mask &&& BitVec.ofNat 64 (regDesc slot).w1s))
          &&& ~~~(x &&& mask &&& BitVec.ofNat 64 (regDesc slot).w1c)) ∧
    (mayWrite m off = true → slot = 0xC0008 →
      gives c s ((List.range 16).foldl (fun t i => if t.regBit 0xC0008 (16 + i) then t.laneDown i else t)
        (s.setReg 0xC0008 ((old &&& ~~~k) ||| (x &&& k)))))) ∧
  (∀ (s : State) (m off width slot lo : Nat) (b : Blk) (v hw x mask f : W64),
    s.gate m off width true = .open → slot = off / 8 * 8 → ctlBlock slot = some (b, lo) → plainBlk b = true → Tbl.sorted s.regs = true →
    (x, mask) = slotValue off width v → f = BitVec.ofNat 64 (regDesc slot).w1c → f ≠ 0 → mayWrite m off = true →
    (regDesc slot).rw = 0 → (regDesc slot).rol = 0 → (regDesc slot).w1s = 0 →
    ∃ t, gives (.w1cFlagClear m off width v hw) s t ∧ t = { s with regs := t.regs, mcores := s.wakeCores.mcores } ∧
      t.reg slot = (s.reg slot &&& ~~~(x &&& mask &&& f)) ||| (hw &&& f) ∧
      t.regBits (evcntOf slot) 0 32 = (s.regBits (evcntOf slot) 0 32 + popcount (x &&& mask &&& f &&& hw).toNat) % 2 ^ 32 ∧
      (∀ r, r ≠ slot → r ≠ evcntOf slot → t.reg r = s.reg r)) ∧
  (∀ (s : State) (m off width lo : Nat) (b : Blk) (v : W64) (inc : Bool),
    s.gate m off width true = .open → off % 0x10000 = 0xFFF8 → ctlBlock off = some (b, lo) → plainBlk b = true → mayWrite m off = true →
    Tbl.sorted s.regs = true →
    ∃ t, gives (.evcntWrite m off width v inc) s t ∧ t = { s with regs := t.regs } ∧
      t.regBits off 0 32 = (v.toNat + b2n inc) % 2 ^ 32 ∧ (∀ r, r ≠ off → t.reg r = s.reg r)) ∧
  (∀ (s : State) (m off width lo : Nat) (wr : Bool) (b : Blk) (v hw : W64) (inc : Bool),
    (m = 0x50 → s.fnOpen 0 = true) → (m = 0x51 → s.fnOpen 1 = true) →
    ((s.decodeAddr (ctlBase + off) width).isSome = true → ctlBlock off = some (b, lo) → s.blkPresent b = false →
      ∀ c ∈ [.absentUnitWrite m off width v, .registerWrite m off width v, .w1cFlagClear m off width v hw,
             .evcntWrite m off width v inc, .badAccess m 0 off width true],
        gives c s (s.bump rSysAbsent 0 32 1)) ∧
    ((s.decodeAddr (ctlBase + off) width).isSome = true → ctlBlock off = some (b, lo) → s.blkPresent b = false →
      gives (.badAccess m 0 off width false) s (s.answerRead m false 0 (zeros width))) ∧
    ((s.decodeAddr (ctlBase + off) width).isSome = true → ctlBlock off = some (b, lo) → s.blkPresent b = true →
      ¬ ((width = 4 ∨ width = 8) ∧ off % width = 0) →
      gives (.badAccess m 0 off width wr) s ((s.bump rSysBad 0 32 1).answerRead m wr 0 (zeros width)) ∧
      gives (.registerWrite m off width v) s (s.bump rSysBad 0 32 1)) ∧
    (s.decodeAddr (ctlBase + off) width = none →
      gives (.badAccess m 0 off width wr) s ((s.decodeError m (ctlBase + off)).answerRead m wr 1 []) ∧
      gives (.registerWrite m off width v) s (s.decodeError m (ctlBase + off))) ∧
    ((s.decodeAddr (ctlBase + off) width).isSome = true → ctlBlock off = some (b, lo) → s.blkPresent b = true →
      (width = 4 ∨ width = 8) → off % width = 0 → ctlGrant (s.profileOf m) (if m < 0x20 then m / 4 else 0) true b lo = false →
      gives (.registerWrite m off width v) s (s.violate m (ctlBase + off) true none))) ∧
  (∀ (s : State) (m a : Nat), Tbl.sorted s.regs = true →
    (s.decodeError m a).regBits rSysDecode 0 32 = (s.regBits rSysDecode 0 32 + 1) % 2 ^ 32 ∧
    (s.decodeError m a).reg rSysDecodeAddr = (if s.regBit rSysDecodeAddr 63 then s.reg rSysDecodeAddr
      else BitVec.ofNat 64 (2 ^ 63 + m % 256 * 2 ^ 48 + a % 2 ^ 48)) ∧
    (∀ r, r ≠ rSysDecode → r ≠ rSysDecodeAddr → (s.decodeError m a).reg r = s.reg r)) ∧
  (∀ (s : State) (fn off width : Nat) (wr : Bool), fn < 2 → s.fnOpen fn = true →
    ((if fn = 0 then 0x10000 else 0) ≤ off → off < (if fn = 0 then 0x10010 else 0x40) →
      (wr = false ∨ ¬ (off % 8 = 0 ∧ (width = 4 ∨ width = 8))) →
      gives (.badAccess (0x50 + fn) 2 off width wr) s ((s.bump rSysBad 0 32 1).answerRead (0x50 + fn) wr 0 (zeros width))) ∧
    ((if fn = 0 then 0x10010 else 0x40) ≤ off →
      gives (.badAccess (0x50 + fn) 2 off width wr) s ((s.barError fn 2 off).answerRead (0x50 + fn) wr 1 []))) ∧
  (∀ (s : State) (fn bar off width : Nat) (wr : Bool), fn < 2 → s.fnOpen fn = false →
    gives (.badAccess (0x50 + fn) bar off width wr) s
      (if s.pep.linkUp = false ∨ wr = true then s
       else s.emit (.pcieReply fn (if (if fn = 0 then s.pep.frozen0 else s.pep.frozen1) then 4 else 1) []))) ∧
  (∀ (s : State) (m status : Nat) (d : Bytes), s.answerRead m true status d = s ∧
    s.answerRead m false status d = (if m = 0x50 ∨ m = 0x51 then s.emit (.pcieReply (m - 0x50) status d) else s))

/-- R119 to R121 and R123 to R126. -/
def Obligations.NotchContextsHashMessages : Prop :=
  (∀ (s : State) (m c width : Nat) (v : W64), c < 16 → s.gate m (nchReg c) width true = .open →
    (Tbl.find s.nch c = none → v.getLsbD 9 = true → gives (.claim m c width v) s (s.setNch c
      { owner := m, key := zeros 64, data := [], started := false, busy := false, last := false, done := false, digest := [] })) ∧
    (Tbl.find s.nch c = none → v.getLsbD 9 = false → gives (.nchRelease m c width v) s (s.bump (rNch + 0x18) 0 32 1)) ∧
    (∀ x, Tbl.find s.nch c = some x →
      (v.getLsbD 9 = true → gives (.claim m c width v) s s) ∧
      (x.owner ≠ m → v.getLsbD 9 = false → gives (.nchRelease m c width v) s (s.bump (rNch + 0x18) 0 32 1)) ∧
      (x.owner = m → v.getLsbD 9 = false → v.getLsbD 10 = true → gives (.nchRelease m c width v) s
        (((({ s with nch := Tbl.del s.nch c }).setReg (nchReg c + 8) 0).setReg (nchReg c + 0x10) 0).raise rNchIrq (2 ^ (32 + c)))))) ∧
  (∀ (s : State) (m width : Nat) (v : W64), Tbl.sorted s.nch = true → s.gate m (rNch + 0x20) width true = .open →
    ∃ t, gives (.forceRelease m width v) s t ∧ t = { s with nch := t.nch, regs := t.regs } ∧
      (∀ c, Tbl.find t.nch c = if c < 16 ∧ v.getLsbD c = true then none else Tbl.find s.nch c)) ∧
  (∀ (s : State) (m c width : Nat) (v : W64) (x : NchCtx), c < 16 → Tbl.find s.nch c = some x →
    (x.owner ≠ m →
      (s.gate m (nchReg c + 8) width true = .open → gives (.nchStart m c width v) s (s.bump (rNch + 0x18) 0 32 1)) ∧
      (s.gate m (nchReg c + 0x20) width true = .open → gives (.nchData m c width v) s (s.bump (rNch + 0x18) 0 32 1)) ∧
      (s.gate m (nchReg c + 0x28) width true = .open → gives (.nchLast m c width v) s (s.bump (rNch + 0x18) 0 32 1)) ∧
      (∀ k < 8, s.gate m (nchReg c + 0x40 + 8 * k) width true = .open → gives (.nchKeyWrite m c k width v) s (s.bump (rNch + 0x18) 0 32 1))) ∧
    (x.owner = m → s.gate m (nchReg c + 8) width true = .open → v.getLsbD 11 = true → v.getLsbD 4 = false → bits v.toNat 0 3 < 4 →
      gives (.nchStart m c width v) s (((s.setReg (nchReg c + 8) (v &&& 0x7FF)).setReg (nchReg c + 0x10) 0).setNch c
        { x with
          data := [], started := true, busy := false, last := false, done := false, digest := [],
          ctl := v &&& 0x7FF, loaded := x.key.take (bits v.toNat 5 6 + 1) })) ∧
    (x.owner = m → s.gate m (nchReg c + 0x20) width true = .open → s.nchFailed c = false →
      (x.busy = true → gives (.nchData m c width v) s ((s.setNch c { x with started := false, last := false }).nchErr c 2)) ∧
      (x.busy = false → (x.started = false ∨ x.last = true ∨ x.done = true) → gives (.nchData m c width v) s ((s.setNch c { x with started := false, last := false }).nchErr c 3)) ∧
      (x.busy = false → x.started = true → x.last = false → x.done = false → x.data.length + 4 < 2 ^ 61 →
        gives (.nchData m c width v) s (s.setNch c { x with
          data := x.data ++ leBytes 4 v.toNat,
          busy := decide ((x.data.length + 4) % (match bits x.ctl.toNat 0 3 with | 0 => 64 | 1 => 128 | 2 => 128 | _ => 136) = 0) }))) ∧
    (x.owner = m → s.gate m (nchReg c + 0x28) width true = .open → width = 8 → s.nchFailed c = false →
      (x.busy = true → gives (.nchLast m c width v) s ((s.setNch c { x with started := false, last := false }).nchErr c 2)) ∧
      (x.busy = false → (x.started = false ∨ x.last = true ∨ x.done = true) → gives (.nchLast m c width v) s ((s.setNch c { x with started := false, last := false }).nchErr c 3)) ∧
      (x.busy = false → x.started = true → x.last = false → x.done = false → 4 < bits v.toNat 32 3 →
        gives (.nchLast m c width v) s ((s.setNch c { x with started := false, last := false }).nchErr c 4)) ∧
      (x.busy = false → x.started = true → x.last = false → x.done = false → bits v.toNat 32 3 ≤ 4 → x.data.length + 4 < 2 ^ 61 →
        gives (.nchLast m c width v) s (s.setNch c { x with
          data := x.data ++ (leBytes 4 v.toNat).take (bits v.toNat 32 3), busy := true, last := true }))) ∧
    (x.owner = m → s.nchFailed c = true →
      (s.gate m (nchReg c + 0x20) width true = .open → gives (.nchData m c width v) s s) ∧
      (s.gate m (nchReg c + 0x28) width true = .open → gives (.nchLast m c width v) s s)) ∧
    (∀ k < 8, x.owner = m → s.gate m (nchReg c + 0x40 + 8 * k) width true = .open → width = 8 → x.key.length = 64 →
      gives (.nchKeyWrite m c k width v) s (s.setNch c { x with
        key := x.key.take (8 * k) ++ leBytes 8 v.toNat ++ x.key.drop (8 * k + 8) }))) ∧
  (∀ (s : State) (c : Nat) (x : NchCtx), Tbl.find s.nch c = some x → x.busy = true →
    (x.last = false → gives (.nchBlockDone c) s (s.setNch c { x with busy := false })) ∧
    (∀ alg : Nat, x.last = true → alg = bits x.ctl.toNat 0 3 →
      gives (.nchDigestDone c) s ((s.setNch c { x with
        busy := false, done := true,
        digest := if x.ctl.getLsbD 3
          then hmac (nchHash alg) (match alg with | 0 => 64 | 1 => 128 | 2 => 128 | _ => 136) x.loaded x.data
          else nchHash alg x.data }).raise rNchIrq (2 ^ c)))) ∧
  (∀ (s : State) (c f : Nat), c < 16 → Tbl.sorted s.regs = true →
    (s.nchErr c f).reg (nchReg c + 0x10) = s.reg (nchReg c + 0x10) ||| BitVec.ofNat 64 (2 ^ f) ∧
    (s.nchErr c f).reg rNchIrq = s.reg rNchIrq ||| BitVec.ofNat 64 (2 ^ (16 + c)) ∧
    s.nchErr c f = { s with regs := (s.nchErr c f).regs })

/-- R37 to R41, R44, R51 and R98 for the events of climbs. -/
def Obligations.ClimbEventsFollowTheRules : Prop :=
  (∀ (s : State) (r m k cid : Nat) (c : Climb) (hosts bgs : List (Nat × Climb)), k = 4 * r + m → s.coreIdle k = true →
    s.climb cid = c → (cid, c) ∈ s.residents k → c.state = .ready →
    hosts = (s.residents k).filter (fun p => decide (p.2.state = .ready) && !p.2.bg) →
    bgs = (s.residents k).filter (fun p => decide (p.2.state = .ready) && p.2.bg) →
    (∀ p ∈ s.residents k, p.2.state = .ready → p.2.bg = c.bg → p.1 ≠ cid → c.stamp < p.2.stamp) →
    (c.bg = true → hosts = [] ∨ (s.bgShare r ≠ 0 ∧ s.bgShare r ≤ (s.core k).share + 1)) →
    (c.bg = false → bgs = [] ∨ s.bgShare r = 0 ∨ (s.core k).share + 1 < s.bgShare r) →
    ∃ t, gives (.climbDispatch r m) s t ∧ t = { s with climbs := t.climbs, cores := t.cores, stamp := s.stamp + 1 } ∧
      (∀ n, t.climb n = if n = cid then { c with state := .running, since := s.time, stamp := s.stamp, quant := 0 } else s.climb n) ∧
      (∀ n, t.core n = if n = k then { s.core k with
          running := some cid, switches := (s.core k).switches + 1,
          share := if c.bg then 0 else if bgs = [] then (s.core k).share else (s.core k).share + 1 } else s.core n)) ∧
  (∀ (s : State) (r m cid : Nat), s.runningOn r m = some cid → (s.climb cid).core = some (4 * r + m) →
    (s.quantum r ≠ 0 → s.quantum r ≤ (s.climb cid).quant → s.otherReady (4 * r + m) = true →
      ∃ t, gives (.quantumExpiry r m) s t ∧ t = { s with climbs := t.climbs, cores := t.cores, stamp := s.stamp + 1 } ∧
        (∀ n, t.climb n = if n = cid then { s.climb cid with state := .ready, since := s.time, stamp := s.stamp } else s.climb n) ∧
        (∀ n, t.core n = if n = 4 * r + m then { s.core n with running := none } else s.core n)) ∧
    ((s.quantum r = 0 ∨ (s.climb cid).quant < s.quantum r ∨ s.otherReady (4 * r + m) = false) → gives (.quantumExpiry r m) s s)) ∧
  (∀ (s : State) (r m k cid : Nat) (c : Climb), k = 4 * r + m → m < 4 → (s.core k).frozen = false → s.climb cid = c →
    (cid, c) ∈ s.strays r → (∀ p ∈ s.strays r, p.1 ≠ cid → c.stamp < p.2.stamp) →
    ((s.residents k).length < 16 → gives (.climbFill r m) s (s.setClimb cid { c with core := some k })) ∧
    (∀ w d, (s.residents k).length = 16 → (∀ p ∈ s.residents k, p.2.state ≠ .ready) → s.climb w = d → (w, d) ∈ s.residents k →
      d.state = .waiting → (∀ p ∈ s.residents k, p.2.state = .waiting → p.1 ≠ w → d.stamp < p.2.stamp) →
      gives (.climbFill r m) s s ∧ gives (.climbSpill r m) s (s.setClimb w { d with core := none }))) ∧
  (∀ (s : State) (r m cid : Nat), s.runningOn r m = some cid → s.wdLimit r ≠ 0 →
    (s.wdLimit r ≤ (s.climb cid).run → trapReady (.dp r m) s = true → s.agentCid (.dp r m) = some cid →
      ∃ t, gives (.watchdog r m) s t ∧ trapTaken (.dp r m) (s.setClimb cid { s.climb cid with run := 0 }) t 0x0C
        (BitVec.ofNat 64 (s.climb cid).run) (s.climb cid).pc) ∧
    ((s.climb cid).run < s.wdLimit r → gives (.watchdog r m) s s)) ∧
  (∀ (s : State) (cid : Nat) (c : Climb), s.climb cid = c → c.state ≠ .free → c.ended ≠ .running → s.drained cid = true →
    s.ownedBufs cid = [] →
    ∃ t, gives (.climbFreed cid) s t ∧ (t.climb cid).state = .free ∧ (t.climb cid).core = none ∧
      t.digs = s.digs.filter (fun p => decide (p.2.owner ≠ cid)) ∧
      (c.parent = none → t = { s with digs := t.digs, climbs := t.climbs, stamp := s.stamp + 1 } ∧ ∀ n, n ≠ cid → t.climb n = s.climb n) ∧
      (∀ p, c.parent = some p → p ≠ cid → (s.climb p).ended = .running → (t.climb p).t = (s.climb p).t.set c.parentTok
        (.done (match c.ended with
          | .exit code => cplWord 0 0x1F code | .trap cause => cplWord 0x41 0x1F cause | .freeze => cplWord 0x42 0x1F 0
          | .running => cplWord 0 0x1F 0)))) ∧
  (∀ (s : State) (r cid n hd : Nat) (c : Climb) (bg : Bool), s.climb cid = c → cid / 1024 = r → s.oldestAlloc r bg = some (cid, c) →
    c.await = .alloc n hd → s.allocable r n c.bg = true →
    (∀ p, s.oldestAlloc r (!bg) = some p → c.stamp < p.2.stamp ∨ (p.2.stamp < c.stamp ∧ s.canMeet p = false)) →
    (∃ k < 8191, Tbl.find s.bufs (8192 * r + k) = none) →
    ∃ t slot b, gives (.hallocMet r) s t ∧ slot < 8191 ∧ Tbl.find s.bufs (8192 * r + slot) = none ∧ s.gransFree r b (ceilDiv n 1024) = true ∧
      t = { s with climbs := t.climbs, freeCtr := s.freeCtr + 2, stamp := s.stamp + 1,
                   bufs := Tbl.set s.bufs (8192 * r + slot) { base := b, grans := ceilDiv n 1024, bytes := n, owner := cid } } ∧
      t.climb cid = { c with
        state := .ready, await := .none, pc := c.pc + 4, since := s.time, stamp := s.stamp,
        h := c.h.take hd ++ (List.range (ceilDiv n 0x100000)).map (fun i =>
            mkH slot (Tbl.getD s.gens (8192 * r + slot) 0) (i * 0x100000) (min 0x100000 (n - i * 0x100000)))
          ++ c.h.drop (hd + ceilDiv n 0x100000) } ∧
      (∀ k, k ≠ cid → t.climb k = s.climb k)) ∧
  (∀ (s : State) (r g n : Nat), Tbl.sorted s.wipes = true → Mem.wf s.mem = true → Tbl.find s.wipes (24576 * r + g) = some n →
    ∃ t, gives (.granuleWipeDone r g) s t ∧ t = { s with mem := t.mem, wipes := t.wipes } ∧
      (∀ x, Mem.read t.mem x = if bufBase r + g * 1024 ≤ x ∧ x < bufBase r + g * 1024 + 1024 then 0 else Mem.read s.mem x) ∧
      (∀ k, Tbl.find t.wipes k = if k = 24576 * r + g then none else if k = 24576 * r + g + 1 ∧ 1 < n then some (n - 1) else Tbl.find s.wipes k)) ∧
  (∀ (s : State) (cid : Nat) (c : Climb) (d : W64), s.climb cid = c → c.state = .parked → c.deadline = some d →
    (d.toNat ≤ s.time.toNat → ∃ t, gives (.parkDeadline cid) s t ∧ t = { s with climbs := t.climbs, stamp := s.stamp + 1 } ∧
      (∀ n, t.climb n = if n = cid then { c with
          state := .ready, await := .none, deadline := none, pc := c.pc + 4, since := s.time, stamp := s.stamp,
          g := if c.parkRd = 0 then c.g else c.g.set c.parkRd 1 } else s.climb n)) ∧
    (s.time.toNat < d.toNat → gives (.parkDeadline cid) s s)) ∧
  (∀ (s : State) (m r cid : Nat) (v : W64) (c : Climb), s.gate m (climbBlk r + 0x18) 8 true = .open →
    cid = 1024 * r + bits v.toNat 0 10 → s.climb cid = c →
    (c.state = .free → gives (.climbWake m r v) s s) ∧
    (c.state ≠ .free → c.state ≠ .parked → gives (.climbWake m r v) s (s.setClimb cid { c with wakePending := true })) ∧
    (c.state = .parked → ∃ t, gives (.climbWake m r v) s t ∧ t = { s with climbs := t.climbs, stamp := s.stamp + 1 } ∧
      (∀ n, t.climb n = if n = cid then { c with
          state := .ready, await := .none, deadline := none, pc := c.pc + 4, since := s.time, stamp := s.stamp,
          g := if c.parkRd = 0 then c.g else c.g.set c.parkRd 0 } else s.climb n)))

/-- R26, R28, R30, R43, R46 and R56 to R62. What the spec leaves open in them is as log entries 57, 74 and 75 say (the model's
reading or choice). -/
def Obligations.RouteCallsRunInOrder : Prop :=
  (∀ (s : State) (n cid : Nat) (c : Call), s.oldestFree c.ridge = some cid → Mem.wf s.mem = true →
    ((s.callClimb n c).climb cid = { Climb.fresh with
      state := .ready, core := s.homeCore c.ridge, bg := (s.route (callSlot c.entry)).bg, slot := callSlot c.entry,
      g := (List.range 32).map (fun i => if 1 ≤ i ∧ i ≤ 5 then (if i - 1 < callArgc c.entry then BitVec.ofNat 64 (fieldAt c.entry (0x10 + 8 * i) 8) else 0)
        else if i = 6 then BitVec.ofNat 64 (callPool c.entry) else 0),
      h := c.param :: List.replicate 15 0, pc := BitVec.ofNat 64 (s.route (callSlot c.entry)).entry, origin := .call n,
      since := s.time, stamp := s.stamp }) ∧
    (∀ k, k ≠ cid → (s.callClimb n c).climb k = s.climb k) ∧
    (∀ x, Mem.read (s.callClimb n c).mem x = if localAddr cid ≤ x ∧ x < localAddr cid + 512 then 0 else Mem.read s.mem x) ∧
    s.callClimb n c = { s with
      climbs := (s.callClimb n c).climbs, mem := (s.callClimb n c).mem, stamp := s.stamp + 1,
      calls := Tbl.set s.calls n { c with phase := .running, cid := some cid },
      bufs := if c.param = nullH then s.bufs else Tbl.upd s.bufs (8192 * c.ridge + hSlot c.param) (fun b => { b with owner := cid }) }) ∧
  (∀ (s : State) (n r : Nat) (c : Call) (s0 : State),
    s0 = (if c.internal then s else { s with pep := { s.pep with dispatched := s.pep.dispatched + 1 } }) →
    (callPlen c.entry = 0 → s.startCall n c r = s0.callClimb n { c with ridge := r, param := nullH }) ∧
    (callPlen c.entry ≠ 0 → s.allocable r (callPlen c.entry) false = true → (∃ k < 8191, Tbl.find s.bufs (8192 * r + k) = none) →
      ∃ slot b, slot < 8191 ∧ Tbl.find s.bufs (8192 * r + slot) = none ∧ s.gransFree r b (ceilDiv (callPlen c.entry) 1024) = true ∧
        s.startCall n c r = { s0 with
          freeCtr := s.freeCtr + 2,
          bufs := Tbl.set s.bufs (8192 * r + slot) { base := b, grans := ceilDiv (callPlen c.entry) 1024, bytes := callPlen c.entry, owner := 2 ^ 20 },
          calls := Tbl.set s.calls n { c with
            ridge := r, phase := .reading, due := callPlen c.entry,
            param := mkH slot (Tbl.getD s.gens (8192 * r + slot) 0) 0 (callPlen c.entry) },
          out := if c.internal then s.out else s.out ++ [.hostRead (callPaddr c.entry) (callPlen c.entry)] })) ∧
  (∀ (s u : State) (e : Bytes) (q : List Bytes) (int : Bool) (c : Call) (cmd : Instr), e.length = 64 →
    (int = true ∧ cmd = .routeCallDispatch (some e) ∧ u = { s with stamp := s.stamp + 1 }) ∨
    (int = false ∧ cmd = .routeCallDispatch none ∧ s.pep.queue = e :: q ∧ s.pep.bme0 = true ∧ s.pep.frozen0 = false ∧ s.pep.linkUp = true ∧
      u = { s with mcores := s.wakeCores.mcores, pep := { s.pep with queue := q }, bell := s.bell && !q.isEmpty, stamp := s.stamp + 1 }) →
    c = { internal := int, entry := e, phase := .held, cid := none, ridge := 0xFF, param := nullH, due := 0, discarded := false } →
    (s.pwr.mode = 7 → gives cmd s { u with calls := Tbl.set s.calls s.stamp { c with phase := .handover } }) ∧
    (s.pwr.mode ≠ 7 → gives cmd s (u.judgeCall s.stamp c))) ∧
  (∀ (s : State) (n r : Nat) (c : Call),
    (∀ st, s.callCheck c.entry = some st → Tbl.sorted s.calls = true → c.internal = true → c.discarded = false →
      ∃ t, s.judgeCall n c = t ∧ (∀ k, Tbl.find t.calls k = if k = n then none else Tbl.find s.calls k) ∧
        t = { s with calls := t.calls, internalCpl := s.internalCpl ++ [sliceAt c.entry 4 4 ++ [BitVec.ofNat 8 st, 0xFF, 0, 0] ++ zeros 8] }) ∧
    (s.callCheck c.entry = none → s.pwr.mode = 1 → s.judgeCall n c = { s with
      pep := if c.internal then s.pep else { s.pep with dispatched := s.pep.dispatched + 1 },
      calls := Tbl.set s.calls n { c with phase := .running, ridge := 0xFF, param := nullH } }) ∧
    (s.callCheck c.entry = none → s.pwr.mode ≠ 1 → r = callRidge c.entry ∨ (callRidge c.entry = 0xFF ∧ s.mostFree = some r) → r ≠ 0xFF →
      (s.heldBefore n (callRidge c.entry) = false → s.callRoom c r = true → s.judgeCall n c = s.startCall n c r) ∧
      (s.heldBefore n (callRidge c.entry) = true → s.judgeCall n c = { s with calls := Tbl.set s.calls n { c with phase := .held } }) ∧
      (s.heldBefore n (callRidge c.entry) = false → 0 < s.freeClimbs r → s.callRoom c r = false →
        s.judgeCall n c = { s with calls := Tbl.set s.calls n { c with phase := .held } }) ∧
      (s.heldBefore n (callRidge c.entry) = false → s.freeClimbs r = 0 →
        s.judgeCall n c = { s.raise (climbBlk r + 0x10) 2 with calls := Tbl.set s.calls n { c with phase := .held } }))) ∧
  (∀ (s : State) (n r : Nat) (c : Call),
    (∀ who key, (who = some r ∧ key = r ∧ r ≠ 0xFF) ∨ (who = none ∧ key = 0xFF ∧ r < 8 ∧ s.ridgePresent r = true ∧
          ∀ k < 8, k ≠ r → s.ridgePresent k = true → s.freeClimbs k < s.freeClimbs r ∨ (s.freeClimbs k = s.freeClimbs r ∧ r < k)) →
        (∀ k < 8, s.freeClimbs k ≤ 1024) →
        s.calls.find? (fun p => decide (p.2.phase = .held) && decide (callRidge p.2.entry = key)) = some (n, c) →
      (s.heldBefore n key = true → gives (.heldCallStart who) s s) ∧
      (s.heldBefore n key = false → c.param = nullH → s.callRoom c r = true → gives (.heldCallStart who) s (s.startCall n c r)) ∧
      (s.heldBefore n key = false → c.param = nullH → s.callRoom c r = false → gives (.heldCallStart who) s s) ∧
      (s.heldBefore n key = false → c.param ≠ nullH →
        gives (.heldCallStart who) s (if s.freeClimbs c.ridge = 0 then s else s.callClimb n c))) ∧
    ((∀ p ∈ s.calls, p.2.phase ≠ .held) → gives (.heldCallStart (some r)) s s ∧ gives (.heldCallStart none) s s) ∧
    (s.pwr.mode = 7 ∨ (∀ p ∈ s.calls, p.2.phase ≠ .handover) → gives .handoverCallCheck s s) ∧
    (s.pwr.mode ≠ 7 → s.calls = [(n, c)] → c.phase = .handover → gives .handoverCallCheck s (s.judgeCall n { c with phase := .held })) ∧
    (Tbl.find s.calls n = some c → c.phase = .reading →
      (c.internal = false → c.due = 0 → s.freeClimbs c.ridge ≠ 0 → gives (.paramBlockRead n true) s (s.callClimb n c)) ∧
      (c.internal = false → c.due = 0 → s.freeClimbs c.ridge = 0 → gives (.paramBlockRead n true) s
        { s.raise (climbBlk c.ridge + 0x10) 2 with calls := Tbl.set s.calls n { c with phase := .held } }) ∧
      (c.internal = true → s.freeClimbs c.ridge ≠ 0 → gives (.paramBlockRead n true) s
        (((s.dmaTouch (callPaddr c.entry) (callPlen c.entry) false).wrBytes (bufBase c.ridge + (s.bufOf c.ridge c.param).base * 1024)
          (s.rdBytes (callPaddr c.entry) (callPlen c.entry))).callClimb n { c with due := 0 })) ∧
      (c.internal = true → c.param ≠ nullH → c.discarded = false → gives (.paramBlockRead n false) s { s.freeBuf c.ridge (hSlot c.param) with
        calls := Tbl.del s.calls n,
        internalCpl := s.internalCpl ++ [sliceAt c.entry 4 4 ++ [0x07, 0xFF, 0, 0] ++ zeros 8] }))) ∧
  (∀ (s : State) (m i pct : Nat) (u : LopUpdate) (w old : Nat), 0x20 ≤ m → m < 0x24 → i < 64 → Tbl.sorted s.regs = true →
    s.gate m (0xF0000 + i * 0x20) 8 true = .open → old = (s.reg (0xF0000 + i * 0x20)).toNat →
    pct = (if u.phase = 3 then 10000 else min 9999 (10000 * u.done / max 1 u.work)) →
    w = b2n u.valid + u.typ % 8 * 2 + (if u.posUnit = 0 then 0 else 16) + u.phase % 8 * 2 ^ 5 + u.pool % 16 * 2 ^ 8 + b2n u.device * 2 ^ 12
      + pct * 2 ^ 16 + (bits old 32 16 + 2) % 65536 * 2 ^ 32 →
    ∃ t, gives (.lopEntryUpdate m i u) s t ∧ t.reg (0xF0000 + i * 0x20) = BitVec.ofNat 64 w ∧
      t.reg (0xF0008 + i * 0x20) = u.position ∧ t.reg (0xF0010 + i * 0x20) = u.total ∧ t.reg (0xF0018 + i * 0x20) = u.start ∧
      (∀ r ∈ [rLopChanged, rLopChangedHost], t.reg r = if u.taken = true ∨ bits old 5 3 ≠ u.phase then s.reg r ||| BitVec.ofNat 64 (2 ^ i) else s.reg r) ∧
      t.calls = s.calls ∧ t.pools = s.pools ∧ t.climbs = s.climbs ∧ t.mem = s.mem)

/-- R409 to R413, R415, R416 and R423 to R426. What the spec leaves open in them is as log entries 57, 58, 97 and 103 say (the
model's reading or choice). -/
def Obligations.EndpointServesItsQueue : Prop :=
  (∀ (s : State) (width v n queued added : Nat) (w : W64), s.fnOpen 0 = true → (width = 4 ∨ width = 8) → v = w.toNat % 2 ^ 32 →
    (s.regBit rCallqCfg 0 = false →
      gives (.callTail 0 0x10000 width w []) s (s.raise rPepEvents 0x100) ∧ gives (.cplHead 0 0x10008 width w) s (s.raise rPepEvents 0x100)) ∧
    (s.regBit rCallqCfg 0 = true → n = s.sqEntries → queued = (s.pep.sqTail + n - s.pep.sqHead) % n → added = (v + n - s.pep.sqTail) % n →
      (v < n → added ≤ n - 1 - queued → gives (.callTail 0 0x10000 width w []) s { s with
        bell := true,
        pep := { s.pep with
          queue := s.pep.queue ++ (List.range added).map (fun i => Mem.readBytes s.pep.slots (64 * ((s.pep.sqTail + i) % n)) 64),
          sqTail := v, sqHead := v } }) ∧
      (n ≤ v ∨ n - 1 - queued < added → gives (.callTail 0 0x10000 width w []) s ({ s with bell := true }.raise rPepEvents 0x100))) ∧
    (s.regBit rCallqCfg 0 = true → n = s.cqEntries →
      (v < n → (v + n - s.pep.cqHead) % n ≤ (s.pep.cqTail + n - s.pep.cqHead) % n → s.pep.cplWait = [] →
        gives (.cplHead 0 0x10008 width w) s { s with bell := true, pep := { s.pep with cqHead := v } }) ∧
      (n ≤ v ∨ (s.pep.cqTail + n - s.pep.cqHead) % n < (v + n - s.pep.cqHead) % n →
        gives (.cplHead 0 0x10008 width w) s ({ s with bell := true }.raise rPepEvents 0x100)))) ∧
  (∀ (s : State) (off : Nat) (d : Bytes) (v : W64), s.fnOpen 0 = true → off + d.length ≤ 0x10000 →
    gives (.callTail 0 0 8 v [(off, d)]) s { s with pep := { s.pep with slots := Mem.writeBytes s.pep.slots off d } }) ∧
  (∀ (s : State) (c : Cpl),
    (s.cqFull = false → s.pep.cplWait = [] → s.pep.bme0 = true → s.pep.posted = [] → c.notify = false →
      s.cplPush c = { s with
        pep := { s.pep with
          cqTail := (s.pep.cqTail + 1) % s.cqEntries, completed := s.pep.completed + 1,
          phase := if (s.pep.cqTail + 1) % s.cqEntries = 0 then !s.pep.phase else s.pep.phase },
        out := s.out ++ [.hostWrite ((s.reg rCqBase).toNat + 16 * s.pep.cqTail)
          (c.entry.take 7 ++ [if s.pep.phase then 1 else 0] ++ c.entry.drop 8)] }) ∧
    (s.cqFull = true → s.cplPush c = { s with pep := { s.pep with cplWait := s.pep.cplWait ++ [c] } }.raise rPepEvents 0x200)) ∧
  (∀ (s : State) (m width : Nat) (v : W64), s.gate m rCallqCfg width true = .open → mayWrite m rCallqCfg = false →
    gives (.callqEnable m width v) s s ∧ gives (.callqDisable m width v) s s) ∧
  (∀ (s : State) (m width : Nat) (v x k rw new : W64), s.gate m rCallqCfg width true = .open → mayWrite m rCallqCfg = true →
    (x, k) = slotValue rCallqCfg width v →
    rw = BitVec.ofNat 64 (regDesc rCallqCfg).rw → new = (s.reg rCallqCfg &&& ~~~(k &&& rw)) ||| (x &&& k &&& rw) →
    (s.regBit rCallqCfg 0 = false → new.getLsbD 0 = true → gives (.callqEnable m width v) s { s.setReg rCallqCfg new with
      pep := { s.pep with sqHead := 0, sqTail := 0, cqHead := 0, cqTail := 0, phase := true } }) ∧
    (s.regBit rCallqCfg 0 = true → new = s.reg rCallqCfg &&& ~~~(1 : W64) →
      ∃ t, gives (.callqDisable m width v) s t ∧ t.pep = { s.pep with queue := [], cplWait := [] } ∧
        (∀ p ∈ t.calls, p.2.internal = false → p.2.discarded = true ∧ (p.2.phase = .held → p.2.param ≠ nullH) ∧ p.2.phase ≠ .handover) ∧
        (∀ p ∈ s.calls, p.2.internal = true → p ∈ t.calls) ∧ t.regs = (s.setReg rCallqCfg new).regs) ∧
    (s.regBit rCallqCfg 0 = true → new ≠ s.reg rCallqCfg &&& ~~~(1 : W64) → gives (.callqEnable m width v) s (s.raise rPepEvents 0x400))) ∧
  (∀ (s : State) (n due : Nat) (d : Bytes) (off : Nat), Tbl.find s.pep.late n = some due →
    gives (.pcieCompletion (some n) (.data off d)) s { s with pep := { s.pep with
      late := if due ≤ d.length then Tbl.del s.pep.late n else Tbl.set s.pep.late n (due - d.length) } } ∧
    gives (.completionTimeout n) s { s with pep := { s.pep with late := Tbl.del s.pep.late n } }) ∧
  (∀ (s : State) (n : Nat) (c : Call) (off : Nat) (d : Bytes), Tbl.find s.pep.late n = none →
    (Tbl.find s.calls n = none → gives (.pcieCompletion (some n) .error) s ((s.raise rPepEvents 0x80).bump 0xD0040 32 16 1)) ∧
    gives (.pcieCompletion none .error) s ((s.raise rPepEvents 0x80).bump 0xD0040 32 16 1) ∧
    (Tbl.find s.calls n = some c → c.internal = false → c.phase = .reading → c.due ≠ 0 →
      (d ≠ [] → off + d.length ≤ callPlen c.entry → d.length ≤ c.due → (∀ g ∈ c.got, off + d.length ≤ g.1 ∨ g.1 + g.2 ≤ off) →
        gives (.pcieCompletion (some n) (.data off d)) s
          { s.wrBytes (bufBase c.ridge + (s.bufOf c.ridge c.param).base * 1024 + off) d with
            calls := Tbl.set s.calls n { c with due := c.due - d.length, got := (off, d.length) :: c.got } }) ∧
      (d = [] ∨ callPlen c.entry < off + d.length ∨ c.due < d.length ∨ (∃ g ∈ c.got, off < g.1 + g.2 ∧ g.1 < off + d.length) →
        gives (.pcieCompletion (some n) (.data off d)) s (((s.raise rPepEvents 0x40).bump 0xD0040 16 16 1).paramFault n c)) ∧
      gives (.pcieCompletion (some n) .error) s (((s.raise rPepEvents 0x40).bump 0xD0040 16 16 1).paramFault n c) ∧
      gives (.completionTimeout n) s (((s.raise rPepEvents 0x20).bump 0xD0040 0 16 1).paramFault n c))) ∧
  (∀ (s : State) (fn : Nat) (fmask : Bool) (vmask : Nat), fn < 2 →
    (∃ t, gives (.msixUnmask fn false fmask vmask) s t ∧ (t.msix fn).enable = false ∧ t.out = s.out ∧ (t.msix (1 - fn)) = s.msix (1 - fn)) ∧
    ((s.msix fn).enable = true → (s.msix fn).fmask = false → (s.msix fn).pba = 2 → s.bme fn = true → vmask = 0 →
      gives (.msixUnmask fn true false vmask) s
        { (s.setMsix fn { enable := true, fmask := false, vmask := 0, pba := 0 }) with out := s.out ++ [.msix fn 1] })) ∧
  (∀ (s t u : State) (mem : Bool), t = { s with pep := { s.pep with bme0 := false, mse0 := mem, flrBusy0 := false } } →
    u = { s with pep := { s.pep with bme1 := false, mse1 := mem, flrBusy1 := false } } →
    gives (.busMasterEnable 0 false mem) s (if s.pep.bme0 = true then t.raise rPepEvents 0x10 else t) ∧
    gives (.busMasterEnable 1 false mem) s (if s.pep.bme1 = true then u.raise rPepEvents 0x10 else u) ∧
    (s.pep.msix0.pba = 0 → gives (.busMasterEnable 0 true mem) s { s with
      pep := { s.pep with bme0 := true, mse0 := mem, flrBusy0 := false, posted := [] }, out := s.out ++ s.pep.posted.map (fun p => .hostWrite p.addr p.data) }) ∧
    (s.pep.msix1.pba = 0 → gives (.busMasterEnable 1 true mem) s { s with
      pep := { s.pep with bme1 := true, mse1 := mem, flrBusy1 := false } })) ∧
  (∀ (s : State) (n : Nat) (w : Posted) (before after : List Posted), s.pep.posted = before ++ w :: after → w.call = some n → s.pep.bme0 = false →
    (∀ p ∈ before, p.call ≠ some n) → w.since.toNat + 100000000 ≤ s.time.toNat → w ∉ before →
    gives (.writebackDiscard n) s ({ s with pep := { s.pep with
        posted := (before ++ after).map (fun (p : Posted) => if p.cpl = some n then { p with data := p.data.take 4 ++ [0x07] ++ p.data.drop 5 } else p),
        cplWait := s.pep.cplWait.map (fun (c : Cpl) => if c.call = n then { c with entry := c.entry.take 4 ++ [0x07] ++ c.entry.drop 5 } else c) } }.raise
      rPepEvents 0x10)) ∧
  (∀ (s : State), ∃ t, gives (.functionLevelReset 0) s t ∧ t.pep.flrBusy0 = true ∧ t.pep.posted = [] ∧ t.pep.queue = [] ∧ t.pep.bme0 = false ∧ t.pep.mse0 = false ∧
    t.pep.msix0 = Msix.fresh ∧ t.pep.sqHead = 0 ∧ t.pep.sqTail = 0 ∧ t.pep.cqHead = 0 ∧ t.pep.cqTail = 0 ∧ t.pep.phase = true ∧
    t.pep.bme1 = s.pep.bme1 ∧ t.pep.mse1 = s.pep.mse1 ∧ t.pep.commits = s.pep.commits ∧ t.pep.keepers = s.pep.keepers) ∧
  (∀ (s : State), ∃ t, gives (.functionLevelReset 1) s t ∧ t.pep.flrBusy1 = true ∧ (∀ w < 8, w ∈ t.pep.commits) ∧ t.pep.bme1 = false ∧ t.pep.mse1 = false ∧
    t.pep.queue = s.pep.queue ∧ t.pep.sqTail = s.pep.sqTail ∧ t.calls = s.calls) ∧
  (∀ (s : State), (s.pep.linkUp = false → gives .pcieLinkDown s s) ∧
    (s.pep.linkUp = true → ∃ t, gives .pcieLinkDown s t ∧ t.pep.linkUp = false ∧ t.pep.speed = 0 ∧ t.pep.width = 0 ∧ t.pep.bme0 = false ∧
      t.pep.bme1 = false ∧ t.pep.queue = [] ∧ t.pep.posted = [] ∧ (∀ w < 8, w ∈ t.pep.commits))) ∧
  (∀ (s : State) (speed width : Nat), s.pep.linkUp = false → bit s.pwr.domains 79 = true →
    (∃ t, gives (.pcieLinkUp speed ⟨width, none⟩) s t ∧ t.pep.linkUp = true ∧ t.pep.speed = speed % 8 ∧ t.pep.width = width % 32 ∧
      t.pep.frozen0 = false ∧ t.pep.frozen1 = false ∧ t.calls = s.calls ∧ t.mem = s.mem) ∧
    (∀ (fn a : Nat) (wr : Bool), fn < 2 →
      ∃ t, gives (.pcieLinkUp speed ⟨width, some (fn, a, wr)⟩) s t ∧ t.pep.linkUp = true ∧
        t.pep.frozen0 = (decide (fn = 0) && s.pep.frozen0) ∧ t.pep.frozen1 = (decide (fn = 1) && s.pep.frozen1)))

/-- R405, R417 to R422 and R425. Which RESULT a route without a stated one returns is free (log entries 3 and 34). What the spec
leaves open in them is as log entry 59 says (the model's reading or choice). -/
def Obligations.PeerWindowsOpenAndClose : Prop :=
  (∀ (s : State) (w x r n : Nat) (h c : W64) (d : Bytes), w < 8 → x < 0x100000 → s.pep.linkUp = true → s.pep.frozen1 = false → s.pep.mse1 = true →
    w ∉ s.pep.commits → h = s.reg (winReg w + 0x10) → c = s.reg (winReg w + 0x18) → r = bits c.toNat 0 3 →
    (s.liveH r h = true → x + d.length ≤ hLen h → c.getLsbD 4 = true →
      gives (.peerWindowAccess (w * 0x100000 + x) n (some d)) s ((s.wrBytes (s.hAddr r h + x) d).bump (winReg w + 0x38) 0 64 d.length)) ∧
    (s.liveH r h = true → x + n ≤ hLen h → c.getLsbD 3 = true →
      gives (.peerWindowAccess (w * 0x100000 + x) n none) s { s with out := s.out ++ [.pcieReply 1 0 (s.rdBytes (s.hAddr r h + x) n)] }) ∧
    (s.liveH r h = false ∨ hLen h < x + d.length ∨ c.getLsbD 4 = false →
      gives (.peerWindowAccess (w * 0x100000 + x) n (some d)) s ((s.raise (winReg w + 0x28) 2).bump 0xD0040 48 16 1)) ∧
    (s.liveH r h = false ∨ hLen h < x + n ∨ c.getLsbD 3 = false →
      gives (.peerWindowAccess (w * 0x100000 + x) n none) s (((s.raise (winReg w + 0x28) 2).bump 0xD0040 48 16 1).emit (.pcieReply 1 1 [])))) ∧
  (∀ (s : State) (off n : Nat), s.pep.linkUp = true → s.pep.frozen1 = true →
    gives (.peerWindowAccess off n none) s { s with out := s.out ++ [.pcieReply 1 4 []] }) ∧
  (∀ (s : State) (m w width : Nat) (v : W64), w < 8 → s.gate m (winReg w + 0x20) width true = .open → mayWrite m (winReg w + 0x20) = true →
    (v.getLsbD 0 = true → w ∉ s.pep.commits → gives (.commit m w width v) s { s with pep := { s.pep with commits := s.pep.commits ++ [w] } }) ∧
    (v.getLsbD 0 = true → w ∈ s.pep.commits → gives (.commit m w width v) s (s.raise (winReg w + 0x28) 8)) ∧
    (v.getLsbD 0 = false → gives (.commit m w width v) s s)) ∧
  (∀ (s : State) (w : Nat), w ∈ s.pep.commits → Tbl.find s.pep.keepers w = none →
    gives (.commitComplete w) s { ((s.setReg (winReg w + 0x10) (s.reg (winReg w))).setReg (winReg w + 0x18) (s.reg (winReg w + 8))) with
      pep := { s.pep with commits := s.pep.commits.filter (fun x => decide (x ≠ w)) } }) ∧
  (∀ (s : State) (m w o width : Nat) (v x k rw : W64), w < 8 → o ∈ [0, 8] → s.gate m (winReg w + o) width true = .open → mayWrite m (winReg w + o) = true →
    (x, k) = slotValue (winReg w + o) width v → rw = BitVec.ofNat 64 (regDesc (winReg w + o)).rw →
    (w ∉ s.pep.commits → gives (.winShadowWrite m w o width v) s
      (s.setReg (winReg w + o) ((s.reg (winReg w + o) &&& ~~~(k &&& rw)) ||| (x &&& k &&& rw)))) ∧
    (w ∈ s.pep.commits → gives (.winShadowWrite m w o width v) s (s.raise (winReg w + 0x28) 4))) ∧
  (∀ (s : State) (w cid : Nat) (v c : W64), w < 8 → s.fnOpen 1 = true → c = s.reg (winReg w + 0x18) →
    cid = 1024 * bits c.toNat 0 3 + bits c.toNat 5 10 →
    (s.reg (winReg w + 0x10) ≠ nullH → c.getLsbD 15 = true → Tbl.find s.pep.keepers w ≠ some cid →
      gives (.signal (8 * w) 8 v) s ((s.setReg (winReg w + 0x30) v).wake cid) ∧
      gives (.signal (8 * w) 4 v) s ((s.setReg (winReg w + 0x30) (v &&& 0xFFFFFFFF)).wake cid)) ∧
    (s.reg (winReg w + 0x10) = nullH ∨ c.getLsbD 15 = false →
      gives (.signal (8 * w) 8 v) s ((s.raise (winReg w + 0x28) 2).bump 0xD0040 48 16 1)) ∧
    gives (.signal (8 * w + 4) 4 v) s (s.bump rSysBad 0 32 1)) ∧
  (∀ (s : State) (m w : Nat), 0x20 ≤ m → m < 0x24 → w < 8 → s.gate m 0xD0048 8 true = .open → s.pep.keepers = [] →
    gives (.winReady m 8 (BitVec.ofNat 64 (2 ^ w))) s (s.sendVec 1 w)) ∧
  (∀ (s : State) (w n slot r call : Nat) (c : Call), s.libCall call 88 = some c → w = callArg c.entry 0 → n = callArg c.entry 1 →
    slot = callArg c.entry 2 → r = c.ridge →
    (8 ≤ w ∨ n = 0 ∨ 0x100000 < n ∨ slot < 192 ∨ 256 ≤ slot →
      ∃ x, gives (.peerBind call) s ({ s with freeCtr := s.freeCtr + 1 }.libExit call 0x74 x)) ∧
    (w < 8 → 0 < n → n ≤ 0x100000 → 192 ≤ slot → slot < 256 → Tbl.find s.pep.keepers w = none →
      (s.reg (winReg w + 0x10) ≠ nullH ∨ w ∈ s.pep.commits →
        ∃ x, gives (.peerBind call) s ({ s with freeCtr := s.freeCtr + 1 }.libExit call 0x75 x)) ∧
      (∀ k, s.reg (winReg w + 0x10) = nullH → w ∉ s.pep.commits → s.oldestFree r = some k → k / 1024 = r → 0 < s.freeClimbs r →
        s.allocTurn r n true = true → (∃ b < 8191, Tbl.find s.bufs (8192 * r + b) = none) →
        ∃ t b, gives (.peerBind call) s t ∧ Tbl.find t.pep.keepers w = some k ∧ w ∈ t.pep.commits ∧
          (t.climb k).state = .parked ∧ (t.climb k).bg = true ∧ (t.climb k).origin = .keeper w ∧ (t.climb k).g.getD 1 0 = BitVec.ofNat 64 slot ∧
          (∃ base, Tbl.find t.bufs (8192 * r + b) = some { base := base, grans := ceilDiv n 1024, bytes := n, owner := k }) ∧
          (∀ j, j ≠ k → t.climb j = s.climb j) ∧ t.calls = s.calls)) ∧
    (∀ k, w < 8 → 0 < n → n ≤ 0x100000 → 192 ≤ slot → slot < 256 → Tbl.find s.pep.keepers w = some k → (s.climb k).origin = .keeper w →
      (s.climb k).g.getD 2 0 = BitVec.ofNat 64 call → w ∉ s.pep.commits →
      gives (.peerBind call) s ((s.setClimb k { s.climb k with g := (s.climb k).g.set 2 0 }).libExit call 0 (s.reg (winReg w + 0x10)).toNat))) ∧
  (∀ (s : State) (w call : Nat) (c : Call), s.libCall call 89 = some c → w = callArg c.entry 0 →
    (8 ≤ w → ∃ x, gives (.peerUnbind call) s ({ s with freeCtr := s.freeCtr + 1 }.libExit call 0x74 x)) ∧
    (w < 8 → Tbl.find s.pep.keepers w = none → ∃ x, gives (.peerUnbind call) s ({ s with freeCtr := s.freeCtr + 1 }.libExit call 0x76 x)) ∧
    (∀ k, w < 8 → Tbl.find s.pep.keepers w = some k → (s.climb k).wakePending = false → s.liveChild k = false → w ∉ s.pep.commits →
      gives (.peerUnbind call) s { s.setReg (winReg w) nullH with pep := { s.pep with commits := s.pep.commits ++ [w] } })) ∧
  (∀ (s : State) (n code result : Nat) (c : Call), Tbl.find s.calls n = some c → c.internal = true → c.discarded = false →
    ((s.route (callSlot c.entry)).writeback = false ∨ callPlen c.entry = 0 ∨ s.liveH c.ridge c.param = false) → result < 2 ^ 64 →
    ∀ u, u = { s with
        calls := Tbl.del s.calls n,
        internalCpl := s.internalCpl ++ [sliceAt c.entry 4 4 ++ [if code = 0 then 0 else 1, BitVec.ofNat 8 c.ridge, BitVec.ofNat 8 code, 0]
          ++ leBytes 8 result] } →
      s.libExit n code result = (match c.cid with | some k => u.libEnd k (.exit code) | none => u))

/-- R96, R504, R507 to R509, R511 to R516, R518 and R519. What the spec leaves open in them is as log entry 69 says (the model's
reading or choice). -/
def Obligations.SummitBookKeepsRecords : Prop :=
  (∀ (s : State) (m : Nat) (v : W64), m ∈ [0x20, 0x21, 0x22, 0x23, 0x60] →
    (s.gate m 0x60080 8 true = .open → gives (.wrHdr m 0 8 v) s { s with
      sbk := { s.sbk with stages := Tbl.set s.sbk.stages m { hdr := v, payload := [], low := none } } }) ∧
    (∀ g, Tbl.find s.sbk.stages m = some g → s.gate m 0x60088 8 true = .open →
      gives (.wrData m 0 8 v) s { s with
        sbk := { s.sbk with stages := Tbl.set s.sbk.stages m { g with payload := stageFlat g ++ leBytes 8 v.toNat, low := none } } }) ∧
    (∀ g, Tbl.find s.sbk.stages m = some g → g.low = none → s.gate m 0x60088 4 true = .open →
      gives (.wrData m 0 4 v) s { s with
        sbk := { s.sbk with stages := Tbl.set s.sbk.stages m { g with low := some (leBytes 4 v.toNat) } } }) ∧
    (Tbl.find s.sbk.stages m = none → (s.gate m 0x60088 8 true = .open → gives (.wrData m 0 8 v) s s) ∧
      (s.gate m 0x60090 8 true = .open → gives (.wrCommit m 8 v) s s)) ∧
    (∀ g len, Tbl.find s.sbk.stages m = some g → g.low = none → v.getLsbD 0 = true → s.gate m 0x60090 8 true = .open →
      len = bits g.hdr.toNat 0 16 →
      (16 ≤ len → len ≤ 1024 → g.payload.length / 8 = ceilDiv (len - 16) 8 →
        (s.sbkQueued + ceilDiv len 8 * 8 ≤ 16384 → (∀ h ∈ s.sbk.heldCommits, h.1 ≠ m) →
          gives (.wrCommit m 8 v) s { s with sbk := { s.sbk with
            stages := Tbl.del s.sbk.stages m,
            queue := s.sbk.queue ++ [{ source := m, typ := bits g.hdr.toNat 16 12, flags := bits g.hdr.toNat 36 28,
                                       payload := g.payload.take (len - 16), job := none }] } }) ∧
        (16384 < s.sbkQueued + ceilDiv len 8 * 8 →
          gives (.wrCommit m 8 v) s { s with sbk := { s.sbk with
            stages := Tbl.del s.sbk.stages m, heldCommits := s.sbk.heldCommits ++ [(m, g)] } })) ∧
      (len < 16 ∨ 1024 < len ∨ g.payload.length / 8 ≠ ceilDiv (len - 16) 8 →
        gives (.wrCommit m 8 v) s ({ s with sbk := { s.sbk with
          stages := Tbl.del s.sbk.stages m, lenErrors := s.sbk.lenErrors + 1 } }.raise rSbkEvents 0x40)))) ∧
  (∀ (s : State) (v : W64), (s.gate 0x50 0x60080 8 true = .open → gives (.wrHdr 0x50 0 8 v) s { s with sbk := { s.sbk with rejected := s.sbk.rejected + 1 } }) ∧
    (s.gate 0x50 0x60088 8 true = .open → gives (.wrData 0x50 0 8 v) s { s with sbk := { s.sbk with rejected := s.sbk.rejected + 1 } }) ∧
    (s.gate 0x50 0x60090 8 true = .open → gives (.wrCommit 0x50 8 v) s { s with sbk := { s.sbk with rejected := s.sbk.rejected + 1 } })) ∧
  (∀ (s : State) (r : SbkRec) (q : List SbkRec) (size : Nat), s.sbk.queue = r :: q → s.sbk.heldCommits = [] → r.job = none →
    size = ceilDiv (16 + r.payload.length) 8 * 8 →
    (s.sbk.frozen = false → s.sbk.clearing = none → s.sbk.full = false → s.sbk.fill + size ≤ 0x400000 → (0x200000 < s.sbk.fill ∨ s.sbk.fill + size ≤ 0x200000) →
      gives .sbkStore s { s with
        sbk := { s.sbk with
          queue := q, fill := s.sbk.fill + size,
          book := Mem.writeBytes s.sbk.book s.sbk.fill (padTo size (leBytes 8 (16 + r.payload.length + r.typ % 4096 * 2 ^ 16 + r.source % 256 * 2 ^ 28 + r.flags % 2 ^ 28 * 2 ^ 36)
          ++ leBytes 8 s.time.toNat ++ r.payload)) } }) ∧
    (s.sbk.frozen = true ∨ s.sbk.clearing ≠ none → gives .sbkStore s { s with sbk := { s.sbk with queue := q, frozenMissed := sat32 s.sbk.frozenMissed } }) ∧
    (s.sbk.frozen = false → s.sbk.clearing = none → s.sbk.full = true → gives .sbkStore s { s with sbk := { s.sbk with queue := q, fullMissed := sat32 s.sbk.fullMissed } }) ∧
    (s.sbk.frozen = false → s.sbk.clearing = none → s.sbk.full = false → 0x400000 < s.sbk.fill + size →
      gives .sbkStore s ({ s with sbk := { s.sbk with queue := q, full := true, fullMissed := sat32 s.sbk.fullMissed } }.raise rSbkEvents 2))) ∧
  (∀ (s : State) (m : Nat) (r : SbkRec) (g : SbkStage), s.sbk.queue = [r] → r.job = none → s.sbk.heldCommits = [(m, g)] →
    g.low = none → bits g.hdr.toNat 0 16 ≤ 1024 →
    ∃ t, gives .sbkStore s t ∧ t.sbk.heldCommits = [] ∧
      t.sbk.queue = [{ source := m, typ := bits g.hdr.toNat 16 12, flags := bits g.hdr.toNat 36 28,
                       payload := g.payload.take (bits g.hdr.toNat 0 16 - 16), job := none }]) ∧
  (∀ (s : State) (n : Nat) (r : SbkRec) (q : List SbkRec) (j : Job), s.sbk.queue = r :: q → s.sbk.heldCommits = [] → r.job = some n →
    Tbl.find s.jobs n = some j → ∃ t, gives (.sbkRecord n) s t ∧ t.sbk.queue = q ∧ t.jobs = Tbl.del s.jobs n ∧
      ((s.climb j.cid).ended = .running → j.tok < (s.climb j.cid).t.length → t.tok j.cid j.tok = .done (cplWord
        (if s.sbk.frozen = true ∨ s.sbk.clearing ≠ none ∨ s.sbk.full = true ∨ 0x400000 < s.sbk.fill + ceilDiv (16 + r.payload.length) 8 * 8 then 0x10 else 0) 0x0B 0))) ∧
  (∀ (s u : State) (m : Nat), s.gate m 0x60008 8 true = .open → u = s.setReg 0x60008 (s.reg 0x60008 &&& ~~~(0x3FF0000 : W64)) →
    gives (.freeze m 8 1) s { u with sbk := { s.sbk with frozen := true, thawAt := s.time + BitVec.ofNat 64 (max 1 (u.regBits 0x60008 16 10) * 100000) } } ∧
    gives (.thaw m 8 2) s (if s.sbk.frozen then { u with sbk := { s.sbk with frozen := false, nonce := none } } else u) ∧
    (s.wdn.trngOk = true → ∃ n, n.length = 16 ∧ gives (.nonceReq m 8 4) s { u with
      sbk := { s.sbk with nonce := some n, nonceAt := s.time }, wdn := { s.wdn with drbgReqs := s.wdn.drbgReqs + 1 }, freeCtr := s.freeCtr + 1 }) ∧
    (s.wdn.trngOk = false → gives (.nonceReq m 8 4) s ({ u with sbk := { s.sbk with nonce := none } }.raise rSbkEvents 0x20)) ∧
    (s.sbk.frozen = false ∨ s.sbk.nonce = none ∨ s.sbk.clearing ≠ none → gives (.clear m 8 8) s
        ({ u with sbk := { s.sbk with clearsRefused := s.sbk.clearsRefused + 1, nonce := none } }.raise rSbkEvents 0x10)) ∧
    (∀ n, s.bookKey = none → s.sbk.frozen = true → s.sbk.clearing = none → s.sbk.nonce = some n → gives (.clear m 8 8) s
      ({ u with sbk := { s.sbk with nonce := none, clearing := some (m, u.bookTokenBytes, []) } }.raise rWdnEvents 2)) ∧
    (∀ k, s.bookKey = some k → (∀ n, s.sbk.frozen = true → s.sbk.clearing = none → s.sbk.nonce = some n → gives (.clear m 8 8) s { u with
        sbk := { s.sbk with
          nonce := none, clearing := some (m, u.bookTokenBytes, hmac256 k (n ++ leBytes 1 m ++ leBytes 8 s.sbk.gen)) } }))) ∧
  (∀ (s : State), (s.sbk.frozen = true → s.sbk.clearing = none → s.sbk.thawAt.toNat ≤ s.time.toNat →
      gives .thawTimer s ({ s with sbk := { s.sbk with frozen := false, nonce := none } }.raise rSbkEvents 4)) ∧
    (s.sbk.clearing ≠ none ∨ s.time.toNat < s.sbk.thawAt.toNat → gives .thawTimer s s) ∧
    (∀ n, s.sbk.nonce = some n →
      (1000000000 ≤ (s.time - s.sbk.nonceAt).toNat → gives .nonceExpiry s { s with sbk := { s.sbk with nonce := none } }) ∧
      ((s.time - s.sbk.nonceAt).toNat < 1000000000 → gives .nonceExpiry s s)) ∧
    (∀ m g, s.sbk.clearing = some (m, g, g) → ∃ t, gives .clearCompare s t ∧ t.harvested = 0 ∧
      t.sbk = { s.sbk with
        fill := 40, gen := s.sbk.gen + 1, full := false, fullMissed := 0, frozenMissed := 0, frozen := false, clearing := none,
        clearsDone := s.sbk.clearsDone + 1,
        book := Mem.writeBytes [] 0 (leBytes 8 (40 + 1 * 2 ^ 16 + 0x80 * 2 ^ 28) ++ leBytes 8 s.time.toNat ++ leBytes 8 s.sbk.gen
          ++ leBytes 4 s.sbk.fill ++ leBytes 4 s.sbk.fullMissed ++ leBytes 4 s.sbk.frozenMissed ++ leBytes 1 m ++ [0, 0, 0]) } ∧
      t.regs = (s.raise rSbkEvents 8).regs) ∧
    (∀ m g e, s.sbk.clearing = some (m, g, e) → g ≠ e → gives .clearCompare s
      ({ s with sbk := { s.sbk with clearing := none, clearsRefused := s.sbk.clearsRefused + 1 } }.raise rSbkEvents 0x10))) ∧
  (∀ (s : State) (p n : Nat), s.lowestOwned = some p → s.regBit rSbkEvents 0 = true ∨ 6000000000 ≤ (s.time - s.harvestedAt).toNat →
    n = s.sbk.fill - s.harvested → 0 < n → n ≤ 4080 →
    ∃ t, gives .harvest s t ∧ t.harvested = s.sbk.fill ∧ t.harvestedAt = s.time ∧ t.sbk = s.sbk ∧
      Tbl.find (t.pool p).harvest (16384 * s.headId + (s.pool p).harvestAt % 16384) =
        some (padTo 4096 (leBytes 1 s.headId ++ zeros 3 ++ leBytes 4 s.sbk.gen ++ leBytes 4 s.harvested ++ leBytes 2 n ++ zeros 2
          ++ Mem.readBytes s.sbk.book s.harvested n))) ∧
  (∀ (s : State) (call m : Nat) (c : Call), s.libCall call 108 = some c → m = callArg c.entry 0 →
    (m ∉ [0x20, 0x21, 0x22, 0x23, 0x50] ∨ callPlen c.entry < 32 →
      ∃ x, gives (.bookToken call) s ({ s with freeCtr := s.freeCtr + 1 }.libExit call 0x90 x)) ∧
    (∀ k n, m ∈ [0x20, 0x21, 0x22, 0x23, 0x50] → 32 ≤ callPlen c.entry → s.bookKey = some k → s.sbk.nonce = some n →
      Tbl.find s.calls call = some c →
      gives (.bookToken call) s ((s.setParam c (hmac256 k (n ++ leBytes 1 m ++ leBytes 8 s.sbk.gen))).libExit call 0 1))) ∧
  (∀ (s : State) (call p h i : Nat) (c : Call), s.libCall call 109 = some c → p = callPool c.entry → h = callArg c.entry 0 → i = callArg c.entry 1 →
    (15 < p ∨ 1 < h ∨ 16384 ≤ i → ∃ x, gives (.bookRead call) s ({ s with freeCtr := s.freeCtr + 1 }.libExit call 0x90 x)) ∧
    (p ≤ 15 → h ≤ 1 → i < 16384 → Tbl.find (s.pool p).harvest (16384 * h + i) = none →
      ∃ x, gives (.bookRead call) s ({ s with freeCtr := s.freeCtr + 1 }.libExit call 0x93 x)) ∧
    (∀ d, p ≤ 15 → h ≤ 1 → i < 16384 → Tbl.find (s.pool p).harvest (16384 * h + i) = some d → d.length = 4096 → callPlen c.entry / 4096 = 1 →
      Tbl.find s.calls call = some c → gives (.bookRead call) s ((s.setParam c d).libExit call 0 1)))

/-- R329, R485, R526 to R530, R535 to R542, R545, R546, R555, R558, R561, R562 and R566. What the spec leaves open in them is as
log entries 45, 61 and 64 say (the model's reading or choice). -/
def Obligations.PowerAndModesFollowTheirSignals : Prop :=
  (∀ (s : State) (sel : Bool), (s.pwr.standby = true → gives (.standbyRailUp sel) s s) ∧
    (s.pwr.standby = false → ∃ t, gives (.standbyRailUp sel) s t ∧ t.pwr = { State.reset.pwr with headSel := sel } ∧
      t.fuses = s.fuses ∧ t.ckpts = s.ckpts ∧ t.mem = [] ∧ t.calls = [] ∧ t.sbk = State.reset.sbk ∧ t.wdn.keyArea = s.wdn.keyArea)) ∧
  (∀ (s : State), ∃ t, gives .standbyRailLost s t ∧ t.pwr.mode = 0 ∧ t.pwr.standby = false ∧ t.pwr.domains = 0 ∧
    t.fuses = s.fuses ∧ t.ckpts = s.ckpts ∧ t.mem = [] ∧ t.climbs = [] ∧ t.sbk = State.reset.sbk ∧ t.time = State.reset.time) ∧
  (∀ (s : State), (s.pwr.standby = true → s.pwr.pwrGood = false → s.pwr.mode ≠ 0 → s.pwr.resetN = true →
      gives .pwrGoodRise s { s with pwr := { s.pwr with pwrGood := true, refOk := true, pllLock := true, seqBusy := s.nextDomain.isSome } }) ∧
    (s.pwr.standby = true → s.pwr.pwrGood = false → s.pwr.resetN = false →
      gives .pwrGoodRise s { s with pwr := { s.pwr with pwrGood := true, refOk := true, pllLock := true } }) ∧
    (s.pwr.standby = true → s.pwr.pwrGood = true → s.pwr.resetN = false → s.pwr.mode ≠ 0 →
      gives .resetNRelease s { s with pwr := { s.pwr with resetN := true, seqBusy := s.nextDomain.isSome } }) ∧
    (s.pwr.standby = true → s.pwr.pwrGood = true → s.pwr.resetN = false → s.pwr.mode = 0 →
      ∃ t, gives .resetNRelease s t ∧ t.pwr.mode = 2 ∧ t.pwr.kind = 1 ∧ t.time = s.time ∧ t.pwr.resetN = true)) ∧
  (∀ (s : State), (s.pwr.resetN = false → gives .resetN s s) ∧
    (s.pwr.resetN = true → s.pwr.mode = 0 → gives .resetN s { s with pwr := { s.pwr with resetN := false, seqBusy := false } }) ∧
    (s.pwr.resetN = true → s.pwr.mode ≠ 0 → ∀ u, u = s.resetHead 1 0 →
      gives .resetN s { u with pwr := { u.pwr with resetN := false, seqBusy := false } })) ∧
  (∀ (s : State) (d : Nat), (s.pwr.single = some d → ∀ u, u = s.domainOn d →
      gives .domainPowerUp s { u with pwr := { u.pwr with single := none, seqBusy := false } }) ∧
    (s.pwr.single = none → s.pwr.seqBusy = true → s.pwr.pwrGood = true → s.pwr.resetN = true → s.nextDomain = some d → ∀ u, u = s.domainOn d →
      gives .domainPowerUp s { u with pwr := { u.pwr with seqBusy := u.nextDomain.isSome } }) ∧
    (s.domainOn d).pwr = { s.pwr with
      domains := s.pwr.domains ||| 2 ^ d, seqLast := d, wiping := if d ∈ memDomains then s.pwr.wiping ++ [d] else s.pwr.wiping } ∧
    (s.nextDomain = some d → bit s.pwr.domains d = false ∧ s.domainPresent d = true ∧ d ∈ domainOrder) ∧
    (∀ f, s.pwr.hasFault = false → f = { s with pwr := { s.pwr with
        faultDomain := d, hasFault := true, seqLast := d, seqBusy := false, single := none } } →
      (s.pwr.single = some d → gives .domainFault s ((f.raise rPwrEvents 1).book 0x81 0x016 (leBytes 1 d))) ∧
      (s.pwr.single = none → s.pwr.seqBusy = true → s.nextDomain = some d → s.pwr.mode ≠ 1 →
        gives .domainFault s (((f.raise rPwrEvents 1).book 0x81 0x016 (leBytes 1 d)).setMode 11)))) ∧
  (∀ (s : State), (s.pwr.pwrGood = false → gives .pwrGoodFall s s) ∧
    (s.pwr.pwrGood = true → ∀ u, u = (s.yieldHead 4).resetHead s.pwr.kind s.pwr.source →
      gives .pwrGoodFall s { u with pwr := { u.pwr with mode := 0, pwrGood := false, domains := 1, seqBusy := false, pllLock := false, wiping := [] } })) ∧
  (∀ (s : State) (m d : Nat) (on : Bool), s.gate m 0x20020 8 true = .open → d < 128 →
    (d < 62 ∨ 77 < d ∨ s.pwr.seqBusy = true ∨ s.domainPresent d = false →
      gives (.domainReq m 8 (BitVec.ofNat 64 (d + 128 * b2n on))) s (s.raise rPwrEvents 2)) ∧
    (62 ≤ d → d ≤ 77 → s.pwr.seqBusy = false → s.domainPresent d = true →
      (bit s.pwr.domains d = false → gives (.domainReq m 8 (BitVec.ofNat 64 (d + 128))) s
        { s with pwr := { s.pwr with single := some d, seqBusy := true, seqLast := d } }) ∧
      (bit s.pwr.domains d = true → gives (.domainReq m 8 (BitVec.ofNat 64 (d + 128))) s s) ∧
      (bit s.pwr.domains d = true → d < 70 → s.regBit (hifBlk (d - 62)) 0 = true →
        gives (.domainReq m 8 (BitVec.ofNat 64 d)) s (s.raise rPwrEvents 2)) ∧
      (bit s.pwr.domains d = true → d < 70 → s.regBit (hifBlk (d - 62)) 0 = false →
        gives (.domainReq m 8 (BitVec.ofNat 64 d)) s { s with pwr := { s.pwr with domains := s.pwr.domains &&& (2 ^ 80 - 1 - 2 ^ d) } }))) ∧
  (∀ (s : State) (m : Nat) (v : W64), s.gate m 0x20038 8 true = .open →
    (v.getLsbD 0 = true → gives (.pwrReset m 8 v) s (s.resetHead 2 m)) ∧ (v.getLsbD 0 = false → gives (.pwrReset m 8 v) s s)) ∧
  (∀ (s t : State) (kind source : Nat), t = s.resetHead kind source →
    t.time = s.time ∧ t.fuses = s.fuses ∧ t.pending = s.pending ∧ t.out = s.out ∧ t.ckpts = s.ckpts ∧
    t.sbk.book = s.sbk.book ∧ t.sbk.fill = s.sbk.fill ∧ t.sbk.gen = s.sbk.gen ∧ t.sbk.nonce = none ∧ t.sbk.clearing = none ∧
    t.wdn.keyArea = s.wdn.keyArea ∧ t.modules.map Prod.fst = s.modules.map Prod.fst ∧
    t.mem = [] ∧ t.climbs = [] ∧ t.calls = [] ∧ t.jobs = [] ∧ t.reg 0x20050 = s.reg 0x20050 ∧
    (∀ r, r ≠ 0x20050 → t.reg r = State.reset.reg r) ∧
    t.pwr.mode = 2 ∧ t.pwr.prev = s.pwr.mode ∧ t.pwr.modeTime = s.time ∧ t.pwr.kind = kind ∧ t.pwr.source = source ∧
    t.pwr.domains = s.pwr.domains ∧ t.pwr.tjPeak = s.pwr.tjNow ∧ t.pwr.yieldN = false) ∧
  (∀ (s : State), s.pwr.mode = 8 →
    (∀ due, due = s.pwr.modeTime.toNat + max 1 (s.regBits 0x20050 0 16) * 100000000 →
      (s.time.toNat < due → gives .quarantineAuto s s) ∧
      (due ≤ s.time.toNat → (s.pwr.autoAt.filter (fun t => decide (due < t.toNat + 360000000000))).length < s.regBits 0x20050 16 8 →
        gives .quarantineAuto s ({ s with pwr := { s.pwr with
          autoCount := min 255 (s.pwr.autoCount + 1), autoAt := (s.time :: s.pwr.autoAt).take 256 } }.resetHead 3 0)))) ∧
  (∀ (s : State) (a : W64) (l : List W64), s.pwr.autoAt = a :: l →
    (a.toNat + 360000000000 ≤ s.time.toNat → gives .autoCountReset s { s with pwr := { s.pwr with autoCount := 0 } }) ∧
    (s.time.toNat < a.toNat + 360000000000 → gives .autoCountReset s s)) ∧
  (∀ (s : State), Tbl.sorted s.regs = true →
    (∃ t, gives .supplyWarn s t ∧ t.regBit rPwrEvents 2 = true ∧ t.pwr.smbAlertN = false ∧ t = { s with regs := t.regs, pwr := t.pwr }) ∧
    gives .supplyFault s (s.yieldHead 4) ∧
    (∀ tj : BitVec 16, (800 < tj.toInt → ∃ t, gives (.thermalWarn tj) s t ∧ t.regBit rPwrEvents 3 = true ∧ t.pwr.tempAlertN = false ∧
        t.pwr.smbAlertN = false ∧ t.pwr.tjNow = tj.toNat) ∧
      (tj.toInt < 776 → ∃ t, gives (.thermalWarn tj) s t ∧ t.regBit rPwrEvents 3 = false ∧ t.pwr.tempAlertN = true ∧ t.pwr.tjNow = tj.toNat ∧
        t.pwr.smbAlertN = !s.regBit rPwrEvents 2) ∧
      (776 ≤ tj.toInt → tj.toInt ≤ 800 → gives (.thermalWarn tj) s (s.setTj tj)) ∧
      (920 < tj.toInt → gives (.thermalShutdown tj) s ((s.setTj tj).yieldHead 3)) ∧
      (tj.toInt ≤ 920 → gives (.thermalShutdown tj) s (s.setTj tj)))) ∧
  (∀ (s : State) (m : Nat), (s.pwr.mode = m → s.setMode m = s) ∧
    (s.pwr.mode ≠ m → m ≠ 11 → s.setMode m = { s with pwr := { s.pwr with
      mode := m, prev := s.pwr.mode, modeTime := s.time,
      yieldN := s.pwr.yieldN || (decide (s.pwr.mode = 3 ∧ m ≠ 2 ∧ m ≠ 8) && !s.pair.yielded) } })) ∧
  (∀ (s : State) (c : Nat), (s.pair.yielded = true → s.yieldHead c = s) ∧
    (s.pair.yielded = false → (s.yieldHead c).pair.yielded = true ∧ (s.yieldHead c).pair.yieldCause = c ∧ (s.yieldHead c).pair.holdAll = true ∧
      (s.yieldHead c).pwr.yieldN = false ∧ (s.yieldHead c).mem = s.mem ∧ (s.yieldHead c).pools = s.pools ∧
      (s.pwr.mode ∈ [4, 5, 6, 7, 9, 10] → (s.yieldHead c).pwr.mode = 8 ∧ (s.yieldHead c).pwr.prev = s.pwr.mode) ∧
      (s.pwr.mode ∉ [4, 5, 6, 7, 9, 10] → (s.yieldHead c).pwr.mode = s.pwr.mode))) ∧
  (∀ (s : State) (g : Nat), (g ∉ s.pwr.wiping → gives (.memoryWipeDone g) s s) ∧
    (g ∈ s.pwr.wiping → ∃ t, gives (.memoryWipeDone g) s t ∧ t.pwr.wiping = s.pwr.wiping.filter (fun d => decide (d ≠ g)) ∧
      (t.wdn.sramDone = true ↔ t.pwr.wiping = [] ∧ s.pwr.seqBusy = false) ∧ t.mem = s.mem ∧ t.regs = s.regs)) ∧
  (∀ (s : State) (a c : Nat), (a = 0x5A + b2n s.pwr.headSel → c = 1 → s.pwr.mode ∉ [0, 2, 11] →
      gives (.smbusBlockRead a c) s { s with out := s.out ++ [.smbus s.powerRecord] }) ∧
    (a ≠ 0x5A + b2n s.pwr.headSel ∨ c ≠ 1 → gives (.smbusBlockRead a c) s s)) ∧
  (∀ (s u : State) (call : Nat) (c : Call), Tbl.find s.calls call = some c → c.phase = .running → u = { s with freeCtr := s.freeCtr + 1 } →
    (callSlot c.entry = 112 →
      (s.pwr.mode = 9 → ∃ x, gives (.serviceEnter call) s (u.libExit call 0 x)) ∧
      (s.pwr.mode ∉ [4, 5, 6, 9] → ∃ x, gives (.serviceEnter call) s (u.libExit call 0xA1 x)) ∧
      (s.pwr.mode ∈ [4, 5, 6] → s.ownedMask ≠ 0 → ∃ x, gives (.serviceEnter call) s (u.libExit call 0xA2 x)) ∧
      (s.pwr.mode ∈ [4, 5, 6] → s.ownedMask = 0 → ∃ x, gives (.serviceEnter call) s ((u.stopShadowing.setMode 9).libExit call 0 x))) ∧
    (callSlot c.entry = 113 →
      (s.pwr.mode ≠ 9 ∨ (s.lcState ≠ 1 ∧ s.lcState ≠ 2) → ∃ x, gives (.serviceLeave call) s (u.libExit call 0xA1 x)) ∧
      (s.pwr.mode = 9 → (s.lcState = 1 ∨ s.lcState = 2) → s.ownedMask ≠ 0 → ∃ x, gives (.serviceLeave call) s ((u.setMode 6).libExit call 0 x)) ∧
      (s.pwr.mode = 9 → (s.lcState = 1 ∨ s.lcState = 2) → s.ownedMask = 0 → s.rope.peerMode ∈ [4, 5, 6, 7] →
        ∃ x, gives (.serviceLeave call) s ((u.setMode 4).libExit call 0 x))) ∧
    (callSlot c.entry = 114 →
      (s.pwr.mode ≠ 9 ∨ (s.lcState ≠ 1 ∧ s.lcState ≠ 2) → ∃ x, gives (.standbyEnter call) s (u.libExit call 0xA1 x)) ∧
      (s.pwr.mode = 9 → (s.lcState = 1 ∨ s.lcState = 2) → s.calls.any (fun (p : Nat × Call) => decide (p.1 ≠ call)) = false →
        ∃ t, gives (.standbyEnter call) s t ∧ t.pwr.mode = 1 ∧ t.pwr.prev = 9 ∧ t.climbs = [] ∧ t.bufs = [] ∧ t.keySlots = [] ∧
          t.pwr.domains = (t.pwr.domains &&& (15 + 255 * 2 ^ 54 + 2 ^ 79)) ∧ (∀ a, 0x020000000000 ≤ a → ∀ b, (a, b) ∉ t.mem))) ∧
    (callSlot c.entry = 115 →
      (s.pwr.mode = 9 → ∃ x, gives (.standbyLeave call) s (u.libExit call 0 x)) ∧
      (s.pwr.mode ≠ 9 → s.pwr.mode ≠ 1 → ∃ x, gives (.standbyLeave call) s (u.libExit call 0xA1 x)) ∧
      (s.pwr.mode = 1 → s.nextDomain.isSome = true → gives (.standbyLeave call) s { s with pwr := { s.pwr with seqBusy := true } }) ∧
      (s.pwr.mode = 1 → s.nextDomain = none → ∃ x, gives (.standbyLeave call) s (((u.allSelfRef false).setMode 9).libExit call 0 x))))

/-- R485, R522 to R525, R531 to R534, R539, R545 and R546. What the spec leaves open in them is as log entries 65 and 66 say
(the model's reading or choice). -/
def Obligations.ClocksAndDramFollowTheirRules : Prop :=
  (∀ (s : State),
    gives .refLost s ((({ s with pwr := { s.pwr with refOk := false, aonInternal := true, holdover := true, refLostSeen := true } }.raise
      rClkEvents 1).book 0x60 0x015 []).yieldHead 7) ∧
    gives .refBack s ({ s with pwr := { s.pwr with refOk := true, aonInternal := false, holdover := false } }.raise rClkEvents 2)) ∧
  (∀ (s : State) (m : Nat) (v : W64) (tick : Bool), s.gate m 0x10010 8 true = .open → (m < 0x20 ∨ 0x24 ≤ m) →
    gives (.timeSet m 8 v tick) s s) ∧
  (∀ (s : State) (m : Nat) (v : W64), s.gate m 0x10010 8 true = .open → 0x20 ≤ m → m < 0x24 →
    (s.time.toNat < v.toNat → gives (.timeSet m 8 v false) s { s with time := v } ∧ gives (.timeSet m 8 v true) s { s with time := v + 1 }) ∧
    (v.toNat ≤ s.time.toNat → gives (.timeSet m 8 v false) s (s.raise rClkEvents 8) ∧
      gives (.timeSet m 8 v true) s ({ s with time := s.time + 1 }.raise rClkEvents 8))) ∧
  (∀ (s : State) (n : Nat), gives (.timerCompare n) s s ∧
    (s.irqLine n 11 = true ↔ s.reg (0x10040 + 8 * n) ≠ 0 ∧ (s.reg (0x10040 + 8 * n)).toNat ≤ s.time.toNat)) ∧
  (∀ (s : State), (s.pwr.standby = false → gives .timeTick s s) ∧
    (s.pwr.standby = true → s.rope.holdTime = false →
      (s.pwr.pllLock = false → gives .timeTick s { s with time := s.time + 4 }) ∧
      (s.pwr.pllLock = true → bit s.pwr.domains 3 = true → ∃ t, gives .timeTick s t ∧ t.time = s.time + 1 ∧
        t = { s with time := t.time, climbs := t.climbs, cores := t.cores, mcores := t.mcores } ∧
        (∀ m, Tbl.find t.mcores m = (Tbl.find s.mcores m).map (fun c => if c.running then { c with syscount := c.syscount + 8 } else c)))) ∧
    (s.pwr.standby = true → s.rope.holdTime = true → s.pwr.pllLock = false → gives .timeTick s s)) ∧
  (∀ (s : State) (ch : Nat) (d : Dimm), s.pwr.mode = 3 → s.drcPresent ch = true → bit s.pwr.domains (54 + ch) = true → (s.drc ch).trained = false →
    (∀ n < ch, s.drcPresent n = true → (s.drc n).trained = true) →
    (d.present = true → d.spdOk = true → d.sizeGib ∈ [16, 32, 64, 128, 256] → (∀ c ∈ s.drcs, c.2.trained = true → c.2.sizeGib = d.sizeGib) →
      4800 ≤ d.rate → d.timingOk = true → ∀ x : Drc, x = {
          present := true, trained := true, selfRef := false, slow := decide (d.rate < 6400), sizeGib := d.sizeGib, ranks2 := d.ranks2,
          rate := min 6400 d.rate, result := 0, trainMs := d.ms, filled := false } →
      gives (.dramTraining ch d) s { s with drcs := Tbl.set s.drcs ch x }) ∧
    (∀ r, (r = 1 ∧ d.present = false) ∨ (r = 2 ∧ d.present = true ∧ (d.spdOk = false ∨ d.sizeGib ∉ [16, 32, 64, 128, 256])) ∨
        (r = 3 ∧ d.present = true ∧ d.spdOk = true ∧ d.sizeGib ∈ [16, 32, 64, 128, 256] ∧
          (∀ c ∈ s.drcs, c.2.trained = true → c.2.sizeGib = d.sizeGib) ∧ d.rate < 4800) ∨
        (r = 4 ∧ d.present = true ∧ d.spdOk = true ∧ d.sizeGib ∈ [16, 32, 64, 128, 256] ∧
          (∀ c ∈ s.drcs, c.2.trained = true → c.2.sizeGib = d.sizeGib) ∧ 4800 ≤ d.rate ∧ d.timingOk = false) →
      ∃ x : Drc, x.trained = false ∧ x.result = r ∧ gives (.dramTraining ch d) s
        ((({ s with drcs := Tbl.set s.drcs ch x }.raise (drcBlk ch + 8) 8).book 0x60 0x017 (leBytes 1 ch ++ leBytes 1 r)).setMode 11))) ∧
  (∀ (s : State) (ch : Nat), (s.drc ch).trained = true → bit s.wdn.dramDone ch = false → s.wipeJob = none → Tbl.sorted s.mem = true →
    ∃ t, gives (.dramFillDone ch) s t ∧ (t.drc ch).filled = true ∧ bit t.wdn.dramDone ch = true ∧
      (∀ a < s.dramBytes, Mem.read t.mem a = if s.channelOf a = ch ∧ s.routePage (a / 4096) = false then 0 else Mem.read s.mem a) ∧
      (∀ a, s.dramBytes ≤ a → Mem.read t.mem a = Mem.read s.mem a) ∧ t.regs = s.regs ∧
      (∀ n, n ≠ ch → t.drc n = s.drc n)) ∧
  (∀ (s : State) (ch : Nat) (j : WipeJob), (s.drc ch).trained = true → bit s.wdn.dramDone ch = false → s.wipeJob = some j → ch ∈ j.filling →
    ∃ t u, gives (.dramFillDone ch) s t ∧ u = (s.fillChannel ch).setDrc ch { s.drc ch with filled := true } ∧
      (j.filling.erase ch ≠ [] → t.wipeJob = some { j with filling := j.filling.erase ch, done := j.done + u.channelBytes ch }) ∧
      (j.filling.erase ch = [] → t.wipeJob = none ∧ t.pwr.mode = 9)) ∧
  (∀ (s : State) (ch a : Nat), (s.drc ch).trained = true → s.channelOf a = ch → a < s.dramBytes → s.regBit (drcBlk ch + 0x20) 0 = true →
    gives (.scrub ch a .clean) s s ∧ gives (.scrub ch a .corrected) s (s.dramCorrected ch) ∧
    gives (.scrub ch a .uncorrectable) s ((((s.poison (a / 256)).raise (drcBlk ch + 8) 4).bump (drcBlk ch + 0x10) 32 32 1).ueAddr ch a)) ∧
  (∀ (s u : State) (ch a : Nat), s.regBit (drcBlk ch + 8) 2 = true → s.regBit (drcBlk ch + 0x18) 63 = true → a = s.regBits (drcBlk ch + 0x18) 0 48 →
    u = (s.setReg (drcBlk ch + 8) (s.reg (drcBlk ch + 8) &&& ~~~(4 : W64))).setReg (drcBlk ch + 0x18) (s.reg (drcBlk ch + 0x18) &&& (2 ^ 63 - 1 : W64)) →
    (∀ p mpn, ((s.pool p).dirE mpn).resident = true → ((s.pool p).dirE mpn).dirty = false →
      gives (.ueScrubHandle ch (some (p, mpn))) s { u with poisoned := s.poisoned.filter (fun l => decide (l ≠ a / 256)) }) ∧
    ((∀ p < 16, ∀ b l, s.summary p = some (b, l) → a < b ∨ b + 2 ^ l * 256 ≤ a) → gives (.ueScrubHandle ch none) s (u.yieldHead 1))) ∧
  (∀ (s : State) (m ch : Nat), ch < 8 → s.gate m (drcBlk ch + 0x28) 8 true = .open → m ∈ [0x20, 0x21, 0x22, 0x23, 0x60] →
    (s.pwr.mode = 9 ∨ s.pwr.mode = 1 →
      gives (.srEnter m ch 8 1) s { s with drcs := Tbl.set s.drcs ch { s.drc ch with selfRef := true } } ∧
      gives (.srExit m ch 8 2) s { s with drcs := Tbl.set s.drcs ch { s.drc ch with selfRef := false } }) ∧
    (s.pwr.mode ≠ 9 → s.pwr.mode ≠ 1 → gives (.srEnter m ch 8 1) s s ∧ gives (.srExit m ch 8 2) s s)) ∧
  (∀ (s u : State) (call : Nat) (c : Call), Tbl.find s.calls call = some c → c.phase = .running → callSlot c.entry = 116 →
    u = { s with freeCtr := s.freeCtr + 1 } →
    (1 < callArg c.entry 0 → ∃ x, gives (.deviceWipe (some call) 0 0) s (u.libExit call 0xA0 x)) ∧
    (callArg c.entry 0 = 0 → s.pwr.mode = 10 → ∃ x, gives (.deviceWipe (some call) 0 0) s (u.libExit call 0xA3 x)) ∧
    (callArg c.entry 0 = 0 → s.pwr.mode ≠ 10 → (s.pwr.mode ≠ 9 ∨ s.lcState = 0) → ∃ x, gives (.deviceWipe (some call) 0 0) s (u.libExit call 0xA1 x)) ∧
    (callArg c.entry 0 = 0 → s.pwr.mode = 9 → s.lcState ≠ 0 →
      ∃ (t : State) (x : Nat) (j : WipeJob), gives (.deviceWipe (some call) 0 0) s (t.libExit call 0 x) ∧ t.pwr.mode = 10 ∧ t.pwr.prev = 9 ∧ t.wipeJob = some j ∧
        (∀ m, m ∈ j.left ↔ ∃ q ∈ s.modules, q.1 = m ∧ (q.2.admitted = true ∨ q.2.detached = true) ∧ ∀ p ∈ s.pools, m ∉ p.2.mods) ∧
        (j.left = [] → j.filling = (List.range 8).filter s.drcPresent)) ∧
    (∀ j, callArg c.entry 0 = 1 → s.pwr.mode ≠ 9 → s.wipeJob = some j →
      ∃ (t : State) (x : Nat), gives (.deviceWipe (some call) 0 0) s (t.libExit call 0 x) ∧ t.pwr.mode = 9 ∧ t.wipeJob = none)) ∧
  (∀ (s : State) (j : WipeJob) (m r : Nat), s.wipeJob = some j →
    (m ∉ j.left → gives (.deviceWipe none m r) s s) ∧
    (m ∈ j.left → j.left.erase m ≠ [] → ∃ t, gives (.deviceWipe none m r) s t ∧
      t.wipeJob = some { j with left := j.left.erase m, ended := j.ended ++ [(m, min 2 r)], done := j.done + (s.modu m).ident.capacity } ∧
      (r = 0 → (t.modu m).slabs = []) ∧ (r ≠ 0 → t.modules = s.modules))) ∧
  (∀ (s : State) (call k : Nat) (c : Call), Tbl.find s.calls call = some c → c.phase = .running → callSlot c.entry = 117 → c.cid = some k →
    (64 ≤ callPlen c.entry → callPlen c.entry < 128 → gives (.powerStatus call) s ((s.setParam c s.powerRecord).libExit call 0 1)) ∧
    (callPlen c.entry < 64 → gives (.powerStatus call) s ((s.setParam c []).libExit call 0 0))) ∧
  (∀ (s : State), s.powerRecord.length = 64 ∧ s.powerRecord.take 2 = [BitVec.ofNat 8 s.pwr.mode, BitVec.ofNat 8 s.pwr.prev])

/-- R458, R467, R468, R471, R477 to R481 and R491. What the spec leaves open in them is as log entries 60 and 62 say (the
model's reading or choice). -/
def Obligations.WardenWatchesAndBoots : Prop :=
  (∀ (s u : State) (first : Bool) (since : W64), since = (if first then s.time else s.wdn.failsSince.getD s.time) →
    u = ({ s with wdn := { s.wdn with failsSince := some since } }.raise rWdnEvents 1).bump 0x40038 0 32 1 →
    ((s.time - since).toNat < 10000000 → gives (.trngHealthFail first) s u) ∧
    (10000000 ≤ (s.time - since).toNat → gives (.trngHealthFail first) s { u with wdn := { u.wdn with trngOk := false } })) ∧
  (∀ (s : State),
    (s.wdn.trngOk = true → (2 ^ 20 ≤ s.wdn.drbgReqs ∨ 100000000 ≤ (s.time - s.wdn.reseedAt).toNat) →
      gives .drbgReseed s ({ s with wdn := { s.wdn with drbgReqs := 0, reseedAt := s.time } }.bump 0x40038 32 32 1)) ∧
    (s.wdn.trngOk = false → gives .drbgReseed s s)) ∧
  (∀ (s : State) (sel : Bool) (ne le : Nat), s.pwr.mode = 2 → s.pwr.resetN = true → s.wdn.romDone = false → bit s.pwr.domains 1 = true →
    bit s.pwr.domains 2 = true → 1 ∉ s.pwr.wiping → 2 ∉ s.pwr.wiping →
    (s.lcState = 4 → ∃ t, gives (.boot sel ne le) s t ∧ t.pwr.mode = 11 ∧ t.wdn.romDone = true ∧ t.wdn.keyArea = [] ∧ t.pwr.headSel = sel ∧
      t.upd = s.upd) ∧
    (∀ k x, s.lcState ≠ 3 → s.lcState ≠ 4 → (s.hrec 0).state = 4 → (s.hrec 1).state = 0 → s.verifySlot 0 = .inr k → bit ne 0 = false → bit le 0 = false →
      x = s.norBytes 0 0 (manLen (s.manHead 0)) →
      ∃ t, gives (.boot sel ne le) s t ∧ t.pwr.mode = 3 ∧ t.pwr.prev = 2 ∧ t.pwr.headSel = sel ∧ t.wdn.romDone = true ∧ t.wdn.verified = true ∧
        t.wdn.slot = 0 ∧ t.wdn.fallback = false ∧ t.wdn.resultA = 1 ∧ t.wdn.trngOk = true ∧ (t.wdn.rsaSlot, t.wdn.slhSlot) = k ∧
        t.wdn.runningSvn = fieldAt (s.manHead 0) 0x0A 2 ∧
        (s.wdn.meas.length = 6 → t.wdn.meas.getD 0 [] = sha384 (s.wdn.meas.getD 0 [] ++ sha384 x)) ∧
        (∀ m < 4, Tbl.find t.mcores m = some { MCore.fresh with running := true, kickedAt := s.time }) ∧ t.upd = s.upd) ∧
    (∀ c d, s.lcState ≠ 3 → s.lcState ≠ 4 → (s.hrec 0).state = 4 → (s.hrec 1).state = 0 → s.verifySlot 0 = .inl c → s.verifySlot 1 = .inl d →
      bit ne 0 = false → bit ne 1 = false →
      ∃ t, gives (.boot sel ne le) s t ∧ t.pwr.mode = 11 ∧ t.wdn.resultA = c ∧ t.wdn.resultB = d ∧ (t.hrec 0).state = 5 ∧ (t.hrec 1).state = 5)) ∧
  (∀ (s : State) (sel : Bool) (ne le : Nat), s.pwr.mode ≠ 2 ∨ s.pwr.resetN = false ∨ s.wdn.romDone = true ∨ bit s.pwr.domains 1 = false ∨
    bit s.pwr.domains 2 = false ∨ 1 ∈ s.pwr.wiping ∨ 2 ∈ s.pwr.wiping → gives (.boot sel ne le) s s) ∧
  (∀ (s : State) (base : Nat), s.pwr.mode = 3 → s.wdn.verified = true → s.wdn.routeLen = 0 → base % 4096 = 0 →
    (∀ n, s.drcPresent n = true → bit s.wdn.dramDone n = true) →
    gives (.routeLoad base true) s (((s.setResult s.wdn.slot 9).markRec s.wdn.slot 5 9 s.time).resetHead 2 0x60) ∧
    (∀ lib, lib = s.partOf s.wdn.slot 5 → s.openParts s.wdn.slot = [] → 4096 ≤ lib.length → base < 2 ^ 48 → Tbl.sorted s.regs = true → Mem.wf s.mem = true →
      s.decodeAddr base (4096 + (lib.length - 3072)) = some .dram → (s.lcState = 1 ∨ s.lcState = 2) →
      ∃ t, gives (.routeLoad base false) s t ∧ t.wdn.routeLen = 4096 + (lib.length - 3072) ∧ t.reg rRouteBase = BitVec.ofNat 64 base ∧
        (∀ i < 3072, Mem.read t.mem (base + i) = lib.getD i 0) ∧ (∀ i < 1024, Mem.read t.mem (base + 3072 + i) = 0) ∧
        (∀ i < lib.length - 3072, Mem.read t.mem (base + 4096 + i) = lib.getD (3072 + i) 0) ∧
        (∀ a, a < base ∨ base + (4096 + (lib.length - 3072)) ≤ a → Mem.read t.mem a = Mem.read s.mem a) ∧
        (s.wdn.meas.length = 6 → t.wdn.meas.getD 3 [] = sha384 (s.wdn.meas.getD 3 [] ++ sha384 lib)) ∧ t.pwr = s.pwr)) ∧
  (∀ (s : State) (m : Nat), s.gate m 0x50038 8 true = .open →
    (∀ k < 0x20, (s.core k).frozen = true → s.freezeCount k < 3 →
      gives (.wardRelease m 8 ⟨BitVec.ofNat 64 k, none⟩) s (s.setCore k { s.core k with frozen := false }).released) ∧
    (∀ k < 0x20, (s.core k).frozen = false ∨ 3 ≤ s.freezeCount k → gives (.wardRelease m 8 ⟨BitVec.ofNat 64 k, none⟩) s s) ∧
    (∀ k < 0x20, (s.core k).frozen = true → s.freezeCount k < 3 → Tbl.sorted s.regs = true → ∀ (a : Nat) (wr : Bool),
      ∃ t, gives (.wardRelease m 8 ⟨BitVec.ofNat 64 k, some (a, wr)⟩) s t ∧ (t.core k).frozen = true ∧
        t.regBits 0x5FFF8 0 32 = (s.regBits 0x5FFF8 0 32 + 1) % 2 ^ 32 ∧ t = { s with regs := t.regs, sbk := t.sbk } ∧
        t.sbk.queue = s.sbk.queue ++ [{
          source := 0x60, typ := 0x012, flags := 0, job := none,
          payload := leBytes 1 k ++ leBytes 1 (s.profileOf k) ++ leBytes 2 0 ++ leBytes 8 a ++ leBytes 1 (b2n wr) ++ [0] }]) ∧
    (s.pep.frozen0 = true → s.pep.retrained = true →
      gives (.wardRelease m 8 ⟨0x50, none⟩) s ({ s with pep := { s.pep with frozen0 := false } }).released) ∧
    (s.pep.frozen1 = true → s.pep.retrained = true →
      gives (.wardRelease m 8 ⟨0x51, none⟩) s ({ s with pep := { s.pep with frozen1 := false } }).released) ∧
    (s.pep.retrained = false → gives (.wardRelease m 8 ⟨0x50, none⟩) s s ∧ gives (.wardRelease m 8 ⟨0x51, none⟩) s s) ∧
    (∀ k q, s.host.queues.find? (fun (q : Nat × HQueue) => q.2.frozen && decide (q.2.port = 0) && decide (q.2.qid = 1)) = some (k, q) →
      gives (.wardRelease m 8 ⟨0x170, none⟩) s (s.setQueue k { q with frozen := false }).released)) ∧
  (∀ (s : State) (r c : Nat), c < 4 → r < 8 → (s.core (4 * r + c)).frozen = true →
    (100000 ≤ (s.time - (s.core (4 * r + c)).frozenAt).toNat → s.freezeCount (4 * r + c) < 3 →
      gives (.coreReleaseTimer r ⟨c, none⟩) s (s.setCore (4 * r + c) { s.core (4 * r + c) with frozen := false }).released) ∧
    ((s.time - (s.core (4 * r + c)).frozenAt).toNat < 100000 → gives (.coreReleaseTimer r ⟨c, none⟩) s s)) ∧
  (∀ (s : State) (k width : Nat) (v : W64), k < 4 → s.gate (0x20 + k) 0x40018 width true = .open →
    (v.getLsbD k = true → (s.mcore k).frozen = false → gives (.kick (0x20 + k) width v) s (s.setMcore k { s.mcore k with kickedAt := s.time })) ∧
    (v.getLsbD k = false ∨ (s.mcore k).frozen = true → gives (.kick (0x20 + k) width v) s s)) ∧
  (∀ (s : State), s.wdn.verified = true → s.pwr.mode ≠ 11 →
    (∀ m < 4, (s.regBits 0x40020 0 16 * 100000 ≤ (s.time - (s.mcore m).kickedAt).toNat → gives (.watchdogExpiry (some m)) s (s.yieldHead 5)) ∧
      ((s.time - (s.mcore m).kickedAt).toNat < s.regBits 0x40020 0 16 * 100000 → gives (.watchdogExpiry (some m)) s s)) ∧
    (s.regBits 0x40020 0 16 * 100000 ≤ (s.time - s.wdn.kickedAt).toNat → gives (.watchdogExpiry none) s (s.yieldHead 5))) ∧
  (∀ (s : State) (m width : Nat) (v : W64), s.gate m 0x40028 width true = .open →
    gives (.wdnDoorbell m width v) s { s with wdn := { s.wdn with doorbell := v.toNat % 2 ^ 16 } }) ∧
  (∀ (s : State), gives .extestSelect s (s.yieldHead 7)) ∧
  (∀ (s : State), s.fuses.lc < 2 ^ 13 → (s.fuses.lc = 0 → s.lcState = 0) ∧ (2 ^ 12 ≤ s.fuses.lc → s.lcState = 4) ∧
    (∀ g < 3, (s.fuses.lc = 2 ^ (4 * g) - 1 + 2 ^ (4 * g) → s.lcState = 1 ∧ s.lcGen = g) ∧
      (s.fuses.lc = 2 ^ (4 * g) - 1 + 3 * 2 ^ (4 * g) → s.lcState = 2 ∧ s.lcGen = g) ∧
      (s.fuses.lc = 2 ^ (4 * g) - 1 + 7 * 2 ^ (4 * g) → s.lcState = 3 ∧ s.lcGen = g)))

/-- R464, R469, R470, R472, R480 and R482 to R486. What the spec leaves open in them is as log entry 62 says (the model's
reading or choice). -/
def Obligations.WardenCallsAnswer : Prop :=
  (∀ (s u : State) (call : Nat) (c : Call), Tbl.find s.calls call = some c → c.phase = .running → u = { s with freeCtr := s.freeCtr + 1 } →
    (callSlot c.entry = 96 →
      (s.wdn.quoting ≠ some call → callPlen c.entry < 30624 → ∃ x, gives (.attest call) s (u.libExit call 0x80 x)) ∧
      (s.wdn.quoting ≠ some call → 30624 ≤ callPlen c.entry → s.lcState ≠ 1 → s.lcState ≠ 2 → ∃ x, gives (.attest call) s (u.libExit call 0x81 x)) ∧
      (s.wdn.quoting ≠ some call → 30624 ≤ callPlen c.entry → (s.lcState = 1 ∨ s.lcState = 2) → s.wdn.trngOk = false →
        ∃ x, gives (.attest call) s (u.libExit call 0x84 x)) ∧
      (∀ (n : Nat) (b : Call), s.wdn.quoting = some n → n ≠ call → Tbl.find s.calls n = some b → b.phase = .running → callSlot b.entry = 96 →
        30624 ≤ callPlen c.entry → (s.lcState = 1 ∨ s.lcState = 2) → s.wdn.trngOk = true →
        ∃ x, gives (.attest call) s (u.libExit call 0x85 x)) ∧
      (s.wdn.quoting = none → 30624 ≤ callPlen c.entry → (s.lcState = 1 ∨ s.lcState = 2) → s.wdn.trngOk = true →
        gives (.attest call) s { s with wdn := { s.wdn with quoting := some call, drbgReqs := s.wdn.drbgReqs + 1 } }) ∧
      (s.wdn.quoting = some call → ∃ n, gives (.attest call) s
          ((({ s with wdn := { s.wdn with quoting := none } }).setParam c (if n = 0 then [] else s.quote c)).libExit call 0 n) ∧
        n = if (s.quote c).length ≤ callPlen c.entry then 1 else 0)) ∧
    (callSlot c.entry = 97 →
      (s.lcState ≠ 1 → s.lcState ≠ 2 → ∃ x, gives (.identityCerts call) s (u.libExit call 0x81 x)) ∧
      (s.lcState = 1 ∨ s.lcState = 2 → ∃ n ≤ 4, ∀ certs, certs = (List.range 4).map (fun i =>
          leBytes 4 (Config.cert s.lcGen i).length ++ zeros 4 ++ Config.cert s.lcGen i) →
        gives (.identityCerts call) s ((s.setParam c (leBytes 2 n ++ zeros 6 ++ (certs.take n).flatMap id)).libExit call 0 n) ∧
        (8 ≤ callPlen c.entry → 8 + ((certs.take n).flatMap id).length ≤ callPlen c.entry) ∧
        (∀ k ≤ 4, 8 + ((certs.take k).flatMap id).length ≤ callPlen c.entry → k ≤ n))) ∧
    (callSlot c.entry = 98 → ∀ st, st = callArg c.entry 0 →
      (4 < st → ∃ x, gives (.lifecycle call) s (u.libExit call 0x80 x)) ∧
      (st ≤ 4 → (st < 2 ∨ st = 2 ∧ s.lcState ≠ 1 ∨ st = 3 ∧ s.lcState ≠ 2 ∨ st = 4 ∧ s.lcState = 4) →
        ∃ x, gives (.lifecycle call) s (u.libExit call 0x81 x)) ∧
      ((st = 2 ∧ s.lcState = 1 ∧ s.areaKey 3 0 ≠ none ∧ s.areaKey 4 0 ≠ none ∨ st = 3 ∧ s.lcState = 2 ∨ st = 4 ∧ s.lcState ≠ 4) →
        (s.inService = false ∨ s.serialOk c = false → ∃ x, gives (.lifecycle call) s (u.libExit call 0x82 x)) ∧
        (s.inService = true → s.serialOk c = true → ∃ x, gives (.lifecycle call) s ((u.libExit call 0 x).lifeChange st s.lcGen)))) ∧
    (callSlot c.entry = 99 → ∀ d alg slot, d = s.paramBytes c → alg = fieldAt d 0 1 → slot = fieldAt d 1 1 →
      (d.length < 30636 ∨ 1 < alg ∨ 1 < slot ∨ fieldAt d 2 2 ≠ 0 → ∃ x, gives (.keyRevoke call) s (u.libExit call 0x80 x)) ∧
      (∀ k, 30636 ≤ d.length → alg ≤ 1 → slot ≤ 1 → fieldAt d 2 2 = 0 →
        s.verifySigned (d.take 12) ((d.drop 12).take 30624) (if alg = 0 then some slot else none) (if alg = 1 then some slot else none) = .inr k →
        ((fieldAt d 4 8 ≠ 0 ∧ fieldAt d 4 8 ≠ s.fuses.serial.toNat) ∨ bit s.fuses.revoke (2 * alg + (1 - slot)) = true ∨
            (if alg = 0 then s.wdn.rsaSlot else s.wdn.slhSlot) = slot → ∃ x, gives (.keyRevoke call) s (u.libExit call 0x83 x)) ∧
        ((fieldAt d 4 8 = 0 ∨ fieldAt d 4 8 = s.fuses.serial.toNat) → bit s.fuses.revoke (2 * alg + (1 - slot)) = false →
            (if alg = 0 then s.wdn.rsaSlot else s.wdn.slhSlot) ≠ slot → ∃ x, gives (.keyRevoke call) s
          ({ u with fuses := { s.fuses with revoke := s.fuses.revoke ||| 2 ^ (2 * alg + slot) } }.libExit call 0 x))) ∧
      (∀ k, 30636 ≤ d.length → alg ≤ 1 → slot ≤ 1 → fieldAt d 2 2 = 0 →
        s.verifySigned (d.take 12) ((d.drop 12).take 30624) (if alg = 0 then some slot else none) (if alg = 1 then some slot else none) = .inl k →
        ∃ x, gives (.keyRevoke call) s (u.libExit call 0x83 x))) ∧
    (callSlot c.entry = 100 →
      (s.wdn.runningSvn ≤ s.fuses.svn → ∃ x, gives (.svnCommit call) s (u.libExit call 0x80 x)) ∧
      (s.fuses.svn < s.wdn.runningSvn → callArg c.entry 1 ≠ s.fuses.serial.toNat → ∃ x, gives (.svnCommit call) s (u.libExit call 0x82 x)) ∧
      (s.fuses.svn < s.wdn.runningSvn → callArg c.entry 1 = s.fuses.serial.toNat → ∃ x, gives (.svnCommit call) s
        ({ u with fuses := { s.fuses with svn := s.wdn.runningSvn } }.libExit call 0 x))) ∧
    (callSlot c.entry = 101 → ∀ d, d = s.paramBytes c →
      (d.length < 72 → ∃ x, gives (.pairKeys call) s (u.libExit call 0x80 x)) ∧
      (72 ≤ d.length → s.lcState ≠ 1 → ∃ x, gives (.pairKeys call) s (u.libExit call 0x81 x)) ∧
      (72 ≤ d.length → s.lcState = 1 → ∃ (t : State) (x : Nat), gives (.pairKeys call) s (t.libExit call 0 x) ∧
        t.areaKey 3 0 = some (d.take 32 ++ (d.drop 64).take 8) ∧ t.pairSecret = some (d.take 32) ∧ t.peerSerial = some ((d.drop 64).take 8) ∧
        t.areaKey 4 0 = some ((d.drop 32).take 32) ∧ t.rope.linkUp = false ∧ t.rope.txKey = none ∧ t.rope.rxKey = none ∧ t.rope.nonces = none ∧
        t.rope.unacked = [] ∧ t.rope.putOff = [] ∧ t = { u with wdn := t.wdn, rope := t.rope })) ∧
    (callSlot c.entry = 102 → ∀ d op, d = s.paramBytes c → op = fieldAt d 0 1 →
      (d.length ≠ 30640 ∨ 3 < op ∨ fieldAt d 1 7 ≠ 0 → ∃ x, gives (.lifecycleToken call) s (u.libExit call 0x80 x)) ∧
      (d.length = 30640 → op ≤ 3 → fieldAt d 1 7 = 0 →
        (op = 0 ∧ s.lcState ≠ 0 ∨ op = 1 ∧ (s.lcState ≠ 3 ∨ s.lcGen = 2) ∨ op = 2 ∧ s.lcState = 4 ∨ op = 3 ∧ s.lcState ≠ 3) →
        ∃ x, gives (.lifecycleToken call) s (u.libExit call 0x81 x)) ∧
      (d.length = 30640 → fieldAt d 1 7 = 0 → op = 3 ∧ s.lcState = 3 ∨ op = 2 ∧ s.lcState ≠ 4 →
        (s.inService = false ∨ s.serialOk c = false → ∃ x, gives (.lifecycleToken call) s (u.libExit call 0x82 x)) ∧
        (s.inService = true → s.serialOk c = true → fieldAt d 8 8 ≠ s.fuses.serial.toNat → ∃ x, gives (.lifecycleToken call) s (u.libExit call 0x83 x)) ∧
        (∀ k, s.inService = true → s.serialOk c = true → fieldAt d 8 8 = s.fuses.serial.toNat →
          s.verifySigned (d.take 16) (d.drop 16) none none = .inr k →
          (op = 3 → ∃ x, gives (.lifecycleToken call) s ({ u with wdn := { s.wdn with jtagOpen := true } }.libExit call 0 x)) ∧
          (op = 2 → ∃ x, gives (.lifecycleToken call) s ((u.libExit call 0 x).lifeChange 4 s.lcGen)))) ∧
      (∀ k, d.length = 30640 → fieldAt d 1 7 = 0 → op = 0 → s.lcState = 0 → s.inService = true → s.serialOk c = true →
        fieldAt d 8 8 = s.fuses.serial.toNat → s.verifySigned (d.take 16) (d.drop 16) none none = .inr k →
        (s.wdn.trngOk = false → ∃ x, gives (.lifecycleToken call) s (u.libExit call 0x84 x)) ∧
        (s.wdn.trngOk = true → ∃ t, gives (.lifecycleToken call) s t ∧ t.fuses.lc = s.fuses.lc ||| 1 ∧ t.fuses.dus.length = 32 ∧
          (∃ a, t.areaKey 1 0 = some a) ∧ (∃ a, t.areaKey 2 0 = some a) ∧ t.pwr.mode = 2 ∧ t.pwr.kind = 2 ∧ t.pwr.source = 0x60)))) ∧
  (∀ (s : State) (st g : Nat), ∀ t, t = s.lifeChange st g →
    t.fuses = { s.fuses with
      lc := s.fuses.lc ||| (if st = 1 then 2 ^ (4 * g) else if st = 2 then 3 * 2 ^ (4 * g) else if st = 3 then 7 * 2 ^ (4 * g) else 2 ^ 12) } ∧
    t.pwr.mode = 2 ∧ t.pwr.kind = 2 ∧ t.pwr.source = 0x60 ∧ t.keySlots = [] ∧ t.wdn.changing = false ∧
    t.wdn.keyArea = (if st = 3 ∨ st = 4 then [] else s.wdn.keyArea))

/-- R487, R488, R490, R492 to R496, R500, R501 and R503. What the spec leaves open in them is as log entry 63 says (the model's
reading or choice). -/
def Obligations.UpdatesTransferAndHingeOver : Prop :=
  (∀ (s u : State) (addr udp : Nat) (d : Bytes) (lag : Bool) (i : Instr), s.svcUp = true → u = s.bump rSvcFrames 0 32 1 →
    i ∈ [.htOpen addr udp d, .htData addr udp d lag, .htClose addr udp d, .htAbort addr udp d] →
    (htBad d = 1 → gives i s (u.bump rUpdDrops 0 16 1)) ∧ (htBad d = 2 → gives i s (u.bump rUpdDrops 16 16 1)) ∧
    (htBad d = 0 → htTyp d ∉ [1, 3, 5, 7] → gives i s u) ∧
    (∀ h : HtSession, htBad d = 0 → u.upd.session = some h → h.id = htSession d → (h.addr ≠ addr ∨ h.udp ≠ udp) → htTyp d = 7 →
      gives (.htAbort addr udp d) s (u.htReply addr udp 7 7 h.id 0))) ∧
  (∀ (s u : State) (addr udp : Nat) (d : Bytes), s.svcUp = true → u = s.bump rSvcFrames 0 32 1 → htBad d = 0 → htTyp d = 1 →
    s.upd.session = none →
    (s.pwr.mode ≠ 11 → s.upd.armTo = none → gives (.htOpen addr udp d) s
      (((u.htReply addr udp 2 1 (htSession d) 0).updEvent 4).bump rUpdDrops 48 16 1)) ∧
    (s.upd.armTo ≠ none → (fieldAt d 24 4 < 53249 ∨ 266338304 < fieldAt d 24 4) → gives (.htOpen addr udp d) s
      ((u.htReply addr udp 2 3 (htSession d) 0).updEvent 4)) ∧
    (s.upd.armTo ≠ none → s.pwr.mode ≠ 11 → 53249 ≤ fieldAt d 24 4 → fieldAt d 24 4 ≤ 266338304 →
      ∃ t, gives (.htOpen addr udp d) s t ∧ (t.hrec (1 - s.wdn.slot)).state = 1 ∧ (t.hrec (1 - s.wdn.slot)).len = fieldAt d 24 4 ∧
        (t.hrec (1 - s.wdn.slot)).time = s.time ∧ (s.wdn.slot < 2 → (t.nor s.wdn.slot) = s.nor s.wdn.slot) ∧
        t.upd.session = some {
          id := htSession d, addr := addr, udp := udp, total := fieldAt d 24 4, got := 0, since := 0, dataAt := s.time, heardAt := s.time,
          slot := 1 - s.wdn.slot } ∧
        t.out = s.out ++ [.svc addr udp (htDatagram 2 0 (htSession d) 0)])) ∧
  (∀ (s u : State) (d p : Bytes) (lag : Bool) (h x : HtSession), s.svcUp = true → u = s.bump rSvcFrames 0 32 1 → htBad d = 0 → htTyp d = 3 →
    s.upd.session = some h → h.id = htSession d → p = htPayload d → x = { h with heardAt := s.time } →
    (h.total < htOff d + p.length → gives (.htData h.addr h.udp d lag) s
      (({ u.htReply h.addr h.udp 7 5 h.id 0 with upd := { s.upd with session := none } }).updEvent 2)) ∧
    (htOff d + p.length ≤ h.total → htOff d ≠ h.got → gives (.htData h.addr h.udp d lag) s
      ((({ u with upd := { s.upd with session := some x } }).bump rUpdDrops 32 16 1).htReply h.addr h.udp 4 0 h.id h.got)) ∧
    (htOff d = h.got → h.got + p.length ≤ h.total → (h.since < 15 ∨ lag = true) →
      gives (.htData h.addr h.udp d lag) s ((u.norWrite h.slot h.got p).setSession
        (some { x with got := h.got + p.length, since := h.since + 1, dataAt := s.time }))) ∧
    (htOff d = h.got → h.got + p.length ≤ h.total → 15 ≤ h.since → gives (.htData h.addr h.udp d false) s
      (((u.norWrite h.slot h.got p).setSession (some { x with got := h.got + p.length, since := 0, dataAt := s.time })).htReply
        h.addr h.udp 4 0 h.id (h.got + p.length)))) ∧
  (∀ (s : State) (k off : Nat) (d : Bytes), off % 65536 = 0 → Tbl.sorted (s.nor k).image = true →
    (∀ i < d.length, Tbl.getD ((s.norWrite k off d).nor k).image (off + i) 0xFF = d.getD i 0) ∧
    (∀ j, j ≠ k → (s.norWrite k off d).nor j = s.nor j) ∧ ((s.norWrite k off d).nor k).recs = (s.nor k).recs) ∧
  (∀ (s u : State) (d : Bytes) (h x : HtSession), s.svcUp = true → u = s.bump rSvcFrames 0 32 1 → htBad d = 0 →
    s.upd.session = some h → h.id = htSession d → x = { h with heardAt := s.time } →
    (htTyp d = 5 → h.got < h.total → gives (.htClose h.addr h.udp d) s ((u.setSession (some x)).htReply h.addr h.udp 6 4 h.id h.got)) ∧
    (htTyp d = 5 → h.total ≤ h.got → ∃ t, gives (.htClose h.addr h.udp d) s t ∧ t.upd.session = none ∧ (t.hrec h.slot).state = 2 ∧
      (t.hrec h.slot).len = h.total ∧ (t.nor h.slot).image = (s.nor h.slot).image) ∧
    (htTyp d = 7 → gives (.htAbort h.addr h.udp d) s (({ u with upd := { s.upd with session := none } }).updEvent 2))) ∧
  (∀ (s : State) (h : HtSession), s.upd.session = some h →
    (100000 ≤ (s.time - h.dataAt).toNat → gives .htAckTimer s
      ((s.setSession (some { h with since := 0, dataAt := s.time })).htReply h.addr h.udp 4 0 h.id h.got)) ∧
    ((s.time - h.dataAt).toNat < 100000 → gives .htAckTimer s s) ∧
    (1000000000 ≤ (s.time - h.heardAt).toNat → gives .htIdle s (((s.htReply h.addr h.udp 7 6 h.id 0).setSession none).updEvent 3)) ∧
    ((s.time - h.heardAt).toNat < 1000000000 → gives .htIdle s s)) ∧
  (∀ (s : State) (t : W64), s.upd.armTo = some t →
    (t.toNat ≤ s.time.toNat → gives .armExpiry s { s with upd := { s.upd with armTo := none } }) ∧
    (s.time.toNat < t.toNat → gives .armExpiry s s)) ∧
  (∀ (s : State) (addr udp : Nat) (req : Bytes), (s.pwr.mode = 11 ∨ s.regBit 0xA0008 2 = true →
      ∃ text : Bytes, gives (.consoleRequest true addr udp req) s { s with freeCtr := s.freeCtr + 2, out := s.out ++ [.console text] }) ∧
    (s.svcUp = true → ∃ text : Bytes, text.length ≤ 1408 ∧ gives (.consoleRequest false addr udp req) s
      ((({ s with freeCtr := s.freeCtr + 2, out := s.out ++ [Out.svc addr udp text] }).bump rSvcFrames 0 32 1).bump rSvcFrames 32 32 1))) ∧
  (∀ (s u : State) (call : Nat) (c : Call), Tbl.find s.calls call = some c → c.phase = .running → u = { s with freeCtr := s.freeCtr + 1 } →
    (callSlot c.entry = 104 →
      (60 < callArg c.entry 0 → ∃ x, gives (.updateArm call) s (u.libExit call 0x88 x)) ∧
      (callArg c.entry 0 = 0 → ∃ x, gives (.updateArm call) s ({ u with upd := { s.upd with armTo := none } }.libExit call 0 x)) ∧
      (0 < callArg c.entry 0 → callArg c.entry 0 ≤ 60 → ∃ x, gives (.updateArm call) s ({ u with
        upd := { s.upd with armTo := some (s.time + BitVec.ofNat 64 (callArg c.entry 0 * 6000000000)) } }.libExit call 0 x))) ∧
    (callSlot c.entry = 105 → ∀ denied, ∀ owned, owned = (List.range 16).filter (fun p => s.owns p) →
      (s.upd.hinge ≠ some call →
        (s.pwr.mode ≠ 5 → ∃ x, gives (.hingeOver call denied) s (u.libExit call 0x8A x)) ∧
        (s.pwr.mode = 5 → (s.hrec 0).state ≠ 2 → (s.hrec 1).state ≠ 2 → ∃ x, gives (.hingeOver call denied) s (u.libExit call 0x89 x)) ∧
        (s.pwr.mode = 5 → ((s.hrec 0).state = 2 ∨ (s.hrec 1).state = 2) →
          ((∃ p ∈ owned, s.hasShadow p = false) → ∃ x, gives (.hingeOver call denied) s (u.libExit call 0x8A x)) ∧
          ((∀ p ∈ owned, s.hasShadow p = true) → gives (.hingeOver call denied) s { s with upd := { s.upd with hinge := some call } }))) ∧
      (s.upd.hinge = some call →
        (s.pair.solo = true ∨ s.rope.suspect = true → ∃ x, gives (.hingeOver call denied) s
          ({ u with upd := { s.upd with hinge := none } }.libExit call 0x8C x)) ∧
        (s.pair.solo = false → s.rope.suspect = false →
          (∀ p, s.pair.moves.find? (fun (m : Nat × Nat) => s.owns m.1) = some (p, 0) →
            gives (.hingeOver call denied) s (s.moveDrive p (1 - s.headId))) ∧
          (∀ p q, s.pair.moves = [] → owned = p :: q → gives (.hingeOver call denied) s (s.moveBegin p (1 - s.headId))) ∧
          (s.pair.moves = [] → owned = [] → ∃ x, gives (.hingeOver call denied) s ((u.libExit call 0 x).resetHead 2 0x20))))) ∧
    (callSlot c.entry = 106 → ∃ n ≤ 2, n = min 2 (callPlen c.entry / 64) ∧ gives (.updateStatus call) s
      ((s.setParam c (([s.slotRec 0, s.slotRec 1].take n).flatMap id)).libExit call 0 n)))

/-- R194 to R198. -/
def Obligations.MapCacheMaintains : Prop :=
  (∀ (s : State) (m a n : Nat), s.gate m (rMapc + 0x210) 8 true = .open → s.mapc.maint = false → Tbl.sorted s.regs = true →
    Tbl.sorted s.mapc.main = true → a = bits (s.reg (rMapc + 0x200)).toNat 8 40 → n = bits (s.reg (rMapc + 0x208)).toNat 0 24 →
    (n = 0 ∨ (a + n) * 256 ≤ s.dramBytes) →
    (∃ t, gives (.clean m 8 1) s t ∧ t = { s with mapc := t.mapc, regs := t.regs } ∧ t.mapc.maint = true ∧
      t.regBits (rMapc + 0x218) 4 4 = 0 ∧ t.regBits (rMapc + 0x218) 16 24 = n ∧
      (∀ k c, Tbl.find s.mapc.main k = some c → (c.line < a ∨ a + n ≤ c.line) → Tbl.find t.mapc.main k = some c)) ∧
    (∃ t, gives (.cleanInvalidate m 8 5) s t ∧ t = { s with mapc := t.mapc, regs := t.regs } ∧ t.mapc.maint = true ∧
      t.regBits (rMapc + 0x218) 4 4 = 0 ∧ t.regBits (rMapc + 0x218) 16 24 = n ∧
      (∀ k c, Tbl.find s.mapc.main k = some c → (c.line < a ∨ a + n ≤ c.line) → Tbl.find t.mapc.main k = some c)) ∧
    (∃ t, gives (.invalidate m 8 3) s t ∧ t = { s with mapc := t.mapc, regs := t.regs, mem := t.mem } ∧ t.mapc.maint = true ∧
      t.regBits (rMapc + 0x218) 4 4 = 0 ∧ t.regBits (rMapc + 0x218) 16 24 = n ∧
      (∀ k c, Tbl.find s.mapc.main k = some c → (c.line < a ∨ a + n ≤ c.line) → Tbl.find t.mapc.main k = some c) ∧
      (Mem.wf s.mem = true → (∀ p ∈ s.mapc.dramOld, p.2.length = 256) →
        ∀ x, x < a * 256 ∨ (a + n) * 256 ≤ x → Mem.read t.mem x = Mem.read s.mem x))) ∧
  (∀ (s : State) (m set way k : Nat), s.gate m (rMapc + 0x210) 8 true = .open → s.mapc.maint = false → Tbl.sorted s.regs = true →
    Tbl.sorted s.mapc.main = true → set < 24576 → way < 16 → k = 16 * set + way →
    (∃ t, gives (.clean m 8 (BitVec.ofNat 64 (9 + 32 * set + 2 ^ 20 * way))) s t ∧ t.mapc.maint = true ∧ t.mem = s.mem ∧
      Tbl.find t.mapc.main k = (Tbl.find s.mapc.main k).map (fun c => { c with dirty := false }) ∧
      (∀ j, j ≠ k → Tbl.find t.mapc.main j = Tbl.find s.mapc.main j)) ∧
    (∃ t, gives (.invalidate m 8 (BitVec.ofNat 64 (11 + 32 * set + 2 ^ 20 * way))) s t ∧ t.mapc.maint = true ∧
      Tbl.find t.mapc.main k = none ∧ (∀ j, j ≠ k → Tbl.find t.mapc.main j = Tbl.find s.mapc.main j)) ∧
    (∃ t, gives (.cleanInvalidate m 8 (BitVec.ofNat 64 (13 + 32 * set + 2 ^ 20 * way))) s t ∧ t.mapc.maint = true ∧ t.mem = s.mem ∧
      Tbl.find t.mapc.main k = none ∧ (∀ j, j ≠ k → Tbl.find t.mapc.main j = Tbl.find s.mapc.main j))) ∧
  (∀ (s : State) (m : Nat), s.gate m (rMapc + 0x210) 8 true = .open → s.mapc.maint = false →
    Tbl.sorted s.mapc.main = true → Tbl.sorted s.mapc.victim = true →
    (∃ t, gives (.clean m 8 0x11) s t ∧ t.mapc.maint = true ∧ t.mem = s.mem ∧
      (∀ k, Tbl.find t.mapc.main k = (Tbl.find s.mapc.main k).map (fun c => { c with dirty := false })) ∧
      (∀ k, Tbl.find t.mapc.victim k = (Tbl.find s.mapc.victim k).map (fun c => { c with dirty := false }))) ∧
    (∃ t, gives (.invalidate m 8 0x13) s t ∧ t.mapc.maint = true ∧
      (∀ k, Tbl.find t.mapc.main k = none) ∧ (∀ k, Tbl.find t.mapc.victim k = none)) ∧
    (∃ t, gives (.cleanInvalidate m 8 0x15) s t ∧ t.mapc.maint = true ∧ t.mem = s.mem ∧
      (∀ k, Tbl.find t.mapc.main k = none) ∧ (∀ k, Tbl.find t.mapc.victim k = none))) ∧
  (∀ (s : State) (m line k : Nat) (c : CLine) (old : Bytes), s.gate m (rMapc + 0x210) 8 true = .open → s.mapc.maint = false →
    Tbl.sorted s.regs = true → Mem.wf s.mem = true → Tbl.sorted s.mapc.main = true → Tbl.sorted s.mapc.dramOld = true →
    bits (s.reg (rMapc + 0x200)).toNat 8 40 = line → bits (s.reg (rMapc + 0x208)).toNat 0 24 = 1 → (line + 1) * 256 ≤ s.dramBytes →
    Tbl.find s.mapc.main k = some c → c.line = line → c.dirty = true → (∀ p ∈ s.mapc.main, p.2.line = line → p.1 = k) →
    (∀ p ∈ s.mapc.victim, p.2.line ≠ line) → Tbl.find s.mapc.dramOld line = some old → old.length = 256 →
    (∃ t, gives (.clean m 8 1) s t ∧ t.mapc.maint = true ∧ t.mem = s.mem ∧ Tbl.find t.mapc.main k = some { c with dirty := false } ∧
      Tbl.find t.mapc.dramOld line = none ∧ (∀ j, j ≠ k → Tbl.find t.mapc.main j = Tbl.find s.mapc.main j) ∧ t.mapc.victim = s.mapc.victim ∧
      t = { s with mapc := t.mapc, regs := t.regs }) ∧
    (∃ t, gives (.invalidate m 8 3) s t ∧ t.mapc.maint = true ∧ t.mainOf line = none ∧
      (∀ i < 256, Mem.read t.mem (line * 256 + i) = old.getD i 0) ∧
      (∀ a, a < line * 256 ∨ line * 256 + 256 ≤ a → Mem.read t.mem a = Mem.read s.mem a) ∧
      (∀ j, j ≠ k → Tbl.find t.mapc.main j = Tbl.find s.mapc.main j) ∧ t.mapc.victim = s.mapc.victim ∧
      t = { s with mapc := t.mapc, regs := t.regs, mem := t.mem }) ∧
    (∃ t, gives (.cleanInvalidate m 8 5) s t ∧ t.mapc.maint = true ∧ t.mem = s.mem ∧ t.mainOf line = none ∧
      Tbl.find t.mapc.dramOld line = none ∧ (∀ j, j ≠ k → Tbl.find t.mapc.main j = Tbl.find s.mapc.main j) ∧
      t.mapc.victim = s.mapc.victim ∧ t = { s with mapc := t.mapc, regs := t.regs })) ∧
  (∀ (s : State) (m : Nat), s.gate m (rMapc + 0x210) 8 true = .open → s.mapc.maint = false → Tbl.sorted s.regs = true →
    bits (s.reg (rMapc + 0x208)).toNat 0 24 ≠ 0 → s.dramBytes < (bits (s.reg (rMapc + 0x200)).toNat 8 40 + bits (s.reg (rMapc + 0x208)).toNat 0 24) * 256 →
    ∃ t, gives (.clean m 8 1) s t ∧ t.mapc = { s.mapc with maint := true } ∧ t.mem = s.mem ∧ t.regBits (rMapc + 0x218) 4 4 = 1) ∧
  (∀ (s : State) (m : Nat), s.gate m (rMapc + 0x210) 8 true = .open → s.mapc.maint = true →
    gives (.clean m 8 1) s (s.raise (rMapc + 0x218) 8) ∧ gives (.invalidate m 8 3) s (s.raise (rMapc + 0x218) 8) ∧
    gives (.cleanInvalidate m 8 5) s (s.raise (rMapc + 0x218) 8)) ∧
  (∀ (s u : State), u = { s with mapc := { s.mapc with maint := false } } →
    (s.mapc.maint = true → s.regBits (rMapc + 0x218) 4 4 = 0 → gives .maintDone s (u.raise (rMapc + 0x218) 2)) ∧
    (s.mapc.maint = true → s.regBits (rMapc + 0x218) 4 4 ≠ 0 → gives .maintDone s (u.raise (rMapc + 0x218) 4)) ∧
    (s.mapc.maint = false → gives .maintDone s s)) ∧
  (∀ (s : State), gives .mapcWipeDone s { s with mapc := { s.mapc with wiping := false } })

/-- R166 to R172. -/
def Obligations.TraverseMovesBytes : Prop :=
  (∀ (s : State) (ch o lines : Nat) (i : Instr), (i, o) ∈ [(.tvsCopy ch lines, 0), (.tvsDeinterleave ch lines, 1), (.tvsInterleave ch lines, 2),
      (.tvsPlaneSplit ch lines, 3), (.tvsPlaneMerge ch lines, 4)] →
    (32 ≤ ch ∨ s.tvsBusy ch = false ∨ ch ∈ s.tvsFrozen ∨ (s.tvsJob ch).op ≠ o → gives i s s) ∧
    (ch < 32 → s.tvsBusy ch = true → ch ∉ s.tvsFrozen → (s.tvsJob ch).op = o → Tbl.find s.tvsBack ch = none → gives i s (tvsMove ch lines s))) ∧
  (∀ (s : State) (ch o n done a : Nat) (j : TvsJob) (i : Instr),
    (i, o) ∈ [(.tvsCopy ch 1, 0), (.tvsDeinterleave ch 1, 1), (.tvsInterleave ch 1, 2), (.tvsPlaneSplit ch 1, 3), (.tvsPlaneMerge ch 1, 4)] →
    ch < 32 → s.tvsBusy ch = true → ch ∉ s.tvsFrozen → Tbl.find s.tvsBack ch = none → j = s.tvsJob ch → j.op = o →
    done = s.regBits (tvsReg ch + 0x30) 0 32 → done < j.count → a = j.dst + done → n = min (j.count - done) (64 - a % 64) →
    Tbl.sorted s.mem = true → Tbl.sorted s.regs = true →
    (∀ k < n, ∀ q ∈ tvsSources j (done + k), ∃ r, s.tvsAcc ch (j.src + q.1) 1 false = .ok (.rbuf r)) →
    (∀ r, s.tvsAcc ch a n true = .ok (.rbuf r) →
      ∃ t, gives i s t ∧ (∀ k < n, Mem.read t.mem (a + k) = tvsByte (tvsSources j (done + k)) (fun x => Mem.read s.mem (j.src + x))) ∧
        (∀ x, x < a ∨ a + n ≤ x → Mem.read t.mem x = Mem.read s.mem x) ∧
        t.reg (tvsReg ch + 0x30) = BitVec.ofNat 64 (done + n) ∧ t.reg (tvsReg ch + 0x28) = BitVec.ofNat 64 (a + n - 1) ∧
        (Tbl.find t.tvsBack ch).isSome = decide (done + n = j.count) ∧ t = { s with mem := t.mem, regs := t.regs, tvsBack := t.tvsBack }) ∧
    (∀ x, s.tvsAcc ch a n true = .decode x → gives i s ((s.decodeError (0x30 + ch) x).tvsFail ch 4))) ∧
  (∀ (j : TvsJob) (x i w k n m b : Nat), 0 < j.e → 0 < j.ways → n = j.count / (j.ways * j.e) → m = j.count / j.e →
    (j.op = 0 → tvsSources j x = [(x, 8)]) ∧
    (j.op = 1 → i < n → w < j.ways → k < j.e → tvsSources j ((w * n + i) * j.e + k) = [((i * j.ways + w) * j.e + k, 8)]) ∧
    (j.op = 2 → i < n → w < j.ways → k < j.e → tvsSources j ((i * j.ways + w) * j.e + k) = [((w * n + i) * j.e + k, 8)]) ∧
    (∀ val : Nat → Byte, tvsByte [(x, 8)] val = val x) ∧
    (∀ (val : Nat → Byte) (p : Nat), j.op = 3 → 0 < m / 8 → b < 8 → i < m / 8 → p < 8 * j.e →
      (tvsByte (tvsSources j (p * (m / 8) + i)) val).getLsbD b = (val ((8 * i + b) * j.e + p / 8)).getLsbD (p % 8)) ∧
    (∀ (val : Nat → Byte), j.op = 4 → b < 8 → k < j.e →
      (tvsByte (tvsSources j (i * j.e + k)) val).getLsbD b = (val ((8 * k + b) * (m / 8) + i / 8)).getLsbD (i % 8))) ∧
  (∀ (s : State) (ch last word : Nat) (d now : Bytes), Tbl.find s.tvsBack ch = some d →
    last = (s.tvsJob ch).dst + (s.tvsJob ch).count - 1 → word = last / 8 * 8 →
    now = (List.range d.length).map (fun i => s.tvsVal (last + 1 - d.length + i)) →
    (s.tvsAcc ch word 8 false = .ok .dram → s.mapc.wiping = true → gives (.tvsReadback ch) s s) ∧
    (∀ v, (s.tvsAcc ch word 8 false = .ok .dram ∧ s.mapc.wiping = false ∧ v = (s.eccAct word .none).lineAccess (word / 256) false) ∨
        (∃ r, s.tvsAcc ch word 8 false = .ok r ∧ r ≠ .dram ∧ v = s) →
      (d = now → gives (.tvsReadback ch) s (({ v with tvsBack := Tbl.del v.tvsBack ch }.setReg (tvsReg ch + 0x20)
        ((v.reg (tvsReg ch + 0x20) &&& ~~~(1 : W64)) ||| 2)).raise rTvsIrq (2 ^ ch))) ∧
      (d ≠ now → gives (.tvsReadback ch) s (v.tvsFail ch 6))) ∧
    (∀ x, s.tvsAcc ch word 8 false = .decode x → gives (.tvsReadback ch) s ((s.decodeError (0x30 + ch) x).tvsFail ch 4)) ∧
    (∀ x, s.tvsAcc ch word 8 false = .viol x → gives (.tvsReadback ch) s ((s.violate (0x30 + ch) x false none).tvsFail ch 5))) ∧
  (∀ (s : State) (m ch : Nat) (v : W64), ch < 32 → s.gate m (tvsReg ch + 0x18) 8 true = .open →
    (ch ∈ s.tvsFrozen → gives (.tvsAbort m ch 8 v) s s) ∧
    (ch ∉ s.tvsFrozen → s.tvsBusy ch = true → v.getLsbD 1 = true → v.getLsbD 0 = false → Tbl.find s.tvsBack ch = none →
      gives (.tvsAbort m ch 8 v) s (s.tvsFail ch 7)) ∧
    (ch ∉ s.tvsFrozen → s.tvsBusy ch = true → v.getLsbD 1 = true → v.getLsbD 0 = false → (Tbl.find s.tvsBack ch).isSome = true →
      gives (.tvsAbort m ch 8 v) s s)) ∧
  (∀ (s u : State) (ch : Nat) (j : TvsJob), ch < 32 → Tbl.sorted s.regs = true →
    u = ((s.setReg (tvsReg ch + 0x20) (s.reg (tvsReg ch + 0x20) &&& 0x18)).setReg (tvsReg ch + 0x30) 0).setReg rTvsIrq
      (s.reg rTvsIrq &&& ~~~(BitVec.ofNat 64 (2 ^ ch + 2 ^ (32 + ch)))) → j = s.tvsJob ch →
    (4 < j.op → s.tvsStart ch = u.tvsFail ch 1) ∧
    (j.op ≤ 4 → (j.count = 0 ∨ (j.op = 1 ∨ j.op = 2) ∧ j.count % (j.ways * j.e) ≠ 0 ∨ 3 ≤ j.op ∧ (2 < j.e ∨ j.count % (8 * j.e) ≠ 0)) →
      s.tvsStart ch = u.tvsFail ch 2) ∧
    (∀ code, ∃ t, t = s.tvsFail ch code ∧ t = { s with regs := t.regs, tvsBack := t.tvsBack } ∧ Tbl.find t.tvsBack ch = Tbl.find (Tbl.del s.tvsBack ch) ch ∧
      t.regBit (tvsReg ch + 0x20) 0 = false ∧ t.regBit (tvsReg ch + 0x20) 2 = true ∧ (code < 16 → t.regBits (tvsReg ch + 0x20) 8 4 = code) ∧
      t.regBit rTvsIrq (32 + ch) = true))

/-- R136, R175, R176, R184, R186 and R203 to R208. What the spec leaves open in them is as log entries 39, 91 and 99 say (the
model's reading or choice). -/
def Obligations.MapPoolsAndNamespacesChange : Prop :=
  (∀ (s : State) (p mpn : Nat) (marks : List (Nat × Nat × Nat × Nat)) (d : DirE), d = (s.pool p).dirE mpn →
    (d.loading = false ∨ d.resident = true → gives (.pageLoad p mpn marks) s s) ∧
    (d.loading = true → d.resident = false → d.flash = 0 → gives (.pageLoad p mpn marks) s (s.pageIn p mpn)) ∧
    (∀ b u, d.loading = true → d.resident = false → d.flash ≠ 0 → s.readMeta p d.flash marks = (some b, u) →
      b.length = 4100 ∧ fieldAt b 4096 4 = crc32c (b.take 4096) ∧
      gives (.pageLoad p mpn marks) s (((u.updPool p (fun x => loadPage x mpn (b.take 4096))).pageIn p mpn).evictPage p mpn)) ∧
    (∀ u, d.loading = true → d.resident = false → d.flash ≠ 0 → s.readMeta p d.flash marks = (none, u) →
      gives (.pageLoad p mpn marks) s u)) ∧
  (∀ (s t : State) (p mpn : Nat) (x : Pool), Tbl.find s.pools p = some x → Tbl.sorted s.pools = true → Tbl.sorted x.dir = true → t = s.pageIn p mpn →
    (x.dirE mpn).waiters = [] → t = { s with pools := t.pools, freeCtr := s.freeCtr + 1 } ∧
      (∃ a, (t.pool p).dirE mpn = { x.dirE mpn with resident := true, dirty := false, loading := false, waiters := [], addr := 4096 * a }) ∧
      (∀ q ∈ (t.pool p).lines, q.1 / 16 = mpn → q.2.heat = 0) ∧
      (∀ q ∈ (t.pool p).lines, q.2.holdMpn = mpn → ∀ h ∈ q.2.holds, h.2.heat = 0) ∧
      (∀ q ∈ x.lines, q.1 / 16 ≠ mpn → q.2.holdMpn ≠ mpn → q ∈ (t.pool p).lines)) ∧
  (∀ (s : State) (p : Nat) (x : Pool), x = s.pool p →
    ((s.time - x.decayAt).toNat < x.cfg.decay * 100000000 → gives (.heatDecay p) s s) ∧
    (x.cfg.decay * 100000000 ≤ (s.time - x.decayAt).toNat → x.dir = [] → gives (.heatDecay p) s (s.setPool p { x with decayAt := s.time })) ∧
    (∀ mpn e, x.cfg.decay * 100000000 ≤ (s.time - x.decayAt).toNat → x.dir = [(mpn, e)] → e.resident = true →
      gives (.heatDecay p) s (s.setPool p { x with
        decayAt := s.time, lines := x.lines.map (fun q => (q.1, { q.2 with
          heat := if q.1 / 16 = mpn then q.2.heat / 2 else q.2.heat,
          holds := if q.2.holdMpn = mpn then q.2.holds.map (fun h => (h.1, { h.2 with heat := h.2.heat / 2 })) else q.2.holds })) }))) ∧
  (∀ (s : State) (p ln g nsid off : Nat) (marks : List (Nat × Nat × Nat × Nat)) (lock : Lock), nsOfLine (s.pool p) ln = some (nsid, off) →
    lock = {
      cmd := some s.nextPlan, nsid := nsid, start := off + 16384 * g, len := 16384, key := none, write := true, granted := true, reserved := true, doubt := none,
      merge := true } →
    (64 ≤ g ∨ s.owns p = false ∨ s.absentPage p (ln / 16) = true ∨ s.mergeDue p ((s.pool p).line ln) g = false → gives (.merge p ln g marks) s s) ∧
    (s.host.locks.any (fun o => lockConflict o lock) = true → gives (.merge p ln g marks) s s) ∧
    (s.owns p = true → g < 64 → s.absentPage p (ln / 16) = false → s.mergeDue p ((s.pool p).line ln) g = true →
      s.host.locks.any (fun o => lockConflict o lock) = false →
      (∀ u : State, s.groupBytes p ((s.pool p).line ln) g marks = (none, u) → gives (.merge p ln g marks) s u) ∧
      (∀ (d : Bytes) (u v w z : State) (it : WItem) (ok : Bool), s.groupBytes p ((s.pool p).line ln) g marks = (some d, u) →
        u.chunkItem (s.cmdRidge s.nextPlan) p nsid ln (g : Int) 1 d marks = (it, v) →
        w = { v with host := { v.host with locks := v.host.locks ++ [lock] } } →
        w.issuePlan s.nextPlan (w.cmdRidge s.nextPlan) {
          pool := p, nsid := nsid, origin := 3, items := [it], key := none, delKey := false, seq := 0, due := 0, accepted := false, mods := [],
          pair := none } = (z, ok) →
        (ok = true → gives (.merge p ln g marks) s z) ∧ (ok = false → gives (.merge p ln g marks) s (s.keepSeals z p))))) ∧
  (∀ (o l : Lock), lockConflict o l = true → o.nsid = l.nsid ∧ (o.write = true ∨ l.write = true) ∧ (o.merge = true → l.write = true) ∧
    (l.merge = true → o.write = true)) ∧
  (∀ (s : State) (p base b l : Nat), s.summary p = some (b, l) →
    ((s.idxOf p).length * 10 ≤ 90 * 2 ^ l → (∀ r < 8, s.ridgePresent r = true → s.regBit (ridgeBlk r 9 + 0x30) 0 = false) →
      gives (.summaryGrow p base) s s) ∧
    (32 ≤ l ∨ 1536 * 2 ^ 30 < s.summaryTotal + 2 ^ l * 256 → gives (.summaryGrow p base) s s) ∧
    ((90 * 2 ^ l < (s.idxOf p).length * 10 ∨ ∃ r < 8, s.ridgePresent r = true ∧ s.regBit (ridgeBlk r 9 + 0x30) 0 = true) → l < 32 →
      s.summaryTotal + 2 ^ l * 256 ≤ 1536 * 2 ^ 30 → gives (.summaryGrow p base) s (s.growSummary p base (l + 1))) ∧
    s.summaryTotal = sumBy (fun q => match s.summary q with | some (_, k) => 2 ^ k * 256 | none => 0) (List.range 16)) ∧
  (∀ (s u : State) (call : Nat) (c : Call), Tbl.find s.calls call = some c → c.phase = .running → u = { s with freeCtr := s.freeCtr + 1 } →
    (callSlot c.entry = 40 → ∀ p d g sum, p = callPool c.entry → d = s.paramBytes c →
      (s.poolCheck p d ≠ 0 → ∃ x, gives (.poolCreate call g sum) s (u.libExit call (s.poolCheck p d) x)) ∧
      (s.poolCheck p d = 0 → s.wdn.trngOk = false → ∃ x, gives (.poolCreate call g sum) s (u.libExit call 0x84 x)) ∧
      (s.poolCheck p d = 0 → s.wdn.trngOk = true → s.lcState ≠ 1 → s.lcState ≠ 2 → ∃ x, ∀ v, v = s.raise rWdnEvents 2 →
        gives (.poolCreate call g sum) s ({ v with freeCtr := v.freeCtr + 1 }.libExit call 0x81 x)) ∧
      (s.poolCheck p d = 0 → s.wdn.trngOk = true → (s.lcState = 1 ∨ s.lcState = 2) → g = none → ∃ x, gives (.poolCreate call g sum) s
        ({ s.voteRequest (2 ^ p) 2 [(p, 1)] with freeCtr := s.freeCtr + 1 }.libExit call 0x22 x)) ∧
      (∀ t, s.poolCheck p d = 0 → s.wdn.trngOk = true → (s.lcState = 1 ∨ s.lcState = 2) → g = some t → (poolParams d).dedup = false → ∃ (r : State) (x : Nat), gives (.poolCreate call g sum) s (r.libExit call 0 x) ∧
        (r.pool p).rel = .owner ∧ (r.pool p).cfg = poolParams d ∧ (r.pool p).ownerTerm = t ∧ (r.pool p).created = s.time ∧ (r.pool p).nss = [] ∧
        (s.pwr.mode = 9 → r.pwr.mode = 6) ∧ (∀ m ∈ poolModules d, (r.modu m).held = true))) ∧
    (callSlot c.entry = 41 → ∀ p, p = callPool c.entry →
      (s.owns p = false → ∃ x, gives (.poolDelete call) s (u.libExit call 0x23 x)) ∧
      (s.owns p = true → ((s.pool p).nss ≠ [] ∨ (s.pool p).snaps ≠ [] ∨ (s.pool p).pairs ≠ []) → ∃ x, gives (.poolDelete call) s (u.libExit call 0x24 x)) ∧
      (s.owns p = true → (s.pool p).nss = [] → (s.pool p).snaps = [] → (s.pool p).pairs = [] →
        gives (.poolDelete call) s ((s.deletePool p).libDone call))) ∧
    (callSlot c.entry = 42 → ∀ p a b d cfg, p = callPool c.entry → cfg = (s.pool p).cfg →
      a = (if callArg c.entry 0 = 0 then cfg.promote else callArg c.entry 0) → b = (if callArg c.entry 1 = 0 then cfg.demote else callArg c.entry 1) →
      d = (if callArg c.entry 2 = 0 then cfg.decay else callArg c.entry 2) →
      (s.owns p = false → ∃ x, gives (.poolSet call) s (u.libExit call 0x23 x)) ∧
      (s.owns p = true → (255 < a ∨ 254 < b ∨ 3600 < d ∨ a ≤ b) → ∃ x, gives (.poolSet call) s (u.libExit call 0x20 x)) ∧
      (s.owns p = true → a ≤ 255 → b < a → d ≤ 3600 → gives (.poolSet call) s ((s.submit p 4 [eHeat p a b d]).libDone call))) ∧
    (callSlot c.entry = 43 → ∀ p nsid kind size, p = callPool c.entry → nsid = callArg c.entry 0 → kind = callArg c.entry 1 → size = callArg c.entry 2 →
      (s.owns p = false → ∃ x, gives (.nsCreate call) s (u.libExit call 0x23 x)) ∧
      (s.owns p = true → (nsid = 0 ∨ 0xFFFFFFFE < nsid ∨ 1 < kind ∨ kind = 1 ∧ size ≠ 0 ∨
          kind = 0 ∧ (size < 1048576 ∨ 2 ^ 56 < size ∨ size % 1048576 ≠ 0)) → ∃ x, gives (.nsCreate call) s (u.libExit call 0x20 x)) ∧
      (s.owns p = true → 1 ≤ nsid → nsid ≤ 0xFFFFFFFE → (kind = 1 ∧ size = 0 ∨ kind = 0 ∧ 1048576 ≤ size ∧ size ≤ 2 ^ 56 ∧ size % 1048576 = 0) →
        (callPlen c.entry ≠ 0 → profileOk (s.paramBytes c) = false → ∃ x, gives (.nsCreate call) s (u.libExit call 0x28 x)) ∧
        (callPlen c.entry = 0 ∨ profileOk (s.paramBytes c) = true →
          ((s.pool p).fill = 2 → ∃ x, gives (.nsCreate call) s (u.libExit call 0x31 x)) ∧
          ((s.pool p).fill ≠ 2 → 4096 ≤ s.allNs.length → ∃ x, gives (.nsCreate call) s (u.libExit call 0x27 x)) ∧
          ((s.pool p).fill ≠ 2 → s.allNs.length < 4096 → (Tbl.find s.allNs nsid).isSome = true → ∃ x, gives (.nsCreate call) s (u.libExit call 0x25 x)) ∧
          ((s.pool p).fill ≠ 2 → s.allNs.length < 4096 → Tbl.find s.allNs nsid = none →
            gives (.nsCreate call) s (((s.submit p 4 (eNs p nsid 0 kind (if kind = 0 then 16 * (p * 2 ^ 44 + (s.pool p).nextMpn) else 0) size ::
              (if callPlen c.entry = 0 then [] else [eProfile p nsid (s.paramBytes c)]))).nsChanged nsid).libDone call))))) ∧
    (callSlot c.entry = 44 → ∀ nsid, nsid = callArg c.entry 0 →
      (Tbl.find s.allNs nsid = none → ∃ x, gives (.nsDelete call) s (u.libExit call 0x26 x)) ∧
      (∀ p n, Tbl.find s.allNs nsid = some (p, n) → n.walked = true → ∃ x, gives (.nsDelete call) s (u.libExit call 0x26 x)) ∧
      (∀ p n, Tbl.find s.allNs nsid = some (p, n) → n.walked = false →
        (s.owns p = false → ∃ x, gives (.nsDelete call) s (u.libExit call 0x23 x)) ∧
        (s.owns p = true → (n.target = true ∨ n.snap.isSome = true ∨ ∃ q ∈ (s.pool p).pairs, q.2.nsid = nsid) →
          ∃ x, gives (.nsDelete call) s (u.libExit call 0x2A x)) ∧
        (s.owns p = true → n.target = false → n.snap = none → (∀ q ∈ (s.pool p).pairs, q.2.nsid ≠ nsid) → n.deleting = true →
          (s.host.cmds.any (fun q => decide (q.2.cap.nsid = nsid)) = true → gives (.nsDelete call) s s) ∧
          (s.host.cmds.any (fun q => decide (q.2.cap.nsid = nsid)) = false → gives (.nsDelete call) s ((s.nsWalk p nsid).libDone call))))) ∧
    (callSlot c.entry = 45 → ∀ recs n, recs = ((s.allNs.filter (fun q => !q.2.2.walked)).drop (callArg c.entry 0)).map (fun q => s.nsRec q.1 q.2.1 q.2.2) →
      n = min recs.length (callPlen c.entry / 32) → gives (.nsList call) s ((s.setParam c ((recs.take n).flatMap id)).libExit call 0 n))) ∧
  (∀ (s : State) (nsid p : Nat) (n : Ns), (s.nsRec nsid p n).length = 32 ∧ fieldAt (s.nsRec nsid p n) 0 4 = nsid % 2 ^ 32 ∧
    fieldAt (s.nsRec nsid p n) 8 8 = n.size % 2 ^ 64)

/-- R16, R17, R215, R229 to R235, R241 and R267. What the spec leaves open in them is as log entries 38, 42 and 89 say (the
model's reading or choice). -/
def Obligations.JournalAndCheckpointsAdvance : Prop :=
  (∀ (s t : State) (p origin ref : Nat) (es : List Bytes) (g : Group), s.acceptGroup p origin es none ref = (t, g) → es.length < 2 ^ 16 - 1 →
    g.seq = (s.pool p).seq ∧ g.entries.length = es.length + 1 ∧ (t.pool p).seq = (s.pool p).seq + 1 ∧
    (t.pool p).jbuf = (s.pool p).jbuf.filter (fun y => decide (y.seq ≤ g.seq)) ++ [g] ++ (s.pool p).jbuf.filter (fun y => decide (g.seq < y.seq)) ∧
    fieldAt g.begin' 8 8 = (s.pool p).seq % 2 ^ 64 ∧ fieldAt g.begin' 0x14 4 = (s.pool p).epoch % 2 ^ 32 ∧ fieldAt g.begin' 0x18 2 = es.length + 1 ∧
    t.modules = s.modules) ∧
  (∀ (s : State) (n q p : Nat) (c : HCmd), Tbl.find s.host.cmds n = some c → c.seq = some q → s.nsPool c.cap.nsid = some p →
    (c.phase = .accepted → s.plan n = none → (s.hasShadow p = false ∨ q ∉ (s.pool p).sentSeqs) →
      gives (.writeCompletionPosted n) s (s.finishCmd n stOk 0 0)) ∧
    (s.hasShadow p = true → q ∈ (s.pool p).sentSeqs → gives (.writeCompletionPosted n) s s) ∧
    ((s.plan n).isSome = true → gives (.writeCompletionPosted n) s s)) ∧
  (∀ (s : State) (n : Nat) (c : HCmd) (w : WPlan) (t : W64), Tbl.find s.host.cmds n = some c → s.plan n = some w → c.retryAt = some t →
    (s.time.toNat < t.toNat → gives (.landingRetryTimeout n) s (s.landRetry w.pool)) ∧
    (∀ u, t.toNat ≤ s.time.toNat → w.accepted = false → u = (s.landFailed n).abandonPlan n →
      (w.cancelBy ≤ (u.pool w.pool).durable → gives (.landingRetryTimeout n) s (u.finishCmd n stTransfer 0 0)) ∧
      ((u.pool w.pool).durable < w.cancelBy → gives (.landingRetryTimeout n) s (u.updPool w.pool (fun y =>
        { y with cancels := y.cancels ++ [{ seq := w.cancelBy, by_ := w.cancelBy, cmd := some n }] })))) ∧
    (t.toNat ≤ s.time.toNat → w.accepted = true → gives (.landingRetryTimeout n) s (s.cancelPlan n w (some n)))) ∧
  (∀ (s : State) (n : Nat) (w : WPlan), s.plan n = some w →
    (w.accepted = false → gives (.cancel n) s s) ∧
    (w.accepted = true → gives (.cancel n) s (s.cancelPlan n w (some n))) ∧
    (∀ u g x, (s.pool w.pool).cfg.dedup = false → s.acceptGroup w.pool 4 [eCancel w.pool w.seq] none 0 = (u, g) →
      x = ({ seq := g.seq, by_ := g.seq, cmd := some n } : Cancelled) →
      s.cancelPlan n w (some n) = ((((((u.unland w.pool w.seq).dropSvcs n).addSvcs (w.mods.map (fun m => .cancel w.pool m g))).updPool w.pool
        (fun y => { y with cancels := y.cancels ++ [x] })).delPlan n).unstall w.pool))) ∧
  (∀ (s : State) (p : Nat) (x : Pool), x = s.pool p →
    (s.owns p = true → (100000 ≤ (s.time - x.flushAt).toNat ∨ 0x10000 ≤ sumBy (fun g => g.bytes.length) x.jbuf) →
      gives (.journalFlush p) s (s.flushNow p)) ∧
    ((s.time - x.flushAt).toNat < 100000 → sumBy (fun g => g.bytes.length) x.jbuf < 0x10000 → gives (.journalFlush p) s s) ∧
    ((∀ g ∈ x.jbuf, s.heldSeq p ≤ g.seq) → s.flushNow p = s) ∧
    (∀ ps, x.jbuf ≠ [] → (∀ g ∈ x.jbuf, g.seq < s.heldSeq p) → x.triple.length = 3 → x.jclose = false → ps.length ≤ 1024 →
      x.jpage + ps.length + 1024 ≤ 4096 →
      ps = flushPages p x.epoch (x.slabUse (x.triple.getD 0 0)).owner x.jpage s.time x.jbuf →
      ps.length = ceilDiv (sumBy (fun g => g.bytes.length) x.jbuf) 4096 →
      (s.flushNow p).pool p = { x with
        jbuf := [], jpage := x.jpage + ps.length, flushAt := s.time,
        flushes := x.flushes ++ [{
          last := x.jbuf.foldl (fun m g => max m g.seq) 0,
          left := x.triple.foldl (fun t a => Tbl.set t a (ceilDiv ps.length 16)) [] }],
        ckpt := { x.ckpt with flushed := x.ckpt.flushed + 4096 * ps.length } } ∧ (s.flushNow p).mem = s.mem)) ∧
  (∀ (s : State) (p : Nat), (s.owns p = false → gives (.bivouacTarget p) s s) ∧
    ((s.time - (s.pool p).bivAt).toNat < 100000000 → gives (.bivouacTarget p) s s) ∧
    (∀ u, s.owns p = true → 100000000 ≤ (s.time - (s.pool p).bivAt).toNat →
      u = s.updPool p (fun y => { y with bivGoal := s.bivTarget p, bivAt := s.time }) →
      gives (.bivouacTarget p) s ((fillBivouac p ((s.pool p).uses.length / 2 + 1) u).unitsCome p)) ∧
    s.bivTarget p = min (max (s.freeSlabs p * slabBytes / 4) (s.rawSlabs p * slabBytes / 200)) (s.rawSlabs p * slabBytes * 8 / 100) ∧
    (∀ f, ((s.pool p).bivGoal < (bivSlabs (s.pool p) + 2) * slabBytes → fillBivouac p f s = s) ∧
      ((bivSlabs (s.pool p) + 2) * slabBytes ≤ (s.pool p).bivGoal →
        (∀ t, s.takeUnit p = some t → fillBivouac p (f + 1) s = fillBivouac p f t) ∧ (s.takeUnit p = none → fillBivouac p (f + 1) s = s))) ∧
    (∀ r, 2 ≤ (openUnits (s.pool p) r).length → s.openUnit p r = s) ∧
    (∀ x, Tbl.find s.pools p = some x → gives (.budgetRefill p) s
      { s with pools := Tbl.set s.pools p { x with num := p, budget := min (4 * 2 ^ 30) (x.budget + 2 ^ 28) } })) ∧
  (∀ (s : State) (p : Nat) (x : Pool), x = s.pool p → s.owns p = true →
    (x.ckpt.stage = 0 → (3000000000 ≤ (s.time - x.ckpt.at_).toNat ∨ 2 ^ 30 ≤ x.ckpt.flushed ∨ x.closed = true) →
      (s.cutBusy p = false → gives (.checkpoint p) s (s.ckptCut p)) ∧
      (s.cutBusy p = true → gives (.checkpoint p) s (s.updPool p (fun y => { y with ckpt := { y.ckpt with cutting := true } })))) ∧
    (∀ n r w, w.pool = p → x.ckpt.cutting = true → s.issuePlan n r w = (s, false)) ∧
    (x.ckpt.stage = 0 → (s.time - x.ckpt.at_).toNat < 3000000000 → x.ckpt.flushed < 2 ^ 30 → x.closed = false → gives (.checkpoint p) s s) ∧
    (x.ckpt.stage = 2 → gives (.checkpoint p) s (s.ckptChain p)) ∧
    (x.ckpt.stage = 4 → 2 ≤ x.ckpt.copies →
      (x.closed = false → gives (.anchorDurable p) s (s.ckptDone p)) ∧ (x.closed = true → gives (.anchorDurable p) s (s.ckptDone p).anaChange)) ∧
    (x.ckpt.stage ≠ 4 ∨ x.ckpt.copies < 2 → gives (.anchorDurable p) s s) ∧
    (Tbl.sorted s.pools = true → ((s.ckptDone p).pool p).ckpt.stage = 0 ∧ ((s.ckptDone p).pool p).ckpt.gen = x.ckpt.gen + 1 ∧
      ((s.ckptDone p).pool p).closed = false ∧ ((s.ckptDone p).pool p).ckpt.chain = x.ckpt.newChain)) ∧
  (∀ (s u : State) (p : Nat) (sb : Bytes), (s.owns p = false ∨ (s.pool p).recovering = false → gives (.recovery p) s s) ∧
    (s.owns p = true → (s.pool p).recovering = true → s.newestAnchor p = some sb → u = s.recoverPool p sb →
      (u.pwr.mode = 3 → u.pair.headIdClash = false → (∀ q ∈ u.pools, q.2.rel = .owner → q.2.recovering = false) →
        gives (.recovery p) s (u.setMode 6)) ∧
      (u.pwr.mode ≠ 3 → gives (.recovery p) s u)))

/-- R211, R219, R222 to R225, R238, R239, R249, R259 and R280. What the spec leaves open in them is as log entry 95 says (the
model's reading or choice). -/
def Obligations.MoversFillAndFreeSegments : Prop :=
  (∀ (s : State) (p n : Nat) (marks : Marks) (b : Bool), s.owns p = false →
    gives (.destage p marks) s s ∧ gives (.collection p marks) s s ∧ gives (.rewrite p marks) s s ∧ gives (.releaseErase p b n) s s) ∧
  (∀ (s u : State) (p n h : Nat) (r : CRec) (marks : Marks), s.owns p = true → u = s.destageClass p →
    (u.destageUnit p = none → gives (.destage p marks) s u) ∧
    (u.destageUnit p = some n → (chunksOf (u.pool p) true n).find? (fun q => !inMove (u.pool p) q.1) = some (h, r) →
      gives (.destage p marks) s (u.moveChunk p h 1 marks))) ∧
  (∀ (s u : State) (p n o : Nat) (marks : Marks), s.owns p = true → u = (s.collectSwitch p).gapPick p →
    (u.collectSource p = none → gives (.collection p marks) s u) ∧
    (u.collectSource p = some (n, o) → gives (.collection p marks) s (u.emptySeg p n o marks))) ∧
  (∀ (s : State) (p n : Nat) (marks : Marks), s.owns p = true →
    (s.collectSource p = some (n, 9) → gives (.rewrite p marks) s (s.emptySeg p n 9 marks)) ∧
    (s.collectSource p = none → gives (.rewrite p marks) s s)) ∧
  (∀ (s : State) (p n o h : Nat) (r : CRec) (marks : Marks),
    ((chunksOf (s.pool p) false n).find? (fun q => !inMove (s.pool p) q.1) = some (h, r) → s.emptySeg p n o marks = s.moveChunk p h o marks) ∧
    (chunksOf (s.pool p) false n = [] → drainedSrc (s.pool p) false n = true → Tbl.getD (s.pool p).moved (srcKey false n) 0 ≤ (s.pool p).durable →
      s.emptySeg p n o marks = s.release p false n o) ∧
    (chunksOf (s.pool p) false n = [] → (s.pool p).durable < Tbl.getD (s.pool p).moved (srcKey false n) 0 → s.emptySeg p n o marks = s)) ∧
  (∀ (s : State) (p n : Nat) (x : Pool) (g : Seg), Tbl.find s.pools p = some x → Tbl.find x.segs n = some g →
    (g.flying = 0 ∨ g.due ≠ [] ∨ x.ckpt.cutting = true → gives (.stripeRowComplete p n) s s) ∧
    (∀ y a, g.flying ≠ 0 → g.due = [] → x.ckpt.cutting = false → g.moving = [] →
      y = { g with rows := g.rows + 1, flying := 0, buffer := g.buffer.drop (g.k * 65536) } →
      a = (s.updPool p (fun z => z.updSeg n (fun _ => y))).shadowSegSend p n →
      (g.rows ≠ 1023 → g.closing = none → gives (.stripeRowComplete p n) s (a.issueRow p n)) ∧
      (g.rows = 1023 → g.closing = none → gives (.stripeRowComplete p n) s (a.submit p g.origin [eSeal p n 1 (1024 * g.k * 4096) 1024])) ∧
      (∀ e, g.closing = some e → g.buffer.length ≤ g.k * 65536 →
        gives (.stripeRowComplete p n) s (a.submit p g.origin [eSeal p n 1 (ceilDiv e 16) (g.rows + 1)]))) ∧
    (∀ m a u gr y, g.flying ≠ 0 → g.due = [] → x.ckpt.cutting = false → g.rows ≠ 1023 → g.closing = none → g.moving = [m] →
      m.ende ≤ (g.rows + 1) * (g.k * 65536) → (x.rec' m.handle).valid = true → (x.rec' m.handle).loc = m.old →
      y = { g with rows := g.rows + 1, flying := 0, buffer := g.buffer.drop (g.k * 65536), moving := [] } →
      a = s.updPool p (fun z => z.updSeg n (fun _ => y)) → a.acceptGroup p m.origin [eMove p m.handle m.new m.old] none 0 = (u, gr) →
      gives (.stripeRowComplete p n) s (((u.updPool p (fun z => { z with
        moved := Tbl.set z.moved (srcKey (bit m.old 59) (bits m.old 0 32)) gr.seq })).shadowSegSend p n).issueRow p n))) ∧
  (∀ (s : State) (p n : Nat) (g : Seg), Tbl.find (s.pool p).segs n = some g →
    (g.state ≠ 0 ∨ g.flying ≠ 0 ∨ g.buffer.length < g.k * 65536 → s.issueRow p n = s) ∧
    (∀ m ∈ g.members, slabReady (s.pool p) m.slab = false → s.issueRow p n = s) ∧
    (g.state = 0 → g.flying = 0 → g.k * 65536 ≤ g.buffer.length → (∀ m ∈ g.members, slabReady (s.pool p) m.slab = true) →
      (bit g.regions (g.rows / 64) = false → s.issueRow p n = s.setRegion p n g) ∧
      (bit g.regions (g.rows / 64) = true → g.regDue ≠ [] → s.issueRow p n = s))) ∧
  (∀ (s : State) (p n : Nat) (g : Seg), Tbl.find (s.pool p).segs n = some g →
    (s.pwr.mode ≠ 7 → (s.pool p).moveTo = none → gives (.segmentCloseShort p n) s s) ∧
    (s.pwr.mode = 7 ∨ (s.pool p).moveTo ≠ none →
      (g.state ≠ 0 ∨ g.flying ≠ 0 → gives (.segmentCloseShort p n) s s) ∧
      (g.state = 0 → g.flying = 0 → g.closing ≠ none → gives (.segmentCloseShort p n) s (s.issueRow p n)) ∧
      (g.state = 0 → g.flying = 0 → g.closing = none → g.buffer = [] → gives (.segmentCloseShort p n) s (s.closeSeg p n)) ∧
      (g.state = 0 → g.flying = 0 → g.closing = none → g.buffer ≠ [] → gives (.segmentCloseShort p n) s
        ((s.updPool p (fun x => x.updSeg n (fun y => { y with
          closing := some (g.rows * (g.k * 65536) + g.buffer.length),
          buffer := padTo (ceilDiv g.buffer.length (g.k * 65536) * (g.k * 65536)) y.buffer }))).issueRow p n)))) ∧
  (∀ (s : State) (p n : Nat) (x : Pool), x = s.pool p → s.owns p = true →
    (∀ g, Tbl.find x.segs n = some g → (g.state = 1 ∨ g.state = 2) → g.retained = false → drainedSrc x false n = true →
      Tbl.getD x.moved (srcKey false n) 0 ≤ x.durable → gives (.releaseErase p true n) s (s.release p false n (segOrigin x n))) ∧
    (∀ u, Tbl.find x.units n = some u → u.sealed = true → s.unitPending p n = false → drainedSrc x true n = true →
      Tbl.getD x.moved (srcKey true n) 0 ≤ x.durable → gives (.releaseErase p false n) s (s.release p true n 1)) ∧
    (∀ b, drainedSrc x (!b) n = false → gives (.releaseErase p b n) s s)) ∧
  (∀ (s : State) (p n : Nat) (g : Seg), Tbl.find (s.pool p).segs n = some g →
    (2 ≤ g.regDone → g.regDue ≠ [] → (s.hasShadow p = false ∨ g.regSeq ∉ (s.pool p).sentSeqs) → gives (.regionBitDurable p n) s
      ((s.updPool p (fun x => x.updSeg n (fun y => { y with regDue := [] }))).issueRow p n)) ∧
    (g.regDone < 2 ∨ g.regDue = [] → gives (.regionBitDurable p n) s s)) ∧
  (∀ (p h flen : Nat), (marker p h flen).length = 16 ∧ fieldAt (marker p h flen) 0 2 = 0xC15B ∧ fieldAt (marker p h flen) 4 6 = h % 2 ^ 48 ∧
    fieldAt (marker p h flen) 10 3 = flen % 2 ^ 24 ∧ fieldAt (marker p h flen) 14 2 = crc32c ((marker p h flen).take 14) % 2 ^ 16)

/-- R29, R244, R256 to R258, R263 to R266 and R305. What the spec leaves open in them is as log entry 47 says (the model's
reading or choice). -/
def Obligations.PatrolAndFixityReport : Prop :=
  (∀ (s : State) (p : Nat) (x : Pool) (marks : List (Nat × Nat × Nat × Nat)) (rep : List (Nat × Bytes)), x = s.pool p →
    (s.owns p = false ∨ x.rebuild.running = true → gives (.patrolPass p marks rep) s s) ∧
    (s.owns p = true → x.rebuild.running = false → x.pass.running = true → s.opFailed 2 p = true →
      gives (.patrolPass p marks rep) s (s.setPool p { x with pass := { x.pass with running := false, stop := s.time } })) ∧
    (s.owns p = true → x.rebuild.running = false → x.pass.running = false →
      (passDue x ≤ s.time.toNat → gives (.patrolPass p marks rep) s (s.passStart p marks)) ∧
      (s.time.toNat < passDue x → gives (.patrolPass p marks rep) s s)) ∧
    (s.owns p = true → x.rebuild.running = false → x.pass.running = true → s.opFailed 2 p = false → x.pass.queue = [] →
      gives (.patrolPass p marks rep) s (s.passEnd p)) ∧
    (∀ n q u, s.owns p = true → x.rebuild.running = false → x.pass.running = true → s.opFailed 2 p = false → x.pass.queue = n :: q →
      u = (s.patrolSeg p n marks rep).updPool p (fun y => { y with
        pass := { y.pass with queue := q, done := y.pass.done + 1, position := q.headD (n + 1) } }) →
      ∀ v, v = u.lopReport 2 0 0 p (u.pool p).pass.done (u.pool p).pass.total (u.pool p).pass.position (u.pool p).pass.start →
      (q ≠ [] → gives (.patrolPass p marks rep) s v) ∧ (q = [] → gives (.patrolPass p marks rep) s (v.passEnd p)))) ∧
  (∀ (s : State) (p : Nat) (x : Pool), x = s.pool p → s.owns p = true → x.pass.running = true →
    (s.time.toNat < x.pass.due.toNat → gives (.patrolRate p) s { s with
      pools := Tbl.set s.pools p { x with pass := { x.pass with rate := passLeft x * 360000000000 / (x.pass.due.toNat - s.time.toNat) } } }) ∧
    (x.pass.due.toNat ≤ s.time.toNat → ∀ bw u, bw = sumBy (fun m => if s.modUp m then (s.modu m).ident.readBw * 1000000 else 0) x.mods →
      u = { s with pools := Tbl.set s.pools p { x with pass := { x.pass with late := true, rate := bw * 3600 / 20 } } } →
      (x.pass.late = true → gives (.patrolRate p) s u) ∧
      (x.pass.late = false → gives (.patrolRate p) s (u.libBook 0x103 (leBytes 1 p ++ leBytes 4 x.pass.no))))) ∧
  (∀ (s : State) (p : Nat), (s.owns p = true → gives (.fillStateEval p) s (s.evalFill p)) ∧ (s.owns p = false → gives (.fillStateEval p) s s)) ∧
  (∀ (s : State) (p n : Nat) (x : Pool), x = s.pool p → n = fillNext x.fill (s.rawSlabs p) (s.freeSlabs p) (sparedModules x) →
    (n = x.fill → s.evalFill p = s) ∧
    (s.rawSlabs p ≠ 0 → n ≠ x.fill → s.evalFill p = { s with pools := Tbl.set s.pools p { x with fill := n } }.book 0x20 0x04B
      (leBytes 1 p ++ leBytes 1 n ++ leBytes 2 (10000 * s.freeSlabs p / s.rawSlabs p) ++ leBytes 2 (sparedModules x)))) ∧
  (∀ old raw free spared, (spared = 0 → fillNext old raw free spared = 2) ∧ (1000 * free < 5 * raw → fillNext old raw free spared = 2) ∧
    (0 < spared → 20 * raw ≤ 1000 * free → fillNext old raw free spared = 0) ∧
    (0 < spared → old = 0 → 15 * raw ≤ 1000 * free → fillNext old raw free spared = 0) ∧
    (0 < spared → 5 * raw ≤ 1000 * free → 1000 * free < 15 * raw → old < 2 → fillNext old raw free spared = 1) ∧
    (0 < spared → old = 1 → 15 * raw ≤ 1000 * free → 1000 * free < 20 * raw → fillNext old raw free spared = 1) ∧
    (0 < spared → old = 2 → 5 * raw ≤ 1000 * free → 1000 * free < 10 * raw → fillNext old raw free spared = 2)) ∧
  (∀ (s u : State) (call : Nat) (c : Call), Tbl.find s.calls call = some c → c.phase = .running → u = { s with freeCtr := s.freeCtr + 1 } →
    (callSlot c.entry = 48 → ∀ p d, p = callPool c.entry → d = callArg c.entry 0 →
      (s.owns p = false ∨ d < 3 ∨ 60 < d ∨ 1 < callArg c.entry 1 → ∃ x, gives (.patrolSet call) s (u.libExit call 0x30 x)) ∧
      (∀ v : State, s.owns p = true → 3 ≤ d → d ≤ 60 →
        v = (s.submit p 4 [eParams p { (s.pool p).cfg with days := d }]).updPool p (fun x =>
          if x.pass.running then { x with pass := { x.pass with due := x.pass.start + BitVec.ofNat 64 (d * dayTicks) } } else x) →
        (callArg c.entry 1 = 0 ∨ callArg c.entry 1 = 1 ∧ (v.pool p).pass.running = true → gives (.patrolSet call) s (v.libDone call)) ∧
        (callArg c.entry 1 = 1 → (v.pool p).pass.running = false → (v.pool p).rebuild.running = false →
          gives (.patrolSet call) s ((v.passStart p []).libDone call)) ∧
        (callArg c.entry 1 = 1 → (v.pool p).pass.running = false → (v.pool p).rebuild.running = true →
          gives (.patrolSet call) s ((v.updPool p (fun x => { x with passNow := true })).libDone call)))) ∧
    (callSlot c.entry = 49 → ∀ p x, p = callPool c.entry → x = s.pool p →
      (passOf x (callArg c.entry 0) = none → ∃ r, gives (.fixitySummary call) s (u.libExit call 0x30 r)) ∧
      (∀ ps n recs, passOf x (callArg c.entry 0) = some ps → recs = x.nss.map (fun q => fixityRec p ps q.1 q.2.kind) →
        n = min recs.length (callPlen c.entry / 64) → gives (.fixitySummary call) s ((s.setParam c ((recs.take n).flatMap id)).libExit call 0 n))) ∧
    (callSlot c.entry = 50 → ∀ x, x = s.pool (callPool c.entry) →
      (passOf x (callArg c.entry 0) = none → ∃ r, gives (.fixityFailures call) s (u.libExit call 0x30 r)) ∧
      (∀ ps n recs, passOf x (callArg c.entry 0) = some ps → recs = (ps.failures.drop (callArg c.entry 1)).map failRec →
        n = min recs.length (callPlen c.entry / 32) → gives (.fixityFailures call) s ((s.setParam c ((recs.take n).flatMap id)).libExit call 0 n))) ∧
    (callSlot c.entry = 51 → ∀ p n recs, p = callPool c.entry → recs = (s.pool p).mods.map (fun m => s.mediaRec p m) →
      n = min recs.length (callPlen c.entry / 32) → gives (.mediaStatus call) s ((s.setParam c ((recs.take n).flatMap id)).libExit call 0 n))) ∧
  (∀ (s : State) (p : Nat) (pages : List (Nat × Bytes)) (x : Pool), x = s.pool p →
    (s.owns p = false ∨ (s.time - x.healthAt).toNat < 6000000000 → gives (.moduleHealthPoll p pages) s s) ∧
    (∀ (read judge poll : State → Nat → State),
      (∀ (t : State) (m : Nat), pages.find? (fun q => decide (q.1 = m)) = none → read t m = t) →
      (∀ (t : State) (m : Nat) (b : Bytes), pages.find? (fun q => decide (q.1 = m)) = some (m, b) →
        read t m = (t.setModu m { t.modu m with critical := (b.getD 0 0).toNat }).mpcCount (m / 4) 512 0) →
      (∀ (t : State) (m : Nat), ((t.modu m).critical ≠ 0 ∨ t.wornOut p m = true → judge t m = t.evacuate p m) ∧
        ((t.modu m).critical = 0 → t.wornOut p m = false → judge t m = t)) →
      (∀ (t : State) (m : Nat), (t.modUp m = false → poll t m = t) ∧ (t.modUp m = true → poll t m = judge (read t m) m)) →
      s.owns p = true → 6000000000 ≤ (s.time - x.healthAt).toNat →
      gives (.moduleHealthPoll p pages) s (x.mods.foldl poll (s.setPool p { x with healthAt := s.time }))) ∧
    (s.owns p = true → 6000000000 ≤ (s.time - x.healthAt).toNat → (∀ m ∈ x.mods, s.modUp m = false) →
      gives (.moduleHealthPoll p pages) s { s with pools := Tbl.set s.pools p { x with healthAt := s.time } })) ∧
  (∀ (s u : State) (p h : Nat) (marks : List (Nat × Nat × Nat × Nat)) (free : State → State), free = (fun t => { t with
      host := { t.host with
        cmds := t.host.cmds.map (fun (q : Nat × HCmd) => if q.2.search = some h then (q.1, { q.2 with search := none }) else q) } }) →
    (s.owns p = false ∨ s.locWrong p h = false ∧ (∀ q ∈ s.host.cmds, q.2.search ≠ some h) → gives (.erasedReference p h marks) s s) ∧
    (∀ fresh, s.owns p = true → (s.locWrong p h = true ∨ ∃ q ∈ s.host.cmds, q.2.search = some h) → fresh = searchOrder (s.pool p) →
      (searchSegs p h marks fresh s = (none, u) → gives (.erasedReference p h marks) s (free (u.loseChunk p h))) ∧
      (∀ loc, searchSegs p h marks fresh s = (some loc, u) → ∃ t, gives (.erasedReference p h marks) s (free t) ∧
        t = (((u.submit p 9 [eMove p h loc ((s.pool p).rec' h).loc]).updPool p (fun y => y.updSeg (bits loc 0 32) (fun g =>
          if g.retained then { g with retained := false, source := y.reshape.isSome } else g))).libBook 0x101
            (leBytes 1 p ++ leBytes 6 h ++ leBytes 8 ((s.pool p).rec' h).loc ++ leBytes 8 loc))))) ∧
  (∀ (x : Pool) (n : Nat), n ∈ searchOrder x ↔ ∃ g, (n, g) ∈ x.segs ∧ g.state ≠ 3 ∧
    (g.state = 0 ∨ g.retained = true ∨ x.ckpt.anchorAt.toNat ≤ g.sealTime.toNat)) ∧
  (∀ (s : State) (n : Nat) (c : HCmd), Tbl.find s.host.cmds n = some c →
    (c.search.isSome = true → 200000000 ≤ (s.time - c.since).toNat → gives (.erasedReferenceTimeout n) s (s.finishCmd n stUnrecovered 0 0)) ∧
    (c.search = none ∨ (s.time - c.since).toNat < 200000000 → gives (.erasedReferenceTimeout n) s s)) ∧
  (∀ (s : State) (p nsid kind : Nat) (ps : Pass) (f : FixFail) (m : Nat),
    (fixityRec p ps nsid kind).length = 64 ∧ (failRec f).length = 32 ∧ (s.mediaRec p m).length = 32)

/-- R285, R288, R289, R291, R293, R294, R296, R299, R300 and R302 to R305. What the spec leaves open in them is as log entries
44 and 47 say (the model's reading or choice). -/
def Obligations.RebuildAndReshapeProceed : Prop :=
  (∀ (s : State) (p : Nat) (x : Pool) (marks : List (Nat × Nat × Nat × Nat)), x = s.pool p →
    (s.owns p = false → gives (.rebuild p marks) s s ∧ gives (.reshapeEnd p) s s) ∧
    (s.owns p = true → rebuildQueue x = [] →
      (x.rebuild.running = true → gives (.rebuild p marks) s (s.rebuildFinish p)) ∧ (x.rebuild.running = false → gives (.rebuild p marks) s s)) ∧
    (s.owns p = true → rebuildQueue x ≠ [] →
      (x.rebuild.running = false → gives (.rebuild p marks) s (s.rebuildStart p)) ∧
      (x.rebuild.running = true → s.opFailed 0 p = true ∨ s.rebuildNext p = none → gives (.rebuild p marks) s s) ∧
      (∀ n g, x.rebuild.running = true → s.opFailed 0 p = false → s.rebuildNext p = some (n, g) →
        (rebuildCollects x n g = false → (∃ m ∈ g.members, m.state = 1) → gives (.rebuild p marks) s (s.rebuildTargets p n)) ∧
        (rebuildCollects x n g = false → (∀ m ∈ g.members, m.state ≠ 1) → gives (.rebuild p marks) s (s.rebuildRow p n marks)) ∧
        (rebuildCollects x n g = true → gives (.rebuild p marks) s ((s.emptySeg p n 6 marks).rebuildReport p (rebuildPhase x.rebuild)))))) ∧
  (∀ (x : Pool) (n : Nat) (g : Seg), (n, g) ∈ rebuildQueue x ↔ (n, g) ∈ x.segs ∧ g.state ≠ 3 ∧ g.state ≠ 0 ∧ g.retained = false ∧ 1 ≤ notGood g) ∧
  (∀ (s : State) (p n : Nat) (g : Seg), s.rebuildNext p = some (n, g) →
    (n, g) ∈ rebuildQueue (s.pool p) ∧ ∀ o, s.collectSource p ≠ some (n, o)) ∧
  (∀ (s : State) (p b : Nat) (x : Pool) (r : Rebuild), x = s.pool p →
    (x.rebuild.running = false → gives (.rebuildRateWindow p b) s s) ∧
    (x.rebuild.running = true → r = { x.rebuild with
        hostClass := decide (b * 10 < s.rebuildFloor p), yielding := decide (b * 100 ≤ s.rebuildFloor p * 11) } →
      gives (.rebuildRateWindow p b) s ({ s with pools := Tbl.set s.pools p { x with rebuild := r } }.rebuildReport p (rebuildPhase r)))) ∧
  (∀ (s : State) (p n row i : Nat) (x : Pool) (g : Seg), x = s.pool p → Tbl.find x.segs n = some g →
    ((row, i, false) ∉ g.lostStrips → gives (.lostChunk p n row i) s s) ∧
    ((row, i, false) ∈ g.lostStrips → ∀ hs, hs = (x.recs.filter (fun q => q.2.live && !q.2.biv && !q.2.lost && decide (q.2.seg = n) &&
        decide (q.2.off < (row * g.k + i) * 65536 + 65536) && decide ((row * g.k + i) * 65536 < q.2.off + q.2.flen))).map Prod.fst →
      gives (.lostChunk p n row i) s ((hs.foldl (fun t h => t.loseChunk p h) s).updPool p (fun y => y.updSeg n (fun z => { z with
        lostStrips := z.lostStrips.map (fun l => if l.1 = row ∧ l.2.1 = i then (row, i, true) else l) }))))) ∧
  (∀ (s : State) (p : Nat) (x : Pool) (r : Reshape) (marks : List (Nat × Nat × Nat × Nat)), x = s.pool p → s.owns p = true → x.reshape = some r →
    (s.opFailed 1 p = true → gives (.reshape p marks) s s ∧ gives (.reshapeEnd p) s s) ∧
    (s.opFailed 1 p = false →
      (x.rebuild.running = true ∨ s.freeSlabs p * 50 < s.rawSlabs p → gives (.reshape p marks) s
        ({ s with pools := Tbl.set s.pools p { x with reshape := some { r with paused := true } } }.reshapeReport p 2)) ∧
      (∀ (v : State) (src : Option (Nat × Seg)), x.rebuild.running = false → s.rawSlabs p ≤ s.freeSlabs p * 50 →
        (r.paused = false → v = s) → (r.paused = true → v = { s with pools := Tbl.set s.pools p { x with reshape := some { r with paused := false } } }) →
        src = x.segs.find? (fun q => q.2.source && !(x.pass.running && decide (x.pass.position = q.1))) →
        (src = none → gives (.reshape p marks) s ((v.leaveLogs p).reshapeReport p 0)) ∧
        (∀ n g h c, src = some (n, g) → (chunksOf x false n).find? (fun z => !inMove x z.1) = some (h, c) →
          gives (.reshape p marks) s ((v.moveChunk p h 7 marks).reshapeReport p 0)) ∧
        (∀ n g, src = some (n, g) → (∀ z ∈ chunksOf x false n, inMove x z.1 = true) →
          (drainedSrc x false n = true → Tbl.getD x.moved (srcKey false n) 0 ≤ x.durable →
            gives (.reshape p marks) s ((v.submit p 7 [eReshape p 2 r.newK n 0 r.id r.total]).reshapeReport p 0)) ∧
          (drainedSrc x false n = false ∨ x.durable < Tbl.getD x.moved (srcKey false n) 0 → gives (.reshape p marks) s v))) ∧
      ((∀ q ∈ x.segs, q.2.source = false) → (∀ q ∈ x.uses, saMod q.1 ∈ r.exclude → q.2.use = 6 ∨ ∃ g ∈ x.segs, g.2.retained = true ∧
          ∃ m ∈ g.2.members, m.slab = q.1) → gives (.reshapeEnd p) s (s.reshapeStop p 3 3)) ∧
      ((∃ q ∈ x.segs, q.2.source = true) → gives (.reshapeEnd p) s s))) ∧
  (∀ (s u : State) (call : Nat) (c : Call) (p : Nat), Tbl.find s.calls call = some c → c.phase = .running → u = { s with freeCtr := s.freeCtr + 1 } →
    p = callPool c.entry →
    (callSlot c.entry = 52 → ∀ k n d ex, k = callArg c.entry 0 → n = callArg c.entry 1 → d = s.paramBytes c →
      ex = (List.range n).map (fun i => 4 * fieldAt d (2 * i) 1 + fieldAt d (2 * i + 1) 1) →
      (255 < n ∨ d.length < 2 * n → ∃ x, gives (.reshapeStart call) s (u.libExit call 0x40 x)) ∧
      (n ≤ 255 → 2 * n ≤ d.length → (∀ i < n, fieldAt d (2 * i) 1 ≤ 63 ∧ fieldAt d (2 * i + 1) 1 ≤ 3) →
        (s.reshapeCheck p k ex ≠ 0 → ∃ x, gives (.reshapeStart call) s (u.libExit call (s.reshapeCheck p k ex) x)) ∧
        (s.reshapeCheck p k ex = 0 → gives (.reshapeStart call) s
          ((s.reshapeStart p k ex (if c.ridge < 8 then some c.ridge else none)).libExit call 0 (reshapeSources (s.pool p) k ex).length)))) ∧
    (callSlot c.entry = 53 → ((s.pool p).reshape = none → ∃ x, gives (.reshapeAbort call) s (u.libExit call 0x41 x)) ∧
      ((s.pool p).reshape.isSome = true → gives (.reshapeAbort call) s ((s.reshapeStop p 4 5).libDone call))) ∧
    (callSlot c.entry = 54 → ∀ m, m = 4 * callArg c.entry 0 + callArg c.entry 1 →
      (63 < callArg c.entry 0 ∨ 3 < callArg c.entry 1 → ∃ x, gives (.moduleFail call) s (u.libExit call 0x40 x)) ∧
      (callArg c.entry 0 ≤ 63 → callArg c.entry 1 ≤ 3 → m ∉ (s.pool p).mods → ∃ x, gives (.moduleFail call) s (u.libExit call 0x44 x)) ∧
      (callArg c.entry 0 ≤ 63 → callArg c.entry 1 ≤ 3 → m ∈ (s.pool p).mods → gives (.moduleFail call) s ((s.failModule p m).libDone call))) ∧
    (callSlot c.entry = 55 → 64 ≤ callPlen c.entry → gives (.redundancyStatus call) s ((s.setParam c (s.redundancyRec p)).libExit call 0 1)) ∧
    (callSlot c.entry = 56 → ∀ n recs, recs = ((s.pool p).lost.drop (callArg c.entry 0)).map lostRec → n = min recs.length (callPlen c.entry / 32) →
      gives (.lostList call) s ((s.setParam c ((recs.take n).flatMap id)).libExit call 0 n))) ∧
  (∀ (s : State) (p m : Nat) (x : Pool), Tbl.find s.pools p = some x → m ∈ x.mods → m ∉ x.failed → m ∈ ((s.failModule p m).pool p).failed ∧
    (∀ q ∈ ((s.failModule p m).pool p).segs, q.2.state ≠ 3 → ∀ y ∈ q.2.members, saMod y.slab = m → y.state = 1) ∧
    (s.failModule p m).mem = s.mem) ∧
  (∀ (s : State) (p : Nat) (l : LostRec), (s.redundancyRec p).length = 64 ∧ (lostRec l).length = 32)

/-- R431, R436 to R443, R446 and R447. What the spec leaves open in them is as log entries 30 and 98 say (the model's reading or
choice). -/
def Obligations.ModulesKeepTheirMedium : Prop :=
  (∀ (s : State) (n m : Nat) (j : Job) (x : Modu), m = mpcModule j → x = s.modu m →
    x.lost = false → x.admitted = true → x.detached = false → x.foreign = false → x.lengths = [] → fieldAt j.desc 8 4 < x.ident.slabs →
    (s.startable n 9 (fun op => op == 0x80) = some j → ∀ c,
      ∃ t, gives (.eraseSlab false n (.ok c)) s t ∧ jobEnds s t n j 0 0 ∧
        t.mslab (mpcSa j) = MSlab.fresh ∧ (Tbl.sorted x.slabs = true → ∀ a, a ≠ mpcSa j → t.mslab a = s.mslab a) ∧ t.mem = s.mem) ∧
    (s.startable n 9 (fun op => op == 0x81) = some j → ∀ c f pages mode, mode = bits (fieldAt j.desc 0x10 4) 0 1 → f = mpcFirst j →
      pages = s.mpcProgramPages j → ((s.mslab (mpcSa j)).mode = 0 ∨ (s.mslab (mpcSa j)).mode = mode + 1) →
      (mode = 0 ∧ pages.length = 16 ∧ f = 16 * (s.mslab (mpcSa j)).row ∧ f + 16 ≤ 16384 ∨
        mode = 1 ∧ pages.length ≤ 16 ∧ f + pages.length ≤ 4096 ∧ ∀ i < pages.length, Tbl.find (s.mslab (mpcSa j)).pages (f + i) = none) →
      ∃ t, gives (.programSlabRow false n (.ok c)) s t ∧ jobEnds s t n j 0 0 ∧
        (∀ i < pages.length, Tbl.find (t.mslab (mpcSa j)).pages (f + i) = some { bytes := pages.getD i [], bad := false }) ∧
        (∀ i, i < f ∨ f + pages.length ≤ i → Tbl.find (t.mslab (mpcSa j)).pages i = Tbl.find (s.mslab (mpcSa j)).pages i) ∧
        (t.mslab (mpcSa j)).mode = mode + 1 ∧ (∀ a, a ≠ mpcSa j → t.mslab a = s.mslab a) ∧ t.mem = s.mem) ∧
    (s.startable n 9 (fun op => op == 0x85) = some j → ∀ c sl d k head seq, sl = s.mslab (mpcSa j) → d = s.hBytes j.ridge (jh j 0) →
      k = sl.pages.foldl (fun m p => max m (p.1 + 1)) 0 → head = bits (fieldAt j.desc 0x10 4) 20 1 → seq = fieldAt j.desc 0x18 8 →
      2 ≤ bits (fieldAt j.desc 0x10 4) 0 11 → bits (fieldAt j.desc 0x10 4) 0 11 ≤ 1024 →
      (sl.mode ≠ 1 → (∀ a ∈ sl.appends, ¬ (a.1 = head ∧ a.2.1 = seq)) → k + ceilDiv d.length 4096 ≤ 4096 →
        ∃ t, gives (.journalAppend false n (.ok c)) s t ∧ jobEnds s t n j 0 (k * 2 ^ 16) ∧
          (t.mslab (mpcSa j)).mode = 2 ∧ (t.mslab (mpcSa j)).appends = sl.appends ++ [(head, seq, k)] ∧
          (∀ i < ceilDiv d.length 4096, ∃ tag, Tbl.find (t.mslab (mpcSa j)).pages (k + i) =
            some { bytes := sealPage (sliceAt d (4096 * i) 4096) tag, bad := false }) ∧
          (∀ i < k, Tbl.find (t.mslab (mpcSa j)).pages i = Tbl.find sl.pages i) ∧ t.mem = s.mem) ∧
      (∀ first, sl.appends.find? (fun a => decide (a.1 = head ∧ a.2.1 = seq)) = some (head, seq, first) →
        ∃ t, gives (.journalAppend false n (.ok c)) s t ∧ jobEnds s t n j 0 (1 + first * 2 ^ 16) ∧ t.mslab (mpcSa j) = sl)) ∧
    (s.startable n 9 (fun op => op == 0x88) = some j → ∀ c set, set = bits (fieldAt j.desc 0x10 4) 0 3 → set ≤ 5 →
      ∃ t, gives (.setReadOffsets n (.ok c)) s t ∧ jobEnds s t n j 0 0 ∧ t.mslab (mpcSa j) = { s.mslab (mpcSa j) with oset := set } ∧ t.mem = s.mem)) ∧
  (∀ (s : State) (n m f k : Nat) (j : Job) (x : Modu) (sl : MSlab), m = mpcModule j → x = s.modu m → sl = s.mslab (mpcSa j) → f = mpcFirst j →
    x.lost = false → x.admitted = true → x.detached = false → fieldAt j.desc 8 4 < x.ident.slabs → f + k ≤ (if sl.mode = 2 then 4096 else 16384) →
    (s.startable n 9 (fun op => op == 0x82) = some j → ∀ c oset (pg : Nat → Bytes), k = mpcPages j → k ≤ 16 → oset = bits (fieldAt j.desc 0x10 4) 0 3 → oset ≤ 5 →
      (∀ i < k, ∃ b, Tbl.find sl.pages (f + i) = some { bytes := b, bad := false } ∧ b = pg i ∧ b.length = 4160 ∧ pageOk b = true) →
      ∃ t u, gives (.readPage n (.ok c)) s t ∧ jobEnds s t n j 0 (c % 2 ^ 16 + oset * 2 ^ 16) ∧ t.mem = (u : State).mem ∧
        u = s.hWrite j.ridge (jh j 0) 0 ((List.range k).flatMap (fun i => (pg i).take 4096) ++ (List.range k).flatMap (fun i => (pg i).drop 4096)) ∧
        t.modules = s.modules) ∧
    (s.startable n 9 (fun op => op == 0x86) = some j → ∀ c (pg : Nat → Bytes), k = bits (fieldAt j.desc 0x10 4) 0 8 + 1 →
      (∀ i < k, ∃ b, Tbl.find sl.pages (f + i) = some { bytes := b, bad := false } ∧ b = pg i ∧ b.length = 4160 ∧ pageOk b = true ∧ b.drop 4096 ≠ zeros 64) →
      ∃ t u, gives (.readTags n (.ok c)) s t ∧ jobEnds s t n j 0 0 ∧ t.mem = (u : State).mem ∧
        u = s.hWrite j.ridge (jh j 0) 0 ((List.range k).flatMap (fun i => (pg i).drop 4096)) ∧ t.modules = s.modules) ∧
    (s.startable n 9 (fun op => op == 0x8A) = some j → ∀ c page, page.length = 512 →
      ∃ t u, gives (.readHealth n page (.ok c)) s t ∧ jobEnds s t n j 0 0 ∧ t.mem = (u : State).mem ∧ u = s.hWrite j.ridge (jh j 0) 0 page ∧
        t.modu m = { x with critical := (page.getD 0 0).toNat })) ∧
  (∀ (s : State) (n status : Nat) (j : Job) (x : Modu) (o : ModOut) (page : Bytes), x = s.modu (mpcModule j) → x.lengths = [] →
    (status = 0x23 ∧ x.lost = true ∨ status = 0x25 ∧ x.lost = false ∧ (x.admitted = false ∨ x.detached = true)) →
    (s.startable n 9 (fun op => op == 0x80) = some j → gives (.eraseSlab false n o) s (s.finish n j status 0)) ∧
    (s.startable n 9 (fun op => op == 0x81) = some j → gives (.programSlabRow false n o) s (s.finish n j status 0)) ∧
    (s.startable n 9 (fun op => op == 0x85) = some j → gives (.journalAppend false n o) s (s.finish n j status 0)) ∧
    (s.startable n 9 (fun op => op == 0x82) = some j → gives (.readPage n o) s (s.finish n j status 0)) ∧
    (s.startable n 9 (fun op => op == 0x86) = some j → gives (.readTags n o) s (s.finish n j status 0)) ∧
    (s.startable n 9 (fun op => op == 0x88) = some j → gives (.setReadOffsets n o) s (s.finish n j status 0)) ∧
    (s.startable n 9 (fun op => op == 0x8A) = some j → gives (.readHealth n page o) s (s.finish n j status 0))) ∧
  (∀ (s : State) (n : Nat) (x : Svc) (o : ModOut) (i : Instr) (kind : Nat), (i, kind) ∈ [(.programSlabRow true n o, 0), (.journalAppend true n o, 1),
      (.eraseSlab true n o, 2)] → Tbl.find s.svc n = some x → svcKind x = kind →
    (s.svcHeld x = true → gives i s s) ∧
    (s.svcHeld x = false → ∀ st res u, ({ s with svc := Tbl.del s.svc n }).svcRun x o = (st, res, u) → gives i s ((u.svcEnd x st res).checkLengths (svcMod x)))) ∧
  (∀ (s : State) (n : Nat), (∀ j, s.startable n 9 (fun _ => true) = some j → ∃ r, gives (.cmdTimeout false n) s
      (({ s with freeCtr := s.freeCtr + 1 }.finish n j 0x24 r).noteTimeout (mpcModule j))) ∧
    (∀ x, Tbl.find s.svc n = some x → gives (.cmdTimeout true n) s
      (({ s with svc := Tbl.del s.svc n }.noteTimeout (svcMod x)).svcEnd x 0x24 0))) ∧
  (∀ (s : State) (p : Nat), gives (.strayAccess p) s ((s.bump (mpcBlk p + 0x48) 48 16 1).raise (mpcBlk p + 8) 0x80))

/-- R285, R429, R430, R433, R447 to R449, R454 and R455. What the spec leaves open in them is as log entries 96 and 100 say (the
model's reading or choice). -/
def Obligations.ModulesComeAndGo : Prop :=
  (∀ (s : State) (p t : Nat) (nested foreign : Bool) (i : Ident) (img : List SlabImage) (x : Modu), p < 64 →
    (s.mpcRuns p = false ∨ 4 ≤ t ∨ (s.mport p).up = false ∨ t ≠ 0 ∧ (s.mport p).expander = false ∨ (s.modu (4 * p + t)).present = true →
      gives (.moduleArrival p t nested i img foreign) s s) ∧
    (s.mpcRuns p = true → t < 4 → (s.mport p).up = true → (t = 0 ∨ (s.mport p).expander = true) → (s.modu (4 * p + t)).present = false →
      (admitTest i nested = 0 → x = { Modu.fresh with
          present := true, admitted := true, refused := false, registered := true, regKey := s.resvKey,
          held := (s.modu (4 * p + t)).held && !foreign, foreign := foreign, ident := i, slabs := imageSlabs (s.modu (4 * p + t)).slabs img } →
        gives (.moduleArrival p t nested i img foreign) s ({ s with modules := Tbl.set s.modules (4 * p + t) x }.raise (mpcBlk p + 8) 8)) ∧
      (admitTest i nested ≠ 0 → x = { Modu.fresh with
          present := true, admitted := false, refused := true, registered := false, regKey := 0, held := false, foreign := foreign, ident := i,
          slabs := imageSlabs (s.modu (4 * p + t)).slabs img } →
        gives (.moduleArrival p t nested i img foreign) s ((({ s with modules := Tbl.set s.modules (4 * p + t) x }.raise (mpcBlk p + 8) 8).raise
          (mpcBlk p + 8) 0x400).book 0x20 0x044 (leBytes 1 p ++ leBytes 1 t ++ leBytes 1 (admitTest i nested)))))) ∧
  (∀ (i : Ident) (nested : Bool), admitTest i nested = 0 ↔ nested = false ∧ i.qmagic = 0x4B51 ∧ i.qversion = 1 ∧ i.osets = 6 ∧
    i.capacity = i.slabs * 67108864 ∧ 1024 ≤ i.slabs ∧ i.cwCorrect ≠ 0 ∧ i.controllerOk = true ∧ i.nsid1 = true ∧ i.reservations = true) ∧
  (∀ (s u : State) (p sp w : Nat) (fl ex : Bool), (s.mpcRuns p = false → gives (.moduleLinkUp p sp w fl ex []) s s) ∧
    (s.mpcRuns p = true → u = (({ s with ports := Tbl.set s.ports p { up := true, speed := sp, width := w, flit := fl, expander := ex } }.bump
        (mpcBlk p + 0x58) 0 32 1).raise (mpcBlk p + 8) 2) →
      gives (.moduleLinkUp p sp w fl ex []) s u ∧
      (∀ t x, t < 4 → x = u.modu (4 * p + t) → x.lost = true → x.detached = false → gives (.moduleLinkUp p sp w fl ex [t]) s
        ({ u with modules := Tbl.set u.modules (4 * p + t) { x with
          present := true, lost := false, registered := x.admitted, regKey := if x.admitted then u.resvKey else 0, timeouts := [] } }.raise
            (mpcBlk p + 8) 8)))) ∧
  (∀ (s : State) (p t : Nat) (cfs : Bool), t < 4 →
    ((s.modu (4 * p + t)).present = false ∨ (s.modu (4 * p + t)).lost = true → gives (.moduleLost p (some t) cfs) s s) ∧
    ((s.modu (4 * p + t)).present = true → (s.modu (4 * p + t)).lost = false → s.svc = [] → s.poolsOf (4 * p + t) = [] →
      (∀ j ∈ s.jobs, j.2.cls ≠ 9) →
      gives (.moduleLost p (some t) cfs) s ({ s with modules := Tbl.set s.modules (4 * p + t) { s.modu (4 * p + t) with
        present := false, lost := true, lostAt := s.time } }.raise (mpcBlk p + 8) (4 + 0x100 * b2n cfs))) ∧
    ((s.mport p).up = false → gives (.moduleLost p none cfs) s s) ∧
    (∀ u : State, (s.mport p).up = true → u = ({ s with ports := Tbl.set s.ports p { s.mport p with up := false } }.raise (mpcBlk p + 8) 1) →
      gives (.moduleLost p none cfs) s ((((u.loseModule (4 * p) false).loseModule (4 * p + 1) false).loseModule (4 * p + 2) false).loseModule (4 * p + 3) false))) ∧
  (∀ (s : State) (p m : Nat),
    (s.owns p = true → (s.modu m).present = false → 500000000 ≤ (s.time - (s.modu m).lostAt).toNat → gives (.moduleFailed p m) s (s.failModule p m)) ∧
    (s.owns p = false ∨ (s.modu m).present = true ∨ (s.time - (s.modu m).lostAt).toNat < 500000000 → gives (.moduleFailed p m) s s)) ∧
  (∀ (s u : State) (call m : Nat) (c : Call) (x : Modu), Tbl.find s.calls call = some c → c.phase = .running → u = { s with freeCtr := s.freeCtr + 1 } →
    m = 4 * callArg c.entry 0 + callArg c.entry 1 → x = s.modu m →
    (callSlot c.entry = 92 →
      (64 ≤ callArg c.entry 0 ∨ 4 ≤ callArg c.entry 1 ∨ 16 ≤ callPool c.entry → ∃ r, gives (.moduleAdd call) s (u.libExit call 0x78 r)) ∧
      (callArg c.entry 0 < 64 → callArg c.entry 1 < 4 → callPool c.entry < 16 →
        (x.present = false ∨ x.refused = true ∨ x.admitted = false → ∃ r, gives (.moduleAdd call) s (u.libExit call 0x79 r)) ∧
        (x.present = true → x.refused = false → x.admitted = true →
          ((∃ q ∈ s.pools, m ∈ q.2.mods ∧ m ∉ q.2.failed) → ∃ r, gives (.moduleAdd call) s (u.libExit call 0x7A r)) ∧
          ((∀ q ∈ s.pools, m ∈ q.2.mods → m ∈ q.2.failed) →
            gives (.moduleAdd call) s ((s.addModule (callPool c.entry) m).libDone call))))) ∧
    (callSlot c.entry = 93 →
      (64 ≤ callArg c.entry 0 ∨ 4 ≤ callArg c.entry 1 ∨ 16 ≤ callPool c.entry → ∃ r, gives (.moduleDetach call) s (u.libExit call 0x78 r)) ∧
      (callArg c.entry 0 < 64 → callArg c.entry 1 < 4 → callPool c.entry < 16 →
        (x.present = false ∨ x.refused = true → ∃ r, gives (.moduleDetach call) s (u.libExit call 0x79 r)) ∧
        (x.present = true → x.refused = false →
          ((∃ q ∈ s.pools, ∃ a ∈ q.2.uses, saMod a.1 = m ∧ a.2.use ≠ 6) → ∃ r, gives (.moduleDetach call) s (u.libExit call 0x7B r)) ∧
          ((∀ q ∈ s.pools, ∀ a ∈ q.2.uses, saMod a.1 = m → a.2.use = 6) →
            gives (.moduleDetach call) s ((s.detachModule (callPool c.entry) m).libDone call))))) ∧
    (callSlot c.entry = 94 →
      (256 ≤ callArg c.entry 0 → ∃ r, gives (.moduleList call) s (u.libExit call 0x78 r)) ∧
      (callArg c.entry 0 < 256 → ∀ n recs, recs = ((List.range 256).drop (callArg c.entry 0)).map (fun m => s.moduleRec m) →
        n = min recs.length (callPlen c.entry / 16) → gives (.moduleList call) s ((s.setParam c ((recs.take n).flatMap id)).libExit call 0 n)))) ∧
  (∀ (s t : State) (p m : Nat), Tbl.sorted (s.modu m).slabs = true → t = s.addModule p m →
    (t.modu m).held = true ∧ (t.modu m).foreign = false ∧ t.mslab (saOf m 0) = MSlab.fresh ∧ t.mslab (saOf m 1) = MSlab.fresh ∧
    (∀ k, k ≠ m → t.modu k = s.modu k) ∧ (s.moduleRec m).length = 16)

/-- R313 to R321 and R464, with R336 and R339 where a lease or the rope is lost. What the spec leaves open in them is as log
entry 55 says (the model's reading or choice). -/
def Obligations.RopeFramesLeasesAndTime : Prop :=
  (∀ (s : State) (i : Instr) (typ : Nat) (f : Bytes) (cap : Capsule), (i, typ) ∈ [(.heartbeat f, 1), (.timeReq f, 2), (.timeResp f, 3),
      (.journal f, 4), (.journalAck f, 5), (.shadow f, 6), (.forward f cap, 7), (.forwardDone f, 8), (.join f, 9), (.caughtUp f, 9),
      (.ropeRelease f, 9), (.taken f, 9), (.rekey f, 9), (.ropeYield f, 10)] →
    (f.length < 40 ∨ f.length ≠ 40 + fieldAt f 4 4 ∨ fieldAt f 0 2 ≠ 0x9E17 ∨ fieldAt f 2 1 = 0 ∨ 10 < fieldAt f 2 1 ∨ 16384 < fieldAt f 4 4 →
      gives i s (({ s with rope := { s.rope with badFormat := s.rope.badFormat + 1 } }).raise rRopeEvents (2 ^ 5))) ∧
    (f.length = 40 + fieldAt f 4 4 → fieldAt f 0 2 = 0x9E17 → fieldAt f 2 1 = typ → fieldAt f 4 4 ≤ 16384 →
      (s.rope.rxKey = none → gives i s s) ∧
      (∀ k, s.rope.rxKey = some k → frameOk k f = false → s.rope.rxNext = none →
        gives i s (({ s with rope := { s.rope with badAuth := s.rope.badAuth + 1 } }).raise rRopeEvents (2 ^ 4))) ∧
      (∀ k, s.rope.rxKey = some k → frameOk k f = true → fieldAt f 8 8 ≠ s.rope.rxCount + 1 → gives i s s) ∧
      (∀ k, s.rope.rxKey = some k → frameOk k f = true → fieldAt f 8 8 = s.rope.rxCount + 1 →
        ∃ u, s.recvRope typ f = (some (gcmCrypt k.key (leBytes 4 k.session ++ leBytes 8 (s.rope.rxCount + 1)) ((f.drop 24).take (fieldAt f 4 4))), u) ∧
          u.rope.rxCount = s.rope.rxCount + 1 ∧
          (s.rope.putOff = [] → fieldAt f 0x10 8 ≤ s.rope.txCount → u.rope.unacked = s.rope.unacked.filter (fun p => decide (fieldAt f 0x10 8 < p.1))) ∧
          (s.rope.putOff = [] → s.rope.txCount < fieldAt f 0x10 8 → u.rope.unacked = s.rope.unacked)))) ∧
  (∀ (s : State) (k : RopeKey) (typ : Nat) (d : Bytes), s.rope.txKey = some k → s.rope.putOff ≠ [] ∨ s.ropeRoom d = false →
    s.sendRope typ false d = { s with rope := { s.rope with putOff := s.rope.putOff ++ [(typ, d)] } }) ∧
  (∀ (s u : State) (f d : Bytes), s.recvRope 1 f = (some d, u) → ∃ t, gives (.heartbeat f) s t ∧
    t.rope.peerHb = fieldAt d 0 8 ∧ t.rope.master = (if u.rope.peerHb = 0 then u.masterBy (fieldAt d 0x18 1) else u.rope.master) ∧ t.rope.missed = 0 ∧ t.rope.suspect = false ∧ t.rope.peerMode = fieldAt d 0x18 1 ∧
    t.rope.peerOwned = fieldAt d 0x1A 2 ∧ t.rope.peerShadowed = fieldAt d 0x1C 2 ∧
    (∀ at', u.rope.hbSent.find? (fun p => decide (p.1 = fieldAt d 8 8)) = some (fieldAt d 8 8, at') → u.rope.leaseTo.toNat < (at' + 1000).toNat →
      t.rope.leaseTo = at' + 1000) ∧
    (u.rope.hbSent.find? (fun p => decide (p.1 = fieldAt d 8 8)) = none → t.rope.leaseTo = u.rope.leaseTo)) ∧
  (∀ (s : State) (m : Nat), (s.pwr.mode ∈ [5, 6, 7] → ¬ m ∈ [5, 6, 7] → s.masterBy m = true) ∧ (¬ s.pwr.mode ∈ [5, 6, 7] → m ∈ [5, 6, 7] → s.masterBy m = false) ∧
    (¬ s.pwr.mode ∈ [5, 6, 7] → ¬ m ∈ [5, 6, 7] → s.masterBy m = decide (s.headId = 0))) ∧
  (∀ (s : State) (k : RopeKey), s.rope.txKey = some k → ∃ t, gives .heartbeatSend s t ∧ t.rope.hbNo = s.rope.hbNo + 1 ∧
    t.rope.hbSent = s.rope.hbSent ++ [(s.rope.hbNo + 1, s.time)] ∧ t.rope.hbSentCnt = s.rope.hbSentCnt + 1 ∧ t.rope.txCount = s.rope.txCount + 1 ∧
    ∃ frame, t.out = s.out ++ [.rope frame] ∧ t.rope.unacked = s.rope.unacked ++ [(s.rope.txCount + 1, frame)] ∧ frame.take 4 = [0x17, 0x9E, 1, 1]) ∧
  (∀ (s : State), s.rope.txKey = none → gives .heartbeatSend s s) ∧
  (∀ (s u : State), u = { s with rope := { s.rope with
      missed := s.rope.missed + 1, hbMissed := s.rope.hbMissed + 1, suspect := s.rope.suspect || decide (3 ≤ s.rope.missed) } } →
    gives .missedHeartbeat s (if s.rope.missed = 3 then u.raise rRopeEvents (2 ^ 3) else u)) ∧
  (∀ (s : State), s.rope.lease = s.ropeLease → s.crn.lease = s.cairnLease →
    ((s.ropeLease || s.cairnLease) = true → gives .leaseExpiry s s) ∧
    (s.ropeLease = false → s.cairnLease = false → s.pwr.mode ∈ [4, 5, 6, 7] → 100000 ≤ (s.time - s.pair.faultAt).toNat →
      gives .leaseExpiry s (s.yieldHead 8))) ∧
  (∀ (s : State), s.rope.lease = true → s.crn.lease = false → s.ropeLease = false → s.cairnLease = false →
    ∃ t, gives .leaseExpiry s t ∧ t.rope = { s.rope with lease := false } ∧ t.pair = { s.pair with faultAt := s.time } ∧
      (∀ q ∈ t.host.queues, q.2.heldSqhd.isSome = true)) ∧
  (∀ (s : State), (s.rope.unacked = [] ∨ (s.time - s.rope.ackAt).toNat < 400 → gives .ropeRetransmit s s) ∧
    (s.rope.unacked ≠ [] → 400 ≤ (s.time - s.rope.ackAt).toNat → ∃ t, gives .ropeRetransmit s t ∧
      t.out = s.out ++ s.rope.unacked.map (fun p => Out.rope p.2) ∧
      t.rope = { s.rope with ackAt := s.time, retrans := s.rope.retrans + BitVec.ofNat 64 s.rope.unacked.length })) ∧
  (∀ (s : State) (l : Nat), l < 16 →
    (bit s.rope.lanes l = false → gives (.laneDown l) s s) ∧ (bit s.rope.lanes l = true → gives (.laneUp l) s s) ∧
    (bit s.rope.lanes l = true → 8 ≤ popcount (s.rope.lanes - 2 ^ l) →
      gives (.laneDown l) s (({ s with rope := { s.rope with lanes := s.rope.lanes - 2 ^ l } }).raise rRopeEvents 1)) ∧
    (bit s.rope.lanes l = true → popcount (s.rope.lanes - 2 ^ l) < 8 → s.rope.lanes - 2 ^ l ≠ 0 → s.rope.degraded = false →
      gives (.laneDown l) s (({ s with rope := { s.rope with lanes := s.rope.lanes - 2 ^ l, goodSince := none } }).raise rRopeEvents 1).degrade) ∧
    (bit s.rope.lanes l = false → s.regBit 0xC0008 (16 + l) = true → gives (.laneUp l) s s) ∧
    (bit s.rope.lanes l = false → s.regBit 0xC0008 (16 + l) = false → ∃ t, gives (.laneUp l) s t ∧
      t.rope = { s.rope with lanes := s.rope.lanes + 2 ^ l, goodSince := t.rope.goodSince } ∧
      (popcount (s.rope.lanes + 2 ^ l) < 8 ∨ s.rope.goodSince ≠ none → t.rope.goodSince = s.rope.goodSince) ∧
      (8 ≤ popcount (s.rope.lanes + 2 ^ l) → s.rope.goodSince = none → t.rope.goodSince = some s.time))) ∧
  (∀ (s : State), (s.rope.degraded = false ∨ popcount s.rope.lanes < 8 → gives .ropeUndegrade s s) ∧
    (∀ since, s.rope.goodSince = some since → s.rope.degraded = true → 8 ≤ popcount s.rope.lanes →
      ((s.time - since).toNat < 100000000 → gives .ropeUndegrade s s) ∧
      (100000000 ≤ (s.time - since).toNat →
        gives .ropeUndegrade s (({ s with rope := { s.rope with degraded := false } }).raise rRopeEvents (2 ^ 2)).anaChange))) ∧
  (∀ (s : State), (s.rope.txCount < 2 ^ 40 → s.rope.rxCount < 2 ^ 40 → (s.time - s.rope.sessionAt).toNat < 8640000000000 → gives .sessionRekey s s) ∧
    (∀ k tx rx, s.rope.txKey = some k → s.sessionKeys (s.rope.linkRekeys + 1) = some (tx, rx) →
      2 ^ 40 ≤ s.rope.txCount ∨ 2 ^ 40 ≤ s.rope.rxCount ∨ 8640000000000 ≤ (s.time - s.rope.sessionAt).toNat →
      (s.wdn.trngOk = false → gives .sessionRekey s (s.yieldHead 7)) ∧
      (s.wdn.trngOk = true → ∃ t, gives .sessionRekey s t ∧ t.rope.txKey = some tx ∧ t.rope.rxKey = s.rope.rxKey ∧ t.rope.rxNext = some rx ∧ t.rope.txCount = 0 ∧
        t.rope.unacked = [] ∧ t.rope.sessionAt = s.time ∧ t.rope.rekeys = s.rope.rekeys + 1 ∧ t.rope.linkRekeys = s.rope.linkRekeys + 1))) ∧
  (∀ (s u : State) (f d : Bytes) (k : RopeKey), s.recvRope 9 f = (some d, u) →
    (fieldAt d 0 1 ≠ 4 → gives (.rekey f) s s) ∧
    (fieldAt d 0 1 = 4 → u.rope.txKey = some k → (k.session = fieldAt d 8 8 → gives (.rekey f) s u) ∧
      (k.session ≠ fieldAt d 8 8 → gives (.rekey f) s u.rekeyTx))) ∧
  (∀ (s : State) (nonce check secret a b own : Bytes) (peerId : Nat),
    (s.wdn.trngOk = false → gives (.ropeLinkHandshake nonce check peerId) s s) ∧
    (s.wdn.trngOk = true → s.pairSecret = some secret → nonce.length = 32 → peerId ≠ s.headId →
    (a, b) = (if s.headId = 0 then (s.freeBytes 32, nonce) else (nonce, s.freeBytes 32)) → own = (hmac384 secret (a ++ b)).take 8 →
    (check ≠ own → ∃ t, gives (.ropeLinkHandshake nonce check peerId) s t ∧ t.rope.linkUp = true ∧ t.rope.txKey = none ∧ t.rope.rxKey = none) ∧
    (check = own → ∃ t tx rx, gives (.ropeLinkHandshake nonce check peerId) s t ∧ t.rope.linkUp = true ∧ t.rope.lanes = 0xFFFF - s.regBits 0xC0008 16 16 ∧
      t.sessionKeys 0 = some (tx, rx) ∧ t.rope.nonces = some (a, b) ∧ t.rope.txKey = some tx ∧ t.rope.rxKey = some rx ∧ t.rope.rxCount = 0 ∧
      t.rope.rekeys = s.rope.rekeys + 1))) ∧
  (∀ (s u : State) (f d : Bytes), s.recvRope 2 f = (some d, u) → (u.rope.master = false → gives (.timeReq f) s u) ∧
    (u.rope.master = true → gives (.timeReq f) s
      (u.sendRope 3 false (leBytes 8 (fieldAt d 0 8) ++ leBytes 8 (u.time.toNat * 16 + u.subTick % 16) ++ leBytes 8 (u.time.toNat * 16 + u.subTick % 16))))) ∧
  (∀ (s : State), (s.rope.master = true → gives .timeReqSend s s) ∧
    (s.rope.master = false → gives .timeReqSend s (s.sendRope 2 false (leBytes 8 (s.time.toNat * 16 + s.subTick % 16))))) ∧
  (∀ (s u : State) (f d : Bytes) (off ns : Int), s.recvRope 3 f = (some d, u) → ns = off * 5 / 8 →
    off = (((fieldAt d 8 8 : Int) - (fieldAt d 0 8 : Int)) - ((u.stampT : Int) - (fieldAt d 16 8 : Int))) / 2 →
    (u.pwr.mode ≠ 4 ∨ u.rope.timeSynced = true → ∃ t, gives (.timeResp f) s t ∧ t.time = u.time ∧ t.rope.offset = BitVec.ofInt 32 ns ∧
      t.rope.exchangeAt = u.time ∧ t.rope.timeSynced = decide (-100 ≤ ns ∧ ns ≤ 100) ∧
      (0 ≤ off → t.rope.slew.toNat ≤ 51200) ∧ (off < 0 → (-t.rope.slew).toNat ≤ 51200)) ∧
    (u.pwr.mode = 4 → u.rope.timeSynced = false →
      (0 ≤ off → ∃ t, gives (.timeResp f) s t ∧ t.time = u.time + BitVec.ofNat 64 (off / 16).toNat ∧ t.rope.timeSynced = true ∧ t.rope.holdTime = false) ∧
      (off < 0 → -off / 16 ≤ 1000000 → ∃ t, gives (.timeResp f) s t ∧ t.time = u.time ∧ t.rope.holdTime = !decide (-100 ≤ ns)) ∧
      (1000000 < -off / 16 → ∃ t v, gives (.timeResp f) s t ∧ v = { u with rope := { u.rope with
          offset := BitVec.ofInt 32 ns, exchangeAt := u.time } } ∧ t = (v : State).book 0x20 0x047 []))) ∧
  (∀ (s : State), (s.rope.timeSynced = true → s.rope.master = false → 1000000 ≤ (s.time - s.rope.exchangeAt).toNat →
      gives .timeUnsync s (({ s with rope := { s.rope with timeSynced := false } }).raise rRopeEvents (2 ^ 6))) ∧
    (s.rope.timeSynced = false ∨ s.rope.master = true ∨ (s.time - s.rope.exchangeAt).toNat < 1000000 → gives .timeUnsync s s))

/-- R309, R322, R324, R331 and R338 to R341, with R95 and R229 for the jobs. What the spec leaves open in them is as log entries
50, 53, 56 and 85 say (the model's reading or choice). -/
def Obligations.TheShadowFollowsTheOwner : Prop :=
  (∀ (s u : State) (p ref n : Nat) (f b : Bytes) (es : List Bytes) (g : Group), p < 16 → ref < 2 ^ 64 → b.length < 2 ^ 32 → n = b.length → es = entriesOf b →
    s.recvRope 4 f = (some (journalItem p 0 n ref b), u) → (u.pool p).rel = .shadow → groupOk true es = true → wrapperOf g = none →
    g = { seq := fieldAt (es.getD 0 []) 8 8, entries := es } →
    gives (.journal f) s ((u.storeGroup p g ref).sendAck [(p, g.seq)]).pairMode ∧
    ((u.pool p).shadowDurable < g.seq → (∀ y ∈ (u.pool p).jbuf, y.seq ≠ g.seq) → (∀ y ∈ (u.pool p).waiting, y.seq ≠ g.seq) → cancelled [g] = [] →
      (g.body.any poolGone = true → Tbl.sorted u.pools = true → Tbl.find (u.storeGroup p g ref).pools p = none) ∧
      (g.body.any poolGone = false →
      ((u.storeGroup p g ref).pool p).jbuf = insSeq (u.pool p).jbuf g ∧
      ((u.storeGroup p g ref).pool p).waiting = (if g.origin = 0 then (u.pool p).waiting ++ [g] else (u.pool p).waiting) ∧
      (g.origin = 0 → ((u.storeGroup p g ref).pool p).lines = (u.pool p).lines ∧ ((u.storeGroup p g ref).pool p).nss = (u.pool p).nss) ∧
      (g.origin ≠ 0 → ((u.storeGroup p g ref).pool p).lines =
        (({ u.pool p with jbuf := insSeq (u.pool p).jbuf g, seq := max (u.pool p).seq (g.seq + 1) } : Pool).applyGroup g).lines))) ∧
    (g.seq ≤ (u.pool p).shadowDurable ∨ (∃ y ∈ (u.pool p).jbuf ++ (u.pool p).waiting, y.seq = g.seq) → u.storeGroup p g ref = u)) ∧
  (∀ (s u : State) (p seq : Nat) (f : Bytes), p < 16 → seq < 2 ^ 64 → s.recvRope 4 f = (some (journalItem p 1 0 seq []), u) →
    gives (.journal f) s (u.markLanded p seq).pairMode ∧
    (∀ g, (u.pool p).waiting.find? (fun g => decide (g.seq = seq)) = some g →
      u.markLanded p seq = u.updPool p (fun x => { (x.applyLate g) with waiting := x.waiting.filter (fun y => decide (y.seq ≠ seq)) })) ∧
    ((∀ g ∈ (u.pool p).waiting, g.seq ≠ seq) → u.markLanded p seq = u)) ∧
  (∀ (s u : State) (f d : Bytes) (p q : Nat) (a b : List Nat), s.recvRope 5 f = (some d, u) → d.length = 16 → p = fieldAt d 0 1 → q = fieldAt d 8 8 →
    (u.pool p).sentSeqs = a ++ q :: b → q ∉ a → Tbl.sorted u.pools = true → ∃ v, gives (.journalAck f) s ((v : State).ropeJobsDone p) ∧ v = u.updPool p (fun x => { x with
      sentSeqs := b, acked := max x.acked q, relays := if u.rope.degraded then x.relays else [] })) ∧
  (∀ (s u : State) (p kind : Nat) (f b : Bytes) (x : Pool), p < 16 → kind < 7 → b.length < 2 ^ 16 → x = u.pool p → Tbl.find u.pools p = some x →
    Tbl.sorted u.pools = true → s.recvRope 6 f = (some (leBytes 1 p ++ leBytes 1 kind ++ leBytes 2 b.length ++ b), u) →
    (x.rel ≠ .shadow → gives (.shadow f) s u) ∧
    (x.rel = .shadow →
      (kind = 0 → gives (.shadow f) s (u.setPool p { x with shadowLop := Tbl.set x.shadowLop (fieldAt b 0 1) (sliceAt b 8 32) })) ∧
      (kind = 1 → ∀ w, Tbl.find x.units (fieldAt b 0 4) = some w → Tbl.sorted x.units = true →
        gives (.shadow f) s (u.setPool p { x with units := Tbl.set x.units (fieldAt b 0 4) { w with next := max w.next (fieldAt b 4 4) } })) ∧
      (kind = 2 → ∀ g, Tbl.find x.segs (fieldAt b 0 4) = some g → Tbl.sorted x.segs = true →
        gives (.shadow f) s (u.setPool p { x with segs := Tbl.set x.segs (fieldAt b 0 4) { g with
          rows := max g.rows (16 * fieldAt b 8 8 / (max 1 g.k * 65536)) } })) ∧
      (kind = 3 ∨ kind = 6 → gives (.shadow f) s (u.setPool p { x with shadowQ := x.shadowQ ++ [BitVec.ofNat 8 kind :: b] })) ∧
      (kind = 4 → gives (.shadow f) s (u.setPool p { x with shadowQ := x.shadowQ.filter (fun e => decide ((e.drop 1).take 6 ≠ b.take 6)) })) ∧
      (kind = 5 → gives (.shadow f) s (u.setPool p { x with
        shadowDurable := max x.shadowDurable (fieldAt b 0 8), jbuf := x.jbuf.filter (fun g => decide (fieldAt b 0 8 < g.seq)) })))) ∧
  (∀ (s u : State) (f d : Bytes) (cap : Capsule) (n p : Nat) (ns : Ns) (c : HCmd), s.recvRope 7 f = (some d, u) → n = Tbl.next u.host.cmds →
    c = { HCmd.mk0 (2 ^ 20) cap (match Tbl.find u.allNs cap.nsid with | some (_, m) => m.snap | none => none) with
      fwd := some (fieldAt d 0 8), data := d.drop 72, phase := .taken, since := u.time } →
    (Tbl.find u.allNs cap.nsid = none → gives (.forward f cap) s ((u.setCmd n c).complete n (ofNvme 0 0x0B true) 0 0)) ∧
    (Tbl.find u.allNs cap.nsid = some (p, ns) →
      (u.owns p = false ∨ ns.deleting = true → gives (.forward f cap) s ((u.setCmd n c).complete n stTransition 0 0)) ∧
      (u.owns p = true → ns.deleting = false →
        (∀ st, capStatus { cap with inline := none } ns (u.pool p).fill = some st → gives (.forward f cap) s ((u.setCmd n c).complete n st 0 0)) ∧
        (capStatus { cap with inline := none } ns (u.pool p).fill = none → ∃ t k, gives (.forward f cap) s t ∧
          t.host.locks = ((u.setCmd n c).enterLocks (locksOf n cap true)).host.locks ∧
          t.hcmd n = some { c with climb := k, phase := if t.allGranted n then .running else .taken })))) ∧
  (∀ (s u : State) (f d : Bytes) (n fl : Nat) (c : HCmd), s.recvRope 8 f = (some d, u) → n = fieldAt d 0 8 → fl = fieldAt d 0x16 2 / 2 →
    (u.hcmd n = none → gives (.forwardDone f) s u) ∧
    (u.hcmd n = some c → (c.phase ≠ .forwarded → gives (.forwardDone f) s u) ∧
      (c.phase = .forwarded → gives (.forwardDone f) s ((u.setCmd n { c with rdata := d.drop 24 }).finishCmd n
        (ofNvme (bits fl 8 3) (bits fl 0 8) (bit fl 14)) (fieldAt d 8 4) (fieldAt d 12 4))))) ∧
  (∀ (s u : State) (f d : Bytes) (pools arg : Nat), s.recvRope 9 f = (some d, u) → pools = fieldAt d 1 2 → arg = fieldAt d 8 8 →
    (fieldAt d 0 1 ≠ 0 → gives (.join f) s s) ∧ (fieldAt d 0 1 ≠ 1 → gives (.caughtUp f) s s) ∧
    (fieldAt d 0 1 ≠ 2 → gives (.ropeRelease f) s s) ∧ (fieldAt d 0 1 ≠ 3 → gives (.taken f) s s) ∧
    (fieldAt d 0 1 = 0 → majorOf u.fwVersion + 1 < majorOf arg ∨ majorOf arg + 1 < majorOf u.fwVersion →
      ((u.time - u.rope.sessionAt).toNat < 1000000000 → gives (.join f) s u) ∧
      (1000000000 ≤ (u.time - u.rope.sessionAt).toNat → gives (.join f) s (u.book 0x20 0x049 []))) ∧
    (fieldAt d 0 1 = 0 → majorOf arg ≤ majorOf u.fwVersion + 1 → majorOf u.fwVersion ≤ majorOf arg + 1 →
      ∃ t, gives (.join f) s t ∧ t.pair.joining = true ∧ t.pair.solo = false) ∧
    (fieldAt d 0 1 = 1 → ∃ t, gives (.caughtUp f) s t ∧ t.pair.peerCaught = s.pair.peerCaught ||| (pools &&& s.ownedMask) ∧ t.pair.solo = false ∧
      t.pair.joining = (s.pair.joining && !decide (s.ownedMask &&& (s.pair.peerCaught ||| (pools &&& s.ownedMask)) = s.ownedMask))) ∧
    (fieldAt d 0 1 = 2 → pools &&& u.shadowMask = 0 → gives (.ropeRelease f) s u) ∧
    (fieldAt d 0 1 = 2 → pools &&& u.shadowMask ≠ 0 → ∃ t, gives (.ropeRelease f) s t ∧ t.pwr.mode = 7 ∧
      (∀ p < 16, bit (pools &&& u.shadowMask) p = true → Tbl.find t.pair.moves p = some 1)) ∧
    (fieldAt d 0 1 = 3 → (∀ p < 16, bit pools p = true → Tbl.find u.pair.moves p ≠ some 2) → gives (.taken f) s u) ∧
    (∀ p x, fieldAt d 0 1 = 3 → p < 16 → pools = 2 ^ p → Tbl.find u.pair.moves p = some 2 → Tbl.find u.pools p = some x → Tbl.sorted u.pools = true →
      Tbl.sorted u.pair.moves = true → ∃ t, gives (.taken f) s t ∧ (t.pool p).rel = .shadow ∧ (t.pool p).moveTo = none ∧ (t.pool p).shadowDurable = x.durable ∧
        Tbl.find t.pair.moves p = none ∧ t.pair.caughtUp = u.pair.caughtUp ||| 2 ^ p ∧ t.pair.holdPools = u.pair.holdPools &&& (0xFFFF - 2 ^ p) ∧
        (∀ m ∈ x.mods, (t.modu m).held = false ∧ (t.modu m).foreign = true) ∧ (∀ m, ¬ m ∈ x.mods → t.modu m = s.modu m))) ∧
  (∀ (s u : State) (f d : Bytes), s.recvRope 10 f = (some d, u) → ∃ v, gives (.ropeYield f) s ((v : State).goSolo.takeover 0) ∧
    v = u.pair.moves.foldl (fun w q => w.moveOff q.1) (u.raise rRopeEvents (2 ^ 7))) ∧
  (∀ (s t : State) (p : Nat), t = s.moveOff p → Tbl.sorted s.pair.moves = true → t.pair.moves = Tbl.del s.pair.moves p ∧ Tbl.find t.pair.moves p = none ∧
    t.pair.holdPools = s.pair.holdPools &&& (0xFFFF - 2 ^ p) ∧ (t.pool p).moveTo = none ∧ (t.pool p).rel = (s.pool p).rel) ∧
  (∀ (s : State) (p : Nat), (s.owns p = false ∨ s.rope.degraded = false ∨ s.streams p = false ∨ (s.pool p).relays ≠ [] ∨ (s.relayMods p).length < 2 →
      gives (.dualSend p) s s) ∧
    (∀ a b x, s.owns p = true → s.rope.degraded = true → s.streams p = true → x = s.pool p → x.relays = [] → s.relayMods p = [a, b] →
      (Tbl.find x.logs a).any (fun l => l.spare.isSome) = true → (Tbl.find x.logs b).any (fun l => l.spare.isSome) = true →
      gives (.dualSend p) s ((s.updPool p (fun y => { y with relays := [a, b] })).addSvcs
        ((x.jbuf.filter (fun g => decide (g.seq ∈ x.sentSeqs))).flatMap (fun g => [Svc.relay p a g, Svc.relay p b g]))))) ∧
  (∀ (s : State) (p : Nat), ((s.pool p).rel ≠ .shadow ∨ s.rope.degraded = false → gives (.relayRead p) s s) ∧
    (∀ a l g, (s.pool p).rel = .shadow → s.rope.degraded = true → (s.pool p).logs = [(a, l)] → l.spare = none → s.modUp (saMod l.cur) = true →
      s.logGroups l.cur = [g] →
      ((s.pool p).shadowDurable < g.seq → (∀ y ∈ (s.pool p).jbuf ++ (s.pool p).waiting, y.seq ≠ g.seq) →
        gives (.relayRead p) s ((s.storeGroup p g 0).sendAck [(p, g.seq)])) ∧
      (g.seq ≤ (s.pool p).shadowDurable ∨ (∃ y ∈ (s.pool p).jbuf ++ (s.pool p).waiting, y.seq = g.seq) → gives (.relayRead p) s s))) ∧
  (∀ (s : State), (s.rope.degraded = false ∨ (s.time - s.rope.degradedAt).toNat < 5000000 → gives .forwardDegradeTimeout s s) ∧
    (∀ n c, s.rope.degraded = true → 5000000 ≤ (s.time - s.rope.degradedAt).toNat → s.host.cmds = [(n, c)] →
      gives .forwardDegradeTimeout s (if c.phase = .forwarded then s.finishCmd n stTransition 0 0 else s))) ∧
  (∀ (s : State) (n p : Nat) (j : Job) (es : List Bytes), s.startable n 0x0A (fun op => op == 0) = some j → p = fieldAt j.desc 2 1 →
    es = entriesOf (s.hBytes j.ridge (jh j 0)) →
    (j.desc.length = 40 → gives (.ropeJournalRecords n) s (s.ropeJobsDone p)) ∧
    (j.desc.length ≠ 40 → 16 ≤ p ∨ s.owns p = false ∨ hLen (jh j 0) % 32 ≠ 0 ∨ groupOk false es = false →
      gives (.ropeJournalRecords n) s (s.finish n j 1 0)) ∧
    (j.desc.length ≠ 40 → p < 16 → s.owns p = true → hLen (jh j 0) % 32 = 0 → groupOk false es = true →
      ∃ u v g, (u, g) = s.acceptGroup p (fieldAt (es.getD 0 []) 0x1A 1) (es.drop 1) none (s.originRef 0) ∧
        v = { (u : State).hWrite j.ridge (jh j 0) 0 (g : Group).bytes with jobs := Tbl.set u.jobs n { j with desc := padTo 32 j.desc ++ leBytes 8 g.seq } } ∧
        g.seq = (s.pool p).seq ∧ gives (.ropeJournalRecords n) s (if (v : State).hasShadow p then v else v.ropeJobsDone p))) ∧
  (∀ (s : State) (n p : Nat) (j : Job), s.startable n 0x0A (fun op => op == 1) = some j → p = fieldAt j.desc 2 1 →
    (16 ≤ p ∨ s.owns p = false → gives (.ropeShadowState n) s (s.finish n j 1 0)) ∧
    (∀ u : State, p < 16 → s.owns p = true → (s.streams p = false → u = s) → (s.streams p = true → u = s.sendRope 6 false (s.hBytes j.ridge (jh j 0))) →
      gives (.ropeShadowState n) s ((List.range 16).foldl (fun t q => t.ropeJobsDone q) (u.finish n j 0 0))))

/-- R318 and R325 to R334, R341 to R343. What the spec leaves open in them is as log entries 45 and 56 say (the model's reading
or choice). -/
def Obligations.TheCairnDecidesOwnership : Prop :=
  (∀ (s : State) (i : Instr) (typ : Nat) (m k : Bytes), (i, typ) ∈ [(.cairnHealth m, 4), (.voteGrant m, 2)] →
    (m.length < 32 ∨ m.length ≠ 32 + fieldAt m 2 2 → gives i s (s.raise rCrnEvents (2 ^ 5))) ∧
    (32 ≤ m.length → m.length = 32 + fieldAt m 2 2 →
      (fieldAt m (28 + fieldAt m 2 2) 4 ≠ crc32c (m.take (28 + fieldAt m 2 2)) → gives i s (s.raise rCrnEvents (2 ^ 4))) ∧
      (fieldAt m (28 + fieldAt m 2 2) 4 = crc32c (m.take (28 + fieldAt m 2 2)) →
        (s.areaKey 4 0 = none → gives i s s) ∧
        (s.areaKey 4 0 = some k → (hmac256 k (m.take (12 + fieldAt m 2 2))).take 16 ≠ sliceAt m (12 + fieldAt m 2 2) 16 →
          gives i s (s.raise rCrnEvents (2 ^ 3))) ∧
        (s.areaKey 4 0 = some k → (hmac256 k (m.take (12 + fieldAt m 2 2))).take 16 = sliceAt m (12 + fieldAt m 2 2) 16 →
          fieldAt m 0 1 = typ → fieldAt m 1 1 = 0x0F → fieldAt m 4 8 / 2 ^ 48 = s.crn.inc → s.crn.inc ≠ 0 → s.crn.seen < fieldAt m 4 8 % 2 ^ 48 →
          ∃ u, s.recvCairn typ m = (some ((m.drop 12).take (fieldAt m 2 2), fieldAt m 4 8), u) ∧ u.crn.seen = fieldAt m 4 8 % 2 ^ 48 ∧
            u.crn.msgAccepted = s.crn.msgAccepted + 1 ∧ u.crn.linkUp = true) ∧
        (s.areaKey 4 0 = some k → (hmac256 k (m.take (12 + fieldAt m 2 2))).take 16 = sliceAt m (12 + fieldAt m 2 2) 16 →
          fieldAt m 0 1 = typ → fieldAt m 1 1 = 0x0F → fieldAt m 4 8 / 2 ^ 48 = s.crn.inc → s.crn.inc ≠ 0 → fieldAt m 4 8 % 2 ^ 48 ≤ s.crn.seen →
          gives i s ({ s with crn := { s.crn with echo := if typ = 4 then fieldAt m 4 8 else s.crn.echo } }.raise rCrnEvents (2 ^ 7)))))) ∧
  (∀ (s u : State) (m d : Bytes) (q : Nat), s.recvCairn 4 m = (some (d, q), u) → ∃ t, gives (.cairnHealth m) s t ∧
    t.crn.peerAlive = bit (fieldAt d 1 1) 0 ∧ t.crn.owned = fieldAt d 2 2 ∧ t.crn.term = maxTerm u.crn.term (fieldAt d 16 8) ∧
    (∀ since, u.crn.sent.find? (fun p => decide (p.1 = fieldAt d 8 8)) = some (fieldAt d 8 8, since) → u.crn.leaseTo.toNat < (since + 1200).toNat →
      t.crn.leaseTo = since + 1200)) ∧
  (∀ (s : State), (s.areaKey 4 0).isSome = true → s.pwr.mode ≠ 0 → s.pwr.mode ≠ 2 → ∃ t m, gives .cairnHealthSend s t ∧ t.crn.ownInc ≠ 0 ∧
    (s.crn.ownInc ≠ 0 → t.crn.ownInc = s.crn.ownInc) ∧ t.crn.count = s.crn.count + 1 ∧ t.crn.msgSent = s.crn.msgSent + 1 ∧
    t.out = s.out ++ [.cairn m] ∧ ((s.crn.count + 1) % 2 ^ 48 + t.crn.ownInc * 2 ^ 48, s.time) ∈ t.crn.sent) ∧
  (∀ (s : State), gives .cairnLinkLost s (({ s with crn := { s.crn with linkUp := false } }).raise rCrnEvents (2 ^ 6))) ∧
  (∀ (s u w : State) (m d : Bytes) (q granted : Nat) (v : Vote) (fl : List Nat), s.recvCairn 2 m = (some (d, q), u) →
    w = { u with crn := { u.crn with term := maxTerm u.crn.term (fieldAt d 0 8) } } → granted = fieldAt d 10 2 →
    fl = ((List.range 16).flatMap (fun p => if bit granted p then (u.pool p).mods else [])).eraseDups →
    ((∀ v ∈ u.crn.votes, v.mseq ≠ fieldAt d 16 8) ∨ fieldAt d 8 1 ≠ s.headId → gives (.voteGrant m) s w) ∧
    (u.crn.votes.find? (fun v => decide (v.mseq = fieldAt d 16 8)) = some v → fieldAt d 8 1 = s.headId →
      (fieldAt d 9 1 = 0 → granted ≠ 0 → ∃ t, gives (.voteGrant m) s t ∧
        t.crn.votes = u.crn.votes.filter (fun w => decide (w.mseq ≠ v.mseq)) ∧ t.crn.retry = none ∧ (v.reason ≤ 1 → t.pair.solo = true) ∧
        t.pair.fence = some { pools := granted, term := BitVec.ofNat 64 (fieldAt d 0 8), reason := v.reason, fenced := 0, missing := 0, since := u.time, left := fl }) ∧
      (fieldAt d 9 1 ≠ 0 ∨ granted = 0 → ∃ t, gives (.voteGrant m) s t ∧
        t.crn.votes = u.crn.votes.filter (fun w => decide (w.mseq ≠ v.mseq)) ∧ t.pair.fence = u.pair.fence ∧
        t.crn.retry = (if fieldAt d 9 1 = 1 ∧ v.reason ≤ 1 then some (v, u.time) else none)))) ∧
  (∀ (s u : State) (v : Vote) (since : W64), u = { s with crn := { s.crn with retry := none } } → (s.crn.retry = none → gives .voteRetry s s) ∧
    (s.crn.retry = some (v, since) → ((s.time - since).toNat < 10000 → gives .voteRetry s s) ∧
      (10000 ≤ (s.time - since).toNat →
        (v.reason = 1 → gives .voteRetry s (if s.rope.suspect then u.takeover 1 else u)) ∧
        (v.reason = 0 → gives .voteRetry s (if s.pwr.peerYieldN = true ∧ s.pair.solo = false then u else u.takeover 0))))) ∧
  (∀ (s : State), (∀ c, ¬ (1 ≤ c ∧ c ≤ 8) → gives (.yieldSequencer c) s s) ∧ (∀ c, 1 ≤ c → c ≤ 8 → gives (.yieldSequencer c) s (s.yieldHead c)) ∧
    (∀ c, s.pair.yielded = true → s.yieldHead c = s) ∧
    (∀ c, s.pair.yielded = false → s.pwr.mode ∈ [4, 5, 6, 7, 9, 10] → ∃ t, t = s.yieldHead c ∧ t.pair.yielded = true ∧ t.pair.yieldCause = c ∧
      t.pair.holdAll = true ∧ t.pwr.yieldN = false ∧ t.pwr.mode = 8 ∧ (∀ q ∈ t.host.queues, q.2.heldSqhd.isSome = true)) ∧
    gives .peerYieldIn s (({ s with pwr := { s.pwr with peerYieldN := false } }).takeover 0) ∧
    gives .peerSuspect s (if s.rope.suspect then s.takeover 1 else s) ∧
    (∀ r, ¬ s.pwr.mode ∈ [5, 6, 7] ∨ s.peerPools = 0 ∨ s.pair.fence.isSome = true → s.takeover r = s) ∧
    (∀ r, s.pwr.mode ∈ [5, 6, 7] → s.peerPools ≠ 0 → s.pair.fence = none → s.crn.votes = [] → (s.areaKey 4 0).isSome = true →
      ∃ t m, t = s.takeover r ∧ t.pwr.mode = 7 ∧ t.pair.holdPools = s.pair.holdPools ||| s.peerPools ∧ t.out = s.out ++ [.cairn m] ∧
        t.crn.votes = [{ mseq := s.nextMseq, pools := s.peerPools, reason := r }])) ∧
  (∀ (s : State) (core : Nat) (v : W64), (s.gate (0x20 + core % 4) 0xB0020 8 true = .open →
      gives (.crnYield core v) s (if v.getLsbD 0 then (s.setReg 0xB0020 1).yieldHead 7 else s)) ∧
    (∀ t, s.gate (0x20 + core % 4) 0xB0020 8 true = .shut t ∨ s.gate (0x20 + core % 4) 0xB0020 8 true = .error t ∨
      s.gate (0x20 + core % 4) 0xB0020 8 true = .viol t → gives (.crnYield core v) s t)) ∧
  (∀ (s : State) (done : List Nat), (s.pair.fence = none → gives (.fenceDone done) s s ∧ gives (.fencingBound done) s s) ∧
    (∀ f u g, s.pair.fence = some f → (u, g) = s.preempted f done →
      g = { f with left := f.left.filter (fun m => !decide (m ∈ done)), fenced := f.fenced + (f.left.filter (fun m => decide (m ∈ done))).length } ∧
      (∀ m, (u : State).modu m = if m ∈ f.left ∧ m ∈ done then { s.modu m with
        held := true, foreign := false, registered := true, regKey := s.resvKey } else s.modu m) ∧
      (g.left = [] → f.pools ≠ 0 → gives (.fenceDone done) s (u.adopt g)) ∧
      (g.left ≠ [] → gives (.fenceDone done) s { u with pair := { u.pair with fence := some g } }) ∧
      (f.pools ≠ 0 → (s.time - f.since).toNat < 1600 → gives (.fencingBound done) s s) ∧
      (f.pools = 0 → (s.time - f.since).toNat < 100000 → gives (.fencingBound done) s s) ∧
      (f.pools ≠ 0 → 1600 ≤ (s.time - f.since).toNat → ∃ v, gives (.fencingBound done) s (((v : State).adopt { g with missing := g.left.length }).fenceAbsent f.pools g.left) ∧
        ∀ m, v.modu m = if m ∈ g.left then { u.modu m with lost := true, lostAt := s.time } else u.modu m) ∧
      (f.pools = 0 → 100000 ≤ (s.time - f.since).toNat → ∃ t, gives (.fencingBound done) s t ∧
        t.pair.fence = (if g.left = [] then none else some { g with since := s.time }) ∧
        ∀ m, t.modu m = if m ∈ f.left ∧ m ∈ done then { u.modu m with lost := false } else u.modu m))) ∧
  (∀ (s : State) (p : Nat) (f : Fence), p < 16 → f.pools = 2 ^ p → f.reason = 2 → Tbl.sorted s.pools = true →
    ∃ t, t = s.adopt f ∧ (t.pool p).rel = .owner ∧ (t.pool p).epoch = (s.pool p).epoch + 1 ∧ (t.pool p).seq = (s.pool p).seq - 1 + 2 ^ 20 ∧
      (t.pool p).recovering = true ∧ (∀ q, q ≠ p → t.pool q = s.pool q)) ∧
  (∀ (s : State) (p seq : Nat) (g : Group), ((s.pool p).checks.find? (fun g => decide (g.seq = seq)) = none ∨ s.owns p = false → gives (.tagCheck p seq) s s) ∧
    ((s.pool p).checks.find? (fun g => decide (g.seq = seq)) = some g → s.owns p = true → bit (Tbl.getD (s.pool p).refs seq 0) 63 = false → Tbl.sorted s.pools = true →
      ∃ t, gives (.tagCheck p seq) s t ∧ (∀ y ∈ (t.pool p).waiting, y.seq ≠ seq) ∧ (∀ y ∈ (t.pool p).checks, y.seq ≠ seq) ∧
        t.host.locks = s.host.locks.filter (fun l => decide (l.doubt ≠ some (p, seq))) ∧
        (s.groupLanded (s.pool p) g = true → (∀ y ∈ (s.pool p).jbuf, seq ∉ cancelled [y]) → (s.pool p).waiting.find? (fun g => decide (g.seq = seq)) = some g →
          (t.pool p).lines = ((s.pool p).applyLate g).lines) ∧
        (s.groupLanded (s.pool p) g = false → (s.pool p).waiting.find? (fun g => decide (g.seq = seq)) = some g →
          (t.pool p).lines = (s.pool p).lines ∧ (t.pool p).recs = ((s.pool p).reverseEarly g).recs))) ∧
  (∀ (s : State), (s.pwr.mode ≠ 3 ∨ s.wdn.routeLen = 0 ∨ s.pair.headIdClash = true ∨ s.crn.votes ≠ [] ∨ s.pair.fence ≠ none → gives .startupClaim s s) ∧
    (s.pwr.mode = 3 → s.wdn.routeLen ≠ 0 → s.pair.headIdClash = false → s.crn.votes = [] → s.pair.fence = none →
      (∀ p sb u, p < 16 → (∀ q, s.newestAnchor q = if q = p then some sb else none) → bit (fieldAt sb 4 4) 0 = false → (s.pool p).rel = .none →
        fieldAt sb 0x28 1 = s.headId → u = s.setPool p { Tbl.getD s.ckpts (2 ^ 64 * p + fieldAt sb 0x88 8) (s.pool p) with
          rel := .none, epoch := fieldAt sb 0x2C 4, poolId := sliceAt sb 8 16 } →
        gives .startupClaim s (u.voteRequest (2 ^ p) 2 (u.epochsOf (2 ^ p)))) ∧
      ((∀ q, s.newestAnchor q = none) → s.pools = [] → ¬ s.rope.peerMode ∈ [4, 5, 6, 7] → gives .startupClaim s (s.setMode 9)))) ∧
  (∀ (s u : State) (call p dst : Nat) (c : Call), s.libCall call 60 = some c → p = callPool c.entry → dst = callArg c.entry 0 →
    u = { s with freeCtr := s.freeCtr + 1 } →
    (∀ b, Tbl.find s.pair.moves p = none → 16 ≤ p ∨ 1 < dst ∨ dst = s.headId ∨ s.owns p = false →
      ∃ x, gives (.poolMove call b) s (u.libExit call 0x50 x)) ∧
    (∀ b, Tbl.find s.pair.moves p = none → p < 16 → dst ≤ 1 → dst ≠ s.headId → s.owns p = true →
      (s.hasShadow p = false ∨ s.rope.degraded = true → ∃ x, gives (.poolMove call b) s (u.libExit call 0x51 x)) ∧
      (s.hasShadow p = true → s.rope.degraded = false → ∃ t, gives (.poolMove call b) s t ∧ t = s.moveBegin p dst ∧
        t.pwr.mode = 7 ∧ Tbl.find t.pair.moves p = some 0 ∧ t.pair.holdPools = s.pair.holdPools ||| 2 ^ p)) ∧
    (∀ b, Tbl.find s.pair.moves p = some 0 →
      (s.cutBusy p = true → gives (.poolMove call b) s s) ∧
      (s.cutBusy p = false → (∀ q ∈ s.svc, ¬ svcMod q.2 ∈ (s.pool p).mods) →
        (∀ q g, (s.pool p).segs = [(q, g)] → g.state = 0 → gives (.poolMove call b) s (s.closeShort p q)) ∧
        ((∀ q ∈ (s.pool p).segs, q.2.state ≠ 0) → ∃ v, gives (.poolMove call b) s ((v : State).sendControl 2 (2 ^ p) dst) ∧
          v = { s with pair := { s.pair with moves := Tbl.set s.pair.moves p 2 } }))) ∧
    (∀ k, Tbl.find s.pair.moves p = some (k + 1) → gives (.poolMove call false) s s ∧
      ∃ x v, v = { s.moveDenied p with freeCtr := (s.moveDenied p).freeCtr + 1 } ∧ gives (.poolMove call true) s ((v : State).libExit call 0x52 x))) ∧
  (∀ (s : State) (call n : Nat) (c : Call) (r : Bytes), s.libCall call 61 = some c → n = min 1 (callPlen c.entry / 64) →
    r = leBytes 1 s.headId ++ leBytes 1 s.pwr.mode ++ leBytes 1 s.rope.peerMode ++ leBytes 1 (popcount s.rope.lanes)
      ++ leBytes 2 (b2n s.rope.degraded + 2 * b2n (s.pools.any (fun q => !q.2.relays.isEmpty)) + 4 * b2n s.ropeLease + 8 * b2n s.cairnLease + 16 * b2n s.rope.timeSynced)
      ++ leBytes 2 s.ownedMask ++ leBytes 8 s.crn.term.toNat ++ leBytes 2 s.shadowMask ++ leBytes 2 s.rope.peerOwned
      ++ leBytes 4 s.rope.offset.toNat ++ leBytes 4 (sumBy (fun q => if q.2.rel = .shadow then q.2.waiting.length else 0) s.pools)
      ++ leBytes 4 s.pair.switches ++ leBytes 8 s.pair.lastSwitch.toNat ++ leBytes 4 s.pair.lastGap ++ zeros 20 →
    gives (.pairStatus call) s ((s.setParam c (([r].take n).flatMap id)).libExit call 0 n)) ∧
  (∀ (s u : State) (call : Nat) (c : Call), s.libCall call 62 = some c → u = { s with freeCtr := s.freeCtr + 1 } →
    ∃ x, gives (.yieldHead call) s ((u.libExit call 0 x).yieldHead 7))

/-- R344 to R353, R365, R367 and R368. What the spec leaves open in them is as log entries 38 and 48 say (the model's reading or
choice). -/
def Obligations.SnapshotsKeepThePast : Prop :=
  (∀ (s u : State) (call p : Nat) (c : Call) (x : Pool), s.libCall call 64 = some c → p = callPool c.entry → x = s.pool p → u = { s with freeCtr := s.freeCtr + 1 } →
    (s.owns p = false → ∃ r, gives (.snapCreate call) s (u.libExit call 0x23 r)) ∧
    (s.owns p = true → x.fill = 2 → ∃ r, gives (.snapCreate call) s (u.libExit call 0x31 r)) ∧
    (s.owns p = true → x.fill ≠ 2 → 65535 ≤ x.snaps.length → ∃ r, gives (.snapCreate call) s (u.libExit call 0x61 r)) ∧
    (∀ at', s.owns p = true → x.fill ≠ 2 → x.snaps.length < 65535 → x.snapAt = some at' → (s.time - at').toNat < 100000000 →
      ∃ r, gives (.snapCreate call) s (u.libExit call 0x62 r)) ∧
    (s.owns p = true → x.fill ≠ 2 → x.snaps.length < 65535 → (∀ at', x.snapAt = some at' → 100000000 ≤ (s.time - at').toNat) →
      (s.cutBusy p = true → gives (.snapCreate call) s (s.updPool p (fun y => { y with ckpt := { y.ckpt with cutting := true } }))) ∧
      (s.cutBusy p = false → x.dying = [] → Tbl.sorted s.pools = true → x.snapEpoch < 2 ^ 63 → ∃ v, gives (.snapCreate call) s ((v : State).libExit call 0 x.snapEpoch) ∧
        (v.pool p).snapEpoch = x.snapEpoch + 1 ∧ (v.pool p).snaps = x.snaps ++ [{ id := x.snapEpoch, time := s.time, repl := false, deleting := false }] ∧
        (v.pool p).snapAt = some s.time ∧ (v.pool p).ckpt.cutting = false ∧ (v.pool p).dir = x.dir ∧ (v.pool p).lines = x.lines ∧ (v.pool p).nss = x.nss ∧ (v.pool p).recs = x.recs))) ∧
  (∀ (s : State) (p mpn : Nat) (x : Pool) (d : DirE), x = s.pool p →
    (s.owns p = false → gives (.epochSweep p) s s) ∧
    (s.owns p = true → x.dir = [(mpn, d)] →
      (d.present = false ∨ bits mpn 40 4 ≠ 0 ∨ x.snapEpoch - x.fullEpoch d.epoch < 16384 → gives (.epochSweep p) s s) ∧
      (∀ n i, d.present = true → bits mpn 40 4 = 0 → 16384 ≤ x.snapEpoch - x.fullEpoch d.epoch → leafOwner x mpn = some (n, i) →
        gives (.epochSweep p) s (s.submit p 4 (keyCow x p n ++ [ePage p mpn 2 (x.snapEpoch % 65536) d.flash]))) ∧
      (d.present = true → bits mpn 40 4 = 0 → leafOwner x mpn = none → 16384 ≤ x.snapEpoch - x.fullEpoch d.epoch →
        (∀ n ∈ x.snaps, ¬ (x.fullEpoch d.epoch ≤ n.id ∧ n.id < x.snapEpoch)) → Tbl.sorted s.pools = true → x.dying = [] → mpn < 2 ^ 48 → d.flash < 2 ^ 48 → x.snapEpoch < 2 ^ 64 →
        ∃ t, gives (.epochSweep p) s t ∧ (t.pool p).fullEpoch ((t.pool p).dirE mpn).epoch = x.snapEpoch ∧
          ((t.pool p).dirE mpn).flash = d.flash ∧ (t.pool p).preserved = x.preserved ∧ (t.pool p).lines = x.lines))) ∧
  (∀ (s u : State) (call p id : Nat) (c : Call) (x : Pool), s.libCall call 65 = some c → p = callPool c.entry → x = s.pool p → id = callArg c.entry 0 →
    u = { s with freeCtr := s.freeCtr + 1 } →
    (s.owns p = false → ∃ r, gives (.snapDelete call) s (u.libExit call 0x23 r)) ∧
    (s.owns p = true → (∀ n ∈ x.snaps, n.id ≠ id) → ∃ r, gives (.snapDelete call) s (u.libExit call 0x63 r)) ∧
    (s.owns p = true → (∃ n ∈ x.snaps, n.id = id) → (∃ q src, q ∈ x.nss ∧ q.2.snap = some (id, src) ∧ isView x q.1 = false) →
      ∃ r, gives (.snapDelete call) s (u.libExit call 0x64 r)) ∧
    (s.owns p = true → (∃ n ∈ x.snaps, n.id = id) → (∀ q ∈ x.nss, ∀ src, q.2.snap = some (id, src) → isView x q.1 = true) → x.dying = [] → Tbl.sorted s.pools = true → id < 2 ^ 64 →
      ∃ (v : State) (r : Nat), gives (.snapDelete call) s ({ v with freeCtr := v.freeCtr + 1 }.libExit call 0 r) ∧
        (v.pool p).snaps = x.snaps.filter (fun n => decide (n.id ≠ id)) ∧ (v.pool p).snapEpoch = x.snapEpoch ∧ (v.pool p).recs = x.recs)) ∧
  (∀ (s : State) (p : Nat) (x : Pool) (m : Preserved), x = s.pool p → (s.owns p = false → gives (.snapDropWalk p) s s) ∧
    (s.owns p = true → (∀ q ∈ x.nss, q.2.deleting = false) → x.preserved = [m] →
      ((∃ n ∈ x.snaps, m.low ≤ n.id ∧ n.id ≤ m.high) → gives (.snapDropWalk p) s s) ∧
      ((∃ q ∈ s.host.cmds, ∃ z, q.2.snap = some z ∧ m.low ≤ z.1 ∧ z.1 ≤ m.high ∧ s.nsPool q.2.cap.nsid = some p) → gives (.snapDropWalk p) s s) ∧
      ((∀ n ∈ x.snaps, ¬ (m.low ≤ n.id ∧ n.id ≤ m.high)) → (∀ q ∈ s.host.cmds, q.2.snap = none) →
        gives (.snapDropWalk p) s (s.submit p 4 [eSnap p 4 0 m.high m.mpn]) ∧
        (m.mpn < 2 ^ 48 → m.high < 2 ^ 64 → Tbl.sorted s.pools = true → ((s.submit p 4 [eSnap p 4 0 m.high m.mpn]).pool p).preserved = [])))) ∧
  (∀ (s u : State) (call p id src new : Nat) (c : Call) (x : Pool), s.libCall call 66 = some c → p = callPool c.entry → x = s.pool p → id = callArg c.entry 0 →
    src = callArg c.entry 1 → new = callArg c.entry 2 → u = { s with freeCtr := s.freeCtr + 1 } →
    (s.owns p = false → ∃ r, gives (.snapExpose call) s (u.libExit call 0x23 r)) ∧
    (s.owns p = true → new < 1 ∨ 0xFFFFFFFE < new ∨ 0xFFFFFFFE < src → ∃ r, gives (.snapExpose call) s (u.libExit call 0x60 r)) ∧
    (s.owns p = true → 1 ≤ new → new ≤ 0xFFFFFFFE → src ≤ 0xFFFFFFFE →
      ((∀ n ∈ x.snaps, n.id ≠ id) → ∃ r, gives (.snapExpose call) s (u.libExit call 0x63 r)) ∧
      ((∃ n ∈ x.snaps, n.id = id) → nsExisted x src id = false → ∃ r, gives (.snapExpose call) s (u.libExit call 0x26 r)) ∧
      ((∃ n ∈ x.snaps, n.id = id) → nsExisted x src id = true → 4096 ≤ s.allNs.length → ∃ r, gives (.snapExpose call) s (u.libExit call 0x27 r)) ∧
      ((∃ n ∈ x.snaps, n.id = id) → nsExisted x src id = true → s.allNs.length < 4096 →
        ((Tbl.find s.allNs new).isSome = true → ∃ r, gives (.snapExpose call) s (u.libExit call 0x25 r)) ∧
        (∀ ns, Tbl.find s.allNs new = none → Tbl.find x.nss src = some ns → x.dying = [] → Tbl.sorted s.pools = true → id < 2 ^ 64 → ∃ (v : State) (r : Nat),
          gives (.snapExpose call) s ({ v with freeCtr := v.freeCtr + 1 }.libExit call 0 r) ∧
          Tbl.find (v.pool p).nss new = some { ns with snap := some (id, src), deleting := false, target := false } ∧ (v.pool p).snaps = x.snaps)))) ∧
  (∀ (s u : State) (call p nsid id src : Nat) (c : Call) (ns : Ns), s.libCall call 67 = some c → nsid = callArg c.entry 0 → u = { s with freeCtr := s.freeCtr + 1 } →
    (Tbl.find s.allNs nsid = none → ∃ r, gives (.snapHide call) s (u.libExit call 0x26 r)) ∧
    (Tbl.find s.allNs nsid = some (p, ns) →
      (s.owns p = false → ∃ r, gives (.snapHide call) s (u.libExit call 0x23 r)) ∧
      (s.owns p = true → ns.snap = none ∨ isView (s.pool p) nsid = true → ∃ r, gives (.snapHide call) s (u.libExit call 0x60 r)) ∧
      (s.owns p = true → ns.snap = some (id, src) → isView (s.pool p) nsid = false → (s.pool p).dying = [] → Tbl.sorted s.pools = true → nsid < 2 ^ 32 →
        Tbl.sorted (s.pool p).nss = true →
        (∀ n ∈ (s.pool p).snaps, n.id = id → n.deleting = false) → ∃ (v : State) (r : Nat), gives (.snapHide call) s ({ v with freeCtr := v.freeCtr + 1 }.libExit call 0 r) ∧
          Tbl.find (v.pool p).nss nsid = none ∧ (v.pool p).snaps = (s.pool p).snaps))) ∧
  (∀ (s u : State) (call n : Nat) (c : Call) (recs : List Bytes), s.libCall call 68 = some c → u = { s with freeCtr := s.freeCtr + 1 } →
    (s.owns (callPool c.entry) = false → ∃ r, gives (.snapList call) s (u.libExit call 0x23 r)) ∧ (s.owns (callPool c.entry) = true →
    recs = ((s.pool (callPool c.entry)).snaps.drop (callArg c.entry 0)).map (snapRec (s.pool (callPool c.entry))) → recs ≠ [] →
    n = min recs.length (callPlen c.entry / 32) → gives (.snapList call) s ((s.setParam c ((recs.take n).flatMap id)).libExit call 0 n))) ∧
  (∀ (s u : State) (call n : Nat) (c : Call), s.libCall call 73 = some c → n = min 1 (callPlen c.entry / 64) → u = { s with freeCtr := s.freeCtr + 1 } →
    (s.owns (callPool c.entry) = false → ∃ r, gives (.poolStatus call) s (u.libExit call 0x23 r)) ∧
    (s.owns (callPool c.entry) = true →
      gives (.poolStatus call) s ((s.setParam c (([s.poolRec (callPool c.entry)].take n).flatMap id)).libExit call 0 n))) ∧
  (∀ (s : State) (p id : Nat) (x : Pool), x = s.pool p → (∃ n ∈ x.snaps, n.id = id) → (∃ q src, q ∈ x.nss ∧ q.2.snap = some (id, src) ∧ isView x q.1 = false) →
    s.dropSnap p id = s.updPool p (fun y => { y with snaps := y.snaps.map (fun n => if n.id = id then { n with deleting := true } else n) }))

/-- R355 to R359, R361 to R363, R367 and R368. What the spec leaves open in them is as log entries 38 and 49 say (the model's
reading or choice). -/
def Obligations.ReplicationAtTheSource : Prop :=
  (∀ (s : State) (p n typ : Nat) (i : Instr) (m : Bytes) (marks : List (Nat × Nat × Nat × Nat)), (i, typ) ∈ [(.helloAck p n m, 2), (.manifest p n m, 3),
      (.want p n m marks, 4), (.replChunks p n m, 5), (.applied p n m, 6), (.roundEnd p n m, 7), (.roundDone p n m, 8), (.fetch p n m marks, 9),
      (.fetchReply p n m, 10), (.replError p n m, 11)] →
    (s.pairOf p n = none → gives i s s) ∧
    (∀ r, s.pairOf p n = some r → (r.connected = false ∨ s.owns p = false → gives i s s) ∧
      (r.connected = true → s.owns p = true →
        (m.length < 32 ∨ fieldAt m 0 2 ≠ 0x5E1A ∨ fieldAt m 2 1 ≠ typ → gives i s (s.replError p n 0 0)) ∧
        (32 ≤ m.length → fieldAt m 0 2 = 0x5E1A → fieldAt m 2 1 = typ →
          (fieldAt m 0x1C 4 ≠ crc32c (m.take 0x1C) → gives i s (s.replError p n 1 0)) ∧
          (fieldAt m 0x1C 4 = crc32c (m.take 0x1C) →
            (4194304 < fieldAt m 4 4 ∨ m.length ≠ 32 + fieldAt m 4 4 → gives i s (s.replError p n 0 0)) ∧
            (fieldAt m 4 4 ≤ 4194304 → m.length = 32 + fieldAt m 4 4 → fieldAt m 0x18 4 ≠ crc32c (m.drop 32) → gives i s (s.replError p n 1 0))))))) ∧
  (∀ (s : State) (p n item : Nat) (r : RPair), s.pairOf p n = some r → r.connected = true → Tbl.sorted s.pools = true →
    Tbl.sorted (s.pool p).pairs = true → r.curSnap = none →
    (∀ code, code ∈ [0, 1, 4] → ∃ t q, t = s.replError p n code item ∧
      t.out = s.out ++ [.repl p n (replMsg 0x0B (wireId n r) r.round item (leBytes 1 code ++ zeros 7 ++ leBytes 8 item)), .replClose p n] ∧
      t.pairOf p n = some q ∧ q.connected = false ∧ q.reason = 1 ∧ q.backoff = (if r.backoff = 0 then 1 else min 60 (2 * r.backoff)) ∧
      q.retryAt = s.time + BitVec.ofNat 64 (q.backoff * 100000000) ∧ q.items = r.items ∧ q.applied = r.applied) ∧
    (∀ t q, t = s.pairLost p n 1 → t.pairOf p n = some q → gives (.replConnectionLost p n) s t ∧ q.connected = false)) ∧
  (∀ (s : State) (p n : Nat) (r : RPair), s.pairOf p n = some r → r.connected = false → gives (.replConnectionLost p n) s s) ∧
  (∀ (s u : State) (call p n : Nat) (c : Call) (x : Pool) (d : Bytes), s.libCall call 69 = some c → p = callPool c.entry → x = s.pool p → d = s.paramBytes c →
    u = { s with freeCtr := s.freeCtr + 1 } →
    (s.owns p = false → ∃ v, gives (.replCreate call) s (u.libExit call 0x23 v)) ∧
    (s.owns p = true → pairBlockOk d = false → ∃ v, gives (.replCreate call) s (u.libExit call 0x60 v)) ∧
    (s.owns p = true → pairBlockOk d = true → x.fill = 2 → ∃ v, gives (.replCreate call) s (u.libExit call 0x31 v)) ∧
    (s.owns p = true → pairBlockOk d = true → x.fill ≠ 2 →
      (Tbl.find x.nss (fieldAt d 0 4) = none ∨ 256 ≤ (s.allPairs.filter (fun q => q.2.2.source)).length ∨
          16 ≤ ((s.allPairs.filter (fun q => q.2.2.source)).filter (fun q => decide (q.1 = p))).length →
        ∃ v, gives (.replCreate call) s (u.libExit call 0x65 v)) ∧
      (∀ ns, Tbl.find x.nss (fieldAt d 0 4) = some ns → ns.deleting = true ∨ ns.snap ≠ none → ∃ v, gives (.replCreate call) s (u.libExit call 0x65 v)) ∧
      (∀ ns, Tbl.find x.nss (fieldAt d 0 4) = some ns → ns.deleting = false → ns.snap = none → (s.allPairs.filter (fun q => q.2.2.source)).length < 256 →
        ((s.allPairs.filter (fun q => q.2.2.source)).filter (fun q => decide (q.1 = p))).length < 16 →
        (∀ k < n, ∃ q ∈ s.allPairs, q.2.2.source = true ∧ q.2.1 = k) → (∀ q ∈ s.allPairs, q.2.2.source = true → q.2.1 ≠ n) → n ≤ 256 →
        gives (.replCreate call) s ((s.submit p 4 (pairEntries p n d)).libExit call 0 n)))) ∧
  (∀ (s u : State) (call p : Nat) (c : Call) (x : Pool) (d : Bytes), s.libCall call 70 = some c → p = callPool c.entry → x = s.pool p → d = s.paramBytes c →
    u = { s with freeCtr := s.freeCtr + 1 } →
    (s.owns p = false → ∃ v, gives (.replAccept call) s (u.libExit call 0x23 v)) ∧
    (s.owns p = true → pairBlockOk d = false → ∃ v, gives (.replAccept call) s (u.libExit call 0x60 v)) ∧
    (s.owns p = true → pairBlockOk d = true →
      (Tbl.find x.nss (fieldAt d 0 4) = none ∨ x.cfg.dedup = false → ∃ v, gives (.replAccept call) s (u.libExit call 0x65 v)) ∧
      (∀ ns, Tbl.find x.nss (fieldAt d 0 4) = some ns → ns.deleting = false → ns.snap = none → ns.target = false → x.cfg.dedup = true →
        (fieldAt d 0x30 4 ≠ 0 → (Tbl.find s.allNs (fieldAt d 0x30 4)).isSome = true → ∃ v, gives (.replAccept call) s (u.libExit call 0x25 v)) ∧
        (fieldAt d 0x30 4 = 0 ∨ Tbl.find s.allNs (fieldAt d 0x30 4) = none → ∃ (w : State) (n v : Nat),
          w = s.submit p 4 (pairEntries p n d) ∧ (∀ q ∈ s.allPairs, q.2.1 ≠ n) ∧
          gives (.replAccept call) s ({ w with freeCtr := w.freeCtr + 1 }.libExit call 0 v))))) ∧
  (∀ (s u : State) (call n p k : Nat) (c : Call) (r : RPair), s.libCall call 71 = some c → n = callArg c.entry 0 → u = { s with freeCtr := s.freeCtr + 1 } →
    ((∀ q ∈ s.allPairs, q.2.1 ≠ n) → ∃ v, gives (.replDelete call) s (u.libExit call 0x66 v)) ∧
    (s.allPairs.find? (fun q => decide (q.2.1 = n)) = some (p, k, r) →
      (s.owns p = false → ∃ v, gives (.replDelete call) s (u.libExit call 0x23 v)) ∧
      (s.owns p = true → r.source = true → r.connected = false → ∃ (w : State) (v : Nat), w = (s.roundStop p n 5).submit p 4 [eRepl p n 4 r.round 0] ∧
        gives (.replDelete call) s ({ w with freeCtr := w.freeCtr + 1 }.libExit call 0 v)))) ∧
  (∀ (s u : State) (call k p n : Nat) (c : Call) (r : RPair), s.libCall call 72 = some c → u = { s with freeCtr := s.freeCtr + 1 } → k = min 1 (callPlen c.entry / 64) →
    ((∀ q ∈ s.allPairs, q.2.1 ≠ callArg c.entry 0) → ∃ v, gives (.replStatus call) s (u.libExit call 0x66 v)) ∧
    (s.allPairs.find? (fun q => decide (q.2.1 = callArg c.entry 0)) = some (p, n, r) →
      gives (.replStatus call) s ((s.setParam c (([pairRec n r].take k).flatMap id)).libExit call 0 k))) ∧
  (∀ (s : State) (p n : Nat) (r : RPair), s.pairOf p n = some r →
    (s.owns p = false ∨ r.source = false ∨ s.roundDue p n = false ∨ s.snapSpaced p = false ∨ 65535 ≤ (s.pool p).snaps.length →
      gives (.replRound p n) s s) ∧
    (s.owns p = true → r.source = true → s.roundDue p n = true → s.cutBusy p = true → s.snapSpaced p = true → (s.pool p).snaps.length < 65535 →
      gives (.replRound p n) s (s.updPool p (fun y => { y with ckpt := { y.ckpt with cutting := true } }))) ∧
    (s.owns p = true → r.source = true → s.roundDue p n = true → s.cutBusy p = false → s.snapSpaced p = true → (s.pool p).snaps.length < 65535 →
      Tbl.sorted s.pools = true → Tbl.sorted (s.pool p).pairs = true → (s.pool p).dying = [] → n < 2 ^ 32 → r.round + 1 < 2 ^ 32 → (s.pool p).snapEpoch < 2 ^ 63 →
      ∃ (t w : State) (q : RPair), gives (.replRound p n) s t ∧
        w = ((s.submit p 4 [eSnap p 0 1 (s.pool p).snapEpoch 0]).updPool p (fun y => { y with ckpt := { y.ckpt with cutting := false } })).submit p 8 [eRepl p n 1 (r.round + 1) (s.pool p).snapEpoch] ∧
        (t.pool p).snaps = (s.pool p).snaps ++ [{ id := (s.pool p).snapEpoch, time := s.time, repl := true, deleting := false }] ∧
        (t.pool p).snapEpoch = (s.pool p).snapEpoch + 1 ∧ t.pairOf p n = some q ∧ q.round = r.round + 1 ∧ q.curSnap = some (s.pool p).snapEpoch ∧
        q.items = roundItems (w.pool p) r.nsid r.prevSnap (s.pool p).snapEpoch ∧ q.applied = 0 ∧ q.acked = [] ∧ q.roundAt = s.time ∧
        q.state = (if r.connected then 2 else 3) ∧ q.sent = (if r.connected then min 64 q.items.length else 0))) ∧
  (∀ (s : State) (p n : Nat) (r : RPair), s.pairOf p n = some r →
    (s.owns p = false ∨ r.source = false ∨ s.time.toNat < r.retryAt.toNat ∨ r.connected = true ∧ r.reason ≠ 4 → gives (.replReconnect p n) s s) ∧
    (s.owns p = true → r.source = true → r.retryAt.toNat ≤ s.time.toNat → r.connected = false →
      (s.secureHif r.hif = false → gives (.replReconnect p n) s (s.updPair p n (fun z => { z with connected := false, reason := 3 }))) ∧
      (s.secureHif r.hif = true → Tbl.sorted s.pools = true → Tbl.sorted (s.pool p).pairs = true → ∃ t q, gives (.replReconnect p n) s t ∧
        t.pairOf p n = some q ∧ q.connected = true ∧ q.state = 1 ∧
        t.out = s.out ++ [.repl p n (replMsg 1 n r.round 0 (padTo 16 (s.pool p).poolId ++ leBytes 4 r.nsid ++ leBytes 4 r.remote ++ zeros 8))]))) ∧
  (∀ (s u : State) (p n a : Nat) (m : Bytes) (r : RPair), s.pairOf p n = some r → r.connected = true → s.owns p = true → r.source = true → msgBad 2 m = none →
    a = fieldAt m 40 8 → u = s.updPair p n (fun z => { z with backoff := 0, reason := 0 }) →
    (fieldAt m 32 1 ≠ 0 → gives (.helloAck p n m) s ((s.emit (.replClose p n)).pairLost p n 2)) ∧
    (fieldAt m 32 1 = 0 → (r.curSnap = none → gives (.helloAck p n m) s (u.updPair p n (fun z => { z with state := 0 }))) ∧
      (∀ id, r.curSnap = some id → (a = 2 ^ 64 - 1 → gives (.helloAck p n m) s (u.roundOver p n none)) ∧
        (a ≠ 2 ^ 64 - 1 → ∃ t q, gives (.helloAck p n m) s t ∧ t.pairOf p n = some q ∧ q.items = roundItems (u.pool p) r.nsid r.prevSnap id ∧
          q.applied = min a q.items.length ∧ q.acked = [] ∧ q.state = 2 ∧ q.sent = min (min a q.items.length + 64) q.items.length)))) ∧
  (∀ (s u : State) (p n item : Nat) (m : Bytes) (marks : List (Nat × Nat × Nat × Nat)) (r : RPair) (it : RItem), s.pairOf p n = some r → r.connected = true →
    s.owns p = true → msgBad 4 m = none → item = fieldAt m 0x10 8 → item ≠ 0 →
    (r.items.length < item → gives (.want p n m marks) s (s.replError p n 4 item)) ∧
    (r.items[item - 1]? = some it → (m.length - 32 ≠ ceilDiv it.handles.length 8 → gives (.want p n m marks) s (s.replError p n 0 item)) ∧
      (∀ f, m.drop 32 = [1] → it.handles.length = 1 → s.fetchFrame p (it.handles.getD 0 0) marks = (some f, u) → f.length ≤ 1048576 →
        gives (.want p n m marks) s ((u.updPair p n (fun z => { z with
          chunksSent := z.chunksSent + 1, bytesSent := z.bytesSent + f.length, wantSeen := max z.wantSeen item })).sendRepl p n 5 item (chunkEntry 0 f))))) ∧
  (∀ (s : State) (p n item : Nat) (m : Bytes) (r : RPair), s.pairOf p n = some r → r.connected = true → s.owns p = true → msgBad 6 m = none → item = fieldAt m 0x10 8 →
    (r.source = false ∨ item = 0 ∨ r.sent < item → gives (.applied p n m) s (s.replError p n 4 item)) ∧
    (r.source = true → 0 < item → item ≤ r.sent → item ≤ r.applied ∨ item ∈ r.acked → gives (.applied p n m) s s) ∧
    (r.source = true → item = r.applied + 1 → r.applied + 1 ≤ r.sent → r.acked = [] → (s.time - r.appliedAt).toNat < 10000000 →
      Tbl.sorted s.pools = true → Tbl.sorted (s.pool p).pairs = true → ∃ t q, gives (.applied p n m) s t ∧ t.pairOf p n = some q ∧
        q.applied = item ∧ q.acked = [] ∧ q.items = r.items)) ∧
  (∀ (s : State) (p n : Nat) (m : Bytes) (r : RPair), s.pairOf p n = some r → r.connected = true → s.owns p = true → msgBad 8 m = none →
    (r.source = true → r.curSnap ≠ none → r.applied = r.items.length → gives (.roundDone p n m) s (s.roundOver p n (some (fieldAt m 32 8)))) ∧
    (r.source = false ∨ r.curSnap = none ∨ r.applied ≠ r.items.length → gives (.roundDone p n m) s (s.replError p n 4 0))) ∧
  (∀ (s u : State) (p n code : Nat) (m : Bytes) (r : RPair), s.pairOf p n = some r → r.connected = true → s.owns p = true → msgBad 11 m = none → code = fieldAt m 32 1 →
    u = s.updPair p n (fun z => { z with state := 3, reason := 4, retryAt := s.time + 6000000000 }) →
    (code = 2 → r.source = true → gives (.replError p n m) s
      ((s.roundStop p n 4).book 0x00 0x10C (leBytes 1 p ++ leBytes 4 n ++ leBytes 8 (fieldAt m 40 8)))) ∧
    (code = 2 → r.source = false → gives (.replError p n m) s (s.dropWorks p n)) ∧
    (code = 3 → gives (.replError p n m) s (if r.source && r.curSnap.isSome then u.replReport p n 2 else u)) ∧
    (code ≠ 2 → code ≠ 3 → gives (.replError p n m) s ((s.emit (.replClose p n)).pairLost p n 1)))

/-- R298, R355 and R357 to R366 at the target and for fetches. What the spec leaves open in them is as log entries 38 and 49 say
(the model's reading or choice). -/
def Obligations.ReplicationAtTheTarget : Prop :=
  (∀ (s : State) (m : Bytes) (round : Nat), round = fieldAt m 0x0C 4 →
    (∀ code, msgBad 1 m = some code → gives (.hello m) s ((s.emit (.repl 255 0
      (replMsg 0x0B (fieldAt m 8 4) round 0 (leBytes 1 code ++ zeros 15)))).emit (.replClose 255 0))) ∧
    (msgBad 1 m = none → (∀ q ∈ s.allPairs, q.2.2.source = true ∨ padTo 16 q.2.2.remotePool ≠ sliceAt m 32 16 ∨ q.2.2.remote ≠ fieldAt m 48 4 ∨ q.2.2.nsid ≠ fieldAt m 52 4) →
      gives (.hello m) s (s.emit (.repl 255 0 (replMsg 2 (fieldAt m 8 4) round 0 (leBytes 1 1 ++ zeros 15))))) ∧
    (∀ p n r, msgBad 1 m = none → s.allPairs = [(p, n, r)] → r.source = false → padTo 16 r.remotePool = sliceAt m 32 16 → r.remote = fieldAt m 48 4 →
      r.nsid = fieldAt m 52 4 →
      (s.owns p = false → gives (.hello m) s (s.emit (.repl p n (replMsg 2 (fieldAt m 8 4) round 0 (leBytes 1 2 ++ zeros 15))))) ∧
      (s.owns p = true → r.round = round → s.pairOf p n = some r → Tbl.sorted s.pools = true → Tbl.sorted (s.pool p).pairs = true →
        ∃ t q, gives (.hello m) s t ∧ t.pairOf p n = some q ∧ q = { r with connected := true, peerId := fieldAt m 8 4, reason := 0 } ∧
          t.out = s.out ++ [.repl p n (replMsg 2 (fieldAt m 8 4) round 0 (zeros 8 ++ leBytes 8 (if r.done then 2 ^ 64 - 1 else appliedTo r)))]))) ∧
  (∀ (s : State) (p n round item kind : Nat) (m : Bytes) (r : RPair) (ns : Ns), s.pairOf p n = some r → r.connected = true → s.owns p = true → msgBad 3 m = none →
    item = fieldAt m 0x10 8 → round = fieldAt m 0x0C 4 → kind = fieldAt m 32 1 →
    (r.source = true → gives (.manifest p n m) s s) ∧
    (r.source = false → (s.pool p).fill = 2 → gives (.manifest p n m) s (s.replError p n 3 item)) ∧
    (r.source = false → (s.pool p).fill ≠ 2 → Tbl.find (s.pool p).nss r.nsid = some ns → r.work = [] →
      (round < r.round → gives (.manifest p n m) s (s.replError p n 4 item)) ∧
      (round = r.round → item < 1 ∨ r.applied + 1 < item → gives (.manifest p n m) s (s.replError p n 4 item)) ∧
      (round = r.round → 1 ≤ item → item ≤ r.applied + 1 →
        (ns.kind = 0 → kind = 1 ∨ kind = 2 ∨ fieldAt m 40 8 % 0x100000 ≠ 0 ∨ ns.size ≤ fieldAt m 40 8 → gives (.manifest p n m) s (s.replError p n 0 item)) ∧
        (ns.kind = 1 → kind = 0 ∨ kind = 3 ∨ fieldAt m 33 1 = 0 → gives (.manifest p n m) s (s.replError p n 0 item)) ∧
        (∀ q (w : RWork), w = { item := { kind := 0, pos := fieldAt m 40 8, key := sliceAt (m.drop 32) 16 (fieldAt m 33 1), recs := q, handles := [] }, found := [], wants := [0], frames := [], fails := 0, busy := false } →
          ns.kind = 0 → kind = 0 → fieldAt m 40 8 % 0x100000 = 0 → fieldAt m 40 8 < ns.size → m.length = 112 → q = m.drop 64 → bit (fieldAt q 0x24 4) 1 = false →
          (s.svcProbe s.libRidge p (sliceAt q 0 32) (fieldAt q 0x20 4) false).2 = none → Tbl.sorted s.pools = true → Tbl.sorted (s.pool p).pairs = true →
          ∃ t v, gives (.manifest p n m) s t ∧ t.out = s.out ++ [.repl p n (replMsg 4 r.peerId r.round item [1])] ∧ t.pairOf p n = some v ∧
            v.work = [(item, w)])))) ∧
  (∀ (s : State) (p n item i : Nat) (m f : Bytes) (r : RPair) (w : RWork), s.pairOf p n = some r → r.connected = true → s.owns p = true → msgBad 5 m = none →
    item = fieldAt m 0x10 8 → Tbl.sorted s.pools = true → Tbl.sorted (s.pool p).pairs = true →
    (chunkEntries (m.length - 31) (m.drop 32) = none → gives (.replChunks p n m) s (s.replError p n 0 item)) ∧
    (chunkEntries (m.length - 31) (m.drop 32) = some [(i, f)] →
      (Tbl.find r.work item = none ∨ (Tbl.find r.work item = some w ∧ ¬ i ∈ w.wants ∧ w.busy = true ∧ w.fails < 3) →
        ∃ t q, gives (.replChunks p n m) s t ∧ t.pairOf p n = some q ∧ q.unwanted = r.unwanted + 1 ∧ t.out = s.out) ∧
      (Tbl.find r.work item = some w → i ∈ w.wants →
        (∀ d, decodeChunk (s.nsProfile p r.nsid) f (fieldAt (rec48 w i) 0x20 4) = some d → sha256 d = sliceAt (rec48 w i) 0 32 → w.fails < 3 →
          (∃ j ∈ w.wants, j ≠ i) → ∃ t q v, gives (.replChunks p n m) s t ∧ t.pairOf p n = some q ∧ Tbl.find q.work item = some v ∧
            v = { w with wants := w.wants.filter (fun j => decide (j ≠ i)), frames := Tbl.set w.frames i f } ∧ t.out = s.out) ∧
        (decodeChunk (s.nsProfile p r.nsid) f (fieldAt (rec48 w i) 0x20 4) = none →
          (w.fails < 2 → ∃ t q v, gives (.replChunks p n m) s t ∧ t.pairOf p n = some q ∧ Tbl.find q.work item = some v ∧ v = { w with fails := w.fails + 1 } ∧
            t.out = s.out ++ [.repl p n (replMsg 4 (wireId n r) r.round item (bitmapBytes (w.item.recs.length / 48) [i]))]) ∧
          (2 ≤ w.fails → ∃ v, gives (.replChunks p n m) s (((v : State).replError p n 2 item).dropWorks p n) ∧ v.mem = s.mem ∧ v.out = s.out))))) ∧
  (∀ (s : State) (p n : Nat) (m : Bytes) (r : RPair), s.pairOf p n = some r → r.connected = true → s.owns p = true → msgBad 7 m = none →
    (r.source = true → gives (.roundEnd p n m) s s) ∧
    (r.source = false → r.work ≠ [] ∨ r.applied ≠ fieldAt m 32 8 → gives (.roundEnd p n m) s (s.replError p n 4 0)) ∧
    (r.source = false → r.work = [] → r.applied = fieldAt m 32 8 →
      (s.snapSpaced p = false ∨ 65535 ≤ (s.pool p).snaps.length → gives (.roundEnd p n m) s s) ∧
      (s.cutBusy p = true → s.snapSpaced p = true → (s.pool p).snaps.length < 65535 →
        gives (.roundEnd p n m) s (s.updPool p (fun y => { y with ckpt := { y.ckpt with cutting := true } }))) ∧
      (s.cutBusy p = false → s.snapSpaced p = true → (s.pool p).snaps.length < 65535 → r.viewNsid = 0 → r.curSnap = none → (s.pool p).dying = [] → Tbl.sorted s.pools = true →
        Tbl.sorted (s.pool p).pairs = true → (s.pool p).snapEpoch < 2 ^ 63 →
        ∃ t q, gives (.roundEnd p n m) s t ∧ t.pairOf p n = some q ∧ q.curSnap = some (s.pool p).snapEpoch ∧ q.done = true ∧ q.doneAt = s.time ∧
          (t.pool p).snaps = (s.pool p).snaps ++ [{ id := (s.pool p).snapEpoch, time := s.time, repl := true, deleting := false }] ∧
          t.out.getLast? = some (.repl p n (replMsg 8 r.peerId r.round 0 (leBytes 8 (s.pool p).snapEpoch)))))) ∧
  (∀ (s : State) (p h : Nat) (x : Pool), x = s.pool p →
    (s.owns p = false ∨ (x.rec' h).live = false ∨ (x.rec' h).lost = false ∨ (∀ q ∈ x.pairs, q.2.source = false) ∨
        (∃ q ∈ x.pairs, ∃ f ∈ q.2.fetches, f.2.1 = h) → gives (.replicaRepair p h) s s) ∧
    (s.owns p = true → (x.rec' h).live = true → (x.rec' h).lost = true → (∃ q ∈ x.pairs, q.2.source = true) →
      (∀ q ∈ x.pairs, ∀ f ∈ q.2.fetches, f.2.1 ≠ h) → gives (.replicaRepair p h) s (s.fetchNext p h)) ∧
    ((∀ q ∈ x.pairs, q.2.source = false ∨ q.2.connected = false ∨ q.1 < Tbl.getD x.asked h 0) → Tbl.find s.pools p = some x → Tbl.sorted s.pools = true →
      ∃ t, t = s.fetchNext p h ∧ t.out = s.out ∧ (t.pool p).lost = x.lost.map (fun l => if l.handle = h then { l with state := 3 } else l)) ∧
    (∀ n r, x.pairs = [(n, r)] → r.source = true → r.connected = true → Tbl.getD x.asked h 0 ≤ n → Tbl.find s.pools p = some x → Tbl.sorted s.pools = true →
      ∃ t q tag, t = s.fetchNext p h ∧ t.pairOf p n = some q ∧ q.fetches = r.fetches ++ [(tag, h, s.time)] ∧ Tbl.getD (t.pool p).asked h 0 = n + 1 ∧
        t.out = s.out ++ [.repl p n (replMsg 9 n r.round 0 (leBytes 8 tag ++ digestOf x h ++ leBytes 4 (x.rec' h).olen ++ zeros 4))] ∧
        (t.pool p).lost = x.lost.map (fun l => if l.handle = h then { l with state := 1 } else l))) ∧
  (∀ (s u v : State) (p n : Nat) (m tag : Bytes) (marks : List (Nat × Nat × Nat × Nat)) (r : RPair) (found : Option Nat), s.pairOf p n = some r → r.connected = true →
    s.owns p = true → msgBad 9 m = none → tag = sliceAt m 32 8 → s.svcProbe s.libRidge p (sliceAt m 40 32) (fieldAt m 72 4) false = (v, found) →
    (found = none ∨ (∃ h, found = some h ∧ refTakable (v.pool p) h = false) →
      gives (.fetch p n m marks) s (v.sendRepl p n 10 0 (tag ++ leBytes 1 1 ++ zeros 3 ++ leBytes 4 0))) ∧
    (∀ h, found = some h → refTakable (v.pool p) h = true →
      (∀ f, v.fetchFrame p h marks = (some f, u) → gives (.fetch p n m marks) s (u.sendRepl p n 10 0 (tag ++ leBytes 1 0 ++ zeros 3 ++ leBytes 4 f.length ++ f))) ∧
      (v.fetchFrame p h marks = (none, u) → gives (.fetch p n m marks) s (u.sendRepl p n 10 0 (tag ++ leBytes 1 2 ++ zeros 3 ++ leBytes 4 0))))) ∧
  (∀ (s u : State) (p n h : Nat) (m : Bytes) (r : RPair), s.pairOf p n = some r → r.connected = true → s.owns p = true → msgBad 10 m = none →
    (s.fetchTake p n (fieldAt m 32 8) = none → gives (.fetchReply p n m) s s) ∧
    (s.fetchTake p n (fieldAt m 32 8) = some (h, u) →
      (fieldAt m 40 1 ≠ 0 → gives (.fetchReply p n m) s (u.fetchNext p h)) ∧
      (∀ d, fieldAt m 40 1 = 0 → decodeChunk (profOf (u.pool p) h) (sliceAt m 48 (fieldAt m 44 4)) ((u.pool p).rec' h).olen = d →
        (d = none ∨ d.any (fun b => fixityOk (u.pool p) h b) = false → gives (.fetchReply p n m) s (u.fetchNext p h)) ∧
        (∀ b, d = some b → fixityOk (u.pool p) h b = true →
          gives (.fetchReply p n m) s ((u.updPool p (fun y => { y with asked := Tbl.del y.asked h })).storeSame p h b))))) ∧
  (∀ (s u : State) (p n tag h : Nat) (r : RPair) (since : W64), (s.pairOf p n = none → gives (.fetchTimeout p n tag) s s) ∧
    (s.pairOf p n = some r → (∀ f ∈ r.fetches, f.1 ≠ tag) → gives (.fetchTimeout p n tag) s s) ∧
    (s.pairOf p n = some r → r.fetches.find? (fun f => decide (f.1 = tag)) = some (tag, h, since) →
      ((s.time - since).toNat < 1000000000 → gives (.fetchTimeout p n tag) s s) ∧
      (1000000000 ≤ (s.time - since).toNat → s.fetchTake p n tag = some (h, u) → gives (.fetchTimeout p n tag) s (u.fetchNext p h))))

/-- R16 to R18, R182, R183, R185, R309, R376, R380, R382, R386 and R392. What the spec leaves open in them is as log entries 36,
51 and 91 say (the model's reading or choice). -/
def Obligations.HostCommandsAct : Prop :=
  (∀ (s : State) (n : Nat) (i : Instr) (op : HostOp) (marks : List (Nat × Nat × Nat × Nat)), (i, op) ∈ [(.read n marks, .read), (.verify n marks, .verify),
      (.write n marks, .write), (.flush n, .flush), (.writeZeroes n, .writeZeroes), (.datasetManagement n, .dsm), (.copy n marks, .copy),
      (.store n marks, .store), (.delete n, .delete), (.retrieve n marks, .retrieve), (.exist n, .exist), (.list n, .list), (.abort n, .abort)] →
    (s.runCmd n [op] = none → gives i s s) ∧
    (∀ c, s.runCmd n [op] = some c → op ≠ .flush → op ≠ .abort →
      (s.parked c = true → c.lost = false → gives i s s) ∧
      (s.parked c = false → s.serves c = false → c.lost = false → op ≠ .write → op ≠ .store →
        gives i s (s.forwardCmd n c (if op = .read ∨ op = .verify ∨ op = .retrieve ∨ op = .exist ∨ op = .list then [] else c.data))))) ∧
  (∀ (s : State) (n : Nat) (c : HCmd) (q : HQueue), s.runCmd n [.flush] = some c → c.climb = none → c.fwd = none → c.lost = false → c.rdata = [] →
    s.outputsHeld c = false → Tbl.find s.host.queues c.queue = some q → s.pair.solo = true → s.pair.joining = false → Tbl.sorted s.host.cmds = true →
    ∃ t, gives (.flush n) s t ∧ t.out = s.out ++ [.nvme c.queue c.cap.cid (q.heldSqhd.getD q.sqhd) 0 0 0] ∧ t.hcmd n = none ∧
      t.host.locks = s.host.locks.filter (fun l => decide (l.cmd ≠ some n)) ∧ t.pools = s.pools ∧ t.mem = s.mem) ∧
  (∀ (s : State) (n : Nat) (c : HCmd), (s.runCmd n [.flush] = some c → gives (.flush n) s (s.finishCmd n stOk 0 0)) ∧
    (s.runCmd n [.abort] = some c → gives (.abort n) s (s.finishCmd n stOk 1 0))) ∧
  (∀ (s : State) (n : Nat) (i : Instr) (op : HostOp) (marks : List (Nat × Nat × Nat × Nat)) (c : HCmd) (p src : Nat) (snap : Option Nat), s.runCmd n [op] = some c →
    s.parked c = false → s.serves c = true → c.lost = false →
    ((i, op) ∈ [(.read n marks, .read), (.verify n marks, .verify), (.retrieve n marks, .retrieve), (.exist n, .exist), (.list n, .list)] →
      s.view c = none → gives i s (s.finishCmd n (ofNvme 0 0x0B true) 0 0)) ∧
    (s.view c = some (p, snap, src) →
      (∀ ps, ps = s.readPlaces c p src c.cap.start c.cap.len →
        (∀ u, s.fetchPlaces n c p snap ps marks = (none, u) → (op = .read → gives (.read n marks) s u) ∧ (op = .verify → gives (.verify n marks) s u)) ∧
        (∀ d u, s.fetchPlaces n c p snap ps marks = (some d, u) → (op = .read → gives (.read n marks) s (u.sendRead n d 0)) ∧
          (op = .verify → gives (.verify n marks) s (u.finishCmd n stOk 0 0)))) ∧
      (∀ u, (op = .retrieve ∨ op = .exist) ∧ s.needPages p c.climb (keyPages (s.pool p) snap src c.cap.key false) = (true, u) ∨
          op = .list ∧ s.needPages p c.climb (keyPages (s.pool p) snap src c.cap.key true) = (true, u) →
        (i, op) ∈ [(.retrieve n marks, .retrieve), (.exist n, .exist), (.list n, .list)] → gives i s u) ∧
      ((∀ m ∈ keyPages (s.pool p) snap src c.cap.key false, s.absentPage p m = false) →
      (s.objOf p snap src c.cap.key = none → (op = .retrieve → gives (.retrieve n marks) s (s.finishCmd n (ofNvme 0 0x87 true) 0 0)) ∧
        (op = .exist → gives (.exist n) s (s.finishCmd n (ofNvme 0 0x87 true) 0 0))) ∧
      (∀ o, s.objOf p snap src c.cap.key = some o → (op = .exist → gives (.exist n) s (s.finishCmd n stOk 0 0)) ∧
        (∀ d u, op = .retrieve → s.fetchPlaces n c p snap (pitchesOf o.base 0 (min o.len c.cap.len)) marks = (some d, u) →
          gives (.retrieve n marks) s (u.sendRead n d o.len)) ∧
        (∀ u, op = .retrieve → s.fetchPlaces n c p snap (pitchesOf o.base 0 (min o.len c.cap.len)) marks = (none, u) → gives (.retrieve n marks) s u))) ∧
      (op = .list → (∀ m ∈ keyPages (s.pool p) snap src c.cap.key true, s.absentPage p m = false) → gives (.list n) s (s.sendRead n (listKeys (objsAt (s.pool p) src snap) c.cap.key c.cap.len) 0)))) ∧
  (∀ (s : State) (n p ln a len : Nat) (c : HCmd) (snap : Option Nat) (marks : Marks) (l : Line),
    l = lineAt (s.pool p) snap ln → (∀ m ∈ pagesOf (s.pool p) snap [ln], s.absentPage p m = false) →
    (∀ z ∈ placed (s.pool p) l a len, z.1 ≠ 0 → s.absentPage p ((s.pool p).num * 2 ^ 44 + 2 ^ 43 + z.1 / 256) = false) →
    (l.runs = [] → l.holds = [] → s.fetchPlaces n c p snap [(ln, a, len)] marks = (some (zeros len), s)) ∧
    (∀ h d u, l.fixed = false → l.runs = [{ handle := h, nchunk := 1, pos := 0 }] → l.holds = [] → d.length = ((s.pool p).rec' h).olen → a + len ≤ d.length →
      0 < len → s.locWrong p h = false → s.readChunk p h marks = (some d, u) →
      s.fetchPlaces n c p snap [(ln, a, len)] marks = (some ((d.drop a).take len), u)) ∧
    (∀ h u, l.fixed = false → l.runs = [{ handle := h, nchunk := 1, pos := 0 }] → l.holds = [] → a < ((s.pool p).rec' h).olen → 0 < len → s.locWrong p h = false →
      s.readChunk p h marks = (none, u) →
      ((∀ g ∈ (u.pool p).segs, g.2.retained = false) ∨ ((u.pool p).rec' h).lost = true →
        s.fetchPlaces n c p snap [(ln, a, len)] marks = (none, u.finishCmd n stUnrecovered 0 0)) ∧
      (∀ d, (∃ g ∈ (u.pool p).segs, g.2.retained = true) → ((u.pool p).rec' h).live = true → ((u.pool p).rec' h).lost = false → u.hcmd n = some d →
        s.fetchPlaces n c p snap [(ln, a, len)] marks = (none, u.setCmd n { d with search := some h, since := u.time }))) ∧
    (∀ h, l.fixed = false → l.runs = [{ handle := h, nchunk := 1, pos := 0 }] → l.holds = [] → a < ((s.pool p).rec' h).olen → 0 < len → s.locWrong p h = true →
      s.hcmd n = some c → s.fetchPlaces n c p snap [(ln, a, len)] marks = (none, s.setCmd n { c with search := some h, since := s.time })) ∧
    (∀ k, l.runs = [] → l.holds = [(k, { handle := 0, heat := 0, zero := true })] → s.fetchPlaces n c p snap [(ln, a, len)] marks = (some (zeros len), s))) ∧
  (∀ (s : State) (n p : Nat) (marks : List (Nat × Nat × Nat × Nat)) (c : HCmd) (d : Bytes) (t : State), s.parked c = false → s.getData n c = (some d, t) → c.fwd = none →
    (∀ i op, (i, op) ∈ [(.write n marks, HostOp.write), (.store n marks, .store)] → s.runCmd n [op] = some c → c.cap.op = op → t.serves c = false →
      gives i s (t.forwardCmd n c d)) ∧
    (t.serves c = true → t.nsPool c.cap.nsid = some p →
      (∀ ns u, s.runCmd n [.write] = some c → Tbl.find (t.pool p).nss c.cap.nsid = some ns →
        (t.needPages p c.climb (writePages (t.pool p) ((pitchesOf ns.base c.cap.start c.cap.len).map Prod.fst)) = (true, u) → gives (.write n marks) s u) ∧
        (t.needPages p c.climb (writePages (t.pool p) ((pitchesOf ns.base c.cap.start c.cap.len).map Prod.fst)) = (false, u) →
          gives (.write n marks) s (writeBlock u u n c p c.cap.start d marks))) ∧
      (s.runCmd n [.store] = some c → t.objOf p none c.cap.nsid c.cap.key = none →
        (∀ m ∈ keyPages (t.pool p) none c.cap.nsid c.cap.key true, t.absentPage p m = false) →
        (c.cap.mustExist = true → gives (.store n marks) s (t.finishCmd n (ofNvme 0 0x87 true) 0 0)) ∧
        (∀ base u its v k, c.cap.mustExist = false → k = cutScan (t.pool p) d →
          (base, u) = (t.libCut (t.cmdRidge n) d.length (k : Scan).ends.length k.max).newBase p d.length →
          (its, v) = objectItems (t.cmdRidge n) p c.cap.nsid base d marks (cutObject ((u : State).pool p) d) u →
          gives (.store n marks) s (issueHost t v n (mkPlan p c.cap.nsid its (some (c.cap.key, d.length, base)) false)))) ∧
      (∀ o, s.runCmd n [.store] = some c → t.objOf p none c.cap.nsid c.cap.key = some o → c.cap.mustNotExist = true →
        (∀ m ∈ keyPages (t.pool p) none c.cap.nsid c.cap.key true ++ writePages (t.pool p) ((List.range (ceilDiv o.len 0x100000)).map (fun i => o.base + i)),
          t.absentPage p m = false) →
        gives (.store n marks) s (t.finishCmd n (ofNvme 0 0x89 true) 0 0)))) ∧
  (∀ (s : State) (n : Nat) (marks : List (Nat × Nat × Nat × Nat)) (op : HostOp) (c : HCmd) (d : Bytes) (q : HQueue), op ∈ [HostOp.write, .store] → s.runCmd n [op] = some c → c.cap.op = op →
    s.parked c = false → c.fwd = none → c.cap.inline = none → dataIn c = false → s.hqueue c.queue = some q →
    gives (if op = .write then .write n marks else .store n marks) s (askData n q 4 s)) ∧
  (∀ (s : State) (n p : Nat) (i : Instr) (op : HostOp) (c : HCmd) (ns : Ns) (rs : List (Nat × Nat)) (zs : List (Nat × Nat × Nat)), (i, op, rs) ∈
      [(.writeZeroes n, .writeZeroes, [(c.cap.start, c.cap.len)]), (.datasetManagement n, .dsm, c.cap.ranges)] → s.runCmd n [op] = some c → s.parked c = false →
    c.cap.op = op → s.serves c = true → s.nsPool c.cap.nsid = some p → Tbl.find (s.pool p).nss c.cap.nsid = some ns →
    zs = (rs.flatMap (fun r => zeroPieces ns.base (r.2 / 4096 + 2) r.1 r.2)).eraseDups →
    (∀ u, s.needPages p c.climb (writePages (s.pool p) (zs.map Prod.fst)) = (true, u) → gives i s u) ∧
    (∀ u, s.needPages p c.climb (writePages (s.pool p) (zs.map Prod.fst)) = (false, u) →
      gives i s (issueHost u u n (mkPlan p c.cap.nsid (zs.map zeroItem) none false)))) ∧
  (∀ (base off len f k : Nat), zeroPieces base (f + 1) off 0 = [] ∧
    (off % 16384 = 0 → 16384 ≤ len → zeroPieces base (f + 1) off len =
      (base + off / 0x100000, off % 0x100000 / 16384, 4) :: zeroPieces base f (off + 16384) (len - 16384)) ∧
    (0 < len → off % 16384 ≠ 0 ∨ len < 16384 → zeroPieces base (f + 1) off len =
      (base + off / 0x100000, off % 0x100000 / 4096, 3) :: zeroPieces base f (off + 4096) (len - 4096)) ∧
    (∀ x : Pool, off % 16384 = 0 → 16384 ≤ len → promoted x (x.line (base + off / 0x100000)) = false → blockPieces x base (f + 1) off k len =
      (base + off / 0x100000, off % 0x100000 / 16384, 1, k, 16384) :: blockPieces x base f (off + 16384) (k + 16384) (len - 16384)) ∧
    (∀ x : Pool, 0 < len → off % 16384 ≠ 0 ∨ len < 16384 ∨ promoted x (x.line (base + off / 0x100000)) = true → blockPieces x base (f + 1) off k len =
      (base + off / 0x100000, off % 0x100000 / 4096, 0, k, 4096) :: blockPieces x base f (off + 4096) (k + 4096) (len - 4096))) ∧
  (∀ (s u v : State) (n p : Nat) (marks : List (Nat × Nat × Nat × Nat)) (c : HCmd) (ns : Ns) (a b : List (Nat × Nat × Nat)), s.runCmd n [.copy] = some c → c.cap.op = .copy →
    s.parked c = false → s.serves c = true → s.nsPool c.cap.nsid = some p → Tbl.find (s.pool p).nss c.cap.nsid = some ns →
    a = pitchesOf ns.base (c.cap.ranges.headD (0, 0)).1 c.cap.len → b = pitchesOf ns.base c.cap.start c.cap.len →
    (s.needPages p c.climb (writePages (s.pool p) ((a ++ b).map Prod.fst)) = (true, u) → gives (.copy n marks) s u) ∧
    (s.needPages p c.climb (writePages (s.pool p) ((a ++ b).map Prod.fst)) = (false, u) →
      (∀ d, u.fetchPlaces n c p none a marks = (some d, v) → gives (.copy n marks) s (writeBlock u v n c p c.cap.start d marks)) ∧
      (u.fetchPlaces n c p none a marks = (none, v) → gives (.copy n marks) s v))) ∧
  (∀ (s u : State) (n p : Nat) (c : HCmd) (o : Obj), s.runCmd n [.delete] = some c → c.cap.op = .delete → s.parked c = false → s.serves c = true → s.nsPool c.cap.nsid = some p →
    (s.objOf p none c.cap.nsid c.cap.key = none → s.needPages p c.climb (keyPages (s.pool p) none c.cap.nsid c.cap.key false) = (false, u) →
      gives (.delete n) s (u.finishCmd n (ofNvme 0 0x87 true) 0 0)) ∧
    (s.objOf p none c.cap.nsid c.cap.key = some o →
      s.needPages p c.climb (keyPages (s.pool p) none c.cap.nsid c.cap.key true
        ++ writePages (s.pool p) ((List.range (ceilDiv o.len 0x100000)).map (fun i => o.base + i))).eraseDups = (false, u) →
      gives (.delete n) s (issueHost u u n (mkPlan p c.cap.nsid [] (some (c.cap.key, o.len, o.base)) true)))) ∧
  (∀ (s u v : State) (n need : Nat) (w : WPlan), need = (if (s.pool w.pool).fill = 1 then s.budgetOf w.pool w.items else 0) →
    u = s.updPool w.pool (fun x => { x with budget := x.budget - need }) → v = u.heatUp w.pool w.items →
    ((s.pool w.pool).budget < need → ∀ before, issueHost before s n w = before) ∧
    (need ≤ (s.pool w.pool).budget → ∀ before t ok, v.issuePlan n (v.cmdRidge n) w = (t, ok) → issueHost before s n w =
      (if ok = true then t else if (v.pool w.pool).ckpt.cutting = true then before else (before.keepSeals t w.pool).waitUnit w.pool n)))

/-- R369 to R379, R393 and R396 to R401. What the spec leaves open in them is as log entries 46, 54, 99 and 102 say (the model's
reading or choice). -/
def Obligations.PortsAndConnections : Prop :=
  (∀ (s : State) (p i : Nat) (x : SubPort), x = s.subPort p i →
    (x.up = true ∨ s.subOn p i = false ∨ s.pwr.mode < 4 ∨ 10 < s.pwr.mode → gives (.subportLinkUp p i) s s) ∧
    (x.up = false → s.subOn p i = true → 4 ≤ s.pwr.mode → s.pwr.mode ≤ 10 → gives (.subportLinkUp p i) s
      ((s.setSub p i { x with up := true, speed := 800 / 2 ^ s.regBits (hifBlk p) 1 2 }).raise (hifBlk p + 0x10) (2 ^ 1))) ∧
    (x.up = true → gives (.subportLinkDown p i) s ((s.setSub p i { x with up := false, downAt := s.time }).raise (hifBlk p + 0x10) (2 ^ 0))) ∧
    (x.up = false → (s.time - x.downAt).toNat ≤ 200000000 → gives (.subportLinkDown p i) s s) ∧
    (x.up = false → 200000000 < (s.time - x.downAt).toNat →
      gives (.subportLinkDown p i) s (s.loseQueues (fun q => decide (q.port = p ∧ q.sub = i))))) ∧
  (∀ (s : State) (core p : Nat) (v : W64), s.gate (0x20 + core % 4) (hifBlk p) 8 true = .open →
    (bit (s.regBits (hifBlk p) 0 19) 0 = true → bits (v.toNat % 2 ^ 19) 1 10 ≠ bits (s.regBits (hifBlk p) 0 19) 1 10 →
      gives (.hifConfigWrite core p v) s (s.raise (hifBlk p + 0x10) (2 ^ 9))) ∧
    (bit (s.regBits (hifBlk p) 0 19) 0 = false → gives (.hifConfigWrite core p v) s (s.setReg (hifBlk p) (BitVec.ofNat 64 (v.toNat % 2 ^ 19)))) ∧
    (bit (s.regBits (hifBlk p) 0 19) 0 = true → bits (v.toNat % 2 ^ 19) 1 10 = bits (s.regBits (hifBlk p) 0 19) 1 10 → bit (v.toNat % 2 ^ 19) 0 = false →
      gives (.hifConfigWrite core p v) s ((s.setReg (hifBlk p) (BitVec.ofNat 64 (v.toNat % 2 ^ 19))).loseQueues (fun q => decide (q.port = p))))) ∧
  (∀ (s : State) (p i sci an pn : Nat) (ok : Bool) (x : SubPort), x = s.subPort p i →
    gives (.macsecFrame p i sci an pn false ok) s s ∧
    ((∀ a ∈ x.sas, ¬ (a.tx = false ∧ a.sci = sci ∧ a.an = an % 4)) →
      gives (.macsecFrame p i sci an pn true ok) s ((s.bump (hifBlk p + 0x58) 48 16 1).raise (hifBlk p + 0x10) (2 ^ 2))) ∧
    (∀ a, x.sas = [a] → a.tx = false → a.sci = sci → a.an = an % 4 →
      (pn < a.pn → gives (.macsecFrame p i sci an pn true ok) s ((s.bump (hifBlk p + 0x58) 32 16 1).raise (hifBlk p + 0x10) (2 ^ 2))) ∧
      (a.pn ≤ pn → ok = false → gives (.macsecFrame p i sci an pn true ok) s ((s.bump (hifBlk p + 0x58) 0 32 1).raise (hifBlk p + 0x10) (2 ^ 2))) ∧
      (a.pn ≤ pn → ok = true → gives (.macsecFrame p i sci an pn true ok) s (s.setSub p i { x with
        sas := [{ a with pn := max a.pn (pn + 1 - (if x.entry = [] then 64 else fieldAt x.entry 8 4)) }] })))) ∧
  (∀ (s : State) (p i sci an : Nat) (key : Bytes) (x : SubPort), x = s.subPort p i → key.length = 32 →
    (∀ tx sv, x.mka = false ∨ (sv = true ∧ s.wdn.trngOk = false) → gives (.mkaSakInstall p i tx sci an key sv) s s) ∧
    (x.mka = true → x.sas = [] →
      gives (.mkaSakInstall p i true sci an key false) s (s.setSub p i { x with
        sas := [{ tx := true, sci := sci, an := an % 4, key := key, pn := 1 }], inUse := some (an % 4) }) ∧
      gives (.mkaSakInstall p i false sci an key false) s (s.setSub p i { x with sas := [{ tx := false, sci := sci, an := an % 4, key := key, pn := 1 }] }) ∧
      (s.wdn.trngOk = true → ∃ t k, gives (.mkaSakInstall p i true sci an key true) s t ∧ (k : Bytes).length = 32 ∧
        (t.subPort p i).sas = [{ tx := true, sci := sci, an := an % 4, key := k, pn := 1 }]))) ∧
  (∀ (s : State) (p i cid qid depth grant kato : Nat) (nqn sub : Bytes) (rdma hd dd : Bool) (i' : Instr), i' = .connect p i cid qid depth nqn sub rdma hd dd grant kato →
    (s.carries p i = false → gives i' s s) ∧
    (s.carries p i = true →
      (s.hostEntry nqn = none → gives i' s (s.emit (.connectReply p i cid qid (stField (ofNvme 1 0x84 true))))) ∧
      (∀ h, s.hostEntry nqn = some h →
        (bit h.flags 0 = false → gives i' s (s.emit (.connectReply p i cid qid (stField (ofNvme 1 0x84 true))))) ∧
        (bit h.flags 0 = true → sub ≠ s.host.nqn → gives i' s (s.emit (.connectReply p i cid qid (stField (ofNvme 1 0x82 true))))) ∧
        (bit h.flags 0 = true → sub = s.host.nqn →
          (qid = 0 → depth < 1 ∨ 32 < depth → gives i' s (s.emit (.connectReply p i cid qid (stField (ofNvme 1 0x82 true))))) ∧
          (qid = 0 → 1 ≤ depth → depth ≤ 32 → Tbl.firstFree s.host.ctrls s.ctrlBase 1024 = none →
            gives i' s (s.emit (.connectReply p i cid qid (stField (ofNvme 1 0x81 true))))) ∧
          (∀ id, qid = 0 → 1 ≤ depth → depth ≤ 32 → Tbl.firstFree s.host.ctrls s.ctrlBase 1024 = some id → ∃ t k q, gives i' s t ∧
            Tbl.find t.host.ctrls id = some k ∧ k.nqn = nqn ∧ k.port = p ∧ k.sub = i ∧ t.hqueue (65536 + id) = some q ∧ q.depth = depth ∧ q.sqhd = 0 ∧
            q.cntlid = id ∧ q.qid = 0 ∧ q.authed = !bit h.flags 1 ∧ q.kato = kato ∧ t.out = s.out ++ [.connectReply p i id 0 0]) ∧
          (qid ≠ 0 → Tbl.find s.host.ctrls cid = none → gives i' s (s.emit (.connectReply p i cid qid (stField (ofNvme 1 0x82 true))))) ∧
          (∀ k n, qid ≠ 0 → Tbl.find s.host.ctrls cid = some k → Tbl.firstFree s.host.queues 0 65536 = some n →
            (128 < qid ∨ depth < 1 ∨ 4096 < depth ∨ k.nqn ≠ nqn ∨ k.port ≠ p ∨ k.sub ≠ i ∨ (∃ x ∈ s.host.queues, x.2.cntlid = cid ∧ x.2.qid = qid) →
              gives i' s (s.emit (.connectReply p i cid qid (stField (ofNvme 1 0x82 true))))) ∧
            (qid ≤ 128 → 1 ≤ depth → depth ≤ 4096 → k.nqn = nqn → k.port = p → k.sub = i → (∀ x ∈ s.host.queues, ¬ (x.2.cntlid = cid ∧ x.2.qid = qid)) →
              ∃ t q, gives i' s t ∧ t.hqueue n = some q ∧ q.port = p ∧ q.sub = i ∧ q.rdma = rdma ∧ q.depth = depth ∧ q.cntlid = cid ∧ q.qid = qid ∧
                q.ridge = s.nextRidge ∧ q.authed = !bit h.flags 1 ∧ t.host.created = s.host.created + 1 ∧ t.out = s.out ++ [.connectReply p i cid qid 0])))))) ∧
  (∀ (s : State) (n : Nat), (s.hqueue n = none → gives (.authentication n true) s s ∧ gives (.connectionLost n) s s ∧ gives (.termReq n) s s ∧ gives (.cqtExpiry n) s s) ∧
    (∀ q, s.hqueue n = some q →
      (q.lostAt.isSome = true → gives (.authentication n true) s s ∧ gives (.authentication n false) s s ∧ gives (.connectionLost n) s s ∧ gives (.termReq n) s s) ∧
      (q.lostAt = none → gives (.authentication n true) s (s.setQueue n { q with authed := true, heardAt := s.time }) ∧
        gives (.connectionLost n) s (s.loseQueue n) ∧
        gives (.termReq n) s (((s.bump (hifBlk q.port + 0x60) 32 32 1).raise (hifBlk q.port + 0x10) (2 ^ 6)).loseQueue n) ∧
        (∀ k, Tbl.find s.host.ctrls q.cntlid = some k → gives (.authentication n false) s
          (((s.raise (hifBlk q.port + 0x10) (2 ^ 8)).book 0x20 0x045 (k.nqn.take 223)).loseQueue n)) ∧
        gives (.cqtExpiry n) s s ∧
        (s.host.cmds = [] → ∃ t x, t = s.loseQueue n ∧ t.hqueue n = some x ∧ x.lostAt = some s.time)))) ∧
  (∀ (s : State) (n : Nat) (q : HQueue) (at' : W64), s.hqueue n = some q → q.lostAt = some at' →
    ((s.time - at').toNat < 5000000 → gives (.cqtExpiry n) s s) ∧
    (5000000 ≤ (s.time - at').toNat → s.cmdsOf n = [] →
      ∃ t, gives (.cqtExpiry n) s t ∧ t.host.queues = Tbl.del s.host.queues n ∧
        t.host.ctrls = (if (Tbl.del s.host.queues n).any (fun x => decide (x.2.cntlid = q.cntlid)) then s.host.ctrls else Tbl.del s.host.ctrls q.cntlid))) ∧
  (∀ (s : State) (cid : Nat), ((∀ q ∈ s.host.queues, ¬ (q.2.cntlid = cid ∧ q.2.qid = 0 ∧ q.2.lostAt = none)) → gives (.keepAliveExpiry cid) s s) ∧
    (∀ n q, s.host.queues = [(n, q)] → q.cntlid = cid → q.qid = 0 → q.lostAt = none →
      (q.kato = 0 ∨ s.time.toNat < q.heardAt.toNat + ceilDiv q.kato 100 * 10000000 → gives (.keepAliveExpiry cid) s s) ∧
      (q.kato ≠ 0 → q.heardAt.toNat + ceilDiv q.kato 100 * 10000000 ≤ s.time.toNat →
        gives (.keepAliveExpiry cid) s (s.loseQueues (fun q => decide (q.cntlid = cid)))))) ∧
  (∀ (s u : State) (call port br en : Nat) (c : Call) (d : Bytes), s.libCall call 80 = some c → port = callArg c.entry 0 → br = callArg c.entry 1 → en = callArg c.entry 2 →
    d = s.paramBytes c → u = { s with freeCtr := s.freeCtr + 1 } →
    (8 ≤ port ∨ 3 < br ∨ 2 ^ 2 ^ br ≤ en ∨ s.hifPresent port = false ∨ callPlen c.entry ≠ 96 * popcount en →
      ∃ v, gives (.portConfig call) s (u.libExit call 0x70 v)) ∧
    (port < 8 → br ≤ 3 → en < 2 ^ 2 ^ br → s.hifPresent port = true → callPlen c.entry = 96 * popcount en → (portEntries d).length = popcount en →
      (portEntries d).all (portEntryOk en (2 ^ br)) = true → ((portEntries d).map (fun e => fieldAt e 0 1)).eraseDups.length = (portEntries d).length →
      (s.regBit (hifBlk port) 0 = true → s.regBits (hifBlk port) 1 2 ≠ br → ∃ v, gives (.portConfig call) s (u.libExit call 0x71 v)) ∧
      (s.regBit (hifBlk port) 0 = false ∨ s.regBits (hifBlk port) 1 2 = br → ∃ (t : State) (v : Nat), gives (.portConfig call) s ({ t with freeCtr := t.freeCtr + 1 }.libExit call 0 v) ∧
        t.reg (hifBlk port) = BitVec.ofNat 64 (1 + br * 2 + en * 8 + sumBy (fun e => b2n (bit (fieldAt e 1 1) 2) * 2 ^ fieldAt e 0 1) (portEntries d) * 2 ^ 11) ∧
        (∀ e ∈ portEntries d, (t.subPort port (fieldAt e 0 1)).entry = e)))) ∧
  (∀ (s u : State) (call port i : Nat) (c : Call), s.libCall call 81 = some c → port = callArg c.entry 0 → i = callArg c.entry 1 → u = { s with freeCtr := s.freeCtr + 1 } →
    (8 ≤ port ∨ 8 ≤ i ∨ s.hifPresent port = false ∨ callPlen c.entry ≠ 64 → ∃ v, gives (.macsecCak call) s (u.libExit call 0x70 v)) ∧
    (port < 8 → i < 8 → s.hifPresent port = true → callPlen c.entry = 64 →
      (s.ladderServes false = false → ∃ w v, w = s.raise rWdnEvents 2 ∧ gives (.macsecCak call) s ({ w with freeCtr := s.freeCtr + 1 }.libExit call 0x81 v)) ∧
      (s.ladderServes false = true → ∃ (t : State) (v : Nat), gives (.macsecCak call) s ({ t with freeCtr := t.freeCtr + 1 }.libExit call 0 v) ∧
        t.areaKey 6 (8 * port + i) = some (s.paramBytes c) ∧ t.subPort port i = { s.subPort port i with mka := true }))) ∧
  (∀ (s u : State) (call : Nat) (c : Call) (d nqn : Bytes), s.libCall call 82 = some c → d = s.paramBytes c → nqn = trimZ (d.take 256) → u = { s with freeCtr := s.freeCtr + 1 } →
    (callPlen c.entry ≠ 512 ∨ nqn = [] ∨ 7 < fieldAt d 0x100 4 ∨ 3 < fieldAt d 0x104 1 ∨ 6 < fieldAt d 0x105 1 → ∃ v, gives (.hostSet call) s (u.libExit call 0x70 v)) ∧
    (callPlen c.entry = 512 → nqn ≠ [] → fieldAt d 0x100 4 ≤ 7 → fieldAt d 0x104 1 ≤ 3 → fieldAt d 0x105 1 ≤ 6 →
      (bit (fieldAt d 0x100 4) 2 = true → ∃ (t : State) (v : Nat), gives (.hostSet call) s ({ t with freeCtr := t.freeCtr + 1 }.libExit call 0 v) ∧
        t = { s with host := { s.host with hosts := s.host.hosts.filter (fun h => decide (h.nqn ≠ nqn)) } }.delAreaKey 7 (s.hostIndex nqn)) ∧
      (bit (fieldAt d 0x100 4) 2 = false → 4096 ≤ (s.host.hosts.filter (fun h => decide (h.nqn ≠ nqn))).length → ∃ v, gives (.hostSet call) s (u.libExit call 0x72 v)) ∧
      (bit (fieldAt d 0x100 4) 2 = false → (s.host.hosts.filter (fun h => decide (h.nqn ≠ nqn))).length < 4096 → s.ladderServes false = false → ∃ w v,
        w = s.raise rWdnEvents 2 ∧ gives (.hostSet call) s ({ w with freeCtr := s.freeCtr + 1 }.libExit call 0x81 v)) ∧
      (bit (fieldAt d 0x100 4) 2 = false → (s.host.hosts.filter (fun h => decide (h.nqn ≠ nqn))).length < 4096 → s.ladderServes false = true → ∃ (t : State) (v : Nat) (h : HostEntry),
        gives (.hostSet call) s ({ t with freeCtr := t.freeCtr + 1 }.libExit call 0 v) ∧ t.hostEntry nqn = some h ∧ h.flags = fieldAt d 0x100 4 ∧
        h.hash = fieldAt d 0x104 1 ∧ h.dh = fieldAt d 0x105 1 ∧ h.secret = sliceAt d 0x108 64 ∧ h.idx = s.hostIndex nqn ∧ t.areaKey 7 h.idx = some h.secret))) ∧
  (∀ (s u : State) (call : Nat) (c : Call) (nqn : Bytes), s.libCall call 83 = some c → nqn = trimZ (s.paramBytes c) → u = { s with freeCtr := s.freeCtr + 1 } →
    (callPlen c.entry ≠ 256 ∨ nqn = [] → ∃ v, gives (.subsystemSet call) s (u.libExit call 0x70 v)) ∧
    (callPlen c.entry = 256 → nqn ≠ [] → ∃ v, gives (.subsystemSet call) s ({ u with host := { u.host with nqn := nqn } }.libExit call 0 v))) ∧
  (∀ (s u : State) (call port n : Nat) (c : Call) (recs : List Bytes), s.libCall call 84 = some c → port = callArg c.entry 0 → u = { s with freeCtr := s.freeCtr + 1 } →
    (8 ≤ port ∨ s.hifPresent port = false → ∃ v, gives (.portStatus call) s (u.libExit call 0x70 v)) ∧
    (port < 8 → s.hifPresent port = true → recs = (List.range (2 ^ s.regBits (hifBlk port) 1 2)).map (fun i =>
      leBytes 1 port ++ leBytes 1 i ++ leBytes 2 (b2n (s.subPort port i).up + 2 * b2n (s.secure port i)) ++ leBytes 2 (if (s.subPort port i).up then (s.subPort port i).speed else 0)
        ++ zeros 2 ++ leBytes 4 (s.host.ctrls.filter (fun k => decide (k.2.port = port ∧ k.2.sub = i))).length
        ++ leBytes 4 (s.host.queues.filter (fun q => decide (q.2.port = port ∧ q.2.sub = i))).length ++ leBytes 8 (s.subPort port i).rxBytes.toNat
        ++ leBytes 8 (s.subPort port i).txBytes.toNat) → n = min recs.length (callPlen c.entry / 32) →
      gives (.portStatus call) s ((s.setParam c ((recs.take n).flatMap id)).libExit call 0 n)))

/-- R384 to R394 with R43, R93, R309, R376 and R383. What the spec leaves open in them is as log entries 40, 51, 52 and 86 say
(the model's reading or choice). -/
def Obligations.CapsulesAndHostData : Prop :=
  (∀ (s : State) (n : Nat) (cap : Capsule) (q : HQueue), (s.hqueue n = none → gives (.capsuleArrival n cap) s s) ∧
    (s.hqueue n = some q →
      (q.lostAt.isSome = true ∨ s.carries q.port q.sub = false → gives (.capsuleArrival n cap) s s) ∧
      (∀ f, q.lostAt = none → s.carries q.port q.sub = true → cap.badAt = some f → gives (.capsuleArrival n cap) s (s.fatal n q.port 0x01 f)) ∧
      (q.lostAt = none → s.carries q.port q.sub = true → cap.badAt = none → q.hdgst = true → cap.hdgstOk = false →
        gives (.capsuleArrival n cap) s ((s.bump (hifBlk q.port + 0x68) 0 32 1).fatal n q.port 0x03 0)) ∧
      (q.lostAt = none → s.carries q.port q.sub = true → cap.badAt = none → q.hdgst = false ∨ cap.hdgstOk = true →
        (8192 < (cap.inline.getD []).length ∨ 8256 < cap.bytes → gives (.capsuleArrival n cap) s (s.fatal n q.port 0x05 0)) ∧
        ((cap.inline.getD []).length ≤ 8192 → cap.bytes ≤ 8256 → s.intakeFree q.port < 8256 →
          ((∀ x ∈ s.host.queues, x.2.port = q.port → x.2.stopped = false) →
            gives (.capsuleArrival n cap) s ((s.setQueue n { q with stopped := true }).raise (hifBlk q.port + 0x10) (2 ^ 3))) ∧
          ((∃ x ∈ s.host.queues, x.2.port = q.port ∧ x.2.stopped = true) → gives (.capsuleArrival n cap) s (s.setQueue n { q with stopped := true }))) ∧
        ((cap.inline.getD []).length ≤ 8192 → cap.bytes ≤ 8256 → 8256 ≤ s.intakeFree q.port → ∃ t c, gives (.capsuleArrival n cap) s t ∧
          t.hcmd (Tbl.next s.host.cmds) = some c ∧ c.queue = n ∧ c.cap = cap ∧ c.phase = .intake ∧ c.data = [] ∧
          c.snap = (match Tbl.find s.allNs cap.nsid with | some (_, ns) => ns.snap | none => none) ∧
          (∀ k, k ≠ Tbl.next s.host.cmds → Tbl.sorted s.host.cmds = true → t.hcmd k = s.hcmd k) ∧ t.host.locks = s.host.locks ∧ t.mem = s.mem)))) ∧
  (∀ (s : State) (n m : Nat) (q : HQueue) (c : HCmd), s.hqueue n = some q → (s.cmdsOf n).find? (fun c => decide (c.2.phase = .intake)) = some (m, c) →
    (q.lostAt.isSome = true → gives (.capsuleTaken n) s s) ∧
    (q.lostAt = none → q.authed = false → gives (.capsuleTaken n) s (s.refuseCap m n q c (ofNvme 1 0x91 true))) ∧
    (q.lostAt = none → q.authed = true → q.qid ≠ 0 → c.cap.op ≠ .flush →
      (Tbl.find s.allNs c.cap.nsid = none → gives (.capsuleTaken n) s (s.refuseCap m n q c (ofNvme 0 0x0B true))) ∧
      (∀ p ns, Tbl.find s.allNs c.cap.nsid = some (p, ns) →
        (ns.deleting = true → gives (.capsuleTaken n) s (s.refuseCap m n q c (ofNvme 0 0x0B true))) ∧
        (ns.deleting = false → s.wayOf p = .held → gives (.capsuleTaken n) s s) ∧
        (∀ st, ns.deleting = false → s.wayOf p = .refuse st → gives (.capsuleTaken n) s (s.refuseCap m n q c st)) ∧
        (∀ st, ns.deleting = false → s.wayOf p = .serve p → capStatus c.cap ns (s.pool p).fill = some st → st ≠ stTransient →
          gives (.capsuleTaken n) s (s.refuseCap m n q c st)) ∧
        (ns.deleting = false → s.wayOf p = .serve p → capStatus c.cap ns (s.pool p).fill = none → s.lockRoom (locksOf m c.cap false).length = true →
          (s.hostClimb q.ridge m = none → gives (.capsuleTaken n) s (s.raise (climbBlk q.ridge + 0x10) 2)) ∧
          (∀ k u, s.hostClimb q.ridge m = some (k, u) → ∃ t, gives (.capsuleTaken n) s t ∧
            t.host.locks = s.host.locks ++ (locksOf m c.cap false).map (fun l => { l with granted := !s.host.locks.any (fun o => lockConflict o l) }) ∧
            t.hcmd m = some { c with climb := some k, phase := if t.allGranted m then .running else .taken, since := s.time } ∧
            (∃ x, t.hqueue n = some x ∧ x.sqhd = (q.sqhd + 1) % max 1 q.depth))) ∧
        (ns.deleting = false → s.wayOf p = .serve p → capStatus c.cap ns (s.pool p).fill = none → s.lockRoom (locksOf m c.cap false).length = false → c.stalled = true →
          gives (.capsuleTaken n) s (s.raise (hifBlk q.port + 0x10) (2 ^ 4))) ∧
        (ns.deleting = false → s.wayOf p = .forward → capStatus c.cap ns (s.pool p).fill = none → s.lockRoom 0 = true →
          ∀ k u, s.hostClimb q.ridge m = some (k, u) → ∃ t, gives (.capsuleTaken n) s t ∧ t.host.locks = s.host.locks))) ∧
    (q.lostAt = none → q.authed = true → q.qid = 0 → c.cap.op = .abort →
      (s.host.cmds.filter (fun d => decide (d.2.cap.op = .abort ∧ d.2.phase ≠ .intake))).length < 4 →
      gives (.capsuleTaken n) s ((s.takenOff n q).setCmd m { c with phase := .running })) ∧
    (∀ d, q.lostAt = none → q.authed = true → q.qid = 0 → c.cap.op = .other 2 → s.logPage q.cntlid c.cap.lid = some d →
      gives (.capsuleTaken n) s (s.refuseCap m n q { c with rdata := sliceAt (padTo (c.cap.start + c.cap.len) d) c.cap.start c.cap.len } stOk)) ∧
    (q.lostAt = none → q.authed = true → q.qid = 0 → c.cap.op ≠ .abort → c.cap.op ≠ .other 2 ∨ s.logPage q.cntlid c.cap.lid = none → ∃ st u, u = { s with freeCtr := s.freeCtr + 1 } ∧
      gives (.capsuleTaken n) s ((u : State).refuseCap m n q c st))) ∧
  (∀ (s : State) (p : Nat), (bit s.pair.holdPools p = true → s.wayOf p = .held) ∧ (bit s.pair.holdPools p = false →
    ((Tbl.find s.pair.moves p).isSome = true → s.wayOf p = .refuse stTransition) ∧
    (Tbl.find s.pair.moves p = none → (s.owns p = true → s.wayOf p = .serve p) ∧
      (s.owns p = false → bit s.shadowMask p = true → s.rope.degraded = false → s.rope.linkUp = true → s.wayOf p = .forward) ∧
      (s.owns p = false → bit s.shadowMask p = false ∨ s.rope.degraded = true ∨ s.rope.linkUp = false → s.wayOf p = .refuse stInaccessible)))) ∧
  (∀ (s : State) (n : Nat), s.hqueue n = none ∨ (∀ c ∈ s.cmdsOf n, c.2.phase ≠ .intake) → gives (.capsuleTaken n) s s) ∧
  (∀ (s : State) (n : Nat) (l : Lock), s.host.locks = [l] → l.cmd = some n → l.granted = false → ∀ c, s.hcmd n = some c → c.phase = .taken →
    gives (.rangeLockGrant n) s ({ s with host := { s.host with locks := [{ l with granted := true }] } }.setCmd n { c with phase := .running, since := s.time })) ∧
  (∀ (s : State) (n : Nat) (a b : Lock), s.host.locks = [a, b] → a.cmd ≠ some n → b.cmd = some n → b.granted = false →
    (lockConflict a b = true → gives (.rangeLockGrant n) s s) ∧
    (∀ c, lockConflict a b = false → s.hcmd n = some c → c.phase = .taken →
      gives (.rangeLockGrant n) s ({ s with host := { s.host with locks := [a, { b with granted := true }] } }.setCmd n { c with phase := .running, since := s.time }))) ∧
  (∀ (s u : State) (n : Nat) (d : Pdu) (q : HQueue), s.hqueue n = some q → u = s.setQueue n { q with heardAt := s.time } →
    (q.lostAt.isSome = true ∨ s.carries q.port q.sub = false → gives (.h2cdata n d) s s) ∧
    (q.lostAt = none → s.carries q.port q.sub = true →
      (∀ f, d.badAt = some f → gives (.h2cdata n d) s (u.fatal n q.port 0x01 f)) ∧
      (d.badAt = none → q.hdgst = true → d.hdgstOk = false → gives (.h2cdata n d) s ((u.bump (hifBlk q.port + 0x68) 0 32 1).fatal n q.port 0x03 0)) ∧
      (d.badAt = none → q.hdgst = false ∨ d.hdgstOk = true →
        (u.ttagOf n d.ttag = none → gives (.h2cdata n d) s (u.fatal n q.port 0x02 0)) ∧
        (∀ m y, u.ttagOf n d.ttag = some (m, y) →
          (d.off ≠ y.next → gives (.h2cdata n d) s (u.fatal n q.port 0x02 0)) ∧
          (d.off = y.next → y.off + y.len < d.off + d.data.length → gives (.h2cdata n d) s (u.fatal n q.port 0x04 0)) ∧
          (d.off = y.next → d.off + d.data.length ≤ y.off + y.len →
            (d.last ≠ decide (d.off + d.data.length = y.off + y.len) → gives (.h2cdata n d) s (u.fatal n q.port 0x02 0)) ∧
            (∀ v, d.last = decide (d.off + d.data.length = y.off + y.len) → v = u.rxBytes q.port q.sub d.data.length →
              (y.drop = true → gives (.h2cdata n d) s (v.dropData m y d.data.length)) ∧
              (y.drop = false → q.ddgst = true → d.ddgstOk = false → gives (.h2cdata n d) s
                (((v.bump (hifBlk q.port + 0x68) 32 32 1).digestFail m y).dropData m { y with drop := true } d.data.length)) ∧
              (y.drop = false → q.ddgst = false ∨ d.ddgstOk = true → gives (.h2cdata n d) s (v.placeData m y d.data))))))) ∧
    (∀ p a b, (s.fatal n p a b) = (if q.rdma then s.loseQueue n
      else (((s.emit (.termReq n a b)).bump (hifBlk p + 0x60) 0 32 1).raise (hifBlk p + 0x10) (2 ^ 5)).loseQueue n))) ∧
  (∀ (s : State) (n m k : Nat) (j : Job) (c : HCmd), jobOp j < 3 → s.startable n 8 (fun o => decide (o = jobOp j)) = some j →
    (s.jobCmd j = none → (jobOp j = 0 → gives (.hifReceive n) s (s.finish n j 1 0)) ∧ (jobOp j = 1 → gives (.hifTransmit n) s (s.finish n j 1 0)) ∧
      (jobOp j = 2 → gives (.hifComplete n) s (s.finish n j 1 0))) ∧
    (s.jobCmd j = some (m, c) →
      (c.lost = true → (jobOp j = 0 → gives (.hifReceive n) s (s.finish n j 0x10 0)) ∧ (jobOp j = 1 → gives (.hifTransmit n) s (s.finish n j 0x10 0)) ∧
        (jobOp j = 2 → gives (.hifComplete n) s (s.finish n j 0x10 0))) ∧
      (c.lost = false → jobOp j = 0 →
        (c.fail ≠ none → gives (.hifReceive n) s (s.finish n j 0x12 0)) ∧
        (c.fail = none → (∀ x ∈ c.xrdys, x.job ≠ some n) → takesData c.cap.op = false ∨ c.cap.len < (hifRange j).1 + (hifRange j).2 ∨ 0x100000 < (hifRange j).2 ∨
            (∃ r ∈ c.ranges, (hifRange j).1 < r.1 + r.2 ∧ r.1 < (hifRange j).1 + (hifRange j).2) → gives (.hifReceive n) s (s.finish n j 1 0)) ∧
        (c.fail = none → (∀ x ∈ c.xrdys, x.job ≠ some n) → takesData c.cap.op = true → (hifRange j).1 + (hifRange j).2 ≤ c.cap.len → (hifRange j).2 ≤ 0x100000 →
          (∀ r ∈ c.ranges, ¬ ((hifRange j).1 < r.1 + r.2 ∧ r.1 < (hifRange j).1 + (hifRange j).2)) →
          (∀ d, c.cap.inline = some d → gives (.hifReceive n) s
            (((s.setCmd m { c with ranges := c.ranges ++ [hifRange j] }).hWrite j.ridge (jh j 0) 0 (sliceAt d (hifRange j).1 (hifRange j).2)).finish n j 0 (hifRange j).2)) ∧
          (∀ q, c.cap.inline = none → s.hqueue c.queue = some q → (xrdyMax q ≤ c.xrdys.length → gives (.hifReceive n) s s) ∧
            (c.xrdys.length < xrdyMax q → s.jobs = [(n, j)] →
              gives (.hifReceive n) s (s.sendXrdy m q c (some n) (jh j 0) (hifRange j).1 (hifRange j).2))))) ∧
      (c.lost = false → jobOp j = 1 →
        (givesData c.cap.op = false ∨ c.cap.len < (hifRange j).1 + (hifRange j).2 ∨ hLen (jh j 0) < (hifRange j).2 → gives (.hifTransmit n) s (s.finish n j 1 0)) ∧
        (∀ q, givesData c.cap.op = true → (hifRange j).1 + (hifRange j).2 ≤ c.cap.len → (hifRange j).2 ≤ hLen (jh j 0) → s.hqueue c.queue = some q →
          gives (.hifTransmit n) s (((s.txBytes q.port q.sub (hifRange j).2).emit
            (.hostData c.queue c.cap.cid (hifRange j).1 (s.rdBytes (s.hAddr j.ridge (jh j 0)) (hifRange j).2))).finish n j 0 (hifRange j).2))) ∧
      (c.lost = false → jobOp j = 2 → (c.completed = true → gives (.hifComplete n) s (s.finish n j 1 0)) ∧
        (c.completed = false → k = fieldAt j.desc 2 2 → gives (.hifComplete n) s
          (((s.setCmd m { c with completed := true }).complete m { sct := bits k 8 3, sc := bits k 0 8, dnr := bit k 14, crd := bits k 11 2, more := bit k 13 } (fieldAt j.desc 0x10 4) (fieldAt j.desc 0x14 4)).finish n j 0 0)))))

/-- R376. -/
def Obligations.AbortAbortsNothing : Prop :=
  ∀ (s : State) (n : Nat) (c : HCmd) (q : HQueue), s.runCmd n [.abort] = some c → c.climb = none → c.fwd = none → c.lost = false → c.rdata = [] →
    s.outputsHeld c = false → Tbl.find s.host.queues c.queue = some q → s.pair.solo = true → s.pair.joining = false → Tbl.sorted s.host.cmds = true →
    ∃ t, gives (.abort n) s t ∧ t.out = s.out ++ [.nvme c.queue c.cap.cid (q.heldSqhd.getD q.sqhd) 0 1 0] ∧ t.hcmd n = none ∧
      (∀ k, k ≠ n → t.hcmd k = s.hcmd k) ∧ t.host.locks = s.host.locks.filter (fun l => decide (l.cmd ≠ some n)) ∧
      t.pools = s.pools ∧ t.mem = s.mem ∧ t.regs = s.regs ∧ t.climbs = s.climbs ∧ t.jobs = s.jobs

/-- The queue of commands (log entry 1: the model's choice). -/
def Obligations.StepRunsTheFrontCommand : Prop :=
  (∀ (s : State) (c : Instr) (r : List Instr), step { s with pending := c :: r } = exec c { s with pending := r }) ∧
  (∀ (s t : State) (c : Instr) (r : List Instr), s.pending = c :: r → gives c { s with pending := r } t → step s = .next t) ∧
  (∀ (s : State), s.pending = [] → step s = .next s)

/-- Reset values that the spec gives (R4 and the register tables). -/
def Obligations.ResetLeavesTheTablesValues : Prop :=
  State.reset.pending = [] ∧ State.reset.out = [] ∧ State.reset.time = 0 ∧ State.reset.pwr.mode = 2 ∧
  State.reset.pools = [] ∧ State.reset.jobs = [] ∧ State.reset.bufs = [] ∧ State.reset.climbs = [] ∧ State.reset.modules = [] ∧
  State.reset.host.queues = [] ∧ State.reset.host.cmds = [] ∧ State.reset.host.locks = [] ∧ State.reset.pair.yielded = false ∧ State.reset.rope.linkUp = false ∧
  (∀ a, Mem.read State.reset.mem a = 0) ∧
  (∀ (off : Nat) (v : W64), (off, v) ∈ [(0x20050, 0x3000A), (0x40020, 0xA), (0x60008, 0x320000), (0x71000, 0xFF), (0xA0008, 1),
      (0xD0100, 0xFFFFFFFFFFFFFFFF), (0x100020, 0x180001), (0x400018, 0x3E80000)] → State.reset.reg off = v) ∧
  (∀ off, State.reset.reg off = BitVec.ofNat 64 (regDesc off).reset)

/-- R72 to R101: one word of each family, field by field. -/
def Obligations.SomeWordsDecode : Prop :=
  ∀ (a : Agent),
    ezDecode a (0b000001_00011_00001_00010_00000000001#32) = some (.sub a 3 1 2) ∧
    ezDecode a (0b000010_00101_00100_1111111111111111#32) = some (.addImm a 5 4 0xFFFF) ∧
    ezDecode a (0b000110_00001_00010_00000000_10_000111#32) = some (.sarImm a 1 2 7) ∧
    ezDecode a (0b001111_00111_00110_0000000000010000#32) = some (.ldD a 7 6 0x10 .none) ∧
    ezDecode a (0b010111_00001_00010_000100_000111_000_1#32) = some (.bfi a 1 2 4 7) ∧
    ezDecode a (0b011000_00001_00010_1111111111111110#32) = some (.beq a 1 2 0xFFFE) ∧
    ezDecode a (0b100000_00011_0010_0000_00000_00000_000#32) = some (.halloc a 2 3) ∧
    ezDecode a (0b100001_00010_0001_011_00100_000000001#32) = some (.send a 2 1 3 4 1) ∧
    ezDecode a (0b100010_00001_101_00000000_00000000_00#32) = some (.wait a 1 5) ∧
    ezDecode a (0b100011_00001_00010_000_0000000000_001#32) = some (.park a 1 2) ∧
    ezDecode a (0b100100_00001_00010_01_00_000000000101#32) = some (.csrw a 1 2 5) ∧
    ezDecode a (0b100101_00000_00001_0000000000101010#32) = some (.trap a 42) ∧
    ezDecode a (0b000001_00011_00001_00010_00000001111#32) = none ∧
    ezDecode a (0b000110_00001_00010_00000001_00_000111#32) = none ∧
    ezDecode a (0b111111_00000_00000_0000000000000000#32) = none

/-- R72 to R101: no bit of an encoding is dropped. -/
def Obligations.DecodeOfEncodeIsTheInstruction : Prop :=
  (∀ (a : Agent) (i : Instr) (w : BitVec 32), coreOf i = some a → i.wf = true → faultFree i = true → ezEncode i = some w → ezDecode a w = some i) ∧
  (∀ (a : Agent) (i : Instr), coreOf i = some a → (∀ w, i ≠ .illegalInstruction a w) → ∃ w, ezEncode i = some w)

/-- R72 to R101: every bit of a word counts. -/
def Obligations.EncodeOfDecodeIsTheWord : Prop :=
  ∀ (a : Agent) (w : BitVec 32) (i : Instr), ezDecode a w = some i →
    coreOf i = some a ∧ faultFree i = true ∧ ezEncode i = some w ∧ (a.wf = true → i.wf = true)

/-- An invariant of steps: canonical memory and registers (log entry 5). -/
def Obligations.StepsKeepCanonicalForms : Prop :=
  ∀ (s t : State) (c : Instr) (r : List Instr), s.pending = c :: r →
    ((coreOf c).isSome = true ∨ ∃ n, c ∈ [.chkContentDefined n, .chkFixed n, .digDigest n, .digChunks n, .digBegin n, .digUpdate n, .digFinal n,
      .parGeneratePq n, .parGenerateP n]) →
    formsKept s = true → step s = .next t → formsKept t = true

/-- The forms of `StepsKeepCanonicalForms` at reset (log entry 5). -/
def Obligations.ResetHasCanonicalForms : Prop := formsKept State.reset = true

/-- No command stops the block (log entry 3: open values are free values). -/
def Obligations.EveryCommandCompletes : Prop :=
  (∀ (c : Instr) (s : State), ∃ t, gives c s t) ∧ (∀ (s : State), ∃ t, step s = .next t)
end

