-- ==== Sys2Proof/Laws/Table.lean ====
section
/-! SUPPORT. The laws of tables and of memory: what a read gives after a change, and that every operation keeps the
canonical form. -/

namespace Sys2Proof.Machine

variable {α : Type}

@[simp] theorem Tbl.find_nil (k : Nat) : Tbl.find ([] : Tbl α) k = none := rfl

theorem Tbl.find_set_same (t : Tbl α) (k : Nat) (v : α) : Tbl.find (Tbl.set t k v) k = some v := by
  induction t with
  | nil => simp [Tbl.set, Tbl.find]
  | cons p t ih =>
    obtain ⟨j, w⟩ := p
    simp only [Tbl.set]
    split
    · simp [Tbl.find]
    · split
      · simp [Tbl.find]
      · rename_i h; simp [Tbl.find, ih, Ne.symm h]

theorem Tbl.find_set_other (t : Tbl α) {k i : Nat} (v : α) (h : i ≠ k) : Tbl.find (Tbl.set t k v) i = Tbl.find t i := by
  induction t with
  | nil => simp [Tbl.set, Tbl.find, Ne.symm h]
  | cons p t ih =>
    obtain ⟨j, w⟩ := p
    simp only [Tbl.set]
    split
    · simp [Tbl.find, Ne.symm h]
    · split
      · rename_i e; subst e; simp [Tbl.find, Ne.symm h]
      · simp only [Tbl.find, ih]

theorem Tbl.find_set (t : Tbl α) (k i : Nat) (v : α) : Tbl.find (Tbl.set t k v) i = if i = k then some v else Tbl.find t i := by
  split
  · rename_i h; rw [h, Tbl.find_set_same]
  · rename_i h; exact Tbl.find_set_other t v h

theorem Tbl.find_del_other (t : Tbl α) {k i : Nat} (h : i ≠ k) : Tbl.find (Tbl.del t k) i = Tbl.find t i := by
  induction t with
  | nil => rfl
  | cons p t ih =>
    obtain ⟨j, w⟩ := p
    simp only [Tbl.del]
    split
    · rename_i e; subst e; simp [Tbl.find, Ne.symm h]
    · split
      · rfl
      · simp only [Tbl.find, ih]

/-- Every key of a table lies above `k`. -/
def Tbl.above (k : Nat) (t : Tbl α) : Bool := t.all (fun p => decide (k < p.1))

theorem Tbl.sorted_cons (j : Nat) (w : α) (t : Tbl α) :
    Tbl.sorted ((j, w) :: t) = true ↔ Tbl.above j t = true ∧ Tbl.sorted t = true := by
  induction t generalizing j w with
  | nil => simp [Tbl.sorted, Tbl.above]
  | cons p t ih =>
    obtain ⟨i, x⟩ := p
    simp only [Tbl.sorted, Bool.and_eq_true, decide_eq_true_eq, ih i x]
    simp only [Tbl.above, List.all_cons, Bool.and_eq_true, decide_eq_true_eq, List.all_eq_true]
    constructor
    · rintro ⟨h, h1, h2⟩
      exact ⟨⟨h, fun q hq => lt_trans h (h1 q hq)⟩, h1, h2⟩
    · rintro ⟨⟨h, _⟩, h1, h2⟩
      exact ⟨h, h1, h2⟩

theorem Tbl.find_above {k : Nat} {t : Tbl α} (h : Tbl.above k t = true) {i : Nat} (hi : i ≤ k) : Tbl.find t i = none := by
  induction t with
  | nil => rfl
  | cons p t ih =>
    obtain ⟨j, w⟩ := p
    simp only [Tbl.above, List.all_cons, Bool.and_eq_true, decide_eq_true_eq] at h
    have hj : j ≠ i := by omega
    simp only [Tbl.find, hj, if_false]
    exact ih h.2

theorem Tbl.find_del_same {t : Tbl α} (h : Tbl.sorted t = true) (k : Nat) : Tbl.find (Tbl.del t k) k = none := by
  induction t with
  | nil => rfl
  | cons p t ih =>
    obtain ⟨j, w⟩ := p
    obtain ⟨ha, hs⟩ := (Tbl.sorted_cons j w t).1 h
    simp only [Tbl.del]
    split
    · rename_i e; subst e; exact Tbl.find_above ha le_rfl
    · split
      · rename_i hne hlt
        have : j ≠ k := by omega
        simp only [Tbl.find, this, if_false]
        exact Tbl.find_above ha (by omega)
      · rename_i hne _
        simp only [Tbl.find, Ne.symm hne, if_false]
        exact ih hs

theorem Tbl.above_set {b k : Nat} {t : Tbl α} {v : α} (hb : b < k) (h : Tbl.above b t = true) :
    Tbl.above b (Tbl.set t k v) = true := by
  induction t with
  | nil => simp [Tbl.set, Tbl.above, hb]
  | cons p t ih =>
    obtain ⟨j, w⟩ := p
    simp only [Tbl.above, List.all_cons, Bool.and_eq_true, decide_eq_true_eq] at h ih
    simp only [Tbl.set]
    split
    · simp only [Tbl.above, List.all_cons, Bool.and_eq_true, decide_eq_true_eq]; exact ⟨hb, h.1, h.2⟩
    · split
      · simp only [Tbl.above, List.all_cons, Bool.and_eq_true, decide_eq_true_eq]; exact ⟨hb, h.2⟩
      · simp only [Tbl.above, List.all_cons, Bool.and_eq_true, decide_eq_true_eq]; exact ⟨h.1, ih h.2⟩

theorem Tbl.sorted_set {t : Tbl α} (h : Tbl.sorted t = true) (k : Nat) (v : α) : Tbl.sorted (Tbl.set t k v) = true := by
  induction t with
  | nil => rfl
  | cons p t ih =>
    obtain ⟨j, w⟩ := p
    have hj := (Tbl.sorted_cons j w t).1 h
    simp only [Tbl.set]
    split
    · rename_i hlt
      refine (Tbl.sorted_cons k v _).2 ⟨?_, h⟩
      simp only [Tbl.above, List.all_cons, Bool.and_eq_true, decide_eq_true_eq, List.all_eq_true] at hj ⊢
      exact ⟨hlt, fun q hq => lt_trans hlt (hj.1 q hq)⟩
    · split
      · rename_i e; subst e; exact (Tbl.sorted_cons _ v t).2 hj
      · rename_i h1 h2
        exact (Tbl.sorted_cons j w _).2 ⟨Tbl.above_set (by omega) hj.1, ih hj.2⟩

theorem Tbl.above_del {b k : Nat} {t : Tbl α} (h : Tbl.above b t = true) : Tbl.above b (Tbl.del t k) = true := by
  induction t with
  | nil => rfl
  | cons p t ih =>
    obtain ⟨j, w⟩ := p
    simp only [Tbl.above, List.all_cons, Bool.and_eq_true, decide_eq_true_eq] at h ih
    simp only [Tbl.del]
    split
    · exact h.2
    · split
      · simp only [Tbl.above, List.all_cons, Bool.and_eq_true, decide_eq_true_eq]; exact h
      · simp only [Tbl.above, List.all_cons, Bool.and_eq_true, decide_eq_true_eq]; exact ⟨h.1, ih h.2⟩

theorem Tbl.sorted_del {t : Tbl α} (h : Tbl.sorted t = true) (k : Nat) : Tbl.sorted (Tbl.del t k) = true := by
  induction t with
  | nil => rfl
  | cons p t ih =>
    obtain ⟨j, w⟩ := p
    have hj := (Tbl.sorted_cons j w t).1 h
    simp only [Tbl.del]
    split
    · exact hj.2
    · split
      · exact h
      · exact (Tbl.sorted_cons j w _).2 ⟨Tbl.above_del hj.1, ih hj.2⟩

theorem Tbl.mem_set {t : Tbl α} {k : Nat} {v : α} {p : Nat × α} (h : p ∈ Tbl.set t k v) : p = (k, v) ∨ p ∈ t := by
  induction t with
  | nil => simpa [Tbl.set] using h
  | cons q t ih =>
    obtain ⟨j, w⟩ := q
    simp only [Tbl.set] at h
    split at h
    · simpa using h
    · split at h
      · simp only [List.mem_cons] at h ⊢; tauto
      · simp only [List.mem_cons] at h ⊢
        rcases h with h | h
        · exact .inr (.inl h)
        · rcases ih h with h | h
          · exact .inl h
          · exact .inr (.inr h)

theorem Tbl.mem_del {t : Tbl α} {k : Nat} {p : Nat × α} (h : p ∈ Tbl.del t k) : p ∈ t := by
  induction t with
  | nil => exact h
  | cons q t ih =>
    obtain ⟨j, w⟩ := q
    simp only [Tbl.del] at h
    split at h
    · exact .tail _ h
    · split at h
      · exact h
      · simp only [List.mem_cons] at h ⊢
        rcases h with h | h
        · exact .inl h
        · exact .inr (ih h)

/-! ### Memory -/

theorem Mem.wf_iff (m : Tbl Byte) : Mem.wf m = true ↔ Tbl.sorted m = true ∧ ∀ p ∈ m, p.2 ≠ 0 := by
  simp [Mem.wf, List.all_eq_true]

theorem Mem.wf_write {m : Tbl Byte} (h : Mem.wf m = true) (a : Nat) (b : Byte) : Mem.wf (Mem.write m a b) = true := by
  rw [Mem.wf_iff] at h ⊢
  unfold Mem.write
  split
  · exact ⟨Tbl.sorted_del h.1 a, fun p hp => h.2 p (Tbl.mem_del hp)⟩
  · rename_i hb
    refine ⟨Tbl.sorted_set h.1 a b, fun p hp => ?_⟩
    rcases Tbl.mem_set hp with e | e
    · rw [e]; exact hb
    · exact h.2 p e

theorem Mem.wf_writeBytes {m : Tbl Byte} (h : Mem.wf m = true) (a : Nat) (d : Bytes) :
    Mem.wf (Mem.writeBytes m a d) = true := by
  induction d generalizing m a with
  | nil => exact h
  | cons b d ih => exact ih (Mem.wf_write h a b) (a + 1)

theorem Tbl.sorted_filter {t : Tbl α} (h : Tbl.sorted t = true) (f : Nat × α → Bool) : Tbl.sorted (t.filter f) = true := by
  induction t with
  | nil => rfl
  | cons p t ih =>
    obtain ⟨j, w⟩ := p
    have hj := (Tbl.sorted_cons j w t).1 h
    rw [List.filter_cons]
    split
    · refine (Tbl.sorted_cons j w _).2 ⟨?_, ih hj.2⟩
      have := hj.1
      simp only [Tbl.above, List.all_eq_true] at this ⊢
      exact fun q hq => this q (List.mem_of_mem_filter hq)
    · exact ih hj.2

theorem Mem.wf_filter {m : Tbl Byte} (h : Mem.wf m = true) (f : Nat × Byte → Bool) : Mem.wf (m.filter f) = true := by
  rw [Mem.wf_iff] at h ⊢
  exact ⟨Tbl.sorted_filter h.1 f, fun p hp => h.2 p (List.mem_of_mem_filter hp)⟩

theorem Mem.wf_wipe {m : Tbl Byte} (h : Mem.wf m = true) (a n : Nat) : Mem.wf (Mem.wipe m a n) = true := Mem.wf_filter h _

theorem Mem.read_write_same {m : Tbl Byte} (h : Mem.wf m = true) (a : Nat) (b : Byte) : Mem.read (Mem.write m a b) a = b := by
  unfold Mem.read Tbl.getD Mem.write
  split
  · rename_i e; rw [Tbl.find_del_same ((Mem.wf_iff m).1 h).1]; exact e.symm
  · rw [Tbl.find_set_same]; rfl

theorem Mem.read_write_other (m : Tbl Byte) {a i : Nat} (b : Byte) (h : i ≠ a) :
    Mem.read (Mem.write m a b) i = Mem.read m i := by
  unfold Mem.read Tbl.getD Mem.write
  split
  · rw [Tbl.find_del_other m h]
  · rw [Tbl.find_set_other m b h]

/-- Bytes outside the written range read as before. -/
theorem Mem.read_writeBytes_other (m : Tbl Byte) (a : Nat) (d : Bytes) {i : Nat} (h : i < a ∨ a + d.length ≤ i) :
    Mem.read (Mem.writeBytes m a d) i = Mem.read m i := by
  induction d generalizing m a with
  | nil => rfl
  | cons b d ih =>
    simp only [List.length_cons] at h
    show Mem.read (Mem.writeBytes (Mem.write m a b) (a + 1) d) i = _
    rw [ih _ (a + 1) (by omega), Mem.read_write_other m b (by omega)]

/-- A written byte reads as it was written. -/
theorem Mem.read_writeBytes_same {m : Tbl Byte} (h : Mem.wf m = true) (a : Nat) (d : Bytes) {i : Nat} (hi : i < d.length) :
    Mem.read (Mem.writeBytes m a d) (a + i) = d[i] := by
  induction d generalizing m a i with
  | nil => exact absurd hi (Nat.not_lt_zero i)
  | cons b d ih =>
    show Mem.read (Mem.writeBytes (Mem.write m a b) (a + 1) d) (a + i) = _
    cases i with
    | zero =>
      rw [Mem.read_writeBytes_other _ (a + 1) d (by omega), Nat.add_zero, Mem.read_write_same h]
      rfl
    | succ i =>
      have := ih (Mem.wf_write h a b) (a + 1) (i := i) (by simpa using hi)
      rw [show a + (i + 1) = a + 1 + i by omega, this]
      rfl

end Sys2Proof.Machine
end

