-- ==== Sys2Proof/Laws/State.lean ====
section
/-! SUPPORT. One lemma per field and primitive update of the state, and what the accessors read after an update. -/

namespace Sys2Proof.Machine.State

variable (s : State)

/-! ### setReg -/

@[simp] theorem setReg_pending (off : Nat) (v : W64) : (s.setReg off v).pending = s.pending := rfl
@[simp] theorem setReg_mem (off : Nat) (v : W64) : (s.setReg off v).mem = s.mem := rfl
@[simp] theorem setReg_time (off : Nat) (v : W64) : (s.setReg off v).time = s.time := rfl
@[simp] theorem setReg_subTick (off : Nat) (v : W64) : (s.setReg off v).subTick = s.subTick := rfl
@[simp] theorem setReg_stamp (off : Nat) (v : W64) : (s.setReg off v).stamp = s.stamp := rfl
@[simp] theorem setReg_freeCtr (off : Nat) (v : W64) : (s.setReg off v).freeCtr = s.freeCtr := rfl
@[simp] theorem setReg_out (off : Nat) (v : W64) : (s.setReg off v).out = s.out := rfl
@[simp] theorem setReg_climbs (off : Nat) (v : W64) : (s.setReg off v).climbs = s.climbs := rfl
@[simp] theorem setReg_cores (off : Nat) (v : W64) : (s.setReg off v).cores = s.cores := rfl
@[simp] theorem setReg_mcores (off : Nat) (v : W64) : (s.setReg off v).mcores = s.mcores := rfl
@[simp] theorem setReg_jobs (off : Nat) (v : W64) : (s.setReg off v).jobs = s.jobs := rfl
@[simp] theorem setReg_bufs (off : Nat) (v : W64) : (s.setReg off v).bufs = s.bufs := rfl
@[simp] theorem setReg_gens (off : Nat) (v : W64) : (s.setReg off v).gens = s.gens := rfl
@[simp] theorem setReg_wipes (off : Nat) (v : W64) : (s.setReg off v).wipes = s.wipes := rfl
@[simp] theorem setReg_calls (off : Nat) (v : W64) : (s.setReg off v).calls = s.calls := rfl
@[simp] theorem setReg_internalCpl (off : Nat) (v : W64) : (s.setReg off v).internalCpl = s.internalCpl := rfl
@[simp] theorem setReg_bell (off : Nat) (v : W64) : (s.setReg off v).bell = s.bell := rfl
@[simp] theorem setReg_lopEnded (off : Nat) (v : W64) : (s.setReg off v).lopEnded = s.lopEnded := rfl
@[simp] theorem setReg_sbk (off : Nat) (v : W64) : (s.setReg off v).sbk = s.sbk := rfl
@[simp] theorem setReg_pep (off : Nat) (v : W64) : (s.setReg off v).pep = s.pep := rfl
@[simp] theorem setReg_wdn (off : Nat) (v : W64) : (s.setReg off v).wdn = s.wdn := rfl
@[simp] theorem setReg_fuses (off : Nat) (v : W64) : (s.setReg off v).fuses = s.fuses := rfl
@[simp] theorem setReg_pwr (off : Nat) (v : W64) : (s.setReg off v).pwr = s.pwr := rfl
@[simp] theorem setReg_drcs (off : Nat) (v : W64) : (s.setReg off v).drcs = s.drcs := rfl
@[simp] theorem setReg_rope (off : Nat) (v : W64) : (s.setReg off v).rope = s.rope := rfl
@[simp] theorem setReg_crn (off : Nat) (v : W64) : (s.setReg off v).crn = s.crn := rfl
@[simp] theorem setReg_pair (off : Nat) (v : W64) : (s.setReg off v).pair = s.pair := rfl
@[simp] theorem setReg_pools (off : Nat) (v : W64) : (s.setReg off v).pools = s.pools := rfl
@[simp] theorem setReg_host (off : Nat) (v : W64) : (s.setReg off v).host = s.host := rfl
@[simp] theorem setReg_digs (off : Nat) (v : W64) : (s.setReg off v).digs = s.digs := rfl
@[simp] theorem setReg_mapc (off : Nat) (v : W64) : (s.setReg off v).mapc = s.mapc := rfl
@[simp] theorem setReg_keySlots (off : Nat) (v : W64) : (s.setReg off v).keySlots = s.keySlots := rfl
@[simp] theorem setReg_poisoned (off : Nat) (v : W64) : (s.setReg off v).poisoned = s.poisoned := rfl
@[simp] theorem setReg_tvsFrozen (off : Nat) (v : W64) : (s.setReg off v).tvsFrozen = s.tvsFrozen := rfl
@[simp] theorem setReg_nch (off : Nat) (v : W64) : (s.setReg off v).nch = s.nch := rfl
@[simp] theorem setReg_idxStore (off : Nat) (v : W64) : (s.setReg off v).idxStore = s.idxStore := rfl
@[simp] theorem setReg_ports (off : Nat) (v : W64) : (s.setReg off v).ports = s.ports := rfl
@[simp] theorem setReg_modules (off : Nat) (v : W64) : (s.setReg off v).modules = s.modules := rfl
@[simp] theorem setReg_svc (off : Nat) (v : W64) : (s.setReg off v).svc = s.svc := rfl
@[simp] theorem setReg_plans (off : Nat) (v : W64) : (s.setReg off v).plans = s.plans := rfl
@[simp] theorem setReg_ckpts (off : Nat) (v : W64) : (s.setReg off v).ckpts = s.ckpts := rfl
@[simp] theorem setReg_upd (off : Nat) (v : W64) : (s.setReg off v).upd = s.upd := rfl
@[simp] theorem setReg_tvsBack (off : Nat) (v : W64) : (s.setReg off v).tvsBack = s.tvsBack := rfl
@[simp] theorem setReg_harvested (off : Nat) (v : W64) : (s.setReg off v).harvested = s.harvested := rfl
@[simp] theorem setReg_harvestedAt (off : Nat) (v : W64) : (s.setReg off v).harvestedAt = s.harvestedAt := rfl
@[simp] theorem setReg_wipeJob (off : Nat) (v : W64) : (s.setReg off v).wipeJob = s.wipeJob := rfl

/-! ### bump -/

@[simp] theorem bump_pending (off lo w n : Nat) : (s.bump off lo w n).pending = s.pending := rfl
@[simp] theorem bump_mem (off lo w n : Nat) : (s.bump off lo w n).mem = s.mem := rfl
@[simp] theorem bump_time (off lo w n : Nat) : (s.bump off lo w n).time = s.time := rfl
@[simp] theorem bump_subTick (off lo w n : Nat) : (s.bump off lo w n).subTick = s.subTick := rfl
@[simp] theorem bump_stamp (off lo w n : Nat) : (s.bump off lo w n).stamp = s.stamp := rfl
@[simp] theorem bump_freeCtr (off lo w n : Nat) : (s.bump off lo w n).freeCtr = s.freeCtr := rfl
@[simp] theorem bump_out (off lo w n : Nat) : (s.bump off lo w n).out = s.out := rfl
@[simp] theorem bump_climbs (off lo w n : Nat) : (s.bump off lo w n).climbs = s.climbs := rfl
@[simp] theorem bump_cores (off lo w n : Nat) : (s.bump off lo w n).cores = s.cores := rfl
@[simp] theorem bump_mcores (off lo w n : Nat) : (s.bump off lo w n).mcores = s.mcores := rfl
@[simp] theorem bump_jobs (off lo w n : Nat) : (s.bump off lo w n).jobs = s.jobs := rfl
@[simp] theorem bump_bufs (off lo w n : Nat) : (s.bump off lo w n).bufs = s.bufs := rfl
@[simp] theorem bump_gens (off lo w n : Nat) : (s.bump off lo w n).gens = s.gens := rfl
@[simp] theorem bump_wipes (off lo w n : Nat) : (s.bump off lo w n).wipes = s.wipes := rfl
@[simp] theorem bump_calls (off lo w n : Nat) : (s.bump off lo w n).calls = s.calls := rfl
@[simp] theorem bump_internalCpl (off lo w n : Nat) : (s.bump off lo w n).internalCpl = s.internalCpl := rfl
@[simp] theorem bump_bell (off lo w n : Nat) : (s.bump off lo w n).bell = s.bell := rfl
@[simp] theorem bump_lopEnded (off lo w n : Nat) : (s.bump off lo w n).lopEnded = s.lopEnded := rfl
@[simp] theorem bump_sbk (off lo w n : Nat) : (s.bump off lo w n).sbk = s.sbk := rfl
@[simp] theorem bump_pep (off lo w n : Nat) : (s.bump off lo w n).pep = s.pep := rfl
@[simp] theorem bump_wdn (off lo w n : Nat) : (s.bump off lo w n).wdn = s.wdn := rfl
@[simp] theorem bump_fuses (off lo w n : Nat) : (s.bump off lo w n).fuses = s.fuses := rfl
@[simp] theorem bump_pwr (off lo w n : Nat) : (s.bump off lo w n).pwr = s.pwr := rfl
@[simp] theorem bump_drcs (off lo w n : Nat) : (s.bump off lo w n).drcs = s.drcs := rfl
@[simp] theorem bump_rope (off lo w n : Nat) : (s.bump off lo w n).rope = s.rope := rfl
@[simp] theorem bump_crn (off lo w n : Nat) : (s.bump off lo w n).crn = s.crn := rfl
@[simp] theorem bump_pair (off lo w n : Nat) : (s.bump off lo w n).pair = s.pair := rfl
@[simp] theorem bump_pools (off lo w n : Nat) : (s.bump off lo w n).pools = s.pools := rfl
@[simp] theorem bump_host (off lo w n : Nat) : (s.bump off lo w n).host = s.host := rfl
@[simp] theorem bump_digs (off lo w n : Nat) : (s.bump off lo w n).digs = s.digs := rfl
@[simp] theorem bump_mapc (off lo w n : Nat) : (s.bump off lo w n).mapc = s.mapc := rfl
@[simp] theorem bump_keySlots (off lo w n : Nat) : (s.bump off lo w n).keySlots = s.keySlots := rfl
@[simp] theorem bump_poisoned (off lo w n : Nat) : (s.bump off lo w n).poisoned = s.poisoned := rfl
@[simp] theorem bump_tvsFrozen (off lo w n : Nat) : (s.bump off lo w n).tvsFrozen = s.tvsFrozen := rfl
@[simp] theorem bump_nch (off lo w n : Nat) : (s.bump off lo w n).nch = s.nch := rfl
@[simp] theorem bump_idxStore (off lo w n : Nat) : (s.bump off lo w n).idxStore = s.idxStore := rfl
@[simp] theorem bump_ports (off lo w n : Nat) : (s.bump off lo w n).ports = s.ports := rfl
@[simp] theorem bump_modules (off lo w n : Nat) : (s.bump off lo w n).modules = s.modules := rfl
@[simp] theorem bump_svc (off lo w n : Nat) : (s.bump off lo w n).svc = s.svc := rfl
@[simp] theorem bump_plans (off lo w n : Nat) : (s.bump off lo w n).plans = s.plans := rfl
@[simp] theorem bump_ckpts (off lo w n : Nat) : (s.bump off lo w n).ckpts = s.ckpts := rfl
@[simp] theorem bump_upd (off lo w n : Nat) : (s.bump off lo w n).upd = s.upd := rfl
@[simp] theorem bump_tvsBack (off lo w n : Nat) : (s.bump off lo w n).tvsBack = s.tvsBack := rfl
@[simp] theorem bump_harvested (off lo w n : Nat) : (s.bump off lo w n).harvested = s.harvested := rfl
@[simp] theorem bump_harvestedAt (off lo w n : Nat) : (s.bump off lo w n).harvestedAt = s.harvestedAt := rfl
@[simp] theorem bump_wipeJob (off lo w n : Nat) : (s.bump off lo w n).wipeJob = s.wipeJob := rfl

/-! ### wrBytes -/

@[simp] theorem wrBytes_pending (a : Nat) (d : Bytes) : (s.wrBytes a d).pending = s.pending := rfl
@[simp] theorem wrBytes_regs (a : Nat) (d : Bytes) : (s.wrBytes a d).regs = s.regs := rfl
@[simp] theorem wrBytes_time (a : Nat) (d : Bytes) : (s.wrBytes a d).time = s.time := rfl
@[simp] theorem wrBytes_subTick (a : Nat) (d : Bytes) : (s.wrBytes a d).subTick = s.subTick := rfl
@[simp] theorem wrBytes_stamp (a : Nat) (d : Bytes) : (s.wrBytes a d).stamp = s.stamp := rfl
@[simp] theorem wrBytes_freeCtr (a : Nat) (d : Bytes) : (s.wrBytes a d).freeCtr = s.freeCtr := rfl
@[simp] theorem wrBytes_out (a : Nat) (d : Bytes) : (s.wrBytes a d).out = s.out := rfl
@[simp] theorem wrBytes_climbs (a : Nat) (d : Bytes) : (s.wrBytes a d).climbs = s.climbs := rfl
@[simp] theorem wrBytes_cores (a : Nat) (d : Bytes) : (s.wrBytes a d).cores = s.cores := rfl
@[simp] theorem wrBytes_mcores (a : Nat) (d : Bytes) : (s.wrBytes a d).mcores = s.mcores := rfl
@[simp] theorem wrBytes_jobs (a : Nat) (d : Bytes) : (s.wrBytes a d).jobs = s.jobs := rfl
@[simp] theorem wrBytes_bufs (a : Nat) (d : Bytes) : (s.wrBytes a d).bufs = s.bufs := rfl
@[simp] theorem wrBytes_gens (a : Nat) (d : Bytes) : (s.wrBytes a d).gens = s.gens := rfl
@[simp] theorem wrBytes_wipes (a : Nat) (d : Bytes) : (s.wrBytes a d).wipes = s.wipes := rfl
@[simp] theorem wrBytes_calls (a : Nat) (d : Bytes) : (s.wrBytes a d).calls = s.calls := rfl
@[simp] theorem wrBytes_internalCpl (a : Nat) (d : Bytes) : (s.wrBytes a d).internalCpl = s.internalCpl := rfl
@[simp] theorem wrBytes_bell (a : Nat) (d : Bytes) : (s.wrBytes a d).bell = s.bell := rfl
@[simp] theorem wrBytes_lopEnded (a : Nat) (d : Bytes) : (s.wrBytes a d).lopEnded = s.lopEnded := rfl
@[simp] theorem wrBytes_sbk (a : Nat) (d : Bytes) : (s.wrBytes a d).sbk = s.sbk := rfl
@[simp] theorem wrBytes_pep (a : Nat) (d : Bytes) : (s.wrBytes a d).pep = s.pep := rfl
@[simp] theorem wrBytes_wdn (a : Nat) (d : Bytes) : (s.wrBytes a d).wdn = s.wdn := rfl
@[simp] theorem wrBytes_fuses (a : Nat) (d : Bytes) : (s.wrBytes a d).fuses = s.fuses := rfl
@[simp] theorem wrBytes_pwr (a : Nat) (d : Bytes) : (s.wrBytes a d).pwr = s.pwr := rfl
@[simp] theorem wrBytes_drcs (a : Nat) (d : Bytes) : (s.wrBytes a d).drcs = s.drcs := rfl
@[simp] theorem wrBytes_rope (a : Nat) (d : Bytes) : (s.wrBytes a d).rope = s.rope := rfl
@[simp] theorem wrBytes_crn (a : Nat) (d : Bytes) : (s.wrBytes a d).crn = s.crn := rfl
@[simp] theorem wrBytes_pair (a : Nat) (d : Bytes) : (s.wrBytes a d).pair = s.pair := rfl
@[simp] theorem wrBytes_pools (a : Nat) (d : Bytes) : (s.wrBytes a d).pools = s.pools := rfl
@[simp] theorem wrBytes_host (a : Nat) (d : Bytes) : (s.wrBytes a d).host = s.host := rfl
@[simp] theorem wrBytes_digs (a : Nat) (d : Bytes) : (s.wrBytes a d).digs = s.digs := rfl
@[simp] theorem wrBytes_mapc (a : Nat) (d : Bytes) : (s.wrBytes a d).mapc = s.mapc := rfl
@[simp] theorem wrBytes_keySlots (a : Nat) (d : Bytes) : (s.wrBytes a d).keySlots = s.keySlots := rfl
@[simp] theorem wrBytes_poisoned (a : Nat) (d : Bytes) : (s.wrBytes a d).poisoned = s.poisoned := rfl
@[simp] theorem wrBytes_tvsFrozen (a : Nat) (d : Bytes) : (s.wrBytes a d).tvsFrozen = s.tvsFrozen := rfl
@[simp] theorem wrBytes_nch (a : Nat) (d : Bytes) : (s.wrBytes a d).nch = s.nch := rfl
@[simp] theorem wrBytes_idxStore (a : Nat) (d : Bytes) : (s.wrBytes a d).idxStore = s.idxStore := rfl
@[simp] theorem wrBytes_ports (a : Nat) (d : Bytes) : (s.wrBytes a d).ports = s.ports := rfl
@[simp] theorem wrBytes_modules (a : Nat) (d : Bytes) : (s.wrBytes a d).modules = s.modules := rfl
@[simp] theorem wrBytes_svc (a : Nat) (d : Bytes) : (s.wrBytes a d).svc = s.svc := rfl
@[simp] theorem wrBytes_plans (a : Nat) (d : Bytes) : (s.wrBytes a d).plans = s.plans := rfl
@[simp] theorem wrBytes_ckpts (a : Nat) (d : Bytes) : (s.wrBytes a d).ckpts = s.ckpts := rfl
@[simp] theorem wrBytes_upd (a : Nat) (d : Bytes) : (s.wrBytes a d).upd = s.upd := rfl
@[simp] theorem wrBytes_tvsBack (a : Nat) (d : Bytes) : (s.wrBytes a d).tvsBack = s.tvsBack := rfl
@[simp] theorem wrBytes_harvested (a : Nat) (d : Bytes) : (s.wrBytes a d).harvested = s.harvested := rfl
@[simp] theorem wrBytes_harvestedAt (a : Nat) (d : Bytes) : (s.wrBytes a d).harvestedAt = s.harvestedAt := rfl
@[simp] theorem wrBytes_wipeJob (a : Nat) (d : Bytes) : (s.wrBytes a d).wipeJob = s.wipeJob := rfl

/-! ### used -/

@[simp] theorem used_pending : (s.used).pending = s.pending := rfl
@[simp] theorem used_regs : (s.used).regs = s.regs := rfl
@[simp] theorem used_mem : (s.used).mem = s.mem := rfl
@[simp] theorem used_time : (s.used).time = s.time := rfl
@[simp] theorem used_subTick : (s.used).subTick = s.subTick := rfl
@[simp] theorem used_stamp : (s.used).stamp = s.stamp := rfl
@[simp] theorem used_out : (s.used).out = s.out := rfl
@[simp] theorem used_climbs : (s.used).climbs = s.climbs := rfl
@[simp] theorem used_cores : (s.used).cores = s.cores := rfl
@[simp] theorem used_mcores : (s.used).mcores = s.mcores := rfl
@[simp] theorem used_jobs : (s.used).jobs = s.jobs := rfl
@[simp] theorem used_bufs : (s.used).bufs = s.bufs := rfl
@[simp] theorem used_gens : (s.used).gens = s.gens := rfl
@[simp] theorem used_wipes : (s.used).wipes = s.wipes := rfl
@[simp] theorem used_calls : (s.used).calls = s.calls := rfl
@[simp] theorem used_internalCpl : (s.used).internalCpl = s.internalCpl := rfl
@[simp] theorem used_bell : (s.used).bell = s.bell := rfl
@[simp] theorem used_lopEnded : (s.used).lopEnded = s.lopEnded := rfl
@[simp] theorem used_sbk : (s.used).sbk = s.sbk := rfl
@[simp] theorem used_pep : (s.used).pep = s.pep := rfl
@[simp] theorem used_wdn : (s.used).wdn = s.wdn := rfl
@[simp] theorem used_fuses : (s.used).fuses = s.fuses := rfl
@[simp] theorem used_pwr : (s.used).pwr = s.pwr := rfl
@[simp] theorem used_drcs : (s.used).drcs = s.drcs := rfl
@[simp] theorem used_rope : (s.used).rope = s.rope := rfl
@[simp] theorem used_crn : (s.used).crn = s.crn := rfl
@[simp] theorem used_pair : (s.used).pair = s.pair := rfl
@[simp] theorem used_pools : (s.used).pools = s.pools := rfl
@[simp] theorem used_host : (s.used).host = s.host := rfl
@[simp] theorem used_digs : (s.used).digs = s.digs := rfl
@[simp] theorem used_mapc : (s.used).mapc = s.mapc := rfl
@[simp] theorem used_keySlots : (s.used).keySlots = s.keySlots := rfl
@[simp] theorem used_poisoned : (s.used).poisoned = s.poisoned := rfl
@[simp] theorem used_tvsFrozen : (s.used).tvsFrozen = s.tvsFrozen := rfl
@[simp] theorem used_nch : (s.used).nch = s.nch := rfl
@[simp] theorem used_idxStore : (s.used).idxStore = s.idxStore := rfl
@[simp] theorem used_ports : (s.used).ports = s.ports := rfl
@[simp] theorem used_modules : (s.used).modules = s.modules := rfl
@[simp] theorem used_svc : (s.used).svc = s.svc := rfl
@[simp] theorem used_plans : (s.used).plans = s.plans := rfl
@[simp] theorem used_ckpts : (s.used).ckpts = s.ckpts := rfl
@[simp] theorem used_upd : (s.used).upd = s.upd := rfl
@[simp] theorem used_tvsBack : (s.used).tvsBack = s.tvsBack := rfl
@[simp] theorem used_harvested : (s.used).harvested = s.harvested := rfl
@[simp] theorem used_harvestedAt : (s.used).harvestedAt = s.harvestedAt := rfl
@[simp] theorem used_wipeJob : (s.used).wipeJob = s.wipeJob := rfl

/-! ### tick -/

@[simp] theorem tick_pending : (s.tick).pending = s.pending := rfl
@[simp] theorem tick_regs : (s.tick).regs = s.regs := rfl
@[simp] theorem tick_mem : (s.tick).mem = s.mem := rfl
@[simp] theorem tick_time : (s.tick).time = s.time := rfl
@[simp] theorem tick_subTick : (s.tick).subTick = s.subTick := rfl
@[simp] theorem tick_freeCtr : (s.tick).freeCtr = s.freeCtr := rfl
@[simp] theorem tick_out : (s.tick).out = s.out := rfl
@[simp] theorem tick_climbs : (s.tick).climbs = s.climbs := rfl
@[simp] theorem tick_cores : (s.tick).cores = s.cores := rfl
@[simp] theorem tick_mcores : (s.tick).mcores = s.mcores := rfl
@[simp] theorem tick_jobs : (s.tick).jobs = s.jobs := rfl
@[simp] theorem tick_bufs : (s.tick).bufs = s.bufs := rfl
@[simp] theorem tick_gens : (s.tick).gens = s.gens := rfl
@[simp] theorem tick_wipes : (s.tick).wipes = s.wipes := rfl
@[simp] theorem tick_calls : (s.tick).calls = s.calls := rfl
@[simp] theorem tick_internalCpl : (s.tick).internalCpl = s.internalCpl := rfl
@[simp] theorem tick_bell : (s.tick).bell = s.bell := rfl
@[simp] theorem tick_lopEnded : (s.tick).lopEnded = s.lopEnded := rfl
@[simp] theorem tick_sbk : (s.tick).sbk = s.sbk := rfl
@[simp] theorem tick_pep : (s.tick).pep = s.pep := rfl
@[simp] theorem tick_wdn : (s.tick).wdn = s.wdn := rfl
@[simp] theorem tick_fuses : (s.tick).fuses = s.fuses := rfl
@[simp] theorem tick_pwr : (s.tick).pwr = s.pwr := rfl
@[simp] theorem tick_drcs : (s.tick).drcs = s.drcs := rfl
@[simp] theorem tick_rope : (s.tick).rope = s.rope := rfl
@[simp] theorem tick_crn : (s.tick).crn = s.crn := rfl
@[simp] theorem tick_pair : (s.tick).pair = s.pair := rfl
@[simp] theorem tick_pools : (s.tick).pools = s.pools := rfl
@[simp] theorem tick_host : (s.tick).host = s.host := rfl
@[simp] theorem tick_digs : (s.tick).digs = s.digs := rfl
@[simp] theorem tick_mapc : (s.tick).mapc = s.mapc := rfl
@[simp] theorem tick_keySlots : (s.tick).keySlots = s.keySlots := rfl
@[simp] theorem tick_poisoned : (s.tick).poisoned = s.poisoned := rfl
@[simp] theorem tick_tvsFrozen : (s.tick).tvsFrozen = s.tvsFrozen := rfl
@[simp] theorem tick_nch : (s.tick).nch = s.nch := rfl
@[simp] theorem tick_idxStore : (s.tick).idxStore = s.idxStore := rfl
@[simp] theorem tick_ports : (s.tick).ports = s.ports := rfl
@[simp] theorem tick_modules : (s.tick).modules = s.modules := rfl
@[simp] theorem tick_svc : (s.tick).svc = s.svc := rfl
@[simp] theorem tick_plans : (s.tick).plans = s.plans := rfl
@[simp] theorem tick_ckpts : (s.tick).ckpts = s.ckpts := rfl
@[simp] theorem tick_upd : (s.tick).upd = s.upd := rfl
@[simp] theorem tick_tvsBack : (s.tick).tvsBack = s.tvsBack := rfl
@[simp] theorem tick_harvested : (s.tick).harvested = s.harvested := rfl
@[simp] theorem tick_harvestedAt : (s.tick).harvestedAt = s.harvestedAt := rfl
@[simp] theorem tick_wipeJob : (s.tick).wipeJob = s.wipeJob := rfl

/-! ### emit -/

@[simp] theorem emit_pending (o : Out) : (s.emit o).pending = s.pending := rfl
@[simp] theorem emit_regs (o : Out) : (s.emit o).regs = s.regs := rfl
@[simp] theorem emit_mem (o : Out) : (s.emit o).mem = s.mem := rfl
@[simp] theorem emit_time (o : Out) : (s.emit o).time = s.time := rfl
@[simp] theorem emit_subTick (o : Out) : (s.emit o).subTick = s.subTick := rfl
@[simp] theorem emit_stamp (o : Out) : (s.emit o).stamp = s.stamp := rfl
@[simp] theorem emit_freeCtr (o : Out) : (s.emit o).freeCtr = s.freeCtr := rfl
@[simp] theorem emit_climbs (o : Out) : (s.emit o).climbs = s.climbs := rfl
@[simp] theorem emit_cores (o : Out) : (s.emit o).cores = s.cores := rfl
@[simp] theorem emit_mcores (o : Out) : (s.emit o).mcores = s.mcores := rfl
@[simp] theorem emit_jobs (o : Out) : (s.emit o).jobs = s.jobs := rfl
@[simp] theorem emit_bufs (o : Out) : (s.emit o).bufs = s.bufs := rfl
@[simp] theorem emit_gens (o : Out) : (s.emit o).gens = s.gens := rfl
@[simp] theorem emit_wipes (o : Out) : (s.emit o).wipes = s.wipes := rfl
@[simp] theorem emit_calls (o : Out) : (s.emit o).calls = s.calls := rfl
@[simp] theorem emit_internalCpl (o : Out) : (s.emit o).internalCpl = s.internalCpl := rfl
@[simp] theorem emit_bell (o : Out) : (s.emit o).bell = s.bell := rfl
@[simp] theorem emit_lopEnded (o : Out) : (s.emit o).lopEnded = s.lopEnded := rfl
@[simp] theorem emit_sbk (o : Out) : (s.emit o).sbk = s.sbk := rfl
@[simp] theorem emit_pep (o : Out) : (s.emit o).pep = s.pep := rfl
@[simp] theorem emit_wdn (o : Out) : (s.emit o).wdn = s.wdn := rfl
@[simp] theorem emit_fuses (o : Out) : (s.emit o).fuses = s.fuses := rfl
@[simp] theorem emit_pwr (o : Out) : (s.emit o).pwr = s.pwr := rfl
@[simp] theorem emit_drcs (o : Out) : (s.emit o).drcs = s.drcs := rfl
@[simp] theorem emit_rope (o : Out) : (s.emit o).rope = s.rope := rfl
@[simp] theorem emit_crn (o : Out) : (s.emit o).crn = s.crn := rfl
@[simp] theorem emit_pair (o : Out) : (s.emit o).pair = s.pair := rfl
@[simp] theorem emit_pools (o : Out) : (s.emit o).pools = s.pools := rfl
@[simp] theorem emit_host (o : Out) : (s.emit o).host = s.host := rfl
@[simp] theorem emit_digs (o : Out) : (s.emit o).digs = s.digs := rfl
@[simp] theorem emit_mapc (o : Out) : (s.emit o).mapc = s.mapc := rfl
@[simp] theorem emit_keySlots (o : Out) : (s.emit o).keySlots = s.keySlots := rfl
@[simp] theorem emit_poisoned (o : Out) : (s.emit o).poisoned = s.poisoned := rfl
@[simp] theorem emit_tvsFrozen (o : Out) : (s.emit o).tvsFrozen = s.tvsFrozen := rfl
@[simp] theorem emit_nch (o : Out) : (s.emit o).nch = s.nch := rfl
@[simp] theorem emit_idxStore (o : Out) : (s.emit o).idxStore = s.idxStore := rfl
@[simp] theorem emit_ports (o : Out) : (s.emit o).ports = s.ports := rfl
@[simp] theorem emit_modules (o : Out) : (s.emit o).modules = s.modules := rfl
@[simp] theorem emit_svc (o : Out) : (s.emit o).svc = s.svc := rfl
@[simp] theorem emit_plans (o : Out) : (s.emit o).plans = s.plans := rfl
@[simp] theorem emit_ckpts (o : Out) : (s.emit o).ckpts = s.ckpts := rfl
@[simp] theorem emit_upd (o : Out) : (s.emit o).upd = s.upd := rfl
@[simp] theorem emit_tvsBack (o : Out) : (s.emit o).tvsBack = s.tvsBack := rfl
@[simp] theorem emit_harvested (o : Out) : (s.emit o).harvested = s.harvested := rfl
@[simp] theorem emit_harvestedAt (o : Out) : (s.emit o).harvestedAt = s.harvestedAt := rfl
@[simp] theorem emit_wipeJob (o : Out) : (s.emit o).wipeJob = s.wipeJob := rfl

/-! ### setClimb -/

@[simp] theorem setClimb_pending (cid : Nat) (c : Climb) : (s.setClimb cid c).pending = s.pending := rfl
@[simp] theorem setClimb_regs (cid : Nat) (c : Climb) : (s.setClimb cid c).regs = s.regs := rfl
@[simp] theorem setClimb_mem (cid : Nat) (c : Climb) : (s.setClimb cid c).mem = s.mem := rfl
@[simp] theorem setClimb_time (cid : Nat) (c : Climb) : (s.setClimb cid c).time = s.time := rfl
@[simp] theorem setClimb_subTick (cid : Nat) (c : Climb) : (s.setClimb cid c).subTick = s.subTick := rfl
@[simp] theorem setClimb_stamp (cid : Nat) (c : Climb) : (s.setClimb cid c).stamp = s.stamp := rfl
@[simp] theorem setClimb_freeCtr (cid : Nat) (c : Climb) : (s.setClimb cid c).freeCtr = s.freeCtr := rfl
@[simp] theorem setClimb_out (cid : Nat) (c : Climb) : (s.setClimb cid c).out = s.out := rfl
@[simp] theorem setClimb_cores (cid : Nat) (c : Climb) : (s.setClimb cid c).cores = s.cores := rfl
@[simp] theorem setClimb_mcores (cid : Nat) (c : Climb) : (s.setClimb cid c).mcores = s.mcores := rfl
@[simp] theorem setClimb_jobs (cid : Nat) (c : Climb) : (s.setClimb cid c).jobs = s.jobs := rfl
@[simp] theorem setClimb_bufs (cid : Nat) (c : Climb) : (s.setClimb cid c).bufs = s.bufs := rfl
@[simp] theorem setClimb_gens (cid : Nat) (c : Climb) : (s.setClimb cid c).gens = s.gens := rfl
@[simp] theorem setClimb_wipes (cid : Nat) (c : Climb) : (s.setClimb cid c).wipes = s.wipes := rfl
@[simp] theorem setClimb_calls (cid : Nat) (c : Climb) : (s.setClimb cid c).calls = s.calls := rfl
@[simp] theorem setClimb_internalCpl (cid : Nat) (c : Climb) : (s.setClimb cid c).internalCpl = s.internalCpl := rfl
@[simp] theorem setClimb_bell (cid : Nat) (c : Climb) : (s.setClimb cid c).bell = s.bell := rfl
@[simp] theorem setClimb_lopEnded (cid : Nat) (c : Climb) : (s.setClimb cid c).lopEnded = s.lopEnded := rfl
@[simp] theorem setClimb_sbk (cid : Nat) (c : Climb) : (s.setClimb cid c).sbk = s.sbk := rfl
@[simp] theorem setClimb_pep (cid : Nat) (c : Climb) : (s.setClimb cid c).pep = s.pep := rfl
@[simp] theorem setClimb_wdn (cid : Nat) (c : Climb) : (s.setClimb cid c).wdn = s.wdn := rfl
@[simp] theorem setClimb_fuses (cid : Nat) (c : Climb) : (s.setClimb cid c).fuses = s.fuses := rfl
@[simp] theorem setClimb_pwr (cid : Nat) (c : Climb) : (s.setClimb cid c).pwr = s.pwr := rfl
@[simp] theorem setClimb_drcs (cid : Nat) (c : Climb) : (s.setClimb cid c).drcs = s.drcs := rfl
@[simp] theorem setClimb_rope (cid : Nat) (c : Climb) : (s.setClimb cid c).rope = s.rope := rfl
@[simp] theorem setClimb_crn (cid : Nat) (c : Climb) : (s.setClimb cid c).crn = s.crn := rfl
@[simp] theorem setClimb_pair (cid : Nat) (c : Climb) : (s.setClimb cid c).pair = s.pair := rfl
@[simp] theorem setClimb_pools (cid : Nat) (c : Climb) : (s.setClimb cid c).pools = s.pools := rfl
@[simp] theorem setClimb_host (cid : Nat) (c : Climb) : (s.setClimb cid c).host = s.host := rfl
@[simp] theorem setClimb_digs (cid : Nat) (c : Climb) : (s.setClimb cid c).digs = s.digs := rfl
@[simp] theorem setClimb_mapc (cid : Nat) (c : Climb) : (s.setClimb cid c).mapc = s.mapc := rfl
@[simp] theorem setClimb_keySlots (cid : Nat) (c : Climb) : (s.setClimb cid c).keySlots = s.keySlots := rfl
@[simp] theorem setClimb_poisoned (cid : Nat) (c : Climb) : (s.setClimb cid c).poisoned = s.poisoned := rfl
@[simp] theorem setClimb_tvsFrozen (cid : Nat) (c : Climb) : (s.setClimb cid c).tvsFrozen = s.tvsFrozen := rfl
@[simp] theorem setClimb_nch (cid : Nat) (c : Climb) : (s.setClimb cid c).nch = s.nch := rfl
@[simp] theorem setClimb_idxStore (cid : Nat) (c : Climb) : (s.setClimb cid c).idxStore = s.idxStore := rfl
@[simp] theorem setClimb_ports (cid : Nat) (c : Climb) : (s.setClimb cid c).ports = s.ports := rfl
@[simp] theorem setClimb_modules (cid : Nat) (c : Climb) : (s.setClimb cid c).modules = s.modules := rfl
@[simp] theorem setClimb_svc (cid : Nat) (c : Climb) : (s.setClimb cid c).svc = s.svc := rfl
@[simp] theorem setClimb_plans (cid : Nat) (c : Climb) : (s.setClimb cid c).plans = s.plans := rfl
@[simp] theorem setClimb_ckpts (cid : Nat) (c : Climb) : (s.setClimb cid c).ckpts = s.ckpts := rfl
@[simp] theorem setClimb_upd (cid : Nat) (c : Climb) : (s.setClimb cid c).upd = s.upd := rfl
@[simp] theorem setClimb_tvsBack (cid : Nat) (c : Climb) : (s.setClimb cid c).tvsBack = s.tvsBack := rfl
@[simp] theorem setClimb_harvested (cid : Nat) (c : Climb) : (s.setClimb cid c).harvested = s.harvested := rfl
@[simp] theorem setClimb_harvestedAt (cid : Nat) (c : Climb) : (s.setClimb cid c).harvestedAt = s.harvestedAt := rfl
@[simp] theorem setClimb_wipeJob (cid : Nat) (c : Climb) : (s.setClimb cid c).wipeJob = s.wipeJob := rfl

/-! ### updClimb -/

@[simp] theorem updClimb_pending (cid : Nat) (f : Climb → Climb) : (s.updClimb cid f).pending = s.pending := rfl
@[simp] theorem updClimb_regs (cid : Nat) (f : Climb → Climb) : (s.updClimb cid f).regs = s.regs := rfl
@[simp] theorem updClimb_mem (cid : Nat) (f : Climb → Climb) : (s.updClimb cid f).mem = s.mem := rfl
@[simp] theorem updClimb_time (cid : Nat) (f : Climb → Climb) : (s.updClimb cid f).time = s.time := rfl
@[simp] theorem updClimb_subTick (cid : Nat) (f : Climb → Climb) : (s.updClimb cid f).subTick = s.subTick := rfl
@[simp] theorem updClimb_stamp (cid : Nat) (f : Climb → Climb) : (s.updClimb cid f).stamp = s.stamp := rfl
@[simp] theorem updClimb_freeCtr (cid : Nat) (f : Climb → Climb) : (s.updClimb cid f).freeCtr = s.freeCtr := rfl
@[simp] theorem updClimb_out (cid : Nat) (f : Climb → Climb) : (s.updClimb cid f).out = s.out := rfl
@[simp] theorem updClimb_cores (cid : Nat) (f : Climb → Climb) : (s.updClimb cid f).cores = s.cores := rfl
@[simp] theorem updClimb_mcores (cid : Nat) (f : Climb → Climb) : (s.updClimb cid f).mcores = s.mcores := rfl
@[simp] theorem updClimb_jobs (cid : Nat) (f : Climb → Climb) : (s.updClimb cid f).jobs = s.jobs := rfl
@[simp] theorem updClimb_bufs (cid : Nat) (f : Climb → Climb) : (s.updClimb cid f).bufs = s.bufs := rfl
@[simp] theorem updClimb_gens (cid : Nat) (f : Climb → Climb) : (s.updClimb cid f).gens = s.gens := rfl
@[simp] theorem updClimb_wipes (cid : Nat) (f : Climb → Climb) : (s.updClimb cid f).wipes = s.wipes := rfl
@[simp] theorem updClimb_calls (cid : Nat) (f : Climb → Climb) : (s.updClimb cid f).calls = s.calls := rfl
@[simp] theorem updClimb_internalCpl (cid : Nat) (f : Climb → Climb) : (s.updClimb cid f).internalCpl = s.internalCpl := rfl
@[simp] theorem updClimb_bell (cid : Nat) (f : Climb → Climb) : (s.updClimb cid f).bell = s.bell := rfl
@[simp] theorem updClimb_lopEnded (cid : Nat) (f : Climb → Climb) : (s.updClimb cid f).lopEnded = s.lopEnded := rfl
@[simp] theorem updClimb_sbk (cid : Nat) (f : Climb → Climb) : (s.updClimb cid f).sbk = s.sbk := rfl
@[simp] theorem updClimb_pep (cid : Nat) (f : Climb → Climb) : (s.updClimb cid f).pep = s.pep := rfl
@[simp] theorem updClimb_wdn (cid : Nat) (f : Climb → Climb) : (s.updClimb cid f).wdn = s.wdn := rfl
@[simp] theorem updClimb_fuses (cid : Nat) (f : Climb → Climb) : (s.updClimb cid f).fuses = s.fuses := rfl
@[simp] theorem updClimb_pwr (cid : Nat) (f : Climb → Climb) : (s.updClimb cid f).pwr = s.pwr := rfl
@[simp] theorem updClimb_drcs (cid : Nat) (f : Climb → Climb) : (s.updClimb cid f).drcs = s.drcs := rfl
@[simp] theorem updClimb_rope (cid : Nat) (f : Climb → Climb) : (s.updClimb cid f).rope = s.rope := rfl
@[simp] theorem updClimb_crn (cid : Nat) (f : Climb → Climb) : (s.updClimb cid f).crn = s.crn := rfl
@[simp] theorem updClimb_pair (cid : Nat) (f : Climb → Climb) : (s.updClimb cid f).pair = s.pair := rfl
@[simp] theorem updClimb_pools (cid : Nat) (f : Climb → Climb) : (s.updClimb cid f).pools = s.pools := rfl
@[simp] theorem updClimb_host (cid : Nat) (f : Climb → Climb) : (s.updClimb cid f).host = s.host := rfl
@[simp] theorem updClimb_digs (cid : Nat) (f : Climb → Climb) : (s.updClimb cid f).digs = s.digs := rfl
@[simp] theorem updClimb_mapc (cid : Nat) (f : Climb → Climb) : (s.updClimb cid f).mapc = s.mapc := rfl
@[simp] theorem updClimb_keySlots (cid : Nat) (f : Climb → Climb) : (s.updClimb cid f).keySlots = s.keySlots := rfl
@[simp] theorem updClimb_poisoned (cid : Nat) (f : Climb → Climb) : (s.updClimb cid f).poisoned = s.poisoned := rfl
@[simp] theorem updClimb_tvsFrozen (cid : Nat) (f : Climb → Climb) : (s.updClimb cid f).tvsFrozen = s.tvsFrozen := rfl
@[simp] theorem updClimb_nch (cid : Nat) (f : Climb → Climb) : (s.updClimb cid f).nch = s.nch := rfl
@[simp] theorem updClimb_idxStore (cid : Nat) (f : Climb → Climb) : (s.updClimb cid f).idxStore = s.idxStore := rfl
@[simp] theorem updClimb_ports (cid : Nat) (f : Climb → Climb) : (s.updClimb cid f).ports = s.ports := rfl
@[simp] theorem updClimb_modules (cid : Nat) (f : Climb → Climb) : (s.updClimb cid f).modules = s.modules := rfl
@[simp] theorem updClimb_svc (cid : Nat) (f : Climb → Climb) : (s.updClimb cid f).svc = s.svc := rfl
@[simp] theorem updClimb_plans (cid : Nat) (f : Climb → Climb) : (s.updClimb cid f).plans = s.plans := rfl
@[simp] theorem updClimb_ckpts (cid : Nat) (f : Climb → Climb) : (s.updClimb cid f).ckpts = s.ckpts := rfl
@[simp] theorem updClimb_upd (cid : Nat) (f : Climb → Climb) : (s.updClimb cid f).upd = s.upd := rfl
@[simp] theorem updClimb_tvsBack (cid : Nat) (f : Climb → Climb) : (s.updClimb cid f).tvsBack = s.tvsBack := rfl
@[simp] theorem updClimb_harvested (cid : Nat) (f : Climb → Climb) : (s.updClimb cid f).harvested = s.harvested := rfl
@[simp] theorem updClimb_harvestedAt (cid : Nat) (f : Climb → Climb) : (s.updClimb cid f).harvestedAt = s.harvestedAt := rfl
@[simp] theorem updClimb_wipeJob (cid : Nat) (f : Climb → Climb) : (s.updClimb cid f).wipeJob = s.wipeJob := rfl

/-! ### setCore -/

@[simp] theorem setCore_pending (k : Nat) (c : DCore) : (s.setCore k c).pending = s.pending := rfl
@[simp] theorem setCore_regs (k : Nat) (c : DCore) : (s.setCore k c).regs = s.regs := rfl
@[simp] theorem setCore_mem (k : Nat) (c : DCore) : (s.setCore k c).mem = s.mem := rfl
@[simp] theorem setCore_time (k : Nat) (c : DCore) : (s.setCore k c).time = s.time := rfl
@[simp] theorem setCore_subTick (k : Nat) (c : DCore) : (s.setCore k c).subTick = s.subTick := rfl
@[simp] theorem setCore_stamp (k : Nat) (c : DCore) : (s.setCore k c).stamp = s.stamp := rfl
@[simp] theorem setCore_freeCtr (k : Nat) (c : DCore) : (s.setCore k c).freeCtr = s.freeCtr := rfl
@[simp] theorem setCore_out (k : Nat) (c : DCore) : (s.setCore k c).out = s.out := rfl
@[simp] theorem setCore_climbs (k : Nat) (c : DCore) : (s.setCore k c).climbs = s.climbs := rfl
@[simp] theorem setCore_mcores (k : Nat) (c : DCore) : (s.setCore k c).mcores = s.mcores := rfl
@[simp] theorem setCore_jobs (k : Nat) (c : DCore) : (s.setCore k c).jobs = s.jobs := rfl
@[simp] theorem setCore_bufs (k : Nat) (c : DCore) : (s.setCore k c).bufs = s.bufs := rfl
@[simp] theorem setCore_gens (k : Nat) (c : DCore) : (s.setCore k c).gens = s.gens := rfl
@[simp] theorem setCore_wipes (k : Nat) (c : DCore) : (s.setCore k c).wipes = s.wipes := rfl
@[simp] theorem setCore_calls (k : Nat) (c : DCore) : (s.setCore k c).calls = s.calls := rfl
@[simp] theorem setCore_internalCpl (k : Nat) (c : DCore) : (s.setCore k c).internalCpl = s.internalCpl := rfl
@[simp] theorem setCore_bell (k : Nat) (c : DCore) : (s.setCore k c).bell = s.bell := rfl
@[simp] theorem setCore_lopEnded (k : Nat) (c : DCore) : (s.setCore k c).lopEnded = s.lopEnded := rfl
@[simp] theorem setCore_sbk (k : Nat) (c : DCore) : (s.setCore k c).sbk = s.sbk := rfl
@[simp] theorem setCore_pep (k : Nat) (c : DCore) : (s.setCore k c).pep = s.pep := rfl
@[simp] theorem setCore_wdn (k : Nat) (c : DCore) : (s.setCore k c).wdn = s.wdn := rfl
@[simp] theorem setCore_fuses (k : Nat) (c : DCore) : (s.setCore k c).fuses = s.fuses := rfl
@[simp] theorem setCore_pwr (k : Nat) (c : DCore) : (s.setCore k c).pwr = s.pwr := rfl
@[simp] theorem setCore_drcs (k : Nat) (c : DCore) : (s.setCore k c).drcs = s.drcs := rfl
@[simp] theorem setCore_rope (k : Nat) (c : DCore) : (s.setCore k c).rope = s.rope := rfl
@[simp] theorem setCore_crn (k : Nat) (c : DCore) : (s.setCore k c).crn = s.crn := rfl
@[simp] theorem setCore_pair (k : Nat) (c : DCore) : (s.setCore k c).pair = s.pair := rfl
@[simp] theorem setCore_pools (k : Nat) (c : DCore) : (s.setCore k c).pools = s.pools := rfl
@[simp] theorem setCore_host (k : Nat) (c : DCore) : (s.setCore k c).host = s.host := rfl
@[simp] theorem setCore_digs (k : Nat) (c : DCore) : (s.setCore k c).digs = s.digs := rfl
@[simp] theorem setCore_mapc (k : Nat) (c : DCore) : (s.setCore k c).mapc = s.mapc := rfl
@[simp] theorem setCore_keySlots (k : Nat) (c : DCore) : (s.setCore k c).keySlots = s.keySlots := rfl
@[simp] theorem setCore_poisoned (k : Nat) (c : DCore) : (s.setCore k c).poisoned = s.poisoned := rfl
@[simp] theorem setCore_tvsFrozen (k : Nat) (c : DCore) : (s.setCore k c).tvsFrozen = s.tvsFrozen := rfl
@[simp] theorem setCore_nch (k : Nat) (c : DCore) : (s.setCore k c).nch = s.nch := rfl
@[simp] theorem setCore_idxStore (k : Nat) (c : DCore) : (s.setCore k c).idxStore = s.idxStore := rfl
@[simp] theorem setCore_ports (k : Nat) (c : DCore) : (s.setCore k c).ports = s.ports := rfl
@[simp] theorem setCore_modules (k : Nat) (c : DCore) : (s.setCore k c).modules = s.modules := rfl
@[simp] theorem setCore_svc (k : Nat) (c : DCore) : (s.setCore k c).svc = s.svc := rfl
@[simp] theorem setCore_plans (k : Nat) (c : DCore) : (s.setCore k c).plans = s.plans := rfl
@[simp] theorem setCore_ckpts (k : Nat) (c : DCore) : (s.setCore k c).ckpts = s.ckpts := rfl
@[simp] theorem setCore_upd (k : Nat) (c : DCore) : (s.setCore k c).upd = s.upd := rfl
@[simp] theorem setCore_tvsBack (k : Nat) (c : DCore) : (s.setCore k c).tvsBack = s.tvsBack := rfl
@[simp] theorem setCore_harvested (k : Nat) (c : DCore) : (s.setCore k c).harvested = s.harvested := rfl
@[simp] theorem setCore_harvestedAt (k : Nat) (c : DCore) : (s.setCore k c).harvestedAt = s.harvestedAt := rfl
@[simp] theorem setCore_wipeJob (k : Nat) (c : DCore) : (s.setCore k c).wipeJob = s.wipeJob := rfl

/-! ### setMcore -/

@[simp] theorem setMcore_pending (m : Nat) (c : MCore) : (s.setMcore m c).pending = s.pending := rfl
@[simp] theorem setMcore_regs (m : Nat) (c : MCore) : (s.setMcore m c).regs = s.regs := rfl
@[simp] theorem setMcore_mem (m : Nat) (c : MCore) : (s.setMcore m c).mem = s.mem := rfl
@[simp] theorem setMcore_time (m : Nat) (c : MCore) : (s.setMcore m c).time = s.time := rfl
@[simp] theorem setMcore_subTick (m : Nat) (c : MCore) : (s.setMcore m c).subTick = s.subTick := rfl
@[simp] theorem setMcore_stamp (m : Nat) (c : MCore) : (s.setMcore m c).stamp = s.stamp := rfl
@[simp] theorem setMcore_freeCtr (m : Nat) (c : MCore) : (s.setMcore m c).freeCtr = s.freeCtr := rfl
@[simp] theorem setMcore_out (m : Nat) (c : MCore) : (s.setMcore m c).out = s.out := rfl
@[simp] theorem setMcore_climbs (m : Nat) (c : MCore) : (s.setMcore m c).climbs = s.climbs := rfl
@[simp] theorem setMcore_cores (m : Nat) (c : MCore) : (s.setMcore m c).cores = s.cores := rfl
@[simp] theorem setMcore_jobs (m : Nat) (c : MCore) : (s.setMcore m c).jobs = s.jobs := rfl
@[simp] theorem setMcore_bufs (m : Nat) (c : MCore) : (s.setMcore m c).bufs = s.bufs := rfl
@[simp] theorem setMcore_gens (m : Nat) (c : MCore) : (s.setMcore m c).gens = s.gens := rfl
@[simp] theorem setMcore_wipes (m : Nat) (c : MCore) : (s.setMcore m c).wipes = s.wipes := rfl
@[simp] theorem setMcore_calls (m : Nat) (c : MCore) : (s.setMcore m c).calls = s.calls := rfl
@[simp] theorem setMcore_internalCpl (m : Nat) (c : MCore) : (s.setMcore m c).internalCpl = s.internalCpl := rfl
@[simp] theorem setMcore_bell (m : Nat) (c : MCore) : (s.setMcore m c).bell = s.bell := rfl
@[simp] theorem setMcore_lopEnded (m : Nat) (c : MCore) : (s.setMcore m c).lopEnded = s.lopEnded := rfl
@[simp] theorem setMcore_sbk (m : Nat) (c : MCore) : (s.setMcore m c).sbk = s.sbk := rfl
@[simp] theorem setMcore_pep (m : Nat) (c : MCore) : (s.setMcore m c).pep = s.pep := rfl
@[simp] theorem setMcore_wdn (m : Nat) (c : MCore) : (s.setMcore m c).wdn = s.wdn := rfl
@[simp] theorem setMcore_fuses (m : Nat) (c : MCore) : (s.setMcore m c).fuses = s.fuses := rfl
@[simp] theorem setMcore_pwr (m : Nat) (c : MCore) : (s.setMcore m c).pwr = s.pwr := rfl
@[simp] theorem setMcore_drcs (m : Nat) (c : MCore) : (s.setMcore m c).drcs = s.drcs := rfl
@[simp] theorem setMcore_rope (m : Nat) (c : MCore) : (s.setMcore m c).rope = s.rope := rfl
@[simp] theorem setMcore_crn (m : Nat) (c : MCore) : (s.setMcore m c).crn = s.crn := rfl
@[simp] theorem setMcore_pair (m : Nat) (c : MCore) : (s.setMcore m c).pair = s.pair := rfl
@[simp] theorem setMcore_pools (m : Nat) (c : MCore) : (s.setMcore m c).pools = s.pools := rfl
@[simp] theorem setMcore_host (m : Nat) (c : MCore) : (s.setMcore m c).host = s.host := rfl
@[simp] theorem setMcore_digs (m : Nat) (c : MCore) : (s.setMcore m c).digs = s.digs := rfl
@[simp] theorem setMcore_mapc (m : Nat) (c : MCore) : (s.setMcore m c).mapc = s.mapc := rfl
@[simp] theorem setMcore_keySlots (m : Nat) (c : MCore) : (s.setMcore m c).keySlots = s.keySlots := rfl
@[simp] theorem setMcore_poisoned (m : Nat) (c : MCore) : (s.setMcore m c).poisoned = s.poisoned := rfl
@[simp] theorem setMcore_tvsFrozen (m : Nat) (c : MCore) : (s.setMcore m c).tvsFrozen = s.tvsFrozen := rfl
@[simp] theorem setMcore_nch (m : Nat) (c : MCore) : (s.setMcore m c).nch = s.nch := rfl
@[simp] theorem setMcore_idxStore (m : Nat) (c : MCore) : (s.setMcore m c).idxStore = s.idxStore := rfl
@[simp] theorem setMcore_ports (m : Nat) (c : MCore) : (s.setMcore m c).ports = s.ports := rfl
@[simp] theorem setMcore_modules (m : Nat) (c : MCore) : (s.setMcore m c).modules = s.modules := rfl
@[simp] theorem setMcore_svc (m : Nat) (c : MCore) : (s.setMcore m c).svc = s.svc := rfl
@[simp] theorem setMcore_plans (m : Nat) (c : MCore) : (s.setMcore m c).plans = s.plans := rfl
@[simp] theorem setMcore_ckpts (m : Nat) (c : MCore) : (s.setMcore m c).ckpts = s.ckpts := rfl
@[simp] theorem setMcore_upd (m : Nat) (c : MCore) : (s.setMcore m c).upd = s.upd := rfl
@[simp] theorem setMcore_tvsBack (m : Nat) (c : MCore) : (s.setMcore m c).tvsBack = s.tvsBack := rfl
@[simp] theorem setMcore_harvested (m : Nat) (c : MCore) : (s.setMcore m c).harvested = s.harvested := rfl
@[simp] theorem setMcore_harvestedAt (m : Nat) (c : MCore) : (s.setMcore m c).harvestedAt = s.harvestedAt := rfl
@[simp] theorem setMcore_wipeJob (m : Nat) (c : MCore) : (s.setMcore m c).wipeJob = s.wipeJob := rfl

/-! ### setNch -/

@[simp] theorem setNch_pending (c : Nat) (x : NchCtx) : (s.setNch c x).pending = s.pending := rfl
@[simp] theorem setNch_regs (c : Nat) (x : NchCtx) : (s.setNch c x).regs = s.regs := rfl
@[simp] theorem setNch_mem (c : Nat) (x : NchCtx) : (s.setNch c x).mem = s.mem := rfl
@[simp] theorem setNch_time (c : Nat) (x : NchCtx) : (s.setNch c x).time = s.time := rfl
@[simp] theorem setNch_subTick (c : Nat) (x : NchCtx) : (s.setNch c x).subTick = s.subTick := rfl
@[simp] theorem setNch_stamp (c : Nat) (x : NchCtx) : (s.setNch c x).stamp = s.stamp := rfl
@[simp] theorem setNch_freeCtr (c : Nat) (x : NchCtx) : (s.setNch c x).freeCtr = s.freeCtr := rfl
@[simp] theorem setNch_out (c : Nat) (x : NchCtx) : (s.setNch c x).out = s.out := rfl
@[simp] theorem setNch_climbs (c : Nat) (x : NchCtx) : (s.setNch c x).climbs = s.climbs := rfl
@[simp] theorem setNch_cores (c : Nat) (x : NchCtx) : (s.setNch c x).cores = s.cores := rfl
@[simp] theorem setNch_mcores (c : Nat) (x : NchCtx) : (s.setNch c x).mcores = s.mcores := rfl
@[simp] theorem setNch_jobs (c : Nat) (x : NchCtx) : (s.setNch c x).jobs = s.jobs := rfl
@[simp] theorem setNch_bufs (c : Nat) (x : NchCtx) : (s.setNch c x).bufs = s.bufs := rfl
@[simp] theorem setNch_gens (c : Nat) (x : NchCtx) : (s.setNch c x).gens = s.gens := rfl
@[simp] theorem setNch_wipes (c : Nat) (x : NchCtx) : (s.setNch c x).wipes = s.wipes := rfl
@[simp] theorem setNch_calls (c : Nat) (x : NchCtx) : (s.setNch c x).calls = s.calls := rfl
@[simp] theorem setNch_internalCpl (c : Nat) (x : NchCtx) : (s.setNch c x).internalCpl = s.internalCpl := rfl
@[simp] theorem setNch_bell (c : Nat) (x : NchCtx) : (s.setNch c x).bell = s.bell := rfl
@[simp] theorem setNch_lopEnded (c : Nat) (x : NchCtx) : (s.setNch c x).lopEnded = s.lopEnded := rfl
@[simp] theorem setNch_sbk (c : Nat) (x : NchCtx) : (s.setNch c x).sbk = s.sbk := rfl
@[simp] theorem setNch_pep (c : Nat) (x : NchCtx) : (s.setNch c x).pep = s.pep := rfl
@[simp] theorem setNch_wdn (c : Nat) (x : NchCtx) : (s.setNch c x).wdn = s.wdn := rfl
@[simp] theorem setNch_fuses (c : Nat) (x : NchCtx) : (s.setNch c x).fuses = s.fuses := rfl
@[simp] theorem setNch_pwr (c : Nat) (x : NchCtx) : (s.setNch c x).pwr = s.pwr := rfl
@[simp] theorem setNch_drcs (c : Nat) (x : NchCtx) : (s.setNch c x).drcs = s.drcs := rfl
@[simp] theorem setNch_rope (c : Nat) (x : NchCtx) : (s.setNch c x).rope = s.rope := rfl
@[simp] theorem setNch_crn (c : Nat) (x : NchCtx) : (s.setNch c x).crn = s.crn := rfl
@[simp] theorem setNch_pair (c : Nat) (x : NchCtx) : (s.setNch c x).pair = s.pair := rfl
@[simp] theorem setNch_pools (c : Nat) (x : NchCtx) : (s.setNch c x).pools = s.pools := rfl
@[simp] theorem setNch_host (c : Nat) (x : NchCtx) : (s.setNch c x).host = s.host := rfl
@[simp] theorem setNch_digs (c : Nat) (x : NchCtx) : (s.setNch c x).digs = s.digs := rfl
@[simp] theorem setNch_mapc (c : Nat) (x : NchCtx) : (s.setNch c x).mapc = s.mapc := rfl
@[simp] theorem setNch_keySlots (c : Nat) (x : NchCtx) : (s.setNch c x).keySlots = s.keySlots := rfl
@[simp] theorem setNch_poisoned (c : Nat) (x : NchCtx) : (s.setNch c x).poisoned = s.poisoned := rfl
@[simp] theorem setNch_tvsFrozen (c : Nat) (x : NchCtx) : (s.setNch c x).tvsFrozen = s.tvsFrozen := rfl
@[simp] theorem setNch_idxStore (c : Nat) (x : NchCtx) : (s.setNch c x).idxStore = s.idxStore := rfl
@[simp] theorem setNch_ports (c : Nat) (x : NchCtx) : (s.setNch c x).ports = s.ports := rfl
@[simp] theorem setNch_modules (c : Nat) (x : NchCtx) : (s.setNch c x).modules = s.modules := rfl
@[simp] theorem setNch_svc (c : Nat) (x : NchCtx) : (s.setNch c x).svc = s.svc := rfl
@[simp] theorem setNch_plans (c : Nat) (x : NchCtx) : (s.setNch c x).plans = s.plans := rfl
@[simp] theorem setNch_ckpts (c : Nat) (x : NchCtx) : (s.setNch c x).ckpts = s.ckpts := rfl
@[simp] theorem setNch_upd (c : Nat) (x : NchCtx) : (s.setNch c x).upd = s.upd := rfl
@[simp] theorem setNch_tvsBack (c : Nat) (x : NchCtx) : (s.setNch c x).tvsBack = s.tvsBack := rfl
@[simp] theorem setNch_harvested (c : Nat) (x : NchCtx) : (s.setNch c x).harvested = s.harvested := rfl
@[simp] theorem setNch_harvestedAt (c : Nat) (x : NchCtx) : (s.setNch c x).harvestedAt = s.harvestedAt := rfl
@[simp] theorem setNch_wipeJob (c : Nat) (x : NchCtx) : (s.setNch c x).wipeJob = s.wipeJob := rfl

/-! ### setPool -/

@[simp] theorem setPool_pending (p : Nat) (x : Pool) : (s.setPool p x).pending = s.pending := rfl
@[simp] theorem setPool_regs (p : Nat) (x : Pool) : (s.setPool p x).regs = s.regs := rfl
@[simp] theorem setPool_mem (p : Nat) (x : Pool) : (s.setPool p x).mem = s.mem := rfl
@[simp] theorem setPool_time (p : Nat) (x : Pool) : (s.setPool p x).time = s.time := rfl
@[simp] theorem setPool_subTick (p : Nat) (x : Pool) : (s.setPool p x).subTick = s.subTick := rfl
@[simp] theorem setPool_stamp (p : Nat) (x : Pool) : (s.setPool p x).stamp = s.stamp := rfl
@[simp] theorem setPool_freeCtr (p : Nat) (x : Pool) : (s.setPool p x).freeCtr = s.freeCtr := rfl
@[simp] theorem setPool_out (p : Nat) (x : Pool) : (s.setPool p x).out = s.out := rfl
@[simp] theorem setPool_climbs (p : Nat) (x : Pool) : (s.setPool p x).climbs = s.climbs := rfl
@[simp] theorem setPool_cores (p : Nat) (x : Pool) : (s.setPool p x).cores = s.cores := rfl
@[simp] theorem setPool_mcores (p : Nat) (x : Pool) : (s.setPool p x).mcores = s.mcores := rfl
@[simp] theorem setPool_jobs (p : Nat) (x : Pool) : (s.setPool p x).jobs = s.jobs := rfl
@[simp] theorem setPool_bufs (p : Nat) (x : Pool) : (s.setPool p x).bufs = s.bufs := rfl
@[simp] theorem setPool_gens (p : Nat) (x : Pool) : (s.setPool p x).gens = s.gens := rfl
@[simp] theorem setPool_wipes (p : Nat) (x : Pool) : (s.setPool p x).wipes = s.wipes := rfl
@[simp] theorem setPool_calls (p : Nat) (x : Pool) : (s.setPool p x).calls = s.calls := rfl
@[simp] theorem setPool_internalCpl (p : Nat) (x : Pool) : (s.setPool p x).internalCpl = s.internalCpl := rfl
@[simp] theorem setPool_bell (p : Nat) (x : Pool) : (s.setPool p x).bell = s.bell := rfl
@[simp] theorem setPool_lopEnded (p : Nat) (x : Pool) : (s.setPool p x).lopEnded = s.lopEnded := rfl
@[simp] theorem setPool_sbk (p : Nat) (x : Pool) : (s.setPool p x).sbk = s.sbk := rfl
@[simp] theorem setPool_pep (p : Nat) (x : Pool) : (s.setPool p x).pep = s.pep := rfl
@[simp] theorem setPool_wdn (p : Nat) (x : Pool) : (s.setPool p x).wdn = s.wdn := rfl
@[simp] theorem setPool_fuses (p : Nat) (x : Pool) : (s.setPool p x).fuses = s.fuses := rfl
@[simp] theorem setPool_pwr (p : Nat) (x : Pool) : (s.setPool p x).pwr = s.pwr := rfl
@[simp] theorem setPool_drcs (p : Nat) (x : Pool) : (s.setPool p x).drcs = s.drcs := rfl
@[simp] theorem setPool_rope (p : Nat) (x : Pool) : (s.setPool p x).rope = s.rope := rfl
@[simp] theorem setPool_crn (p : Nat) (x : Pool) : (s.setPool p x).crn = s.crn := rfl
@[simp] theorem setPool_pair (p : Nat) (x : Pool) : (s.setPool p x).pair = s.pair := rfl
@[simp] theorem setPool_host (p : Nat) (x : Pool) : (s.setPool p x).host = s.host := rfl
@[simp] theorem setPool_digs (p : Nat) (x : Pool) : (s.setPool p x).digs = s.digs := rfl
@[simp] theorem setPool_mapc (p : Nat) (x : Pool) : (s.setPool p x).mapc = s.mapc := rfl
@[simp] theorem setPool_keySlots (p : Nat) (x : Pool) : (s.setPool p x).keySlots = s.keySlots := rfl
@[simp] theorem setPool_poisoned (p : Nat) (x : Pool) : (s.setPool p x).poisoned = s.poisoned := rfl
@[simp] theorem setPool_tvsFrozen (p : Nat) (x : Pool) : (s.setPool p x).tvsFrozen = s.tvsFrozen := rfl
@[simp] theorem setPool_nch (p : Nat) (x : Pool) : (s.setPool p x).nch = s.nch := rfl
@[simp] theorem setPool_idxStore (p : Nat) (x : Pool) : (s.setPool p x).idxStore = s.idxStore := rfl
@[simp] theorem setPool_ports (p : Nat) (x : Pool) : (s.setPool p x).ports = s.ports := rfl
@[simp] theorem setPool_modules (p : Nat) (x : Pool) : (s.setPool p x).modules = s.modules := rfl
@[simp] theorem setPool_svc (p : Nat) (x : Pool) : (s.setPool p x).svc = s.svc := rfl
@[simp] theorem setPool_plans (p : Nat) (x : Pool) : (s.setPool p x).plans = s.plans := rfl
@[simp] theorem setPool_ckpts (p : Nat) (x : Pool) : (s.setPool p x).ckpts = s.ckpts := rfl
@[simp] theorem setPool_upd (p : Nat) (x : Pool) : (s.setPool p x).upd = s.upd := rfl
@[simp] theorem setPool_tvsBack (p : Nat) (x : Pool) : (s.setPool p x).tvsBack = s.tvsBack := rfl
@[simp] theorem setPool_harvested (p : Nat) (x : Pool) : (s.setPool p x).harvested = s.harvested := rfl
@[simp] theorem setPool_harvestedAt (p : Nat) (x : Pool) : (s.setPool p x).harvestedAt = s.harvestedAt := rfl
@[simp] theorem setPool_wipeJob (p : Nat) (x : Pool) : (s.setPool p x).wipeJob = s.wipeJob := rfl

/-! ### updPool -/

@[simp] theorem updPool_pending (p : Nat) (f : Pool → Pool) : (s.updPool p f).pending = s.pending := rfl
@[simp] theorem updPool_regs (p : Nat) (f : Pool → Pool) : (s.updPool p f).regs = s.regs := rfl
@[simp] theorem updPool_mem (p : Nat) (f : Pool → Pool) : (s.updPool p f).mem = s.mem := rfl
@[simp] theorem updPool_time (p : Nat) (f : Pool → Pool) : (s.updPool p f).time = s.time := rfl
@[simp] theorem updPool_subTick (p : Nat) (f : Pool → Pool) : (s.updPool p f).subTick = s.subTick := rfl
@[simp] theorem updPool_stamp (p : Nat) (f : Pool → Pool) : (s.updPool p f).stamp = s.stamp := rfl
@[simp] theorem updPool_freeCtr (p : Nat) (f : Pool → Pool) : (s.updPool p f).freeCtr = s.freeCtr := rfl
@[simp] theorem updPool_out (p : Nat) (f : Pool → Pool) : (s.updPool p f).out = s.out := rfl
@[simp] theorem updPool_climbs (p : Nat) (f : Pool → Pool) : (s.updPool p f).climbs = s.climbs := rfl
@[simp] theorem updPool_cores (p : Nat) (f : Pool → Pool) : (s.updPool p f).cores = s.cores := rfl
@[simp] theorem updPool_mcores (p : Nat) (f : Pool → Pool) : (s.updPool p f).mcores = s.mcores := rfl
@[simp] theorem updPool_jobs (p : Nat) (f : Pool → Pool) : (s.updPool p f).jobs = s.jobs := rfl
@[simp] theorem updPool_bufs (p : Nat) (f : Pool → Pool) : (s.updPool p f).bufs = s.bufs := rfl
@[simp] theorem updPool_gens (p : Nat) (f : Pool → Pool) : (s.updPool p f).gens = s.gens := rfl
@[simp] theorem updPool_wipes (p : Nat) (f : Pool → Pool) : (s.updPool p f).wipes = s.wipes := rfl
@[simp] theorem updPool_calls (p : Nat) (f : Pool → Pool) : (s.updPool p f).calls = s.calls := rfl
@[simp] theorem updPool_internalCpl (p : Nat) (f : Pool → Pool) : (s.updPool p f).internalCpl = s.internalCpl := rfl
@[simp] theorem updPool_bell (p : Nat) (f : Pool → Pool) : (s.updPool p f).bell = s.bell := rfl
@[simp] theorem updPool_lopEnded (p : Nat) (f : Pool → Pool) : (s.updPool p f).lopEnded = s.lopEnded := rfl
@[simp] theorem updPool_sbk (p : Nat) (f : Pool → Pool) : (s.updPool p f).sbk = s.sbk := rfl
@[simp] theorem updPool_pep (p : Nat) (f : Pool → Pool) : (s.updPool p f).pep = s.pep := rfl
@[simp] theorem updPool_wdn (p : Nat) (f : Pool → Pool) : (s.updPool p f).wdn = s.wdn := rfl
@[simp] theorem updPool_fuses (p : Nat) (f : Pool → Pool) : (s.updPool p f).fuses = s.fuses := rfl
@[simp] theorem updPool_pwr (p : Nat) (f : Pool → Pool) : (s.updPool p f).pwr = s.pwr := rfl
@[simp] theorem updPool_drcs (p : Nat) (f : Pool → Pool) : (s.updPool p f).drcs = s.drcs := rfl
@[simp] theorem updPool_rope (p : Nat) (f : Pool → Pool) : (s.updPool p f).rope = s.rope := rfl
@[simp] theorem updPool_crn (p : Nat) (f : Pool → Pool) : (s.updPool p f).crn = s.crn := rfl
@[simp] theorem updPool_pair (p : Nat) (f : Pool → Pool) : (s.updPool p f).pair = s.pair := rfl
@[simp] theorem updPool_host (p : Nat) (f : Pool → Pool) : (s.updPool p f).host = s.host := rfl
@[simp] theorem updPool_digs (p : Nat) (f : Pool → Pool) : (s.updPool p f).digs = s.digs := rfl
@[simp] theorem updPool_mapc (p : Nat) (f : Pool → Pool) : (s.updPool p f).mapc = s.mapc := rfl
@[simp] theorem updPool_keySlots (p : Nat) (f : Pool → Pool) : (s.updPool p f).keySlots = s.keySlots := rfl
@[simp] theorem updPool_poisoned (p : Nat) (f : Pool → Pool) : (s.updPool p f).poisoned = s.poisoned := rfl
@[simp] theorem updPool_tvsFrozen (p : Nat) (f : Pool → Pool) : (s.updPool p f).tvsFrozen = s.tvsFrozen := rfl
@[simp] theorem updPool_nch (p : Nat) (f : Pool → Pool) : (s.updPool p f).nch = s.nch := rfl
@[simp] theorem updPool_idxStore (p : Nat) (f : Pool → Pool) : (s.updPool p f).idxStore = s.idxStore := rfl
@[simp] theorem updPool_ports (p : Nat) (f : Pool → Pool) : (s.updPool p f).ports = s.ports := rfl
@[simp] theorem updPool_modules (p : Nat) (f : Pool → Pool) : (s.updPool p f).modules = s.modules := rfl
@[simp] theorem updPool_svc (p : Nat) (f : Pool → Pool) : (s.updPool p f).svc = s.svc := rfl
@[simp] theorem updPool_plans (p : Nat) (f : Pool → Pool) : (s.updPool p f).plans = s.plans := rfl
@[simp] theorem updPool_ckpts (p : Nat) (f : Pool → Pool) : (s.updPool p f).ckpts = s.ckpts := rfl
@[simp] theorem updPool_upd (p : Nat) (f : Pool → Pool) : (s.updPool p f).upd = s.upd := rfl
@[simp] theorem updPool_tvsBack (p : Nat) (f : Pool → Pool) : (s.updPool p f).tvsBack = s.tvsBack := rfl
@[simp] theorem updPool_harvested (p : Nat) (f : Pool → Pool) : (s.updPool p f).harvested = s.harvested := rfl
@[simp] theorem updPool_harvestedAt (p : Nat) (f : Pool → Pool) : (s.updPool p f).harvestedAt = s.harvestedAt := rfl
@[simp] theorem updPool_wipeJob (p : Nat) (f : Pool → Pool) : (s.updPool p f).wipeJob = s.wipeJob := rfl

/-! ### Accessors after updates -/

@[simp] theorem wrBytes_mem (a : Nat) (d : Bytes) : (s.wrBytes a d).mem = Mem.writeBytes s.mem a d := rfl
@[simp] theorem used_freeCtr : s.used.freeCtr = s.freeCtr + 1 := rfl
@[simp] theorem tick_stamp : s.tick.stamp = s.stamp + 1 := rfl
@[simp] theorem emit_out (o : Out) : (s.emit o).out = s.out ++ [o] := rfl

/-- Registers keep the canonical form of their table. -/
theorem setReg_sorted (off : Nat) (v : W64) (h : Tbl.sorted s.regs = true) : Tbl.sorted (s.setReg off v).regs = true := by
  unfold setReg
  split
  · exact Tbl.sorted_del h off
  · exact Tbl.sorted_set h off v

theorem reg_setReg_same (off : Nat) (v : W64) (h : Tbl.sorted s.regs = true) : (s.setReg off v).reg off = v := by
  unfold reg setReg Tbl.getD
  split
  · rename_i e; simp only [Tbl.find_del_same h]; exact e.symm
  · simp only [Tbl.find_set_same]; rfl

theorem reg_setReg_other (off : Nat) (v : W64) {i : Nat} (h : i ≠ off) : (s.setReg off v).reg i = s.reg i := by
  unfold reg setReg Tbl.getD
  split
  · simp only [Tbl.find_del_other _ h]
  · simp only [Tbl.find_set_other _ v h]

@[simp] theorem climb_setClimb (cid i : Nat) (c : Climb) : (s.setClimb cid c).climb i = if i = cid then c else s.climb i := by
  simp only [climb, setClimb, Tbl.getD, Tbl.find_set]
  split <;> rfl

@[simp] theorem core_setCore (k i : Nat) (c : DCore) : (s.setCore k c).core i = if i = k then c else s.core i := by
  simp only [core, setCore, Tbl.getD, Tbl.find_set]
  split <;> rfl

@[simp] theorem mcore_setMcore (m i : Nat) (c : MCore) : (s.setMcore m c).mcore i = if i = m then c else s.mcore i := by
  simp only [mcore, setMcore, Tbl.getD, Tbl.find_set]
  split <;> rfl

end Sys2Proof.Machine.State
end

