-- ==== Sys2Proof/Laws/Ez.lean ====
section
/-! SUPPORT. What the shared operations of the Ezsol instructions do, said once: executing on a core that issues, writing a
general register and moving the pc. -/

namespace Sys2Proof.Machine.State

variable {s : State} {a : Agent}

theorem issues_iff : s.issues a = true ↔ s.ready a = true ∧ s.fetchOk a = true := by simp [issues]

@[simp] theorem agentCid_awake (s : State) (a b : Agent) : (s.awake a).agentCid b = s.agentCid b := by
  cases a <;> cases b <;> rfl

@[simp] theorem fetchOk_awake (s : State) (a : Agent) : (s.awake a).fetchOk a = s.fetchOk a := by cases a <;> rfl

@[simp] theorem climb_awake (s : State) (a : Agent) (cid : Nat) : (s.awake a).climb cid = s.climb cid := by cases a <;> rfl

@[simp] theorem getG_awake (s : State) (a : Agent) (x : BitVec 5) : (s.awake a).getG a x = s.getG a x := by
  cases a with
  | dp r c => rfl
  | mg m => simp [awake, getG]

@[simp] theorem pcOf_awake (s : State) (a : Agent) : (s.awake a).pcOf a = s.pcOf a := by
  cases a with
  | dp r c => rfl
  | mg m => simp [awake, pcOf]

/-- A core that issues runs the instruction's own effect. -/
theorem ez_issues (h : s.issues a = true) (f : State → State) : s.ez a f = f (s.awake a) := by
  obtain ⟨h1, h2⟩ := issues_iff.1 h
  simp [ez, h1, h2]

/-- A core that executes nothing is left alone. -/
theorem ez_idle (h : s.ready a = false) (f : State → State) : s.ez a f = s := by simp [ez, h]

theorem ready_cid {r c : Nat} (h : s.ready (.dp r c) = true) : ∃ cid, s.agentCid (.dp r c) = some cid := by
  simpa [ready, Option.isSome_iff_exists] using h

@[simp] theorem agentCid_updClimb (s : State) (a : Agent) (cid : Nat) (f : Climb → Climb) :
    (s.updClimb cid f).agentCid a = s.agentCid a := by cases a <;> rfl

@[simp] theorem agentCid_setMcore (s : State) (a : Agent) (m : Nat) (c : MCore) :
    (s.setMcore m c).agentCid a = s.agentCid a := by cases a <;> rfl

@[simp] theorem climb_updClimb (s : State) (cid i : Nat) (f : Climb → Climb) :
    (s.updClimb cid f).climb i = if i = cid then f (s.climb cid) else s.climb i := by simp [updClimb]

@[simp] theorem mcore_updClimb (s : State) (cid m : Nat) (f : Climb → Climb) : (s.updClimb cid f).mcore m = s.mcore m := rfl

@[simp] theorem climb_setMcore (s : State) (m cid : Nat) (c : MCore) : (s.setMcore m c).climb cid = s.climb cid := rfl

theorem getD_set {l : List W64} {n : Nat} (h : n < l.length) (v : W64) (m : Nat) :
    (l.set n v).getD m 0 = if m = n then v else l.getD m 0 := by
  simp only [List.getD_eq_getElem?_getD, List.getElem?_set]
  split <;> simp_all [eq_comm]

/-- `wr` and a new pc on a climb's core, as one update of its context. -/
theorem wr_setPc_dp {r c cid : Nat} (hc : s.agentCid (.dp r c) = some cid) (rd : BitVec 5) (v p : W64) :
    (s.wr (.dp r c) rd v).setPc (.dp r c) p
      = if rd = 0 then s.updClimb cid (fun x => { x with pc := p })
        else (s.updClimb cid (fun x => { x with g := x.g.set rd.toNat v })).updClimb cid (fun x => { x with pc := p }) := by
  unfold wr
  split <;> simp [setPc, hc]

/-- What `wr` followed by a new pc does: the register, the other registers, the pc, and nothing else. -/
theorem wr_setPc_spec (h : s.issues a = true) (hf : s.filesWhole a = true) (rd : BitVec 5) (v p : W64) :
    (((s.awake a).wr a rd v).setPc a p).getG a rd = (if rd = 0 then 0 else v) ∧
    (∀ x, x ≠ rd → (((s.awake a).wr a rd v).setPc a p).getG a x = s.getG a x) ∧
    (((s.awake a).wr a rd v).setPc a p).pcOf a = p ∧ onlyRegs a s (((s.awake a).wr a rd v).setPc a p) := by
  obtain ⟨h1, -⟩ := issues_iff.1 h
  cases a with
  | dp r c =>
    obtain ⟨cid, hc⟩ := ready_cid h1
    simp only [filesWhole, hc, Bool.and_eq_true, decide_eq_true_eq] at hf
    obtain ⟨⟨hg, -⟩, -⟩ := hf
    have ha : s.awake (.dp r c) = s := rfl
    rw [ha, wr_setPc_dp hc]
    have key : ∀ x : BitVec 5, x ≠ 0 → ((s.climb cid).g.set rd.toNat v).getD x.toNat 0
        = if x = rd then v else (s.climb cid).g.getD x.toNat 0 := fun x _ => by
      rw [getD_set (hg ▸ rd.isLt)]; simp only [BitVec.toNat_inj]
    by_cases hr : rd = 0
    · simp only [hr, if_true, getG, pcOf, agentCid_updClimb, hc, climb_updClimb, onlyRegs]
      refine ⟨trivial, fun x _ => trivial, trivial, ?_, fun i => ?_, fun m => ?_⟩
      · rfl
      · by_cases hi : i = cid
        · subst hi; simp
        · simp [hi, Ne.symm hi]
      · simp
    · simp only [hr, if_false, getG, pcOf, agentCid_updClimb, hc, climb_updClimb, onlyRegs, if_true]
      refine ⟨by rw [key rd hr]; simp, fun x hx => ?_, trivial, ?_, fun i => ?_, fun m => ?_⟩
      · by_cases h0 : x = 0
        · simp [h0]
        · rw [key x h0]; simp [hx]
      · rfl
      · by_cases hi : i = cid
        · subst hi; simp
        · simp [hi, Ne.symm hi]
      · simp
  | mg m =>
    simp only [filesWhole, decide_eq_true_eq] at hf
    have key : ∀ x : BitVec 5, x ≠ 0 → ((s.mcore m).g.set rd.toNat v).getD x.toNat 0
        = if x = rd then v else (s.mcore m).g.getD x.toNat 0 := fun x _ => by
      rw [getD_set (hf ▸ rd.isLt)]; simp only [BitVec.toNat_inj]
    by_cases hr : rd = 0
    · simp only [awake, wr, setPc, hr, if_true, getG, pcOf, mcore_setMcore, onlyRegs]
      refine ⟨trivial, fun x _ => trivial, trivial, ?_, fun i => ?_, fun i => ?_⟩
      · rfl
      · simp [agentCid]
      · by_cases hi : i = m
        · subst hi; simp
        · have : Agent.mg m ≠ Agent.mg i := fun e => hi (by cases e; rfl)
          simp [hi, this]
    · simp only [awake, wr, setPc, hr, if_false, getG, pcOf, mcore_setMcore, onlyRegs, if_true]
      refine ⟨by rw [key rd hr]; simp, fun x hx => ?_, trivial, ?_, fun i => ?_, fun i => ?_⟩
      · by_cases h0 : x = 0
        · simp [h0]
        · rw [key x h0]; simp [hx]
      · rfl
      · simp [agentCid]
      · by_cases hi : i = m
        · subst hi; simp
        · have : Agent.mg m ≠ Agent.mg i := fun e => hi (by cases e; rfl)
          simp [hi, this]

@[simp] theorem pcOf_wr (s : State) (a : Agent) (rd : BitVec 5) (v : W64) : (s.wr a rd v).pcOf a = s.pcOf a := by
  unfold wr
  split
  · rfl
  · cases a with
    | dp r c =>
      cases hc : s.agentCid (.dp r c) with
      | none => simp [pcOf]
      | some cid => simp [pcOf, hc]
    | mg m => simp [pcOf]

/-- What a register result does. -/
theorem result_spec (h : s.issues a = true) (hf : s.filesWhole a = true) (rd : BitVec 5) (v : W64) :
    ((s.awake a).result a rd v).getG a rd = (if rd = 0 then 0 else v) ∧
    (∀ x, x ≠ rd → ((s.awake a).result a rd v).getG a x = s.getG a x) ∧
    ((s.awake a).result a rd v).pcOf a = s.pcOf a + 4 ∧ onlyRegs a s ((s.awake a).result a rd v) := by
  have := wr_setPc_spec h hf rd v (s.pcOf a + 4)
  simpa only [result, adv, pcOf_wr, pcOf_awake] using this

/-- A move of the pc alone. -/
theorem setPc_spec (h : s.issues a = true) (hf : s.filesWhole a = true) (p : W64) :
    (∀ x, ((s.awake a).setPc a p).getG a x = s.getG a x) ∧
    ((s.awake a).setPc a p).pcOf a = p ∧ onlyRegs a s ((s.awake a).setPc a p) := by
  have := wr_setPc_spec h hf 0 0 p
  have e : (s.awake a).wr a 0 0 = s.awake a := by simp [wr]
  rw [e] at this
  refine ⟨fun x => ?_, this.2.2⟩
  by_cases hx : x = 0
  · simp [getG, hx]
  · exact this.2.1 x hx

end Sys2Proof.Machine.State
end

