-- ==== Sys2Proof/Laws/Rope.lean ====
section
/-! SUPPORT. Byte strings and numbers, AES-256-GCM as the rope uses it, and that a frame built under a key is received under it. -/

namespace Sys2Proof.Machine

open State

@[simp] theorem leBytes_length (n v : Nat) : (leBytes n v).length = n := by
  induction n generalizing v with
  | zero => rfl
  | succ n ih => simp [leBytes, ih]

theorem leNat_leBytes (n v : Nat) : leNat (leBytes n v) = v % 256 ^ n := by
  induction n generalizing v with
  | zero => simp [leBytes, leNat, Nat.mod_one]
  | succ n ih =>
    simp only [leBytes, leNat, ih, BitVec.toNat_ofNat]
    rw [show (256 : Nat) ^ (n + 1) = 2 ^ 8 * 256 ^ n by rw [Nat.pow_succ]; omega, Nat.mod_mul]
    rfl

/-- A field that stands behind `a.length` bytes reads as it was written. -/
theorem fieldAt_append (a c : Bytes) (n v : Nat) : fieldAt (a ++ (leBytes n v ++ c)) a.length n = v % 256 ^ n := by
  simp [fieldAt, leNat_leBytes]

@[simp] theorem xorB_length (a b : Bytes) : (xorB a b).length = min a.length b.length := by simp [xorB]

theorem xorB_cancel (a k : Bytes) (h : a.length ≤ k.length) : xorB (xorB a k) k = a := by
  induction a generalizing k with
  | nil => rfl
  | cons x a ih =>
    cases k with
    | nil => simp at h
    | cons y k =>
      have := ih k (by simpa using h)
      simp only [xorB] at this
      simp [xorB, this]

theorem aesExpand_words (n i : Nat) (rc : Byte) (l : List Bytes) (hl : 8 ≤ l.length) (hw : ∀ w ∈ l, w.length = 4) :
    (aesExpand n i rc l).length = n + l.length ∧ ∀ w ∈ aesExpand n i rc l, w.length = 4 := by
  induction n generalizing i rc l with
  | zero => simpa [aesExpand] using hw
  | succ n ih =>
    have h0 : (l.headD []).length = 4 := by
      cases l with
      | nil => simp at hl
      | cons x l => exact hw x (by simp)
    have h7 : (l.getD 7 []).length = 4 := by
      rw [List.getD_eq_getElem _ _ (by omega)]
      exact hw _ (List.getElem_mem _)
    simp only [aesExpand]
    generalize l.headD [] = a at h0 ⊢
    generalize l.getD 7 [] = b at h7 ⊢
    have key := ih (i + 1) (if i % 8 = 0 then xtime rc else rc)
      (List.zipWith (· ^^^ ·) b
        (if i % 8 = 0 then List.zipWith (· ^^^ ·) ((a.drop 1 ++ a.take 1).map subByte) [rc, 0, 0, 0]
         else if i % 8 = 4 then a.map subByte else a) :: l)
      (by simp; omega)
      (by
        intro w hm
        rcases List.mem_cons.mp hm with rfl | hm
        · split
          · simp only [List.length_zipWith, List.length_map, List.length_append, List.length_drop, List.length_take, h0, h7]; rfl
          · split <;> simp [h0, h7]
        · exact hw w hm)
    refine ⟨?_, key.2⟩
    rw [key.1]
    simp
    omega

/-- Each of the 15 round keys has 16 bytes. -/
theorem aesKeys_spec (key : Bytes) : ∃ f : Nat → Bytes, (∀ r < 15, (f r).length = 16) ∧
    aesKeys key = f 0 :: (List.range 14).map (fun r => f (r + 1)) := by
  have h := aesExpand_words 52 8 1 ((List.range 8).map (fun i => sliceAt key (4 * i) 4)).reverse (by simp)
    (by
      intro w hw
      simp only [List.mem_reverse, List.mem_map] at hw
      obtain ⟨i, -, rfl⟩ := hw
      simp only [sliceAt, List.length_append, List.length_replicate, List.length_take, List.length_drop]
      omega)
  refine ⟨fun r => ((((aesExpand 52 8 1 ((List.range 8).map (fun i => sliceAt key (4 * i) 4)).reverse).reverse).drop (4 * r)).take 4).flatten,
    ?_, rfl⟩
  intro r hr
  generalize aesExpand 52 8 1 ((List.range 8).map (fun i => sliceAt key (4 * i) 4)).reverse = l at h
  have hlen : l.length = 60 := by rw [h.1]; simp
  have hw : ∀ w ∈ (l.reverse.drop (4 * r)).take 4, w.length = 4 := fun w hm =>
    h.2 w (by simpa using List.mem_of_mem_drop (List.mem_of_mem_take hm))
  have h4 : ((l.reverse.drop (4 * r)).take 4).length = 4 := by simp; omega
  rw [List.length_flatten]
  generalize (l.reverse.drop (4 * r)).take 4 = q at hw h4
  match q, h4, hw with
  | [a, b, c, d], _, hw => simp [hw a (by simp), hw b (by simp), hw c (by simp), hw d (by simp)]

@[simp] theorem aesEnc_length (key blk : Bytes) : (aesEnc key blk).length = 16 := by
  obtain ⟨f, hf, hk⟩ := aesKeys_spec key
  simp only [aesEnc, hk, xorB_length]
  have : ((List.range 14).map (fun r => f (r + 1))).getD 13 [] = f 14 := rfl
  rw [this, hf 14 (by decide)]
  simp [shiftRows]

theorem gctr_spec (key iv : Bytes) (n c : Nat) (d : Bytes) (h : d.length ≤ n) :
    (gctr key iv n c d).length = d.length ∧ gctr key iv n c (gctr key iv n c d) = d := by
  induction n generalizing c d with
  | zero =>
    have : d = [] := List.length_eq_zero_iff.mp (by omega)
    subst this
    simp [gctr]
  | succ n ih =>
    cases d with
    | nil => simp [gctr]
    | cons x d =>
      obtain ⟨hl, hr⟩ := ih (c + 1) ((x :: d).drop 16) (by simp at h ⊢; omega)
      have hx : (xorB ((x :: d).take 16) (aesEnc key (iv ++ beBytes 4 c))).length = min 16 (x :: d).length := by simp; omega
      have hc : xorB (xorB ((x :: d).take 16) (aesEnc key (iv ++ beBytes 4 c))) (aesEnc key (iv ++ beBytes 4 c)) = (x :: d).take 16 :=
        xorB_cancel _ _ (by simp)
      have e : gctr key iv (n + 1) c (x :: d)
          = xorB ((x :: d).take 16) (aesEnc key (iv ++ beBytes 4 c)) ++ gctr key iv n (c + 1) ((x :: d).drop 16) := rfl
      rw [e]
      generalize hb : xorB ((x :: d).take 16) (aesEnc key (iv ++ beBytes 4 c)) = b at hx hc ⊢
      generalize hq : gctr key iv n (c + 1) ((x :: d).drop 16) = q at hl hr ⊢
      have hbq : b.length = 16 ∨ q = [] := by
        by_cases h16 : 16 ≤ (x :: d).length
        · left; omega
        · right; exact List.length_eq_zero_iff.mp (by rw [hl]; simp at h16 ⊢; omega)
      have h1 : (b ++ q).take 16 = b := by
        rcases hbq with hb' | hq'
        · rw [← hb', List.take_left']; rfl
        · rw [hq', List.append_nil]; exact List.take_of_length_le (by omega)
      have h2 : (b ++ q).drop 16 = q := by
        rcases hbq with hb' | hq'
        · rw [← hb', List.drop_left']; rfl
        · rw [hq', List.append_nil]; exact List.drop_of_length_le (by omega)
      refine ⟨by simp [hx, hl]; omega, ?_⟩
      cases hbb : b ++ q with
      | nil =>
        have : b.length = 0 := by have := congrArg List.length hbb; simp at this; simp [this]
        simp at hx
        omega
      | cons y z =>
        have e2 : gctr key iv (n + 1) c (y :: z)
          = xorB ((y :: z).take 16) (aesEnc key (iv ++ beBytes 4 c)) ++ gctr key iv n (c + 1) ((y :: z).drop 16) := rfl
        rw [e2, ← hbb, h1, h2, hc, hr, List.take_append_drop]

@[simp] theorem gcmCrypt_length (key iv d : Bytes) : (gcmCrypt key iv d).length = d.length := (gctr_spec key iv _ 2 d (Nat.le_refl _)).1

/-- Decryption undoes encryption. -/
theorem gcmCrypt_gcmCrypt (key iv d : Bytes) : gcmCrypt key iv (gcmCrypt key iv d) = d := by
  have h := gctr_spec key iv d.length 2 d (Nat.le_refl _)
  have e : gcmCrypt key iv d = gctr key iv d.length 2 d := rfl
  rw [gcmCrypt, e, h.1]
  exact h.2

@[simp] theorem gcmTag_length (key iv a c : Bytes) : (gcmTag key iv a c).length = 16 := by
  simp [gcmTag, beBytes]

/-- A frame of a TYPE with a payload under a session key, as the other end sends it (R314). -/
def frameOf (k : RopeKey) (typ flags counter ack : Nat) (d : Bytes) : Bytes :=
  let h := ropeHeader typ flags d.length counter ack
  let c := gcmCrypt k.key (ropeIv k counter) d
  h ++ c ++ gcmTag k.key (ropeIv k counter) h c

/-- A frame in sequence under the receiver's key is received with its payload (R314, R316). -/
theorem recvRope_frameOf (s : State) (k : RopeKey) (typ flags ack : Nat) (d : Bytes) (hk : s.rope.rxKey = some k)
    (ht : 1 ≤ typ ∧ typ ≤ 10) (hd : d.length ≤ 16384) (hc : s.rope.rxCount + 1 < 2 ^ 64) :
    s.recvRope typ (frameOf k typ flags (s.rope.rxCount + 1) ack d)
      = (some d, s.acceptFrame (frameOf k typ flags (s.rope.rxCount + 1) ack d)) := by
  generalize hn : s.rope.rxCount + 1 = n at hc
  generalize hh : ropeHeader typ flags d.length n ack = h
  generalize hct : gcmCrypt k.key (ropeIv k n) d = c
  generalize htg : gcmTag k.key (ropeIv k n) h c = t
  have hf : frameOf k typ flags n ack d = h ++ c ++ t := by simp only [frameOf, hh, hct, htg]
  have lh : h.length = 24 := by rw [← hh]; simp [ropeHeader]
  have lc : c.length = d.length := by rw [← hct]; simp
  have lt : t.length = 16 := by rw [← htg]; simp
  have eh : h = leBytes 2 0x9E17 ++ leBytes 1 typ ++ leBytes 1 flags ++ leBytes 4 d.length ++ leBytes 8 n ++ leBytes 8 ack := hh.symm
  have f0 : fieldAt (h ++ c ++ t) 0 2 = 0x9E17 := by
    have := fieldAt_append [] (leBytes 1 typ ++ leBytes 1 flags ++ leBytes 4 d.length ++ leBytes 8 n ++ leBytes 8 ack ++ c ++ t) 2 0x9E17
    rw [eh]; simpa using this
  have f2 : fieldAt (h ++ c ++ t) 2 1 = typ := by
    have := fieldAt_append (leBytes 2 0x9E17) (leBytes 1 flags ++ leBytes 4 d.length ++ leBytes 8 n ++ leBytes 8 ack ++ c ++ t) 1 typ
    rw [eh]; simp only [List.append_assoc, leBytes_length] at this ⊢; rw [this]; omega
  have f4 : fieldAt (h ++ c ++ t) 4 4 = d.length := by
    have := fieldAt_append (leBytes 2 0x9E17 ++ leBytes 1 typ ++ leBytes 1 flags) (leBytes 8 n ++ leBytes 8 ack ++ c ++ t) 4 d.length
    rw [eh]; simp only [List.append_assoc, List.length_append, leBytes_length] at this ⊢; rw [this]; omega
  have f8 : fieldAt (h ++ c ++ t) 8 8 = n := by
    have := fieldAt_append (leBytes 2 0x9E17 ++ leBytes 1 typ ++ leBytes 1 flags ++ leBytes 4 d.length) (leBytes 8 ack ++ c ++ t) 8 n
    rw [eh]; simp only [List.append_assoc, List.length_append, leBytes_length] at this ⊢; rw [this]; omega
  have tk : (h ++ c ++ t).take 24 = h := by rw [List.append_assoc, ← lh, List.take_left']; rfl
  have dr : ((h ++ c ++ t).drop 24).take d.length = c := by
    rw [List.append_assoc, ← lh, List.drop_left' rfl, ← lc, List.take_left' rfl]
  have sl : sliceAt (h ++ c ++ t) (24 + d.length) 16 = t := by
    have : (h ++ c ++ t).drop (24 + d.length) = t := List.drop_left' (by simp [lh, lc])
    unfold sliceAt
    rw [this]
    simp [lt, List.take_of_length_le]
  have ok : frameOk k (h ++ c ++ t) = true := by simp only [frameOk, f4, f8, tk, dr, sl, htg, decide_true]
  rw [hf]
  have nb : ¬ ((h ++ c ++ t).length < 40 ∨ (h ++ c ++ t).length ≠ 40 + fieldAt (h ++ c ++ t) 4 4 ∨ fieldAt (h ++ c ++ t) 0 2 ≠ 0x9E17 ∨
      fieldAt (h ++ c ++ t) 2 1 < 1 ∨ fieldAt (h ++ c ++ t) 2 1 > 10 ∨ fieldAt (h ++ c ++ t) 4 4 > 16384) := by
    rw [f0, f2, f4]; simp [lh, lc, lt]; omega
  unfold recvRope
  simp only [if_neg nb]
  simp only [f2, hk, ok, f8, f4, dr, hn, ne_eq, not_true, if_false, if_true]
  rw [← hct, gcmCrypt_gcmCrypt]
end Sys2Proof.Machine
end

