-- ==== Sys2Proof/Tests/Slice0.lean ====
section
/-! SUPPORT. The model's own tests: well-formedness refuses ill-formed terms, the words of the Ezsol encodings decode, and for
each statement states and operands that meet its hypotheses. -/

open Sys2Proof Sys2Proof.Machine Sys2Proof.Machine.State

namespace Sys2Proof.Tests

set_option Elab.async false

/-- Core 0 of ridge 0 runs climb 0 on route 0: code of 4 KiB at 0x1000, handler at 0x1100. -/
def dpS : State :=
  { State.reset with
    mem := [(1, 0x10), (6, 4), (9, 0x11), (14, 1)], cores := [(0, { DCore.fresh with running := some 0 })],
    climbs := [(0, { Climb.fresh with state := .running, core := some 0, pc := 0x1000 })] }

/-- The running climb with other contents. -/
def dpC (f : Climb → Climb) : State := dpS.updClimb 0 f

/-- The running climb with the registers from g0 on. -/
def dpG (g : List W64) : State := dpC (fun c => { c with g := g ++ List.replicate (32 - g.length) 0 })

/-- Management core 0 runs. -/
def mgS : State := { State.reset with mcores := [(0, { MCore.fresh with running := true })] }

/-- A live buffer of 4 KiB in slot 0 of ridge 0, in handle register 1 of the running climb. -/
def bufS (g : List W64) : State :=
  { (dpG g).updClimb 0 (fun c => { c with h := c.h.set 1 (mkH 0 0 0 4096) }) with
    bufs := [(0, { base := 0, grans := 4, bytes := 4096, owner := 0 })] }

/-- An accelerator job of climb 0 under token 0. -/
def jobA (cls : Nat) (desc : Bytes) (hs : List W64) : Job :=
  { cid := 0, tok := 0, cls := cls, ordered := false, desc := desc, handles := hs, ridge := 0, lane := 0, profile := 3 }

/-- One queued job, number 0, of a running climb. -/
def jobS (j : Job) : State :=
  { State.reset with
    jobs := [(0, j)],
    climbs := [(0, { Climb.fresh with state := .running, t := .pending :: List.replicate 7 .idle })] }

/-- A descriptor with an OP byte, the bytes 1 to 3, and words of 4 bytes from byte 4 on. -/
def descB (b0 b1 b2 b3 : Nat) (ws : List Nat) : Bytes :=
  leBytes 1 b0 ++ leBytes 1 b1 ++ leBytes 1 b2 ++ leBytes 1 b3 ++ ws.flatMap (leBytes 4) ++ zeros (28 - 4 * ws.length)

/-- DRAM channel 0 trained, with 16 GiB; its fill has ended if `done` is 1. -/
def ramS (s : State) (done : Nat) : State :=
  { s with drcs := [(0, { Drc.fresh with present := true, trained := true, sizeGib := 16 })], wdn := { s.wdn with dramDone := done } }

/-- The head with some control registers at other values. -/
def regS (rs : Tbl W64) : State := { State.reset with regs := rs }

/-- A call entry of a route slot, for pool 0, with arguments and a parameter block of so many bytes. -/
def callB (slot plen : Nat) (args : List Nat) : Bytes :=
  leBytes 2 slot ++ zeros 7 ++ leBytes 1 args.length ++ zeros 2 ++ leBytes 4 plen ++ zeros 8 ++ args.flatMap (leBytes 8)
    ++ zeros (40 - 8 * args.length)

/-- An internal call as the dispatcher has taken it. -/
def callC (slot : Nat) (args : List Nat) (ph : CallPhase) : Call :=
  { internal := true, entry := callB slot 0 args, phase := ph, cid := none, ridge := 0, param := nullH, due := 0, discarded := false }

/-- Call 0 runs the library route of a slot. -/
def libS (slot : Nat) (args : List Nat) : State := { State.reset with calls := [(0, callC slot args .running)] }

/-- The head with other power signals. -/
def pwrS (f : Pwr → Pwr) : State := { State.reset with pwr := f State.reset.pwr }

/-- This head owns pool 0. -/
def poolS (f : Pool → Pool) : State := { State.reset with pools := [(0, f { Pool.fresh with rel := .owner })] }

/-- A host's write of 4 KiB to namespace 1, and the command that carries it. -/
def capX : Capsule :=
  { cid := 7, op := .write, nsid := 1, start := 0, len := 4096, ranges := [], key := [], mustExist := false, mustNotExist := false,
    badOption := false, dealloc := false, sgl := 0, inline := none, digestOk := true, bytes := 64 }
def cmdX : HCmd :=
  { queue := 0, cap := capX, phase := .running, climb := none, fwd := none, fail := none, xrdys := [], ranges := [], data := [],
    heldCpl := none, completed := false, acked := false, seq := none, progs := 0, retryAt := none, lost := false, since := 0,
    search := none, snap := none, rdata := [], stalled := false }

/-- A state with host command 0. -/
def cmdS (s : State) (c : HCmd) : State := { s with host := { s.host with cmds := [(0, c)] } }

/-- A state with an internal call 0 of a library route running. -/
def lib (s : State) (slot : Nat) (args : List Nat) : State := { s with calls := [(0, callC slot args .running)] }

/-- A block namespace of 1 MiB, and pool 0 with it as namespace 1. -/
def nsX : Ns :=
  { kind := 0, size := 1048576, profile := none, base := 0, objs := [], deleting := false, snap := none, target := false, kepoch := 0,
    born := 0, died := none, walked := false }
def nsS : State := poolS (fun p => { p with nss := [(1, nsX)] })

/-- A session key, a frame of the peer under it, and a state that receives with it. -/
def ropeK : RopeKey := { session := 1, key := zeros 32 }
def ropeF (typ : Nat) (d : Bytes) : Bytes := frameOf ropeK typ 0 1 0 d
def rx (s : State) : State := { s with rope := { State.reset.rope with rxKey := some ropeK, txKey := some ropeK } }

/-- The frame is received. -/
theorem received (s : State) (typ : Nat) (d : Bytes) (h : 1 ≤ typ ∧ typ ≤ 10 ∧ d.length ≤ 16384) :
    (rx s).recvRope typ (ropeF typ d) = (some d, (rx s).acceptFrame (ropeF typ d)) :=
  recvRope_frameOf (rx s) ropeK typ 0 0 d rfl ⟨h.1, h.2.1⟩ h.2.2 (show 0 + 1 < 2 ^ 64 by decide)

/-- An update that clears an entry. -/
def lopX : LopUpdate :=
  { valid := false, typ := 0, posUnit := 0, phase := 0, pool := 0, device := false, done := 0, work := 0, position := 0, total := 0,
    start := 0, taken := false }

/-! ### Well-formedness refuses (one ill-formed command for each check) -/

theorem test_wf_registerWrite : (Instr.registerWrite 0x20 0 8 0).wf = true := by decide
theorem test_wf_master : (Instr.registerWrite 0x24 0 8 0).wf = false := by decide
theorem test_wf_offset : (Instr.registerWrite 0x20 ctlSize 8 0).wf = false := by decide
theorem test_wf_width : (Instr.registerWrite 0x20 0 0 0).wf = false := by decide
theorem test_wf_ridge : (Instr.climbDispatch 8 0).wf = false := by decide
theorem test_wf_core : (Instr.climbDispatch 7 4).wf = false := by decide
theorem test_wf_cid : (Instr.climbFreed 8192).wf = false := by decide
theorem test_wf_agent_ridge : (Instr.add (.dp 8 0) 0 0 0).wf = false := by decide
theorem test_wf_agent_mcore : (Instr.add (.mg 4) 0 0 0).wf = false := by decide
theorem test_wf_illegal : (Instr.illegalInstruction (.mg 0) 0xFC000000).wf = true := by decide
theorem test_wf_illegal_decodes : (Instr.illegalInstruction (.mg 0) 0x04612001).wf = false := by decide
theorem test_wf_field : (Instr.bfx (.mg 0) 1 2 63 1).wf = false := by decide
theorem test_wf_field_edge : (Instr.bfx (.mg 0) 1 2 63 0).wf = true := by decide
theorem test_wf_send : (Instr.send (.dp 0 0) 31 1 3 4 1).wf = false := by decide
theorem test_wf_lop : (Instr.lopEntryUpdate 0x20 64 lopX).wf = false := by decide
theorem test_wf_held_call : (Instr.heldCallStart (some 8)).wf = false := by decide
theorem test_wf_nch : (Instr.nchKeyWrite 0x60 16 0 8 0).wf = false := by decide
theorem test_wf_nch_key : (Instr.nchKeyWrite 0x60 15 8 8 0).wf = false := by decide
theorem test_wf_commit : (Instr.commit 0x60 8 8 0).wf = false := by decide
theorem test_wf_traverse : (Instr.tvsCopy 32 0).wf = false := by decide
theorem test_wf_dram : (Instr.dramFillDone 8).wf = false := by decide
theorem test_wf_pool : (Instr.summaryGrow 16 0).wf = false := by decide
theorem test_wf_port : (Instr.moduleLost 64 none false).wf = false := by decide
theorem test_wf_host_port : (Instr.subportLinkUp 8 0).wf = false := by decide
theorem test_wf_subport : (Instr.subportLinkUp 7 8).wf = false := by decide
theorem test_wf_function : (Instr.cplHead 2 0 8 0).wf = false := by decide
theorem test_wf_class : (Instr.sendQueueAccept 0 32 0).wf = false := by decide

/-! ### Words of the Ezsol encodings (R40 and the formats of chapter 03), bit by bit -/

theorem test_decode_sub : ezDecode (.mg 0) 0b000001_00011_00001_00010_00000000001#32 = some (.sub (.mg 0) 3 1 2) := by decide
theorem test_decode_addImm : ezDecode (.mg 0) 0b000010_00101_00100_1111111111111111#32 = some (.addImm (.mg 0) 5 4 0xFFFF) := by decide
theorem test_decode_sarImm : ezDecode (.mg 0) 0b000110_00001_00010_00000000_10_000111#32 = some (.sarImm (.mg 0) 1 2 7) := by decide
theorem test_decode_ldD : ezDecode (.mg 0) 0b001111_00111_00110_0000000000010000#32 = some (.ldD (.mg 0) 7 6 0x10 .none) := by decide
theorem test_decode_bfi : ezDecode (.mg 0) 0b010111_00001_00010_000100_000111_000_1#32 = some (.bfi (.mg 0) 1 2 4 7) := by decide
theorem test_decode_beq : ezDecode (.mg 0) 0b011000_00001_00010_1111111111111110#32 = some (.beq (.mg 0) 1 2 0xFFFE) := by decide
theorem test_decode_halloc : ezDecode (.mg 0) 0b100000_00011_0010_0000_00000_00000_000#32 = some (.halloc (.mg 0) 2 3) := by decide
theorem test_decode_send : ezDecode (.mg 0) 0b100001_00010_0001_011_00100_000000001#32 = some (.send (.mg 0) 2 1 3 4 1) := by decide
theorem test_decode_wait : ezDecode (.mg 0) 0b100010_00001_101_00000000_00000000_00#32 = some (.wait (.mg 0) 1 5) := by decide
theorem test_decode_park : ezDecode (.mg 0) 0b100011_00001_00010_000_0000000000_001#32 = some (.park (.mg 0) 1 2) := by decide
theorem test_decode_csrw : ezDecode (.mg 0) 0b100100_00001_00010_01_00_000000000101#32 = some (.csrw (.mg 0) 1 2 5) := by decide
theorem test_decode_trap : ezDecode (.mg 0) 0b100101_00000_00001_0000000000101010#32 = some (.trap (.mg 0) 42) := by decide
theorem test_decode_unassigned : ezDecode (.mg 0) 0b000001_00011_00001_00010_00000001111#32 = none := by decide

/-! ### Values from outside the model: the check strings of the algorithms, the example lines of the spec -/

/-- The check value of CRC-32C over the digits 1 to 9 (R149 names the CRC). -/
theorem test_crc32c : crc32c [0x31, 0x32, 0x33, 0x34, 0x35, 0x36, 0x37, 0x38, 0x39] = 0xE3069283 := by decide +kernel

/-- The first digest of FIPS 180-4. -/
theorem test_sha256_abc : leNat (sha256 [0x61, 0x62, 0x63]).reverse
    = 0xba7816bf8f01cfea414140de5dae2223b00361a396177a9cb410ff61f20015ad := by decide +kernel

/-- DIVU by zero writes all ones (chapter 03). -/
theorem test_divu_zero : divu64 5 0 = 0xFFFFFFFFFFFFFFFF := by decide

/-- A shift count is taken modulo 64 by SHL (chapter 03): 1 shifted by 65 is 2. -/
theorem test_shl_count :
    (match exec (.shl (.dp 0 0) 1 2 3) (dpG [0, 0, 1, 65]) with
      | .next t => (t.climb 0).g.getD 1 0
      | _ => 0) = 2 := by decide +kernel

/-- The map-cache example of chapter 06: line 1,715,004 falls in set 19,260. -/
theorem test_mapCache_set :
    (toMain (pwrS (fun p => { p with domains := 2 ^ 4 })) { line := 1715004, dirty := false, stamp := 0 }).mapc.main.map Prod.fst = [19260 * 16] := by decide +kernel

/-! ### The words of the route of chapter 03, as it lists them -/

theorem test_route_csrr : ezDecode (.dp 0 0) 0x91000003 = some (.csrr (.dp 0 0) 8 3) := by decide
theorem test_route_li : ezDecode (.dp 0 0) 0x29200100 = some (.li (.dp 0 0) 9 0x100) := by decide
theorem test_route_std : ezDecode (.dp 0 0) 0x4D280000 = some (.stD (.dp 0 0) 9 8 0 .none) := by decide
theorem test_route_std_imm : ezDecode (.dp 0 0) 0x4C080018 = some (.stD (.dp 0 0) 0 8 24 .none) := by decide
theorem test_route_halloc : ezDecode (.dp 0 0) 0x80E20000 = some (.halloc (.dp 0 0) 1 7) := by decide
theorem test_route_send : ezDecode (.dp 0 0) 0x84400000 = some (.send (.dp 0 0) 2 0 0 0 0) := by decide
theorem test_route_wait : ezDecode (.dp 0 0) 0x89400000 = some (.wait (.dp 0 0) 10 0) := by decide

/-! ### Each statement: states and operands that meet its hypotheses -/

/-- States and operands that meet the hypotheses of each clause of `Obligations.IntegerRowsWriteTheirValue`. -/
theorem witness_integerRowsWriteTheirValue :
    ∃ (s : State) (i : Instr) (a : Agent) (rd : BitVec 5) (v : W64), intRow s i = some (a, rd, v) ∧ s.issues a = true ∧ s.filesWhole
    a = true :=
  ⟨(dpG [0, 7, 5] : State), (.add (.dp 0 0) 3 1 2 : Instr), (.dp 0 0 : Agent), (3 : BitVec 5), (12 : W64), by decide +kernel⟩

/-- States and operands that meet the hypotheses of each clause of `Obligations.ControlTransfersMoveThePc`. -/
theorem witness_controlTransfersMoveThePc :
    (∃ (s : State) (i : Instr) (a : Agent) (c : Prop) (off : BitVec 16), branchRow s i = some (a, c, off) ∧ s.issues a = true ∧
     s.filesWhole a = true) ∧
    (∃ (s : State) (a : Agent), s.issues a = true ∧ s.filesWhole a = true) ∧
    (∃ (s : State) (a : Agent) (ra : BitVec 5) (imm : BitVec 16), s.issues a = true ∧ s.filesWhole a = true ∧ (s.getG a ra +
     imm.signExtend 64).toNat % 4 = 0) ∧
    (∃ (s : State) (a : Agent) (ra : BitVec 5) (imm : BitVec 16), s.issues a = true ∧ trapReady a s = true ∧ (s.getG a ra +
     imm.signExtend 64).toNat % 4 ≠ 0) ∧
    (∃ (s : State) (i : Instr) (a : Agent), coreOf i = some a ∧ ((∀ w, i ≠ .illegalInstruction a w)) ∧ s.ready a = true ∧ s.fetchOk a
     = false ∧ trapReady a s = true) :=
  ⟨⟨(dpS : State), (.beq (.dp 0 0) 0 0 4 : Instr), (.dp 0 0 : Agent), (getG dpS (.dp 0 0) 0 = getG dpS (.dp 0 0) 0 : Prop), (4 : BitVec 16), rfl, by (with_reducible and_intros) <;> decide +kernel⟩,
   ⟨(dpS : State), (.dp 0 0 : Agent), by decide +kernel⟩,
   ⟨(dpS : State), (.dp 0 0 : Agent), (0 : BitVec 5), (0 : BitVec 16), by decide +kernel⟩,
   ⟨(dpS : State), (.dp 0 0 : Agent), (0 : BitVec 5), (2 : BitVec 16), by decide +kernel⟩,
   ⟨(dpC (fun c => { c with pc := 0x2000 }) : State), (.add (.dp 0 0) 1 1 1 : Instr), (.dp 0 0 : Agent), by decide +kernel, (fun w h => by cases h), by (with_reducible and_intros) <;> decide +kernel⟩⟩

/-- States and operands that meet the hypotheses of each clause of `Obligations.SystemInstructionsAndTraps`. -/
theorem witness_systemInstructionsAndTraps :
    (∃ (s : State) (a : Agent), s.issues a = true ∧ s.filesWhole a = true) ∧
    (∃ (s : State) (a : Agent), s.issues a = true ∧ trapReady a s = true) ∧
    (∃ (s : State) (r : Nat) (c : Nat) (cid : Nat), s.issues (.dp r c) = true ∧ s.agentCid (.dp r c) = some cid ∧ (s.climb
     cid).trapActive = true) ∧
    (∃ (s : State) (m : Nat), s.issues (.mg m) = true ∧ (s.mcore m).trapActive = true) ∧
    (∃ (s : State) (a : Agent) (i : Instr), i ∈ [.fence a, .iinv a, .iofence a] ∧ s.issues a = true ∧ s.filesWhole a = true ∧ ((i =
     .fence a ∨ ∃ m, a = .mg m))) ∧
    (∃ (s : State) (m : Nat), s.issues (.mg m) = true) ∧
    (∃ (s : State) (a : Agent) (w : BitVec 32), ezDecode a w = none ∧ s.issues a = true ∧ trapReady a s = true) ∧
    (∃ (s : State) (r : Nat) (c : Nat) (i : Instr), i ∈ [.sleep (.dp r c), .iinv (.dp r c), .iofence (.dp r c)] ∧ s.issues (.dp r c)
     = true ∧ trapReady (.dp r c) s = true) ∧
    (∃ (s : State) (m : Nat) (l : Nat), m < 4 ∧ (s.mcore m).running = true ∧ (s.mcore m).frozen = false ∧ (s.mcore m).halted = false
     ∧ (s.mcore m).trapActive = false ∧ l < 16 ∧ bit (s.mcore m).irqmask l = true ∧ s.irqLine m l = true ∧ ((∀ k < l, ¬ (bit
     (s.mcore m).irqmask k = true ∧ s.irqLine m k = true)))) :=
  ⟨⟨(dpS : State), (.dp 0 0 : Agent), by decide +kernel⟩,
   ⟨(dpS : State), (.dp 0 0 : Agent), by decide +kernel⟩,
   ⟨(dpC (fun c => { c with trapActive := true }) : State), (0 : Nat), (0 : Nat), (0 : Nat), by decide +kernel⟩,
   ⟨({ mgS with mcores := [(0, { MCore.fresh with running := true, trapActive := true })] } : State), (0 : Nat), by decide +kernel⟩,
   ⟨(dpS : State), (.dp 0 0 : Agent), (.fence (.dp 0 0) : Instr), by decide +kernel, by decide +kernel, by decide +kernel, .inl rfl⟩,
   ⟨(mgS : State), (0 : Nat), by decide +kernel⟩,
   ⟨(dpS : State), (.dp 0 0 : Agent), (0xFFFFFFFF : BitVec 32), by decide +kernel⟩,
   ⟨(dpS : State), (0 : Nat), (0 : Nat), (.sleep (.dp 0 0) : Instr), by decide +kernel⟩,
   ⟨({ mgS with bell := true, mcores := [(0, { MCore.fresh with running := true, irqmask := 2 })] } : State), (0 : Nat), (1 : Nat), by decide +kernel⟩⟩

/-- States and operands that meet the hypotheses of each clause of `Obligations.CsrInstructionsReadAndWrite`. -/
theorem witness_csrInstructionsReadAndWrite :
    (∃ (s : State) (a : Agent) (rd : BitVec 5) (n : BitVec 12) (old : W64) (i : Instr), i ∈ [.csrr a rd n, .csrset a rd 0 n, .csrclr
     a rd 0 n] ∧ s.issues a = true ∧ s.filesWhole a = true ∧ (s.awake a).csrRead a n.toNat = some old) ∧
    (∃ (s : State) (m : Nat) (rd : BitVec 5) (ra : BitVec 5) (n : BitVec 12) (old : W64) (p : Instr × W64), p ∈ [(.csrw (.mg m) rd ra
     n, s.getG (.mg m) ra), (.csrset (.mg m) rd ra n, old ||| s.getG (.mg m) ra), (.csrclr (.mg m) rd ra n, old &&& ~~~(s.getG
     (.mg m) ra))] ∧ ((ra = 0 → p.1 = .csrw (.mg m) rd ra n)) ∧ s.issues (.mg m) = true ∧ s.filesWhole (.mg m) = true ∧ (s.awake
     (.mg m)).csrRead (.mg m) n.toNat = some old ∧ n.toNat ∈ [0x008, 0x800, 0x801, 0x803]) ∧
    (∃ (s : State) (r : Nat) (c : Nat) (cid : Nat) (rd : BitVec 5) (ra : BitVec 5) (p : Instr × W64), p ∈ [(.csrw (.dp r c) rd ra
     0x008, s.getG (.dp r c) ra), (.csrset (.dp r c) rd ra 0x008, (s.climb cid).tpc ||| s.getG (.dp r c) ra), (.csrclr (.dp r c)
     rd ra 0x008, (s.climb cid).tpc &&& ~~~(s.getG (.dp r c) ra))] ∧ ((ra = 0 → p.1 = .csrw (.dp r c) rd ra 0x008)) ∧ s.issues
     (.dp r c) = true ∧ s.agentCid (.dp r c) = some cid) ∧
    (∃ (s : State) (a : Agent) (rd : BitVec 5) (ra : BitVec 5) (n : BitVec 12) (i : Instr), (((s.awake a).csrRead a n.toNat = none ∧
     i ∈ [.csrr a rd n, .csrw a rd ra n, .csrset a rd ra n, .csrclr a rd ra n]) ∨ (csrRw a n.toNat = false ∧ ra ≠ 0 ∧ i ∈ [.csrw
     a rd ra n, .csrset a rd ra n, .csrclr a rd ra n])) ∧ s.issues a = true ∧ trapReady a s = true) ∧
    (∃ (s : State) (r : Nat) (c : Nat) (cid : Nat), s.agentCid (.dp r c) = some cid) :=
  ⟨⟨(dpS : State), (.dp 0 0 : Agent), (0 : BitVec 5), (8 : BitVec 12), (0 : W64), (.csrr (.dp 0 0) 0 8 : Instr), by decide +kernel⟩,
   ⟨(mgS : State), (0 : Nat), (0 : BitVec 5), (0 : BitVec 5), (0x008 : BitVec 12), (0 : W64), ((.csrw (.mg 0) 0 0 0x008, 0) : Instr × W64), by decide +kernel⟩,
   ⟨(dpS : State), (0 : Nat), (0 : Nat), (0 : Nat), (0 : BitVec 5), (0 : BitVec 5), ((.csrw (.dp 0 0) 0 0 0x008, 0) : Instr × W64), by decide +kernel⟩,
   ⟨(dpS : State), (.dp 0 0 : Agent), (0 : BitVec 5), (0 : BitVec 5), (0x800 : BitVec 12), (.csrr (.dp 0 0) 0 0x800 : Instr), by decide +kernel⟩,
   ⟨(dpS : State), (0 : Nat), (0 : Nat), (0 : Nat), by decide +kernel⟩⟩

/-- States and operands that meet the hypotheses of each clause of `Obligations.TokenInstructionsConsumeAndBlock`. -/
theorem witness_tokenInstructionsConsumeAndBlock :
    (∃ (s : State) (r : Nat) (c : Nat) (cid : Nat) (rd : BitVec 5) (k : BitVec 3) (w : W64) (i : Instr), i ∈ [.wait (.dp r c) rd k,
     .poll (.dp r c) rd k] ∧ s.issues (.dp r c) = true ∧ s.agentCid (.dp r c) = some cid ∧ s.tok cid k.toNat = .done w) ∧
    (∃ (s : State) (r : Nat) (c : Nat) (cid : Nat) (k : Nat) (mask : BitVec 8) (w : W64), s.issues (.dp r c) = true ∧ s.agentCid (.dp
     r c) = some cid ∧ k < 8 ∧ bit mask.toNat k = true ∧ s.tok cid k = .done w ∧ ((∀ j < k, bit mask.toNat j = true → Tok.isDone
     (s.tok cid j) = false))) ∧
    (∃ (s : State) (r : Nat) (c : Nat) (cid : Nat) (k : BitVec 3), s.issues (.dp r c) = true ∧ s.agentCid (.dp r c) = some cid ∧
     s.tok cid k.toNat = .pending) ∧
    (∃ (s : State) (r : Nat) (c : Nat) (cid : Nat) (i : Instr) (rd : BitVec 5) (k : BitVec 3) (mask : BitVec 8), s.issues (.dp r c) =
     true ∧ s.agentCid (.dp r c) = some cid ∧ ((i = .wait (.dp r c) rd k ∧ s.tok cid k.toNat = .pending ∧ mask.toNat = 2 ^
     k.toNat) ∨ (i = .waitany (.dp r c) rd mask ∧ (∀ j < 8, bit mask.toNat j = true → Tok.isDone (s.tok cid j) = false) ∧ ∃ j <
     8, bit mask.toNat j = true ∧ s.tok cid j = .pending))) ∧
    (∃ (s : State) (r : Nat) (c : Nat) (cid : Nat) (i : Instr) (rd : BitVec 5) (k : BitVec 3) (mask : BitVec 8) (cause : Nat) (v :
     Nat), s.issues (.dp r c) = true ∧ s.agentCid (.dp r c) = some cid ∧ trapReady (.dp r c) s = true ∧ ((i ∈ [.wait (.dp r c)
     rd k, .poll (.dp r c) rd k] ∧ s.tok cid k.toNat = .idle ∧ cause = 0x08 ∧ v = k.toNat) ∨ (i = .waitany (.dp r c) rd mask ∧
     (∀ j < 8, bit mask.toNat j = true → s.tok cid j = .idle) ∧ cause = 0x08 ∧ v < 8 ∧ bit mask.toNat v = true ∧ ∀ j < v, bit
     mask.toNat j = false) ∨ (i = .waitany (.dp r c) rd 0 ∧ cause = 0x0A ∧ v = 0))) :=
  ⟨⟨(dpC (fun c => { c with t := .done 3 :: List.replicate 7 .idle }) : State), (0 : Nat), (0 : Nat), (0 : Nat), (0 : BitVec 5), (0 : BitVec 3), (3 : W64), (.wait (.dp 0 0) 0 0 : Instr), by decide +kernel⟩,
   ⟨(dpC (fun c => { c with t := .done 3 :: List.replicate 7 .idle }) : State), (0 : Nat), (0 : Nat), (0 : Nat), (0 : Nat), (1 : BitVec 8), (3 : W64), by decide +kernel⟩,
   ⟨(dpC (fun c => { c with t := .pending :: List.replicate 7 .idle }) : State), (0 : Nat), (0 : Nat), (0 : Nat), (0 : BitVec 3), by decide +kernel⟩,
   ⟨(dpC (fun c => { c with t := .pending :: List.replicate 7 .idle }) : State), (0 : Nat), (0 : Nat), (0 : Nat), (.wait (.dp 0 0) 0 0 : Instr), (0 : BitVec 5), (0 : BitVec 3), (1 : BitVec 8), by decide +kernel⟩,
   ⟨(dpS : State), (0 : Nat), (0 : Nat), (0 : Nat), (.wait (.dp 0 0) 0 0 : Instr), (0 : BitVec 5), (0 : BitVec 3), (0 : BitVec 8), (8 : Nat), (0 : Nat), by decide +kernel⟩⟩

/-- Every granule of ridge 0 is in use. -/
def fullS : State :=
  { dpG [0, 1] with
    bufs := (List.range 24).map (fun k => (k, { base := 1024 * k, grans := 1024, bytes := 1048576, owner := 1 })) }

/-- States and operands that meet the hypotheses of each clause of `Obligations.HandleInstructionsAllocateAndCut`. -/
theorem witness_handleInstructionsAllocateAndCut :
    (∃ (s : State) (r : Nat) (c : Nat) (cid : Nat) (n : Nat) (hd : BitVec 4) (ga : BitVec 5), s.issues (.dp r c) = true ∧ s.agentCid
     (.dp r c) = some cid ∧ n = (s.getG (.dp r c) ga).toNat ∧ 0 < n ∧ n ≤ 0x1000000 ∧ hd.toNat + ceilDiv n 0x100000 ≤ 16 ∧
     s.allocQueued cid = false ∧ s.allocable (cid / 1024) n (s.climb cid).bg = true ∧ ((∃ k < 8191, Tbl.find s.bufs (8192 * (cid
     / 1024) + k) = none))) ∧
    (∃ (s : State) (r : Nat) (c : Nat) (cid : Nat) (n : Nat) (hd : BitVec 4) (ga : BitVec 5), s.issues (.dp r c) = true ∧ s.agentCid
     (.dp r c) = some cid ∧ n = (s.getG (.dp r c) ga).toNat ∧ 0 < n ∧ n ≤ 0x1000000 ∧ hd.toNat + ceilDiv n 0x100000 ≤ 16 ∧
     ((s.allocQueued cid = true ∨ s.allocable (cid / 1024) n (s.climb cid).bg = false))) ∧
    (∃ (s : State) (r : Nat) (c : Nat) (cid : Nat) (hs : BitVec 4), s.issues (.dp r c) = true ∧ s.agentCid (.dp r c) = some cid ∧
     s.liveH (cid / 1024) (s.getH cid hs) = true ∧ (s.bufOf (cid / 1024) (s.getH cid hs)).owner = cid ∧ s.jobNames (cid / 1024)
     (hSlot (s.getH cid hs)) = false ∧ s.windowNames (cid / 1024) (hSlot (s.getH cid hs)) = false) ∧
    (∃ (s : State) (r : Nat) (c : Nat) (cid : Nat) (o : Nat) (n : Nat) (hs : BitVec 4) (ga : BitVec 5) (gb : BitVec 5), s.issues (.dp
     r c) = true ∧ s.agentCid (.dp r c) = some cid ∧ o = (s.getG (.dp r c) ga).toNat ∧ n = (s.getG (.dp r c) gb).toNat ∧ s.liveH
     (cid / 1024) (s.getH cid hs) = true ∧ 0 < n ∧ n ≤ 0x100000 ∧ o < hLen (s.getH cid hs) ∧ o + n ≤ hLen (s.getH cid hs)) ∧
    (∃ (s : State) (r : Nat) (c : Nat) (cid : Nat) (n : Nat) (hd : BitVec 4) (hs : BitVec 4) (ga : BitVec 5), s.issues (.dp r c) =
     true ∧ s.agentCid (.dp r c) = some cid ∧ n = (s.getG (.dp r c) ga).toNat ∧ s.liveH (cid / 1024) (s.getH cid hs) = true ∧ hd
     ≠ hs ∧ 0 < n ∧ n < hLen (s.getH cid hs)) ∧
    (∃ (s : State) (r : Nat) (c : Nat) (cid : Nat) (n : Nat) (hd : BitVec 4) (hs : BitVec 4) (ga : BitVec 5), s.issues (.dp r c) =
     true ∧ s.agentCid (.dp r c) = some cid ∧ n = (s.getG (.dp r c) ga).toNat ∧ Mem.wf s.mem = true ∧ s.liveH (cid / 1024)
     (s.getH cid hs) = true ∧ s.liveH (cid / 1024) (s.getH cid hd) = true ∧ 0 < n ∧ n ≤ 4096 ∧ n ≤ hLen (s.getH cid hs) ∧ n ≤
     hLen (s.getH cid hd)) ∧
    (∃ (s : State) (r : Nat) (c : Nat) (cid : Nat) (cause : Nat) (i : Instr) (v : W64) (hd : BitVec 4) (hs : BitVec 4) (ga : BitVec
     5) (gb : BitVec 5), s.issues (.dp r c) = true ∧ s.agentCid (.dp r c) = some cid ∧ trapReady (.dp r c) s = true ∧ ((i ∈
     [.hfree (.dp r c) hs, .hslice (.dp r c) hd hs ga gb, .hsplit (.dp r c) hd hs ga, .hcopy (.dp r c) hd hs ga] ∧ s.liveH (cid
     / 1024) (s.getH cid hs) = false ∧ cause = 0x06 ∧ v = s.getH cid hs) ∨ (i = .halloc (.dp r c) hd ga ∧ v = s.getG (.dp r c)
     ga ∧ cause = 0x0A ∧ (v = 0 ∨ 0x1000000 < v.toNat ∨ 16 < hd.toNat + ceilDiv v.toNat 0x100000)) ∨ (i = .hfree (.dp r c) hs ∧
     v = s.getH cid hs ∧ s.liveH (cid / 1024) v = true ∧ (((s.bufOf (cid / 1024) v).owner ≠ cid ∧ cause = 0x0A) ∨ ((s.bufOf (cid
     / 1024) v).owner = cid ∧ cause = 0x09 ∧ (s.jobNames (cid / 1024) (hSlot v) = true ∨ s.windowNames (cid / 1024) (hSlot v) =
     true)))) ∨ (i = .hslice (.dp r c) hd hs ga gb ∧ s.liveH (cid / 1024) (s.getH cid hs) = true ∧ (((s.getG (.dp r c) gb = 0 ∨
     0x100000 < (s.getG (.dp r c) gb).toNat) ∧ cause = 0x0A ∧ v = s.getG (.dp r c) gb) ∨ (0 < (s.getG (.dp r c) gb).toNat ∧
     (s.getG (.dp r c) gb).toNat ≤ 0x100000 ∧ cause = 0x05 ∧ v = s.getH cid hs ∧ hLen (s.getH cid hs) < (s.getG (.dp r c)
     ga).toNat + (s.getG (.dp r c) gb).toNat))) ∨ (i = .hsplit (.dp r c) hd hs ga ∧ s.liveH (cid / 1024) (s.getH cid hs) = true
     ∧ ((hd = hs ∧ cause = 0x0A ∧ v = s.getG (.dp r c) ga) ∨ (hd ≠ hs ∧ hLen (s.getH cid hs) < (s.getG (.dp r c) ga).toNat ∧
     cause = 0x05 ∧ v = s.getH cid hs))))) :=
  ⟨⟨(dpG [0, 0x1000000] : State), (0 : Nat), (0 : Nat), (0 : Nat), ((((dpG [0, 0x1000000]).getG (.dp 0 0) (1 : BitVec 5)).toNat) : Nat), (0 : BitVec 4), (1 : BitVec 5), by (with_reducible and_intros) <;> first | exact ⟨0, by (with_reducible and_intros) <;> decide +kernel⟩ | decide +kernel⟩,
   ⟨(fullS : State), (0 : Nat), (0 : Nat), (0 : Nat), (((fullS.getG (.dp 0 0) (1 : BitVec 5)).toNat) : Nat), (0 : BitVec 4), (1 : BitVec 5), by decide +kernel⟩,
   ⟨(bufS [] : State), (0 : Nat), (0 : Nat), (0 : Nat), (1 : BitVec 4), by decide +kernel⟩,
   ⟨(bufS [0, 4095, 1] : State), (0 : Nat), (0 : Nat), (0 : Nat), ((((bufS [0, 4095, 1]).getG (.dp 0 0) (1 : BitVec 5)).toNat) : Nat), ((((bufS [0, 4095, 1]).getG (.dp 0 0) (2 : BitVec 5)).toNat) : Nat), (1 : BitVec 4), (1 : BitVec 5), (2 : BitVec 5), by decide +kernel⟩,
   ⟨(bufS [0, 4095] : State), (0 : Nat), (0 : Nat), (0 : Nat), ((((bufS [0, 4095]).getG (.dp 0 0) (1 : BitVec 5)).toNat) : Nat), (2 : BitVec 4), (1 : BitVec 4), (1 : BitVec 5), by decide +kernel⟩,
   ⟨(bufS [0, 4096] : State), (0 : Nat), (0 : Nat), (0 : Nat), ((((bufS [0, 4096]).getG (.dp 0 0) (1 : BitVec 5)).toNat) : Nat), (1 : BitVec 4), (1 : BitVec 4), (1 : BitVec 5), by decide +kernel⟩,
   ⟨(dpS : State), (0 : Nat), (0 : Nat), (0 : Nat), (6 : Nat), (.hfree (.dp 0 0) 0 : Instr), (0 : W64), (0 : BitVec 4), (0 : BitVec 4), (0 : BitVec 5), (0 : BitVec 5), by decide +kernel⟩⟩

/-- No climb of ridge 0 is free. -/
def noClimbS : State :=
  { dpS with climbs := dpS.climbs ++ (List.range 1023).map (fun k => (k + 1, { Climb.fresh with state := .ready })) }

/-- Routes 0 and 1 start at 0x1000; route 1 may be opened by other climbs. -/
def routesS : State := { dpS with mem := dpS.mem ++ [(17, 0x10), (22, 4), (30, 3)] }

/-- States and operands that meet the hypotheses of each clause of `Obligations.ClimbInstructionsSpawnParkYieldExit`. -/
theorem witness_climbInstructionsSpawnParkYieldExit :
    (∃ (s : State) (r : Nat) (c : Nat) (cid : Nat) (ch : Nat) (slot : Nat) (mask : Nat) (k : BitVec 3) (r1 : BitVec 5) (r2 : BitVec
     5), s.issues (.dp r c) = true ∧ s.agentCid (.dp r c) = some cid ∧ (s.climb cid).state ≠ .free ∧ s.tok cid k.toNat = .idle ∧
     slot = (s.getG (.dp r c) r1).toNat ∧ mask = (s.getG (.dp r c) r2).toNat ∧ slot ≤ 255 ∧ (s.route slot).valid = true ∧
     (((s.route (s.climb cid).slot).opened = true → (s.route slot).opened = true)) ∧ mask < 65536 ∧ (if (s.route slot).bg then 0
     else s.reserve (cid / 1024)) < s.freeClimbs (cid / 1024) ∧ s.oldestFree (cid / 1024) = some ch) ∧
    (∃ (s : State) (r : Nat) (c : Nat) (cid : Nat) (slot : Nat) (mask : Nat) (k : BitVec 3) (r1 : BitVec 5) (r2 : BitVec 5), s.issues
     (.dp r c) = true ∧ s.agentCid (.dp r c) = some cid ∧ s.tok cid k.toNat = .idle ∧ slot = (s.getG (.dp r c) r1).toNat ∧ mask
     = (s.getG (.dp r c) r2).toNat ∧ slot ≤ 255 ∧ (s.route slot).valid = true ∧ (((s.route (s.climb cid).slot).opened = true →
     (s.route slot).opened = true)) ∧ mask < 65536 ∧ s.freeClimbs (cid / 1024) ≤ (if (s.route slot).bg then 0 else s.reserve
     (cid / 1024))) ∧
    (∃ (s : State) (r : Nat) (c : Nat) (cid : Nat) (cause : Nat) (k : BitVec 3) (r1 : BitVec 5) (v : W64), s.issues (.dp r c) = true
     ∧ s.agentCid (.dp r c) = some cid ∧ trapReady (.dp r c) s = true ∧ ((s.tok cid k.toNat ≠ .idle ∧ cause = 0x07 ∧ v =
     BitVec.ofNat 64 k.toNat) ∨ (s.tok cid k.toNat = .idle ∧ cause = 0x0A ∧ v = s.getG (.dp r c) r1 ∧ (255 < v.toNat ∨ (s.route
     v.toNat).valid = false ∨ ((s.route (s.climb cid).slot).opened = true ∧ (s.route v.toNat).opened = false))))) ∧
    (∃ (s : State) (r : Nat) (c : Nat) (cid : Nat), s.issues (.dp r c) = true ∧ s.agentCid (.dp r c) = some cid ∧ (s.climb
     cid).wakePending = true) ∧
    (∃ (s : State) (r : Nat) (c : Nat) (cid : Nat), s.issues (.dp r c) = true ∧ s.agentCid (.dp r c) = some cid ∧ (s.climb
     cid).wakePending = false) ∧
    (∃ (s : State) (r : Nat) (c : Nat) (cid : Nat), s.issues (.dp r c) = true ∧ s.agentCid (.dp r c) = some cid) ∧
    (∃ (s : State) (r : Nat) (c : Nat) (cid : Nat) (code : Nat) (r1 : BitVec 5), s.issues (.dp r c) = true ∧ s.agentCid (.dp r c) =
     some cid ∧ (s.climb cid).trapActive = false ∧ (s.climb cid).origin = .spawn ∧ code = (s.getG (.dp r c) r1).toNat % 256 ∧
     (s.climb cid).t.any Tok.isPending = false ∧ s.liveChild cid = false ∧ s.ownedBufs cid = [] ∧ (s.climb cid).parent ≠ some
     cid) :=
  ⟨⟨(dpS : State), (0 : Nat), (0 : Nat), (0 : Nat), (1 : Nat), (((dpS.getG (.dp 0 0) (0 : BitVec 5)).toNat) : Nat), (((dpS.getG (.dp 0 0) (0 : BitVec 5)).toNat) : Nat), (0 : BitVec 3), (0 : BitVec 5), (0 : BitVec 5), by decide +kernel⟩,
   ⟨(noClimbS : State), (0 : Nat), (0 : Nat), (0 : Nat), (((noClimbS.getG (.dp 0 0) (0 : BitVec 5)).toNat) : Nat), (((noClimbS.getG (.dp 0 0) (0 : BitVec 5)).toNat) : Nat), (0 : BitVec 3), (0 : BitVec 5), (0 : BitVec 5), by decide +kernel⟩,
   ⟨(dpG [0, 256] : State), (0 : Nat), (0 : Nat), (0 : Nat), (0x0A : Nat), (0 : BitVec 3), (1 : BitVec 5), (256 : W64), by decide +kernel⟩,
   ⟨(dpC (fun c => { c with wakePending := true }) : State), (0 : Nat), (0 : Nat), (0 : Nat), by decide +kernel⟩,
   ⟨(dpS : State), (0 : Nat), (0 : Nat), (0 : Nat), by decide +kernel⟩,
   ⟨(dpS : State), (0 : Nat), (0 : Nat), (0 : Nat), by decide +kernel⟩,
   ⟨(dpC (fun c => { c with origin := .spawn }) : State), (0 : Nat), (0 : Nat), (0 : Nat), ((((dpC (fun c => { c with origin := .spawn })).getG (.dp 0 0) (0 : BitVec 5)).toNat % 256) : Nat), (0 : BitVec 5), by decide +kernel⟩⟩

/-- States and operands that meet the hypotheses of each clause of `Obligations.LoadsAndStoresReachMemory`. -/
theorem witness_loadsAndStoresReachMemory :
    (∃ (s : State) (a : Agent) (rd : BitVec 5) (ra : BitVec 5) (imm : BitVec 16) (p : Instr × Nat) (x : Nat) (r : Region), p ∈ [(.ldB
     a rd ra imm .none, 1), (.ldH a rd ra imm .none, 2), (.ldW a rd ra imm .none, 4), (.ldD a rd ra imm .none, 8)] ∧ s.issues a
     = true ∧ s.filesWhole a = true ∧ x = (s.getG a ra + imm.signExtend 64).toNat ∧ x % p.2 = 0 ∧ s.decodeAddr x p.2 = some r ∧
     s.wardOk (s.profileOf (masterOf a)) (s.agentCid a) r x p.2 false = true ∧ ((r = .dram ∧ s.mapc.wiping = false ∧ x / 256 ∉
     s.poisoned) ∨ (∃ n, r = .rbuf n) ∨ ((∃ n, r = .store n) ∧ 512 ≤ x % 1024))) ∧
    (∃ (s : State) (a : Agent) (rs : BitVec 5) (ra : BitVec 5) (imm : BitVec 16) (p : Instr × Nat) (x : Nat) (r : Region), p ∈ [(.stB
     a rs ra imm .none, 1), (.stH a rs ra imm .none, 2), (.stW a rs ra imm .none, 4), (.stD a rs ra imm .none, 8)] ∧ s.issues a
     = true ∧ s.filesWhole a = true ∧ Mem.wf s.mem = true ∧ x = (s.getG a ra + imm.signExtend 64).toNat ∧ x % p.2 = 0 ∧
     s.decodeAddr x p.2 = some r ∧ s.wardOk (s.profileOf (masterOf a)) (s.agentCid a) r x p.2 true = true ∧ ((r = .dram ∧
     s.mapc.wiping = false) ∨ (∃ n, r = .rbuf n) ∨ ((∃ n, r = .store n) ∧ 512 ≤ x % 1024))) ∧
    (∃ (s : State) (a : Agent) (rd : BitVec 5) (ra : BitVec 5) (imm : BitVec 16) (f : MemFault) (p : Instr × Nat) (addr : W64), p ∈
     [(.ldB a rd ra imm f, 1), (.ldH a rd ra imm f, 2), (.ldW a rd ra imm f, 4), (.ldD a rd ra imm f, 8), (.stB a rd ra imm f,
     1), (.stH a rd ra imm f, 2), (.stW a rd ra imm f, 4), (.stD a rd ra imm f, 8)] ∧ s.issues a = true ∧ trapReady a s = true ∧
     addr = s.getG a ra + imm.signExtend 64 ∧ addr.toNat % p.2 ≠ 0) ∧
    (∃ (s : State) (r : Nat) (c : Nat) (rd : BitVec 5) (ra : BitVec 5) (imm : BitVec 16) (f : MemFault) (p : Instr × Nat × Bool) (x :
     Nat), p ∈ [(.ldB (.dp r c) rd ra imm f, 1, false), (.ldH (.dp r c) rd ra imm f, 2, false), (.ldW (.dp r c) rd ra imm f, 4,
     false), (.ldD (.dp r c) rd ra imm f, 8, false), (.stB (.dp r c) rd ra imm f, 1, true), (.stH (.dp r c) rd ra imm f, 2,
     true), (.stW (.dp r c) rd ra imm f, 4, true), (.stD (.dp r c) rd ra imm f, 8, true)] ∧ s.issues (.dp r c) = true ∧ x =
     (s.getG (.dp r c) ra + imm.signExtend 64).toNat ∧ x % p.2.1 = 0 ∧ s.decodeAddr x p.2.1 = some (.store 0)) ∧
    (∃ (s : State) (r : Nat) (c : Nat) (rd : BitVec 5) (ra : BitVec 5) (imm : BitVec 16) (f : MemFault) (p : Instr × Nat × Bool) (x :
     Nat), p ∈ [(.ldB (.dp r c) rd ra imm f, 1, false), (.ldH (.dp r c) rd ra imm f, 2, false), (.ldW (.dp r c) rd ra imm f, 4,
     false), (.ldD (.dp r c) rd ra imm f, 8, false), (.stB (.dp r c) rd ra imm f, 1, true), (.stH (.dp r c) rd ra imm f, 2,
     true), (.stW (.dp r c) rd ra imm f, 4, true), (.stD (.dp r c) rd ra imm f, 8, true)] ∧ s.issues (.dp r c) = true ∧ x =
     (s.getG (.dp r c) ra + imm.signExtend 64).toNat ∧ x % p.2.1 = 0 ∧ s.decodeAddr x p.2.1 = none) ∧
    (∃ (s : State) (r : Nat) (c : Nat) (rd : BitVec 5) (ra : BitVec 5) (imm : BitVec 16) (f : MemFault) (p : Instr × Nat × Bool) (x :
     Nat), p ∈ [(.ldB (.dp r c) rd ra imm f, 1, false), (.ldH (.dp r c) rd ra imm f, 2, false), (.ldW (.dp r c) rd ra imm f, 4,
     false), (.ldD (.dp r c) rd ra imm f, 8, false), (.stB (.dp r c) rd ra imm f, 1, true), (.stH (.dp r c) rd ra imm f, 2,
     true), (.stW (.dp r c) rd ra imm f, 4, true), (.stD (.dp r c) rd ra imm f, 8, true)] ∧ s.issues (.dp r c) = true ∧ x =
     (s.getG (.dp r c) ra + imm.signExtend 64).toNat ∧ x % p.2.1 = 0 ∧ s.decodeAddr x p.2.1 = some (.store 0) ∧ s.wardOk
     (s.profileOf (4 * r + c)) (s.agentCid (.dp r c)) (.store 0) x p.2.1 p.2.2 = false) :=
  ⟨⟨(dpG [0, 0x0A0000000200] : State), (.dp 0 0 : Agent), (0 : BitVec 5), (1 : BitVec 5), (0 : BitVec 16), ((.ldD (.dp 0 0) 0 1 0 .none, 8) : Instr × Nat), (0x0A0000000200 : Nat), (.store 0 : Region), by (with_reducible and_intros) <;> first | exact .inr (.inr ⟨⟨0, rfl⟩, by decide⟩) | decide +kernel⟩,
   ⟨(dpG [0, 0x0A0000000200] : State), (.dp 0 0 : Agent), (0 : BitVec 5), (1 : BitVec 5), (504 : BitVec 16), ((.stD (.dp 0 0) 0 1 504 .none, 8) : Instr × Nat), (0x0A00000003F8 : Nat), (.store 0 : Region), by (with_reducible and_intros) <;> first | exact .inr (.inr ⟨⟨0, rfl⟩, by decide⟩) | decide +kernel⟩,
   ⟨(dpG [0, 1] : State), (.dp 0 0 : Agent), (0 : BitVec 5), (1 : BitVec 5), (0 : BitVec 16), (.none : MemFault), ((.ldH (.dp 0 0) 0 1 0 .none, 2) : Instr × Nat), (1 : W64), by decide +kernel⟩,
   ⟨(dpG [0, 0x0A0000000200] : State), (0 : Nat), (0 : Nat), (0 : BitVec 5), (1 : BitVec 5), (0 : BitVec 16), (.none : MemFault), ((.ldB (.dp 0 0) 0 1 0 .none, 1, false) : Instr × Nat × Bool), (0x0A0000000200 : Nat), by decide +kernel⟩,
   ⟨(dpG [0, 0x020000000000] : State), (0 : Nat), (0 : Nat), (0 : BitVec 5), (1 : BitVec 5), (0 : BitVec 16), (.none : MemFault), ((.stB (.dp 0 0) 0 1 0 .none, 1, true) : Instr × Nat × Bool), (0x020000000000 : Nat), by decide +kernel⟩,
   ⟨(dpG [0, 0x0A0000000400] : State), (0 : Nat), (0 : Nat), (0 : BitVec 5), (1 : BitVec 5), (0 : BitVec 16), (.none : MemFault), ((.stB (.dp 0 0) 0 1 0 .none, 1, true) : Instr × Nat × Bool), (0x0A0000000400 : Nat), by decide +kernel⟩⟩

/-- States and operands that meet the hypotheses of each clause of `Obligations.HandleAccessesReachTheBuffer`. -/
theorem witness_handleAccessesReachTheBuffer :
    (∃ (s : State) (r : Nat) (c : Nat) (cid : Nat) (x : Nat) (n : Nat) (ra : BitVec 5) (h : BitVec 4) (size : BitVec 2) (imm : BitVec
     10), s.issues (.dp r c) = true ∧ s.agentCid (.dp r c) = some cid ∧ s.filesWhole (.dp r c) = true ∧ n = 2 ^ size.toNat ∧
     s.liveH (cid / 1024) (s.getH cid h) = true ∧ (s.getG (.dp r c) ra).toNat + imm.toNat + n ≤ hLen (s.getH cid h) ∧ x =
     s.hAddr (cid / 1024) (s.getH cid h) + ((s.getG (.dp r c) ra).toNat + imm.toNat) ∧ x % n = 0) ∧
    (∃ (s : State) (r : Nat) (c : Nat) (cid : Nat) (x : Nat) (n : Nat) (ra : BitVec 5) (h : BitVec 4) (size : BitVec 2) (imm : BitVec
     10), s.issues (.dp r c) = true ∧ s.agentCid (.dp r c) = some cid ∧ n = 2 ^ size.toNat ∧ Mem.wf s.mem = true ∧ s.liveH (cid
     / 1024) (s.getH cid h) = true ∧ (s.getG (.dp r c) ra).toNat + imm.toNat + n ≤ hLen (s.getH cid h) ∧ x = s.hAddr (cid /
     1024) (s.getH cid h) + ((s.getG (.dp r c) ra).toNat + imm.toNat) ∧ x % n = 0) ∧
    (∃ (s : State) (r : Nat) (c : Nat) (cid : Nat) (n : Nat) (cause : Nat) (g : BitVec 5) (ra : BitVec 5) (h : BitVec 4) (size :
     BitVec 2) (imm : BitVec 10) (v : W64) (i : Instr), i ∈ [.hld (.dp r c) g h ra size imm, .hst (.dp r c) g h ra size imm] ∧
     s.issues (.dp r c) = true ∧ s.agentCid (.dp r c) = some cid ∧ trapReady (.dp r c) s = true ∧ n = 2 ^ size.toNat ∧ ((s.liveH
     (cid / 1024) (s.getH cid h) = false ∧ cause = 0x06 ∧ v = s.getH cid h) ∨ (s.liveH (cid / 1024) (s.getH cid h) = true ∧ hLen
     (s.getH cid h) < (s.getG (.dp r c) ra).toNat + imm.toNat + n ∧ cause = 0x05 ∧ v = s.getH cid h) ∨ (s.liveH (cid / 1024)
     (s.getH cid h) = true ∧ (s.getG (.dp r c) ra).toNat + imm.toNat + n ≤ hLen (s.getH cid h) ∧ (s.hAddr (cid / 1024) (s.getH
     cid h) + ((s.getG (.dp r c) ra).toNat + imm.toNat)) % n ≠ 0 ∧ cause = 0x02 ∧ v = BitVec.ofNat 64 (s.hAddr (cid / 1024)
     (s.getH cid h) + ((s.getG (.dp r c) ra).toNat + imm.toNat))))) ∧
    (∃ (s : State) (m : Nat) (i : Instr), coreOf i = some (.mg m) ∧ s.issues (.mg m) = true ∧ trapReady (.mg m) s = true ∧ ((∃ w,
     ezEncode i = some w ∧ ((w.extractLsb' 26 6).toNat ∈ [0x14, 0x15, 0x20, 0x21, 0x22] ∨ ((w.extractLsb' 26 6).toNat = 0x23 ∧
     (w.extractLsb' 0 3).toNat ≠ 4))))) :=
  ⟨⟨(bufS [0, 4088] : State), (0 : Nat), (0 : Nat), (0 : Nat), (((bufS [0, 4088]).hAddr (0 / 1024) ((bufS [0, 4088]).getH 0 (1 : BitVec 4)) + (((bufS [0, 4088]).getG (.dp 0 0) (1 : BitVec 5)).toNat + (0 : BitVec 10).toNat)) : Nat), ((2 ^ (3 : BitVec 2).toNat) : Nat), (1 : BitVec 5), (1 : BitVec 4), (3 : BitVec 2), (0 : BitVec 10), by decide +kernel⟩,
   ⟨(bufS [0, 4088] : State), (0 : Nat), (0 : Nat), (0 : Nat), (((bufS [0, 4088]).hAddr (0 / 1024) ((bufS [0, 4088]).getH 0 (1 : BitVec 4)) + (((bufS [0, 4088]).getG (.dp 0 0) (1 : BitVec 5)).toNat + (0 : BitVec 10).toNat)) : Nat), ((2 ^ (3 : BitVec 2).toNat) : Nat), (1 : BitVec 5), (1 : BitVec 4), (3 : BitVec 2), (0 : BitVec 10), by decide +kernel⟩,
   ⟨(bufS [0, 4089] : State), (0 : Nat), (0 : Nat), (0 : Nat), ((2 ^ (3 : BitVec 2).toNat) : Nat), (5 : Nat), (0 : BitVec 5), (1 : BitVec 5), (1 : BitVec 4), (3 : BitVec 2), (0 : BitVec 10), (mkH 0 0 0 4096 : W64), (.hst (.dp 0 0) 0 1 1 3 0 : Instr), by decide +kernel⟩,
   ⟨(mgS : State), (0 : Nat), (.halloc (.mg 0) 0 0 : Instr), rfl, by decide +kernel, by decide +kernel, ⟨(ezEncode (.halloc (.mg 0) 0 0)).get (by decide), by decide⟩⟩⟩

/-- States and operands that meet the hypotheses of each clause of `Obligations.AtomicsReadAndWriteAtOnce`. -/
theorem witness_atomicsReadAndWriteAtOnce :
    (∃ (s : State) (a : Agent) (rd : BitVec 5) (ra : BitVec 5) (rb : BitVec 5) (w : Bool) (p : Instr × Option Nat) (x : Nat) (n :
     Nat) (old : Nat) (r : Region), n = (if w then 4 else 8) ∧ x = (s.getG a ra).toNat ∧ old = leNat (Mem.readBytes s.mem x n) ∧
     p ∈ [(.aadd a rd ra rb w, some ((old + (s.getG a rb).toNat) % 256 ^ n)), (.axchg a rd ra rb w, some ((s.getG a rb).toNat %
     256 ^ n)), (.acas a rd ra rb w, if old = (s.getG a rd).toNat % 256 ^ n then some ((s.getG a rb).toNat % 256 ^ n) else
     none)] ∧ s.issues a = true ∧ s.filesWhole a = true ∧ Mem.wf s.mem = true ∧ s.atomHome a x = true ∧ x % n = 0 ∧ s.decodeAddr
     x n = some r ∧ s.wardOk (s.profileOf (masterOf a)) (s.agentCid a) r x n true = true ∧ ((r = .dram ∧ s.mapc.wiping = false ∧
     x / 256 ∉ s.poisoned) ∨ ((∃ k, r = .store k) ∧ 512 ≤ x % 1024))) ∧
    (∃ (s : State) (a : Agent) (rd : BitVec 5) (ra : BitVec 5) (rb : BitVec 5) (w : Bool) (i : Instr) (x : Nat) (n : Nat) (cause :
     Nat), i ∈ [.aadd a rd ra rb w, .axchg a rd ra rb w, .acas a rd ra rb w] ∧ n = (if w then 4 else 8) ∧ x = (s.getG a
     ra).toNat ∧ s.issues a = true ∧ trapReady a s = true ∧ ((s.atomHome a x = false ∧ cause = 0x0A) ∨ (s.atomHome a x = true ∧
     x % n ≠ 0 ∧ cause = 0x02))) ∧
    (∃ (s : State) (r : Nat) (c : Nat) (rd : BitVec 5) (ra : BitVec 5) (rb : BitVec 5) (w : Bool) (i : Instr) (x : Nat) (n : Nat) (g
     : Region), i ∈ [.aadd (.dp r c) rd ra rb w, .axchg (.dp r c) rd ra rb w, .acas (.dp r c) rd ra rb w] ∧ n = (if w then 4
     else 8) ∧ x = (s.getG (.dp r c) ra).toNat ∧ s.issues (.dp r c) = true ∧ s.atomHome (.dp r c) x = true ∧ x % n = 0 ∧
     s.decodeAddr x n = some g ∧ g ≠ .ctl ∧ s.wardOk (s.profileOf (4 * r + c)) (s.agentCid (.dp r c)) g x n true = false) :=
  ⟨⟨(dpG [0, 0x0A00000003F8] : State), (.dp 0 0 : Agent), (0 : BitVec 5), (1 : BitVec 5), (0 : BitVec 5), (false : Bool), ((.aadd (.dp 0 0) 0 1 0 false, some 0) : Instr × Option Nat), ((((dpG [0, 0x0A00000003F8]).getG (.dp 0 0) (1 : BitVec 5)).toNat) : Nat), (((if (false) then 4 else 8)) : Nat), (0 : Nat), (.store 0 : Region), by (with_reducible and_intros) <;> first | exact .inr ⟨⟨0, rfl⟩, by decide +kernel⟩ | decide +kernel⟩,
   ⟨(dpG [0, 0x020000000000] : State), (.dp 0 0 : Agent), (0 : BitVec 5), (1 : BitVec 5), (0 : BitVec 5), (false : Bool), (.aadd (.dp 0 0) 0 1 0 false : Instr), ((((dpG [0, 0x020000000000]).getG (.dp 0 0) (1 : BitVec 5)).toNat) : Nat), (((if (false) then 4 else 8)) : Nat), (0x0A : Nat), by decide +kernel⟩,
   ⟨(ramS (dpG [0, 0x3FFFFFFF8]) 0 : State), (0 : Nat), (0 : Nat), (0 : BitVec 5), (1 : BitVec 5), (0 : BitVec 5), (false : Bool), (.aadd (.dp 0 0) 0 1 0 false : Instr), ((((ramS (dpG [0, 0x3FFFFFFF8]) 0).getG (.dp 0 0) (1 : BitVec 5)).toNat) : Nat), (((if (false) then 4 else 8)) : Nat), (.dram : Region), by decide +kernel⟩⟩

/-- A climb waits at the head of the digest queue of ridge 0. -/
def waitS : State := dpC (fun c => { c with state := .waiting, await := .queue (jobA 2 (zeros 32) []) })

/-- States and operands that meet the hypotheses of each clause of `Obligations.SendChecksAndQueues`. -/
theorem witness_sendChecksAndQueues :
    (∃ (s : State) (r : Nat) (c : Nat) (cid : Nat) (n : Nat) (cls : BitVec 5) (h : BitVec 4) (k : BitVec 3) (gd : BitVec 5) (flags :
     BitVec 9) (j : Job), s.issues (.dp r c) = true ∧ s.agentCid (.dp r c) = some cid ∧ sendListed cls flags = true ∧
     ((s.climbProfile cid = 3 → cls.toNat ∈ [1, 2, 3, 5])) ∧ s.tok cid k.toNat = .idle ∧ (s.getG (.dp r c) gd).toNat % 32 = 0 ∧
     (s.getG (.dp r c) gd).toNat ≤ 480 ∧ j = s.mkJob cid cls.toNat h.toNat k.toNat flags.toNat (s.rdBytes (localAddr cid +
     (s.getG (.dp r c) gd).toNat) 32) ∧ s.staleHandle (cid / 1024) (named cls.toNat j.desc h.toNat (hLen (s.getH cid h)))
     (s.getH cid h) (s.climb cid).h = none ∧ shortHandle cls.toNat h.toNat j.desc (named cls.toNat j.desc h.toNat (hLen (s.getH
     cid h))) (s.getH cid h) (s.climb cid).h = none ∧ n = Tbl.next s.jobs ∧ s.queueFree j = true ∧ s.queueHead j = none ∧
     s.jobValid j = true ∧ cls.toNat ∉ [0x0A, 0x0B]) ∧
    (∃ (s : State) (r : Nat) (c : Nat) (cid : Nat) (cause : Nat) (cls : BitVec 5) (h : BitVec 4) (k : BitVec 3) (gd : BitVec 5)
     (flags : BitVec 9) (v : W64) (nm : Named) (d : Bytes), s.issues (.dp r c) = true ∧ s.agentCid (.dp r c) = some cid ∧
     trapReady (.dp r c) s = true ∧ sendListed cls flags = true ∧ ((s.climbProfile cid = 3 → cls.toNat ∈ [1, 2, 3, 5])) ∧ d =
     s.rdBytes (localAddr cid + (s.getG (.dp r c) gd).toNat) 32 ∧ nm = named cls.toNat d h.toNat (hLen (s.getH cid h)) ∧ ((s.tok
     cid k.toNat ≠ .idle ∧ cause = 0x07 ∧ v = BitVec.ofNat 64 k.toNat) ∨ (s.tok cid k.toNat = .idle ∧ ((s.getG (.dp r c)
     gd).toNat % 32 ≠ 0 ∨ 480 < (s.getG (.dp r c) gd).toNat) ∧ cause = 0x0A ∧ v = s.getG (.dp r c) gd) ∨ (s.tok cid k.toNat =
     .idle ∧ (s.getG (.dp r c) gd).toNat % 32 = 0 ∧ (s.getG (.dp r c) gd).toNat ≤ 480 ∧ ((s.staleHandle (cid / 1024) nm (s.getH
     cid h) (s.climb cid).h = some v ∧ cause = 0x06) ∨ (s.staleHandle (cid / 1024) nm (s.getH cid h) (s.climb cid).h = none ∧
     shortHandle cls.toNat h.toNat d nm (s.getH cid h) (s.climb cid).h = some v ∧ cause = 0x05))))) ∧
    (∃ (s : State) (r : Nat) (c : Nat) (cid : Nat) (cls : BitVec 5) (flags : BitVec 9), s.issues (.dp r c) = true ∧ s.agentCid (.dp r
     c) = some cid ∧ sendListed cls flags = false) ∧
    (∃ (s : State) (ridge : Nat) (cls : Nat) (port : Nat) (cid : Nat) (x : Climb) (j : Job), s.queueHead { cid := 1024 * ridge, tok := 0, cls := cls, ordered := false, desc := [], handles := [], ridge := ridge, lane := port, profile := 0 }
     = some (cid, x) ∧ waitsFor x = some j ∧ s.queueFree j = true ∧ s.jobValid j = true ∧ j.cls ∉ [0x0A, 0x0B] ∧ ((j.cls = 9 →
     s.mpcPresent j.lane = true)) ∧ j.cid = cid ∧ s.climb cid = x) :=
  ⟨⟨(bufS [] : State), (0 : Nat), (0 : Nat), (0 : Nat), ((Tbl.next (bufS []).jobs) : Nat), (2 : BitVec 5), (1 : BitVec 4), (0 : BitVec 3), (0 : BitVec 5), (0 : BitVec 9), (((bufS []).mkJob 0 (2 : BitVec 5).toNat (1 : BitVec 4).toNat (0 : BitVec 3).toNat (0 : BitVec 9).toNat ((bufS []).rdBytes (localAddr 0 + ((bufS []).getG (.dp 0 0) (0 : BitVec 5)).toNat) 32)) : Job), by decide +kernel⟩,
   ⟨(bufS [0, 16] : State), (0 : Nat), (0 : Nat), (0 : Nat), (0x0A : Nat), (2 : BitVec 5), (0 : BitVec 4), (0 : BitVec 3), (1 : BitVec 5), (0 : BitVec 9), (16 : W64), ((named (2 : BitVec 5).toNat (((bufS [0, 16]).rdBytes (localAddr 0 + ((bufS [0, 16]).getG (.dp 0 0) (1 : BitVec 5)).toNat) 32)) (0 : BitVec 4).toNat (hLen ((bufS [0, 16]).getH 0 (0 : BitVec 4)))) : Named), (((bufS [0, 16]).rdBytes (localAddr 0 + ((bufS [0, 16]).getG (.dp 0 0) (1 : BitVec 5)).toNat) 32) : Bytes), by decide +kernel⟩,
   ⟨(dpS : State), (0 : Nat), (0 : Nat), (0 : Nat), (0 : BitVec 5), (0 : BitVec 9), by decide +kernel⟩,
   ⟨(waitS : State), (0 : Nat), (2 : Nat), (0 : Nat), (0 : Nat), (waitS.climb 0 : Climb), (jobA 2 (zeros 32) [] : Job), by decide +kernel⟩⟩

/-- States and operands that meet the hypotheses of each clause of `Obligations.SharedOperationsChangeOnePlace`. -/
theorem witness_sharedOperationsChangeOnePlace :
    (∃ (s : State), Tbl.sorted s.regs = true) ∧
    (∃ (s : State) (o : Nat), Tbl.sorted s.regs = true ∧ o ∉ [rPepEvents, rLopChangedHost, rSbkEvents]) ∧
    (∃ (s : State), Mem.wf s.mem = true) :=
  ⟨⟨(State.reset : State), by decide +kernel⟩,
   ⟨(State.reset : State), (0 : Nat), by decide +kernel⟩,
   ⟨(State.reset : State), by decide +kernel⟩⟩

/-- A FIXED job over 65 bytes with MAX_LEN 16, and a CONTENT_DEFINED one. -/
def chkS : State := jobS (jobA 1 (descB 1 0 0 1 [0, 16]) [mkH 0 0 0 65, mkH 1 0 0 64])
def cdcS : State := jobS (jobA 1 (descB 0 0 6 1 [16, 64]) [mkH 0 0 0 8, mkH 1 0 0 64])

/-- States and operands that meet the hypotheses of each clause of `Obligations.ChunkerWritesItsBoundaries`. -/
theorem witness_chunkerWritesItsBoundaries :
    (∃ (s : State) (n : Nat) (maxL : Nat) (carry : Nat) (len : Nat) (j : Job) (out : W64) (ends : List Nat) (fits : List Nat),
     s.startable n 1 (fun o => decide (o = 1)) = some j ∧ len = hLen (jh j 0) ∧ out = jh j 1 ∧ 16 ≤ hLen out ∧ maxL = fieldAt
     j.desc 8 4 ∧ carry = fieldAt j.desc 0x0C 4 ∧ 0 < maxL ∧ carry < maxL ∧ (ends = (List.range (len + 1)).filter (fun p =>
     decide (0 < p) && decide ((carry + p) % maxL = 0)) ++ (if bit (fieldAt j.desc 3 1) 0 = true ∧ (carry + len) % maxL ≠ 0 then
     [len] else [])) ∧ fits = ends.take ((hLen out - 16) / 4)) ∧
    (∃ (s : State) (n : Nat) (maxL : Nat) (j : Job) (out : W64) (x : Cdc), s.startable n 1 (fun o => decide (o = 0)) = some j ∧ out =
     jh j 1 ∧ 16 ≤ hLen out ∧ maxL = fieldAt j.desc 8 4 ∧ x = Cdc.run (fieldAt j.desc 4 4) maxL (2 ^ 32 / (2 ^ fieldAt j.desc 2
     1 - fieldAt j.desc 4 4)) (BitVec.ofNat 64 (fieldAt j.desc 0x10 8)) (fieldAt j.desc 0x0C 4) (bit (fieldAt j.desc 3 1) 0)
     (s.hBytes j.ridge (jh j 0))) :=
  ⟨⟨(chkS : State), (0 : Nat), (16 : Nat), ((fieldAt (jobA 1 (descB 1 0 0 1 [0, 16]) [mkH 0 0 0 65, mkH 1 0 0 64]).desc 0x0C 4) : Nat), (65 : Nat), (jobA 1 (descB 1 0 0 1 [0, 16]) [mkH 0 0 0 65, mkH 1 0 0 64] : Job), (mkH 1 0 0 64 : W64), ([16, 32, 48, 64, 65] : List Nat), ([16, 32, 48, 64, 65] : List Nat), by decide +kernel⟩,
   ⟨(cdcS : State), (0 : Nat), (64 : Nat), (jobA 1 (descB 0 0 6 1 [16, 64]) [mkH 0 0 0 8, mkH 1 0 0 64] : Job), (mkH 1 0 0 64 : W64), ((Cdc.run (fieldAt (jobA 1 (descB 0 0 6 1 [16, 64]) [mkH 0 0 0 8, mkH 1 0 0 64]).desc 4 4) 64 (2 ^ 32 / (2 ^ fieldAt (jobA 1 (descB 0 0 6 1 [16, 64]) [mkH 0 0 0 8, mkH 1 0 0 64]).desc 2 1 - fieldAt (jobA 1 (descB 0 0 6 1 [16, 64]) [mkH 0 0 0 8, mkH 1 0 0 64]).desc 4 4)) (BitVec.ofNat 64 (fieldAt (jobA 1 (descB 0 0 6 1 [16, 64]) [mkH 0 0 0 8, mkH 1 0 0 64]).desc 0x10 8)) (fieldAt (jobA 1 (descB 0 0 6 1 [16, 64]) [mkH 0 0 0 8, mkH 1 0 0 64]).desc 0x0C 4) (bit (fieldAt (jobA 1 (descB 0 0 6 1 [16, 64]) [mkH 0 0 0 8, mkH 1 0 0 64]).desc 3 1) 0) (cdcS.hBytes (jobA 1 (descB 0 0 6 1 [16, 64]) [mkH 0 0 0 8, mkH 1 0 0 64]).ridge (jh (jobA 1 (descB 0 0 6 1 [16, 64]) [mkH 0 0 0 8, mkH 1 0 0 64]) 0))) : Cdc), by decide +kernel, rfl, by decide +kernel, by decide +kernel, rfl⟩⟩

/-- A digest job of one operation on context 1. -/
def digJ (op : Nat) : Job := jobA 2 (descB op 0 1 0 []) [mkH 0 0 0 64, mkH 1 0 0 64, mkH 2 0 0 64]

/-- States and operands that meet the hypotheses of each clause of `Obligations.DigestJobsHash`. -/
theorem witness_digestJobsHash :
    (∃ (s : State) (n : Nat) (j : Job) (d : Bytes), d = s.hBytes j.ridge (jh j 0) ∧ s.startable n 2 (fun o => decide (o = 0)) = some
     j) ∧
    (∃ (s : State) (n : Nat) (ctx : Nat) (j : Job) (d : Bytes), d = s.hBytes j.ridge (jh j 0) ∧ ctx = 64 * j.ridge + fieldAt j.desc 2
     1 ∧ s.startable n 2 (fun o => decide (o = 2)) = some j ∧ Tbl.find s.digs ctx = none) ∧
    (∃ (s : State) (n : Nat) (ctx : Nat) (j : Job) (d : Bytes), d = s.hBytes j.ridge (jh j 0) ∧ ctx = 64 * j.ridge + fieldAt j.desc 2
     1 ∧ s.startable n 2 (fun o => decide (o = 4)) = some j ∧ Tbl.find s.digs ctx = some { owner := 0, data := [1] }) ∧
    (∃ (s : State) (n : Nat) (cnt : Nat) (fit : Nat) (j : Job) (d : Bytes) (l : Bytes) (ends : List Nat), s.startable n 2 (fun o =>
     decide (o = 1)) = some j ∧ d = s.hBytes j.ridge (jh j 0) ∧ l = s.hBytes j.ridge (jh j 1) ∧ cnt = fieldAt l 0x0C 4 ∧ ends =
     (List.range cnt).map (fun i => fieldAt l (16 + 4 * i) 4) ∧ fit = min cnt (hLen (jh j 2) / 48)) ∧
    (∃ (s : State) (n : Nat) (m : Nat) (j : Job) (k : Job) (c : Instr), c ∈ [.digDigest n, .digChunks n, .digBegin n, .digUpdate n,
     .digFinal n] ∧ Tbl.find s.jobs n = some j ∧ (m, k) ∈ s.jobs ∧ m < n ∧ j.cls = 2 ∧ k.cls = 2 ∧ ((j.ordered = true ∧ k.cid =
     j.cid) ∨ (k.ridge = j.ridge ∧ 2 ≤ jobOp j ∧ 2 ≤ jobOp k ∧ fieldAt k.desc 2 1 = fieldAt j.desc 2 1))) :=
  ⟨⟨(jobS (digJ 0) : State), (0 : Nat), (digJ 0 : Job), (((jobS (digJ 0)).hBytes (digJ 0).ridge (jh (digJ 0) 0)) : Bytes), by decide +kernel⟩,
   ⟨(jobS (digJ 2) : State), (0 : Nat), ((64 * (digJ 2).ridge + fieldAt (digJ 2).desc 2 1) : Nat), (digJ 2 : Job), (((jobS (digJ 2)).hBytes (digJ 2).ridge (jh (digJ 2) 0)) : Bytes), by decide +kernel⟩,
   ⟨({ jobS (digJ 4) with digs := [(1, { owner := 0, data := [1] })] } : State), (0 : Nat), ((64 * (digJ 4).ridge + fieldAt (digJ 4).desc 2 1) : Nat), (digJ 4 : Job), ((({ jobS (digJ 4) with digs := [(1, { owner := 0, data := [1] })] } : State).hBytes (digJ 4).ridge (jh (digJ 4) 0)) : Bytes), by decide +kernel⟩,
   ⟨(jobS (digJ 1) : State), (0 : Nat), ((fieldAt (((jobS (digJ 1)).hBytes (digJ 1).ridge (jh (digJ 1) 1))) 0x0C 4) : Nat), ((min ((fieldAt (((jobS (digJ 1)).hBytes (digJ 1).ridge (jh (digJ 1) 1))) 0x0C 4)) (hLen (jh (digJ 1) 2) / 48)) : Nat), (digJ 1 : Job), (((jobS (digJ 1)).hBytes (digJ 1).ridge (jh (digJ 1) 0)) : Bytes), (((jobS (digJ 1)).hBytes (digJ 1).ridge (jh (digJ 1) 1)) : Bytes), (((List.range ((fieldAt (((jobS (digJ 1)).hBytes (digJ 1).ridge (jh (digJ 1) 1))) 0x0C 4))).map (fun i => fieldAt (((jobS (digJ 1)).hBytes (digJ 1).ridge (jh (digJ 1) 1))) (16 + 4 * i) 4)) : List Nat), by decide +kernel⟩,
   ⟨({ jobS (digJ 2) with jobs := [(0, digJ 2), (1, digJ 3)] } : State), (1 : Nat), (0 : Nat), (digJ 3 : Job), (digJ 2 : Job), (.digUpdate 1 : Instr), by decide +kernel⟩⟩

/-- An index job for one record; pool 0 has a summary of two buckets at address 0x100. -/
def idxJ (op : Nat) : Job := jobA 6 (descB op 0 0 0 [1]) [mkH 0 0 0 48, mkH 1 0 0 64]
def idxS (op : Nat) : State :=
  { jobS (idxJ op) with mem := [(0, 1), (9, 1), (16, 1)], mapc := { State.reset.mapc with wiping := false } }

/-- States and operands that meet the hypotheses of each clause of `Obligations.IndexJobsProbeInsertRemove`. -/
theorem witness_indexJobsProbeInsertRemove :
    (∃ (s : State) (n : Nat) (o : Nat) (r : Bool) (j : Job) (c : Instr), ((c = .idxProbe n r ∧ o = 0) ∨ (c = .idxInsert n ∧ o = 1) ∨
     (c = .idxRemove n ∧ o = 2)) ∧ s.startable n 6 (fun x => decide (x = o)) = some j) ∧
    (∃ (s : State) (n : Nat) (o : Nat) (r : Bool) (j : Job) (c : Instr), ((c = .idxProbe n r ∧ o = 0) ∨ (c = .idxInsert n ∧ o = 1) ∨
     (c = .idxRemove n ∧ o = 2)) ∧ s.startable n 6 (fun x => decide (x = o)) = some j ∧ s.mapc.wiping = false ∧ bit (s.rdNat
     (s.regBits (ridgeBlk j.ridge 9) 0 48 + 64 * fieldAt j.desc 2 1) 1) 0 = true) ∧
    (∃ (s : State) (n : Nat) (pool : Nat) (len : Nat) (h : Nat) (base : Nat) (log2b : Nat) (b1 : Nat) (b2 : Nat) (lb : Nat) (cap :
     Nat) (m : Nat) (j : Job) (dig : Bytes) (ridge : Nat), ridge = j.ridge ∧ pool = fieldAt j.desc 2 1 ∧ s.idxDesc ridge pool =
     (true, base, log2b) ∧ fieldAt j.desc 4 4 = 1 ∧ s.idxRecord j 0 = (dig, len, h) ∧ (b1, b2) = buckets dig log2b ∧
     s.mapc.wiping = false ∧ Tbl.sorted s.regs = true ∧ s.idxLogAt ridge pool = (lb, cap) ∧ m = (s.idxLog pool).length ∧
     s.startable n 6 (fun x => decide (x = 1)) = some j ∧ s.idxFind pool dig len = none ∧ s.freeSlot base b1 = some 0) :=
  ⟨⟨(jobS (idxJ 0) : State), (0 : Nat), (0 : Nat), (false : Bool), (idxJ 0 : Job), (.idxProbe 0 false : Instr), by decide +kernel⟩,
   ⟨(idxS 1 : State), (0 : Nat), (1 : Nat), (false : Bool), (idxJ 1 : Job), (.idxInsert 0 : Instr), by decide +kernel⟩,
   ⟨(idxS 1 : State), (0 : Nat), (0 : Nat), (0 : Nat), (0 : Nat), (256 : Nat), (1 : Nat), ((buckets (zeros 32) 1).1 : Nat), ((buckets (zeros 32) 1).2 : Nat), (0 : Nat), (0 : Nat), (0 : Nat), (idxJ 1 : Job), (zeros 32 : Bytes), (0 : Nat), by decide +kernel⟩⟩

/-- An XTS job of key slot 2 over 4,112 bytes. -/
def xtsJ (op : Nat) : Job := jobA 4 (descB op 0 2 0 []) [mkH 0 0 0 4112, mkH 1 0 0 4112]

/-- States and operands that meet the hypotheses of each clause of `Obligations.XtsJobsAndKeySlots`. -/
theorem witness_xtsJobsAndKeySlots :
    (∃ (s : State) (n : Nat) (j : Job) (enc : Bool) (c : Instr) (d : Bytes), ((enc = true ∧ c = .xtsEncrypt n ∧ s.startable n 4 (fun
     o => decide (o = 0)) = some j) ∨ (enc = false ∧ c = .xtsDecrypt n ∧ s.startable n 4 (fun o => decide (o = 1)) = some j)) ∧
     d = s.hBytes j.ridge (jh j 0) ∧ 16 ≤ hLen (jh j 0) ∧ Tbl.find s.keySlots (fieldAt j.desc 2 1) = some (zeros 64)) ∧
    (∃ (s : State) (pool : Nat) (k : Bytes), pool < 16 ∧ s.areaKey 5 pool = some k) ∧
    (∃ (s : State), Tbl.sorted s.keySlots = true) ∧
    (∃ (s : State) (pool : Nat), Tbl.sorted s.keySlots = true ∧ (∃ p ∈ s.jobs, p.2.cls = 4 ∧ p.2.noKey = false ∧ fieldAt p.2.desc 2 1
     = pool)) ∧
    (∃ (s : State) (n : Nat) (pool : Nat) (j : Job), j.cls = 4 ∧ Tbl.sorted s.keySlots = true ∧ pool ∈ s.keyEnding ∧ ((∀ p ∈ Tbl.del
     s.jobs n, p.2.cls = 4 → p.2.noKey = false → fieldAt p.2.desc 2 1 ≠ pool))) :=
  ⟨⟨({ jobS (xtsJ 0) with keySlots := [(2, zeros 64)] } : State), (0 : Nat), (xtsJ 0 : Job), (true : Bool), (.xtsEncrypt 0 : Instr), ((({ jobS (xtsJ 0) with keySlots := [(2, zeros 64)] } : State).hBytes (xtsJ 0).ridge (jh (xtsJ 0) 0)) : Bytes), by decide +kernel, rfl, by (with_reducible and_intros) <;> decide +kernel⟩,
   ⟨({ State.reset with wdn := { State.reset.wdn with keyArea := [{ kind := 5, index := 15, value := zeros 64, genRec := 1 }] } } : State), (15 : Nat), (zeros 64 : Bytes), by decide +kernel⟩,
   ⟨(jobS (xtsJ 0) : State), by decide +kernel⟩,
   ⟨(jobS (xtsJ 0) : State), (2 : Nat), by decide +kernel⟩,
   ⟨({ jobS (xtsJ 0) with keySlots := [(2, zeros 64)], keyEnding := [2] } : State), (0 : Nat), (2 : Nat), (xtsJ 0 : Job), by decide +kernel⟩⟩

/-- A CODER job of one operation on so many bytes, without a state buffer but for RESUME. -/
def codJ (op len : Nat) : Job :=
  { jobA 3 (descB op 0 7 0 []) [mkH 0 0 0 len, mkH 1 0 0 64, if op = 3 then mkH 2 0 0 4096 else nullH] with started := true }
def frameB : Bytes := frameHeader 0 1 1 0 0 (crc32c [7]) 0 ++ [7] ++ leBytes 4 (crc32c [7])
/-- A DECODE job whose input is a frame of one stored byte. -/
def frameS : State :=
  ({ jobS (codJ 2 37) with bufs := [(0, { base := 0, grans := 1, bytes := 37, owner := 0 })] }).wrBytes (bufBase 0) frameB

/-- States and operands that meet the hypotheses of each clause of `Obligations.CoderJobsEncodeAndDecode`. -/
theorem witness_coderJobsEncodeAndDecode :
    (∃ (s : State) (n : Nat) (j : Job) (c : Instr) (sts : List Nat), ((c = .coderEncodeByte n ∧ s.startable n 3 (fun o => decide (o =
     0)) = some j ∧ sts = [0, 0x10, 0x11]) ∨ (c = .coderEncodeRaster n ∧ s.startable n 3 (fun o => decide (o = 1)) = some j ∧
     sts = [0, 0x10, 0x11, 0x19]) ∨ (c = .coderDecode n ∧ s.startable n 3 (fun o => decide (o = 2)) = some j ∧ sts = [0, 0x10,
     0x13, 0x14, 0x15, 0x16, 0x17, 0x18]) ∨ (c = .coderResume n ∧ s.startable n 3 (fun o => decide (o = 3)) = some j ∧ sts = [0,
     0x10, 0x11, 0x12, 0x13, 0x14, 0x15, 0x16, 0x17, 0x18]))) ∧
    (∃ (s : State) (n : Nat) (j : Job), s.startable n 3 (fun o => decide (o = 1)) = some j ∧ hLen (jh j 0) % (planesOf (fieldAt
     j.desc 2 1) * bpsOf (fieldAt j.desc 2 1)) ≠ 0) ∧
    (∃ (s : State) (n : Nat) (len : Nat) (j : Job) (d : Bytes), s.startable n 3 (fun o => decide (o = 0)) = some j ∧ d = s.hBytes
     j.ridge (jh j 0) ∧ len = hLen (jh j 0) ∧ len ≤ 4 ∧ jh j 2 = nullH) ∧
    (∃ (s : State) (n : Nat) (len : Nat) (j : Job) (x : Bytes) (rest : Bytes), s.startable n 3 (fun o => decide (o = 2)) = some j ∧
     s.hBytes j.ridge (jh j 0) = frameHeader 0 len len 0 0 (crc32c x) 0 ++ x ++ leBytes 4 (crc32c x) ++ rest ∧ x.length = len ∧
     0 < len ∧ len ≤ 1048576 ∧ fieldAt j.desc 8 4 ∈ [0, len] ∧ jh j 2 = nullH) ∧
    (∃ (s : State) (n : Nat) (j : Job), s.startable n 3 (fun o => decide (o = 3)) = some j ∧ badState (s.rdBytes (s.hAddr j.ridge (jh
     j 2)) 4096) (hLen (jh j 0)) = true) :=
  ⟨⟨(jobS (codJ 0 4) : State), (0 : Nat), (codJ 0 4 : Job), (.coderEncodeByte 0 : Instr), ([0, 0x10, 0x11] : List Nat), by decide +kernel⟩,
   ⟨(jobS (codJ 1 7) : State), (0 : Nat), (codJ 1 7 : Job), by decide +kernel⟩,
   ⟨(jobS (codJ 0 4) : State), (0 : Nat), ((hLen (jh (codJ 0 4) 0)) : Nat), (codJ 0 4 : Job), (((jobS (codJ 0 4)).hBytes (codJ 0 4).ridge (jh (codJ 0 4) 0)) : Bytes), by decide +kernel⟩,
   ⟨(frameS : State), (0 : Nat), (1 : Nat), (codJ 2 37 : Job), ([7] : Bytes), ([] : Bytes), by decide +kernel⟩,
   ⟨(jobS (codJ 3 4) : State), (0 : Nat), (codJ 3 4 : Job), by decide +kernel, by
     unfold badState
     simp only [show decide (fieldAt ((jobS (codJ 3 4)).rdBytes ((jobS (codJ 3 4)).hAddr (codJ 3 4).ridge (jh (codJ 3 4) 2)) 4096) 0 2 ≠ 1) = true
       from by decide +kernel, Bool.or_true, Bool.true_or]⟩⟩

/-- A PAR job of two strips of 16 bytes, one handle. -/
def parJ (op : Nat) : Job := jobA 5 (descB op 0 2 1 [16, 0xFF01]) [mkH 0 0 0 32, mkH 1 0 0 16, mkH 2 0 0 16, mkH 3 0 0 16]

/-- States and operands that meet the hypotheses of each clause of `Obligations.ParityJobsFollowTheField`. -/
theorem witness_parityJobsFollowTheField :
    (∃ (s : State) (n : Nat) (k : Nat) (l : Nat) (op : Nat) (j : Job) (c : Instr) (d : Nat → Nat → Byte), ((c = .parGeneratePq n ∧ op
     = 0) ∨ (c = .parGenerateP n ∧ op = 1)) ∧ s.startable n 5 (fun o => decide (o = op)) = some j ∧ k = fieldAt j.desc 2 1 ∧ l =
     fieldAt j.desc 4 4 ∧ ((∀ m i, d m i = ((s.parStrips j).getD m []).getD i 0))) ∧
    (∃ (s : State) (n : Nat) (k : Nat) (l : Nat) (e1 : Nat) (e2 : Nat) (j : Job) (d : Nat → Nat → Byte) (p : Nat → Byte) (q : Nat →
     Byte), s.startable n 5 (fun o => decide (o = 2)) = some j ∧ k = fieldAt j.desc 2 1 ∧ l = fieldAt j.desc 4 4 ∧ k ≤ 30 ∧ e1 =
     fieldAt j.desc 8 1 ∧ e2 = fieldAt j.desc 9 1 ∧ e1 ≤ k + 1 ∧ (e2 ≤ k + 1 ∨ e2 = 0xFF) ∧ e1 ≠ e2 ∧ ((∀ m i, d m i =
     ((s.parStrips j).getD m []).getD i 0)) ∧ ((∀ i, p i = (s.rdBytes (s.hAddr j.ridge (jh j 1)) l).getD i 0)) ∧ ((∀ i, q i =
     (s.rdBytes (s.hAddr j.ridge (jh j 2)) l).getD i 0))) ∧
    (∃ (s : State) (n : Nat) (k : Nat) (l : Nat) (j : Job) (d : Nat → Nat → Byte) (okP : Prop) (okQ : Prop), s.startable n 5 (fun o
     => decide (o = 3)) = some j ∧ k = fieldAt j.desc 2 1 ∧ l = fieldAt j.desc 4 4 ∧ ((∀ m i, d m i = ((s.parStrips j).getD m
     []).getD i 0)) ∧ ((okP ↔ ∀ i < l, (s.rdBytes (s.hAddr j.ridge (jh j 1)) l).getD i 0 = xorTo k (fun m => d m i))) ∧ ((okQ ↔
     ∀ i < l, (s.rdBytes (s.hAddr j.ridge (jh j 2)) l).getD i 0 = xorTo k (fun m => gfMul (gfPow m) (d m i))))) :=
  ⟨⟨(jobS (parJ 0) : State), (0 : Nat), ((fieldAt (parJ 0).desc 2 1) : Nat), ((fieldAt (parJ 0).desc 4 4) : Nat), (0 : Nat), (parJ 0 : Job), (.parGeneratePq 0 : Instr), (fun m i => (((jobS (parJ 0)).parStrips (parJ 0)).getD m []).getD i 0 : Nat → Nat → Byte), by decide +kernel, by decide +kernel, by decide +kernel, by decide +kernel, fun _ _ => rfl⟩,
   ⟨(jobS (parJ 2) : State), (0 : Nat), (2 : Nat), (16 : Nat), (1 : Nat), (0xFF : Nat), (parJ 2 : Job), (fun m i => (((jobS (parJ 2)).parStrips (parJ 2)).getD m []).getD i 0 : Nat → Nat → Byte), (fun i => ((jobS (parJ 2)).rdBytes ((jobS (parJ 2)).hAddr 0 (mkH 1 0 0 16)) 16).getD i 0 : Nat → Byte), (fun i => ((jobS (parJ 2)).rdBytes ((jobS (parJ 2)).hAddr 0 (mkH 2 0 0 16)) 16).getD i 0 : Nat → Byte), by (with_reducible and_intros) <;> first | exact fun _ _ => rfl | exact fun _ => rfl | decide +kernel⟩,
   ⟨(jobS (parJ 3) : State), (0 : Nat), (2 : Nat), (16 : Nat), (parJ 3 : Job), (fun m i => (((jobS (parJ 3)).parStrips (parJ 3)).getD m []).getD i 0 : Nat → Nat → Byte), (∀ i < 16, ((jobS (parJ 3)).rdBytes ((jobS (parJ 3)).hAddr 0 (mkH 1 0 0 16)) 16).getD i 0 = xorTo 2 (fun m => (((jobS (parJ 3)).parStrips (parJ 3)).getD m []).getD i 0) : Prop), (∀ i < 16, ((jobS (parJ 3)).rdBytes ((jobS (parJ 3)).hAddr 0 (mkH 2 0 0 16)) 16).getD i 0 = xorTo 2 (fun m => gfMul (gfPow m) ((((jobS (parJ 3)).parStrips (parJ 3)).getD m []).getD i 0)) : Prop), by decide +kernel, by decide +kernel, by decide +kernel, fun _ _ => rfl, Iff.rfl, Iff.rfl⟩⟩

/-- States and operands that meet the hypotheses of each clause of `Obligations.RegisterWritesFollowTheirTypes`. -/
theorem witness_registerWritesFollowTheirTypes :
    (∃ (s : State) (m : Nat) (off : Nat) (width : Nat) (slot : Nat) (lo : Nat) (b : Blk) (v : W64) (x : W64) (mask : W64) (k : W64)
     (old : W64) (c : Instr), c ∈ [.registerWrite m off width v, .absentUnitWrite m off width v, .w1cFlagClear m off width v 0,
     .evcntWrite m off width v false] ∧ s.gate m off width true = .open ∧ slot = off / 8 * 8 ∧ ctlBlock slot = some (b, lo) ∧
     plainBlk b = true ∧ Tbl.sorted s.regs = true ∧ (x, mask) = slotValue off width v ∧ old = s.reg slot ∧ k = mask &&&
     BitVec.ofNat 64 (if m = 0x60 then (regDesc slot).rw ||| (regDesc slot).rol else (regDesc slot).rw)) ∧
    (∃ (s : State) (m : Nat) (off : Nat) (width : Nat) (slot : Nat) (lo : Nat) (b : Blk) (v : W64) (x : W64) (mask : W64) (f : W64),
     s.gate m off width true = .open ∧ slot = off / 8 * 8 ∧ ctlBlock slot = some (b, lo) ∧ plainBlk b = true ∧ Tbl.sorted s.regs
     = true ∧ (x, mask) = slotValue off width v ∧ f = BitVec.ofNat 64 (regDesc slot).w1c ∧ f ≠ 0 ∧ mayWrite m off = true ∧
     (regDesc slot).rw = 0 ∧ (regDesc slot).rol = 0 ∧ (regDesc slot).w1s = 0) ∧
    (∃ (s : State) (m : Nat) (off : Nat) (width : Nat) (lo : Nat) (b : Blk), s.gate m off width true = .open ∧ off % 0x10000 = 0xFFF8
     ∧ ctlBlock off = some (b, lo) ∧ plainBlk b = true ∧ mayWrite m off = true ∧ Tbl.sorted s.regs = true) ∧
    (∃ (s : State) (m : Nat) (off : Nat) (width : Nat) (lo : Nat) (b : Blk), ((m = 0x50 → s.fnOpen 0 = true)) ∧ ((m = 0x51 → s.fnOpen
     1 = true)) ∧ (s.decodeAddr (ctlBase + off) width).isSome = true ∧ ctlBlock off = some (b, lo) ∧ s.blkPresent b = false) ∧
    (∃ (s : State) (m : Nat) (off : Nat) (width : Nat) (lo : Nat) (b : Blk), ((m = 0x50 → s.fnOpen 0 = true)) ∧ ((m = 0x51 → s.fnOpen
     1 = true)) ∧ (s.decodeAddr (ctlBase + off) width).isSome = true ∧ ctlBlock off = some (b, lo) ∧ s.blkPresent b = true ∧
     ctlGrant (s.profileOf m) (if m < 0x20 then m / 4 else 0) true b lo = false) ∧
    (∃ (s : State), Tbl.sorted s.regs = true) ∧
    (∃ (s : State) (fn : Nat), fn < 2 ∧ s.fnOpen fn = true) ∧
    (∃ (s : State) (fn : Nat), fn < 2 ∧ s.fnOpen fn = false) :=
  ⟨⟨(State.reset : State), (0x60 : Nat), (0x40 : Nat), (8 : Nat), (0x40 : Nat), (0x40 : Nat), (.sys : Blk), (0x123456789000 : W64), (0x123456789000 : W64), (BitVec.allOnes 64 : W64), (((BitVec.allOnes 64) &&& BitVec.ofNat 64 (if 0x60 = 0x60 then (regDesc 0x40).rw ||| (regDesc 0x40).rol else (regDesc 0x40).rw)) : W64), ((State.reset.reg 0x40) : W64), (.registerWrite 0x60 0x40 8 0x123456789000 : Instr), by decide +kernel⟩,
   ⟨(State.reset : State), (0x60 : Nat), (0x106001C : Nat), (4 : Nat), (0x1060018 : Nat), (0x18 : Nat), (.dig 0 : Blk), (3 : W64), (0x300000000 : W64), (0xFFFFFFFF00000000 : W64), ((BitVec.ofNat 64 (regDesc 0x1060018).w1c) : W64), by decide +kernel⟩,
   ⟨(State.reset : State), (0x60 : Nat), (0x106FFF8 : Nat), (8 : Nat), (0xFFF8 : Nat), (.dig 0 : Blk), by decide +kernel⟩,
   ⟨({ State.reset with fuses := { State.reset.fuses with ridges := 1 } } : State), (0x60 : Nat), (0x1160018 : Nat), (8 : Nat), (0x18 : Nat), (.dig 1 : Blk), by decide +kernel⟩,
   ⟨(State.reset : State), (0x34 : Nat), (0x40 : Nat), (8 : Nat), (0x40 : Nat), (.sys : Blk), by decide +kernel⟩,
   ⟨(State.reset : State), by decide +kernel⟩,
   ⟨({ State.reset with pep := { State.reset.pep with linkUp := true, mse0 := true } } : State), (0 : Nat), by decide +kernel⟩,
   ⟨(State.reset : State), (0 : Nat), by decide +kernel⟩⟩

/-- A Notch context as START leaves it, and one with other contents. -/
def nchX : NchCtx :=
  { owner := 0x60, key := zeros 64, data := [], started := true, busy := false, last := false, done := false, digest := [] }
def nchS (x : NchCtx) : State := { State.reset with nch := [(15, x)] }

/-- States and operands that meet the hypotheses of each clause of `Obligations.NotchContextsHashMessages`. -/
theorem witness_notchContextsHashMessages :
    (∃ (s : State) (m : Nat) (c : Nat) (width : Nat) (v : W64), c < 16 ∧ s.gate m (nchReg c) width true = .open ∧ Tbl.find s.nch c =
     none ∧ v.getLsbD 9 = true) ∧
    (∃ (s : State) (m : Nat) (width : Nat), Tbl.sorted s.nch = true ∧ s.gate m (rNch + 0x20) width true = .open) ∧
    (∃ (s : State) (m : Nat) (c : Nat) (width : Nat) (v : W64) (x : NchCtx), c < 16 ∧ Tbl.find s.nch c = some x ∧ x.owner = m ∧
     s.gate m (nchReg c + 0x28) width true = .open ∧ s.nchFailed c = false ∧ bits v.toNat 32 3 ≤ 4) ∧
    (∃ (s : State) (c : Nat) (x : NchCtx), Tbl.find s.nch c = some x ∧ x.busy = true) ∧
    (∃ (s : State) (c : Nat), c < 16 ∧ Tbl.sorted s.regs = true) :=
  ⟨⟨(State.reset : State), (0x60 : Nat), (15 : Nat), (8 : Nat), (0x200 : W64), by decide +kernel⟩,
   ⟨(nchS nchX : State), (0x60 : Nat), (8 : Nat), by decide +kernel⟩,
   ⟨(nchS nchX : State), (0x60 : Nat), (15 : Nat), (8 : Nat), (0x400000000 : W64), (nchX : NchCtx), by decide +kernel⟩,
   ⟨(nchS { nchX with busy := true, last := true } : State), (15 : Nat), ({ nchX with busy := true, last := true } : NchCtx), by decide +kernel⟩,
   ⟨(State.reset : State), (15 : Nat), by decide +kernel⟩⟩

/-- One climb of ridge 0, and core 0 idle. -/
def oneS (c : Climb) : State := { State.reset with climbs := [(0, c)] }
def rdyC : Climb := { Climb.fresh with state := .ready, core := some 0 }
def strayC : Climb := { Climb.fresh with state := .ready }
def alcC : Climb := { Climb.fresh with state := .waiting, await := .alloc 0x100001 14 }
def parkC : Climb := { Climb.fresh with state := .parked, deadline := some 0 }
def endC : Climb := { Climb.fresh with state := .waiting, ended := .exit 3, parent := some 1, parentTok := 2 }

/-- States and operands that meet the hypotheses of each clause of `Obligations.ClimbEventsFollowTheRules`. -/
theorem witness_climbEventsFollowTheRules :
    (∃ (s : State) (r : Nat) (m : Nat) (k : Nat) (cid : Nat) (c : Climb) (hosts : List (Nat × Climb)) (bgs : List (Nat × Climb)), k =
     4 * r + m ∧ s.coreIdle k = true ∧ s.climb cid = c ∧ (cid, c) ∈ s.residents k ∧ c.state = .ready ∧ hosts = (s.residents
     k).filter (fun p => decide (p.2.state = .ready) && !p.2.bg) ∧ bgs = (s.residents k).filter (fun p => decide (p.2.state =
     .ready) && p.2.bg) ∧ ((∀ p ∈ s.residents k, p.2.state = .ready → p.2.bg = c.bg → p.1 ≠ cid → c.stamp < p.2.stamp)) ∧ ((c.bg
     = true → hosts = [] ∨ (s.bgShare r ≠ 0 ∧ s.bgShare r ≤ (s.core k).share + 1))) ∧ ((c.bg = false → bgs = [] ∨ s.bgShare r =
     0 ∨ (s.core k).share + 1 < s.bgShare r))) ∧
    (∃ (s : State) (r : Nat) (m : Nat) (cid : Nat), s.runningOn r m = some cid ∧ (s.climb cid).core = some (4 * r + m) ∧ s.otherReady
     (4 * r + m) = false) ∧
    (∃ (s : State) (r : Nat) (m : Nat) (k : Nat) (cid : Nat) (c : Climb), k = 4 * r + m ∧ m < 4 ∧ (s.core k).frozen = false ∧ s.climb
     cid = c ∧ (cid, c) ∈ s.strays r ∧ ((∀ p ∈ s.strays r, p.1 ≠ cid → c.stamp < p.2.stamp))) ∧
    (∃ (s : State) (r : Nat) (m : Nat) (cid : Nat), s.runningOn r m = some cid ∧ s.wdLimit r ≠ 0 ∧ s.wdLimit r ≤ (s.climb cid).run ∧
     trapReady (.dp r m) s = true) ∧
    (∃ (s : State) (cid : Nat) (c : Climb), s.climb cid = c ∧ c.state ≠ .free ∧ c.ended ≠ .running ∧ s.drained cid = true ∧
     s.ownedBufs cid = []) ∧
    (∃ (s : State) (r : Nat) (cid : Nat) (n : Nat) (hd : Nat) (c : Climb) (bg : Bool), s.climb cid = c ∧ cid / 1024 = r ∧
     s.oldestAlloc r bg = some (cid, c) ∧ c.await = .alloc n hd ∧ s.allocable r n c.bg = true ∧ ((∀ p, s.oldestAlloc r (!bg) =
     some p → c.stamp < p.2.stamp ∨ (p.2.stamp < c.stamp ∧ s.canMeet p = false))) ∧ ((∃ k < 8191, Tbl.find s.bufs (8192 * r + k)
     = none))) ∧
    (∃ (s : State) (r : Nat) (g : Nat) (n : Nat), Tbl.sorted s.wipes = true ∧ Mem.wf s.mem = true ∧ Tbl.find s.wipes (24576 * r + g)
     = some n) ∧
    (∃ (s : State) (cid : Nat) (c : Climb) (d : W64), s.climb cid = c ∧ c.state = .parked ∧ c.deadline = some d ∧ d.toNat ≤
     s.time.toNat) ∧
    (∃ (s : State) (m : Nat) (r : Nat) (cid : Nat) (v : W64) (c : Climb), s.gate m (climbBlk r + 0x18) 8 true = .open ∧ cid = 1024 *
     r + bits v.toNat 0 10 ∧ s.climb cid = c ∧ c.state = .parked) :=
  ⟨⟨(oneS rdyC : State), (0 : Nat), (0 : Nat), ((4 * 0 + 0) : Nat), (0 : Nat), (rdyC : Climb), ([(0, rdyC)] : List (Nat × Climb)), ([] : List (Nat × Climb)), by decide +kernel⟩,
   ⟨(dpS : State), (0 : Nat), (0 : Nat), (0 : Nat), by decide +kernel⟩,
   ⟨(oneS strayC : State), (0 : Nat), (3 : Nat), (3 : Nat), (0 : Nat), (strayC : Climb), by decide +kernel⟩,
   ⟨(dpC (fun c => { c with run := 2500000 }) : State), (0 : Nat), (0 : Nat), (0 : Nat), by decide +kernel⟩,
   ⟨(oneS endC : State), (0 : Nat), (endC : Climb), by decide +kernel⟩,
   ⟨(oneS alcC : State), (0 : Nat), (0 : Nat), (0x100001 : Nat), (14 : Nat), (alcC : Climb), (false : Bool), by decide +kernel, by decide +kernel, by decide +kernel, by decide +kernel, by decide +kernel,
    (fun p h => absurd ((show oldestAlloc (oneS alcC) 0 true = none by decide +kernel).symm.trans h) (by simp)),
    ⟨0, by (with_reducible and_intros) <;> decide +kernel⟩⟩,
   ⟨({ State.reset with wipes := [(24575, 1)] } : State), (0 : Nat), (24575 : Nat), (1 : Nat), by decide +kernel⟩,
   ⟨(oneS parkC : State), (0 : Nat), (parkC : Climb), (0 : W64), by decide +kernel⟩,
   ⟨(oneS parkC : State), (0x20 : Nat), (0 : Nat), (0 : Nat), (0 : W64), (parkC : Climb), by decide +kernel⟩⟩

/-- A route call waits in the queue of PF0 for the dispatcher. -/
def queuedS : State :=
  { State.reset with pep := { State.reset.pep with queue := [callB 0 0 []], bme0 := true, linkUp := true } }

/-- Route 0 is valid, callable and takes five arguments; a call of it is held. -/
def heldS : State :=
  { State.reset with
    mem := [(1, 0x10), (6, 4), (9, 0x11), (14, 5), (15, 5)],
    calls := [(0, callC 0 [1, 2, 3, 4, 5] .held)] }

/-- States and operands that meet the hypotheses of each clause of `Obligations.RouteCallsRunInOrder`. -/
theorem witness_routeCallsRunInOrder :
    (∃ (s : State) (cid : Nat) (c : Call), s.oldestFree c.ridge = some cid ∧ Mem.wf s.mem = true) ∧
    (∃ (s : State) (c : Call) (s0 : State), s0 = (if c.internal then s else { s with pep := { s.pep with dispatched := s.pep.dispatched + 1 } })
     ∧ callPlen c.entry = 0) ∧
    (∃ (s : State) (u : State) (e : Bytes) (q : List Bytes) (int : Bool) (c : Call) (cmd : Instr), e.length = 64 ∧ ((int = true ∧ cmd
     = .routeCallDispatch (some e) ∧ u = { s with stamp := s.stamp + 1 }) ∨ (int = false ∧ cmd = .routeCallDispatch none ∧
     s.pep.queue = e :: q ∧ s.pep.bme0 = true ∧ s.pep.frozen0 = false ∧ s.pep.linkUp = true ∧ u = { s with mcores := s.wakeCores.mcores, pep := { s.pep with queue := q }, bell := s.bell && !q.isEmpty, stamp := s.stamp + 1 }))
     ∧ c = { internal := int, entry := e, phase := .held, cid := none, ridge := 0xFF, param := nullH, due := 0, discarded := false }
     ∧ s.pwr.mode ≠ 7) ∧
    (∃ (s : State) (m : Nat) (i : Nat) (pct : Nat) (u : LopUpdate) (w : Nat) (old : Nat), 0x20 ≤ m ∧ m < 0x24 ∧ i < 64 ∧ Tbl.sorted
     s.regs = true ∧ s.gate m (0xF0000 + i * 0x20) 8 true = .open ∧ old = (s.reg (0xF0000 + i * 0x20)).toNat ∧ pct = (if u.phase
     = 3 then 10000 else min 9999 (10000 * u.done / max 1 u.work)) ∧ w = b2n u.valid + u.typ % 8 * 2 + (if u.posUnit = 0 then 0
     else 16) + u.phase % 8 * 2 ^ 5 + u.pool % 16 * 2 ^ 8 + b2n u.device * 2 ^ 12 + pct * 2 ^ 16 + (bits old 32 16 + 2) % 65536
     * 2 ^ 32) :=
  ⟨⟨(heldS : State), (0 : Nat), (callC 0 [1, 2, 3, 4, 5] .held : Call), by decide +kernel⟩,
   ⟨(heldS : State), (callC 0 [] .held : Call), (heldS : State), by decide +kernel⟩,
   ⟨(queuedS : State), ({ queuedS with pep := { State.reset.pep with bme0 := true, linkUp := true }, stamp := 2 } : State), (callB 0 0 [] : Bytes), ([] : List Bytes), (false : Bool), ({ callC 0 [] .held with internal := false, ridge := 0xFF } : Call), (.routeCallDispatch none : Instr), by decide +kernel⟩,
   ⟨(State.reset : State), (0x23 : Nat), (63 : Nat), (10000 : Nat), ({ valid := true, typ := 0, posUnit := 0, phase := 3, pool := 0, device := false, done := 0, work := 0, position := 0, total := 0, start := 0, taken := true } : LopUpdate), ((b2n ({ valid := true, typ := 0, posUnit := 0, phase := 3, pool := 0, device := false, done := 0, work := 0, position := 0, total := 0, start := 0, taken := true } : LopUpdate).valid + ({ valid := true, typ := 0, posUnit := 0, phase := 3, pool := 0, device := false, done := 0, work := 0, position := 0, total := 0, start := 0, taken := true } : LopUpdate).typ % 8 * 2 + (if ({ valid := true, typ := 0, posUnit := 0, phase := 3, pool := 0, device := false, done := 0, work := 0, position := 0, total := 0, start := 0, taken := true } : LopUpdate).posUnit = 0 then 0 else 16) + ({ valid := true, typ := 0, posUnit := 0, phase := 3, pool := 0, device := false, done := 0, work := 0, position := 0, total := 0, start := 0, taken := true } : LopUpdate).phase % 8 * 2 ^ 5 + ({ valid := true, typ := 0, posUnit := 0, phase := 3, pool := 0, device := false, done := 0, work := 0, position := 0, total := 0, start := 0, taken := true } : LopUpdate).pool % 16 * 2 ^ 8 + b2n ({ valid := true, typ := 0, posUnit := 0, phase := 3, pool := 0, device := false, done := 0, work := 0, position := 0, total := 0, start := 0, taken := true } : LopUpdate).device * 2 ^ 12 + 10000 * 2 ^ 16 + (bits (((State.reset.reg (0xF0000 + 63 * 0x20)).toNat)) 32 16 + 2) % 65536 * 2 ^ 32) : Nat), (((State.reset.reg (0xF0000 + 63 * 0x20)).toNat) : Nat), by decide +kernel⟩⟩

/-- The endpoint's link is up and PF0 opens its memory; the call queue is enabled. -/
def pepS : State :=
  { regS [(0xD0018, 1)] with pep := { State.reset.pep with linkUp := true, mse0 := true, mse1 := true, bme0 := true } }

/-- States and operands that meet the hypotheses of each clause of `Obligations.EndpointServesItsQueue`. -/
theorem witness_endpointServesItsQueue :
    (∃ (s : State) (width : Nat) (v : Nat) (n : Nat) (queued : Nat) (added : Nat) (w : W64), s.fnOpen 0 = true ∧ ((width = 4 ∨ width
     = 8)) ∧ v = w.toNat % 2 ^ 32 ∧ s.regBit rCallqCfg 0 = true ∧ n = s.sqEntries ∧ v < n ∧ added ≤ n - 1 - queued) ∧
    (∃ (s : State) (off : Nat) (d : Bytes), s.fnOpen 0 = true ∧ off + d.length ≤ 0x10000) ∧
    (∃ (s : State) (m : Nat) (width : Nat), s.gate m rCallqCfg width true = .open ∧ mayWrite m rCallqCfg = false) ∧
    (∃ (s : State) (m : Nat) (width : Nat) (v : W64) (x : W64) (k : W64) (rw : W64) (new : W64), s.gate m rCallqCfg width true =
     .open ∧ mayWrite m rCallqCfg = true ∧ (x, k) = slotValue rCallqCfg width v ∧ rw = BitVec.ofNat 64 (regDesc rCallqCfg).rw ∧
     new = (s.reg rCallqCfg &&& ~~~(k &&& rw)) ||| (x &&& k &&& rw) ∧ s.regBit rCallqCfg 0 = false ∧ new.getLsbD 0 = true) ∧
    (∃ (s : State) (n : Nat) (due : Nat), Tbl.find s.pep.late n = some due) ∧
    (∃ (s : State) (n : Nat) (c : Call) (off : Nat) (d : Bytes), Tbl.find s.pep.late n = none ∧ Tbl.find s.calls n = some c ∧
     c.internal = false ∧ c.phase = .reading ∧ c.due ≠ 0 ∧ d ≠ [] ∧ off + d.length ≤ callPlen c.entry ∧ d.length ≤ c.due ∧ (∀ g
     ∈ c.got, off + d.length ≤ g.1 ∨ g.1 + g.2 ≤ off)) ∧
    (∃ (s : State) (fn : Nat), fn < 2 ∧ (s.msix fn).enable = true ∧ (s.msix fn).fmask = false ∧ (s.msix fn).pba = 2 ∧ s.bme fn = true) ∧
    (∃ (s : State) (t : State) (u : State) (mem : Bool), t = { s with pep := { s.pep with bme0 := false, mse0 := mem, flrBusy0 := false } }
     ∧ u = { s with pep := { s.pep with bme1 := false, mse1 := mem, flrBusy1 := false } }) ∧
    (∃ (s : State) (n : Nat) (w : Posted) (before : List Posted) (after : List Posted), s.pep.posted = before ++ w :: after ∧ w.call
     = some n ∧ s.pep.bme0 = false ∧ ((∀ p ∈ before, p.call ≠ some n)) ∧ w.since.toNat + 100000000 ≤ s.time.toNat ∧ w ∉ before) ∧
    (∃ (s : State), s.pep.linkUp = true) ∧
    (∃ (s : State), s.pep.linkUp = false ∧ bit s.pwr.domains 79 = true) :=
  ⟨⟨(pepS : State), (4 : Nat), (((1 : W64).toNat % 2 ^ 32) : Nat), (pepS.sqEntries : Nat), (0 : Nat), (1 : Nat), (1 : W64), by decide +kernel⟩,
   ⟨(pepS : State), (0xFFFF : Nat), ([1] : Bytes), by decide +kernel⟩,
   ⟨(State.reset : State), (0x60 : Nat), (8 : Nat), by decide +kernel⟩,
   ⟨(State.reset : State), (0x20 : Nat), (8 : Nat), (1 : W64), (1 : W64), (BitVec.allOnes 64 : W64), (0x7FFFFFF : W64), (((State.reset.reg rCallqCfg &&& ~~~((BitVec.allOnes 64) &&& (0x7FFFFFF : W64))) ||| ((1 : W64) &&& (BitVec.allOnes 64) &&& (0x7FFFFFF : W64))) : W64), by decide +kernel⟩,
   ⟨({ State.reset with pep := { State.reset.pep with late := [(0, 64)] } } : State), (0 : Nat), (64 : Nat), by decide +kernel⟩,
   ⟨({ State.reset with calls := [(0, { callC 40 [] .running with internal := false, entry := callB 40 128 [], phase := .reading, due := 128 })] } : State), (0 : Nat), ({ callC 40 [] .running with internal := false, entry := callB 40 128 [], phase := .reading, due := 128 } : Call), (64 : Nat), (zeros 64 : Bytes), by decide +kernel⟩,
   ⟨({ State.reset with pep := { State.reset.pep with bme1 := true, msix1 := { enable := true, fmask := false, vmask := 3, pba := 2 } } } : State), (1 : Nat), by decide +kernel⟩,
   ⟨(pepS : State), (({ pepS with pep := { pepS.pep with bme0 := false, mse0 := true, flrBusy0 := false } }) : State), (({ pepS with pep := { pepS.pep with bme1 := false, mse1 := true, flrBusy1 := false } }) : State), (true : Bool), by decide +kernel⟩,
   ⟨({ State.reset with time := 100000000, pep := { State.reset.pep with posted := [{ addr := 0, data := [], call := some 0, cpl := none, since := 0 }] } } : State), (0 : Nat), ({ addr := 0, data := [], call := some 0, cpl := none, since := 0 } : Posted), ([] : List Posted), ([] : List Posted), by decide +kernel⟩,
   ⟨(pepS : State), by decide +kernel⟩,
   ⟨({ State.reset with pwr := { State.reset.pwr with domains := 2 ^ 79 } } : State), by decide +kernel⟩⟩

/-- PF1 is open; window 7 maps a live buffer of 4 KiB for reads and writes, and signals climb 0. -/
def winS : State :=
  { regS [(winReg 7 + 0x10, mkH 0 0 0 4096), (winReg 7 + 0x18, 0x8018)] with
    bufs := [(0, { base := 0, grans := 4, bytes := 4096, owner := 0 })],
    pep := { State.reset.pep with linkUp := true, mse1 := true } }

/-- States and operands that meet the hypotheses of each clause of `Obligations.PeerWindowsOpenAndClose`. -/
theorem witness_peerWindowsOpenAndClose :
    (∃ (s : State) (w : Nat) (x : Nat) (r : Nat) (n : Nat) (h : W64) (c : W64) (d : Bytes), w < 8 ∧ x < 0x100000 ∧ s.pep.linkUp =
     true ∧ s.pep.frozen1 = false ∧ s.pep.mse1 = true ∧ w ∉ s.pep.commits ∧ h = s.reg (winReg w + 0x10) ∧ c = s.reg (winReg w +
     0x18) ∧ r = bits c.toNat 0 3 ∧ s.liveH r h = true ∧ x + d.length ≤ hLen h ∧ c.getLsbD 4 = true ∧ x + n ≤ hLen h ∧ c.getLsbD
     3 = true) ∧
    (∃ (s : State), s.pep.linkUp = true ∧ s.pep.frozen1 = true) ∧
    (∃ (s : State) (m : Nat) (w : Nat) (width : Nat) (v : W64), w < 8 ∧ s.gate m (winReg w + 0x20) width true = .open ∧ mayWrite m
     (winReg w + 0x20) = true ∧ v.getLsbD 0 = true ∧ w ∉ s.pep.commits) ∧
    (∃ (s : State) (w : Nat), w ∈ s.pep.commits ∧ Tbl.find s.pep.keepers w = none) ∧
    (∃ (s : State) (m : Nat) (w : Nat) (o : Nat) (width : Nat) (v : W64) (x : W64) (k : W64) (rw : W64), w < 8 ∧ o ∈ [0, 8] ∧ s.gate
     m (winReg w + o) width true = .open ∧ mayWrite m (winReg w + o) = true ∧ (x, k) = slotValue (winReg w + o) width v ∧ rw =
     BitVec.ofNat 64 (regDesc (winReg w + o)).rw ∧ w ∉ s.pep.commits) ∧
    (∃ (s : State) (w : Nat) (cid : Nat) (c : W64), w < 8 ∧ s.fnOpen 1 = true ∧ c = s.reg (winReg w + 0x18) ∧ cid = 1024 * bits
     c.toNat 0 3 + bits c.toNat 5 10 ∧ s.reg (winReg w + 0x10) ≠ nullH ∧ c.getLsbD 15 = true ∧ Tbl.find s.pep.keepers w ≠ some
     cid) ∧
    (∃ (s : State) (m : Nat) (w : Nat), 0x20 ≤ m ∧ m < 0x24 ∧ w < 8 ∧ s.gate m 0xD0048 8 true = .open ∧ s.pep.keepers = []) ∧
    (∃ (s : State) (w : Nat) (n : Nat) (slot : Nat) (r : Nat) (call : Nat) (c : Call), s.libCall call 88 = some c ∧ w = callArg
     c.entry 0 ∧ n = callArg c.entry 1 ∧ slot = callArg c.entry 2 ∧ r = c.ridge ∧ w < 8 ∧ 0 < n ∧ n ≤ 0x100000 ∧ 192 ≤ slot ∧
     slot < 256 ∧ Tbl.find s.pep.keepers w = none ∧ s.reg (winReg w + 0x10) = nullH ∧ w ∉ s.pep.commits ∧ s.oldestFree r = some
     0) ∧
    (∃ (s : State) (w : Nat) (call : Nat) (c : Call), s.libCall call 89 = some c ∧ w = callArg c.entry 0 ∧ w < 8 ∧ Tbl.find
     s.pep.keepers w = none) ∧
    (∃ (s : State) (n : Nat) (result : Nat) (c : Call), Tbl.find s.calls n = some c ∧ c.internal = true ∧ c.discarded = false ∧
     (((s.route (callSlot c.entry)).writeback = false ∨ callPlen c.entry = 0 ∨ s.liveH c.ridge c.param = false)) ∧ result < 2 ^
     64) :=
  ⟨⟨(winS : State), (7 : Nat), (4095 : Nat), ((bits ((winS.reg (winReg 7 + 0x18))).toNat 0 3) : Nat), (1 : Nat), ((winS.reg (winReg 7 + 0x10)) : W64), ((winS.reg (winReg 7 + 0x18)) : W64), ([9] : Bytes), by decide +kernel⟩,
   ⟨({ State.reset with pep := { State.reset.pep with linkUp := true, frozen1 := true } } : State), by decide +kernel⟩,
   ⟨(State.reset : State), (0x20 : Nat), (7 : Nat), (8 : Nat), (1 : W64), by decide +kernel⟩,
   ⟨({ State.reset with pep := { State.reset.pep with commits := [7] } } : State), (7 : Nat), by decide +kernel⟩,
   ⟨(State.reset : State), (0x20 : Nat), (7 : Nat), (8 : Nat), (8 : Nat), (1 : W64), (1 : W64), (BitVec.allOnes 64 : W64), ((BitVec.ofNat 64 (regDesc (winReg 7 + 8)).rw) : W64), by decide +kernel⟩,
   ⟨(winS : State), (7 : Nat), ((1024 * bits ((winS.reg (winReg 7 + 0x18))).toNat 0 3 + bits ((winS.reg (winReg 7 + 0x18))).toNat 5 10) : Nat), ((winS.reg (winReg 7 + 0x18)) : W64), by decide +kernel⟩,
   ⟨(State.reset : State), (0x23 : Nat), (7 : Nat), by decide +kernel⟩,
   ⟨(libS 88 [7, 1, 255] : State), ((callArg (callC 88 [7, 1, 255] .running).entry 0) : Nat), ((callArg (callC 88 [7, 1, 255] .running).entry 1) : Nat), ((callArg (callC 88 [7, 1, 255] .running).entry 2) : Nat), (((callC 88 [7, 1, 255] .running).ridge) : Nat), (0 : Nat), ((callC 88 [7, 1, 255] .running) : Call), by decide +kernel⟩,
   ⟨(libS 89 [7] : State), ((callArg (callC 89 [7] .running).entry 0) : Nat), (0 : Nat), (callC 89 [7] .running : Call), by decide +kernel⟩,
   ⟨(libS 89 [7] : State), (0 : Nat), (0 : Nat), (callC 89 [7] .running : Call), by decide +kernel⟩⟩

/-- The Summit Book with one record of a CPU waiting, or with other contents. -/
def bookS (f : Sbk → Sbk) : State := { State.reset with sbk := f State.reset.sbk }
def recR : SbkRec := { source := 0x20, typ := 0x40, flags := 0, payload := [1], job := none }

/-- States and operands that meet the hypotheses of each clause of `Obligations.SummitBookKeepsRecords`. -/
theorem witness_summitBookKeepsRecords :
    (∃ (s : State) (m : Nat), m ∈ [0x20, 0x21, 0x22, 0x23, 0x60] ∧ Tbl.find s.sbk.stages m = some { hdr := 24, payload := zeros 8, low := none }
     ∧ s.gate m 0x60090 8 true = .open) ∧
    (∃ (s : State) (r : SbkRec) (q : List SbkRec) (size : Nat), s.sbk.queue = r :: q ∧ s.sbk.heldCommits = [] ∧ r.job = none ∧ size =
     ceilDiv (16 + r.payload.length) 8 * 8 ∧ s.sbk.frozen = false ∧ s.sbk.clearing = none ∧ s.sbk.full = false ∧ s.sbk.fill +
     size ≤ 0x200000) ∧
    (∃ (s : State) (m : Nat) (r : SbkRec) (g : SbkStage), s.sbk.queue = [r] ∧ r.job = none ∧ s.sbk.heldCommits = [(m, g)] ∧ g.low =
     none ∧ bits g.hdr.toNat 0 16 ≤ 1024) ∧
    (∃ (s : State) (n : Nat) (r : SbkRec) (q : List SbkRec) (j : Job), s.sbk.queue = r :: q ∧ s.sbk.heldCommits = [] ∧ r.job = some n
     ∧ Tbl.find s.jobs n = some j) ∧
    (∃ (s : State) (u : State) (m : Nat), s.gate m 0x60008 8 true = .open ∧ u = s.setReg 0x60008 (s.reg 0x60008 &&& ~~~(0x3FF0000 :
     W64))) ∧
    (∃ (s : State), s.sbk.frozen = true ∧ s.sbk.clearing = none ∧ s.sbk.thawAt.toNat ≤ s.time.toNat) ∧
    (∃ (s : State) (p : Nat) (n : Nat), s.lowestOwned = some p ∧ (s.regBit rSbkEvents 0 = true ∨ 6000000000 ≤ (s.time -
     s.harvestedAt).toNat) ∧ n = s.sbk.fill - s.harvested ∧ 0 < n ∧ n ≤ 4080) ∧
    (∃ (s : State) (call : Nat) (m : Nat) (c : Call), s.libCall call 108 = some c ∧ m = callArg c.entry 0 ∧ m ∈ [0x20, 0x21, 0x22,
     0x23, 0x50]) ∧
    (∃ (s : State) (call : Nat) (p : Nat) (h : Nat) (i : Nat) (c : Call), s.libCall call 109 = some c ∧ p = callPool c.entry ∧ h =
     callArg c.entry 0 ∧ i = callArg c.entry 1 ∧ p ≤ 15 ∧ h ≤ 1 ∧ i < 16384 ∧ Tbl.find (s.pool p).harvest (16384 * h + i) = none) :=
  ⟨⟨(bookS (fun b => { b with stages := [(0x60, { hdr := 24, payload := zeros 8, low := none })] }) : State), (0x60 : Nat), by decide +kernel⟩,
   ⟨(bookS (fun b => { b with queue := [recR], fill := 40 }) : State), (recR : SbkRec), ([] : List SbkRec), (24 : Nat), by decide +kernel⟩,
   ⟨(bookS (fun b => { b with queue := [recR], heldCommits := [(0x21, { hdr := 24, payload := zeros 8, low := none })] }) : State), (0x21 : Nat), (recR : SbkRec), ({ hdr := 24, payload := zeros 8, low := none } : SbkStage), by decide +kernel⟩,
   ⟨({ bookS (fun b => { b with queue := [{ recR with job := some 0 }] }) with jobs := [(0, jobA 11 (zeros 32) [])] } : State), (0 : Nat), ({ recR with job := some 0 } : SbkRec), ([] : List SbkRec), (jobA 11 (zeros 32) [] : Job), by decide +kernel⟩,
   ⟨(State.reset : State), (State.reset.setReg 0x60008 (State.reset.reg 0x60008 &&& ~~~(0x3FF0000 : W64)) : State), (0x20 : Nat), by decide +kernel⟩,
   ⟨(bookS (fun b => { b with frozen := true, thawAt := 0 }) : State), by decide +kernel⟩,
   ⟨({ bookS (fun b => { b with fill := 4120 }) with harvested := 40, time := 6000000000, pools := [(3, { Pool.fresh with rel := .owner })] } : State), (3 : Nat), (4080 : Nat), by decide +kernel⟩,
   ⟨(libS 108 [0x23] : State), (0 : Nat), ((callArg (callC 108 [0x23] .running).entry 0) : Nat), (callC 108 [0x23] .running : Call), by decide +kernel⟩,
   ⟨(libS 109 [1, 16383] : State), (0 : Nat), ((callPool (callC 109 [1, 16383] .running).entry) : Nat), ((callArg (callC 109 [1, 16383] .running).entry 0) : Nat), ((callArg (callC 109 [1, 16383] .running).entry 1) : Nat), (callC 109 [1, 16383] .running : Call), by decide +kernel⟩⟩

/-- States and operands that meet the hypotheses of each clause of `Obligations.PowerAndModesFollowTheirSignals`. -/
theorem witness_powerAndModesFollowTheirSignals :
    (∃ (s : State) (m : Nat) (d : Nat), s.gate m 0x20020 8 true = .open ∧ d < 128 ∧ 62 ≤ d ∧ d ≤ 77 ∧ s.pwr.seqBusy = false ∧
     s.domainPresent d = true ∧ bit s.pwr.domains d = true ∧ s.regBit (hifBlk (d - 62)) 0 = false) ∧
    (∃ (s : State) (m : Nat), s.gate m 0x20038 8 true = .open) ∧
    (∃ (s : State) (t : State) (kind : Nat) (source : Nat), t = s.resetHead kind source) ∧
    (∃ (s : State), s.pwr.mode = 8) ∧
    (∃ (s : State) (a : W64) (l : List W64), s.pwr.autoAt = a :: l) ∧
    (∃ (s : State), Tbl.sorted s.regs = true) ∧
    (∃ (s : State) (u : State) (call : Nat) (c : Call), Tbl.find s.calls call = some c ∧ c.phase = .running ∧ u = { s with freeCtr := s.freeCtr + 1 }
     ∧ callSlot c.entry = 112 ∧ s.ownedMask = 0) :=
  ⟨⟨(pwrS (fun p => { p with domains := 2 ^ 69 }) : State), (0x20 : Nat), (69 : Nat), by decide +kernel⟩,
   ⟨(State.reset : State), (0x20 : Nat), by decide +kernel⟩,
   ⟨(State.reset : State), (State.reset.resetHead 0 0 : State), (0 : Nat), (0 : Nat), rfl⟩,
   ⟨(pwrS (fun p => { p with mode := 8 }) : State), by decide +kernel⟩,
   ⟨(pwrS (fun p => { p with autoAt := [0] }) : State), (0 : W64), ([] : List W64), by decide +kernel⟩,
   ⟨(State.reset : State), by decide +kernel⟩,
   ⟨({ libS 112 [] with pwr := { State.reset.pwr with mode := 4 } } : State), ({ libS 112 [] with pwr := { State.reset.pwr with mode := 4 }, freeCtr := 1 } : State), (0 : Nat), (callC 112 [] .running : Call), by decide +kernel⟩⟩

/-- A device wipe that has reached its last module, or its last channel. -/
def wipeW : WipeJob := { left := [], ended := [], done := 0, total := 0, start := 0, filling := [0] }
def dimmD : Dimm := { present := true, spdOk := true, sizeGib := 16, ranks2 := false, rate := 4800, timingOk := true, ms := 1 }

/-- States and operands that meet the hypotheses of each clause of `Obligations.ClocksAndDramFollowTheirRules`. -/
theorem witness_clocksAndDramFollowTheirRules :
    (∃ (s : State) (m : Nat), s.gate m 0x10010 8 true = .open ∧ ((m < 0x20 ∨ 0x24 ≤ m))) ∧
    (∃ (s : State) (m : Nat) (v : W64), s.gate m 0x10010 8 true = .open ∧ 0x20 ≤ m ∧ m < 0x24 ∧ s.time.toNat < v.toNat) ∧
    (∃ (s : State), s.pwr.standby = true ∧ s.rope.holdTime = false ∧ s.pwr.pllLock = false) ∧
    (∃ (s : State) (ch : Nat), s.pwr.mode = 3 ∧ s.drcPresent ch = true ∧ bit s.pwr.domains (54 + ch) = true ∧ (s.drc ch).trained =
     false ∧ ((∀ n < ch, s.drcPresent n = true → (s.drc n).trained = true))) ∧
    (∃ (s : State) (ch : Nat), (s.drc ch).trained = true ∧ bit s.wdn.dramDone ch = false ∧ s.wipeJob = none ∧ Tbl.sorted s.mem = true) ∧
    (∃ (s : State) (ch : Nat) (j : WipeJob), (s.drc ch).trained = true ∧ bit s.wdn.dramDone ch = false ∧ s.wipeJob = some j ∧ ch ∈
     j.filling) ∧
    (∃ (s : State) (ch : Nat) (a : Nat), (s.drc ch).trained = true ∧ s.channelOf a = ch ∧ a < s.dramBytes ∧ s.regBit (drcBlk ch +
     0x20) 0 = true) ∧
    (∃ (s : State) (u : State) (ch : Nat) (a : Nat), s.regBit (drcBlk ch + 8) 2 = true ∧ s.regBit (drcBlk ch + 0x18) 63 = true ∧ a =
     s.regBits (drcBlk ch + 0x18) 0 48 ∧ u = (s.setReg (drcBlk ch + 8) (s.reg (drcBlk ch + 8) &&& ~~~(4 : W64))).setReg (drcBlk
     ch + 0x18) (s.reg (drcBlk ch + 0x18) &&& (2 ^ 63 - 1 : W64))) ∧
    (∃ (s : State) (m : Nat) (ch : Nat), ch < 8 ∧ s.gate m (drcBlk ch + 0x28) 8 true = .open ∧ m ∈ [0x20, 0x21, 0x22, 0x23, 0x60] ∧
     s.pwr.mode = 9) ∧
    (∃ (s : State) (u : State) (call : Nat) (c : Call), Tbl.find s.calls call = some c ∧ c.phase = .running ∧ callSlot c.entry = 116
     ∧ u = { s with freeCtr := s.freeCtr + 1 } ∧ callArg c.entry 0 = 0 ∧ s.pwr.mode = 9) ∧
    (∃ (s : State) (j : WipeJob), s.wipeJob = some j) ∧
    (∃ (s : State) (call : Nat) (k : Nat) (c : Call), Tbl.find s.calls call = some c ∧ c.phase = .running ∧ callSlot c.entry = 117 ∧
     c.cid = some k ∧ 64 ≤ callPlen c.entry ∧ callPlen c.entry < 128) :=
  ⟨⟨(State.reset : State), (0x60 : Nat), by decide +kernel⟩,
   ⟨(State.reset : State), (0x20 : Nat), (1 : W64), by decide +kernel⟩,
   ⟨(pwrS (fun p => { p with standby := true }) : State), by decide +kernel⟩,
   ⟨(pwrS (fun p => { p with mode := 3, domains := 2 ^ 54 }) : State), (0 : Nat), by decide +kernel⟩,
   ⟨(ramS State.reset 0 : State), (0 : Nat), by decide +kernel⟩,
   ⟨({ ramS State.reset 0 with wipeJob := some wipeW } : State), (0 : Nat), (wipeW : WipeJob), by decide +kernel⟩,
   ⟨(ramS (regS [(0x100020, 1)]) 1 : State), (0 : Nat), (0 : Nat), by decide +kernel⟩,
   ⟨(regS [(0x100008, 4), (0x100018, 0x8000000000000000)] : State), (((regS [(0x100008, 4), (0x100018, 0x8000000000000000)]).setReg (drcBlk 0 + 8) ((regS [(0x100008, 4), (0x100018, 0x8000000000000000)]).reg (drcBlk 0 + 8) &&& ~~~(4 : W64))).setReg (drcBlk 0 + 0x18) ((regS [(0x100008, 4), (0x100018, 0x8000000000000000)]).reg (drcBlk 0 + 0x18) &&& (2 ^ 63 - 1 : W64)) : State), (0 : Nat), (((regS [(0x100008, 4), (0x100018, 0x8000000000000000)]).regBits (drcBlk 0 + 0x18) 0 48) : Nat), by decide +kernel⟩,
   ⟨(pwrS (fun p => { p with mode := 9 }) : State), (0x20 : Nat), (7 : Nat), by decide +kernel⟩,
   ⟨({ libS 116 [0] with pwr := { State.reset.pwr with mode := 9 } } : State), ({ libS 116 [0] with pwr := { State.reset.pwr with mode := 9 }, freeCtr := 1 } : State), (0 : Nat), (callC 116 [0] .running : Call), by decide +kernel⟩,
   ⟨({ State.reset with wipeJob := some wipeW } : State), (wipeW : WipeJob), by decide +kernel⟩,
   ⟨({ State.reset with calls := [(0, { callC 117 [] .running with entry := callB 117 127 [], cid := some 0 })] } : State), (0 : Nat), (0 : Nat), ({ callC 117 [] .running with entry := callB 117 127 [], cid := some 0 } : Call), by decide +kernel⟩⟩

/-- LOADING has verified the image and filled every DRAM channel. -/
def loadS : State := { pwrS (fun p => { p with mode := 3 }) with wdn := { State.reset.wdn with verified := true, dramDone := 0xFF } }

/-- States and operands that meet the hypotheses of each clause of `Obligations.WardenWatchesAndBoots`. -/
theorem witness_wardenWatchesAndBoots :
    (∃ (s : State) (u : State) (first : Bool) (since : W64), since = (if first then s.time else s.wdn.failsSince.getD s.time) ∧ u =
     ({ s with wdn := { s.wdn with failsSince := some since } }.raise rWdnEvents 1).bump 0x40038 0 32 1 ∧ 10000000 ≤ (s.time -
     since).toNat) ∧
    (∃ (s : State), s.pwr.mode = 2 ∧ s.pwr.resetN = true ∧ s.wdn.romDone = false ∧ bit s.pwr.domains 1 = true ∧ bit s.pwr.domains 2 =
     true ∧ 1 ∉ s.pwr.wiping ∧ 2 ∉ s.pwr.wiping) ∧
    (∃ (s : State), (s.pwr.mode ≠ 2 ∨ s.pwr.resetN = false ∨ s.wdn.romDone = true ∨ bit s.pwr.domains 1 = false ∨ bit s.pwr.domains 2
     = false ∨ 1 ∈ s.pwr.wiping ∨ 2 ∈ s.pwr.wiping)) ∧
    (∃ (s : State) (base : Nat), s.pwr.mode = 3 ∧ s.wdn.verified = true ∧ s.wdn.routeLen = 0 ∧ base % 4096 = 0 ∧ ((∀ n, s.drcPresent
     n = true → bit s.wdn.dramDone n = true))) ∧
    (∃ (s : State) (m : Nat), s.gate m 0x50038 8 true = .open ∧ (s.core 0x1F).frozen = true ∧ s.freezeCount 0x1F < 3) ∧
    (∃ (s : State) (r : Nat) (c : Nat), c < 4 ∧ r < 8 ∧ (s.core (4 * r + c)).frozen = true ∧ 100000 ≤ (s.time - (s.core (4 * r +
     c)).frozenAt).toNat ∧ s.freezeCount (4 * r + c) < 3) ∧
    (∃ (s : State) (k : Nat) (width : Nat), k < 4 ∧ s.gate (0x20 + k) 0x40018 width true = .open) ∧
    (∃ (s : State), s.wdn.verified = true ∧ s.pwr.mode ≠ 11 ∧ s.regBits 0x40020 0 16 * 100000 ≤ (s.time - (s.mcore 3).kickedAt).toNat) ∧
    (∃ (s : State) (m : Nat) (width : Nat), s.gate m 0x40028 width true = .open) ∧
    (∃ (s : State), s.fuses.lc < 2 ^ 13 ∧ s.fuses.lc = 2 ^ (4 * 2) - 1 + 2 ^ (4 * 2)) :=
  ⟨⟨({ State.reset with time := 10000000, wdn := { State.reset.wdn with failsSince := some 0 } } : State), (({ State.reset with time := 10000000, wdn := { State.reset.wdn with failsSince := some 0 } }.raise rWdnEvents 1).bump 0x40038 0 32 1 : State), (false : Bool), (0 : W64), by decide +kernel⟩,
   ⟨(pwrS (fun p => { p with resetN := true, domains := 6 }) : State), by decide +kernel⟩,
   ⟨(State.reset : State), by decide +kernel⟩,
   ⟨(loadS : State), (0 : Nat), by decide +kernel, by decide +kernel, by decide +kernel, by decide +kernel, fun n h => (show ∀ n < 8, bit loadS.wdn.dramDone n = true by decide +kernel) n (by
      by_contra hc
      simp [drcPresent, hc] at h)⟩,
   ⟨({ State.reset with cores := [(31, { DCore.fresh with frozen := true })] } : State), (0x60 : Nat), by decide +kernel⟩,
   ⟨({ State.reset with time := 100000, cores := [(31, { DCore.fresh with frozen := true })] } : State), (7 : Nat), (3 : Nat), by decide +kernel⟩,
   ⟨(State.reset : State), (3 : Nat), (8 : Nat), by decide +kernel⟩,
   ⟨({ pwrS (fun p => { p with mode := 4 }) with wdn := { State.reset.wdn with verified := true }, time := 1000000 } : State), by decide +kernel⟩,
   ⟨(State.reset : State), (0x20 : Nat), (8 : Nat), by decide +kernel⟩,
   ⟨({ State.reset with fuses := { State.reset.fuses with lc := 0x1FF } } : State), by decide +kernel⟩⟩

/-- States and operands that meet the hypotheses of each clause of `Obligations.WardenCallsAnswer`. -/
theorem witness_wardenCallsAnswer :
    ∃ (s : State) (u : State) (call : Nat) (c : Call), Tbl.find s.calls call = some c ∧ c.phase = .running ∧ u = { s with freeCtr := s.freeCtr + 1 }
    ∧ callSlot c.entry = 98 ∧ callArg c.entry 0 ≤ 4 ∧ callArg c.entry 0 = 4 ∧ s.lcState ≠ 4 :=
  ⟨(libS 98 [4, 1] : State), ({ libS 98 [4, 1] with freeCtr := 1 } : State), (0 : Nat), (callC 98 [4, 1] .running : Call), by decide +kernel⟩

/-- The service port serves; an OPEN for 53,249 bytes, and the first DATA, CLOSE of session 1. -/
def svcS : State := pwrS (fun p => { p with domains := 2 ^ 79, mode := 4 })
def svcOnS : State := { svcS with regs := [(0xA0008, 1)] }
def htMsg (typ session : Nat) (payload : Bytes) : Bytes :=
  let h := leBytes 2 0x5448 ++ leBytes 1 typ ++ leBytes 1 0 ++ leBytes 4 session ++ leBytes 4 payload.length ++ zeros 4 ++ leBytes 8 0
    ++ payload
  h ++ leBytes 4 (crc32c h)
def sesX : HtSession :=
  { id := 1, addr := 2, udp := 3, total := 53249, got := 0, since := 0, dataAt := 0, heardAt := 0, slot := 1 }
def sesS : State := { svcOnS with upd := { Upd.fresh with session := some sesX } }

/-- States and operands that meet the hypotheses of each clause of `Obligations.UpdatesTransferAndHingeOver`. -/
theorem witness_updatesTransferAndHingeOver :
    (∃ (s : State) (u : State) (addr : Nat) (udp : Nat) (d : Bytes) (lag : Bool) (i : Instr), s.svcUp = true ∧ u = s.bump rSvcFrames
     0 32 1 ∧ i ∈ [.htOpen addr udp d, .htData addr udp d lag, .htClose addr udp d, .htAbort addr udp d] ∧ htBad d = 0 ∧
     u.upd.session = some sesX ∧ sesX.id = htSession d ∧ htTyp d = 7) ∧
    (∃ (s : State) (u : State) (d : Bytes), s.svcUp = true ∧ u = s.bump rSvcFrames 0 32 1 ∧ htBad d = 0 ∧ htTyp d = 1 ∧ s.upd.session
     = none ∧ s.upd.armTo ≠ none ∧ s.pwr.mode ≠ 11 ∧ 53249 ≤ fieldAt d 24 4 ∧ fieldAt d 24 4 ≤ 266338304) ∧
    (∃ (s : State) (u : State) (d : Bytes) (p : Bytes) (h : HtSession) (x : HtSession), s.svcUp = true ∧ u = s.bump rSvcFrames 0 32 1
     ∧ htBad d = 0 ∧ htTyp d = 3 ∧ s.upd.session = some h ∧ h.id = htSession d ∧ p = htPayload d ∧ x = { h with heardAt := s.time }
     ∧ htOff d = h.got ∧ h.got + p.length ≤ h.total) ∧
    (∃ (s : State) (k : Nat) (off : Nat), off % 65536 = 0 ∧ Tbl.sorted (s.nor k).image = true) ∧
    (∃ (s : State) (u : State) (d : Bytes) (h : HtSession) (x : HtSession), s.svcUp = true ∧ u = s.bump rSvcFrames 0 32 1 ∧ htBad d =
     0 ∧ s.upd.session = some h ∧ h.id = htSession d ∧ x = { h with heardAt := s.time } ∧ htTyp d = 5 ∧ h.got < h.total) ∧
    (∃ (s : State) (h : HtSession), s.upd.session = some h) ∧
    (∃ (s : State) (t : W64), s.upd.armTo = some t ∧ t.toNat ≤ s.time.toNat) ∧
    (∃ (s : State) (u : State) (call : Nat) (c : Call), Tbl.find s.calls call = some c ∧ c.phase = .running ∧ u = { s with freeCtr := s.freeCtr + 1 }
     ∧ callSlot c.entry = 104 ∧ 0 < callArg c.entry 0 ∧ callArg c.entry 0 ≤ 60) :=
  ⟨⟨(sesS : State), (sesS.bump rSvcFrames 0 32 1 : State), (0 : Nat), (0 : Nat), (htMsg 7 1 [] : Bytes), (false : Bool), (.htAbort 0 0 (htMsg 7 1 []) : Instr), by decide +kernel⟩,
   ⟨({ svcOnS with upd := { Upd.fresh with armTo := some 0 } } : State), (({ svcOnS with upd := { Upd.fresh with armTo := some 0 } } : State).bump rSvcFrames 0 32 1 : State), (htMsg 1 1 (leBytes 4 53249 ++ zeros 4) : Bytes), by decide +kernel⟩,
   ⟨(sesS : State), (sesS.bump rSvcFrames 0 32 1 : State), (htMsg 3 1 [5] : Bytes), ([5] : Bytes), (sesX : HtSession), (sesX : HtSession), by decide +kernel⟩,
   ⟨(State.reset : State), (0 : Nat), (65536 : Nat), by decide +kernel⟩,
   ⟨(sesS : State), (sesS.bump rSvcFrames 0 32 1 : State), (htMsg 5 1 [] : Bytes), (sesX : HtSession), (sesX : HtSession), by decide +kernel⟩,
   ⟨(sesS : State), (sesX : HtSession), by decide +kernel⟩,
   ⟨({ State.reset with upd := { Upd.fresh with armTo := some 0 } } : State), (0 : W64), by decide +kernel⟩,
   ⟨(libS 104 [60] : State), ({ libS 104 [60] with freeCtr := 1 } : State), (0 : Nat), (callC 104 [60] .running : Call), by decide +kernel⟩⟩

/-- Line 1 of DRAM is dirty in the map cache, and maintenance names it. -/
def dirtyS : State :=
  { ramS (regS [(rMapc + 0x200, 0x100), (rMapc + 0x208, 1)]) 1 with
    mapc := { State.reset.mapc with main := [(16, { line := 1, dirty := true, stamp := 0 })], dramOld := [(1, zeros 256)] } }

/-- States and operands that meet the hypotheses of each clause of `Obligations.MapCacheMaintains`. -/
theorem witness_mapCacheMaintains :
    (∃ (s : State) (m : Nat) (a : Nat) (n : Nat), s.gate m (rMapc + 0x210) 8 true = .open ∧ s.mapc.maint = false ∧ Tbl.sorted s.regs
     = true ∧ Tbl.sorted s.mapc.main = true ∧ a = bits (s.reg (rMapc + 0x200)).toNat 8 40 ∧ n = bits (s.reg (rMapc +
     0x208)).toNat 0 24 ∧ ((n = 0 ∨ (a + n) * 256 ≤ s.dramBytes))) ∧
    (∃ (s : State) (m : Nat) (set : Nat) (way : Nat) (k : Nat), s.gate m (rMapc + 0x210) 8 true = .open ∧ s.mapc.maint = false ∧
     Tbl.sorted s.regs = true ∧ Tbl.sorted s.mapc.main = true ∧ set < 24576 ∧ way < 16 ∧ k = 16 * set + way) ∧
    (∃ (s : State) (m : Nat), s.gate m (rMapc + 0x210) 8 true = .open ∧ s.mapc.maint = false ∧ Tbl.sorted s.mapc.main = true ∧
     Tbl.sorted s.mapc.victim = true) ∧
    (∃ (s : State) (m : Nat) (line : Nat) (k : Nat) (c : CLine) (old : Bytes), s.gate m (rMapc + 0x210) 8 true = .open ∧ s.mapc.maint
     = false ∧ Tbl.sorted s.regs = true ∧ Mem.wf s.mem = true ∧ Tbl.sorted s.mapc.main = true ∧ Tbl.sorted s.mapc.dramOld = true
     ∧ bits (s.reg (rMapc + 0x200)).toNat 8 40 = line ∧ bits (s.reg (rMapc + 0x208)).toNat 0 24 = 1 ∧ (line + 1) * 256 ≤
     s.dramBytes ∧ Tbl.find s.mapc.main k = some c ∧ c.line = line ∧ c.dirty = true ∧ ((∀ p ∈ s.mapc.main, p.2.line = line → p.1
     = k)) ∧ ((∀ p ∈ s.mapc.victim, p.2.line ≠ line)) ∧ Tbl.find s.mapc.dramOld line = some old ∧ old.length = 256) ∧
    (∃ (s : State) (m : Nat), s.gate m (rMapc + 0x210) 8 true = .open ∧ s.mapc.maint = false ∧ Tbl.sorted s.regs = true ∧ bits (s.reg
     (rMapc + 0x208)).toNat 0 24 ≠ 0 ∧ s.dramBytes < (bits (s.reg (rMapc + 0x200)).toNat 8 40 + bits (s.reg (rMapc +
     0x208)).toNat 0 24) * 256) ∧
    (∃ (s : State) (m : Nat), s.gate m (rMapc + 0x210) 8 true = .open ∧ s.mapc.maint = true) ∧
    (∃ (s : State) (u : State), u = { s with mapc := { s.mapc with maint := false } } ∧ s.mapc.maint = true ∧ s.regBits (rMapc +
     0x218) 4 4 = 0) :=
  ⟨⟨(dirtyS : State), (0x20 : Nat), (1 : Nat), (1 : Nat), by decide +kernel⟩,
   ⟨(dirtyS : State), (0x20 : Nat), (1 : Nat), (0 : Nat), (16 : Nat), by decide +kernel⟩,
   ⟨(dirtyS : State), (0x20 : Nat), by decide +kernel⟩,
   ⟨(dirtyS : State), (0x20 : Nat), (1 : Nat), (16 : Nat), ({ line := 1, dirty := true, stamp := 0 } : CLine), (zeros 256 : Bytes), by decide +kernel⟩,
   ⟨(regS [(rMapc + 0x208, 1)] : State), (0x20 : Nat), by decide +kernel⟩,
   ⟨({ State.reset with mapc := { State.reset.mapc with maint := true } } : State), (0x20 : Nat), by decide +kernel⟩,
   ⟨({ State.reset with mapc := { State.reset.mapc with maint := true } } : State), ({ State.reset with mapc := { State.reset.mapc with maint := false } } : State), rfl, by (with_reducible and_intros) <;> decide +kernel⟩⟩

/-- Channel 3 copies one byte within the buffers of ridge 0. -/
def tvsS : State :=
  regS [(tvsReg 3, 0x080000000000), (tvsReg 3 + 8, 0x080000001000), (tvsReg 3 + 0x10, 1), (tvsReg 3 + 0x20, 1)]
def tvsJ : TvsJob := { op := 0, e := 1, ways := 1, src := 0x080000000000, dst := 0x080000001000, count := 1 }

/-- States and operands that meet the hypotheses of each clause of `Obligations.TraverseMovesBytes`. -/
theorem witness_traverseMovesBytes :
    (∃ (ch : Nat) (o : Nat) (lines : Nat) (i : Instr), (i, o) ∈ [(.tvsCopy ch lines, 0), (.tvsDeinterleave ch lines, 1),
     (.tvsInterleave ch lines, 2), (.tvsPlaneSplit ch lines, 3), (.tvsPlaneMerge ch lines, 4)]) ∧
    (∃ (s : State) (ch : Nat) (o : Nat) (n : Nat) (done : Nat) (a : Nat) (j : TvsJob) (i : Instr), (i, o) ∈ [(.tvsCopy ch 1, 0),
     (.tvsDeinterleave ch 1, 1), (.tvsInterleave ch 1, 2), (.tvsPlaneSplit ch 1, 3), (.tvsPlaneMerge ch 1, 4)] ∧ ch < 32 ∧
     s.tvsBusy ch = true ∧ ch ∉ s.tvsFrozen ∧ Tbl.find s.tvsBack ch = none ∧ j = s.tvsJob ch ∧ j.op = o ∧ done = s.regBits
     (tvsReg ch + 0x30) 0 32 ∧ done < j.count ∧ a = j.dst + done ∧ n = min (j.count - done) (64 - a % 64) ∧ Tbl.sorted s.mem =
     true ∧ Tbl.sorted s.regs = true ∧ ((∀ k < n, ∀ q ∈ tvsSources j (done + k), ∃ r, s.tvsAcc ch (j.src + q.1) 1 false = .ok
     (.rbuf r))) ∧ s.tvsAcc ch a n true = .ok (.rbuf 0)) ∧
    (∃ (j : TvsJob) (n : Nat) (m : Nat), 0 < j.e ∧ 0 < j.ways ∧ n = j.count / (j.ways * j.e) ∧ m = j.count / j.e) ∧
    (∃ (s : State) (ch : Nat) (last : Nat) (word : Nat) (d : Bytes) (now : Bytes), Tbl.find s.tvsBack ch = some d ∧ last = (s.tvsJob
     ch).dst + (s.tvsJob ch).count - 1 ∧ word = last / 8 * 8 ∧ now = (List.range d.length).map (fun i => s.tvsVal (last + 1 -
     d.length + i))) ∧
    (∃ (s : State) (m : Nat) (ch : Nat) (v : W64), ch < 32 ∧ s.gate m (tvsReg ch + 0x18) 8 true = .open ∧ ch ∉ s.tvsFrozen ∧
     s.tvsBusy ch = true ∧ v.getLsbD 1 = true ∧ v.getLsbD 0 = false ∧ Tbl.find s.tvsBack ch = none) ∧
    (∃ (s : State) (u : State) (ch : Nat) (j : TvsJob), ch < 32 ∧ Tbl.sorted s.regs = true ∧ u = ((s.setReg (tvsReg ch + 0x20) (s.reg
     (tvsReg ch + 0x20) &&& 0x18)).setReg (tvsReg ch + 0x30) 0).setReg rTvsIrq (s.reg rTvsIrq &&& ~~~(BitVec.ofNat 64 (2 ^ ch +
     2 ^ (32 + ch)))) ∧ j = s.tvsJob ch) :=
  ⟨⟨(3 : Nat), (0 : Nat), (1 : Nat), (.tvsCopy 3 1 : Instr), by decide +kernel⟩,
   ⟨(tvsS : State), (3 : Nat), (0 : Nat), (1 : Nat), (0 : Nat), (0x080000001000 : Nat), (tvsJ : TvsJob), (.tvsCopy 3 1 : Instr), by (with_reducible and_intros) <;> first | decide +kernel | exact (fun k hk q hq => ⟨0, (show ∀ k < 1, ∀ q ∈ tvsSources tvsJ (0 + k), tvsAcc tvsS 3 (tvsJ.src + q.1) 1 false = .ok (.rbuf 0) by decide +kernel) k hk q hq⟩)⟩,
   ⟨({ op := 4, e := 2, ways := 16, src := 0, dst := 0, count := 64 } : TvsJob), (2 : Nat), (32 : Nat), by decide +kernel⟩,
   ⟨({ tvsS with tvsBack := [(3, [])] } : State), (3 : Nat), (0x080000001000 : Nat), ((0x080000001000 / 8 * 8) : Nat), ([] : Bytes), (((List.range ([] : Bytes).length).map (fun i => ({ tvsS with tvsBack := [(3, [])] } : State).tvsVal (0x080000001000 + 1 - ([] : Bytes).length + i))) : Bytes), by decide +kernel⟩,
   ⟨(tvsS : State), (0x60 : Nat), (3 : Nat), (2 : W64), by decide +kernel⟩,
   ⟨(tvsS : State), (((tvsS.setReg (tvsReg 3 + 0x20) (tvsS.reg (tvsReg 3 + 0x20) &&& 0x18)).setReg (tvsReg 3 + 0x30) 0).setReg rTvsIrq (tvsS.reg rTvsIrq &&& ~~~(BitVec.ofNat 64 (2 ^ 3 + 2 ^ (32 + 3)))) : State), (3 : Nat), (tvsJ : TvsJob), by decide +kernel⟩⟩

/-- A lock of 16 KiB at the start of namespace 1, for reading or for writing. -/
def lockM (w : Bool) : Lock :=
  { cmd := some 0, nsid := 1, start := 0, len := 16384, key := none, write := w, granted := true, reserved := false, doubt := none }

/-- States and operands that meet the hypotheses of each clause of `Obligations.MapPoolsAndNamespacesChange`. -/
theorem witness_mapPoolsAndNamespacesChange :
    (∃ (s : State) (p : Nat) (mpn : Nat) (d : DirE), d = (s.pool p).dirE mpn ∧ d.loading = true ∧ d.resident = false ∧ d.flash = 0) ∧
    (∃ (s : State) (t : State) (p : Nat) (mpn : Nat) (x : Pool), Tbl.find s.pools p = some x ∧ Tbl.sorted s.pools = true ∧ Tbl.sorted
     x.dir = true ∧ t = s.pageIn p mpn ∧ (x.dirE mpn).waiters = []) ∧
    (∃ (s : State) (p : Nat) (x : Pool), x = s.pool p ∧ (s.time - x.decayAt).toNat < x.cfg.decay * 100000000) ∧
    (∃ (s : State) (p : Nat) (ln : Nat) (g : Nat) (nsid : Nat) (off : Nat) (lock : Lock), nsOfLine (s.pool p) ln = some (nsid, off) ∧
     lock = { cmd := some s.nextPlan, nsid := nsid, start := off + 16384 * g, len := 16384, key := none, write := true, granted := true, reserved := true, doubt := none, merge := true }) ∧
    (∃ (o : Lock) (l : Lock), lockConflict o l = true) ∧
    (∃ (s : State) (p : Nat) (b : Nat) (l : Nat), s.summary p = some (b, l)) ∧
    (∃ (s : State) (u : State) (call : Nat) (c : Call), Tbl.find s.calls call = some c ∧ c.phase = .running ∧ u = { s with freeCtr := s.freeCtr + 1 }
     ∧ callSlot c.entry = 42 ∧ s.owns 0 = true) :=
  ⟨⟨(poolS (fun p => { p with dir := [(5, { DirE.fresh with loading := true })] }) : State), (0 : Nat), (5 : Nat), ({ DirE.fresh with loading := true } : DirE), by decide +kernel⟩,
   ⟨(poolS id : State), ((poolS id).pageIn 0 0 : State), (0 : Nat), (0 : Nat), ({ Pool.fresh with rel := .owner } : Pool), by decide +kernel, by decide +kernel, by decide +kernel, rfl, by decide +kernel⟩,
   ⟨(poolS id : State), (0 : Nat), ({ Pool.fresh with rel := .owner } : Pool), by decide +kernel⟩,
   ⟨(nsS : State), (0 : Nat), (0 : Nat), (0 : Nat), (1 : Nat), (0 : Nat), ({ cmd := some (poolS id).nextPlan, nsid := 1, start := 0, len := 16384, key := none, write := true, granted := true, reserved := true, doubt := none, merge := true } : Lock), by decide +kernel⟩,
   ⟨({ (lockM false) with merge := true, write := true } : Lock), (lockM true : Lock), by decide +kernel⟩,
   ⟨({ regS [(ridgeBlk 0 9, 0x1000), (ridgeBlk 0 9 + 0x30, 1)] with mem := [(0x1000, 1)] } : State), (0 : Nat), (0 : Nat), (0 : Nat), by decide +kernel⟩,
   ⟨(lib (poolS id) 42 [255, 254, 3600] : State), ({ lib (poolS id) 42 [255, 254, 3600] with freeCtr := 1 } : State), (0 : Nat), (callC 42 [255, 254, 3600] .running : Call), by decide +kernel⟩⟩

/-- A write plan of pool 0, and a pool with one group to flush. -/
def planX : WPlan :=
  { pool := 0, nsid := 1, origin := 3, items := [], key := none, delKey := false, seq := 1, due := 0, accepted := true, mods := [],
    pair := none }
def wrS (c : HCmd) : State := { cmdS (poolS id) c with plans := [(0, planX)] }

/-- States and operands that meet the hypotheses of each clause of `Obligations.JournalAndCheckpointsAdvance`. -/
theorem witness_journalAndCheckpointsAdvance :
    (∃ (s : State) (t : State) (p : Nat) (origin : Nat) (ref : Nat) (es : List Bytes) (g : Group), s.acceptGroup p origin es none ref
     = (t, g) ∧ es.length < 2 ^ 16 - 1) ∧
    (∃ (s : State) (n : Nat) (q : Nat) (p : Nat) (c : HCmd), Tbl.find s.host.cmds n = some c ∧ c.seq = some q ∧ s.nsPool c.cap.nsid =
     some p ∧ c.phase = .accepted ∧ s.plan n = none) ∧
    (∃ (s : State) (n : Nat) (c : HCmd) (w : WPlan) (t : W64), Tbl.find s.host.cmds n = some c ∧ s.plan n = some w ∧ c.retryAt = some
     t ∧ t.toNat ≤ s.time.toNat ∧ w.accepted = true) ∧
    (∃ (s : State) (n : Nat) (w : WPlan), s.plan n = some w ∧ w.accepted = true) ∧
    (∃ (s : State) (p : Nat) (x : Pool), x = s.pool p ∧ s.owns p = true) ∧
    (∃ (s : State) (p : Nat) (x : Pool), x = s.pool p ∧ s.owns p = true ∧ x.ckpt.stage = 0) :=
  ⟨⟨(poolS id : State), (((poolS id).acceptGroup 0 1 [] none 0).1 : State), (0 : Nat), (1 : Nat), (0 : Nat), ([] : List Bytes), (((poolS id).acceptGroup 0 1 [] none 0).2 : Group), rfl, by decide⟩,
   ⟨(cmdS nsS { cmdX with phase := .accepted, seq := some 1 } : State), (0 : Nat), (1 : Nat), (0 : Nat), ({ cmdX with phase := .accepted, seq := some 1 } : HCmd), by decide +kernel⟩,
   ⟨(wrS { cmdX with retryAt := some 0 } : State), (0 : Nat), ({ cmdX with retryAt := some 0 } : HCmd), (planX : WPlan), (0 : W64), by decide +kernel⟩,
   ⟨(wrS cmdX : State), (0 : Nat), (planX : WPlan), by decide +kernel⟩,
   ⟨(poolS id : State), (0 : Nat), ({ Pool.fresh with rel := .owner } : Pool), by decide +kernel⟩,
   ⟨(poolS id : State), (0 : Nat), ({ Pool.fresh with rel := .owner } : Pool), by decide +kernel⟩⟩

/-- Pool 0 has one segment. -/
def segS (g : Seg) : State := poolS (fun p => { p with segs := [(0, g)] })

/-- States and operands that meet the hypotheses of each clause of `Obligations.MoversFillAndFreeSegments`. -/
theorem witness_moversFillAndFreeSegments :
    (∃ (s : State) (p : Nat), s.owns p = false) ∧
    (∃ (s : State) (u : State) (p : Nat), s.owns p = true ∧ u = s.destageClass p) ∧
    (∃ (s : State) (u : State) (p : Nat), s.owns p = true ∧ u = (s.collectSwitch p).gapPick p) ∧
    (∃ (s : State) (p : Nat), s.owns p = true) ∧
    (∃ (s : State) (p : Nat) (n : Nat) (x : Pool) (g : Seg), Tbl.find s.pools p = some x ∧ Tbl.find x.segs n = some g ∧ g.flying ≠ 0
     ∧ g.due = [] ∧ x.ckpt.cutting = false ∧ g.moving = [] ∧ g.rows = 1023 ∧ g.closing = none) ∧
    (∃ (s : State) (p : Nat) (n : Nat) (x : Pool) (g : Seg) (m : Moving), Tbl.find s.pools p = some x ∧ Tbl.find x.segs n = some g ∧
     g.flying ≠ 0 ∧ g.due = [] ∧ x.ckpt.cutting = false ∧ g.rows ≠ 1023 ∧ g.closing = none ∧ g.moving = [m] ∧ m.ende ≤ (g.rows +
     1) * (g.k * 65536) ∧ (x.rec' m.handle).valid = true ∧ (x.rec' m.handle).loc = m.old) ∧
    (∃ (s : State) (p : Nat) (n : Nat) (g : Seg), Tbl.find (s.pool p).segs n = some g) ∧
    (∃ (s : State) (p : Nat) (n : Nat) (g : Seg), Tbl.find (s.pool p).segs n = some g ∧ (s.pwr.mode = 7 ∨ (s.pool p).moveTo ≠ none) ∧
     g.state = 0 ∧ g.flying = 0 ∧ g.closing = none ∧ g.buffer = []) ∧
    (∃ (s : State) (p : Nat) (n : Nat) (x : Pool), x = s.pool p ∧ s.owns p = true ∧ Tbl.find x.segs n = some { Seg.fresh with state := 1 }) ∧
    (∃ (s : State) (p : Nat) (n : Nat) (g : Seg), Tbl.find (s.pool p).segs n = some g ∧ 2 ≤ g.regDone ∧ g.regDue ≠ [] ∧ s.hasShadow p
     = false) :=
  ⟨⟨(State.reset : State), (0 : Nat), by decide +kernel⟩,
   ⟨(poolS id : State), ((poolS id).destageClass 0 : State), (0 : Nat), by decide +kernel, rfl⟩,
   ⟨(poolS id : State), (((poolS id).collectSwitch 0).gapPick 0 : State), (0 : Nat), by decide +kernel, rfl⟩,
   ⟨(poolS id : State), (0 : Nat), by decide +kernel⟩,
   ⟨(segS { Seg.fresh with k := 14, flying := 1, rows := 1023 } : State), (0 : Nat), (0 : Nat), ({ Pool.fresh with rel := .owner, segs := [(0, { Seg.fresh with k := 14, flying := 1, rows := 1023 })] } : Pool), ({ Seg.fresh with k := 14, flying := 1, rows := 1023 } : Seg), by decide +kernel⟩,
   ⟨(poolS (fun p => { p with segs := [(0, { Seg.fresh with k := 14, flying := 1, moving := [{ handle := 1, old := 0, new := 5, ende := 7, origin := 6 }] })], recs := [(1, { loc := 0, ref := 2 ^ 63 })] }) : State), (0 : Nat), (0 : Nat), ({ Pool.fresh with rel := .owner, segs := [(0, { Seg.fresh with k := 14, flying := 1, moving := [{ handle := 1, old := 0, new := 5, ende := 7, origin := 6 }] })], recs := [(1, { loc := 0, ref := 2 ^ 63 })] } : Pool), ({ Seg.fresh with k := 14, flying := 1, moving := [{ handle := 1, old := 0, new := 5, ende := 7, origin := 6 }] } : Seg), ({ handle := 1, old := 0, new := 5, ende := 7, origin := 6 } : Moving), by decide +kernel⟩,
   ⟨(segS Seg.fresh : State), (0 : Nat), (0 : Nat), (Seg.fresh : Seg), by decide +kernel⟩,
   ⟨(poolS (fun p => { p with segs := [(0, Seg.fresh)], moveTo := some 1 }) : State), (0 : Nat), (0 : Nat), (Seg.fresh : Seg), by decide +kernel⟩,
   ⟨(segS { Seg.fresh with state := 1 } : State), (0 : Nat), (0 : Nat), ({ Pool.fresh with rel := .owner, segs := [(0, { Seg.fresh with state := 1 })] } : Pool), by decide +kernel⟩,
   ⟨(segS { Seg.fresh with regDone := 2, regDue := [0] } : State), (0 : Nat), (0 : Nat), ({ Seg.fresh with regDone := 2, regDue := [0] } : Seg), by decide +kernel⟩⟩

/-- The functions that `Obligations.PatrolAndFixityReport` names for a module's poll. -/
theorem witness_healthPoll (pages : List (Nat × Bytes)) (p : Nat) :
    ∃ (read judge poll : State → Nat → State),
      (∀ (t : State) (m : Nat), pages.find? (fun q => decide (q.1 = m)) = none → read t m = t) ∧
      (∀ (t : State) (m : Nat) (b : Bytes), pages.find? (fun q => decide (q.1 = m)) = some (m, b) →
        read t m = (t.setModu m { t.modu m with critical := (b.getD 0 0).toNat }).mpcCount (m / 4) 512 0) ∧
      (∀ (t : State) (m : Nat), ((t.modu m).critical ≠ 0 ∨ t.wornOut p m = true → judge t m = t.evacuate p m) ∧
        ((t.modu m).critical = 0 → t.wornOut p m = false → judge t m = t)) ∧
      (∀ (t : State) (m : Nat), (t.modUp m = false → poll t m = t) ∧ (t.modUp m = true → poll t m = judge (read t m) m)) := by
  refine ⟨fun t m => match pages.find? (fun q => decide (q.1 = m)) with
      | none => t
      | some q => (t.setModu m { t.modu m with critical := (q.2.getD 0 0).toNat }).mpcCount (m / 4) 512 0,
    fun t m => if (t.modu m).critical ≠ 0 ∨ t.wornOut p m = true then t.evacuate p m else t, fun t m => if t.modUp m then _ else t, ?_, ?_, ?_,
    fun t m => ⟨fun h => if_neg (by simp [h]), fun h => if_pos h⟩⟩
  · intro t m h; simp only [h]
  · intro t m b h; simp only [h]
  · exact fun t m => ⟨fun h => if_pos h, fun h g => if_neg (by simp [h, g])⟩

/-- States and operands that meet the hypotheses of each clause of `Obligations.PatrolAndFixityReport`. -/
theorem witness_patrolAndFixityReport :
    (∃ (s : State) (p : Nat) (x : Pool), x = s.pool p ∧ s.owns p = true ∧ x.rebuild.running = false ∧ x.pass.running = true ∧
     s.opFailed 2 p = false ∧ x.pass.queue = []) ∧
    (∃ (s : State) (p : Nat) (x : Pool), x = s.pool p ∧ s.owns p = true ∧ x.pass.running = true ∧ s.time.toNat < x.pass.due.toNat) ∧
    (∃ (s : State) (p : Nat) (n : Nat) (x : Pool), x = s.pool p ∧ n = fillNext x.fill (s.rawSlabs p) (s.freeSlabs p) (sparedModules
     x)) ∧
    (∃ (s : State) (u : State) (call : Nat) (c : Call), Tbl.find s.calls call = some c ∧ c.phase = .running ∧ u = { s with freeCtr := s.freeCtr + 1 }
     ∧ callSlot c.entry = 48 ∧ s.owns 0 = true) ∧
    (∃ (s : State) (p : Nat) (x : Pool), x = s.pool p ∧ s.owns p = true ∧ 6000000000 ≤ (s.time - x.healthAt).toNat) ∧
    (∃ (s : State) (p : Nat) (x : Pool), x = s.pool p ∧ (s.time - x.healthAt).toNat < 6000000000) ∧
    (∃ (s : State) (p : Nat) (h : Nat) (free : State → State), free = (fun t => { t with host := { t.host with cmds := t.host.cmds.map (fun (q : Nat × HCmd) => if q.2.search = some h then (q.1, { q.2 with search := none }) else q) } })
     ∧ s.owns p = true ∧ (∃ q ∈ s.host.cmds, q.2.search = some h)) ∧
    (∃ (x : Pool) (n : Nat) (g : Seg), (n, g) ∈ x.segs ∧ g.state = 0) ∧
    (∃ (s : State) (n : Nat) (c : HCmd), Tbl.find s.host.cmds n = some c ∧ c.search.isSome = true ∧ 200000000 ≤ (s.time -
     c.since).toNat) :=
  ⟨⟨(poolS (fun p => { p with pass := { Pass.fresh with running := true } }) : State), (0 : Nat), ({ Pool.fresh with rel := .owner, pass := { Pass.fresh with running := true } } : Pool), by decide +kernel⟩,
   ⟨(poolS (fun p => { p with pass := { Pass.fresh with running := true, due := 1 } }) : State), (0 : Nat), ({ Pool.fresh with rel := .owner, pass := { Pass.fresh with running := true, due := 1 } } : Pool), by decide +kernel⟩,
   ⟨(poolS id : State), (0 : Nat), ((fillNext ({ Pool.fresh with rel := .owner } : Pool).fill ((poolS id).rawSlabs 0) ((poolS id).freeSlabs 0) (sparedModules ({ Pool.fresh with rel := .owner } : Pool))) : Nat), ({ Pool.fresh with rel := .owner } : Pool), by decide +kernel⟩,
   ⟨(lib (poolS id) 48 [60, 0] : State), ({ lib (poolS id) 48 [60, 0] with freeCtr := 1 } : State), (0 : Nat), (callC 48 [60, 0] .running : Call), by decide +kernel⟩,
   ⟨({ poolS id with time := 6000000000 } : State), (0 : Nat), ({ Pool.fresh with rel := .owner } : Pool), by decide +kernel⟩,
   ⟨(poolS id : State), (0 : Nat), ({ Pool.fresh with rel := .owner } : Pool), by decide +kernel⟩,
   ⟨(cmdS (poolS id) { cmdX with search := some 0 } : State), (0 : Nat), (0 : Nat), (fun t => { t with host := { t.host with cmds := t.host.cmds.map (fun (q : Nat × HCmd) => if q.2.search = some 0 then (q.1, { q.2 with search := none }) else q) } } : State → State), rfl, by (with_reducible and_intros) <;> decide +kernel⟩,
   ⟨({ Pool.fresh with segs := [(3, Seg.fresh)] } : Pool), (3 : Nat), (Seg.fresh : Seg), by decide +kernel⟩,
   ⟨({ cmdS State.reset { cmdX with search := some 1 } with time := 200000000 } : State), (0 : Nat), ({ cmdX with search := some 1 } : HCmd), by decide +kernel⟩⟩

/-- States and operands that meet the hypotheses of each clause of `Obligations.RebuildAndReshapeProceed`. -/
theorem witness_rebuildAndReshapeProceed :
    (∃ (s : State) (p : Nat) (x : Pool), x = s.pool p ∧ s.owns p = true ∧ rebuildQueue x ≠ [] ∧ x.rebuild.running = true ∧ s.opFailed
     0 p = false ∧ (s.rebuildNext p).isSome = true) ∧
    (∃ (s : State) (p : Nat) (n : Nat) (g : Seg), s.rebuildNext p = some (n, g)) ∧
    (∃ (s : State) (p : Nat) (x : Pool), x = s.pool p ∧ s.owns p = true ∧ rebuildQueue x = [] ∧ x.rebuild.running = false) ∧
    (∃ (s : State) (p : Nat) (x : Pool), x = s.pool p ∧ x.rebuild.running = true) ∧
    (∃ (s : State) (p : Nat) (n : Nat) (row : Nat) (i : Nat) (x : Pool) (g : Seg), x = s.pool p ∧ Tbl.find x.segs n = some g ∧ (row,
     i, false) ∈ g.lostStrips) ∧
    (∃ (s : State) (p : Nat) (x : Pool) (r : Reshape), x = s.pool p ∧ s.owns p = true ∧ x.reshape = some r ∧ s.opFailed 1 p = false ∧
     x.rebuild.running = false ∧ s.rawSlabs p ≤ s.freeSlabs p * 50 ∧ r.paused = false) ∧
    (∃ (s : State) (u : State) (call : Nat) (c : Call) (p : Nat), Tbl.find s.calls call = some c ∧ c.phase = .running ∧ u = { s with freeCtr := s.freeCtr + 1 }
     ∧ p = callPool c.entry ∧ callSlot c.entry = 54 ∧ 255 ∈ (s.pool p).mods) ∧
    (∃ (s : State) (p : Nat) (m : Nat) (x : Pool), Tbl.find s.pools p = some x ∧ m ∈ x.mods ∧ m ∉ x.failed) :=
  ⟨⟨(poolS (fun p => { p with rebuild := { p.rebuild with running := true }, segs := [(5, { Seg.fresh with k := 6, state := 1, members := [{ slab := 0, state := 1, rows := 0 }] })] }) : State), (0 : Nat), ((poolS (fun p => { p with rebuild := { p.rebuild with running := true }, segs := [(5, { Seg.fresh with k := 6, state := 1, members := [{ slab := 0, state := 1, rows := 0 }] })] })).pool 0 : Pool), by decide +kernel⟩,
   ⟨(poolS (fun p => { p with rebuild := { p.rebuild with running := true }, segs := [(5, { Seg.fresh with k := 6, state := 1, members := [{ slab := 0, state := 1, rows := 0 }] })] }) : State), (0 : Nat), (5 : Nat), ({ Seg.fresh with k := 6, state := 1, members := [{ slab := 0, state := 1, rows := 0 }] } : Seg), by decide +kernel⟩,
   ⟨(poolS id : State), (0 : Nat), ({ Pool.fresh with rel := .owner } : Pool), by decide +kernel⟩,
   ⟨(poolS (fun p => { p with rebuild := { p.rebuild with running := true } }) : State), (0 : Nat), ((poolS (fun p => { p with rebuild := { p.rebuild with running := true } })).pool 0 : Pool), by decide +kernel⟩,
   ⟨(poolS (fun p => { p with segs := [(0, { Seg.fresh with lostStrips := [(0, 0, false)] })] }) : State), (0 : Nat), (0 : Nat), (0 : Nat), (0 : Nat), ((poolS (fun p => { p with segs := [(0, { Seg.fresh with lostStrips := [(0, 0, false)] })] })).pool 0 : Pool), ({ Seg.fresh with lostStrips := [(0, 0, false)] } : Seg), by decide +kernel⟩,
   ⟨({ State.reset with pools := [(0, { Pool.fresh with rel := .owner, reshape := some { newK := 4, exclude := [], total := 0, done := 0, paused := false, id := 1 } })] } : State), (0 : Nat), ({ Pool.fresh with rel := .owner, reshape := some { newK := 4, exclude := [], total := 0, done := 0, paused := false, id := 1 } } : Pool), ({ newK := 4, exclude := [], total := 0, done := 0, paused := false, id := 1 } : Reshape), by decide +kernel⟩,
   ⟨(lib (poolS (fun p => { p with mods := [255] })) 54 [63, 3] : State), ({ lib (poolS (fun p => { p with mods := [255] })) 54 [63, 3] with freeCtr := 1 } : State), (0 : Nat), (callC 54 [63, 3] .running : Call), ((callPool (callC 54 [63, 3] .running).entry) : Nat), by decide +kernel⟩,
   ⟨(poolS (fun p => { p with mods := [255] }) : State), (0 : Nat), (255 : Nat), ({ Pool.fresh with rel := .owner, mods := [255] } : Pool), by decide +kernel⟩⟩

/-- Module 255 stands admitted; a port job of one OP on its slab 1023. -/
def modX : Modu :=
  { Modu.fresh with present := true, admitted := true, ident := { Ident.none with slabs := 1024 } }
def mpcJ (op : Nat) : Job := { jobA 9 (descB op 0 63 3 [0, 1023]) [nullH, nullH] with lane := 63 }
def mpcS (op : Nat) : State := { jobS (mpcJ op) with modules := [(255, modX)] }

/-- States and operands that meet the hypotheses of each clause of `Obligations.ModulesKeepTheirMedium`. -/
theorem witness_modulesKeepTheirMedium :
    (∃ (s : State) (n : Nat) (m : Nat) (j : Job) (x : Modu), m = mpcModule j ∧ x = s.modu m ∧ x.lost = false ∧ x.admitted = true ∧
     x.detached = false ∧ x.foreign = false ∧ x.lengths = [] ∧ fieldAt j.desc 8 4 < x.ident.slabs ∧ s.startable n 9 (fun op =>
     op == 0x88) = some j) ∧
    (∃ (s : State) (n : Nat) (m : Nat) (f : Nat) (k : Nat) (j : Job) (x : Modu) (sl : MSlab), m = mpcModule j ∧ x = s.modu m ∧ sl =
     s.mslab (mpcSa j) ∧ f = mpcFirst j ∧ x.lost = false ∧ x.admitted = true ∧ x.detached = false ∧ fieldAt j.desc 8 4 <
     x.ident.slabs ∧ f + k ≤ (if sl.mode = 2 then 4096 else 16384) ∧ s.startable n 9 (fun op => op == 0x8A) = some j) ∧
    (∃ (s : State) (n : Nat) (status : Nat) (j : Job) (x : Modu), x = s.modu (mpcModule j) ∧ x.lengths = [] ∧ ((status = 0x23 ∧
     x.lost = true ∨ status = 0x25 ∧ x.lost = false ∧ (x.admitted = false ∨ x.detached = true))) ∧ s.startable n 9 (fun op => op
     == 0x80) = some j) ∧
    (∃ (s : State) (n : Nat) (x : Svc) (o : ModOut) (i : Instr) (kind : Nat), (i, kind) ∈ [(.programSlabRow true n o, 0),
     (.journalAppend true n o, 1), (.eraseSlab true n o, 2)] ∧ Tbl.find s.svc n = some x ∧ svcKind x = kind) :=
  ⟨⟨(mpcS 0x88 : State), (0 : Nat), (255 : Nat), (mpcJ 0x88 : Job), (modX : Modu), by decide +kernel⟩,
   ⟨(mpcS 0x8A : State), (0 : Nat), (255 : Nat), ((mpcFirst (mpcJ 0x8A)) : Nat), (16384 : Nat), (mpcJ 0x8A : Job), (modX : Modu), (MSlab.fresh : MSlab), by decide +kernel⟩,
   ⟨(jobS (mpcJ 0x80) : State), (0 : Nat), (0x25 : Nat), (mpcJ 0x80 : Job), (Modu.fresh : Modu), by decide +kernel⟩,
   ⟨({ State.reset with svc := [(0, .relay 0 0 { seq := 1, entries := [] })] } : State), (0 : Nat), (.relay 0 0 { seq := 1, entries := [] } : Svc), (.ok 0 : ModOut), (.journalAppend true 0 (.ok 0) : Instr), (1 : Nat), by decide +kernel⟩⟩

/-- Port 63 runs and its link is up. -/
def portS : State := { regS [(mpcBlk 63 + 0x18, 1)] with ports := [(63, { MPort.fresh with up := true })] }

/-- States and operands that meet the hypotheses of each clause of `Obligations.ModulesComeAndGo`. -/
theorem witness_modulesComeAndGo :
    (∃ (s : State) (p : Nat) (t : Nat), p < 64 ∧ s.mpcRuns p = true ∧ t < 4 ∧ (s.mport p).up = true ∧ (s.modu (4 * p + t)).present =
     false) ∧
    (∃ (t : Nat), t < 4) ∧
    (∃ (s : State) (u : State) (call : Nat) (m : Nat) (c : Call) (x : Modu), Tbl.find s.calls call = some c ∧ c.phase = .running ∧ u
     = { s with freeCtr := s.freeCtr + 1 } ∧ m = 4 * callArg c.entry 0 + callArg c.entry 1 ∧ x = s.modu m ∧ callSlot c.entry =
     92) ∧
    (∃ (s : State) (t : State) (p : Nat) (m : Nat), Tbl.sorted (s.modu m).slabs = true ∧ t = s.addModule p m) :=
  ⟨⟨(portS : State), (63 : Nat), (3 : Nat), by decide +kernel⟩,
   ⟨(3 : Nat), by decide +kernel⟩,
   ⟨(libS 92 [63, 3] : State), ({ libS 92 [63, 3] with freeCtr := 1 } : State), (0 : Nat), (255 : Nat), (callC 92 [63, 3] .running : Call), (Modu.fresh : Modu), by decide +kernel⟩,
   ⟨(State.reset : State), (State.reset.addModule 0 0 : State), (0 : Nat), (0 : Nat), by decide +kernel, rfl⟩⟩

/-- States and operands that meet the hypotheses of each clause of `Obligations.RopeFramesLeasesAndTime`. -/
theorem witness_ropeFramesLeasesAndTime :
    (∃ (i : Instr) (typ : Nat) (f : Bytes) (cap : Capsule), (i, typ) ∈ [(.heartbeat f, 1), (.timeReq f, 2), (.timeResp f, 3),
     (.journal f, 4), (.journalAck f, 5), (.shadow f, 6), (.forward f cap, 7), (.forwardDone f, 8), (.join f, 9), (.caughtUp f,
     9), (.ropeRelease f, 9), (.taken f, 9), (.rekey f, 9), (.ropeYield f, 10)] ∧ f.length < 40) ∧
    (∃ (s : State) (k : RopeKey) (d : Bytes), s.rope.txKey = some k ∧ (s.rope.putOff ≠ [] ∨ s.ropeRoom d = false)) ∧
    (∃ (s : State) (m : Nat), s.pwr.mode ∈ [5, 6, 7] ∧ ¬ m ∈ [5, 6, 7]) ∧
    (∃ (s : State), s.rope.unacked ≠ [] ∧ 400 ≤ (s.time - s.rope.ackAt).toNat) ∧
    (∃ (s : State) (since : W64), s.rope.goodSince = some since ∧ s.rope.degraded = true ∧ 8 ≤ popcount s.rope.lanes ∧ 100000000 ≤
     (s.time - since).toNat) ∧
    (∃ (s : State) (k : RopeKey), s.rope.txKey = some k ∧ (s.sessionKeys (s.rope.linkRekeys + 1)).isSome = true ∧ 2 ^ 40 ≤
     s.rope.txCount ∧ s.wdn.trngOk = true) ∧
    (∃ (s : State), s.rope.timeSynced = true ∧ s.rope.master = false ∧ 1000000 ≤ (s.time - s.rope.exchangeAt).toNat) ∧
    (∃ (s : State) (u : State) (f : Bytes) (d : Bytes), s.recvRope 1 f = (some d, u)) ∧
    (∃ (s : State) (k : RopeKey), s.rope.txKey = some k) ∧
    (∃ (s : State), s.rope.txKey = none) ∧
    (∃ (s : State), s.rope.lease = s.ropeLease ∧ s.crn.lease = s.cairnLease) ∧
    (∃ (s : State), s.rope.lease = true ∧ s.crn.lease = false ∧ s.ropeLease = false ∧ s.cairnLease = false) ∧
    (∃ (l : Nat), l < 16) ∧
    (∃ (s : State) (u : State) (f : Bytes) (d : Bytes) (k : RopeKey), s.recvRope 9 f = (some d, u) ∧ fieldAt d 0 1 = 4 ∧ u.rope.txKey
     = some k) ∧
    (∃ (s : State) (nonce : Bytes) (secret : Bytes) (a : Bytes) (b : Bytes) (own : Bytes) (peerId : Nat), s.wdn.trngOk = true ∧
     s.pairSecret = some secret ∧ nonce.length = 32 ∧ peerId ≠ s.headId ∧ (a, b) = (if s.headId = 0 then (s.freeBytes 32, nonce)
     else (nonce, s.freeBytes 32)) ∧ own = (hmac384 secret (a ++ b)).take 8) ∧
    (∃ (s : State) (u : State) (f : Bytes) (d : Bytes), s.recvRope 2 f = (some d, u)) ∧
    (∃ (s : State) (u : State) (f : Bytes) (d : Bytes) (off : Int) (ns : Int), s.recvRope 3 f = (some d, u) ∧ ns = off * 5 / 8 ∧ off
     = (((fieldAt d 8 8 : Int) - (fieldAt d 0 8 : Int)) - ((u.stampT : Int) - (fieldAt d 16 8 : Int))) / 2) :=
  ⟨⟨(.heartbeat [] : Instr), (1 : Nat), ([] : Bytes), (capX : Capsule), by decide +kernel⟩,
   ⟨({ rx State.reset with rope := { (rx State.reset).rope with putOff := [(1, [])] } } : State), (ropeK : RopeKey), ([] : Bytes), by decide +kernel⟩,
   ⟨({ State.reset with pwr := { State.reset.pwr with mode := 5 } } : State), (4 : Nat), by decide +kernel⟩,
   ⟨({ State.reset with time := 400, rope := { State.reset.rope with unacked := [(1, [])] } } : State), by decide +kernel⟩,
   ⟨({ State.reset with time := 100000000, rope := { State.reset.rope with goodSince := some 0, degraded := true, lanes := 0xFFFF } } : State), (0 : W64), by decide +kernel⟩,
   ⟨({ State.reset with rope := { State.reset.rope with txKey := some ropeK, txCount := 2 ^ 40, nonces := some (zeros 32, zeros 32) }, wdn := { State.reset.wdn with keyArea := [{ kind := 3, index := 0, value := zeros 32, genRec := 1 }], trngOk := true } } : State), (ropeK : RopeKey), by decide +kernel⟩,
   ⟨({ State.reset with time := 1000000, rope := { State.reset.rope with timeSynced := true, master := false } } : State), by decide +kernel⟩,
   ⟨(rx State.reset : State), ((rx State.reset).acceptFrame (ropeF 1 (zeros 32)) : State), (ropeF 1 (zeros 32) : Bytes), (zeros 32 : Bytes), received (State.reset) 1 (zeros 32) (by decide)⟩,
   ⟨(rx State.reset : State), (ropeK : RopeKey), by decide +kernel⟩,
   ⟨(State.reset : State), by decide +kernel⟩,
   ⟨(State.reset : State), by decide +kernel⟩,
   ⟨({ State.reset with rope := { State.reset.rope with lease := true } } : State), by decide +kernel⟩,
   ⟨(15 : Nat), by decide +kernel⟩,
   ⟨(rx State.reset : State), ((rx State.reset).acceptFrame (ropeF 9 ([4, 0, 0, 0, 0, 0, 0, 0, 2, 0, 0, 0, 0, 0, 0, 0])) : State), (ropeF 9 ([4, 0, 0, 0, 0, 0, 0, 0, 2, 0, 0, 0, 0, 0, 0, 0]) : Bytes), ([4, 0, 0, 0, 0, 0, 0, 0, 2, 0, 0, 0, 0, 0, 0, 0] : Bytes), (ropeK : RopeKey), received (State.reset) 9 ([4, 0, 0, 0, 0, 0, 0, 0, 2, 0, 0, 0, 0, 0, 0, 0]) (by decide), by (with_reducible and_intros) <;> decide +kernel⟩,
   ⟨({ State.reset with wdn := { State.reset.wdn with keyArea := [{ kind := 3, index := 0, value := zeros 32, genRec := 1 }], trngOk := true } } : State), (zeros 32 : Bytes), (zeros 32 : Bytes), (State.reset.freeBytes 32 : Bytes), (zeros 32 : Bytes), ((hmac384 (zeros 32) (State.reset.freeBytes 32 ++ zeros 32)).take 8 : Bytes), (1 : Nat), by decide +kernel, by decide +kernel, by decide +kernel, by decide +kernel, by rfl, rfl⟩,
   ⟨(rx State.reset : State), ((rx State.reset).acceptFrame (ropeF 2 (zeros 8)) : State), (ropeF 2 (zeros 8) : Bytes), (zeros 8 : Bytes), received (State.reset) 2 (zeros 8) (by decide)⟩,
   ⟨(rx State.reset : State), ((rx State.reset).acceptFrame (ropeF 3 (zeros 24)) : State), (ropeF 3 (zeros 24) : Bytes), (zeros 24 : Bytes), ((((fieldAt (zeros 24) 8 8 : Int) - (fieldAt (zeros 24) 0 8 : Int)) - ((((rx State.reset).acceptFrame (ropeF 3 (zeros 24))).stampT : Int) - (fieldAt (zeros 24) 16 8 : Int))) / 2 : Int), (((((fieldAt (zeros 24) 8 8 : Int) - (fieldAt (zeros 24) 0 8 : Int)) - ((((rx State.reset).acceptFrame (ropeF 3 (zeros 24))).stampT : Int) - (fieldAt (zeros 24) 16 8 : Int))) / 2) * 5 / 8 : Int), received (State.reset) 3 (zeros 24) (by decide), rfl, rfl⟩⟩

/-- This head holds pool 0 as its shadow, and a group of one entry as the owner sends it. -/
def shdS : State := { State.reset with pools := [(0, { Pool.fresh with rel := .shadow })] }
def grpG : Group := ((poolS id).acceptGroup 0 1 [eHeat 0 32 4 64] none 0).2
def jobR (op : Nat) : Job := jobA 10 (descB op 0 0 0 []) [mkH 0 0 0 32]

/-- States and operands that meet the hypotheses of each clause of `Obligations.TheShadowFollowsTheOwner`. -/
theorem witness_theShadowFollowsTheOwner :
    (∃ (s : State) (u : State) (p : Nat) (ref : Nat) (n : Nat) (f : Bytes) (b : Bytes) (es : List Bytes) (g : Group), p < 16 ∧ ref <
     2 ^ 64 ∧ b.length < 2 ^ 32 ∧ n = b.length ∧ es = entriesOf b ∧ s.recvRope 4 f = (some (journalItem p 0 n ref b), u) ∧
     (u.pool p).rel = .shadow ∧ groupOk true es = true ∧ wrapperOf g = none ∧ g = { seq := fieldAt (es.getD 0 []) 8 8, entries := es }) ∧
    (∃ (s : State) (u : State) (p : Nat) (seq : Nat) (f : Bytes), p < 16 ∧ seq < 2 ^ 64 ∧ s.recvRope 4 f = (some (journalItem p 1 0
     seq []), u)) ∧
    (∃ (s : State) (u : State) (f : Bytes) (d : Bytes) (p : Nat) (q : Nat) (a : List Nat) (b : List Nat), s.recvRope 5 f = (some d,
     u) ∧ d.length = 16 ∧ p = fieldAt d 0 1 ∧ q = fieldAt d 8 8 ∧ (u.pool p).sentSeqs = a ++ q :: b ∧ q ∉ a ∧ Tbl.sorted u.pools
     = true) ∧
    (∃ (s : State) (u : State) (p : Nat) (kind : Nat) (f : Bytes) (b : Bytes) (x : Pool), p < 16 ∧ kind < 7 ∧ b.length < 2 ^ 16 ∧ x =
     u.pool p ∧ Tbl.find u.pools p = some x ∧ Tbl.sorted u.pools = true ∧ s.recvRope 6 f = (some (leBytes 1 p ++ leBytes 1 kind
     ++ leBytes 2 b.length ++ b), u) ∧ x.rel = .shadow) ∧
    (∃ (s : State) (u : State) (f : Bytes) (d : Bytes) (cap : Capsule) (n : Nat) (c : HCmd), s.recvRope 7 f = (some d, u) ∧ n =
     Tbl.next u.host.cmds ∧ c = { HCmd.mk0 (2 ^ 20) cap (match Tbl.find u.allNs cap.nsid with | some (_, m) => m.snap | none => none) with fwd := some (fieldAt d 0 8), data := d.drop 72, phase := .taken, since := u.time }
     ∧ Tbl.find u.allNs cap.nsid = none) ∧
    (∃ (s : State) (u : State) (f : Bytes) (d : Bytes) (n : Nat) (fl : Nat), s.recvRope 8 f = (some d, u) ∧ n = fieldAt d 0 8 ∧ fl =
     fieldAt d 0x16 2 / 2) ∧
    (∃ (s : State) (u : State) (f : Bytes) (d : Bytes) (pools : Nat) (arg : Nat), s.recvRope 9 f = (some d, u) ∧ pools = fieldAt d 1
     2 ∧ arg = fieldAt d 8 8) ∧
    (∃ (s : State) (u : State) (f : Bytes) (d : Bytes), s.recvRope 10 f = (some d, u)) ∧
    (∃ (s : State) (t : State) (p : Nat), t = s.moveOff p ∧ Tbl.sorted s.pair.moves = true) ∧
    (∃ (s : State) (p : Nat), s.owns p = false) ∧
    (∃ (s : State) (p : Nat), ((s.pool p).rel ≠ .shadow ∨ s.rope.degraded = false)) ∧
    (∃ (s : State) (c : HCmd), s.rope.degraded = true ∧ 5000000 ≤ (s.time - s.rope.degradedAt).toNat ∧ s.host.cmds = [(0, c)] ∧
     c.phase = .forwarded) ∧
    (∃ (s : State) (n : Nat) (p : Nat) (j : Job) (es : List Bytes), s.startable n 0x0A (fun op => op == 0) = some j ∧ p = fieldAt
     j.desc 2 1 ∧ es = entriesOf (s.hBytes j.ridge (jh j 0)) ∧ j.desc.length ≠ 40) ∧
    (∃ (s : State) (n : Nat) (p : Nat) (j : Job), s.startable n 0x0A (fun op => op == 1) = some j ∧ p = fieldAt j.desc 2 1) :=
  ⟨⟨(rx shdS : State), ((rx (shdS)).acceptFrame (ropeF 4 (journalItem 0 0 grpG.bytes.length 7 grpG.bytes)) : State), (0 : Nat), (7 : Nat), (grpG.bytes.length : Nat), (ropeF 4 (journalItem 0 0 grpG.bytes.length 7 grpG.bytes) : Bytes), (grpG.bytes : Bytes), (entriesOf grpG.bytes : List Bytes), (grpG : Group), by decide +kernel, by decide +kernel, by decide +kernel, rfl, rfl, received (shdS) 4 (journalItem 0 0 grpG.bytes.length 7 grpG.bytes) (by decide), by (with_reducible and_intros) <;> decide +kernel⟩,
   ⟨(rx shdS : State), ((rx (shdS)).acceptFrame (ropeF 4 (journalItem 0 1 0 1 [])) : State), (0 : Nat), (1 : Nat), (ropeF 4 (journalItem 0 1 0 1 []) : Bytes), by decide +kernel, by decide +kernel, received (shdS) 4 (journalItem 0 1 0 1 []) (by decide)⟩,
   ⟨(rx (poolS (fun p => { p with sentSeqs := [0] })) : State), ((rx (poolS (fun p => { p with sentSeqs := [0] }))).acceptFrame (ropeF 5 (zeros 16)) : State), (ropeF 5 (zeros 16) : Bytes), (zeros 16 : Bytes), (0 : Nat), (0 : Nat), ([] : List Nat), ([] : List Nat), received (poolS (fun p => { p with sentSeqs := [0] })) 5 (zeros 16) (by decide), by decide, by decide, by decide, by decide +kernel, by decide, by decide +kernel⟩,
   ⟨(rx shdS : State), ((rx (shdS)).acceptFrame (ropeF 6 (leBytes 1 0 ++ leBytes 1 3 ++ leBytes 2 ([5] : Bytes).length ++ [5])) : State), (0 : Nat), (3 : Nat), (ropeF 6 (leBytes 1 0 ++ leBytes 1 3 ++ leBytes 2 ([5] : Bytes).length ++ [5]) : Bytes), ([5] : Bytes), ({ Pool.fresh with rel := .shadow } : Pool), by decide, by decide, by decide, by decide +kernel, by decide +kernel, by decide +kernel, received (shdS) 6 (leBytes 1 0 ++ leBytes 1 3 ++ leBytes 2 ([5] : Bytes).length ++ [5]) (by decide), by decide⟩,
   ⟨(rx nsS : State), ((rx (nsS)).acceptFrame (ropeF 7 (zeros 80)) : State), (ropeF 7 (zeros 80) : Bytes), (zeros 80 : Bytes), ({ capX with nsid := 2 } : Capsule), (0 : Nat), ({ HCmd.mk0 (2 ^ 20) { capX with nsid := 2 } none with fwd := some 0, data := zeros 8, phase := .taken } : HCmd), received (nsS) 7 (zeros 80) (by decide), by (with_reducible and_intros) <;> decide +kernel⟩,
   ⟨(rx State.reset : State), ((rx State.reset).acceptFrame (ropeF 8 (zeros 24)) : State), (ropeF 8 (zeros 24) : Bytes), (zeros 24 : Bytes), (0 : Nat), (0 : Nat), received (State.reset) 8 (zeros 24) (by decide), by decide, by decide⟩,
   ⟨(rx State.reset : State), ((rx (State.reset)).acceptFrame (ropeF 9 (zeros 16)) : State), (ropeF 9 (zeros 16) : Bytes), (zeros 16 : Bytes), (0 : Nat), (0 : Nat), received (State.reset) 9 (zeros 16) (by decide), by decide, by decide⟩,
   ⟨(rx State.reset : State), ((rx (State.reset)).acceptFrame (ropeF 10 ([])) : State), (ropeF 10 [] : Bytes), ([] : Bytes), received (State.reset) 10 ([]) (by decide)⟩,
   ⟨({ State.reset with pair := { State.reset.pair with moves := [(3, 2)] } } : State), (({ State.reset with pair := { State.reset.pair with moves := [(3, 2)] } } : State).moveOff 3 : State), (3 : Nat), rfl, by decide +kernel⟩,
   ⟨(State.reset : State), (0 : Nat), by decide +kernel⟩,
   ⟨({ shdS with rope := { shdS.rope with degraded := false } } : State), (0 : Nat), by decide +kernel⟩,
   ⟨({ cmdS State.reset { cmdX with phase := .forwarded } with time := 5000000, rope := { State.reset.rope with degraded := true } } : State), ({ cmdX with phase := .forwarded } : HCmd), by decide +kernel⟩,
   ⟨(jobS (jobR 0) : State), (0 : Nat), ((fieldAt (jobR 0).desc 2 1) : Nat), (jobR 0 : Job), ((entriesOf ((jobS (jobR 0)).hBytes (jobR 0).ridge (jh (jobR 0) 0))) : List Bytes), by decide +kernel⟩,
   ⟨(jobS (jobR 1) : State), (0 : Nat), ((fieldAt (jobR 1).desc 2 1) : Nat), (jobR 1 : Job), by decide +kernel⟩⟩

/-- The Cairn's key is held and a message of INCARNATION 1 has come; `crnM` is the Cairn's next message. -/
def crnS : State :=
  { State.reset with
    wdn := { State.reset.wdn with keyArea := [{ kind := 4, index := 0, value := zeros 32, genRec := 1 }] },
    crn := { State.reset.crn with inc := 1, votes := [{ mseq := 5, pools := 1, reason := 0 }] } }
def crnM (typ : Nat) (d : Bytes) : Bytes := cairnMsg (zeros 32) typ 0x0F (2 ^ 48 + 1) d
def voteD (result granted : Nat) : Bytes := zeros 9 ++ leBytes 1 result ++ leBytes 2 granted ++ zeros 4 ++ leBytes 8 5
def fenceX (pools : Nat) (left : List Nat) : Fence :=
  { pools := pools, term := 1, reason := 2, fenced := 0, missing := 0, since := 0, left := left }

/-- States and operands that meet the hypotheses of each clause of `Obligations.TheCairnDecidesOwnership`. -/
theorem witness_theCairnDecidesOwnership :
    (∃ (s : State) (i : Instr) (typ : Nat) (m : Bytes) (k : Bytes), (i, typ) ∈ [(.cairnHealth m, 4), (.voteGrant m, 2)] ∧ 32 ≤
     m.length ∧ m.length = 32 + fieldAt m 2 2 ∧ fieldAt m (28 + fieldAt m 2 2) 4 = crc32c (m.take (28 + fieldAt m 2 2)) ∧
     s.areaKey 4 0 = some k ∧ (hmac256 k (m.take (12 + fieldAt m 2 2))).take 16 = sliceAt m (12 + fieldAt m 2 2) 16 ∧ fieldAt m
     0 1 = typ ∧ fieldAt m 1 1 = 0x0F ∧ fieldAt m 4 8 / 2 ^ 48 = s.crn.inc ∧ s.crn.inc ≠ 0 ∧ s.crn.seen < fieldAt m 4 8 % 2 ^ 48) ∧
    (∃ (i : Instr) (typ : Nat) (m : Bytes), (i, typ) ∈ [(.cairnHealth m, 4), (.voteGrant m, 2)] ∧ m.length < 32) ∧
    (∃ (s : State) (u : State) (m : Bytes) (d : Bytes) (q : Nat), s.recvCairn 4 m = (some (d, q), u)) ∧
    (∃ (s : State), (s.areaKey 4 0).isSome = true ∧ s.pwr.mode ≠ 0 ∧ s.pwr.mode ≠ 2) ∧
    (∃ (s : State) (u : State) (w : State) (m : Bytes) (d : Bytes) (q : Nat) (granted : Nat) (v : Vote) (fl : List Nat), s.recvCairn
     2 m = (some (d, q), u) ∧ w = { u with crn := { u.crn with term := maxTerm u.crn.term (fieldAt d 0 8) } } ∧ granted =
     fieldAt d 10 2 ∧ fl = ((List.range 16).flatMap (fun p => if bit granted p then (u.pool p).mods else [])).eraseDups ∧
     u.crn.votes.find? (fun v => decide (v.mseq = fieldAt d 16 8)) = some v ∧ fieldAt d 8 1 = s.headId ∧ fieldAt d 9 1 = 0 ∧
     granted ≠ 0) ∧
    (∃ (s : State) (u : State) (v : Vote) (since : W64), u = { s with crn := { s.crn with retry := none } } ∧ s.crn.retry = some (v,
     since) ∧ 10000 ≤ (s.time - since).toNat ∧ v.reason = 0) ∧
    (∃ (s : State) (c : Nat), (1 ≤ c ∧ c ≤ 8) ∧ s.pair.yielded = false ∧ s.pwr.mode ∈ [5, 6, 7] ∧ s.peerPools ≠ 0 ∧ s.pair.fence =
     none ∧ s.crn.votes = [] ∧ (s.areaKey 4 0).isSome = true) ∧
    (∃ (s : State) (core : Nat), s.gate (0x20 + core % 4) 0xB0020 8 true = .open) ∧
    (∃ (s : State) (done : List Nat) (f : Fence) (u : State) (g : Fence), s.pair.fence = some f ∧ (u, g) = s.preempted f done ∧
     g.left = [] ∧ f.pools ≠ 0 ∧ 1600 ≤ (s.time - f.since).toNat) ∧
    (∃ (s : State) (p : Nat) (f : Fence), p < 16 ∧ f.pools = 2 ^ p ∧ f.reason = 2 ∧ Tbl.sorted s.pools = true) ∧
    (∃ (s : State) (p : Nat) (seq : Nat) (g : Group), (s.pool p).checks.find? (fun g => decide (g.seq = seq)) = some g ∧ s.owns p =
     true ∧ bit (Tbl.getD (s.pool p).refs seq 0) 63 = false ∧ Tbl.sorted s.pools = true) ∧
    (∃ (s : State), s.pwr.mode = 3 ∧ s.wdn.routeLen ≠ 0 ∧ s.pair.headIdClash = false ∧ s.crn.votes = [] ∧ s.pair.fence = none ∧
     s.pools = [] ∧ ¬ s.rope.peerMode ∈ [4, 5, 6, 7]) ∧
    (∃ (s : State) (u : State) (call : Nat) (p : Nat) (dst : Nat) (c : Call), s.libCall call 60 = some c ∧ p = callPool c.entry ∧ dst
     = callArg c.entry 0 ∧ u = { s with freeCtr := s.freeCtr + 1 } ∧ callSlot c.entry = 60 ∧ Tbl.find s.pair.moves p = none ∧ p
     < 16 ∧ dst ≤ 1 ∧ dst ≠ s.headId ∧ s.owns p = true) ∧
    (∃ (s : State) (call : Nat) (n : Nat) (c : Call) (r : Bytes), s.libCall call 61 = some c ∧ n = min 1 (callPlen c.entry / 64) ∧ r
     = leBytes 1 s.headId ++ leBytes 1 s.pwr.mode ++ leBytes 1 s.rope.peerMode ++ leBytes 1 (popcount s.rope.lanes) ++ leBytes 2
     (b2n s.rope.degraded + 2 * b2n (s.pools.any (fun q => !q.2.relays.isEmpty)) + 4 * b2n s.ropeLease + 8 * b2n s.cairnLease +
     16 * b2n s.rope.timeSynced) ++ leBytes 2 s.ownedMask ++ leBytes 8 s.crn.term.toNat ++ leBytes 2 s.shadowMask ++ leBytes 2
     s.rope.peerOwned ++ leBytes 4 s.rope.offset.toNat ++ leBytes 4 (sumBy (fun q => if q.2.rel = .shadow then
     q.2.waiting.length else 0) s.pools) ++ leBytes 4 s.pair.switches ++ leBytes 8 s.pair.lastSwitch.toNat ++ leBytes 4
     s.pair.lastGap ++ zeros 20 ∧ callSlot c.entry = 61) ∧
    (∃ (s : State) (u : State) (call : Nat) (c : Call), s.libCall call 62 = some c ∧ u = { s with freeCtr := s.freeCtr + 1 } ∧
     callSlot c.entry = 62) :=
  ⟨⟨(crnS : State), (.cairnHealth (crnM 4 (zeros 32)) : Instr), (4 : Nat), (crnM 4 (zeros 32) : Bytes), (zeros 32 : Bytes), by decide +kernel⟩,
   ⟨(.cairnHealth (zeros 31) : Instr), (4 : Nat), (zeros 31 : Bytes), by decide +kernel⟩,
   ⟨(crnS : State), ((crnS.recvCairn 4 (crnM 4 (zeros 32))).2 : State), (crnM 4 (zeros 32) : Bytes), (zeros 32 : Bytes), (2 ^ 48 + 1 : Nat), by decide +kernel⟩,
   ⟨({ crnS with pwr := { crnS.pwr with mode := 5 } } : State), by decide +kernel⟩,
   ⟨(crnS : State), ((crnS.recvCairn 2 (crnM 2 (voteD 0 1))).2 : State), ({ (crnS.recvCairn 2 (crnM 2 (voteD 0 1))).2 with crn := { (crnS.recvCairn 2 (crnM 2 (voteD 0 1))).2.crn with term := maxTerm (crnS.recvCairn 2 (crnM 2 (voteD 0 1))).2.crn.term (fieldAt (voteD 0 1) 0 8) } } : State), (crnM 2 (voteD 0 1) : Bytes), (voteD 0 1 : Bytes), (2 ^ 48 + 1 : Nat), (1 : Nat), ({ mseq := 5, pools := 1, reason := 0 } : Vote), ([] : List Nat), by decide +kernel⟩,
   ⟨({ crnS with crn := { crnS.crn with votes := [], retry := some ({ mseq := 5, pools := 1, reason := 0 }, 0) }, time := 10000 } : State), ({ ({ crnS with crn := { crnS.crn with votes := [], retry := some ({ mseq := 5, pools := 1, reason := 0 }, 0) }, time := 10000 }) with crn := { crnS.crn with votes := [], retry := none } } : State), ({ mseq := 5, pools := 1, reason := 0 } : Vote), (0 : W64), by decide +kernel⟩,
   ⟨({ crnS with pwr := { State.reset.pwr with mode := 5 }, rope := { State.reset.rope with peerOwned := 1 }, crn := { crnS.crn with votes := [] } } : State), (8 : Nat), by decide +kernel⟩,
   ⟨(mgS : State), (0 : Nat), by decide +kernel⟩,
   ⟨({ State.reset with pair := { State.reset.pair with fence := some (fenceX 1 [3]) }, time := 1600 } : State), ([3] : List Nat), (fenceX 1 [3] : Fence), ((({ State.reset with pair := { State.reset.pair with fence := some (fenceX 1 [3]) }, time := 1600 } : State).preempted (fenceX 1 [3]) [3]).1 : State), ((({ State.reset with pair := { State.reset.pair with fence := some (fenceX 1 [3]) }, time := 1600 } : State).preempted (fenceX 1 [3]) [3]).2 : Fence), by decide +kernel⟩,
   ⟨(State.reset : State), (15 : Nat), (fenceX (2 ^ 15) [] : Fence), by decide +kernel⟩,
   ⟨(poolS (fun p => { p with checks := [(((poolS id).acceptGroup 0 1 [eHeat 0 32 4 64] none 0).2)] }) : State), (0 : Nat), (1 : Nat), ((((poolS id).acceptGroup 0 1 [eHeat 0 32 4 64] none 0).2) : Group), by decide +kernel⟩,
   ⟨({ State.reset with pwr := { State.reset.pwr with mode := 3 }, wdn := { State.reset.wdn with routeLen := 64 } } : State), by decide +kernel⟩,
   ⟨(lib (poolS id) 60 [1] : State), ({ lib (poolS id) 60 [1] with freeCtr := 1 } : State), (0 : Nat), (0 : Nat), (1 : Nat), (callC 60 [1] .running : Call), by decide +kernel⟩,
   ⟨(libS 61 [] : State), (0 : Nat), (0 : Nat), (callC 61 [] .running : Call), ((leBytes 1 (libS 61 []).headId ++ leBytes 1 (libS 61 []).pwr.mode ++ leBytes 1 (libS 61 []).rope.peerMode ++ leBytes 1 (popcount (libS 61 []).rope.lanes) ++ leBytes 2 (b2n (libS 61 []).rope.degraded + 2 * b2n ((libS 61 []).pools.any (fun q => !q.2.relays.isEmpty)) + 4 * b2n (libS 61 []).ropeLease + 8 * b2n (libS 61 []).cairnLease + 16 * b2n (libS 61 []).rope.timeSynced) ++ leBytes 2 (libS 61 []).ownedMask ++ leBytes 8 (libS 61 []).crn.term.toNat ++ leBytes 2 (libS 61 []).shadowMask ++ leBytes 2 (libS 61 []).rope.peerOwned ++ leBytes 4 (libS 61 []).rope.offset.toNat ++ leBytes 4 (sumBy (fun q => if q.2.rel = .shadow then q.2.waiting.length else 0) (libS 61 []).pools) ++ leBytes 4 (libS 61 []).pair.switches ++ leBytes 8 (libS 61 []).pair.lastSwitch.toNat ++ leBytes 4 (libS 61 []).pair.lastGap ++ zeros 20) : Bytes), by decide +kernel⟩,
   ⟨(libS 62 [] : State), ({ libS 62 [] with freeCtr := 1 } : State), (0 : Nat), (callC 62 [] .running : Call), by decide +kernel⟩⟩

/-- Pool 0 with a snapshot 1 of namespace 1. -/
def snpS : State :=
  { nsS with pools := [(0, { nsS.pool 0 with snapEpoch := 2, snaps := [{ id := 1, time := 0, repl := false, deleting := false }] })] }

/-- The snapshot is exposed as namespace 2. -/
def expS : State :=
  { snpS with pools := [(0, { snpS.pool 0 with nss := [(1, nsX), (2, { nsX with snap := some (1, 1) })] })] }
def dirX : DirE := { present := true, resident := true, dirty := false, loading := false, flash := 0, epoch := 0, waiters := [] }
def presX : Preserved := { mpn := 0, low := 1, high := 1, flash := 0, lines := [], objs := [] }

/-- States and operands that meet the hypotheses of each clause of `Obligations.SnapshotsKeepThePast`. -/
theorem witness_snapshotsKeepThePast :
    (∃ (s : State) (u : State) (call : Nat) (p : Nat) (c : Call) (x : Pool), s.libCall call 64 = some c ∧ p = callPool c.entry ∧ x =
     s.pool p ∧ u = { s with freeCtr := s.freeCtr + 1 } ∧ callSlot c.entry = 64 ∧ s.owns p = true ∧ x.fill ≠ 2 ∧ x.snaps.length
     < 65535 ∧ s.cutBusy p = false ∧ x.dying = [] ∧ Tbl.sorted s.pools = true ∧ x.snapEpoch < 2 ^ 63) ∧
    (∃ (s : State) (p : Nat) (mpn : Nat) (x : Pool) (d : DirE), x = s.pool p ∧ s.owns p = true ∧ x.dir = [(mpn, d)] ∧ d.present =
     true ∧ bit mpn 43 = false ∧ 16384 ≤ x.snapEpoch - x.fullEpoch d.epoch ∧ ((∀ n ∈ x.snaps, ¬ (x.fullEpoch d.epoch ≤ n.id ∧
     n.id < x.snapEpoch))) ∧ x.dying = [] ∧ d.flash < 2 ^ 48 ∧ x.snapEpoch < 2 ^ 64) ∧
    (∃ (s : State) (u : State) (call : Nat) (p : Nat) (id : Nat) (c : Call) (x : Pool), s.libCall call 65 = some c ∧ p = callPool
     c.entry ∧ x = s.pool p ∧ id = callArg c.entry 0 ∧ u = { s with freeCtr := s.freeCtr + 1 } ∧ callSlot c.entry = 65 ∧ s.owns
     p = true ∧ ((∃ n ∈ x.snaps, n.id = id)) ∧ x.dying = [] ∧ Tbl.sorted s.pools = true ∧ id < 2 ^ 64) ∧
    (∃ (s : State) (p : Nat) (x : Pool) (m : Preserved), x = s.pool p ∧ s.owns p = true ∧ ((∀ q ∈ x.nss, q.2.deleting = false)) ∧
     x.preserved = [m] ∧ ((∀ n ∈ x.snaps, ¬ (m.low ≤ n.id ∧ n.id ≤ m.high))) ∧ ((∀ q ∈ s.host.cmds, q.2.snap = none))) ∧
    (∃ (s : State) (u : State) (call : Nat) (p : Nat) (id : Nat) (src : Nat) (new : Nat) (c : Call) (x : Pool) (ns : Ns), s.libCall
     call 66 = some c ∧ p = callPool c.entry ∧ x = s.pool p ∧ id = callArg c.entry 0 ∧ src = callArg c.entry 1 ∧ new = callArg
     c.entry 2 ∧ u = { s with freeCtr := s.freeCtr + 1 } ∧ callSlot c.entry = 66 ∧ s.owns p = true ∧ 1 ≤ new ∧ new ≤ 0xFFFFFFFE
     ∧ src ≤ 0xFFFFFFFE ∧ ((∃ n ∈ x.snaps, n.id = id)) ∧ nsExisted x src id = true ∧ s.allNs.length < 4096 ∧ Tbl.find s.allNs
     new = none ∧ Tbl.find x.nss src = some ns ∧ x.dying = []) ∧
    (∃ (s : State) (u : State) (call : Nat) (p : Nat) (nsid : Nat) (id : Nat) (src : Nat) (c : Call) (ns : Ns), s.libCall call 67 =
     some c ∧ nsid = callArg c.entry 0 ∧ u = { s with freeCtr := s.freeCtr + 1 } ∧ callSlot c.entry = 67 ∧ Tbl.find s.allNs nsid
     = some (p, ns) ∧ s.owns p = true ∧ ns.snap = some (id, src) ∧ isView (s.pool p) nsid = false ∧ (s.pool p).dying = [] ∧
     Tbl.sorted (s.pool p).nss = true) ∧
    (∃ (s : State) (u : State) (call : Nat) (c : Call), s.libCall call 68 = some c ∧ u = { s with freeCtr := s.freeCtr + 1 } ∧
     callSlot c.entry = 68) ∧
    (∃ (s : State) (u : State) (call : Nat) (n : Nat) (c : Call), s.libCall call 73 = some c ∧ n = min 1 (callPlen c.entry / 64) ∧ u
     = { s with freeCtr := s.freeCtr + 1 } ∧ callSlot c.entry = 73) ∧
    (∃ (s : State) (p : Nat) (id : Nat) (x : Pool), x = s.pool p ∧ ((∃ n ∈ x.snaps, n.id = id)) ∧ ((∃ q src, q ∈ x.nss ∧ q.2.snap =
     some (id, src) ∧ isView x q.1 = false)) ∧ x.nss.any (fun q => decide (q.2.snap = some (id, 1)) && !isView x q.1) = true) :=
  ⟨⟨(lib (poolS id) 64 [] : State), ({ lib (poolS id) 64 [] with freeCtr := 1 } : State), (0 : Nat), (0 : Nat), (callC 64 [] .running : Call), ((poolS id).pool 0 : Pool), by decide +kernel⟩,
   ⟨(poolS (fun p => { p with snapEpoch := 16384, dir := [(0, dirX)] }) : State), (0 : Nat), (0 : Nat), ((poolS (fun p => { p with snapEpoch := 16384, dir := [(0, dirX)] })).pool 0 : Pool), (dirX : DirE), by decide +kernel⟩,
   ⟨(lib (snpS) 65 [1] : State), ({ lib (snpS) 65 [1] with freeCtr := 1 } : State), (0 : Nat), (0 : Nat), (1 : Nat), (callC 65 [1] .running : Call), (snpS.pool 0 : Pool), by decide +kernel⟩,
   ⟨(poolS (fun p => { p with preserved := [presX] }) : State), (0 : Nat), ((poolS (fun p => { p with preserved := [presX] })).pool 0 : Pool), (presX : Preserved), by decide +kernel⟩,
   ⟨(lib (snpS) 66 [1, 1, 2] : State), ({ lib (snpS) 66 [1, 1, 2] with freeCtr := 1 } : State), (0 : Nat), (0 : Nat), (1 : Nat), (1 : Nat), (2 : Nat), (callC 66 [1, 1, 2] .running : Call), (snpS.pool 0 : Pool), (nsX : Ns), by decide +kernel⟩,
   ⟨(lib (expS) 67 [2] : State), ({ lib (expS) 67 [2] with freeCtr := 1 } : State), (0 : Nat), (0 : Nat), (2 : Nat), (1 : Nat), (1 : Nat), (callC 67 [2] .running : Call), ({ nsX with snap := some (1, 1) } : Ns), by decide +kernel⟩,
   ⟨(lib (snpS) 68 [0] : State), ({ lib (snpS) 68 [0] with freeCtr := 1 } : State), (0 : Nat), (callC 68 [0] .running : Call), by decide +kernel⟩,
   ⟨(libS 73 [] : State), ({ libS 73 [] with freeCtr := 1 } : State), (0 : Nat), (0 : Nat), (callC 73 [] .running : Call), by decide +kernel⟩,
   ⟨(expS : State), (0 : Nat), (1 : Nat), (expS.pool 0 : Pool), rfl, by decide +kernel, ⟨(2, { nsX with snap := some (1, 1) }), 1, by decide +kernel⟩, by decide +kernel⟩⟩

/-- Pool 0 holds namespace 1 and pair 0; chunk 1 is a valid chunk in unit 0 with an empty frame. -/
def repS (r : RPair) : State :=
  { nsS with pools := [(0, { nsS.pool 0 with
      pairs := [(0, r)], recs := [(1, { loc := 2 ^ 59, ref := 2 ^ 63 + 2 ^ 41 })],
      units := [(0, { a := 0, b := 4, next := 0, sealed := true, ridge := 0, front := true, order := 0 })] })] }
def srcR : RPair := { RPair.fresh true with connected := true, nsid := 1 }
def itemX : RItem := { kind := 0, pos := 0, key := [], recs := zeros 48, handles := [1] }

/-- A source in a round of one item. -/
def rndR : RPair := { srcR with round := 1, curSnap := some 1, items := [itemX], sent := 1 }

/-- Port 0 of the host side has a link under MACsec. -/
def macS (s : State) : State :=
  { s with
    regs := [(0x200000, 2 ^ 11)],
    host := { s.host with subs := [(0, { SubPort.fresh with
      up := true, inUse := some 0,
      sas := [{ tx := true, sci := 1, an := 0, key := [], pn := 1 }, { tx := false, sci := 2, an := 0, key := [], pn := 1 }] })] } }

/-- A call whose parameter block of up to 1,024 bytes lies in a buffer of ridge 0. -/
def libP (s : State) (slot : Nat) (args : List Nat) (d : Bytes) : State :=
  { s with
    calls := [(0, { callC slot args .running with entry := callB slot d.length args, param := mkH 0 0 0 1024 })],
    bufs := [(0, { base := 0, grans := 1, bytes := 1024, owner := 0 })], mem := Mem.writeBytes s.mem (bufBase 0) d }
def callP (slot : Nat) (args : List Nat) (d : Bytes) : Call :=
  { callC slot args .running with entry := callB slot d.length args, param := mkH 0 0 0 1024 }
def pairD : Bytes := leBytes 4 1 ++ leBytes 4 9 ++ zeros 4 ++ leBytes 4 10 ++ zeros 48
def dedS : State := { nsS with pools := [(0, { nsS.pool 0 with cfg := { (nsS.pool 0).cfg with dedup := true } })] }

/-- States and operands that meet the hypotheses of each clause of `Obligations.ReplicationAtTheSource`. -/
theorem witness_replicationAtTheSource :
    (∃ (s : State) (p : Nat) (n : Nat) (typ : Nat) (i : Instr) (m : Bytes) (marks : List (Nat × Nat × Nat × Nat)) (r : RPair), (i,
     typ) ∈ [(.helloAck p n m, 2), (.manifest p n m, 3), (.want p n m marks, 4), (.replChunks p n m, 5), (.applied p n m, 6),
     (.roundEnd p n m, 7), (.roundDone p n m, 8), (.fetch p n m marks, 9), (.fetchReply p n m, 10), (.replError p n m, 11)] ∧
     s.pairOf p n = some r ∧ r.connected = true ∧ s.owns p = true ∧ 32 ≤ m.length ∧ fieldAt m 0 2 = 0x5E1A ∧ fieldAt m 2 1 = typ
     ∧ fieldAt m 0x1C 4 = crc32c (m.take 0x1C) ∧ fieldAt m 4 4 ≤ 4194304 ∧ m.length = 32 + fieldAt m 4 4) ∧
    (∃ (s : State) (p : Nat) (n : Nat) (typ : Nat) (i : Instr) (m : Bytes) (marks : List (Nat × Nat × Nat × Nat)) (r : RPair), (i,
     typ) ∈ [(.helloAck p n m, 2), (.manifest p n m, 3), (.want p n m marks, 4), (.replChunks p n m, 5), (.applied p n m, 6),
     (.roundEnd p n m, 7), (.roundDone p n m, 8), (.fetch p n m marks, 9), (.fetchReply p n m, 10), (.replError p n m, 11)] ∧
     s.pairOf p n = some r ∧ r.connected = true ∧ s.owns p = true ∧ 32 ≤ m.length ∧ fieldAt m 0 2 = 0x5E1A ∧ fieldAt m 2 1 = typ
     ∧ fieldAt m 0x1C 4 ≠ crc32c (m.take 0x1C)) ∧
    (∃ (s : State) (p : Nat) (n : Nat) (r : RPair), s.pairOf p n = some r ∧ r.connected = true ∧ Tbl.sorted s.pools = true ∧
     Tbl.sorted (s.pool p).pairs = true ∧ r.curSnap = none) ∧
    (∃ (s : State) (p : Nat) (n : Nat) (r : RPair), s.pairOf p n = some r ∧ r.connected = false) ∧
    (∃ (s : State) (u : State) (call : Nat) (p : Nat) (n : Nat) (c : Call) (x : Pool) (d : Bytes) (ns : Ns), s.libCall call 69 = some
     c ∧ p = callPool c.entry ∧ x = s.pool p ∧ d = s.paramBytes c ∧ u = { s with freeCtr := s.freeCtr + 1 } ∧ callSlot c.entry =
     69 ∧ s.owns p = true ∧ pairBlockOk d = true ∧ x.fill ≠ 2 ∧ Tbl.find x.nss (fieldAt d 0 4) = some ns ∧ ns.deleting = false ∧
     ns.snap = none ∧ ((∀ q ∈ s.allPairs, q.2.2.source = true → q.2.1 ≠ n))) ∧
    (∃ (s : State) (u : State) (call : Nat) (p : Nat) (c : Call) (x : Pool) (d : Bytes) (ns : Ns), s.libCall call 70 = some c ∧ p =
     callPool c.entry ∧ x = s.pool p ∧ d = s.paramBytes c ∧ u = { s with freeCtr := s.freeCtr + 1 } ∧ callSlot c.entry = 70 ∧
     s.owns p = true ∧ pairBlockOk d = true ∧ Tbl.find x.nss (fieldAt d 0 4) = some ns ∧ ns.deleting = false ∧ ns.snap = none ∧
     ns.target = false ∧ x.cfg.dedup = true ∧ fieldAt d 0x30 4 = 0) ∧
    (∃ (s : State) (u : State) (call : Nat) (n : Nat) (p : Nat) (k : Nat) (c : Call) (r : RPair), s.libCall call 71 = some c ∧ n =
     callArg c.entry 0 ∧ u = { s with freeCtr := s.freeCtr + 1 } ∧ callSlot c.entry = 71 ∧ s.allPairs.find? (fun q => decide
     (q.2.1 = n)) = some (p, k, r) ∧ s.owns p = true ∧ r.source = true ∧ r.connected = false) ∧
    (∃ (s : State) (u : State) (call : Nat) (k : Nat) (p : Nat) (n : Nat) (c : Call) (r : RPair), s.libCall call 72 = some c ∧ u = { s with freeCtr := s.freeCtr + 1 }
     ∧ k = min 1 (callPlen c.entry / 64) ∧ callSlot c.entry = 72 ∧ s.allPairs.find? (fun q => decide (q.2.1 = callArg c.entry
     0)) = some (p, n, r)) ∧
    (∃ (s : State) (p : Nat) (n : Nat) (r : RPair), s.pairOf p n = some r ∧ s.owns p = true ∧ r.source = true ∧ s.roundDue p n = true
     ∧ s.cutBusy p = false ∧ s.snapSpaced p = true ∧ (s.pool p).snaps.length < 65535 ∧ Tbl.sorted s.pools = true ∧ Tbl.sorted
     (s.pool p).pairs = true ∧ (s.pool p).dying = [] ∧ n < 2 ^ 32 ∧ r.round + 1 < 2 ^ 32 ∧ (s.pool p).snapEpoch < 2 ^ 63) ∧
    (∃ (s : State) (p : Nat) (n : Nat) (r : RPair), s.pairOf p n = some r ∧ s.owns p = true ∧ r.source = true ∧ r.retryAt.toNat ≤
     s.time.toNat ∧ r.connected = false ∧ s.secureHif r.hif = true) ∧
    (∃ (s : State) (u : State) (p : Nat) (n : Nat) (a : Nat) (m : Bytes) (r : RPair) (id : Nat), s.pairOf p n = some r ∧ r.connected
     = true ∧ s.owns p = true ∧ r.source = true ∧ msgBad 2 m = none ∧ a = fieldAt m 40 8 ∧ u = s.updPair p n (fun z => { z with backoff := 0, reason := 0 })
     ∧ fieldAt m 32 1 = 0 ∧ r.curSnap = some id ∧ a ≠ 2 ^ 64 - 1) ∧
    (∃ (s : State) (u : State) (p : Nat) (n : Nat) (item : Nat) (m : Bytes) (marks : List (Nat × Nat × Nat × Nat)) (r : RPair) (it :
     RItem) (f : Bytes), s.pairOf p n = some r ∧ r.connected = true ∧ s.owns p = true ∧ msgBad 4 m = none ∧ item = fieldAt m
     0x10 8 ∧ item ≠ 0 ∧ r.items[item - 1]? = some it ∧ m.drop 32 = [1] ∧ it.handles.length = 1 ∧ s.fetchFrame p
     (it.handles.getD 0 0) marks = (some f, u) ∧ f.length ≤ 1048576) ∧
    (∃ (s : State) (p : Nat) (n : Nat) (item : Nat) (m : Bytes) (r : RPair), s.pairOf p n = some r ∧ r.connected = true ∧ s.owns p =
     true ∧ msgBad 6 m = none ∧ item = fieldAt m 0x10 8 ∧ r.source = true ∧ item = r.applied + 1 ∧ r.applied + 1 ≤ r.sent ∧
     r.acked = [] ∧ (s.time - r.appliedAt).toNat < 10000000) ∧
    (∃ (s : State) (p : Nat) (n : Nat) (m : Bytes) (r : RPair), s.pairOf p n = some r ∧ r.connected = true ∧ s.owns p = true ∧ msgBad
     8 m = none ∧ r.source = true ∧ r.curSnap ≠ none ∧ r.applied = r.items.length) ∧
    (∃ (s : State) (u : State) (p : Nat) (n : Nat) (code : Nat) (m : Bytes) (r : RPair), s.pairOf p n = some r ∧ r.connected = true ∧
     s.owns p = true ∧ msgBad 11 m = none ∧ code = fieldAt m 32 1 ∧ u = s.updPair p n (fun z => { z with state := 3, reason := 4, retryAt := s.time + 6000000000 })
     ∧ code = 2 ∧ r.source = true) :=
  ⟨⟨(repS srcR : State), (0 : Nat), (0 : Nat), (2 : Nat), (.helloAck 0 0 (replMsg 2 0 1 0 (zeros 16)) : Instr), (replMsg 2 0 1 0 (zeros 16) : Bytes), ([] : List (Nat × Nat × Nat × Nat)), (srcR : RPair), by decide +kernel⟩,
   ⟨(repS srcR : State), (0 : Nat), (0 : Nat), (4 : Nat), (.want 0 0 (leBytes 2 0x5E1A ++ [4] ++ zeros 29) [] : Instr), (leBytes 2 0x5E1A ++ [4] ++ zeros 29 : Bytes), ([] : List (Nat × Nat × Nat × Nat)), (srcR : RPair), by decide +kernel⟩,
   ⟨(repS srcR : State), (0 : Nat), (0 : Nat), (srcR : RPair), by decide +kernel⟩,
   ⟨(repS (RPair.fresh true) : State), (0 : Nat), (0 : Nat), (RPair.fresh true : RPair), by decide +kernel⟩,
   ⟨(libP (nsS) 69 [] (pairD) : State), ({ libP (nsS) 69 [] (pairD) with freeCtr := 1 } : State), (0 : Nat), (0 : Nat), (0 : Nat), (callP 69 [] (pairD) : Call), (nsS.pool 0 : Pool), (pairD : Bytes), (nsX : Ns), by decide +kernel⟩,
   ⟨(libP (dedS) 70 [] (pairD) : State), ({ libP (dedS) 70 [] (pairD) with freeCtr := 1 } : State), (0 : Nat), (0 : Nat), (callP 70 [] (pairD) : Call), (dedS.pool 0 : Pool), (pairD : Bytes), (nsX : Ns), by decide +kernel⟩,
   ⟨(lib (repS (RPair.fresh true)) 71 [0] : State), ({ lib (repS (RPair.fresh true)) 71 [0] with freeCtr := 1 } : State), (0 : Nat), (0 : Nat), (0 : Nat), (0 : Nat), (callC 71 [0] .running : Call), (RPair.fresh true : RPair), by decide +kernel⟩,
   ⟨(lib (repS srcR) 72 [0] : State), ({ lib (repS srcR) 72 [0] with freeCtr := 1 } : State), (0 : Nat), (0 : Nat), (0 : Nat), (0 : Nat), (callC 72 [0] .running : Call), (srcR : RPair), by decide +kernel⟩,
   ⟨(repS srcR : State), (0 : Nat), (0 : Nat), (srcR : RPair), by decide +kernel⟩,
   ⟨(macS (repS (RPair.fresh true)) : State), (0 : Nat), (0 : Nat), (RPair.fresh true : RPair), by decide +kernel⟩,
   ⟨(repS rndR : State), ((repS rndR).updPair 0 0 (fun z => { z with backoff := 0, reason := 0 }) : State), (0 : Nat), (0 : Nat), (0 : Nat), (replMsg 2 0 1 0 (zeros 16) : Bytes), (rndR : RPair), (1 : Nat), by decide +kernel⟩,
   ⟨(repS rndR : State), (((repS rndR).fetchFrame 0 1 []).2 : State), (0 : Nat), (0 : Nat), (1 : Nat), (replMsg 4 0 1 1 ([1]) : Bytes), ([] : List (Nat × Nat × Nat × Nat)), (rndR : RPair), (itemX : RItem), ([] : Bytes), by decide +kernel⟩,
   ⟨(repS rndR : State), (0 : Nat), (0 : Nat), (1 : Nat), (replMsg 6 0 1 1 ([]) : Bytes), (rndR : RPair), by decide +kernel⟩,
   ⟨(repS { rndR with applied := 1 } : State), (0 : Nat), (0 : Nat), (replMsg 8 0 1 0 (zeros 8) : Bytes), ({ rndR with applied := 1 } : RPair), by decide +kernel⟩,
   ⟨(repS rndR : State), ((repS rndR).updPair 0 0 (fun z => { z with state := 3, reason := 4, retryAt := (repS rndR).time + 6000000000 }) : State), (0 : Nat), (0 : Nat), (2 : Nat), (replMsg 11 0 1 0 ([2] ++ zeros 15) : Bytes), (rndR : RPair), by decide +kernel⟩⟩

/-- A target pair of pool 0 with namespace 1; an item in hand that wants its chunk. -/
def tgtR : RPair := { RPair.fresh false with connected := true, nsid := 1, remotePool := zeros 16, round := 1 }
def wantX : RWork := { item := { itemX with handles := [] }, found := [], wants := [0], frames := [], fails := 0, busy := false }
def wrkR : RPair := { tgtR with work := [(1, wantX)] }

/-- Chunk 1 is live with one reference, and the source pair has asked for it under TAG 7. -/
def fchR : RPair := { srcR with fetches := [(7, 1, 0)] }
def lostS (r : RPair) : State :=
  { repS r with pools := [(0, { (repS r).pool 0 with recs := [(1, { loc := 2 ^ 59 + 2 ^ 60, ref := 2 ^ 63 + 2 ^ 41 })] })] }
def fidS : State :=
  { repS srcR with idxStore := [(0, [{ digest := zeros 32, len := 1, handle := 1, tomb := false }])] }

def fidV : State := (fidS.svcProbe fidS.libRidge 0 (zeros 32) 1 false).1

def manA : Bytes := leBytes 4 0 ++ leBytes 4 1 ++ zeros 32
def manB : Bytes := zeros 23 ++ [1] ++ leBytes 4 4096 ++ zeros 12
/-- A manifest of one record; its CRC is that of its two halves. -/
def manM : Bytes := replMsg 3 0 1 1 (manA ++ manB)
theorem manM_crc : crc32c (manA ++ manB) = 1994384973 := by
  have h : crcRun 0xFFFFFFFF#32 manA = 2506945438 := by decide +kernel
  unfold crc32c crcRun
  rw [List.foldl_append]
  unfold crcRun at h
  rw [h]
  decide +kernel
def manH : Bytes := leBytes 2 0x5E1A ++ leBytes 1 3 ++ [0] ++ leBytes 4 80 ++ leBytes 4 0 ++ leBytes 4 1 ++ leBytes 8 1 ++ leBytes 4 1994384973
theorem manM_eq : manM = manH ++ leBytes 4 (crc32c manH) ++ (manA ++ manB) := by
  unfold manM replMsg
  rw [manM_crc]
  rfl
theorem manM_ok : msgBad 3 manM = none := by
  rw [manM_eq]
  unfold msgBad
  rw [show List.drop 32 (manH ++ leBytes 4 (crc32c manH) ++ (manA ++ manB)) = manA ++ manB from rfl]
  simp only [manM_crc]
  decide +kernel

/-- States and operands that meet the hypotheses of each clause of `Obligations.ReplicationAtTheTarget`. -/
theorem witness_replicationAtTheTarget :
    (∃ (s : State) (m : Bytes) (round : Nat) (p : Nat) (n : Nat) (r : RPair), round = fieldAt m 0x0C 4 ∧ msgBad 1 m = none ∧
     s.allPairs = [(p, n, r)] ∧ r.source = false ∧ padTo 16 r.remotePool = sliceAt m 32 16 ∧ r.remote = fieldAt m 48 4 ∧ r.nsid
     = fieldAt m 52 4 ∧ s.owns p = true ∧ r.round = round ∧ s.pairOf p n = some r ∧ Tbl.sorted s.pools = true ∧ Tbl.sorted
     (s.pool p).pairs = true) ∧
    (∃ (s : State) (p : Nat) (n : Nat) (round : Nat) (item : Nat) (kind : Nat) (m : Bytes) (r : RPair) (ns : Ns) (q : Bytes),
     s.pairOf p n = some r ∧ r.connected = true ∧ s.owns p = true ∧ msgBad 3 m = none ∧ item = fieldAt m 0x10 8 ∧ round =
     fieldAt m 0x0C 4 ∧ kind = fieldAt m 32 1 ∧ r.source = false ∧ (s.pool p).fill ≠ 2 ∧ Tbl.find (s.pool p).nss r.nsid = some
     ns ∧ r.work = [] ∧ round = r.round ∧ 1 ≤ item ∧ item ≤ r.applied + 1 ∧ ns.kind = 0 ∧ kind = 0 ∧ fieldAt m 40 8 % 0x100000 =
     0 ∧ fieldAt m 40 8 < ns.size ∧ m.length = 112 ∧ q = m.drop 64 ∧ bit (fieldAt q 0x24 4) 1 = false ∧ (s.svcProbe s.libRidge p
     (sliceAt q 0 32) (fieldAt q 0x20 4) false).2 = none ∧ Tbl.sorted s.pools = true ∧ Tbl.sorted (s.pool p).pairs = true) ∧
    (∃ (s : State) (p : Nat) (n : Nat) (item : Nat) (i : Nat) (m : Bytes) (f : Bytes) (r : RPair) (w : RWork), s.pairOf p n = some r
     ∧ r.connected = true ∧ s.owns p = true ∧ msgBad 5 m = none ∧ item = fieldAt m 0x10 8 ∧ Tbl.sorted s.pools = true ∧
     Tbl.sorted (s.pool p).pairs = true ∧ chunkEntries (m.length - 31) (m.drop 32) = some [(i, f)] ∧ Tbl.find r.work item = some
     w ∧ i ∈ w.wants ∧ decodeChunk (s.nsProfile p r.nsid) f (fieldAt (rec48 w i) 0x20 4) = none ∧ w.fails < 2) ∧
    (∃ (s : State) (p : Nat) (n : Nat) (m : Bytes) (r : RPair), s.pairOf p n = some r ∧ r.connected = true ∧ s.owns p = true ∧ msgBad
     7 m = none ∧ r.source = false ∧ r.work = [] ∧ r.applied = fieldAt m 32 8 ∧ s.cutBusy p = false ∧ s.snapSpaced p = true ∧
     (s.pool p).snaps.length < 65535 ∧ r.viewNsid = 0 ∧ r.curSnap = none ∧ (s.pool p).dying = [] ∧ Tbl.sorted s.pools = true ∧
     Tbl.sorted (s.pool p).pairs = true ∧ (s.pool p).snapEpoch < 2 ^ 63) ∧
    (∃ (s : State) (p : Nat) (h : Nat) (x : Pool) (n : Nat) (r : RPair), x = s.pool p ∧ s.owns p = true ∧ (x.rec' h).live = true ∧
     (x.rec' h).lost = true ∧ ((∃ q ∈ x.pairs, q.2.source = true)) ∧ ((∀ q ∈ x.pairs, ∀ f ∈ q.2.fetches, f.2.1 ≠ h)) ∧ x.pairs =
     [(n, r)] ∧ r.connected = true ∧ Tbl.getD x.asked h 0 ≤ n ∧ Tbl.find s.pools p = some x) ∧
    (∃ (s : State) (u : State) (v : State) (p : Nat) (n : Nat) (m : Bytes) (tag : Bytes) (marks : List (Nat × Nat × Nat × Nat)) (r :
     RPair) (found : Option Nat) (h : Nat) (f : Bytes), s.pairOf p n = some r ∧ r.connected = true ∧ s.owns p = true ∧ msgBad 9
     m = none ∧ tag = sliceAt m 32 8 ∧ s.svcProbe s.libRidge p (sliceAt m 40 32) (fieldAt m 72 4) false = (v, found) ∧ found =
     some h ∧ refTakable (v.pool p) h = true ∧ v.fetchFrame p h marks = (some f, u)) ∧
    (∃ (s : State) (u : State) (p : Nat) (n : Nat) (h : Nat) (m : Bytes) (r : RPair), s.pairOf p n = some r ∧ r.connected = true ∧
     s.owns p = true ∧ msgBad 10 m = none ∧ s.fetchTake p n (fieldAt m 32 8) = some (h, u) ∧ fieldAt m 40 1 ≠ 0) ∧
    (∃ (s : State) (u : State) (p : Nat) (n : Nat) (tag : Nat) (h : Nat) (r : RPair) (since : W64), s.pairOf p n = some r ∧
     r.fetches.find? (fun f => decide (f.1 = tag)) = some (tag, h, since) ∧ 1000000000 ≤ (s.time - since).toNat ∧ s.fetchTake p
     n tag = some (h, u)) :=
  ⟨⟨(repS tgtR : State), (replMsg 1 0 1 0 (zeros 20 ++ leBytes 4 1 ++ zeros 8) : Bytes), (1 : Nat), (0 : Nat), (0 : Nat), (tgtR : RPair), by decide +kernel⟩,
   ⟨(repS tgtR : State), (0 : Nat), (0 : Nat), (1 : Nat), (1 : Nat), (0 : Nat), (manM : Bytes), (tgtR : RPair), (nsX : Ns), (manM.drop 64 : Bytes), by decide +kernel, by decide +kernel, by decide +kernel, manM_ok, by (with_reducible and_intros) <;> decide +kernel⟩,
   ⟨(repS wrkR : State), (0 : Nat), (0 : Nat), (1 : Nat), (0 : Nat), (replMsg 5 0 1 1 (chunkEntry 0 [9]) : Bytes), ([9] : Bytes), (wrkR : RPair), (wantX : RWork), by decide +kernel⟩,
   ⟨(repS { tgtR with applied := 1 } : State), (0 : Nat), (0 : Nat), (replMsg 7 0 1 0 (leBytes 8 1) : Bytes), ({ tgtR with applied := 1 } : RPair), by decide +kernel⟩,
   ⟨(lostS srcR : State), (0 : Nat), (1 : Nat), ((lostS srcR).pool 0 : Pool), (0 : Nat), (srcR : RPair), by decide +kernel⟩,
   ⟨(fidS : State), ((fidV.fetchFrame 0 1 []).2 : State), (fidV : State), (0 : Nat), (0 : Nat), (replMsg 9 0 1 0 (zeros 40 ++ leBytes 4 1 ++ zeros 4) : Bytes), (zeros 8 : Bytes), ([] : List (Nat × Nat × Nat × Nat)), (srcR : RPair), (some 1 : Option Nat), (1 : Nat), ([] : Bytes), by decide +kernel⟩,
   ⟨(repS fchR : State), ((repS fchR).updPair 0 0 (fun z => { z with fetches := z.fetches.filter (fun g => decide (g.1 ≠ 7)) }) : State), (0 : Nat), (0 : Nat), (1 : Nat), (replMsg 10 0 1 0 (leBytes 8 7 ++ [1] ++ zeros 7) : Bytes), (fchR : RPair), by decide +kernel⟩,
   ⟨({ repS fchR with time := 1000000000 } : State), (({ repS fchR with time := 1000000000 } : State).updPair 0 0 (fun z => { z with fetches := z.fetches.filter (fun g => decide (g.1 ≠ 7)) }) : State), (0 : Nat), (0 : Nat), (7 : Nat), (1 : Nat), (fchR : RPair), (0 : W64), by decide +kernel⟩⟩

/-- Queue 0 of port 0, and a host side with it; command 0 of it on namespace 1. -/
def qX : HQueue :=
  { port := 0, sub := 0, ridge := 0, rdma := false, depth := 16, sqhd := 0, heldSqhd := none, cntlid := 0, qid := 1, hdgst := false,
    ddgst := false, grant := 4, authed := true, frozen := false, stopped := false, lostAt := none, kato := 0, heardAt := 0 }
def qS (s : State) : State := { s with host := { s.host with queues := [(0, qX)] } }
def opC (op : HostOp) : HCmd := { cmdX with cap := { capX with op := op, len := 8, sgl := 8 } }
def opS (op : HostOp) : State := cmdS (qS nsS) (opC op)

/-- Pool 0 with a key-value namespace 1 that holds one object, under key 5. -/
def objX : Obj := { key := [5], len := 8, base := 0, time := 0 }
def kvC (op : HostOp) : HCmd := { cmdX with cap := { capX with op := op, key := [5], len := 8, sgl := 8 } }
def kvS (op : HostOp) : State :=
  cmdS (qS { nsS with pools := [(0, { nsS.pool 0 with nss := [(1, { nsX with kind := 1, size := 0, objs := [objX] })] })] }) (kvC op)
def wplX : WPlan := mkPlan 0 1 [zeroItem (0, 0, 3)] none false

/-- States and operands that meet the hypotheses of each clause of `Obligations.HostCommandsAct`. -/
theorem witness_hostCommandsAct :
    (∃ (s : State) (n : Nat) (i : Instr) (op : HostOp) (marks : List (Nat × Nat × Nat × Nat)) (c : HCmd), (i, op) ∈ [(.read n marks,
     .read), (.verify n marks, .verify), (.write n marks, .write), (.flush n, .flush), (.writeZeroes n, .writeZeroes),
     (.datasetManagement n, .dsm), (.copy n marks, .copy), (.store n marks, .store), (.delete n, .delete), (.retrieve n marks,
     .retrieve), (.exist n, .exist), (.list n, .list), (.abort n, .abort)] ∧ s.runCmd n [op] = some c ∧ op ≠ .flush ∧ op ≠
     .abort) ∧
    (∃ (s : State) (n : Nat) (i : Instr) (op : HostOp) (marks : List (Nat × Nat × Nat × Nat)) (c : HCmd), (i, op) ∈ [(.read n marks,
     .read), (.verify n marks, .verify), (.write n marks, .write), (.flush n, .flush), (.writeZeroes n, .writeZeroes),
     (.datasetManagement n, .dsm), (.copy n marks, .copy), (.store n marks, .store), (.delete n, .delete), (.retrieve n marks,
     .retrieve), (.exist n, .exist), (.list n, .list), (.abort n, .abort)] ∧ s.runCmd n [op] = some c ∧ s.parked c = false ∧
     s.serves c = false ∧ c.lost = false ∧ op ≠ .write ∧ op ≠ .store) ∧
    (∃ (s : State) (n : Nat) (c : HCmd) (q : HQueue), s.runCmd n [.flush] = some c ∧ c.climb = none ∧ c.fwd = none ∧ c.lost = false ∧
     c.rdata = [] ∧ s.outputsHeld c = false ∧ Tbl.find s.host.queues c.queue = some q ∧ s.pair.solo = true ∧ s.pair.joining =
     false ∧ Tbl.sorted s.host.cmds = true) ∧
    (∃ (s : State) (n : Nat) (c : HCmd), s.runCmd n [.flush] = some c) ∧
    (∃ (s : State) (n : Nat) (c : HCmd), s.runCmd n [.abort] = some c) ∧
    (∃ (s : State) (n : Nat) (op : HostOp) (marks : List (Nat × Nat × Nat × Nat)) (c : HCmd) (p : Nat) (src : Nat) (snap : Option
     Nat) (ps : List (Nat × Nat × Nat)) (d : Bytes) (u : State), s.runCmd n [op] = some c ∧ s.parked c = false ∧ s.serves c =
     true ∧ c.lost = false ∧ s.view c = some (p, snap, src) ∧ ps = s.readPlaces c p src c.cap.start c.cap.len ∧ s.fetchPlaces n
     c p snap ps marks = (some d, u)) ∧
    (∃ (s : State) (n : Nat) (op : HostOp) (marks : List (Nat × Nat × Nat × Nat)) (c : HCmd) (p : Nat) (src : Nat) (snap : Option
     Nat) (o : Obj) (d : Bytes) (u : State), s.runCmd n [op] = some c ∧ s.parked c = false ∧ s.serves c = true ∧ c.lost = false
     ∧ s.view c = some (p, snap, src) ∧ ((∀ m ∈ keyPages (s.pool p) snap src c.cap.key false, s.absentPage p m = false)) ∧
     s.objOf p snap src c.cap.key = some o ∧ s.fetchPlaces n c p snap (pitchesOf o.base 0 (min o.len c.cap.len)) marks = (some
     d, u)) ∧
    (∃ (s : State) (p : Nat) (ln : Nat) (a : Nat) (len : Nat) (snap : Option Nat) (l : Line), l = lineAt (s.pool p) snap ln ∧ ((∀ m ∈
     pagesOf (s.pool p) snap [ln], s.absentPage p m = false)) ∧ ((∀ z ∈ placed (s.pool p) l a len, z.1 ≠ 0 → s.absentPage p
     ((s.pool p).num * 2 ^ 44 + 2 ^ 43 + z.1 / 256) = false)) ∧ l.runs = [] ∧ l.holds = []) ∧
    (∃ (s : State) (n : Nat) (p : Nat) (c : HCmd) (d : Bytes) (t : State) (ns : Ns) (u : State), s.parked c = false ∧ s.getData n c =
     (some d, t) ∧ c.fwd = none ∧ t.serves c = true ∧ t.nsPool c.cap.nsid = some p ∧ s.runCmd n [.write] = some c ∧ Tbl.find
     (t.pool p).nss c.cap.nsid = some ns ∧ t.needPages p c.climb (writePages (t.pool p) ((pitchesOf ns.base c.cap.start
     c.cap.len).map Prod.fst)) = (false, u)) ∧
    (∃ (s : State) (n : Nat) (op : HostOp) (c : HCmd) (q : HQueue), op ∈ [HostOp.write, .store] ∧ s.runCmd n [op] = some c ∧ c.cap.op
     = op ∧ s.parked c = false ∧ c.fwd = none ∧ c.cap.inline = none ∧ dataIn c = false ∧ s.hqueue c.queue = some q) ∧
    (∃ (s : State) (n : Nat) (p : Nat) (i : Instr) (op : HostOp) (c : HCmd) (ns : Ns) (rs : List (Nat × Nat)) (zs : List (Nat × Nat ×
     Nat)) (u : State), (i, op, rs) ∈ [(.writeZeroes n, .writeZeroes, [(c.cap.start, c.cap.len)]), (.datasetManagement n, .dsm,
     c.cap.ranges)] ∧ s.runCmd n [op] = some c ∧ s.parked c = false ∧ c.cap.op = op ∧ s.serves c = true ∧ s.nsPool c.cap.nsid =
     some p ∧ Tbl.find (s.pool p).nss c.cap.nsid = some ns ∧ zs = (rs.flatMap (fun r => zeroPieces ns.base (r.2 / 4096 + 2) r.1
     r.2)).eraseDups ∧ s.needPages p c.climb (writePages (s.pool p) (zs.map Prod.fst)) = (false, u)) ∧
    (∃ (s : State) (u : State) (v : State) (n : Nat) (p : Nat) (marks : List (Nat × Nat × Nat × Nat)) (c : HCmd) (ns : Ns) (a : List
     (Nat × Nat × Nat)) (b : List (Nat × Nat × Nat)) (d : Bytes), s.runCmd n [.copy] = some c ∧ c.cap.op = .copy ∧ s.parked c =
     false ∧ s.serves c = true ∧ s.nsPool c.cap.nsid = some p ∧ Tbl.find (s.pool p).nss c.cap.nsid = some ns ∧ a = pitchesOf
     ns.base (c.cap.ranges.headD (0, 0)).1 c.cap.len ∧ b = pitchesOf ns.base c.cap.start c.cap.len ∧ s.needPages p c.climb
     (writePages (s.pool p) ((a ++ b).map Prod.fst)) = (false, u) ∧ u.fetchPlaces n c p none a marks = (some d, v)) ∧
    (∃ (s : State) (u : State) (n : Nat) (p : Nat) (c : HCmd) (o : Obj), s.runCmd n [.delete] = some c ∧ c.cap.op = .delete ∧
     s.parked c = false ∧ s.serves c = true ∧ s.nsPool c.cap.nsid = some p ∧ s.objOf p none c.cap.nsid c.cap.key = some o ∧
     s.needPages p c.climb (keyPages (s.pool p) none c.cap.nsid c.cap.key true ++ writePages (s.pool p) ((List.range (ceilDiv
     o.len 0x100000)).map (fun i => o.base + i))).eraseDups = (false, u)) ∧
    (∃ (s : State) (u : State) (v : State) (need : Nat) (w : WPlan), need = (if (s.pool w.pool).fill = 1 then s.budgetOf w.pool
     w.items else 0) ∧ u = s.updPool w.pool (fun x => { x with budget := x.budget - need }) ∧ v = u.heatUp w.pool w.items ∧ need
     ≤ (s.pool w.pool).budget) :=
  ⟨⟨(opS .write : State), (0 : Nat), (.write 0 [] : Instr), (.write : HostOp), ([] : List (Nat × Nat × Nat × Nat)), (opC .write : HCmd), by decide +kernel⟩,
   ⟨(cmdS (qS State.reset) (opC .read) : State), (0 : Nat), (.read 0 [] : Instr), (.read : HostOp), ([] : List (Nat × Nat × Nat × Nat)), (opC .read : HCmd), by decide +kernel⟩,
   ⟨({ opS .flush with pair := { State.reset.pair with solo := true }, rope := { State.reset.rope with leaseTo := 1 } } : State), (0 : Nat), (opC .flush : HCmd), (qX : HQueue), by decide +kernel⟩,
   ⟨(opS .flush : State), (0 : Nat), (opC .flush : HCmd), by decide +kernel⟩,
   ⟨(opS .abort : State), (0 : Nat), (opC .abort : HCmd), by decide +kernel⟩,
   ⟨(opS .read : State), (0 : Nat), (.read : HostOp), ([] : List (Nat × Nat × Nat × Nat)), (opC .read : HCmd), (0 : Nat), (1 : Nat), (none : Option Nat), ((opS .read).readPlaces (opC .read) 0 1 0 8 : List (Nat × Nat × Nat)), (((opS .read).fetchPlaces 0 (opC .read) 0 none ((opS .read).readPlaces (opC .read) 0 1 0 8) []).1.getD [] : Bytes), (((opS .read).fetchPlaces 0 (opC .read) 0 none ((opS .read).readPlaces (opC .read) 0 1 0 8) []).2 : State), by decide +kernel⟩,
   ⟨(kvS .retrieve : State), (0 : Nat), (.retrieve : HostOp), ([] : List (Nat × Nat × Nat × Nat)), (kvC .retrieve : HCmd), (0 : Nat), (1 : Nat), (none : Option Nat), (objX : Obj), (((kvS .retrieve).fetchPlaces 0 (kvC .retrieve) 0 none (pitchesOf objX.base 0 (min objX.len (kvC .retrieve).cap.len)) []).1.getD [] : Bytes), (((kvS .retrieve).fetchPlaces 0 (kvC .retrieve) 0 none (pitchesOf objX.base 0 (min objX.len (kvC .retrieve).cap.len)) []).2 : State), by decide +kernel⟩,
   ⟨(opS .read : State), (0 : Nat), (0 : Nat), (0 : Nat), (8 : Nat), (none : Option Nat), (lineAt ((opS .read).pool 0) none 0 : Line), by decide +kernel⟩,
   ⟨(cmdS (qS nsS) { cmdX with cap := { capX with len := 8, inline := some (zeros 8) } } : State), (0 : Nat), (0 : Nat), ({ cmdX with cap := { capX with len := 8, inline := some (zeros 8) } } : HCmd), (zeros 8 : Bytes), (cmdS (qS nsS) { cmdX with cap := { capX with len := 8, inline := some (zeros 8) } } : State), (nsX : Ns), (((cmdS (qS nsS) { cmdX with cap := { capX with len := 8, inline := some (zeros 8) } }).needPages 0 none (writePages ((cmdS (qS nsS) { cmdX with cap := { capX with len := 8, inline := some (zeros 8) } }).pool 0) ((pitchesOf 0 0 8).map Prod.fst))).2 : State), by decide +kernel⟩,
   ⟨(opS .write : State), (0 : Nat), (.write : HostOp), (opC .write : HCmd), (qX : HQueue), by decide +kernel⟩,
   ⟨(opS .writeZeroes : State), (0 : Nat), (0 : Nat), (.writeZeroes 0 : Instr), (.writeZeroes : HostOp), (opC .writeZeroes : HCmd), (nsX : Ns), ([(0, 8)] : List (Nat × Nat)), (([(0, 8)].flatMap (fun r => zeroPieces 0 (r.2 / 4096 + 2) r.1 r.2)).eraseDups : List (Nat × Nat × Nat)), (((opS .writeZeroes).needPages 0 none (writePages ((opS .writeZeroes).pool 0) ((([(0, 8)].flatMap (fun r => zeroPieces 0 (r.2 / 4096 + 2) r.1 r.2)).eraseDups).map Prod.fst))).2 : State), by decide +kernel⟩,
   ⟨(cmdS (qS nsS) { cmdX with cap := { capX with op := .copy, len := 8, sgl := 8, ranges := [(8, 8)] } } : State), (((cmdS (qS nsS) { cmdX with cap := { capX with op := .copy, len := 8, sgl := 8, ranges := [(8, 8)] } }).needPages 0 none (writePages ((cmdS (qS nsS) { cmdX with cap := { capX with op := .copy, len := 8, sgl := 8, ranges := [(8, 8)] } }).pool 0) ((pitchesOf 0 8 8 ++ pitchesOf 0 0 8).map Prod.fst))).2 : State), (((cmdS (qS nsS) { cmdX with cap := { capX with op := .copy, len := 8, sgl := 8, ranges := [(8, 8)] } }).fetchPlaces 0 { cmdX with cap := { capX with op := .copy, len := 8, sgl := 8, ranges := [(8, 8)] } } 0 none (pitchesOf 0 8 8) []).2 : State), (0 : Nat), (0 : Nat), ([] : List (Nat × Nat × Nat × Nat)), ({ cmdX with cap := { capX with op := .copy, len := 8, sgl := 8, ranges := [(8, 8)] } } : HCmd), (nsX : Ns), (pitchesOf 0 8 8 : List (Nat × Nat × Nat)), (pitchesOf 0 0 8 : List (Nat × Nat × Nat)), (zeros 8 : Bytes), by decide +kernel⟩,
   ⟨(kvS .delete : State), (kvS .delete : State), (0 : Nat), (0 : Nat), (kvC .delete : HCmd), (objX : Obj), by decide +kernel⟩,
   ⟨(nsS : State), (nsS.updPool wplX.pool (fun x => { x with budget := x.budget - 0 }) : State), ((nsS.updPool wplX.pool (fun x => { x with budget := x.budget - 0 })).heatUp wplX.pool wplX.items : State), (0 : Nat), (wplX : WPlan), by decide +kernel⟩⟩

/-- Sub-port 0 of port 0 is on and up, and a host of the NQN 9 may connect to the subsystem 7. -/
def hostX : HostEntry := { nqn := [9], flags := 1, hash := 0, dh := 0, secret := [], ctrl := [] }
def hifS : State :=
  { regS [(0x200000, 1 + 2 ^ 3)] with
    host := { State.reset.host with subs := [(0, { SubPort.fresh with up := true })], nqn := [7], hosts := [hostX] } }
def ctrlX : HCtrl :=
  { nqn := [9], port := 0, sub := 0, errors := [], errCount := 0, anaNotice := false, nsNotice := false, changed := [] }
def ctlS : State := { hifS with host := { hifS.host with ctrls := [(0, ctrlX)], queues := [(0, { qX with qid := 0, kato := 100 })] } }
def saX : SecAssoc := { tx := false, sci := 1, an := 0, key := zeros 32, pn := 1 }
def subS (x : SubPort) : State := { State.reset with host := { State.reset.host with subs := [(0, x)] } }

/-- States and operands that meet the hypotheses of each clause of `Obligations.PortsAndConnections`. -/
theorem witness_portsAndConnections :
    (∃ (s : State) (p : Nat) (i : Nat) (x : SubPort), x = s.subPort p i ∧ x.up = false ∧ s.subOn p i = true ∧ 4 ≤ s.pwr.mode ∧
     s.pwr.mode ≤ 10) ∧
    (∃ (s : State) (core : Nat) (p : Nat) (v : W64), s.gate (0x20 + core % 4) (hifBlk p) 8 true = .open ∧ bit (s.regBits (hifBlk p) 0
     19) 0 = true ∧ bits (v.toNat % 2 ^ 19) 1 10 ≠ bits (s.regBits (hifBlk p) 0 19) 1 10) ∧
    (∃ (s : State) (p : Nat) (i : Nat) (sci : Nat) (an : Nat) (pn : Nat) (ok : Bool) (x : SubPort) (a : SecAssoc), x = s.subPort p i
     ∧ x.sas = [a] ∧ a.tx = false ∧ a.sci = sci ∧ a.an = an % 4 ∧ a.pn ≤ pn ∧ ok = true) ∧
    (∃ (s : State) (p : Nat) (i : Nat) (key : Bytes) (x : SubPort), x = s.subPort p i ∧ key.length = 32 ∧ x.mka = true ∧ x.sas = [] ∧
     s.wdn.trngOk = true) ∧
    (∃ (s : State) (p : Nat) (i : Nat) (cid : Nat) (qid : Nat) (depth : Nat) (grant : Nat) (kato : Nat) (nqn : Bytes) (sub : Bytes)
     (rdma : Bool) (hd : Bool) (dd : Bool) (i' : Instr) (h : HostEntry) (id : Nat), i' = .connect p i cid qid depth nqn sub rdma
     hd dd grant kato ∧ s.carries p i = true ∧ s.hostEntry nqn = some h ∧ bit h.flags 0 = true ∧ sub = s.host.nqn ∧ qid = 0 ∧ 1
     ≤ depth ∧ depth ≤ 32 ∧ Tbl.firstFree s.host.ctrls s.ctrlBase 1024 = some id) ∧
    (∃ (s : State) (p : Nat) (i : Nat) (cid : Nat) (qid : Nat) (depth : Nat) (grant : Nat) (kato : Nat) (nqn : Bytes) (sub : Bytes)
     (rdma : Bool) (hd : Bool) (dd : Bool) (i' : Instr) (h : HostEntry) (k : HCtrl) (n : Nat), i' = .connect p i cid qid depth
     nqn sub rdma hd dd grant kato ∧ s.carries p i = true ∧ s.hostEntry nqn = some h ∧ bit h.flags 0 = true ∧ sub = s.host.nqn ∧
     qid ≠ 0 ∧ Tbl.find s.host.ctrls cid = some k ∧ Tbl.firstFree s.host.queues 0 65536 = some n ∧ qid ≤ 128 ∧ 1 ≤ depth ∧ depth
     ≤ 4096 ∧ k.nqn = nqn ∧ k.port = p ∧ k.sub = i ∧ ((∀ x ∈ s.host.queues, ¬ (x.2.cntlid = cid ∧ x.2.qid = qid)))) ∧
    (∃ (s : State) (n : Nat) (q : HQueue) (k : HCtrl), s.hqueue n = some q ∧ q.lostAt = none ∧ Tbl.find s.host.ctrls q.cntlid = some
     k) ∧
    (∃ (s : State) (n : Nat) (q : HQueue) (at' : W64), s.hqueue n = some q ∧ q.lostAt = some at' ∧ 5000000 ≤ (s.time - at').toNat ∧
     s.cmdsOf n = []) ∧
    (∃ (s : State) (cid : Nat) (n : Nat) (q : HQueue), s.host.queues = [(n, q)] ∧ q.cntlid = cid ∧ q.qid = 0 ∧ q.lostAt = none ∧
     q.kato ≠ 0 ∧ q.heardAt.toNat + ceilDiv q.kato 100 * 10000000 ≤ s.time.toNat) ∧
    (∃ (s : State) (u : State) (call : Nat) (port : Nat) (br : Nat) (en : Nat) (c : Call) (d : Bytes), s.libCall call 80 = some c ∧
     port = callArg c.entry 0 ∧ br = callArg c.entry 1 ∧ en = callArg c.entry 2 ∧ d = s.paramBytes c ∧ u = { s with freeCtr := s.freeCtr + 1 }
     ∧ callSlot c.entry = 80 ∧ port < 8 ∧ br ≤ 3 ∧ en < 2 ^ 2 ^ br ∧ s.hifPresent port = true ∧ callPlen c.entry = 96 * popcount
     en ∧ (portEntries d).length = popcount en ∧ (portEntries d).all (portEntryOk en (2 ^ br)) = true ∧ ((portEntries d).map
     (fun e => fieldAt e 0 1)).eraseDups.length = (portEntries d).length ∧ s.regBit (hifBlk port) 0 = false) ∧
    (∃ (s : State) (u : State) (call : Nat) (port : Nat) (i : Nat) (c : Call), s.libCall call 81 = some c ∧ port = callArg c.entry 0
     ∧ i = callArg c.entry 1 ∧ u = { s with freeCtr := s.freeCtr + 1 } ∧ callSlot c.entry = 81 ∧ s.ladderServes false = true ∧
     port < 8 ∧ i < 8 ∧ s.hifPresent port = true ∧ callPlen c.entry = 64) ∧
    (∃ (s : State) (u : State) (call : Nat) (c : Call) (d : Bytes) (nqn : Bytes), s.libCall call 82 = some c ∧ d = s.paramBytes c ∧
     nqn = trimZ (d.take 256) ∧ u = { s with freeCtr := s.freeCtr + 1 } ∧ callSlot c.entry = 82 ∧ s.ladderServes false = true ∧
     callPlen c.entry = 512 ∧ nqn ≠ [] ∧ fieldAt d 0x100 4 ≤ 7 ∧ fieldAt d 0x104 1 ≤ 3 ∧ fieldAt d 0x105 1 ≤ 6 ∧ bit (fieldAt d
     0x100 4) 2 = false) ∧
    (∃ (s : State) (u : State) (call : Nat) (c : Call) (nqn : Bytes), s.libCall call 83 = some c ∧ nqn = trimZ (s.paramBytes c) ∧ u =
     { s with freeCtr := s.freeCtr + 1 } ∧ callSlot c.entry = 83 ∧ callPlen c.entry = 256 ∧ nqn ≠ []) ∧
    (∃ (s : State) (u : State) (call : Nat) (port : Nat) (c : Call), s.libCall call 84 = some c ∧ port = callArg c.entry 0 ∧ u = { s with freeCtr := s.freeCtr + 1 }
     ∧ callSlot c.entry = 84 ∧ port < 8 ∧ s.hifPresent port = true) :=
  ⟨⟨({ hifS with host := { hifS.host with subs := [] }, pwr := { hifS.pwr with mode := 4 } } : State), (0 : Nat), (0 : Nat), (SubPort.fresh : SubPort), by decide +kernel⟩,
   ⟨({ mgS with regs := [(0x200000, 1)] } : State), (0 : Nat), (0 : Nat), (3 : W64), by decide +kernel⟩,
   ⟨(subS { SubPort.fresh with sas := [saX] } : State), (0 : Nat), (0 : Nat), (1 : Nat), (0 : Nat), (1 : Nat), (true : Bool), ({ SubPort.fresh with sas := [saX] } : SubPort), (saX : SecAssoc), by decide +kernel⟩,
   ⟨({ subS { SubPort.fresh with mka := true } with wdn := { State.reset.wdn with trngOk := true } } : State), (0 : Nat), (0 : Nat), (zeros 32 : Bytes), ({ SubPort.fresh with mka := true } : SubPort), by decide +kernel⟩,
   ⟨(hifS : State), (0 : Nat), (0 : Nat), (0 : Nat), (0 : Nat), (32 : Nat), (4 : Nat), (0 : Nat), ([9] : Bytes), ([7] : Bytes), (false : Bool), (false : Bool), (false : Bool), ((.connect 0 0 0 0 32 ([9] : Bytes) ([7] : Bytes) false false false 4 0) : Instr), (hostX : HostEntry), (hifS.ctrlBase : Nat), by decide +kernel⟩,
   ⟨(ctlS : State), (0 : Nat), (0 : Nat), (0 : Nat), (128 : Nat), (4096 : Nat), (4 : Nat), (0 : Nat), ([9] : Bytes), ([7] : Bytes), (false : Bool), (false : Bool), (false : Bool), ((.connect 0 0 0 128 4096 ([9] : Bytes) ([7] : Bytes) false false false 4 0) : Instr), (hostX : HostEntry), (ctrlX : HCtrl), (1 : Nat), by decide +kernel⟩,
   ⟨(ctlS : State), (0 : Nat), ({ qX with qid := 0, kato := 100 } : HQueue), (ctrlX : HCtrl), by decide +kernel⟩,
   ⟨({ ctlS with host := { ctlS.host with queues := [(0, { qX with lostAt := some 0 })] }, time := 5000000 } : State), (0 : Nat), ({ qX with lostAt := some 0 } : HQueue), (0 : W64), by decide +kernel⟩,
   ⟨({ ctlS with time := 10000000 } : State), (0 : Nat), (0 : Nat), ({ qX with qid := 0, kato := 100 } : HQueue), by decide +kernel⟩,
   ⟨(libP (State.reset) 80 [0, 0, 1] (zeros 4 ++ leBytes 2 1500 ++ [0, 1] ++ zeros 88) : State), ({ libP (State.reset) 80 [0, 0, 1] (zeros 4 ++ leBytes 2 1500 ++ [0, 1] ++ zeros 88) with freeCtr := 1 } : State), (0 : Nat), (0 : Nat), (0 : Nat), (1 : Nat), (callP 80 [0, 0, 1] (zeros 4 ++ leBytes 2 1500 ++ [0, 1] ++ zeros 88) : Call), (zeros 4 ++ leBytes 2 1500 ++ [0, 1] ++ zeros 88 : Bytes), by decide +kernel⟩,
   ⟨(libP ({ State.reset with fuses := { State.reset.fuses with lc := 1 } }) 81 [7, 7] (zeros 64) : State), ({ libP ({ State.reset with fuses := { State.reset.fuses with lc := 1 } }) 81 [7, 7] (zeros 64) with freeCtr := 1 } : State), (0 : Nat), (7 : Nat), (7 : Nat), (callP 81 [7, 7] (zeros 64) : Call), by decide +kernel⟩,
   ⟨(libP ({ State.reset with fuses := { State.reset.fuses with lc := 1 } }) 82 [] ([9] ++ zeros 255 ++ [1] ++ zeros 255) : State), ({ libP ({ State.reset with fuses := { State.reset.fuses with lc := 1 } }) 82 [] ([9] ++ zeros 255 ++ [1] ++ zeros 255) with freeCtr := 1 } : State), (0 : Nat), (callP 82 [] ([9] ++ zeros 255 ++ [1] ++ zeros 255) : Call), ([9] ++ zeros 255 ++ [1] ++ zeros 255 : Bytes), ([9] : Bytes), by decide +kernel⟩,
   ⟨(libP (State.reset) 83 [] ([9] ++ zeros 255) : State), ({ libP (State.reset) 83 [] ([9] ++ zeros 255) with freeCtr := 1 } : State), (0 : Nat), (callP 83 [] ([9] ++ zeros 255) : Call), ([9] : Bytes), by decide +kernel⟩,
   ⟨(libP (State.reset) 84 [0] (zeros 32) : State), ({ libP (State.reset) 84 [0] (zeros 32) with freeCtr := 1 } : State), (0 : Nat), (0 : Nat), (callP 84 [0] (zeros 32) : Call), by decide +kernel⟩⟩

theorem exSome {α β : Type} {x : Option (α × β)} (h : x.isSome = true) : ∃ k u, x = some (k, u) := by
  obtain ⟨⟨k, u⟩, rfl⟩ := Option.isSome_iff_exists.mp h
  exact ⟨k, u, rfl⟩

/-- Capsules of queue 0, in the intake or taken; a lock of command 0; the PDU that an XRDY of 8 bytes awaits. -/
def inC (op : HostOp) : HCmd := { opC op with phase := .intake }
def inS (op : HostOp) : State := cmdS (qS nsS) (inC op)
def lockX (n : Nat) (g : Bool) : Lock :=
  { cmd := some n, nsid := 1, start := 0, len := 8, key := none, write := true, granted := g, reserved := false, doubt := none }
def lidC : HCmd := { inC (.other 2) with cap := { capX with op := .other 2, lid := 0xC1 } }
def takC : HCmd := { opC .write with phase := .taken }
def lckS (ls : List Lock) : State :=
  { qS nsS with host := { (qS nsS).host with cmds := [(0, takC)], locks := ls } }
def xrdX : Xrdy := { ttag := 3, job := none, h := nullH, off := 0, len := 8, next := 0, drop := false }
def pduX : Pdu := { badAt := none, hdgstOk := true, ttag := 3, off := 0, data := zeros 8, last := true, ddgstOk := true }
def h2cC : HCmd := { opC .write with xrdys := [xrdX] }

/-- A HIF job of the climb that serves command 0. -/
def hifJ (op : Nat) : Job := jobA 8 (descB op 0 0 0 [0, 8]) [mkH 0 0 0 8]
def hifJob (op : Nat) (c : HCmd) : State :=
  { jobS (hifJ op) with
    climbs := [(0, { Climb.fresh with state := .running, origin := .host 0, t := .pending :: List.replicate 7 .idle })],
    host := (cmdS (qS nsS) c).host }

/-- States and operands that meet the hypotheses of each clause of `Obligations.CapsulesAndHostData`. -/
theorem witness_capsulesAndHostData :
    (∃ (s : State) (n : Nat) (cap : Capsule) (q : HQueue), s.hqueue n = some q ∧ q.lostAt = none ∧ s.carries q.port q.sub = true ∧
     cap.badAt = none ∧ q.hdgst = false ∧ (cap.inline.getD []).length ≤ 8192 ∧ cap.bytes ≤ 8256 ∧ 8256 ≤ s.intakeFree q.port) ∧
    (∃ (s : State) (n : Nat) (cap : Capsule) (q : HQueue) (f : Nat), s.hqueue n = some q ∧ q.lostAt = none ∧ s.carries q.port q.sub =
     true ∧ cap.badAt = some f) ∧
    (∃ (s : State) (n : Nat) (m : Nat) (q : HQueue) (c : HCmd) (p : Nat) (ns : Ns), s.hqueue n = some q ∧ (s.cmdsOf n).find? (fun c
     => decide (c.2.phase = .intake)) = some (m, c) ∧ q.lostAt = none ∧ q.authed = true ∧ q.qid ≠ 0 ∧ c.cap.op ≠ .flush ∧
     Tbl.find s.allNs c.cap.nsid = some (p, ns) ∧ ns.deleting = false ∧ s.wayOf p = .held) ∧
    (∃ (s : State) (n : Nat) (m : Nat) (q : HQueue) (c : HCmd), s.hqueue n = some q ∧ (s.cmdsOf n).find? (fun c => decide (c.2.phase
     = .intake)) = some (m, c) ∧ q.lostAt = none ∧ q.authed = true ∧ q.qid = 0 ∧ c.cap.op = .other 2 ∧ (s.logPage q.cntlid
     c.cap.lid).isSome = true) ∧
    (∃ (s : State) (n : Nat) (m : Nat) (q : HQueue) (c : HCmd) (p : Nat) (ns : Ns), s.hqueue n = some q ∧ (s.cmdsOf n).find? (fun c
     => decide (c.2.phase = .intake)) = some (m, c) ∧ q.lostAt = none ∧ q.authed = true ∧ q.qid ≠ 0 ∧ c.cap.op ≠ .flush ∧
     Tbl.find s.allNs c.cap.nsid = some (p, ns) ∧ ns.deleting = false ∧ s.wayOf p = .serve p ∧ capStatus c.cap ns (s.pool
     p).fill = none ∧ s.lockRoom (locksOf m c.cap false).length = true ∧ ((∃ k u, s.hostClimb q.ridge m = some (k, u)))) ∧
    (∃ (s : State) (n : Nat) (m : Nat) (q : HQueue) (c : HCmd), s.hqueue n = some q ∧ (s.cmdsOf n).find? (fun c => decide (c.2.phase
     = .intake)) = some (m, c) ∧ q.lostAt = none ∧ q.authed = true ∧ q.qid = 0 ∧ c.cap.op = .abort ∧ ((s.host.cmds.filter (fun d
     => decide (d.2.cap.op = .abort ∧ d.2.phase ≠ .intake))).length < 4)) ∧
    (∃ (s : State) (p : Nat), bit s.pair.holdPools p = false ∧ Tbl.find s.pair.moves p = none ∧ s.owns p = true) ∧
    (∃ (s : State) (n : Nat), (s.hqueue n = none ∨ (∀ c ∈ s.cmdsOf n, c.2.phase ≠ .intake))) ∧
    (∃ (s : State) (n : Nat) (l : Lock) (c : HCmd), s.host.locks = [l] ∧ l.cmd = some n ∧ l.granted = false ∧ s.hcmd n = some c ∧
     c.phase = .taken) ∧
    (∃ (s : State) (n : Nat) (a : Lock) (b : Lock) (c : HCmd), s.host.locks = [a, b] ∧ a.cmd ≠ some n ∧ b.cmd = some n ∧ b.granted =
     false ∧ lockConflict a b = false ∧ s.hcmd n = some c ∧ c.phase = .taken) ∧
    (∃ (s : State) (n : Nat) (a : Lock) (b : Lock), s.host.locks = [a, b] ∧ a.cmd ≠ some n ∧ b.cmd = some n ∧ b.granted = false ∧
     lockConflict a b = true) ∧
    (∃ (s : State) (u : State) (n : Nat) (d : Pdu) (q : HQueue) (m : Nat) (y : Xrdy), s.hqueue n = some q ∧ u = s.setQueue n { q with heardAt := s.time }
     ∧ q.lostAt = none ∧ s.carries q.port q.sub = true ∧ d.badAt = none ∧ q.hdgst = false ∧ u.ttagOf n d.ttag = some (m, y) ∧
     d.off = y.next ∧ d.off + d.data.length ≤ y.off + y.len ∧ d.last = decide (d.off + d.data.length = y.off + y.len) ∧ y.drop =
     false ∧ q.ddgst = false) ∧
    (∃ (s : State) (n : Nat) (m : Nat) (j : Job) (c : HCmd) (q : HQueue), jobOp j < 3 ∧ s.startable n 8 (fun o => decide (o = jobOp
     j)) = some j ∧ s.jobCmd j = some (m, c) ∧ c.lost = false ∧ jobOp j = 0 ∧ c.fail = none ∧ ((∀ x ∈ c.xrdys, x.job ≠ some n))
     ∧ takesData c.cap.op = true ∧ (hifRange j).1 + (hifRange j).2 ≤ c.cap.len ∧ (hifRange j).2 ≤ 0x100000 ∧ c.cap.inline = none
     ∧ s.hqueue c.queue = some q ∧ c.xrdys.length < xrdyMax q ∧ s.jobs = [(n, j)]) ∧
    (∃ (s : State) (n : Nat) (m : Nat) (j : Job) (c : HCmd) (q : HQueue), jobOp j < 3 ∧ s.startable n 8 (fun o => decide (o = jobOp
     j)) = some j ∧ s.jobCmd j = some (m, c) ∧ c.lost = false ∧ jobOp j = 1 ∧ givesData c.cap.op = true ∧ (hifRange j).1 +
     (hifRange j).2 ≤ c.cap.len ∧ (hifRange j).2 ≤ hLen (jh j 0) ∧ s.hqueue c.queue = some q) ∧
    (∃ (s : State) (n : Nat) (m : Nat) (k : Nat) (j : Job) (c : HCmd), jobOp j < 3 ∧ s.startable n 8 (fun o => decide (o = jobOp j))
     = some j ∧ s.jobCmd j = some (m, c) ∧ c.lost = false ∧ jobOp j = 2 ∧ c.completed = false ∧ k = fieldAt j.desc 2 2) :=
  ⟨⟨({ hifS with host := { hifS.host with queues := [(0, qX)] } } : State), (0 : Nat), ({ capX with bytes := 8256 } : Capsule), (qX : HQueue), by decide +kernel⟩,
   ⟨({ hifS with host := { hifS.host with queues := [(0, qX)] } } : State), (0 : Nat), ({ capX with badAt := some 4 } : Capsule), (qX : HQueue), (4 : Nat), by decide +kernel⟩,
   ⟨({ inS .write with pair := { State.reset.pair with holdPools := 1 } } : State), (0 : Nat), (0 : Nat), (qX : HQueue), (inC .write : HCmd), (0 : Nat), (nsX : Ns), by decide +kernel⟩,
   ⟨(cmdS { qS nsS with host := { (qS nsS).host with queues := [(0, { qX with qid := 0 })] } } lidC : State), (0 : Nat), (0 : Nat), ({ qX with qid := 0 } : HQueue), (lidC : HCmd), by decide +kernel⟩,
   ⟨(inS .write : State), (0 : Nat), (0 : Nat), (qX : HQueue), (inC .write : HCmd), (0 : Nat), (nsX : Ns), by (with_reducible and_intros) <;> first | exact exSome (by decide +kernel) | decide +kernel⟩,
   ⟨(cmdS { qS nsS with host := { (qS nsS).host with queues := [(0, { qX with qid := 0 })] } } (inC .abort) : State), (0 : Nat), (0 : Nat), ({ qX with qid := 0 } : HQueue), (inC .abort : HCmd), by decide +kernel⟩,
   ⟨(poolS id : State), (0 : Nat), by decide +kernel⟩,
   ⟨(State.reset : State), (0 : Nat), by decide +kernel⟩,
   ⟨(lckS [lockX 0 false] : State), (0 : Nat), (lockX 0 false : Lock), (takC : HCmd), by decide +kernel⟩,
   ⟨(lckS [{ lockX 1 true with start := 8 }, lockX 0 false] : State), (0 : Nat), ({ lockX 1 true with start := 8 } : Lock), (lockX 0 false : Lock), (takC : HCmd), by decide +kernel⟩,
   ⟨(lckS [{ lockX 1 true with start := 7 }, lockX 0 false] : State), (0 : Nat), ({ lockX 1 true with start := 7 } : Lock), (lockX 0 false : Lock), by decide +kernel⟩,
   ⟨({ hifS with host := { hifS.host with queues := [(0, qX)], cmds := [(0, h2cC)] } } : State), (({ hifS with host := { hifS.host with queues := [(0, qX)], cmds := [(0, h2cC)] } } : State).setQueue 0 { qX with heardAt := 0 } : State), (0 : Nat), (pduX : Pdu), (qX : HQueue), (0 : Nat), (xrdX : Xrdy), by decide +kernel⟩,
   ⟨(hifJob 0 (opC .write) : State), (0 : Nat), (0 : Nat), (hifJ 0 : Job), (opC .write : HCmd), (qX : HQueue), by decide +kernel⟩,
   ⟨(hifJob 1 (opC .read) : State), (0 : Nat), (0 : Nat), (hifJ 1 : Job), (opC .read : HCmd), (qX : HQueue), by decide +kernel⟩,
   ⟨(hifJob 2 (opC .read) : State), (0 : Nat), (0 : Nat), (0 : Nat), (hifJ 2 : Job), (opC .read : HCmd), by decide +kernel⟩⟩

/-- States and operands that meet the hypotheses of each clause of `Obligations.AbortAbortsNothing`. -/
theorem witness_abortAbortsNothing :
    ∃ (s : State) (n : Nat) (c : HCmd) (q : HQueue), s.runCmd n [.abort] = some c ∧ c.climb = none ∧ c.fwd = none ∧ c.lost = false ∧
    c.rdata = [] ∧ s.outputsHeld c = false ∧ Tbl.find s.host.queues c.queue = some q ∧ s.pair.solo = true ∧ s.pair.joining =
    false ∧ Tbl.sorted s.host.cmds = true :=
  ⟨({ opS .abort with pair := { State.reset.pair with solo := true }, rope := { State.reset.rope with leaseTo := 1 } } : State), (0
    : Nat), (opC .abort : HCmd), (qX : HQueue), by decide +kernel⟩

/-- States and operands that meet the hypotheses of each clause of `Obligations.StepRunsTheFrontCommand`. -/
theorem witness_stepRunsTheFrontCommand :
    (∃ (s : State) (t : State) (c : Instr) (r : List Instr), s.pending = c :: r ∧ gives c { s with pending := r } t) ∧
    (∃ (s : State), s.pending = []) :=
  ⟨⟨({ State.reset with pending := [.parGenerateP 0] } : State), (State.reset : State), (.parGenerateP 0 : Instr), ([] : List Instr), rfl, rfl⟩,
   ⟨(State.reset : State), by decide +kernel⟩⟩

/-- States and operands that meet the hypotheses of each clause of `Obligations.ResetLeavesTheTablesValues`. -/
theorem witness_resetLeavesTheTablesValues :
    ∃ (off : Nat) (v : W64), (off, v) ∈ [(0x20050, 0x3000A), (0x40020, 0xA), (0x60008, 0x320000), (0x71000, 0xFF), (0xA0008, 1),
    (0xD0100, 0xFFFFFFFFFFFFFFFF), (0x100020, 0x180001), (0x400018, 0x3E80000)] :=
  ⟨(0xA0008 : Nat), (1 : W64), by decide +kernel⟩

/-- States and operands that meet the hypotheses of each clause of `Obligations.DecodeOfEncodeIsTheInstruction`. -/
theorem witness_decodeOfEncodeIsTheInstruction :
    (∃ (a : Agent) (i : Instr) (w : BitVec 32), coreOf i = some a ∧ i.wf = true ∧ faultFree i = true ∧ ezEncode i = some w) ∧
    (∃ (a : Agent) (i : Instr), coreOf i = some a ∧ ((∀ w, i ≠ .illegalInstruction a w))) :=
  ⟨⟨(.mg 3 : Agent), (.addImm (.mg 3) 5 4 0xFFFF : Instr), ((ezEncode (.addImm (.mg 3) 5 4 0xFFFF)).getD 0 : BitVec 32), by decide +kernel⟩,
   ⟨(.mg 3 : Agent), (.addImm (.mg 3) 5 4 0xFFFF : Instr), rfl, fun w => by simp⟩⟩

/-- States and operands that meet the hypotheses of each clause of `Obligations.EncodeOfDecodeIsTheWord`. -/
theorem witness_encodeOfDecodeIsTheWord :
    ∃ (a : Agent) (w : BitVec 32) (i : Instr), ezDecode a w = some i :=
  ⟨(.mg 3 : Agent), ((ezEncode (.addImm (.mg 3) 5 4 0xFFFF)).getD 0 : BitVec 32), (.addImm (.mg 3) 5 4 0xFFFF : Instr), by decide +kernel⟩

/-- States and operands that meet the hypotheses of each clause of `Obligations.StepsKeepCanonicalForms`. -/
theorem witness_stepsKeepCanonicalForms :
    ∃ (s : State) (t : State) (c : Instr) (r : List Instr), s.pending = c :: r ∧ (((coreOf c).isSome = true ∨ ∃ n, c ∈
    [.chkContentDefined n, .chkFixed n, .digDigest n, .digChunks n, .digBegin n, .digUpdate n, .digFinal n, .parGeneratePq n,
    .parGenerateP n])) ∧ formsKept s = true ∧ step s = .next t :=
  ⟨({ State.reset with pending := [.parGenerateP 0] } : State), (State.reset : State), (.parGenerateP 0 : Instr), ([] : List Instr), rfl, Or.inr ⟨0, by decide⟩, by decide +kernel, rfl⟩

end Sys2Proof.Tests
end

section
/-! What the block is after reset (O51, O56), and the shared operations: the end of a job, counters, flags and stores (O12). -/

open Sys2Proof Sys2Proof.Machine Sys2Proof.Machine.State

namespace Sys2Proof.Machine

/-! ### The state after reset -/

/-- Settles O56: both tables are empty. -/
theorem resetHasCanonicalForms : Obligations.ResetHasCanonicalForms := rfl

/-- An unlisted register reads as its table's reset value, and after reset none is listed. -/
theorem reg_reset (off : Nat) : State.reset.reg off = BitVec.ofNat 64 (regDesc off).reset := rfl

/-- Settles O51: the listed tables are empty, and the table of each register gives its reset value. -/
theorem resetLeavesTheTablesValues : Obligations.ResetLeavesTheTablesValues := by
  unfold Obligations.ResetLeavesTheTablesValues
  refine ⟨rfl, rfl, rfl, rfl, rfl, rfl, rfl, rfl, rfl, rfl, rfl, rfl, rfl, rfl, fun _ => rfl, fun off v h => ?_, reg_reset⟩
  simp only [List.mem_cons, List.not_mem_nil, or_false, Prod.mk.injEq] at h
  rcases h with ⟨rfl, rfl⟩ | ⟨rfl, rfl⟩ | ⟨rfl, rfl⟩ | ⟨rfl, rfl⟩ | ⟨rfl, rfl⟩ | ⟨rfl, rfl⟩ | ⟨rfl, rfl⟩ | ⟨rfl, rfl⟩ <;>
    decide

/-! ### Tables and memory -/

/-- A second entry under a key replaces the first. -/
theorem Tbl.set_set {α : Type} (t : Tbl α) (k : Nat) (v w : α) : Tbl.set (Tbl.set t k v) k w = Tbl.set t k w := by
  induction t with
  | nil => simp [Tbl.set]
  | cons p t ih =>
    obtain ⟨j, x⟩ := p
    by_cases hlt : k < j
    · simp [Tbl.set, hlt]
    · by_cases he : k = j
      · simp [Tbl.set, he]
      · simp [Tbl.set, hlt, he, ih]

/-- What a byte reads as after a store. -/
theorem Mem.read_writeBytes {m : Tbl Byte} (h : Mem.wf m = true) (a x : Nat) (d : Bytes) :
    Mem.read (Mem.writeBytes m a d) x = if a ≤ x ∧ x < a + d.length then d.getD (x - a) 0 else Mem.read m x := by
  split
  · next hx =>
    have hi : x - a < d.length := by omega
    have := Mem.read_writeBytes_same h a d hi
    rwa [Nat.add_sub_cancel' hx.1, ← List.getD_eq_getElem d 0 hi] at this
  · next hx => exact Mem.read_writeBytes_other m a d (by omega)

namespace State

/-! ### Registers and counters -/

theorem reg_setReg {s : State} (h : Tbl.sorted s.regs = true) (off r : Nat) (v : W64) :
    (s.setReg off v).reg r = if r = off then v else s.reg r := by
  split
  · next e => rw [e, reg_setReg_same s off v h]
  · next e => exact reg_setReg_other s off v e

theorem bump_sorted {s : State} (h : Tbl.sorted s.regs = true) (off lo w n : Nat) : Tbl.sorted (s.bump off lo w n).regs = true :=
  setReg_sorted s off _ h

theorem bump_frame (s : State) (off lo w n : Nat) : s.bump off lo w n = { s with regs := (s.bump off lo w n).regs } := rfl

theorem reg_bump_other (s : State) (off lo w n : Nat) {r : Nat} (h : r ≠ off) : (s.bump off lo w n).reg r = s.reg r :=
  reg_setReg_other s off _ h

/-- A counter of the whole register advances modulo 2^64. -/
theorem reg_bump64 {s : State} (h : Tbl.sorted s.regs = true) (off n : Nat) :
    (s.bump off 0 64 n).reg off = s.reg off + BitVec.ofNat 64 n := by
  refine (reg_setReg_same s off _ h).trans (BitVec.eq_of_toNat_eq ?_)
  have := (s.reg off).isLt
  simp only [bits, BitVec.toNat_ofNat, BitVec.toNat_add]
  omega

/-- A counter of the low half advances modulo 2^32. -/
theorem regBits_bump32 {s : State} (h : Tbl.sorted s.regs = true) (off n : Nat) :
    (s.bump off 0 32 n).regBits off 0 32 = (s.regBits off 0 32 + n) % 2 ^ 32 := by
  have e : (s.bump off 0 32 n).reg off = _ := reg_setReg_same s off _ h
  have := (s.reg off).isLt
  simp only [regBits, e, bits, BitVec.toNat_ofNat]
  omega

/-- A counter advanced by nothing keeps its register. -/
theorem reg_bump32_zero {s : State} (h : Tbl.sorted s.regs = true) (off r : Nat) : (s.bump off 0 32 0).reg r = s.reg r := by
  by_cases hr : r = off
  · subst hr
    refine (reg_setReg_same s r _ h).trans (BitVec.eq_of_toNat_eq ?_)
    have := (s.reg r).isLt
    simp only [bits, BitVec.toNat_ofNat]
    omega
  · exact reg_bump_other s off 0 32 0 hr

/-! ### The levels of PF0's vectors -/

/-- The registers that the levels of PF0's vectors 0, 2 and 3 read. -/
def levelRegs : List Nat := [rPepEvents, rLopChangedHost, rSbkEvents] ++ [rPepEventsEn, rSbkEventsEn]

theorem pfLevel_congr {s t : State} (h : ∀ r ∈ levelRegs, t.reg r = s.reg r) (v : Nat) : t.pfLevel v = s.pfLevel v := by
  simp only [levelRegs, List.cons_append, List.nil_append, List.mem_cons, List.not_mem_nil, or_false, forall_eq_or_imp,
    forall_eq] at h
  obtain ⟨hev, hlop, hsbk, hen, hsbkEn⟩ := h
  unfold pfLevel regBits
  split
  · rw [hev, hen]
  · rw [hlop]
  · rw [hsbk, hsbkEn]
  · rfl

/-- While no level changes, no message goes out. -/
theorem levelRise_same {s t : State} (h : ∀ r ∈ levelRegs, t.reg r = s.reg r) : levelRise s t = t := by
  simp [levelRise, pfLevel_congr h]

theorem setReg_levelRise (s : State) {off : Nat} (h : off ∉ levelRegs) (v : W64) :
    levelRise s (s.setReg off v) = s.setReg off v :=
  levelRise_same fun _ hr => reg_setReg_other s off v fun e => h (e ▸ hr)

@[simp] theorem sendVec_regs (s : State) (fn v : Nat) : (s.sendVec fn v).regs = s.regs := by
  unfold sendVec
  dsimp only
  split
  · rfl
  · split <;> rfl

@[simp] theorem levelRise_regs (s t : State) : (levelRise s t).regs = t.regs := by
  unfold levelRise
  refine List.foldlRecOn (motive := fun u : State => u.regs = t.regs) _ _ rfl fun u hu v _ => ?_
  split
  · rw [sendVec_regs, hu]
  · exact hu

theorem reg_of_regs {s t : State} (h : t.regs = s.regs) (r : Nat) : t.reg r = s.reg r := by simp only [reg, h]

theorem raise_regs (s : State) (off m : Nat) : (s.raise off m).regs = (s.setReg off (s.reg off ||| BitVec.ofNat 64 m)).regs :=
  levelRise_regs _ _

/-! ### Tokens (R37, R38, R98) -/

/-- Does a climb wait for this token? -/
def waitsOn (c : Climb) (tok : Nat) : Bool :=
  match c.state, c.await with
  | .waiting, .token m => bit m tok
  | _, _ => false

theorem waitsOn_iff {c : Climb} {tok : Nat} :
    waitsOn c tok = true ↔ ∃ m, c.state = .waiting ∧ c.await = .token m ∧ bit m tok = true := by
  unfold waitsOn
  split
  · next m hs ha => simp [hs, ha]
  · next h => simpa using fun hs m ha => (h m hs ha).elim

/-- What a climb is once its token has become DONE with a completion word. -/
def afterDone (s : State) (c : Climb) (tok : Nat) (w : W64) : Climb :=
  if c.ended ≠ .running then { c with t := c.t.set tok .idle }
  else if waitsOn c tok then
    { c with t := c.t.set tok (.done w), await := .none, state := .ready, since := s.time, stamp := s.stamp }
  else { c with t := c.t.set tok (.done w) }

theorem setClimb_setClimb (s : State) (cid : Nat) (c d : Climb) : (s.setClimb cid c).setClimb cid d = s.setClimb cid d := by
  simp only [setClimb, Tbl.set_set]

/-- A blocked climb that wakes becomes READY and the order counter advances; nothing else differs. -/
theorem wakeUp_setClimb (s : State) (cid : Nat) (c : Climb) :
    (s.setClimb cid c).wakeUp cid =
      { s.setClimb cid { c with await := .none, state := .ready, since := s.time, stamp := s.stamp } with stamp := s.stamp + 1 } := by
  have h : (s.setClimb cid c).climb cid = c := by simp
  simp only [wakeUp, updClimb, h, setClimb_setClimb, chg, climb_setClimb, if_true]
  rfl

/-- `doneToken` through `waitsOn`: an ended climb's token is IDLE, a climb that waits for the token wakes. -/
theorem doneToken_if (s : State) (cid tok : Nat) (w : W64) :
    s.doneToken cid tok w =
      if (s.climb cid).ended ≠ .running then s.setClimb cid { s.climb cid with t := (s.climb cid).t.set tok .idle }
      else if waitsOn (s.climb cid) tok then
        (s.setClimb cid { s.climb cid with t := (s.climb cid).t.set tok (.done w) }).wakeUp cid
      else s.setClimb cid { s.climb cid with t := (s.climb cid).t.set tok (.done w) } := by
  unfold doneToken
  refine ite_congr rfl (fun _ => rfl) fun _ => ?_
  split
  · next m hs ha => exact if_congr (by simp [waitsOn_iff, hs, ha]) rfl rfl
  · next h =>
    refine (if_neg fun hw => ?_).symm
    obtain ⟨m, hs, ha, -⟩ := waitsOn_iff.1 hw
    exact h m hs ha

/-- A token that becomes DONE changes its climb, and the order counter if the climb wakes. -/
theorem doneToken_eq (s : State) (cid tok : Nat) (w : W64) :
    s.doneToken cid tok w =
      { s.setClimb cid (afterDone s (s.climb cid) tok w) with stamp := (s.doneToken cid tok w).stamp } := by
  rw [doneToken_if, afterDone]
  split
  · rfl
  · split
    · rw [wakeUp_setClimb]
    · rfl

theorem climb_doneToken (s : State) (cid tok : Nat) (w : W64) (c : Nat) :
    (s.doneToken cid tok w).climb c = if c = cid then afterDone s (s.climb cid) tok w else s.climb c := by
  rw [doneToken_eq]
  exact climb_setClimb s cid c _

/-- The token of a climb still running its program is DONE; a WAITING climb that waits for it is READY, any other stays. -/
theorem afterDone_running {s : State} {c : Climb} (h : c.ended = .running) (tok : Nat) (w : W64) :
    (afterDone s c tok w).t = c.t.set tok (.done w) ∧
    (afterDone s c tok w).state =
      (match c.state, c.await with
       | .waiting, .token m => if bit m tok then .ready else .waiting
       | x, _ => x) := by
  rw [afterDone, if_neg (not_not.2 h)]
  split
  · next hw =>
    obtain ⟨m, hs, ha, hb⟩ := waitsOn_iff.1 hw
    simp [hs, ha, hb]
  · next hw =>
    refine ⟨rfl, ?_⟩
    split
    · next m hs ha =>
      have hb : ¬ bit m tok = true := fun hb => hw (waitsOn_iff.2 ⟨m, hs, ha, hb⟩)
      rw [if_neg hb, hs]
    · rfl

theorem afterDone_ended {s : State} {c : Climb} (h : c.ended ≠ .running) (tok : Nat) (w : W64) :
    afterDone s c tok w = { c with t := c.t.set tok .idle } := if_pos h

theorem afterDone_frame (s : State) (c : Climb) (tok : Nat) (w : W64) :
    afterDone s c tok w = { c with
      t := (afterDone s c tok w).t, state := (afterDone s c tok w).state, await := (afterDone s c tok w).await,
      since := (afterDone s c tok w).since, stamp := (afterDone s c tok w).stamp } := by
  unfold afterDone
  split
  · rfl
  · split <;> rfl

/-! ### The end of a job (R49, R85, R117, R144, R202) -/

/-- A loop whose body acts on the jobs by the jobs alone acts on the jobs by the jobs alone. -/
theorem foldl_jobs {α : Type} {f : State → α → State}
    (hf : ∀ (s u : State) (a : α), u.jobs = s.jobs → f u a = { u with jobs := (f s a).jobs }) (l : List α) (s u : State)
    (h : u.jobs = s.jobs) : l.foldl f u = { u with jobs := (l.foldl f s).jobs } := by
  induction l generalizing s u with
  | nil => simp only [List.foldl_nil, ← h]
  | cons a l ih =>
    have hu : (f u a).jobs = (f s a).jobs := by rw [hf s u a h]
    simp only [List.foldl_cons]
    rw [ih (f s a) (f u a) hu, hf s u a h]

/-- Which jobs the idle lanes start depends on the jobs alone, and nothing else changes. -/
theorem startLanes_jobs {s u : State} (ridge : Nat) (h : u.jobs = s.jobs) :
    u.startLanes ridge = { u with jobs := (s.startLanes ridge).jobs } := by
  refine foldl_jobs (fun s u l h => ?_) _ s u h
  have hb : u.heldBack = s.heldBack := by funext n j; simp only [heldBack, h]
  simp only [h, hb]
  split
  · simp only [← h]
  · split
    · rfl
    · simp only [← h]

theorem endKeys_frame (s : State) :
    s.endKeys = { s with keySlots := s.endKeys.keySlots, keyEnding := s.endKeys.keyEnding } := by
  unfold endKeys
  refine List.foldlRecOn (motive := fun t : State => t = { s with keySlots := t.keySlots, keyEnding := t.keyEnding })
    _ _ rfl fun t ht p _ => ?_
  rw [ht]

theorem dropCtx_running {s : State} {cid : Nat} (h : (s.climb cid).ended = .running) : s.dropCtx cid = s := if_pos h

theorem dropCtx_frame (s : State) (cid : Nat) : s.dropCtx cid = { s with digs := (s.dropCtx cid).digs } := by
  unfold dropCtx
  split <;> rfl

/-- The state in which a job's token and contexts are settled, before its unit goes on. -/
def unqueued (s : State) (n : Nat) (j : Job) (w : W64) : State :=
  (({ s with jobs := Tbl.del s.jobs n }).doneToken j.cid j.tok w).dropCtx j.cid

theorem unqueued_frame (s : State) (n : Nat) (j : Job) (w : W64) :
    s.unqueued n j w = { s with
      jobs := Tbl.del s.jobs n, digs := (s.unqueued n j w).digs, stamp := (s.unqueued n j w).stamp,
      climbs := (s.setClimb j.cid (afterDone s (s.climb j.cid) j.tok w)).climbs } := by
  unfold unqueued
  rw [dropCtx_frame, doneToken_eq]
  rfl

theorem unqueued_digs {s : State} {j : Job} (h : (s.climb j.cid).ended = .running) (n : Nat) (w : W64) :
    (s.unqueued n j w).digs = s.digs := by
  have hc : ((({ s with jobs := Tbl.del s.jobs n }).doneToken j.cid j.tok w).climb j.cid).ended = .running := by
    rw [climb_doneToken, if_pos rfl, afterDone_frame]
    exact h
  rw [unqueued, dropCtx_running hc, doneToken_eq]
  rfl

theorem finish_if (s : State) (n : Nat) (j : Job) (status result : Nat) :
    s.finish n j status result =
      if j.cls = 3 then (s.unqueued n j (cplWord status j.cls result)).startLanes j.ridge
      else if j.cls = 4 then (s.unqueued n j (cplWord status j.cls result)).endKeys
      else s.unqueued n j (cplWord status j.cls result) := rfl

/-- What the end of a job changes: the jobs as `jobsAfter`, the digest contexts and the climb as `unqueued`, and for an XTS job the
key slots being unloaded. -/
theorem finish_eq (s : State) (n : Nat) (j : Job) (status result : Nat) :
    s.finish n j status result = { s.unqueued n j (cplWord status j.cls result) with
      jobs := jobsAfter s n j, keySlots := (s.finish n j status result).keySlots,
      keyEnding := (s.finish n j status result).keyEnding } ∧
    (j.cls ≠ 4 → (s.finish n j status result).keySlots = s.keySlots ∧ (s.finish n j status result).keyEnding = s.keyEnding) := by
  have hu := unqueued_frame s n j (cplWord status j.cls result)
  rw [finish_if, jobsAfter]
  generalize s.unqueued n j (cplWord status j.cls result) = u at hu ⊢
  have hk : u.jobs = Tbl.del s.jobs n ∧ u.keySlots = s.keySlots ∧ u.keyEnding = s.keyEnding := by rw [hu]; exact ⟨rfl, rfl, rfl⟩
  obtain ⟨hj, hs, he⟩ := hk
  by_cases h3 : j.cls = 3
  · simp only [if_pos h3]
    have hl := startLanes_jobs (s := { s with jobs := Tbl.del s.jobs n }) j.ridge hj
    rw [hl]
    exact ⟨rfl, fun _ => ⟨hs, he⟩⟩
  · simp only [if_neg h3, ← hj]
    by_cases h4 : j.cls = 4
    · simp only [if_pos h4]
      exact ⟨endKeys_frame u, fun h => absurd h4 h⟩
    · simp only [if_neg h4]
      exact ⟨trivial, fun _ => ⟨hs, he⟩⟩

theorem climb_finish (s : State) (n : Nat) (j : Job) (status result c : Nat) :
    (s.finish n j status result).climb c =
      if c = j.cid then afterDone s (s.climb j.cid) j.tok (cplWord status j.cls result) else s.climb c := by
  rw [(finish_eq s n j status result).1, unqueued_frame]
  exact climb_setClimb s j.cid c _

theorem finish_onlyJob (s : State) (n : Nat) (j : Job) (status result : Nat) : onlyJob j s (s.finish n j status result) := by
  obtain ⟨heq, hkeys⟩ := finish_eq s n j status result
  refine ⟨?_, hkeys, fun h => ?_, fun c hc => ?_, ?_⟩
  · rw [heq, unqueued_frame]
  · rw [heq]; exact unqueued_digs h n _
  · rw [climb_finish, if_neg hc]
  · rw [climb_finish, if_pos rfl]; exact afterDone_frame s _ _ _

theorem finish_jobEnds (s : State) (n : Nat) (j : Job) (status result : Nat) :
    jobEnds s (s.finish n j status result) n j status result := by
  refine ⟨?_, fun h ht => ?_⟩
  · rw [(finish_eq s n j status result).1]
  · rw [tok, climb_finish, if_pos rfl, (afterDone_running h _ _).1]
    simp [List.getD_eq_getElem?_getD, ht]

end State

/-- Settles O12: what the end of a job changes, then a counter, a flag and a store. -/
theorem sharedOperationsChangeOnePlace : Obligations.SharedOperationsChangeOnePlace := by
  unfold Obligations.SharedOperationsChangeOnePlace
  refine ⟨fun s n j status result => ⟨finish_jobEnds s n j status result, finish_onlyJob s n j status result, fun h => ?_, fun h => ?_⟩,
    fun s o r n hs => ⟨?_, bump_sorted hs o 0 64 n, bump_frame s o 0 64 n⟩, fun s o r m hs ho => ⟨?_, ?_, fun he => ?_⟩,
    fun s a x d hm => ⟨Mem.read_writeBytes hm a x d, Mem.wf_writeBytes hm a d⟩⟩
  · rw [climb_finish, if_pos rfl]
    exact (afterDone_running h _ _).2
  · rw [climb_finish, if_pos rfl, afterDone_ended h]
  · split
    · next e => rw [e, reg_bump64 hs]
    · next e => exact reg_bump_other s o 0 64 n e
  · rw [reg_of_regs (raise_regs s o m), reg_setReg hs]
  · rw [raise_regs]; exact setReg_sorted s o _ hs
  · have h : o ∉ levelRegs := fun h => (List.mem_append.1 h).elim ho he
    rw [raise, setReg_levelRise s h]
    rfl

end Sys2Proof.Machine
end

section
/-! SUPPORT for O19. Where the blocks without side effects lie, and what a write by access type does to their registers. -/

open Sys2Proof Sys2Proof.Machine Sys2Proof.Machine.State

namespace Sys2Proof.Machine

/-! ### Where the blocks without side effects lie (R22, R23) -/

/-- The 64 KiB pages of the blocks without side effects, and which of them is ROPE. -/
theorem ctlBlock_plain {off lo : Nat} {b : Blk} (h : ctlBlock off = some (b, lo)) (hp : plainBlk b = true) :
    lo = off % 0x10000 ∧
    ((b = .rope ∧ off / 0x10000 = 12) ∨ (b ≠ .rope ∧ (off / 0x10000 ∈ [0, 3, 9, 10] ∨ 0x100 ≤ off / 0x10000))) := by
  simp only [List.mem_cons, List.not_mem_nil, or_false]
  unfold ctlBlock at h
  dsimp only at h
  by_cases h1 : off < 0x100000
  · rw [if_pos h1] at h
    generalize off / 0x10000 = hi at h ⊢
    split at h <;> cases h <;> cases hp <;> simp
  · rw [if_neg h1] at h
    by_cases h2 : off < 0x1000000
    · rw [if_pos h2] at h
      split_ifs at h <;> cases h <;> cases hp
    · rw [if_neg (by omega), if_neg (by omega), if_neg (by omega), if_neg (by omega), if_neg (by omega), if_neg h2] at h
      by_cases h5 : off < ctlSize
      · rw [if_pos h5] at h
        split at h
        · cases h; exact ⟨rfl, .inr ⟨by simp, .inr (by omega)⟩⟩
        · split at h <;> cases h <;> exact ⟨rfl, .inr ⟨by simp, .inr (by omega)⟩⟩
      · rw [if_neg h5] at h
        cases h

theorem plainBlk_quiet {off lo : Nat} {b : Blk} (h : ctlBlock off = some (b, lo)) (hp : plainBlk b = true) : off ∉ levelRegs := by
  obtain ⟨-, hpage⟩ := ctlBlock_plain h hp
  simp only [List.mem_cons, List.not_mem_nil, or_false] at hpage
  simp only [levelRegs, List.cons_append, List.nil_append, List.mem_cons, List.not_mem_nil, or_false, rPepEvents, rLopChangedHost,
    rSbkEvents, rPepEventsEn, rSbkEventsEn]
  omega

theorem evcntOf_quiet (off : Nat) : evcntOf off ∉ levelRegs := by
  simp only [levelRegs, List.cons_append, List.nil_append, List.mem_cons, List.not_mem_nil, or_false, rPepEvents, rLopChangedHost,
    rSbkEvents, rPepEventsEn, rSbkEventsEn, evcntOf]
  omega

/-- Of these blocks' registers, only the enables of ROPE can lower an interrupt line. -/
theorem lineGate_plain {off lo : Nat} {b : Blk} (h : ctlBlock off = some (b, lo)) (hp : plainBlk b = true)
    (hl : lineGate off = true) : off = 0xC0018 := by
  obtain ⟨-, hpage⟩ := ctlBlock_plain h hp
  simp only [List.mem_cons, List.not_mem_nil, or_false] at hpage
  simp only [lineGate, rSbkEventsEn, rRopeEvents, rCrnEvents, rNchIrq, List.mem_cons, List.not_mem_nil, or_false, Bool.or_eq_true,
    Bool.and_eq_true, decide_eq_true_eq] at hl
  omega

theorem regDesc_of_ctlBlock {off lo : Nat} {b : Blk} (h : ctlBlock off = some (b, lo)) : regDesc off = blkDesc b lo := by
  rw [regDesc, h]

/-- EVCNT has RW fields alone, in every block (R10). -/
theorem regDesc_evcnt {off : Nat} {b : Blk} (h : ctlBlock off = some (b, 0xFFF8)) : regDesc off = rRW m32 :=
  regDesc_of_ctlBlock h

/-- A register with W1C flags is not the EVCNT of its block. -/
theorem evcntOf_ne {off lo : Nat} {b : Blk} (h : ctlBlock off = some (b, lo)) (hp : plainBlk b = true)
    (hw : (regDesc off).w1c ≠ 0) : evcntOf off ≠ off := by
  intro he
  obtain ⟨hlo, -⟩ := ctlBlock_plain h hp
  have h8 : lo = 0xFFF8 := by unfold evcntOf at he; omega
  subst h8
  exact hw (by rw [regDesc_evcnt h]; rfl)

/-- Entries changed each under its key are found changed. -/
theorem Tbl.find_map_keys {α : Type} {f : Nat × α → Nat × α} (hf : ∀ p, (f p).1 = p.1) (t : Tbl α) (k : Nat) :
    Tbl.find (t.map f) k = (Tbl.find t k).map fun v => (f (k, v)).2 := by
  induction t with
  | nil => rfl
  | cons p t ih =>
    obtain ⟨j, v⟩ := p
    simp only [List.map_cons, Tbl.find, hf, ih]
    split
    · next e => rw [e]; rfl
    · rfl

namespace State

/-! ### Cores that wake (R101) -/

/-- A core that wakes differs in its sleep alone. -/
theorem mcore_wakeCores (s : State) (n : Nat) : s.wakeCores.mcore n = { s.mcore n with sleeping := (s.wakeCores.mcore n).sleeping } := by
  simp only [mcore, wakeCores, Tbl.getD]
  rw [Tbl.find_map_keys fun p => by split <;> rfl]
  cases Tbl.find s.mcores n with
  | none => rfl
  | some c =>
    simp only [Option.map_some, Option.getD_some]
    split <;> rfl

theorem woken_trans {c d e : MCore} (hd : d = { c with sleeping := d.sleeping }) (he : e = { d with sleeping := e.sleeping }) :
    e = { c with sleeping := e.sleeping } := he.trans (by rw [hd])

/-- Registers that read the same leave the interrupt lines as they are. -/
theorem irqLine_regs {s : State} {rg : Tbl W64} (h : ({ s with regs := rg }).reg = s.reg) :
    ({ s with regs := rg }).irqLine = s.irqLine := by
  unfold irqLine evLevel regBits regBit
  rw [h]

theorem wakeCores_regs {s : State} {rg : Tbl W64} (h : ({ s with regs := rg }).reg = s.reg) :
    ({ s with regs := rg }).wakeCores.mcores = s.wakeCores.mcores := by
  unfold wakeCores irqLines
  rw [irqLine_regs h]

/-! ### Writes by access type (R7, R10) -/

/-- The bits of a register that a master's write stores. -/
def storedBits (m slot : Nat) (mask : W64) : W64 :=
  mask &&& BitVec.ofNat 64 (if m = 0x60 then (regDesc slot).rw ||| (regDesc slot).rol else (regDesc slot).rw)

/-- A register after the RW and W1S part of a write. -/
def storedWord (m slot : Nat) (old v mask : W64) : W64 :=
  (old &&& ~~~storedBits m slot mask) ||| (v &&& storedBits m slot mask) ||| (v &&& mask &&& BitVec.ofNat 64 (regDesc slot).w1s)

variable {s : State} {slot : Nat}

theorem clearFlags_quiet (hq : slot ∉ levelRegs) (f v hw : W64) :
    s.clearFlags slot f v hw =
      (s.wakeCores.setReg slot ((s.reg slot &&& ~~~(v &&& f)) ||| (hw &&& f))).bump (evcntOf slot) 0 32
        (popcount ((v &&& f) &&& (hw &&& f)).toNat) := by
  have hv : vecOfReg slot = none := by
    simp only [levelRegs, List.cons_append, List.mem_cons, not_or] at hq
    simp only [vecOfReg, hq, if_false]
  unfold clearFlags
  dsimp only
  split
  · refine levelRise_same fun r hr => ?_
    have hne : r ≠ evcntOf slot := fun e => evcntOf_quiet slot (e ▸ hr)
    have hns : r ≠ slot := fun e => hq (e ▸ hr)
    rw [reg_bump_other _ _ _ _ _ hne, reg_setReg_other _ _ _ hns]
  · rw [hv]

theorem plainWrite_quiet (hq : slot ∉ levelRegs) (m : Nat) (v mask hw : W64) :
    s.plainWrite m slot v mask hw =
      if (regDesc slot).w1c = 0 then
        (if lineGate slot then s.wakeCores else s).setReg slot (storedWord m slot (s.reg slot) v mask)
      else ((if lineGate slot then s.wakeCores else s).setReg slot (storedWord m slot (s.reg slot) v mask)).clearFlags slot
        (BitVec.ofNat 64 (regDesc slot).w1c) (v &&& mask) hw := by
  have hr : (if lineGate slot then s.wakeCores else s).reg slot = s.reg slot := by split <;> rfl
  unfold plainWrite
  dsimp only
  rw [setReg_levelRise _ hq, hr]
  rfl

theorem gateCores_reg (s : State) (slot r : Nat) : (if lineGate slot then s.wakeCores else s).reg r = s.reg r := by split <;> rfl

theorem gateCores_sorted (slot : Nat) (hs : Tbl.sorted s.regs = true) :
    Tbl.sorted (if lineGate slot then s.wakeCores else s).regs = true := by split <;> exact hs

theorem clearFlags_mcore (hq : slot ∉ levelRegs) (f v hw : W64) (n : Nat) :
    (s.clearFlags slot f v hw).mcore n = s.wakeCores.mcore n := by
  rw [clearFlags_quiet hq]
  simp only [mcore, bump_mcores, setReg_mcores]

theorem clearFlags_reg_slot (hq : slot ∉ levelRegs) (hs : Tbl.sorted s.regs = true) (he : evcntOf slot ≠ slot) (f v hw : W64) :
    (s.clearFlags slot f v hw).reg slot = (s.reg slot &&& ~~~(v &&& f)) ||| (hw &&& f) := by
  rw [clearFlags_quiet hq, reg_bump_other _ _ _ _ _ he.symm, reg_setReg_same s.wakeCores slot _ hs]

theorem clearFlags_reg_other (hq : slot ∉ levelRegs) (f v hw : W64) {r : Nat} (hr : r ≠ slot) (hre : r ≠ evcntOf slot) :
    (s.clearFlags slot f v hw).reg r = s.reg r := by
  rw [clearFlags_quiet hq, reg_bump_other _ _ _ _ _ hre, reg_setReg_other _ _ _ hr]
  rfl

/-- EVCNT counts each flag that hardware sets in the cycle of its clearing write. -/
theorem clearFlags_evcnt (hq : slot ∉ levelRegs) (hs : Tbl.sorted s.regs = true) (he : evcntOf slot ≠ slot) (f v hw : W64) :
    (s.clearFlags slot f v hw).regBits (evcntOf slot) 0 32 =
      (s.regBits (evcntOf slot) 0 32 + popcount (v &&& f &&& (hw &&& f)).toNat) % 2 ^ 32 := by
  rw [clearFlags_quiet hq, regBits_bump32 (setReg_sorted s.wakeCores slot _ hs), regBits, reg_setReg_other _ _ _ he]
  rfl

/-- With no flag set by hardware, a clearing write reaches its register alone. -/
theorem clearFlags_reg_idle (hq : slot ∉ levelRegs) (hs : Tbl.sorted s.regs = true) (f v : W64) {r : Nat} (hr : r ≠ slot) :
    (s.clearFlags slot f v 0).reg r = s.reg r := by
  have h0 : popcount ((v &&& f) &&& (0 &&& f)).toNat = 0 := by simp [popcount, bit]
  rw [clearFlags_quiet hq, h0, reg_bump32_zero (setReg_sorted s.wakeCores slot _ hs), reg_setReg_other _ _ _ hr]
  rfl

theorem plainWrite_frame (hq : slot ∉ levelRegs) (m : Nat) (v mask hw : W64) :
    s.plainWrite m slot v mask hw =
      { s with regs := (s.plainWrite m slot v mask hw).regs, mcores := (s.plainWrite m slot v mask hw).mcores } := by
  rw [plainWrite_quiet hq, clearFlags_quiet hq]
  split <;> split <;> rfl

/-- A write wakes cores at most. -/
theorem plainWrite_mcore (hq : slot ∉ levelRegs) (m : Nat) (v mask hw : W64) (n : Nat) :
    (s.plainWrite m slot v mask hw).mcore n =
      { s.mcore n with sleeping := ((s.plainWrite m slot v mask hw).mcore n).sleeping } := by
  have hg : (if lineGate slot then s.wakeCores else s).mcore n =
      { s.mcore n with sleeping := ((if lineGate slot then s.wakeCores else s).mcore n).sleeping } := by
    split
    · exact mcore_wakeCores s n
    · rfl
  rw [plainWrite_quiet hq]
  generalize (if lineGate slot then s.wakeCores else s) = u at hg ⊢
  split
  · exact hg
  · rw [clearFlags_mcore hq]
    exact woken_trans hg (mcore_wakeCores _ n)

/-- What a write leaves in its register: the stored and set bits, less the flags cleared, and those that hardware sets. -/
theorem plainWrite_reg_slot (hq : slot ∉ levelRegs) (hs : Tbl.sorted s.regs = true)
    (he : (regDesc slot).w1c ≠ 0 → evcntOf slot ≠ slot) (m : Nat) (v mask hw : W64) :
    (s.plainWrite m slot v mask hw).reg slot =
      (storedWord m slot (s.reg slot) v mask &&& ~~~(v &&& mask &&& BitVec.ofNat 64 (regDesc slot).w1c))
        ||| (hw &&& BitVec.ofNat 64 (regDesc slot).w1c) := by
  have hg := gateCores_sorted slot hs
  rw [plainWrite_quiet hq]
  split
  · next h0 =>
    rw [reg_setReg_same _ _ _ hg, h0]
    simp only [BitVec.and_zero, BitVec.not_zero, BitVec.and_allOnes, BitVec.or_zero]
  · next h1 => rw [clearFlags_reg_slot hq (setReg_sorted _ _ _ hg) (he h1), reg_setReg_same _ _ _ hg]

theorem plainWrite_reg_other (hq : slot ∉ levelRegs) (m : Nat) (v mask hw : W64) {r : Nat} (hr : r ≠ slot) (hre : r ≠ evcntOf slot) :
    (s.plainWrite m slot v mask hw).reg r = s.reg r := by
  rw [plainWrite_quiet hq]
  split
  · rw [reg_setReg_other _ _ _ hr, gateCores_reg]
  · rw [clearFlags_reg_other hq _ _ _ hr hre, reg_setReg_other _ _ _ hr, gateCores_reg]

theorem plainWrite_reg_idle (hq : slot ∉ levelRegs) (hs : Tbl.sorted s.regs = true) (m : Nat) (v mask : W64) {r : Nat} (hr : r ≠ slot) :
    (s.plainWrite m slot v mask 0).reg r = s.reg r := by
  rw [plainWrite_quiet hq]
  split
  · rw [reg_setReg_other _ _ _ hr, gateCores_reg]
  · rw [clearFlags_reg_idle hq (setReg_sorted _ _ _ (gateCores_sorted slot hs)) _ _ hr, reg_setReg_other _ _ _ hr, gateCores_reg]

theorem plainWrite_evcnt (hq : slot ∉ levelRegs) (hs : Tbl.sorted s.regs = true) (hw1 : (regDesc slot).w1c ≠ 0)
    (he : evcntOf slot ≠ slot) (m : Nat) (v mask hw : W64) :
    (s.plainWrite m slot v mask hw).regBits (evcntOf slot) 0 32 = (s.regBits (evcntOf slot) 0 32
      + popcount (v &&& mask &&& BitVec.ofNat 64 (regDesc slot).w1c &&& (hw &&& BitVec.ofNat 64 (regDesc slot).w1c)).toNat) % 2 ^ 32 := by
  rw [plainWrite_quiet hq, if_neg hw1, clearFlags_evcnt hq (setReg_sorted _ _ _ (gateCores_sorted slot hs)) he]
  simp only [regBits, reg_setReg_other _ _ _ he, gateCores_reg]

/-- A register without W1C flags, whose write lowers no interrupt line, is stored and nothing else happens. -/
theorem plainWrite_stored (hq : slot ∉ levelRegs) (hl : lineGate slot = false) (hw1 : (regDesc slot).w1c = 0) (m : Nat) (v mask hw : W64) :
    s.plainWrite m slot v mask hw = s.setReg slot (storedWord m slot (s.reg slot) v mask) := by
  rw [plainWrite_quiet hq, if_pos hw1, hl]
  rfl

/-- A write that stores nothing wakes the cores whose lines its flags hold, as they stand before it. -/
theorem plainWrite_flags_mcores (hq : slot ∉ levelRegs) (hs : Tbl.sorted s.regs = true) (hl : lineGate slot = false)
    (hw1 : (regDesc slot).w1c ≠ 0) {m : Nat} {v mask : W64} (hst : storedWord m slot (s.reg slot) v mask = s.reg slot) (hw : W64) :
    (s.plainWrite m slot v mask hw).mcores = s.wakeCores.mcores := by
  rw [plainWrite_quiet hq, if_neg hw1, hl, hst, clearFlags_quiet hq]
  refine wakeCores_regs (rg := (s.setReg slot (s.reg slot)).regs) (funext fun r => ?_)
  exact (reg_setReg hs slot r (s.reg slot)).trans (by split <;> simp_all)

end State
end Sys2Proof.Machine
end

section
/-! SUPPORT for O19. The gate's outcomes, the commands of register accesses, decode errors and the functions' BARs. -/

open Sys2Proof Sys2Proof.Machine Sys2Proof.Machine.State

namespace Sys2Proof.Machine.State

variable {s : State} {m off width : Nat}

/-! ### The gate (R4, R9, R24, R474, R475) -/

theorem gated_open (hg : s.gate m off width true = .open) (v : W64) (act : W64 → W64 → State → State) :
    s.gated m off width v act = if mayWrite m off then act (slotValue off width v).1 (slotValue off width v).2 s else s := by
  rw [gated, hg]

theorem gated_shut {t : State} (hg : s.gate m off width true = .shut t) (v : W64) (act : W64 → W64 → State → State) :
    s.gated m off width v act = t := by rw [gated, hg]

theorem gated_error {t : State} (hg : s.gate m off width true = .error t) (v : W64) (act : W64 → W64 → State → State) :
    s.gated m off width v act = t := by rw [gated, hg]

theorem gated_viol {t : State} (hg : s.gate m off width true = .viol t) (v : W64) (act : W64 → W64 → State → State) :
    s.gated m off width v act = t := by rw [gated, hg]

/-- The master is no function that is closed (R424, R425). -/
def notClosed (s : State) (m : Nat) : Prop := (m = 0x50 → s.fnOpen 0 = true) ∧ (m = 0x51 → s.fnOpen 1 = true)

theorem notClosed_gate (h : s.notClosed m) :
    ((decide (m = 0x50) && (s.pep.frozen0 || !s.pep.mse0)) || (decide (m = 0x51) && (s.pep.frozen1 || !s.pep.mse1))) = false := by
  obtain ⟨h0, h1⟩ := h
  by_cases e0 : m = 0x50
  · have := h0 e0
    simp_all [fnOpen]
  · by_cases e1 : m = 0x51
    · have := h1 e1
      simp_all [fnOpen]
    · simp [e0, e1]

theorem notClosed_fnOpen (h : s.notClosed m) : ¬ ((m = 0x50 ∨ m = 0x51) ∧ s.fnOpen (m - 0x50) = false) := by
  rintro ⟨rfl | rfl, hc⟩
  · exact absurd (h.1 rfl) (by simp [hc])
  · exact absurd (h.2 rfl) (by simp [hc])

section
variable (h : s.notClosed m) {b : Blk} {lo : Nat} (wr : Bool)
include h

theorem gate_undecoded (hd : s.decodeAddr (ctlBase + off) width = none) :
    s.gate m off width wr = .error (s.decodeError m (ctlBase + off)) := by
  rw [gate, notClosed_gate h, hd]
  rfl

variable (hd : (s.decodeAddr (ctlBase + off) width).isSome = true) (hb : ctlBlock off = some (b, lo))
include hd hb

theorem gate_absent (hp : s.blkPresent b = false) :
    s.gate m off width wr = .shut (if wr then s.countAbsent else s) := by
  obtain ⟨r, hr⟩ := Option.isSome_iff_exists.1 hd
  rw [gate, notClosed_gate h, hr, hb]
  simp [hp]

variable (hp : s.blkPresent b = true)
include hp

theorem gate_badWidth (hw : ¬ ((width = 4 ∨ width = 8) ∧ off % width = 0)) : s.gate m off width wr = .shut s.countBad := by
  obtain ⟨r, hr⟩ := Option.isSome_iff_exists.1 hd
  rw [gate, notClosed_gate h, hr, hb]
  simp only [hp, Bool.false_eq_true, if_false, Bool.not_true, if_pos hw]

theorem gate_refused (hw : (width = 4 ∨ width = 8) ∧ off % width = 0)
    (hc : ctlGrant (s.profileOf m) (if m < 0x20 then m / 4 else 0) wr b lo = false) :
    s.gate m off width wr = .viol (s.violate m (ctlBase + off) wr none) := by
  obtain ⟨r, hr⟩ := Option.isSome_iff_exists.1 hd
  rw [gate, notClosed_gate h, hr, hb]
  simp only [hp, Bool.false_eq_true, if_false, Bool.not_true, if_neg (not_not.2 hw), hc]

end

/-! ### The commands of register accesses -/

theorem exec_registerWrite (s : State) (m off width : Nat) (v : W64) :
    exec (.registerWrite m off width v) s = .next (s.regWrite m off width v 0) := rfl

theorem exec_absentUnitWrite (s : State) (m off width : Nat) (v : W64) :
    exec (.absentUnitWrite m off width v) s = .next (s.regWrite m off width v 0) := rfl

theorem exec_w1cFlagClear (s : State) (m off width : Nat) (v hw : W64) :
    exec (.w1cFlagClear m off width v hw) s = .next (s.regWrite m off width v hw) := rfl

theorem exec_evcntWrite (s : State) (m off width : Nat) (v : W64) (inc : Bool) :
    exec (.evcntWrite m off width v inc) s = .next (s.gated m off width v fun x k t =>
      if inc && decide (off / 8 * 8 % 0x10000 = 0xFFF8) then (t.ctlWrite m off width x k 0).bump (off / 8 * 8) 0 32 1
      else t.ctlWrite m off width x k 0) := rfl

/-- With nothing that hardware does in the same cycle, the commands of a write are one. -/
theorem exec_write {c : Instr} {v : W64} (hc : c ∈ [.registerWrite m off width v, .absentUnitWrite m off width v,
    .w1cFlagClear m off width v 0, .evcntWrite m off width v false]) (s : State) :
    exec c s = .next (s.regWrite m off width v 0) := by
  simp only [List.mem_cons, List.not_mem_nil, or_false] at hc
  rcases hc with rfl | rfl | rfl | rfl
  · rfl
  · rfl
  · rfl
  · simp only [exec_evcntWrite, Bool.false_and, Bool.false_eq_true, if_false, regWrite]

theorem exec_badAccess_shut (h : s.notClosed m) {wr : Bool} {t : State} (hg : s.gate m off width wr = .shut t) :
    exec (.badAccess m 0 off width wr) s = .next (t.answerRead m wr 0 (zeros width)) := by
  show execBadAccess m 0 off width wr s = _
  rw [execBadAccess, if_neg (by simp), if_neg (notClosed_fnOpen h), hg]

theorem exec_badAccess_error (h : s.notClosed m) {wr : Bool} {t : State} (hg : s.gate m off width wr = .error t) :
    exec (.badAccess m 0 off width wr) s = .next (t.answerRead m wr 1 []) := by
  show execBadAccess m 0 off width wr s = _
  rw [execBadAccess, if_neg (by simp), if_neg (notClosed_fnOpen h), hg]

@[simp] theorem answerRead_write (s : State) (m status : Nat) (d : Bytes) : s.answerRead m true status d = s := by
  simp [answerRead]

theorem answerRead_read (s : State) (m status : Nat) (d : Bytes) :
    s.answerRead m false status d = if m = 0x50 ∨ m = 0x51 then s.emit (.pcieReply (m - 0x50) status d) else s := by
  simp [answerRead]

/-! ### Decode errors (R24, R25) -/

theorem decodeError_count (hs : Tbl.sorted s.regs = true) (m a : Nat) :
    (s.decodeError m a).regBits rSysDecode 0 32 = (s.regBits rSysDecode 0 32 + 1) % 2 ^ 32 := by
  rw [← regBits_bump32 hs]
  unfold decodeError
  dsimp only
  split
  · rfl
  · simp only [regBits, reg_setReg_other _ _ _ (show rSysDecode ≠ rSysDecodeAddr by decide)]

theorem decodeError_addr (hs : Tbl.sorted s.regs = true) (m a : Nat) :
    (s.decodeError m a).reg rSysDecodeAddr = if s.regBit rSysDecodeAddr 63 then s.reg rSysDecodeAddr
      else BitVec.ofNat 64 (2 ^ 63 + m % 256 * 2 ^ 48 + a % 2 ^ 48) := by
  have hr : (s.bump rSysDecode 0 32 1).reg rSysDecodeAddr = s.reg rSysDecodeAddr :=
    reg_bump_other s rSysDecode 0 32 1 (show rSysDecodeAddr ≠ rSysDecode by decide)
  unfold decodeError regBit
  dsimp only
  rw [hr]
  split
  · exact hr
  · exact reg_setReg_same _ _ _ (bump_sorted hs _ _ _ _)

theorem decodeError_other (s : State) (m a : Nat) {r : Nat} (h1 : r ≠ rSysDecode) (h2 : r ≠ rSysDecodeAddr) :
    (s.decodeError m a).reg r = s.reg r := by
  unfold decodeError
  dsimp only
  split
  · exact reg_bump_other _ _ _ _ _ h1
  · rw [reg_setReg_other _ _ _ h2, reg_bump_other _ _ _ _ _ h1]

/-! ### Accesses to the functions' BARs (R404, R405, R424, R425) -/

theorem exec_badAccess_closed {fn : Nat} (hf : fn < 2) (hc : s.fnOpen fn = false) (bar off width : Nat) (wr : Bool) :
    exec (.badAccess (0x50 + fn) bar off width wr) s = .next (s.answerShut (0x50 + fn) wr) := by
  have hm : 0x50 + fn = 0x50 ∨ 0x50 + fn = 0x51 := by omega
  have hn : 0x50 + fn - 0x50 = fn := by omega
  show execBadAccess (0x50 + fn) bar off width wr s = _
  unfold execBadAccess
  by_cases hb : bar = 2
  · rw [if_pos ⟨hb, hm⟩]
    simp only [hn, hc, Bool.not_false, if_true]
  · rw [if_neg fun h => hb h.1, if_pos ⟨hm, by rw [hn]; exact hc⟩]

theorem answerShut_eq {fn : Nat} (hf : fn < 2) (s : State) (wr : Bool) :
    s.answerShut (0x50 + fn) wr =
      if s.pep.linkUp = false ∨ wr = true then s
      else s.emit (.pcieReply fn (if (if fn = 0 then s.pep.frozen0 else s.pep.frozen1) then 4 else 1) []) := by
  have hm : 0x50 + fn = 0x50 ∨ 0x50 + fn = 0x51 := by omega
  have hn : 0x50 + fn - 0x50 = fn := by omega
  cases wr
  · simp only [answerShut, hn, answerRead_read, if_pos hm]
    cases s.pep.linkUp
    · rfl
    · simp only [Bool.not_true, Bool.false_eq_true, if_false, or_self, Bool.true_eq_false]
      exact (apply_ite (fun n => s.emit (.pcieReply fn n [])) _ 4 1).symm
  · simp [answerShut]

/-- An access to BAR 2 of an open function. -/
theorem exec_badAccess_bar2 {fn : Nat} (hf : fn < 2) (ho : s.fnOpen fn = true) (off width : Nat) (wr : Bool) :
    exec (.badAccess (0x50 + fn) 2 off width wr) s = .next
      (if off < (if fn = 0 then 0x10000 else 0) then s
       else if (if fn = 0 then 0x10010 else 0x40) ≤ off then (s.barError fn 2 off).answerRead (0x50 + fn) wr 1 []
       else if wr && slotWrite off width then s
       else s.countBad.answerRead (0x50 + fn) wr 0 (zeros width)) := by
  have hm : 0x50 + fn = 0x50 ∨ 0x50 + fn = 0x51 := by omega
  have hn : 0x50 + fn - 0x50 = fn := by omega
  show execBadAccess (0x50 + fn) 2 off width wr s = _
  unfold execBadAccess
  simp only [hm, hn, ho, and_self, if_true, Bool.not_true, Bool.false_eq_true, if_false, apply_ite Host.Outcome.next]

/-! ### Writes of the blocks without side effects -/

section
variable {lo : Nat} {b : Blk} (hb : ctlBlock (off / 8 * 8) = some (b, lo)) (hp : plainBlk b = true)
include hb hp

theorem ctlWrite_plain (hne : off / 8 * 8 ≠ 0xC0008) (s : State) (m width : Nat) (x k hw : W64) :
    s.ctlWrite m off width x k hw = s.plainWrite m (off / 8 * 8) x k hw := by
  obtain ⟨hlo, hpage⟩ := ctlBlock_plain hb hp
  unfold ctlWrite
  dsimp only
  rw [hb]
  by_cases hr : b = .rope
  · subst hr
    have h12 : off / 8 * 8 = 0xC0000 + lo := by simp at hpage; omega
    have h8 : lo ≠ 8 := by omega
    rw [h12]
    exact if_neg h8
  · cases b with
    | rope => exact absurd rfl hr
    | sys | lcs | upd | svc | core | chk | dig | xts | par | idx | coder | fabric => rfl
    | _ => cases hp

theorem regWrite_plain (hne : off / 8 * 8 ≠ 0xC0008) (hg : s.gate m off width true = .open) (hm : mayWrite m off = true) (v hw : W64) :
    s.regWrite m off width v hw = s.plainWrite m (off / 8 * 8) (slotValue off width v).1 (slotValue off width v).2 hw := by
  rw [regWrite, gated_open hg, if_pos hm, ctlWrite_plain hb hp hne]

end

/-- ROPE's lane control stores its bits, and the lanes held down lose their link (R313). -/
theorem regWrite_laneCtl (hslot : off / 8 * 8 = 0xC0008) (hg : s.gate m off width true = .open) (hm : mayWrite m off = true) (v : W64) :
    s.regWrite m off width v 0 =
      (List.range 16).foldl (fun t i => if t.regBit 0xC0008 (16 + i) then t.laneDown i else t)
        (s.setReg 0xC0008 ((s.reg 0xC0008 &&& ~~~storedBits m 0xC0008 (slotValue off width v).2)
          ||| ((slotValue off width v).1 &&& storedBits m 0xC0008 (slotValue off width v).2))) := by
  have hq : 0xC0008 ∉ levelRegs := by decide
  have hst := plainWrite_stored (s := s) hq (by decide) (by decide) m (slotValue off width v).1 (slotValue off width v).2 0
  have hw1s : (regDesc 0xC0008).w1s = 0 := by decide
  rw [storedWord, hw1s, BitVec.and_zero, BitVec.or_zero] at hst
  rw [regWrite, gated_open hg, if_pos hm, ← hst]
  unfold ctlWrite
  dsimp only
  rw [hslot]
  rfl

end Sys2Proof.Machine.State
end

section
/-! How writes of the blocks without side effects follow their access types (O19). -/

open Sys2Proof Sys2Proof.Machine Sys2Proof.Machine.State

namespace Sys2Proof.Machine.State

variable {s : State} {m off width lo : Nat} {b : Blk}

section
variable (hg : s.gate m off width true = .open) (hb : ctlBlock (off / 8 * 8) = some (b, lo)) (hp : plainBlk b = true)
  (hs : Tbl.sorted s.regs = true) (hm : mayWrite m off = true)
include hg hb hp hs hm

/-- A write without coinciding hardware events changes its register by the access types, and wakes cores at most. -/
theorem regWrite_spec (hne : off / 8 * 8 ≠ 0xC0008) (v : W64) :
    s.regWrite m off width v 0 =
      { s with regs := (s.regWrite m off width v 0).regs, mcores := (s.regWrite m off width v 0).mcores } ∧
    (∀ n, (s.regWrite m off width v 0).mcore n =
      { s.mcore n with sleeping := ((s.regWrite m off width v 0).mcore n).sleeping }) ∧
    (∀ r, r ≠ off / 8 * 8 → (s.regWrite m off width v 0).reg r = s.reg r) ∧
    (s.regWrite m off width v 0).reg (off / 8 * 8) =
      storedWord m (off / 8 * 8) (s.reg (off / 8 * 8)) (slotValue off width v).1 (slotValue off width v).2
        &&& ~~~((slotValue off width v).1 &&& (slotValue off width v).2 &&& BitVec.ofNat 64 (regDesc (off / 8 * 8)).w1c) := by
  have hq := plainBlk_quiet hb hp
  rw [regWrite_plain hb hp hne hg hm]
  refine ⟨plainWrite_frame hq m _ _ 0, plainWrite_mcore hq m _ _ 0, fun r hr => plainWrite_reg_idle hq hs m _ _ hr, ?_⟩
  rw [plainWrite_reg_slot hq hs (evcntOf_ne hb hp), show (0 : W64) = 0#64 from rfl, BitVec.zero_and, BitVec.or_zero]

/-- A W1C register whose flags hardware sets in the cycle of their clearing write: the set wins and EVCNT counts it (R10). -/
theorem regWrite_flags {f : W64} (hf : f = BitVec.ofNat 64 (regDesc (off / 8 * 8)).w1c) (hf0 : f ≠ 0)
    (hrw : (regDesc (off / 8 * 8)).rw = 0) (hrol : (regDesc (off / 8 * 8)).rol = 0) (hw1s : (regDesc (off / 8 * 8)).w1s = 0)
    {x mask : W64} {v : W64} (hx : (x, mask) = slotValue off width v) (hw : W64) :
    s.regWrite m off width v hw = { s with regs := (s.regWrite m off width v hw).regs, mcores := s.wakeCores.mcores } ∧
    (s.regWrite m off width v hw).reg (off / 8 * 8) = (s.reg (off / 8 * 8) &&& ~~~(x &&& mask &&& f)) ||| (hw &&& f) ∧
    (s.regWrite m off width v hw).regBits (evcntOf (off / 8 * 8)) 0 32 =
      (s.regBits (evcntOf (off / 8 * 8)) 0 32 + popcount (x &&& mask &&& f &&& hw).toNat) % 2 ^ 32 ∧
    (∀ r, r ≠ off / 8 * 8 → r ≠ evcntOf (off / 8 * 8) → (s.regWrite m off width v hw).reg r = s.reg r) := by
  have hq := plainBlk_quiet hb hp
  have hw1c : (regDesc (off / 8 * 8)).w1c ≠ 0 := fun h => hf0 (by rw [hf, h]; rfl)
  have hev := evcntOf_ne hb hp hw1c
  have hl : lineGate (off / 8 * 8) = false := by
    refine Bool.eq_false_iff.2 fun h => hw1c ?_
    rw [lineGate_plain hb hp h]
    decide
  have hne : off / 8 * 8 ≠ 0xC0008 := fun h => hw1c (by rw [h]; decide)
  have hst : storedWord m (off / 8 * 8) (s.reg (off / 8 * 8)) x mask = s.reg (off / 8 * 8) := by
    have hk : storedBits m (off / 8 * 8) mask = 0#64 := by simp [storedBits, hrw, hrol]
    rw [storedWord, hk, hw1s]
    simp only [BitVec.not_zero, BitVec.and_allOnes, BitVec.and_zero, BitVec.or_zero]
  rw [regWrite_plain hb hp hne hg hm, ← hx]
  refine ⟨?_, ?_, ?_, fun r hr hre => plainWrite_reg_other hq m x mask hw hr hre⟩
  · have hmc := plainWrite_flags_mcores hq hs hl hw1c hst hw
    rw [← hmc]
    exact plainWrite_frame hq m x mask hw
  · rw [plainWrite_reg_slot hq hs (fun _ => hev), hst, ← hf]
  · have hand : x &&& mask &&& f &&& (hw &&& f) = x &&& mask &&& f &&& hw := by
      rw [BitVec.and_comm hw f, ← BitVec.and_assoc, BitVec.and_assoc (x &&& mask) f f, BitVec.and_self]
    rw [plainWrite_evcnt hq hs hw1c hev, ← hf, hand]

end

/-! ### EVCNT (R11) -/

/-- The low half of a slot takes the written value, whatever the width. -/
theorem slotValue_low (h : off % 8 = 0) (v : W64) :
    (slotValue off width v).1.setWidth 32 = v.setWidth 32 ∧ (slotValue off width v).2.setWidth 32 = BitVec.allOnes 32 := by
  unfold slotValue
  split
  · exact ⟨rfl, show (BitVec.allOnes 64).setWidth 32 = BitVec.allOnes 32 by decide⟩
  · have hones : (0xFFFFFFFF : W64).setWidth 32 = BitVec.allOnes 32 := by decide
    exact ⟨by rw [BitVec.setWidth_and, hones, BitVec.and_allOnes], hones⟩

theorem storedWord_evcnt {slot : Nat} (hd : regDesc slot = rRW m32) (m : Nat) (old : W64) {x mask v : W64}
    (hx : x.setWidth 32 = v.setWidth 32) (hk : mask.setWidth 32 = BitVec.allOnes 32) :
    bits (storedWord m slot old x mask).toNat 0 32 = v.toNat % 2 ^ 32 := by
  have hb : storedBits m slot mask = mask &&& BitVec.ofNat 64 m32 := by
    unfold storedBits
    rw [hd]
    split <;> rfl
  have hlow : (storedWord m slot old x mask).setWidth 32 = v.setWidth 32 := by
    have hm : (BitVec.ofNat 64 m32).setWidth 32 = BitVec.allOnes 32 := by decide
    have hz : (BitVec.ofNat 64 (rRW m32).w1s).setWidth 32 = 0#32 := by decide
    rw [storedWord, hb, hd]
    simp only [BitVec.setWidth_or, BitVec.setWidth_and, BitVec.setWidth_not (show 32 ≤ 64 by omega), hx, hk, hm, hz, BitVec.and_allOnes,
      BitVec.not_allOnes, BitVec.and_zero, BitVec.zero_or, BitVec.or_zero]
  have := congrArg BitVec.toNat hlow
  simpa [bits] using this

/-- A write of EVCNT stores its low half, plus one where hardware counts in the same cycle. -/
theorem evcntWrite_spec (hg : s.gate m off width true = .open) (h8 : off % 0x10000 = 0xFFF8) (hb : ctlBlock off = some (b, lo))
    (hp : plainBlk b = true) (hm : mayWrite m off = true) (hs : Tbl.sorted s.regs = true) (v : W64) (inc : Bool) :
    ∃ t, gives (.evcntWrite m off width v inc) s t ∧ t = { s with regs := t.regs } ∧
      t.regBits off 0 32 = (v.toNat + b2n inc) % 2 ^ 32 ∧ (∀ r, r ≠ off → t.reg r = s.reg r) := by
  obtain ⟨hlo, -⟩ := ctlBlock_plain hb hp
  have hslot : off / 8 * 8 = off := by omega
  have hd : regDesc off = rRW m32 := regDesc_evcnt (by rw [hb, hlo, h8])
  have hl : lineGate off = false := Bool.eq_false_iff.2 fun h => by have := lineGate_plain hb hp h; omega
  have hw1c : (regDesc off).w1c = 0 := by rw [hd]; rfl
  have hq := plainBlk_quiet hb hp
  obtain ⟨hx, hk⟩ := slotValue_low (width := width) (show off % 8 = 0 by omega) v
  generalize hsv : slotValue off width v = p at hx hk
  have hbits := storedWord_evcnt hd m (s.reg off) hx hk
  have hwr : s.ctlWrite m off width p.1 p.2 0 = s.setReg off (storedWord m off (s.reg off) p.1 p.2) := by
    rw [ctlWrite_plain (hslot.symm ▸ hb) hp (by omega), hslot, plainWrite_stored hq hl hw1c]
  generalize storedWord m off (s.reg off) p.1 p.2 = w at hbits hwr
  have hlow : (s.setReg off w).regBits off 0 32 = v.toNat % 2 ^ 32 := by rw [regBits, reg_setReg_same s off w hs, hbits]
  have hexec : gives (.evcntWrite m off width v inc) s (if inc then (s.setReg off w).bump off 0 32 1 else s.setReg off w) := by
    rw [gives, exec_evcntWrite, gated_open hg, if_pos hm, hslot, h8, hsv, hwr]
    simp
  cases inc with
  | false => exact ⟨_, hexec, rfl, hlow, fun r hr => reg_setReg_other s off w hr⟩
  | true =>
    refine ⟨_, hexec, rfl, ?_, fun r hr => (reg_bump_other _ _ _ _ _ hr).trans (reg_setReg_other s off w hr)⟩
    exact (regBits_bump32 (setReg_sorted s off w hs) off 1).trans (by rw [hlow, Nat.mod_add_mod]; rfl)

end Sys2Proof.Machine.State

namespace Sys2Proof.Machine

/-- Settles O19: the writes by access type, the gate's refusals, decode errors and the functions' answers. -/
theorem registerWritesFollowTheirTypes : Obligations.RegisterWritesFollowTheirTypes := by
  unfold Obligations.RegisterWritesFollowTheirTypes
  refine ⟨?_, ?_, ?_, ?_, ?_, ?_, ?_, ?_⟩
  · rintro s m off width slot lo b v x mask k old c hc hg rfl hb hp hs hx rfl hk
    have hexec := exec_write hc s
    refine ⟨fun hm => ?_, fun hm hne => ?_, fun hm hslot => ?_⟩
    · rw [gives, hexec, regWrite, gated_open hg, hm]
      rfl
    · have hspec := regWrite_spec hg hb hp hs hm hne v
      rw [← hx] at hspec
      subst hk
      exact ⟨_, hexec, hspec⟩
    · have hlane := regWrite_laneCtl hslot hg hm v
      rw [← hx] at hlane
      subst hk
      rw [gives, hexec, hlane, hslot]
      rfl
  · rintro s m off width slot lo b v hw x mask f hg rfl hb hp hs hx hf hf0 hm hrw hrol hw1s
    exact ⟨_, exec_w1cFlagClear s m off width v hw, regWrite_flags hg hb hp hs hm hf hf0 hrw hrol hw1s hx hw⟩
  · intro s m off width lo b v inc hg h8 hb hp hm hs
    exact evcntWrite_spec hg h8 hb hp hm hs v inc
  · intro s m off width lo wr b v hw inc h0 h1
    have h : s.notClosed m := ⟨h0, h1⟩
    refine ⟨fun hd hb hp c hc => ?_, fun hd hb hp => ?_, fun hd hb hp hbad => ⟨?_, ?_⟩, fun hd => ⟨?_, ?_⟩, fun hd hb hp h4 h8 hc => ?_⟩
    · have hshut := gate_absent h true hd hb hp
      simp only [List.mem_cons, List.not_mem_nil, or_false] at hc
      rcases hc with rfl | rfl | rfl | rfl | rfl
      · exact congrArg _ (gated_shut hshut v _)
      · exact congrArg _ (gated_shut hshut v _)
      · exact congrArg _ (gated_shut hshut v _)
      · exact congrArg _ (gated_shut hshut v _)
      · exact (exec_badAccess_shut h hshut).trans (congrArg _ (answerRead_write _ _ _ _))
    · exact exec_badAccess_shut h (gate_absent h false hd hb hp)
    · exact exec_badAccess_shut h (gate_badWidth h wr hd hb hp hbad)
    · exact congrArg _ (gated_shut (gate_badWidth h true hd hb hp hbad) v _)
    · exact exec_badAccess_error h (gate_undecoded h wr hd)
    · exact congrArg _ (gated_error (gate_undecoded h true hd) v _)
    · exact congrArg _ (gated_viol (gate_refused h true hd hb hp ⟨h4, h8⟩ hc) v _)
  · exact fun s m a hs => ⟨decodeError_count hs m a, decodeError_addr hs m a, fun r h1 h2 => decodeError_other s m a h1 h2⟩
  · intro s fn off width wr hf ho
    have hexec := exec_badAccess_bar2 hf ho off width wr
    refine ⟨fun hlo hhi hbad => ?_, fun hhi => ?_⟩
    · have hslot : ¬ (wr && slotWrite off width) = true := by
        simp only [slotWrite, Bool.and_eq_true, Bool.or_eq_true, decide_eq_true_eq]
        rintro ⟨hw, hwd, h8⟩
        exact hbad.elim (by simp [hw]) fun h => h ⟨h8, hwd.symm⟩
      rw [if_neg (by omega), if_neg (by omega), if_neg hslot] at hexec
      exact hexec
    · have hlo : ¬ off < if fn = 0 then 0x10000 else 0 := by split at hhi <;> split <;> omega
      rw [if_neg hlo, if_pos hhi] at hexec
      exact hexec
  · intro s fn bar off width wr hf hc
    rw [gives, exec_badAccess_closed hf hc, answerShut_eq hf]
  · exact fun s m status d => ⟨answerRead_write s m status d, answerRead_read s m status d⟩

end Sys2Proof.Machine
end

section
/-! How loads and stores reach memory and when they trap, end or are held (O8). -/

open Sys2Proof Sys2Proof.Machine Sys2Proof.Machine.State

namespace Sys2Proof.Machine

/-! ### Bytes of memory -/

theorem Mem.readBytes_eq_map (m : Tbl Byte) (a n : Nat) : Mem.readBytes m a n = (List.range n).map (fun i => Mem.read m (a + i)) := by
  induction n generalizing a with
  | zero => rfl
  | succ n ih =>
    rw [Mem.readBytes, ih, List.range_succ_eq_map, List.map_cons, List.map_map]
    simp only [Nat.add_zero, Function.comp_def, Nat.succ_eq_add_one, Nat.add_assoc, Nat.add_comm 1]

theorem Mem.readBytes_writeBytes {m : Tbl Byte} (h : Mem.wf m = true) (a : Nat) (d : Bytes) :
    Mem.readBytes (Mem.writeBytes m a d) a d.length = d := by
  rw [Mem.readBytes_eq_map]
  refine List.ext_getElem (by simp) fun i hi _ => ?_
  simp only [List.getElem_map, List.getElem_range]
  exact Mem.read_writeBytes_same h a d (by simpa using hi)

namespace State

/-! ### The map cache's lookups change nothing but the cache, counters and orders -/

/-- Beside the map cache, registers, the order counter and the free values' counter, nothing differs. -/
def onlyCache (s t : State) : Prop :=
  ∃ rg mp st fc, t = { s with regs := rg, mapc := mp, stamp := st, freeCtr := fc }

theorem onlyCache.refl (s : State) : onlyCache s s := ⟨s.regs, s.mapc, s.stamp, s.freeCtr, rfl⟩

theorem onlyCache.trans {s t u : State} (h : onlyCache s t) (g : onlyCache t u) : onlyCache s u := by
  obtain ⟨_, _, _, _, rfl⟩ := h
  obtain ⟨rg, mp, st, fc, rfl⟩ := g
  exact ⟨rg, mp, st, fc, rfl⟩

theorem bump_onlyCache (s : State) (off lo w n : Nat) : onlyCache s (s.bump off lo w n) :=
  ⟨(s.bump off lo w n).regs, s.mapc, s.stamp, s.freeCtr, rfl⟩

theorem writeback_onlyCache (s : State) (line : Nat) : onlyCache s (s.writeback line) :=
  (show onlyCache s { s with mapc := { s.mapc with dramOld := Tbl.del s.mapc.dramOld line } } from ⟨_, _, _, _, rfl⟩)
    |>.trans (bump_onlyCache _ _ _ _ _) |>.trans (bump_onlyCache _ _ _ _ _)

theorem setMapc_onlyCache (s : State) (mp : Mapc) : onlyCache s { s with mapc := mp } := ⟨_, _, _, _, rfl⟩
theorem tick_onlyCache (s : State) : onlyCache s s.tick := ⟨_, _, _, _, rfl⟩
theorem used_onlyCache (s : State) : onlyCache s s.used := ⟨_, _, _, _, rfl⟩

theorem toVictim_onlyCache (s : State) (c : CLine) : onlyCache s (s.toVictim c) := by
  unfold toVictim
  dsimp only
  split
  · exact (setMapc_onlyCache s _).trans (tick_onlyCache _)
  · split
    · exact .refl s
    · refine onlyCache.trans ?_ ((setMapc_onlyCache _ _).trans (tick_onlyCache _))
      split
      · exact writeback_onlyCache s _
      · exact .refl s

theorem toMain_onlyCache (s : State) (c : CLine) : onlyCache s (s.toMain c) := by
  unfold toMain
  dsimp only
  split
  · exact (setMapc_onlyCache s _).trans (tick_onlyCache _)
  · split
    · refine onlyCache.trans ?_ ((setMapc_onlyCache _ _).trans (tick_onlyCache _))
      split
      · exact (used_onlyCache s).trans (toVictim_onlyCache _ _)
      · exact used_onlyCache s
    · split
      · exact writeback_onlyCache s _
      · exact .refl s

theorem dirtyLine_onlyCache (s : State) (line : Nat) (c : CLine) : onlyCache s (s.dirtyLine line c).2 := by
  unfold dirtyLine
  split
  · exact .refl s
  · exact setMapc_onlyCache s _

theorem lineAccess_onlyCache (s : State) (line : Nat) (wr : Bool) : onlyCache s (s.lineAccess line wr) := by
  have dirty (u : State) (c : CLine) : onlyCache u (if wr then u.dirtyLine line c else (c, u)).2 := by
    split
    · exact dirtyLine_onlyCache u line c
    · exact .refl u
  unfold lineAccess
  split
  · exact (dirty s _).trans ((setMapc_onlyCache _ _).trans ((tick_onlyCache _).trans (bump_onlyCache _ _ _ _ _)))
  · split
    · exact (dirty s _).trans ((setMapc_onlyCache _ _).trans ((toMain_onlyCache _ _).trans (bump_onlyCache _ _ _ _ _)))
    · dsimp only
      refine (bump_onlyCache s (rMapc + 0x10) 0 64 1).trans ?_
      split
      · refine onlyCache.trans ?_ (toMain_onlyCache _ _)
        split
        · exact (bump_onlyCache _ _ _ _ _).trans (dirtyLine_onlyCache _ _ _)
        · exact bump_onlyCache _ _ _ _ _
      · exact bump_onlyCache _ _ _ _ _

theorem dramTouch_onlyCache (s : State) (a n : Nat) (wr : Bool) : onlyCache s (s.dramTouch a n wr) := by
  unfold dramTouch
  induction linesOf a n generalizing s with
  | nil => exact .refl s
  | cons l ls ih => exact (lineAccess_onlyCache s l wr).trans (ih _)

/-! ### A core's context and pc after an access -/

variable {s u : State} {a : Agent}

theorem wr_frame {rg : Tbl W64} {mp : Mapc} {st fc : Nat} {mm : Tbl Byte} (w : State) (a : Agent) (rd : BitVec 5) (v p : W64) :
    (({ w with regs := rg, mapc := mp, stamp := st, freeCtr := fc, mem := mm } : State).wr a rd v).setPc a p =
      { (w.wr a rd v).setPc a p with regs := rg, mapc := mp, stamp := st, freeCtr := fc, mem := mm } := by
  cases a with
  | dp r c =>
    cases hc : w.agentCid (.dp r c) with
    | none =>
      have hc' : ({ w with regs := rg, mapc := mp, stamp := st, freeCtr := fc, mem := mm } : State).agentCid (.dp r c) = none := hc
      by_cases hr : rd = 0 <;> simp [wr, setPc, hr, hc, hc']
    | some cid =>
      have hc' : ({ w with regs := rg, mapc := mp, stamp := st, freeCtr := fc, mem := mm } : State).agentCid (.dp r c) = some cid := hc
      rw [wr_setPc_dp hc, wr_setPc_dp hc']
      by_cases hr : rd = 0 <;> simp only [hr, if_true, if_false] <;> rfl
  | mg m =>
    unfold wr
    split <;> rfl

theorem setPc_frame {rg : Tbl W64} {mp : Mapc} {st fc : Nat} {mm : Tbl Byte} (w : State) (a : Agent) (p : W64) :
    ({ w with regs := rg, mapc := mp, stamp := st, freeCtr := fc, mem := mm } : State).setPc a p =
      { w.setPc a p with regs := rg, mapc := mp, stamp := st, freeCtr := fc, mem := mm } := by
  have h := wr_frame (rg := rg) (mp := mp) (st := st) (fc := fc) (mm := mm) w a 0 0 p
  have h0 : ∀ x : State, x.wr a 0 0 = x := fun x => if_pos rfl
  rwa [h0, h0] at h

theorem getG_frame {rg : Tbl W64} {mp : Mapc} {st fc : Nat} {mm : Tbl Byte} (w : State) (a : Agent) (x : BitVec 5) :
    ({ w with regs := rg, mapc := mp, stamp := st, freeCtr := fc, mem := mm } : State).getG a x = w.getG a x := by
  cases a <;> rfl

theorem pcOf_frame {rg : Tbl W64} {mp : Mapc} {st fc : Nat} {mm : Tbl Byte} (w : State) (a : Agent) :
    ({ w with regs := rg, mapc := mp, stamp := st, freeCtr := fc, mem := mm } : State).pcOf a = w.pcOf a := by
  cases a <;> rfl

/-- A register result after a memory access: the context as a result on `s` leaves it, and the access's own changes. -/
theorem result_after (h : s.issues a = true) (hf : s.filesWhole a = true) (hu : onlyCache (s.awake a) u) (rd : BitVec 5) (v : W64) :
    (u.result a rd v).getG a rd = (if rd = 0 then 0 else v) ∧
    (∀ y, y ≠ rd → (u.result a rd v).getG a y = s.getG a y) ∧ (u.result a rd v).pcOf a = s.pcOf a + 4 ∧
    u.result a rd v = { s with
      climbs := (u.result a rd v).climbs, mcores := (u.result a rd v).mcores, regs := (u.result a rd v).regs,
      mapc := (u.result a rd v).mapc, stamp := (u.result a rd v).stamp, freeCtr := (u.result a rd v).freeCtr } := by
  obtain ⟨hg, hgo, hpc, hframe, -, -⟩ := wr_setPc_spec h hf rd v (s.pcOf a + 4)
  obtain ⟨rg, mp, st, fc, rfl⟩ := hu
  have e : ({ s.awake a with regs := rg, mapc := mp, stamp := st, freeCtr := fc } : State).result a rd v =
      { ((s.awake a).wr a rd v).setPc a (s.pcOf a + 4) with regs := rg, mapc := mp, stamp := st, freeCtr := fc, mem := s.mem } := by
    have hm : (s.awake a).mem = s.mem := by cases a <;> rfl
    rw [result, adv, pcOf_wr, ← wr_frame, ← hm]
    congr 1
    exact congrArg (· + 4) (pcOf_awake s a)
  rw [e]
  refine ⟨?_, fun y hy => ?_, ?_, ?_⟩
  · rw [getG_frame, hg]
  · rw [getG_frame, hgo y hy]
  · rw [pcOf_frame, hpc]
  · rw [hframe]

/-- A move past the instruction after a memory access that also changed memory. -/
theorem adv_after (h : s.issues a = true) (hf : s.filesWhole a = true) (hu : onlyCache (s.awake a) u) (mm : Tbl Byte) :
    (({ u with mem := mm } : State).adv a).mem = mm ∧
    (∀ y, (({ u with mem := mm } : State).adv a).getG a y = s.getG a y) ∧
    (({ u with mem := mm } : State).adv a).pcOf a = s.pcOf a + 4 ∧
    ({ u with mem := mm } : State).adv a = { s with
      climbs := (({ u with mem := mm } : State).adv a).climbs, mcores := (({ u with mem := mm } : State).adv a).mcores, mem := mm,
      regs := u.regs, mapc := u.mapc, stamp := u.stamp, freeCtr := u.freeCtr } := by
  obtain ⟨hg, hpc, hframe, -, -⟩ := setPc_spec h hf (s.pcOf a + 4)
  obtain ⟨rg, mp, st, fc, rfl⟩ := hu
  have e : ({ s.awake a with regs := rg, mapc := mp, stamp := st, freeCtr := fc, mem := mm } : State).adv a =
      { (s.awake a).setPc a (s.pcOf a + 4) with regs := rg, mapc := mp, stamp := st, freeCtr := fc, mem := mm } := by
    rw [adv, pcOf_frame (s.awake a) a, pcOf_awake s a, setPc_frame (s.awake a) a]
  rw [e]
  refine ⟨rfl, fun y => ?_, ?_, ?_⟩
  · rw [getG_frame, hg]
  · rw [pcOf_frame, hpc]
  · rw [hframe]

/-! ### How an access of a core is judged -/

@[simp] theorem decodeAddr_awake (s : State) (b : Agent) (x n : Nat) : (s.awake b).decodeAddr x n = s.decodeAddr x n := by
  cases b <;> rfl

@[simp] theorem profileOf_awake (s : State) (b : Agent) (m : Nat) : (s.awake b).profileOf m = s.profileOf m := by cases b <;> rfl

@[simp] theorem wardOk_awake (s : State) (b : Agent) (prof : Nat) (cid : Option Nat) (r : Region) (x n : Nat) (wr : Bool) :
    (s.awake b).wardOk prof cid r x n wr = s.wardOk prof cid r x n wr := by cases b <;> rfl

@[simp] theorem mapc_awake (s : State) (b : Agent) : (s.awake b).mapc = s.mapc := by cases b <;> rfl

@[simp] theorem mem_awake (s : State) (b : Agent) : (s.awake b).mem = s.mem := by cases b <;> rfl

@[simp] theorem poisoned_awake (s : State) (b : Agent) : (s.awake b).poisoned = s.poisoned := by cases b <;> rfl

/-- The judgement of an access to a range other than control space (R198, R474). -/
theorem coreAcc_ne_ctl {x n : Nat} {r : Region} (hd : s.decodeAddr x n = some r) (hc : r ≠ .ctl) (a : Agent) (wr : Bool) :
    s.coreAcc a x n wr =
      if s.wardOk (s.profileOf (masterOf a)) (s.agentCid a) r x n wr then (if r = .dram ∧ s.mapc.wiping = true then .held else .mem r)
      else .ends (s.violate (masterOf a) x wr none) := by
  unfold coreAcc
  rw [hd]
  cases r with
  | ctl => exact absurd rfl hc
  | _ => rfl

/-- An access that decodes to memory and that the wards allow reaches it, in DRAM while the map cache is ready (R24, R198, R474). -/
theorem coreAcc_mem {x n : Nat} {wr : Bool} {r : Region} (hd : s.decodeAddr x n = some r) (hc : r ≠ .ctl)
    (hw : s.wardOk (s.profileOf (masterOf a)) (s.agentCid a) r x n wr = true) (hm : r = .dram → s.mapc.wiping = false) :
    s.coreAcc a x n wr = .mem r := by
  rw [coreAcc_ne_ctl hd hc, if_pos hw, if_neg]
  exact fun ⟨h1, h2⟩ => by simp [hm h1] at h2

theorem coreAcc_mem_awake {x n : Nat} {wr : Bool} {r : Region} (hd : s.decodeAddr x n = some r) (hc : r ≠ .ctl)
    (hw : s.wardOk (s.profileOf (masterOf a)) (s.agentCid a) r x n wr = true) (hm : r = .dram → s.mapc.wiping = false) :
    (s.awake a).coreAcc a x n wr = .mem r := by
  refine coreAcc_mem ((decodeAddr_awake s a x n).trans hd) hc ?_ fun hr => ?_
  · rw [wardOk_awake, profileOf_awake, agentCid_awake, hw]
  · rw [mapc_awake, hm hr]

/-! ### What memory answers -/

/-- A climb store's range lies in it (R21). -/
theorem storeAddr_le_of_decode {x n k : Nat} (h : s.decodeAddr x n = some (.store k)) : 0x0A0000000000 ≤ x := by
  have hb : s.decodeByte x = some (.store k) := by
    unfold decodeAddr at h
    split at h
    · next b c hx _ =>
      split at h
      · cases h
      · split at h
        · cases h
        · rw [hx, h]
    · cases h
  unfold decodeByte at hb
  by_contra hlt
  split at hb
  · split at hb <;> cases hb
  · split at hb
    · dsimp only at hb
      split at hb <;> cases hb
    · split at hb
      · cases hb
      · rw [if_neg (by omega)] at hb
        split at hb
        · split at hb <;> cases hb
        · cases hb

/-- The bytes of a memory range other than a context's first half are those of memory (R46). -/
theorem spaceByte_mem {r : Region} {x : Nat} (h : r = .dram ∨ (∃ k, r = .rbuf k) ∨ ((∃ k, r = .store k) ∧ 0x0A0000000000 ≤ x ∧ 512 ≤ x % 1024)) :
    s.spaceByte r x = Mem.read s.mem x := by
  rcases h with rfl | ⟨k, rfl⟩ | ⟨⟨k, rfl⟩, hx, h512⟩
  · rfl
  · rfl
  · show s.storeByte x = _
    unfold storeByte
    exact if_pos (by omega)


/-- The memory that a load or store reaches: DRAM with the map cache ready, a ridge buffer, or climb-local memory (R76). -/
def reachable (s : State) (r : Region) (x : Nat) : Prop :=
  (r = .dram ∧ s.mapc.wiping = false) ∨ (∃ k, r = .rbuf k) ∨ ((∃ k, r = .store k) ∧ 512 ≤ x % 1024)

theorem reachable.ne_ctl {r : Region} {x : Nat} (h : s.reachable r x) : r ≠ .ctl := by
  rcases h with ⟨rfl, -⟩ | ⟨k, rfl⟩ | ⟨⟨k, rfl⟩, -⟩ <;> exact Region.noConfusion

theorem reachable.ready {r : Region} {x : Nat} (h : s.reachable r x) (hr : r = .dram) : s.mapc.wiping = false := by
  subst hr
  rcases h with ⟨-, h⟩ | ⟨k, h⟩ | ⟨⟨k, h⟩, -⟩
  · exact h
  · cases h
  · cases h

/-- A read of reachable memory without an error gives its bytes, little-endian, and changes the map cache at most. -/
theorem coreRead_mem {r : Region} {x n : Nat} (hr : s.reachable r x) (hp : r = .dram → x / 256 ∉ s.poisoned)
    (hd : s.decodeAddr x n = some r) (hn : n ∈ [1, 2, 4, 8]) (hx : x % n = 0) :
    (s.coreRead r x n .none).1 = BitVec.ofNat 64 (leNat (Mem.readBytes s.mem x n)) ∧ onlyCache s (s.coreRead r x n .none).2 := by
  have hlost : (decide (r = .dram) && s.dataLost x (s.faultAt x false .none)) = false := by
    by_cases h : r = .dram
    · simp [h, faultAt, dataLost, hp h]
    · simp [h]
  have hecc : s.eccTouch r x false .none = s := by
    unfold eccTouch
    by_cases h : r = .dram
    · simp [h, faultAt, eccAct, hp h]
    · simp [h]
  have hbytes : (List.range n).map (fun i => s.spaceByte r (x + i)) = Mem.readBytes s.mem x n := by
    rw [Mem.readBytes_eq_map]
    refine List.map_congr_left fun i hi => spaceByte_mem ?_
    have hi : i < n := List.mem_range.1 hi
    refine hr.imp And.left (Or.imp id fun ⟨hk, h512⟩ => ⟨hk, ?_, ?_⟩)
    · obtain ⟨k, rfl⟩ := hk
      exact (storeAddr_le_of_decode hd).trans (Nat.le_add_right x i)
    · simp only [List.mem_cons, List.not_mem_nil, or_false] at hn
      rcases hn with rfl | rfl | rfl | rfl <;> omega
  have hspace : (s.spaceRead r x n).1 = Mem.readBytes s.mem x n ∧ onlyCache s (s.spaceRead r x n).2 := by
    rcases hr with ⟨rfl, -⟩ | ⟨k, rfl⟩ | ⟨⟨k, rfl⟩, -⟩
    · exact ⟨hbytes, dramTouch_onlyCache s x n false⟩
    · exact ⟨hbytes, .refl s⟩
    · exact ⟨hbytes, used_onlyCache s⟩
  unfold coreRead
  simp only [hlost, hecc]
  rw [← hspace.1]
  exact ⟨rfl, hspace.2⟩

/-- A write to reachable memory puts its bytes there, and changes the map cache at most. -/
theorem spaceWrite_mem {r : Region} {x : Nat} (hr : s.reachable r x) (d : Bytes) :
    ∃ u, onlyCache s u ∧ s.spaceWrite r x d = { u with mem := Mem.writeBytes s.mem x d } := by
  rcases hr with ⟨rfl, -⟩ | ⟨k, rfl⟩ | ⟨⟨k, rfl⟩, h512⟩
  · have hu := dramTouch_onlyCache s x d.length true
    refine ⟨_, hu, ?_⟩
    obtain ⟨rg, mp, st, fc, hu⟩ := hu
    rw [spaceWrite, wrBytes, hu]
  · exact ⟨s, .refl s, rfl⟩
  · exact ⟨s, .refl s, if_pos h512⟩

theorem eccTouch_store (s : State) (r : Region) (x : Nat) : s.eccTouch r x true .none = s := by
  unfold eccTouch
  split
  · rfl
  · simp [faultAt]

/-! ### Loads and stores -/

theorem reachable_awake {r : Region} {x : Nat} (b : Agent) (h : s.reachable r x) : (s.awake b).reachable r x := by
  rwa [reachable, mapc_awake]

/-- A load of reachable memory is a register result of its bytes, after the map cache's lookups (R76). -/
theorem ldRun_mem {r : Region} {x n : Nat} {addr : W64} (hx : x = addr.toNat) (ha : x % n = 0) (hn : n ∈ [1, 2, 4, 8])
    (hd : s.decodeAddr x n = some r) (hw : s.wardOk (s.profileOf (masterOf a)) (s.agentCid a) r x n false = true)
    (hr : s.reachable r x) (hp : r = .dram → x / 256 ∉ s.poisoned) (rd : BitVec 5) :
    ∃ u, onlyCache (s.awake a) u ∧
      (s.awake a).ldRun a rd addr n .none = u.result a rd (BitVec.ofNat 64 (leNat (Mem.readBytes s.mem x n))) := by
  have hacc : (s.awake a).coreAcc a addr.toNat n false = .mem r := hx ▸ coreAcc_mem_awake hd hr.ne_ctl hw hr.ready
  obtain ⟨hval, hu⟩ := coreRead_mem (s := s.awake a) (reachable_awake a hr) (by rwa [poisoned_awake]) (by rwa [decodeAddr_awake]) hn ha
  refine ⟨_, hu, ?_⟩
  rw [mem_awake] at hval
  rw [ldRun, if_neg (by rw [← hx]; simp [ha]), hacc]
  dsimp only
  rw [← hx, hval]

/-- A store to reachable memory writes its bytes and moves on (R76). -/
theorem stRun_mem {r : Region} {x n : Nat} {addr : W64} (hx : x = addr.toNat) (ha : x % n = 0)
    (hd : s.decodeAddr x n = some r) (hw : s.wardOk (s.profileOf (masterOf a)) (s.agentCid a) r x n true = true)
    (hr : s.reachable r x) (v : W64) :
    ∃ u, onlyCache (s.awake a) u ∧
      (s.awake a).stRun a v addr n .none = ({ u with mem := Mem.writeBytes s.mem x (leBytes n v.toNat) } : State).adv a := by
  have hacc : (s.awake a).coreAcc a addr.toNat n true = .mem r := hx ▸ coreAcc_mem_awake hd hr.ne_ctl hw hr.ready
  obtain ⟨u, hu, hwr⟩ := spaceWrite_mem (reachable_awake a hr) (leBytes n v.toNat)
  refine ⟨u, hu, ?_⟩
  rw [mem_awake] at hwr
  rw [stRun, if_neg (by rw [← hx]; simp [ha]), hacc]
  dsimp only
  rw [← hx, eccTouch_store, hwr]

/-- A trap that the core may take (R63, R102). -/
theorem trapHere_taken (h : s.issues a = true) (ht : trapReady a s = true) (cause : Nat) (v : W64) :
    trapTaken a s ((s.awake a).trapHere a cause v) cause v (s.pcOf a) := by
  have hpc := pcOf_awake s a
  unfold trapHere
  rw [hpc]
  cases a with
  | dp r c =>
    obtain ⟨cid, hc⟩ := ready_cid (issues_iff.1 h).1
    simp only [trapReady, hc, Bool.and_eq_true, Bool.not_eq_true', decide_eq_true_eq] at ht
    refine ⟨cid, hc, ?_⟩
    have hc' : (s.awake (.dp r c)).agentCid (.dp r c) = some cid := hc
    simp only [ezTrap, hc']
    show s.trapClimb cid cause v _ = _
    rw [trapClimb, if_neg (by simp [ht.1]), if_neg ht.2]
  | mg m =>
    simp only [trapReady, Bool.not_eq_true'] at ht
    simp only [trapTaken, ezTrap, awake, trapMcore, mcore_setMcore, if_true, ht]
    simp only [setMcore, Tbl.set_set]
    rfl

/-- The commands of the loads, each with its size (R76). -/
def loads (a : Agent) (rd ra : BitVec 5) (imm : BitVec 16) (f : MemFault) : List (Instr × Nat) :=
  [(.ldB a rd ra imm f, 1), (.ldH a rd ra imm f, 2), (.ldW a rd ra imm f, 4), (.ldD a rd ra imm f, 8)]

/-- The commands of the stores, each with its size (R76). -/
def stores (a : Agent) (rs ra : BitVec 5) (imm : BitVec 16) (f : MemFault) : List (Instr × Nat) :=
  [(.stB a rs ra imm f, 1), (.stH a rs ra imm f, 2), (.stW a rs ra imm f, 4), (.stD a rs ra imm f, 8)]

theorem exec_load {rd ra : BitVec 5} {imm : BitVec 16} {f : MemFault} {p : Instr × Nat} (hp : p ∈ loads a rd ra imm f)
    (h : s.issues a = true) :
    p.2 ∈ [1, 2, 4, 8] ∧ exec p.1 s = .next ((s.awake a).ldRun a rd (s.getG a ra + imm.signExtend 64) p.2 f) := by
  have hez (n : Nat) := ez_issues h (fun t => t.ldRun a rd (t.getG a ra + imm.signExtend 64) n f)
  simp only [getG_awake] at hez
  simp only [loads, List.mem_cons, List.not_mem_nil, or_false] at hp
  rcases hp with rfl | rfl | rfl | rfl
  · exact ⟨by simp, congrArg _ (hez 1)⟩
  · exact ⟨by simp, congrArg _ (hez 2)⟩
  · exact ⟨by simp, congrArg _ (hez 4)⟩
  · exact ⟨by simp, congrArg _ (hez 8)⟩

theorem exec_store {rs ra : BitVec 5} {imm : BitVec 16} {f : MemFault} {p : Instr × Nat} (hp : p ∈ stores a rs ra imm f)
    (h : s.issues a = true) :
    exec p.1 s = .next ((s.awake a).stRun a (s.getG a rs) (s.getG a ra + imm.signExtend 64) p.2 f) := by
  have hez (n : Nat) := ez_issues h (fun t => t.stRun a (t.getG a rs) (t.getG a ra + imm.signExtend 64) n f)
  simp only [getG_awake] at hez
  simp only [stores, List.mem_cons, List.not_mem_nil, or_false] at hp
  rcases hp with rfl | rfl | rfl | rfl
  · exact congrArg _ (hez 1)
  · exact congrArg _ (hez 2)
  · exact congrArg _ (hez 4)
  · exact congrArg _ (hez 8)

theorem exec_load_misaligned {rd ra : BitVec 5} {imm : BitVec 16} {f : MemFault} {p : Instr × Nat} (hp : p ∈ loads a rd ra imm f)
    (h : s.issues a = true) (hx : (s.getG a ra + imm.signExtend 64).toNat % p.2 ≠ 0) :
    exec p.1 s = .next ((s.awake a).trapHere a 0x02 (s.getG a ra + imm.signExtend 64)) := by
  rw [(exec_load hp h).2, ldRun, if_pos hx]

theorem exec_store_misaligned {rs ra : BitVec 5} {imm : BitVec 16} {f : MemFault} {p : Instr × Nat} (hp : p ∈ stores a rs ra imm f)
    (h : s.issues a = true) (hx : (s.getG a ra + imm.signExtend 64).toNat % p.2 ≠ 0) :
    exec p.1 s = .next ((s.awake a).trapHere a 0x02 (s.getG a ra + imm.signExtend 64)) := by
  rw [exec_store hp h, stRun, if_pos hx]

/-- An aligned load or store of a climb that does not reach its range ends as its judgement says, and is sent again where it is held. -/
theorem exec_access_stopped {r c : Nat} {rd ra : BitVec 5} {imm : BitVec 16} {f : MemFault} {i : Instr} {n : Nat} {wr : Bool}
    (hp : (i, n) ∈ loads (.dp r c) rd ra imm f ∧ wr = false ∨ (i, n) ∈ stores (.dp r c) rd ra imm f ∧ wr = true)
    (h : s.issues (.dp r c) = true) (hx : (s.getG (.dp r c) ra + imm.signExtend 64).toNat % n = 0) :
    (∀ u, s.coreAcc (.dp r c) (s.getG (.dp r c) ra + imm.signExtend 64).toNat n wr = .ends u → exec i s = .next u) ∧
    (s.coreAcc (.dp r c) (s.getG (.dp r c) ra + imm.signExtend 64).toNat n wr = .held → exec i s = .next s) := by
  have ha : s.awake (.dp r c) = s := rfl
  rcases hp with ⟨hp, rfl⟩ | ⟨hp, rfl⟩
  · have hexec := (exec_load hp h).2
    rw [ha, ldRun, if_neg (not_not.2 hx)] at hexec
    exact ⟨fun u hu => by rw [hexec, hu], fun hu => by rw [hexec, hu]⟩
  · have hexec := exec_store hp h
    rw [ha, stRun, if_neg (not_not.2 hx)] at hexec
    exact ⟨fun u hu => by rw [hexec, hu], fun hu => by rw [hexec, hu]⟩

end State

/-- Settles O8: loads and stores of reachable memory, then the misaligned, undecoded, forbidden and held accesses. -/
theorem loadsAndStoresReachMemory : Obligations.LoadsAndStoresReachMemory := by
  unfold Obligations.LoadsAndStoresReachMemory
  refine ⟨?_, ?_, ?_, ?_⟩
  · intro s a rd ra imm p x r hp hi hf hx ha hd hw hr
    obtain ⟨hn, hexec⟩ := exec_load hp hi
    have hreach : s.reachable r x := hr.imp (fun ⟨h1, h2, _⟩ => ⟨h1, h2⟩) id
    have hclean : r = .dram → x / 256 ∉ s.poisoned := by
      rintro rfl
      rcases hr with ⟨-, -, h⟩ | ⟨k, h⟩ | ⟨⟨k, h⟩, -⟩
      · exact h
      · cases h
      · cases h
    obtain ⟨u, hu, hrun⟩ := ldRun_mem hx ha hn hd hw hreach hclean rd
    exact ⟨_, hexec.trans (congrArg _ hrun), result_after hi hf hu rd _⟩
  · intro s a rs ra imm p x r hp hi hf hwf hx ha hd hw hr
    obtain ⟨u, hu, hrun⟩ := stRun_mem hx ha hd hw hr (s.getG a rs)
    obtain ⟨hmem, hg, hpc, hframe⟩ := adv_after hi hf hu (Mem.writeBytes s.mem x (leBytes p.2 (s.getG a rs).toNat))
    have hlen : (leBytes p.2 (s.getG a rs).toNat).length = p.2 := leBytes_length _ _
    refine ⟨_, (exec_store hp hi).trans (congrArg _ hrun), ?_, fun y hy => ?_, hg, hpc, ?_⟩
    · have := Mem.readBytes_writeBytes hwf x (leBytes p.2 (s.getG a rs).toNat)
      rw [hmem]
      rwa [hlen] at this
    · rw [hmem, Mem.read_writeBytes_other s.mem x _ (by rwa [hlen])]
    · rw [hframe]
  · intro s a rd ra imm f p addr hp hi ht haddr hx
    have hexec : exec p.1 s = .next ((s.awake a).trapHere a 0x02 addr) := by
      rw [haddr] at hx ⊢
      rcases List.mem_append.1 (show p ∈ loads a rd ra imm f ++ stores a rd ra imm f from hp) with h | h
      · exact exec_load_misaligned h hi hx
      · exact exec_store_misaligned h hi hx
    exact ⟨_, hexec, trapHere_taken hi ht 0x02 addr⟩
  · rintro s r c rd ra imm f ⟨i, n, wr⟩ x hp hi hx ha
    have hp' : (i, n) ∈ loads (.dp r c) rd ra imm f ∧ wr = false ∨ (i, n) ∈ stores (.dp r c) rd ra imm f ∧ wr = true := by
      rcases List.mem_append.1 (show (i, n, wr) ∈ (loads (.dp r c) rd ra imm f).map (fun q => (q.1, q.2, false)) ++
        (stores (.dp r c) rd ra imm f).map (fun q => (q.1, q.2, true)) from hp) with h | h
      · obtain ⟨q, hq, he⟩ := List.mem_map.1 h
        cases he
        exact .inl ⟨hq, rfl⟩
      · obtain ⟨q, hq, he⟩ := List.mem_map.1 h
        cases he
        exact .inr ⟨hq, rfl⟩
    obtain ⟨hends, hheld⟩ := exec_access_stopped hp' hi (hx ▸ ha)
    rw [← hx] at hends hheld
    refine ⟨fun hd => hends _ ?_, fun g hd hg hw => hends _ ?_, fun hd hwip hw => hheld ?_⟩
    · rw [coreAcc, hd]
      rfl
    · rw [coreAcc_ne_ctl hd hg]
      exact if_neg (by simpa [masterOf] using hw)
    · rw [coreAcc_ne_ctl hd Region.noConfusion]
      exact (if_pos hw).trans (if_pos ⟨rfl, hwip⟩)

end Sys2Proof.Machine
end

section
/-! How route calls are checked, held, started and ended, and how LOP entries are written (O22). -/

open Sys2Proof Sys2Proof.Machine Sys2Proof.Machine.State

namespace Sys2Proof.Machine

/-! ### Tables, memory and least elements -/

theorem Tbl.find_filter_keys {α : Type} (f : Nat → Bool) (t : Tbl α) (k : Nat) :
    Tbl.find (t.filter (fun p => f p.1)) k = if f k then Tbl.find t k else none := by
  induction t with
  | nil => simp
  | cons p t ih =>
    obtain ⟨j, w⟩ := p
    rw [List.filter_cons]
    by_cases hj : f j = true <;> by_cases hk : j = k <;> simp_all [Tbl.find]

/-- What a byte reads as after a wipe (R51). -/
theorem Mem.read_wipe (m : Tbl Byte) (a n x : Nat) :
    Mem.read (Mem.wipe m a n) x = if a ≤ x ∧ x < a + n then 0 else Mem.read m x := by
  unfold Mem.read Tbl.getD Mem.wipe
  rw [Tbl.find_filter_keys (fun k => !(decide (a ≤ k) && decide (k < a + n)))]
  by_cases h : a ≤ x ∧ x < a + n
  · simp [h]
  · have hf : (!(decide (a ≤ x) && decide (x < a + n))) = true := by simpa only [← Bool.decide_and, Bool.not_eq_true', decide_eq_false_iff_not]
    rw [if_neg h, if_pos hf]

theorem minBy_mem {α : Type} {f : α → Nat} {l : List α} {y : α} (h : minBy f l = some y) : y ∈ l := by
  induction l generalizing y with
  | nil => cases h
  | cons x t ih =>
    rw [minBy] at h
    cases hm : minBy f t with
    | none =>
      rw [hm] at h
      exact List.mem_cons.2 (.inl (Option.some.inj h).symm)
    | some z =>
      rw [hm] at h
      dsimp only at h
      split at h
      · exact List.mem_cons_of_mem x (ih (hm.trans h))
      · exact List.mem_cons.2 (.inl (Option.some.inj h).symm)

/-- `minBy` picks the element with the least key, of rising elements the lowest in a tie. -/
theorem minBy_eq_some {f : Nat → Nat} {l : List Nat} (hl : l.Pairwise (· < ·)) {r : Nat} (hr : r ∈ l)
    (h : ∀ k ∈ l, k ≠ r → f r < f k ∨ f r = f k ∧ r < k) : minBy f l = some r := by
  induction l with
  | nil => cases hr
  | cons x t ih =>
    obtain ⟨hx, ht⟩ := List.pairwise_cons.1 hl
    by_cases hxr : x = r
    · subst hxr
      rw [minBy]
      cases hm : minBy f t with
      | none => rfl
      | some y =>
        have hy := minBy_mem hm
        have := h y (List.mem_cons_of_mem x hy) (fun e => absurd (hx y hy) (by omega))
        exact if_neg (by omega)
    · have hrt : r ∈ t := (List.mem_cons.1 hr).resolve_left (Ne.symm hxr)
      have hlt := h x List.mem_cons_self hxr
      have := hx r hrt
      rw [minBy, ih ht hrt fun k hk hkr => h k (List.mem_cons_of_mem x hk) hkr]
      exact if_pos (by omega)

theorem getD_mod_mem {α : Type} {l : List α} (h : l ≠ []) (n : Nat) (d : α) : l.getD (n % l.length) d ∈ l := by
  have hn : n % l.length < l.length := Nat.mod_lt _ (List.length_pos_iff.2 h)
  rw [List.getD_eq_getElem l d hn]
  exact List.getElem_mem hn

namespace State

/-! ### The climb of a call (R62) -/

/-- The context in which the climb of a call starts (R62). -/
def callContext (s : State) (n : Nat) (c : Call) : Climb := { Climb.fresh with
  state := .ready, core := s.homeCore c.ridge, bg := (s.route (callSlot c.entry)).bg, slot := callSlot c.entry,
  g := (List.range 32).map (fun i => if 1 ≤ i ∧ i ≤ 5 then BitVec.ofNat 64 (callArg c.entry (i - 1))
    else if i = 6 then BitVec.ofNat 64 (callPool c.entry) else 0),
  h := c.param :: List.replicate 15 0, pc := BitVec.ofNat 64 (s.route (callSlot c.entry)).entry, origin := .call n,
  since := s.time, stamp := s.stamp }

theorem callClimb_eq {s : State} {c : Call} {cid : Nat} (h : s.oldestFree c.ridge = some cid) (n : Nat) :
    s.callClimb n c = { s with
      climbs := Tbl.set s.climbs cid (s.callContext n c), mem := Mem.wipe s.mem (localAddr cid) 512, stamp := s.stamp + 1,
      calls := Tbl.set s.calls n { c with phase := .running, cid := some cid },
      bufs := if c.param = nullH then s.bufs else Tbl.upd s.bufs (8192 * c.ridge + hSlot c.param) (fun b => { b with owner := cid }) } := by
  unfold callClimb allocClimb
  rw [h]
  dsimp only
  rw [callContext]
  simp only [List.replicate, List.set]
  rfl

/-- The arguments as the registers g1 to g5 take them (R62). -/
theorem callArg_register (e : Bytes) {i : Nat} (h : 1 ≤ i) :
    BitVec.ofNat 64 (callArg e (i - 1)) = if i - 1 < callArgc e then BitVec.ofNat 64 (fieldAt e (0x10 + 8 * i) 8) else 0 := by
  unfold callArg
  rw [show 0x18 + 8 * (i - 1) = 0x10 + 8 * i by omega]
  split <;> rfl

theorem callContext_registers (s : State) (n : Nat) (c : Call) : s.callContext n c = { Climb.fresh with
    state := .ready, core := s.homeCore c.ridge, bg := (s.route (callSlot c.entry)).bg, slot := callSlot c.entry,
    g := (List.range 32).map (fun i => if 1 ≤ i ∧ i ≤ 5 then (if i - 1 < callArgc c.entry then BitVec.ofNat 64 (fieldAt c.entry (0x10 + 8 * i) 8) else 0)
      else if i = 6 then BitVec.ofNat 64 (callPool c.entry) else 0),
    h := c.param :: List.replicate 15 0, pc := BitVec.ofNat 64 (s.route (callSlot c.entry)).entry, origin := .call n,
    since := s.time, stamp := s.stamp } := by
  have hg : (List.range 32).map (fun i => if 1 ≤ i ∧ i ≤ 5 then BitVec.ofNat 64 (callArg c.entry (i - 1))
      else if i = 6 then BitVec.ofNat 64 (callPool c.entry) else 0) =
    (List.range 32).map (fun i => if 1 ≤ i ∧ i ≤ 5 then (if i - 1 < callArgc c.entry then BitVec.ofNat 64 (fieldAt c.entry (0x10 + 8 * i) 8) else 0)
      else if i = 6 then BitVec.ofNat 64 (callPool c.entry) else 0) := by
    refine List.map_congr_left fun i _ => ?_
    split
    · next hi => rw [callArg_register c.entry hi.1]
    · rfl
  rw [callContext, hg]

/-! ### Buffers (R51) -/

/-- A buffer that can be allocated gets free granules and a free slot (R51). -/
theorem allocBuf_spec {s : State} {r bytes : Nat} (owner : Nat) (h : s.allocable r bytes false = true)
    (hk : ∃ k < 8191, Tbl.find s.bufs (8192 * r + k) = none) :
    ∃ slot b, slot < 8191 ∧ Tbl.find s.bufs (8192 * r + slot) = none ∧ s.gransFree r b (ceilDiv bytes 1024) = true ∧
      s.allocBuf r bytes owner = (slot, { s with
        freeCtr := s.freeCtr + 2,
        bufs := Tbl.set s.bufs (8192 * r + slot) { base := b, grans := ceilDiv bytes 1024, bytes := bytes, owner := owner } }) := by
  simp only [allocable, Bool.and_eq_true, Bool.not_eq_true', List.isEmpty_eq_false_iff] at h
  obtain ⟨k, hk, hfree⟩ := hk
  have hslots : (List.range 8191).filter (fun k => (Tbl.find s.bufs (8192 * r + k)).isNone) ≠ [] :=
    List.ne_nil_of_mem (List.mem_filter.2 ⟨List.mem_range.2 hk, by rw [hfree]; rfl⟩)
  have hb := List.mem_filter.1 (getD_mod_mem h.2 (Config.free s.freeCtr) 0)
  have hslot := List.mem_filter.1 (getD_mod_mem hslots (Config.free (s.freeCtr + 1)) 0)
  refine ⟨_, _, List.mem_range.1 hslot.1, ?_, hb.2, rfl⟩
  simpa using hslot.2

theorem startCall_noBlock {s : State} {c : Call} (h : callPlen c.entry = 0) (n r : Nat) :
    s.startCall n c r = (s.countCall c).callClimb n { c with ridge := r, param := nullH } := if_pos h

theorem startCall_block {s : State} {c : Call} {r : Nat} (hp : callPlen c.entry ≠ 0) (h : s.allocable r (callPlen c.entry) false = true)
    (hk : ∃ k < 8191, Tbl.find s.bufs (8192 * r + k) = none) (n : Nat) :
    ∃ slot b, slot < 8191 ∧ Tbl.find s.bufs (8192 * r + slot) = none ∧ s.gransFree r b (ceilDiv (callPlen c.entry) 1024) = true ∧
      s.startCall n c r = { s.countCall c with
        freeCtr := s.freeCtr + 2,
        bufs := Tbl.set s.bufs (8192 * r + slot) { base := b, grans := ceilDiv (callPlen c.entry) 1024, bytes := callPlen c.entry, owner := 2 ^ 20 },
        calls := Tbl.set s.calls n { c with
          ridge := r, phase := .reading, due := callPlen c.entry,
          param := mkH slot (Tbl.getD s.gens (8192 * r + slot) 0) 0 (callPlen c.entry) },
        out := if c.internal then s.out else s.out ++ [.hostRead (callPaddr c.entry) (callPlen c.entry)] } := by
  have hs0 : s.countCall c = { s with pep := (s.countCall c).pep } := by unfold countCall; split <;> rfl
  obtain ⟨slot, b, hslot, hfree, hgran, halloc⟩ := allocBuf_spec (s := { s with pep := (s.countCall c).pep }) noClimb h hk
  refine ⟨slot, b, hslot, hfree, hgran, ?_⟩
  unfold startCall
  rw [if_neg hp, hs0, halloc]
  dsimp only
  by_cases hi : c.internal = true
  · rw [if_pos hi, if_pos hi]
    rfl
  · rw [if_neg hi, if_neg hi]
    rfl

/-! ### The checks and what follows them (R58 to R61) -/

theorem padTo_length (e : Bytes) : padTo e.length e = e := by simp [padTo, sliceAt]

theorem takeCall_eq (s : State) (int : Bool) {e : Bytes} (he : e.length = 64) {c : Call}
    (hc : c = { internal := int, entry := e, phase := .held, cid := none, ridge := 0xFF, param := nullH, due := 0, discarded := false }) :
    s.takeCall int e = if s.pwr.mode = 7 then { s with stamp := s.stamp + 1, calls := Tbl.set s.calls s.stamp { c with phase := .handover } }
      else ({ s with stamp := s.stamp + 1 } : State).judgeCall s.stamp c := by
  have hpad : padTo 64 e = e := he ▸ padTo_length e
  unfold takeCall
  rw [hpad, ← hc]
  rfl

/-- The firmware's call that fails a check completes at once (R34, R58). -/
theorem judgeCall_refused {s : State} {c : Call} {st : Nat} (h : s.callCheck c.entry = some st) (hi : c.internal = true)
    (hd : c.discarded = false) (n : Nat) : s.judgeCall n c = { s with
      calls := Tbl.del (Tbl.set s.calls n c) n,
      internalCpl := s.internalCpl ++ [sliceAt c.entry 4 4 ++ [BitVec.ofNat 8 st, 0xFF, 0, 0] ++ zeros 8] } := by
  have hfind : Tbl.find (s.setCall n c).calls n = some c := Tbl.find_set_same s.calls n c
  have hcount : (s.setCall n c).countCall c = s.setCall n c := if_pos hi
  unfold judgeCall
  rw [h]
  dsimp only
  rw [refuseCall, hcount, endCall, hfind]
  dsimp only
  rw [hd, hi]
  have hcpl : callCplEntry c.entry st 0xFF 0 0 = sliceAt c.entry 4 4 ++ [BitVec.ofNat 8 st, 0xFF, 0, 0] ++ zeros 8 := by
    simp [callCplEntry, callTag, leBytes, zeros, List.replicate]
  rw [hcpl]
  rfl

theorem callTarget_eq {s : State} {c : Call} {r : Nat} (h : r = callRidge c.entry ∨ callRidge c.entry = 0xFF ∧ s.mostFree = some r)
    (hr : r ≠ 0xFF) : s.callTarget c = some r := by
  unfold callTarget
  rcases h with rfl | ⟨hff, hmost⟩
  · exact if_neg hr
  · rw [if_pos hff, hmost]

/-- Where a checked call goes outside STANDBY (R43, R60, R61). -/
theorem judgeCall_placed {s : State} {c : Call} {r : Nat} (h : s.callCheck c.entry = none) (hm : s.pwr.mode ≠ 1)
    (ht : s.callTarget c = some r) (n : Nat) : s.judgeCall n c =
      if s.heldBefore n (callRidge c.entry) then s.setCall n { c with phase := .held }
      else if s.callRoom c r then s.startCall n c r
      else (if s.freeClimbs r = 0 then s.raise (climbBlk r + 0x10) 2 else s).setCall n { c with phase := .held } := by
  unfold judgeCall placeCall
  rw [h, if_neg hm, ht]

/-- A message of PF0 or PF1 changes PF0's state and what leaves the head (R413). -/
theorem sendVec_frame (s : State) (fn v : Nat) : ∃ p o, s.sendVec fn v = { s with pep := p, out := o } := by
  unfold sendVec
  dsimp only
  split
  · exact ⟨s.pep, s.out, rfl⟩
  · split
    · exact ⟨_, s.out, rfl⟩
    · exact ⟨s.pep, _, rfl⟩

theorem levelRise_frame (s t : State) : ∃ p o, levelRise s t = { t with pep := p, out := o } := by
  unfold levelRise
  refine List.foldlRecOn (motive := fun u : State => ∃ p o, u = { t with pep := p, out := o }) _ _ ⟨t.pep, t.out, rfl⟩ fun u hu v _ => ?_
  obtain ⟨p, o, rfl⟩ := hu
  split
  · obtain ⟨p', o', h⟩ := sendVec_frame { t with pep := p, out := o } 0 v
    exact ⟨p', o', h⟩
  · exact ⟨p, o, rfl⟩

/-- A raised flag changes its register, PF0's state and what leaves the head (R10, R413). -/
theorem raise_frame (s : State) (off m : Nat) : ∃ r p o, s.raise off m = { s with regs := r, pep := p, out := o } := by
  obtain ⟨p, o, h⟩ := levelRise_frame s (s.setReg off (s.reg off ||| BitVec.ofNat 64 m))
  exact ⟨_, p, o, h⟩

@[simp] theorem raise_calls (s : State) (off m : Nat) : (s.raise off m).calls = s.calls := by
  obtain ⟨r, p, o, h⟩ := raise_frame s off m
  rw [h]

theorem reg_raise {s : State} (h : Tbl.sorted s.regs = true) (off m r : Nat) :
    (s.raise off m).reg r = if r = off then s.reg off ||| BitVec.ofNat 64 m else s.reg r :=
  (reg_of_regs (raise_regs s off m) r).trans (reg_setReg h off r _)

theorem raise_sorted {s : State} (h : Tbl.sorted s.regs = true) (off m : Nat) : Tbl.sorted (s.raise off m).regs = true := by
  rw [raise_regs]
  exact setReg_sorted s off _ h

/-! ### Held calls (R15, R61) -/

/-- The ridge that R15 picks: the present one with the most FREE climbs, the lowest in a tie. -/
theorem mostFree_eq {s : State} {r : Nat} (h8 : r < 8) (hp : s.ridgePresent r = true)
    (h : ∀ k < 8, k ≠ r → s.ridgePresent k = true → s.freeClimbs k < s.freeClimbs r ∨ (s.freeClimbs k = s.freeClimbs r ∧ r < k))
    (hle : ∀ k < 8, s.freeClimbs k ≤ 1024) : s.mostFree = some r := by
  refine minBy_eq_some (List.Pairwise.filter _ List.pairwise_lt_range) (List.mem_filter.2 ⟨List.mem_range.2 h8, hp⟩) fun k hk hkr => ?_
  obtain ⟨hk8, hkp⟩ := List.mem_filter.1 hk
  have h1 := h k (List.mem_range.1 hk8) hkr hkp
  have h2 := hle r h8
  omega

/-- What becomes of the oldest held call of a choice (R61). -/
theorem exec_heldCallStart {s : State} {who : Option Nat} {n : Nat} {c : Call}
    (h : s.calls.find? (fun p => decide (p.2.phase = .held) && decide (callRidge p.2.entry = who.getD 0xFF)) = some (n, c)) :
    exec (.heldCallStart who) s =
      if s.heldBefore n (who.getD 0xFF) then .next s
      else if c.param ≠ nullH then .next (if s.freeClimbs c.ridge = 0 then s else s.callClimb n c)
      else match s.callTarget c with
        | none => .next s
        | some r => if s.callRoom c r then .next (s.startCall n c r) else .next s := by
  have hk := List.find?_some h
  simp only [Bool.and_eq_true, decide_eq_true_eq] at hk
  show execHeldCallStart who s = _
  unfold execHeldCallStart
  rw [h, ← hk.2] <;> rfl

theorem exec_heldCallStart_none {s : State} (h : ∀ p ∈ s.calls, p.2.phase ≠ .held) (who : Option Nat) :
    exec (.heldCallStart who) s = .next s := by
  show execHeldCallStart who s = _
  unfold execHeldCallStart
  rw [List.find?_eq_none.2 fun p hp => by simp [h p hp]]

theorem exec_handoverCallCheck_idle {s : State} (h : s.pwr.mode = 7 ∨ ∀ p ∈ s.calls, p.2.phase ≠ .handover) :
    exec .handoverCallCheck s = .next s := by
  show execHandoverCallCheck s = _
  unfold execHandoverCallCheck
  split
  · rfl
  · next hm =>
    have hno := h.resolve_left hm
    refine congrArg _ (List.foldlRecOn (motive := fun u : State => u = s) _ _ rfl fun u hu p hp => ?_)
    rw [if_neg (hno p hp), hu]

/-! ### Parameter blocks (R59, R62) -/

theorem exec_paramBlockRead {s : State} {n : Nat} {c : Call} (h : Tbl.find s.calls n = some c) (hr : c.phase = .reading) (ok : Bool) :
    exec (.paramBlockRead n ok) s =
      if !c.internal then (if c.due ≠ 0 then .next s else .next (s.climbOrHold n c))
      else if !ok then .next (s.paramFault n c)
      else .next (((s.dmaTouch (callPaddr c.entry) (callPlen c.entry) false).wrBytes (bufBase c.ridge + (s.bufOf c.ridge c.param).base * 1024)
          (s.rdBytes (callPaddr c.entry) (callPlen c.entry))).climbOrHold n c) := by
  show execParamBlockRead n ok s = _
  unfold execParamBlockRead
  rw [h]
  dsimp only
  rw [if_neg (not_not.2 hr)]

theorem climbOrHold_starts {s : State} {c : Call} (h : s.freeClimbs c.ridge ≠ 0) (n : Nat) :
    s.climbOrHold n c = s.callClimb n { c with due := 0 } := if_neg h

theorem climbOrHold_held {s : State} {c : Call} (h : s.freeClimbs c.ridge = 0) (n : Nat) :
    s.climbOrHold n c = { s.raise (climbBlk c.ridge + 0x10) 2 with calls := Tbl.set s.calls n { c with phase := .held, due := 0 } } := by
  rw [climbOrHold, if_pos h, setCall, raise_calls]

theorem setDue_zero {c : Call} (h : c.due = 0) : { c with due := 0 } = c := by
  cases c
  cases h
  rfl

/-- A failed read of the firmware's call completes with PARAM_FAULT and frees the buffer (R59). -/
theorem paramFault_internal {s : State} {n : Nat} {c : Call} (h : Tbl.find s.calls n = some c) (hi : c.internal = true)
    (hp : c.param ≠ nullH) (hd : c.discarded = false) : s.paramFault n c = { s.freeBuf c.ridge (hSlot c.param) with
      calls := Tbl.del s.calls n,
      internalCpl := s.internalCpl ++ [sliceAt c.entry 4 4 ++ [0x07, 0xFF, 0, 0] ++ zeros 8] } := by
  have hcalls : (s.freeBuf c.ridge (hSlot c.param)).calls = s.calls := by unfold freeBuf; split <;> rfl
  have hcpl : (s.freeBuf c.ridge (hSlot c.param)).internalCpl = s.internalCpl := by unfold freeBuf; split <;> rfl
  unfold paramFault
  rw [if_pos hi]
  dsimp only
  rw [if_neg hp, endCall, hcalls, h]
  dsimp only
  rw [hd, hi, hcpl]
  simp [callCplEntry, callTag, leBytes, zeros, List.replicate]

theorem dmaTouch_onlyCache (s : State) (a n : Nat) (wr : Bool) : onlyCache s (s.dmaTouch a n wr) := by
  unfold dmaTouch
  split
  · exact dramTouch_onlyCache s a n wr
  · exact .refl s

theorem freeClimbs_dmaTouch (s : State) (a n : Nat) (wr : Bool) (x : Nat) (d : Bytes) (r : Nat) :
    ((s.dmaTouch a n wr).wrBytes x d).freeClimbs r = s.freeClimbs r := by
  obtain ⟨rg, mp, st, fc, h⟩ := dmaTouch_onlyCache s a n wr
  rw [h]
  rfl

/-! ### LOP entries (R26 to R30) -/

/-- The first word of an updated LOP entry, its GEN advanced by two (R26, R28). -/
def lopWordOf (u : LopUpdate) (old : Nat) : Nat :=
  b2n u.valid + u.typ % 8 * 2 + b2n (decide (u.posUnit ≠ 0)) * 2 ^ 4 + u.phase % 8 * 2 ^ 5 + u.pool % 16 * 2 ^ 8
    + b2n u.device * 2 ^ 12 + (if u.phase = 3 then 10000 else min 9999 (10000 * u.done / max 1 u.work)) * 2 ^ 16
    + (bits old 32 16 + 2) % 65536 * 2 ^ 32

/-- The four words of an entry are written. -/
def lopFill (s : State) (i : Nat) (u : LopUpdate) : State :=
  (((s.setReg (0xF0000 + i * 0x20) (BitVec.ofNat 64 (lopWordOf u (s.lopWord i)))).setReg (0xF0008 + i * 0x20) u.position).setReg
    (0xF0010 + i * 0x20) u.total).setReg (0xF0018 + i * 0x20) u.start

/-- An entry that ends is ordered among the finished ones. -/
def lopFinish (s : State) (i : Nat) (u : LopUpdate) (old : Nat) : State :=
  if u.phase ∈ [3, 4, 5] ∧ lopPhase old ∉ [3, 4, 5] then { s with lopEnded := Tbl.set s.lopEnded i s.stamp }.tick else s

/-- A changed PHASE and a taken entry are announced (R30). -/
def lopAnnounce (s : State) (i : Nat) (u : LopUpdate) (old : Nat) : State :=
  if u.taken ∨ lopPhase old ≠ u.phase then (s.raise rLopChanged (2 ^ i)).raise rLopChangedHost (2 ^ i) else s

theorem lop_writable (m : Nat) {i : Nat} (hi : i < 64) : mayWrite m (0xF0000 + i * 0x20) = true := by
  have hb : ctlBlock ((0xF0000 + i * 0x20) / 8 * 8) = some (.lop, i * 0x20) := by
    have h1 : (0xF0000 + i * 0x20) / 8 * 8 = 0xF0000 + i * 0x20 := by omega
    have h2 : (0xF0000 + i * 0x20) / 0x10000 = 15 := by omega
    have h3 : (0xF0000 + i * 0x20) % 0x10000 = i * 0x20 := by omega
    have h4 : 0xF0000 + i * 0x20 < 0x100000 := by omega
    rw [h1]
    simp only [ctlBlock, h2, h3, if_pos h4]
  unfold mayWrite
  rw [hb]
  rfl

theorem exec_lopEntryUpdate {s : State} {m i : Nat} (h0 : 0x20 ≤ m) (h1 : m < 0x24) (hi : i < 64)
    (hg : s.gate m (0xF0000 + i * 0x20) 8 true = .open) (u : LopUpdate) :
    exec (.lopEntryUpdate m i u) s = .next
      (if u.device then ((s.lopFill i u).lopFinish i u (s.lopWord i)).lopAnnounce i u (s.lopWord i)
       else (((s.lopFill i u).lopFinish i u (s.lopWord i)).lopAnnounce i u (s.lopWord i)).shadowLopSend i (u.pool % 16)) := by
  show execLopEntryUpdate m i u s = _
  unfold execLopEntryUpdate
  rw [if_neg (by omega), gated, hg]
  dsimp only
  rw [lop_writable m hi, if_pos rfl, if_neg (by omega)]
  rfl

/-- A frame of the rope changes the rope and what leaves the head (R314). -/
theorem sendRope_frame (s : State) (typ : Nat) (prio : Bool) (d : Bytes) :
    s.sendRope typ prio d = { s with rope := (s.sendRope typ prio d).rope, out := (s.sendRope typ prio d).out } := by
  unfold sendRope
  split
  · rfl
  · dsimp only
    split <;> rfl

theorem shadowLopSend_frame (s : State) (i p : Nat) : ∃ rp o, s.shadowLopSend i p = { s with rope := rp, out := o } := by
  unfold shadowLopSend
  dsimp only
  split
  · exact ⟨_, _, sendRope_frame _ _ _ _⟩
  · exact ⟨s.rope, s.out, rfl⟩

/-- The registers of an entry after its four words are written. -/
theorem reg_lopFill {s : State} (h : Tbl.sorted s.regs = true) (i : Nat) (u : LopUpdate) (r : Nat) :
    (s.lopFill i u).reg r =
      if r = 0xF0018 + i * 0x20 then u.start else if r = 0xF0010 + i * 0x20 then u.total else if r = 0xF0008 + i * 0x20 then u.position
      else if r = 0xF0000 + i * 0x20 then BitVec.ofNat 64 (lopWordOf u (s.lopWord i)) else s.reg r := by
  have h1 := setReg_sorted s (0xF0000 + i * 0x20) (BitVec.ofNat 64 (lopWordOf u (s.lopWord i))) h
  have h2 := setReg_sorted _ (0xF0008 + i * 0x20) u.position h1
  have h3 := setReg_sorted _ (0xF0010 + i * 0x20) u.total h2
  rw [lopFill, reg_setReg h3, reg_setReg h2, reg_setReg h1, reg_setReg h]

theorem lopFill_sorted {s : State} (h : Tbl.sorted s.regs = true) (i : Nat) (u : LopUpdate) : Tbl.sorted (s.lopFill i u).regs = true :=
  setReg_sorted _ _ _ (setReg_sorted _ _ _ (setReg_sorted _ _ _ (setReg_sorted _ _ _ h)))

theorem lopFinish_regs (s : State) (i : Nat) (u : LopUpdate) (old : Nat) : (s.lopFinish i u old).regs = s.regs := by
  unfold lopFinish
  split <;> rfl

theorem reg_lopAnnounce {s : State} (h : Tbl.sorted s.regs = true) (i : Nat) (u : LopUpdate) (old r : Nat) :
    (s.lopAnnounce i u old).reg r =
      if (u.taken = true ∨ lopPhase old ≠ u.phase) ∧ r ∈ [rLopChanged, rLopChangedHost] then s.reg r ||| BitVec.ofNat 64 (2 ^ i) else s.reg r := by
  unfold lopAnnounce
  by_cases hc : u.taken = true ∨ lopPhase old ≠ u.phase
  · rw [if_pos hc, reg_raise (raise_sorted h _ _), reg_raise h, reg_raise h]
    by_cases h1 : r = rLopChangedHost
    · subst h1
      simp [hc, rLopChanged, rLopChangedHost]
    · by_cases h2 : r = rLopChanged
      · subst h2
        simp [hc, h1]
      · simp [h1, h2]
  · rw [if_neg hc, if_neg fun hh => hc hh.1]

theorem setReg_frame (s : State) (off : Nat) (v : W64) : ∃ rg, s.setReg off v = { s with regs := rg } := ⟨_, rfl⟩

theorem lopFill_frame (s : State) (i : Nat) (u : LopUpdate) : ∃ rg, s.lopFill i u = { s with regs := rg } := by
  obtain ⟨r1, h1⟩ := setReg_frame s (0xF0000 + i * 0x20) (BitVec.ofNat 64 (lopWordOf u (s.lopWord i)))
  obtain ⟨r2, h2⟩ := setReg_frame { s with regs := r1 } (0xF0008 + i * 0x20) u.position
  obtain ⟨r3, h3⟩ := setReg_frame { s with regs := r2 } (0xF0010 + i * 0x20) u.total
  obtain ⟨r4, h4⟩ := setReg_frame { s with regs := r3 } (0xF0018 + i * 0x20) u.start
  exact ⟨r4, by rw [lopFill, h1, h2, h3, h4]⟩

/-- What an update of an entry leaves unchanged. -/
theorem lopUpdate_frame (s : State) (i : Nat) (u : LopUpdate) (old : Nat) :
    ∃ r p o st le, ((s.lopFill i u).lopFinish i u old).lopAnnounce i u old =
      { s with regs := r, pep := p, out := o, stamp := st, lopEnded := le } := by
  obtain ⟨rg, hfill⟩ := lopFill_frame s i u
  have hfin : ∃ st le, ({ s with regs := rg } : State).lopFinish i u old = { s with regs := rg, stamp := st, lopEnded := le } := by
    unfold lopFinish
    split
    · exact ⟨_, _, rfl⟩
    · exact ⟨s.stamp, s.lopEnded, rfl⟩
  obtain ⟨st, le, hfin⟩ := hfin
  rw [hfill, hfin]
  unfold lopAnnounce
  split
  · obtain ⟨r1, p1, o1, h1⟩ := raise_frame { s with regs := rg, stamp := st, lopEnded := le } rLopChanged (2 ^ i)
    rw [h1]
    obtain ⟨r2, p2, o2, h2⟩ := raise_frame { s with stamp := st, lopEnded := le, regs := r1, pep := p1, out := o1 } rLopChangedHost (2 ^ i)
    exact ⟨r2, p2, o2, st, le, h2⟩
  · exact ⟨rg, s.pep, s.out, st, le, rfl⟩

/-- An update of a LOP entry by a management core: its registers and its frame (R26 to R30). -/
theorem lopEntryUpdate_spec {s : State} {m i : Nat} (h0 : 0x20 ≤ m) (h1 : m < 0x24) (hi : i < 64) (hs : Tbl.sorted s.regs = true)
    (hg : s.gate m (0xF0000 + i * 0x20) 8 true = .open) (u : LopUpdate) :
    ∃ t, gives (.lopEntryUpdate m i u) s t ∧ t.reg (0xF0000 + i * 0x20) = BitVec.ofNat 64 (lopWordOf u (s.lopWord i)) ∧
      t.reg (0xF0008 + i * 0x20) = u.position ∧ t.reg (0xF0010 + i * 0x20) = u.total ∧ t.reg (0xF0018 + i * 0x20) = u.start ∧
      (∀ r ∈ [rLopChanged, rLopChangedHost], t.reg r =
        if u.taken = true ∨ lopPhase (s.lopWord i) ≠ u.phase then s.reg r ||| BitVec.ofNat 64 (2 ^ i) else s.reg r) ∧
      t.calls = s.calls ∧ t.pools = s.pools ∧ t.climbs = s.climbs ∧ t.mem = s.mem := by
  have hexec := exec_lopEntryUpdate h0 h1 hi hg u
  generalize ha : ((s.lopFill i u).lopFinish i u (s.lopWord i)).lopAnnounce i u (s.lopWord i) = a at hexec
  have hreg (r : Nat) : a.reg r =
      if (u.taken = true ∨ lopPhase (s.lopWord i) ≠ u.phase) ∧ r ∈ [rLopChanged, rLopChangedHost]
      then (s.lopFill i u).reg r ||| BitVec.ofNat 64 (2 ^ i) else (s.lopFill i u).reg r := by
    have hfin := lopFinish_regs (s.lopFill i u) i u (s.lopWord i)
    rw [← ha, reg_lopAnnounce (by rw [hfin]; exact lopFill_sorted hs i u), reg_of_regs hfin]
  have hframe := lopUpdate_frame s i u (s.lopWord i)
  rw [ha] at hframe
  obtain ⟨rg, p, o, st, le, hframe⟩ := hframe
  obtain ⟨rp, o', hsend⟩ := shadowLopSend_frame a i (u.pool % 16)
  have hword (k : Nat) (hk : k < 32) : a.reg (0xF0000 + i * 0x20 + k) = (s.lopFill i u).reg (0xF0000 + i * 0x20 + k) := by
    rw [hreg, if_neg]
    simp only [List.mem_cons, List.not_mem_nil, or_false, rLopChanged, rLopChangedHost]
    omega
  have hann (r : Nat) (hr : r ∈ [rLopChanged, rLopChangedHost]) : a.reg r =
      if u.taken = true ∨ lopPhase (s.lopWord i) ≠ u.phase then s.reg r ||| BitVec.ofNat 64 (2 ^ i) else s.reg r := by
    have hold : (s.lopFill i u).reg r = s.reg r := by
      simp only [List.mem_cons, List.not_mem_nil, or_false, rLopChanged, rLopChangedHost] at hr
      rw [reg_lopFill hs, if_neg (by omega), if_neg (by omega), if_neg (by omega), if_neg (by omega)]
    rw [hreg, hold]
    simp only [hr, and_true]
  have h0' := hword 0 (by omega)
  have h8' := hword 8 (by omega)
  have h10' := hword 16 (by omega)
  have h18' := hword 24 (by omega)
  rw [reg_lopFill hs] at h0' h8' h10' h18'
  have htarget (t : State) (ht : t.regs = a.regs) (hother : t.calls = a.calls ∧ t.pools = a.pools ∧ t.climbs = a.climbs ∧ t.mem = a.mem) :
      t.reg (0xF0000 + i * 0x20) = BitVec.ofNat 64 (lopWordOf u (s.lopWord i)) ∧
      t.reg (0xF0008 + i * 0x20) = u.position ∧ t.reg (0xF0010 + i * 0x20) = u.total ∧ t.reg (0xF0018 + i * 0x20) = u.start ∧
      (∀ r ∈ [rLopChanged, rLopChangedHost], t.reg r =
        if u.taken = true ∨ lopPhase (s.lopWord i) ≠ u.phase then s.reg r ||| BitVec.ofNat 64 (2 ^ i) else s.reg r) ∧
      t.calls = s.calls ∧ t.pools = s.pools ∧ t.climbs = s.climbs ∧ t.mem = s.mem := by
    simp only [reg_of_regs ht]
    rw [hframe] at hother
    refine ⟨?_, ?_, ?_, ?_, hann, hother⟩
    · simpa using h0'
    · simpa [Nat.add_right_comm] using h8'
    · simpa [Nat.add_right_comm] using h10'
    · simpa [Nat.add_right_comm] using h18'
  by_cases hd : u.device = true
  · rw [if_pos hd] at hexec
    exact ⟨a, hexec, htarget a rfl ⟨rfl, rfl, rfl, rfl⟩⟩
  · rw [if_neg hd, hsend] at hexec
    exact ⟨_, hexec, htarget _ rfl ⟨rfl, rfl, rfl, rfl⟩⟩

end State

/-- Settles O22: the climb of a call, its start, the dispatch, the checks, the held and read calls, and the LOP entries. -/
theorem routeCallsRunInOrder : Obligations.RouteCallsRunInOrder := by
  unfold Obligations.RouteCallsRunInOrder
  refine ⟨?_, ?_, ?_, ?_, ?_, ?_⟩
  · intro s n cid c hcid hwf
    rw [callClimb_eq hcid]
    refine ⟨?_, fun k hk => ?_, fun x => Mem.read_wipe s.mem (localAddr cid) 512 x, rfl⟩
    · exact (climb_setClimb s cid cid _).trans ((if_pos rfl).trans (callContext_registers s n c))
    · exact (climb_setClimb s cid k _).trans (if_neg hk)
  · rintro s n r c s0 rfl
    exact ⟨fun hp => startCall_noBlock hp n r, fun hp ha hk => startCall_block hp ha hk n⟩
  · rintro s u e q int c cmd he hcmd hc
    have htake : exec cmd s = .next (if s.pwr.mode = 7 then { u with calls := Tbl.set s.calls s.stamp { c with phase := .handover } }
        else u.judgeCall s.stamp c) := by
      rcases hcmd with ⟨rfl, rfl, rfl⟩ | ⟨rfl, rfl, hq, hbme, hfrozen, hlink, rfl⟩
      · exact congrArg _ (takeCall_eq s true he hc)
      · have hgo : ¬ ((!s.pep.bme0 || s.pep.frozen0 || !s.pep.linkUp) = true) := by simp [hbme, hfrozen, hlink]
        show execRouteCallDispatch none s = _
        unfold execRouteCallDispatch
        simp only [hq]
        rw [if_neg hgo, takeCall_eq _ false he hc]
        rfl
    exact ⟨fun hm => htake.trans (congrArg _ (if_pos hm)), fun hm => htake.trans (congrArg _ (if_neg hm))⟩
  · intro s n r c
    refine ⟨fun st hst hs hi hd => ⟨_, judgeCall_refused hst hi hd n, fun k => ?_, rfl⟩, fun hno hm => ?_, fun hno hm ht hr => ?_⟩
    · split
      · next hk => rw [hk, Tbl.find_del_same (Tbl.sorted_set hs n c)]
      · next hk => rw [Tbl.find_del_other _ hk, Tbl.find_set_other _ _ hk]
    · unfold judgeCall placeCall
      rw [hno]
      dsimp only
      rw [if_pos hm, setCall, countCall]
      split <;> rfl
    · have hj := judgeCall_placed hno hm (callTarget_eq ht hr) n
      refine ⟨fun hb hroom => ?_, fun hb => ?_, fun hb hf hroom => ?_, fun hb hf => ?_⟩
      · rw [hj, hb, hroom]
        rfl
      · rw [hj, hb]
        rfl
      · rw [hj, hb, hroom, if_neg (by omega : ¬ s.freeClimbs r = 0)]
        rfl
      · have hroom : s.callRoom c r = false := by simp [callRoom, hf]
        rw [hj, hb, hroom, if_neg Bool.false_ne_true, if_neg Bool.false_ne_true, if_pos hf, setCall, raise_calls]
  · intro s n r c
    refine ⟨fun who key hwho hle hfind => ?_, fun hno => ⟨exec_heldCallStart_none hno _, exec_heldCallStart_none hno _⟩,
      fun hidle => exec_handoverCallCheck_idle hidle, fun hm hcalls hph => ?_, fun hfind hph => ?_⟩
    · have hkey : who.getD 0xFF = key := by rcases hwho with ⟨rfl, rfl, -⟩ | ⟨rfl, rfl, -⟩ <;> rfl
      have hexec := exec_heldCallStart (s := s) (who := who) (by rw [hkey]; exact hfind)
      have hridge : callRidge c.entry = key := by
        have := List.find?_some hfind
        simp only [Bool.and_eq_true, decide_eq_true_eq] at this
        exact this.2
      have htarget : s.callTarget c = some r := by
        rcases hwho with ⟨-, rfl, hr⟩ | ⟨-, rfl, h8, hp, hbest⟩
        · exact callTarget_eq (.inl hridge.symm) hr
        · exact callTarget_eq (.inr ⟨hridge, mostFree_eq h8 hp hbest hle⟩) (by omega)
      rw [hkey, htarget] at hexec
      dsimp only at hexec
      refine ⟨fun hb => ?_, fun hb hp hroom => ?_, fun hb hp hroom => ?_, fun hb hp => ?_⟩
      · rwa [if_pos hb] at hexec
      · rw [hb] at hexec
        rwa [if_neg Bool.false_ne_true, if_neg (not_not.2 hp), if_pos hroom] at hexec
      · rw [hb] at hexec
        rwa [if_neg Bool.false_ne_true, if_neg (not_not.2 hp), hroom, if_neg Bool.false_ne_true] at hexec
      · rw [hb] at hexec
        rwa [if_neg Bool.false_ne_true, if_pos hp] at hexec
    · show execHandoverCallCheck s = _
      unfold execHandoverCallCheck
      rw [if_neg hm, hcalls]
      simp only [List.foldl_cons, List.foldl_nil, hph, if_true]
    · refine ⟨fun hi hd hf => ?_, fun hi hd hf => ?_, fun hi hf => ?_, fun hi hp hd => ?_⟩
      · have hexec := exec_paramBlockRead hfind hph true
        rw [hi, climbOrHold_starts hf, setDue_zero hd] at hexec
        simpa [hd] using hexec
      · have hexec := exec_paramBlockRead hfind hph true
        rw [hi, climbOrHold_held hf] at hexec
        simpa [hd] using hexec
      · have hexec := exec_paramBlockRead hfind hph true
        have hfree := (freeClimbs_dmaTouch s (callPaddr c.entry) (callPlen c.entry) false
          (bufBase c.ridge + (s.bufOf c.ridge c.param).base * 1024) (s.rdBytes (callPaddr c.entry) (callPlen c.entry)) c.ridge).trans_ne hf
        rw [hi, climbOrHold_starts hfree] at hexec
        exact hexec
      · have hexec := exec_paramBlockRead hfind hph false
        rw [hi, paramFault_internal hfind hi hp hd] at hexec
        exact hexec
  · rintro s m i pct u w old h0 h1 hi hs hg rfl rfl hw
    have hword : lopWordOf u (s.lopWord i) = w := by
      rw [hw, lopWordOf]
      by_cases hp : u.posUnit = 0 <;> simp [hp, b2n, lopWord]
    exact hword ▸ lopEntryUpdate_spec h0 h1 hi hs hg u

end Sys2Proof.Machine
end

section
/-! How groups are accepted, landed, flushed and cancelled, and how checkpoints and recovery proceed (O34). -/

open Sys2Proof Sys2Proof.Machine Sys2Proof.Machine.State

namespace Sys2Proof.Machine

/-! ### Applying entries leaves a pool's journal -/

namespace Pool

/-- What accepting a group writes of a pool's journal (R229, R231): the next SEQ and the journal buffer. -/
def journal (x : Pool) : Nat × List Group := (x.seq, x.jbuf)

theorem journal_foldl {α : Type} {f : Pool → α → Pool} (hf : ∀ x a, (f x a).journal = x.journal) (l : List α) (x : Pool) :
    (l.foldl f x).journal = x.journal := by
  induction l generalizing x with
  | nil => rfl
  | cons a l ih => exact (ih (f x a)).trans (hf x a)

theorem journal_ite {c : Prop} [Decidable c] {x a b : Pool} (ha : a.journal = x.journal) (hb : b.journal = x.journal) :
    (if c then a else b).journal = x.journal := by
  split
  · exact ha
  · exact hb

variable (x : Pool)

@[simp] theorem journal_setDir (m : Nat) (d : DirE) : (x.setDir m d).journal = x.journal := rfl
@[simp] theorem journal_setLine (ln : Nat) (l : Line) : (x.setLine ln l).journal = x.journal := rfl
@[simp] theorem journal_setUse (a : Nat) (u : SlabUse) : (x.setUse a u).journal = x.journal := rfl
@[simp] theorem journal_updNs (n : Nat) (f : Ns → Ns) : (x.updNs n f).journal = x.journal := rfl
@[simp] theorem journal_updSeg (n : Nat) (f : Seg → Seg) : (x.updSeg n f).journal = x.journal := rfl
@[simp] theorem journal_updUnit (n : Nat) (f : LUnit → LUnit) : (x.updUnit n f).journal = x.journal := rfl
@[simp] theorem journal_pairPart (n part : Nat) (d : Bytes) : (x.pairPart n part d).journal = x.journal := rfl

@[simp] theorem journal_setRec (h : Nat) (r : CRec) : (x.setRec h r).journal = x.journal := by
  unfold setRec
  split <;> rfl

@[simp] theorem journal_refAdd (h : Nat) (d : Int) : (x.refAdd h d).journal = x.journal := by
  unfold refAdd
  cases Tbl.find x.recs h with
  | none => rfl
  | some r =>
    exact journal_ite (journal_setRec x h _) (journal_setRec x h _)

@[simp] theorem journal_touch (m : Nat) : (x.touch m).journal = x.journal := by
  unfold touch
  dsimp only
  split <;> rfl

@[simp] theorem journal_touchLine (ln : Nat) (hold : Bool) : (x.touchLine ln hold).journal = x.journal := by
  unfold touchLine
  dsimp only
  split
  · simp
  · split
    · split <;> simp
    · simp

@[simp] theorem journal_setObjs (n : Nat) (f : List Obj → List Obj) : (x.setObjs n f).journal = x.journal := by
  unfold setObjs
  cases Tbl.find x.nss n with
  | none => rfl
  | some y =>
    refine (journal_foldl (fun q i => ?_) _ _).trans rfl
    split
    · rfl
    · exact journal_touch q _

@[simp] theorem journal_setPreserved (l : List Preserved) (i : Nat) : (x.setPreserved l i).journal = x.journal := by
  refine (journal_foldl (fun q j => ?_) _ _).trans rfl
  split <;> rfl

@[simp] theorem journal_addPreserved (im : Preserved) : (x.addPreserved im).journal = x.journal := journal_setPreserved x _ _
@[simp] theorem journal_delPreserved (m high : Nat) : (x.delPreserved m high).journal = x.journal := journal_setPreserved x _ _

/-- Counting each chunk of some lines up or down. -/
@[simp] theorem journal_lineRefs (ls : Tbl Line) (d : Int) :
    (ls.foldl (fun (q : Pool) y => (lineRefs y.2).foldl (fun q h => q.refAdd h d) q) x).journal = x.journal :=
  journal_foldl (fun q y => journal_foldl (fun q h => journal_refAdd q h d) (lineRefs y.2) q) ls x

@[simp] theorem journal_preserve (m low high : Nat) : (x.preserve m low high).journal = x.journal := by
  unfold preserve
  split
  · dsimp only
    split
    · exact journal_addPreserved x _
    · rfl
  · exact (journal_addPreserved _ _).trans ((journal_setDir _ _ _).trans (journal_lineRefs x _ 1))

@[simp] theorem journal_applySlab (sa use member owner seq : Nat) (time : W64) :
    (x.applySlab sa use member owner seq time).journal = x.journal := by
  unfold applySlab
  dsimp only
  split
  · rfl
  · split <;> rfl

/-- An entry changes what it names in its pool and never the journal. -/
theorem journal_applyEntry (seq : Nat) (time : W64) (st : Pool × Option (Nat × Bytes)) (e : Bytes) :
    (applyEntry seq time st e).1.journal = st.1.journal := by
  obtain ⟨x, key⟩ := st
  unfold applyEntry
  dsimp only
  split
  case h_1 => exact journal_setRec x _ _
  case h_2 => exact journal_refAdd x _ _
  case h_3 => exact journal_ite ((journal_setRec _ _ _).trans (journal_updSeg x _ _)) (journal_updSeg x _ _)
  case h_4 | h_5 | h_6 => exact journal_touchLine _ _ _
  case h_7 => split <;> simp
  case h_8 => split <;> simp
  case h_9 =>
    split
    · split <;> rfl
    · rfl
    · rfl
  case h_10 => split <;> exact journal_applySlab x _ _ _ _ _ _
  case h_14 =>
    split
    · rfl
    · split <;> rfl
  case h_18 =>
    split
    · rfl
    · rfl
    · split <;> rfl
    · rfl
    · split
      · exact (journal_delPreserved _ _ _).trans
          (journal_ite (journal_lineRefs x _ _) ((journal_refAdd _ _ _).trans (journal_lineRefs x _ _)))
      · rfl
  case h_19 => exact journal_preserve x _ _ _
  case h_25 =>
    split
    · rfl
    · rfl
    · rfl
    · split
      · split <;> rfl
      · rfl
  case h_11 | h_12 | h_15 | h_16 | h_17 | h_20 | h_22 | h_24 => split <;> rfl
  case h_13 | h_21 | h_23 | h_26 => rfl

/-- So does a list of entries, in any order. -/
theorem journal_applyEntries (seq : Nat) (time : W64) (es : List Bytes) (st : Pool × Option (Nat × Bytes)) :
    (es.foldl (applyEntry seq time) st).1.journal = st.1.journal := by
  induction es generalizing st with
  | nil => rfl
  | cons e es ih => exact (ih _).trans (journal_applyEntry seq time st e)

theorem journal_applyGroup (g : Group) : (x.applyGroup g).journal = x.journal := journal_applyEntries _ _ _ _
theorem journal_applyEarly (g : Group) : (x.applyEarly g).journal = x.journal := journal_applyEntries _ _ _ _

end Pool

/-! ### Work on the index -/

namespace State

/-- `t` is `s` but for registers, memory, the map cache and the index store. -/
def onlyIndex (s t : State) : Prop :=
  ∃ rg mp st fc me is ir, t = { s with regs := rg, mapc := mp, stamp := st, freeCtr := fc, mem := me, idxStore := is, idxRuns := ir }

theorem onlyIndex.refl (s : State) : onlyIndex s s := ⟨_, _, _, _, _, _, _, rfl⟩

theorem onlyIndex.trans {s t u : State} (h : onlyIndex s t) (g : onlyIndex t u) : onlyIndex s u := by
  obtain ⟨_, _, _, _, _, _, _, rfl⟩ := h
  obtain ⟨rg, mp, st, fc, me, is, ir, rfl⟩ := g
  exact ⟨rg, mp, st, fc, me, is, ir, rfl⟩

theorem onlyIndex.of_onlyCache {s t : State} (h : onlyCache s t) : onlyIndex s t := by
  obtain ⟨rg, mp, st, fc, rfl⟩ := h
  exact ⟨rg, mp, st, fc, _, _, _, rfl⟩

theorem onlyIndex.pools {s t : State} (h : onlyIndex s t) : t.pools = s.pools := by
  obtain ⟨_, _, _, _, _, _, _, rfl⟩ := h
  rfl

theorem onlyIndex.modules {s t : State} (h : onlyIndex s t) : t.modules = s.modules := by
  obtain ⟨_, _, _, _, _, _, _, rfl⟩ := h
  rfl

theorem onlyIndex.foldl {α : Type} {f : State → α → State} (hf : ∀ s a, onlyIndex s (f s a)) (l : List α) (s : State) :
    onlyIndex s (l.foldl f s) := by
  induction l generalizing s with
  | nil => exact .refl s
  | cons a l ih => exact (hf s a).trans (ih _)

variable (s : State)

theorem wrBytes_onlyIndex (a : Nat) (d : Bytes) : onlyIndex s (s.wrBytes a d) := ⟨_, _, _, _, _, _, _, rfl⟩
theorem mergeRun_onlyIndex (p : Nat) : onlyIndex s (s.mergeRun p) := ⟨_, _, _, _, _, _, _, rfl⟩
theorem idxStore_onlyIndex (is : Tbl (List IdxEntry)) : onlyIndex s { s with idxStore := is } := ⟨_, _, _, _, _, _, _, rfl⟩

theorem idxAppend_onlyIndex (r p : Nat) (e : IdxEntry) : onlyIndex s (s.idxAppend r p e) := by
  unfold idxAppend
  have h1 : onlyIndex s (if (s.idxLog p).length < (s.idxLogAt r p).2 then
      (s.dramTouch ((s.idxLogAt r p).1 + 48 * (s.idxLog p).length) 48 true).wrBytes ((s.idxLogAt r p).1 + 48 * (s.idxLog p).length)
        (entryBytes e) else s) := by
    split
    · exact (onlyIndex.of_onlyCache (dramTouch_onlyCache s _ _ _)).trans (wrBytes_onlyIndex _ _ _)
    · exact .refl s
  dsimp only
  split
  · exact (h1.trans (idxStore_onlyIndex _ _)).trans (mergeRun_onlyIndex _ _)
  · exact h1.trans (idxStore_onlyIndex _ _)

theorem touchBuckets_onlyCache (b l : Nat) (d : Bytes) (wr : Bool) : onlyCache s (s.touchBuckets b l d wr) :=
  (dramTouch_onlyCache s _ _ _).trans (dramTouch_onlyCache _ _ _ _)

theorem idxRemove_onlyIndex (r b l p : Nat) (d : Bytes) (len h : Nat) : onlyIndex s (s.idxRemove r b l p d len h).1 := by
  unfold idxRemove
  dsimp only
  have hb : onlyIndex s (s.bump (ridgeBlk r 9 + 0x20) 0 64 (b2n (s.probeOne b l p d len false).read)) :=
    .of_onlyCache (bump_onlyCache s _ _ _ _)
  split
  · split
    · exact hb
    · have ha := fun e => (hb.trans (idxAppend_onlyIndex _ r p e)).trans (.of_onlyCache (touchBuckets_onlyCache _ b l d true))
      split
      · exact (ha _).trans (wrBytes_onlyIndex _ _ _)
      · exact ha _
  · exact hb

theorem svcRemove_onlyIndex (r p : Nat) (d : Bytes) (len h : Nat) : onlyIndex s (s.svcRemove r p d len h) := by
  unfold svcRemove
  split
  · exact idxRemove_onlyIndex s _ _ _ _ _ _ _
  · split
    · split
      · exact idxAppend_onlyIndex s _ _ _
      · exact .refl s
    · exact .refl s

/-- The REMOVEs of a pool's dying list change the index and empty the list (R141). -/
theorem settleDying_spec (p : Nat) : ∃ t, onlyIndex s t ∧ s.settleDying p = t.updPool p (fun q => { q with dying := [] }) :=
  ⟨_, .foldl (fun t _ => svcRemove_onlyIndex t _ _ _ _ _) (s.pool p).dying s, rfl⟩

end State
end Sys2Proof.Machine

namespace Sys2Proof.Machine

/-! ### Accepting a group -/

theorem length_sliceAt (b : Bytes) (o n : Nat) : (sliceAt b o n).length = n := by
  simp [sliceAt]

theorem length_spliceAt (b : Bytes) (o : Nat) (x : Bytes) : (spliceAt b o x).length = max b.length (o + x.length) := by
  simp only [spliceAt, List.length_append, length_sliceAt, List.length_drop]
  omega

/-- A field within the spliced bytes. -/
theorem fieldAt_spliceAt_in (b : Bytes) (o : Nat) (x : Bytes) {j n : Nat} (h : j + n ≤ x.length) :
    fieldAt (spliceAt b o x) (o + j) n = fieldAt x j n := by
  unfold fieldAt spliceAt
  rw [← List.drop_drop, List.append_assoc, List.drop_left' (length_sliceAt b 0 o), List.drop_append_of_le_length (by omega),
    List.take_append_of_le_length (by simp; omega)]

/-- A field before the spliced bytes. -/
theorem fieldAt_spliceAt_before {b : Bytes} {o i n : Nat} (x : Bytes) (h : i + n ≤ o) (ho : o ≤ b.length) :
    fieldAt (spliceAt b o x) i n = fieldAt b i n := by
  have hs : sliceAt b 0 o = b.take o := by simp [sliceAt, ho]
  unfold fieldAt spliceAt
  rw [hs, List.append_assoc, List.drop_append_of_le_length (by simp; omega),
    List.take_append_of_le_length (by simp; omega), List.drop_take, List.take_take, Nat.min_eq_left (by omega)]

/-- A field of BEGIN that stands before GROUP_CRC. -/
theorem fieldAt_begin {b : Bytes} (hb : b.length = 32) {x : Bytes} (hx : x.length ≤ 20) (y : Bytes) {j n : Nat} (h : j + n ≤ x.length) :
    fieldAt (spliceAt (spliceAt (spliceAt b 8 x) 0x1C (zeros 4)) 0x1C y) (8 + j) n = fieldAt x j n := by
  have h1 : (spliceAt b 8 x).length = 32 := by rw [length_spliceAt]; omega
  have h2 : (spliceAt (spliceAt b 8 x) 0x1C (zeros 4)).length = 32 := by
    rw [length_spliceAt, h1, zeros, List.length_replicate]
    rfl
  rw [fieldAt_spliceAt_before _ (by omega) (by omega), fieldAt_spliceAt_before _ (by omega) (by omega), fieldAt_spliceAt_in _ _ _ h]

/-- A group keeps the number of its entries, and its BEGIN carries SEQ, EPOCH and COUNT (R228). -/
theorem fillGroup_cons (seq epoch : Nat) (time : W64) {e : Bytes} (he : e.length = 32) (es : List Bytes) :
    ∃ b r, fillGroup seq epoch time (e :: es) = b :: r ∧ r.length = es.length ∧ fieldAt b 8 8 = seq % 2 ^ 64 ∧
      fieldAt b 0x14 4 = epoch % 2 ^ 32 ∧ fieldAt b 0x18 2 = (es.length + 1) % 2 ^ 16 := by
  unfold fillGroup
  simp only [List.length_cons, List.range_succ_eq_map, List.map_cons]
  have hlen : ∀ x y z : Bytes, x.length = 1 → y.length = 1 → z.length = 4 →
      (spliceAt (spliceAt (spliceAt e 1 x) 3 y) 4 z).length = 32 := fun x y z hx hy hz => by
    rw [length_spliceAt, length_spliceAt, length_spliceAt, he, hx, hy, hz]
    rfl
  have hb := hlen _ _ _ (leBytes_length 1 (bits (fieldAt e 1 1) 1 1 * 2 + b2n (decide (0 + 1 = es.length + 1)))) (leBytes_length 1 0)
    (leBytes_length 4 time.toNat)
  generalize time.toNat / 2 ^ 32 = th
  have hx : (leBytes 8 seq ++ leBytes 4 th ++ leBytes 4 epoch ++ leBytes 2 (es.length + 1)).length = 18 := by simp
  refine ⟨_, _, rfl, by simp, ?_, ?_, ?_⟩
  · refine (fieldAt_begin hb (by omega) _ (j := 0) (by omega)).trans ?_
    simpa using fieldAt_append [] (leBytes 4 th ++ (leBytes 4 epoch ++ leBytes 2 (es.length + 1))) 8 seq
  · refine (fieldAt_begin hb (by omega) _ (j := 12) (by omega)).trans ?_
    simpa using fieldAt_append (leBytes 8 seq ++ leBytes 4 th) (leBytes 2 (es.length + 1)) 4 epoch
  · refine (fieldAt_begin hb (by omega) _ (j := 16) (by omega)).trans ?_
    simpa using fieldAt_append (leBytes 8 seq ++ leBytes 4 th ++ leBytes 4 epoch) [] 2 (es.length + 1)

@[simp] theorem entry_length (typ flags pool : Nat) (payload : Bytes) : (entry typ flags pool payload).length = 32 := by
  simp [entry, padTo, length_sliceAt, zeros]

namespace State

theorem pool_of_find {s : State} {p : Nat} {x : Pool} (h : Tbl.find s.pools p = some x) : s.pool p = { x with num := p } := by
  simp [pool, Tbl.getD, h]

theorem pool_of_pools {s t : State} (h : t.pools = s.pools) (p : Nat) : t.pool p = s.pool p := by
  unfold pool
  rw [h]

theorem pool_setPool (s : State) (p : Nat) (x : Pool) : (s.setPool p x).pool p = { x with num := p } :=
  pool_of_find (Tbl.find_set_same s.pools p x)

/-- A pool of the array's table is changed. -/
theorem find_updPool {s : State} {p : Nat} (h : (Tbl.find s.pools p).isSome = true) (f : Pool → Pool) :
    Tbl.find (s.updPool p f).pools p = some (f (s.pool p)) := by
  obtain ⟨x, hx⟩ := Option.isSome_iff_exists.1 h
  rw [pool_of_find hx]
  unfold updPool Tbl.upd
  rw [hx]
  exact Tbl.find_set_same s.pools p _

theorem pool_updPool {s : State} {p : Nat} (h : (Tbl.find s.pools p).isSome = true) (f : Pool → Pool) :
    (s.updPool p f).pool p = { f (s.pool p) with num := p } := pool_of_find (find_updPool h f)

theorem sendRope_pools (s : State) (typ : Nat) (prio : Bool) (d : Bytes) : (s.sendRope typ prio d).pools = s.pools := by
  rw [sendRope_frame]

theorem sendRope_modules (s : State) (typ : Nat) (prio : Bool) (d : Bytes) : (s.sendRope typ prio d).modules = s.modules := by
  rw [sendRope_frame]

/-- Adding work in flight changes nothing else. -/
theorem addSvcs_frame (l : List Svc) (s : State) : ∃ w, s.addSvcs l = { s with svc := w } := by
  unfold addSvcs
  induction l generalizing s with
  | nil => exact ⟨s.svc, rfl⟩
  | cons a l ih =>
    obtain ⟨w, h⟩ := ih (s.addSvc a)
    exact ⟨w, h⟩

/-- The group that is accepted under the next SEQ (R229). -/
def newGroup (s : State) (p origin : Nat) (es : List Bytes) : Group :=
  { seq := (s.pool p).seq, entries := fillGroup (s.pool p).seq (s.pool p).epoch s.time (eBegin p origin :: es) }

/-- `t` lists pool `p` with the journal `j`, and has the modules of `s`. -/
def journals (s t : State) (p : Nat) (j : Nat × List Group) : Prop :=
  (Tbl.find t.pools p).isSome = true ∧ (t.pool p).journal = j ∧ t.modules = s.modules

theorem journals.of_eq {s t u : State} {p : Nat} {j : Nat × List Group} (h : journals s t p j) (hp : u.pools = t.pools) (hm : u.modules = t.modules) :
    journals s u p j := by
  obtain ⟨h1, h2, h3⟩ := h
  exact ⟨by rw [hp, h1], by rw [pool_of_pools hp, h2], by rw [hm, h3]⟩

theorem journals.updPool {s t : State} {p : Nat} {j : Nat × List Group} (h : journals s t p j) {f : Pool → Pool}
    (hf : ∀ x, (f x).journal = x.journal) : journals s (t.updPool p f) p j := by
  obtain ⟨h1, h2, h3⟩ := h
  refine ⟨by rw [find_updPool h1]; rfl, ?_, h3⟩
  rw [pool_updPool h1]
  exact (hf (t.pool p)).trans h2

theorem journals.settleDying {s t : State} {p : Nat} {j : Nat × List Group} (h : journals s t p j) : journals s (t.settleDying p) p j := by
  obtain ⟨u, hu, hs⟩ := settleDying_spec t p
  rw [hs]
  exact (h.of_eq hu.pools hu.modules).updPool fun _ => rfl

/-- The item of a group that goes to the shadow, where there is one (R322). -/
theorem journals.streamed {s t : State} {p : Nat} {j : Nat × List Group} (h : journals s t p j) (b : Bool) (d : Bytes) (q : Nat) :
    journals s (if b then (t.sendRope 0x04 false d).updPool p (fun y => { y with sentSeqs := y.sentSeqs ++ [q] }) else t) p j := by
  split
  · exact (h.of_eq (sendRope_pools t _ _ d) (sendRope_modules t _ _ d)).updPool fun _ => rfl
  · exact h

/-- The group's way to the relay logs (R338). -/
theorem journals.relays {s t : State} {p : Nat} {j : Nat × List Group} (h : journals s t p j) (l : List Nat) (g : Group) :
    journals s (l.foldl (fun (t : State) m => { t with svc := Tbl.set t.svc (Tbl.next t.svc) (.relay p m g) }) t) p j := by
  induction l generalizing t with
  | nil => exact h
  | cons m l ih => exact ih (h.of_eq rfl rfl)

/-- The pool once a group has its SEQ (R229, R231): a host write is pending, every other group is applied. -/
def withGroup (x : Pool) (origin : Nat) (g : Group) : Pool :=
  let y := { x with seq := x.seq + 1, jbuf := insSeq x.jbuf g }
  if origin = 0 then { (y.applyEarly g) with waiting := y.waiting ++ [g] } else y.applyGroup g

theorem journal_withGroup (x : Pool) (origin : Nat) (g : Group) : (withGroup x origin g).journal = (x.seq + 1, insSeq x.jbuf g) := by
  unfold withGroup
  dsimp only
  split
  · exact Pool.journal_applyEarly { x with seq := x.seq + 1, jbuf := insSeq x.jbuf g } g
  · exact Pool.journal_applyGroup _ _

theorem journals_setPool (s : State) (p : Nat) (x : Pool) : journals s (s.setPool p x) p x.journal :=
  ⟨by rw [setPool, Tbl.find_set_same]; rfl, by rw [pool_setPool]; rfl, rfl⟩

/-- Accepting a group takes the next SEQ and puts the group in the journal buffer; the modules stay. -/
theorem acceptGroup_journals (s : State) (p origin ref : Nat) (es : List Bytes) :
    journals s (s.acceptGroup p origin es none ref).1 p ((s.pool p).seq + 1, insSeq (s.pool p).jbuf (s.newGroup p origin es)) := by
  have h := journals_setPool s p (withGroup (s.pool p) origin (s.newGroup p origin es))
  rw [journal_withGroup] at h
  have h1 := h.settleDying.streamed (s.streams p)
    (journalItem p 0 (s.newGroup p origin es).bytes.length ref (s.newGroup p origin es).bytes) (s.pool p).seq
  unfold acceptGroup
  dsimp only
  split
  · exact h1.relays _ _
  · exact h1

theorem acceptGroup_group (s : State) (p origin ref : Nat) (es : List Bytes) :
    (s.acceptGroup p origin es none ref).2 = s.newGroup p origin es := rfl

end State
end Sys2Proof.Machine

namespace Sys2Proof.Machine

namespace State

/-! ### Checkpoints that end -/

theorem evalFill_listed {s : State} {p : Nat} (h : (Tbl.find s.pools p).isSome = true) :
    (Tbl.find (s.evalFill p).pools p).isSome = true := by
  unfold evalFill
  dsimp only
  split
  · exact h
  · exact (journals_setPool s p _).1

/-- A pool stays listed while groups of it are submitted. -/
theorem submit_listed {s : State} {p : Nat} (h : (Tbl.find s.pools p).isSome = true) (origin : Nat) (es : List Bytes) :
    (Tbl.find (s.submit p origin es).pools p).isSome = true := by
  have ha := (acceptGroup_journals s p origin 0 es).1
  unfold submit
  dsimp only
  split
  · exact h
  · split
    · exact evalFill_listed ha
    · exact ha

theorem inGroups_listed (p origin n f : Nat) (l : List Bytes) {s : State} (h : (Tbl.find s.pools p).isSome = true) :
    (Tbl.find (s.inGroups p origin n f l).pools p).isSome = true := by
  induction f generalizing s l with
  | zero => exact h
  | succ f ih =>
    unfold inGroups
    split
    · exact h
    · exact ih _ (submit_listed h origin _)

theorem addSvcs_pools (l : List Svc) (s : State) : (s.addSvcs l).pools = s.pools := by
  obtain ⟨w, h⟩ := addSvcs_frame l s
  rw [h]

/-- An owned pool is listed. -/
theorem listed_of_owns {s : State} {p : Nat} (h : s.owns p = true) : (Tbl.find s.pools p).isSome = true := by
  cases hf : Tbl.find s.pools p with
  | some x => rfl
  | none =>
    have : (s.pool p).rel = Rel.owner := of_decide_eq_true h
    simp [pool, Tbl.getD, hf, Pool.fresh] at this

/-- The state in which the record of a checkpoint that ends is written: CKPT and the count downs accepted, erases due (R235 step 4). -/
def ckptFreed (s : State) (p : Nat) : State :=
  let x := s.pool p
  let s1 := s.submit p 5 (eCkpt p (x.ckpt.writing.getD 0) (x.ckpt.gen + 1) :: (x.ckpt.olds.take 1000).map (fun h => eRef p h false 1))
  let s2 := s1.inGroups p 5 1000 (x.ckpt.olds.length + 1) ((x.ckpt.olds.drop 1000).map (fun h => eRef p h false 1))
  let s3 := s2.addSvcs (((triplesBefore x).flatMap id ++ x.ckpt.chain).map (fun a => .erase p a))
  { s3 with ckpts := Tbl.del s3.ckpts (2 ^ 64 * p + x.ckpt.gen) }

/-- The record of a checkpoint of `x` that ends. -/
def ckptEnded (x y : Pool) : Pool := { y with
  triples := y.triples.drop (triplesBefore x).length, closed := false,
  ckpt := { y.ckpt with stage := 0, writing := none, olds := [], chain := x.ckpt.newChain, newChain := [], gen := x.ckpt.gen + 1, anchorAt := x.ckpt.at_ } }

theorem ckptDone_eq (s : State) (p : Nat) : s.ckptDone p = (s.ckptFreed p).updPool p (ckptEnded (s.pool p)) := rfl

theorem ckptFreed_listed {s : State} {p : Nat} (h : (Tbl.find s.pools p).isSome = true) : (Tbl.find (s.ckptFreed p).pools p).isSome = true := by
  unfold ckptFreed
  dsimp only
  rw [addSvcs_pools]
  exact inGroups_listed _ _ _ _ _ (submit_listed h _ _)

/-- A checkpoint ends with the next generation in force (R235 step 4). -/
theorem ckptDone_pool {s : State} {p : Nat} (h : s.owns p = true) :
    (s.ckptDone p).pool p = { ckptEnded (s.pool p) ((s.ckptFreed p).pool p) with num := p } := by
  rw [ckptDone_eq, pool_updPool (ckptFreed_listed (listed_of_owns h))]

/-! ### The flush -/

theorem sumBy_eq {α : Type} (f : α → Nat) (l : List α) : sumBy f l = (l.map f).sum := by
  have h : ∀ n, l.foldl (fun n x => n + f x) n = n + (l.map f).sum := by
    induction l with
    | nil => exact fun n => rfl
    | cons a l ih => exact fun n => by rw [List.foldl_cons, ih, List.map_cons, List.sum_cons, Nat.add_assoc]
  exact (h 0).trans (Nat.zero_add _)

theorem sumBy_cons {α : Type} (f : α → Nat) (a : α) (l : List α) : sumBy f (a :: l) = f a + sumBy f l := by
  rw [sumBy_eq, sumBy_eq, List.map_cons, List.sum_cons]

/-- Groups that fit are all at the front. -/
theorem flushPrefix_all (l : List Group) : ∀ room, sumBy (fun g => g.bytes.length) l ≤ room → flushPrefix room l = l := by
  induction l with
  | nil => exact fun _ _ => by simp [flushPrefix]
  | cons g l ih =>
    intro room h
    rw [sumBy_cons] at h
    rw [flushPrefix, if_pos (by omega), ih _ (by omega)]

theorem le_foldl_max (f : Group → Nat) (l : List Group) (m : Nat) :
    m ≤ l.foldl (fun m g => max m (f g)) m ∧ ∀ g ∈ l, f g ≤ l.foldl (fun m g => max m (f g)) m := by
  induction l generalizing m with
  | nil => simp
  | cons g l ih =>
    obtain ⟨h1, h2⟩ := ih (max m (f g))
    refine ⟨le_trans (le_max_left _ _) h1, fun y hy => ?_⟩
    rcases List.mem_cons.1 hy with rfl | hy
    · exact le_trans (le_max_right _ _) h1
    · exact h2 y hy

/-- A flush with nothing to write writes nothing. -/
theorem flushNow_held {s : State} {p : Nat} (h : ∀ g ∈ (s.pool p).jbuf, s.heldSeq p ≤ g.seq) : s.flushNow p = s := by
  unfold flushNow
  have hf : (s.pool p).jbuf.filter (fun g => decide (g.seq < s.heldSeq p)) = [] :=
    List.filter_eq_nil_iff.2 fun g hg => by simpa using h g hg
  refine if_pos ?_
  dsimp only
  rw [hf]
  rfl

/-- The record of a pool whose whole journal buffer is flushed in `n` pages (R233). -/
def flushed (x : Pool) (n : Nat) (time : W64) : Pool := { x with
  jbuf := [], jpage := x.jpage + n, flushAt := time,
  flushes := x.flushes ++ [{
    last := x.jbuf.foldl (fun m g => max m g.seq) 0,
    left := x.triple.foldl (fun t a => Tbl.set t a (ceilDiv n 16)) [] }],
  ckpt := { x.ckpt with flushed := x.ckpt.flushed + 4096 * n } }

/-- A flush of the whole journal buffer into the present triple (R233). -/
theorem flushNow_all {s : State} {p : Nat} (hne : (s.pool p).jbuf ≠ []) (hheld : ∀ g ∈ (s.pool p).jbuf, g.seq < s.heldSeq p)
    (htriple : (s.pool p).triple.length = 3) (hclose : (s.pool p).jclose = false) {n : Nat} (hn : n ≤ 1024) (hroom : (s.pool p).jpage + n + 1024 ≤ 4096)
    (hbytes : n = ceilDiv (sumBy (fun g => g.bytes.length) (s.pool p).jbuf) 4096)
    (hpages : (flushPages p (s.pool p).epoch ((s.pool p).slabUse ((s.pool p).triple.getD 0 0)).owner (s.pool p).jpage s.time (s.pool p).jbuf).length = n) :
    ∃ svcs, s.flushNow p = (s.setPool p (flushed (s.pool p) n s.time)).addSvcs svcs := by
  have hready : flushPrefix (1024 * 4096) ((s.pool p).jbuf.filter (fun g => decide (g.seq < s.heldSeq p))) = (s.pool p).jbuf := by
    rw [List.filter_eq_self.2 fun g hg => by simpa using hheld g hg]
    refine flushPrefix_all _ _ ?_
    have := hbytes ▸ hn
    unfold ceilDiv at this
    omega
  have hrest : (s.pool p).jbuf.filter (fun g => decide ((s.pool p).jbuf.foldl (fun m g => max m g.seq) 0 < g.seq)) = [] :=
    List.filter_eq_nil_iff.2 fun g hg => by simpa using (le_foldl_max Group.seq (s.pool p).jbuf 0).2 g hg
  have hempty : (s.pool p).jbuf.isEmpty = false := by simpa using hne
  have h1 : ¬ (s.pool p).jpage + n + 1024 > 4096 := by omega
  have h2 : (decide ((s.pool p).jpage + n > 4096) || (s.pool p).jclose) = false := by
    rw [hclose, Bool.or_false]
    exact decide_eq_false (by omega)
  have h3 : ¬ ((s.pool p).triple.length < 3 ∨ (s.pool p).jpage + n > 4096) := by omega
  unfold flushNow
  simp only [hready, hempty, ← hbytes, if_neg h1, h2, Bool.false_eq_true, if_false, if_neg h3, hpages, hrest]
  exact ⟨_, rfl⟩

end State
end Sys2Proof.Machine

namespace Sys2Proof.Machine

/-! ### What the commands of the journal do -/

section
variable {s : State} {n p : Nat}

theorem exec_writeCompletionPosted {q : Nat} {c : HCmd} (hc : Tbl.find s.host.cmds n = some c) (hq : c.seq = some q)
    (hp : s.nsPool c.cap.nsid = some p) : exec (.writeCompletionPosted n) s =
      if c.phase = .accepted ∧ (s.plan n).isNone ∧ (!s.hasShadow p ∨ q ∉ (s.pool p).sentSeqs) then .next (s.finishCmd n stOk 0 0)
      else .next s := by
  show execWriteCompletionPosted n s = _
  simp only [execWriteCompletionPosted, hc, hq, hp]

theorem exec_landingRetryTimeout {c : HCmd} {w : WPlan} {t : W64} (hc : Tbl.find s.host.cmds n = some c) (hw : s.plan n = some w)
    (ht : c.retryAt = some t) : exec (.landingRetryTimeout n) s =
      if t.toNat > s.time.toNat then .next (s.landRetry w.pool)
      else if w.accepted then .next (s.cancelPlan n w (some n))
      else if w.cancelBy > (((s.landFailed n).abandonPlan n).pool w.pool).durable then
        .next (((s.landFailed n).abandonPlan n).afterCancel w.pool w.cancelBy (some n))
      else .next (((s.landFailed n).abandonPlan n).finishCmd n stTransfer 0 0) := by
  show execLandingRetryTimeout n s = _
  simp only [execLandingRetryTimeout, hc, hw, ht]

theorem exec_cancel {w : WPlan} (hw : s.plan n = some w) :
    exec (.cancel n) s = if !w.accepted then .next s else .next (s.cancelPlan n w (some n)) := by
  show execCancel n s = _
  simp only [execCancel, hw]

theorem exec_budgetRefill {x : Pool} (hx : Tbl.find s.pools p = some x) : exec (.budgetRefill p) s =
    .next { s with pools := Tbl.set s.pools p { x with num := p, budget := min (4 * 2 ^ 30) (x.budget + 2 ^ 28) } } := by
  show execBudgetRefill p s = _
  unfold execBudgetRefill updPool Tbl.upd
  rw [hx]

/-- A checkpoint that is not running starts when it is due, or waits for what is in flight (R234). -/
theorem exec_checkpoint_idle (ho : s.owns p = true) (h0 : (s.pool p).ckpt.stage = 0) : exec (.checkpoint p) s =
    if (s.time - (s.pool p).ckpt.at_).toNat ≥ 3000000000 ∨ (s.pool p).ckpt.flushed ≥ 2 ^ 30 ∨ (s.pool p).closed then
      if s.cutBusy p then .next (s.updPool p (fun y => { y with ckpt := { y.ckpt with cutting := true } })) else .next (s.ckptCut p)
    else .next s := by
  show execCheckpoint p s = _
  simp only [execCheckpoint, ho, h0, Bool.not_true, Bool.false_eq_true, if_false]

theorem exec_checkpoint_chain (ho : s.owns p = true) (h2 : (s.pool p).ckpt.stage = 2) : exec (.checkpoint p) s = .next (s.ckptChain p) := by
  show execCheckpoint p s = _
  simp only [execCheckpoint, ho, h2, Bool.not_true, Bool.false_eq_true, if_false]

theorem exec_recovery {sb : Bytes} (ho : s.owns p = true) (hr : (s.pool p).recovering = true) (hs : s.newestAnchor p = some sb) :
    exec (.recovery p) s =
      if (s.recoverPool p sb).pwr.mode = 3 ∧ (s.recoverPool p sb).pair.headIdClash = false ∧
          !(s.recoverPool p sb).pools.any (fun q => decide (q.2.rel = .owner) && q.2.recovering) then
        .next ((s.recoverPool p sb).setMode 6)
      else .next (s.recoverPool p sb) := by
  show execRecovery p s = _
  simp only [execRecovery, ho, hr, hs, Bool.not_true, Bool.or_self, Bool.false_eq_true, if_false]

/-- The group of a write is cancelled by name where the pool keeps no index of digests (R232). -/
theorem cancelPlan_plain {w : WPlan} {u : State} {g : Group} (hd : (s.pool w.pool).cfg.dedup = false)
    (ha : s.acceptGroup w.pool 4 [eCancel w.pool w.seq] none 0 = (u, g)) :
    s.cancelPlan n w (some n) = ((((((u.unland w.pool w.seq).dropSvcs n).addSvcs (w.mods.map (fun m => .cancel w.pool m g))).updPool w.pool
      (fun y => { y with cancels := y.cancels ++ [({ seq := g.seq, by_ := g.seq, cmd := some n } : Cancelled)] })).delPlan n).unstall w.pool) := by
  unfold cancelPlan cancelGroup
  simp only [hd, ha]
  rfl

end

/-- A group that is accepted has the next SEQ in its BEGIN, stands in the journal buffer, and leaves the modules (R228, R229, R231). -/
theorem acceptGroup_spec {s t : State} {p origin ref : Nat} {es : List Bytes} {g : Group} (h : s.acceptGroup p origin es none ref = (t, g))
    (hn : es.length < 2 ^ 16 - 1) :
    g.seq = (s.pool p).seq ∧ g.entries.length = es.length + 1 ∧ (t.pool p).seq = (s.pool p).seq + 1 ∧
    (t.pool p).jbuf = insSeq (s.pool p).jbuf g ∧
    fieldAt g.begin' 8 8 = (s.pool p).seq % 2 ^ 64 ∧ fieldAt g.begin' 0x14 4 = (s.pool p).epoch % 2 ^ 32 ∧
    fieldAt g.begin' 0x18 2 = es.length + 1 ∧ t.modules = s.modules := by
  have hg : s.newGroup p origin es = g := congrArg Prod.snd h
  have ht := acceptGroup_journals s p origin ref es
  rw [h, hg] at ht
  obtain ⟨-, hj, hm⟩ := ht
  obtain ⟨hseq, hbuf⟩ := Prod.mk.inj hj
  obtain ⟨b, r, hfill, hlen, hSeq, hEpoch, hCount⟩ :=
    fillGroup_cons (s.pool p).seq (s.pool p).epoch s.time (e := eBegin p origin) (entry_length _ _ _ _) es
  have he : g.entries = b :: r := hg ▸ hfill
  have hb : g.begin' = b := by rw [Group.begin', he]; rfl
  rw [Nat.mod_eq_of_lt (by omega)] at hCount
  exact ⟨hg ▸ rfl, by rw [he, List.length_cons, hlen], hseq, hbuf, hb ▸ hSeq, hb ▸ hEpoch, hb ▸ hCount, hm⟩

/-- Settles O34: a group is accepted by `acceptGroup_spec`, a whole flush is `flushNow_all`, a checkpoint ends by `ckptDone_pool`; the other
clauses are the cases of their commands. -/
theorem journalAndCheckpointsAdvance : Obligations.JournalAndCheckpointsAdvance := by
  unfold Obligations.JournalAndCheckpointsAdvance
  refine ⟨fun s t p origin ref es g h hn => acceptGroup_spec h hn, ?_, ?_, ?_, ?_, ?_, ?_, ?_⟩
  · intro s n q p c hc hq hp
    have he := exec_writeCompletionPosted hc hq hp
    refine ⟨fun hph hpl hs => ?_, fun hs hm => he.trans (if_neg ?_), fun hpl => he.trans (if_neg ?_)⟩
    · exact he.trans (if_pos ⟨hph, by rw [hpl]; rfl, hs.imp (fun h => by rw [h]; rfl) id⟩)
    · rintro ⟨-, -, h | h⟩
      · rw [hs] at h
        exact Bool.false_ne_true h
      · exact h hm
    · rintro ⟨-, h, -⟩
      rw [Option.isNone_iff_eq_none.1 h] at hpl
      exact Bool.false_ne_true hpl
  · intro s n c w t hc hw ht
    have he := exec_landingRetryTimeout hc hw ht
    refine ⟨fun h => he.trans (if_pos h), ?_, fun h ha => by rw [gives, he, if_neg (by omega), if_pos ha]⟩
    rintro u h ha rfl
    rw [if_neg (by omega), if_neg (by rw [ha]; exact Bool.false_ne_true)] at he
    exact ⟨fun hd => he.trans (if_neg (by omega)), fun hd => he.trans (if_pos hd)⟩
  · intro s n w hw
    refine ⟨fun ha => (exec_cancel hw).trans (if_pos (by rw [ha]; rfl)),
      fun ha => (exec_cancel hw).trans (if_neg (by rw [ha]; exact Bool.false_ne_true)), ?_⟩
    rintro u g x hd ha rfl
    exact cancelPlan_plain hd ha
  · rintro s p x rfl
    refine ⟨fun ho h => if_pos ⟨ho, h⟩, fun h1 h2 => if_neg ?_, flushNow_held, fun ps hne hheld htri hcl hps hroom hpages hbytes => ?_⟩
    · rintro ⟨-, h | h⟩ <;> omega
    · obtain ⟨svcs, h⟩ := flushNow_all hne hheld htri hcl hps hroom hbytes (hpages ▸ rfl)
      obtain ⟨w, hw⟩ := addSvcs_frame svcs (s.setPool p (flushed (s.pool p) ps.length s.time))
      rw [h, hw]
      exact ⟨pool_setPool s p (flushed (s.pool p) ps.length s.time), rfl⟩
  · intro s p
    refine ⟨fun h => if_pos (by rw [h]; rfl), fun h => if_pos (by rw [decide_eq_true h, Bool.or_true]), ?_, rfl,
      fun f => ⟨fun h => ?_, fun h => ⟨fun t ht => ?_, fun ht => ?_⟩⟩, fun r h => if_pos h, fun x hx => exec_budgetRefill hx⟩
    · rintro u ho h rfl
      exact if_neg (by rw [ho, decide_eq_false (by omega)]; exact Bool.false_ne_true)
    · cases f with
      | zero => rfl
      | succ f => exact if_pos h
    · rw [fillBivouac, if_neg (by omega), ht]
    · rw [fillBivouac, if_neg (by omega), ht]
  · rintro s p x rfl ho
    refine ⟨fun h0 hdue => ?_, fun n r w hw hcut => if_pos (by rw [hw]; exact hcut), fun h0 h1 h2 h3 => ?_, exec_checkpoint_chain ho, fun h4 hcp => ?_,
      fun h => if_neg ?_, fun _ => ?_⟩
    · have he := (exec_checkpoint_idle ho h0).trans (if_pos hdue)
      exact ⟨fun hb => he.trans (if_neg (by rw [hb]; exact Bool.false_ne_true)), fun hb => he.trans (if_pos hb)⟩
    · refine (exec_checkpoint_idle ho h0).trans (if_neg ?_)
      rintro (h | h | h)
      · omega
      · omega
      · exact Bool.false_ne_true (h3.symm.trans h)
    · exact ⟨fun hcl => (if_pos ⟨ho, h4, hcp⟩).trans (if_neg (by rw [hcl]; exact Bool.false_ne_true)),
        fun hcl => (if_pos ⟨ho, h4, hcp⟩).trans (if_pos hcl)⟩
    · rintro ⟨-, h4, hcp⟩
      exact h.elim (fun h => h h4) (fun h => absurd hcp (by omega))
    · rw [ckptDone_pool ho]
      exact ⟨rfl, rfl, rfl, rfl⟩
  · intro s u p sb
    refine ⟨fun h => if_pos ?_, ?_⟩
    · rcases h with h | h <;> rw [h]
      · rfl
      · rw [Bool.not_false, Bool.or_true]
    · rintro ho hr hs rfl
      have he := exec_recovery ho hr hs
      refine ⟨fun hm hcl hall => he.trans (if_pos ⟨hm, hcl, ?_⟩), fun hm => he.trans (if_neg fun h => hm h.1)⟩
      rw [Bool.not_eq_true', List.any_eq_false]
      exact fun q hq => by simpa using hall q hq

end Sys2Proof.Machine
end

section
/-! How patrol passes run and report, and how lost places are searched (O36). -/

open Sys2Proof Sys2Proof.Machine Sys2Proof.Machine.State

namespace Sys2Proof.Machine

/-! ### Library calls that a route serves -/

section
variable {s : State} {call : Nat} {c : Call}

theorem libCall_running (hc : Tbl.find s.calls call = some c) (hr : c.phase = .running) {slot : Nat} (hs : callSlot c.entry = slot) :
    s.libCall call slot = some c := by
  simp only [libCall, hc, hr, hs, and_self, if_true]

/-- An exit whose RESULT is free takes one free choice (log entry 34). -/
theorem libFail_exit (s : State) (call detail : Nat) : ∃ x, s.libFail call detail = { s with freeCtr := s.freeCtr + 1 }.libExit call detail x :=
  ⟨_, rfl⟩

/-- Records of one size: as many as fit in the parameter block, RESULT their number (R264). -/
theorem libRecords_eq (hc : Tbl.find s.calls call = some c) {recs : List Bytes} {size : Nat} (hl : ∀ r ∈ recs, r.length = size) :
    s.libRecords call recs = (s.setParam c ((recs.take (min recs.length (callPlen c.entry / size))).flatMap id)).libExit call 0
      (min recs.length (callPlen c.entry / size)) := by
  have hfit : recs.take (callPlen c.entry / (recs.headD [0]).length) = recs.take (min recs.length (callPlen c.entry / size)) := by
    cases recs with
    | nil => rw [List.take_nil, List.take_nil]
    | cons r l =>
      rw [List.headD_cons, hl r List.mem_cons_self, List.take_eq_take_iff]
      omega
  unfold libRecords
  rw [hc]
  dsimp only
  rw [hfit, List.length_take, Nat.min_eq_left (Nat.min_le_left _ _)]

end

/-! ### The fixity routes (R264) -/

section
variable {s : State} {call : Nat} {c : Call}

theorem exec_patrolSet (hl : s.libCall call 48 = some c) : exec (.patrolSet call) s =
    let p := callPool c.entry
    let d := callArg c.entry 0
    if !s.owns p || decide (d < 3) || decide (d > 60) || decide (callArg c.entry 1 > 1) then .next (s.libFail call 0x30) else
    let s1 := (s.submit p 4 [eParams p { (s.pool p).cfg with days := d }]).updPool p (fun x =>
      if x.pass.running then { x with pass := { x.pass with due := x.pass.start + BitVec.ofNat 64 (d * dayTicks) } } else x)
    let s2 := if callArg c.entry 1 = 1 ∧ (s1.pool p).pass.running = false then
        (if (s1.pool p).rebuild.running then s1.updPool p (fun x => { x with passNow := true }) else s1.passStart p []) else s1
    .next (s2.libDone call) := by
  show execPatrolSet call s = _
  unfold execPatrolSet
  rw [hl]

/-- A valid PATROL_SET: the period is submitted, and a pass asked for starts, or waits for a rebuild (R29, R264). -/
theorem exec_patrolSet_valid {v : State} (hl : s.libCall call 48 = some c) (ho : s.owns (callPool c.entry) = true)
    (h3 : 3 ≤ callArg c.entry 0) (h60 : callArg c.entry 0 ≤ 60)
    (hv : v = (s.submit (callPool c.entry) 4 [eParams (callPool c.entry) { (s.pool (callPool c.entry)).cfg with days := callArg c.entry 0 }]).updPool
      (callPool c.entry) (fun x => if x.pass.running then
        { x with pass := { x.pass with due := x.pass.start + BitVec.ofNat 64 (callArg c.entry 0 * dayTicks) } } else x))
    (h1 : callArg c.entry 1 ≤ 1) : exec (.patrolSet call) s = .next (State.libDone
      (if callArg c.entry 1 = 1 ∧ (v.pool (callPool c.entry)).pass.running = false then
        (if (v.pool (callPool c.entry)).rebuild.running then v.updPool (callPool c.entry) (fun x => { x with passNow := true })
          else v.passStart (callPool c.entry) []) else v) call) := by
  rw [hv]
  refine (exec_patrolSet hl).trans (if_neg ?_)
  rw [ho, decide_eq_false (by omega), decide_eq_false (by omega), decide_eq_false (by omega)]
  exact Bool.false_ne_true

theorem exec_fixitySummary (hl : s.libCall call 49 = some c) : exec (.fixitySummary call) s =
    match passOf (s.pool (callPool c.entry)) (callArg c.entry 0) with
    | none => .next (s.libFail call 0x30)
    | some ps => .next (s.libRecords call ((s.pool (callPool c.entry)).nss.map (fun q => fixityRec (callPool c.entry) ps q.1 q.2.kind))) := by
  show execFixitySummary call s = _
  unfold execFixitySummary
  rw [hl] <;> rfl

theorem exec_fixityFailures (hl : s.libCall call 50 = some c) : exec (.fixityFailures call) s =
    match passOf (s.pool (callPool c.entry)) (callArg c.entry 0) with
    | none => .next (s.libFail call 0x30)
    | some ps => .next (s.libRecords call ((ps.failures.drop (callArg c.entry 1)).map failRec)) := by
  show execFixityFailures call s = _
  unfold execFixityFailures
  rw [hl] <;> rfl

theorem exec_mediaStatus (hl : s.libCall call 51 = some c) : exec (.mediaStatus call) s =
    .next (s.libRecords call ((s.pool (callPool c.entry)).mods.map (fun m => s.mediaRec (callPool c.entry) m))) := by
  show execMediaStatus call s = _
  unfold execMediaStatus
  rw [hl]

end

/-! ### The records of patrol (R265) -/

@[simp] theorem zeros_length (n : Nat) : (zeros n).length = n := List.length_replicate

theorem padTo_size (n : Nat) (b : Bytes) : (padTo n b).length = n := length_sliceAt b 0 n

theorem fixityRec_length (p : Nat) (ps : Pass) (nsid kind : Nat) : (fixityRec p ps nsid kind).length = 64 := by
  simp [fixityRec]

theorem failRec_length (f : FixFail) : (failRec f).length = 32 := by
  simp [failRec, padTo_size]

theorem mediaRec_length (s : State) (p m : Nat) : (s.mediaRec p m).length = 32 := by
  simp [mediaRec]

theorem mem_map_length {α : Type} {f : α → Bytes} {n : Nat} (h : ∀ a, (f a).length = n) (l : List α) : ∀ r ∈ l.map f, r.length = n :=
  fun r hr => by
    obtain ⟨a, -, rfl⟩ := List.mem_map.1 hr
    exact h a

/-! ### The pass -/

section
variable {s : State} {p : Nat}

/-- A running pass that nothing holds back. -/
theorem exec_patrolPass (ho : s.owns p = true) (hb : (s.pool p).rebuild.running = false) (hr : (s.pool p).pass.running = true)
    (hf : s.opFailed 2 p = false) (marks : List (Nat × Nat × Nat × Nat)) (rep : List (Nat × Bytes)) : exec (.patrolPass p marks rep) s =
    match (s.pool p).pass.queue with
    | [] => .next (s.passEnd p)
    | n :: rest =>
      let s1 := s.patrolSeg p n marks rep
      let s2 := s1.updPool p (fun y => { y with pass := { y.pass with queue := rest, done := y.pass.done + 1, position := rest.headD (n + 1) } })
      let ps := (s2.pool p).pass
      let s3 := s2.lopReport 2 0 0 p ps.done ps.total ps.position ps.start
      if rest.isEmpty then .next (s3.passEnd p) else .next s3 := by
  show execPatrolPass p marks rep s = _
  unfold execPatrolPass
  dsimp only
  rw [ho, hb, hr, hf] <;> rfl

/-- The rate of a running pass (R258). -/
theorem exec_patrolRate (ho : s.owns p = true) (hr : (s.pool p).pass.running = true) : exec (.patrolRate p) s =
    let x := s.pool p
    if x.pass.due.toNat ≤ s.time.toNat then
      let s1 := s.setPool p { x with pass := { x.pass with
        late := true, rate := sumBy (fun m => if s.modUp m then (s.modu m).ident.readBw * 1000000 else 0) x.mods * 3600 / 20 } }
      if x.pass.late then .next s1 else .next (s1.libBook 0x103 (leBytes 1 p ++ leBytes 4 x.pass.no))
    else .next (s.setPool p { x with pass := { x.pass with rate := passLeft x * 360000000000 / (x.pass.due.toNat - s.time.toNat) } }) := by
  refine if_neg ?_
  rw [ho, hr]
  exact Bool.false_ne_true

/-- One module's poll (R256): read, then judged. -/
def healthPoll (p : Nat) (pages : List (Nat × Bytes)) (t : State) (m : Nat) : State :=
  if !t.modUp m then t else
  let t1 := match pages.find? (fun q => decide (q.1 = m)) with
    | some q => (t.setModu m { t.modu m with critical := (q.2.getD 0 0).toNat }).mpcCount (m / 4) 512 0
    | none => t
  if (t1.modu m).critical ≠ 0 ∨ t1.wornOut p m = true then t1.evacuate p m else t1

theorem exec_moduleHealthPoll (ho : s.owns p = true) (h : 6000000000 ≤ (s.time - (s.pool p).healthAt).toNat) (pages : List (Nat × Bytes)) :
    exec (.moduleHealthPoll p pages) s =
      .next ((s.pool p).mods.foldl (healthPoll p pages) (s.setPool p { s.pool p with healthAt := s.time })) := by
  refine if_neg ?_
  rw [ho, decide_eq_false (by omega)]
  exact Bool.false_ne_true

/-- The functions that `Obligations.PatrolAndFixityReport` names are the poll. -/
theorem healthPoll_eq {pages : List (Nat × Bytes)} {read judge poll : State → Nat → State}
    (hnone : ∀ (t : State) (m : Nat), pages.find? (fun q => decide (q.1 = m)) = none → read t m = t)
    (hsome : ∀ (t : State) (m : Nat) (b : Bytes), pages.find? (fun q => decide (q.1 = m)) = some (m, b) →
      read t m = (t.setModu m { t.modu m with critical := (b.getD 0 0).toNat }).mpcCount (m / 4) 512 0)
    (hjudge : ∀ (t : State) (m : Nat), ((t.modu m).critical ≠ 0 ∨ t.wornOut p m = true → judge t m = t.evacuate p m) ∧
      ((t.modu m).critical = 0 → t.wornOut p m = false → judge t m = t))
    (hpoll : ∀ (t : State) (m : Nat), (t.modUp m = false → poll t m = t) ∧ (t.modUp m = true → poll t m = judge (read t m) m)) :
    poll = healthPoll p pages := by
  funext t m
  have hread : read t m = match pages.find? (fun q => decide (q.1 = m)) with
      | some q => (t.setModu m { t.modu m with critical := (q.2.getD 0 0).toNat }).mpcCount (m / 4) 512 0
      | none => t := by
    cases hq : pages.find? (fun q => decide (q.1 = m)) with
    | none => exact hnone t m hq
    | some q =>
      obtain ⟨k, b⟩ := q
      have hk := List.find?_some hq
      obtain rfl : k = m := of_decide_eq_true hk
      exact hsome t k b hq
  unfold healthPoll
  cases hu : t.modUp m with
  | false => exact (hpoll t m).1 hu
  | true =>
    rw [(hpoll t m).2 hu, hread, Bool.not_true, if_neg Bool.false_ne_true]
    have hj : ∀ u : State, judge u m = if (u.modu m).critical ≠ 0 ∨ u.wornOut p m = true then u.evacuate p m else u := fun u => by
      split
      · next h => exact (hjudge u m).1 h
      · next h =>
        obtain ⟨h1, h2⟩ := not_or.1 h
        exact (hjudge u m).2 (not_not.1 h1) (Bool.eq_false_of_not_eq_true h2)
    exact hj _

/-- With every module down a poll does nothing. -/
theorem foldl_healthPoll_down {t : State} (pages : List (Nat × Bytes)) {l : List Nat} (h : ∀ m ∈ l, t.modUp m = false) :
    l.foldl (healthPoll p pages) t = t := by
  induction l with
  | nil => rfl
  | cons m l ih =>
    have hm : healthPoll p pages t m = t := if_pos (by rw [h m List.mem_cons_self]; rfl)
    rw [List.foldl_cons, hm, ih fun k hk => h k (List.mem_cons_of_mem m hk)]

/-! ### The search for a place -/

/-- The segments of the search (R244): those open, those retained, and those sealed since the newest anchor. -/
theorem mem_searchOrder (x : Pool) (n : Nat) : n ∈ searchOrder x ↔ ∃ g, (n, g) ∈ x.segs ∧ g.state ≠ 3 ∧
    (g.state = 0 ∨ g.retained = true ∨ x.ckpt.anchorAt.toNat ≤ g.sealTime.toNat) := by
  simp only [searchOrder, List.mem_map, List.mem_append, List.mem_filter, decide_eq_true_eq, Bool.and_eq_true, Bool.not_eq_true', ge_iff_le]
  constructor
  · rintro ⟨⟨k, g⟩, h, rfl⟩
    rcases h with ((⟨⟨hm, h3⟩, ⟨-, -⟩, hs⟩ | ⟨⟨hm, h3⟩, h0⟩) | ⟨⟨hm, h3⟩, -, hr⟩)
    · exact ⟨g, hm, h3, .inr (.inr hs)⟩
    · exact ⟨g, hm, h3, .inl h0⟩
    · exact ⟨g, hm, h3, .inr (.inl hr)⟩
  · rintro ⟨g, hm, h3, h⟩
    refine ⟨(n, g), ?_, rfl⟩
    by_cases h0 : g.state = 0
    · exact .inl (.inr ⟨⟨hm, h3⟩, h0⟩)
    · cases hr : g.retained with
      | true => exact .inr ⟨⟨hm, h3⟩, h0, rfl⟩
      | false => exact .inl (.inl ⟨⟨hm, h3⟩, ⟨h0, rfl⟩, (h.resolve_left h0).resolve_left (by rw [hr]; exact Bool.false_ne_true)⟩)

theorem exec_erasedReference {h : Nat} (ho : s.owns p = true) (hw : s.locWrong p h = true ∨ ∃ q ∈ s.host.cmds, q.2.search = some h)
    (marks : List (Nat × Nat × Nat × Nat)) : exec (.erasedReference p h marks) s = .next (s.findErased p h marks) := by
  refine if_pos ?_
  rw [ho, Bool.true_and, Bool.or_eq_true, List.any_eq_true]
  exact hw.imp id fun ⟨q, hq, hs⟩ => ⟨q, hq, decide_eq_true hs⟩

end

/-- The fill state that a free fraction gives (R266): the thresholds by the state before. -/
theorem fillNext_spec (old raw free spared : Nat) :
    (spared = 0 → fillNext old raw free spared = 2) ∧ (1000 * free < 5 * raw → fillNext old raw free spared = 2) ∧
    (0 < spared → 20 * raw ≤ 1000 * free → fillNext old raw free spared = 0) ∧
    (0 < spared → old = 0 → 15 * raw ≤ 1000 * free → fillNext old raw free spared = 0) ∧
    (0 < spared → 5 * raw ≤ 1000 * free → 1000 * free < 15 * raw → old < 2 → fillNext old raw free spared = 1) ∧
    (0 < spared → old = 1 → 15 * raw ≤ 1000 * free → 1000 * free < 20 * raw → fillNext old raw free spared = 1) ∧
    (0 < spared → old = 2 → 5 * raw ≤ 1000 * free → 1000 * free < 10 * raw → fillNext old raw free spared = 2) := by
  unfold fillNext
  dsimp only
  refine ⟨fun h => ?_, fun h => ?_, fun h h1 => ?_, fun h h1 h2 => ?_, fun h h1 h2 h3 => ?_, fun h h1 h2 h3 => ?_, fun h h1 h2 h3 => ?_⟩
  · rw [if_pos (.inr h)]
  · rw [if_pos (.inl h)]
  all_goals split_ifs <;> omega

/-- Settles O36: the cases of the commands, with the poll as a fold (`healthPoll_eq`), the search's segments (`mem_searchOrder`), the fill
state's thresholds (`fillNext_spec`) and the record lengths. -/
theorem patrolAndFixityReport : Obligations.PatrolAndFixityReport := by
  unfold Obligations.PatrolAndFixityReport
  refine ⟨?_, ?_, ?_, ?_, fillNext_spec, ?_, ?_, ?_, mem_searchOrder, ?_,
    fun s p nsid kind ps f m => ⟨fixityRec_length p ps nsid kind, failRec_length f, mediaRec_length s p m⟩⟩
  · rintro s p x marks rep rfl
    refine ⟨fun h => if_pos ?_, fun ho hb hr hf => ?_, fun ho hb hr => ?_, fun ho hb hr hf hq => ?_, ?_⟩
    · rcases h with h | h <;> rw [h]
      · rfl
      · rw [Bool.or_true]
    · refine (if_neg ?_).trans (if_pos ?_)
      · rw [ho, hb]
        exact Bool.false_ne_true
      · rw [hr, hf]
        rfl
    · have he : exec (.patrolPass p marks rep) s = if s.time.toNat ≥ passDue (s.pool p) then .next (s.passStart p marks) else .next s := by
        refine (if_neg ?_).trans ((if_neg ?_).trans (if_pos ?_))
        · rw [ho, hb]
          exact Bool.false_ne_true
        · rw [hr]
          exact Bool.false_ne_true
        · rw [hr]
          rfl
      exact ⟨fun h => he.trans (if_pos h), fun h => he.trans (if_neg (by omega))⟩
    · rw [gives, exec_patrolPass ho hb hr hf, hq]
    · rintro n q u ho hb hr hf hq rfl v rfl
      have he := exec_patrolPass ho hb hr hf marks rep
      rw [hq] at he
      exact ⟨fun h => he.trans (if_neg (by simpa using h)), fun h => he.trans (if_pos (by rw [h]; rfl))⟩
  · rintro s p x rfl ho hr
    have he := exec_patrolRate ho hr
    refine ⟨fun h => he.trans (if_neg (by omega)), ?_⟩
    rintro h bw u rfl rfl
    have hd := he.trans (if_pos h)
    exact ⟨fun hl => hd.trans (if_pos hl), fun hl => hd.trans (if_neg (by rw [hl]; exact Bool.false_ne_true))⟩
  · exact fun s p => ⟨fun h => if_pos h, fun h => if_neg (by rw [h]; exact Bool.false_ne_true)⟩
  · rintro s p n x rfl rfl
    exact ⟨fun h => if_pos (.inr h), fun hr hn => if_neg (not_or.2 ⟨hr, hn⟩)⟩
  · rintro s u call c hc hr rfl
    refine ⟨?_, ?_, ?_, ?_⟩
    · rintro hs p d rfl rfl
      have he := exec_patrolSet (libCall_running hc hr hs)
      refine ⟨fun h => ?_, ?_⟩
      · obtain ⟨x, hx⟩ := libFail_exit s call 0x30
        refine ⟨x, hx ▸ he.trans (if_pos ?_)⟩
        rcases h with h | h | h | h <;> simp [h]
      · intro v ho h3 h60 hv
        have hd := exec_patrolSet_valid (libCall_running hc hr hs) ho h3 h60 hv
        refine ⟨fun h => ?_, fun h1 hp hb => ?_, fun h1 hp hb => ?_⟩
        · rw [gives, hd (by omega), if_neg]
          rintro ⟨h1, hp⟩
          exact h.elim (fun h => by omega) fun h => Bool.false_ne_true (hp.symm.trans h.2)
        · rw [gives, hd (by omega), if_pos ⟨h1, hp⟩, if_neg (by rw [hb]; exact Bool.false_ne_true)]
        · rw [gives, hd (by omega), if_pos ⟨h1, hp⟩, if_pos hb]
    · rintro hs p x rfl rfl
      have he := exec_fixitySummary (libCall_running hc hr hs)
      refine ⟨fun h => ?_, ?_⟩
      · obtain ⟨r, hx⟩ := libFail_exit s call 0x30
        exact ⟨r, by rw [gives, he, h, ← hx]⟩
      · rintro ps n recs h rfl rfl
        rw [gives, he, h, ← libRecords_eq hc (mem_map_length (fun q : Nat × Ns => fixityRec_length (callPool c.entry) ps q.1 q.2.kind) _)]
    · rintro hs x rfl
      have he := exec_fixityFailures (libCall_running hc hr hs)
      refine ⟨fun h => ?_, ?_⟩
      · obtain ⟨r, hx⟩ := libFail_exit s call 0x30
        exact ⟨r, by rw [gives, he, h, ← hx]⟩
      · rintro ps n recs h rfl rfl
        rw [gives, he, h, ← libRecords_eq hc (mem_map_length failRec_length _)]
    · rintro hs p n recs rfl rfl rfl
      rw [← libRecords_eq hc (mem_map_length (mediaRec_length s (callPool c.entry)) _)]
      exact exec_mediaStatus (libCall_running hc hr hs)
  · rintro s p pages x rfl
    refine ⟨fun h => if_pos ?_, ?_, fun ho h hdown => ?_⟩
    · rcases h with h | h
      · rw [h]
        rfl
      · rw [decide_eq_true h, Bool.or_true]
    · intro read judge poll hnone hsome hjudge hpoll ho h
      rw [healthPoll_eq hnone hsome hjudge hpoll]
      exact exec_moduleHealthPoll ho h pages
    · exact (exec_moduleHealthPoll ho h pages).trans (congrArg _ (foldl_healthPoll_down pages hdown))
  · rintro s u p h marks free rfl
    refine ⟨fun hno => if_neg ?_, ?_⟩
    · rcases hno with ho | ⟨hw, hq⟩
      · rw [ho]
        exact Bool.false_ne_true
      · rw [hw, List.any_eq_false.2 fun q hm => by simpa using hq q hm, Bool.or_self, Bool.and_false]
        exact Bool.false_ne_true
    · rintro fresh ho hw rfl
      have he := exec_erasedReference ho hw marks
      unfold findErased at he
      refine ⟨fun hs => ?_, fun loc hs => ⟨_, ?_, rfl⟩⟩
      · rw [gives, he, hs]
      · rw [gives, he, hs]
  · intro s n c hc
    have he : exec (.erasedReferenceTimeout n) s =
        if c.search.isSome ∧ (s.time - c.since).toNat ≥ 200000000 then .next (s.finishCmd n stUnrecovered 0 0) else .next s := by
      show execErasedReferenceTimeout n s = _
      simp only [execErasedReferenceTimeout, hc]
    refine ⟨fun h1 h2 => he.trans (if_pos ⟨h1, h2⟩), fun h => he.trans (if_neg ?_)⟩
    rintro ⟨h1, h2⟩
    rcases h with h | h
    · rw [h] at h1
      exact Bool.false_ne_true h1
    · omega

end Sys2Proof.Machine
end

section
/-! What host commands do (O46). -/

open Sys2Proof Sys2Proof.Machine Sys2Proof.Machine.State

namespace Sys2Proof.Machine

namespace State

/-! ### Commands that run -/

section
variable {s : State} {n : Nat} {ops : List HostOp} {c : HCmd}

/-- A command that runs is in the table and of one of the operations. -/
theorem runCmd_some (h : s.runCmd n ops = some c) : Tbl.find s.host.cmds n = some c ∧ c.cap.op ∈ ops := by
  unfold runCmd hcmd at h
  split at h
  · next d hd =>
    split at h
    · next hr =>
      obtain rfl := Option.some.inj h
      exact ⟨hd, hr.2.1⟩
    · exact absurd h (by simp)
  · exact absurd h (by simp)

theorem readCmd_none (h : s.runCmd n ops = none) (f : HCmd → Nat → Option Nat → Nat → State) : s.readCmd n ops f = s := by
  unfold readCmd
  rw [h]

theorem readCmd_parked (h : s.runCmd n ops = some c) (hl : c.lost = false) (hp : s.parked c = true) (f : HCmd → Nat → Option Nat → Nat → State) :
    s.readCmd n ops f = s := by
  unfold readCmd
  simp only [h, hl, hp, Bool.false_eq_true, if_false, if_true]

/-- A read-type command for a pool of the peer crosses the rope (R309). -/
theorem readCmd_forward (h : s.runCmd n ops = some c) (hl : c.lost = false) (hp : s.parked c = false) (hs : s.serves c = false)
    (f : HCmd → Nat → Option Nat → Nat → State) : s.readCmd n ops f = s.forwardCmd n c [] := by
  unfold readCmd
  simp only [h, hl, hp, hs, Bool.false_eq_true, if_false, Bool.not_false, if_true]

theorem readCmd_noNs (h : s.runCmd n ops = some c) (hl : c.lost = false) (hp : s.parked c = false) (hs : s.serves c = true)
    (hv : s.view c = none) (f : HCmd → Nat → Option Nat → Nat → State) : s.readCmd n ops f = s.finishCmd n (ofNvme 0 0x0B true) 0 0 := by
  unfold readCmd
  simp only [h, hl, hp, hs, hv, Bool.false_eq_true, if_false, Bool.not_true]

/-- A read-type command whose namespace is served here runs (R18). -/
theorem readCmd_runs (h : s.runCmd n ops = some c) (hl : c.lost = false) (hp : s.parked c = false) (hs : s.serves c = true) {p src : Nat}
    {snap : Option Nat} (hv : s.view c = some (p, snap, src)) (f : HCmd → Nat → Option Nat → Nat → State) :
    s.readCmd n ops f = f c p snap src := by
  unfold readCmd
  simp only [h, hl, hp, hs, hv, Bool.false_eq_true, if_false, Bool.not_true]

theorem writeCmd_none (h : s.runCmd n ops = none) (f : State → HCmd → Nat → Bytes → List Nat × (State → State)) : s.writeCmd n ops f = s := by
  unfold writeCmd
  rw [h]

theorem writeCmd_parked (h : s.runCmd n ops = some c) (hp : s.parked c = true) (f : State → HCmd → Nat → Bytes → List Nat × (State → State)) :
    s.writeCmd n ops f = s := by
  unfold writeCmd
  simp only [h, hp, if_true]

/-- The data of a write-type command: its host's, or what came with it. -/
def dataOf (s : State) (n : Nat) (c : HCmd) : Option Bytes × State :=
  if takesData c.cap.op && c.fwd.isNone then s.getData n c else (some c.data, s)

theorem dataOf_taken (ht : takesData c.cap.op = true) (hf : c.fwd = none) : s.dataOf n c = s.getData n c :=
  if_pos (by rw [ht, hf]; rfl)

theorem dataOf_none (ht : takesData c.cap.op = false) : s.dataOf n c = (some c.data, s) :=
  if_neg (by rw [ht]; exact Bool.false_ne_true)

/-- A write-type command waits until its data is there. -/
theorem writeCmd_waits (h : s.runCmd n ops = some c) (hp : s.parked c = false) {t : State} (hd : s.dataOf n c = (none, t))
    (f : State → HCmd → Nat → Bytes → List Nat × (State → State)) : s.writeCmd n ops f = t := by
  unfold dataOf at hd
  unfold writeCmd
  simp only [h, hp, hd, Bool.false_eq_true, if_false]

theorem writeCmd_forward (h : s.runCmd n ops = some c) (hp : s.parked c = false) {d : Bytes} {t : State} (hd : s.dataOf n c = (some d, t))
    (hs : t.serves c = false) (f : State → HCmd → Nat → Bytes → List Nat × (State → State)) : s.writeCmd n ops f = t.forwardCmd n c d := by
  unfold dataOf at hd
  unfold writeCmd
  simp only [h, hp, hd, hs, Bool.false_eq_true, if_false, Bool.not_false, if_true]

/-- A write-type command runs once the pages that it changes are in DRAM (R175); else it loads them. -/
theorem writeCmd_runs (h : s.runCmd n ops = some c) (hp : s.parked c = false) {d : Bytes} {t : State} (hd : s.dataOf n c = (some d, t))
    (hs : t.serves c = true) {p : Nat} (hn : t.nsPool c.cap.nsid = some p) (f : State → HCmd → Nat → Bytes → List Nat × (State → State))
    {b : Bool} {u : State} (hq : t.needPages p c.climb (f t c p d).1 = (b, u)) :
    s.writeCmd n ops f = if b then u else (f t c p d).2 u := by
  unfold dataOf at hd
  unfold writeCmd
  simp only [h, hp, hd, hs, hn, Bool.false_eq_true, if_false, Bool.not_true, hq]
  cases b <;> rfl

end

/-! ### Pages that are in DRAM -/

section
variable {s : State} {p : Nat} {climb : Option Nat} {l : List Nat}

theorem needPages_present (h : ∀ m ∈ l, s.absentPage p m = false) : s.needPages p climb l = (false, s) := by
  unfold needPages
  rw [List.filter_eq_nil_iff.2 fun m hm => by rw [h m hm]; exact Bool.false_ne_true]

theorem withKeys_present (h : ∀ m ∈ l, s.absentPage p m = false) (f : State → State) : s.withKeys p climb l f = f s := by
  unfold withKeys
  rw [needPages_present h]

theorem withKeys_absent {u : State} (h : s.needPages p climb l = (true, u)) (f : State → State) : s.withKeys p climb l f = u := by
  unfold withKeys
  rw [h]

end

/-! ### A completion -/

/-- Without a peer that takes the stream no remove item is sent (R324). -/
theorem shadowRemove_solo {s : State} (h1 : s.pair.solo = true) (h2 : s.pair.joining = false) (n : Nat) (c : HCmd) : s.shadowRemove n c = s := by
  have hs : ∀ p, s.streams p = false := fun p => by rw [streams, hasShadow, h1, h2, Bool.not_true, Bool.and_false, Bool.or_false]
  unfold shadowRemove
  split
  · exact if_neg (by rw [hs, Bool.false_and]; exact Bool.false_ne_true)
  · rfl

/-- A completion that nothing holds is posted with its queue head, and the entries of the command are released (R391, R392). -/
theorem finishCmd_posted {s : State} {n : Nat} {c : HCmd} {q : HQueue} (hc : Tbl.find s.host.cmds n = some c) (hk : c.climb = none)
    (hf : c.fwd = none) (hl : c.lost = false) (hd : c.rdata = []) (hh : s.outputsHeld c = false)
    (hq : Tbl.find s.host.queues c.queue = some q) (h1 : s.pair.solo = true) (h2 : s.pair.joining = false) :
    s.finishCmd n stOk 0 0 = ((s.delCmd n).unlock n).emit (.nvme c.queue c.cap.cid (q.heldSqhd.getD q.sqhd) 0 0 0) := by
  have hq' : Tbl.find ((s.delCmd n).unlock n).host.queues c.queue = some q := hq
  unfold finishCmd complete postNow
  simp only [hc, hk, hf, hl, hd, hh, shadowRemove_solo h1 h2, hq', Bool.false_and, Bool.false_eq_true, if_false, if_true]
  rfl

end State
end Sys2Proof.Machine

namespace Sys2Proof.Machine

namespace State

/-! ### What a range of a pitch reads as -/

/-- What a read of some places gives its command: the bytes, the search for a chunk, or the failure (R18, R244). -/
def endRead (n : Nat) : RangeRd × State → Option Bytes × State
  | (.ok d, u) => (some d, u)
  | (.search h, u) => (none, u.waitSearch n h)
  | (.bad, u) => (none, u.finishCmd n stUnrecovered 0 0)

/-- The wait for a search (R244). -/
theorem endRead_search {u : State} {n : Nat} {c : HCmd} (hc : u.hcmd n = some c) (h : Nat) :
    endRead n (.search h, u) = (none, u.setCmd n { c with search := some h, since := u.time }) := by
  rw [endRead, waitSearch, hc]

theorem readPitches_one (p : Nat) (snap : Option Nat) (marks : Marks) (ln a len : Nat) (s : State) :
    readPitches p snap marks [(ln, a, len)] s = s.readPitch p (lineAt (s.pool p) snap ln) a len marks := by
  unfold readPitches
  rcases s.readPitch p (lineAt (s.pool p) snap ln) a len marks with ⟨r, u⟩
  cases r with
  | ok w => simp [readPitches]
  | search h => rfl
  | bad => rfl

/-- A range whose chunks need no page reads as its pitch. -/
theorem fetchPlaces_one {s : State} {p ln a len : Nat} {snap : Option Nat}
    (hpages : ∀ m ∈ pagesOf (s.pool p) snap [ln], s.absentPage p m = false)
    (hrecs : ∀ z ∈ placed (s.pool p) (lineAt (s.pool p) snap ln) a len, z.1 ≠ 0 →
      s.absentPage p ((s.pool p).num * 2 ^ 44 + 2 ^ 43 + z.1 / 256) = false) (n : Nat) (c : HCmd) (marks : Marks) :
    s.fetchPlaces n c p snap [(ln, a, len)] marks = endRead n (s.readPitch p (lineAt (s.pool p) snap ln) a len marks) := by
  have hneed : ∀ climb, s.needPages p climb (pagesOf (s.pool p) snap ([(ln, a, len)].map Prod.fst) ++ recPages (s.pool p)
      ([(ln, a, len)].flatMap (fun q => (placed (s.pool p) (lineAt (s.pool p) snap q.1) q.2.1 q.2.2).map Prod.fst))).eraseDups = (false, s) := by
    refine fun climb => needPages_present fun m hm => ?_
    rw [List.mem_eraseDups, List.mem_append] at hm
    rcases hm with hm | hm
    · exact hpages m hm
    · simp only [recPages, List.flatMap_cons, List.flatMap_nil, List.append_nil, List.mem_map, List.mem_filter, decide_eq_true_eq] at hm
      obtain ⟨h, ⟨⟨z, hz, rfl⟩, h0⟩, rfl⟩ := hm
      exact hrecs z hz h0
  unfold fetchPlaces
  simp only [hneed, readPitches_one]
  rcases s.readPitch p (lineAt (s.pool p) snap ln) a len marks with ⟨r, u⟩
  cases r <;> rfl

/-- A pitch of one chunk from its start on, without holds, places that chunk wherever a range touches it. -/
theorem placed_single {x : Pool} {l : Line} {h a len : Nat} (hf : l.fixed = false) (hr : l.runs = [{ handle := h, nchunk := 1, pos := 0 }])
    (hh : l.holds = []) (ha : a < (x.rec' h).olen) (hl : 0 < len) : placed x l a len = [(h, 0, false)] := by
  have hc : runChunks x l = [(h, 0)] := by
    simp [runChunks, hr]
  have hlo : max (a : Int) 0 = a := by omega
  have hhi : (a : Int) < min ((a + len : Nat) : Int) ((x.rec' h).olen : Int) := by omega
  unfold placed
  simp only [hc, hh, hf, List.filter_nil, List.map_nil, List.append_nil, Bool.false_eq_true, if_false]
  rw [List.filter_cons, if_pos, List.filter_nil, List.map_cons, List.map_nil]
  dsimp only
  rw [hlo, Int.zero_add, Bool.and_eq_true, decide_eq_true_eq]
  refine ⟨hhi, List.any_eq_true.2 ⟨0, List.mem_range.2 (by omega), ?_⟩⟩
  rw [Bool.and_eq_true, decide_eq_true_eq, Int.toNat_natCast]
  exact ⟨by omega, rfl⟩

/-- A window within a chunk takes its bytes from the chunk. -/
theorem overlay_within {d : Bytes} {a len : Nat} (h : a + len ≤ d.length) (hl : 0 < len) :
    overlay (zeros len) a 0 d = (d.drop a).take len := by
  have hlo : max (a : Int) 0 = a := by omega
  have hhi : min ((a + len : Nat) : Int) (0 + (d.length : Int)) = ((a + len : Nat) : Int) := by omega
  unfold overlay
  simp only [hlo, zeros_length, hhi]
  rw [if_neg (by omega), show ((a : Int) - a).toNat = 0 by omega, show ((a : Int) - 0).toNat = a by omega,
    show (((a + len : Nat) : Int) - a).toNat = len by omega]
  have hx : ((d.drop a).take len).length = len := by
    rw [List.length_take, List.length_drop]
    omega
  rw [spliceAt, hx, Nat.zero_add, List.drop_eq_nil_of_le (zeros_length len).le, List.append_nil]
  rfl

/-- Zeros put in zeros. -/
theorem spliceAt_zeros {len o m : Nat} (h : o + m ≤ len) : spliceAt (zeros len) o (zeros m) = zeros len := by
  have ho : sliceAt (zeros len) 0 o = zeros o := by
    simp only [sliceAt, zeros, List.drop_zero, List.take_replicate, List.length_replicate, List.replicate_append_replicate]
    congr 1
    omega
  rw [spliceAt, ho, zeros_length]
  simp only [zeros, List.drop_replicate, List.replicate_append_replicate]
  congr 1
  omega

theorem overlay_zeros (a len k : Nat) : overlay (zeros len) a ((4096 * k : Nat) : Int) (zeros 4096) = zeros len := by
  unfold overlay
  dsimp only
  split
  · rfl
  · next h =>
    rw [zeros_length, zeros_length] at h ⊢
    have hz : ∀ i m, i + m ≤ 4096 → ((zeros 4096).drop i).take m = zeros m := fun i m him => by
      simp only [zeros, List.drop_replicate, List.take_replicate]
      congr 1
      omega
    rw [hz _ _ (by omega)]
    exact spliceAt_zeros (by omega)

/-! ### The pitches of `Obligations.HostCommandsAct` -/

section
variable {s : State} {p a len : Nat} {l : Line}

/-- A pitch that nothing was written to reads as zeros. -/
theorem readPitch_empty (hr : l.runs = []) (hh : l.holds = []) (marks : Marks) : s.readPitch p l a len marks = (.ok (zeros len), s) := by
  have hp : placed (s.pool p) l a len = [] := by simp [placed, runChunks, hr, hh]
  rw [readPitch, hp]
  rfl

/-- A pitch of one chunk reads as that chunk: searched for where its place is wrong, else read. -/
theorem readPitch_single {h : Nat} (hf : l.fixed = false) (hr : l.runs = [{ handle := h, nchunk := 1, pos := 0 }])
    (hh : l.holds = []) (ha : a < ((s.pool p).rec' h).olen) (hl : 0 < len) (marks : Marks) :
    s.readPitch p l a len marks = if s.locWrong p h then (.search h, s) else match s.readChunk p h marks with
      | (some d, t) => (.ok (overlay (zeros len) a 0 d), t)
      | (none, t) =>
        if ((t.pool p).rec' h).live && !((t.pool p).rec' h).lost && (t.pool p).segs.any (fun g => g.2.retained) then (.search h, t)
        else (.bad, t) := by
  rw [readPitch, placed_single hf hr hh ha hl, List.foldl_cons, List.foldl_nil] <;> rfl

section
variable {h : Nat} {u : State} {marks : Marks} (hf : l.fixed = false) (hr : l.runs = [{ handle := h, nchunk := 1, pos := 0 }])
  (hh : l.holds = []) (hl : 0 < len)
include hf hr hh hl

theorem readPitch_single_read {d : Bytes} (hd : d.length = ((s.pool p).rec' h).olen) (ha : a + len ≤ d.length) (hw : s.locWrong p h = false)
    (hrd : s.readChunk p h marks = (some d, u)) : s.readPitch p l a len marks = (.ok ((d.drop a).take len), u) := by
  rw [readPitch_single hf hr hh (by omega) hl, hw, hrd, if_neg Bool.false_ne_true]
  dsimp only
  rw [overlay_within ha hl]

variable (ha : a < ((s.pool p).rec' h).olen)
include ha

/-- A chunk that cannot be read fails where no retained segment could hold it still, or where it is lost (R244, R302). -/
theorem readPitch_single_bad (hw : s.locWrong p h = false) (hrd : s.readChunk p h marks = (none, u))
    (hbad : (∀ g ∈ (u.pool p).segs, g.2.retained = false) ∨ ((u.pool p).rec' h).lost = true) : s.readPitch p l a len marks = (.bad, u) := by
  rw [readPitch_single hf hr hh ha hl, hw, hrd, if_neg Bool.false_ne_true]
  refine if_neg ?_
  rw [Bool.and_eq_true, Bool.and_eq_true, List.any_eq_true, Bool.not_eq_true']
  rintro ⟨⟨-, hlost⟩, g, hg, hret⟩
  rcases hbad with hno | hyes
  · exact Bool.false_ne_true ((hno g hg).symm.trans hret)
  · exact Bool.false_ne_true (hlost.symm.trans hyes)

theorem readPitch_single_search (hw : s.locWrong p h = false) (hrd : s.readChunk p h marks = (none, u))
    (hret : ∃ g ∈ (u.pool p).segs, g.2.retained = true) (hlive : ((u.pool p).rec' h).live = true) (hlost : ((u.pool p).rec' h).lost = false) :
    s.readPitch p l a len marks = (.search h, u) := by
  rw [readPitch_single hf hr hh ha hl, hw, hrd, if_neg Bool.false_ne_true]
  exact if_pos (by rw [hlive, hlost, List.any_eq_true.2 hret]; rfl)

theorem readPitch_single_astray (hw : s.locWrong p h = true) : s.readPitch p l a len marks = (.search h, s) := by
  rw [readPitch_single hf hr hh ha hl, hw, if_pos rfl]

end

/-- A pitch with one ZERO hold reads as zeros (R181). -/
theorem readPitch_zero {k : Nat} (hr : l.runs = []) (hh : l.holds = [(k, { handle := 0, heat := 0, zero := true })]) (marks : Marks) :
    s.readPitch p l a len marks = (.ok (zeros len), s) := by
  have hp : placed (s.pool p) l a len = if 4096 * k < a + len ∧ a < 4096 * k + 4096 then [(0, ((4096 * k : Nat) : Int), true)] else [] := by
    simp only [placed, runChunks, hr, hh, List.flatMap_nil, List.filter_nil, List.map_nil, List.nil_append, List.filter_cons]
    split <;> simp_all
  rw [readPitch, hp]
  split
  · exact congrArg (fun w => (RangeRd.ok w, s)) (overlay_zeros a len k)
  · rfl

end

end State
end Sys2Proof.Machine

namespace Sys2Proof.Machine

open State

/-! ### Commands that wait or cross the rope -/

section
variable {s : State} {n : Nat} {i : Instr} {op : HostOp}

/-- A command that does not run, or whose climb is PARKED, changes nothing, and one for a pool of the peer is forwarded (R309). -/
def waitsOrCrosses (s : State) (n : Nat) (i : Instr) (op : HostOp) : Prop :=
  (s.runCmd n [op] = none → gives i s s) ∧
  (∀ c, s.runCmd n [op] = some c → op ≠ .flush → op ≠ .abort →
    (s.parked c = true → c.lost = false → gives i s s) ∧
    (s.parked c = false → s.serves c = false → c.lost = false → op ≠ .write → op ≠ .store →
      gives i s (s.forwardCmd n c (if op = .read ∨ op = .verify ∨ op = .retrieve ∨ op = .exist ∨ op = .list then [] else c.data))))

theorem readCmd_waitsOrCrosses {f : HCmd → Nat → Option Nat → Nat → State} (he : exec i s = .next (s.readCmd n [op] f))
    (ho : op = .read ∨ op = .verify ∨ op = .retrieve ∨ op = .exist ∨ op = .list) : waitsOrCrosses s n i op := by
  refine ⟨fun h => ?_, fun c h _ _ => ⟨fun hp hl => ?_, fun hp hs hl _ _ => ?_⟩⟩
  · rw [gives, he, readCmd_none h]
  · rw [gives, he, readCmd_parked h hl hp]
  · rw [gives, he, readCmd_forward h hl hp hs, if_pos ho]

theorem writeCmd_waitsOrCrosses {f : State → HCmd → Nat → Bytes → List Nat × (State → State)} (he : exec i s = .next (s.writeCmd n [op] f))
    (ho : ¬ (op = .read ∨ op = .verify ∨ op = .retrieve ∨ op = .exist ∨ op = .list)) : waitsOrCrosses s n i op := by
  refine ⟨fun h => ?_, fun c h _ _ => ⟨fun hp _ => ?_, fun hp hs _ hw hst => ?_⟩⟩
  · rw [gives, he, writeCmd_none h]
  · rw [gives, he, writeCmd_parked h hp]
  · have hop : c.cap.op = op := List.mem_singleton.1 (runCmd_some h).2
    have ht : takesData c.cap.op = false := by
      rw [hop]
      exact decide_eq_false (by simp [hw, hst])
    rw [gives, he, writeCmd_forward h hp (dataOf_none ht) hs, if_neg ho]

theorem exec_flush_none (h : s.runCmd n [.flush] = none) : gives (.flush n) s s := by
  show execFlush n s = _
  rw [execFlush, h]

theorem exec_flush {c : HCmd} (h : s.runCmd n [.flush] = some c) : gives (.flush n) s (s.finishCmd n stOk 0 0) := by
  show execFlush n s = _
  rw [execFlush, h]

theorem exec_abort_none (h : s.runCmd n [.abort] = none) : gives (.abort n) s s := by
  show execAbort n s = _
  rw [execAbort, h]

theorem exec_abort {c : HCmd} (h : s.runCmd n [.abort] = some c) : gives (.abort n) s (s.finishCmd n stOk 1 0) := by
  show execAbort n s = _
  rw [execAbort, h]

theorem hostCommand_waitsOrCrosses {marks : List (Nat × Nat × Nat × Nat)} (hi : (i, op) ∈ [(.read n marks, .read), (.verify n marks, .verify),
    (.write n marks, .write), (.flush n, .flush), (.writeZeroes n, .writeZeroes), (.datasetManagement n, .dsm), (.copy n marks, .copy),
    (.store n marks, .store), (.delete n, .delete), (.retrieve n marks, .retrieve), (.exist n, .exist), (.list n, .list), (.abort n, .abort)]) :
    waitsOrCrosses s n i op := by
  simp only [List.mem_cons, List.not_mem_nil, or_false, Prod.mk.injEq] at hi
  rcases hi with ⟨rfl, rfl⟩ | ⟨rfl, rfl⟩ | ⟨rfl, rfl⟩ | ⟨rfl, rfl⟩ | ⟨rfl, rfl⟩ | ⟨rfl, rfl⟩ | ⟨rfl, rfl⟩ | ⟨rfl, rfl⟩ | ⟨rfl, rfl⟩ |
    ⟨rfl, rfl⟩ | ⟨rfl, rfl⟩ | ⟨rfl, rfl⟩ | ⟨rfl, rfl⟩
  case inr.inr.inr.inl => exact ⟨exec_flush_none, fun _ _ hf => absurd rfl hf⟩
  case inr.inr.inr.inr.inr.inr.inr.inr.inr.inr.inr.inr => exact ⟨exec_abort_none, fun _ _ _ ha => absurd rfl ha⟩
  case inl | inr.inl | inr.inr.inr.inr.inr.inr.inr.inr.inr.inl | inr.inr.inr.inr.inr.inr.inr.inr.inr.inr.inl |
      inr.inr.inr.inr.inr.inr.inr.inr.inr.inr.inr.inl => exact readCmd_waitsOrCrosses rfl (by decide)
  all_goals exact writeCmd_waitsOrCrosses rfl (by decide)

/-- The completion of a FLUSH (R391, R392). -/
theorem flush_completes {c : HCmd} {q : HQueue} (hr : s.runCmd n [.flush] = some c) (hk : c.climb = none) (hf : c.fwd = none) (hl : c.lost = false)
    (hd : c.rdata = []) (hh : s.outputsHeld c = false) (hq : Tbl.find s.host.queues c.queue = some q) (h1 : s.pair.solo = true)
    (h2 : s.pair.joining = false) (hs : Tbl.sorted s.host.cmds = true) :
    ∃ t, gives (.flush n) s t ∧ t.out = s.out ++ [.nvme c.queue c.cap.cid (q.heldSqhd.getD q.sqhd) 0 0 0] ∧ t.hcmd n = none ∧
      t.host.locks = s.host.locks.filter (fun l => decide (l.cmd ≠ some n)) ∧ t.pools = s.pools ∧ t.mem = s.mem := by
  refine ⟨_, exec_flush hr, ?_⟩
  rw [finishCmd_posted (runCmd_some hr).1 hk hf hl hd hh hq h1 h2]
  exact ⟨rfl, Tbl.find_del_same hs n, rfl, rfl, rfl⟩

end

/-! ### Commands that read -/

section
variable {s : State} {n p src : Nat} {op : HostOp} {c : HCmd} {snap : Option Nat} {marks : List (Nat × Nat × Nat × Nat)}

/-- A read-type command of a namespace that is not there completes with Invalid Namespace. -/
theorem readCommand_noNs {i : Instr} (h : s.runCmd n [op] = some c) (hp : s.parked c = false) (hs : s.serves c = true) (hl : c.lost = false)
    (hi : (i, op) ∈ [(.read n marks, .read), (.verify n marks, .verify), (.retrieve n marks, .retrieve), (.exist n, .exist), (.list n, .list)])
    (hv : s.view c = none) : gives i s (s.finishCmd n (ofNvme 0 0x0B true) 0 0) := by
  have hread : ∀ f, exec i s = .next (s.readCmd n [op] f) → gives i s (s.finishCmd n (ofNvme 0 0x0B true) 0 0) := fun f he => by
    rw [gives, he, readCmd_noNs h hl hp hs hv]
  simp only [List.mem_cons, List.not_mem_nil, or_false, Prod.mk.injEq] at hi
  rcases hi with ⟨rfl, rfl⟩ | ⟨rfl, rfl⟩ | ⟨rfl, rfl⟩ | ⟨rfl, rfl⟩ | ⟨rfl, rfl⟩ <;> exact hread _ rfl

variable (h : s.runCmd n [op] = some c) (hp : s.parked c = false) (hs : s.serves c = true) (hl : c.lost = false) (hv : s.view c = some (p, snap, src))
include h hp hs hl hv

theorem exec_read (ho : op = .read) : exec (.read n marks) s = .next
    (match s.fetchPlaces n c p snap (s.readPlaces c p src c.cap.start c.cap.len) marks with
    | (some d, t) => t.sendRead n d 0
    | (none, t) => t) := by
  subst ho
  exact congrArg _ (readCmd_runs h hl hp hs hv _)

theorem exec_verify (ho : op = .verify) : exec (.verify n marks) s = .next
    (match s.fetchPlaces n c p snap (s.readPlaces c p src c.cap.start c.cap.len) marks with
    | (some _, t) => t.finishCmd n stOk 0 0
    | (none, t) => t) := by
  subst ho
  exact congrArg _ (readCmd_runs h hl hp hs hv _)

theorem exec_retrieve (ho : op = .retrieve) : exec (.retrieve n marks) s = .next
    (s.withKeys p c.climb (keyPages (s.pool p) snap src c.cap.key false) (fun u =>
    match u.objOf p snap src c.cap.key with
    | none => u.finishCmd n stNoKey 0 0
    | some o =>
      match u.fetchPlaces n c p snap (pitchesOf o.base 0 (min o.len c.cap.len)) marks with
      | (some d, t) => t.sendRead n d o.len
      | (none, t) => t)) := by
  subst ho
  exact congrArg _ (readCmd_runs h hl hp hs hv _)

theorem exec_exist (ho : op = .exist) : exec (.exist n) s = .next
    (s.withKeys p c.climb (keyPages (s.pool p) snap src c.cap.key false) (fun u =>
    match u.objOf p snap src c.cap.key with
    | none => u.finishCmd n stNoKey 0 0
    | some _ => u.finishCmd n stOk 0 0)) := by
  subst ho
  exact congrArg _ (readCmd_runs h hl hp hs hv _)

theorem exec_list (ho : op = .list) : exec (.list n) s = .next
    (s.withKeys p c.climb (keyPages (s.pool p) snap src c.cap.key true) (fun u =>
    u.sendRead n (listKeys (objsAt (u.pool p) src snap) c.cap.key c.cap.len) 0)) := by
  subst ho
  exact congrArg _ (readCmd_runs h hl hp hs hv _)

/-- A Key Value command that reads waits for the pages of the key index (R175, R183). -/
theorem keyCommand_waits {i : Instr} {u : State}
    (hu : (op = .retrieve ∨ op = .exist) ∧ s.needPages p c.climb (keyPages (s.pool p) snap src c.cap.key false) = (true, u) ∨
      op = .list ∧ s.needPages p c.climb (keyPages (s.pool p) snap src c.cap.key true) = (true, u))
    (hi : (i, op) ∈ [(.retrieve n marks, .retrieve), (.exist n, .exist), (.list n, .list)]) : gives i s u := by
  simp only [List.mem_cons, List.not_mem_nil, or_false, Prod.mk.injEq] at hi
  rcases hi with ⟨rfl, rfl⟩ | ⟨rfl, rfl⟩ | ⟨rfl, rfl⟩
  · obtain ⟨-, hu⟩ := hu.resolve_right fun h => HostOp.noConfusion h.1
    exact (exec_retrieve h hp hs hl hv rfl).trans (congrArg _ (withKeys_absent hu _))
  · obtain ⟨-, hu⟩ := hu.resolve_right fun h => HostOp.noConfusion h.1
    exact (exec_exist h hp hs hl hv rfl).trans (congrArg _ (withKeys_absent hu _))
  · obtain ⟨-, hu⟩ := hu.resolve_left fun h => h.1.elim HostOp.noConfusion HostOp.noConfusion
    exact (exec_list h hp hs hl hv rfl).trans (congrArg _ (withKeys_absent hu _))

end

end Sys2Proof.Machine

namespace Sys2Proof.Machine

open State

/-! ### Commands that write -/

section
variable {s t u : State} {n p : Nat} {c : HCmd} {d : Bytes}

theorem newPages_present {l : List Nat} (h : ∀ m ∈ l, t.absentPage p m = false) (climb : Option Nat) :
    t.needPages p climb l.eraseDups = (false, t) :=
  needPages_present fun m hm => h m (List.mem_eraseDups.1 hm)

theorem writePages_nil (x : Pool) : writePages x [] = [] := rfl

/-- WRITE of a block namespace (R16, R185). -/
theorem exec_write {ns : Ns} {marks : List (Nat × Nat × Nat × Nat)} (h : s.runCmd n [.write] = some c) (hp : s.parked c = false)
    (hd : s.dataOf n c = (some d, t)) (hs : t.serves c = true) (hn : t.nsPool c.cap.nsid = some p) (hns : Tbl.find (t.pool p).nss c.cap.nsid = some ns)
    {b : Bool} (hq : t.needPages p c.climb (writePages (t.pool p) ((pitchesOf ns.base c.cap.start c.cap.len).map Prod.fst)) = (b, u)) :
    exec (.write n marks) s = .next (if b then u else writeBlock u u n c p c.cap.start d marks) := by
  refine congrArg _ (writeCmd_runs h hp hd hs hn _ ?_)
  simp only [hns]
  exact hq

/-- The pages that a STORE or DELETE over an object changes (R183). -/
def objectPages (x : Pool) (o : Obj) : List Nat := writePages x ((List.range (ceilDiv o.len 0x100000)).map (fun i => o.base + i))

/-- STORE of a key that is not there (R382). -/
theorem exec_store_new {marks : List (Nat × Nat × Nat × Nat)} (h : s.runCmd n [.store] = some c) (hp : s.parked c = false)
    (hd : s.dataOf n c = (some d, t)) (hs : t.serves c = true) (hn : t.nsPool c.cap.nsid = some p) (ho : t.objOf p none c.cap.nsid c.cap.key = none)
    (hpg : ∀ m ∈ keyPages (t.pool p) none c.cap.nsid c.cap.key true, t.absentPage p m = false) :
    exec (.store n marks) s = .next (
      if c.cap.mustExist then t.finishCmd n stNoKey 0 0
      else
        let k := cutScan (t.pool p) d
        let (base, u1) := (t.libCut (t.cmdRidge n) d.length k.ends.length k.max).newBase p d.length
        let (items, u2) := objectItems (t.cmdRidge n) p c.cap.nsid base d marks (cutObject (u1.pool p) d) u1
        issueHost t u2 n (mkPlan p c.cap.nsid items (some (c.cap.key, d.length, base)) false)) := by
  refine congrArg _ ((writeCmd_runs h hp hd hs hn _ (b := false) (u := t) ?_).trans ?_)
  · simp only [ho, writePages_nil, List.append_nil]
    exact newPages_present hpg _
  · simp only [ho, Option.isNone_none, Option.isSome_none, Bool.and_true, Bool.and_false, Bool.false_eq_true, if_false]

/-- STORE of a key that is there and must not be (R382). -/
theorem exec_store_exists {o : Obj} {marks : List (Nat × Nat × Nat × Nat)} (h : s.runCmd n [.store] = some c) (hp : s.parked c = false)
    (hd : s.dataOf n c = (some d, t)) (hs : t.serves c = true) (hn : t.nsPool c.cap.nsid = some p) (ho : t.objOf p none c.cap.nsid c.cap.key = some o)
    (hx : c.cap.mustNotExist = true) (hpg : ∀ m ∈ keyPages (t.pool p) none c.cap.nsid c.cap.key true ++ objectPages (t.pool p) o, t.absentPage p m = false) :
    gives (.store n marks) s (t.finishCmd n stKeyExists 0 0) := by
  refine congrArg _ ((writeCmd_runs h hp hd hs hn _ (b := false) (u := t) ?_).trans ?_)
  · simp only [ho]
    exact newPages_present hpg _
  · simp only [ho, hx, Option.isNone_some, Option.isSome_some, Bool.and_true, Bool.and_false, Bool.false_eq_true, if_false, if_true]

/-- Zeroing or deallocating ranges (R181, R380). -/
theorem zeroCmd_runs {ops : List HostOp} {ns : Ns} {ranges : Capsule → List (Nat × Nat)} {zs : List (Nat × Nat × Nat)} (h : s.runCmd n ops = some c)
    (hp : s.parked c = false) (hd : s.dataOf n c = (some d, s)) (hs : s.serves c = true) (hn : s.nsPool c.cap.nsid = some p)
    (hns : Tbl.find (s.pool p).nss c.cap.nsid = some ns)
    (hz : zs = ((ranges c.cap).flatMap (fun r => zeroPieces ns.base (r.2 / 4096 + 2) r.1 r.2)).eraseDups)
    {b : Bool} (hq : s.needPages p c.climb (writePages (s.pool p) (zs.map Prod.fst)) = (b, u)) :
    s.zeroCmd n ops ranges = if b then u else issueHost u u n (mkPlan p c.cap.nsid (zs.map zeroItem) none false) := by
  subst hz
  refine (writeCmd_runs h hp hd hs hn _ (b := b) (u := u) ?_).trans ?_
  · simp only [hns]
    exact hq
  · simp only [hns]

/-- COPY (R380). -/
theorem exec_copy {ns : Ns} {marks : List (Nat × Nat × Nat × Nat)} (h : s.runCmd n [.copy] = some c) (hp : s.parked c = false)
    (hd : s.dataOf n c = (some d, s)) (hs : s.serves c = true) (hn : s.nsPool c.cap.nsid = some p) (hns : Tbl.find (s.pool p).nss c.cap.nsid = some ns)
    {b : Bool} (hq : s.needPages p c.climb (writePages (s.pool p) ((pitchesOf ns.base (c.cap.ranges.headD (0, 0)).1 c.cap.len ++
      pitchesOf ns.base c.cap.start c.cap.len).map Prod.fst)) = (b, u)) :
    exec (.copy n marks) s = .next (if b then u else
      match u.fetchPlaces n c p none (pitchesOf ns.base (c.cap.ranges.headD (0, 0)).1 c.cap.len) marks with
      | (some d, v) => writeBlock u v n c p c.cap.start d marks
      | (none, v) => v) := by
  refine congrArg _ ((writeCmd_runs h hp hd hs hn _ (b := b) (u := u) ?_).trans ?_)
  · simp only [hns]
    exact hq
  · simp only [hns] <;> rfl

/-- DELETE of a key that is not there (R382). -/
theorem exec_delete_none (h : s.runCmd n [.delete] = some c) (hp : s.parked c = false) (hd : s.dataOf n c = (some d, s)) (hs : s.serves c = true)
    (hn : s.nsPool c.cap.nsid = some p) (ho : s.objOf p none c.cap.nsid c.cap.key = none)
    (hq : s.needPages p c.climb (keyPages (s.pool p) none c.cap.nsid c.cap.key false) = (false, u)) :
    gives (.delete n) s (u.finishCmd n stNoKey 0 0) := by
  refine congrArg _ ((writeCmd_runs h hp hd hs hn _ (b := false) (u := u) ?_).trans ?_)
  · simp only [ho]
    exact hq
  · simp only [ho]
    rfl

/-- DELETE of an object (R183, R382). -/
theorem exec_delete {o : Obj} (h : s.runCmd n [.delete] = some c) (hp : s.parked c = false) (hd : s.dataOf n c = (some d, s)) (hs : s.serves c = true)
    (hn : s.nsPool c.cap.nsid = some p) (ho : s.objOf p none c.cap.nsid c.cap.key = some o)
    (hq : s.needPages p c.climb (keyPages (s.pool p) none c.cap.nsid c.cap.key true ++ objectPages (s.pool p) o).eraseDups = (false, u)) :
    gives (.delete n) s (issueHost u u n (mkPlan p c.cap.nsid [] (some (c.cap.key, o.len, o.base)) true)) := by
  refine congrArg _ ((writeCmd_runs h hp hd hs hn _ (b := false) (u := u) ?_).trans ?_)
  · simp only [ho]
    exact hq
  · simp only [ho]
    rfl

end

end Sys2Proof.Machine

namespace Sys2Proof.Machine

open State

/-! ### Pieces and the issue of a write -/

/-- Whole groups of a zeroed range leave the map, the rest becomes ZERO holds (R181, R380). -/
theorem zeroPieces_cons (base off len f : Nat) : zeroPieces base (f + 1) off 0 = [] ∧
    (off % 16384 = 0 → 16384 ≤ len → zeroPieces base (f + 1) off len =
      (base + off / 0x100000, off % 0x100000 / 16384, 4) :: zeroPieces base f (off + 16384) (len - 16384)) ∧
    (0 < len → off % 16384 ≠ 0 ∨ len < 16384 → zeroPieces base (f + 1) off len =
      (base + off / 0x100000, off % 0x100000 / 4096, 3) :: zeroPieces base f (off + 4096) (len - 4096)) := by
  refine ⟨if_pos rfl, fun h1 h2 => ?_, fun h1 h2 => ?_⟩
  · exact (if_neg (by omega)).trans (if_pos ⟨h1, h2⟩)
  · exact (if_neg (by omega)).trans (if_neg (by omega))

/-- The pieces of a write are 16 KiB where the region is not promoted to holds, else 4 KiB (R185). -/
theorem blockPieces_cons (x : Pool) (base off len f k : Nat) :
    (off % 16384 = 0 → 16384 ≤ len → promoted x (x.line (base + off / 0x100000)) = false → blockPieces x base (f + 1) off k len =
      (base + off / 0x100000, off % 0x100000 / 16384, 1, k, 16384) :: blockPieces x base f (off + 16384) (k + 16384) (len - 16384)) ∧
    (0 < len → off % 16384 ≠ 0 ∨ len < 16384 ∨ promoted x (x.line (base + off / 0x100000)) = true → blockPieces x base (f + 1) off k len =
      (base + off / 0x100000, off % 0x100000 / 4096, 0, k, 4096) :: blockPieces x base f (off + 4096) (k + 4096) (len - 4096)) := by
  refine ⟨fun h1 h2 h3 => (if_neg (by omega)).trans (if_pos ⟨h1, h2, h3⟩), fun h1 h2 => (if_neg (by omega)).trans (if_neg ?_)⟩
  rintro ⟨h3, h4, h5⟩
  rw [h5] at h2
  exact h2.elim (fun h => h h3) fun h => h.elim (fun h => by omega) Bool.false_ne_true

/-- A host write is issued where its budget allows, and waits where a cut or a unit keeps it (R219, R267). -/
theorem issueHost_spec {s u v : State} {n need : Nat} {w : WPlan} (hneed : need = (if (s.pool w.pool).fill = 1 then s.budgetOf w.pool w.items else 0))
    (hu : u = s.updPool w.pool (fun x => { x with budget := x.budget - need })) (hv : v = u.heatUp w.pool w.items) :
    ((s.pool w.pool).budget < need → ∀ before, issueHost before s n w = before) ∧
    (need ≤ (s.pool w.pool).budget → ∀ before t ok, v.issuePlan n (v.cmdRidge n) w = (t, ok) → issueHost before s n w =
      (if ok = true then t else if (v.pool w.pool).ckpt.cutting = true then before else (before.keepSeals t w.pool).waitUnit w.pool n)) := by
  subst hneed hu hv
  refine ⟨fun h before => if_pos h, fun h before t ok ht => ?_⟩
  unfold issueHost
  dsimp only
  rw [if_neg (by omega), ht]
  cases ok <;> rfl

/-- Settles O46: the commands that read are `readCmd_runs`, those that write `writeCmd_runs`, what a range reads as is `fetchPlaces_one`
and `endRead`, a completion is `finishCmd_posted`, the issue of a write `issueHost_spec`. -/
theorem hostCommandsAct : Obligations.HostCommandsAct := by
  unfold Obligations.HostCommandsAct
  refine ⟨fun s n i op marks hi => hostCommand_waitsOrCrosses hi,
    fun s n c q hr hk hf hl hd hh hq h1 h2 hs => flush_completes hr hk hf hl hd hh hq h1 h2 hs,
    fun s n c => ⟨exec_flush, exec_abort⟩, ?_, ?_, ?_, ?_, ?_, ?_, ?_, ?_, fun s u v n need w hneed hu hv => issueHost_spec hneed hu hv⟩
  · intro s n i op marks c p src snap h hp hs hl
    refine ⟨fun hi hv => readCommand_noNs h hp hs hl hi hv, fun hv => ⟨?_, fun u hu hi => keyCommand_waits h hp hs hl hv hu hi, fun hpg => ⟨fun ho => ?_, fun o ho => ?_⟩,
      fun hop hpg => ?_⟩⟩
    · rintro ps rfl
      refine ⟨fun u hu => ⟨fun ho => ?_, fun ho => ?_⟩, fun d u hu => ⟨fun ho => ?_, fun ho => ?_⟩⟩
      · rw [gives, exec_read h hp hs hl hv ho, hu]
      · rw [gives, exec_verify h hp hs hl hv ho, hu]
      · rw [gives, exec_read h hp hs hl hv ho, hu]
      · rw [gives, exec_verify h hp hs hl hv ho, hu]
    · refine ⟨fun hop => ?_, fun hop => ?_⟩
      · rw [gives, exec_retrieve h hp hs hl hv hop, withKeys_present hpg, ho]
        rfl
      · rw [gives, exec_exist h hp hs hl hv hop, withKeys_present hpg, ho]
        rfl
    · refine ⟨fun hop => ?_, fun d u hop hu => ?_, fun u hop hu => ?_⟩
      · rw [gives, exec_exist h hp hs hl hv hop, withKeys_present hpg, ho]
      · rw [gives, exec_retrieve h hp hs hl hv hop, withKeys_present hpg, ho]
        dsimp only
        rw [hu]
      · rw [gives, exec_retrieve h hp hs hl hv hop, withKeys_present hpg, ho]
        dsimp only
        rw [hu]
    · rw [gives, exec_list h hp hs hl hv hop, withKeys_present hpg]
  · rintro s n p ln a len c snap marks l rfl hpages hrecs
    have he := fetchPlaces_one hpages hrecs n c marks
    exact ⟨fun hr hh => he.trans (congrArg _ (readPitch_empty hr hh marks)),
      fun h d u hf hr hh hd ha hl hw hrd => he.trans (congrArg _ (readPitch_single_read hf hr hh hl hd ha hw hrd)),
      fun h u hf hr hh ha hl hw hrd => ⟨fun hbad => he.trans (congrArg _ (readPitch_single_bad hf hr hh hl ha hw hrd hbad)),
        fun d hret hlive hlost hcm => he.trans ((congrArg _ (readPitch_single_search hf hr hh hl ha hw hrd hret hlive hlost)).trans (endRead_search hcm h))⟩,
      fun h hf hr hh ha hl hw hcm => he.trans ((congrArg _ (readPitch_single_astray hf hr hh hl ha hw)).trans (endRead_search hcm h)),
      fun k hr hh => he.trans (congrArg _ (readPitch_zero hr hh marks))⟩
  · intro s n p marks c d t hp hd hf
    have hdata : takesData c.cap.op = true → s.dataOf n c = (some d, t) := fun ht => (dataOf_taken ht hf).trans hd
    have hop : ∀ op, takesData op = true → s.runCmd n [op] = some c → s.dataOf n c = (some d, t) := fun op ht h =>
      hdata (by rw [List.mem_singleton.1 (runCmd_some h).2]; exact ht)
    refine ⟨fun i op hi h _ hs => ?_, fun hs hn => ⟨fun ns u h hns => ⟨fun hq => ?_, fun hq => ?_⟩, fun h ho hpg => ⟨fun hm => ?_, ?_⟩, fun o h ho hx hpg => ?_⟩⟩
    · simp only [List.mem_cons, List.not_mem_nil, or_false, Prod.mk.injEq] at hi
      rcases hi with ⟨rfl, rfl⟩ | ⟨rfl, rfl⟩ <;> exact congrArg _ (writeCmd_forward h hp (hop _ rfl h) hs _)
    · exact exec_write h hp (hop _ rfl h) hs hn hns hq
    · exact exec_write h hp (hop _ rfl h) hs hn hns hq
    · exact (exec_store_new h hp (hop _ rfl h) hs hn ho hpg).trans (congrArg _ (if_pos hm))
    · rintro base u its v k hm rfl hb hi
      rw [gives, exec_store_new h hp (hop _ rfl h) hs hn ho hpg, hm, if_neg Bool.false_ne_true]
      dsimp only
      rw [← hb]
      dsimp only
      rw [← hi]
    · exact exec_store_exists h hp (hop _ rfl h) hs hn ho hx hpg
  · intro s n marks op c d q hop h hc hp hf hin hdi hq
    have hd : s.getData n c = (none, askData n q 4 s) := by
      unfold getData
      simp only [hin, hdi, hq, Bool.false_eq_true, if_false]
    simp only [List.mem_cons, List.not_mem_nil, or_false] at hop
    rcases hop with rfl | rfl
    · exact congrArg _ (writeCmd_waits h hp ((dataOf_taken (by rw [hc]; rfl) hf).trans hd) _)
    · exact congrArg _ (writeCmd_waits h hp ((dataOf_taken (by rw [hc]; rfl) hf).trans hd) _)
  · intro s n p i op c ns rs zs hi h hp hc hs hn hns hz
    have hz : ∀ b u, s.needPages p c.climb (writePages (s.pool p) (zs.map Prod.fst)) = (b, u) →
        gives i s (if b then u else issueHost u u n (mkPlan p c.cap.nsid (zs.map zeroItem) none false)) := fun b u hq => by
      simp only [List.mem_cons, List.not_mem_nil, or_false, Prod.mk.injEq] at hi
      rcases hi with ⟨rfl, rfl, rfl⟩ | ⟨rfl, rfl, rfl⟩
      · exact congrArg _ (zeroCmd_runs (ranges := fun c => [(c.start, c.len)]) h hp (dataOf_none (by rw [hc]; rfl)) hs hn hns hz hq)
      · exact congrArg _ (zeroCmd_runs (ranges := fun c => c.ranges) h hp (dataOf_none (by rw [hc]; rfl)) hs hn hns hz hq)
    exact ⟨fun u => hz true u, fun u => hz false u⟩
  · intro base off len f k
    obtain ⟨h1, h2, h3⟩ := zeroPieces_cons base off len f
    exact ⟨h1, h2, h3, fun x => (blockPieces_cons x base off len f k).1, fun x => (blockPieces_cons x base off len f k).2⟩
  · rintro s u v n p marks c ns a b h hc hp hs hn hns rfl rfl
    have hd : s.dataOf n c = (some c.data, s) := dataOf_none (by rw [hc]; rfl)
    refine ⟨fun hq => exec_copy h hp hd hs hn hns hq, fun hq => ⟨fun d hu => ?_, fun hu => ?_⟩⟩
    · rw [gives, exec_copy h hp hd hs hn hns hq, if_neg Bool.false_ne_true, hu]
    · rw [gives, exec_copy h hp hd hs hn hns hq, if_neg Bool.false_ne_true, hu]
  · intro s u n p c o h hc hp hs hn
    have hd : s.dataOf n c = (some c.data, s) := dataOf_none (by rw [hc]; rfl)
    exact ⟨fun ho hq => exec_delete_none h hp hd hs hn ho hq, fun ho hq => exec_delete h hp hd hs hn ho hq⟩

end Sys2Proof.Machine
end

section
/-! How a climb's context changes: a result, a trap, a move between states; WAIT, WAITANY and POLL (O5). -/

open Sys2Proof Sys2Proof.Machine Sys2Proof.Machine.State

namespace Sys2Proof.Machine

namespace State

section
variable {s : State} {r c cid : Nat}

/-! ### The context of the climb on a datapath core (R69, R63) -/

@[simp] theorem agentCid_setClimb (s : State) (a : Agent) (k : Nat) (x : Climb) : (s.setClimb k x).agentCid a = s.agentCid a := by
  cases a <;> rfl

/-- An instruction of datapath cores acts on the climb that runs (R34). -/
theorem ezClimb_issues (h : s.issues (.dp r c) = true) (hc : s.agentCid (.dp r c) = some cid) (i : Instr) (f : Nat → State → State) :
    s.ezClimb (.dp r c) i f = f cid s := by
  rw [ezClimb, ez_issues h]
  show (match s.agentCid (.dp r c) with | some k => f k s | none => _) = _
  rw [hc]

/-- A context once an instruction has written its result and moved on (R69). -/
def withResult (x : Climb) (rd : BitVec 5) (v : W64) : Climb :=
  { x with pc := x.pc + 4, g := if rd = 0 then x.g else x.g.set rd.toNat v }

theorem result_dp (hc : s.agentCid (.dp r c) = some cid) (rd : BitVec 5) (v : W64) :
    s.result (.dp r c) rd v = s.setClimb cid (withResult (s.climb cid) rd v) := by
  rw [result, adv, pcOf_wr, wr_setPc_dp hc, withResult]
  simp only [pcOf, hc]
  split
  · rfl
  · simp only [updClimb, climb_setClimb, if_true, setClimb_setClimb]

theorem result_setClimb (hc : s.agentCid (.dp r c) = some cid) (x : Climb) (rd : BitVec 5) (v : W64) :
    (s.setClimb cid x).result (.dp r c) rd v = s.setClimb cid (withResult x rd v) := by
  rw [result_dp (by rwa [agentCid_setClimb]), climb_setClimb, if_pos rfl, setClimb_setClimb]

theorem adv_dp (hc : s.agentCid (.dp r c) = some cid) :
    s.adv (.dp r c) = s.setClimb cid { s.climb cid with pc := (s.climb cid).pc + 4 } := by
  simp only [adv, setPc, pcOf, hc]
  rfl

end

/-- The climb that runs takes a trap, whatever the pc it saves (R63). -/
theorem trapClimb_taken {s : State} {r c cid : Nat} (hc : s.agentCid (.dp r c) = some cid) (ht : trapReady (.dp r c) s = true)
    (cause : Nat) (v p : W64) : trapTaken (.dp r c) s (s.trapClimb cid cause v p) cause v p := by
  simp only [trapReady, hc, Bool.and_eq_true, Bool.not_eq_true', decide_eq_true_eq] at ht
  obtain ⟨hactive, hhandler⟩ := ht
  refine ⟨cid, hc, ?_⟩
  rw [trapClimb, if_neg (by simp [hactive]), if_neg hhandler]

/-! ### A climb leaves RUNNING (R36, R37) -/

theorem offCore_frame (s : State) (cid : Nat) : s.offCore cid = { s with cores := (s.offCore cid).cores } := by
  unfold offCore
  split
  · split <;> rfl
  · rfl

theorem core_offCore (s : State) (cid q : Nat) : (s.offCore cid).core q =
    if (s.climb cid).core = some q ∧ (s.core q).running = some cid then { s.core q with running := none } else s.core q := by
  unfold offCore
  split
  · next k hk =>
    by_cases hq : k = q
    · subst hq
      by_cases hr : (s.core k).running = some cid <;> simp [hk, hr]
    · have hq' : q ≠ k := Ne.symm hq
      simp only [hk, Option.some.injEq, hq, false_and, if_false]
      split
      · rw [core_setCore, if_neg hq']
      · rfl
  · next hk => simp [hk]

/-- A climb that leaves its core for a state: its record, the core that it ran on, the order counter, and nothing else. -/
theorem leave_spec (s : State) (cid : Nat) (st : CState) :
    s.leave cid st = { s with climbs := (s.leave cid st).climbs, cores := (s.leave cid st).cores, stamp := s.stamp + 1 } ∧
    (∀ n, (s.leave cid st).climb n =
      if n = cid then { s.climb cid with state := st, since := s.time, stamp := s.stamp } else s.climb n) ∧
    (∀ q, (s.leave cid st).core q =
      if (s.climb cid).core = some q ∧ (s.core q).running = some cid then { s.core q with running := none } else s.core q) := by
  have hoff := offCore_frame s cid
  refine ⟨?_, fun n => ?_, fun q => ?_⟩
  · rw [leave, hoff]
    rfl
  · rw [leave, hoff]
    exact climb_setClimb s cid n _
  · exact core_offCore s cid q

/-- The same where the climb's context, but not its core, is changed first. -/
theorem leave_setClimb_spec (s : State) (cid : Nat) (st : CState) {x : Climb} (hx : x.core = (s.climb cid).core) {t : State}
    (ht : t = (s.setClimb cid x).leave cid st) :
    t = { s with climbs := t.climbs, cores := t.cores, stamp := s.stamp + 1 } ∧
    t.climb cid = { x with state := st, since := s.time, stamp := s.stamp } ∧ (∀ n, n ≠ cid → t.climb n = s.climb n) ∧
    (∀ q, t.core q = if (s.climb cid).core = some q ∧ (s.core q).running = some cid then { s.core q with running := none } else s.core q) := by
  obtain ⟨hframe, hclimb, hcore⟩ := leave_spec (s.setClimb cid x) cid st
  rw [← ht] at hframe hclimb hcore
  simp only [climb_setClimb, if_true] at hclimb hcore
  refine ⟨hframe, ?_, fun n hn => ?_, fun q => ?_⟩
  · rw [hclimb, if_pos rfl]
    rfl
  · rw [hclimb, if_neg hn, if_neg hn]
  · rw [hcore, hx]
    rfl

/-! ### Tokens (R97) -/

section
variable {s : State} {r c cid : Nat} {rd : BitVec 5}

theorem exec_wait (h : s.issues (.dp r c) = true) (hc : s.agentCid (.dp r c) = some cid) (k : BitVec 3) :
    exec (.wait (.dp r c) rd k) s = .next (s.waitRun (.dp r c) cid rd k.toNat) := congrArg _ (ezClimb_issues h hc _ _)

theorem exec_poll (h : s.issues (.dp r c) = true) (hc : s.agentCid (.dp r c) = some cid) (k : BitVec 3) :
    exec (.poll (.dp r c) rd k) s = .next (s.pollRun (.dp r c) cid rd k.toNat) := congrArg _ (ezClimb_issues h hc _ _)

theorem exec_waitany (h : s.issues (.dp r c) = true) (hc : s.agentCid (.dp r c) = some cid) (mask : BitVec 8) :
    exec (.waitany (.dp r c) rd mask) s = .next (s.waitanyRun (.dp r c) cid rd mask.toNat) := congrArg _ (ezClimb_issues h hc _ _)

/-- A DONE token is consumed: its word goes to rd (R97). -/
theorem consume_done (hc : s.agentCid (.dp r c) = some cid) (k : Nat) (w : W64) :
    (s.setTok cid k .idle).result (.dp r c) rd w =
      s.setClimb cid (withResult { s.climb cid with t := (s.climb cid).t.set k .idle } rd w) :=
  result_setClimb hc _ rd w

/-- The members of a WAITANY's mask, in order. -/
def members (mask : Nat) : List Nat := (List.range 8).filter (fun t => bit mask t)

theorem mem_members {mask t : Nat} : t ∈ members mask ↔ t < 8 ∧ bit mask t = true := by simp [members]

theorem find_members {mask k : Nat} {p : Nat → Bool} (hk : k < 8) (hb : bit mask k = true) (hp : p k = true)
    (h : ∀ j < k, bit mask j = true → p j = false) : (members mask).find? p = some k := by
  rw [members, List.find?_filter, List.find?_range_eq_some]
  refine ⟨by simp [hb, hp], List.mem_range.2 hk, fun j hj => ?_⟩
  cases hbj : bit mask j
  · rfl
  · simp [h j hj hbj]

theorem members_cons {mask k : Nat} (hk : k < 8) (hb : bit mask k = true) (h : ∀ j < k, bit mask j = false) :
    ∃ l, members mask = k :: l := by
  have hf := find_members (p := fun _ => true) hk hb rfl fun j hj hbj => absurd hbj (by simp [h j hj])
  cases hm : members mask with
  | nil => simp [hm] at hf
  | cons a l => exact ⟨l, by simpa [hm] using hf⟩

/-- What a WAITANY whose lowest DONE member is `k` does, if any is (R97). -/
def takeMember (s : State) (a : Agent) (cid : Nat) (rd : BitVec 5) (mask : Nat) : Option Nat → State
  | none => s.block cid mask
  | some k => match s.tok cid k with
    | .done w => ((s.setTok cid k .idle).updClimb cid (fun c => { c with tlast := k })).result a rd w
    | _ => s

theorem waitanyRun_cons {mask low : Nat} {l : List Nat} (hm : members mask = low :: l) : s.waitanyRun (.dp r c) cid rd mask =
    if (members mask).all (fun t => decide (s.tok cid t = .idle)) then s.trapHere (.dp r c) 0x08 (BitVec.ofNat 64 low)
    else s.takeMember (.dp r c) cid rd mask ((members mask).find? (fun t => Tok.isDone (s.tok cid t))) := by
  unfold waitanyRun
  rw [show (List.range 8).filter (fun t => bit mask t) = low :: l from hm, hm]
  dsimp only
  split
  · rfl
  · cases (low :: l).find? (fun t => Tok.isDone (s.tok cid t)) <;> rfl

theorem waitanyRun_done {mask k : Nat} {w : W64} (hc : s.agentCid (.dp r c) = some cid) (hk : k < 8) (hb : bit mask k = true)
    (hw : s.tok cid k = .done w) (h : ∀ j < k, bit mask j = true → Tok.isDone (s.tok cid j) = false) :
    s.waitanyRun (.dp r c) cid rd mask =
      s.setClimb cid (withResult { s.climb cid with t := (s.climb cid).t.set k .idle, tlast := k } rd w) := by
  have hmem : k ∈ members mask := mem_members.2 ⟨hk, hb⟩
  have hfind := find_members (p := fun t => Tok.isDone (s.tok cid t)) hk hb (by simp [hw, Tok.isDone]) h
  have hall : (members mask).all (fun t => decide (s.tok cid t = .idle)) = false :=
    List.all_eq_false.2 ⟨k, hmem, by simp [hw]⟩
  obtain ⟨low, l, hm⟩ := List.exists_cons_of_ne_nil (List.ne_nil_of_mem hmem)
  rw [waitanyRun_cons hm, hall, hfind]
  simp only [Bool.false_eq_true, if_false, takeMember, hw]
  rw [setTok, updClimb, updClimb, climb_setClimb, if_pos rfl, setClimb_setClimb, result_setClimb hc]

theorem waitanyRun_pending {mask j : Nat} (h : ∀ j < 8, bit mask j = true → Tok.isDone (s.tok cid j) = false) (hj : j < 8)
    (hb : bit mask j = true) (hp : s.tok cid j = .pending) : s.waitanyRun (.dp r c) cid rd mask = s.block cid mask := by
  have hmem : j ∈ members mask := mem_members.2 ⟨hj, hb⟩
  have hfind : (members mask).find? (fun t => Tok.isDone (s.tok cid t)) = none :=
    List.find?_eq_none.2 fun t ht => by
      obtain ⟨h8, hbt⟩ := mem_members.1 ht
      simp [h t h8 hbt]
  have hall : (members mask).all (fun t => decide (s.tok cid t = .idle)) = false :=
    List.all_eq_false.2 ⟨j, hmem, by simp [hp]⟩
  obtain ⟨low, l, hm⟩ := List.exists_cons_of_ne_nil (List.ne_nil_of_mem hmem)
  rw [waitanyRun_cons hm, hall, hfind]
  rfl

theorem waitanyRun_idle {mask v : Nat} (h : ∀ j < 8, bit mask j = true → s.tok cid j = .idle) (hv : v < 8) (hb : bit mask v = true)
    (hlow : ∀ j < v, bit mask j = false) :
    s.waitanyRun (.dp r c) cid rd mask = s.trapHere (.dp r c) 0x08 (BitVec.ofNat 64 v) := by
  obtain ⟨l, hm⟩ := members_cons hv hb hlow
  have hall : (members mask).all (fun t => decide (s.tok cid t = .idle)) = true :=
    List.all_eq_true.2 fun t ht => by
      obtain ⟨h8, hbt⟩ := mem_members.1 ht
      simp [h t h8 hbt]
  rw [waitanyRun_cons hm, hall, if_pos rfl]

end

end State

/-- Settles O5: a DONE token by `consume_done` and `waitanyRun_done`, a PENDING one by `leave_setClimb_spec`, an IDLE one by `trapHere_taken`. -/
theorem tokenInstructionsConsumeAndBlock : Obligations.TokenInstructionsConsumeAndBlock := by
  unfold Obligations.TokenInstructionsConsumeAndBlock
  refine ⟨fun s r c cid rd k w i hi h hc hw => ?_, fun s r c cid k rd mask w h hc hk hb hw hlow => ?_,
    fun s r c cid rd k h hc hp => ?_, fun s r c cid i rd k mask h hc hp => ?_, fun s r c cid i rd k mask cause v h hc ht hcase => ?_⟩
  · simp only [List.mem_cons, List.not_mem_nil, or_false] at hi
    rcases hi with rfl | rfl
    · rw [gives, exec_wait h hc, waitRun, hw]
      exact congrArg _ (consume_done hc _ w)
    · rw [gives, exec_poll h hc, pollRun, hw]
      exact congrArg _ (consume_done hc _ w)
  · rw [gives, exec_waitany h hc, waitanyRun_done hc hk hb hw hlow]
    rfl
  · rw [gives, exec_poll h hc, pollRun, hp]
    exact congrArg _ (result_dp hc rd _)
  · have hblock : gives i s (s.block cid mask.toNat) := by
      rcases hp with ⟨rfl, hp, hm⟩ | ⟨rfl, hnone, j, hj, hb, hp⟩
      · rw [gives, exec_wait h hc, waitRun, hp, hm]
      · rw [gives, exec_waitany h hc, waitanyRun_pending hnone hj hb hp]
    obtain ⟨hframe, hclimb, hother, hcore⟩ := leave_setClimb_spec s cid .waiting
      (x := { s.climb cid with await := .token mask.toNat, run := 0 }) rfl (t := s.block cid mask.toNat) rfl
    refine ⟨_, hblock, hclimb, hother, fun q => ?_, hframe⟩
    rw [hcore]
    split <;> rfl
  · suffices hrun : exec i s = .next (s.trapHere (.dp r c) cause (BitVec.ofNat 64 v)) from ⟨_, hrun, trapHere_taken h ht cause _⟩
    rcases hcase with ⟨hi, hidle, rfl, rfl⟩ | ⟨rfl, hidle, rfl, hv, hb, hlow⟩ | ⟨rfl, rfl, rfl⟩
    · simp only [List.mem_cons, List.not_mem_nil, or_false] at hi
      rcases hi with rfl | rfl
      · rw [exec_wait h hc, waitRun, hidle]
      · rw [exec_poll h hc, pollRun, hidle]
    · rw [exec_waitany h hc, waitanyRun_idle hidle hv hb hlow]
    · rw [exec_waitany h hc]
      rfl

end Sys2Proof.Machine
end

section
/-! TIME, TRAP, ERET, FENCE, SLEEP, IINV, IOFENCE, words that do not decode, and interrupts (O3). -/

open Sys2Proof Sys2Proof.Machine Sys2Proof.Machine.State

namespace Sys2Proof.Machine

namespace State

section
variable {s : State}

theorem setMcore_setMcore (s : State) (m : Nat) (c d : MCore) : (s.setMcore m c).setMcore m d = s.setMcore m d := by
  simp only [setMcore, Tbl.set_set]

/-- A trap that the core may take, whatever the pc it saves (R63, R102). -/
theorem ezTrap_taken {a : Agent} (h : s.issues a = true) (ht : trapReady a s = true) (cause : Nat) (v p : W64) :
    trapTaken a s ((s.awake a).ezTrap a cause v p) cause v p := by
  cases a with
  | dp r c =>
    obtain ⟨cid, hc⟩ := ready_cid (issues_iff.1 h).1
    simp only [ezTrap, agentCid_awake, hc]
    exact trapClimb_taken hc ht cause v p
  | mg m =>
    simp only [trapReady, Bool.not_eq_true'] at ht
    simp only [trapTaken, ezTrap, awake, trapMcore, mcore_setMcore, if_true, ht, setMcore_setMcore, Bool.false_eq_true, if_false]

/-- An instruction that the core does not execute takes ILLEGAL_INSTRUCTION with its word (R74). -/
theorem illegal_taken {a : Agent} {i : Instr} {w : BitVec 32} (hw : ezEncode i = some w) (h : s.issues a = true)
    (ht : trapReady a s = true) : trapTaken a s ((s.awake a).illegal a i) 0x01 (w.setWidth 64) (s.pcOf a) := by
  rw [illegal, hw]
  exact trapHere_taken h ht 0x01 _

/-! ### ERET (R63, R101, R102) -/

/-- The cores and the flags of lines 0 and 1 once a management core returns from a trap of this cause (log entry 28). -/
def served (s : State) (cause : Nat) : State :=
  if cause = 0x20 then { s.wakeCores with internalCpl := [] }
  else if cause = 0x21 then { s.wakeCores with bell := s.bell && !s.pep.queue.isEmpty } else s

theorem served_frame (s : State) (cause : Nat) : s.served cause = { s with
    mcores := (s.served cause).mcores, internalCpl := if cause = 0x20 then [] else s.internalCpl,
    bell := s.bell && !(decide (cause = 0x21) && s.pep.queue.isEmpty) } := by
  unfold served
  by_cases h0 : cause = 0x20
  · simp [h0, wakeCores]
  · by_cases h1 : cause = 0x21
    · simp [h1, wakeCores]
    · simp [h0, h1]

theorem mcore_served (s : State) (cause n : Nat) :
    (s.served cause).mcore n = { s.mcore n with sleeping := ((s.served cause).mcore n).sleeping } := by
  unfold served
  split
  · exact mcore_wakeCores s n
  · split
    · exact mcore_wakeCores s n
    · rfl

theorem trapReturn_mg (s : State) (m : Nat) : s.trapReturn (.mg m) =
    (s.served (s.mcore m).tcause).setMcore m { s.mcore m with trapActive := false, pc := (s.mcore m).tpc } := rfl

theorem exec_eret {a : Agent} (h : s.issues a = true) (ha : (s.awake a).trapActive a = true) :
    exec (.eret a) s = .next ((s.awake a).trapReturn a) := by
  show Host.Outcome.next (s.ez a _) = _
  rw [ez_issues h, if_pos ha]

/-- ERET of a management core: its own context, the cores that wake, and the lines it has served (R102, log entry 28). -/
theorem eret_mg {m : Nat} (h : s.issues (.mg m) = true) (ha : (s.mcore m).trapActive = true) :
    ∃ t, gives (.eret (.mg m)) s t ∧
      t.mcore m = { s.mcore m with trapActive := false, pc := (s.mcore m).tpc, sleeping := false } ∧
      (∀ k, k ≠ m → t.mcore k = { s.mcore k with sleeping := (t.mcore k).sleeping }) ∧
      t = { s with
        mcores := t.mcores
        internalCpl := if (s.mcore m).tcause = 0x20 then [] else s.internalCpl
        bell := s.bell && !(decide ((s.mcore m).tcause = 0x21) && s.pep.queue.isEmpty) } := by
  have hm : (s.awake (.mg m)).mcore m = { s.mcore m with sleeping := false } := by simp [awake]
  refine ⟨_, exec_eret h (by simp only [trapActive, hm, ha]), ?_⟩
  rw [trapReturn_mg, hm]
  refine ⟨by simp, fun k hk => ?_, ?_⟩
  · have hwoken := mcore_served (s.awake (.mg m)) (s.mcore m).tcause k
    have hkept : (s.awake (.mg m)).mcore k = s.mcore k := by simp [awake, hk]
    rw [mcore_setMcore, if_neg hk]
    rw [hkept] at hwoken
    exact hwoken
  · have hframe := served_frame (s.awake (.mg m)) (s.mcore m).tcause
    rw [setMcore, hframe]
    rfl

/-! ### The instructions of management cores (R34, R101) -/

theorem exec_mgmt_dp {r c : Nat} {i : Instr} (hi : i ∈ [.sleep (.dp r c), .iinv (.dp r c), .iofence (.dp r c)])
    (h : s.issues (.dp r c) = true) : exec i s = .next (s.illegal (.dp r c) i) := by
  simp only [List.mem_cons, List.not_mem_nil, or_false] at hi
  rcases hi with rfl | rfl | rfl <;> exact congrArg _ (ez_issues h _)

theorem mgmt_encoded {a : Agent} {i : Instr} (hi : i ∈ [.sleep a, .iinv a, .iofence a]) : ∃ w, ezEncode i = some w := by
  simp only [List.mem_cons, List.not_mem_nil, or_false] at hi
  rcases hi with rfl | rfl | rfl <;> exact ⟨_, rfl⟩

/-- FENCE on every core, IINV and IOFENCE on management cores, move the pc alone (R34, R80, R101). -/
theorem exec_advances {a : Agent} {i : Instr} (hi : i ∈ [.fence a, .iinv a, .iofence a]) (h : s.issues a = true)
    (hm : i = .fence a ∨ ∃ m, a = .mg m) : exec i s = .next ((s.awake a).setPc a (s.pcOf a + 4)) := by
  have hadv : (s.awake a).adv a = (s.awake a).setPc a (s.pcOf a + 4) := by rw [adv, pcOf_awake]
  have hfence : exec (.fence a) s = .next ((s.awake a).setPc a (s.pcOf a + 4)) := by
    rw [← hadv]
    exact congrArg _ (ez_issues h _)
  rcases hm with rfl | ⟨m, rfl⟩
  · exact hfence
  · simp only [List.mem_cons, List.not_mem_nil, or_false] at hi
    rcases hi with rfl | rfl | rfl
    · exact hfence
    · exact congrArg _ ((ez_issues h _).trans hadv)
    · exact congrArg _ ((ez_issues h _).trans hadv)

theorem exec_sleep {m : Nat} (h : s.issues (.mg m) = true) :
    exec (.sleep (.mg m)) s = .next (s.setMcore m { s.mcore m with pc := (s.mcore m).pc + 4, sleeping := true }) := by
  refine congrArg _ ((ez_issues h _).trans ?_)
  simp only [adv, pcOf, setPc, awake, mcore_setMcore, if_true, setMcore_setMcore]

/-! ### Interrupts (R102) -/

theorem lowLine_eq {m l : Nat} (hl : l < 16) (he : bit (s.mcore m).irqmask l = true) (hi : s.irqLine m l = true)
    (hlow : ∀ k < l, ¬ (bit (s.mcore m).irqmask k = true ∧ s.irqLine m k = true)) : s.lowLine m = some l := by
  rw [lowLine, List.find?_range_eq_some]
  refine ⟨by rw [he, hi]; rfl, List.mem_range.2 hl, fun k hk => ?_⟩
  rw [Bool.not_eq_true', ← Bool.not_eq_true, Bool.and_eq_true]
  exact hlow k hk

/-- A core between instructions that may take an interrupt takes its lowest line (R102). -/
theorem exec_mgmtInterrupt {m l : Nat} (h : m < 4 ∧ (s.mcore m).running = true ∧ (s.mcore m).frozen = false ∧ (s.mcore m).halted = false ∧
    (s.mcore m).trapActive = false) (hl : s.lowLine m = some l) : exec (.mgmtInterrupt m) s = .next (s.setMcore m { s.mcore m with
      tpc := (s.mcore m).pc, tcause := 0x20 + l, tval := 0, trapActive := true, pc := (s.mcore m).trapvec, sleeping := false }) := by
  refine (if_pos h).trans ?_
  rw [hl]

end

end State

/-- Settles O3: results and moves of the pc by `result_spec` and `setPc_spec`, traps by `ezTrap_taken`, ERET by `eret_mg`, interrupts by `lowLine_eq`. -/
theorem systemInstructionsAndTraps : Obligations.SystemInstructionsAndTraps := by
  unfold Obligations.SystemInstructionsAndTraps
  refine ⟨fun s a rd h hf => ?_, fun s a imm h ht => ?_, fun s r c cid h hc ha => ?_, fun s m h ha => eret_mg h ha,
    fun s a i hi h hf hm => ⟨_, exec_advances hi h hm, ?_⟩, fun s m h => exec_sleep h, fun s a w hw h ht => ?_, fun s r c i hi h ht => ?_,
    fun s m l hm hr hf hh ht hl he hi hlow => ?_⟩
  · have htime : (s.awake a).time = s.time := by cases a <;> rfl
    refine ⟨_, congrArg Host.Outcome.next (ez_issues h _), ?_⟩
    rw [htime]
    exact result_spec h hf rd s.time
  · refine ⟨_, congrArg Host.Outcome.next (ez_issues h _), ?_⟩
    rw [pcOf_awake]
    exact ezTrap_taken h ht 0x0B _ _
  · refine (exec_eret h (by simpa only [trapActive, agentCid_awake, climb_awake, hc] using ha)).trans (congrArg _ ?_)
    show (match s.agentCid (.dp r c) with | some k => _ | none => s) = _
    rw [hc]
    rfl
  · obtain ⟨hg, hpc, honly⟩ := setPc_spec h hf (s.pcOf a + 4)
    exact ⟨hpc, hg, honly⟩
  · refine ⟨(s.awake a).trapHere a 0x01 (w.setWidth 64), ?_, trapHere_taken h ht 0x01 _⟩
    refine (if_neg (by simp [hw])).trans (congrArg _ (ez_issues h _))
  · obtain ⟨w, hw⟩ := mgmt_encoded hi
    exact ⟨w, _, hw, exec_mgmt_dp hi h, illegal_taken hw h ht⟩
  · exact ⟨_, exec_mgmtInterrupt ⟨hm, hr, hf, hh, ht⟩ (lowLine_eq hl he hi hlow), by simp, fun k hk => by simp [hk], rfl⟩

end Sys2Proof.Machine
end

section
/-! How SEND checks its operands and queues its job, or waits for a place (O11). -/

open Sys2Proof Sys2Proof.Machine Sys2Proof.Machine.State

namespace Sys2Proof.Machine

namespace State

section
variable {s : State} {j : Job}

/-! ### Acceptance (R83 check 8, R85, R86) -/

/-- The job as the queue holds it: a CODER job has a lane, an XTS job knows whether its slot is being unloaded (R85, R202). -/
def jobPlaced (s : State) (j : Job) : Job :=
  if j.cls = 3 then { j with lane := s.coderLane j.ridge }
  else if j.cls = 4 then { j with noKey := decide (fieldAt j.desc 2 1 ∈ s.keyEnding) } else j

theorem jobPlaced_kept (s : State) (j : Job) : (s.jobPlaced j).cls = j.cls ∧ (s.jobPlaced j).desc = j.desc ∧ (s.jobPlaced j).handles = j.handles ∧
    (s.jobPlaced j).cid = j.cid ∧ (s.jobPlaced j).tok = j.tok ∧ (s.jobPlaced j).ridge = j.ridge ∧ (j.cls ≠ 3 → (s.jobPlaced j).lane = j.lane) := by
  unfold jobPlaced
  split
  · next h => exact ⟨rfl, rfl, rfl, rfl, rfl, rfl, fun h' => absurd h h'⟩
  · split <;> exact ⟨rfl, rfl, rfl, rfl, rfl, rfl, fun _ => rfl⟩

theorem climb_setTok (s : State) (cid t : Nat) (k : Tok) (n : Nat) :
    (s.setTok cid t k).climb n = if n = cid then { s.climb cid with t := (s.climb cid).t.set t k } else s.climb n :=
  climb_updClimb s cid n _

/-- The state in which a SEND's job stands in the jobs and its token is PENDING (R86). -/
def jobListed (s : State) (j : Job) : State :=
  { s with jobs := Tbl.set s.jobs (Tbl.next s.jobs) (s.jobPlaced j) }.setTok j.cid j.tok .pending

theorem climb_jobListed (s : State) (j : Job) (c : Nat) : (s.jobListed j).climb c =
    if c = j.cid then { s.climb j.cid with t := (s.climb j.cid).t.set j.tok .pending } else s.climb c :=
  climb_setTok _ j.cid j.tok .pending c

/-- Whether a job's contents are valid does not change as it is listed. -/
theorem jobValid_jobListed (s : State) (j : Job) : (s.jobListed j).jobValid (s.jobPlaced j) = s.jobValid j := by
  obtain ⟨hcls, hdesc, hhandles, hcid, -, -, -⟩ := jobPlaced_kept s j
  have hcmd : (s.jobListed j).jobCmd (s.jobPlaced j) = s.jobCmd j := by
    have horigin : ((s.jobListed j).climb j.cid).origin = (s.climb j.cid).origin := by rw [climb_jobListed, if_pos rfl]
    unfold jobCmd
    rw [hcid, horigin]
    rfl
  unfold jobValid
  simp only [jh, hcls, hdesc, hhandles, hcmd]

theorem acceptJob_eq (s : State) (j : Job) : s.acceptJob j =
    if !s.jobValid j then ((s.jobListed j).badFlag (s.jobPlaced j)).finish (Tbl.next s.jobs) (s.jobPlaced j) 1 0
    else if j.cls = 9 ∧ s.mpcPresent (s.jobPlaced j).lane = false then (s.jobListed j).finish (Tbl.next s.jobs) (s.jobPlaced j) 2 0
    else if j.cls = 0x0A ∧ jobOp (s.jobPlaced j) = 0 then (s.jobListed j).ropeAccept (Tbl.next s.jobs) (s.jobPlaced j)
    else if j.cls = 3 then (s.jobListed j).startLanes j.ridge
    else if j.cls = 0x0B then { s.jobListed j with sbk := { (s.jobListed j).sbk with
      queue := (s.jobListed j).sbk.queue ++ [(s.jobListed j).sbkRecOf (Tbl.next s.jobs) (s.jobPlaced j)] } }
    else s.jobListed j := by
  obtain ⟨hcls, -, -, hcid, htok, hridge, -⟩ := jobPlaced_kept s j
  have hlisted : { s with jobs := Tbl.set s.jobs (Tbl.next s.jobs) (s.jobPlaced j) }.setTok (s.jobPlaced j).cid (s.jobPlaced j).tok .pending = s.jobListed j := by
    rw [hcid, htok]
    rfl
  unfold acceptJob
  dsimp only
  rw [← jobPlaced, hlisted, jobValid_jobListed, hcls, hridge]
  rfl

/-- A job of valid contents for a present port is queued, its token is PENDING, and nothing else differs (R85, R86). -/
theorem acceptJob_queued (hv : s.jobValid j = true) (hc : j.cls ∉ [0x0A, 0x0B]) (hp : j.cls = 9 → s.mpcPresent j.lane = true) :
    s.acceptJob j = { s.setTok j.cid j.tok .pending with jobs := queuedAs s (Tbl.next s.jobs) j } := by
  simp only [List.mem_cons, List.not_mem_nil, or_false, not_or] at hc
  obtain ⟨hA, hB⟩ := hc
  have hlane : ¬ (j.cls = 9 ∧ s.mpcPresent (s.jobPlaced j).lane = false) := by
    rintro ⟨h9, habs⟩
    obtain ⟨-, -, -, -, -, -, hkeep⟩ := jobPlaced_kept s j
    rw [hkeep (by omega), hp h9] at habs
    cases habs
  rw [acceptJob_eq, hv, if_neg (by simp), if_neg hlane, if_neg (fun h => hA h.1)]
  by_cases h3 : j.cls = 3
  · rw [if_pos h3, queuedAs, if_pos h3, startLanes_jobs (s := { s with jobs := Tbl.set s.jobs (Tbl.next s.jobs) { j with lane := s.coderLane j.ridge } })]
    · rfl
    · rw [jobListed, jobPlaced, if_pos h3]
      rfl
  · rw [if_neg h3, if_neg hB, queuedAs, if_neg h3, jobListed, jobPlaced, if_neg h3]
    rfl

theorem badFlag_frame (s : State) (j : Job) : ∃ r p o, s.badFlag j = { s with regs := r, pep := p, out := o } := by
  unfold badFlag
  split
  · exact raise_frame s _ _
  · exact raise_frame s _ _
  · exact raise_frame s _ _
  · exact ⟨s.regs, s.pep, s.out, rfl⟩

/-- A job of invalid contents makes its token DONE with BAD_DESCRIPTOR (R86); the climb's pc and the cores stay. -/
theorem acceptJob_invalid (hv : s.jobValid j = false) (he : (s.climb j.cid).ended = .running) :
    (j.tok < (s.climb j.cid).t.length → (s.acceptJob j).tok j.cid j.tok = .done (cplWord 1 j.cls 0)) ∧
    ((s.acceptJob j).climb j.cid).pc = (s.climb j.cid).pc ∧ (s.acceptJob j).cores = s.cores := by
  obtain ⟨hcls, -, -, hcid, htok, -, -⟩ := jobPlaced_kept s j
  obtain ⟨r, p, o, hflag⟩ := badFlag_frame (s.jobListed j) (s.jobPlaced j)
  have hclimb : ((s.jobListed j).badFlag (s.jobPlaced j)).climb j.cid = { s.climb j.cid with t := (s.climb j.cid).t.set j.tok .pending } := by
    rw [hflag]
    exact (climb_jobListed s j j.cid).trans (if_pos rfl)
  have hdone := (finish_jobEnds ((s.jobListed j).badFlag (s.jobPlaced j)) (Tbl.next s.jobs) (s.jobPlaced j) 1 0).2
  obtain ⟨hframe, -, -, -, hkept⟩ := finish_onlyJob ((s.jobListed j).badFlag (s.jobPlaced j)) (Tbl.next s.jobs) (s.jobPlaced j) 1 0
  rw [acceptJob_eq, hv, if_pos (by simp)]
  rw [hcid, htok, hcls, hclimb] at hdone
  rw [hcid, hclimb] at hkept
  refine ⟨fun ht => hdone he (by simpa using ht), ?_, ?_⟩
  · rw [hkept]
  · rw [hframe, hflag]
    rfl

end

section
variable {s : State} {r c cid : Nat} {j : Job}

/-- A SEND whose job is queued moves past the instruction with its token PENDING (R83). -/
theorem adv_acceptJob_queued (hc : s.agentCid (.dp r c) = some cid) (hv : s.jobValid j = true) (hcl : j.cls ∉ [0x0A, 0x0B])
    (hp : j.cls = 9 → s.mpcPresent j.lane = true) (hj : j.cid = cid) : (s.acceptJob j).adv (.dp r c) =
      { s.setClimb cid { s.climb cid with t := (s.climb cid).t.set j.tok .pending, pc := (s.climb cid).pc + 4 } with
        jobs := queuedAs s (Tbl.next s.jobs) j } := by
  subst hj
  have hclimb : (s.acceptJob j).climb j.cid = { s.climb j.cid with t := (s.climb j.cid).t.set j.tok .pending } := by
    rw [acceptJob_queued hv hcl hp]
    exact (climb_setTok s j.cid j.tok .pending j.cid).trans (if_pos rfl)
  have hrun : (s.acceptJob j).agentCid (.dp r c) = some j.cid := by
    rw [acceptJob_queued hv hcl hp]
    exact hc
  rw [adv_dp hrun, hclimb, acceptJob_queued hv hcl hp]
  simp only [setTok, updClimb, setClimb, Tbl.set_set]

/-- A SEND of invalid contents moves past the instruction with its token DONE with BAD_DESCRIPTOR (R86). -/
theorem adv_acceptJob_invalid (hc : s.agentCid (.dp r c) = some cid) (hv : s.jobValid j = false) (he : (s.climb j.cid).ended = .running)
    (hj : j.cid = cid) :
    (j.tok < (s.climb cid).t.length → ((s.acceptJob j).adv (.dp r c)).tok cid j.tok = .done (cplWord 1 j.cls 0)) ∧
    ((s.acceptJob j).adv (.dp r c)).pcOf (.dp r c) = s.pcOf (.dp r c) + 4 := by
  subst hj
  obtain ⟨hdone, hpc, hcores⟩ := acceptJob_invalid hv he
  have hrun : (s.acceptJob j).agentCid (.dp r c) = some j.cid := by
    rw [← hc]
    unfold agentCid core
    rw [hcores]
  refine ⟨fun ht => ?_, ?_⟩
  · rw [adv_dp hrun, tok, climb_setClimb, if_pos rfl]
    exact hdone ht
  · simp only [adv_dp hrun, pcOf, agentCid_setClimb, hrun, hc, climb_setClimb, if_true, hpc]

end

/-! ### The checks in order (R80, R83, R84) -/

section
variable {s : State} {r c cid : Nat} {cls : BitVec 5} {h : BitVec 4} {k : BitVec 3} {gd : BitVec 5} {flags : BitVec 9}

theorem exec_send (hi : s.issues (.dp r c) = true) (hc : s.agentCid (.dp r c) = some cid) : exec (.send (.dp r c) cls h k gd flags) s =
    .next (if !sendListed cls flags then s.illegal (.dp r c) (.send (.dp r c) cls h k gd flags)
      else s.sendRun (.dp r c) cid cls.toNat h.toNat k.toNat flags.toNat (s.getG (.dp r c) gd).toNat) :=
  congrArg _ (ezClimb_issues hi hc _ _)

variable {a : Agent} {n x t f off : Nat}

/-- What a SEND names in the descriptor at its offset (R83). -/
def sendNames (s : State) (cid n x off : Nat) : Named :=
  named n (s.rdBytes (localAddr cid + off) 32) x (hLen ((s.climb cid).h.getD x nullH))

/-- The first check of a SEND that fails, as the cause of its trap and its value: token, offset, stale handle, short handle (R83). -/
def sendFails (s : State) (cid n x t off cause : Nat) (v : W64) : Prop :=
  (s.tok cid t ≠ .idle ∧ cause = 0x07 ∧ v = BitVec.ofNat 64 t) ∨
  (s.tok cid t = .idle ∧ (off % 32 ≠ 0 ∨ 480 < off) ∧ cause = 0x0A ∧ v = BitVec.ofNat 64 off) ∨
  (s.tok cid t = .idle ∧ off % 32 = 0 ∧ off ≤ 480 ∧
    ((s.staleHandle (cid / 1024) (s.sendNames cid n x off) ((s.climb cid).h.getD x nullH) (s.climb cid).h = some v ∧ cause = 0x06) ∨
     (s.staleHandle (cid / 1024) (s.sendNames cid n x off) ((s.climb cid).h.getD x nullH) (s.climb cid).h = none ∧
      shortHandle n x (s.rdBytes (localAddr cid + off) 32) (s.sendNames cid n x off) ((s.climb cid).h.getD x nullH) (s.climb cid).h = some v ∧
      cause = 0x05)))

theorem sendRun_fails (hp : s.climbProfile cid = 3 → n ∈ [1, 2, 3, 5]) {cause : Nat} {v : W64} (hf : s.sendFails cid n x t off cause v) :
    s.sendRun a cid n x t f off = s.trapHere a cause v := by
  unfold sendRun
  rw [if_neg fun hn => hn.2 (hp hn.1)]
  rcases hf with ⟨ht, rfl, rfl⟩ | ⟨ht, ho, rfl, rfl⟩ | ⟨ht, h32, h480, ⟨hstale, rfl⟩ | ⟨hstale, hshort, rfl⟩⟩
  · rw [if_pos ht]
  · rw [if_neg (not_not.2 ht), if_pos ho]
  · rw [if_neg (not_not.2 ht), if_neg (by omega)]
    dsimp only
    rw [← sendNames, hstale]
  · rw [if_neg (not_not.2 ht), if_neg (by omega)]
    dsimp only
    rw [← sendNames, hstale]
    dsimp only
    rw [hshort]

/-- A SEND that passes the checks has its job accepted where there is a place for it, else its climb waits (R83). -/
theorem sendRun_passes (hp : s.climbProfile cid = 3 → n ∈ [1, 2, 3, 5]) (ht : s.tok cid t = .idle) (h32 : off % 32 = 0) (h480 : off ≤ 480)
    {j : Job} (hj : j = s.mkJob cid n x t f (s.rdBytes (localAddr cid + off) 32))
    (hstale : s.staleHandle (cid / 1024) (s.sendNames cid n x off) ((s.climb cid).h.getD x nullH) (s.climb cid).h = none)
    (hshort : shortHandle n x (s.rdBytes (localAddr cid + off) 32) (s.sendNames cid n x off) ((s.climb cid).h.getD x nullH) (s.climb cid).h = none) :
    s.sendRun a cid n x t f off = if s.queueFree j && (s.queueHead j).isNone then (s.acceptJob j).adv a
      else (s.setClimb cid { s.climb cid with await := .queue j }).leave cid .waiting := by
  unfold sendRun
  rw [if_neg fun hn => hn.2 (hp hn.1), if_neg (not_not.2 ht), if_neg (by omega)]
  dsimp only
  rw [← sendNames, hstale]
  dsimp only
  rw [hshort, hj]
  rfl

/-- The class of a SEND that an open route's climb may not use is a ward violation (R84). -/
theorem sendRun_violates (hp : s.climbProfile cid = 3) (hn : n ∉ [1, 2, 3, 5]) :
    s.sendRun a cid n x t f off = s.violate (s.coreCode cid) 0 false (some n) := if_pos ⟨hp, hn⟩

end

/-- The job by which SEND_QUEUE_ACCEPT names a queue. -/
def sendProbe (ridge cls port : Nat) : Job :=
  { cid := 1024 * ridge, tok := 0, cls := cls, ordered := false, desc := [], handles := [], ridge := ridge, lane := port, profile := 0 }

/-- The SEND that has waited longest takes the free place: its job is queued, and its climb is READY past the SEND (R83). -/
theorem exec_sendQueueAccept {s : State} {ridge cls port cid : Nat} {x : Climb} {j : Job}
    (hq : s.queueHead (sendProbe ridge cls port) = some (cid, x))
    (hw : waitsFor x = some j) (hf : s.queueFree j = true) : exec (.sendQueueAccept ridge cls port) s =
      .next (((s.acceptJob j).updClimb cid (fun x => { x with pc := x.pc + 4 })).wakeUp cid) := by
  show execSendQueueAccept ridge cls port s = _
  unfold execSendQueueAccept
  dsimp only
  rw [← sendProbe, hq]
  dsimp only
  rw [hw]
  dsimp only
  rw [hf]
  rfl

end State

/-- Settles O11: an accepted job by `acceptJob_queued` and `acceptJob_invalid`, a SEND that waits by `leave_setClimb_spec`, the checks by
`sendRun_fails`. -/
theorem sendChecksAndQueues : Obligations.SendChecksAndQueues := by
  unfold Obligations.SendChecksAndQueues
  refine ⟨?_, ?_, fun s r c cid cls h k gd flags hi hc => ⟨fun hl ht => ?_, fun hl hp hn => ?_⟩, ?_⟩
  · rintro s r c cid n cls h k gd flags j hi hc hl hp ht h32 h480 hj hstale hshort rfl
    have hlist : exec (.send (.dp r c) cls h k gd flags) s =
        .next (s.sendRun (.dp r c) cid cls.toNat h.toNat k.toNat flags.toNat (s.getG (.dp r c) gd).toNat) := by
      rw [exec_send hi hc, hl]
      rfl
    have hd : j.desc = s.rdBytes (localAddr cid + (s.getG (.dp r c) gd).toNat) 32 := by rw [hj]; rfl
    have hkeys : j.cid = cid ∧ j.tok = k.toNat ∧ j.cls = cls.toNat := by rw [hj]; exact ⟨rfl, rfl, rfl⟩
    obtain ⟨hcid, htok, hcls⟩ := hkeys
    rw [hd] at hstale hshort
    rw [sendRun_passes hp ht h32 h480 hj hstale hshort] at hlist
    have hplace : s.queueFree j = true → s.queueHead j = none → gives (.send (.dp r c) cls h k gd flags) s ((s.acceptJob j).adv (.dp r c)) :=
      fun hfree hhead => by rw [gives, hlist, hfree, hhead]; rfl
    refine ⟨fun hfree hhead hv hcl hport => ?_, fun hfree hhead hv he => ⟨_, hplace hfree hhead, ?_⟩, fun hwait => ?_⟩
    · rw [← htok, ← adv_acceptJob_queued hc hv (by rwa [hcls]) (by rwa [hcls]) hcid]
      exact hplace hfree hhead
    · obtain ⟨hdone, hpc⟩ := adv_acceptJob_invalid hc hv (by rwa [hcid]) hcid
      rw [htok, hcls] at hdone
      exact ⟨hdone, hpc⟩
    · have hno : (s.queueFree j && (s.queueHead j).isNone) = false := by
        rcases hwait with h0 | h0
        · rw [h0, Bool.false_and]
        · rw [Option.isNone_eq_false_iff.2 h0, Bool.and_false]
      rw [hno, if_neg Bool.false_ne_true] at hlist
      obtain ⟨hframe, hclimb, -, -⟩ := leave_setClimb_spec s cid .waiting (x := { s.climb cid with await := .queue j }) rfl rfl
      exact ⟨_, hlist, hclimb, hframe⟩
  · rintro s r c cid cause cls h k gd flags v nm d hi hc ht hl hp rfl rfl hcase
    refine ⟨_, (exec_send hi hc).trans ?_, trapHere_taken hi ht cause v⟩
    rw [hl]
    refine congrArg _ (sendRun_fails hp ?_)
    have hoff : BitVec.ofNat 64 (s.getG (.dp r c) gd).toNat = s.getG (.dp r c) gd := by simp
    rw [sendFails, hoff]
    exact hcase
  · refine ⟨formSD 0x21 cls h k gd flags, _, rfl, (exec_send hi hc).trans (by rw [hl]; rfl), illegal_taken rfl hi ht⟩
  · rw [gives, exec_send hi hc, hl]
    exact congrArg _ (sendRun_violates hp hn)
  · intro s ridge cls port cid x j hq hw hf hv hcl hport hcid hx
    subst hcid
    refine ⟨_, exec_sendQueueAccept hq hw hf, ?_⟩
    rw [acceptJob_queued hv hcl hport, updClimb, wakeUp_setClimb]
    have hc : ({ s.setTok j.cid j.tok .pending with jobs := queuedAs s (Tbl.next s.jobs) j } : State).climb j.cid = { x with t := x.t.set j.tok .pending } := by
      rw [← hx]
      exact (climb_setTok s j.cid j.tok .pending j.cid).trans (if_pos rfl)
    rw [hc]
    exact ⟨rfl, (climb_setClimb _ _ _ _).trans (if_pos rfl), rfl⟩

end Sys2Proof.Machine
end

section
/-! How climbs are dispatched, moved between cores, ended, and woken (O21). -/

open Sys2Proof Sys2Proof.Machine Sys2Proof.Machine.State

namespace Sys2Proof.Machine

/-! ### Least elements -/

theorem minBy_eq_none {α : Type} {f : α → Nat} {l : List α} : minBy f l = none ↔ l = [] := by
  cases l with
  | nil => simp [minBy]
  | cons x t =>
    rw [minBy]
    cases minBy f t with
    | none => simp
    | some y => dsimp only; split <;> simp

theorem minBy_le {α : Type} {f : α → Nat} {l : List α} {y : α} (h : minBy f l = some y) : ∀ x ∈ l, f y ≤ f x := by
  induction l generalizing y with
  | nil => cases h
  | cons a t ih =>
    rw [minBy] at h
    cases hm : minBy f t with
    | none =>
      rw [hm] at h
      cases Option.some.inj h
      simp [minBy_eq_none.1 hm]
    | some z =>
      rw [hm] at h
      have hz := ih hm
      intro x hx
      dsimp only at h
      split at h <;> cases Option.some.inj h <;> rcases List.mem_cons.1 hx with rfl | hx
      · omega
      · exact hz x hx
      · exact le_rfl
      · have := hz x hx
        omega

namespace State

/-- The climb that has been in its state longest among some (R36, R41). -/
theorem longest_eq {l : List (Nat × Climb)} {cid : Nat} {c : Climb} (hm : (cid, c) ∈ l) (h : ∀ p ∈ l, p.1 ≠ cid → c.stamp < p.2.stamp) :
    longest l = some cid := by
  unfold longest
  cases hmin : minBy (fun p : Nat × Climb => p.2.stamp) l with
  | none =>
    rw [minBy_eq_none.1 hmin] at hm
    cases hm
  | some p =>
    by_contra hne
    have hlt := h p (minBy_mem hmin) fun e => hne (congrArg some e)
    have hle := minBy_le hmin _ hm
    dsimp only at hle
    omega

theorem longest_nil_iff {l : List (Nat × Climb)} : longest l = none ↔ l = [] := by
  rw [longest, Option.map_eq_none_iff, minBy_eq_none]

/-! ### Dispatch (R41) -/

section
variable {s : State} {r m k cid : Nat} {c : Climb}

/-- The READY residents of a core of the host or the background class (R41). -/
def readyOf (s : State) (k : Nat) (bg : Bool) : List (Nat × Climb) :=
  (s.residents k).filter (fun p => decide (p.2.state = .ready) && (p.2.bg == bg))

theorem dispatchPick_readyOf (s : State) (r m : Nat) : s.dispatchPick r m =
    match longest (s.readyOf (4 * r + m) false), longest (s.readyOf (4 * r + m) true) with
    | none, none => none
    | some h, none => some (h, (s.core (4 * r + m)).share)
    | none, some b => some (b, 0)
    | some h, some b =>
      if s.bgShare r ≠ 0 ∧ s.bgShare r ≤ (s.core (4 * r + m)).share + 1 then some (b, 0) else some (h, (s.core (4 * r + m)).share + 1) := by
  have hhost : ((s.residents (4 * r + m)).filter (fun p => decide (p.2.state = .ready))).filter (fun p => !p.2.bg) = s.readyOf (4 * r + m) false := by
    rw [List.filter_filter, readyOf]
    exact List.filter_congr fun p _ => by rw [Bool.and_comm]; cases p.2.bg <;> rfl
  have hbg : ((s.residents (4 * r + m)).filter (fun p => decide (p.2.state = .ready))).filter (fun p => p.2.bg) = s.readyOf (4 * r + m) true := by
    rw [List.filter_filter, readyOf]
    exact List.filter_congr fun p _ => by rw [Bool.and_comm]; cases p.2.bg <;> rfl
  unfold dispatchPick
  simp only [hhost, hbg] <;> rfl

/-- The share count once a climb of this class is dispatched (R41). -/
def shareAfter (s : State) (k : Nat) (bg : Bool) : Nat :=
  if bg then 0 else if s.readyOf k true = [] then (s.core k).share else (s.core k).share + 1

theorem dispatchPick_eq (hmem : (cid, c) ∈ s.readyOf (4 * r + m) c.bg)
    (hold : ∀ p ∈ s.readyOf (4 * r + m) c.bg, p.1 ≠ cid → c.stamp < p.2.stamp)
    (hbg : c.bg = true → s.readyOf (4 * r + m) false = [] ∨ (s.bgShare r ≠ 0 ∧ s.bgShare r ≤ (s.core (4 * r + m)).share + 1))
    (hhost : c.bg = false → s.readyOf (4 * r + m) true = [] ∨ s.bgShare r = 0 ∨ (s.core (4 * r + m)).share + 1 < s.bgShare r) :
    s.dispatchPick r m = some (cid, s.shareAfter (4 * r + m) c.bg) := by
  have hlong := longest_eq hmem hold
  rw [dispatchPick_readyOf, shareAfter]
  cases hcls : c.bg with
  | true =>
    rw [hcls] at hlong
    rw [hlong]
    cases hh : longest (s.readyOf (4 * r + m) false) with
    | none => rfl
    | some h =>
      rcases hbg hcls with h0 | h0
      · rw [longest_nil_iff.2 h0] at hh
        cases hh
      · exact if_pos h0
  | false =>
    rw [hcls] at hlong
    rw [hlong]
    cases hb : longest (s.readyOf (4 * r + m) true) with
    | none => simp [longest_nil_iff.1 hb]
    | some b =>
      have hne : s.readyOf (4 * r + m) true ≠ [] := fun e => by
        rw [longest_nil_iff.2 e] at hb
        cases hb
      have hshare := (hhost hcls).resolve_left hne
      simp only [Bool.false_eq_true, if_false, if_neg hne]
      exact if_neg (by omega)

/-- A dispatch: the climb is RUNNING with a new quantum, the core counts the switch (R41). -/
theorem exec_climbDispatch {n : Nat} (hidle : s.coreIdle (4 * r + m) = true) (hp : s.dispatchPick r m = some (cid, n)) :
    ∃ t, gives (.climbDispatch r m) s t ∧ t = { s with climbs := t.climbs, cores := t.cores, stamp := s.stamp + 1 } ∧
      (∀ n, t.climb n = if n = cid then { s.climb cid with state := .running, since := s.time, stamp := s.stamp, quant := 0 } else s.climb n) ∧
      (∀ q, t.core q = if q = 4 * r + m then { s.core (4 * r + m) with
        running := some cid, switches := (s.core (4 * r + m)).switches + 1, share := n } else s.core q) := by
  refine ⟨(((s.chg cid .running).updClimb cid (fun c => { c with quant := 0 })).setCore (4 * r + m) { s.core (4 * r + m) with
    running := some cid, share := n, switches := (s.core (4 * r + m)).switches + 1 }), ?_, rfl, fun q => ?_, fun q => core_setCore _ _ q _⟩
  · show execClimbDispatch r m s = _
    unfold execClimbDispatch
    dsimp only
    rw [hidle, hp]
    rfl
  · have hchg : ∀ i, (s.chg cid .running).climb i = if i = cid then { s.climb cid with state := .running, since := s.time, stamp := s.stamp }
        else s.climb i := fun i => climb_setClimb s cid i _
    refine (climb_updClimb (s.chg cid .running) cid q (fun c => { c with quant := 0 })).trans ?_
    rw [hchg, hchg, if_pos rfl]
    split <;> rfl

/-! ### Quantum, residency, watchdog (R37, R40, R44) -/

/-- The RUNNING climb of a core past its quantum becomes READY where another resident is READY (R37). -/
theorem exec_quantumExpiry (hr : s.runningOn r m = some cid) : exec (.quantumExpiry r m) s = .next
    (if s.quantum r ≠ 0 ∧ s.quantum r ≤ (s.climb cid).quant ∧ s.otherReady (4 * r + m) = true then s.leave cid .ready else s) := by
  show execQuantumExpiry r m s = _
  unfold execQuantumExpiry
  rw [hr]
  dsimp only
  split <;> rfl

/-- A core with a free slot takes the stray READY climb that has waited longest (R40). -/
theorem exec_climbFill (hf : (s.core (4 * r + m)).frozen = false) (hn : (s.residents (4 * r + m)).length < 16) (hm : m < 4)
    (hl : longest (s.strays r) = some cid) : exec (.climbFill r m) s = .next (s.setClimb cid { s.climb cid with core := some (4 * r + m) }) := by
  refine (if_neg ?_).trans ?_
  · rw [hf]
    simp only [Bool.false_eq_true, false_or]
    omega
  · rw [hl]
    rfl

theorem exec_climbFill_full (h : 16 ≤ (s.residents (4 * r + m)).length) : exec (.climbFill r m) s = .next s := if_pos (.inr (.inl h))

/-- A full core with none READY gives up the WAITING climb that has waited longest when a stray waits (R40). -/
theorem exec_climbSpill (hn : (s.residents (4 * r + m)).length = 16) (hr : ∀ p ∈ s.residents (4 * r + m), p.2.state ≠ .ready)
    (hs : s.strays r ≠ []) (hl : longest ((s.residents (4 * r + m)).filter (fun p => decide (p.2.state = .waiting))) = some cid) :
    exec (.climbSpill r m) s = .next (s.setClimb cid { s.climb cid with core := none }) := by
  refine (if_neg ?_).trans ?_
  · have hany : (s.residents (4 * r + m)).any (fun p => decide (p.2.state = .ready)) = false :=
      List.any_eq_false.2 fun p hp => by simpa using hr p hp
    rw [hn, hany, List.isEmpty_eq_false_iff.2 hs]
    simp
  · rw [hl]
    rfl

theorem exec_watchdog (hr : s.runningOn r m = some cid) : exec (.watchdog r m) s = .next
    (if s.wdLimit r ≠ 0 ∧ s.wdLimit r ≤ (s.climb cid).run then
      (s.setClimb cid { s.climb cid with run := 0 }).trapClimb cid 0x0C (BitVec.ofNat 64 (s.climb cid).run) (s.climb cid).pc else s) := by
  show execWatchdog r m s = _
  unfold execWatchdog
  rw [hr]
  dsimp only
  split <;> rfl

/-- A climb past the watchdog limit takes WATCHDOG, its count from zero again (R44). -/
theorem watchdog_taken (hr : s.runningOn r m = some cid) (hw : s.wdLimit r ≠ 0) (hl : s.wdLimit r ≤ (s.climb cid).run)
    (ht : trapReady (.dp r m) s = true) (hc : s.agentCid (.dp r m) = some cid) : ∃ t, gives (.watchdog r m) s t ∧
      trapTaken (.dp r m) (s.setClimb cid { s.climb cid with run := 0 }) t 0x0C (BitVec.ofNat 64 (s.climb cid).run) (s.climb cid).pc := by
  refine ⟨_, (exec_watchdog hr).trans (by rw [if_pos ⟨hw, hl⟩]), trapClimb_taken (by rwa [agentCid_setClimb]) ?_ _ _ _⟩
  simp only [trapReady, agentCid_setClimb, hc, climb_setClimb, if_true] at ht ⊢
  exact ht

/-! ### A drained climb becomes FREE (R37, R38, R49, R53, R117) -/

/-- A drained climb without buffers is FREE, its contexts released, before its parent's token is settled. -/
def freed (s : State) (cid : Nat) : State :=
  { s.setClimb cid { s.climb cid with state := .free, since := s.time, stamp := s.stamp, core := none, await := .none } with
    digs := s.digs.filter (fun p => decide (p.2.owner ≠ cid)), stamp := s.stamp + 1 }

theorem freeClimb_eq (hb : s.ownedBufs cid = []) : s.freeClimb cid = match (s.climb cid).parent with
    | some p => (s.freed cid).doneToken p (s.climb cid).parentTok (spawnWord (s.climb cid).ended)
    | none => s.freed cid := by
  have hfreed : (({ s with digs := s.digs.filter (fun p => decide (p.2.owner ≠ cid)) }).chg cid .free).updClimb cid
      (fun c => { c with core := none, await := .none, bg := c.bg }) = s.freed cid := by
    simp only [updClimb, chg, setClimb, tick, climb, Tbl.getD, Tbl.find_set_same, Option.getD_some, Tbl.set_set, freed]
  unfold freeClimb
  rw [hb]
  dsimp only [List.foldl_nil]
  cases (s.climb cid).parent with
  | none => exact hfreed
  | some p => exact congrArg (fun u : State => u.doneToken p (s.climb cid).parentTok (spawnWord (s.climb cid).ended)) hfreed

theorem climb_freed (s : State) (cid n : Nat) : (s.freed cid).climb n =
    if n = cid then { s.climb cid with state := .free, since := s.time, stamp := s.stamp, core := none, await := .none } else s.climb n :=
  climb_setClimb s cid n _

theorem freeClimb_spec (hc : s.climb cid = c) (he : c.ended ≠ .running) (hb : s.ownedBufs cid = []) {t : State} (ht : t = s.freeClimb cid) :
    (t.climb cid).state = .free ∧ (t.climb cid).core = none ∧ t.digs = s.digs.filter (fun p => decide (p.2.owner ≠ cid)) ∧
    (c.parent = none → t = { s with digs := t.digs, climbs := t.climbs, stamp := s.stamp + 1 } ∧ ∀ n, n ≠ cid → t.climb n = s.climb n) ∧
    (∀ p, c.parent = some p → p ≠ cid → (s.climb p).ended = .running → (t.climb p).t = (s.climb p).t.set c.parentTok (.done (spawnWord c.ended))) := by
  subst hc
  rw [freeClimb_eq hb] at ht
  cases hp : (s.climb cid).parent with
  | none =>
    rw [hp] at ht
    subst ht
    refine ⟨?_, ?_, rfl, fun _ => ⟨rfl, fun n hn => ?_⟩, fun p h => (nomatch h)⟩
    · rw [climb_freed, if_pos rfl]
    · rw [climb_freed, if_pos rfl]
    · rw [climb_freed, if_neg hn]
  | some p =>
    rw [hp] at ht
    dsimp only at ht
    have hclimb : t.climb cid = if cid = p then afterDone (s.freed cid) ((s.freed cid).climb p) (s.climb cid).parentTok (spawnWord (s.climb cid).ended)
        else (s.freed cid).climb cid := by
      rw [ht, climb_doneToken]
    obtain ⟨hstate, hcore⟩ : (t.climb cid).state = .free ∧ (t.climb cid).core = none := by
      rw [hclimb]
      split
      · next e =>
        subst e
        rw [afterDone_ended (by rw [climb_freed, if_pos rfl]; exact he), climb_freed, if_pos rfl]
        exact ⟨rfl, rfl⟩
      · rw [climb_freed, if_pos rfl]
        exact ⟨rfl, rfl⟩
    refine ⟨hstate, hcore, by rw [ht, doneToken_eq]; rfl, fun h => (nomatch h), fun q hq hne hr => ?_⟩
    cases Option.some.inj hq
    have hkept : (s.freed cid).climb p = s.climb p := by rw [climb_freed, if_neg hne]
    rw [ht, climb_doneToken, if_pos rfl, hkept, (afterDone_running hr _ _).1]

/-! ### Allocations (R51) -/

/-- A buffer that can be allocated gets free granules and a free slot, in either class (R51). -/
theorem allocBuf_takes {n : Nat} {bg : Bool} (h : s.allocable r n bg = true) (hk : ∃ k < 8191, Tbl.find s.bufs (8192 * r + k) = none)
    (owner : Nat) : ∃ slot b, slot < 8191 ∧ Tbl.find s.bufs (8192 * r + slot) = none ∧ s.gransFree r b (ceilDiv n 1024) = true ∧
      s.allocBuf r n owner = (slot, { s with
        freeCtr := s.freeCtr + 2,
        bufs := Tbl.set s.bufs (8192 * r + slot) { base := b, grans := ceilDiv n 1024, bytes := n, owner := owner } }) := by
  simp only [allocable, Bool.and_eq_true, Bool.not_eq_true', List.isEmpty_eq_false_iff] at h
  obtain ⟨k, hk, hfree⟩ := hk
  have hslots : (List.range 8191).filter (fun k => (Tbl.find s.bufs (8192 * r + k)).isNone) ≠ [] :=
    List.ne_nil_of_mem (List.mem_filter.2 ⟨List.mem_range.2 hk, by rw [hfree]; rfl⟩)
  have hb := List.mem_filter.1 (getD_mod_mem h.2 (Config.free s.freeCtr) 0)
  have hslot := List.mem_filter.1 (getD_mod_mem hslots (Config.free (s.freeCtr + 1)) 0)
  exact ⟨_, _, List.mem_range.1 hslot.1, by simpa using hslot.2, hb.2, rfl⟩

/-- A HALLOC that is met: the buffer, its handles, and the climb READY past the instruction (R51, R82). -/
theorem meetAlloc_spec {n hd : Nat} (ha : (s.climb cid).await = .alloc n hd) {bg : Bool} (h : s.allocable (cid / 1024) n bg = true)
    (hk : ∃ k < 8191, Tbl.find s.bufs (8192 * (cid / 1024) + k) = none) {t : State} (ht : t = s.meetAlloc cid) :
    ∃ slot b, slot < 8191 ∧ Tbl.find s.bufs (8192 * (cid / 1024) + slot) = none ∧ s.gransFree (cid / 1024) b (ceilDiv n 1024) = true ∧
      t = { s with climbs := t.climbs, freeCtr := s.freeCtr + 2, stamp := s.stamp + 1,
                   bufs := Tbl.set s.bufs (8192 * (cid / 1024) + slot) { base := b, grans := ceilDiv n 1024, bytes := n, owner := cid } } ∧
      t.climb cid = { s.climb cid with
        state := .ready, await := .none, pc := (s.climb cid).pc + 4, since := s.time, stamp := s.stamp,
        h := (s.climb cid).h.take hd ++ (List.range (ceilDiv n 0x100000)).map (fun i =>
            mkH slot (Tbl.getD s.gens (8192 * (cid / 1024) + slot) 0) (i * 0x100000) (min 0x100000 (n - i * 0x100000)))
          ++ (s.climb cid).h.drop (hd + ceilDiv n 0x100000) } ∧
      (∀ k, k ≠ cid → t.climb k = s.climb k) := by
  obtain ⟨slot, b, hslot, hfree, hgran, halloc⟩ := allocBuf_takes h hk cid
  have hmeet : s.meetAlloc cid = (((s.allocBuf (cid / 1024) n cid).2.giveHandles cid (s.allocBuf (cid / 1024) n cid).1 n hd).updClimb cid
      (fun c => { c with pc := c.pc + 4 })).wakeUp cid := by
    unfold meetAlloc
    rw [ha]
  rw [hmeet, halloc, updClimb, wakeUp_setClimb] at ht
  refine ⟨slot, b, hslot, hfree, hgran, by rw [ht]; rfl, ?_, fun k hk => ?_⟩
  · rw [ht]
    refine (climb_setClimb _ cid cid _).trans ((if_pos rfl).trans ?_)
    rw [giveHandles, climb_updClimb, if_pos rfl]
    rfl
  · rw [ht]
    refine (climb_setClimb _ cid k _).trans ((if_neg hk).trans ?_)
    exact (climb_updClimb _ cid k _).trans (if_neg hk)

/-- The oldest allocation of a class that can be met is met: before the other class's if that is younger or cannot be met (R51). -/
theorem exec_hallocMet {bg : Bool} (h : s.oldestAlloc r bg = some (cid, c)) (hm : s.canMeet (cid, c) = true)
    (ho : ∀ p, s.oldestAlloc r (!bg) = some p → c.stamp < p.2.stamp ∨ (p.2.stamp < c.stamp ∧ s.canMeet p = false)) :
    exec (.hallocMet r) s = .next (s.meetAlloc cid) := by
  show execHallocMet r s = _
  unfold execHallocMet
  cases bg with
  | false =>
    cases hp : s.oldestAlloc r true with
    | none => rw [h]; dsimp only; rw [hm, if_pos rfl]
    | some p =>
      rw [h]
      dsimp only
      rcases ho p hp with hlt | ⟨hlt, hno⟩
      · rw [if_pos hlt]
        dsimp only
        rw [hm, if_pos rfl]
      · rw [if_neg (Nat.lt_asymm hlt)]
        dsimp only
        rw [hno, hm]
        rfl
  | true =>
    cases hp : s.oldestAlloc r false with
    | none => rw [h]; dsimp only; rw [hm, if_pos rfl]
    | some p =>
      rw [h]
      dsimp only
      rcases ho p hp with hlt | ⟨hlt, hno⟩
      · rw [if_neg (Nat.lt_asymm hlt)]
        dsimp only
        rw [hm, if_pos rfl]
      · rw [if_pos hlt]
        dsimp only
        rw [hno, hm]
        rfl

theorem oldestAlloc_bg {bg : Bool} {p : Nat × Climb} (h : s.oldestAlloc r bg = some p) : p.2.bg = bg := by
  have hmem := minBy_mem h
  simp only [List.mem_filter, Bool.and_eq_true, decide_eq_true_eq] at hmem
  obtain ⟨-, ⟨-, hbg⟩, -⟩ := hmem
  exact hbg

/-! ### Wipes (R51) -/

theorem granuleWipeDone_spec {g n : Nat} (hw : Tbl.sorted s.wipes = true) (hn : Tbl.find s.wipes (24576 * r + g) = some n) :
    ∃ t, gives (.granuleWipeDone r g) s t ∧ t = { s with mem := t.mem, wipes := t.wipes } ∧
      (∀ x, Mem.read t.mem x = if bufBase r + g * 1024 ≤ x ∧ x < bufBase r + g * 1024 + 1024 then 0 else Mem.read s.mem x) ∧
      (∀ k, Tbl.find t.wipes k = if k = 24576 * r + g then none else if k = 24576 * r + g + 1 ∧ 1 < n then some (n - 1) else Tbl.find s.wipes k) := by
  refine ⟨{ s with
    wipes := if n ≤ 1 then Tbl.del s.wipes (24576 * r + g) else Tbl.set (Tbl.del s.wipes (24576 * r + g)) (24576 * r + g + 1) (n - 1),
    mem := Mem.wipe s.mem (bufBase r + g * 1024) 1024 }, ?_, rfl, fun x => Mem.read_wipe s.mem _ _ x, fun k => ?_⟩
  · show execGranuleWipeDone r g s = _
    unfold execGranuleWipeDone
    rw [hn]
  · have hdel : Tbl.find (Tbl.del s.wipes (24576 * r + g)) k = if k = 24576 * r + g then none else Tbl.find s.wipes k := by
      split
      · next e => rw [e, Tbl.find_del_same hw]
      · next e => exact Tbl.find_del_other _ e
    by_cases h1 : n ≤ 1
    · simp only [if_pos h1, hdel, show ¬ 1 < n by omega, and_false, if_false]
    · simp only [if_neg h1, Tbl.find_set, hdel, show 1 < n by omega, and_true]
      by_cases hk : k = 24576 * r + g
      · rw [if_neg (by omega), if_pos hk, if_pos hk]
      · simp only [if_neg hk]

/-! ### PARK ends, wakes (R39, R98) -/

/-- A PARK that ends: its result, and the climb READY past the instruction (R98). -/
theorem endPark_spec (s : State) (cid : Nat) (v : W64) {t : State} (ht : t = s.endPark cid v) :
    t = { s with climbs := t.climbs, stamp := s.stamp + 1 } ∧
    (∀ n, t.climb n = if n = cid then { s.climb cid with
      state := .ready, await := .none, deadline := none, pc := (s.climb cid).pc + 4, since := s.time, stamp := s.stamp,
      g := if (s.climb cid).parkRd = 0 then (s.climb cid).g else (s.climb cid).g.set (s.climb cid).parkRd v } else s.climb n) := by
  rw [endPark, updClimb, wakeUp_setClimb] at ht
  subst ht
  exact ⟨rfl, fun n => climb_setClimb s cid n _⟩

theorem exec_parkDeadline {d : W64} (hp : (s.climb cid).state = .parked) (hd : (s.climb cid).deadline = some d) :
    exec (.parkDeadline cid) s = .next (if d.toNat ≤ s.time.toNat then s.endPark cid 1 else s) := by
  show execParkDeadline cid s = _
  unfold execParkDeadline
  dsimp only
  rw [hp, hd]
  dsimp only
  split <;> rfl

/-- Every master may write the registers of a CLIMB block. -/
theorem mayWrite_climb {off : Nat} (m : Nat) (h : 0x1000000 ≤ off) (h8 : off % 8 = 0) (hb : off / 0x10000 % 16 = 4) : mayWrite m off = true := by
  have hslot : off / 8 * 8 = off := by omega
  have hctl : ctlBlock off = if off < ctlSize then some (.climb (off / 0x100000 - 0x10), off % 0x10000) else none := by
    have h1 : ¬ off < 0x100000 := by omega
    have h2 : ¬ off < 0x180000 := by omega
    have h3 : ¬ off < 0x200000 := by omega
    have h4 : ¬ off < 0x280000 := by omega
    have h5 : ¬ off < 0x400000 := by omega
    have h6 : ¬ off < 0x800000 := by omega
    have h7 : ¬ off < 0x1000000 := by omega
    have hsub : ¬ 4 < 4 := by omega
    simp only [ctlBlock, h1, h2, h3, h4, h5, h6, h7, hb, hsub, if_false]
  rw [mayWrite, hslot, hctl]
  by_cases hs : off < ctlSize
  · rw [if_pos hs]
    rfl
  · rw [if_neg hs]

theorem wake_writable (m r : Nat) : mayWrite m (climbBlk r + 0x18) = true := by
  have hblk : climbBlk r = 0x1040000 + r * 0x100000 := rfl
  exact mayWrite_climb m (by omega) (by omega) (by omega)

theorem exec_climbWake {v : W64} (hg : s.gate m (climbBlk r + 0x18) 8 true = .open) :
    exec (.climbWake m r v) s = .next (s.wake (1024 * r + bits v.toNat 0 10)) := by
  refine congrArg _ ((gated_open hg v _).trans ?_)
  rw [wake_writable, if_pos rfl]
  rfl

end

end State

/-- Settles O21: dispatch by `dispatchPick_eq`, residency by `longest_eq`, a freed climb by `freeClimb_spec`, allocations by `exec_hallocMet`
and `meetAlloc_spec`, wakes by `endPark_spec`. -/
theorem climbEventsFollowTheRules : Obligations.ClimbEventsFollowTheRules := by
  unfold Obligations.ClimbEventsFollowTheRules
  refine ⟨?_, ?_, ?_, ?_, ?_, ?_, fun s r g n hw _ hn => granuleWipeDone_spec hw hn, ?_, ?_⟩
  · rintro s r m k cid c hosts bgs rfl hidle rfl hmem hready rfl rfl hold hbg hhost
    have hbgs : (s.residents (4 * r + m)).filter (fun p => decide (p.2.state = .ready) && p.2.bg) = s.readyOf (4 * r + m) true := by
      simp [readyOf]
    have hhosts : (s.residents (4 * r + m)).filter (fun p => decide (p.2.state = .ready) && !p.2.bg) = s.readyOf (4 * r + m) false := by
      simp [readyOf]
    rw [hhosts] at hbg
    rw [hbgs] at hhost ⊢
    have hpick := dispatchPick_eq (cid := cid) (List.mem_filter.2 ⟨hmem, by simp [hready]⟩) (fun p hp hne => by
      obtain ⟨hres, hp⟩ := List.mem_filter.1 hp
      simp only [Bool.and_eq_true, decide_eq_true_eq, beq_iff_eq] at hp
      exact hold p hres hp.1 hp.2 hne) hbg hhost
    obtain ⟨t, hgives, hframe, hclimb, hcore⟩ := exec_climbDispatch hidle hpick
    refine ⟨t, hgives, hframe, hclimb, fun n => ?_⟩
    rw [hcore]
    split <;> rfl
  · intro s r m cid hr hcore
    refine ⟨fun hq hl ho => ?_, fun h => ?_⟩
    · obtain ⟨hframe, hclimb, hcores⟩ := leave_spec s cid .ready
      refine ⟨s.leave cid .ready, (exec_quantumExpiry hr).trans (by rw [if_pos ⟨hq, hl, ho⟩]), hframe, hclimb, fun n => ?_⟩
      have hrun : (s.core (4 * r + m)).running = some cid := hr
      rw [hcores, hcore]
      by_cases hn : n = 4 * r + m
      · subst hn
        rw [if_pos ⟨rfl, hrun⟩, if_pos rfl]
      · rw [if_neg fun h => hn (Option.some.inj h.1).symm, if_neg hn]
    · rw [gives, exec_quantumExpiry hr, if_neg]
      rintro ⟨hq, hl, ho⟩
      rcases h with h | h | h
      · exact hq h
      · omega
      · rw [h] at ho
        cases ho
  · rintro s r m k cid c rfl hm hf rfl hmem hold
    have hlong := longest_eq hmem fun p hp hne => hold p hp hne
    refine ⟨fun hn => exec_climbFill hf hn hm hlong, fun w d hn hr hd hw hwait hwold => ⟨exec_climbFill_full (by omega), ?_⟩⟩
    subst hd
    refine exec_climbSpill hn hr (List.ne_nil_of_mem hmem) (longest_eq (List.mem_filter.2 ⟨hw, by simp [hwait]⟩) fun p hp hne => ?_)
    obtain ⟨hres, hp⟩ := List.mem_filter.1 hp
    exact hwold p hres (by simpa using hp) hne
  · intro s r m cid hr hw
    refine ⟨fun hl ht hc => watchdog_taken hr hw hl ht hc, fun hl => ?_⟩
    rw [gives, exec_watchdog hr, if_neg (by omega)]
  · rintro s cid c rfl hf he hd hb
    obtain ⟨hstate, hcore, hdigs, hnone, hsome⟩ := freeClimb_spec rfl he hb rfl
    exact ⟨_, if_pos ⟨hf, he, hd⟩, hstate, hcore, hdigs, hnone, hsome⟩
  · rintro s r cid n hd c bg rfl rfl h ha hal ho hk
    have hbg : (s.climb cid).bg = bg := oldestAlloc_bg h
    have hmeet : s.canMeet (cid, s.climb cid) = true := by
      unfold canMeet
      rw [ha]
      exact hal
    obtain ⟨slot, b, hspec⟩ := meetAlloc_spec ha hal hk rfl
    exact ⟨_, slot, b, exec_hallocMet h hmeet ho, hspec⟩
  · rintro s cid c d rfl hp hdl
    have hexec := exec_parkDeadline hp hdl
    refine ⟨fun hd => ⟨_, hexec.trans (by rw [if_pos hd]), endPark_spec s cid 1 rfl⟩, fun hd => ?_⟩
    rw [gives, hexec, if_neg (by omega)]
  · rintro s m r cid v c hg rfl rfl
    have hexec := exec_climbWake (r := r) (v := v) hg
    refine ⟨fun hf => ?_, fun hf hp => ?_, fun hp => ?_⟩
    · rw [gives, hexec, wake, hf]
    · rw [gives, hexec]
      refine congrArg _ ?_
      unfold wake
      split
      · next h => exact absurd h hf
      · next h => exact absurd h hp
      · rfl
    · refine ⟨_, hexec, endPark_spec s _ 0 ?_⟩
      rw [wake, hp]

end Sys2Proof.Machine
end

section
/-! How capsules arrive and are taken, range locks are granted, host data is received and HIF jobs end (O48). -/

open Sys2Proof Sys2Proof.Machine Sys2Proof.Machine.State

namespace Sys2Proof.Machine

namespace State

/-! ### Arrival of a capsule (R378, R384, R393) -/

section
variable {s : State} {n : Nat} {cap : Capsule} {q : HQueue}

theorem arrival_noQueue (h : s.hqueue n = none) : exec (.capsuleArrival n cap) s = .next s := by
  show execCapsuleArrival n cap s = _
  unfold execCapsuleArrival
  rw [h]

variable (hq : s.hqueue n = some q)
include hq

theorem arrival_lost (h : q.lostAt.isSome = true ∨ s.carries q.port q.sub = false) : exec (.capsuleArrival n cap) s = .next s := by
  have hlost : (q.lostAt.isSome || !s.carries q.port q.sub) = true := by
    rcases h with h | h <;> simp [h]
  show execCapsuleArrival n cap s = _
  unfold execCapsuleArrival
  rw [hq]
  exact if_pos hlost

variable (hl : q.lostAt = none) (hc : s.carries q.port q.sub = true)
include hl hc

theorem arrival_bad {f : Nat} (hf : cap.badAt = some f) : exec (.capsuleArrival n cap) s = .next (s.fatal n q.port 0x01 f) := by
  show execCapsuleArrival n cap s = _
  simp [execCapsuleArrival, hq, hl, hc, hf]

variable (hb : cap.badAt = none)
include hb

theorem arrival_badDigest (h : q.hdgst = true) (hd : cap.hdgstOk = false) :
    exec (.capsuleArrival n cap) s = .next ((s.bump (hifBlk q.port + 0x68) 0 32 1).fatal n q.port 0x03 0) := by
  show execCapsuleArrival n cap s = _
  simp [execCapsuleArrival, hq, hl, hc, hb, h, hd]

variable (hd : q.hdgst = false ∨ cap.hdgstOk = true)
include hd

theorem arrival_oversize (h : 8192 < (cap.inline.getD []).length ∨ 8256 < cap.bytes) :
    exec (.capsuleArrival n cap) s = .next (s.fatal n q.port 0x05 0) := by
  have hdg : (q.hdgst && !cap.hdgstOk) = false := by rcases hd with h | h <;> simp [h]
  show execCapsuleArrival n cap s = _
  unfold execCapsuleArrival
  simp only [hq, hl, hc, hb, hdg, h, Option.isSome_none, Bool.not_true, Bool.or_false, Bool.false_eq_true, if_false, if_true, gt_iff_lt]

variable (h1 : (cap.inline.getD []).length ≤ 8192) (h2 : cap.bytes ≤ 8256)
include h1 h2

/-- What a sound capsule of a fitting size does: its stream stops, or it enters the intake (R384). -/
theorem arrival_fits : exec (.capsuleArrival n cap) s = .next (if s.intakeFree q.port < 8256 then
      if s.host.queues.any (fun x => decide (x.2.port = q.port) && x.2.stopped) then s.setQueue n { q with stopped := true }
      else (s.setQueue n { q with stopped := true }).hifEvent q.port 3
    else ((s.setQueue n { q with heardAt := s.time }).setCmd (Tbl.next s.host.cmds)
      (HCmd.mk0 n cap (match Tbl.find s.allNs cap.nsid with | some (_, ns) => ns.snap | none => none))).rxBytes
        q.port q.sub (cap.inline.getD []).length) := by
  have hdg : (q.hdgst && !cap.hdgstOk) = false := by rcases hd with h | h <;> simp [h]
  have hsize : ¬ (8192 < (cap.inline.getD []).length ∨ 8256 < cap.bytes) := by omega
  show execCapsuleArrival n cap s = _
  unfold execCapsuleArrival
  simp only [hq, hl, hc, hb, hdg, hsize, Option.isSome_none, Bool.not_true, Bool.or_false, Bool.false_eq_true, if_false, gt_iff_lt]
  split
  · rfl
  · rfl

theorem arrival_stops (h : s.intakeFree q.port < 8256) (ho : ∀ x ∈ s.host.queues, x.2.port = q.port → x.2.stopped = false) :
    exec (.capsuleArrival n cap) s = .next ((s.setQueue n { q with stopped := true }).raise (hifBlk q.port + 0x10) (2 ^ 3)) := by
  have hany : s.host.queues.any (fun x => decide (x.2.port = q.port) && x.2.stopped) = false :=
    List.any_eq_false.2 fun x hx => by simpa using ho x hx
  rw [arrival_fits hq hl hc hb hd h1 h2, if_pos h, hany]
  rfl

theorem arrival_stopsMore (h : s.intakeFree q.port < 8256) (ho : ∃ x ∈ s.host.queues, x.2.port = q.port ∧ x.2.stopped = true) :
    exec (.capsuleArrival n cap) s = .next (s.setQueue n { q with stopped := true }) := by
  have hany : s.host.queues.any (fun x => decide (x.2.port = q.port) && x.2.stopped) = true := by
    obtain ⟨x, hx, hp, hs⟩ := ho
    exact List.any_eq_true.2 ⟨x, hx, by simp [hp, hs]⟩
  rw [arrival_fits hq hl hc hb hd h1 h2, if_pos h, hany]
  rfl

theorem arrival_enters (h : 8256 ≤ s.intakeFree q.port) : ∃ t c, gives (.capsuleArrival n cap) s t ∧
    t.hcmd (Tbl.next s.host.cmds) = some c ∧ c.queue = n ∧ c.cap = cap ∧ c.phase = .intake ∧ c.data = [] ∧
    c.snap = (match Tbl.find s.allNs cap.nsid with | some (_, ns) => ns.snap | none => none) ∧
    (∀ k, k ≠ Tbl.next s.host.cmds → Tbl.sorted s.host.cmds = true → t.hcmd k = s.hcmd k) ∧ t.host.locks = s.host.locks ∧ t.mem = s.mem := by
  have hrun : gives (.capsuleArrival n cap) s _ := arrival_fits hq hl hc hb hd h1 h2
  rw [if_neg (by omega)] at hrun
  exact ⟨_, _, hrun, Tbl.find_set_same _ _ _, rfl, rfl, rfl, rfl, rfl, fun _ hk _ => Tbl.find_set_other _ _ hk, rfl, rfl⟩

end

/-! ### A capsule whose turn it is (R43, R376, R383, R388) -/

section
variable {s : State} {n m : Nat} {q : HQueue} {c : HCmd}

theorem exec_capsuleTaken (hq : s.hqueue n = some q) (hf : (s.cmdsOf n).find? (fun c => decide (c.2.phase = .intake)) = some (m, c)) :
    exec (.capsuleTaken n) s = .next (if q.lostAt.isSome then s else if !q.authed then s.refuseCap m n q c (ofNvme 1 0x91 true)
      else if q.qid = 0 then s.takeAdmin m n q c else s.takeIo m n q c) := by
  show execCapsuleTaken n s = _
  unfold execCapsuleTaken
  rw [hq, hf]
  dsimp only
  split
  · rfl
  · split
    · rfl
    · split <;> rfl

theorem capsuleTaken_admin (hq : s.hqueue n = some q) (hf : (s.cmdsOf n).find? (fun c => decide (c.2.phase = .intake)) = some (m, c))
    (hl : q.lostAt = none) (ha : q.authed = true) (hi : q.qid = 0) {t : State} (ht : s.takeAdmin m n q c = t) :
    gives (.capsuleTaken n) s t := by
  rw [gives, exec_capsuleTaken hq hf, hl, ha, if_pos hi, ht]
  rfl

theorem capsuleTaken_io (hq : s.hqueue n = some q) (hf : (s.cmdsOf n).find? (fun c => decide (c.2.phase = .intake)) = some (m, c))
    (hl : q.lostAt = none) (ha : q.authed = true) (hi : q.qid ≠ 0) {t : State} (ht : s.takeIo m n q c = t) :
    gives (.capsuleTaken n) s t := by
  rw [gives, exec_capsuleTaken hq hf, hl, ha, if_neg hi, ht]
  rfl

theorem exec_capsuleTaken_none (h : s.hqueue n = none ∨ ∀ c ∈ s.cmdsOf n, c.2.phase ≠ .intake) : exec (.capsuleTaken n) s = .next s := by
  show execCapsuleTaken n s = _
  unfold execCapsuleTaken
  rcases h with h | h
  · rw [h]
  · have hf : (s.cmdsOf n).find? (fun c => decide (c.2.phase = .intake)) = none := List.find?_eq_none.2 fun c hc => by simpa using h c hc
    rw [hf]
    cases s.hqueue n <;> rfl

/-- The state once a capsule has left the intake with its climb and its entries; a served write joins the shadow of its pool (R324). -/
def withEntries (u : State) (n : Nat) (q : HQueue) (c : HCmd) (ls : List Lock) : Option Nat → State
  | some p => ((u.takenOff n q).enterLocks ls).shadowAdd p q c.cap
  | none => (u.takenOff n q).enterLocks ls

/-- A capsule that may run: the table has room for its entries or not, a climb is free or not (R43, R388). -/
def startCapsule (s : State) (m n : Nat) (q : HQueue) (c : HCmd) (ls : List Lock) (sh : Option Nat) : State :=
  if !s.lockRoom ls.length then
    if c.stalled then s.hifEvent q.port 4 else ((s.hifEvent q.port 4).bump (hifBlk 0 + 0x1008) 0 64 1).setCmd m { c with stalled := true }
  else match s.hostClimb q.ridge m with
    | none => s.raise (climbBlk q.ridge + 0x10) 2
    | some (k, u) => (u.withEntries n q c ls sh).setCmd m
      { c with climb := some k, phase := if (u.withEntries n q c ls sh).allGranted m then .running else .taken, since := s.time }

section
variable (ho : c.cap.op ≠ .flush)
include ho

theorem takeIo_noNs (h : Tbl.find s.allNs c.cap.nsid = none) : s.takeIo m n q c = s.refuseCap m n q c (ofNvme 0 0x0B true) := by
  unfold takeIo
  dsimp only
  rw [if_neg ho, h]

variable {p : Nat} {ns : Ns} (h : Tbl.find s.allNs c.cap.nsid = some (p, ns))
include h

theorem takeIo_deleting (hd : ns.deleting = true) : s.takeIo m n q c = s.refuseCap m n q c (ofNvme 0 0x0B true) := by
  unfold takeIo
  dsimp only
  rw [if_neg ho, h]
  exact if_pos hd

variable (hd : ns.deleting = false)
include hd

theorem takeIo_held (hw : s.wayOf p = .held) : s.takeIo m n q c = s := by
  unfold takeIo
  dsimp only
  rw [if_neg ho, h]
  dsimp only
  rw [if_neg (by simp [hd]), hw]

theorem takeIo_refuse {st : NvmeStatus} (hw : s.wayOf p = .refuse st) : s.takeIo m n q c = s.refuseCap m n q c st := by
  unfold takeIo
  dsimp only
  rw [if_neg ho, h]
  dsimp only
  rw [if_neg (by simp [hd]), hw]

theorem takeIo_status {st : NvmeStatus} (hw : s.wayOf p = .serve p) (hs : capStatus c.cap ns (s.pool p).fill = some st) (ht : st ≠ stTransient) :
    s.takeIo m n q c = s.refuseCap m n q c st := by
  unfold takeIo
  dsimp only
  rw [if_neg ho, h]
  dsimp only
  rw [if_neg (by simp [hd]), hw]
  dsimp only
  rw [hs]
  dsimp only
  rw [if_neg ht]

theorem takeIo_serve (hw : s.wayOf p = .serve p) (hs : capStatus c.cap ns (s.pool p).fill = none) :
    s.takeIo m n q c = s.startCapsule m n q c (locksOf m c.cap false) (some p) := by
  unfold takeIo
  dsimp only
  rw [if_neg ho, h]
  dsimp only
  rw [if_neg (by simp [hd]), hw]
  dsimp only
  rw [hs]
  rfl

theorem takeIo_forward (hw : s.wayOf p = .forward) (hs : capStatus c.cap ns (s.pool p).fill = none) :
    s.takeIo m n q c = s.startCapsule m n q c [] none := by
  unfold takeIo
  dsimp only
  rw [if_neg ho, h]
  dsimp only
  rw [if_neg (by simp [hd]), hw]
  dsimp only
  rw [hs]
  rfl

end

/-! ### Entries and climbs of an admitted capsule (R384, R388, R389) -/

theorem hostClimb_host {r k : Nat} {u : State} (h : s.hostClimb r m = some (k, u)) : u.host = s.host := by
  unfold hostClimb at h
  split at h
  · cases h
  · dsimp only at h
    unfold allocClimb at h
    split at h
    · cases h
    · cases h
      rfl

theorem shadowAdd_host (s : State) (p : Nat) (q : HQueue) (c : Capsule) : (s.shadowAdd p q c).host = s.host := by
  have hsend : ∀ (u : State) (d : Bytes), u.host = s.host → (u.sendRope 0x06 false d).host = s.host := fun u d hu => by
    rw [sendRope_frame]
    exact hu
  unfold shadowAdd
  dsimp only
  split
  · rfl
  · refine List.foldlRecOn (motive := fun u : State => u.host = s.host) _ _ rfl fun u hu l _ => ?_
    split <;> exact hsend u _ hu

theorem unstop_locks (s : State) (p : Nat) : (s.unstop p).host.locks = s.host.locks := by
  unfold unstop
  split <;> rfl

/-- Making room in a port's intake moves no queue's SQHD. -/
theorem unstop_sqhd {x : HQueue} (h : s.hqueue n = some x) (p : Nat) : ∃ y, (s.unstop p).hqueue n = some y ∧ y.sqhd = x.sqhd := by
  unfold unstop
  split
  · exact ⟨x, h, rfl⟩
  · refine ⟨if x.port = p then { x with stopped := false } else x, ?_, by split <;> rfl⟩
    show Tbl.find (s.host.queues.map fun (v : Nat × HQueue) => (v.1, if v.2.port = p then { v.2 with stopped := false } else v.2)) n = _
    rw [Tbl.find_map_keys (f := fun (v : Nat × HQueue) => (v.1, if v.2.port = p then { v.2 with stopped := false } else v.2)) (fun _ => rfl) s.host.queues n,
      show Tbl.find s.host.queues n = some x from h]
    rfl

theorem withEntries_host (u : State) (n : Nat) (q : HQueue) (c : HCmd) (ls : List Lock) (sh : Option Nat) :
    (u.withEntries n q c ls sh).host = ((u.takenOff n q).enterLocks ls).host := by
  cases sh with
  | none => rfl
  | some p => exact shadowAdd_host _ p q c.cap

/-- The entries of a command as they enter: each granted when nothing that entered before it conflicts (R389). -/
theorem withEntries_locks {u : State} (hu : u.host = s.host) (n : Nat) (q : HQueue) (c : HCmd) (ls : List Lock) (sh : Option Nat) :
    (u.withEntries n q c ls sh).host.locks = s.host.locks ++ ls.map (fun l => { l with granted := !s.host.locks.any (fun o => lockConflict o l) }) := by
  have hold : (u.takenOff n q).host.locks = s.host.locks := by
    rw [takenOff, unstop_locks]
    show u.host.locks = _
    rw [hu]
  rw [withEntries_host, enterLocks, hold]

theorem withEntries_sqhd (u : State) (n : Nat) (q : HQueue) (c : HCmd) (ls : List Lock) (sh : Option Nat) :
    ∃ x, (u.withEntries n q c ls sh).hqueue n = some x ∧ x.sqhd = (q.sqhd + 1) % max 1 q.depth := by
  obtain ⟨y, hy, hs⟩ := unstop_sqhd (s := u.setQueue n { q with sqhd := (q.sqhd + 1) % max 1 q.depth }) (Tbl.find_set_same _ n _) q.port
  refine ⟨y, ?_, hs⟩
  unfold hqueue at hy ⊢
  rw [withEntries_host]
  exact hy

theorem startCapsule_noClimb {ls : List Lock} (hr : s.lockRoom ls.length = true) (h : s.hostClimb q.ridge m = none) (sh : Option Nat) :
    s.startCapsule m n q c ls sh = s.raise (climbBlk q.ridge + 0x10) 2 := by
  rw [startCapsule, hr, h]
  rfl

theorem startCapsule_stalled {ls : List Lock} (hr : s.lockRoom ls.length = false) (h : c.stalled = true) (sh : Option Nat) :
    s.startCapsule m n q c ls sh = s.raise (hifBlk q.port + 0x10) (2 ^ 4) := by
  rw [startCapsule, hr, h]
  rfl

/-- An admitted capsule has its entries in the table, a climb, and its queue's SQHD moved on (R384, R388, R389). -/
theorem startCapsule_spec {ls : List Lock} (hr : s.lockRoom ls.length = true) {k : Nat} {u : State} (h : s.hostClimb q.ridge m = some (k, u))
    (sh : Option Nat) {t : State} (ht : t = s.startCapsule m n q c ls sh) :
    t.host.locks = s.host.locks ++ ls.map (fun l => { l with granted := !s.host.locks.any (fun o => lockConflict o l) }) ∧
    t.hcmd m = some { c with climb := some k, phase := if t.allGranted m then .running else .taken, since := s.time } ∧
    (∃ x, t.hqueue n = some x ∧ x.sqhd = (q.sqhd + 1) % max 1 q.depth) := by
  rw [startCapsule, hr, h] at ht
  subst ht
  exact ⟨withEntries_locks (hostClimb_host h) n q c ls sh, Tbl.find_set_same _ m _, withEntries_sqhd u n q c ls sh⟩

/-! ### Admin capsules (R375, R376, R383, R399) -/

theorem takeAdmin_abort (ho : c.cap.op = .abort)
    (hn : (s.host.cmds.filter (fun d => decide (d.2.cap.op = .abort ∧ d.2.phase ≠ .intake))).length < 4) :
    s.takeAdmin m n q c = (s.takenOff n q).setCmd m { c with phase := .running } := by
  unfold takeAdmin
  dsimp only
  rw [ho]
  dsimp only
  refine if_neg (not_le.2 (lt_of_le_of_lt (List.Sublist.length_le ?_) hn))
  exact List.monotone_filter_right _ fun d hd => (Bool.and_eq_true_iff.1 hd).1

theorem takeAdmin_logPage (ho : c.cap.op = .other 2) {d : Bytes} (hd : s.logPage q.cntlid c.cap.lid = some d) :
    s.takeAdmin m n q c =
      s.refuseCap m n q { c with rdata := sliceAt (padTo (c.cap.start + c.cap.len) d) c.cap.start c.cap.len } stOk := by
  unfold takeAdmin
  dsimp only
  rw [ho]
  dsimp only
  rw [hd]
  rfl

/-- Another admin command answers with a free status (log entry 40). -/
theorem takeAdmin_other (ho : c.cap.op ≠ .abort) (hl : c.cap.op ≠ .other 2 ∨ s.logPage q.cntlid c.cap.lid = none) :
    s.takeAdmin m n q c = s.used.refuseCap m n q c (ofNvme (s.pick (2 ^ 3)) (s.pick (2 ^ 11) % 256) false) := by
  unfold takeAdmin
  dsimp only
  split
  · next h => exact absurd h ho
  · next o h =>
    split
    · next d hd =>
      refine if_neg fun h2 => ?_
      rcases hl with hl | hl
      · exact hl (h2 ▸ h)
      · rw [hl] at hd
        cases hd
    · rfl
  · rfl

/-! ### Which head serves a pool (R308, R309, R336, R383) -/

theorem wayOf_spec (s : State) (p : Nat) : (bit s.pair.holdPools p = true → s.wayOf p = .held) ∧ (bit s.pair.holdPools p = false →
    ((Tbl.find s.pair.moves p).isSome = true → s.wayOf p = .refuse stTransition) ∧
    (Tbl.find s.pair.moves p = none → (s.owns p = true → s.wayOf p = .serve p) ∧
      (s.owns p = false → bit s.shadowMask p = true → s.rope.degraded = false → s.rope.linkUp = true → s.wayOf p = .forward) ∧
      (s.owns p = false → bit s.shadowMask p = false ∨ s.rope.degraded = true ∨ s.rope.linkUp = false → s.wayOf p = .refuse stInaccessible))) := by
  unfold wayOf
  refine ⟨fun h => if_pos h, fun h => ⟨fun hm => ?_, fun hm => ⟨fun ho => ?_, fun ho h1 h2 h3 => ?_, fun ho h1 => ?_⟩⟩⟩
  · simp [h, hm]
  · simp [h, hm, ho]
  · simp [h, hm, ho, h1, h2, h3]
  · have hno : (bit s.shadowMask p && !s.rope.degraded && s.rope.linkUp) = false := by
      rcases h1 with h1 | h1 | h1 <;> simp [h1]
    simp [h, hm, ho, hno]

end

/-! ### Range locks are granted (R389) -/

section
variable {s : State} {n : Nat} {c : HCmd}

/-- A table whose entries of the command are all granted lets a command that has been taken run (R389). -/
theorem exec_rangeLockGrant {ls : List Lock} (hg : grantLocks n [] s.host.locks = ls) (ha : ls.all (fun l => decide (l.cmd ≠ some n) || l.granted) = true)
    (hc : s.hcmd n = some c) (hp : c.phase = .taken) : exec (.rangeLockGrant n) s =
      .next ({ s with host := { s.host with locks := ls } }.setCmd n { c with phase := .running, since := s.time }) := by
  subst hg
  have hcmd : ({ s with host := { s.host with locks := grantLocks n [] s.host.locks } } : State).hcmd n = some c := hc
  show execRangeLockGrant n s = _
  unfold execRangeLockGrant
  dsimp only
  rw [hcmd]
  exact if_pos ⟨hp, ha⟩

/-- Where no entry of a command can be granted, the command goes on waiting (R389). -/
theorem exec_rangeLockGrant_waits (hg : grantLocks n [] s.host.locks = s.host.locks) (ha : s.allGranted n = false) :
    exec (.rangeLockGrant n) s = .next s := by
  have hs : ({ s with host := { s.host with locks := grantLocks n [] s.host.locks } } : State) = s := by rw [hg]
  show execRangeLockGrant n s = _
  unfold execRangeLockGrant
  rw [hs]
  dsimp only
  split
  · rw [if_neg fun h => by rw [ha] at h; exact Bool.false_ne_true h.2]
  · rfl

theorem grantLocks_one {l : Lock} (hl : l.cmd = some n) (hg : l.granted = false) : grantLocks n [] [l] = [{ l with granted := true }] := by
  simp [grantLocks, hl, hg]

theorem grantLocks_two {a b : Lock} (ha : a.cmd ≠ some n) (hb : b.cmd = some n) (hg : b.granted = false) :
    grantLocks n [] [a, b] = [a, if lockConflict a b then b else { b with granted := true }] := by
  cases hc : lockConflict a b <;> simp [grantLocks, ha, hb, hg, hc]

end

/-! ### Data from the host (R385, R393, R394) -/

theorem fatal_eq {s : State} {n : Nat} {q : HQueue} (hq : s.hqueue n = some q) (p a b : Nat) : s.fatal n p a b = if q.rdma then s.loseQueue n
    else (((s.emit (.termReq n a b)).bump (hifBlk p + 0x60) 0 32 1).raise (hifBlk p + 0x10) (2 ^ 5)).loseQueue n := by
  rw [fatal, show Tbl.find s.host.queues n = some q from hq]
  rfl

section
variable {s : State} {n : Nat} {d : Pdu} {q : HQueue}

/-- What good or bad bytes of a sound PDU do to the XRDY that they answer: discarded, failed by their digest, or placed (R385, R394). -/
def takeBytes (v : State) (q : HQueue) (d : Pdu) (m : Nat) (y : Xrdy) : State :=
  if y.drop then v.dropData m y d.data.length
  else if q.ddgst && !d.ddgstOk then
    ((v.bump (hifBlk q.port + 0x68) 32 32 1).digestFail m y).dropData m { y with drop := true } d.data.length
  else v.placeData m y d.data

/-- A PDU that names an XRDY of the queue: its offset, its length and its last flag are checked before its bytes are taken (R393). -/
def takePdu (u : State) (n : Nat) (q : HQueue) (d : Pdu) (m : Nat) (y : Xrdy) : State :=
  if d.off ≠ y.next then u.fatal n q.port 0x02 0
  else if y.off + y.len < d.off + d.data.length then u.fatal n q.port 0x04 0
  else if d.last ≠ decide (d.off + d.data.length = y.off + y.len) then u.fatal n q.port 0x02 0
  else (u.rxBytes q.port q.sub d.data.length).takeBytes q d m y

variable (hq : s.hqueue n = some q)
include hq

theorem h2cdata_lost (h : q.lostAt.isSome = true ∨ s.carries q.port q.sub = false) : exec (.h2cdata n d) s = .next s := by
  have hlost : (q.lostAt.isSome || !s.carries q.port q.sub) = true := by
    rcases h with h | h <;> simp [h]
  show execH2cdata n d s = _
  unfold execH2cdata
  rw [hq]
  exact if_pos hlost

variable (hl : q.lostAt = none) (hc : s.carries q.port q.sub = true) {u : State} (hu : u = s.setQueue n { q with heardAt := s.time })
include hl hc hu

theorem h2cdata_bad {f : Nat} (hf : d.badAt = some f) : exec (.h2cdata n d) s = .next (u.fatal n q.port 0x01 f) := by
  show execH2cdata n d s = _
  simp [execH2cdata, hq, hl, hc, hf, hu]

variable (hb : d.badAt = none)
include hb

theorem h2cdata_badDigest (h : q.hdgst = true) (hd : d.hdgstOk = false) :
    exec (.h2cdata n d) s = .next ((u.bump (hifBlk q.port + 0x68) 0 32 1).fatal n q.port 0x03 0) := by
  show execH2cdata n d s = _
  simp [execH2cdata, hq, hl, hc, hb, h, hd, hu]

variable (hd : q.hdgst = false ∨ d.hdgstOk = true)
include hd

/-- A sound PDU of a connection that lives is taken by the XRDY that its tag names; without one it is fatal (R385, R393). -/
theorem h2cdata_sound : exec (.h2cdata n d) s = .next (match u.ttagOf n d.ttag with
    | none => u.fatal n q.port 0x02 0
    | some (m, y) => u.takePdu n q d m y) := by
  have hlost : ¬ (q.lostAt.isSome || !s.carries q.port q.sub) = true := by simp [hl, hc]
  have hdg : ¬ (q.hdgst && !d.hdgstOk) = true := by rcases hd with h | h <;> simp [h]
  show execH2cdata n d s = _
  unfold execH2cdata
  rw [hq]
  dsimp only
  rw [if_neg hlost, hb, ← hu]
  dsimp only
  rw [if_neg hdg]
  cases u.ttagOf n d.ttag with
  | none => rfl
  | some v =>
    unfold takePdu takeBytes
    dsimp only
    simp only [gt_iff_lt, apply_ite Host.Outcome.next]

theorem h2cdata_noTag (ht : u.ttagOf n d.ttag = none) : exec (.h2cdata n d) s = .next (u.fatal n q.port 0x02 0) := by
  rw [h2cdata_sound hq hl hc hu hb hd, ht]

theorem h2cdata_tag {m : Nat} {y : Xrdy} (ht : u.ttagOf n d.ttag = some (m, y)) : exec (.h2cdata n d) s = .next (u.takePdu n q d m y) := by
  rw [h2cdata_sound hq hl hc hu hb hd, ht]

end

/-! ### HIF jobs (R93, R385–R387, R391) -/

section
variable {s : State} {n m : Nat} {j : Job} {c : HCmd}

theorem exec_hifReceive_noCmd (hs : s.startable n 8 (fun o => decide (o = 0)) = some j) (h : s.jobCmd j = none) :
    exec (.hifReceive n) s = .next (s.finish n j 1 0) := by
  show execHifReceive n s = _
  unfold execHifReceive
  rw [hs]
  dsimp only
  rw [h]

theorem exec_hifTransmit_noCmd (hs : s.startable n 8 (fun o => decide (o = 1)) = some j) (h : s.jobCmd j = none) :
    exec (.hifTransmit n) s = .next (s.finish n j 1 0) := by
  show execHifTransmit n s = _
  unfold execHifTransmit
  rw [hs]
  dsimp only
  rw [h]

theorem exec_hifComplete_noCmd (hs : s.startable n 8 (fun o => decide (o = 2)) = some j) (h : s.jobCmd j = none) :
    exec (.hifComplete n) s = .next (s.finish n j 1 0) := by
  show execHifComplete n s = _
  unfold execHifComplete
  rw [hs]
  dsimp only
  rw [h]

/-- COMPLETE posts the command's completion once (R93, R391). -/
theorem exec_hifComplete (hs : s.startable n 8 (fun o => decide (o = 2)) = some j) (h : s.jobCmd j = some (m, c)) {k : Nat}
    (hk : k = fieldAt j.desc 2 2) : exec (.hifComplete n) s = .next
      (if c.lost then s.finish n j 0x10 0 else if c.completed then s.finish n j 1 0
      else ((s.setCmd m { c with completed := true }).complete m
        { sct := bits k 8 3, sc := bits k 0 8, dnr := bit k 14, crd := bits k 11 2, more := bit k 13 }
        (fieldAt j.desc 0x10 4) (fieldAt j.desc 0x14 4)).finish n j 0 0) := by
  subst hk
  show execHifComplete n s = _
  unfold execHifComplete
  rw [hs]
  dsimp only
  rw [h]
  dsimp only
  split
  · rfl
  · split <;> rfl

/-- TRANSMIT sends a range that lies in the command's transfer and in its buffer (R386, R387). -/
theorem exec_hifTransmit (hs : s.startable n 8 (fun o => decide (o = 1)) = some j) (h : s.jobCmd j = some (m, c)) :
    exec (.hifTransmit n) s = .next
      (if c.lost then s.finish n j 0x10 0
      else if !givesData c.cap.op ∨ c.cap.len < (hifRange j).1 + (hifRange j).2 ∨ hLen (jh j 0) < (hifRange j).2 then s.finish n j 1 0
      else ((match s.hqueue c.queue with | some q => s.txBytes q.port q.sub (hifRange j).2 | none => s).emit
        (.hostData c.queue c.cap.cid (hifRange j).1 (s.rdBytes (s.hAddr j.ridge (jh j 0)) (hifRange j).2))).finish n j 0 (hifRange j).2) := by
  show execHifTransmit n s = _
  unfold execHifTransmit
  rw [hs]
  dsimp only
  rw [h]
  dsimp only
  split
  · rfl
  · split <;> rfl

/-- The range of a RECEIVE that passes its checks: its bytes are in the capsule, or its host is asked for them once the queue takes
another XRDY and no RECEIVE of a lower offset waits for its own (R385, R387). -/
def receiveRange (s : State) (n m : Nat) (j : Job) (c : HCmd) (r : Nat × Nat) : State :=
  match c.cap.inline with
  | some d => ((s.setCmd m { c with ranges := c.ranges ++ [r] }).hWrite j.ridge (jh j 0) 0 (sliceAt d r.1 r.2)).finish n j 0 r.2
  | none => match s.hqueue c.queue with
    | none => s.finish n j 0x10 0
    | some q =>
      if xrdyMax q ≤ c.xrdys.length ∨ s.jobs.any (fun p => decide (p.1 ≠ n ∧ p.2.cls = 8 ∧ p.2.cid = j.cid ∧ jobOp p.2 = 0)
          && decide ((hifRange p.2).1 < r.1) && !c.xrdys.any (fun x => decide (x.job = some p.1))) = true then s
      else s.sendXrdy m q c (some n) (jh j 0) r.1 r.2

section
variable (hs : s.startable n 8 (fun o => decide (o = 0)) = some j) (h : s.jobCmd j = some (m, c))
include hs h

theorem exec_hifReceive_lost (hl : c.lost = true) : exec (.hifReceive n) s = .next (s.finish n j 0x10 0) := by
  show execHifReceive n s = _
  simp [execHifReceive, hs, h, hl]

variable (hl : c.lost = false)
include hl

theorem exec_hifReceive_failed (hf : c.fail ≠ none) : exec (.hifReceive n) s = .next (s.finish n j 0x12 0) := by
  show execHifReceive n s = _
  simp [execHifReceive, hs, h, hl, Option.isSome_iff_ne_none.2 hf]

variable (hf : c.fail = none) (hx : ∀ x ∈ c.xrdys, x.job ≠ some n)
include hf hx

/-- A RECEIVE that has no XRDY yet is refused, or has its range moved (R385, R387). -/
theorem exec_hifReceive : exec (.hifReceive n) s = .next
    (if !takesData c.cap.op ∨ c.cap.len < (hifRange j).1 + (hifRange j).2 ∨ 0x100000 < (hifRange j).2
        ∨ c.ranges.any (fun r => decide ((hifRange j).1 < r.1 + r.2 ∧ r.1 < (hifRange j).1 + (hifRange j).2))
      then s.finish n j 1 0 else s.receiveRange n m j c (hifRange j)) := by
  have hlost : ¬ c.lost = true := by simp [hl]
  have hfail : ¬ c.fail.isSome = true := by simp [hf]
  have hany : ¬ c.xrdys.any (fun x => decide (x.job = some n)) = true := by simpa using hx
  show execHifReceive n s = _
  unfold execHifReceive
  rw [hs]
  dsimp only
  rw [h]
  dsimp only
  rw [if_neg hlost, if_neg hfail, if_neg hany]
  rw [apply_ite Host.Outcome.next]
  congr 1
  unfold receiveRange
  cases c.cap.inline with
  | some d => rfl
  | none =>
    dsimp only
    cases s.hqueue c.queue with
    | none => rfl
    | some q => exact (apply_ite Host.Outcome.next _ _ _).symm

end

end

end State

open State

/-- Settles O48: each event goes by the equation of its outcome, and the arms of an event exclude each other. -/
theorem capsulesAndHostData : Obligations.CapsulesAndHostData := by
  unfold Obligations.CapsulesAndHostData
  refine ⟨fun s n cap q => ⟨arrival_noQueue, fun hq => ⟨arrival_lost hq, fun f hl hc hf => arrival_bad hq hl hc hf,
      fun hl hc hb h hd => arrival_badDigest hq hl hc hb h hd, fun hl hc hb hd => ⟨arrival_oversize hq hl hc hb hd,
        fun h1 h2 h => ⟨arrival_stops hq hl hc hb hd h1 h2 h, arrival_stopsMore hq hl hc hb hd h1 h2 h⟩,
        fun h1 h2 h => arrival_enters hq hl hc hb hd h1 h2 h⟩⟩⟩,
    ?taken, wayOf_spec, fun s n => exec_capsuleTaken_none, ?oneLock, ?twoLocks, ?data, ?jobs⟩
  case taken =>
    intro s n m q c hq hf
    have hrun := exec_capsuleTaken hq hf
    refine ⟨fun hl => by rw [gives, hrun, if_pos hl], fun hl ha => by rw [gives, hrun, hl, ha]; rfl, fun hl ha hi ho => ?io,
      fun hl ha hi ho hn => capsuleTaken_admin hq hf hl ha hi (takeAdmin_abort ho hn),
      fun d hl ha hi ho hd => capsuleTaken_admin hq hf hl ha hi (takeAdmin_logPage ho hd),
      fun hl ha hi ho hd => ⟨_, _, rfl, capsuleTaken_admin hq hf hl ha hi (takeAdmin_other ho hd)⟩⟩
    have hio : ∀ {t}, s.takeIo m n q c = t → gives (.capsuleTaken n) s t := capsuleTaken_io hq hf hl ha hi
    refine ⟨fun h => hio (takeIo_noNs ho h), fun p ns h => ⟨fun hd => hio (takeIo_deleting ho h hd),
      fun hd hw => hio (takeIo_held ho h hd hw), fun st hd hw => hio (takeIo_refuse ho h hd hw),
      fun st hd hw hs ht => hio (takeIo_status ho h hd hw hs ht), fun hd hw hs hr => ?_, fun hd hw hs hr hst => ?_,
      fun hd hw hs hr k u hk => ?_⟩⟩
    · have hserve := takeIo_serve ho h hd hw hs (m := m) (n := n) (q := q)
      exact ⟨fun hk => hio (hserve.trans (startCapsule_noClimb hr hk _)),
        fun k u hk => ⟨_, hio hserve, startCapsule_spec hr hk _ rfl⟩⟩
    · exact hio ((takeIo_serve ho h hd hw hs).trans (startCapsule_stalled hr hst _))
    · refine ⟨_, hio (takeIo_forward ho h hd hw hs), ?_⟩
      obtain ⟨hlocks, -, -⟩ := startCapsule_spec (ls := []) hr hk none rfl
      rw [hlocks, List.map_nil, List.append_nil]
  case oneLock =>
    intro s n l hls hl hg c hc hp
    exact exec_rangeLockGrant (by rw [hls, grantLocks_one hl hg]) (by simp) hc hp
  case twoLocks =>
    intro s n a b hls ha hb hg
    have hgrant : grantLocks n [] s.host.locks = [a, if lockConflict a b then b else { b with granted := true }] := by
      rw [hls, grantLocks_two ha hb hg]
    refine ⟨fun hx => exec_rangeLockGrant_waits ?_ ?_, fun c hx hc hp => exec_rangeLockGrant ?_ ?_ hc hp⟩
    · rw [hgrant, hx, hls]
      rfl
    · simp [allGranted, hls, hb, hg]
    · rw [hgrant, hx]
      rfl
    · simp [ha]
  case data =>
    intro s u n d q hq hu
    refine ⟨h2cdata_lost hq, fun hl hc => ⟨fun f hf => h2cdata_bad hq hl hc hu hf, fun hb h hd => h2cdata_badDigest hq hl hc hu hb h hd,
      fun hb hd => ⟨h2cdata_noTag hq hl hc hu hb hd, fun m y ht => ?_⟩⟩, fatal_eq hq⟩
    have hrun : exec (.h2cdata n d) s = .next (u.takePdu n q d m y) := h2cdata_tag hq hl hc hu hb hd ht
    refine ⟨fun ho => ?_, fun ho hlen => ?_, fun ho hlen => ⟨fun hlast => ?_, ?_⟩⟩
    · rw [gives, hrun, takePdu, if_pos ho]
    · rw [gives, hrun, takePdu, if_neg (not_not.2 ho), if_pos hlen]
    · rw [gives, hrun, takePdu, if_neg (not_not.2 ho), if_neg (not_lt.2 hlen), if_pos hlast]
    · rintro v hlast rfl
      rw [takePdu, if_neg (not_not.2 ho), if_neg (not_lt.2 hlen), if_neg (not_not.2 hlast)] at hrun
      refine ⟨fun hy => ?_, fun hy hg hk => ?_, fun hy hg => ?_⟩
      · rw [gives, hrun, takeBytes, if_pos hy]
      · rw [gives, hrun, takeBytes, if_neg (by simp [hy]), if_pos (by simp [hg, hk])]
      · have hsound : ¬ (q.ddgst && !d.ddgstOk) = true := by rcases hg with h | h <;> simp [h]
        rw [gives, hrun, takeBytes, if_neg (by simp [hy]), if_neg hsound]
  case jobs =>
    intro s n m k j c _ hs
    have hop : ∀ {i}, jobOp j = i → s.startable n 8 (fun o => decide (o = i)) = some j := fun hi => hi ▸ hs
    refine ⟨fun h => ⟨fun h0 => exec_hifReceive_noCmd (hop h0) h, fun h1 => exec_hifTransmit_noCmd (hop h1) h,
      fun h2 => exec_hifComplete_noCmd (hop h2) h⟩, fun h => ⟨fun hl => ⟨fun h0 => exec_hifReceive_lost (hop h0) h hl, fun h1 => ?_, fun h2 => ?_⟩,
      fun hl h0 => ⟨exec_hifReceive_failed (hop h0) h hl, fun hf hx hbad => ?_, fun hf hx hd hlen hmax hr => ?_⟩,
      fun hl h1 => ⟨fun hbad => ?_, fun q hd hlen hbuf hq => ?_⟩, fun hl h2 => ⟨fun hk => ?_, fun hk hv => ?_⟩⟩⟩
    · rw [gives, exec_hifTransmit (hop h1) h, if_pos hl]
    · rw [gives, exec_hifComplete (hop h2) h rfl, if_pos hl]
    · rw [gives, exec_hifReceive (hop h0) h hl hf hx, if_pos (by simpa using hbad)]
    · have hrun := exec_hifReceive (hop h0) h hl hf hx
      rw [if_neg (by simpa [hd, hlen, hmax] using hr), receiveRange] at hrun
      refine ⟨fun d hin => ?_, fun q hin hq => ?_⟩
      · rw [gives, hrun, hin]
      · rw [hin, hq] at hrun
        refine ⟨fun hfull => ?_, fun hroom hjobs => ?_⟩
        · rw [gives, hrun]
          exact congrArg _ (if_pos (.inl hfull))
        · rw [gives, hrun]
          refine congrArg _ (if_neg ?_)
          simp [hjobs, hroom]
    · rw [gives, exec_hifTransmit (hop h1) h, if_neg (by simp [hl]), if_pos (by simpa using hbad)]
    · rw [gives, exec_hifTransmit (hop h1) h, if_neg (by simp [hl]), if_neg (by simp [hd, hlen, hbuf]), hq]
    · rw [gives, exec_hifComplete (hop h2) h rfl, if_neg (by simp [hl]), if_pos hk]
    · rw [gives, exec_hifComplete (hop h2) h hv, if_neg (by simp [hl]), if_neg (by simp [hk])]

end Sys2Proof.Machine
end

section
/-! Words and instructions: the fields of the forms of R72, encoding then decoding (O53), decoding then encoding (O54), and examples (O52). -/

open Sys2Proof Sys2Proof.Machine Sys2Proof.Machine.State
namespace Sys2Proof.Machine

/-! ### The fields of the forms (R72) -/

/-- A field of a word is a concatenation exactly when its two parts are. -/
theorem extract_eq_append {n s v k : Nat} {z : BitVec n} {x : BitVec v} {y : BitVec k} :
    z.extractLsb' s (v + k) = x ++ y ↔ z.extractLsb' (s + k) v = x ∧ z.extractLsb' s k = y := by
  have hsplit : z.extractLsb' s (v + k) = z.extractLsb' (s + k) v ++ z.extractLsb' s k :=
    (BitVec.extractLsb'_append_extractLsb'_eq_extractLsb' rfl).symm
  rw [hsplit]
  refine ⟨fun h => ⟨?_, ?_⟩, fun ⟨h1, h2⟩ => by rw [h1, h2]⟩
  · simpa only [BitVec.extractLsb'_append_eq_left] using congrArg (BitVec.extractLsb' k v) h
  · simpa only [BitVec.extractLsb'_append_eq_right] using congrArg (BitVec.extractLsb' 0 k) h

theorem eq_iff_extract {n : Nat} {z x : BitVec n} : z = x ↔ z.extractLsb' 0 n = x := by rw [BitVec.extractLsb'_eq_self]

section
variable {w : BitVec 32}

theorem formR_eq_iff {op : BitVec 6} {rd ra rb : BitVec 5} {func : BitVec 11} :
    formR op rd ra rb func = w ↔ w.extractLsb' 26 6 = op ∧ w.extractLsb' 21 5 = rd ∧ w.extractLsb' 16 5 = ra ∧ w.extractLsb' 11 5 = rb ∧ w.extractLsb' 0 11 = func := by
  rw [eq_comm, eq_iff_extract]
  change w.extractLsb' 0 (6 + 5 + 5 + 5 + 11) = op ++ rd ++ ra ++ rb ++ func ↔ _
  rw [extract_eq_append, extract_eq_append, extract_eq_append, extract_eq_append]
  simp only [and_assoc]

theorem formI_eq_iff {op : BitVec 6} {rd ra : BitVec 5} {imm : BitVec 16} :
    formI op rd ra imm = w ↔ w.extractLsb' 26 6 = op ∧ w.extractLsb' 21 5 = rd ∧ w.extractLsb' 16 5 = ra ∧ w.extractLsb' 0 16 = imm := by
  rw [eq_comm, eq_iff_extract]
  change w.extractLsb' 0 (6 + 5 + 5 + 16) = op ++ rd ++ ra ++ imm ↔ _
  rw [extract_eq_append, extract_eq_append, extract_eq_append]
  simp only [and_assoc]

theorem formJ_eq_iff {op : BitVec 6} {rd : BitVec 5} {imm : BitVec 21} :
    formJ op rd imm = w ↔ w.extractLsb' 26 6 = op ∧ w.extractLsb' 21 5 = rd ∧ w.extractLsb' 0 21 = imm := by
  rw [eq_comm, eq_iff_extract]
  change w.extractLsb' 0 (6 + 5 + 21) = op ++ rd ++ imm ↔ _
  rw [extract_eq_append, extract_eq_append]
  simp only [and_assoc]

theorem formK_eq_iff {op : BitVec 6} {rd : BitVec 5} {k : BitVec 2} {imm : BitVec 16} :
    formK op rd k imm = w ↔ w.extractLsb' 26 6 = op ∧ w.extractLsb' 21 5 = rd ∧ w.extractLsb' 18 3 = 0#3 ∧ w.extractLsb' 16 2 = k ∧ w.extractLsb' 0 16 = imm := by
  rw [eq_comm, eq_iff_extract]
  change w.extractLsb' 0 (6 + 5 + 3 + 2 + 16) = op ++ rd ++ 0#3 ++ k ++ imm ↔ _
  rw [extract_eq_append, extract_eq_append, extract_eq_append, extract_eq_append]
  simp only [and_assoc]

theorem formF_eq_iff {op : BitVec 6} {rd ra : BitVec 5} {pos len : BitVec 6} {ins : BitVec 1} :
    formF op rd ra pos len ins = w ↔ w.extractLsb' 26 6 = op ∧ w.extractLsb' 21 5 = rd ∧ w.extractLsb' 16 5 = ra ∧ w.extractLsb' 10 6 = pos ∧ w.extractLsb' 4 6 = len ∧ w.extractLsb' 1 3 = 0#3 ∧ w.extractLsb' 0 1 = ins := by
  rw [eq_comm, eq_iff_extract]
  change w.extractLsb' 0 (6 + 5 + 5 + 6 + 6 + 3 + 1) = op ++ rd ++ ra ++ pos ++ len ++ 0#3 ++ ins ↔ _
  rw [extract_eq_append, extract_eq_append, extract_eq_append, extract_eq_append, extract_eq_append, extract_eq_append]
  simp only [and_assoc]

theorem formHM_eq_iff {op : BitVec 6} {g ra : BitVec 5} {h : BitVec 4} {size : BitVec 2} {imm : BitVec 10} :
    formHM op g h ra size imm = w ↔ w.extractLsb' 26 6 = op ∧ w.extractLsb' 21 5 = g ∧ w.extractLsb' 17 4 = h ∧ w.extractLsb' 12 5 = ra ∧ w.extractLsb' 10 2 = size ∧ w.extractLsb' 0 10 = imm := by
  rw [eq_comm, eq_iff_extract]
  change w.extractLsb' 0 (6 + 5 + 4 + 5 + 2 + 10) = op ++ g ++ h ++ ra ++ size ++ imm ↔ _
  rw [extract_eq_append, extract_eq_append, extract_eq_append, extract_eq_append, extract_eq_append]
  simp only [and_assoc]

theorem formHX_eq_iff {op : BitVec 6} {ga gb : BitVec 5} {hd hs : BitVec 4} {func : BitVec 3} :
    formHX op ga hd hs gb func = w ↔ w.extractLsb' 26 6 = op ∧ w.extractLsb' 21 5 = ga ∧ w.extractLsb' 17 4 = hd ∧ w.extractLsb' 13 4 = hs ∧ w.extractLsb' 8 5 = gb ∧ w.extractLsb' 3 5 = 0#5 ∧ w.extractLsb' 0 3 = func := by
  rw [eq_comm, eq_iff_extract]
  change w.extractLsb' 0 (6 + 5 + 4 + 4 + 5 + 5 + 3) = op ++ ga ++ hd ++ hs ++ gb ++ 0#5 ++ func ↔ _
  rw [extract_eq_append, extract_eq_append, extract_eq_append, extract_eq_append, extract_eq_append, extract_eq_append]
  simp only [and_assoc]

theorem formSD_eq_iff {op : BitVec 6} {cls gd : BitVec 5} {h : BitVec 4} {t : BitVec 3} {flags : BitVec 9} :
    formSD op cls h t gd flags = w ↔ w.extractLsb' 26 6 = op ∧ w.extractLsb' 21 5 = cls ∧ w.extractLsb' 17 4 = h ∧ w.extractLsb' 14 3 = t ∧ w.extractLsb' 9 5 = gd ∧ w.extractLsb' 0 9 = flags := by
  rw [eq_comm, eq_iff_extract]
  change w.extractLsb' 0 (6 + 5 + 4 + 3 + 5 + 9) = op ++ cls ++ h ++ t ++ gd ++ flags ↔ _
  rw [extract_eq_append, extract_eq_append, extract_eq_append, extract_eq_append, extract_eq_append]
  simp only [and_assoc]

theorem formTK_eq_iff {op : BitVec 6} {rd : BitVec 5} {t : BitVec 3} {mask : BitVec 8} {func : BitVec 2} :
    formTK op rd t mask func = w ↔ w.extractLsb' 26 6 = op ∧ w.extractLsb' 21 5 = rd ∧ w.extractLsb' 18 3 = t ∧ w.extractLsb' 10 8 = mask ∧ w.extractLsb' 2 8 = 0#8 ∧ w.extractLsb' 0 2 = func := by
  rw [eq_comm, eq_iff_extract]
  change w.extractLsb' 0 (6 + 5 + 3 + 8 + 8 + 2) = op ++ rd ++ t ++ mask ++ 0#8 ++ func ↔ _
  rw [extract_eq_append, extract_eq_append, extract_eq_append, extract_eq_append, extract_eq_append]
  simp only [and_assoc]

theorem formCL_eq_iff {op : BitVec 6} {r1 r2 : BitVec 5} {t func : BitVec 3} :
    formCL op r1 r2 t func = w ↔ w.extractLsb' 26 6 = op ∧ w.extractLsb' 21 5 = r1 ∧ w.extractLsb' 16 5 = r2 ∧ w.extractLsb' 13 3 = t ∧ w.extractLsb' 3 10 = 0#10 ∧ w.extractLsb' 0 3 = func := by
  rw [eq_comm, eq_iff_extract]
  change w.extractLsb' 0 (6 + 5 + 5 + 3 + 10 + 3) = op ++ r1 ++ r2 ++ t ++ 0#10 ++ func ↔ _
  rw [extract_eq_append, extract_eq_append, extract_eq_append, extract_eq_append, extract_eq_append]
  simp only [and_assoc]

theorem formCS_eq_iff {op : BitVec 6} {rd ra : BitVec 5} {func : BitVec 2} {csr : BitVec 12} :
    formCS op rd ra func csr = w ↔ w.extractLsb' 26 6 = op ∧ w.extractLsb' 21 5 = rd ∧ w.extractLsb' 16 5 = ra ∧ w.extractLsb' 14 2 = func ∧ w.extractLsb' 12 2 = 0#2 ∧ w.extractLsb' 0 12 = csr := by
  rw [eq_comm, eq_iff_extract]
  change w.extractLsb' 0 (6 + 5 + 5 + 2 + 2 + 12) = op ++ rd ++ ra ++ func ++ 0#2 ++ csr ↔ _
  rw [extract_eq_append, extract_eq_append, extract_eq_append, extract_eq_append, extract_eq_append]
  simp only [and_assoc]

theorem formSY_eq_iff {op : BitVec 6} {rd func : BitVec 5} {imm : BitVec 16} :
    formSY op rd func imm = w ↔ w.extractLsb' 26 6 = op ∧ w.extractLsb' 21 5 = rd ∧ w.extractLsb' 16 5 = func ∧ w.extractLsb' 0 16 = imm := by
  rw [eq_comm, eq_iff_extract]
  change w.extractLsb' 0 (6 + 5 + 5 + 16) = op ++ rd ++ func ++ imm ↔ _
  rw [extract_eq_append, extract_eq_append, extract_eq_append]
  simp only [and_assoc]


/-- The immediate of a shift (R75). -/
theorem shiftImm_eq_iff {k : BitVec 2} {n : BitVec 6} :
    w.extractLsb' 0 16 = 0#8 ++ k ++ n ↔ w.extractLsb' 8 8 = 0#8 ∧ w.extractLsb' 6 2 = k ∧ w.extractLsb' 0 6 = n := by
  change w.extractLsb' 0 (8 + 2 + 6) = 0#8 ++ k ++ n ↔ _
  rw [extract_eq_append, extract_eq_append, and_assoc]

/-- The immediate of a compare (R75). -/
theorem cmpImm_eq_iff {k : BitVec 4} {i : BitVec 12} :
    w.extractLsb' 0 16 = k ++ i ↔ w.extractLsb' 12 4 = k ∧ w.extractLsb' 0 12 = i :=
  extract_eq_append (z := w) (s := 0) (v := 4) (k := 12)

/-- The condition register of SEL (R75). -/
theorem selFunc_eq_iff {rc : BitVec 5} :
    w.extractLsb' 0 11 = rc ++ 0#6 ↔ w.extractLsb' 6 5 = rc ∧ w.extractLsb' 0 6 = 0#6 :=
  extract_eq_append (z := w) (s := 0) (v := 5) (k := 6)

/-! ### Encoding, then decoding -/

/-- Each opcode's decoder finds the fields of the encoded form. The cases that ask for more: a load or store names no fault, the width
of an atomic is a bit of its function, a bit field lies in the word, a SEND's class and flags are listed. -/
theorem ezDecode_of_ezEncode {a : Agent} {i : Instr} (hc : coreOf i = some a) (hwf : i.wf = true) (hf : faultFree i = true)
    (hw : ezEncode i = some w) : ezDecode a w = some i := by
  unfold ezEncode at hw
  split at hw
  case h_85 => cases hw
  all_goals
    injection hc with hc
    subst hc
    simp only [Option.some.injEq, formR_eq_iff, formI_eq_iff, formJ_eq_iff, formK_eq_iff, formF_eq_iff, formHM_eq_iff, formHX_eq_iff,
      formSD_eq_iff, formTK_eq_iff, formCL_eq_iff, formCS_eq_iff, formSY_eq_iff, shiftImm_eq_iff, cmpImm_eq_iff, selFunc_eq_iff] at hw
  case h_38 | h_39 | h_40 | h_41 | h_42 | h_43 | h_44 | h_45 => simp [ezDecode, hw, of_decide_eq_true hf]
  case h_48 w32 | h_49 w32 | h_50 w32 => cases w32 <;> simp [ezDecode, hw, decAtomic]
  case h_51 | h_52 => simp [ezDecode, hw, of_decide_eq_true (Bool.and_elim_right hwf)]
  case h_66 => simp [ezDecode, hw, Bool.and_elim_right hwf]
  all_goals simp [ezDecode, hw, decInt, decShift, decCmp, decCmpImm, decHandle, decToken, decClimb, decCsr, decSys]

theorem exists_ezEncode {a : Agent} {i : Instr} (hc : coreOf i = some a) (hi : ∀ w, i ≠ .illegalInstruction a w) :
    ∃ w, ezEncode i = some w := by
  unfold coreOf at hc
  split at hc
  case h_85 => injection hc with hc; subst hc; exact absurd rfl (hi _)
  case h_86 => cases hc
  all_goals exact ⟨_, rfl⟩

/-! ### Decoding, then encoding (R73, R74) -/

/-- What a word and the instruction that it decodes to have to do with each other: `Obligations.EncodeOfDecodeIsTheWord`. -/
def Spells (w : BitVec 32) (a : Agent) (i : Instr) : Prop :=
  coreOf i = some a ∧ faultFree i = true ∧ ezEncode i = some w ∧ (a.wf = true → i.wf = true)

variable {a : Agent} {i : Instr}

theorem spells_of_decInt (hop : w.extractLsb' 26 6 = 0x01)
    (h : decInt a (w.extractLsb' 21 5) (w.extractLsb' 16 5) (w.extractLsb' 11 5) (w.extractLsb' 0 11).toNat = some i) : Spells w a i := by
  have word {f : BitVec 11} (hf : (w.extractLsb' 0 11).toNat = f.toNat) :=
    congrArg some (formR_eq_iff.2 ⟨hop, rfl, rfl, rfl, BitVec.eq_of_toNat_eq hf⟩)
  unfold decInt at h
  split at h
  case h_14 hf | h_15 hf =>
    obtain ⟨hrb, h⟩ := Option.ite_none_right_eq_some.1 h
    cases h
    exact ⟨rfl, rfl, congrArg some (formR_eq_iff.2 ⟨hop, rfl, rfl, hrb, BitVec.eq_of_toNat_eq hf⟩), id⟩
  case h_16 => cases h
  all_goals
    next hf =>
      cases h
      exact ⟨rfl, rfl, word hf, id⟩

theorem spells_of_decShift (hop : w.extractLsb' 26 6 = 0x06) (hz : w.extractLsb' 8 8 = 0)
    (h : decShift a (w.extractLsb' 21 5) (w.extractLsb' 16 5) (w.extractLsb' 0 6) (w.extractLsb' 6 2).toNat = some i) : Spells w a i := by
  unfold decShift at h
  split at h
  case h_4 => cases h
  all_goals
    next hf =>
      cases h
      exact ⟨rfl, rfl, congrArg some (formI_eq_iff.2 ⟨hop, rfl, rfl, shiftImm_eq_iff.2 ⟨hz, BitVec.eq_of_toNat_eq hf, rfl⟩⟩), id⟩

theorem spells_of_decCmp (hop : w.extractLsb' 26 6 = 0x07)
    (h : decCmp a (w.extractLsb' 21 5) (w.extractLsb' 16 5) (w.extractLsb' 11 5) (w.extractLsb' 0 11).toNat = some i) : Spells w a i := by
  unfold decCmp at h
  split at h
  case h_7 => cases h
  all_goals
    next hf =>
      cases h
      exact ⟨rfl, rfl, congrArg some (formR_eq_iff.2 ⟨hop, rfl, rfl, rfl, BitVec.eq_of_toNat_eq hf⟩), id⟩

theorem spells_of_decCmpImm (hop : w.extractLsb' 26 6 = 0x08)
    (h : decCmpImm a (w.extractLsb' 21 5) (w.extractLsb' 16 5) (w.extractLsb' 0 12) (w.extractLsb' 12 4).toNat = some i) : Spells w a i := by
  unfold decCmpImm at h
  split at h
  case h_7 => cases h
  all_goals
    next hf =>
      cases h
      exact ⟨rfl, rfl, congrArg some (formI_eq_iff.2 ⟨hop, rfl, rfl, cmpImm_eq_iff.2 ⟨BitVec.eq_of_toNat_eq hf, rfl⟩⟩), id⟩

theorem spells_of_decAtomic (hop : w.extractLsb' 26 6 = 0x16)
    (h : decAtomic a (w.extractLsb' 21 5) (w.extractLsb' 16 5) (w.extractLsb' 11 5) (w.extractLsb' 0 11).toNat = some i) : Spells w a i := by
  unfold decAtomic at h
  split at h
  case h_7 => cases h
  all_goals
    next hf =>
      cases h
      exact ⟨rfl, rfl, congrArg some (formR_eq_iff.2 ⟨hop, rfl, rfl, rfl, BitVec.eq_of_toNat_eq hf⟩), id⟩

theorem spells_of_decHandle (hop : w.extractLsb' 26 6 = 0x20) (hz : w.extractLsb' 3 5 = 0)
    (h : decHandle a (w.extractLsb' 21 5) (w.extractLsb' 17 4) (w.extractLsb' 13 4) (w.extractLsb' 8 5) (w.extractLsb' 0 3).toNat = some i) :
    Spells w a i := by
  have word {ga gb : BitVec 5} {hd hs : BitVec 4} {f : BitVec 3} (hga : w.extractLsb' 21 5 = ga) (hhd : w.extractLsb' 17 4 = hd)
      (hhs : w.extractLsb' 13 4 = hs) (hgb : w.extractLsb' 8 5 = gb) (hf : (w.extractLsb' 0 3).toNat = f.toNat) :=
    congrArg some (formHX_eq_iff.2 ⟨hop, hga, hhd, hhs, hgb, hz, BitVec.eq_of_toNat_eq hf⟩)
  unfold decHandle at h
  split at h
  case h_1 hf =>
    obtain ⟨⟨hhs, hgb⟩, h⟩ := Option.ite_none_right_eq_some.1 h
    cases h
    exact ⟨rfl, rfl, word rfl rfl hhs hgb hf, id⟩
  case h_2 hf =>
    obtain ⟨⟨hga, hhd, hgb⟩, h⟩ := Option.ite_none_right_eq_some.1 h
    cases h
    exact ⟨rfl, rfl, word hga hhd rfl hgb hf, id⟩
  case h_3 hf =>
    cases h
    exact ⟨rfl, rfl, word rfl rfl rfl rfl hf, id⟩
  case h_4 hf | h_5 hf =>
    obtain ⟨hgb, h⟩ := Option.ite_none_right_eq_some.1 h
    cases h
    exact ⟨rfl, rfl, word rfl rfl rfl hgb hf, id⟩
  case h_6 => cases h

theorem spells_of_decToken (hop : w.extractLsb' 26 6 = 0x22) (hz : w.extractLsb' 2 8 = 0)
    (h : decToken a (w.extractLsb' 21 5) (w.extractLsb' 18 3) (w.extractLsb' 10 8) (w.extractLsb' 0 2).toNat = some i) : Spells w a i := by
  have word {t : BitVec 3} {mask : BitVec 8} {f : BitVec 2} (ht : w.extractLsb' 18 3 = t) (hm : w.extractLsb' 10 8 = mask)
      (hf : (w.extractLsb' 0 2).toNat = f.toNat) :=
    congrArg some (formTK_eq_iff.2 ⟨hop, rfl, ht, hm, hz, BitVec.eq_of_toNat_eq hf⟩)
  unfold decToken at h
  split at h
  case h_1 hf | h_3 hf =>
    obtain ⟨hm, h⟩ := Option.ite_none_right_eq_some.1 h
    cases h
    exact ⟨rfl, rfl, word rfl hm hf, id⟩
  case h_2 hf =>
    obtain ⟨ht, h⟩ := Option.ite_none_right_eq_some.1 h
    cases h
    exact ⟨rfl, rfl, word ht rfl hf, id⟩
  case h_4 => cases h

theorem spells_of_decClimb (hop : w.extractLsb' 26 6 = 0x23) (hz : w.extractLsb' 3 10 = 0)
    (h : decClimb a (w.extractLsb' 21 5) (w.extractLsb' 16 5) (w.extractLsb' 13 3) (w.extractLsb' 0 3).toNat = some i) : Spells w a i := by
  have word {r1 r2 : BitVec 5} {t f : BitVec 3} (h1 : w.extractLsb' 21 5 = r1) (h2 : w.extractLsb' 16 5 = r2)
      (ht : w.extractLsb' 13 3 = t) (hf : (w.extractLsb' 0 3).toNat = f.toNat) :=
    congrArg some (formCL_eq_iff.2 ⟨hop, h1, h2, ht, hz, BitVec.eq_of_toNat_eq hf⟩)
  unfold decClimb at h
  split at h
  case h_1 hf =>
    cases h
    exact ⟨rfl, rfl, word rfl rfl rfl hf, id⟩
  case h_2 hf =>
    obtain ⟨ht, h⟩ := Option.ite_none_right_eq_some.1 h
    cases h
    exact ⟨rfl, rfl, word rfl rfl ht hf, id⟩
  case h_3 hf | h_5 hf =>
    obtain ⟨⟨h1, h2, ht⟩, h⟩ := Option.ite_none_right_eq_some.1 h
    cases h
    exact ⟨rfl, rfl, word h1 h2 ht hf, id⟩
  case h_4 hf =>
    obtain ⟨⟨h2, ht⟩, h⟩ := Option.ite_none_right_eq_some.1 h
    cases h
    exact ⟨rfl, rfl, word rfl h2 ht hf, id⟩
  case h_6 => cases h

theorem spells_of_decCsr (hop : w.extractLsb' 26 6 = 0x24) (hz : w.extractLsb' 12 2 = 0)
    (h : decCsr a (w.extractLsb' 21 5) (w.extractLsb' 16 5) (w.extractLsb' 0 12) (w.extractLsb' 14 2).toNat = some i) : Spells w a i := by
  have word {ra : BitVec 5} {f : BitVec 2} (hra : w.extractLsb' 16 5 = ra) (hf : (w.extractLsb' 14 2).toNat = f.toNat) :=
    congrArg some (formCS_eq_iff.2 ⟨hop, rfl, hra, BitVec.eq_of_toNat_eq hf, hz, rfl⟩)
  unfold decCsr at h
  split at h
  case h_1 hf =>
    obtain ⟨hra, h⟩ := Option.ite_none_right_eq_some.1 h
    cases h
    exact ⟨rfl, rfl, word hra hf, id⟩
  case h_2 hf | h_3 hf =>
    cases h
    exact ⟨rfl, rfl, word rfl hf, id⟩
  case h_4 h0 h1 h2 =>
    have hf : ∀ f : BitVec 2, f.toNat ≠ 0 → f.toNat ≠ 1 → f.toNat ≠ 2 → f.toNat = (3#2).toNat := by decide
    cases h
    exact ⟨rfl, rfl, word rfl (hf _ h0 h1 h2), id⟩

theorem spells_of_decSys (hop : w.extractLsb' 26 6 = 0x25)
    (h : decSys a (w.extractLsb' 21 5) (w.extractLsb' 0 16) (w.extractLsb' 16 5).toNat = some i) : Spells w a i := by
  have word {rd f : BitVec 5} {imm : BitVec 16} (hrd : w.extractLsb' 21 5 = rd) (hf : (w.extractLsb' 16 5).toNat = f.toNat)
      (himm : w.extractLsb' 0 16 = imm) :=
    congrArg some (formSY_eq_iff.2 ⟨hop, hrd, BitVec.eq_of_toNat_eq hf, himm⟩)
  unfold decSys at h
  split at h
  case h_1 hf =>
    obtain ⟨himm, h⟩ := Option.ite_none_right_eq_some.1 h
    cases h
    exact ⟨rfl, rfl, word rfl hf himm, id⟩
  case h_2 hf =>
    obtain ⟨hrd, h⟩ := Option.ite_none_right_eq_some.1 h
    cases h
    exact ⟨rfl, rfl, word hrd hf rfl, id⟩
  case h_3 hf | h_4 hf | h_5 hf | h_6 hf =>
    obtain ⟨⟨hrd, himm⟩, h⟩ := Option.ite_none_right_eq_some.1 h
    cases h
    exact ⟨rfl, rfl, word hrd hf himm, id⟩
  case h_7 => cases h

theorem spells_of_field (hop : w.extractLsb' 26 6 = 0x17) (hz : w.extractLsb' 1 3 = 0)
    (hin : (w.extractLsb' 10 6).toNat + (w.extractLsb' 4 6).toNat < 64)
    (h : (if w.extractLsb' 0 1 = 0 then some (.bfx a (w.extractLsb' 21 5) (w.extractLsb' 16 5) (w.extractLsb' 10 6) (w.extractLsb' 4 6))
      else some (.bfi a (w.extractLsb' 21 5) (w.extractLsb' 16 5) (w.extractLsb' 10 6) (w.extractLsb' 4 6))) = some i) : Spells w a i := by
  have word {ins : BitVec 1} (hins : w.extractLsb' 0 1 = ins) :=
    congrArg some (formF_eq_iff.2 ⟨hop, rfl, rfl, rfl, rfl, hz, hins⟩)
  have wf (ha : a.wf = true) := Bool.and_eq_true_iff.2 ⟨ha, decide_eq_true hin⟩
  split at h
  · next hins =>
    cases h
    exact ⟨rfl, rfl, word hins, wf⟩
  · next hins =>
    cases h
    exact ⟨rfl, rfl, word ((BitVec.eq_zero_or_eq_one _).resolve_left hins), wf⟩

/-- Each opcode's decoder gives an instruction that the word spells. -/
theorem spells_of_ezDecode (h : ezDecode a w = some i) : Spells w a i := by
  unfold ezDecode at h
  dsimp only at h
  split at h
  case h_38 => cases h
  case h_1 hop => exact spells_of_decInt (BitVec.eq_of_toNat_eq hop) h
  case h_6 hop =>
    obtain ⟨hz, h⟩ := Option.ite_none_right_eq_some.1 h
    exact spells_of_decShift (BitVec.eq_of_toNat_eq hop) hz h
  case h_7 hop => exact spells_of_decCmp (BitVec.eq_of_toNat_eq hop) h
  case h_8 hop => exact spells_of_decCmpImm (BitVec.eq_of_toNat_eq hop) h
  case h_9 hop =>
    obtain ⟨hz, h⟩ := Option.ite_none_right_eq_some.1 h
    cases h
    exact ⟨rfl, rfl, congrArg some (formR_eq_iff.2 ⟨BitVec.eq_of_toNat_eq hop, rfl, rfl, rfl, selFunc_eq_iff.2 ⟨rfl, hz⟩⟩), id⟩
  case h_10 hop | h_30 hop =>
    cases h
    exact ⟨rfl, rfl, congrArg some (formJ_eq_iff.2 ⟨BitVec.eq_of_toNat_eq hop, rfl, rfl⟩), id⟩
  case h_11 hop =>
    obtain ⟨hz, h⟩ := Option.ite_none_right_eq_some.1 h
    cases h
    exact ⟨rfl, rfl, congrArg some (formK_eq_iff.2 ⟨BitVec.eq_of_toNat_eq hop, rfl, hz, rfl, rfl⟩), id⟩
  case h_20 hop | h_21 hop =>
    cases h
    exact ⟨rfl, rfl, congrArg some (formHM_eq_iff.2 ⟨BitVec.eq_of_toNat_eq hop, rfl, rfl, rfl, rfl, rfl⟩), id⟩
  case h_22 hop => exact spells_of_decAtomic (BitVec.eq_of_toNat_eq hop) h
  case h_23 hop =>
    obtain ⟨⟨hz, hin⟩, h⟩ := Option.ite_none_right_eq_some.1 h
    exact spells_of_field (BitVec.eq_of_toNat_eq hop) hz hin h
  case h_32 hop =>
    obtain ⟨hz, h⟩ := Option.ite_none_right_eq_some.1 h
    exact spells_of_decHandle (BitVec.eq_of_toNat_eq hop) hz h
  case h_33 hop =>
    obtain ⟨hl, h⟩ := Option.ite_none_right_eq_some.1 h
    cases h
    exact ⟨rfl, rfl, congrArg some (formSD_eq_iff.2 ⟨BitVec.eq_of_toNat_eq hop, rfl, rfl, rfl, rfl, rfl⟩), fun ha => Bool.and_eq_true_iff.2 ⟨ha, hl⟩⟩
  case h_34 hop =>
    obtain ⟨hz, h⟩ := Option.ite_none_right_eq_some.1 h
    exact spells_of_decToken (BitVec.eq_of_toNat_eq hop) hz h
  case h_35 hop =>
    obtain ⟨hz, h⟩ := Option.ite_none_right_eq_some.1 h
    exact spells_of_decClimb (BitVec.eq_of_toNat_eq hop) hz h
  case h_36 hop =>
    obtain ⟨hz, h⟩ := Option.ite_none_right_eq_some.1 h
    exact spells_of_decCsr (BitVec.eq_of_toNat_eq hop) hz h
  case h_37 hop => exact spells_of_decSys (BitVec.eq_of_toNat_eq hop) h
  all_goals
    next hop =>
      cases h
      exact ⟨rfl, rfl, congrArg some (formI_eq_iff.2 ⟨BitVec.eq_of_toNat_eq hop, rfl, rfl, rfl⟩), id⟩
end

/-- Settles O53: the fields of an encoded word are the instruction's (`formR_eq_iff` and its kin), so each opcode's decoder finds them. -/
theorem decodeOfEncodeIsTheInstruction : Obligations.DecodeOfEncodeIsTheInstruction :=
  ⟨fun _ _ _ => ezDecode_of_ezEncode, fun _ _ => exists_ezEncode⟩

/-- Settles O54: each opcode's decoder gives an instruction that `Spells` the word. -/
theorem encodeOfDecodeIsTheWord : Obligations.EncodeOfDecodeIsTheWord := fun _ _ _ => spells_of_ezDecode

/-- Settles O52: each word is evaluated. -/
theorem someWordsDecode : Obligations.SomeWordsDecode :=
  fun _ => ⟨rfl, rfl, rfl, rfl, rfl, rfl, rfl, rfl, rfl, rfl, rfl, rfl, rfl, rfl, rfl⟩

end Sys2Proof.Machine
end

section
/-! The integer rows (O1) and control transfers (O2). -/

open Sys2Proof Sys2Proof.Machine Sys2Proof.Machine.State

namespace Sys2Proof.Machine

namespace State

/-! ### The values of R75 -/

theorem mul_eq_ofNat (x y : W64) : x * y = BitVec.ofNat 64 (x.toNat * y.toNat) := by
  simp [BitVec.ofNat_mul]

theorem divu64_eq (x y : W64) : divu64 x y = if y = 0 then ~~~0 else BitVec.ofNat 64 (x.toNat / y.toNat) := by
  unfold divu64
  refine if_congr Iff.rfl rfl (BitVec.eq_of_toNat_eq ?_)
  have := Nat.div_le_self x.toNat y.toNat
  have := x.isLt
  rw [BitVec.toNat_udiv, BitVec.toNat_ofNat, Nat.mod_eq_of_lt (by omega)]

theorem ult_min_eq (x y : W64) : (if x.ult y then x else y) = BitVec.ofNat 64 (min x.toNat y.toNat) := by
  simp only [BitVec.ult, decide_eq_true_eq, Nat.min_def]
  split
  · rw [if_pos (by omega), BitVec.ofNat_toNat, BitVec.setWidth_eq]
  · split
    · rw [show x.toNat = y.toNat by omega, BitVec.ofNat_toNat, BitVec.setWidth_eq]
    · rw [BitVec.ofNat_toNat, BitVec.setWidth_eq]

theorem ult_max_eq (x y : W64) : (if x.ult y then y else x) = BitVec.ofNat 64 (max x.toNat y.toNat) := by
  simp only [BitVec.ult, decide_eq_true_eq, Nat.max_def]
  split
  · rw [if_pos (by omega), BitVec.ofNat_toNat, BitVec.setWidth_eq]
  · split
    · rw [show y.toNat = x.toNat by omega, BitVec.ofNat_toNat, BitVec.setWidth_eq]
    · rw [BitVec.ofNat_toNat, BitVec.setWidth_eq]

/-- The leading zeros end at the highest bit that is set. -/
theorem clz64_eq (x : W64) : clz64 x = if x = 0 then 64 else 63 - Nat.log2 x.toNat := by
  unfold clz64
  split
  · next h =>
    subst h
    decide
  · next h =>
    have h0 : x.toNat ≠ 0 := fun h' => h (BitVec.eq_of_toNat_eq h')
    have hlt : x.toNat.log2 < 64 := (Nat.log2_lt h0).2 x.isLt
    have hfind : (List.range 64).find? (fun i => x.getLsbD (63 - i)) = some (63 - x.toNat.log2) := by
      refine List.find?_range_eq_some.2 ⟨?_, List.mem_range.2 (by omega), fun j hj => ?_⟩
      · rw [show 63 - (63 - x.toNat.log2) = x.toNat.log2 by omega]
        exact Nat.testBit_log2 h0
      · have hbit : x.toNat.testBit (63 - j) = false :=
          Nat.testBit_lt_two_pow (Nat.lt_of_lt_of_le Nat.lt_log2_self (Nat.pow_le_pow_right (by omega) (by omega)))
        simpa [BitVec.getLsbD] using hbit
    rw [hfind]
    rfl

theorem popcount_eq (x : W64) : popcount x.toNat = (List.range 64).countP (fun i => x.getLsbD i) :=
  List.countP_eq_length_filter.symm

theorem b64_eq (x y : W64) : b64 (x == y) = if x = y then 1 else 0 := by simp [b64]
theorem b64_ne (x y : W64) : b64 (x != y) = if x = y then 0 else 1 := by simp [b64, bne, ite_not]
theorem b64_slt (x y : W64) : b64 (x.slt y) = if x.toInt < y.toInt then 1 else 0 := by simp [b64, BitVec.slt]
theorem b64_sge (x y : W64) : b64 (!x.slt y) = if y.toInt ≤ x.toInt then 1 else 0 := by simp [b64, BitVec.slt]
theorem b64_ult (x y : W64) : b64 (x.ult y) = if x.toNat < y.toNat then 1 else 0 := by simp [b64, BitVec.ult]
theorem b64_uge (x y : W64) : b64 (!x.ult y) = if y.toNat ≤ x.toNat then 1 else 0 := by simp [b64, BitVec.ult]

theorem toInt_imm12 (i : BitVec 12) : (i.signExtend 64).toInt = i.toInt := BitVec.toInt_signExtend_of_le (by decide)

/-! ### The rows of R75 -/

section
variable {s : State} {a : Agent} {rd ra rb : BitVec 5} {v : W64}

theorem opRR_result {op : W64 → W64 → W64} (h : s.issues a = true) (hv : op (s.getG a ra) (s.getG a rb) = v) :
    opRR op a rd ra rb s = .next ((s.awake a).result a rd v) := by
  rw [opRR, ez_issues h, getG_awake, getG_awake, hv]

theorem opR_result {op : W64 → W64} (h : s.issues a = true) (hv : op (s.getG a ra) = v) :
    opR op a rd ra s = .next ((s.awake a).result a rd v) := by
  rw [opR, ez_issues h, getG_awake, hv]

/-- A row of R75 is a register result of its value. -/
theorem exec_intRow {i : Instr} (hi : intRow s i = some (a, rd, v)) (h : s.issues a = true) :
    exec i s = .next ((s.awake a).result a rd v) := by
  unfold intRow at hi
  split at hi
  case h_38 | h_39 =>
    obtain ⟨hin, hi⟩ := Option.ite_none_right_eq_some.1 hi
    cases hi
    refine congrArg _ ((ez_issues h _).trans ?_)
    rw [if_neg (by omega)]
    simp only [getG_awake]
    rfl
  case h_40 => cases hi
  all_goals cases hi
  case h_1 => exact opRR_result (op := (· + ·)) h rfl
  case h_2 => exact opRR_result (op := (· - ·)) h rfl
  case h_3 => exact opRR_result (op := (· &&& ·)) h rfl
  case h_4 => exact opRR_result (op := (· ||| ·)) h rfl
  case h_5 => exact opRR_result (op := (· ^^^ ·)) h rfl
  case h_6 => exact opRR_result (op := fun x y => x <<< lowSh y) h rfl
  case h_7 => exact opRR_result (op := fun x y => x >>> lowSh y) h rfl
  case h_8 => exact opRR_result (op := fun x y => x.sshiftRight (lowSh y)) h rfl
  case h_9 => exact opRR_result (op := (· * ·)) h (mul_eq_ofNat _ _)
  case h_10 => exact opRR_result (op := mulh64) h rfl
  case h_11 => exact opRR_result (op := divu64) h (divu64_eq _ _)
  case h_12 => exact opRR_result (op := fun x y => if x.ult y then x else y) h (ult_min_eq _ _)
  case h_13 => exact opRR_result (op := fun x y => if x.ult y then y else x) h (ult_max_eq _ _)
  case h_14 => exact opR_result (op := fun x => BitVec.ofNat 64 (clz64 x)) h (congrArg _ (clz64_eq _))
  case h_15 => exact opR_result (op := fun x => BitVec.ofNat 64 (popcount x.toNat)) h (congrArg _ (popcount_eq _))
  case h_16 => exact opR_result (op := (· + _)) h rfl
  case h_17 => exact opR_result (op := (· &&& _)) h rfl
  case h_18 => exact opR_result (op := (· ||| _)) h rfl
  case h_19 => exact opR_result (op := (· ^^^ _)) h rfl
  case h_20 => exact opR_result (op := (· <<< BitVec.toNat _)) h rfl
  case h_21 => exact opR_result (op := (· >>> BitVec.toNat _)) h rfl
  case h_22 => exact opR_result (op := (BitVec.sshiftRight · _)) h rfl
  case h_23 => exact opRR_result (op := fun x y => b64 (x == y)) h (b64_eq _ _)
  case h_24 => exact opRR_result (op := fun x y => b64 (x != y)) h (b64_ne _ _)
  case h_25 => exact opRR_result (op := fun x y => b64 (x.slt y)) h (b64_slt _ _)
  case h_26 => exact opRR_result (op := fun x y => b64 (!x.slt y)) h (b64_sge _ _)
  case h_27 => exact opRR_result (op := fun x y => b64 (x.ult y)) h (b64_ult _ _)
  case h_28 => exact opRR_result (op := fun x y => b64 (!x.ult y)) h (b64_uge _ _)
  case h_29 => exact opR_result (op := fun x => b64 (x == _)) h (b64_eq _ _)
  case h_30 => exact opR_result (op := fun x => b64 (x != _)) h (b64_ne _ _)
  case h_31 => exact opR_result (op := fun x => b64 (x.slt _)) h ((b64_slt _ _).trans (by rw [toInt_imm12]))
  case h_32 => exact opR_result (op := fun x => b64 (!x.slt _)) h ((b64_sge _ _).trans (by rw [toInt_imm12]))
  case h_33 => exact opR_result (op := fun x => b64 (x.ult _)) h (b64_ult _ _)
  case h_34 => exact opR_result (op := fun x => b64 (!x.ult _)) h (b64_uge _ _)
  case h_35 => exact congrArg _ ((ez_issues h _).trans (by simp only [getG_awake, ne_eq, ite_not]))
  case h_36 => exact congrArg _ (ez_issues h _)
  case h_37 => exact congrArg _ ((ez_issues h _).trans (by simp only [getG_awake]; rfl))

end

/-! ### Control transfers (R81) -/

section
variable {s : State} {a : Agent} {ra rb : BitVec 5} {off : BitVec 16}

theorem branch_setPc {cond : W64 → W64 → Bool} {c : Prop} (h : s.issues a = true) (hc : cond (s.getG a ra) (s.getG a rb) = true ↔ c) :
    (c → branch cond a ra rb off s = .next ((s.awake a).setPc a (s.pcOf a + 4 * off.signExtend 64))) ∧
    (¬ c → branch cond a ra rb off s = .next ((s.awake a).setPc a (s.pcOf a + 4))) := by
  rw [branch, ez_issues h, getG_awake, getG_awake, adv, pcOf_awake, ← hc, BitVec.mul_comm]
  exact ⟨fun ht => by rw [if_pos ht], fun hf => by rw [if_neg hf]⟩

/-- A branch moves the pc to its target where its condition holds, else past it. -/
theorem exec_branchRow {i : Instr} {c : Prop} (hi : branchRow s i = some (a, c, off)) (h : s.issues a = true) :
    (c → exec i s = .next ((s.awake a).setPc a (s.pcOf a + 4 * off.signExtend 64))) ∧
    (¬ c → exec i s = .next ((s.awake a).setPc a (s.pcOf a + 4))) := by
  unfold branchRow at hi
  split at hi
  case h_7 => cases hi
  all_goals cases hi
  case h_1 => exact branch_setPc (cond := (· == ·)) h beq_iff_eq
  case h_2 => exact branch_setPc (cond := (· != ·)) h bne_iff_ne
  case h_3 => exact branch_setPc (cond := BitVec.slt) h decide_eq_true_iff
  case h_4 => exact branch_setPc (cond := fun x y => !x.slt y) h (by simp [BitVec.slt])
  case h_5 => exact branch_setPc (cond := BitVec.ult) h decide_eq_true_iff
  case h_6 => exact branch_setPc (cond := fun x y => !x.ult y) h (by simp [BitVec.ult])

theorem exec_jal (h : s.issues a = true) (rd : BitVec 5) (imm : BitVec 21) :
    exec (.jal a rd imm) s = .next (((s.awake a).wr a rd (s.pcOf a + 4)).setPc a (s.pcOf a + 4 * imm.signExtend 64)) := by
  refine congrArg _ ((ez_issues h _).trans ?_)
  rw [pcOf_awake, BitVec.mul_comm]

theorem exec_jalr (h : s.issues a = true) (rd ra : BitVec 5) (imm : BitVec 16) :
    exec (.jalr a rd ra imm) s = .next (if (s.getG a ra + imm.signExtend 64).toNat % 4 ≠ 0
      then (s.awake a).trapHere a 0x02 (s.getG a ra + imm.signExtend 64)
      else ((s.awake a).wr a rd (s.pcOf a + 4)).setPc a (s.getG a ra + imm.signExtend 64)) := by
  refine congrArg _ ((ez_issues h _).trans ?_)
  rw [getG_awake, pcOf_awake]

/-- Every instruction that decodes executes by `ez`, so its core fetches it first. -/
theorem exec_ez {i : Instr} (hc : coreOf i = some a) (hi : ∀ w, i ≠ .illegalInstruction a w) (s : State) :
    ∃ f, exec i s = .next (s.ez a f) := by
  unfold coreOf at hc
  split at hc
  case h_85 =>
    injection hc with hc
    subst hc
    exact absurd rfl (hi _)
  case h_86 => cases hc
  all_goals
    cases hc
    exact ⟨_, rfl⟩

/-- A fetch outside the route's code takes INSTRUCTION_FETCH (R55). -/
theorem ez_fetch_taken (hr : s.ready a = true) (hf : s.fetchOk a = false) (ht : trapReady a s = true) (f : State → State) :
    trapTaken a s (s.ez a f) 0x04 (s.pcOf a) (s.pcOf a) := by
  cases a with
  | dp r c =>
    obtain ⟨cid, hc⟩ := ready_cid hr
    have hez : s.ez (.dp r c) f = s.trapClimb cid 0x04 (s.pcOf (.dp r c)) (s.pcOf (.dp r c)) := by
      simp only [ez, hr, hf, awake, trapHere, ezTrap, hc, if_true, Bool.false_eq_true, if_false]
    rw [hez]
    exact trapClimb_taken hc ht _ _ _
  | mg m => cases hf

end

end State

/-- Settles O1: a row is a register result of its value (`exec_intRow`), whose effect is `result_spec`. -/
theorem integerRowsWriteTheirValue : Obligations.IntegerRowsWriteTheirValue :=
  fun _ _ _ rd v hi h hf => ⟨_, exec_intRow hi h, result_spec h hf rd v⟩

/-- Settles O2: branches and jumps move the pc by `setPc_spec` and `wr_setPc_spec`; the traps by `trapHere_taken` and `ez_fetch_taken`. -/
theorem controlTransfersMoveThePc : Obligations.ControlTransfersMoveThePc := by
  unfold Obligations.ControlTransfersMoveThePc
  refine ⟨fun s i a c off hi h hf => ?_, fun s a rd imm h hf => ⟨_, exec_jal h rd imm, wr_setPc_spec h hf rd _ _⟩,
    fun s a rd ra imm h hf hal => ?_, fun s a rd ra imm h ht hal => ?_, fun s i a hc hi hr hf ht => ?_⟩
  · obtain ⟨htaken, hpast⟩ := exec_branchRow hi h
    by_cases hcond : c
    · obtain ⟨hg, hpc, honly⟩ := setPc_spec h hf (s.pcOf a + 4 * off.signExtend 64)
      exact ⟨_, htaken hcond, fun _ => hpc, fun hn => absurd hcond hn, hg, honly⟩
    · obtain ⟨hg, hpc, honly⟩ := setPc_spec h hf (s.pcOf a + 4)
      exact ⟨_, hpast hcond, fun hy => absurd hy hcond, fun _ => hpc, hg, honly⟩
  · refine ⟨_, (exec_jalr h rd ra imm).trans (congrArg _ (if_neg (not_not.2 hal))), wr_setPc_spec h hf rd _ _⟩
  · exact ⟨_, (exec_jalr h rd ra imm).trans (congrArg _ (if_pos hal)), trapHere_taken h ht _ _⟩
  · obtain ⟨f, hrun⟩ := exec_ez hc hi s
    exact ⟨_, hrun, ez_fetch_taken hr hf ht f⟩

end Sys2Proof.Machine
end

section
/-! Accesses through a handle (O9) and atomics (O10). -/

open Sys2Proof Sys2Proof.Machine Sys2Proof.Machine.State

namespace Sys2Proof.Machine

namespace State

/-! ### Accesses through a handle (R77) -/

section
variable {s : State} {r c cid : Nat} {h : BitVec 4} {ra : BitVec 5} {size : BitVec 2} {imm : BitVec 10} {f : Nat → State → State}

/-- The first check of an access through a handle that fails, as the cause of its trap and its value (R77): a stale handle, a range
beyond the length, a misaligned address. -/
def hmFails (s : State) (cid : Nat) (hv : W64) (off n cause : Nat) (v : W64) : Prop :=
  (s.liveH (cid / 1024) hv = false ∧ cause = 0x06 ∧ v = hv) ∨
  (s.liveH (cid / 1024) hv = true ∧ hLen hv < off + n ∧ cause = 0x05 ∧ v = hv) ∨
  (s.liveH (cid / 1024) hv = true ∧ off + n ≤ hLen hv ∧ (s.hAddr (cid / 1024) hv + off) % n ≠ 0 ∧ cause = 0x02 ∧
    v = BitVec.ofNat 64 (s.hAddr (cid / 1024) hv + off))

theorem hmAccess_passes {a : Agent} {x : Nat} (hl : s.liveH (cid / 1024) (s.getH cid h) = true)
    (hr : (s.getG a ra).toNat + imm.toNat + 2 ^ size.toNat ≤ hLen (s.getH cid h))
    (hx : x = s.hAddr (cid / 1024) (s.getH cid h) + ((s.getG a ra).toNat + imm.toNat)) (ha : x % 2 ^ size.toNat = 0) :
    s.hmAccess a cid h ra size imm f = f x s := by
  unfold hmAccess
  dsimp only
  rw [if_neg (by simp [hl]), if_neg (by omega), ← hx, if_neg (not_not.2 ha)]

theorem hmAccess_fails {a : Agent} {cause : Nat} {v : W64}
    (hf : s.hmFails cid (s.getH cid h) ((s.getG a ra).toNat + imm.toNat) (2 ^ size.toNat) cause v) :
    s.hmAccess a cid h ra size imm f = s.trapHere a cause v := by
  unfold hmAccess
  dsimp only
  rcases hf with ⟨hl, rfl, rfl⟩ | ⟨hl, hr, rfl, rfl⟩ | ⟨hl, hr, ha, rfl, rfl⟩
  · rw [if_pos (by simp [hl])]
  · rw [if_neg (by simp [hl]), if_pos (by omega)]
  · rw [if_neg (by simp [hl]), if_neg (by omega), if_pos ha]

theorem exec_hld (hi : s.issues (.dp r c) = true) (hc : s.agentCid (.dp r c) = some cid) (rd : BitVec 5) :
    exec (.hld (.dp r c) rd h ra size imm) s = .next (s.hmAccess (.dp r c) cid h ra size imm
      (fun x u => u.result (.dp r c) rd (BitVec.ofNat 64 (leNat (u.rdBytes x (2 ^ size.toNat)))))) :=
  congrArg _ (ezClimb_issues hi hc _ _)

theorem exec_hst (hi : s.issues (.dp r c) = true) (hc : s.agentCid (.dp r c) = some cid) (rs : BitVec 5) :
    exec (.hst (.dp r c) rs h ra size imm) s = .next (s.hmAccess (.dp r c) cid h ra size imm
      (fun x u => (u.wrBytes x (leBytes (2 ^ size.toNat) (u.getG (.dp r c) rs).toNat)).adv (.dp r c))) :=
  congrArg _ (ezClimb_issues hi hc _ _)

/-- A store of a climb and the move past it touch memory and the climb's pc. -/
theorem wrBytes_adv_dp (hc : s.agentCid (.dp r c) = some cid) (x : Nat) (d : Bytes) : (s.wrBytes x d).adv (.dp r c) =
    { s.setClimb cid { s.climb cid with pc := (s.climb cid).pc + 4 } with mem := Mem.writeBytes s.mem x d } :=
  adv_dp (s := s.wrBytes x d) hc

end

/-! ### Instructions of climbs on a management core (R34) -/

/-- Do a word's opcode and function name an instruction of datapath cores alone: HLD, HST, the handle and token instructions, SEND, and
every climb instruction but FENCE (R34)? -/
def climbOnly (w : BitVec 32) : Prop :=
  (w.extractLsb' 26 6).toNat ∈ [0x14, 0x15, 0x20, 0x21, 0x22] ∨ ((w.extractLsb' 26 6).toNat = 0x23 ∧ (w.extractLsb' 0 3).toNat ≠ 4)

/-- On a management core such an instruction is illegal. -/
theorem exec_climbOnly {m : Nat} {i : Instr} {w : BitVec 32} (hc : coreOf i = some (.mg m)) (hw : ezEncode i = some w)
    (hop : climbOnly w) (s : State) : exec i s = .next (s.ez (.mg m) (fun t => t.illegal (.mg m) i)) := by
  unfold ezEncode at hw
  split at hw
  case h_85 => cases hw
  case h_46 | h_47 | h_61 | h_62 | h_63 | h_64 | h_65 | h_66 | h_67 | h_68 | h_69 | h_70 | h_71 | h_72 | h_73 =>
    cases hc
    rfl
  all_goals
    simp only [Option.some.injEq, formR_eq_iff, formI_eq_iff, formJ_eq_iff, formK_eq_iff, formF_eq_iff, formCL_eq_iff, formCS_eq_iff,
      formSY_eq_iff] at hw
    simp [climbOnly, hw] at hop

end State

/-- Settles O9: the checks by `hmAccess_passes` and `hmAccess_fails`, management cores by `exec_climbOnly`. -/
theorem handleAccessesReachTheBuffer : Obligations.HandleAccessesReachTheBuffer := by
  unfold Obligations.HandleAccessesReachTheBuffer
  refine ⟨?_, ?_, ?_, ?_⟩
  · rintro s r c cid x n rd ra h size imm hi hc hf rfl hl hr hx ha
    refine ⟨_, (exec_hld hi hc rd).trans (congrArg _ (hmAccess_passes hl hr hx ha)), ?_⟩
    exact result_spec hi hf rd _
  · rintro s r c cid x n rs ra h size imm hi hc rfl hm hl hr hx ha
    refine ⟨_, (exec_hst hi hc rs).trans (congrArg _ ((hmAccess_passes hl hr hx ha).trans (wrBytes_adv_dp hc x _))), ?_, fun y hy => ?_, rfl⟩
    · have := Mem.readBytes_writeBytes hm x (leBytes (2 ^ size.toNat) (s.getG (.dp r c) rs).toNat)
      rwa [leBytes_length] at this
    · exact Mem.read_writeBytes_other s.mem x _ (by rwa [leBytes_length])
  · rintro s r c cid n cause g ra h size imm v i hmem hi hc ht rfl hcase
    simp only [List.mem_cons, List.not_mem_nil, or_false] at hmem
    rcases hmem with rfl | rfl
    · exact ⟨_, (exec_hld hi hc g).trans (congrArg _ (hmAccess_fails hcase)), trapHere_taken hi ht cause v⟩
    · exact ⟨_, (exec_hst hi hc g).trans (congrArg _ (hmAccess_fails hcase)), trapHere_taken hi ht cause v⟩
  · rintro s m i hcore hi ht ⟨w, hw, hop⟩
    exact ⟨w, _, hw, (exec_climbOnly hcore hw hop s).trans (congrArg _ (ez_issues hi _)), illegal_taken hw hi ht⟩

/-! ### Atomics (R78) -/

namespace State

section
variable {s u : State} {a : Agent}

@[simp] theorem atomHome_awake (s : State) (a b : Agent) (x : Nat) : (s.awake a).atomHome b x = s.atomHome b x := by
  unfold atomHome
  rw [agentCid_awake]

/-- A register result after an access that left memory as `mm`. -/
theorem result_stored (h : s.issues a = true) (hf : s.filesWhole a = true) (hu : onlyCache (s.awake a) u) (mm : Tbl Byte)
    (rd : BitVec 5) (v : W64) :
    (({ u with mem := mm } : State).result a rd v).getG a rd = (if rd = 0 then 0 else v) ∧
    (∀ y, y ≠ rd → (({ u with mem := mm } : State).result a rd v).getG a y = s.getG a y) ∧
    (({ u with mem := mm } : State).result a rd v).pcOf a = s.pcOf a + 4 ∧ (({ u with mem := mm } : State).result a rd v).mem = mm := by
  obtain ⟨hg, hgo, hpc, -⟩ := wr_setPc_spec h hf rd v (s.pcOf a + 4)
  obtain ⟨rg, mp, st, fc, rfl⟩ := hu
  have e : ({ s.awake a with regs := rg, mapc := mp, stamp := st, freeCtr := fc, mem := mm } : State).result a rd v =
      { ((s.awake a).wr a rd v).setPc a (s.pcOf a + 4) with regs := rg, mapc := mp, stamp := st, freeCtr := fc, mem := mm } := by
    rw [result, adv, pcOf_wr, pcOf_frame (s.awake a) a, pcOf_awake s a, wr_frame (s.awake a) a]
  rw [e]
  exact ⟨(getG_frame _ a rd).trans hg, fun y hy => (getG_frame _ a y).trans (hgo y hy), (pcOf_frame _ a).trans hpc, rfl⟩

/-- The memory that an atomic leaves: what its operation gives, if anything, at its operand (R78). -/
def atomMem (s : State) (x n : Nat) : Option W64 → Tbl Byte
  | some v => Mem.writeBytes s.mem x (leBytes n v.toNat)
  | none => s.mem

@[simp] theorem atomMem_awake (s : State) (b : Agent) (x n : Nat) (o : Option W64) : (s.awake b).atomMem x n o = s.atomMem x n o := by
  cases o with
  | some v => rw [atomMem, mem_awake, atomMem]
  | none => exact mem_awake s b

/-- The bytes that an atomic may reach: DRAM with the map cache ready and no error in the line, or climb-local memory (R78). -/
def atomReach (s : State) (r : Region) (x : Nat) : Prop :=
  (r = .dram ∧ s.mapc.wiping = false ∧ x / 256 ∉ s.poisoned) ∨ ((∃ k, r = .store k) ∧ 512 ≤ x % 1024)

theorem atomReach.reachable {r : Region} {x : Nat} (h : s.atomReach r x) : s.reachable r x :=
  h.imp (fun ⟨h1, h2, _⟩ => ⟨h1, h2⟩) .inr

theorem atomReach.clean {r : Region} {x : Nat} (h : s.atomReach r x) (hr : r = .dram) : x / 256 ∉ s.poisoned := by
  subst hr
  rcases h with ⟨-, -, h⟩ | ⟨⟨k, h⟩, -⟩
  · exact h
  · cases h

/-- The store of an atomic, or its read alone (R78). -/
def atomStore (s : State) (r : Region) (x n : Nat) : Option W64 → State
  | some v => s.spaceWrite r x (leBytes n v.toNat)
  | none => if r = .dram then s.dramTouch x n false else s

theorem atomStore_mem {r : Region} {x : Nat} (hr : s.reachable r x) (n : Nat) (o : Option W64) :
    ∃ u, onlyCache s u ∧ s.atomStore r x n o = { u with mem := s.atomMem x n o } := by
  cases o with
  | some v => exact spaceWrite_mem hr (leBytes n v.toNat)
  | none =>
    have hu : onlyCache s (s.atomStore r x n none) := by
      rw [atomStore]
      split
      · exact dramTouch_onlyCache s x n false
      · exact .refl s
    refine ⟨_, hu, ?_⟩
    obtain ⟨rg, mp, st, fc, hu⟩ := hu
    rw [hu]
    rfl

/-- An atomic that passes its checks gives its old value to rd and stores what its operation gives. -/
theorem atomRun_mem {r : Region} {addr : W64} {w32 : Bool} {x n : Nat} (hn : n = if w32 then 4 else 8) (hx : x = addr.toNat)
    (hh : s.atomHome a x = true) (ha : x % n = 0) (hd : s.decodeAddr x n = some r)
    (hw : s.wardOk (s.profileOf (masterOf a)) (s.agentCid a) r x n true = true) (hr : s.atomReach r x) (rd : BitVec 5) (op : W64 → Option W64) :
    ∃ u, onlyCache (s.awake a) u ∧ (s.awake a).atomRun a rd addr w32 op =
      ({ u with mem := s.atomMem x n (op (BitVec.ofNat 64 (leNat (Mem.readBytes s.mem x n)))) } : State).result a rd
        (BitVec.ofNat 64 (leNat (Mem.readBytes s.mem x n))) := by
  have hacc : (s.awake a).coreAcc a x n true = .mem r := coreAcc_mem_awake hd hr.reachable.ne_ctl hw hr.reachable.ready
  have hlost : (decide (r = .dram) && (s.awake a).dataLost x .none) = false := by
    by_cases h : r = .dram
    · simp [h, dataLost, hr.clean h]
    · simp [h]
  have hecc : (s.awake a).eccTouch r x false .none = s.awake a := by
    unfold eccTouch
    by_cases h : r = .dram
    · simp [h, faultAt, eccAct, hr.clean h]
    · simp [h]
  have hrun : (s.awake a).atomRun a rd addr w32 op =
      ((s.awake a).atomStore r x n (op (BitVec.ofNat 64 (leNat (Mem.readBytes s.mem x n))))).result a rd
        (BitVec.ofNat 64 (leNat (Mem.readBytes s.mem x n))) := by
    unfold atomRun
    dsimp only
    rw [← hx, ← hn, if_neg (by simp [hh]), if_neg (not_not.2 ha), hacc]
    dsimp only
    rw [hlost, hecc, rdBytes, mem_awake]
    rfl
  obtain ⟨u, hu, hstore⟩ := atomStore_mem (reachable_awake a hr.reachable) n (op (BitVec.ofNat 64 (leNat (Mem.readBytes s.mem x n))))
  refine ⟨u, hu, ?_⟩
  rw [hrun, hstore, atomMem_awake]

/-- The atomics with what each stores: the operation on the old value (R78). -/
def atomics (s : State) (a : Agent) (rd ra rb : BitVec 5) (w : Bool) : List (Instr × (W64 → Option W64)) :=
  [(.aadd a rd ra rb w, fun old => some (atomPart w (old + s.getG a rb))), (.axchg a rd ra rb w, fun _ => some (atomPart w (s.getG a rb))),
   (.acas a rd ra rb w, fun old => if old = atomPart w (s.getG a rd) then some (atomPart w (s.getG a rb)) else none)]

theorem exec_atomic {rd ra rb : BitVec 5} {w : Bool} {p : Instr × (W64 → Option W64)} (hp : p ∈ s.atomics a rd ra rb w)
    (h : s.issues a = true) : exec p.1 s = .next ((s.awake a).atomRun a rd (s.getG a ra) w p.2) := by
  simp only [atomics, List.mem_cons, List.not_mem_nil, or_false] at hp
  rcases hp with rfl | rfl | rfl
  all_goals
    refine congrArg _ ((ez_issues h _).trans ?_)
    simp only [getG_awake]

theorem atomPart_toNat {w32 : Bool} {n : Nat} (hn : n = if w32 then 4 else 8) (v : W64) : (atomPart w32 v).toNat = v.toNat % 256 ^ n := by
  cases w32 with
  | true =>
    subst hn
    exact (BitVec.toNat_and _ _).trans (Nat.and_two_pow_sub_one_eq_mod v.toNat 32)
  | false =>
    subst hn
    exact (Nat.mod_eq_of_lt v.isLt).symm

theorem leNat_lt (l : Bytes) : leNat l < 256 ^ l.length := by
  induction l with
  | nil => simp [leNat]
  | cons b l ih =>
    have := b.isLt
    rw [List.length_cons, Nat.pow_succ, leNat]
    omega

theorem leNat_atomMem {x n : Nat} (hm : Mem.wf s.mem = true) (o : Option W64) :
    leNat (Mem.readBytes (s.atomMem x n o) x n) = (o.map (fun v => v.toNat % 256 ^ n)).getD (leNat (Mem.readBytes s.mem x n)) ∧
    ∀ y, y < x ∨ x + n ≤ y → Mem.read (s.atomMem x n o) y = Mem.read s.mem y := by
  cases o with
  | none => exact ⟨rfl, fun _ _ => rfl⟩
  | some v =>
    have hread := Mem.readBytes_writeBytes hm x (leBytes n v.toNat)
    rw [leBytes_length] at hread
    refine ⟨?_, fun y hy => Mem.read_writeBytes_other s.mem x _ (by rwa [leBytes_length])⟩
    rw [atomMem, hread, leNat_leBytes]
    rfl

/-- What R78 stores of each atomic, as a number of the operand's width. -/
theorem atomics_stored {rd ra rb : BitVec 5} {w : Bool} {n old : Nat} {p : Instr × Option Nat} (hn : n = if w then 4 else 8)
    (hold : old < 256 ^ n)
    (hp : p ∈ [(.aadd a rd ra rb w, some ((old + (s.getG a rb).toNat) % 256 ^ n)), (.axchg a rd ra rb w, some ((s.getG a rb).toNat % 256 ^ n)),
      (.acas a rd ra rb w, if old = (s.getG a rd).toNat % 256 ^ n then some ((s.getG a rb).toNat % 256 ^ n) else none)]) :
    ∃ op, (p.1, op) ∈ s.atomics a rd ra rb w ∧ (op (BitVec.ofNat 64 old)).map (fun v => v.toNat % 256 ^ n) = p.2 := by
  have hpart (v : W64) : (atomPart w v).toNat % 256 ^ n = v.toNat % 256 ^ n := by rw [atomPart_toNat hn, Nat.mod_mod]
  have hdvd : 256 ^ n ∣ 2 ^ 64 := by cases w <;> subst hn <;> decide
  have h64 : old < 2 ^ 64 := lt_of_lt_of_le hold (Nat.le_of_dvd (by decide) hdvd)
  simp only [List.mem_cons, List.not_mem_nil, or_false] at hp
  rcases hp with rfl | rfl | rfl
  · refine ⟨_, .head _, congrArg some ((hpart _).trans ?_)⟩
    rw [BitVec.toNat_add, BitVec.toNat_ofNat, Nat.mod_eq_of_lt h64, Nat.mod_mod_of_dvd _ hdvd]
  · exact ⟨_, .tail _ (.head _), congrArg some (hpart _)⟩
  · refine ⟨_, .tail _ (.tail _ (.head _)), ?_⟩
    have hcmp : BitVec.ofNat 64 old = atomPart w (s.getG a rd) ↔ old = (s.getG a rd).toNat % 256 ^ n := by
      rw [← BitVec.toNat_inj, atomPart_toNat hn, BitVec.toNat_ofNat, Nat.mod_eq_of_lt h64]
    simp only [hcmp]
    split
    · exact congrArg some (hpart _)
    · rfl

/-- An atomic outside DRAM and its own local memory, then a misaligned one, takes its trap (R78, log entry 12). -/
theorem atomRun_fails {rd : BitVec 5} {addr : W64} {w32 : Bool} {x n cause : Nat} (hn : n = if w32 then 4 else 8) (hx : x = addr.toNat)
    (hf : (s.atomHome a x = false ∧ cause = 0x0A) ∨ (s.atomHome a x = true ∧ x % n ≠ 0 ∧ cause = 0x02)) (op : W64 → Option W64) :
    s.atomRun a rd addr w32 op = s.trapHere a cause addr := by
  unfold atomRun
  dsimp only
  rw [← hx, ← hn]
  rcases hf with ⟨hh, rfl⟩ | ⟨hh, ha, rfl⟩
  · rw [if_pos (by simp [hh])]
  · rw [if_neg (by simp [hh]), if_pos ha]

/-- An atomic that the wards forbid as a write is a ward violation (R78, R474). -/
theorem atomRun_violates {rd : BitVec 5} {addr : W64} {w32 : Bool} {x n : Nat} {g : Region} (hn : n = if w32 then 4 else 8)
    (hx : x = addr.toNat) (hh : s.atomHome a x = true) (ha : x % n = 0) (hd : s.decodeAddr x n = some g) (hg : g ≠ .ctl)
    (hw : s.wardOk (s.profileOf (masterOf a)) (s.agentCid a) g x n true = false) (op : W64 → Option W64) :
    s.atomRun a rd addr w32 op = s.violate (masterOf a) x true none := by
  unfold atomRun
  dsimp only
  rw [← hx, ← hn, if_neg (by simp [hh]), if_neg (not_not.2 ha), coreAcc_ne_ctl hd hg, if_neg (by simp [hw])]

/-- The atomics of the operands are those of `atomics`. -/
theorem exists_atomics {rd ra rb : BitVec 5} {w : Bool} {i : Instr}
    (hi : i ∈ [.aadd a rd ra rb w, .axchg a rd ra rb w, .acas a rd ra rb w]) : ∃ op, (i, op) ∈ s.atomics a rd ra rb w := by
  simp only [List.mem_cons, List.not_mem_nil, or_false] at hi
  rcases hi with rfl | rfl | rfl
  · exact ⟨_, .head _⟩
  · exact ⟨_, .tail _ (.head _)⟩
  · exact ⟨_, .tail _ (.tail _ (.head _))⟩

end

end State

/-- Settles O10: an atomic that passes by `atomRun_mem`, its traps by `atomRun_fails`, a forbidden one by `atomRun_violates`. -/
theorem atomicsReadAndWriteAtOnce : Obligations.AtomicsReadAndWriteAtOnce := by
  unfold Obligations.AtomicsReadAndWriteAtOnce
  refine ⟨?_, ?_, ?_⟩
  · intro s a rd ra rb w p x n old r hn hx hold hp hi hf hwf hh ha hd hw hr
    have hlt : old < 256 ^ n := by
      rw [hold]
      simpa [Mem.readBytes_eq_map] using leNat_lt (Mem.readBytes s.mem x n)
    obtain ⟨op, hop, hval⟩ := atomics_stored hn hlt hp
    obtain ⟨u, hu, hrun⟩ := atomRun_mem hn hx hh ha hd hw hr rd op
    rw [← hold] at hrun
    obtain ⟨hrd, hother, hpc, hmem⟩ := result_stored hi hf hu (s.atomMem x n (op (BitVec.ofNat 64 old))) rd (BitVec.ofNat 64 old)
    obtain ⟨hstored, houtside⟩ := leNat_atomMem hwf (x := x) (n := n) (op (BitVec.ofNat 64 old))
    refine ⟨_, (exec_atomic hop hi).trans (congrArg _ hrun), hrd, hother, hpc, ?_, fun y hy => ?_⟩
    · rw [hmem, hstored, hval, hold]
    · rw [hmem, houtside y hy]
  · intro s a rd ra rb w i x n cause hi hn hx h ht hcase
    obtain ⟨op, hop⟩ := exists_atomics (s := s) hi
    refine ⟨_, (exec_atomic hop h).trans (congrArg _ (atomRun_fails hn hx ?_ op)), trapHere_taken h ht cause _⟩
    rwa [atomHome_awake]
  · intro s r c rd ra rb w i x n g hi hn hx h hh ha hd hg hw
    obtain ⟨op, hop⟩ := exists_atomics (s := s) hi
    exact (exec_atomic hop h).trans (congrArg _ (atomRun_violates hn hx hh ha hd hg hw op))

end Sys2Proof.Machine
end

section
/-! CHK jobs (O13): the scans of R108 and R109 under a full output. -/

open Sys2Proof Sys2Proof.Machine Sys2Proof.Machine.State

namespace Sys2Proof.Machine

/-! ### The scans -/

theorem shiftLeft_one (x : W64) : x <<< 1 = x * 2 := by
  rw [BitVec.shiftLeft_eq_mul_twoPow]
  rfl

/-- The scan that has found what the loop of R108 holds. -/
def scanOf (x : Cdc) : Scan := { ends := x.ends.reverse, hash := x.hash, len := x.l, max := x.maxs, full := false }

/-- A scan with room for `cap` boundaries against the loop of R108: it found what the loop holds, or stopped full at the first `cap`. -/
def State.Scan.follows (cap : Nat) (x : Cdc) (k : Scan) : Prop :=
  (x.ends.length ≤ cap → k = scanOf x) ∧
  (cap < x.ends.length → k.full = true ∧ k.ends = (x.ends.take cap).reverse ∧ k.max ≤ cap)

section
variable {minL maxL t cap : Nat}

/-- The loop only adds boundaries. -/
theorem Cdc.ends_prefix (d : Bytes) (x : Cdc) : x.ends <+: (d.foldl (Cdc.next minL maxL t) x).ends := by
  induction d generalizing x with
  | nil => exact List.prefix_rfl
  | cons b d ih =>
    refine List.IsPrefix.trans ?_ (ih _)
    unfold Cdc.next
    dsimp only
    split
    · exact List.prefix_append _ _
    · exact List.prefix_rfl

theorem cdcScan_follows (d : Bytes) (x : Cdc) (hroom : x.ends.length ≤ cap) (hmax : x.maxs ≤ x.ends.length) :
    Scan.follows cap (d.foldl (Cdc.next minL maxL t) x) (cdcScan minL maxL t cap x.p d (scanOf x)) := by
  induction d generalizing x with
  | nil => exact ⟨fun _ => rfl, fun h => absurd h (by simpa using hroom)⟩
  | cons b d ih =>
    by_cases hcut : (minL ≤ x.l + 1 ∧ ((x.hash * 2 + gear b) >>> 32).toNat < t) ∨ x.l + 1 = maxL
    · have hnext : Cdc.next minL maxL t x b =
          { hash := 0, l := 0, ends := x.ends ++ [x.p + 1], p := x.p + 1, maxs := x.maxs + (if x.l + 1 = maxL then 1 else 0) } := if_pos hcut
      by_cases hlt : x.ends.length < cap
      · have hscan : cdcScan minL maxL t cap x.p (b :: d) (scanOf x) =
            cdcScan minL maxL t cap (Cdc.next minL maxL t x b).p d (scanOf (Cdc.next minL maxL t x b)) := by
          rw [hnext]
          simp only [cdcScan, scanOf, shiftLeft_one, if_pos hcut, List.length_reverse, if_pos hlt, List.reverse_append, List.reverse_cons,
            List.reverse_nil, List.nil_append, List.singleton_append]
          rfl
        rw [hscan, List.foldl_cons]
        refine ih _ ?_ ?_
        · rw [hnext]
          simpa using hlt
        · rw [hnext]
          simp only [List.length_append, List.length_singleton]
          split <;> omega
      · have hfull : cdcScan minL maxL t cap x.p (b :: d) (scanOf x) = { scanOf x with full := true } := by
          simp only [cdcScan, scanOf, shiftLeft_one, if_pos hcut, List.length_reverse, if_neg hlt]
        obtain ⟨l, hl⟩ := Cdc.ends_prefix (minL := minL) (maxL := maxL) (t := t) d (Cdc.next minL maxL t x b)
        have hends : (List.foldl (Cdc.next minL maxL t) x (b :: d)).ends = x.ends ++ (x.p + 1) :: l := by
          rw [List.foldl_cons, ← hl, hnext, List.append_assoc, List.singleton_append]
        have hcap : x.ends.length = cap := by omega
        rw [hfull]
        refine ⟨fun h => ?_, fun _ => ⟨rfl, ?_, by rw [← hcap]; exact hmax⟩⟩
        · rw [hends, List.length_append, List.length_cons] at h
          omega
        · rw [hends, ← hcap, List.take_left]
          rfl
    · have hscan : cdcScan minL maxL t cap x.p (b :: d) (scanOf x) =
          cdcScan minL maxL t cap (Cdc.next minL maxL t x b).p d (scanOf (Cdc.next minL maxL t x b)) := by
        simp only [cdcScan, scanOf, Cdc.next, shiftLeft_one, if_neg hcut]
      rw [hscan, List.foldl_cons]
      have hnext : Cdc.next minL maxL t x b = { x with hash := x.hash * 2 + gear b, l := x.l + 1, p := x.p + 1 } := if_neg hcut
      exact ih _ (by rw [hnext]; exact hroom) (by rw [hnext]; exact hmax)

/-- The last line of R108: the end of the input closes an open chunk. -/
def Cdc.close (n : Nat) (x : Cdc) : Cdc := if 0 < x.l then { x with hash := 0, l := 0, ends := x.ends ++ [n] } else x

theorem scanFinal_follows {x : Cdc} {k : Scan} (h : Scan.follows cap x k) (hmax : x.maxs ≤ x.ends.length) (n : Nat) :
    Scan.follows cap (x.close n) (scanFinal cap n false k) := by
  obtain ⟨hroom, hfull⟩ := h
  by_cases hle : x.ends.length ≤ cap
  · rw [hroom hle]
    by_cases hl : 0 < x.l
    · have hclose : x.close n = { x with hash := 0, l := 0, ends := x.ends ++ [n] } := if_pos hl
      have hopen : ¬ ((scanOf x).full = true ∨ (scanOf x).len = 0) := by simp [scanOf]; omega
      rw [hclose, scanFinal, if_neg hopen]
      by_cases hlt : x.ends.length < cap
      · refine ⟨fun _ => ?_, fun h => absurd h (by simp; omega)⟩
        simp [scanOf, hlt]
      · have hcap : x.ends.length = cap := by omega
        refine ⟨fun h => absurd h (by simp; omega), fun _ => ?_⟩
        simp [scanOf, ← hcap, hmax]
    · have hclose : x.close n = x := if_neg hl
      have hshut : (scanOf x).full = true ∨ (scanOf x).len = 0 := .inr (by simp [scanOf]; omega)
      rw [hclose, scanFinal, if_pos hshut]
      exact ⟨fun _ => rfl, fun hlt => absurd hle (by omega)⟩
  · obtain ⟨hf, hends, hm⟩ := hfull (by omega)
    have hlonger : x.ends <+: (x.close n).ends := by
      unfold Cdc.close
      split
      · exact List.prefix_append _ _
      · exact List.prefix_rfl
    obtain ⟨l, hl⟩ := hlonger
    rw [scanFinal, if_pos (.inl hf)]
    refine ⟨fun h => ?_, fun _ => ⟨hf, ?_, hm⟩⟩
    · rw [← hl, List.length_append] at h
      omega
    · rw [← hl, List.take_append_of_le_length (by omega), hends]

/-! ### The scan of R109 -/

/-- The fixed scan is that of R108 with no hash test, the hash and the count of cuts left alone. -/
theorem fixedScan_eq (d : Bytes) (p : Nat) (k k' : Scan) (he : k'.ends = k.ends) (hl : k'.len = k.len) (hf : k'.full = k.full) :
    fixedScan maxL cap p d k = { cdcScan 0 maxL 0 cap p d k' with hash := k.hash, max := k.max } := by
  induction d generalizing p k k' with
  | nil =>
    obtain ⟨e, h, l, m, f⟩ := k
    simp_all [fixedScan, cdcScan]
  | cons b d ih =>
    by_cases hcut : k.len + 1 = maxL
    · by_cases hlt : k.ends.length < cap
      · simp only [fixedScan, cdcScan, hl, he, hcut, hlt, if_true, or_true]
        exact ih _ _ _ (by simp) (by simp) hf
      · simp only [fixedScan, cdcScan, hl, he, hcut, hlt, if_true, or_true, if_false]
    · simp only [fixedScan, cdcScan, hl, hcut, if_false, Nat.not_lt_zero, and_false, or_false]
      exact ih _ _ _ he (by simp) hf

theorem scanFinal_fixed (n : Nat) (k : Scan) (h : W64) (m : Nat) :
    scanFinal cap n true { k with hash := h, max := m } = { scanFinal cap n false k with hash := h, max := m } := by
  unfold scanFinal
  split
  · rfl
  · split <;> rfl

/-- The boundaries of R109 in the first `len` bytes: each end at which the chunk carried in and the bytes fill chunks of MAX_LEN. -/
def fixedEnds (maxL carry len : Nat) : List Nat :=
  (List.range (len + 1)).filter (fun p => decide (0 < p) && decide ((carry + p) % maxL = 0))

theorem fixedEnds_succ (carry len : Nat) : fixedEnds maxL carry (len + 1) =
    fixedEnds maxL carry len ++ if (carry + (len + 1)) % maxL = 0 then [len + 1] else [] := by
  rw [fixedEnds, List.range_succ, List.filter_append, fixedEnds]
  by_cases h : (carry + (len + 1)) % maxL = 0 <;> simp [h]

theorem succ_mod_eq (m n : Nat) (hm : 0 < m) : (n + 1) % m = if n % m + 1 = m then 0 else n % m + 1 := by
  have hn := Nat.div_add_mod n m
  have hlt := Nat.mod_lt n hm
  split
  · next h =>
    rw [show n + 1 = m * (n / m + 1) by rw [Nat.mul_add]; omega, Nat.mul_mod_right]
  · rw [show n + 1 = m * (n / m) + (n % m + 1) by omega, Nat.mul_add_mod, Nat.mod_eq_of_lt (by omega)]

/-- What the loop of R108 holds after `n` bytes where the hash is never tested. -/
def Cdc.fixedAfter (maxL carry n : Nat) (x : Cdc) : Prop :=
  x.ends = fixedEnds maxL carry n ∧ x.l = (carry + n) % maxL ∧ x.p = n

theorem fixedAfter_next {carry n : Nat} (hm : 0 < maxL) {x : Cdc} (hx : x.fixedAfter maxL carry n) (b : Byte) :
    (Cdc.next 0 maxL 0 x b).fixedAfter maxL carry (n + 1) := by
  obtain ⟨hends, hl, hp⟩ := hx
  have hsucc := succ_mod_eq maxL (carry + n) hm
  rw [← hl] at hsucc
  by_cases hcut : x.l + 1 = maxL
  · have hmod : (carry + (n + 1)) % maxL = 0 := hsucc.trans (if_pos hcut)
    have hnext : (Cdc.next 0 maxL 0 x b).ends = x.ends ++ [x.p + 1] ∧ (Cdc.next 0 maxL 0 x b).l = 0 ∧
        (Cdc.next 0 maxL 0 x b).p = x.p + 1 := by
      unfold Cdc.next
      simp only [hcut, or_true, if_true, and_self]
    obtain ⟨h1, h2, h3⟩ := hnext
    refine ⟨?_, by rw [h2, hmod], by rw [h3, hp]⟩
    rw [h1, hends, hp, fixedEnds_succ, if_pos hmod]
  · have hmod : (carry + (n + 1)) % maxL = x.l + 1 := hsucc.trans (if_neg hcut)
    have hnext : (Cdc.next 0 maxL 0 x b).ends = x.ends ∧ (Cdc.next 0 maxL 0 x b).l = x.l + 1 ∧
        (Cdc.next 0 maxL 0 x b).p = x.p + 1 := by
      unfold Cdc.next
      simp only [hcut, Nat.not_lt_zero, and_false, or_false, if_false, and_self]
    obtain ⟨h1, h2, h3⟩ := hnext
    refine ⟨?_, by rw [h2, hmod], by rw [h3, hp]⟩
    rw [h1, hends, fixedEnds_succ, if_neg (by omega), List.append_nil]

theorem foldl_next_fixed {carry : Nat} (hc : carry < maxL) {x : Cdc} (hx : x.fixedAfter maxL carry 0) (d : Bytes) :
    (d.foldl (Cdc.next 0 maxL 0) x).fixedAfter maxL carry d.length := by
  induction d using List.reverseRecOn with
  | nil => exact hx
  | append_singleton d b ih =>
    rw [List.foldl_append, List.length_append, List.foldl_cons, List.foldl_nil, List.length_singleton]
    exact fixedAfter_next (by omega) ih b

/-! ### A CHK job -/

theorem maxs_le_ends (d : Bytes) {x : Cdc} (h : x.maxs ≤ x.ends.length) :
    (d.foldl (Cdc.next minL maxL t) x).maxs ≤ (d.foldl (Cdc.next minL maxL t) x).ends.length := by
  refine List.foldlRecOn (motive := fun y : Cdc => y.maxs ≤ y.ends.length) d _ h fun y hy b _ => ?_
  unfold Cdc.next
  dsimp only
  split
  · simp only [List.length_append, List.length_singleton]
    split <;> omega
  · exact hy

/-- What the loop of R108 holds at the start of a job. -/
def Cdc.start (hash : W64) (carry : Nat) : Cdc := { hash := hash, l := carry, ends := [], p := 0, maxs := 0 }

theorem run_eq (minL maxL t : Nat) (hash : W64) (carry : Nat) (final : Bool) (d : Bytes) :
    Cdc.run minL maxL t hash carry final d =
      if final then (d.foldl (Cdc.next minL maxL t) (Cdc.start hash carry)).close d.length
      else d.foldl (Cdc.next minL maxL t) (Cdc.start hash carry) := by
  unfold Cdc.run
  generalize hx : d.foldl (Cdc.next minL maxL t) (Cdc.start hash carry) = x
  rw [Cdc.start] at hx
  rw [hx]
  cases final with
  | true => simp only [true_and, if_true, Cdc.close]
  | false => simp only [Bool.false_eq_true, false_and, if_false]

/-- What R109 emits and carries out: `Cdc.run` where the hash is never tested. -/
theorem run_fixed {carry : Nat} (hc : carry < maxL) (hash : W64) (final : Bool) (d : Bytes) :
    (Cdc.run 0 maxL 0 hash carry final d).ends = fixedEnds maxL carry d.length ++
      (if final = true ∧ (carry + d.length) % maxL ≠ 0 then [d.length] else []) ∧
    (Cdc.run 0 maxL 0 hash carry final d).l = if final then 0 else (carry + d.length) % maxL := by
  have hx : (Cdc.start hash carry).fixedAfter maxL carry 0 := ⟨rfl, (Nat.mod_eq_of_lt hc).symm, rfl⟩
  obtain ⟨hends, hl, -⟩ := foldl_next_fixed hc hx d
  rw [run_eq]
  generalize d.foldl (Cdc.next 0 maxL 0) (Cdc.start hash carry) = x at hends hl
  cases final with
  | true =>
    simp only [if_true, true_and, Cdc.close]
    split
    · next h => exact ⟨by rw [if_pos (by omega), hends], rfl⟩
    · next h => exact ⟨by rw [if_neg (by omega), hends, List.append_nil], by omega⟩
  | false => simp [hends, hl]

end

namespace State

/-- The scan of a CHK job. -/
def chkScan (s : State) (j : Job) (fixed : Bool) : Scan :=
  let cap := (hLen (jh j 1) - 16) / 4
  let k0 : Scan := { ends := [], hash := BitVec.ofNat 64 (fieldAt j.desc 0x10 8), len := fieldAt j.desc 0x0C 4, max := 0, full := false }
  let k1 := if fixed then fixedScan (fieldAt j.desc 8 4) cap 0 (s.hBytes j.ridge (jh j 0)) k0
    else cdcScan (fieldAt j.desc 4 4) (fieldAt j.desc 8 4) (2 ^ 32 / (2 ^ fieldAt j.desc 2 1 - fieldAt j.desc 4 4)) cap 0
      (s.hBytes j.ridge (jh j 0)) k0
  if bit (fieldAt j.desc 3 1) 0 then scanFinal cap (s.hBytes j.ridge (jh j 0)).length fixed k1 else k1

/-- The end of a CHK job after its scan. -/
def chkEnd (s : State) (n : Nat) (j : Job) (k : Scan) : State :=
  let (h, c) := if k.full then
      (if k.ends.length = 0 then (BitVec.ofNat 64 (fieldAt j.desc 0x10 8), fieldAt j.desc 0x0C 4) else (0, 0))
    else (k.hash, k.len)
  let b := ridgeBlk j.ridge 5
  let s1 := s.hWrite j.ridge (jh j 1) 0
    (leBytes 8 h.toNat ++ leBytes 4 c ++ leBytes 4 k.ends.length ++ k.ends.reverse.flatMap (leBytes 4))
  let s2 := ((s1.bump b 0 64 (if k.full then k.ends.headD 0 else (s.hBytes j.ridge (jh j 0)).length)).bump
    (b + 8) 0 64 k.ends.length).bump (b + 0x10) 0 64 k.max
  if k.full then (s2.raise (b + 0x18) 1).finish n j 0x10 k.ends.length else s2.finish n j 0 k.ends.length

theorem chkRun_eq (s : State) (n : Nat) (j : Job) (fixed : Bool) : s.chkRun n j fixed = s.chkEnd n j (s.chkScan j fixed) := rfl

section
variable {s : State} {n : Nat} {j : Job} {fixed : Bool}

theorem hBytes_length (s : State) (ridge : Nat) (h : W64) : (s.hBytes ridge h).length = hLen h := by
  simp [hBytes, rdBytes, Mem.readBytes_eq_map]

theorem fieldAt_lt (l : Bytes) (o n : Nat) : fieldAt l o n < 256 ^ n :=
  lt_of_lt_of_le (leNat_lt _) (Nat.pow_le_pow_right (by decide) (List.length_take_le _ _))

theorem toNat_field8 (l : Bytes) (o : Nat) : (BitVec.ofNat 64 (fieldAt l o 8)).toNat = fieldAt l o 8 := by
  have := fieldAt_lt l o 8
  rw [BitVec.toNat_ofNat, Nat.mod_eq_of_lt (by omega)]

theorem headD_reverse (e : List Nat) : e.reverse.headD 0 = e.getLastD 0 := by
  rw [List.headD_eq_head?_getD, List.head?_reverse, List.getLastD_eq_getLast?]

/-- A scan that found a place for every boundary. -/
theorem chkEnd_room (e : List Nat) (h : W64) (c m : Nat) :
    s.chkEnd n j { ends := e.reverse, hash := h, len := c, max := m, full := false } =
      ((((s.hWrite j.ridge (jh j 1) 0 (leBytes 8 h.toNat ++ leBytes 4 c ++ leBytes 4 e.length ++ e.flatMap (leBytes 4))).bump
        (ridgeBlk j.ridge 5) 0 64 (hLen (jh j 0))).bump (ridgeBlk j.ridge 5 + 8) 0 64 e.length).bump
        (ridgeBlk j.ridge 5 + 0x10) 0 64 m).finish n j 0 e.length := by
  simp only [chkEnd, Bool.false_eq_true, if_false, List.length_reverse, List.reverse_reverse, hBytes_length]

/-- A scan that stopped with the output full. -/
theorem chkEnd_full {k : Scan} {e : List Nat} (hf : k.full = true) (he : k.ends = e.reverse) :
    s.chkEnd n j k =
      (((((s.hWrite j.ridge (jh j 1) 0
        ((if e = [] then leBytes 8 (fieldAt j.desc 0x10 8) ++ leBytes 4 (fieldAt j.desc 0x0C 4) else zeros 12)
          ++ leBytes 4 e.length ++ e.flatMap (leBytes 4))).bump (ridgeBlk j.ridge 5) 0 64 (e.getLastD 0)).bump
        (ridgeBlk j.ridge 5 + 8) 0 64 e.length).bump (ridgeBlk j.ridge 5 + 0x10) 0 64 k.max).raise (ridgeBlk j.ridge 5 + 0x18) 1).finish
        n j 0x10 e.length := by
  simp only [chkEnd, hf, he, if_true, List.length_reverse, List.reverse_reverse, headD_reverse, List.length_eq_zero_iff]
  by_cases hn : e = []
  · simp only [hn, if_true, toNat_field8]
  · simp only [hn, if_false]
    rfl

theorem chkScan_follows : Scan.follows ((hLen (jh j 1) - 16) / 4)
    (Cdc.run (fieldAt j.desc 4 4) (fieldAt j.desc 8 4) (2 ^ 32 / (2 ^ fieldAt j.desc 2 1 - fieldAt j.desc 4 4))
      (BitVec.ofNat 64 (fieldAt j.desc 0x10 8)) (fieldAt j.desc 0x0C 4) (bit (fieldAt j.desc 3 1) 0) (s.hBytes j.ridge (jh j 0)))
    (s.chkScan j false) := by
  have hscan := cdcScan_follows (minL := fieldAt j.desc 4 4) (maxL := fieldAt j.desc 8 4)
    (t := 2 ^ 32 / (2 ^ fieldAt j.desc 2 1 - fieldAt j.desc 4 4)) (cap := (hLen (jh j 1) - 16) / 4) (s.hBytes j.ridge (jh j 0))
    (Cdc.start (BitVec.ofNat 64 (fieldAt j.desc 0x10 8)) (fieldAt j.desc 0x0C 4)) (Nat.zero_le _) (Nat.zero_le _)
  rw [run_eq]
  unfold chkScan
  split
  · exact scanFinal_follows hscan (maxs_le_ends _ (Nat.zero_le _)) _
  · exact hscan

/-- The scan of a job in fixed mode is that of R108 with no hash test, its hash as carried and no cuts counted. -/
theorem chkScan_fixed : ∃ k, s.chkScan j true = { k with hash := BitVec.ofNat 64 (fieldAt j.desc 0x10 8), max := 0 } ∧
    Scan.follows ((hLen (jh j 1) - 16) / 4)
      (Cdc.run 0 (fieldAt j.desc 8 4) 0 (BitVec.ofNat 64 (fieldAt j.desc 0x10 8)) (fieldAt j.desc 0x0C 4) (bit (fieldAt j.desc 3 1) 0)
        (s.hBytes j.ridge (jh j 0))) k := by
  have hscan := cdcScan_follows (minL := 0) (maxL := fieldAt j.desc 8 4) (t := 0) (cap := (hLen (jh j 1) - 16) / 4)
    (s.hBytes j.ridge (jh j 0)) (Cdc.start (BitVec.ofNat 64 (fieldAt j.desc 0x10 8)) (fieldAt j.desc 0x0C 4)) (Nat.zero_le _) (Nat.zero_le _)
  have hfix := fixedScan_eq (maxL := fieldAt j.desc 8 4) (cap := (hLen (jh j 1) - 16) / 4) (s.hBytes j.ridge (jh j 0)) 0
    (scanOf (Cdc.start (BitVec.ofNat 64 (fieldAt j.desc 0x10 8)) (fieldAt j.desc 0x0C 4))) _ rfl rfl rfl
  rw [run_eq]
  unfold chkScan
  by_cases hfin : bit (fieldAt j.desc 3 1) 0 = true
  · simp only [hfin, if_true]
    exact ⟨_, (congrArg _ hfix).trans (scanFinal_fixed _ _ _ _), scanFinal_follows hscan (maxs_le_ends _ (Nat.zero_le _)) _⟩
  · simp only [hfin, if_true]
    exact ⟨_, hfix, hscan⟩

@[simp] theorem raise_mem (s : State) (off m : Nat) : (s.raise off m).mem = s.mem := by
  obtain ⟨r, p, o, h⟩ := raise_frame s off m
  rw [h]

@[simp] theorem raise_jobs (s : State) (off m : Nat) : (s.raise off m).jobs = s.jobs := by
  obtain ⟨r, p, o, h⟩ := raise_frame s off m
  rw [h]

@[simp] theorem raise_climbs (s : State) (off m : Nat) : (s.raise off m).climbs = s.climbs := by
  obtain ⟨r, p, o, h⟩ := raise_frame s off m
  rw [h]

theorem exec_chkFixed (h : s.startable n 1 (fun o => decide (o = 1)) = some j) :
    exec (.chkFixed n) s = .next (s.chkEnd n j (s.chkScan j true)) := by
  show execChkFixed n s = _
  rw [execChkFixed, h]
  rfl

theorem exec_chkContentDefined (h : s.startable n 1 (fun o => decide (o = 0)) = some j) :
    exec (.chkContentDefined n) s = .next (s.chkEnd n j (s.chkScan j false)) := by
  show execChkContentDefined n s = _
  rw [execChkContentDefined, h]
  rfl

theorem startable_cls {cls : Nat} {op : Nat → Bool} (h : s.startable n cls op = some j) : j.cls = cls := by
  unfold startable at h
  split at h
  · split at h
    · next hj =>
      cases h
      exact hj.1
    · cases h
  · cases h

/-- The end of a job of no lane, seen from the state before its unit wrote its registers and memory. -/
theorem jobEnds_of_frame {u : State} (hc : j.cls ≠ 3) (hj : u.jobs = s.jobs) (hcl : u.climbs = s.climbs) (status result : Nat) :
    jobEnds s (u.finish n j status result) n j status result := by
  obtain ⟨hjobs, htok⟩ := finish_jobEnds u n j status result
  refine ⟨?_, ?_⟩
  · rw [hjobs, jobsAfter, jobsAfter, if_neg hc, if_neg hc, hj]
  · have hclimb : u.climb j.cid = s.climb j.cid := by rw [climb, hcl, climb]
    rwa [hclimb] at htok

theorem finish_memRegs (u : State) (status result : Nat) :
    (u.finish n j status result).mem = u.mem ∧ (u.finish n j status result).regs = u.regs := by
  obtain ⟨hframe, -⟩ := finish_onlyJob u n j status result
  rw [hframe]
  exact ⟨rfl, rfl⟩

end

end State

/-- Settles O13: the scans follow the loop of R108 (`chkScan_follows`, `chkScan_fixed`), in fixed mode with the ends of `run_fixed`. -/
theorem chunkerWritesItsBoundaries : Obligations.ChunkerWritesItsBoundaries := by
  unfold Obligations.ChunkerWritesItsBoundaries
  refine ⟨?_, ?_⟩
  · rintro s n maxL carry len j out ends fits hs rfl rfl h16 rfl rfl h0 hlt hends rfl
    obtain ⟨k, hk, hroom, hfull⟩ := chkScan_fixed (s := s) (j := j)
    obtain ⟨hrun, hl⟩ := run_fixed hlt (BitVec.ofNat 64 (fieldAt j.desc 0x10 8)) (bit (fieldAt j.desc 3 1) 0) (s.hBytes j.ridge (jh j 0))
    rw [hBytes_length] at hrun hl
    rw [show _ = ends from hrun.trans hends.symm] at hroom hfull
    have hexec := exec_chkFixed hs
    refine ⟨fun hfits => ?_, fun hfits => ?_⟩
    · have hle := List.take_eq_self_iff _ |>.1 hfits
      rw [hk, hroom hle, scanOf, hl, show _ = ends from hrun.trans hends.symm, chkEnd_room, toNat_field8] at hexec
      exact hexec
    · have hgt : (hLen (jh j 1) - 16) / 4 < ends.length := Nat.lt_of_not_le fun hle => hfits ((List.take_eq_self_iff _).2 hle)
      obtain ⟨hf, he, -⟩ := hfull hgt
      rw [hk, chkEnd_full (k := { k with hash := BitVec.ofNat 64 (fieldAt j.desc 0x10 8), max := 0 }) hf he] at hexec
      exact hexec
  · rintro s n maxL j out x hs rfl h16 rfl rfl
    obtain ⟨hroom, hfull⟩ := chkScan_follows (s := s) (j := j)
    have hexec := exec_chkContentDefined hs
    refine ⟨fun hle => ?_, fun hgt => ?_⟩
    · rw [hroom hle, scanOf, chkEnd_room] at hexec
      exact hexec
    · obtain ⟨hf, he, hm⟩ := hfull hgt
      rw [chkEnd_full hf he, List.length_take_of_le (by omega)] at hexec
      have hempty : (Cdc.run (fieldAt j.desc 4 4) (fieldAt j.desc 8 4) (2 ^ 32 / (2 ^ fieldAt j.desc 2 1 - fieldAt j.desc 4 4))
        (BitVec.ofNat 64 (fieldAt j.desc 0x10 8)) (fieldAt j.desc 0x0C 4) (bit (fieldAt j.desc 3 1) 0)
        (s.hBytes j.ridge (jh j 0))).ends.take ((hLen (jh j 1) - 16) / 4) = [] ↔ hLen (jh j 1) < 20 := by
        rw [← List.length_eq_zero_iff, List.length_take_of_le (by omega)]
        omega
      simp only [hempty] at hexec
      refine ⟨_, _, hexec, hm, jobEnds_of_frame ?_ ?_ ?_ _ _, ?_, ?_⟩
      · rw [startable_cls hs]
        decide
      · rw [raise_jobs]
        rfl
      · rw [raise_climbs]
        rfl
      · rw [(finish_memRegs _ _ _).1, raise_mem]
        rfl
      · rw [(finish_memRegs _ _ _).2, raise_regs, raise_regs]
        rfl

end Sys2Proof.Machine
end

section
/-! DIG jobs (O14): the length of a digest, contexts, and the records of CHUNKS. -/

open Sys2Proof Sys2Proof.Machine Sys2Proof.Machine.State

namespace Sys2Proof.Machine

/-! ### The length of a digest (R115) -/

theorem shaRound_length {w : Nat} (S0 S1 : BitVec w → BitVec w) {v : List (BitVec w)} (hv : v.length = 8) (kw : BitVec w) :
    (shaRound S0 S1 v kw).length = 8 := by
  unfold shaRound
  split
  · rfl
  · exact hv

theorem shaCompress_length {w : Nat} (k : List (BitVec w)) (s0 s1 S0 S1 : BitVec w → BitVec w) {h : List (BitVec w)} (hh : h.length = 8)
    (blk : List (BitVec w)) : (shaCompress k s0 s1 S0 S1 h blk).length = 8 := by
  have hrounds (l : List (BitVec w)) : (l.foldl (shaRound S0 S1) h).length = 8 :=
    List.foldlRecOn (motive := fun v : List (BitVec w) => v.length = 8) l _ hh fun v hv kw _ => shaRound_length S0 S1 hv kw
  unfold shaCompress
  rw [List.length_zipWith, hh, hrounds, Nat.min_self]

theorem sha256_length (m : Bytes) : (sha256 m).length = 32 := by
  have hrun (blocks : List Bytes) {k : List (BitVec 32)} {s0 s1 S0 S1 : BitVec 32 → BitVec 32} {f : Bytes → List (BitVec 32)} :
      (blocks.foldl (fun h b => shaCompress k s0 s1 S0 S1 h (f b)) sha256H).length = 8 :=
    List.foldlRecOn (motive := fun h : List (BitVec 32) => h.length = 8) blocks _ rfl fun h hh b _ => shaCompress_length _ _ _ _ _ hh _
  unfold sha256 shaRun
  rw [List.length_flatMap, List.map_congr_left (g := fun _ => 4) (fun x _ => by simp [beBytes]), List.map_const', List.sum_replicate, hrun]
  rfl

namespace State

/-! ### The records of CHUNKS (R118) -/

/-- The boundary list is good: it rises strictly from 0 and stays within the data. -/
theorem boundsOk_iff (len p : Nat) (ends : List Nat) :
    boundsOk len p ends = true ↔ (p :: ends).Pairwise (· < ·) ∧ ∀ e ∈ ends, e ≤ len := by
  induction ends generalizing p with
  | nil => simp [boundsOk]
  | cons e r ih =>
    simp only [boundsOk, Bool.and_eq_true, decide_eq_true_eq, ih, List.pairwise_cons, List.mem_cons, forall_eq_or_imp]
    constructor
    · rintro ⟨⟨hpe, hel⟩, ⟨her, hr⟩, hall⟩
      exact ⟨⟨⟨hpe, fun x hx => lt_trans hpe (her x hx)⟩, her, hr⟩, hel, hall⟩
    · rintro ⟨⟨⟨hpe, -⟩, her, hr⟩, hel, hall⟩
      exact ⟨⟨hpe, hel⟩, ⟨her, hr⟩, hall⟩

/-- The record of the chunk between two ends. -/
def chunkRecord (d : Bytes) (p e : Nat) : Bytes := sha256 ((d.drop p).take (e - p)) ++ leBytes 4 (e - p) ++ zeros 12

theorem chunkRecord_length (d : Bytes) (p e : Nat) : (chunkRecord d p e).length = 48 := by
  simp [chunkRecord, sha256_length, zeros]

theorem chunkRecords_cons (d : Bytes) (p e : Nat) (r : List Nat) :
    chunkRecords d p (e :: r) = chunkRecord d p e ++ chunkRecords d e r := by
  rw [chunkRecords, chunkRecord]

theorem chunkRecords_length (d : Bytes) (p : Nat) (ends : List Nat) : (chunkRecords d p ends).length = 48 * ends.length := by
  induction ends generalizing p with
  | nil => rfl
  | cons e r ih =>
    rw [chunkRecords_cons, List.length_append, ih, chunkRecord_length, List.length_cons]
    omega

theorem sliceAt_whole (a b : Bytes) : sliceAt (a ++ b) 0 a.length = a := by
  simp [sliceAt]

theorem sliceAt_append (a b : Bytes) (o n : Nat) : sliceAt (a ++ b) (a.length + o) n = sliceAt b o n := by
  simp [sliceAt, ← List.drop_drop]

theorem getD_take (l : List Nat) {i k : Nat} (h : i < k) : (l.take k).getD i 0 = l.getD i 0 := by
  rw [List.getD_eq_getElem?_getD, List.getElem?_take_of_lt h, List.getD_eq_getElem?_getD]

theorem sliceAt_chunkRecords (d : Bytes) (p : Nat) (ends : List Nat) {i : Nat} (hi : i < ends.length) :
    sliceAt (chunkRecords d p ends) (48 * i) 48 = chunkRecord d ((p :: ends).getD i 0) (ends.getD i 0) := by
  induction ends generalizing p i with
  | nil => exact absurd hi (Nat.not_lt_zero i)
  | cons e r ih =>
    rw [chunkRecords_cons]
    cases i with
    | zero =>
      have := sliceAt_whole (chunkRecord d p e) (chunkRecords d e r)
      rwa [chunkRecord_length] at this
    | succ i =>
      have := sliceAt_append (chunkRecord d p e) (chunkRecords d e r) (48 * i) 48
      rw [chunkRecord_length] at this
      rw [show 48 * (i + 1) = 48 + 48 * i by omega, this, ih e (by simpa using hi)]
      rfl

/-! ### DIG jobs -/

section
variable {s : State} {n : Nat} {j : Job}

theorem digEnd_eq (u : State) (len status result : Nat) : u.digEnd n j len status result =
    ((u.bump (ridgeBlk j.ridge 6 + 8) 0 64 len).bump (ridgeBlk j.ridge 6 + 0x10) 0 64 1).finish n j status result := rfl

theorem exec_digDigest (h : s.startable n 2 (fun o => decide (o = 0)) = some j) :
    exec (.digDigest n) s = .next ((s.hWrite j.ridge (jh j 1) 0 (sha256 (s.hBytes j.ridge (jh j 0)))).digEnd n j (hLen (jh j 0)) 0 0) := by
  show execDigDigest n s = _
  rw [execDigDigest, h]
  dsimp only
  rw [hBytes_length]

theorem exec_digChunks (h : s.startable n 2 (fun o => decide (o = 1)) = some j) :
    exec (.digChunks n) s = .next (s.digChunksRun n j) := by
  show execDigChunks n s = _
  rw [execDigChunks, h]

theorem exec_digBegin (h : s.startable n 2 (fun o => decide (o = 2)) = some j) : exec (.digBegin n) s = .next (s.digCtxRun n j 2) := by
  show execDigBegin n s = _
  rw [execDigBegin, h]

theorem exec_digUpdate (h : s.startable n 2 (fun o => decide (o = 3)) = some j) : exec (.digUpdate n) s = .next (s.digCtxRun n j 3) := by
  show execDigUpdate n s = _
  rw [execDigUpdate, h]

theorem exec_digFinal (h : s.startable n 2 (fun o => decide (o = 4)) = some j) : exec (.digFinal n) s = .next (s.digCtxRun n j 4) := by
  show execDigFinal n s = _
  rw [execDigFinal, h]

/-- A DIG job that an earlier one holds back does not start. -/
theorem exec_dig_held {c : Instr} (hc : c ∈ [.digDigest n, .digChunks n, .digBegin n, .digUpdate n, .digFinal n])
    (h : ∀ op, s.startable n 2 op = none) : exec c s = .next s := by
  simp only [List.mem_cons, List.not_mem_nil, or_false] at hc
  rcases hc with rfl | rfl | rfl | rfl | rfl
  · show execDigDigest n s = _
    rw [execDigDigest, h]
  · show execDigChunks n s = _
    rw [execDigChunks, h]
  · show execDigBegin n s = _
    rw [execDigBegin, h]
  · show execDigUpdate n s = _
    rw [execDigUpdate, h]
  · show execDigFinal n s = _
    rw [execDigFinal, h]

theorem startable_held {cls : Nat} (hj : Tbl.find s.jobs n = some j) (h : s.heldBack n j = true) (op : Nat → Bool) :
    s.startable n cls op = none := by
  rw [startable, hj]
  exact if_neg fun hx => by simp [h] at hx

theorem heldBack_of_earlier {m : Nat} {k : Job} (hm : (m, k) ∈ s.jobs) (hlt : m < n) (hj : j.cls = 2) (hk : k.cls = 2)
    (h : (j.ordered = true ∧ k.cid = j.cid) ∨
      (k.ridge = j.ridge ∧ 2 ≤ jobOp j ∧ 2 ≤ jobOp k ∧ fieldAt k.desc 2 1 = fieldAt j.desc 2 1)) : s.heldBack n j = true := by
  refine List.any_eq_true.2 ⟨(m, k), hm, ?_⟩
  rcases h with ⟨ho, hc⟩ | ⟨hr, h2, h2', hf⟩
  · simp [hlt, hj, hk, ho, hc]
  · simp [hlt, hj, hk, hr, h2, h2', hf]

/-- The number of a job's context (R117). -/
def ctxOf (j : Job) : Nat := 64 * j.ridge + fieldAt j.desc 2 1

theorem digCtxRun_begin (h : ∀ x, Tbl.find s.digs (ctxOf j) = some x → x.owner = j.cid) : s.digCtxRun n j 2 =
    ({ s with digs := Tbl.set s.digs (ctxOf j) { owner := j.cid, data := s.hBytes j.ridge (jh j 0) } }).digEnd n j (hLen (jh j 0)) 0 0 := by
  unfold digCtxRun
  dsimp only
  rw [← ctxOf, hBytes_length]
  cases hx : Tbl.find s.digs (ctxOf j) with
  | none => rfl
  | some x => exact if_pos (h x hx)

theorem digCtxRun_update {x : DigCtx} (hx : Tbl.find s.digs (ctxOf j) = some x) (ho : x.owner = j.cid) : s.digCtxRun n j 3 =
    ({ s with digs := Tbl.set s.digs (ctxOf j) { owner := j.cid, data := x.data ++ s.hBytes j.ridge (jh j 0) } }).digEnd n j
      (hLen (jh j 0)) 0 0 := by
  unfold digCtxRun
  dsimp only
  rw [← ctxOf, hBytes_length, hx]
  exact (if_pos ho).trans (by rw [ho])

theorem digCtxRun_final {x : DigCtx} (hx : Tbl.find s.digs (ctxOf j) = some x) (ho : x.owner = j.cid) : s.digCtxRun n j 4 =
    (({ s with digs := Tbl.del s.digs (ctxOf j) }).hWrite j.ridge (jh j 1) 0 (sha256 (x.data ++ s.hBytes j.ridge (jh j 0)))).digEnd n j
      (hLen (jh j 0)) 0 0 := by
  unfold digCtxRun
  dsimp only
  rw [← ctxOf, hBytes_length, hx]
  exact if_pos ho

/-- A job on a context of another climb, or an UPDATE or FINAL of one not begun, ends with BAD_DESCRIPTOR. -/
theorem digCtxRun_refused {op : Nat} (hop : op = 2 ∨ op = 3 ∨ op = 4)
    (h : (∃ x, Tbl.find s.digs (ctxOf j) = some x ∧ x.owner ≠ j.cid) ∨ (Tbl.find s.digs (ctxOf j) = none ∧ op ≠ 2)) :
    s.digCtxRun n j op = s.finish n j 1 0 := by
  unfold digCtxRun
  dsimp only
  rw [← ctxOf]
  rcases h with ⟨x, hx, ho⟩ | ⟨hx, h2⟩
  · rw [hx]
    rcases hop with rfl | rfl | rfl <;> exact if_neg ho
  · rw [hx]
    rcases hop with rfl | rfl | rfl
    · exact absurd rfl h2
    · rfl
    · rfl

/-- The boundary list of a CHUNKS job, and whether it is good (R118). -/
theorem digChunksRun_bad (h : hLen (jh j 1) < 16 + 4 * fieldAt (s.hBytes j.ridge (jh j 1)) 0x0C 4 ∨
    boundsOk (hLen (jh j 0)) 0 (boundaries (s.hBytes j.ridge (jh j 1))) = false) :
    s.digChunksRun n j = (s.raise (ridgeBlk j.ridge 6 + 0x18) 2).digEnd n j 0 0x11 0 := by
  unfold digChunksRun
  dsimp only
  rw [hBytes_length, hBytes_length]
  exact if_pos h

theorem digChunksRun_good {cnt fit : Nat} {ends : List Nat} (hcnt : cnt = fieldAt (s.hBytes j.ridge (jh j 1)) 0x0C 4)
    (hends : ends = boundaries (s.hBytes j.ridge (jh j 1))) (hfit : fit = min cnt (hLen (jh j 2) / 48))
    (hl : 16 + 4 * cnt ≤ hLen (jh j 1)) (hb : boundsOk (hLen (jh j 0)) 0 ends = true) :
    s.digChunksRun n j =
      if fit < cnt then ((s.hWrite j.ridge (jh j 2) 0 (chunkRecords (s.hBytes j.ridge (jh j 0)) 0 (ends.take fit))).raise
        (ridgeBlk j.ridge 6 + 0x18) 1).digEnd n j ((ends.take fit).getLastD 0) 0x10 fit
      else (s.hWrite j.ridge (jh j 2) 0 (chunkRecords (s.hBytes j.ridge (jh j 0)) 0 (ends.take fit))).digEnd n j
        ((ends.take fit).getLastD 0) 0 cnt := by
  subst hcnt hends hfit
  unfold digChunksRun
  dsimp only
  rw [hBytes_length, hBytes_length, if_neg (by rw [hb]; simp; omega)]

end

end State

/-- Settles O14: `sha256`, the context rules `digCtxRun_begin` to `digCtxRun_refused`, and the records of `sliceAt_chunkRecords`. -/
theorem digestJobsHash : Obligations.DigestJobsHash := by
  unfold Obligations.DigestJobsHash
  refine ⟨?_, ?_, ?_, ?_⟩
  · rintro s n j d rfl hs
    exact exec_digDigest hs
  · rintro s n ctx j d rfl rfl
    refine ⟨fun hs ho => ?_, fun x hs hx ho => ?_, fun x hs hx ho => ?_, fun x c hc hx ho => ?_, fun c hc hx => ?_⟩
    · exact (exec_digBegin hs).trans (congrArg _ (digCtxRun_begin ho))
    · exact (exec_digUpdate hs).trans (congrArg _ (digCtxRun_update hx ho))
    · exact (exec_digFinal hs).trans (congrArg _ (digCtxRun_final hx ho))
    · rcases hc with ⟨rfl, hs⟩ | ⟨rfl, hs⟩ | ⟨rfl, hs⟩
      · exact (exec_digBegin hs).trans (congrArg _ (digCtxRun_refused (.inl rfl) (.inl ⟨x, hx, ho⟩)))
      · exact (exec_digUpdate hs).trans (congrArg _ (digCtxRun_refused (.inr (.inl rfl)) (.inl ⟨x, hx, ho⟩)))
      · exact (exec_digFinal hs).trans (congrArg _ (digCtxRun_refused (.inr (.inr rfl)) (.inl ⟨x, hx, ho⟩)))
    · rcases hc with ⟨rfl, hs⟩ | ⟨rfl, hs⟩
      · exact (exec_digUpdate hs).trans (congrArg _ (digCtxRun_refused (.inr (.inl rfl)) (.inr ⟨hx, by decide⟩)))
      · exact (exec_digFinal hs).trans (congrArg _ (digCtxRun_refused (.inr (.inr rfl)) (.inr ⟨hx, by decide⟩)))
  · rintro s n cnt fit j d l ends hs rfl rfl hcnt hends hfit
    have hlen : ends.length = cnt := by rw [hends, List.length_map, List.length_range]
    have hbounds := boundsOk_iff (hLen (jh j 0)) 0 ends
    refine ⟨fun hl hp hle => ?_, fun hbad => ?_⟩
    · have hrun := digChunksRun_good hcnt (by rw [hends, hcnt]; rfl) hfit hl (hbounds.2 ⟨hp, hle⟩) (n := n)
      have htake : (ends.take fit).length = fit := List.length_take_of_le (by omega)
      refine ⟨_, _, (exec_digChunks hs).trans (congrArg _ hrun), ?_, fun i hi => ?_, fun hf => ?_, fun hf => if_pos hf⟩
      · rw [chunkRecords_length, htake]
      · rw [sliceAt_chunkRecords _ _ _ (by omega), ← List.take_succ_cons, getD_take ends hi, getD_take (0 :: ends) (by omega)]
        rfl
      · rw [if_neg (by omega), hf, ← hlen, List.take_length]
        rfl
    · refine (exec_digChunks hs).trans (congrArg _ (digChunksRun_bad ?_))
      rw [← hcnt, ← Bool.not_eq_true, show boundaries _ = ends by rw [hends, hcnt]; rfl, hbounds]
      rcases hbad with h | h | ⟨e, he, h⟩
      · exact .inl h
      · exact .inr fun ⟨hp, _⟩ => h hp
      · exact .inr fun ⟨_, hle⟩ => absurd (hle e he) (by omega)
  · intro s n m j k c hc hj hm hlt hcls hk h
    exact exec_dig_held hc (startable_held hj (heldBack_of_earlier hm hlt hcls hk h))

end Sys2Proof.Machine
end

section
/-! XTS jobs and their key slots (O16): the length of a unit's output, unit by unit, and which slots the end of a job clears. -/

open Sys2Proof Sys2Proof.Machine Sys2Proof.Machine.State

namespace Sys2Proof.Machine

/-! ### The length of an XTS output (R200) -/

theorem aesDec_length (key blk : Bytes) : (aesDec key blk).length = 16 := by
  obtain ⟨f, hf, hk⟩ := aesKeys_spec key
  have hr : (aesKeys key).reverse = f 14 :: (List.range 14).map (fun r => f (13 - r)) := by rw [hk]; rfl
  have hlast : ((List.range 14).map (fun r => f (13 - r))).getD 13 [] = f 0 := rfl
  simp only [aesDec, hr, xorB_length, hlast, hf 0 (by decide)]
  simp [invShiftRows]

variable (enc : Bool) (key k1 : Bytes)

theorem xtsBlock_length {t b : Bytes} (ht : t.length = 16) : (xtsBlock enc k1 t b).length = 16 := by
  cases enc <;> simp [xtsBlock, aesDec_length, ht]

theorem xtsAlpha_length (t : Bytes) : (xtsAlpha t).length = 16 := leBytes_length _ _

theorem xtsBlocks_length (fuel : Nat) {t d : Bytes} (ht : t.length = 16) (h16 : 16 ≤ d.length) (hf : d.length ≤ fuel) :
    (xtsBlocks enc k1 fuel t d).length = d.length := by
  induction fuel generalizing t d with
  | zero => omega
  | succ fuel ih =>
    have ha := xtsAlpha_length t
    rw [xtsBlocks]
    split
    · rw [xtsBlock_length enc k1 ht]; omega
    · split
      · have hfirst (b : Bytes) : (xtsBlock enc k1 (if enc then t else xtsAlpha t) b).length = 16 :=
          xtsBlock_length enc k1 (by split <;> assumption)
        have hsecond (b : Bytes) : (xtsBlock enc k1 (if enc then xtsAlpha t else t) b).length = 16 :=
          xtsBlock_length enc k1 (by split <;> assumption)
        simp only [List.length_append, List.length_take, hfirst, hsecond]
        omega
      · rw [List.length_append, xtsBlock_length enc k1 ht, ih ha (by rw [List.length_drop]; omega) (by rw [List.length_drop]; omega),
          List.length_drop]
        omega

theorem xtsUnit_length (tweak : Bytes) {d : Bytes} (h : 16 ≤ d.length) : (xtsUnit enc key tweak d).length = d.length :=
  xtsBlocks_length enc _ _ (aesEnc_length _ _) h le_rfl

namespace State

/-! ### The data units of an input (R90, R201) -/

variable (rest : Bytes) (seg : Nat)

theorem xtsUnits_length (hr : rest.length = 16) (f off : Nat) (d : Bytes) (hf : d.length ≤ 4096 * f) :
    (xtsUnits enc key rest seg f off d).length = d.length := by
  induction f generalizing off d with
  | zero => rw [xtsUnits, List.length_nil]; omega
  | succ f ih =>
    rw [xtsUnits]
    split
    · next h0 => rw [h0, List.length_nil]
    · split
      · rw [List.length_take]; omega
      · rw [List.length_append, xtsUnit_length enc key _ (by rw [List.length_take]; omega), ih _ _ (by rw [List.length_drop]; omega),
          List.length_take, List.length_drop]
        omega

/-- The k-th unit of the output is the XTS of the k-th unit of the input, its tweak 4,096 times k further on. -/
theorem xtsUnits_unit (f off k : Nat) (d : Bytes) (hf : d.length ≤ 4096 * f) (hk : 4096 * k + 16 ≤ d.length) :
    ((xtsUnits enc key rest seg f off d).drop (4096 * k)).take 4096 =
      xtsUnit enc key (leBytes 8 (off + 4096 * k) ++ leBytes 8 seg) ((d.drop (4096 * k)).take 4096) := by
  induction k generalizing f off d with
  | zero =>
    obtain ⟨f, rfl⟩ : ∃ g, f = g + 1 := ⟨f - 1, by omega⟩
    rw [xtsUnits, if_neg (by omega), if_neg (by omega)]
    have hl := xtsUnit_length enc key (leBytes 8 off ++ leBytes 8 seg) (d := d.take 4096) (by rw [List.length_take]; omega)
    rw [List.length_take] at hl
    simp only [Nat.mul_zero, List.drop_zero, Nat.add_zero]
    rcases Nat.le_total 4096 d.length with hd | hd
    · rw [List.take_left' (by omega)]
    · have hnil : d.drop 4096 = [] := List.drop_eq_nil_of_le hd
      have hstop (g o : Nat) : xtsUnits enc key rest seg g o [] = [] := by cases g <;> rfl
      rw [hnil, hstop, List.append_nil, List.take_of_length_le (by omega)]
  | succ k ih =>
    obtain ⟨f, rfl⟩ : ∃ g, f = g + 1 := ⟨f - 1, by omega⟩
    rw [xtsUnits, if_neg (by omega), if_neg (by omega)]
    have hl := xtsUnit_length enc key (leBytes 8 off ++ leBytes 8 seg) (d := d.take 4096) (by rw [List.length_take]; omega)
    rw [List.length_take, Nat.min_eq_left (by omega)] at hl
    have hn : 4096 * (k + 1) = 4096 + 4096 * k := by omega
    have hdrop (a b : Bytes) (ha : a.length = 4096) : (a ++ b).drop (4096 + 4096 * k) = b.drop (4096 * k) := by
      rw [← List.drop_drop, List.drop_left' ha]
    rw [hn, hdrop _ _ hl, ih f (off + 4096) (d.drop 4096) (by rw [List.length_drop]; omega) (by rw [List.length_drop]; omega),
      List.drop_drop, Nat.add_assoc]

/-! ### Which key slots are cleared (R202) -/

theorem xtsNamed_iff (s : State) (pool : Nat) :
    s.xtsNamed pool = true ↔ ∃ p ∈ s.jobs, p.2.cls = 4 ∧ p.2.noKey = false ∧ fieldAt p.2.desc 2 1 = pool := by
  simp [xtsNamed, and_assoc]

/-- One slot is cleared and no longer waits. -/
def clearSlot (t : State) (p : Nat) : State :=
  { t with keySlots := Tbl.del t.keySlots p, keyEnding := t.keyEnding.filter (fun q => decide (q ≠ p)) }

theorem foldl_clearSlot (l : List Nat) {s : State} (hs : Tbl.sorted s.keySlots = true) (q : Nat) :
    Tbl.find (l.foldl clearSlot s).keySlots q = (if q ∈ l then none else Tbl.find s.keySlots q) ∧
    (q ∈ (l.foldl clearSlot s).keyEnding ↔ q ∈ s.keyEnding ∧ q ∉ l) := by
  induction l generalizing s with
  | nil => simp
  | cons p l ih =>
    obtain ⟨hfind, hmem⟩ := ih (s := s.clearSlot p) (Tbl.sorted_del hs p)
    rw [List.foldl_cons, hfind, hmem]
    by_cases hq : q = p
    · subst hq
      simp [clearSlot, Tbl.find_del_same hs]
    · simp [clearSlot, Tbl.find_del_other _ hq, hq]

/-- A slot that waits and that no queued job names is cleared; every other slot stays as it is. -/
theorem endKeys_slot {s : State} (hs : Tbl.sorted s.keySlots = true) (q : Nat) :
    Tbl.find s.endKeys.keySlots q = (if q ∈ s.keyEnding ∧ s.xtsNamed q = false then none else Tbl.find s.keySlots q) ∧
    (q ∈ s.endKeys.keyEnding ↔ q ∈ s.keyEnding ∧ s.xtsNamed q = true) := by
  obtain ⟨hfind, hmem⟩ := foldl_clearSlot (s.keyEnding.filter (fun p => !s.xtsNamed p)) hs q
  constructor
  · exact hfind.trans (by simp)
  · refine hmem.trans ?_
    simp only [List.mem_filter, Bool.not_eq_true', not_and, Bool.not_eq_false]
    exact ⟨fun h => ⟨h.1, h.2 h.1⟩, fun h => ⟨h.1, fun _ => h.2⟩⟩

theorem xtsNamed_false_iff (s : State) (pool : Nat) :
    s.xtsNamed pool = false ↔ ∀ p ∈ s.jobs, p.2.cls = 4 → p.2.noKey = false → fieldAt p.2.desc 2 1 ≠ pool := by
  rw [← Bool.not_eq_true, xtsNamed_iff]
  push Not
  rfl

/-- The slot of an unloaded pool waits, and no other slot begins to. -/
theorem mem_waiting (l : List Nat) (pool q : Nat) : q ∈ (if pool ∈ l then l else l ++ [pool]) ↔ q ∈ l ∨ q = pool := by
  split
  · next h => exact ⟨Or.inl, fun hq => hq.elim id (fun e => e ▸ h)⟩
  · simp

theorem unloadKey_slot {s : State} (hs : Tbl.sorted s.keySlots = true) (pool q : Nat) :
    Tbl.find (s.unloadKey pool).keySlots q =
      (if (q ∈ s.keyEnding ∨ q = pool) ∧ s.xtsNamed q = false then none else Tbl.find s.keySlots q) ∧
    (q ∈ (s.unloadKey pool).keyEnding ↔ (q ∈ s.keyEnding ∨ q = pool) ∧ s.xtsNamed q = true) := by
  simp only [← mem_waiting s.keyEnding pool q]
  exact endKeys_slot (s := { s with keyEnding := if pool ∈ s.keyEnding then s.keyEnding else s.keyEnding ++ [pool] }) hs q

theorem finish_xts {j : Job} (h : j.cls = 4) (s : State) (n status result : Nat) :
    s.finish n j status result = (s.unqueued n j (cplWord status j.cls result)).endKeys := by
  rw [finish_if, if_neg (by omega), if_pos h]

section

variable {s : State} {n : Nat} {j : Job}

theorem exec_xtsEncrypt (h : s.startable n 4 (fun o => decide (o = 0)) = some j) :
    exec (.xtsEncrypt n) s = .next (s.xtsRun n j true) := by
  show execXtsEncrypt n s = _
  rw [execXtsEncrypt, h]

theorem exec_xtsDecrypt (h : s.startable n 4 (fun o => decide (o = 1)) = some j) :
    exec (.xtsDecrypt n) s = .next (s.xtsRun n j false) := by
  show execXtsDecrypt n s = _
  rw [execXtsDecrypt, h]

/-- The bytes that an XTS job writes. -/
def xtsOut (s : State) (j : Job) (enc : Bool) (key : Bytes) : Bytes :=
  xtsUnits enc key (s.freeBytes 16) (fieldAt j.desc 8 8) ((s.hBytes j.ridge (jh j 0)).length / 4096 + 1) (fieldAt j.desc 0x10 8)
    (s.hBytes j.ridge (jh j 0))

theorem xtsRun_short (h : hLen (jh j 0) < 16) : s.xtsRun n j enc = (s.raise (ridgeBlk j.ridge 7 + 0x18) 2).finish n j 1 0 := by
  rw [xtsRun, hBytes_length, if_pos h]

theorem xtsRun_noKey (h : 16 ≤ hLen (jh j 0)) (hk : j.noKey = true ∨ Tbl.find s.keySlots (fieldAt j.desc 2 1) = none) :
    s.xtsRun n j enc = (s.raise (ridgeBlk j.ridge 7 + 0x18) 1).finish n j 0x10 0 := by
  have hnone : (if j.noKey then none else Tbl.find s.keySlots (fieldAt j.desc 2 1)) = none := by
    rcases hk with hk | hk
    · exact if_pos hk
    · rw [hk, ite_self]
  rw [xtsRun, hBytes_length, if_neg (by omega), hnone]

theorem xtsRun_key (h : 16 ≤ hLen (jh j 0)) (hn : j.noKey = false) (hk : Tbl.find s.keySlots (fieldAt j.desc 2 1) = some key) :
    s.xtsRun n j enc = ((s.used.hWrite j.ridge (jh j 1) 0 (s.xtsOut j enc key)).bump
      (ridgeBlk j.ridge 7 + (if enc then 8 else 0x10)) 0 64 (hLen (jh j 0))).finish n j 0 0 := by
  rw [xtsRun, xtsOut, hBytes_length, if_neg (by omega), hn, hk]
  rfl

end

end State

/-- Settles O16: a job by its three outcomes, the output unit by unit; loading sets the slot, and unloading and the end of a job
clear exactly the waiting slots that no queued job names. -/
theorem xtsJobsAndKeySlots : Obligations.XtsJobsAndKeySlots := by
  unfold Obligations.XtsJobsAndKeySlots
  refine ⟨?_, ?_, ?_, ?_⟩
  · intro s n j enc c d hc hd
    have hrun : exec c s = .next (s.xtsRun n j enc) := by
      rcases hc with ⟨rfl, rfl, hs⟩ | ⟨rfl, rfl, hs⟩
      · exact exec_xtsEncrypt hs
      · exact exec_xtsDecrypt hs
    refine ⟨fun h => ?_, fun h hk => ?_, fun key h hn hk => ⟨s.xtsOut j enc key, ?_, fun k hlen => ?_, ?_⟩⟩
    · rw [gives, hrun, xtsRun_short enc h]
    · rw [gives, hrun, xtsRun_noKey enc h hk]
    · rw [hd]
      exact xtsUnits_length enc key _ _ (by simp [freeBytes]) _ _ _ (by omega)
    · rw [hd] at hlen ⊢
      exact xtsUnits_unit enc key _ _ _ _ k _ (by omega) hlen
    · rw [gives, hrun, xtsRun_key enc key h hn hk]
      rfl
  · intro s pool k hp hk
    show execXtsKeyLoad pool s = _
    rw [execXtsKeyLoad, hk]
    simp only [if_pos hp]
  · intro s pool hs
    refine ⟨s.unloadKey pool, rfl, endKeys_frame _, fun h => ?_, fun h => ?_, fun q hq hqe => ?_⟩
    · rw [← xtsNamed_false_iff] at h
      simp [unloadKey_slot hs, h]
    · rw [← xtsNamed_iff] at h
      simp [unloadKey_slot hs, h]
    · simp [unloadKey_slot hs, hq, hqe]
  · intro s n pool status result j hj hs hp h
    have hu := unqueued_frame s n j (cplWord status j.cls result)
    rw [finish_xts hj]
    generalize s.unqueued n j (cplWord status j.cls result) = u at hu ⊢
    have hslots : u.keySlots = s.keySlots := by rw [hu]
    have hwaits : u.keyEnding = s.keyEnding := by rw [hu]
    have hjobs : u.jobs = Tbl.del s.jobs n := by rw [hu]
    have hfree : u.xtsNamed pool = false := (xtsNamed_false_iff u pool).2 (hjobs ▸ h)
    obtain ⟨hfind, hmem⟩ := endKeys_slot (hslots ▸ hs) pool
    rw [hfind, hmem]
    simp [hwaits, hp, hfree]

end Sys2Proof.Machine
end

section
/-! The Summit Book (O25): staging, storage, the actions of CTRL, the timers, the clear, the harvest and the calls of R519. -/

open Sys2Proof Sys2Proof.Machine Sys2Proof.Machine.State

namespace Sys2Proof.Machine

theorem hmac256_length (key m : Bytes) : (hmac256 key m).length = 32 := sha256_length _

namespace State

@[simp] theorem raise_sbk (s : State) (off m : Nat) : (s.raise off m).sbk = s.sbk := by
  obtain ⟨r, p, o, h⟩ := raise_frame s off m
  rw [h]

/-! ### Register-written records (R507 to R509) -/

section

variable {s : State} {m : Nat}

theorem mayWrite_book (m : Nat) {off : Nat} (h : off ∈ [0x60008, 0x60080, 0x60088, 0x60090]) : mayWrite m off = true := by
  simp only [List.mem_cons, List.not_mem_nil, or_false] at h
  rcases h with rfl | rfl | rfl | rfl <;> rfl

theorem exec_wrHdr (hg : s.gate m 0x60080 8 true = .open) (v : W64) :
    exec (.wrHdr m 0 8 v) s = .next (s.wrHdrAct m false 8 v) :=
  congrArg _ ((gated_open hg v _).trans (if_pos (mayWrite_book m (by decide))))

theorem exec_wrData {width : Nat} (hg : s.gate m 0x60088 width true = .open) (v : W64) :
    exec (.wrData m 0 width v) s = .next (s.wrDataAct m false width v) :=
  congrArg _ ((gated_open hg v _).trans (if_pos (mayWrite_book m (by decide))))

theorem exec_wrCommit (hg : s.gate m 0x60090 8 true = .open) (v : W64) :
    exec (.wrCommit m 8 v) s = .next (s.wrCommitAct m v) :=
  congrArg _ ((gated_open hg v _).trans (if_pos (mayWrite_book m (by decide))))

theorem stager_of_mem (hm : m ∈ [0x20, 0x21, 0x22, 0x23, 0x60]) : stager m = true := by
  simp only [List.mem_cons, List.not_mem_nil, or_false] at hm
  rcases hm with rfl | rfl | rfl | rfl | rfl <;> rfl

theorem wrHdrAct_stages (hm : stager m = true) (v : W64) :
    s.wrHdrAct m false 8 v = s.setStage m { hdr := v, payload := [], low := none } := by
  simp only [wrHdrAct, hm, Bool.not_true, Bool.false_eq_true, if_false, if_true]

theorem wrDataAct_unstaged (hm : stager m = true) (hs : Tbl.find s.sbk.stages m = none) (width : Nat) (v : W64) :
    s.wrDataAct m false width v = s := by
  simp only [wrDataAct, hm, hs, Bool.not_true, Bool.false_eq_true, if_false]

theorem wrDataAct_word (hm : stager m = true) {g : SbkStage} (hs : Tbl.find s.sbk.stages m = some g) (v : W64) :
    s.wrDataAct m false 8 v = s.setStage m { g with payload := stageFlat g ++ leBytes 8 v.toNat, low := none } := by
  simp only [wrDataAct, hm, hs, Bool.not_true, Bool.false_eq_true, if_false, if_true]

theorem wrDataAct_half (hm : stager m = true) {g : SbkStage} (hs : Tbl.find s.sbk.stages m = some g) (hl : g.low = none) (v : W64) :
    s.wrDataAct m false 4 v = s.setStage m { g with low := some (leBytes 4 v.toNat) } := by
  have hflat : stageFlat g = g.payload := by rw [stageFlat, hl]
  simp only [wrDataAct, hm, hs, hflat, Bool.not_true, Bool.false_eq_true, if_false]
  rfl

theorem wrCommitAct_unstaged (hm : stager m = true) (hs : Tbl.find s.sbk.stages m = none) (v : W64) : s.wrCommitAct m v = s := by
  simp only [wrCommitAct, hm, hs, Bool.not_true, Bool.false_eq_true, if_false]

theorem wrCommitAct_staged (hm : stager m = true) {g : SbkStage} (hs : Tbl.find s.sbk.stages m = some g) {v : W64}
    (hv : v.getLsbD 0 = true) : s.wrCommitAct m v =
      if commitOk g = false then ({ s with sbk := { s.sbk with
        stages := Tbl.del s.sbk.stages m, lenErrors := s.sbk.lenErrors + 1 } }).raise rSbkEvents 0x40
      else if (s.commitFits m g && s.sbk.heldCommits.all (fun h => decide (h.1 ≠ m))) = true then
        { s with sbk := { s.sbk with stages := Tbl.del s.sbk.stages m, queue := s.sbk.queue ++ [commitRec m g] } }
      else { s with sbk := { s.sbk with stages := Tbl.del s.sbk.stages m, heldCommits := s.sbk.heldCommits ++ [(m, g)] } } := by
  simp only [wrCommitAct, hm, hs, hv, Bool.not_true, Bool.not_eq_true', Bool.false_eq_true, if_false]
  rfl

/-- A stage with no waiting half agrees with its LENGTH (R508). -/
theorem commitOk_iff {g : SbkStage} (hl : g.low = none) : commitOk g = true ↔ 16 ≤ bits g.hdr.toNat 0 16 ∧
    bits g.hdr.toNat 0 16 ≤ 1024 ∧ g.payload.length / 8 = ceilDiv (bits g.hdr.toNat 0 16 - 16) 8 := by
  have hflat : stageFlat g = g.payload := by rw [stageFlat, hl]
  simp only [commitOk, hflat, Bool.and_eq_true, decide_eq_true_eq, and_assoc]

theorem commitRec_eq {g : SbkStage} (hl : g.low = none) (m : Nat) : commitRec m g =
    { source := m, typ := bits g.hdr.toNat 16 12, flags := bits g.hdr.toNat 36 28,
      payload := g.payload.take (bits g.hdr.toNat 0 16 - 16), job := none } := by
  have hflat : stageFlat g = g.payload := by rw [stageFlat, hl]
  rw [commitRec, hflat]

theorem recSize_commitRec {g : SbkStage} (hl : g.low = none) (hok : commitOk g = true) (m : Nat) :
    recSize (commitRec m g) = ceilDiv (bits g.hdr.toNat 0 16) 8 * 8 := by
  obtain ⟨h16, -, hlen⟩ := (commitOk_iff hl).1 hok
  rw [recSize, commitRec_eq hl, List.length_take]
  simp only [ceilDiv] at hlen ⊢
  congr 2
  omega

theorem commitFits_iff (s : State) (m : Nat) (g : SbkStage) :
    s.commitFits m g = true ↔ s.sbkQueued + recSize (commitRec m g) ≤ 16384 := by
  rw [commitFits, decide_eq_true_eq]

/-- A record of at most the greatest LENGTH has room in an empty queue (R509). -/
theorem recSize_commitRec_le (m : Nat) {g : SbkStage} (h : bits g.hdr.toNat 0 16 ≤ 1024) : recSize (commitRec m g) ≤ 16384 := by
  simp only [recSize, commitRec, List.length_take, ceilDiv]
  omega

end

/-! ### Storage (R509, R511, R512) -/

section

variable {s : State} {r : SbkRec} {q : List SbkRec}

theorem retryCommits_nil (h : s.sbk.heldCommits = []) : s.retryCommits = s := by
  rw [retryCommits, h]
  show { s with sbk := { s.sbk with heldCommits := [] } } = s
  rw [← h]

/-- The book with its oldest accepted record taken off the queue. -/
def dequeued (s : State) (q : List SbkRec) : State := { s with sbk := { s.sbk with queue := q } }

theorem sbkStoreOne_cons (hq : s.sbk.queue = r :: q) : s.sbkStoreOne =
    ((((s.dequeued q).bookPut r).1.sbkJobDone r.job ((s.dequeued q).bookPut r).2).retryCommits) := by
  rw [sbkStoreOne, hq]
  rfl

theorem exec_sbkStore_cons (hq : s.sbk.queue = r :: q) : exec .sbkStore s =
    .next (((s.dequeued q).bookPut r).1.sbkJobDone r.job ((s.dequeued q).bookPut r).2).retryCommits :=
  congrArg _ (sbkStoreOne_cons hq)

theorem bookPut_frozen (h : s.sbk.frozen = true ∨ s.sbk.clearing ≠ none) (r : SbkRec) :
    s.bookPut r = ({ s with sbk := { s.sbk with frozenMissed := sat32 s.sbk.frozenMissed } }, false) := by
  rw [← Option.isSome_iff_ne_none, ← Bool.or_eq_true] at h
  rw [bookPut, if_pos h]

section

variable (hf : s.sbk.frozen = false) (hc : s.sbk.clearing = none)
include hf hc

theorem bookPut_full (h : s.sbk.full = true) (r : SbkRec) :
    s.bookPut r = ({ s with sbk := { s.sbk with fullMissed := sat32 s.sbk.fullMissed } }, false) := by
  unfold bookPut
  dsimp only
  rw [if_neg (by simp [hf, hc]), if_pos h]

theorem bookPut_overflow (h : s.sbk.full = false) (hsize : 0x400000 < s.sbk.fill + recSize r) : s.bookPut r =
    ({ s with sbk := { s.sbk with full := true, fullMissed := sat32 s.sbk.fullMissed } }.raise rSbkEvents 2, false) := by
  unfold bookPut
  dsimp only
  rw [if_neg (by simp [hf, hc]), if_neg (by simp [h]), if_pos hsize]

theorem bookPut_stored (h : s.sbk.full = false) (hsize : s.sbk.fill + recSize r ≤ 0x400000) : s.bookPut r =
    (if s.sbk.fill ≤ 0x200000 ∧ s.sbk.fill + recSize r > 0x200000 then
      ({ s with sbk := { s.sbk with
        fill := s.sbk.fill + recSize r, book := Mem.writeBytes s.sbk.book s.sbk.fill (recImage r s.time) } }).raise rSbkEvents 1
      else { s with sbk := { s.sbk with
        fill := s.sbk.fill + recSize r, book := Mem.writeBytes s.sbk.book s.sbk.fill (recImage r s.time) } }, true) := by
  unfold bookPut
  dsimp only
  rw [if_neg (by simp [hf, hc]), if_neg (by simp [h]), if_neg (by omega)]

end

/-- A record is stored where the book is open and has room for it. -/
theorem bookPut_ok (s : State) (r : SbkRec) : (s.bookPut r).2 = true ↔ ¬ (s.sbk.frozen = true ∨ s.sbk.clearing ≠ none ∨
    s.sbk.full = true ∨ 0x400000 < s.sbk.fill + recSize r) := by
  by_cases hfc : s.sbk.frozen = true ∨ s.sbk.clearing ≠ none
  · rw [bookPut_frozen hfc]
    tauto
  · have hf : s.sbk.frozen = false := by simpa using fun h => hfc (.inl h)
    have hc : s.sbk.clearing = none := not_not.1 fun h => hfc (.inr h)
    cases hfull : s.sbk.full
    · by_cases hsize : 0x400000 < s.sbk.fill + recSize r
      · simp [bookPut_overflow hf hc hfull hsize, hsize]
      · simp [bookPut_stored hf hc hfull (not_lt.1 hsize), hf, hc, hsize]
    · simp [bookPut_full hf hc hfull]

/-- Storing or missing a record changes the registers and the book alone, and neither the queue nor the held commits. -/
theorem bookPut_frame (s : State) (r : SbkRec) : (s.bookPut r).1.sbk.queue = s.sbk.queue ∧
    (s.bookPut r).1.sbk.heldCommits = s.sbk.heldCommits ∧ (s.bookPut r).1.jobs = s.jobs ∧ (s.bookPut r).1.climbs = s.climbs := by
  unfold bookPut
  dsimp only
  split
  · exact ⟨rfl, rfl, rfl, rfl⟩
  · split
    · exact ⟨rfl, rfl, rfl, rfl⟩
    · split
      · simp
      · split <;> simp

theorem sbkStoreOne_unheld (hq : s.sbk.queue = r :: q) (hh : s.sbk.heldCommits = []) (hj : r.job = none) :
    s.sbkStoreOne = ((s.dequeued q).bookPut r).1 := by
  rw [sbkStoreOne_cons hq, hj]
  exact retryCommits_nil ((bookPut_frame _ r).2.1.trans hh)

/-- Once the last accepted record has left, a held commit enters. -/
theorem retryCommits_one {m : Nat} {g : SbkStage} (hq : s.sbk.queue = []) (hh : s.sbk.heldCommits = [(m, g)])
    (hlen : bits g.hdr.toNat 0 16 ≤ 1024) : s.retryCommits = { s with sbk := { s.sbk with heldCommits := [], queue := [commitRec m g] } } := by
  have hfits : ({ s with sbk := { s.sbk with heldCommits := [] } } : State).commitFits m g = true := by
    rw [commitFits_iff, sbkQueued]
    simp only [hq]
    rw [show sumBy recSize [] = 0 from rfl, Nat.zero_add]
    exact recSize_commitRec_le m hlen
  rw [retryCommits, hh, List.foldl_cons, List.foldl_nil, if_pos hfits, commitNow]
  simp only [hq, List.nil_append]

end

/-! ### The SEND of a record (R96) -/

section

variable {s : State} {n : Nat} {j : Job}

theorem exec_sbkRecord_first {r : SbkRec} {q : List SbkRec} (hq : s.sbk.queue = r :: q) (hr : r.job = some n) :
    exec (.sbkRecord n) s = .next s.sbkStoreOne := by
  have hi : s.sbk.queue.findIdx? (fun x => decide (x.job = some n)) = some 0 := by simp [hq, hr, List.findIdx?_cons]
  show execSbkRecord n s = _
  rw [execSbkRecord, hi]
  rfl

theorem sbkJobDone_some (hj : Tbl.find s.jobs n = some j) (ok : Bool) : s.sbkJobDone (some n) ok =
    { s with jobs := Tbl.del s.jobs n }.doneToken j.cid j.tok (cplWord (if ok then 0 else 0x10) 0x0B 0) := by
  rw [sbkJobDone, hj]

theorem doneToken_frame (s : State) (cid tok : Nat) (w : W64) :
    (s.doneToken cid tok w).jobs = s.jobs ∧ (s.doneToken cid tok w).sbk = s.sbk := by
  rw [doneToken_eq]
  exact ⟨rfl, rfl⟩

theorem tok_doneToken {cid t : Nat} (hr : (s.climb cid).ended = .running) (ht : t < (s.climb cid).t.length) (w : W64) :
    (s.doneToken cid t w).tok cid t = .done w := by
  rw [tok, climb_doneToken, if_pos rfl, (afterDone_running hr t w).1]
  simp [List.getD, ht]

end

/-! ### The actions of SBK.CTRL (R511, R513, R515, R571) -/

/-- The state once a write of SBK.CTRL has put 0 into FREEZE_MS. -/
def freezeMsZero (s : State) : State := s.setReg 0x60008 (s.reg 0x60008 &&& ~~~(0x3FF0000 : W64))

/-- A write with FREEZE_MS 0 clears the field and then acts. -/
theorem sbkCtrl_eq {s : State} {v : W64} (m : Nat) (hv : v &&& 0x3FF0000 = 0) : s.sbkCtrl m v (BitVec.allOnes 64) =
    if (s.freezeMsZero.sbkCtrlAct m v s.bookKey).sbk.clearing.isSome && s.sbk.clearing.isNone && s.bookKey.isNone then
      (s.freezeMsZero.sbkCtrlAct m v s.bookKey).keyRefused
    else s.freezeMsZero.sbkCtrlAct m v s.bookKey := by
  have hk : BitVec.allOnes 64 &&& (0x3FF0000 : W64) = 0x3FF0000 := by decide
  have hz (x : W64) : x ||| 0 = x := BitVec.or_zero
  rw [sbkCtrl]
  simp only [hk, hv, hz]
  rfl

theorem gated_ctrl {s : State} {m : Nat} (hg : s.gate m 0x60008 8 true = .open) (v : W64) :
    s.gated m 0x60008 8 v (fun x k t => t.sbkCtrl m x k) = s.sbkCtrl m v (BitVec.allOnes 64) :=
  (gated_open hg v _).trans (if_pos (mayWrite_book m (by decide)))

theorem exec_ctrl {s : State} {m : Nat} (hg : s.gate m 0x60008 8 true = .open) (v : W64) {c : Instr}
    (hc : c ∈ [.freeze m 8 v, .thaw m 8 v, .nonceReq m 8 v, .clear m 8 v]) : exec c s = .next (s.sbkCtrl m v (BitVec.allOnes 64)) := by
  simp only [List.mem_cons, List.not_mem_nil, or_false] at hc
  rcases hc with rfl | rfl | rfl | rfl <;> exact congrArg _ (gated_ctrl hg v)

/-- Actions that begin no clear, or begin one with the book key, are all that the write does. -/
theorem exec_ctrl_served {s t : State} {m : Nat} {v : W64} (hg : s.gate m 0x60008 8 true = .open) {c : Instr}
    (hc : c ∈ [.freeze m 8 v, .thaw m 8 v, .nonceReq m 8 v, .clear m 8 v]) (hv : v &&& 0x3FF0000 = 0)
    (ht : s.freezeMsZero.sbkCtrlAct m v s.bookKey = t) (h : t.sbk.clearing = s.sbk.clearing ∨ s.bookKey ≠ none) :
    exec c s = .next t := by
  rw [exec_ctrl hg v hc, sbkCtrl_eq m hv, ht, if_neg]
  simp only [Bool.and_eq_true, Option.isNone_iff_eq_none]
  rintro ⟨⟨hsome, hnone⟩, hkey⟩
  rcases h with h | h
  · rw [h, hnone] at hsome
    exact absurd hsome (by decide)
  · exact h hkey

theorem bookClear_refused {s : State} (h : s.sbk.frozen = false ∨ s.sbk.nonce = none ∨ s.sbk.clearing ≠ none) (m : Nat) (key : Option Bytes) :
    s.bookClear m key = s.bookRefuse := by
  unfold bookClear
  split
  · rfl
  · next hno =>
    have hn : s.sbk.nonce = none := by
      rcases h with h | h | h
      · simp [h] at hno
      · exact h
      · exact absurd (Option.isSome_iff_ne_none.2 h) (by simp_all)
    rw [hn]

theorem bookClear_begins {s : State} (hf : s.sbk.frozen = true) (hc : s.sbk.clearing = none) {n : Bytes} (hn : s.sbk.nonce = some n)
    (m : Nat) (key : Option Bytes) : s.bookClear m key =
      { s with sbk := { s.sbk with nonce := none, clearing := some (m, s.bookTokenBytes,
        (key.map fun k => clearToken k n m s.sbk.gen).getD []) } } := by
  unfold bookClear
  rw [hf, hc, hn]
  cases key <;> rfl

theorem bookNonce_drawn {s : State} (h : s.wdn.trngOk = true) : s.bookNonce = { s with
    sbk := { s.sbk with nonce := some (s.freeBytes 16), nonceAt := s.time }, wdn := { s.wdn with drbgReqs := s.wdn.drbgReqs + 1 },
    freeCtr := s.freeCtr + 1 } := if_pos h

theorem bookNonce_failed {s : State} (h : s.wdn.trngOk = false) :
    s.bookNonce = { s with sbk := { s.sbk with nonce := none } }.raise rSbkEvents 0x20 := if_neg (by rw [h]; decide)

/-! ### The timers (R511, R513) -/

theorem exec_thawTimer (s : State) : exec .thawTimer s =
    if s.sbk.frozen = true ∧ s.sbk.clearing.isNone = true ∧ s.sbk.thawAt.toNat ≤ s.time.toNat then .next (s.bookThaw.raise rSbkEvents 4)
    else .next s := rfl

theorem exec_nonceExpiry (s : State) : exec .nonceExpiry s =
    if s.sbk.nonce.isSome = true ∧ 1000000000 ≤ (s.time - s.sbk.nonceAt).toNat then .next { s with sbk := { s.sbk with nonce := none } }
    else .next s := rfl

/-! ### The end of a clear (R515, R516) -/

theorem exec_clearCompare {s : State} (h : s.sbk.clearing ≠ none) : exec .clearCompare s =
    .next (if s.bookCompare.sbk.gen = s.sbk.gen then s.bookCompare else { s.bookCompare with harvested := 0 }) := by
  show execClearCompare s = _
  rw [execClearCompare, if_pos (Option.isSome_iff_ne_none.2 h)]

theorem recImage_cleared (b : Sbk) (m : Nat) (time : W64) : recImage (clearedRec b m 0) time =
    leBytes 8 (40 + 1 * 2 ^ 16 + 0x80 * 2 ^ 28) ++ leBytes 8 time.toNat ++ leBytes 8 b.gen ++ leBytes 4 b.fill ++ leBytes 4 b.fullMissed
      ++ leBytes 4 b.frozenMissed ++ leBytes 1 m ++ [0, 0, 0] := by
  have hlen : (clearedRec b m 0).payload.length = 24 := by simp [clearedRec]
  have hpad (l : Bytes) (h : l.length = 40) : padTo 40 l = l := by
    rw [padTo, ← h]
    simpa using sliceAt_whole l []
  rw [recImage, recSize, hlen]
  refine (hpad _ (by simp [hlen])).trans ?_
  simp only [clearedRec, List.append_assoc]
  rfl

/-- The book that a clear empties. -/
def emptiedBook (s : State) : State := { s with sbk := { s.sbk with
  fill := 0, gen := s.sbk.gen + 1, full := false, fullMissed := 0, frozenMissed := 0, frozen := false, clearing := none,
  book := [], clearsDone := s.sbk.clearsDone + 1 } }

/-- The book after a clear: empty but for the record of it. -/
def clearedBook (s : State) (m : Nat) : State := { s with sbk := { s.sbk with
  fill := 40, gen := s.sbk.gen + 1, full := false, fullMissed := 0, frozenMissed := 0, frozen := false, clearing := none,
  clearsDone := s.sbk.clearsDone + 1, book := Mem.writeBytes [] 0 (recImage (clearedRec s.sbk m 0) s.time) } }

theorem recSize_clearedRec (b : Sbk) (m : Nat) : recSize (clearedRec b m 0) = 40 := by simp [recSize, clearedRec, ceilDiv]

theorem bookCompare_matches {s : State} {m : Nat} {g : Bytes} (hc : s.sbk.clearing = some (m, g, g)) :
    s.bookCompare = (s.clearedBook m).raise rSbkEvents 8 := by
  have hsize := recSize_clearedRec s.sbk m
  rw [bookCompare, hc]
  dsimp only
  have hroom : s.emptiedBook.sbk.fill + recSize (clearedRec s.sbk m 0) ≤ 0x400000 := by rw [hsize]; exact (by decide : 0 + 40 ≤ 0x400000)
  have hlow : ¬ (s.emptiedBook.sbk.fill ≤ 0x200000 ∧ s.emptiedBook.sbk.fill + recSize (clearedRec s.sbk m 0) > 0x200000) := by
    rw [hsize]
    exact (by decide : ¬ (0 ≤ 0x200000 ∧ 0 + 40 > 0x200000))
  have hput : s.emptiedBook.bookPut (clearedRec s.sbk m 0) = (s.clearedBook m, true) := by
    rw [bookPut_stored (s := s.emptiedBook) rfl rfl rfl hroom, if_neg hlow, hsize]
    rfl
  rw [if_pos rfl]
  show (s.emptiedBook.bookPut (clearedRec s.sbk m 0)).1.raise rSbkEvents 8 = _
  rw [hput]

theorem bookCompare_differs {s : State} {m : Nat} {g e : Bytes} (hc : s.sbk.clearing = some (m, g, e)) (hne : g ≠ e) : s.bookCompare =
    { s with sbk := { s.sbk with clearing := none, clearsRefused := s.sbk.clearsRefused + 1 } }.raise rSbkEvents 0x10 := by
  rw [bookCompare, hc]
  exact if_neg hne

/-! ### The harvest (R518) -/

/-- A harvest of at most one page of new bytes writes that page and catches up with FILL. -/
theorem harvestInto_page {s : State} {n : Nat} (p k : Nat) (hn : n = s.sbk.fill - s.harvested) (h0 : 0 < n) (hle : n ≤ 4080) :
    (harvestInto p (k + 2) s).sbk = s.sbk ∧ (harvestInto p (k + 2) s).harvested = s.sbk.fill ∧
    Tbl.find ((harvestInto p (k + 2) s).pool p).harvest (16384 * s.headId + (s.pool p).harvestAt % 16384) =
      some (s.harvestPage s.harvested n) := by
  have hmin : min 4080 (s.sbk.fill - s.harvested) = n := by omega
  have hsum : s.harvested + n = s.sbk.fill := by omega
  have hstop (t : State) (h : t.sbk.fill ≤ t.harvested) : harvestInto p (k + 1) t = t := by rw [harvestInto, if_pos h]
  rw [harvestInto, if_neg (by omega)]
  dsimp only
  rw [hmin, hstop _ (le_of_eq hsum.symm)]
  refine ⟨rfl, hsum, ?_⟩
  exact (congrArg (fun x : Pool => Tbl.find x.harvest _) (pool_setPool s p _)).trans (Tbl.find_set_same _ _ _)

theorem exec_harvest {s : State} {p : Nat} (hp : s.lowestOwned = some p)
    (hdue : s.regBit rSbkEvents 0 = true ∨ 6000000000 ≤ (s.time - s.harvestedAt).toNat) :
    exec .harvest s = .next { harvestInto p 1100 s with harvestedAt := s.time } := by
  show execHarvest s = _
  rw [execHarvest, hp]
  exact if_pos hdue

/-! ### The calls of R519 -/

section

variable {s : State} {call : Nat} {c : Call}

/-- One record for which the parameter block has room, and not for two. -/
theorem libRecords_one (hc : Tbl.find s.calls call = some c) {r : Bytes} (h : 1 ≤ callPlen c.entry / r.length) :
    s.libRecords call [r] = (s.setParam c r).libExit call 0 1 := by
  rw [libRecords_eq hc (size := r.length) (by simp), List.length_singleton, Nat.min_eq_left h]
  simp

theorem exec_bookToken_bad (hl : s.libCall call 108 = some c)
    (h : callArg c.entry 0 ∉ [0x20, 0x21, 0x22, 0x23, 0x50] ∨ callPlen c.entry < 32) :
    exec (.bookToken call) s = .next (s.libFail call 0x90) := by
  show execBookToken call s = _
  rw [execBookToken, hl]
  dsimp only
  refine if_pos ?_
  simp only [List.mem_cons, List.not_mem_nil, or_false] at h
  simp only [Bool.or_eq_true, Bool.not_eq_true', Bool.or_eq_false_iff, decide_eq_false_iff_not, decide_eq_true_eq]
  omega

theorem exec_bookToken_good (hl : s.libCall call 108 = some c) (hm : callArg c.entry 0 ∈ [0x20, 0x21, 0x22, 0x23, 0x50])
    (hp : 32 ≤ callPlen c.entry) {k n : Bytes} (hk : s.bookKey = some k) (hn : s.sbk.nonce = some n) :
    exec (.bookToken call) s = .next (s.libRecords call [clearToken k n (callArg c.entry 0) s.sbk.gen]) := by
  show execBookToken call s = _
  rw [execBookToken, hl]
  dsimp only
  rw [if_neg, hk, hn]
  simp only [List.mem_cons, List.not_mem_nil, or_false] at hm
  simp only [Bool.or_eq_true, Bool.not_eq_true', Bool.or_eq_false_iff, decide_eq_false_iff_not, decide_eq_true_eq]
  omega

theorem exec_bookRead_range (hl : s.libCall call 109 = some c)
    (h : 15 < callPool c.entry ∨ 1 < callArg c.entry 0 ∨ 16384 ≤ callArg c.entry 1) :
    exec (.bookRead call) s = .next (s.libFail call 0x90) := by
  show execBookRead call s = _
  rw [execBookRead, hl]
  exact if_pos h

theorem exec_bookRead_absent (hl : s.libCall call 109 = some c)
    (h : ¬ (15 < callPool c.entry ∨ 1 < callArg c.entry 0 ∨ 16384 ≤ callArg c.entry 1))
    (hd : Tbl.find (s.pool (callPool c.entry)).harvest (16384 * callArg c.entry 0 + callArg c.entry 1) = none) :
    exec (.bookRead call) s = .next (s.libFail call 0x93) := by
  show execBookRead call s = _
  rw [execBookRead, hl]
  dsimp only
  rw [if_neg h, hd]
  rfl

theorem exec_bookRead_page (hl : s.libCall call 109 = some c)
    (h : ¬ (15 < callPool c.entry ∨ 1 < callArg c.entry 0 ∨ 16384 ≤ callArg c.entry 1)) {d : Bytes}
    (hd : Tbl.find (s.pool (callPool c.entry)).harvest (16384 * callArg c.entry 0 + callArg c.entry 1) = some d)
    (hp : callPlen c.entry / 4096 = 1) : exec (.bookRead call) s = .next (s.libRecords call [d]) := by
  have hone : min (callPlen c.entry / 4096) (16384 - callArg c.entry 1) = 1 := by omega
  show execBookRead call s = _
  rw [execBookRead, hl]
  dsimp only
  rw [if_neg h, hone]
  simp [hd]

end

end State

/-- Settles O25, clause by clause: staging and commits, storage, the SEND of a record, the actions of CTRL, the timers and the compare,
the harvest, and the two calls. -/
theorem summitBookKeepsRecords : Obligations.SummitBookKeepsRecords := by
  unfold Obligations.SummitBookKeepsRecords
  refine ⟨?_, ?_, ?_, ?_, ?_, ?_, ?_, ?_, ?_, ?_⟩
  · intro s m v hm
    have hst := stager_of_mem hm
    refine ⟨fun hg => ?_, fun g hs hg => ?_, fun g hs hl hg => ?_, fun hs => ⟨fun hg => ?_, fun hg => ?_⟩,
      fun g len hs hl hv hg hlen => ⟨fun h16 hmax hp => ⟨fun hroom hnone => ?_, fun hno => ?_⟩, fun hbad => ?_⟩⟩
    · rw [gives, exec_wrHdr hg, wrHdrAct_stages hst, setStage]
    · rw [gives, exec_wrData hg, wrDataAct_word hst hs, setStage]
    · rw [gives, exec_wrData hg, wrDataAct_half hst hs hl, setStage]
    · rw [gives, exec_wrData hg, wrDataAct_unstaged hst hs]
    · rw [gives, exec_wrCommit hg, wrCommitAct_unstaged hst hs]
    · rw [hlen] at h16 hmax hp hroom ⊢
      have hok := (commitOk_iff hl).2 ⟨h16, hmax, hp⟩
      have hfits : s.commitFits m g = true := by rw [commitFits_iff, recSize_commitRec hl hok]; exact hroom
      rw [gives, exec_wrCommit hg, wrCommitAct_staged hst hs hv, if_neg (by simp [hok]), if_pos (by simpa [hfits] using hnone),
        commitRec_eq hl]
    · rw [hlen] at h16 hmax hp hno
      have hok := (commitOk_iff hl).2 ⟨h16, hmax, hp⟩
      have hfits : s.commitFits m g = false := by
        rw [← Bool.not_eq_true, commitFits_iff, recSize_commitRec hl hok]
        omega
      rw [gives, exec_wrCommit hg, wrCommitAct_staged hst hs hv, if_neg (by simp [hok]), if_neg (by simp [hfits])]
    · rw [hlen] at hbad
      have hno : commitOk g = false := by
        rw [← Bool.not_eq_true, commitOk_iff hl]
        omega
      rw [gives, exec_wrCommit hg, wrCommitAct_staged hst hs hv, if_pos hno]
  · intro s v
    exact ⟨fun hg => exec_wrHdr hg v, fun hg => exec_wrData hg v, fun hg => exec_wrCommit hg v⟩
  · intro s r q size hq hh hj hsize
    have hexec : exec .sbkStore s = .next ((s.dequeued q).bookPut r).1 := congrArg _ (sbkStoreOne_unheld hq hh hj)
    replace hsize : size = recSize r := hsize
    subst hsize
    refine ⟨fun hf hc hfull hle hhalf => ?_, fun hfc => ?_, fun hf hc hfull => ?_, fun hf hc hfull hgt => ?_⟩
    · have hno : ¬ ((s.dequeued q).sbk.fill ≤ 0x200000 ∧ (s.dequeued q).sbk.fill + recSize r > 0x200000) :=
        fun h => by have := h.1; have := h.2; simp only [dequeued] at *; omega
      rw [gives, hexec, bookPut_stored (s := s.dequeued q) hf hc hfull hle, if_neg hno]
      rfl
    · rw [gives, hexec, bookPut_frozen (s := s.dequeued q) hfc]
      rfl
    · rw [gives, hexec, bookPut_full (s := s.dequeued q) hf hc hfull]
      rfl
    · rw [gives, hexec, bookPut_overflow (s := s.dequeued q) hf hc hfull hgt]
      rfl
  · intro s m r g hq hj hh hl hlen
    obtain ⟨hqueue, hheld, -, -⟩ := bookPut_frame (s.dequeued []) r
    have hone := retryCommits_one (s := ((s.dequeued []).bookPut r).1) hqueue (hheld.trans hh) hlen
    refine ⟨_, exec_sbkStore_cons hq, ?_, ?_⟩
    · rw [hj]
      exact congrArg (fun t : State => t.sbk.heldCommits) hone
    · rw [hj, ← commitRec_eq hl]
      exact congrArg (fun t : State => t.sbk.queue) hone
  · intro s n r q j hq hh hr hj
    obtain ⟨hqueue, hheld, hjobs, hclimbs⟩ := bookPut_frame (s.dequeued q) r
    have hok := bookPut_ok (s.dequeued q) r
    have hone : s.sbkStoreOne = ((s.dequeued q).bookPut r).1.sbkJobDone (some n) ((s.dequeued q).bookPut r).2 := by
      rw [sbkStoreOne_cons hq, hr, sbkJobDone_some (by rw [hjobs]; exact hj)]
      exact retryCommits_nil ((congrArg (fun b : Sbk => b.heldCommits) (doneToken_frame _ _ _ _).2).trans (hheld.trans hh))
    rw [sbkJobDone_some (by rw [hjobs]; exact hj)] at hone
    generalize (s.dequeued q).bookPut r = u at hqueue hjobs hclimbs hok hone
    refine ⟨_, exec_sbkRecord_first hq hr, ?_, ?_, fun hrun ht => ?_⟩
    · rw [hone, (doneToken_frame _ _ _ _).2]
      exact hqueue
    · rw [hone, (doneToken_frame _ _ _ _).1, hjobs]
      rfl
    · have hc : ({ u.1 with jobs := Tbl.del u.1.jobs n } : State).climb j.cid = s.climb j.cid := by
        show ({ u.1 with jobs := Tbl.del u.1.jobs n } : State).climb j.cid = _
        simp only [climb, hclimbs]
        rfl
      rw [hone, tok_doneToken (by rw [hc]; exact hrun) (by rw [hc]; exact ht)]
      refine congrArg (fun x => Tok.done (cplWord x 0x0B 0)) ?_
      by_cases hmiss : s.sbk.frozen = true ∨ s.sbk.clearing ≠ none ∨ s.sbk.full = true ∨
          0x400000 < s.sbk.fill + ceilDiv (16 + r.payload.length) 8 * 8
      · rw [if_pos hmiss, if_neg (fun h => hok.1 h hmiss)]
      · rw [if_neg hmiss, if_pos (hok.2 hmiss)]
  · intro s u m hg hu
    have hu : u = s.freezeMsZero := hu
    subst hu
    refine ⟨?_, ?_, fun ht => ⟨s.freeBytes 16, by simp [freeBytes], ?_⟩, fun ht => ?_, fun h => ?_, fun n hk hf hc hn => ?_,
      fun k hk n hf hc hn => ?_⟩
    · exact exec_ctrl_served hg (v := 1) (by simp) (by decide) rfl (.inl rfl)
    · refine exec_ctrl_served hg (v := 2) (by simp) (by decide) rfl (.inl ?_)
      split <;> rfl
    · exact exec_ctrl_served hg (v := 4) (by simp) (by decide) (bookNonce_drawn (s := s.freezeMsZero) ht) (.inl rfl)
    · exact exec_ctrl_served hg (v := 4) (by simp) (by decide) (bookNonce_failed (s := s.freezeMsZero) ht)
        (.inl (by rw [raise_sbk]))
    · exact exec_ctrl_served hg (v := 8) (by simp) (by decide) (bookClear_refused (s := s.freezeMsZero) h m s.bookKey)
        (.inl (by rw [raise_sbk]))
    · have hbegin : s.freezeMsZero.sbkCtrlAct m 8 s.bookKey = _ := bookClear_begins (s := s.freezeMsZero) hf hc hn m s.bookKey
      rw [gives, exec_ctrl hg 8 (by simp), sbkCtrl_eq m (by decide), hbegin, hc, hk]
      rfl
    · have hbegin : s.freezeMsZero.sbkCtrlAct m 8 s.bookKey = _ := bookClear_begins (s := s.freezeMsZero) hf hc hn m s.bookKey
      rw [hk] at hbegin
      exact exec_ctrl_served hg (v := 8) (by simp) (by decide) (hk ▸ hbegin) (.inr (by simp [hk]))
  · intro s
    refine ⟨fun hf hc ht => ?_, fun h => ?_, fun n hn => ⟨fun h => ?_, fun h => ?_⟩, fun m g hc => ?_, fun m g e hc hne => ?_⟩
    · rw [gives, exec_thawTimer, if_pos ⟨hf, Option.isNone_iff_eq_none.2 hc, ht⟩, bookThaw, if_pos hf]
    · rw [gives, exec_thawTimer, if_neg]
      rintro ⟨-, hc, ht⟩
      rcases h with h | h
      · exact h (Option.isNone_iff_eq_none.1 hc)
      · omega
    · rw [gives, exec_nonceExpiry, if_pos ⟨Option.isSome_iff_exists.2 ⟨n, hn⟩, h⟩]
    · rw [gives, exec_nonceExpiry, if_neg fun hx => by omega]
    · refine ⟨{ s.bookCompare with harvested := 0 }, ?_, rfl, ?_, ?_⟩
      · rw [gives, exec_clearCompare (by simp [hc]), if_neg]
        rw [bookCompare_matches hc, raise_sbk]
        exact Nat.succ_ne_self _
      · rw [bookCompare_matches hc, raise_sbk, clearedBook]
        rw [recImage_cleared]
      · show s.bookCompare.regs = _
        rw [bookCompare_matches hc, raise_regs, raise_regs]
        rfl
    · rw [gives, exec_clearCompare (by simp [hc]), bookCompare_differs hc hne, raise_sbk, if_pos rfl]
  · intro s p n hp hdue hn h0 hle
    obtain ⟨hsbk, hharv, hpage⟩ := harvestInto_page (s := s) p 1098 hn h0 hle
    exact ⟨_, exec_harvest hp hdue, hharv, rfl, hsbk, hpage⟩
  · intro s call m c hl hm
    rw [hm]
    refine ⟨fun h => ?_, fun k n hmem hp hk hn hc => ?_⟩
    · obtain ⟨x, hx⟩ := libFail_exit s call 0x90
      exact ⟨x, by rw [gives, exec_bookToken_bad hl h, hx]⟩
    · rw [gives, exec_bookToken_good hl hmem hp hk hn, libRecords_one hc]
      · rfl
      · rw [clearToken, hmac256_length]
        omega
  · intro s call p h i c hl hp hh hi
    rw [hp, hh, hi]
    refine ⟨fun hr => ?_, fun h1 h2 h3 hd => ?_, fun d h1 h2 h3 hd hlen hplen hc => ?_⟩
    · obtain ⟨x, hx⟩ := libFail_exit s call 0x90
      exact ⟨x, by rw [gives, exec_bookRead_range hl hr, hx]⟩
    · obtain ⟨x, hx⟩ := libFail_exit s call 0x93
      exact ⟨x, by rw [gives, exec_bookRead_absent hl (by omega) hd, hx]⟩
    · rw [gives, exec_bookRead_page hl (by omega) hd hplen, libRecords_one hc (by rw [hlen]; omega)]

end Sys2Proof.Machine
end

section
/-! SUPPORT for O41. What applying a group leaves in a pool: the groups that wait for their landing, and, for the entries that a shadow
applies on receipt (R322), the lines and the namespaces. -/

open Sys2Proof Sys2Proof.Machine Sys2Proof.Machine.State

namespace Sys2Proof.Machine.Pool

variable (x : Pool)

/-! ### Records and counts -/

theorem setRec_frame (h : Nat) (r : CRec) : ∃ a b, x.setRec h r = { x with recs := a, dir := b } := by
  unfold setRec
  split
  · exact ⟨_, _, rfl⟩
  · exact ⟨_, _, rfl⟩

theorem refAdd_frame (h : Nat) (d : Int) : ∃ a b c, x.refAdd h d = { x with recs := a, dir := b, dying := c } := by
  have hlisted (r : CRec) (die : Bool) : ∃ a b c, (if die then { x.setRec h r with dying := (x.setRec h r).dying ++ [h] } else x.setRec h r) =
      { x with recs := a, dir := b, dying := c } := by
    obtain ⟨a, b, hr⟩ := setRec_frame x h r
    rw [hr]
    cases die
    · exact ⟨_, _, _, rfl⟩
    · exact ⟨_, _, _, rfl⟩
  unfold refAdd
  cases Tbl.find x.recs h with
  | none => exact ⟨_, _, _, rfl⟩
  | some r => exact hlisted _ _

/-- An entry that a shadow applies on receipt changes records and counts alone (R322). -/
theorem applyEntry_early {e : Bytes} (he : early e = true) (seq : Nat) (time : W64) (st : Pool × Option (Nat × Bytes)) :
    (applyEntry seq time st e).1.lines = st.1.lines ∧ (applyEntry seq time st e).1.nss = st.1.nss := by
  obtain ⟨x, key⟩ := st
  have htyp : eTyp e = 2 ∨ eTyp e = 3 := by
    simp only [early, Bool.or_eq_true, Bool.and_eq_true, decide_eq_true_eq] at he
    omega
  rcases htyp with h | h
  · obtain ⟨a, b, hr⟩ := setRec_frame x (fieldAt e 8 6) { loc := fieldAt e 0x10 8, ref := fieldAt e 0x18 8 }
    simp only [applyEntry, h, hr, and_self]
  · obtain ⟨a, b, c, hr⟩ := refAdd_frame x (fieldAt e 8 6) (signed32 (fieldAt e 0x10 4))
    simp only [applyEntry, h, hr, and_self]

theorem applyEarly_map (g : Group) : (x.applyEarly g).lines = x.lines ∧ (x.applyEarly g).nss = x.nss := by
  refine List.foldlRecOn (motive := fun st : Pool × Option (Nat × Bytes) => st.1.lines = x.lines ∧ st.1.nss = x.nss) _ _ ⟨rfl, rfl⟩
    fun st h e he => ?_
  obtain ⟨hl, hn⟩ := applyEntry_early (List.mem_filter.1 he).2 g.seq g.time st
  exact ⟨hl.trans h.1, hn.trans h.2⟩

/-! ### The groups that wait for their landing -/

theorem waiting_foldl {α : Type} {f : Pool → α → Pool} (hf : ∀ x a, (f x a).waiting = x.waiting) (l : List α) (x : Pool) :
    (l.foldl f x).waiting = x.waiting :=
  List.foldlRecOn (motive := fun y : Pool => y.waiting = x.waiting) l f rfl fun y hy a _ => (hf y a).trans hy

@[simp] theorem waiting_setDir (m : Nat) (d : DirE) : (x.setDir m d).waiting = x.waiting := rfl
@[simp] theorem waiting_setLine (ln : Nat) (l : Line) : (x.setLine ln l).waiting = x.waiting := rfl
@[simp] theorem waiting_setUse (a : Nat) (u : SlabUse) : (x.setUse a u).waiting = x.waiting := rfl
@[simp] theorem waiting_updNs (n : Nat) (f : Ns → Ns) : (x.updNs n f).waiting = x.waiting := rfl
@[simp] theorem waiting_updSeg (n : Nat) (f : Seg → Seg) : (x.updSeg n f).waiting = x.waiting := rfl
@[simp] theorem waiting_updUnit (n : Nat) (f : LUnit → LUnit) : (x.updUnit n f).waiting = x.waiting := rfl
@[simp] theorem waiting_pairPart (n part : Nat) (d : Bytes) : (x.pairPart n part d).waiting = x.waiting := rfl

@[simp] theorem waiting_setRec (h : Nat) (r : CRec) : (x.setRec h r).waiting = x.waiting := by
  obtain ⟨a, b, hr⟩ := setRec_frame x h r
  rw [hr]

@[simp] theorem waiting_refAdd (h : Nat) (d : Int) : (x.refAdd h d).waiting = x.waiting := by
  obtain ⟨a, b, c, hr⟩ := refAdd_frame x h d
  rw [hr]

@[simp] theorem waiting_touch (m : Nat) : (x.touch m).waiting = x.waiting := by
  unfold touch
  dsimp only
  split <;> rfl

@[simp] theorem waiting_touchLine (ln : Nat) (hold : Bool) : (x.touchLine ln hold).waiting = x.waiting := by
  unfold touchLine
  dsimp only
  repeat' split
  all_goals simp

@[simp] theorem waiting_setObjs (n : Nat) (f : List Obj → List Obj) : (x.setObjs n f).waiting = x.waiting := by
  unfold setObjs
  split
  · rfl
  · refine (waiting_foldl (fun q i => ?_) _ _).trans (waiting_updNs x _ _)
    split
    · rfl
    · exact waiting_touch q _

@[simp] theorem waiting_setPreserved (l : List Preserved) (i : Nat) : (x.setPreserved l i).waiting = x.waiting := by
  refine (waiting_foldl (fun q j => ?_) _ _).trans rfl
  split <;> rfl

@[simp] theorem waiting_addPreserved (im : Preserved) : (x.addPreserved im).waiting = x.waiting := waiting_setPreserved x _ _
@[simp] theorem waiting_delPreserved (m high : Nat) : (x.delPreserved m high).waiting = x.waiting := waiting_setPreserved x _ _

/-- Counting each chunk of some lines up or down. -/
@[simp] theorem waiting_lineRefs (ls : Tbl Line) (d : Int) :
    (ls.foldl (fun (q : Pool) y => (lineRefs y.2).foldl (fun q h => q.refAdd h d) q) x).waiting = x.waiting :=
  waiting_foldl (fun q y => waiting_foldl (fun q h => waiting_refAdd q h d) (lineRefs y.2) q) ls x

@[simp] theorem waiting_preserve (m low high : Nat) : (x.preserve m low high).waiting = x.waiting := by
  unfold preserve
  split
  · dsimp only
    split
    · exact waiting_addPreserved x _
    · rfl
  · simp

@[simp] theorem waiting_applySlab (sa use member owner seq : Nat) (time : W64) :
    (x.applySlab sa use member owner seq time).waiting = x.waiting := by
  unfold applySlab
  dsimp only
  repeat' split
  all_goals rfl

/-- An entry changes what it names in its pool, and never which groups wait. -/
theorem waiting_applyEntry (seq : Nat) (time : W64) (st : Pool × Option (Nat × Bytes)) (e : Bytes) :
    (applyEntry seq time st e).1.waiting = st.1.waiting := by
  obtain ⟨x, key⟩ := st
  unfold applyEntry
  dsimp only
  split
  all_goals repeat' split
  all_goals simp

theorem waiting_applyGroup (g : Group) : (x.applyGroup g).waiting = x.waiting :=
  List.foldlRecOn (motive := fun st : Pool × Option (Nat × Bytes) => st.1.waiting = x.waiting) _ _ rfl
    fun st h e _ => (waiting_applyEntry g.seq g.time st e).trans h

end Sys2Proof.Machine.Pool
end

section
/-! SUPPORT for O41. What the head's other parts leave alone: sending on the rope and the Cairn, completions, changes of mode and the end of
a library call keep the pools, the pair's state and the modules. -/

open Sys2Proof Sys2Proof.Machine Sys2Proof.Machine.State

namespace Sys2Proof.Machine.State

/-- `t` has the pools, the pair's state and the modules of `s`. -/
def sameArray (s t : State) : Prop := t.pools = s.pools ∧ t.pair = s.pair ∧ t.modules = s.modules

section

variable {s t u : State}

theorem sameArray.refl (s : State) : sameArray s s := ⟨rfl, rfl, rfl⟩

theorem sameArray.trans (h : sameArray s t) (g : sameArray t u) : sameArray s u :=
  ⟨g.1.trans h.1, g.2.1.trans h.2.1, g.2.2.trans h.2.2⟩

theorem sameArray.pools (h : sameArray s t) : t.pools = s.pools := h.1
theorem sameArray.pair (h : sameArray s t) : t.pair = s.pair := h.2.1
theorem sameArray.modules (h : sameArray s t) : t.modules = s.modules := h.2.2

theorem sameArray.pool (h : sameArray s t) (p : Nat) : t.pool p = s.pool p := pool_of_pools h.pools p

theorem sameArray.modu (h : sameArray s t) (m : Nat) : t.modu m = s.modu m := by
  unfold State.modu
  rw [h.modules]

theorem sameArray.foldl {α : Type} {f : State → α → State} (hf : ∀ s a, sameArray s (f s a)) (l : List α) (s : State) :
    sameArray s (l.foldl f s) :=
  List.foldlRecOn (motive := fun t : State => sameArray s t) l f (.refl s) fun _ h a _ => h.trans (hf _ a)

theorem sameArray.ite {c : Prop} [Decidable c] (ht : sameArray s t) (hu : sameArray s u) : sameArray s (if c then t else u) := by
  split
  · exact ht
  · exact hu

theorem sameArray.of_onlyCache (h : onlyCache s t) : sameArray s t := by
  obtain ⟨_, _, _, _, rfl⟩ := h
  exact ⟨rfl, rfl, rfl⟩

end

variable (s : State)

/-! ### Sending -/

theorem raise_sameArray (off m : Nat) : sameArray s (s.raise off m) := by
  obtain ⟨r, p, o, h⟩ := raise_frame s off m
  rw [h]
  exact ⟨rfl, rfl, rfl⟩

theorem sendRope_sameArray (typ : Nat) (prio : Bool) (d : Bytes) : sameArray s (s.sendRope typ prio d) := by
  rw [sendRope_frame]
  exact ⟨rfl, rfl, rfl⟩

theorem sendPutOff_sameArray (l : List (Nat × Bytes)) : sameArray s (sendPutOff l s) := by
  induction l generalizing s with
  | nil => exact .refl s
  | cons f r ih => exact .ite ((sendRope_sameArray s _ _ _).trans (ih _)) ⟨rfl, rfl, rfl⟩

/-- A frame that has been received has changed the rope alone. -/
theorem acceptFrame_sameArray (f : Bytes) : sameArray s (s.acceptFrame f) :=
  (show sameArray s _ from ⟨rfl, rfl, rfl⟩).trans (sendPutOff_sameArray _ _)

theorem recvRope_sameArray {s u : State} {typ : Nat} {f d : Bytes} (h : s.recvRope typ f = (some d, u)) : sameArray s u := by
  unfold recvRope at h
  dsimp only at h
  split at h
  · cases h
  · split at h
    · cases h
    · split at h
      · cases h
      · split at h
        · split at h
          · cases h
            exact acceptFrame_sameArray s f
          · cases h
        · split at h
          · split at h
            · cases h
              exact (show sameArray s _ from ⟨rfl, rfl, rfl⟩).trans (acceptFrame_sameArray _ f)
            · cases h
          · cases h

theorem sendCairn_sameArray (typ : Nat) (d : Bytes) : sameArray s (s.sendCairn typ d) ∧ (s.sendCairn typ d).pwr = s.pwr := by
  unfold sendCairn
  split
  · exact ⟨.refl s, rfl⟩
  · split
    · exact ⟨.refl s, rfl⟩
    · exact ⟨⟨rfl, rfl, rfl⟩, rfl⟩

theorem voteRequest_sameArray (pools reason : Nat) (es : List (Nat × Nat)) :
    sameArray s (s.voteRequest pools reason es) ∧ (s.voteRequest pools reason es).pwr = s.pwr := by
  unfold voteRequest
  dsimp only
  generalize (leBytes 8 s.crn.term.toNat ++ leBytes 1 reason ++ [0] ++ leBytes 2 pools ++ zeros 4 ++ _ : Bytes) = d
  split
  · exact sendCairn_sameArray s 1 d
  · exact ⟨(sendCairn_sameArray s 1 d).1.trans ⟨rfl, rfl, rfl⟩, (sendCairn_sameArray s 1 d).2⟩

/-! ### Completions (R309, R336, R383) -/

theorem anaNotify_sameArray : sameArray s s.anaNotify := by
  unfold anaNotify
  exact .foldl (fun t q => by split <;> exact ⟨rfl, rfl, rfl⟩) _ s

theorem anaChange_sameArray : sameArray s s.anaChange :=
  .ite ⟨rfl, rfl, rfl⟩ ((show sameArray s _ from ⟨rfl, rfl, rfl⟩).trans (anaNotify_sameArray _))

theorem shadowRemove_sameArray (n : Nat) (c : HCmd) : sameArray s (s.shadowRemove n c) := by
  unfold shadowRemove
  split
  · exact .ite (sendRope_sameArray s _ _ _) (.refl s)
  · exact .refl s

theorem postNow_sameArray (n : Nat) (c : HCmd) (st : NvmeStatus) (dw0 dw1 : Nat) (d : Bytes) : sameArray s (s.postNow n c st dw0 dw1 d) := by
  have h1 : sameArray s (((s.shadowRemove n c).delCmd n).unlock n) := (shadowRemove_sameArray s n c).trans ⟨rfl, rfl, rfl⟩
  unfold postNow
  dsimp only
  split
  · exact .ite h1 (h1.trans (sendRope_sameArray _ _ _ _))
  · refine .ite h1 ?_
    split
    · exact h1
    · split <;> exact h1.trans ⟨rfl, rfl, rfl⟩

theorem releaseHeld_sameArray : sameArray s s.releaseHeld := by
  have h1 : sameArray s s.releaseAna := .ite ((show sameArray s _ from ⟨rfl, rfl, rfl⟩).trans (anaNotify_sameArray _)) (.refl s)
  unfold releaseHeld
  refine (h1.trans (show sameArray s.releaseAna _ from ⟨rfl, rfl, rfl⟩)).trans (.foldl (fun t p => ?_) _ _)
  split
  · exact .ite (.refl t) (postNow_sameArray t _ _ _ _ _ _)
  · exact .refl t

/-! ### Modes (R536) -/

theorem setMode_sameArray (m : Nat) : sameArray s (s.setMode m) :=
  .ite (.refl s) (.ite ⟨rfl, rfl, rfl⟩ ⟨rfl, rfl, rfl⟩)

theorem setMode_mode (m : Nat) : (s.setMode m).pwr.mode = m := by
  unfold setMode
  split
  · next h => exact h.symm
  · dsimp only
    split <;> rfl

theorem settleMode_sameArray : sameArray s s.settleMode :=
  .ite (.ite (setMode_sameArray s 5) (.ite (setMode_sameArray s 4) (setMode_sameArray s 6))) (.refl s)

theorem pairMode_sameArray : sameArray s s.pairMode :=
  .ite (setMode_sameArray s 4) (.ite ((setMode_sameArray s 5).trans ⟨rfl, rfl, rfl⟩)
    (.ite (setMode_sameArray s 5) (.ite (setMode_sameArray s 6) (.refl s))))

/-! ### The end of a library call (R37, R38, R62) -/

theorem post_sameArray (p : Posted) : sameArray s (s.post p) := .ite ⟨rfl, rfl, rfl⟩ ⟨rfl, rfl, rfl⟩

theorem sendVec_sameArray (fn v : Nat) : sameArray s (s.sendVec fn v) := by
  obtain ⟨p, o, h⟩ := sendVec_frame s fn v
  rw [h]
  exact ⟨rfl, rfl, rfl⟩

theorem cplWrite_sameArray (c : Cpl) : sameArray s (s.cplWrite c) := by
  have h1 (a : Pep) (p : Posted) : sameArray s (({ s with pep := a }).post p) :=
    (show sameArray s { s with pep := a } from ⟨rfl, rfl, rfl⟩).trans (post_sameArray _ p)
  exact .ite ((h1 _ _).trans (sendVec_sameArray _ 0 1)) (h1 _ _)

theorem cplPush_sameArray (c : Cpl) : sameArray s (s.cplPush c) :=
  .ite ((show sameArray s _ from ⟨rfl, rfl, rfl⟩).trans (raise_sameArray _ _ _)) (cplWrite_sameArray s c)

theorem endCall_sameArray (n status ridge detail result : Nat) : sameArray s (s.endCall n status ridge detail result) := by
  unfold endCall
  split
  · exact .refl s
  · next c _ =>
    have h1 : sameArray s { s with calls := Tbl.del s.calls n } := ⟨rfl, rfl, rfl⟩
    exact .ite h1 (.ite ⟨rfl, rfl, rfl⟩ (h1.trans (cplPush_sameArray _ _)))

theorem callExit_sameArray (n code : Nat) (g : W64) : sameArray s (s.callExit n code g) := by
  unfold callExit
  split
  · exact .refl s
  · refine (sameArray.ite (.refl s) (.ite ?_ (post_sameArray s _))).trans (endCall_sameArray _ _ _ _ _ _)
    exact (sameArray.of_onlyCache (dmaTouch_onlyCache s _ _ _)).trans ⟨rfl, rfl, rfl⟩

theorem offCore_sameArray (cid : Nat) : sameArray s (s.offCore cid) := by
  unfold offCore
  split
  · exact .ite ⟨rfl, rfl, rfl⟩ (.refl s)
  · exact .refl s

theorem doneToken_sameArray (cid tok : Nat) (w : W64) : sameArray s (s.doneToken cid tok w) := by
  rw [doneToken_eq]
  exact ⟨rfl, rfl, rfl⟩

theorem freeBuf_sameArray (ridge k : Nat) : sameArray s (s.freeBuf ridge k) := by
  unfold freeBuf
  split
  · exact .refl s
  · exact ⟨rfl, rfl, rfl⟩

theorem freeClimb_sameArray (cid : Nat) : sameArray s (s.freeClimb cid) := by
  have h1 : sameArray s ((s.ownedBufs cid).foldl (fun t k => t.freeBuf (cid / 1024) k) s) := .foldl (fun t k => freeBuf_sameArray t _ k) _ s
  unfold freeClimb
  dsimp only
  split
  · exact (h1.trans (show sameArray _ _ from ⟨rfl, rfl, rfl⟩)).trans (doneToken_sameArray _ _ _ _)
  · exact h1.trans ⟨rfl, rfl, rfl⟩

theorem dropCtx_sameArray (cid : Nat) : sameArray s (s.dropCtx cid) := by
  rw [dropCtx_frame]
  exact ⟨rfl, rfl, rfl⟩

theorem retire_sameArray (cid : Nat) (why : EndWhy) : sameArray s (s.retire cid why) := by
  have h1 : sameArray s (((s.offCore cid).updClimb cid (fun c => { c with core := none, ended := why, await := .none })).dropCtx cid) :=
    ((offCore_sameArray s cid).trans (show sameArray _ _ from ⟨rfl, rfl, rfl⟩)).trans (dropCtx_sameArray _ cid)
  exact .ite (h1.trans (freeClimb_sameArray _ cid)) (h1.trans ⟨rfl, rfl, rfl⟩)

theorem libTurn_sameArray (cid : Nat) : sameArray s (s.libTurn cid) := by
  unfold libTurn
  dsimp only
  refine .ite (.refl s) ?_
  have h1 : sameArray s (if (s.climb cid).state = .ready then s else s.wakeUp cid) := .ite (.refl s) ⟨rfl, rfl, rfl⟩
  generalize (if (s.climb cid).state = .ready then s else s.wakeUp cid) = u at h1 ⊢
  split
  · exact h1.trans ⟨rfl, rfl, rfl⟩
  · exact h1.trans ⟨rfl, rfl, rfl⟩

theorem libExit_sameArray (n code result : Nat) : sameArray s (s.libExit n code result) := by
  unfold libExit
  split
  · exact .refl s
  · dsimp only
    split
    · exact ((callExit_sameArray s _ _ _).trans (libTurn_sameArray _ _)).trans (retire_sameArray _ _ _)
    · exact callExit_sameArray s _ _ _

theorem libDone_sameArray (n : Nat) : sameArray s (s.libDone n) :=
  (show sameArray s s.used from ⟨rfl, rfl, rfl⟩).trans (libExit_sameArray _ _ _ _)

/-! ### Groups keep the pair's state -/

theorem acceptGroup_pair (p origin : Nat) (es : List Bytes) (reserved : Option Nat) (ref : Nat) :
    (s.acceptGroup p origin es reserved ref).1.pair = s.pair := by
  have hsettle (t : State) : (t.settleDying p).pair = t.pair := by
    obtain ⟨u, ⟨_, _, _, _, _, _, _, rfl⟩, h⟩ := settleDying_spec t p
    rw [h]
    rfl
  have hstream (t : State) (b : Bool) (d : Bytes) (f : Pool → Pool) :
      (if b then (t.sendRope 0x04 false d).updPool p f else t).pair = t.pair := by
    cases b
    · rfl
    · exact (sendRope_sameArray t _ _ d).pair
  have hrelay (g : Group) (l : List Nat) (t : State) :
      (l.foldl (fun (t : State) m => { t with svc := Tbl.set t.svc (Tbl.next t.svc) (.relay p m g) }) t).pair = t.pair :=
    List.foldlRecOn (motive := fun u : State => u.pair = t.pair) l _ rfl fun u h _ _ => h
  unfold acceptGroup
  dsimp only
  split
  · exact (hrelay _ _ _).trans ((hstream _ _ _ _).trans (hsettle _))
  · exact (hstream _ _ _ _).trans (hsettle _)

theorem evalFill_pair (p : Nat) : (s.evalFill p).pair = s.pair := by
  unfold evalFill
  dsimp only
  split <;> rfl

theorem submit_pair (p origin : Nat) (es : List Bytes) : (s.submit p origin es).pair = s.pair := by
  unfold submit
  dsimp only
  split
  · rfl
  · split
    · exact (evalFill_pair _ p).trans (acceptGroup_pair s p origin es none 0)
    · exact acceptGroup_pair s p origin es none 0

theorem sendHistory_sameArray (p : Nat) : sameArray s (s.sendHistory p) := by
  unfold sendHistory
  dsimp only
  refine .foldl (fun t g => ?_) _ s
  exact .ite ((sendRope_sameArray t _ _ _).trans (sendRope_sameArray _ _ _ _)) (sendRope_sameArray t _ _ _)

end Sys2Proof.Machine.State
end

section
/-! The journal and the queue shadow at the shadow, and acknowledgements at the owner (part of O41). -/

open Sys2Proof Sys2Proof.Machine Sys2Proof.Machine.State

namespace Sys2Proof.Machine.State

/-! ### Frames of the rope -/

theorem withFrame_some {s u : State} {typ : Nat} {f d : Bytes} (h : s.recvRope typ f = (some d, u)) (act : Bytes → State → State) :
    s.withFrame typ f act = act d u := by
  rw [withFrame, h]

/-- Changing a listed pool sets it. -/
theorem updPool_eq_setPool {s : State} {p : Nat} (h : (Tbl.find s.pools p).isSome = true) (f : Pool → Pool) :
    s.updPool p f = s.setPool p (f (s.pool p)) := by
  obtain ⟨x, hx⟩ := Option.isSome_iff_exists.1 h
  rw [pool_of_find hx]
  unfold updPool Tbl.upd
  rw [hx]
  rfl

theorem listed_of_rel {s : State} {p : Nat} (h : (s.pool p).rel ≠ .none) : (Tbl.find s.pools p).isSome = true := by
  cases hf : Tbl.find s.pools p with
  | some x => rfl
  | none => exact absurd (by simp [pool, Tbl.getD, hf, Pool.fresh]) h

/-! ### Groups stored by the shadow (R322) -/

section

variable {s : State} {p : Nat} {g : Group}

/-- The shadow's copy of a pool once a group is stored. -/
def storedPool (x : Pool) (g : Group) (ref : Nat) : Pool :=
  let x1 := { x with
    jbuf := insSeq x.jbuf g, seq := max x.seq (g.seq + 1), refs := if g.origin = 0 then Tbl.set x.refs g.seq ref else x.refs }
  if g.origin = 0 then { (x1.applyEarly g) with waiting := x1.waiting ++ [g] } else x1.applyGroup g

/-- A group that the shadow holds already is discarded. -/
theorem storeGroup_held (h : g.seq ≤ (s.pool p).shadowDurable ∨ ∃ y ∈ (s.pool p).jbuf ++ (s.pool p).waiting, y.seq = g.seq) (ref : Nat) :
    s.storeGroup p g ref = s := by
  refine if_pos ?_
  rcases h with h | ⟨y, hy, hs⟩
  · exact .inr (.inr (.inr h))
  · rcases List.mem_append.1 hy with hy | hy
    · exact .inr (.inl (List.any_eq_true.2 ⟨y, hy, decide_eq_true hs⟩))
    · exact .inr (.inr (.inl (List.any_eq_true.2 ⟨y, hy, decide_eq_true hs⟩)))

/-- A group that the shadow does not hold yet, and that names neither a cancelled group nor a pool key, is stored; one that tells that
the pool is gone takes it away. -/
theorem storeGroup_new (hrel : (s.pool p).rel = .shadow) (hd : (s.pool p).shadowDurable < g.seq)
    (hj : ∀ y ∈ (s.pool p).jbuf, y.seq ≠ g.seq) (hw : ∀ y ∈ (s.pool p).waiting, y.seq ≠ g.seq) (hc : cancelled [g] = [])
    (hwrap : wrapperOf g = none) (ref : Nat) : s.storeGroup p g ref =
      if g.body.any poolGone then (s.setPool p (storedPool (s.pool p) g ref)).dropPool p else s.setPool p (storedPool (s.pool p) g ref) := by
  have hany {l : List Group} (h : ∀ y ∈ l, y.seq ≠ g.seq) : ¬ l.any (fun y => decide (y.seq = g.seq)) = true := by
    simpa using h
  unfold storeGroup
  dsimp only
  rw [if_neg (by rw [not_or, not_or, not_or]; exact ⟨not_not.2 hrel, hany hj, hany hw, not_le.2 hd⟩), hc, hwrap]
  rfl

theorem dropPool_pools (s : State) (p : Nat) : (s.dropPool p).pools = Tbl.del s.pools p := by
  have hmods : ((s.pool p).mods.foldl (fun (t : State) m =>
      t.setModu m { t.modu m with held := false, foreign := false, registered := false, regKey := 0 }) s).pools = s.pools :=
    List.foldlRecOn (motive := fun t : State => t.pools = s.pools) _ _ rfl fun _ h _ _ => h
  unfold dropPool
  dsimp only
  rw [delAreaKey, unloadKey, endKeys_frame]
  dsimp only
  rw [hmods]

theorem storedPool_jbuf (x : Pool) (ref : Nat) : (storedPool x g ref).jbuf = insSeq x.jbuf g := by
  unfold storedPool
  dsimp only
  split
  · exact congrArg Prod.snd (Pool.journal_applyEarly _ g)
  · exact congrArg Prod.snd (Pool.journal_applyGroup _ g)

theorem storedPool_waiting (x : Pool) (ref : Nat) :
    (storedPool x g ref).waiting = if g.origin = 0 then x.waiting ++ [g] else x.waiting := by
  unfold storedPool
  dsimp only
  split
  · rfl
  · exact Pool.waiting_applyGroup _ g

theorem storedPool_pending (h : g.origin = 0) (x : Pool) (ref : Nat) :
    (storedPool x g ref).lines = x.lines ∧ (storedPool x g ref).nss = x.nss := by
  unfold storedPool
  dsimp only
  rw [if_pos h]
  exact Pool.applyEarly_map _ g

theorem storedPool_applied (h : g.origin ≠ 0) (x : Pool) (ref : Nat) : storedPool x g ref =
    ({ x with jbuf := insSeq x.jbuf g, seq := max x.seq (g.seq + 1) } : Pool).applyGroup g := by
  unfold storedPool
  dsimp only
  rw [if_neg h, if_neg h]

end

/-! ### Items of a JOURNAL frame (R315) -/

section

variable {u : State} {p ref : Nat}

theorem journalItem_pool (hp : p < 16) (kind bytes ref : Nat) (d : Bytes) : fieldAt (journalItem p kind bytes ref d) 0 1 = p := by
  have h := fieldAt_append [] (leBytes 1 kind ++ (zeros 2 ++ (leBytes 4 bytes ++ (leBytes 8 ref ++ d)))) 1 p
  simp only [List.nil_append, List.length_nil] at h
  simp only [journalItem, List.append_assoc, h]
  omega

theorem journalItem_kind (p kind bytes ref : Nat) (d : Bytes) : fieldAt (journalItem p kind bytes ref d) 1 1 = kind % 256 := by
  simpa [journalItem] using fieldAt_append (leBytes 1 p) (zeros 2 ++ (leBytes 4 bytes ++ (leBytes 8 ref ++ d))) 1 kind

theorem journalItem_bytes (p kind bytes ref : Nat) (d : Bytes) : fieldAt (journalItem p kind bytes ref d) 4 4 = bytes % 2 ^ 32 := by
  simpa [journalItem] using fieldAt_append (leBytes 1 p ++ (leBytes 1 kind ++ zeros 2)) (leBytes 8 ref ++ d) 4 bytes

theorem journalItem_ref (hr : ref < 2 ^ 64) (p kind bytes : Nat) (d : Bytes) : fieldAt (journalItem p kind bytes ref d) 8 8 = ref := by
  have h := fieldAt_append (leBytes 1 p ++ (leBytes 1 kind ++ (zeros 2 ++ leBytes 4 bytes))) d 8 ref
  rw [show (256 : Nat) ^ 8 = 2 ^ 64 by decide, Nat.mod_eq_of_lt hr] at h
  simpa [journalItem] using h

theorem journalItem_length (p kind bytes ref : Nat) (d : Bytes) : (journalItem p kind bytes ref d).length = 16 + d.length := by
  simp [journalItem]
  omega

theorem journalItem_drop (p kind bytes ref : Nat) (d : Bytes) : (journalItem p kind bytes ref d).drop 16 = d :=
  List.drop_left' (by simp)

theorem journalItems_nil (f : Nat) (st : State × List (Nat × Nat)) : journalItems f [] st = st := by cases f <;> rfl

/-- A payload of one group: it is stored, and acknowledged. -/
theorem journalItems_group (hp : p < 16) (hr : ref < 2 ^ 64) {b : Bytes} (hb : b.length < 2 ^ 32) {g : Group}
    (hg : g = { seq := fieldAt ((entriesOf b).getD 0 []) 8 8, entries := entriesOf b }) (hrel : (u.pool p).rel = .shadow)
    (hok : groupOk true (entriesOf b) = true) (hw : wrapperOf g = none) (f : Nat) :
    journalItems (f + 1) (journalItem p 0 b.length ref b) (u, []) = (u.storeGroup p g ref, [(p, g.seq)]) := by
  have hlen := journalItem_length p 0 b.length ref b
  have hdrop : (journalItem p 0 b.length ref b).drop (16 + b.length) = [] := List.drop_eq_nil_of_le (le_of_eq hlen)
  have hseq : fieldAt ((entriesOf b).getD 0 []) 8 8 = g.seq := by rw [hg]
  rw [journalItems, if_neg (by omega)]
  dsimp only
  rw [journalItem_pool hp, journalItem_kind, journalItem_bytes, journalItem_ref hr, journalItem_drop, Nat.mod_eq_of_lt hb, hdrop,
    List.take_length, ← hg, if_neg (by decide), if_pos ⟨hp, hrel, hok⟩, hw, journalItems_nil,
    if_neg (fun h => Bool.false_ne_true h.1), hseq, List.nil_append]

/-- A payload of one LANDED mark. -/
theorem journalItems_landed (hp : p < 16) (hr : ref < 2 ^ 64) (f : Nat) :
    journalItems (f + 1) (journalItem p 1 0 ref []) (u, []) = (u.markLanded p ref, []) := by
  have hlen := journalItem_length p 1 0 ref []
  rw [journalItems, if_neg (by omega)]
  dsimp only
  rw [journalItem_pool hp, journalItem_kind, journalItem_ref hr, journalItem_drop, if_pos (by decide), journalItems_nil]

theorem exec_journal {s : State} {f d : Bytes} (h : s.recvRope 4 f = (some d, u)) : exec (.journal f) s =
    .next (((journalItems (d.length / 16 + 1) d (u, [])).1.sendAck (journalItems (d.length / 16 + 1) d (u, [])).2).pairMode) :=
  congrArg _ (withFrame_some h _)

theorem sendAck_nil (s : State) : s.sendAck [] = s := rfl

end

/-! ### Acknowledgements (R322, R339) -/

theorem ackTo_mem {a b : List Nat} {q : Nat} (h : q ∉ a) : ackTo (a ++ q :: b) q = b := by
  have hdrop : (a ++ q :: b).dropWhile (fun x => decide (x ≠ q)) = q :: b := by
    have hne : ∀ x ∈ a, x ≠ q := fun x hx e => h (e ▸ hx)
    rw [List.dropWhile_append_of_pos fun x hx => decide_eq_true (hne x hx)]
    simp
  rw [ackTo, if_pos (by simp), hdrop]
  rfl

theorem exec_journalAck_one {s u : State} {f d : Bytes} (h : s.recvRope 5 f = (some d, u)) (hlen : d.length = 16) :
    exec (.journalAck f) s = .next ((u.updPool (fieldAt d 0 1) (fun x => { x with
      sentSeqs := ackTo x.sentSeqs (fieldAt d 8 8), acked := max x.acked (fieldAt d 8 8),
      relays := if u.rope.degraded then x.relays else [] })).ropeJobsDone (fieldAt d 0 1)) := by
  refine congrArg _ ((withFrame_some h _).trans ?_)
  rw [hlen]
  rfl

/-! ### Items of a SHADOW frame (R324) -/

section

variable {u : State} {p kind : Nat} {b : Bytes}

theorem shadowItems_nil (f : Nat) (s : State) : shadowItems f [] s = s := by cases f <;> rfl

theorem shadowItems_one (hp : p < 16) (hk : kind < 7) (hb : b.length < 2 ^ 16) (f : Nat) :
    shadowItems (f + 1) (leBytes 1 p ++ leBytes 1 kind ++ leBytes 2 b.length ++ b) u =
      if (u.pool p).rel = .shadow then u.shadowItem p kind b else u := by
  have hlen : (leBytes 1 p ++ leBytes 1 kind ++ leBytes 2 b.length ++ b).length = 4 + b.length := by simp; omega
  have hpool : fieldAt (leBytes 1 p ++ leBytes 1 kind ++ leBytes 2 b.length ++ b) 0 1 = p := by
    have h := fieldAt_append [] (leBytes 1 kind ++ (leBytes 2 b.length ++ b)) 1 p
    simp only [List.nil_append, List.length_nil] at h
    simp only [List.append_assoc, h]
    omega
  have hkind : fieldAt (leBytes 1 p ++ leBytes 1 kind ++ leBytes 2 b.length ++ b) 1 1 = kind := by
    have h := fieldAt_append (leBytes 1 p) (leBytes 2 b.length ++ b) 1 kind
    rw [Nat.mod_eq_of_lt (by omega)] at h
    simpa using h
  have hbytes : fieldAt (leBytes 1 p ++ leBytes 1 kind ++ leBytes 2 b.length ++ b) 2 2 = b.length := by
    have h := fieldAt_append (leBytes 1 p ++ leBytes 1 kind) b 2 b.length
    rw [Nat.mod_eq_of_lt (by omega)] at h
    simpa using h
  have hdrop : (leBytes 1 p ++ leBytes 1 kind ++ leBytes 2 b.length ++ b).drop 4 = b := List.drop_left' (by simp)
  have hrest : (leBytes 1 p ++ leBytes 1 kind ++ leBytes 2 b.length ++ b).drop (4 + b.length) = [] :=
    List.drop_eq_nil_of_le (le_of_eq hlen)
  rw [shadowItems, if_neg (by omega)]
  dsimp only
  rw [hpool, hkind, hbytes, hdrop, hrest, List.take_length, shadowItems_nil]

theorem exec_shadow_one {s : State} {f : Bytes} (hp : p < 16) (hk : kind < 7) (hb : b.length < 2 ^ 16)
    (h : s.recvRope 6 f = (some (leBytes 1 p ++ leBytes 1 kind ++ leBytes 2 b.length ++ b), u)) :
    exec (.shadow f) s = .next (if (u.pool p).rel = .shadow then u.shadowItem p kind b else u) :=
  congrArg _ ((withFrame_some h fun d t => shadowItems (d.length / 4 + 1) d t).trans (shadowItems_one hp hk hb _))

theorem Tbl.upd_of_find {α : Type} {t : Tbl α} {k : Nat} {v : α} (h : Tbl.find t k = some v) (f : α → α) :
    Tbl.upd t k f = Tbl.set t k (f v) := by
  rw [Tbl.upd, h]

end

/-! ### Planned moves that end (R341) -/

/-- The planned move of a pool is dropped; the rest is the settling of the mode and the posting of what was held. -/
theorem moveOff_frame (s : State) (p : Nat) : sameArray
    (({ s with pair := { s.pair with moves := Tbl.del s.pair.moves p, holdPools := s.pair.holdPools &&& (0xFFFF - 2 ^ p) } } : State).updPool p
      (fun x => { x with moveTo := none })) (s.moveOff p) :=
  (settleMode_sameArray _).trans (releaseHeld_sameArray _)

theorem pool_updPool_field {s : State} {p : Nat} {α : Type} (f : Pool → Pool) (π : Pool → α) (h : ∀ x, π (f x) = π x)
    (hn : ∀ x n, π { x with num := n } = π x) : π ((s.updPool p f).pool p) = π (s.pool p) := by
  cases hf : Tbl.find s.pools p with
  | some x => rw [pool_updPool (by rw [hf]; rfl), hn, h]
  | none =>
    have hsame : s.updPool p f = s := by
      unfold updPool Tbl.upd
      rw [hf]
    rw [hsame]

end Sys2Proof.Machine.State
end

section
/-! Forwarded commands, control frames, dual-send and the ROPE jobs (part of O41). -/

open Sys2Proof Sys2Proof.Machine Sys2Proof.Machine.State

namespace Sys2Proof.Machine

/-- Each listed key for which the test holds is set. -/
theorem Tbl.find_foldl_set {α : Type} (c : Nat → Bool) (v : α) (l : List Nat) (t : Tbl α) (q : Nat) :
    Tbl.find (l.foldl (fun m p => if c p then Tbl.set m p v else m) t) q = if q ∈ l ∧ c q = true then some v else Tbl.find t q := by
  induction l generalizing t with
  | nil => simp
  | cons p l ih =>
    rw [List.foldl_cons, ih]
    by_cases hq : q = p
    · subst hq
      cases c q <;> simp [Tbl.find_set]
    · cases c p <;> simp [hq, Tbl.find_set]

/-- A loop of which one element acts, and every other leaves the state as it is. -/
theorem foldl_single {α β : Type} {f : β → α → β} {l : List α} (hl : l.Nodup) {a : α} (ha : a ∈ l) (h : ∀ b, ∀ x ∈ l, x ≠ a → f b x = b) (b : β) :
    l.foldl f b = f b a := by
  obtain ⟨l1, l2, rfl⟩ := List.append_of_mem ha
  have hidle (k : List α) (hk : ∀ x ∈ k, x ∈ l1 ++ a :: l2 ∧ x ≠ a) (c : β) : k.foldl f c = c :=
    List.foldlRecOn (motive := fun d : β => d = c) k f rfl fun d hd x hx => (h d x (hk x hx).1 (hk x hx).2).trans hd
  rw [List.nodup_append] at hl
  obtain ⟨-, h2, hne⟩ := hl
  rw [List.foldl_append, List.foldl_cons, hidle l1 fun x hx => ⟨List.mem_append_left _ hx, hne x hx a List.mem_cons_self⟩,
    hidle l2 fun x hx => ⟨by simp [hx], fun e => (List.nodup_cons.1 h2).1 (e ▸ hx)⟩]

namespace State

/-! ### Forwarded commands (R309, R388) -/

/-- The climb of a forwarded command, and whether it runs at once. -/
def forwardStart (v : State) (n : Nat) (c : HCmd) : State :=
  let (k, t) := match v.hostClimb (v.ridges.getD (v.pick v.ridges.length) 0) n with
    | some (k, u) => (some k, u)
    | none => (none, v)
  t.setCmd n { c with climb := k, phase := if t.allGranted n then .running else .taken }

theorem forwardStart_spec (v : State) (n : Nat) (c : HCmd) : ∃ k, (v.forwardStart n c).host.locks = v.host.locks ∧
    (v.forwardStart n c).hcmd n = some { c with climb := k, phase := if (v.forwardStart n c).allGranted n then .running else .taken } := by
  have hset (t : State) (k : Option Nat) (ht : t.host = v.host) (he : v.forwardStart n c =
      t.setCmd n { c with climb := k, phase := if t.allGranted n then .running else .taken }) : ∃ k,
      (v.forwardStart n c).host.locks = v.host.locks ∧ (v.forwardStart n c).hcmd n =
        some { c with climb := k, phase := if (v.forwardStart n c).allGranted n then .running else .taken } := by
    refine ⟨k, ?_, ?_⟩
    · rw [he, ← ht]
      rfl
    · rw [he]
      exact Tbl.find_set_same _ _ _
  cases hclimb : v.hostClimb (v.ridges.getD (v.pick v.ridges.length) 0) n with
  | none => exact hset v none rfl (by rw [forwardStart, hclimb])
  | some y => exact hset y.2 (some y.1) (hostClimb_host hclimb) (by rw [forwardStart, hclimb])

section

variable {s u : State} {f d : Bytes} {cap : Capsule} {n : Nat} {c : HCmd} (hrecv : s.recvRope 7 f = (some d, u)) (hn : n = Tbl.next u.host.cmds)
  (hc : c = { HCmd.mk0 (2 ^ 20) cap (match Tbl.find u.allNs cap.nsid with | some (_, m) => m.snap | none => none) with
    fwd := some (fieldAt d 0 8), data := d.drop 72, phase := .taken, since := u.time })
include hrecv hn hc

theorem exec_forward_noNs (hns : Tbl.find u.allNs cap.nsid = none) :
    exec (.forward f cap) s = .next ((u.setCmd n c).complete n (ofNvme 0 0x0B true) 0 0) := by
  subst hn hc
  refine congrArg _ ((withFrame_some hrecv _).trans ?_)
  dsimp only
  rw [hns]

variable {p : Nat} {ns : Ns} (hns : Tbl.find u.allNs cap.nsid = some (p, ns))
include hns

theorem exec_forward_transition (h : u.owns p = false ∨ ns.deleting = true) :
    exec (.forward f cap) s = .next ((u.setCmd n c).complete n stTransition 0 0) := by
  subst hn hc
  refine congrArg _ ((withFrame_some hrecv _).trans ?_)
  dsimp only
  rw [hns]
  exact if_pos (by simpa using h)

variable (ho : u.owns p = true) (hd : ns.deleting = false)
include ho hd

theorem exec_forward_status {st : NvmeStatus} (hst : capStatus { cap with inline := none } ns (u.pool p).fill = some st) :
    exec (.forward f cap) s = .next ((u.setCmd n c).complete n st 0 0) := by
  subst hn hc
  refine congrArg _ ((withFrame_some hrecv _).trans ?_)
  dsimp only
  rw [hns]
  dsimp only
  rw [if_neg (by simp [ho, hd]), hst]

/-- A command that may run takes its entries of the reserved part of the table, and a climb where one is free. -/
theorem exec_forward_runs (hst : capStatus { cap with inline := none } ns (u.pool p).fill = none) :
    exec (.forward f cap) s = .next (((u.setCmd n c).enterLocks (locksOf n cap true)).forwardStart n c) := by
  subst hn hc
  refine congrArg _ ((withFrame_some hrecv _).trans ?_)
  dsimp only
  rw [hns]
  dsimp only
  rw [if_neg (by simp [ho, hd]), hst]
  rfl

end

theorem exec_forwardDone_none {s u : State} {f d : Bytes} (hrecv : s.recvRope 8 f = (some d, u)) (h : u.hcmd (fieldAt d 0 8) = none) :
    exec (.forwardDone f) s = .next u := by
  refine congrArg _ ((withFrame_some hrecv _).trans ?_)
  dsimp only
  rw [h]

theorem exec_forwardDone {s u : State} {f d : Bytes} (hrecv : s.recvRope 8 f = (some d, u)) {c : HCmd} (h : u.hcmd (fieldAt d 0 8) = some c) :
    exec (.forwardDone f) s = .next (if c.phase ≠ .forwarded then u else
      (u.setCmd (fieldAt d 0 8) { c with rdata := d.drop 24 }).finishCmd (fieldAt d 0 8)
        (ofNvme (bits (fieldAt d 0x16 2 / 2) 8 3) (bits (fieldAt d 0x16 2 / 2) 0 8) (bit (fieldAt d 0x16 2 / 2) 14))
        (fieldAt d 8 4) (fieldAt d 12 4)) := by
  refine congrArg _ ((withFrame_some hrecv _).trans ?_)
  dsimp only
  rw [h]

/-! ### Control frames (R340, R341) -/

theorem withControl_some {s u : State} {f d : Bytes} (h : s.recvRope 9 f = (some d, u)) (op : Nat) (act : Nat → Nat → State → State) :
    s.withControl op f act = if fieldAt d 0 1 = op then act (fieldAt d 1 2) (fieldAt d 8 8) u else s := by
  rw [withControl, h]

/-- A control frame of another operation is not this command's. -/
theorem withControl_other {s u : State} {f d : Bytes} (h : s.recvRope 9 f = (some d, u)) {op : Nat} (hop : fieldAt d 0 1 ≠ op)
    (act : Nat → Nat → State → State) : s.withControl op f act = s := by
  rw [withControl_some h, if_neg hop]

theorem withControl_op {s u : State} {f d : Bytes} (h : s.recvRope 9 f = (some d, u)) {op : Nat} (hop : fieldAt d 0 1 = op)
    (act : Nat → Nat → State → State) : s.withControl op f act = act (fieldAt d 1 2) (fieldAt d 8 8) u := by
  rw [withControl_some h, if_pos hop]

theorem exec_control {s u : State} {f d : Bytes} (h : s.recvRope 9 f = (some d, u)) {op : Nat} (hop : fieldAt d 0 1 = op) {c : Instr}
    {act : Nat → Nat → State → State} (hc : exec c s = .next (s.withControl op f act)) :
    exec c s = .next (act (fieldAt d 1 2) (fieldAt d 8 8) u) :=
  hc.trans (congrArg _ (withControl_op h hop act))

section

variable {s u : State} {f d : Bytes} (hrecv : s.recvRope 9 f = (some d, u))
include hrecv

theorem exec_join_incompatible (hop : fieldAt d 0 1 = 0)
    (h : majorOf u.fwVersion + 1 < majorOf (fieldAt d 8 8) ∨ majorOf (fieldAt d 8 8) + 1 < majorOf u.fwVersion) : exec (.join f) s =
      .next (if 1000000000 ≤ (u.time - u.rope.sessionAt).toNat then u.book 0x20 0x049 [] else u) := by
  refine congrArg _ ((withControl_op hrecv hop _).trans ?_)
  exact if_pos h

/-- A compatible JOIN: the history goes out and the pool keys are journaled again; the owner is joined and no longer solo. -/
theorem exec_join_compatible (hop : fieldAt d 0 1 = 0)
    (h : ¬ (majorOf u.fwVersion + 1 < majorOf (fieldAt d 8 8) ∨ majorOf (fieldAt d 8 8) + 1 < majorOf u.fwVersion)) :
    ∃ t, exec (.join f) s = .next t ∧ t.pair.joining = true ∧ t.pair.solo = false := by
  have hpair (t1 : State) (l : List Nat) : (l.foldl (fun u p => u.submit p 4 (u.keywraps p (u.pool p).poolId)) t1).pair = t1.pair :=
    List.foldlRecOn (motive := fun t : State => t.pair = t1.pair) l _ rfl fun t ht q _ => (submit_pair t q 4 _).trans ht
  refine ⟨_, exec_control hrecv hop rfl, ?_, ?_⟩
  · dsimp only
    rw [if_neg h, hpair]
  · dsimp only
    rw [if_neg h, hpair]

omit hrecv in
theorem ownedMask_of_pools {s t : State} (h : t.pools = s.pools) : t.ownedMask = s.ownedMask := by
  unfold ownedMask
  rw [h]

theorem exec_caughtUp (hop : fieldAt d 0 1 = 1) : ∃ t, exec (.caughtUp f) s = .next t ∧
    t.pair.peerCaught = s.pair.peerCaught ||| (fieldAt d 1 2 &&& s.ownedMask) ∧ t.pair.solo = false ∧
    t.pair.joining = (s.pair.joining &&
      !decide (s.ownedMask &&& (s.pair.peerCaught ||| (fieldAt d 1 2 &&& s.ownedMask)) = s.ownedMask)) := by
  have hu := recvRope_sameArray hrecv
  have hshow (b : Bool) (q : Nat) (t1 : State) : ((if b then t1.pairEvent q 0 else t1).pairMode.anaChange).pair = t1.pair := by
    have h1 : sameArray t1 (if b then t1.pairEvent q 0 else t1) := .ite ⟨rfl, rfl, rfl⟩ (.refl t1)
    exact ((h1.trans (pairMode_sameArray _)).trans (anaChange_sameArray _)).pair
  rw [← ownedMask_of_pools hu.pools, ← hu.pair]
  refine ⟨_, exec_control hrecv hop rfl, ?_, ?_, ?_⟩
  · rw [hshow]
  · rw [hshow]
  · rw [hshow]

theorem exec_ropeRelease_none (hop : fieldAt d 0 1 = 2) (h : fieldAt d 1 2 &&& u.shadowMask = 0) : exec (.ropeRelease f) s = .next u := by
  refine congrArg _ ((withControl_op hrecv hop _).trans ?_)
  exact if_pos h

/-- RELEASE of pools that this head shadows: HANDOVER, and a vote for them. -/
theorem exec_ropeRelease_some (hop : fieldAt d 0 1 = 2) (h : fieldAt d 1 2 &&& u.shadowMask ≠ 0) :
    ∃ t, exec (.ropeRelease f) s = .next t ∧ t.pwr.mode = 7 ∧
      ∀ p < 16, bit (fieldAt d 1 2 &&& u.shadowMask) p = true → Tbl.find t.pair.moves p = some 1 := by
  refine ⟨_, exec_control hrecv hop rfl, ?_, fun p hp hb => ?_⟩
  · dsimp only
    rw [if_neg h, (voteRequest_sameArray _ _ _ _).2]
    exact setMode_mode _ 7
  · dsimp only
    rw [if_neg h, ((setMode_sameArray _ 7).trans (voteRequest_sameArray _ _ _ _).1).pair]
    refine (Tbl.find_foldl_set (fun q => bit (fieldAt d 1 2 &&& u.shadowMask) q) 1 (List.range 16) u.pair.moves p).trans ?_
    rw [if_pos ⟨List.mem_range.2 hp, hb⟩]

end

/-! ### The end of a planned move at the releasing head (R341) -/

/-- A module whose reservation has gone to the other head. -/
def moduGone (x : Modu) : Modu := { x with held := false, foreign := true }

theorem modu_setModu (s : State) (m k : Nat) (x : Modu) : (s.setModu m x).modu k = if k = m then x else s.modu k := by
  unfold modu setModu Tbl.getD
  rw [Tbl.find_set]
  split <;> rfl

theorem modu_foldl_gone (l : List Nat) (s : State) (k : Nat) :
    (l.foldl (fun v m => v.setModu m (moduGone (v.modu m))) s).modu k = if k ∈ l then moduGone (s.modu k) else s.modu k := by
  induction l generalizing s with
  | nil => simp
  | cons m l ih =>
    rw [List.foldl_cons, ih, modu_setModu]
    by_cases hk : k = m
    · subst hk
      by_cases hl : k ∈ l <;> simp [hl, moduGone]
    · simp [hk]

/-- The releasing head is the pool's live shadow: its record, the modules and the pair's masks. -/
def releasePool (u : State) (p : Nat) : State :=
  let u1 := u.updPool p (fun x => { x with rel := .shadow, moveTo := none, relays := [], sentSeqs := [], shadowDurable := x.durable })
  let u2 := (u1.pool p).mods.foldl (fun v m => v.setModu m (moduGone (v.modu m))) u1
  { u2 with pair := { u2.pair with
      moves := Tbl.del u2.pair.moves p, caughtUp := u2.pair.caughtUp ||| 2 ^ p, peerCaught := u2.pair.peerCaught &&& (0xFFFF - 2 ^ p),
      holdPools := u2.pair.holdPools &&& (0xFFFF - 2 ^ p) } }

/-- TAKEN for one pool. -/
def takenPool (u : State) (p : Nat) : State :=
  let u4 := ((u.releasePool p).anaChange.settleMode).releaseHeld
  match u4.calls.find? (fun (c : Nat × Call) => decide (c.2.phase = .running ∧ callSlot c.2.entry = 60 ∧ callPool c.2.entry = p)) with
  | some c => u4.libDone c.1
  | none => u4

theorem takenPool_sameArray (u : State) (p : Nat) : sameArray (u.releasePool p) (u.takenPool p) := by
  have h := ((anaChange_sameArray (u.releasePool p)).trans (settleMode_sameArray _)).trans (releaseHeld_sameArray _)
  unfold takenPool
  dsimp only
  split
  · exact h.trans (libDone_sameArray _ _)
  · exact h

theorem foldl_moduGone_frame (l : List Nat) (s : State) :
    (l.foldl (fun v m => v.setModu m (moduGone (v.modu m))) s).pools = s.pools ∧
    (l.foldl (fun v m => v.setModu m (moduGone (v.modu m))) s).pair = s.pair :=
  List.foldlRecOn (motive := fun t : State => t.pools = s.pools ∧ t.pair = s.pair) l _ ⟨rfl, rfl⟩ fun _ h _ _ => h

theorem exec_taken {s u : State} {f d : Bytes} (hrecv : s.recvRope 9 f = (some d, u)) (hop : fieldAt d 0 1 = 3) : exec (.taken f) s =
    .next ((List.range 16).foldl (fun u p => if !bit (fieldAt d 1 2) p ∨ Tbl.find u.pair.moves p ≠ some 2 then u else u.takenPool p) u) :=
  congrArg _ (withControl_op hrecv hop _)

theorem exec_taken_none {s u : State} {f d : Bytes} (hrecv : s.recvRope 9 f = (some d, u)) (hop : fieldAt d 0 1 = 3)
    (h : ∀ p < 16, bit (fieldAt d 1 2) p = true → Tbl.find u.pair.moves p ≠ some 2) : exec (.taken f) s = .next u := by
  rw [exec_taken hrecv hop]
  refine congrArg _ (List.foldlRecOn (motive := fun t : State => t = u) (List.range 16) _ rfl fun t ht p hp => ?_)
  subst ht
  refine if_pos ?_
  cases hb : bit (fieldAt d 1 2) p
  · exact .inl rfl
  · exact .inr (h p (List.mem_range.1 hp) hb)

theorem exec_taken_one {s u : State} {f d : Bytes} (hrecv : s.recvRope 9 f = (some d, u)) (hop : fieldAt d 0 1 = 3) {p : Nat} (hp : p < 16)
    (hpools : fieldAt d 1 2 = 2 ^ p) (hm : Tbl.find u.pair.moves p = some 2) : exec (.taken f) s = .next (u.takenPool p) := by
  rw [exec_taken hrecv hop, hpools, foldl_single List.nodup_range (List.mem_range.2 hp)]
  · refine congrArg _ (if_neg ?_)
    simp [hm, bit]
  · intro t q _ hq
    refine if_pos (.inl ?_)
    simp [bit, Ne.symm hq]

theorem releasePool_pool {u : State} {p : Nat} {x : Pool} (hx : Tbl.find u.pools p = some x) : (u.releasePool p).pool p =
    { x with rel := .shadow, moveTo := none, relays := [], sentSeqs := [], shadowDurable := x.durable, num := p } := by
  unfold releasePool
  dsimp only
  refine (pool_of_pools (foldl_moduGone_frame _ _).1 p).trans ?_
  rw [pool_updPool (by rw [hx]; rfl), pool_of_find hx]

theorem releasePool_pair (u : State) (p : Nat) : (u.releasePool p).pair = { u.pair with
    moves := Tbl.del u.pair.moves p, caughtUp := u.pair.caughtUp ||| 2 ^ p, peerCaught := u.pair.peerCaught &&& (0xFFFF - 2 ^ p),
    holdPools := u.pair.holdPools &&& (0xFFFF - 2 ^ p) } := by
  unfold releasePool
  dsimp only
  rw [(foldl_moduGone_frame _ _).2]
  rfl

theorem releasePool_modu {u : State} {p : Nat} {x : Pool} (hx : Tbl.find u.pools p = some x) (m : Nat) :
    (u.releasePool p).modu m = if m ∈ x.mods then moduGone (u.modu m) else u.modu m := by
  have hmods : ((u.updPool p (fun x => { x with
      rel := .shadow, moveTo := none, relays := [], sentSeqs := [], shadowDurable := x.durable })).pool p).mods = x.mods := by
    rw [pool_updPool (by rw [hx]; rfl), pool_of_find hx]
  refine (modu_foldl_gone _ _ m).trans ?_
  rw [hmods]
  rfl

theorem moveTo_updPool_none (s : State) (p : Nat) : ((s.updPool p (fun x => { x with moveTo := none })).pool p).moveTo = none := by
  cases hf : Tbl.find s.pools p with
  | some x => rw [pool_updPool (by rw [hf]; rfl)]
  | none =>
    have hsame : s.updPool p (fun x => { x with moveTo := none }) = s := by
      unfold updPool Tbl.upd
      rw [hf]
    rw [hsame]
    simp [pool, Tbl.getD, hf, Pool.fresh]

/-! ### Dual-send and the relays (R338, R339) -/

theorem needLog_spared {s : State} {p m : Nat} (h : (Tbl.find (s.pool p).logs m).any (fun l => l.spare.isSome) = true) : s.needLog p m = s := by
  obtain ⟨l, hl, hs⟩ := (Option.any_eq_true _ _).1 h
  unfold needLog
  dsimp only
  split
  · rfl
  · rw [hl]
    exact if_pos hs

theorem exec_dualSend_idle {s : State} {p : Nat} (h : s.owns p = false ∨ s.rope.degraded = false ∨ s.streams p = false ∨
    (s.pool p).relays ≠ [] ∨ (s.relayMods p).length < 2) : exec (.dualSend p) s = .next s := by
  show execDualSend p s = _
  unfold execDualSend
  dsimp only
  split
  · rfl
  · next hgo =>
    refine if_pos ?_
    simp only [Bool.or_eq_true, Bool.not_eq_true', List.isEmpty_eq_false_iff, not_or, Bool.not_eq_false] at hgo
    obtain ⟨⟨⟨h1, h2⟩, h3⟩, h4⟩ := hgo
    simp_all

theorem exec_dualSend_pair {s : State} {p a b : Nat} (ho : s.owns p = true) (hd : s.rope.degraded = true) (hst : s.streams p = true)
    (hr : (s.pool p).relays = []) (hm : s.relayMods p = [a, b])
    (ha : (Tbl.find (s.pool p).logs a).any (fun l => l.spare.isSome) = true)
    (hb : (Tbl.find (s.pool p).logs b).any (fun l => l.spare.isSome) = true) : exec (.dualSend p) s =
      .next ((s.updPool p (fun y => { y with relays := [a, b] })).addSvcs
        (((s.pool p).jbuf.filter (fun g => decide (g.seq ∈ (s.pool p).sentSeqs))).flatMap (fun g => [Svc.relay p a g, Svc.relay p b g]))) := by
  show execDualSend p s = _
  unfold execDualSend
  dsimp only
  rw [if_neg (by simp [ho, hd, hst, hr]), hm, if_neg (by simp), List.foldl_cons, List.foldl_cons, List.foldl_nil, needLog_spared ha,
    needLog_spared hb]
  rfl

theorem exec_relayRead_idle {s : State} {p : Nat} (h : (s.pool p).rel ≠ .shadow ∨ s.rope.degraded = false) :
    exec (.relayRead p) s = .next s := by
  show execRelayRead p s = _
  exact if_pos h

section

variable {s : State} {p a : Nat} {l : LandLog} {g : Group} (hrel : (s.pool p).rel = .shadow) (hd : s.rope.degraded = true)
  (hl : (s.pool p).logs = [(a, l)]) (hs : l.spare = none) (hu : s.modUp (saMod l.cur) = true) (hg : s.logGroups l.cur = [g])
include hrel hd

theorem exec_relayRead : exec (.relayRead p) s =
    .next ((s.readRelays p).1.sendAck ((s.readRelays p).2.map (fun g => (p, g.seq)))) := by
  show execRelayRead p s = _
  exact if_neg (by simp [hrel, hd])

include hl hs hu hg

omit hrel hd in
theorem readRelays_eq : s.readRelays p =
    (let gs := ([g].filter (fun g => decide ((s.pool p).shadowDurable < g.seq) &&
        !((s.pool p).jbuf ++ (s.pool p).waiting).any (fun y => decide (y.seq = g.seq)))).foldl insGroup []
     (gs.foldl (fun t g => t.storeGroup p g 0) s, gs)) := by
  unfold readRelays
  simp only [hl, hs, List.flatMap_cons, List.flatMap_nil, Option.toList_none, List.append_nil, hu, if_true, hg]

theorem exec_relayRead_new (hnew : (s.pool p).shadowDurable < g.seq) (hno : ∀ y ∈ (s.pool p).jbuf ++ (s.pool p).waiting, y.seq ≠ g.seq) :
    exec (.relayRead p) s = .next ((s.storeGroup p g 0).sendAck [(p, g.seq)]) := by
  have hkeep : [g].filter (fun g => decide ((s.pool p).shadowDurable < g.seq) &&
      !((s.pool p).jbuf ++ (s.pool p).waiting).any (fun y => decide (y.seq = g.seq))) = [g] := by
    refine List.filter_eq_self.2 fun y hy => ?_
    rw [List.mem_singleton.1 hy, decide_eq_true hnew, Bool.true_and, Bool.not_eq_true', List.any_eq_false]
    exact fun z hz => by simpa using hno z hz
  rw [exec_relayRead hrel hd, readRelays_eq hl hs hu hg, hkeep]
  rfl

theorem exec_relayRead_held (hold : g.seq ≤ (s.pool p).shadowDurable ∨ ∃ y ∈ (s.pool p).jbuf ++ (s.pool p).waiting, y.seq = g.seq) :
    exec (.relayRead p) s = .next s := by
  have hdrop : [g].filter (fun g => decide ((s.pool p).shadowDurable < g.seq) &&
      !((s.pool p).jbuf ++ (s.pool p).waiting).any (fun y => decide (y.seq = g.seq))) = [] := by
    refine List.filter_eq_nil_iff.2 fun y hy => ?_
    rw [List.mem_singleton.1 hy, Bool.and_eq_true, Bool.not_eq_true', decide_eq_true_eq, List.any_eq_false]
    rintro ⟨h1, h2⟩
    rcases hold with h | ⟨z, hz, hzs⟩
    · omega
    · exact h2 z hz (decide_eq_true hzs)
  rw [exec_relayRead hrel hd, readRelays_eq hl hs hu hg, hdrop]
  rfl

end

theorem exec_forwardDegradeTimeout (s : State) : exec .forwardDegradeTimeout s =
    if s.rope.degraded = false ∨ (s.time - s.rope.degradedAt).toNat < 5000000 then .next s
    else .next ((s.host.cmds.filter (fun c => decide (c.2.phase = .forwarded))).foldl (fun t c => t.finishCmd c.1 stTransition 0 0) s) := rfl

/-! ### ROPE jobs (R95, R229) -/

section

variable {s : State} {n : Nat} {j : Job}

theorem exec_ropeJournalRecords (h : s.startable n 0x0A (fun o => decide (o = 0)) = some j) : exec (.ropeJournalRecords n) s =
    .next (if j.desc.length = 40 then s.ropeJobsDone (fieldAt j.desc 2 1) else s.ropeAccept n j) := by
  show execRopeJournalRecords n s = _
  rw [execRopeJournalRecords, h]
  dsimp only
  split <;> rfl

/-- A job that is no record group, or whose pool this head does not own. -/
theorem ropeAccept_bad (h : 16 ≤ fieldAt j.desc 2 1 ∨ s.owns (fieldAt j.desc 2 1) = false ∨ hLen (jh j 0) % 32 ≠ 0 ∨
    groupOk false (entriesOf (s.hBytes j.ridge (jh j 0))) = false) : s.ropeAccept n j = s.finish n j 1 0 := if_pos h

/-- The state once a group has been accepted for a job: its bytes back in the buffer, its SEQ beside the descriptor. -/
def ropeAccepted (u : State) (n : Nat) (j : Job) (g : Group) : State :=
  { u.hWrite j.ridge (jh j 0) 0 g.bytes with jobs := Tbl.set u.jobs n { j with desc := padTo 32 j.desc ++ leBytes 8 g.seq } }

theorem ropeAccept_good (h : ¬ (16 ≤ fieldAt j.desc 2 1 ∨ s.owns (fieldAt j.desc 2 1) = false ∨ hLen (jh j 0) % 32 ≠ 0 ∨
    groupOk false (entriesOf (s.hBytes j.ridge (jh j 0))) = false)) {u : State} {g : Group}
    (hr : s.acceptGroup (fieldAt j.desc 2 1) (fieldAt ((entriesOf (s.hBytes j.ridge (jh j 0))).getD 0 []) 0x1A 1)
      ((entriesOf (s.hBytes j.ridge (jh j 0))).drop 1) none (s.originRef 0) = (u, g)) : s.ropeAccept n j =
      if (u.ropeAccepted n j g).hasShadow (fieldAt j.desc 2 1) then u.ropeAccepted n j g
      else (u.ropeAccepted n j g).ropeJobsDone (fieldAt j.desc 2 1) := by
  unfold ropeAccept
  dsimp only
  rw [if_neg h, hr]
  rfl

theorem exec_ropeShadowState (h : s.startable n 0x0A (fun o => decide (o = 1)) = some j) : exec (.ropeShadowState n) s =
    .next (if fieldAt j.desc 2 1 ≥ 16 ∨ s.owns (fieldAt j.desc 2 1) = false then s.finish n j 1 0 else
      (List.range 16).foldl (fun t q => t.ropeJobsDone q)
        ((if s.streams (fieldAt j.desc 2 1) then s.sendRope 6 false (s.hBytes j.ridge (jh j 0)) else s).finish n j 0 0)) := by
  show execRopeShadowState n s = _
  rw [execRopeShadowState, h]
  dsimp only
  split <;> rfl

end

end State
end Sys2Proof.Machine
end

section
/-! The stream to the shadow, forwarding, joining, dual-send and the ROPE jobs (O41). -/

open Sys2Proof Sys2Proof.Machine Sys2Proof.Machine.State

namespace Sys2Proof.Machine

/-- Settles O41, clause by clause: a stored group by `storeGroup_new` and `storeGroup_held`, a forwarded command by `forwardStart_spec`,
control frames by `exec_control`, TAKEN and the moves by what `sameArray` keeps, the relays by `readRelays_eq`. -/
theorem theShadowFollowsTheOwner : Obligations.TheShadowFollowsTheOwner := by
  unfold Obligations.TheShadowFollowsTheOwner
  refine ⟨?_, ?_, ?_, ?_, ?_, ?_, ?_, ?_, ?_, ?_, ?_, ?_, ?_, ?_⟩
  · intro s u p ref n f b es g hp hr hb hn hes hrecv hrel hok hw hg
    subst hn hes
    refine ⟨?_, fun hd hj hwait hc => ⟨fun hgone hsort => ?_, fun hkept => ?_⟩, fun h => storeGroup_held h ref⟩
    · rw [gives, exec_journal hrecv, journalItems_group hp hr hb hg hrel hok hw]
    · rw [storeGroup_new hrel hd hj hwait hc hw, if_pos hgone, dropPool_pools]
      exact Tbl.find_del_same (Tbl.sorted_set hsort _ _) p
    · have hpool : (u.storeGroup p g ref).pool p = { storedPool (u.pool p) g ref with num := p } := by
        rw [storeGroup_new hrel hd hj hwait hc hw, if_neg (by simp [hkept]), pool_setPool]
      rw [hpool]
      exact ⟨storedPool_jbuf _ _, storedPool_waiting _ _, fun h0 => storedPool_pending h0 _ _, fun h0 => by rw [storedPool_applied h0]⟩
  · intro s u p seq f hp hs hrecv
    refine ⟨?_, fun g hg => ?_, fun h => ?_⟩
    · rw [gives, exec_journal hrecv, journalItems_landed hp hs, sendAck_nil]
    · rw [markLanded, hg]
    · have hnone : (u.pool p).waiting.find? (fun g => decide (g.seq = seq)) = none := by simpa using h
      rw [markLanded, hnone]
  · intro s u f d p q a b hrecv hlen hp hq hsent hnot hsort
    have hlisted : (Tbl.find u.pools p).isSome = true := by
      cases hf : Tbl.find u.pools p with
      | some x => rfl
      | none => simp [pool, Tbl.getD, hf, Pool.fresh] at hsent
    refine ⟨_, ?_, rfl⟩
    rw [gives, exec_journalAck_one hrecv hlen, ← hp, ← hq, updPool_eq_setPool hlisted, updPool_eq_setPool hlisted, hsent, ackTo_mem hnot]
  · intro s u p kind f b x hp hk hb hx hfind hsort hrecv
    have hlisted : (Tbl.find u.pools p).isSome = true := by rw [hfind]; rfl
    have hexec := exec_shadow_one hp hk hb hrecv
    rw [← hx] at hexec
    refine ⟨fun hrel => by rw [gives, hexec, if_neg hrel], fun hrel => ?_⟩
    rw [if_pos hrel] at hexec
    refine ⟨fun h => ?_, fun h w hw hs => ?_, fun h g hg hs => ?_, fun h => ?_, fun h => ?_, fun h => ?_⟩
    · subst h
      rw [gives, hexec, shadowItem, updPool_eq_setPool hlisted, ← hx]
    · subst h
      rw [gives, hexec, shadowItem, updPool_eq_setPool hlisted, ← hx, Pool.updUnit, Tbl.upd_of_find hw]
    · subst h
      rw [gives, hexec, shadowItem, updPool_eq_setPool hlisted, ← hx, Pool.updSeg, Tbl.upd_of_find hg]
    · rcases h with rfl | rfl
      · rw [gives, hexec, shadowItem, updPool_eq_setPool hlisted, ← hx]
        rfl
      · rw [gives, hexec, shadowItem, updPool_eq_setPool hlisted, ← hx]
        rfl
    · subst h
      rw [gives, hexec, shadowItem, updPool_eq_setPool hlisted, ← hx]
    · subst h
      rw [gives, hexec, shadowItem, updPool_eq_setPool hlisted, ← hx]
  · intro s u f d cap n p ns c hrecv hn hc
    refine ⟨fun hns => exec_forward_noNs hrecv hn hc hns, fun hns => ⟨fun h => exec_forward_transition hrecv hn hc hns h, fun ho hd =>
      ⟨fun st hst => exec_forward_status hrecv hn hc hns ho hd hst, fun hst => ?_⟩⟩⟩
    obtain ⟨k, hlocks, hcmd⟩ := forwardStart_spec ((u.setCmd n c).enterLocks (locksOf n cap true)) n c
    exact ⟨_, k, exec_forward_runs hrecv hn hc hns ho hd hst, hlocks, hcmd⟩
  · intro s u f d n fl c hrecv hn hfl
    rw [hn, hfl]
    refine ⟨fun h => exec_forwardDone_none hrecv h, fun h => ⟨fun hph => ?_, fun hph => ?_⟩⟩
    · rw [gives, exec_forwardDone hrecv h, if_pos hph]
    · rw [gives, exec_forwardDone hrecv h, if_neg (not_not.2 hph)]
  · intro s u f d pools arg hrecv hpools harg
    rw [hpools, harg]
    have hu := recvRope_sameArray hrecv
    refine ⟨fun h => congrArg _ (withControl_other hrecv h _), fun h => congrArg _ (withControl_other hrecv h _),
      fun h => congrArg _ (withControl_other hrecv h _), fun h => congrArg _ (withControl_other hrecv h _), fun hop hv => ⟨fun ht => ?_, fun ht => ?_⟩,
      fun hop h1 h2 => exec_join_compatible hrecv hop (by omega), fun hop => exec_caughtUp hrecv hop, fun hop h => exec_ropeRelease_none hrecv hop h,
      fun hop h => exec_ropeRelease_some hrecv hop h, fun hop h => exec_taken_none hrecv hop h,
      fun p x hop hp hpow hm hx hsort hmoves => ⟨_, exec_taken_one hrecv hop hp hpow hm, ?_⟩⟩
    · rw [gives, exec_join_incompatible hrecv hop hv, if_neg (by omega)]
    · rw [gives, exec_join_incompatible hrecv hop hv, if_pos ht]
    · have h := takenPool_sameArray u p
      rw [h.pool, h.pair, releasePool_pool hx, releasePool_pair]
      refine ⟨rfl, rfl, rfl, Tbl.find_del_same hmoves p, rfl, rfl, fun m hmem => ?_, fun m hno => ?_⟩
      · rw [h.modu, releasePool_modu hx, if_pos hmem]
        exact ⟨rfl, rfl⟩
      · rw [h.modu, releasePool_modu hx, if_neg hno, hu.modu]
  · intro s u f d hrecv
    exact ⟨_, congrArg _ (withFrame_some hrecv _), rfl⟩
  · intro s t p ht hsort
    subst ht
    have h := moveOff_frame s p
    rw [h.pool, h.pair]
    refine ⟨rfl, Tbl.find_del_same hsort p, rfl, ?_, pool_updPool_field _ Pool.rel (fun _ => rfl) (fun _ _ => rfl)⟩
    exact moveTo_updPool_none _ p
  · intro s p
    exact ⟨fun h => exec_dualSend_idle h, fun a b x ho hd hst hx hr hm ha hb => by
      subst hx
      exact exec_dualSend_pair ho hd hst hr hm ha hb⟩
  · intro s p
    exact ⟨fun h => exec_relayRead_idle h, fun a l g hrel hd hl hs hu hg =>
      ⟨fun hnew hno => exec_relayRead_new hrel hd hl hs hu hg hnew hno, fun hold => exec_relayRead_held hrel hd hl hs hu hg hold⟩⟩
  · intro s
    refine ⟨fun h => ?_, fun n c hd ht hcmds => ?_⟩
    · rw [gives, exec_forwardDegradeTimeout, if_pos h]
    · rw [gives, exec_forwardDegradeTimeout, if_neg (by rw [not_or, hd]; exact ⟨by decide, not_lt.2 ht⟩), hcmds]
      by_cases h : c.phase = .forwarded
      · simp [h]
      · simp [h]
  · intro s n p j es hj hp hes
    have hexec := exec_ropeJournalRecords hj
    rw [← hp] at hexec
    refine ⟨fun h => ?_, fun h hbad => ?_, fun h hp16 ho hmod hok => ?_⟩
    · rw [gives, hexec, if_pos h]
    · rw [hes, hp] at hbad
      rw [gives, hexec, if_neg h, ropeAccept_bad hbad]
    · have hgood : ¬ (16 ≤ p ∨ s.owns p = false ∨ hLen (jh j 0) % 32 ≠ 0 ∨ groupOk false es = false) := by simp [ho, hmod, hok]; omega
      rw [hes] at hgood ⊢
      rw [hp] at hgood
      refine ⟨_, _, _, rfl, rfl, ?_, ?_⟩
      · rw [hp]
        rfl
      · rw [gives, hexec, if_neg h, hp, ropeAccept_good hgood rfl]
        rfl
  · intro s n p j hj hp
    have hexec := exec_ropeShadowState hj
    rw [← hp] at hexec
    refine ⟨fun h => ?_, fun u hp16 ho hno hyes => ?_⟩
    · rw [gives, hexec, if_pos h]
    · have hu : u = if s.streams p then s.sendRope 6 false (s.hBytes j.ridge (jh j 0)) else s := by
        cases hst : s.streams p
        · exact hno hst
        · exact hyes hst
      rw [gives, hexec, if_neg (by rw [ho]; simp; omega), hu]

end Sys2Proof.Machine
end

section
/-! The Notch digest unit (O20): writes of its registers, the words fed, and the ends of its work. -/

open Sys2Proof Sys2Proof.Machine Sys2Proof.Machine.State

namespace Sys2Proof.Machine.State

/-! ### The low half of a written slot (R9) -/

section

variable {x v : W64} (h : x.setWidth 32 = v.setWidth 32)
include h

theorem getLsbD_of_low {i : Nat} (hi : i < 32) : x.getLsbD i = v.getLsbD i := by
  have := congrArg (fun w => w.getLsbD i) h
  simpa [hi] using this

theorem toNat_of_low : x.toNat % 2 ^ 32 = v.toNat % 2 ^ 32 := by
  simpa using congrArg BitVec.toNat h

theorem bits_of_low {lo n : Nat} (hn : lo + n ≤ 32) : bits x.toNat lo n = bits v.toNat lo n := by
  have hcut (a : Nat) : bits a lo n = bits (a % 2 ^ 32) lo n := by
    refine Nat.eq_of_testBit_eq fun i => ?_
    simp only [bits, Nat.testBit_mod_two_pow, Nat.testBit_div_two_pow]
    by_cases hi : i < n
    · simp [hi, show i + lo < 32 by omega]
    · simp [hi]
  rw [hcut, toNat_of_low h, ← hcut]

theorem and_of_low {k : W64} (hk : k.toNat < 2 ^ 32) : x &&& k = v &&& k := by
  ext i hi
  by_cases h32 : i < 32
  · have := getLsbD_of_low h h32
    simp_all [BitVec.getLsbD_eq_getElem]
  · have : k[i] = false := by
      rw [← BitVec.getLsbD_eq_getElem, BitVec.getLsbD, Nat.testBit_lt_two_pow]
      exact hk.trans_le (Nat.pow_le_pow_right (by decide) (by omega))
    simp [this]

theorem leBytes_of_low : leBytes 4 x.toNat = leBytes 4 v.toNat := by
  have h4 := toNat_of_low h
  simp only [leBytes, List.cons.injEq, and_true]
  refine ⟨?_, ?_, ?_, ?_⟩ <;> exact BitVec.eq_of_toNat_eq (by simp only [BitVec.toNat_ofNat]; omega)

end

theorem slotValue_dword (off : Nat) (v : W64) : slotValue off 8 v = (v, BitVec.allOnes 64) := if_pos rfl

/-! ### The registers of a context (R121) -/

theorem ctlBlock_notch {lo : Nat} (h : lo < 0x10000) : ctlBlock (0x70000 + lo) = some (.nch, lo) := by
  have hhi : (0x70000 + lo) / 0x10000 = 7 := by omega
  have hlo : (0x70000 + lo) % 0x10000 = lo := by omega
  unfold ctlBlock
  rw [hhi, hlo, if_pos (by omega)]
  rfl

variable {s : State} {m c k width : Nat} {x : NchCtx}

/-- A write that the gate lets through to the block acts as `writeNch` on its slot. -/
theorem regWrite_notch {lo : Nat} (h : lo < 0x10000) (h8 : lo % 8 = 0) (hg : s.gate m (0x70000 + lo) width true = .open) (v : W64) :
    s.regWrite m (0x70000 + lo) width v 0 =
      s.writeNch m lo (slotValue (0x70000 + lo) width v).1 (slotValue (0x70000 + lo) width v).2 0 := by
  have hslot : (0x70000 + lo) / 8 * 8 = 0x70000 + lo := by omega
  have hm : mayWrite m (0x70000 + lo) = true := by
    unfold mayWrite
    rw [hslot, ctlBlock_notch h]
    rfl
  rw [regWrite, gated_open hg, if_pos hm]
  unfold ctlWrite
  dsimp only
  rw [hslot, ctlBlock_notch h]

/-- A write to a context's register acts as `nchWrite`, with the low half of the value at whatever width. -/
theorem regWrite_context (hc : c < 16) (hk : k < 0x100) (h8 : k % 8 = 0) (hg : s.gate m (nchReg c + k) width true = .open) (v : W64) :
    ∃ x mask : W64, s.regWrite m (nchReg c + k) width v 0 = s.nchWrite m c k x mask 0 ∧ x.setWidth 32 = v.setWidth 32 ∧
      mask.getLsbD 0 = true ∧ (width = 8 → x = v ∧ mask = BitVec.allOnes 64) := by
  have hoff : nchReg c + k = 0x70000 + (0x1000 + c * 0x100 + k) := by unfold nchReg; omega
  obtain ⟨hx, hmask⟩ := slotValue_low (off := nchReg c + k) (width := width) (by unfold nchReg; omega) v
  refine ⟨(slotValue (nchReg c + k) width v).1, (slotValue (nchReg c + k) width v).2, ?_, hx, ?_, ?_⟩
  · rw [hoff] at hg ⊢
    rw [regWrite_notch (by omega) (by omega) hg, writeNch, if_pos (by omega), show (0x1000 + c * 0x100 + k - 0x1000) / 0x100 = c by omega,
      show (0x1000 + c * 0x100 + k) % 0x100 = k by omega]
  · rw [getLsbD_of_low (v := BitVec.allOnes 64) (hmask.trans (by decide)) (by decide)]
    decide
  · rintro rfl
    rw [slotValue_dword]
    exact ⟨rfl, rfl⟩

/-! ### The owner and a context's writes (R120, R121, R123) -/

theorem nchFree_held (hx : Tbl.find s.nch c = some x) : s.nchFree c =
    ((({ s with nch := Tbl.del s.nch c }).setReg (nchReg c + 8) 0).setReg (nchReg c + 0x10) 0).raise rNchIrq (2 ^ (32 + c)) := by
  rw [nchFree, hx]
  rfl

theorem nchOwnerAct_free (hn : Tbl.find s.nch c = none) (v : W64) : s.nchOwnerAct m c v =
    if v.getLsbD 9 then
      s.setNch c { owner := m, key := zeros 64, data := [], started := false, busy := false, last := false, done := false, digest := [] }
    else s.nchForeign := by
  rw [nchOwnerAct, hn]

theorem nchOwnerAct_held (hx : Tbl.find s.nch c = some x) (v : W64) : s.nchOwnerAct m c v =
    if v.getLsbD 9 then s else if x.owner ≠ m then s.nchForeign else if v.getLsbD 10 then s.nchFree c else s := by
  rw [nchOwnerAct, hx]

theorem nchWrite_foreign (hx : Tbl.find s.nch c = some x) (ho : x.owner ≠ m) (hk : k ≠ 0) (v mask hw : W64) :
    s.nchWrite m c k v mask hw = s.nchForeign := by
  rw [nchWrite, if_neg hk, hx]
  exact if_pos ho

section

variable (hx : Tbl.find s.nch c = some x) (ho : x.owner = m) {mask : W64} (hm : mask.getLsbD 0 = true)
include hx ho

theorem nchWrite_key {j : Nat} (hj : j < 8) (v : W64) : s.nchWrite m c (0x40 + 8 * j) v (BitVec.allOnes 64) 0 =
    s.setNch c { x with key := spliceAt x.key (8 * j) (leBytes 8 v.toNat) } := by
  have hlo : 0x40 ≤ 0x40 + 8 * j ∧ 0x40 + 8 * j < 0x80 := by omega
  rw [nchWrite, if_neg (by omega), hx]
  dsimp only
  rw [if_neg (not_not.2 ho), if_neg (by omega), if_neg (by omega), if_neg (by omega), if_neg (by omega), if_pos hlo,
    show 0x40 + 8 * j - 0x40 = 8 * j by omega, BitVec.not_allOnes, BitVec.and_zero, BitVec.zero_or]

include hm

theorem nchWrite_ctl (v hw : W64) : s.nchWrite m c 8 v mask hw = s.nchCtlAct m c x v := by
  rw [nchWrite, if_neg (by decide), hx]
  exact (if_neg (not_not.2 ho)).trans (if_pos hm)

theorem nchWrite_data (v hw : W64) : s.nchWrite m c 0x20 v mask hw = s.nchDataAct c x v := by
  rw [nchWrite, if_neg (by decide), hx]
  exact (if_neg (not_not.2 ho)).trans (if_pos hm)

theorem nchWrite_last (v hw : W64) : s.nchWrite m c 0x28 v mask hw = s.nchLastAct c x v := by
  rw [nchWrite, if_neg (by decide), hx]
  exact (if_neg (not_not.2 ho)).trans (if_pos hm)

end

/-! ### Starting and feeding (R124 to R126) -/

/-- START with a key of software and a listed ALG. -/
theorem nchCtlAct_start {v : W64} (hs : v.getLsbD 11 = true) (hl : v.getLsbD 4 = false) (ha : bits v.toNat 0 3 < 4) :
    s.nchCtlAct m c x v = ((s.setReg (nchReg c + 8) (v &&& 0x7FF)).setReg (nchReg c + 0x10) 0).setNch c
      { x with
        data := [], started := true, busy := false, last := false, done := false, digest := [],
        ctl := v &&& 0x7FF, loaded := x.key.take (bits v.toNat 5 6 + 1) } := by
  simp only [nchCtlAct, hs, hl, Bool.false_and, Bool.not_true, Bool.false_eq_true, if_false, if_neg (Nat.not_le.2 ha)]

/-- May a context take the next words of its message (R126)? -/
def nchOpen (x : NchCtx) : Prop := x.busy = false ∧ x.started = true ∧ x.last = false ∧ x.done = false

theorem nchDataAct_failed (hf : s.nchFailed c = true) (v : W64) : s.nchDataAct c x v = s := if_pos hf

theorem nchLastAct_failed (hf : s.nchFailed c = true) (v : W64) : s.nchLastAct c x v = s := if_pos hf

section

variable (hf : s.nchFailed c = false) (v : W64)
include hf

theorem nchFeed_busy (hb : x.busy = true) : s.nchDataAct c x v = s.nchFail c x 2 ∧ s.nchLastAct c x v = s.nchFail c x 2 := by
  simp [nchDataAct, nchLastAct, hf, hb]

theorem nchFeed_sequence (hb : x.busy = false) (h : x.started = false ∨ x.last = true ∨ x.done = true) :
    s.nchDataAct c x v = s.nchFail c x 3 ∧ s.nchLastAct c x v = s.nchFail c x 3 := by
  have h3 : (!x.started || x.last || x.done) = true := by simpa [or_assoc] using h
  simp [nchDataAct, nchLastAct, hf, hb, h3]

theorem nchDataAct_open (ho : nchOpen x) (hl : x.data.length + 4 < 2 ^ 61) : s.nchDataAct c x v = s.nchFeed c x (leBytes 4 v.toNat) := by
  obtain ⟨hb, hst, hla, hd⟩ := ho
  simp only [nchDataAct, hf, hb, hst, hla, hd, if_neg (show ¬ x.data.length + 4 > 2 ^ 61 - 1 by omega)]
  rfl

theorem nchLastAct_count (ho : nchOpen x) (hn : 4 < bits v.toNat 32 3) : s.nchLastAct c x v = s.nchFail c x 4 := by
  obtain ⟨hb, hst, hla, hd⟩ := ho
  simp only [nchLastAct, hf, hb, hst, hla, hd, if_pos hn]
  rfl

theorem nchLastAct_open (ho : nchOpen x) (hn : bits v.toNat 32 3 ≤ 4) (hl : x.data.length + 4 < 2 ^ 61) : s.nchLastAct c x v =
    s.setNch c { x with data := x.data ++ (leBytes 4 v.toNat).take (bits v.toNat 32 3), busy := true, last := true } := by
  obtain ⟨hb, hst, hla, hd⟩ := ho
  simp only [nchLastAct, hf, hb, hst, hla, hd, if_neg (Nat.not_lt.2 hn),
    if_neg (show ¬ x.data.length + bits v.toNat 32 3 > 2 ^ 61 - 1 by omega)]
  rfl

end

/-- A key word replaces its eight bytes (R119). -/
theorem spliceAt_inside {b w : Bytes} {o : Nat} (h : o ≤ b.length) : spliceAt b o w = b.take o ++ w ++ b.drop (o + w.length) := by
  simp [spliceAt, sliceAt, h]

/-! ### Releases (R123) and errors (R126) -/

theorem nchReg_quiet {k : Nat} (hc : c < 16) (hk : k < 0x100) : nchReg c + k ∉ levelRegs := by
  simp only [nchReg, levelRegs, List.cons_append, List.nil_append, List.mem_cons, List.not_mem_nil, or_false, rPepEvents, rLopChangedHost,
    rSbkEvents, rPepEventsEn, rSbkEventsEn]
  omega

theorem raise_quiet {off : Nat} (hq : off ∉ levelRegs) (mask : Nat) :
    s.raise off mask = s.setReg off (s.reg off ||| BitVec.ofNat 64 mask) := setReg_levelRise s hq _

theorem rNchIrq_quiet : rNchIrq ∉ levelRegs := by decide

theorem nchFree_frame (s : State) (c : Nat) : s.nchFree c = { s with nch := (s.nchFree c).nch, regs := (s.nchFree c).regs } := by
  unfold nchFree
  split
  · rfl
  · rw [raise_quiet rNchIrq_quiet]
    rfl

theorem nchFree_nch (s : State) (c : Nat) : (s.nchFree c).nch = if (Tbl.find s.nch c).isNone then s.nch else Tbl.del s.nch c := by
  unfold nchFree
  split
  · rfl
  · rw [raise_quiet rNchIrq_quiet]
    rfl

theorem nchFree_sorted (hs : Tbl.sorted s.nch = true) (c : Nat) : Tbl.sorted (s.nchFree c).nch = true := by
  rw [nchFree_nch]
  split
  · exact hs
  · exact Tbl.sorted_del hs c

theorem nchFree_find (hs : Tbl.sorted s.nch = true) (c q : Nat) :
    Tbl.find (s.nchFree c).nch q = if q = c then none else Tbl.find s.nch q := by
  rw [nchFree_nch]
  by_cases hq : q = c
  · subst hq
    rw [if_pos rfl]
    split
    · next h => exact Option.isNone_iff_eq_none.1 h
    · exact Tbl.find_del_same hs q
  · rw [if_neg hq]
    split
    · rfl
    · exact Tbl.find_del_other s.nch hq

/-- What FORCE_RELEASE does to each context: it is freed where the written bit marks it. -/
def nchFreeMarked (v : W64) (t : State) (c : Nat) : State := if v.getLsbD c then t.nchFree c else t

/-- The marked contexts of a list are freed, and nothing else differs but registers. -/
theorem foldl_nchFree (v : W64) (l : List Nat) {s : State} (hs : Tbl.sorted s.nch = true) :
    l.foldl (nchFreeMarked v) s =
      { s with nch := (l.foldl (nchFreeMarked v) s).nch, regs := (l.foldl (nchFreeMarked v) s).regs } ∧
    ∀ q, Tbl.find (l.foldl (nchFreeMarked v) s).nch q =
      if q ∈ l ∧ v.getLsbD q = true then none else Tbl.find s.nch q := by
  induction l generalizing s with
  | nil => simp
  | cons c l ih =>
    rw [List.foldl_cons, nchFreeMarked]
    by_cases hv : v.getLsbD c = true
    · rw [if_pos hv]
      obtain ⟨hframe, hfind⟩ := ih (nchFree_sorted hs c)
      refine ⟨?_, fun q => ?_⟩
      · rw [nchFree_frame s c] at hframe ⊢
        exact hframe
      · rw [hfind, nchFree_find hs]
        by_cases hq : q = c
        · subst hq
          simp [hv]
        · simp [hq]
    · rw [if_neg hv]
      obtain ⟨hframe, hfind⟩ := ih hs
      refine ⟨hframe, fun q => ?_⟩
      rw [hfind]
      by_cases hq : q = c
      · subst hq
        simp [hv]
      · simp [hq]

theorem nchErr_eq (hc : c < 16) (f : Nat) : s.nchErr c f =
    (s.setReg (nchReg c + 0x10) (s.reg (nchReg c + 0x10) ||| BitVec.ofNat 64 (2 ^ f))).setReg rNchIrq
      (s.reg rNchIrq ||| BitVec.ofNat 64 (2 ^ (16 + c))) := by
  have hne : rNchIrq ≠ nchReg c + 0x10 := by unfold rNchIrq nchReg; omega
  rw [nchErr, raise_quiet (nchReg_quiet hc (by decide)), raise_quiet rNchIrq_quiet, reg_setReg_other _ _ _ hne]

/-! ### The commands of the unit -/

section

variable (hc : c < 16) (v : W64)
include hc

theorem exec_claim : exec (.claim m c width v) s = .next (s.regWrite m (nchReg c) width v 0) := if_neg (by omega)
theorem exec_nchRelease : exec (.nchRelease m c width v) s = .next (s.regWrite m (nchReg c) width v 0) := if_neg (by omega)
theorem exec_nchStart : exec (.nchStart m c width v) s = .next (s.regWrite m (nchReg c + 8) width v 0) := if_neg (by omega)
theorem exec_nchData : exec (.nchData m c width v) s = .next (s.regWrite m (nchReg c + 0x20) width v 0) := if_neg (by omega)
theorem exec_nchLast : exec (.nchLast m c width v) s = .next (s.regWrite m (nchReg c + 0x28) width v 0) := if_neg (by omega)
theorem exec_nchKeyWrite {j : Nat} (hj : j < 8) :
    exec (.nchKeyWrite m c j width v) s = .next (s.regWrite m (nchReg c + 0x40 + 8 * j) width v 0) := if_neg (by omega)

end

section

variable (hc : c < 16) (hx : Tbl.find s.nch c = some x) (ho : x.owner = m) (v : W64)
include hc hx ho

theorem exec_nchStart_owner (hg : s.gate m (nchReg c + 8) width true = .open) :
    ∃ w : W64, exec (.nchStart m c width v) s = .next (s.nchCtlAct m c x w) ∧ w.setWidth 32 = v.setWidth 32 := by
  obtain ⟨w, mask, hwr, hlow, hm, -⟩ := regWrite_context hc (by decide) (by decide) hg v
  exact ⟨w, by rw [exec_nchStart hc, hwr, nchWrite_ctl hx ho hm], hlow⟩

theorem exec_nchData_owner (hg : s.gate m (nchReg c + 0x20) width true = .open) :
    ∃ w : W64, exec (.nchData m c width v) s = .next (s.nchDataAct c x w) ∧ w.setWidth 32 = v.setWidth 32 := by
  obtain ⟨w, mask, hwr, hlow, hm, -⟩ := regWrite_context hc (by decide) (by decide) hg v
  exact ⟨w, by rw [exec_nchData hc, hwr, nchWrite_data hx ho hm], hlow⟩

theorem exec_nchLast_owner (hg : s.gate m (nchReg c + 0x28) width true = .open) :
    ∃ w : W64, exec (.nchLast m c width v) s = .next (s.nchLastAct c x w) ∧ (width = 8 → w = v) := by
  obtain ⟨w, mask, hwr, -, hm, hfull⟩ := regWrite_context hc (by decide) (by decide) hg v
  exact ⟨w, by rw [exec_nchLast hc, hwr, nchWrite_last hx ho hm], fun h => (hfull h).1⟩

theorem exec_nchKeyWrite_owner {j : Nat} (hj : j < 8) (hg : s.gate m (nchReg c + 0x40 + 8 * j) 8 true = .open) :
    exec (.nchKeyWrite m c j 8 v) s = .next (s.setNch c { x with key := spliceAt x.key (8 * j) (leBytes 8 v.toNat) }) := by
  rw [Nat.add_assoc] at hg
  obtain ⟨w, mask, hwr, -, -, hfull⟩ := regWrite_context hc (by omega) (by omega) hg v
  obtain ⟨rfl, rfl⟩ := hfull rfl
  rw [exec_nchKeyWrite hc w hj, Nat.add_assoc, hwr, nchWrite_key hx ho hj]

end

/-- A write of a held context by another master only counts (R121). -/
theorem regWrite_foreign (hc : c < 16) (hx : Tbl.find s.nch c = some x) (ho : x.owner ≠ m) (h0 : k ≠ 0) (hk : k < 0x100) (h8 : k % 8 = 0)
    (hg : s.gate m (nchReg c + k) width true = .open) (v : W64) : s.regWrite m (nchReg c + k) width v 0 = s.nchForeign := by
  obtain ⟨w, mask, hwr, -⟩ := regWrite_context hc hk h8 hg v
  rw [hwr, nchWrite_foreign hx ho h0]

theorem exec_nchBlockDone (hx : Tbl.find s.nch c = some x) (hb : x.busy = true) (hl : x.last = false) :
    exec (.nchBlockDone c) s = .next (s.setNch c { x with busy := false }) := by
  show execNchBlockDone c s = _
  rw [execNchBlockDone, hx]
  simp [hb, hl]

theorem exec_nchDigestDone (hx : Tbl.find s.nch c = some x) (hb : x.busy = true) (hl : x.last = true) :
    exec (.nchDigestDone c) s =
      .next ((s.setNch c { x with busy := false, done := true, digest := nchDigest x }).raise rNchIrq (2 ^ c)) := by
  show execNchDigestDone c s = _
  rw [execNchDigestDone, hx]
  simp [hb, hl]

theorem exec_forceRelease (hg : s.gate m (rNch + 0x20) width true = .open) (v : W64) :
    ∃ x : W64, exec (.forceRelease m width v) s = .next ((List.range 16).foldl (nchFreeMarked x) s) ∧
      x.setWidth 32 = v.setWidth 32 :=
  ⟨_, congrArg _ (regWrite_notch (lo := 0x20) (by decide) (by decide) hg v),
    (slotValue_low (off := rNch + 0x20) (by decide) v).1⟩

end Sys2Proof.Machine.State

namespace Sys2Proof.Machine

/-- Settles O20: a write by `regWrite_context` and the act of its register, a release by `foldl_nchFree`, the ends of work by their
commands. -/
theorem notchContextsHashMessages : Obligations.NotchContextsHashMessages := by
  unfold Obligations.NotchContextsHashMessages
  refine ⟨?_, ?_, ?_, ?_, ?_⟩
  · intro s m c width v hc hg
    obtain ⟨w, mask, hwr, hlow, -, -⟩ := regWrite_context (k := 0) hc (by decide) (by decide) hg v
    have h9 := getLsbD_of_low hlow (i := 9) (by decide)
    have h10 := getLsbD_of_low hlow (i := 10) (by decide)
    have hact : s.regWrite m (nchReg c) width v 0 = s.nchOwnerAct m c w := hwr
    simp only [gives, exec_claim hc, exec_nchRelease hc, hact]
    refine ⟨fun hn hv => ?_, fun hn hv => ?_, fun x hx => ⟨fun hv => ?_, fun ho hv => ?_, fun ho hv hrel => ?_⟩⟩
    · rw [nchOwnerAct_free hn, h9, if_pos hv]
    · rw [nchOwnerAct_free hn, h9, hv]
      rfl
    · rw [nchOwnerAct_held hx, h9, if_pos hv]
    · rw [nchOwnerAct_held hx, h9, hv, if_pos ho]
      rfl
    · rw [nchOwnerAct_held hx, h9, hv, if_neg (not_not.2 ho), h10, if_pos hrel, nchFree_held hx]
      rfl
  · intro s m width v hs hg
    obtain ⟨w, hexec, hlow⟩ := exec_forceRelease hg v
    obtain ⟨hframe, hfind⟩ := foldl_nchFree w (List.range 16) hs
    refine ⟨_, hexec, hframe, fun c => ?_⟩
    have hiff : (c ∈ List.range 16 ∧ w.getLsbD c = true) ↔ (c < 16 ∧ v.getLsbD c = true) := by
      rw [List.mem_range]
      exact and_congr_right fun hc => by rw [getLsbD_of_low hlow (by omega)]
    rw [hfind, if_congr hiff rfl rfl]
  · intro s m c width v x hc hx
    refine ⟨fun ho => ⟨fun hg => ?_, fun hg => ?_, fun hg => ?_, fun k hk hg => ?_⟩, fun ho hg h11 h4 halg => ?_,
      fun ho hg hf => ?_, fun ho hg h8 hf => ?_, fun ho hf => ⟨fun hg => ?_, fun hg => ?_⟩, fun k hk ho hg h8 hlen => ?_⟩
    · rw [gives, exec_nchStart hc, regWrite_foreign hc hx ho (by decide) (by decide) (by decide) hg]
      rfl
    · rw [gives, exec_nchData hc, regWrite_foreign hc hx ho (by decide) (by decide) (by decide) hg]
      rfl
    · rw [gives, exec_nchLast hc, regWrite_foreign hc hx ho (by decide) (by decide) (by decide) hg]
      rfl
    · rw [Nat.add_assoc] at hg
      rw [gives, exec_nchKeyWrite hc v hk, Nat.add_assoc, regWrite_foreign hc hx ho (by omega) (by omega) (by omega) hg]
      rfl
    · obtain ⟨w, hexec, hlow⟩ := exec_nchStart_owner hc hx ho v hg
      have hkeep : w &&& 0x7FF = v &&& 0x7FF := and_of_low hlow (by decide)
      rw [← bits_of_low hlow (by decide)] at halg ⊢
      rw [← getLsbD_of_low hlow (by decide)] at h11 h4
      rw [gives, hexec, nchCtlAct_start h11 h4 halg, hkeep]
    · obtain ⟨w, hexec, hlow⟩ := exec_nchData_owner hc hx ho v hg
      simp only [gives, hexec]
      refine ⟨fun hb => ?_, fun hb h => ?_, fun hb hst hla hd hl => ?_⟩
      · rw [(nchFeed_busy hf w hb).1]
        rfl
      · rw [(nchFeed_sequence hf w hb h).1]
        rfl
      · rw [nchDataAct_open hf w ⟨hb, hst, hla, hd⟩ hl, leBytes_of_low hlow, nchFeed, List.length_append, leBytes_length]
        rfl
    · obtain ⟨w, hexec, hw⟩ := exec_nchLast_owner hc hx ho v hg
      rw [hw h8] at hexec
      simp only [gives, hexec]
      refine ⟨fun hb => ?_, fun hb h => ?_, fun hb hst hla hd hn => ?_, fun hb hst hla hd hn hl => ?_⟩
      · rw [(nchFeed_busy hf v hb).2]
        rfl
      · rw [(nchFeed_sequence hf v hb h).2]
        rfl
      · rw [nchLastAct_count hf v ⟨hb, hst, hla, hd⟩ hn]
        rfl
      · rw [nchLastAct_open hf v ⟨hb, hst, hla, hd⟩ hn hl]
    · obtain ⟨w, hexec, -⟩ := exec_nchData_owner hc hx ho v hg
      rw [gives, hexec, nchDataAct_failed hf]
    · obtain ⟨w, hexec, -⟩ := exec_nchLast_owner hc hx ho v hg
      rw [gives, hexec, nchLastAct_failed hf]
    · subst h8
      rw [gives, exec_nchKeyWrite_owner hc hx ho v hk hg, spliceAt_inside (by omega), leBytes_length]
  · intro s c x hx hb
    refine ⟨fun hl => exec_nchBlockDone hx hb hl, fun alg hl halg => ?_⟩
    subst halg
    rw [gives, exec_nchDigestDone hx hb hl]
    rfl
  · intro s c f hc hs
    have hne : nchReg c + 0x10 ≠ rNchIrq := by unfold rNchIrq nchReg; omega
    rw [nchErr_eq hc]
    refine ⟨?_, ?_, rfl⟩
    · rw [reg_setReg_other _ _ _ hne, reg_setReg_same _ _ _ hs]
    · rw [reg_setReg_same _ _ _ (setReg_sorted s _ _ hs)]

end Sys2Proof.Machine
end

section
/-! A POOL_CREATE whose pool has other parameters than it gave (O33): the entry of the creation group that carries them, `eParams`,
loses VERIFY. Its flags are written `b2n !c.dedup + 2 * b2n c.verify`, and as `!` binds more weakly than `+` this is the one bit
`!(c.dedup + 2 * c.verify)`, a sum in the Boolean ring, where 2 is 0. -/

open Sys2Proof Sys2Proof.Machine Sys2Proof.Machine.State

namespace Sys2Proof.Machine

/-- A parameter block of R204: K 6, DEDUP_OFF and VERIFY in FLAGS, ten modules in ten domains, the other parameters at their defaults. -/
def verifyBlock : Bytes :=
  [6, 3] ++ zeros 18 ++ leBytes 2 10 ++ zeros 10 ++ (List.range 10).flatMap (fun i => leBytes 1 i ++ leBytes 1 0)

/-- A running POOL_CREATE of pool 0 with that block. -/
def verifyCall : Call :=
  { internal := true, entry := leBytes 2 40 ++ zeros 10 ++ leBytes 4 verifyBlock.length ++ zeros 48, phase := .running, cid := none,
    ridge := 0, param := mkH 0 0 0 1024, due := 0, discarded := false }

/-- The call runs on a DEPLOYED head in mode 6 with a healthy TRNG, no pool, and the ten modules admitted. -/
def verifyState : State :=
  { State.reset with
    mem := Mem.writeBytes [] (bufBase 0) verifyBlock, bufs := [(0, { base := 0, grans := 1, bytes := 1024, owner := 0 })],
    calls := [(0, verifyCall)], pwr := { State.reset.pwr with mode := 6 }, wdn := { State.reset.wdn with trngOk := true },
    fuses := { State.reset.fuses with lc := 3 },
    modules := (List.range 10).map (fun i => (4 * i, { Modu.fresh with present := true, admitted := true })) }

theorem verifyState_passes : verifyState.poolCheck 0 (verifyState.paramBytes verifyCall) = 0 := by decide +kernel

theorem verifyState_params : (poolParams (verifyState.paramBytes verifyCall)).dedup = false ∧
    (poolParams (verifyState.paramBytes verifyCall)).verify = true := by decide +kernel

/-- Refutes O33: once the Cairn grants it, this POOL_CREATE exits with success, and VERIFY, which its block sets, is off in the pool. -/
theorem not_mapPoolsAndNamespacesChange : ¬ Obligations.MapPoolsAndNamespacesChange := by
  unfold Obligations.MapPoolsAndNamespacesChange
  rintro ⟨-, -, -, -, -, -, hcalls, -⟩
  obtain ⟨hcreate, -⟩ := hcalls verifyState _ 0 verifyCall rfl rfl rfl
  obtain ⟨-, -, -, -, hgranted⟩ := hcreate (by decide) 0 _ (some 5) 0 (by decide) rfl
  obtain ⟨r, x, hexec, -, hcfg, -⟩ := hgranted 5 verifyState_passes rfl (.inr (by decide)) rfl verifyState_params.1
  have hrun : (match exec (.poolCreate 0 (some 5) 0) verifyState with
      | .next t => (t.pool 0).cfg.verify
      | _ => true) = false := by decide +kernel
  rw [show exec _ _ = _ from hexec] at hrun
  have hpool : (r.libExit 0 0 x).pool 0 = r.pool 0 := (libExit_sameArray r 0 0 x).pool 0
  have hverify : ((r.libExit 0 0 x).pool 0).cfg.verify = true := by rw [hpool, hcfg, verifyState_params.2]
  exact Bool.false_ne_true (hrun.symm.trans hverify)

end Sys2Proof.Machine
end

section
/-! SUPPORT for O17. How long decoded blocks are, the coding blocks of an original, and the fields and checks of a stored frame. -/

open Sys2Proof Sys2Proof.Machine Sys2Proof.Machine.State

namespace Sys2Proof.Machine

/-! ### Decoded blocks are no longer than their originals (R151 to R154) -/

theorem ByteModel.push_size (w : ByteModel) (v : Byte) : (w.push v).x.size = w.x.size + 1 := by
  have hx : (w.push v).x = w.x.push v := by
    unfold ByteModel.push
    dsimp only
    split <;> rfl
  rw [hx, Array.size_push]

theorem decByte_size (st : ByteModel × RcDec) : (decByte st).1.x.size = st.1.x.size + 1 := by
  unfold decByte
  generalize hbits : List.foldl _ _ _ = t
  have hx : t.1.x = st.1.x := hbits ▸
    List.foldlRecOn (motive := fun t : ByteModel × RcDec × Nat => t.1.x = st.1.x) _ _ rfl fun _ ht _ _ => ht
  rw [← hx]
  exact ByteModel.push_size _ _

theorem decBytes_size (n : Nat) (st : ByteModel × RcDec) : (decBytes n st).1.x.size = st.1.x.size + n := by
  induction n generalizing st with
  | zero => rfl
  | succ n ih => rw [decBytes, ih, decByte_size]; omega

theorem decodeByteBlock_length {c x : Bytes} {n : Nat} (h : decodeByteBlock c n = some x) : x.length = n := by
  simp only [decodeByteBlock, Option.ite_none_right_eq_some, Option.some.injEq] at h
  obtain ⟨-, rfl⟩ := h
  rw [Array.length_toList, decBytes_size]
  exact Nat.zero_add n

/-- What is left of a row lies within the block. -/
theorem RShape.rowLeft_le (h : RShape) (i : Nat) : i + (h.rowLen (i / h.width) - i % h.width) ≤ max i h.total := by
  have := Nat.div_add_mod' i h.width
  rw [RShape.rowLen]
  omega

theorem decSamples_size {h : RShape} {f : Nat} {s t : Array Nat} {c : RasterCtx} {l r : List Bool} (hs : s.size ≤ h.total)
    (hd : decSamples h f s c l = some (t, r)) : t.size ≤ h.total := by
  induction f generalizing s c l with
  | zero =>
    simp only [decSamples, Option.some.injEq, Prod.mk.injEq] at hd
    exact hd.1 ▸ hs
  | succ f ih =>
    have hrow := h.rowLeft_le s.size
    rw [decSamples] at hd
    dsimp only at hd
    split at hd
    · cases hd
      exact hs
    · split at hd
      · split at hd
        · cases hd
        · next run l1 _ =>
          split at hd
          · cases hd
          · split at hd
            · exact ih (by simp only [Array.size_append, Array.size_replicate]; omega) hd
            · split at hd
              · cases hd
              · exact ih (by simp only [Array.size_push, Array.size_append, Array.size_replicate]; omega) hd
      · split at hd
        · cases hd
        · exact ih (by rw [Array.size_push]; omega) hd

theorem decodeRasterBlock_length {sample width n : Nat} {c x : Bytes} (h : decodeRasterBlock sample width c n = some x) : x.length ≤ n := by
  unfold decodeRasterBlock at h
  dsimp only at h
  split at h
  · cases h
  · next s r hs =>
    simp only [Option.ite_none_right_eq_some, Option.some.injEq] at h
    obtain ⟨-, rfl⟩ := h
    have hsize : s.size ≤ n / (1 + sample % 2) := decSamples_size (Nat.zero_le _) hs
    have hlen : (s.toList.flatMap (leBytes (1 + sample % 2))).length = s.size * (1 + sample % 2) := by
      simp [List.length_flatMap, List.map_const']
    rw [hlen]
    exact (Nat.mul_le_mul_right _ hsize).trans (Nat.div_mul_le_self n _)

theorem decodeBlock_length {raster : Bool} {sample width n : Nat} {c x : Bytes} (h : decodeBlock raster sample width c n = some x) :
    x.length ≤ n := by
  cases raster with
  | false => exact (decodeByteBlock_length h).le
  | true => exact decodeRasterBlock_length h

/-! ### The coding blocks of an original (R151, R152) -/

theorem pieces_cons (k f o n : Nat) (hn : n ≠ 0) : pieces k (f + 1) o n = (o, min k n) :: pieces k f (o + min k n) (n - min k n) :=
  if_neg hn

/-- An original of whole pixels has a coding block. -/
theorem codingBlocks_ne_nil {raster : Bool} {sample n : Nat} (hn : 0 < n) (hr : raster = true → n % (planesOf sample * bpsOf sample) = 0)
    (width : Nat) : codingBlocks raster sample width n ≠ [] := by
  cases raster with
  | false =>
    show pieces 65536 (n + 1) 0 n ≠ []
    rw [pieces_cons _ _ _ _ hn.ne']
    exact List.cons_ne_nil _ _
  | true =>
    have hplanes : planesOf sample ≤ n :=
      Nat.le_of_dvd hn ((Nat.dvd_mul_right _ (bpsOf sample)).trans (Nat.dvd_of_mod_eq_zero (hr rfl)))
    have hplane : n / planesOf sample ≠ 0 := (Nat.div_pos hplanes (Nat.succ_pos _)).ne'
    intro hnil
    have hfirst := List.flatMap_eq_nil_iff.1 hnil 0 (List.mem_range.2 (Nat.succ_pos _))
    rw [pieces_cons _ _ _ _ hplane] at hfirst
    exact List.cons_ne_nil _ _ hfirst

/-! ### The frame header (R147) -/

/-- The bytes of fields given as size and value, each little-endian. -/
def fieldBytes (l : List (Nat × Nat)) : Bytes := l.flatMap (fun f => leBytes f.1 f.2)

/-- Where field `i` begins. -/
def fieldOffset (l : List (Nat × Nat)) (i : Nat) : Nat := ((l.take i).map Prod.fst).sum

theorem fieldBytes_length (l : List (Nat × Nat)) : (fieldBytes l).length = (l.map Prod.fst).sum := by
  simp [fieldBytes, List.length_flatMap]

theorem fieldAt_fieldBytes (l : List (Nat × Nat)) (r : Bytes) {i : Nat} (h : i < l.length) :
    fieldAt (fieldBytes l ++ r) (fieldOffset l i) l[i].1 = l[i].2 % 256 ^ l[i].1 := by
  have hsplit : fieldBytes l ++ r =
      fieldBytes (l.take i) ++ (leBytes l[i].1 l[i].2 ++ (fieldBytes (l.drop (i + 1)) ++ r)) := by
    conv_lhs => rw [← List.take_append_drop i l, List.drop_eq_getElem_cons h]
    simp only [fieldBytes, List.flatMap_append, List.flatMap_cons, List.append_assoc]
  rw [hsplit, fieldOffset, ← fieldBytes_length, fieldAt_append]

/-- The fields of the frame header before HDR_CRC. -/
def headerFields (mode orig body sample width crc blocks : Nat) : List (Nat × Nat) :=
  [(2, 0xF0C5), (1, 1), (1, mode), (4, orig), (4, body), (1, sample), (3, 0), (4, width), (4, crc), (4, blocks)]

section
variable (mode orig body sample width crc blocks : Nat)

theorem frameHeader_eq : frameHeader mode orig body sample width crc blocks =
    fieldBytes (headerFields mode orig body sample width crc blocks) ++
      leBytes 4 (crc32c (fieldBytes (headerFields mode orig body sample width crc blocks))) := by
  have h : leBytes 2 0xF0C5 ++ [1] ++ leBytes 1 mode ++ leBytes 4 orig ++ leBytes 4 body ++ leBytes 1 sample ++ zeros 3
      ++ leBytes 4 width ++ leBytes 4 crc ++ leBytes 4 blocks = fieldBytes (headerFields mode orig body sample width crc blocks) := by
    simp only [fieldBytes, headerFields, List.flatMap_cons, List.flatMap_nil, List.append_assoc, List.append_nil]
    rfl
  rw [← h, frameHeader]

@[simp] theorem frameHeader_length : (frameHeader mode orig body sample width crc blocks).length = 32 := by
  rw [frameHeader_eq, List.length_append, fieldBytes_length, leBytes_length]
  rfl

end

theorem crc32c_lt (d : Bytes) : crc32c d < 256 ^ 4 := (crcRun 0xFFFFFFFF#32 d ^^^ 0xFFFFFFFF#32).isLt

section
variable {len crc : Nat} (r : Bytes)

/-- A stored frame, written from its first field. -/
theorem storedHeader_append : frameHeader 0 len len 0 0 crc 0 ++ r = fieldBytes (headerFields 0 len len 0 0 crc 0) ++
    (leBytes 4 (crc32c (fieldBytes (headerFields 0 len len 0 0 crc 0))) ++ r) := by
  rw [frameHeader_eq, List.append_assoc]

/-- Field `i` of a stored frame. -/
theorem storedHeader_field {i : Nat} (h : i < (headerFields 0 len len 0 0 crc 0).length) :
    fieldAt (frameHeader 0 len len 0 0 crc 0 ++ r) (fieldOffset (headerFields 0 len len 0 0 crc 0) i)
      (headerFields 0 len len 0 0 crc 0)[i].1 =
    (headerFields 0 len len 0 0 crc 0)[i].2 % 256 ^ (headerFields 0 len len 0 0 crc 0)[i].1 := by
  rw [storedHeader_append]
  exact fieldAt_fieldBytes _ _ h

theorem storedHeader_mode : fieldAt (frameHeader 0 len len 0 0 crc 0 ++ r) 3 1 = 0 := storedHeader_field r (i := 2) (by decide : 2 < 10)

theorem storedHeader_orig (h : len < 256 ^ 4) : fieldAt (frameHeader 0 len len 0 0 crc 0 ++ r) 4 4 = len :=
  (storedHeader_field r (i := 3) (by decide : 3 < 10)).trans (Nat.mod_eq_of_lt h)

theorem storedHeader_body (h : len < 256 ^ 4) : fieldAt (frameHeader 0 len len 0 0 crc 0 ++ r) 8 4 = len :=
  (storedHeader_field r (i := 4) (by decide : 4 < 10)).trans (Nat.mod_eq_of_lt h)

theorem storedHeader_crc (h : crc < 256 ^ 4) : fieldAt (frameHeader 0 len len 0 0 crc 0 ++ r) 0x14 4 = crc :=
  (storedHeader_field r (i := 8) (by decide : 8 < 10)).trans (Nat.mod_eq_of_lt h)

theorem storedHeader_hdrCrc :
    fieldAt (frameHeader 0 len len 0 0 crc 0 ++ r) 0x1C 4 = crc32c ((frameHeader 0 len len 0 0 crc 0 ++ r).take 28) := by
  have h28 : (fieldBytes (headerFields 0 len len 0 0 crc 0)).length = 28 := fieldBytes_length _
  have h := fieldAt_append (fieldBytes (headerFields 0 len len 0 0 crc 0)) r 4
    (crc32c (fieldBytes (headerFields 0 len len 0 0 crc 0)))
  rw [h28, Nat.mod_eq_of_lt (crc32c_lt _)] at h
  rw [storedHeader_append, h, List.take_left' h28]

/-- A whole stored frame of the length that is expected passes checks 1 to 5 of R161. -/
theorem frameChecks_stored {expect : Nat} (h0 : 0 < len) (hle : len ≤ 1048576) (hr : len + 4 ≤ r.length) (he : expect = 0 ∨ expect = len) :
    frameChecks (frameHeader 0 len len 0 0 crc 0 ++ r) expect = none := by
  have hlt : len < 256 ^ 4 := by omega
  have hmagic : fieldAt (frameHeader 0 len len 0 0 crc 0 ++ r) 0 2 = 0xF0C5 := storedHeader_field r (i := 0) (by decide : 0 < 10)
  have hversion : fieldAt (frameHeader 0 len len 0 0 crc 0 ++ r) 2 1 = 1 := storedHeader_field r (i := 1) (by decide : 1 < 10)
  have hsample : fieldAt (frameHeader 0 len len 0 0 crc 0 ++ r) 0xC 1 = 0 := storedHeader_field r (i := 5) (by decide : 5 < 10)
  have hreserved : fieldAt (frameHeader 0 len len 0 0 crc 0 ++ r) 0xD 3 = 0 := storedHeader_field r (i := 6) (by decide : 6 < 10)
  have hwidth : fieldAt (frameHeader 0 len len 0 0 crc 0 ++ r) 0x10 4 = 0 := storedHeader_field r (i := 7) (by decide : 7 < 10)
  have hblocks : fieldAt (frameHeader 0 len len 0 0 crc 0 ++ r) 0x18 4 = 0 := storedHeader_field r (i := 9) (by decide : 9 < 10)
  have hlength : (frameHeader 0 len len 0 0 crc 0 ++ r).length = 32 + r.length := by rw [List.length_append, frameHeader_length]
  have hexpect : ¬ (expect ≠ 0 ∧ expect ≠ len) := by omega
  unfold frameChecks
  simp only [hmagic, hversion, storedHeader_mode, storedHeader_orig r hlt, storedHeader_body r hlt, hsample, hreserved, hwidth, hblocks,
    storedHeader_hdrCrc, hlength, hexpect]
  rw [if_neg (by omega), if_neg (by simp), if_neg (by simp), if_neg (by omega), if_neg (by simp), if_neg (by simp), if_neg (by simp),
    if_neg (by simp), if_neg (by omega)]

end

/-- Every STATUS that a chain of checks can give is in a list when each check's own is. -/
theorem mem_of_check {c : Prop} [Decidable c] {a : Nat} {x : Option Nat} {sts : List Nat} (ha : a ∈ sts) (hx : ∀ st, x = some st → st ∈ sts)
    (st : Nat) (h : (if c then some a else x) = some st) : st ∈ sts := by
  split at h
  · cases h
    exact ha
  · exact hx st h

theorem frameChecks_status (d : Bytes) (expect st : Nat) : frameChecks d expect = some st → st ∈ [0x13, 0x14, 0x15, 0x17] := by
  unfold frameChecks
  revert st
  refine mem_of_check ?_ <| mem_of_check ?_ <| mem_of_check ?_ <| mem_of_check ?_ <| mem_of_check ?_ <| mem_of_check ?_ <|
    mem_of_check ?_ <| mem_of_check ?_ <| mem_of_check ?_ fun st h => nomatch h
  all_goals decide

end Sys2Proof.Machine
end

section
/-! SUPPORT for O17. What an encode, a decode and a resume end with: their STATUS values and how much they write. -/

open Sys2Proof Sys2Proof.Machine Sys2Proof.Machine.State

namespace Sys2Proof.Machine

theorem hLen_pos (h : W64) : 0 < hLen h := by
  unfold hLen
  split <;> omega

/-! ### What an encode, a decode and a resume can end with (R155 to R163) -/

/-- An end keeps to its output of `cap` bytes and to the STATUS values of its operation. -/
structure CoderEnd.Keeps (e : CoderEnd) (cap : Nat) (sts : List Nat) : Prop where
  status : e.status ∈ sts
  out : e.out.length ≤ cap
  junk : e.junk ≤ cap

namespace CoderEnd.Keeps

theorem mono {e : CoderEnd} {cap : Nat} {sts sts' : List Nat} (h : e.Keeps cap sts) (hs : sts ⊆ sts') : e.Keeps cap sts' :=
  ⟨hs h.status, h.out, h.junk⟩

theorem fail {st cap : Nat} {sts : List Nat} (h : st ∈ sts) : (coderFail st).Keeps cap sts := ⟨h, Nat.zero_le _, Nat.zero_le _⟩

end CoderEnd.Keeps

section
variable {cap want : Nat} {c c' : CState'} {rest out out' d d' : Bytes} {first done : Bool} {pos pos' used used' : Nat}
  {bs : List (Nat × Nat)}

/-- A block of an encode either does not fit, and the encode stops before it, or is written within the output, behind the header area
where it is the first of the frame. -/
theorem encBlocks_cons {b : Nat × Nat} {r : CState' × Bytes × Nat × Bool} (h : encBlocks cap rest first (b :: bs) c out pos = some r) :
    r = (c, out, pos, false) ∨ ∃ c1 out1 pos1, encBlocks cap rest first bs c1 out1 pos1 = some r ∧ out1.length ≤ cap ∧
      out.length ≤ out1.length ∧ (first = true → out = [] → 32 ≤ out1.length) := by
  rw [encBlocks] at h
  dsimp only at h
  obtain ⟨-, h⟩ | ⟨-, h⟩ := ite_eq_iff.1 h
  · cases h
  · obtain ⟨-, h⟩ | ⟨hfit, h⟩ := ite_eq_iff.1 h
    · exact .inl (Option.some.inj h).symm
    · refine .inr ⟨_, _, _, h, ?_, ?_, fun hf ho => ?_⟩
      · simp only [List.length_append, zeros_length] at hfit ⊢
        omega
      · simp only [List.length_append]
        omega
      · simp only [hf, ho, List.isEmpty_nil, and_self, if_true, List.length_append, zeros_length]
        omega

theorem encBlocks_fits (ho : out.length ≤ cap) (h : encBlocks cap rest first bs c out pos = some (c', out', pos', done)) :
    out'.length ≤ cap ∧ (done = true → out'.length + 4 ≤ cap) := by
  induction bs generalizing c out pos with
  | nil =>
    simp only [encBlocks, Option.some.injEq, Prod.mk.injEq] at h
    obtain ⟨-, rfl, -, rfl⟩ := h
    exact ⟨ho, of_decide_eq_true⟩
  | cons b bs ih =>
    rcases encBlocks_cons h with hr | ⟨c1, out1, pos1, h1, ho1, -, -⟩
    · cases hr
      exact ⟨ho, fun hd => absurd hd Bool.false_ne_true⟩
    · exact ih ho1 h1

/-- An encode from the original's first byte that completes has written the header area. -/
theorem encBlocks_header (ho : 32 ≤ out.length ∨ out = [] ∧ bs ≠ [])
    (h : encBlocks cap rest true bs c out pos = some (c', out', pos', true)) : 32 ≤ out'.length := by
  induction bs generalizing c out pos with
  | nil =>
    simp only [encBlocks, Option.some.injEq, Prod.mk.injEq] at h
    obtain ⟨-, rfl, -, -⟩ := h
    exact ho.resolve_right fun hn => hn.2 rfl
  | cons b bs ih =>
    rcases encBlocks_cons h with hr | ⟨c1, out1, pos1, h1, -, hle, hhead⟩
    · cases hr
    · exact ih (.inl (ho.elim (fun h => h.trans hle) fun h => hhead rfl h.1)) h1

/-- The frame header of a completed encode replaces the header area, which is there because the original has a coding block; a resume
writes no header. -/
theorem encodeRun_keeps {c0 : CState'} {resume : Bool}
    (h : resume = false → c0.totalOut = 0 ∧ c0.orig = rest.length ∧
      (codingBlocks (decide (c0.kind = 1)) c0.sample c0.width c0.orig).drop c0.blocks ≠ []) :
    (encodeRun c0 rest cap resume).Keeps cap [0, 0x10, 0x11] := by
  unfold encodeRun
  dsimp only
  split
  · split
    · exact ⟨by simp [coderFail], Nat.zero_le _, le_rfl⟩
    · next hstored =>
      obtain ⟨hres, hcap⟩ := not_or.1 hstored
      obtain ⟨-, horig, -⟩ := h (Bool.not_eq_true _ ▸ hres)
      refine ⟨List.mem_cons_self, ?_, Nat.zero_le _⟩
      simp only [List.length_append, frameHeader_length, leBytes_length]
      omega
  · next c1 out pos done hb =>
    obtain ⟨hout, hdone⟩ := encBlocks_fits (Nat.zero_le _) hb
    refine ⟨by cases done <;> simp [coderFail], ?_, Nat.zero_le _⟩
    dsimp only
    split
    · next hh =>
      obtain ⟨rfl, hres⟩ := hh
      obtain ⟨hfirst, -, hblocks⟩ := h hres
      rw [hfirst] at hb
      have := encBlocks_header (.inr ⟨rfl, hblocks⟩) hb
      have := hdone rfl
      simp only [if_true, List.length_append, List.length_drop, frameHeader_length, leBytes_length]
      omega
    · split
      · next hd =>
        rw [List.length_append, leBytes_length]
        exact hdone hd
      · exact hout

theorem decBlocks_fits {raster : Bool} (ho : out.length ≤ cap)
    (h : decBlocks cap raster bs c d out used = some (c', d', out', used', done)) : out'.length ≤ cap := by
  induction bs generalizing c d out used with
  | nil =>
    cases h
    exact ho
  | cons b bs ih =>
    rw [decBlocks] at h
    dsimp only at h
    split at h
    · cases h
      exact ho
    · split at h
      · cases h
      · split at h
        · cases h
        · next hfit _ _ x hx =>
          have := decodeBlock_length hx
          exact ih (by rw [List.length_append]; omega) h

theorem decodeFail_keeps {st : Nat} {sts : List Nat} (h : st ∈ sts) : (decodeFail st cap want).Keeps cap sts :=
  ⟨h, Nat.zero_le _, Nat.min_le_left _ _⟩

/-- The STATUS values of a decode (R163). -/
def decodeStatuses : List Nat := [0, 0x10, 0x13, 0x14, 0x15, 0x16, 0x17, 0x18]

theorem decodeEnd_keeps (ho : out.length ≤ cap) (d0 : Bytes) (head : Nat) :
    (decodeEnd c d0 d out used cap want head done).Keeps cap decodeStatuses := by
  unfold decodeEnd
  split
  · exact decodeFail_keeps (by decide)
  · split
    · exact decodeFail_keeps (by decide)
    · split
      · exact decodeFail_keeps (by decide)
      · exact ⟨by cases done <;> simp [coderFail, decodeStatuses], ho, Nat.zero_le _⟩

theorem decodeRun_keeps (d : Bytes) (expect cap : Nat) : (decodeRun d expect cap).Keeps cap decodeStatuses := by
  unfold decodeRun
  split
  · next st hst =>
    have hsub : [0x13, 0x14, 0x15, 0x17] ⊆ decodeStatuses := by decide
    exact .fail (hsub (frameChecks_status d expect st hst))
  · dsimp only
    split
    · split
      · exact decodeEnd_keeps (Nat.zero_le _) _ _
      · next hcap => exact decodeEnd_keeps ((List.length_take_le _ _).trans (Nat.le_of_not_lt hcap)) _ _
    · split
      · exact decodeFail_keeps (by decide)
      · next hb => exact decodeEnd_keeps (decBlocks_fits (Nat.zero_le _) hb) _ _

theorem decodeResume_keeps (c : CState') (d : Bytes) (cap : Nat) : (decodeResume c d cap).Keeps cap decodeStatuses := by
  unfold decodeResume
  dsimp only
  split
  · exact decodeFail_keeps (by decide)
  · next hb => exact decodeEnd_keeps (decBlocks_fits (Nat.zero_le _) hb) _ _

theorem resumeRun_keeps (st d : Bytes) (cap : Nat) :
    (resumeRun st d cap).Keeps cap [0, 0x10, 0x11, 0x12, 0x13, 0x14, 0x15, 0x16, 0x17, 0x18] := by
  unfold resumeRun
  split
  · exact .fail (by decide)
  · dsimp only
    split
    · exact (encodeRun_keeps fun h => absurd h.symm Bool.false_ne_true).mono (by decide)
    · split
      · exact (decodeRun_keeps d 0 cap).mono (by decide)
      · exact (decodeResume_keeps _ d cap).mono (by decide)

theorem resumeRun_bad {st : Bytes} (h : badState st d.length = true) : resumeRun st d cap = coderFail 0x12 := if_pos h

end

/-- An encode of a whole input, of whole pixels in raster mode. -/
theorem encodeRun_fresh_keeps {d : Bytes} (hd : 0 < d.length) {kind sample : Nat}
    (hr : kind = 1 → d.length % (planesOf sample * bpsOf sample) = 0) (width cap : Nat) :
    (encodeRun (CState'.fresh kind sample width d.length) d cap false).Keeps cap [0, 0x10, 0x11] :=
  encodeRun_keeps fun _ => ⟨rfl, rfl, codingBlocks_ne_nil hd (fun h => hr (of_decide_eq_true h)) width⟩

/-! ### Stored frames (R155, R157, R161) -/

/-- The frame of a stored original. -/
def storedFrame (d : Bytes) : Bytes := frameHeader 0 d.length d.length 0 0 (crc32c d) 0 ++ d ++ leBytes 4 (crc32c d)

theorem storedFrame_length (d : Bytes) : (storedFrame d).length = d.length + 36 := by
  simp only [storedFrame, List.length_append, frameHeader_length, leBytes_length]
  omega

/-- The header of the first block alone reaches an ORIG_LEN of 1 to 4. -/
theorem encBlocks_expands {d : Bytes} (h0 : 0 < d.length) (h4 : d.length ≤ 4) (cap : Nat) :
    encBlocks cap d true (codingBlocks false 0 0 d.length) (CState'.fresh 0 0 0 d.length) [] 0 = none := by
  rw [codingBlocks, if_neg Bool.false_ne_true, pieces_cons _ _ _ _ h0.ne', encBlocks]
  refine if_pos ?_
  simp only [CState'.fresh, List.length_append, leBytes_length]
  omega

/-- The job ends with a STATUS, its output holds bytes that it produced, and nothing undefined. -/
def CoderEnd.Writes (e : CoderEnd) (status : Nat) (out : Bytes) : Prop := e.status = status ∧ e.out = out ∧ e.junk = 0

/-- R155 for such an original: stored where the frame fits the output, EXPANDS where it does not. -/
theorem encodeRun_tiny {d : Bytes} (h0 : 0 < d.length) (h4 : d.length ≤ 4) (cap : Nat) :
    (d.length + 36 ≤ cap → (encodeRun (CState'.fresh 0 0 0 d.length) d cap false).Writes 0 (storedFrame d)) ∧
    (cap < d.length + 36 → (encodeRun (CState'.fresh 0 0 0 d.length) d cap false).status = 0x11 ∧
      (encodeRun (CState'.fresh 0 0 0 d.length) d cap false).out = []) := by
  unfold encodeRun
  dsimp only
  split
  · refine ⟨fun hcap => ?_, fun hcap => ?_⟩
    · rw [if_neg fun h => h.elim Bool.false_ne_true fun h => hcap.not_gt h]
      exact ⟨rfl, rfl, rfl⟩
    · rw [show (CState'.fresh 0 0 0 d.length).orig = d.length from rfl, if_pos (.inr hcap)]
      exact ⟨rfl, rfl⟩
  · next hb => cases (encBlocks_expands h0 h4 cap).symm.trans hb

/-- The end of a decode that meets its trailer and ORIG_CRC. -/
theorem decodeEnd_done {c : CState'} {d out : Bytes} {used : Nat} (hused : used = c.body)
    (hbody : fieldAt d 0 4 = (c.bodyCrc ^^^ 0xFFFFFFFF).toNat) (horig : (c.origCrc ^^^ 0xFFFFFFFF).toNat = c.expect)
    (d0 : Bytes) (cap want head : Nat) : (decodeEnd c d0 d out used cap want head true).Writes 0 out := by
  rw [decodeEnd, if_neg fun h => h.2 hused, if_neg fun h => h.2 hbody, if_neg fun h => h.2 horig]
  exact ⟨rfl, rfl, rfl⟩

/-- A decode of a whole stored frame. -/
theorem decodeRun_stored {x : Bytes} {expect : Nat} (h0 : 0 < x.length) (hle : x.length ≤ 1048576) (he : expect = 0 ∨ expect = x.length)
    (rest : Bytes) (cap : Nat) :
    (x.length ≤ cap → (decodeRun (storedFrame x ++ rest) expect cap).Writes 0 x) ∧
    (cap < x.length → (decodeRun (storedFrame x ++ rest) expect cap).Writes 0x10 []) := by
  have hlt : x.length < 256 ^ 4 := by omega
  have hframe : storedFrame x ++ rest =
      frameHeader 0 x.length x.length 0 0 (crc32c x) 0 ++ (x ++ (leBytes 4 (crc32c x) ++ rest)) := by
    simp only [storedFrame, List.append_assoc]
  have hlen : x.length + 4 ≤ (x ++ (leBytes 4 (crc32c x) ++ rest)).length := by
    simp only [List.length_append, leBytes_length]
    omega
  have hcrc : fieldAt (leBytes 4 (crc32c x) ++ rest) 0 4 = crc32c x :=
    (fieldAt_append [] rest 4 (crc32c x)).trans (Nat.mod_eq_of_lt (crc32c_lt x))
  rw [hframe, decodeRun, frameChecks_stored _ h0 hle hlen he]
  simp only [storedHeader_mode, storedHeader_orig _ hlt, storedHeader_body _ hlt, storedHeader_crc _ (crc32c_lt x),
    List.drop_left' (frameHeader_length _ _ _ _ _ _ _), List.take_left, List.drop_left, if_true]
  refine ⟨fun hcap => ?_, fun hcap => ?_⟩
  · rw [if_neg hcap.not_gt]
    exact decodeEnd_done rfl hcrc rfl _ _ _ _
  · rw [if_pos hcap]
    exact ⟨rfl, rfl, rfl⟩

end Sys2Proof.Machine
end

section
/-! CODER jobs (O17): what the end of a job writes and leaves unchanged, and the four commands. -/

open Sys2Proof Sys2Proof.Machine Sys2Proof.Machine.State

namespace Sys2Proof.Machine

/-- A continuation state fills its buffer (R158). -/
theorem CState'.image_length (c : CState') : c.image.length = 4096 := by
  simp only [CState'.image, List.length_append, padTo_size, leBytes_length]

namespace State

section
variable {s u : State} {n : Nat} {j : Job} {e : CoderEnd}

/-! ### What the end of a coder job writes (R157 to R163) -/

theorem laneReg_quiet (ridge lane lo : Nat) : laneReg ridge lane + lo ∉ levelRegs := by
  simp only [laneReg, ridgeBlk, levelRegs, List.cons_append, List.nil_append, List.mem_cons, List.not_mem_nil, or_false, rPepEvents,
    rLopChangedHost, rSbkEvents, rPepEventsEn, rSbkEventsEn]
  omega

/-- The output as the job leaves it. -/
def coderOutput (s : State) (j : Job) (e : CoderEnd) : State :=
  let s1 := s.hWrite j.ridge (jh j 1) 0 e.out
  if e.junk = 0 then s1 else (s1.hWrite j.ridge (jh j 1) 0 (s1.freeBytes e.junk)).used

/-- The state buffer as the job leaves it. -/
def coderState (s : State) (j : Job) (e : CoderEnd) : State :=
  if jh j 2 = nullH then s
  else match e.state with
    | some c => s.hWrite j.ridge (jh j 2) 0 c.image
    | none => if e.junkSt then (s.hWrite j.ridge (jh j 2) 0 (s.freeBytes 4096)).used else s

/-- Is an address outside the output handle's range and the state buffer? -/
def outside (s : State) (j : Job) (x : Nat) : Prop :=
  (x < s.hAddr j.ridge (jh j 1) ∨ s.hAddr j.ridge (jh j 1) + hLen (jh j 1) ≤ x) ∧
  (jh j 2 = nullH ∨ x < s.hAddr j.ridge (jh j 2) ∨ s.hAddr j.ridge (jh j 2) + 4096 ≤ x)

/-- Nothing but memory and the free values differs, and memory only in the two ranges. -/
def onlyBuffers (j : Job) (s u : State) : Prop :=
  (∃ m k, u = { s with mem := m, freeCtr := k }) ∧ ∀ x, s.outside j x → Mem.read u.mem x = Mem.read s.mem x

namespace onlyBuffers

theorem refl (j : Job) (s : State) : onlyBuffers j s s := ⟨⟨_, _, rfl⟩, fun _ _ => rfl⟩

theorem used (h : onlyBuffers j s u) : onlyBuffers j s u.used := by
  obtain ⟨⟨m, k, rfl⟩, hmem⟩ := h
  exact ⟨⟨_, _, rfl⟩, hmem⟩

theorem hWrite (h : onlyBuffers j s u) {a : W64} {d : Bytes}
    (hx : ∀ x, s.outside j x → x < s.hAddr j.ridge a ∨ s.hAddr j.ridge a + d.length ≤ x) : onlyBuffers j s (u.hWrite j.ridge a 0 d) := by
  obtain ⟨⟨m, k, rfl⟩, hmem⟩ := h
  exact ⟨⟨_, _, rfl⟩, fun x ho => (Mem.read_writeBytes_other m _ d (hx x ho)).trans (hmem x ho)⟩

theorem writeOut (h : onlyBuffers j s u) {d : Bytes} (hd : d.length ≤ hLen (jh j 1)) : onlyBuffers j s (u.hWrite j.ridge (jh j 1) 0 d) :=
  h.hWrite fun _ hx => hx.1.imp_right (Nat.add_le_add_left hd _).trans

theorem writeState (h : onlyBuffers j s u) (hst : jh j 2 ≠ nullH) {d : Bytes} (hd : d.length = 4096) :
    onlyBuffers j s (u.hWrite j.ridge (jh j 2) 0 d) :=
  h.hWrite fun _ hx => hd ▸ hx.2.resolve_left hst

end onlyBuffers

theorem freeBytes_length (s : State) (n : Nat) : (s.freeBytes n).length = n := by rw [freeBytes, List.length_map, List.length_range]

theorem coderOutput_onlyBuffers {sts : List Nat} (h : e.Keeps (hLen (jh j 1)) sts) : onlyBuffers j s (s.coderOutput j e) := by
  have hout := (onlyBuffers.refl j s).writeOut h.out
  unfold coderOutput
  dsimp only
  split
  · exact hout
  · exact (hout.writeOut ((freeBytes_length _ _).trans_le h.junk)).used

theorem coderState_onlyBuffers (h : onlyBuffers j s u) (e : CoderEnd) : onlyBuffers j s (u.coderState j e) := by
  unfold coderState
  split
  · exact h
  · next hst =>
    split
    · exact h.writeState hst (CState'.image_length _)
    · split
      · exact (h.writeState hst (freeBytes_length _ _)).used
      · exact h

/-- The registers of the lane as the job leaves them. -/
def coderCounted (s : State) (j : Job) (e : CoderEnd) : State :=
  let b := laneReg j.ridge j.lane
  let s4 := (((s.bump (b + 8) 0 64 e.eaten).bump (b + 0x10) 0 64 e.out.length).bump (b + 0x18) 0 64 e.frames).bump
    (b + 0x20) 0 64 e.stored
  if 0x10 ≤ e.status then s4.raise (b + 0x28) (2 ^ (e.status - 0x10)) else s4

theorem coderCounted_frame (s : State) (j : Job) (e : CoderEnd) : ∃ r, s.coderCounted j e = { s with regs := r } := by
  unfold coderCounted
  dsimp only
  split
  · rw [raise_quiet (laneReg_quiet _ _ _)]
    exact ⟨_, rfl⟩
  · exact ⟨_, rfl⟩

theorem coderFinish_eq (s : State) (n : Nat) (j : Job) (e : CoderEnd) :
    s.coderFinish n j e = (((s.coderOutput j e).coderState j e).coderCounted j e).finish n j e.status e.out.length := rfl

/-- Which jobs the idle lanes start at the end of a job depends on the jobs alone. -/
theorem jobsAfter_congr (h : u.jobs = s.jobs) (n : Nat) (j : Job) : jobsAfter u n j = jobsAfter s n j := by
  unfold jobsAfter
  rw [h, startLanes_jobs (s := { s with jobs := Tbl.del s.jobs n }) (u := { u with jobs := Tbl.del s.jobs n }) j.ridge rfl]

/-- The end of a job, seen from the state before its unit wrote its registers and memory. -/
theorem jobEnds_of_same (hj : u.jobs = s.jobs) (hc : u.climbs = s.climbs) (n : Nat) (j : Job) (status result : Nat) :
    jobEnds s (u.finish n j status result) n j status result := by
  obtain ⟨hjobs, htok⟩ := finish_jobEnds u n j status result
  have hclimb : u.climb j.cid = s.climb j.cid := by rw [climb, hc, climb]
  exact ⟨hjobs.trans (jobsAfter_congr hj n j), hclimb ▸ htok⟩

theorem coderFinish_mem (s : State) (n : Nat) (j : Job) (e : CoderEnd) :
    (s.coderFinish n j e).mem = ((s.coderOutput j e).coderState j e).mem := by
  obtain ⟨r, hr⟩ := coderCounted_frame ((s.coderOutput j e).coderState j e) j e
  rw [coderFinish_eq, (finish_memRegs _ _ _).1, hr]

/-- Before it ends, a job has changed memory, free values and registers. -/
theorem coderRun_frame {sts : List Nat} (s : State) (h : e.Keeps (hLen (jh j 1)) sts) :
    ∃ m k r, ((s.coderOutput j e).coderState j e).coderCounted j e = { s with mem := m, freeCtr := k, regs := r } := by
  obtain ⟨⟨m, k, hu⟩, -⟩ := coderState_onlyBuffers (coderOutput_onlyBuffers (s := s) h) e
  obtain ⟨r, hr⟩ := coderCounted_frame ((s.coderOutput j e).coderState j e) j e
  exact ⟨m, k, r, by rw [hr, hu]⟩

theorem coderFinish_jobEnds {sts : List Nat} (h : e.Keeps (hLen (jh j 1)) sts) (n : Nat) :
    jobEnds s (s.coderFinish n j e) n j e.status e.out.length := by
  obtain ⟨m, k, r, hu⟩ := coderRun_frame s h
  rw [coderFinish_eq]
  refine jobEnds_of_same ?_ ?_ n j _ _ <;> rw [hu]

theorem coderFinish_frame {sts : List Nat} (h : e.Keeps (hLen (jh j 1)) sts) (hc : j.cls = 3) (n : Nat) :
    s.coderFinish n j e = { s with
      mem := (s.coderFinish n j e).mem, regs := (s.coderFinish n j e).regs, jobs := (s.coderFinish n j e).jobs,
      climbs := (s.coderFinish n j e).climbs, stamp := (s.coderFinish n j e).stamp, digs := (s.coderFinish n j e).digs,
      freeCtr := (s.coderFinish n j e).freeCtr } := by
  obtain ⟨m, k, r, hu⟩ := coderRun_frame s h
  rw [coderFinish_eq, hu]
  obtain ⟨hframe, hkeys, -⟩ := finish_onlyJob { s with mem := m, freeCtr := k, regs := r } n j e.status e.out.length
  obtain ⟨hslots, hending⟩ := hkeys (by omega)
  rw [hslots, hending] at hframe
  rw [hframe]

/-- What every end that keeps to its output and its STATUS values does. -/
theorem coderFinish_spec {sts : List Nat} (h : e.Keeps (hLen (jh j 1)) sts) (hc : j.cls = 3) (n : Nat) :
    jobEnds s (s.coderFinish n j e) n j e.status e.out.length ∧ e.status ∈ sts ∧ e.out.length ≤ hLen (jh j 1) ∧
    (∀ x, (x < s.hAddr j.ridge (jh j 1) ∨ s.hAddr j.ridge (jh j 1) + hLen (jh j 1) ≤ x) →
      (jh j 2 = nullH ∨ x < s.hAddr j.ridge (jh j 2) ∨ s.hAddr j.ridge (jh j 2) + 4096 ≤ x) →
      Mem.read (s.coderFinish n j e).mem x = Mem.read s.mem x) ∧
    s.coderFinish n j e = { s with
      mem := (s.coderFinish n j e).mem, regs := (s.coderFinish n j e).regs, jobs := (s.coderFinish n j e).jobs,
      climbs := (s.coderFinish n j e).climbs, stamp := (s.coderFinish n j e).stamp, digs := (s.coderFinish n j e).digs,
      freeCtr := (s.coderFinish n j e).freeCtr } := by
  obtain ⟨-, hmem⟩ := coderState_onlyBuffers (coderOutput_onlyBuffers (s := s) h) e
  refine ⟨coderFinish_jobEnds h n, h.status, h.out, fun x ho hs => ?_, coderFinish_frame h hc n⟩
  rw [coderFinish_mem]
  exact hmem x ⟨ho, hs⟩

/-- An end that failed before it wrote anything leaves memory as it was, the state buffer too. -/
theorem coderFinish_fail_mem (s : State) (n : Nat) (j : Job) (status : Nat) : (s.coderFinish n j (coderFail status)).mem = s.mem := by
  have hout : s.coderOutput j (coderFail status) = s := rfl
  rw [coderFinish_mem, hout, coderState]
  split <;> rfl

theorem coderFinish_fail_jobEnds (s : State) (n : Nat) (j : Job) (status : Nat) :
    jobEnds s (s.coderFinish n j (coderFail status)) n j status 0 := coderFinish_jobEnds (.fail (List.mem_singleton_self status)) n

/-- A job without a state buffer that writes bytes and nothing undefined. -/
theorem coderFinish_writes {sts : List Nat} {status : Nat} {out : Bytes} (hk : e.Keeps (hLen (jh j 1)) sts) (hw : e.Writes status out)
    (hst : jh j 2 = nullH) (n : Nat) :
    jobEnds s (s.coderFinish n j e) n j status out.length ∧ (s.coderFinish n j e).mem = (s.hWrite j.ridge (jh j 1) 0 out).mem := by
  obtain ⟨rfl, rfl, hjunk⟩ := hw
  exact ⟨coderFinish_jobEnds hk n, by rw [coderFinish_mem, coderState, if_pos hst, coderOutput, if_pos hjunk]⟩

/-! ### The coder commands -/

/-- What a raster encode of an input ends with (R152). -/
def rasterEnd (s : State) (j : Job) : CoderEnd :=
  if hLen (jh j 0) % (planesOf (fieldAt j.desc 2 1) * bpsOf (fieldAt j.desc 2 1)) ≠ 0 then coderFail 0x19
  else encodeRun (CState'.fresh 1 (fieldAt j.desc 2 1) (fieldAt j.desc 4 4) (s.hBytes j.ridge (jh j 0)).length) (s.hBytes j.ridge (jh j 0))
    (hLen (jh j 1)) false

theorem exec_coderEncodeByte (h : s.startable n 3 (fun o => decide (o = 0)) = some j) : exec (.coderEncodeByte n) s =
    .next (s.coderFinish n j (encodeRun (CState'.fresh 0 0 0 (s.hBytes j.ridge (jh j 0)).length) (s.hBytes j.ridge (jh j 0))
      (hLen (jh j 1)) false)) := by
  show execCoderEncodeByte n s = _
  rw [execCoderEncodeByte, h]

theorem exec_coderEncodeRaster (h : s.startable n 3 (fun o => decide (o = 1)) = some j) :
    exec (.coderEncodeRaster n) s = .next (s.coderFinish n j (s.rasterEnd j)) := by
  show execCoderEncodeRaster n s = _
  rw [execCoderEncodeRaster, h, rasterEnd]
  dsimp only
  rw [hBytes_length]
  split <;> rfl

theorem exec_coderDecode (h : s.startable n 3 (fun o => decide (o = 2)) = some j) : exec (.coderDecode n) s =
    .next (s.coderFinish n j (decodeRun (s.hBytes j.ridge (jh j 0)) (fieldAt j.desc 8 4) (hLen (jh j 1)))) := by
  show execCoderDecode n s = _
  rw [execCoderDecode, h]

theorem exec_coderResume (h : s.startable n 3 (fun o => decide (o = 3)) = some j) : exec (.coderResume n) s =
    .next (s.coderFinish n j (resumeRun (s.rdBytes (s.hAddr j.ridge (jh j 2)) 4096) (s.hBytes j.ridge (jh j 0)) (hLen (jh j 1)))) := by
  show execCoderResume n s = _
  rw [execCoderResume, h]

theorem hBytes_pos (s : State) (ridge : Nat) (h : W64) : 0 < (s.hBytes ridge h).length := (hBytes_length s ridge h).symm ▸ hLen_pos h

theorem encodeByte_keeps (s : State) (j : Job) :
    (encodeRun (CState'.fresh 0 0 0 (s.hBytes j.ridge (jh j 0)).length) (s.hBytes j.ridge (jh j 0)) (hLen (jh j 1)) false).Keeps
      (hLen (jh j 1)) [0, 0x10, 0x11] := encodeRun_fresh_keeps (hBytes_pos s _ _) (fun h => absurd h (by decide)) 0 _

theorem rasterEnd_keeps (s : State) (j : Job) : (s.rasterEnd j).Keeps (hLen (jh j 1)) [0, 0x10, 0x11, 0x19] := by
  unfold rasterEnd
  split
  · exact .fail (by decide)
  · next h => exact (encodeRun_fresh_keeps (hBytes_pos s _ _) (fun _ => hBytes_length s _ _ ▸ not_not.1 h) _ _).mono (by decide)

/-- Each coder command ends its job with an end that keeps to its output and to its operation's STATUS values. -/
theorem exec_coder {c : Instr} {sts : List Nat}
    (h : (c = .coderEncodeByte n ∧ s.startable n 3 (fun o => decide (o = 0)) = some j ∧ sts = [0, 0x10, 0x11]) ∨
      (c = .coderEncodeRaster n ∧ s.startable n 3 (fun o => decide (o = 1)) = some j ∧ sts = [0, 0x10, 0x11, 0x19]) ∨
      (c = .coderDecode n ∧ s.startable n 3 (fun o => decide (o = 2)) = some j ∧ sts = [0, 0x10, 0x13, 0x14, 0x15, 0x16, 0x17, 0x18]) ∨
      (c = .coderResume n ∧ s.startable n 3 (fun o => decide (o = 3)) = some j ∧
        sts = [0, 0x10, 0x11, 0x12, 0x13, 0x14, 0x15, 0x16, 0x17, 0x18])) :
    j.cls = 3 ∧ ∃ e, exec c s = .next (s.coderFinish n j e) ∧ e.Keeps (hLen (jh j 1)) sts := by
  rcases h with ⟨rfl, hs, rfl⟩ | ⟨rfl, hs, rfl⟩ | ⟨rfl, hs, rfl⟩ | ⟨rfl, hs, rfl⟩
  · exact ⟨startable_cls hs, _, exec_coderEncodeByte hs, encodeByte_keeps s j⟩
  · exact ⟨startable_cls hs, _, exec_coderEncodeRaster hs, rasterEnd_keeps s j⟩
  · exact ⟨startable_cls hs, _, exec_coderDecode hs, decodeRun_keeps _ _ _⟩
  · exact ⟨startable_cls hs, _, exec_coderResume hs, resumeRun_keeps _ _ _⟩

end

end State

/-- Settles O17: each end keeps to its output and STATUS values (`exec_coder`, `coderFinish_spec`), and the ends of R152, R155 and R160
and of stored frames are those of `encodeRun_tiny`, `decodeRun_stored` and `resumeRun_bad`. -/
theorem coderJobsEncodeAndDecode : Obligations.CoderJobsEncodeAndDecode := by
  unfold Obligations.CoderJobsEncodeAndDecode
  refine ⟨?_, ?_, ?_, ?_, ?_⟩
  · intro s n j c sts h
    obtain ⟨hcls, e, hexec, hkeeps⟩ := exec_coder h
    obtain ⟨hends, hspec⟩ := coderFinish_spec hkeeps hcls n
    exact ⟨_, _, _, hexec, hends, hspec⟩
  · intro s n j hs hshape
    refine ⟨_, exec_coderEncodeRaster hs, ?_⟩
    rw [rasterEnd, if_pos hshape]
    exact ⟨coderFinish_fail_jobEnds s n j 0x19, coderFinish_fail_mem s n j 0x19⟩
  · rintro s n len j d hs rfl hlen h4 hst
    have hkeeps := encodeByte_keeps s j
    have hd := hBytes_length s j.ridge (jh j 0)
    obtain ⟨hstored, hexpands⟩ := encodeRun_tiny (hBytes_pos s j.ridge (jh j 0)) (by omega) (hLen (jh j 1))
    refine ⟨fun hfits => ⟨_, exec_coderEncodeByte hs, ?_⟩, fun hover => ⟨_, exec_coderEncodeByte hs, ?_⟩⟩
    · obtain ⟨hends, hmem⟩ := coderFinish_writes (s := s) hkeeps (hstored (by omega)) hst n
      rw [storedFrame_length] at hends
      rw [hlen, ← hd]
      exact ⟨hends, hmem⟩
    · obtain ⟨hstatus, hout⟩ := hexpands (by omega)
      have hends := coderFinish_jobEnds (s := s) hkeeps n
      rwa [hstatus, hout] at hends
  · rintro s n len j x rest hs hd rfl h0 hle hexpect hst
    have hkeeps := decodeRun_keeps (s.hBytes j.ridge (jh j 0)) (fieldAt j.desc 8 4) (hLen (jh j 1))
    obtain ⟨hdone, hstops⟩ := decodeRun_stored h0 hle (by simpa using hexpect) rest (hLen (jh j 1))
    rw [storedFrame, ← hd] at hdone hstops
    exact ⟨fun hfits => ⟨_, exec_coderDecode hs, coderFinish_writes hkeeps (hdone hfits) hst n⟩,
      fun hover => ⟨_, exec_coderDecode hs, coderFinish_writes hkeeps (hstops hover) hst n⟩⟩
  · intro s n j hs hbad
    refine ⟨_, exec_coderResume hs, ?_⟩
    rw [resumeRun_bad (by rwa [hBytes_length])]
    exact ⟨coderFinish_fail_jobEnds s n j 0x12, coderFinish_fail_mem s n j 0x12⟩

end Sys2Proof.Machine
end

section
/-! A ranged INVALIDATE over a victim cache whose table lists one entry twice (O31). The obligation asks for a sorted main array, and never
for a sorted victim cache. `maintLine` looks a line up twice: `victimOf` answers the number of the entry that holds the line, and
`maintEntry` takes the entry of that number. Where the number is listed twice these can be two entries, and the line that is dropped is
then the other one's, which the range need not hold. -/

open Sys2Proof Sys2Proof.Machine Sys2Proof.Machine.State

namespace Sys2Proof.Machine

/-- The range of maintenance is line 1. Entry 0 of the victim cache is listed for line 2, which is dirty over a line of ones in DRAM, and
again for line 1. -/
def doubledVictim : State :=
  { State.reset with
    regs := [(rMapc + 0x200, 0x100), (rMapc + 0x208, 1)],
    drcs := [(0, { Drc.fresh with present := true, trained := true, sizeGib := 16 })],
    mapc := { State.reset.mapc with
      victim := [(0, { line := 2, dirty := true, stamp := 0 }), (0, { line := 1, dirty := false, stamp := 0 })],
      dramOld := [(2, List.replicate 256 1)] } }

theorem doubledVictim_open : doubledVictim.gate 0x20 (rMapc + 0x210) 8 true = .open := by decide +kernel

theorem doubledVictim_range : 1 = bits (doubledVictim.reg (rMapc + 0x200)).toNat 8 40 ∧
    1 = bits (doubledVictim.reg (rMapc + 0x208)).toNat 0 24 := by decide +kernel

/-- After the INVALIDATE of line 1, the first byte of line 2 is the one that DRAM held. -/
theorem doubledVictim_invalidate : (match exec (.invalidate 0x20 8 3) doubledVictim with
    | .next t => Mem.read t.mem 512
    | _ => 0) = 1 := by decide +kernel

/-- Refutes O31: the INVALIDATE of line 1 writes DRAM's bytes over line 2, outside its range. -/
theorem not_mapCacheMaintains : ¬ Obligations.MapCacheMaintains := by
  unfold Obligations.MapCacheMaintains
  rintro ⟨hranged, -⟩
  obtain ⟨hfirst, hcount⟩ := doubledVictim_range
  have hdram : (1 + 1) * 256 ≤ doubledVictim.dramBytes := by decide +kernel
  obtain ⟨-, -, t, hexec, -, -, -, -, -, hframe⟩ :=
    hranged doubledVictim 0x20 1 1 doubledVictim_open rfl rfl rfl hfirst hcount (.inr hdram)
  have hlines : ∀ p ∈ doubledVictim.mapc.dramOld, p.2.length = 256 := by decide +kernel
  have hkept : Mem.read t.mem 512 = 0 := hframe rfl hlines 512 (.inr (by decide))
  have hwritten := doubledVictim_invalidate
  rw [show exec _ _ = _ from hexec] at hwritten
  exact absurd (hkept.symm.trans hwritten) (by decide)

end Sys2Proof.Machine
end

section
/-! How destage, collection and rewrites move chunks, how rows end and are issued, and how segments are closed and released (O35). -/

open Sys2Proof Sys2Proof.Machine Sys2Proof.Machine.State

namespace Sys2Proof.Machine

namespace State

/-! ### The change of a pool or of a segment -/

/-- Changes that agree on the pool as it stands are one change. -/
theorem updPool_congr {s : State} {p : Nat} {f h : Pool → Pool} (hf : f (s.pool p) = h (s.pool p)) : s.updPool p f = s.updPool p h := by
  unfold updPool Tbl.upd
  cases hx : Tbl.find s.pools p with
  | none => rfl
  | some x =>
    rw [pool_of_find hx] at hf
    simp only [hf]

theorem updSeg_of_find {x : Pool} {n : Nat} {g : Seg} (hg : Tbl.find x.segs n = some g) (f : Seg → Seg) :
    x.updSeg n f = x.updSeg n (fun _ => f g) := by
  rw [Pool.updSeg, Pool.updSeg, Tbl.upd_of_find hg, Tbl.upd_of_find hg]

theorem updPool_updSeg_of_find {s : State} {p n : Nat} {g : Seg} (hg : Tbl.find (s.pool p).segs n = some g) (f : Seg → Seg) :
    s.updPool p (fun x => x.updSeg n f) = s.updPool p (fun x => x.updSeg n (fun _ => f g)) :=
  updPool_congr (updSeg_of_find hg f)

/-! ### Sources that are emptied (R225, R238, R239, R250) -/

section
variable {s : State} {p n o : Nat} {marks : Marks}

theorem exec_destage_idle (ho : s.owns p = true) (hu : (s.destageClass p).destageUnit p = none) :
    exec (.destage p marks) s = .next (s.destageClass p) := by
  show execDestage p marks s = _
  simp only [execDestage, ho, hu, Bool.not_true, Bool.false_eq_true, if_false]

theorem exec_destage_moves {q : Nat × CRec} (ho : s.owns p = true) (hu : (s.destageClass p).destageUnit p = some n)
    (hq : (chunksOf ((s.destageClass p).pool p) true n).find? (fun q => !inMove ((s.destageClass p).pool p) q.1) = some q) :
    exec (.destage p marks) s = .next ((s.destageClass p).moveChunk p q.1 1 marks) := by
  show execDestage p marks s = _
  simp only [execDestage, ho, hu, hq, Bool.not_true, Bool.false_eq_true, if_false]

theorem exec_collection_idle (ho : s.owns p = true) (hc : ((s.collectSwitch p).gapPick p).collectSource p = none) :
    exec (.collection p marks) s = .next ((s.collectSwitch p).gapPick p) := by
  show execCollection p marks s = _
  simp only [execCollection, ho, hc, Bool.not_true, Bool.false_eq_true, if_false]

theorem exec_collection_empties (ho : s.owns p = true) (hc : ((s.collectSwitch p).gapPick p).collectSource p = some (n, o)) :
    exec (.collection p marks) s = .next (((s.collectSwitch p).gapPick p).emptySeg p n o marks) := by
  show execCollection p marks s = _
  simp only [execCollection, ho, hc, Bool.not_true, Bool.false_eq_true, if_false]

theorem exec_rewrite_idle (ho : s.owns p = true) (hc : s.collectSource p = none) : exec (.rewrite p marks) s = .next s := by
  show execRewrite p marks s = _
  simp only [execRewrite, ho, hc, Bool.not_true, Bool.false_eq_true, if_false]

theorem exec_rewrite_empties (ho : s.owns p = true) (hc : s.collectSource p = some (n, 9)) :
    exec (.rewrite p marks) s = .next (s.emptySeg p n 9 marks) := by
  show execRewrite p marks s = _
  simp only [execRewrite, ho, hc, Bool.not_true, Bool.false_eq_true, if_false]

theorem emptySeg_moves {q : Nat × CRec} (hq : (chunksOf (s.pool p) false n).find? (fun q => !inMove (s.pool p) q.1) = some q) :
    s.emptySeg p n o marks = s.moveChunk p q.1 o marks := by
  simp only [emptySeg, hq]

/-- A source that holds no live chunk is released once it is drained and its last MOVE is durable. -/
theorem emptySeg_empty (hc : chunksOf (s.pool p) false n = []) : s.emptySeg p n o marks =
    if drainedSrc (s.pool p) false n ∧ Tbl.getD (s.pool p).moved (srcKey false n) 0 ≤ (s.pool p).durable then s.release p false n o else s := by
  simp only [emptySeg, hc, List.find?_nil]

theorem exec_releaseErase_seg {g : Seg} (ho : s.owns p = true) (hg : Tbl.find (s.pool p).segs n = some g) (hst : g.state = 1 ∨ g.state = 2)
    (hr : g.retained = false) (hd : drainedSrc (s.pool p) false n = true)
    (hm : Tbl.getD (s.pool p).moved (srcKey false n) 0 ≤ (s.pool p).durable) :
    exec (.releaseErase p true n) s = .next (s.release p false n (segOrigin (s.pool p) n)) := by
  refine if_pos ⟨ho, ?_, hd, hm⟩
  simp only [hg, hr, hst, if_true, decide_true, Bool.not_false, Bool.and_self]

theorem exec_releaseErase_unit {u : LUnit} (ho : s.owns p = true) (hu : Tbl.find (s.pool p).units n = some u) (hs : u.sealed = true)
    (hp : s.unitPending p n = false) (hd : drainedSrc (s.pool p) true n = true)
    (hm : Tbl.getD (s.pool p).moved (srcKey true n) 0 ≤ (s.pool p).durable) :
    exec (.releaseErase p false n) s = .next (s.release p true n 1) := by
  refine if_pos ⟨ho, ?_, hd, hm⟩
  simp only [hu, hs, hp, Bool.false_eq_true, if_false, Bool.not_false, Bool.and_self]

theorem exec_releaseErase_idle {b : Bool} (h : s.owns p = false ∨ drainedSrc (s.pool p) (!b) n = false) :
    exec (.releaseErase p b n) s = .next s := by
  refine if_neg ?_
  rintro ⟨ho, -, hd, -⟩
  exact h.elim (fun h => Bool.false_ne_true (h.symm.trans ho)) (fun h => Bool.false_ne_true (h.symm.trans hd))

end

/-! ### Rows that are issued, and short closes (R211, R223, R224, R280) -/

section
variable {s : State} {p n : Nat} {g : Seg}

theorem issueRow_unready (hg : Tbl.find (s.pool p).segs n = some g) (h : g.state ≠ 0 ∨ g.flying ≠ 0 ∨ g.buffer.length < g.k * 65536) :
    s.issueRow p n = s := by
  simp only [issueRow, hg, if_pos h]

theorem issueRow_slabs_undurable (hg : Tbl.find (s.pool p).segs n = some g) {m : Member} (hm : m ∈ g.members)
    (hr : slabReady (s.pool p) m.slab = false) : s.issueRow p n = s := by
  have hall : (g.members.all fun m => slabReady (s.pool p) m.slab) = false := List.all_eq_false.2 ⟨m, hm, by rw [hr]; exact Bool.false_ne_true⟩
  simp only [issueRow, hg, hall, Bool.not_false, if_true, ite_self]

/-- A row that is full, in a segment whose slabs are durable, waits for its region's bit. -/
theorem issueRow_region (hg : Tbl.find (s.pool p).segs n = some g) (h0 : g.state = 0) (hf : g.flying = 0)
    (hb : g.k * 65536 ≤ g.buffer.length) (hr : ∀ m ∈ g.members, slabReady (s.pool p) m.slab = true)
    (hw : bit g.regions (g.rows / 64) = false ∨ g.regDue ≠ []) :
    s.issueRow p n = if bit g.regions (g.rows / 64) = false then s.setRegion p n g else s := by
  have hready : ¬ (g.state ≠ 0 ∨ g.flying ≠ 0 ∨ g.buffer.length < g.k * 65536) := by
    rintro (h | h | h)
    · exact h h0
    · exact h hf
    · omega
  have hall : (g.members.all fun m => slabReady (s.pool p) m.slab) = true := List.all_eq_true.2 hr
  cases hbit : bit g.regions (g.rows / 64) with
  | false => simp only [issueRow, hg, if_neg hready, hall, hbit, Bool.not_true, Bool.not_false, Bool.false_eq_true, if_false, if_true]
  | true =>
    have hdue : g.regDue.isEmpty = false := by simpa [hbit] using hw
    simp only [issueRow, hg, if_neg hready, hall, hbit, hdue, Bool.not_true, Bool.not_false, Bool.false_eq_true, if_false, if_true,
      Bool.true_eq_false]

theorem closeShort_eq (hg : Tbl.find (s.pool p).segs n = some g) : s.closeShort p n =
    if g.state ≠ 0 ∨ g.flying ≠ 0 then s
    else if g.closing.isSome then s.issueRow p n
    else if g.buffer.isEmpty then s.closeSeg p n
    else (s.updPool p (fun x => x.updSeg n (fun y => { y with
      closing := some (g.rows * (g.k * 65536) + g.buffer.length),
      buffer := padTo (ceilDiv g.buffer.length (g.k * 65536) * (g.k * 65536)) y.buffer }))).issueRow p n := by
  simp only [closeShort, hg]

/-- Segments are closed short in HANDOVER and in a pool that moves. -/
theorem exec_segmentCloseShort (h : s.pwr.mode = 7 ∨ (s.pool p).moveTo ≠ none) :
    exec (.segmentCloseShort p n) s = .next (s.closeShort p n) :=
  if_pos (h.imp_right Option.isSome_iff_ne_none.2)

theorem exec_segmentCloseShort_stays (h7 : s.pwr.mode ≠ 7) (hm : (s.pool p).moveTo = none) :
    exec (.segmentCloseShort p n) s = .next s := by
  refine if_neg ?_
  rintro (h | h)
  · exact h7 h
  · rw [hm] at h
    exact Bool.false_ne_true h

theorem exec_regionBitDurable (hg : Tbl.find (s.pool p).segs n = some g) : exec (.regionBitDurable p n) s =
    if g.regDone ≥ 2 ∧ !g.regDue.isEmpty ∧ (!s.hasShadow p ∨ g.regSeq ∉ (s.pool p).sentSeqs) then
      .next ((s.updPool p (fun x => x.updSeg n (fun y => { y with regDue := [] }))).issueRow p n)
    else .next s := by
  show execRegionBitDurable p n s = _
  simp only [execRegionBitDurable, hg]

end

/-! ### Rows that end (R223, R224) -/

/-- The chunk ends by the end of the row that is programmed. -/
def endsInRow (g : Seg) (m : Moving) : Bool := decide (m.ende ≤ (g.rows + 1) * (g.k * 65536))

/-- The chunks that end in the row and still stand where they stood. -/
def rowMoves (x : Pool) (g : Seg) : List Moving :=
  (g.moving.filter (endsInRow g)).filter (fun m => (x.rec' m.handle).valid && decide ((x.rec' m.handle).loc = m.old))

/-- A segment after its row has ended. -/
def rowEnded (g : Seg) : Seg := { g with
  rows := g.rows + 1, flying := 0, buffer := g.buffer.drop (g.k * 65536), moving := g.moving.filter (fun m => !endsInRow g m) }

/-- The END of a segment that the row seals, in units of 16 bytes: that of its data where it is closed short, else the row's. -/
def sealUnits (g : Seg) : Nat := ceilDiv (g.closing.getD ((g.rows + 1) * (g.k * 65536))) 16

/-- The row is the segment's last one. -/
def lastRow (g : Seg) : Bool := decide (g.rows + 1 = 1024) || (g.closing.isSome && decide (g.buffer.length ≤ g.k * 65536))

section
variable {s : State} {p n : Nat} {g : Seg}

theorem exec_stripeRowComplete_waits (hg : Tbl.find (s.pool p).segs n = some g)
    (h : g.flying = 0 ∨ g.due ≠ [] ∨ (s.pool p).ckpt.cutting = true) : exec (.stripeRowComplete p n) s = .next s := by
  have hwait : g.flying = 0 ∨ (!g.due.isEmpty) = true ∨ (s.pool p).ckpt.cutting = true := by simpa using h
  show execStripeRowComplete p n s = _
  simp only [execStripeRowComplete, hg, if_pos hwait]

section
variable (hg : Tbl.find (s.pool p).segs n = some g) (hf : g.flying ≠ 0) (hd : g.due = []) (hc : (s.pool p).ckpt.cutting = false)
  {l : List Moving} (hl : rowMoves (s.pool p) g = l) {y : Seg} (hy : rowEnded g = y)
  {t : State} (ht : (submitMoves p l.length l (s.updPool p (fun x => x.updSeg n (fun _ => y)))).shadowSegSend p n = t)
include hg hf hd hc hl hy ht

/-- A row ends: its MOVE entries are submitted, and the segment is sealed, or its next row is issued. -/
theorem exec_stripeRowComplete_ends : exec (.stripeRowComplete p n) s =
    .next (if lastRow g then t.submit p g.origin [eSeal p n 1 (sealUnits g) (g.rows + 1)] else t.issueRow p n) := by
  subst hl hy ht
  have hnow : ¬ (g.flying = 0 ∨ (!g.due.isEmpty) = true ∨ (s.pool p).ckpt.cutting = true) := by simp [hf, hd, hc]
  show execStripeRowComplete p n s = _
  simp only [execStripeRowComplete, hg, if_neg hnow, updPool_updSeg_of_find hg]
  rfl

theorem exec_stripeRowComplete_issues (h : lastRow g = false) : exec (.stripeRowComplete p n) s = .next (t.issueRow p n) := by
  rw [exec_stripeRowComplete_ends hg hf hd hc hl hy ht, h]
  rfl

theorem exec_stripeRowComplete_seals (h : lastRow g = true) {e r : Nat} (he : sealUnits g = e) (hr : g.rows + 1 = r) :
    exec (.stripeRowComplete p n) s = .next (t.submit p g.origin [eSeal p n 1 e r]) := by
  rw [exec_stripeRowComplete_ends hg hf hd hc hl hy ht, h, he, hr]
  rfl

end

theorem rowMoves_nil {x : Pool} (h : g.moving = []) : rowMoves x g = [] := by
  simp [rowMoves, h]

theorem rowEnded_nil (h : g.moving = []) :
    rowEnded g = { g with rows := g.rows + 1, flying := 0, buffer := g.buffer.drop (g.k * 65536) } := by
  simp [rowEnded, h]

section
variable {m : Moving} (h : g.moving = [m]) (he : m.ende ≤ (g.rows + 1) * (g.k * 65536))
include h he

theorem rowMoves_one {x : Pool} (hv : (x.rec' m.handle).valid = true) (hl : (x.rec' m.handle).loc = m.old) : rowMoves x g = [m] := by
  simp [rowMoves, endsInRow, h, he, hv, hl]

theorem rowEnded_one : rowEnded g =
    { g with rows := g.rows + 1, flying := 0, buffer := g.buffer.drop (g.k * 65536), moving := [] } := by
  simp [rowEnded, endsInRow, h, he]

end

/-- One chunk's MOVE is a group of its own ORIGIN, whose SEQ its source remembers. -/
theorem submitMoves_one {m : Moving} {a u : State} {gr : Group}
    (ha : a.acceptGroup p m.origin [eMove p m.handle m.new m.old] none 0 = (u, gr)) : submitMoves p 1 [m] a =
      u.updPool p (fun z => { z with moved := Tbl.set z.moved (srcKey (bit m.old 59) (bits m.old 0 32)) gr.seq }) := by
  simp [submitMoves, ha]

theorem lastRow_of_open (hr : g.rows ≠ 1023) (hc : g.closing = none) : lastRow g = false := by
  simp [lastRow, hr, hc]

theorem lastRow_of_full (hr : g.rows = 1023) : lastRow g = true := by
  simp [lastRow, hr]

theorem lastRow_of_closing {e : Nat} (hc : g.closing = some e) (hb : g.buffer.length ≤ g.k * 65536) : lastRow g = true := by
  simp [lastRow, hc, hb]

/-- A full segment holds 1,024 rows of k strips. -/
theorem sealUnits_of_full (hr : g.rows = 1023) (hc : g.closing = none) : sealUnits g = 1024 * g.k * 4096 := by
  rw [sealUnits, hr, hc, Option.getD_none, ceilDiv]
  omega

theorem sealUnits_of_closing {e : Nat} (hc : g.closing = some e) : sealUnits g = ceilDiv e 16 := by
  rw [sealUnits, hc, Option.getD_some]

end

/-! ### The marker of a frame (R222) -/

/-- The fields of a marker that its CRC covers. -/
def markerFields (p h flen : Nat) : List (Nat × Nat) := [(2, 0xC15B), (1, p), (1, 0), (6, h), (3, flen), (1, 0)]

section
variable (p h flen : Nat)

theorem marker_eq : marker p h flen =
    fieldBytes (markerFields p h flen) ++ leBytes 2 (crc32c (fieldBytes (markerFields p h flen))) := by
  have hhead : leBytes 2 0xC15B ++ leBytes 1 p ++ [0] ++ leBytes 6 h ++ leBytes 3 flen ++ [0] = fieldBytes (markerFields p h flen) := by
    simp only [fieldBytes, markerFields, List.flatMap_cons, List.flatMap_nil, List.append_assoc, List.append_nil]
    rfl
  rw [← hhead, marker]

theorem markerFields_bytes : (fieldBytes (markerFields p h flen)).length = 14 := fieldBytes_length _

theorem marker_length : (marker p h flen).length = 16 := by
  rw [marker_eq, List.length_append, markerFields_bytes, leBytes_length]

/-- Each field stands in the marker at its place. -/
theorem marker_field {i : Nat} (hi : i < 6) :
    fieldAt (marker p h flen) (fieldOffset (markerFields p h flen) i) ((markerFields p h flen)[i]'hi).1 =
      ((markerFields p h flen)[i]'hi).2 % 256 ^ ((markerFields p h flen)[i]'hi).1 := by
  rw [marker_eq]
  exact fieldAt_fieldBytes _ _ hi

/-- The marker ends with the CRC of the bytes before it. -/
theorem marker_crc : fieldAt (marker p h flen) 14 2 = crc32c ((marker p h flen).take 14) % 2 ^ 16 := by
  rw [marker_eq, List.take_left' (markerFields_bytes p h flen)]
  have hcrc := fieldAt_append (fieldBytes (markerFields p h flen)) [] 2 (crc32c (fieldBytes (markerFields p h flen)))
  rwa [markerFields_bytes, List.append_nil] at hcrc

end

end State

/-- Settles O35: sources are emptied by `emptySeg_moves` and `emptySeg_empty`, a row ends by `exec_stripeRowComplete_ends` and is issued by
`issueRow_region`, a short close is `closeShort_eq`. -/
theorem moversFillAndFreeSegments : Obligations.MoversFillAndFreeSegments := by
  unfold Obligations.MoversFillAndFreeSegments
  refine ⟨fun s p n marks b ho => ?_, ?_, ?_, fun s p n marks ho => ⟨exec_rewrite_empties ho, exec_rewrite_idle ho⟩,
    fun s p n o h r marks => ?_, ?_, fun s p n g hg => ?_, fun s p n g hg => ?_, ?_, fun s p n g hg => ?_, fun p h flen => ?_⟩
  · have hno : (!s.owns p) = true := by rw [ho]; rfl
    exact ⟨if_pos hno, if_pos hno, if_pos hno, exec_releaseErase_idle (.inl ho)⟩
  · rintro s _ p n h r marks ho rfl
    exact ⟨exec_destage_idle ho, exec_destage_moves ho⟩
  · rintro s _ p n o marks ho rfl
    exact ⟨exec_collection_idle ho, exec_collection_empties ho⟩
  · refine ⟨emptySeg_moves, fun hc hd hm => (emptySeg_empty hc).trans (if_pos ⟨hd, hm⟩), fun hc hm => (emptySeg_empty hc).trans (if_neg ?_)⟩
    exact fun h => Nat.not_le.2 hm h.2
  · intro s p n x g hx hsegs
    have hpool := pool_of_find hx
    have hg : Tbl.find (s.pool p).segs n = some g := hpool ▸ hsegs
    have hcut : (s.pool p).ckpt.cutting = x.ckpt.cutting := by rw [hpool]
    refine ⟨fun h => exec_stripeRowComplete_waits hg (hcut ▸ h), ?_, ?_⟩
    · rintro y a hf hd hc hm hy ha
      have hl := rowMoves_nil (x := s.pool p) hm
      have hy := (rowEnded_nil hm).trans hy.symm
      have hc := hcut.trans hc
      exact ⟨fun hr ho => exec_stripeRowComplete_issues hg hf hd hc hl hy ha.symm (lastRow_of_open hr ho),
        fun hr ho => exec_stripeRowComplete_seals hg hf hd hc hl hy ha.symm (lastRow_of_full hr) (sealUnits_of_full hr ho) (by rw [hr]),
        fun e ho hb => exec_stripeRowComplete_seals hg hf hd hc hl hy ha.symm (lastRow_of_closing ho hb) (sealUnits_of_closing ho) rfl⟩
    · rintro m a u gr y hf hd hc hr ho hm he hv hloc hy ha hgroup
      have hl := rowMoves_one hm he (x := s.pool p) (by rwa [hpool]) (by rwa [hpool])
      have hy := (rowEnded_one hm he).trans hy.symm
      exact exec_stripeRowComplete_issues hg hf hd (hcut.trans hc) hl hy
        (congrArg (shadowSegSend · p n) (submitMoves_one (ha ▸ hgroup))) (lastRow_of_open hr ho)
  · refine ⟨issueRow_unready hg, fun m hm hr => issueRow_slabs_undurable hg hm hr, fun h0 hf hb hr => ⟨fun hbit => ?_, fun hbit hdue => ?_⟩⟩
    · exact (issueRow_region hg h0 hf hb hr (.inl hbit)).trans (if_pos hbit)
    · exact (issueRow_region hg h0 hf hb hr (.inr hdue)).trans (if_neg (by rw [hbit]; decide))
  · refine ⟨exec_segmentCloseShort_stays, fun h => ?_⟩
    have hexec := exec_segmentCloseShort (n := n) h
    rw [closeShort_eq hg] at hexec
    refine ⟨fun hbusy => ?_, fun h0 hf hc => ?_, fun h0 hf hc hb => ?_, fun h0 hf hc hb => ?_⟩
    · rwa [if_pos hbusy] at hexec
    · rwa [if_neg (by simp [h0, hf]), if_pos (Option.isSome_iff_ne_none.2 hc)] at hexec
    · rwa [if_neg (by simp [h0, hf]), if_neg (by simp [hc]), if_pos (by simp [hb])] at hexec
    · rwa [if_neg (by simp [h0, hf]), if_neg (by simp [hc]), if_neg (by simpa using hb)] at hexec
  · rintro s p n x rfl ho
    exact ⟨fun g hg hst hr => exec_releaseErase_seg ho hg hst hr, fun u hu hs hp => exec_releaseErase_unit ho hu hs hp,
      fun b hd => exec_releaseErase_idle (.inr hd)⟩
  · refine ⟨fun h2 hd hs => (exec_regionBitDurable hg).trans (if_pos ⟨h2, by simpa using hd, hs.imp_left (fun h => by rw [h]; rfl)⟩),
      fun h => (exec_regionBitDurable hg).trans (if_neg ?_)⟩
    rintro ⟨h2, hd, -⟩
    exact h.elim (fun h => by omega) (fun h => by simp [h] at hd)
  · exact ⟨marker_length p h flen, marker_field p h flen (i := 0) (by decide), marker_field p h flen (i := 3) (by decide),
      marker_field p h flen (i := 4) (by decide), marker_crc p h flen⟩

end Sys2Proof.Machine
end

section
/-! A module that fails while a chunk of its pool stands on the dying list (O37). The obligation asks that `failModule` leave memory as it
is. The MEMBER entries of R285 are a record group, and accepting a group settles the pool's dying list (R141): the REMOVE of each chunk on it
puts a tombstone into the insert log, which lies in DRAM (R127, R135). A pool can have chunks there: `endPlan` counts the chunks of a write
that is given up down, and leaves their REMOVEs to the next group. -/

open Sys2Proof Sys2Proof.Machine Sys2Proof.Machine.State

namespace Sys2Proof.Machine

/-- The fingerprint of the dying chunk. -/
def dyingDigest : Bytes := List.replicate 32 0xAA

/-- Ten modules in ten domains, segment 5 on eight of them, and the DYING chunk 9 of 4,096 bytes at its start, still to be removed. -/
def dyingPool : Pool :=
  { Pool.fresh with
    rel := .owner, mods := (List.range 10).map (4 * ·),
    segs := [(5, { Seg.fresh with
      k := 6, state := 1, rows := 1024, members := (List.range 8).map (fun i => { slab := saOf (4 * i) 7, state := 0, rows := 1024 }) })],
    recs := [(9, { loc := mkLoc 5 0 false, ref := mkRef 4128 4096 0 false + 2 ^ 61 })], digests := [(9, dyingDigest)], dying := [9] }

/-- The pool's index: POOL_TABLE at 0x1000, its descriptor enabled with a summary of two empty buckets at 0x4000 and an insert log of 16
entries at 0x2000, of which the chunk's entry is the first. -/
def dyingState : State :=
  { State.reset with
    pools := [(0, dyingPool)], regs := [(ridgeBlk 0 9, 0x1000)],
    idxStore := [(0, [{ digest := dyingDigest, len := 4096, handle := 9, tomb := false }])],
    mem := Mem.writeBytes [] 0x1000 ([1] ++ zeros 7 ++ leBytes 8 0x4000 ++ leBytes 8 1 ++ leBytes 8 0x2000 ++ leBytes 8 16) }

theorem dyingState_index : dyingState.libRidge = 0 ∧ dyingState.summary 0 = some (0x4000, 1) ∧ dyingState.idxLogAt 0 0 = (0x2000, 16) ∧
    (dyingState.idxFind 0 dyingDigest 4096).map IdxEntry.handle = some 9 := by decide +kernel

/-- The log's second entry, at 0x2030, is free before the failure. -/
theorem dyingState_secondEntry : Mem.readBytes dyingState.mem 0x2030 48 = zeros 48 := by decide +kernel

/-- With the failure the tombstone of chunk 9 stands there. -/
theorem dyingState_failModule : Mem.readBytes (dyingState.failModule 0 0).mem 0x2030 48 =
    entryBytes { digest := dyingDigest, len := 4096, handle := 9, tomb := true } := by decide +kernel

/-- Refutes O37: the failure of module 0 writes the tombstone of the dying chunk into DRAM. -/
theorem not_rebuildAndReshapeProceed : ¬ Obligations.RebuildAndReshapeProceed := by
  unfold Obligations.RebuildAndReshapeProceed
  rintro ⟨-, -, -, -, -, -, -, hfails, -⟩
  have hlisted : Tbl.find dyingState.pools 0 = some dyingPool := rfl
  have hmod : 0 ∈ dyingPool.mods ∧ 0 ∉ dyingPool.failed := by decide
  obtain ⟨-, -, hmem⟩ := hfails dyingState 0 0 dyingPool hlisted hmod.1 hmod.2
  have hwritten := dyingState_failModule
  rw [hmem, dyingState_secondEntry] at hwritten
  exact absurd hwritten (by decide +kernel)

end Sys2Proof.Machine
end

section
/-! What posting and sending leave alone, what a change of mode leaves alone, and what a yield is (SUPPORT for O26, O40, O42). -/

open Sys2Proof Sys2Proof.Machine Sys2Proof.Machine.State

namespace Sys2Proof.Machine.State

/-- The rope but for its sending side: the counter, the frames kept and the frames put off (R316). -/
def heardSide (r : Rope) : Rope := { r with txCount := 0, unacked := [], ackAt := 0, putOff := [] }

/-- Beside the host side, the rope's sending side and what leaves the head, nothing differs. -/
def onlyPosts (s t : State) : Prop := ∃ r h o, t = { s with rope := r, host := h, out := o } ∧ heardSide r = heardSide s.rope

/-- Beside the mode and the management cores, which HALT stops, nothing differs. -/
def onlyMode (s t : State) : Prop := ∃ p m, t = { s with pwr := p, mcores := m } ∧ p.headSel = s.pwr.headSel

section

variable {s t u : State}

theorem onlyPosts.refl (s : State) : onlyPosts s s := ⟨_, _, _, rfl, rfl⟩

theorem onlyPosts.trans (h : onlyPosts s t) (g : onlyPosts t u) : onlyPosts s u := by
  obtain ⟨r, _, _, rfl, hr⟩ := h
  obtain ⟨r', h', o', rfl, hr'⟩ := g
  exact ⟨r', h', o', rfl, hr'.trans hr⟩

theorem onlyPosts.ite {c : Prop} [Decidable c] (ht : onlyPosts s t) (hu : onlyPosts s u) : onlyPosts s (if c then t else u) := by
  split
  · exact ht
  · exact hu

theorem onlyPosts.foldl {α : Type} {f : State → α → State} (hf : ∀ s a, onlyPosts s (f s a)) (l : List α) (s : State) :
    onlyPosts s (l.foldl f s) :=
  List.foldlRecOn (motive := fun t : State => onlyPosts s t) l f (.refl s) fun _ h a _ => h.trans (hf _ a)

theorem onlyPosts.crn (h : onlyPosts s t) : t.crn = s.crn := by obtain ⟨_, _, _, rfl, -⟩ := h; rfl
theorem onlyPosts.wdn (h : onlyPosts s t) : t.wdn = s.wdn := by obtain ⟨_, _, _, rfl, -⟩ := h; rfl
theorem onlyPosts.pwr (h : onlyPosts s t) : t.pwr = s.pwr := by obtain ⟨_, _, _, rfl, -⟩ := h; rfl
theorem onlyPosts.rope (h : onlyPosts s t) : heardSide t.rope = heardSide s.rope := by obtain ⟨_, _, _, rfl, hr⟩ := h; exact hr

theorem onlyMode.refl (s : State) : onlyMode s s := ⟨_, _, rfl, rfl⟩

theorem onlyMode.ite {c : Prop} [Decidable c] (ht : onlyMode s t) (hu : onlyMode s u) : onlyMode s (if c then t else u) := by
  split
  · exact ht
  · exact hu

theorem onlyMode.crn (h : onlyMode s t) : t.crn = s.crn := by obtain ⟨_, _, rfl, -⟩ := h; rfl
theorem onlyMode.rope (h : onlyMode s t) : t.rope = s.rope := by obtain ⟨_, _, rfl, -⟩ := h; rfl
theorem onlyMode.host (h : onlyMode s t) : t.host = s.host := by obtain ⟨_, _, rfl, -⟩ := h; rfl
theorem onlyMode.wdn (h : onlyMode s t) : t.wdn = s.wdn := by obtain ⟨_, _, rfl, -⟩ := h; rfl
theorem onlyMode.out (h : onlyMode s t) : t.out = s.out := by obtain ⟨_, _, rfl, -⟩ := h; rfl
theorem onlyMode.headId (h : onlyMode s t) : t.headId = s.headId := by obtain ⟨_, _, rfl, hs⟩ := h; exact congrArg b2n hs

end

variable (s : State)

/-! ### Posting (R309, R336, R383) -/

theorem sendRope_onlyPosts (typ : Nat) (prio : Bool) (d : Bytes) : onlyPosts s (s.sendRope typ prio d) := by
  refine ⟨_, s.host, _, sendRope_frame s typ prio d, ?_⟩
  unfold sendRope
  split
  · rfl
  · dsimp only
    split <;> rfl

theorem setHost_onlyPosts (h : HostSide) : onlyPosts s { s with host := h } := ⟨_, _, _, rfl, rfl⟩
theorem emit_onlyPosts (o : Out) : onlyPosts s (s.emit o) := ⟨_, _, _, rfl, rfl⟩

theorem anaNotify_onlyPosts : onlyPosts s s.anaNotify :=
  .foldl (fun t _ => .ite (emit_onlyPosts t _) (.refl t)) _ s

theorem anaChange_onlyPosts : onlyPosts s s.anaChange :=
  .ite (setHost_onlyPosts s _) ((setHost_onlyPosts s _).trans (anaNotify_onlyPosts _))

theorem shadowRemove_onlyPosts (n : Nat) (c : HCmd) : onlyPosts s (s.shadowRemove n c) := by
  unfold shadowRemove
  split
  · exact .ite (sendRope_onlyPosts s _ _ _) (.refl s)
  · exact .refl s

theorem postNow_onlyPosts (n : Nat) (c : HCmd) (st : NvmeStatus) (dw0 dw1 : Nat) (d : Bytes) : onlyPosts s (s.postNow n c st dw0 dw1 d) := by
  have h1 : onlyPosts s (((s.shadowRemove n c).delCmd n).unlock n) :=
    (shadowRemove_onlyPosts s n c).trans ((setHost_onlyPosts _ _).trans (setHost_onlyPosts _ _))
  unfold postNow
  dsimp only
  split
  · exact .ite h1 (h1.trans (sendRope_onlyPosts _ _ _ _))
  · refine .ite h1 ?_
    split
    · exact h1
    · exact h1.trans ((onlyPosts.ite (.refl _) (emit_onlyPosts _ _)).trans (emit_onlyPosts _ _))

theorem releaseHeld_onlyPosts : onlyPosts s s.releaseHeld := by
  have h1 : onlyPosts s s.releaseAna := .ite ((setHost_onlyPosts s _).trans (anaNotify_onlyPosts _)) (.refl s)
  unfold releaseHeld
  refine (h1.trans (setHost_onlyPosts _ _)).trans (.foldl (fun t p => ?_) _ _)
  split
  · exact .ite (.refl t) (postNow_onlyPosts t _ _ _ _ _ _)
  · exact .refl t

/-! ### Modes (R535, R536) -/

theorem setMode_same {m : Nat} (h : s.pwr.mode = m) : s.setMode m = s := if_pos h.symm

/-- A change of mode that is no HALT. -/
theorem setMode_change {m : Nat} (h : s.pwr.mode ≠ m) (h11 : m ≠ 11) : s.setMode m = { s with pwr := { s.pwr with
    mode := m, prev := s.pwr.mode, modeTime := s.time,
    yieldN := s.pwr.yieldN || (decide (s.pwr.mode = 3 ∧ m ≠ 2 ∧ m ≠ 8) && !s.pair.yielded) } } := by
  unfold setMode
  rw [if_neg h.symm, if_neg h11]
  simp only [ne_eq, h11, not_false_eq_true, and_true]

theorem setMode_onlyMode (m : Nat) : onlyMode s (s.setMode m) := .ite (.refl s) (.ite ⟨_, _, rfl, rfl⟩ ⟨_, _, rfl, rfl⟩)

theorem settleMode_onlyMode : onlyMode s s.settleMode :=
  .ite (.ite (setMode_onlyMode s 5) (.ite (setMode_onlyMode s 4) (setMode_onlyMode s 6))) (.refl s)

/-! ### The yield (R329) -/

theorem sendCairn_frame (typ : Nat) (d : Bytes) : ∃ c o, s.sendCairn typ d = { s with crn := c, out := o } := by
  unfold sendCairn
  split
  · exact ⟨_, _, rfl⟩
  · split
    · exact ⟨_, _, rfl⟩
    · exact ⟨_, _, rfl⟩

theorem yieldHead_yielded (h : s.pair.yielded = true) (c : Nat) : s.yieldHead c = s := if_pos h

/-- The state in which a yield has begun: every output held, PEER_YIELD_N low. -/
def yielding (s : State) (c : Nat) : State :=
  { s with pair := { s.pair with yielded := true, yieldCause := c, holdAll := true }, pwr := { s.pwr with yieldN := false } }

/-- The state once a yield has gone out on both links and its record is written (R329, R343). -/
def yieldSent (s : State) (c : Nat) : State :=
  let t := (s.yielding c).freezeSqhd
  let u := t.sendCairn 3 (leBytes 2 s.yieldPools ++ leBytes 1 c ++ zeros 5 ++ leBytes 8 t.time.toNat)
  let v := u.sendRope 0x0A true (leBytes 1 c ++ zeros 7 ++ leBytes 8 u.time.toNat)
  v.book 0x82 0x013 (v.pairPayload s.yieldPools c)

theorem yieldSent_frame (c : Nat) : ∃ cr rp o b,
    s.yieldSent c = { s.yielding c with host := s.freezeSqhd.host, crn := cr, rope := rp, out := o, sbk := b } := by
  unfold yieldSent
  dsimp only
  obtain ⟨cr, o, hc⟩ := sendCairn_frame (s.yielding c).freezeSqhd 3
    (leBytes 2 s.yieldPools ++ leBytes 1 c ++ zeros 5 ++ leBytes 8 (s.yielding c).freezeSqhd.time.toNat)
  rw [hc, sendRope_frame]
  exact ⟨_, _, _, _, rfl⟩

theorem yieldHead_eq (h : s.pair.yielded = false) (c : Nat) :
    s.yieldHead c = if s.pwr.mode ∈ [4, 5, 6, 7, 9, 10] then (s.yieldSent c).setMode 8 else s.yieldSent c := by
  have hsent : s.yieldHead c = if (s.yieldSent c).pwr.mode ∈ [4, 5, 6, 7, 9, 10] then (s.yieldSent c).setMode 8 else s.yieldSent c :=
    if_neg (by simp [h])
  obtain ⟨_, _, _, _, hf⟩ := yieldSent_frame s c
  have hmode : (s.yieldSent c).pwr.mode = s.pwr.mode := by rw [hf]; rfl
  rw [hsent, hmode]

/-- In a mode of service or maintenance the head enters QUARANTINE, in any other it keeps its mode. -/
theorem yieldHead_mode (h : s.pair.yielded = false) (c : Nat) : (s.pwr.mode ∈ [4, 5, 6, 7, 9, 10] →
      (s.yieldHead c).pwr.mode = 8 ∧ (s.yieldHead c).pwr.prev = s.pwr.mode) ∧
    (s.pwr.mode ∉ [4, 5, 6, 7, 9, 10] → (s.yieldHead c).pwr.mode = s.pwr.mode) := by
  obtain ⟨_, _, _, _, hf⟩ := yieldSent_frame s c
  have hmode : (s.yieldSent c).pwr.mode = s.pwr.mode := by rw [hf]; rfl
  rw [yieldHead_eq s h]
  refine ⟨fun hm => ?_, fun hm => by rw [if_neg hm, hmode]⟩
  have h8 : (s.yieldSent c).pwr.mode ≠ 8 := by
    rw [hmode]
    rintro e
    rw [e] at hm
    exact absurd hm (by decide)
  rw [if_pos hm, setMode_change _ h8 (by decide), hmode]
  exact ⟨rfl, rfl⟩

/-- What a yield holds, and what it leaves alone. -/
theorem yieldHead_holds (h : s.pair.yielded = false) (c : Nat) :
    (s.yieldHead c).pair = { s.pair with yielded := true, yieldCause := c, holdAll := true } ∧ (s.yieldHead c).pwr.yieldN = false ∧
    (s.yieldHead c).mem = s.mem ∧ (s.yieldHead c).pools = s.pools ∧ (s.yieldHead c).host = s.freezeSqhd.host := by
  obtain ⟨_, _, _, _, hf⟩ := yieldSent_frame s c
  rw [yieldHead_eq s h]
  split
  · by_cases hm : (s.yieldSent c).pwr.mode = 8
    · rw [setMode_same _ hm, hf]
      exact ⟨rfl, rfl, rfl, rfl, rfl⟩
    · rw [setMode_change _ hm (by decide), hf]
      simp [yielding]
  · rw [hf]
    exact ⟨rfl, rfl, rfl, rfl, rfl⟩

/-- While outputs are held every queue reports the SQHD of the hold's beginning (R336). -/
theorem freezeSqhd_held : ∀ q ∈ s.freezeSqhd.host.queues, q.2.heldSqhd.isSome = true := by
  intro q hq
  obtain ⟨p, -, rfl⟩ := List.mem_map.1 hq
  rfl

end Sys2Proof.Machine.State
end

section
/-! SUPPORT for O26. What a library call's end, the map cache's work and the wipes leave of power and modes; the supply and thermal pins. -/

open Sys2Proof Sys2Proof.Machine Sys2Proof.Machine.State

namespace Sys2Proof.Machine.State

variable (s : State)

/-! ### Power stays as it is at the end of a library call (R37, R38, R62) -/

theorem onlyCache.pwr {s t : State} (h : onlyCache s t) : t.pwr = s.pwr := by
  obtain ⟨_, _, _, _, rfl⟩ := h
  rfl

@[simp] theorem raise_pwr (off m : Nat) : (s.raise off m).pwr = s.pwr := by
  obtain ⟨_, _, _, h⟩ := raise_frame s off m
  rw [h]

@[simp] theorem post_pwr (p : Posted) : (s.post p).pwr = s.pwr := by
  unfold post
  split <;> rfl

theorem cplWrite_pwr (c : Cpl) : (s.cplWrite c).pwr = s.pwr := by
  unfold cplWrite
  dsimp only
  split
  · obtain ⟨_, _, h⟩ := sendVec_frame (({ s with pep := { s.pep with
      cqTail := (s.pep.cqTail + 1) % s.cqEntries, phase := if (s.pep.cqTail + 1) % s.cqEntries = 0 then !s.pep.phase else s.pep.phase,
      completed := s.pep.completed + 1 } } : State).post
        { addr := (s.reg rCqBase).toNat + 16 * s.pep.cqTail, data := c.entry.take 7 ++ leBytes 1 (b2n s.pep.phase) ++ c.entry.drop 8,
          call := none, cpl := some c.call, since := s.time }) 0 1
    rw [h]
    exact post_pwr _ _
  · exact post_pwr _ _

@[simp] theorem cplPush_pwr (c : Cpl) : (s.cplPush c).pwr = s.pwr := by
  unfold cplPush
  split
  · exact raise_pwr _ _ _
  · exact cplWrite_pwr s c

@[simp] theorem endCall_pwr (n status ridge detail result : Nat) : (s.endCall n status ridge detail result).pwr = s.pwr := by
  unfold endCall
  split
  · rfl
  · dsimp only
    split
    · rfl
    · split
      · rfl
      · exact cplPush_pwr _ _

@[simp] theorem callExit_pwr (n code : Nat) (g : W64) : (s.callExit n code g).pwr = s.pwr := by
  unfold callExit
  split
  · rfl
  · refine (endCall_pwr _ _ _ _ _ _).trans ?_
    split
    · rfl
    · split
      · exact (dmaTouch_onlyCache s _ _ _).pwr
      · exact post_pwr s _

@[simp] theorem freeClimb_pwr (cid : Nat) : (s.freeClimb cid).pwr = s.pwr := by
  have hbufs : ((s.ownedBufs cid).foldl (fun t k => t.freeBuf (cid / 1024) k) s).pwr = s.pwr :=
    List.foldlRecOn (motive := fun t : State => t.pwr = s.pwr) _ _ rfl fun t ht k _ => by
      unfold freeBuf
      split <;> exact ht
  unfold freeClimb
  dsimp only
  split
  · rw [doneToken_eq]
    exact hbufs
  · exact hbufs

@[simp] theorem retire_pwr (cid : Nat) (why : EndWhy) : (s.retire cid why).pwr = s.pwr := by
  have hdrop : (((s.offCore cid).updClimb cid (fun c => { c with core := none, ended := why, await := .none })).dropCtx cid).pwr = s.pwr := by
    rw [dropCtx_frame, offCore_frame]
    rfl
  unfold retire
  dsimp only
  split
  · exact (freeClimb_pwr _ cid).trans hdrop
  · exact hdrop

@[simp] theorem libTurn_pwr (cid : Nat) : (s.libTurn cid).pwr = s.pwr := by
  unfold libTurn
  dsimp only
  split
  · rfl
  · have hwoken : (if (s.climb cid).state = .ready then s else s.wakeUp cid).pwr = s.pwr := by split <;> rfl
    generalize (if (s.climb cid).state = .ready then s else s.wakeUp cid) = u at hwoken ⊢
    split <;> exact hwoken

theorem libExit_pwr (n code result : Nat) : (s.libExit n code result).pwr = s.pwr := by
  unfold libExit
  split
  · rfl
  · dsimp only
    split
    · rw [libEnd, retire_pwr, libTurn_pwr, callExit_pwr]
    · exact callExit_pwr s _ _ _

theorem libDone_pwr (n : Nat) : (s.libDone n).pwr = s.pwr := libExit_pwr _ _ _ _

/-! ### The map cache and the domains (R193 to R198, R527) -/

@[simp] theorem dropDirty_pwr (line : Nat) : (s.dropDirty line).pwr = s.pwr := by
  unfold dropDirty
  split <;> rfl

theorem mapcReset_pwr : s.mapcReset.pwr = s.pwr :=
  List.foldlRecOn (motive := fun t : State => t.pwr = s.pwr) _ _ rfl fun t ht _ _ => (dropDirty_pwr t _).trans ht

theorem maintEntry_pwr (op : Nat) (vic : Bool) (k : Nat) : (s.maintEntry op vic k).pwr = s.pwr := by
  unfold maintEntry
  dsimp only
  split
  · rfl
  · next c _ =>
    have hline : (if op = 1 then (if c.dirty = true then s.dropDirty c.line else s)
        else if c.dirty = true then s.writeback c.line else s).pwr = s.pwr := by
      split
      · split
        · exact dropDirty_pwr s _
        · rfl
      · split
        · exact (writeback_onlyCache s _).pwr
        · rfl
    split <;> exact hline

theorem maintAll_pwr (op : Nat) : (s.maintAll op).pwr = s.pwr := by
  have hloop (vic : Bool) (l : Tbl CLine) (u : State) : (l.foldl (fun t p => t.maintEntry op vic p.1) u).pwr = u.pwr :=
    List.foldlRecOn (motive := fun t : State => t.pwr = u.pwr) _ _ rfl fun t ht p _ => (maintEntry_pwr t op vic p.1).trans ht
  exact (hloop true _ _).trans (hloop false _ s)

theorem allSelfRef_pwr (on : Bool) : (s.allSelfRef on).pwr = s.pwr :=
  List.foldlRecOn (motive := fun t : State => t.pwr = s.pwr) _ _ rfl fun _ ht _ _ => ht

/-- A domain that comes up is on, the last one, and its memories are to be wiped (R527). -/
theorem domainOn_pwr (d : Nat) : (s.domainOn d).pwr = { s.pwr with
    domains := s.pwr.domains ||| 2 ^ d, seqLast := d, wiping := if d ∈ memDomains then s.pwr.wiping ++ [d] else s.pwr.wiping } := by
  unfold domainOn
  dsimp only
  split
  · exact mapcReset_pwr _
  · rfl

theorem nextDomain_spec {s : State} {d : Nat} (h : s.nextDomain = some d) :
    bit s.pwr.domains d = false ∧ s.domainPresent d = true ∧ d ∈ domainOrder := by
  have hd := List.find?_some h
  simp only [Bool.and_eq_true, Bool.not_eq_true'] at hd
  exact ⟨hd.2, hd.1, List.mem_of_find?_eq_some h⟩

/-! ### Resets (R540, R541) -/

theorem resetHead_reg (kind source r : Nat) : (s.resetHead kind source).reg r = if r = 0x20050 then s.reg 0x20050 else State.reset.reg r :=
  reg_setReg (s := { State.reset with
    pending := s.pending, time := s.time, subTick := s.subTick, stamp := s.stamp, freeCtr := s.freeCtr, out := s.out,
    sbk := keepBook s.sbk, fuses := s.fuses, pwr := resetPwr s.pwr s.time kind source,
    wdn := { Wdn.fresh with keyArea := s.wdn.keyArea, areaBlank := s.wdn.areaBlank },
    modules := s.modules.map (fun (m : Nat × Modu) => (m.1, keepModu m.2)), ckpts := s.ckpts,
    upd := { s.upd with armTo := none, session := none, hinge := none },
    harvested := s.harvested, harvestedAt := s.harvestedAt }) rfl 0x20050 r (s.reg 0x20050)

theorem resetHead_modules (kind source : Nat) : (s.resetHead kind source).modules.map Prod.fst = s.modules.map Prod.fst :=
  List.map_map.trans (List.map_congr_left fun _ _ => rfl)

/-! ### Supply and temperature (R555, R562, R566) -/

theorem pwrEvents_quiet : rPwrEvents ∉ levelRegs := by decide

/-- A power event sets its flag and nothing else. -/
theorem raise_pwrEvents (m : Nat) : s.raise rPwrEvents m = s.setReg rPwrEvents (s.reg rPwrEvents ||| BitVec.ofNat 64 m) :=
  raise_quiet pwrEvents_quiet m

theorem regBits_pair (off : Nat) : s.regBits off 2 2 = 0 ↔ s.regBit off 2 = false ∧ s.regBit off 3 = false := by
  simp only [regBit, BitVec.getLsbD, Nat.testBit_eq_decide_div_mod_eq, regBits, bits, decide_eq_false_iff_not]
  omega

/-- SMB_ALERT_N is high while neither SUPPLY_WARN nor THERMAL_WARN is set. -/
theorem smbAlert_pin : s.smbAlert.pwr.smbAlertN = (!s.regBit rPwrEvents 2 && !s.regBit rPwrEvents 3) := by
  rw [Bool.eq_iff_iff, Bool.and_eq_true, Bool.not_eq_true', Bool.not_eq_true', ← regBits_pair]
  exact decide_eq_true_iff

variable {s}

theorem exec_supplyWarn (hs : Tbl.sorted s.regs = true) : ∃ t, exec .supplyWarn s = .next t ∧ t.regBit rPwrEvents 2 = true ∧
    t.pwr.smbAlertN = false ∧ t = { s with regs := t.regs, pwr := t.pwr } := by
  have hflag : (s.raise rPwrEvents (2 ^ 2)).regBit rPwrEvents 2 = true := by
    rw [regBit, reg_raise hs, if_pos rfl]
    simp
  refine ⟨(s.raise rPwrEvents (2 ^ 2)).smbAlert, rfl, hflag, ?_, ?_⟩
  · rw [smbAlert_pin, hflag]
    rfl
  · rw [raise_pwrEvents]
    rfl

theorem setTj_sorted (hs : Tbl.sorted s.regs = true) (tj : BitVec 16) (p : Pwr) : Tbl.sorted ({ s.setTj tj with pwr := p } : State).regs = true := hs

theorem exec_thermalWarn_hot (hs : Tbl.sorted s.regs = true) {tj : BitVec 16} (h : 800 < tj.toInt) : ∃ t, exec (.thermalWarn tj) s = .next t ∧
    t.regBit rPwrEvents 3 = true ∧ t.pwr.tempAlertN = false ∧ t.pwr.smbAlertN = false ∧ t.pwr.tjNow = tj.toNat := by
  have hflag (p : Pwr) : (({ s.setTj tj with pwr := p } : State).raise rPwrEvents (2 ^ 3)).regBit rPwrEvents 3 = true := by
    rw [regBit, reg_raise (setTj_sorted hs tj p), if_pos rfl]
    simp
  refine ⟨_, if_pos h, hflag _, ?_, ?_, ?_⟩
  · exact congrArg Pwr.tempAlertN (raise_pwr _ _ _)
  · rw [smbAlert_pin]
    exact (congrArg (_ && !·) (hflag _)).trans (Bool.and_false _)
  · exact congrArg Pwr.tjNow (raise_pwr _ _ _)

theorem exec_thermalWarn_cool (hs : Tbl.sorted s.regs = true) {tj : BitVec 16} (h : tj.toInt < 776) : ∃ t, exec (.thermalWarn tj) s = .next t ∧
    t.regBit rPwrEvents 3 = false ∧ t.pwr.tempAlertN = true ∧ t.pwr.tjNow = tj.toNat ∧ t.pwr.smbAlertN = !s.regBit rPwrEvents 2 := by
  have hflag (p : Pwr) (i : Nat) : (({ s.setTj tj with pwr := p } : State).setReg rPwrEvents
      ((s.setTj tj).reg rPwrEvents &&& ~~~(8 : W64))).regBit rPwrEvents i = (s.regBit rPwrEvents i && (~~~(8 : W64)).getLsbD i) := by
    rw [regBit, reg_setReg_same _ _ _ (setTj_sorted hs tj p), BitVec.getLsbD_and]
    rfl
  refine ⟨_, (if_neg (by omega)).trans (if_pos h), (hflag _ 3).trans (Bool.and_false _), rfl, rfl, ?_⟩
  rw [smbAlert_pin, hflag, hflag]
  simp

end Sys2Proof.Machine.State
end

section
/-! Power domains, resets, modes, supply and temperature, and the service calls (O26). -/

open Sys2Proof Sys2Proof.Machine Sys2Proof.Machine.State

namespace Sys2Proof.Machine

namespace State

variable {s : State}

/-! ### The pins of the sequence (R527, R529, R536, R558) -/

theorem powerOn_off (h : s.pwr.resetN = false) : s.powerOn = s := if_pos (by rw [h]; simp)

theorem powerOn_on (hg : s.pwr.pwrGood = true) (hr : s.pwr.resetN = true) (hm : s.pwr.mode ≠ 0) :
    s.powerOn = { s with pwr := { s.pwr with seqBusy := s.nextDomain.isSome } } := by
  unfold powerOn
  rw [if_neg (by simp [hg, hr]), if_neg hm]

/-- Out of OFF the sequence begins with a PIN reset. -/
theorem powerOn_fromOff (hg : s.pwr.pwrGood = true) (hr : s.pwr.resetN = true) (hm : s.pwr.mode = 0) : s.powerOn =
    { s.resetHead 1 0 with pwr := { (s.resetHead 1 0).pwr with seqBusy := (s.resetHead 1 0).nextDomain.isSome } } := by
  unfold powerOn
  rw [if_neg (by simp [hg, hr]), if_pos hm]

theorem exec_pwrGoodRise (hg : s.pwr.pwrGood = false) (hs : s.pwr.standby = true) : exec .pwrGoodRise s =
    .next ({ s with pwr := { s.pwr with pwrGood := true, refOk := true, pllLock := true } } : State).powerOn :=
  if_neg (by simp [hg, hs])

theorem exec_resetNRelease (hr : s.pwr.resetN = false) (hs : s.pwr.standby = true) : exec .resetNRelease s =
    .next ({ s with pwr := { s.pwr with resetN := true } } : State).powerOn :=
  if_neg (by simp [hr, hs])

theorem exec_resetN (hr : s.pwr.resetN = true) : exec .resetN s =
    let u := if s.pwr.mode = 0 then s else s.resetHead 1 0
    .next { u with pwr := { u.pwr with resetN := false, seqBusy := false } } :=
  if_neg (by simp [hr])

/-! ### Domains one by one (R527, R528, R530) -/

theorem exec_domainPowerUp_single {d : Nat} (h : s.pwr.single = some d) : exec .domainPowerUp s =
    .next { s.domainOn d with pwr := { (s.domainOn d).pwr with single := none, seqBusy := false } } := by
  show execDomainPowerUp s = _
  rw [execDomainPowerUp, h]

theorem exec_domainPowerUp_next {d : Nat} (h : s.pwr.single = none) (hb : s.pwr.seqBusy = true) (hg : s.pwr.pwrGood = true)
    (hr : s.pwr.resetN = true) (hn : s.nextDomain = some d) : exec .domainPowerUp s =
      .next { s.domainOn d with pwr := { (s.domainOn d).pwr with seqBusy := (s.domainOn d).nextDomain.isSome } } := by
  show execDomainPowerUp s = _
  rw [execDomainPowerUp, h]
  dsimp only
  rw [if_neg (by simp [hb, hg, hr]), hn]

/-- The first fault of a domain: recorded, raised, and the sequence stops. -/
def faulted (s : State) (d : Nat) : State :=
  { s with pwr := { s.pwr with faultDomain := d, hasFault := true, seqLast := d, seqBusy := false, single := none } }

theorem exec_domainFault_single {d : Nat} (hf : s.pwr.hasFault = false) (h : s.pwr.single = some d) :
    exec .domainFault s = .next (((s.faulted d).raise rPwrEvents 1).book 0x81 0x016 (leBytes 1 d)) := by
  show execDomainFault s = _
  rw [execDomainFault, h]
  dsimp only
  rw [hf]
  rfl

theorem exec_domainFault_next {d : Nat} (hf : s.pwr.hasFault = false) (h : s.pwr.single = none) (hb : s.pwr.seqBusy = true)
    (hn : s.nextDomain = some d) (hm : s.pwr.mode ≠ 1) :
    exec .domainFault s = .next ((((s.faulted d).raise rPwrEvents 1).book 0x81 0x016 (leBytes 1 d)).setMode 11) := by
  show execDomainFault s = _
  rw [execDomainFault, h]
  dsimp only
  rw [if_neg (by simp [hb]), hn]
  dsimp only
  rw [if_neg hm, hf]
  rfl

/-! ### DOMAIN_REQ and PWR_RESET (R530, R540) -/

theorem mayWrite_pwr (m : Nat) {off : Nat} (h : off ∈ [0x20020, 0x20038]) : mayWrite m off = true := by
  simp only [List.mem_cons, List.not_mem_nil, or_false] at h
  rcases h with rfl | rfl <;> rfl

theorem exec_pwrReset {m : Nat} (hg : s.gate m 0x20038 8 true = .open) (v : W64) :
    exec (.pwrReset m 8 v) s = .next (if v.getLsbD 0 then s.resetHead 2 m else s) :=
  congrArg _ ((gated_open hg v _).trans (if_pos (mayWrite_pwr m (by decide))))

theorem domainReq_fields {d : Nat} (hd : d < 128) (on : Bool) :
    bits (BitVec.ofNat 64 (d + 128 * b2n on)).toNat 0 7 = d ∧ (BitVec.ofNat 64 (d + 128 * b2n on)).getLsbD 7 = on := by
  simp only [BitVec.getLsbD, BitVec.toNat_ofNat, Nat.testBit_eq_decide_div_mod_eq, bits]
  cases on <;> simp only [b2n, if_true, Bool.false_eq_true, if_false, decide_eq_true_eq, decide_eq_false_iff_not] <;> omega

/-- A write of DOMAIN_REQ by its two fields. -/
theorem exec_domainReq {m d : Nat} (hg : s.gate m 0x20020 8 true = .open) (hd : d < 128) (on : Bool) :
    exec (.domainReq m 8 (BitVec.ofNat 64 (d + 128 * b2n on))) s = .next (
      if d < 62 ∨ 77 < d ∨ s.pwr.seqBusy ∨ s.domainPresent d = false
          ∨ (on = false ∧ d < 70 ∧ s.regBit (hifBlk (d - 62)) 0 = true) ∨ (on = false ∧ 70 ≤ d ∧ s.groupAdmitted (d - 70) = true) then
        s.raise rPwrEvents 2
      else if on = bit s.pwr.domains d then s
      else if on then { s with pwr := { s.pwr with single := some d, seqBusy := true, seqLast := d } }
      else if d < 70 then s.domainOff d
      else (s.domainOff d).groupOff (d - 70)) := by
  obtain ⟨hfield, hon⟩ := domainReq_fields hd on
  refine congrArg _ ((gated_open hg _ _).trans ((if_pos (mayWrite_pwr m (by decide))).trans ?_))
  show s.domainReqAct (BitVec.ofNat 64 (d + 128 * b2n on)) = _
  unfold domainReqAct
  dsimp only
  rw [hfield, hon]
  rfl

section

variable {m d : Nat} (hg : s.gate m 0x20020 8 true = .open) (hlo : 62 ≤ d) (hhi : d ≤ 77) (hb : s.pwr.seqBusy = false)
  (hp : s.domainPresent d = true)
include hg hlo hhi hb hp

theorem exec_domainReq_on : exec (.domainReq m 8 (BitVec.ofNat 64 (d + 128))) s = .next (
    if bit s.pwr.domains d = true then s else { s with pwr := { s.pwr with single := some d, seqBusy := true, seqLast := d } }) := by
  refine (exec_domainReq hg (by omega) true).trans (congrArg _ ?_)
  rw [if_neg (by simp [hb, hp]; omega)]
  simp only [eq_comm (a := true), if_true]

theorem exec_domainReq_off (h70 : d < 70) (hon : bit s.pwr.domains d = true) : exec (.domainReq m 8 (BitVec.ofNat 64 d)) s = .next (
    if s.regBit (hifBlk (d - 62)) 0 = true then s.raise rPwrEvents 2 else s.domainOff d) := by
  refine (exec_domainReq hg (by omega) false).trans (congrArg _ ?_)
  by_cases hr : s.regBit (hifBlk (d - 62)) 0 = true
  · rw [if_pos hr, if_pos (by simp [hr, h70])]
  · rw [if_neg hr, if_neg (by simp [hb, hp, hr]; omega), hon, if_neg (by decide), if_neg (by decide), if_pos h70]

end

/-! ### The service calls (R536 to R538, R546) -/

section

variable {call : Nat} {c : Call}

theorem exec_serviceEnter (hl : s.libCall call 112 = some c) : exec (.serviceEnter call) s =
    if s.pwr.mode = 9 then .next (s.libDone call)
    else if s.pwr.mode ∉ [4, 5, 6] then .next (s.libFail call 0xA1)
    else if s.ownedMask ≠ 0 then .next (s.libFail call 0xA2)
    else .next ((s.stopShadowing.setMode 9).libDone call) := by
  show execServiceEnter call s = _
  rw [execServiceEnter, hl]

theorem exec_serviceLeave (hl : s.libCall call 113 = some c) : exec (.serviceLeave call) s =
    if s.pwr.mode ≠ 9 ∨ (s.lcState ≠ 1 ∧ s.lcState ≠ 2) then .next (s.libFail call 0xA1)
    else if s.ownedMask ≠ 0 then .next ((s.setMode 6).libDone call)
    else if s.rope.peerMode ∈ [4, 5, 6, 7] then .next ((s.setMode 4).libDone call)
    else .next (s.libFail call 0xA1) := by
  show execServiceLeave call s = _
  rw [execServiceLeave, hl]

theorem exec_standbyEnter (hl : s.libCall call 114 = some c) : exec (.standbyEnter call) s =
    if s.pwr.mode ≠ 9 ∨ (s.lcState ≠ 1 ∧ s.lcState ≠ 2) then .next (s.libFail call 0xA1)
    else if s.calls.any (fun (c : Nat × Call) => decide (c.1 ≠ call)) then .next s
    else .next ((((s.mapcFlush 2).allSelfRef true).libDone call).standbyOff) := by
  show execStandbyEnter call s = _
  rw [execStandbyEnter, hl]

theorem exec_standbyLeave (hl : s.libCall call 115 = some c) : exec (.standbyLeave call) s =
    if s.pwr.mode = 9 then .next (s.libDone call)
    else if s.pwr.mode ≠ 1 then .next (s.libFail call 0xA1)
    else if s.nextDomain.isSome then .next { s with pwr := { s.pwr with seqBusy := true } }
    else .next (((s.allSelfRef false).setMode 9).libDone call) := by
  show execStandbyLeave call s = _
  rw [execStandbyLeave, hl]

/-- A free value taken before a change of mode, or after it. -/
theorem setMode_used (m : Nat) : (s.setMode m).used = s.used.setMode m := by
  unfold setMode
  split
  · next h => exact (if_pos h).symm
  · next h =>
    refine Eq.trans ?_ (if_neg h).symm
    dsimp only
    split <;> rfl

theorem allSelfRef_used (on : Bool) : (s.allSelfRef on).used = s.used.allSelfRef on := by
  have hloop (l : List Nat) (t : State) : (l.foldl (fun t n => t.setDrc n { t.drc n with selfRef := on }) t).used =
      l.foldl (fun t n => t.setDrc n { t.drc n with selfRef := on }) t.used := by
    induction l generalizing t with
    | nil => rfl
    | cons n l ih => exact ih _
  exact hloop _ s

/-- A change of mode, and the end of the call with a free RESULT. -/
theorem setMode_libDone (m : Nat) : ∃ x, (s.setMode m).libDone call = (s.used.setMode m).libExit call 0 x :=
  ⟨_, by rw [libDone, setMode_used]⟩

/-- STANDBY keeps nothing of what it switches off, and the mode before it (R535, R538). -/
theorem standbyOff_spec (h : s.pwr.mode = 9) : s.standbyOff.pwr.mode = 1 ∧ s.standbyOff.pwr.prev = 9 ∧ s.standbyOff.climbs = [] ∧
    s.standbyOff.bufs = [] ∧ s.standbyOff.keySlots = [] ∧
    s.standbyOff.pwr.domains = (s.standbyOff.pwr.domains &&& (15 + 255 * 2 ^ 54 + 2 ^ 79)) ∧
    (∀ a, 0x020000000000 ≤ a → ∀ b, (a, b) ∉ s.standbyOff.mem) := by
  unfold standbyOff
  dsimp only
  have h1 : s.pwr.mode ≠ 1 := by omega
  rw [setMode_change _ (m := 1) ?_ (by decide)]
  swap
  · exact h1
  refine ⟨rfl, h, rfl, rfl, rfl, ?_, fun a ha b hab => ?_⟩
  · show s.pwr.domains &&& standbyMask = s.pwr.domains &&& standbyMask &&& standbyMask
    rw [Nat.and_assoc, Nat.and_self]
  · have := (List.mem_filter.1 hab).2
    simp only [decide_eq_true_eq] at this
    omega

end

end State

/-- Settles O26, clause by clause: the sequence by `powerOn_on` and `powerOn_fromOff`, a reset by `resetHead_reg`, the events by
`raise_pwrEvents`, modes by `setMode_change`, the yield by `yieldHead_holds`, the calls by what `libExit_pwr` keeps. -/
theorem powerAndModesFollowTheirSignals : Obligations.PowerAndModesFollowTheirSignals := by
  unfold Obligations.PowerAndModesFollowTheirSignals
  refine ⟨?railRise, ?railLost, ?pinRise, ?resetPin, ?domains, ?goodFall, ?request, ?pwrReset, ?reset, ?quarantine, ?autoReset, ?warnings, ?modes, ?yield, ?wipe, ?record, ?calls⟩
  case railRise =>
    exact fun s sel => ⟨fun h => if_pos h, fun h => ⟨_, if_neg (by simp [h]), rfl, rfl, rfl, rfl, rfl, rfl, rfl⟩⟩
  case railLost =>
    exact fun s => ⟨_, rfl, rfl, rfl, rfl, rfl, rfl, rfl, rfl, rfl, rfl⟩
  case pinRise =>
    refine fun s => ⟨fun hs hg hm hr => ?_, fun hs hg hr => ?_, fun hs hg hr hm => ?_, fun hs hg hr hm => ?_⟩
    · exact (exec_pwrGoodRise hg hs).trans (congrArg _ (powerOn_on rfl hr hm))
    · exact (exec_pwrGoodRise hg hs).trans (congrArg _ (powerOn_off hr))
    · exact (exec_resetNRelease hr hs).trans (congrArg _ (powerOn_on hg rfl hm))
    · exact ⟨_, (exec_resetNRelease hr hs).trans (congrArg _ (powerOn_fromOff hg rfl hm)), rfl, rfl, rfl, rfl⟩
  case resetPin =>
    refine fun s => ⟨fun hr => if_pos (by simp [hr]), fun hr hm => ?_, fun hr hm u hu => ?_⟩
    · rw [gives, exec_resetN hr, if_pos hm]
    · rw [gives, exec_resetN hr, if_neg hm, hu]
  case domains =>
    refine fun s d => ⟨fun h u hu => ?_, fun h hb hg hr hn u hu => ?_, domainOn_pwr s d, nextDomain_spec, fun f hf he => ⟨fun h => ?_, fun h hb hn hm => ?_⟩⟩
    · rw [gives, exec_domainPowerUp_single h, hu]
    · rw [gives, exec_domainPowerUp_next h hb hg hr hn, hu]
    · rw [gives, exec_domainFault_single hf h, he, faulted]
    · rw [gives, exec_domainFault_next hf h hb hn hm, he, faulted]
  case goodFall =>
    refine fun s => ⟨fun hg => if_pos (by simp [hg]), fun hg u hu => ?_⟩
    rw [hu]
    exact if_neg (by simp [hg])
  case request =>
    intro s m d on hg hd
    refine ⟨fun h => ?_, fun hlo hhi hb hp => ⟨fun hoff => ?_, fun hon => ?_, fun hon h70 hr => ?_, fun hon h70 hr => ?_⟩⟩
    · rw [gives, exec_domainReq hg hd, if_pos (by tauto)]
    · rw [gives, exec_domainReq_on hg hlo hhi hb hp, if_neg (by simp [hoff])]
    · rw [gives, exec_domainReq_on hg hlo hhi hb hp, if_pos hon]
    · rw [gives, exec_domainReq_off hg hlo hhi hb hp h70 hon, if_pos hr]
    · rw [gives, exec_domainReq_off hg hlo hhi hb hp h70 hon, if_neg (by simp [hr]), domainOff]
  case pwrReset =>
    refine fun s m v hg => ⟨fun hv => ?_, fun hv => ?_⟩
    · rw [gives, exec_pwrReset hg, if_pos hv]
    · rw [gives, exec_pwrReset hg, if_neg (by rw [hv]; decide)]
  case reset =>
    intro s t kind source ht
    subst ht
    exact ⟨rfl, rfl, rfl, rfl, rfl, rfl, rfl, rfl, rfl, rfl, rfl, resetHead_modules s kind source, rfl, rfl, rfl, rfl,
      (resetHead_reg s kind source _).trans (if_pos rfl), fun r hr => (resetHead_reg s kind source r).trans (if_neg hr),
      rfl, rfl, rfl, rfl, rfl, rfl, rfl, rfl⟩
  case quarantine =>
    refine fun s hm due hdue => ⟨fun ht => if_pos (.inr (.inl (hdue ▸ ht))), fun ht hlim => if_neg ?_⟩
    subst hdue
    rintro (h | h | h)
    · exact h hm
    · omega
    · omega
  case autoReset =>
    refine fun s a l ha => ⟨fun ht => ?_, fun ht => ?_⟩
    · show execAutoCountReset s = _
      rw [execAutoCountReset, ha]
      exact if_pos ht
    · show execAutoCountReset s = _
      rw [execAutoCountReset, ha]
      exact if_neg (by omega)
  case warnings =>
    exact fun s hs => ⟨exec_supplyWarn hs, rfl, fun tj => ⟨fun h => exec_thermalWarn_hot hs h, fun h => exec_thermalWarn_cool hs h,
      fun h1 h2 => (if_neg (by omega)).trans (if_neg (by omega)), fun h => if_pos h, fun h => if_neg (by omega)⟩⟩
  case modes =>
    exact fun s m => ⟨fun h => setMode_same s h, fun h h11 => setMode_change s h h11⟩
  case yield =>
    refine fun s c => ⟨fun h => yieldHead_yielded s h c, fun h => ?_⟩
    obtain ⟨hpair, hpin, hmem, hpools, -⟩ := yieldHead_holds s h c
    rw [hpair]
    exact ⟨rfl, rfl, rfl, hpin, hmem, hpools, yieldHead_mode s h c⟩
  case wipe =>
    refine fun s g => ⟨fun h => if_neg h, fun h => ⟨_, if_pos h, rfl, ?_, rfl, rfl⟩⟩
    rw [Bool.and_eq_true, List.isEmpty_iff, Bool.not_eq_true']
  case record =>
    refine fun s a c => ⟨fun ha hc hm => if_pos ⟨ha, hc, hm⟩, fun h => if_neg ?_⟩
    rintro ⟨ha, hc, -⟩
    exact h.elim (· ha) (· hc)
  case calls =>
    intro s u call c hc hr hu
    have hu' : u = s.used := hu
    subst hu'
    refine ⟨fun hs => ?_, fun hs => ?_, fun hs => ?_, fun hs => ?_⟩
    · have hexec := exec_serviceEnter (libCall_running hc hr hs)
      refine ⟨fun h9 => ⟨_, hexec.trans (if_pos h9)⟩, fun hm => ⟨_, hexec.trans ((if_neg fun h9 => hm (by simp [h9])).trans
        (if_pos fun h => hm ?_))⟩, fun hm ho => ⟨_, hexec.trans ((if_neg (ne_of_mem_of_not_mem hm (by decide))).trans
        ((if_neg (not_not.2 hm)).trans (if_pos ho)))⟩, fun hm ho => ?_⟩
      · simp only [List.mem_cons, List.not_mem_nil, or_false] at h ⊢
        omega
      · obtain ⟨x, hx⟩ := setMode_libDone (s := s.stopShadowing) (call := call) 9
        refine ⟨x, ?_⟩
        rw [gives, hexec, if_neg (ne_of_mem_of_not_mem hm (by decide)), if_neg (not_not.2 hm), if_neg (not_not.2 ho), hx]
        rfl
    · have hexec := exec_serviceLeave (libCall_running hc hr hs)
      refine ⟨fun h => ⟨_, hexec.trans (if_pos h)⟩, fun h9 hlc ho => ?_, fun h9 hlc ho hp => ?_⟩
      · obtain ⟨x, hx⟩ := setMode_libDone (s := s) (call := call) 6
        exact ⟨x, by rw [gives, hexec, if_neg (by omega), if_pos ho, hx]⟩
      · obtain ⟨x, hx⟩ := setMode_libDone (s := s) (call := call) 4
        exact ⟨x, by rw [gives, hexec, if_neg (by omega), if_neg (not_not.2 ho), if_pos hp, hx]⟩
    · have hexec := exec_standbyEnter (libCall_running hc hr hs)
      refine ⟨fun h => ⟨_, hexec.trans (if_pos h)⟩, fun h9 hlc hcalls => ⟨_, hexec.trans ((if_neg (by omega)).trans
        (if_neg (by rw [hcalls]; decide))), standbyOff_spec ?_⟩⟩
      rw [libDone_pwr, allSelfRef_pwr, mapcFlush, maintAll_pwr, h9]
    · have hexec := exec_standbyLeave (libCall_running hc hr hs)
      refine ⟨fun h9 => ⟨_, hexec.trans (if_pos h9)⟩, fun h9 h1 => ⟨_, hexec.trans ((if_neg h9).trans (if_pos h1))⟩, fun h1 hn => ?_, fun h1 hn => ?_⟩
      · rw [gives, hexec, if_neg (by omega), if_neg (not_not.2 h1), if_pos hn]
      · obtain ⟨x, hx⟩ := setMode_libDone (s := s.allSelfRef false) (call := call) 9
        refine ⟨x, ?_⟩
        rw [gives, hexec, if_neg (by omega), if_neg (not_not.2 h1), if_neg (by simp [hn]), hx, allSelfRef_used]

end Sys2Proof.Machine
end

section
/-! SUPPORT for O40. Frames of the rope: how one is received, what its acceptance changes, and what heartbeats leave of the rope. -/

open Sys2Proof Sys2Proof.Machine Sys2Proof.Machine.State

namespace Sys2Proof.Machine.State

@[simp] theorem raise_rope (s : State) (off m : Nat) : (s.raise off m).rope = s.rope := by
  obtain ⟨_, _, _, h⟩ := raise_frame s off m
  rw [h]

@[simp] theorem raise_time (s : State) (off m : Nat) : (s.raise off m).time = s.time := by
  obtain ⟨_, _, _, h⟩ := raise_frame s off m
  rw [h]

/-! ### How a frame is received (R314 to R316) -/

section

variable {s : State} {typ : Nat} {f : Bytes}

theorem recvRope_badFormat (h : f.length < 40 ∨ f.length ≠ 40 + fieldAt f 4 4 ∨ fieldAt f 0 2 ≠ 0x9E17 ∨ fieldAt f 2 1 = 0 ∨ 10 < fieldAt f 2 1 ∨
    16384 < fieldAt f 4 4) : s.recvRope typ f = (none, s.badFormat) :=
  if_pos (by omega)

variable (hlen : f.length = 40 + fieldAt f 4 4) (hmark : fieldAt f 0 2 = 0x9E17) (htyp : fieldAt f 2 1 = typ) (h1 : 1 ≤ typ) (h10 : typ ≤ 10)
  (hmax : fieldAt f 4 4 ≤ 16384)
include hlen hmark htyp h1 h10 hmax

theorem recvRope_noKey (hk : s.rope.rxKey = none) : s.recvRope typ f = (none, s) := by
  unfold recvRope
  dsimp only
  rw [if_neg (by omega), if_neg (not_not.2 htyp), hk]

variable {k : RopeKey} (hk : s.rope.rxKey = some k)
include hk

theorem recvRope_badTag (hbad : frameOk k f = false) (hn : s.rope.rxNext = none) : s.recvRope typ f = (none, s.badAuth) := by
  unfold recvRope
  dsimp only
  rw [if_neg (by omega), if_neg (not_not.2 htyp), hk]
  dsimp only
  rw [if_neg (by simp [hbad]), hn]

variable (hok : frameOk k f = true)
include hok

theorem recvRope_outOfOrder (hc : fieldAt f 8 8 ≠ s.rope.rxCount + 1) : s.recvRope typ f = (none, s) := by
  unfold recvRope
  dsimp only
  rw [if_neg (by omega), if_neg (not_not.2 htyp), hk]
  dsimp only
  rw [if_pos hok, if_neg hc]

theorem recvRope_accepted (hc : fieldAt f 8 8 = s.rope.rxCount + 1) : s.recvRope typ f =
    (some (gcmCrypt k.key (ropeIv k (s.rope.rxCount + 1)) ((f.drop 24).take (fieldAt f 4 4))), s.acceptFrame f) := by
  unfold recvRope
  dsimp only
  rw [if_neg (by omega), if_neg (not_not.2 htyp), hk]
  dsimp only
  rw [if_pos hok, if_pos hc, hc]

end

/-- The commands of a received frame, with its TYPE (R315). -/
def frameCommands (f : Bytes) (cap : Capsule) : List (Instr × Nat) :=
  [(.heartbeat f, 1), (.timeReq f, 2), (.timeResp f, 3), (.journal f, 4), (.journalAck f, 5), (.shadow f, 6), (.forward f cap, 7),
    (.forwardDone f, 8), (.join f, 9), (.caughtUp f, 9), (.ropeRelease f, 9), (.taken f, 9), (.rekey f, 9), (.ropeYield f, 10)]

/-- A frame that is not accepted does nothing more. -/
theorem exec_frame_none {s u : State} {i : Instr} {typ : Nat} {f : Bytes} {cap : Capsule} (hi : (i, typ) ∈ frameCommands f cap)
    (h : s.recvRope typ f = (none, u)) : exec i s = .next u := by
  have hframe (act : Bytes → State → State) : s.withFrame typ f act = u := by rw [withFrame, h]
  have hcontrol (h9 : typ = 9) (op : Nat) (act : Nat → Nat → State → State) : s.withControl op f act = u := by
    subst h9
    rw [withControl, h]
  simp only [frameCommands, List.mem_cons, List.not_mem_nil, or_false, Prod.mk.injEq] at hi
  rcases hi with ⟨rfl, rfl⟩ | ⟨rfl, rfl⟩ | ⟨rfl, rfl⟩ | ⟨rfl, rfl⟩ | ⟨rfl, rfl⟩ | ⟨rfl, rfl⟩ | ⟨rfl, rfl⟩ | ⟨rfl, rfl⟩ | hi
  iterate 8 exact congrArg _ (hframe _)
  rcases hi with ⟨rfl, h9⟩ | ⟨rfl, h9⟩ | ⟨rfl, h9⟩ | ⟨rfl, h9⟩ | ⟨rfl, h9⟩ | ⟨rfl, rfl⟩
  iterate 5 exact congrArg _ (hcontrol h9 _ _)
  exact congrArg _ (hframe _)

theorem frameCommands_typ {i : Instr} {typ : Nat} {f : Bytes} {cap : Capsule} (hi : (i, typ) ∈ frameCommands f cap) : 1 ≤ typ ∧ typ ≤ 10 := by
  simp only [frameCommands, List.mem_cons, List.not_mem_nil, or_false, Prod.mk.injEq] at hi
  omega

/-! ### What the acceptance of a frame changes (R316) -/

theorem sendPutOff_onlyPosts (s : State) (l : List (Nat × Bytes)) : onlyPosts s (sendPutOff l s) := by
  induction l generalizing s with
  | nil => exact .refl s
  | cons f r ih => exact .ite ((sendRope_onlyPosts s _ _ _).trans (ih _)) ⟨_, s.host, s.out, rfl, rfl⟩

theorem acceptFrame_rxCount (s : State) (f : Bytes) : (s.acceptFrame f).rope.rxCount = s.rope.rxCount + 1 :=
  congrArg Rope.rxCount (sendPutOff_onlyPosts _ _).rope

/-- With nothing put off, an acceptance forgets the frames that are acknowledged; an ACK above the session's counter acknowledges none. -/
theorem acceptFrame_unacked {s : State} (h : s.rope.putOff = []) (f : Bytes) : (s.acceptFrame f).rope.unacked =
    if fieldAt f 0x10 8 ≤ s.rope.txCount then s.rope.unacked.filter (fun p => decide (p.1 > fieldAt f 0x10 8)) else s.rope.unacked := by
  unfold acceptFrame ropeDrain
  dsimp only
  rw [h]
  rfl

theorem sendRope_putOff {s : State} {k : RopeKey} (hk : s.rope.txKey = some k) {d : Bytes} (h : s.rope.putOff ≠ [] ∨ s.ropeRoom d = false)
    (typ : Nat) : s.sendRope typ false d = { s with rope := { s.rope with putOff := s.rope.putOff ++ [(typ, d)] } } := by
  unfold sendRope
  rw [hk]
  refine if_pos ?_
  rcases h with h | h
  · simp [h]
  · simp [h]

/-- A PRIORITY frame is sent at once, and kept until it is acknowledged. -/
theorem sendRope_priority {s : State} {k : RopeKey} (hk : s.rope.txKey = some k) (typ : Nat) (d : Bytes) : ∃ frame x y,
    frame = ropeHeader typ 1 d.length (s.rope.txCount + 1) s.rope.rxCount ++ x ++ y ∧
    (s.sendRope typ true d).out = s.out ++ [.rope frame] ∧ (s.sendRope typ true d).rope = { s.rope with
      txCount := s.rope.txCount + 1, unacked := s.rope.unacked ++ [(s.rope.txCount + 1, frame)],
      ackAt := if s.rope.unacked.isEmpty then s.time else s.rope.ackAt } := by
  unfold sendRope
  rw [hk]
  exact ⟨_, _, _, rfl, rfl, rfl⟩

/-! ### Heartbeats (R318 to R320, R340) -/

theorem pairMode_rope (s : State) : s.pairMode.rope = s.rope := by
  unfold pairMode
  dsimp only
  split
  · exact (setMode_onlyMode s 4).rope
  · split
    · exact (setMode_onlyMode s 5).rope
    · split
      · exact (setMode_onlyMode s 5).rope
      · split
        · exact (setMode_onlyMode s 6).rope
        · rfl

theorem loadShadow_rope (s : State) (p : Nat) : (s.loadShadow p).rope = s.rope := by
  have hregister (t : State) : (t.registerPool p).rope = t.rope :=
    List.foldlRecOn (motive := fun u : State => u.rope = t.rope) _ _ rfl fun u hu m _ => by
      split
      · exact hu
      · exact hu
  unfold loadShadow
  split
  · rfl
  · exact hregister _

theorem joinPeer_rope (s : State) : heardSide s.joinPeer.rope = heardSide s.rope := by
  have hload (l : List Nat) : (l.foldl (fun t p => t.loadShadow p) s).rope = s.rope :=
    List.foldlRecOn (motive := fun u : State => u.rope = s.rope) _ _ rfl fun u hu p _ => (loadShadow_rope u p).trans hu
  unfold joinPeer
  dsimp only
  split
  · rfl
  · exact (sendRope_onlyPosts _ _ _ _).rope.trans (congrArg heardSide (hload _))

/-- What a heartbeat tells, before it changes modes, joins and releases. -/
def hbTaken (s : State) (d : Bytes) : State :=
  let r := s.rope
  let echo := fieldAt d 8 8
  let lease := match r.hbSent.find? (fun p => decide (p.1 = echo)) with
    | some p => if (p.2 + 1000).toNat > r.leaseTo.toNat then p.2 + 1000 else r.leaseTo
    | none => r.leaseTo
  { s with
    rope := { r with
      leaseTo := lease, lease := decide (s.time.toNat < lease.toNat), hbSent := r.hbSent.filter (fun p => decide (p.1 > echo)),
      peerHb := fieldAt d 0 8, missed := 0, master := if r.peerHb = 0 then s.masterBy (fieldAt d 0x18 1) else r.master, suspect := false,
      peerMode := fieldAt d 0x18 1, peerFlags := fieldAt d 0x19 1, peerOwned := fieldAt d 0x1A 2, peerShadowed := fieldAt d 0x1C 2 },
    pair := { s.pair with peerCaught := s.pair.peerCaught &&& fieldAt d 0x1C 2 } }

theorem heard_rope (s : State) (d : Bytes) : heardSide (s.heard d).rope = heardSide (s.hbTaken d).rope := by
  have h : s.heard d = ((s.hbTaken d).pairMode.joinPeer).releaseHeld := rfl
  rw [h]
  exact (releaseHeld_onlyPosts _).rope.trans ((joinPeer_rope _).trans (congrArg heardSide (pairMode_rope _)))

/-- A heartbeat that echoes one sent lengthens the lease to 10 us after that one was sent. -/
theorem hbTaken_leaseTo {s : State} {d : Bytes} {q : Nat} {at' : W64} (h : s.rope.hbSent.find? (fun p => decide (p.1 = fieldAt d 8 8)) = some (q, at'))
    (hlater : s.rope.leaseTo.toNat < (at' + 1000).toNat) : (s.hbTaken d).rope.leaseTo = at' + 1000 := by
  unfold hbTaken
  dsimp only
  rw [h]
  exact if_pos hlater

theorem hbTaken_leaseTo_none {s : State} {d : Bytes} (h : s.rope.hbSent.find? (fun p => decide (p.1 = fieldAt d 8 8)) = none) :
    (s.hbTaken d).rope.leaseTo = s.rope.leaseTo := by
  unfold hbTaken
  dsimp only
  rw [h]

end Sys2Proof.Machine.State
end

section
/-! Rope frames, heartbeats, leases, lanes, sessions and TIME (O40). -/

open Sys2Proof Sys2Proof.Machine Sys2Proof.Machine.State

namespace Sys2Proof.Machine

namespace State

variable {s : State}

/-! ### Heartbeats and leases (R318, R319, R329) -/

theorem exec_heartbeatSend_none (h : s.rope.txKey = none) : exec .heartbeatSend s = .next s := by
  show execHeartbeatSend s = _
  rw [execHeartbeatSend, h]

/-- A heartbeat goes out as a PRIORITY frame of TYPE 1, numbered and noted with its TIME. -/
theorem exec_heartbeatSend {k : RopeKey} (h : s.rope.txKey = some k) : ∃ t, exec .heartbeatSend s = .next t ∧ t.rope.hbNo = s.rope.hbNo + 1 ∧
    t.rope.hbSent = s.rope.hbSent ++ [(s.rope.hbNo + 1, s.time)] ∧ t.rope.hbSentCnt = s.rope.hbSentCnt + 1 ∧ t.rope.txCount = s.rope.txCount + 1 ∧
    ∃ frame, t.out = s.out ++ [.rope frame] ∧ t.rope.unacked = s.rope.unacked ++ [(s.rope.txCount + 1, frame)] ∧ frame.take 4 = [0x17, 0x9E, 1, 1] := by
  have hexec : exec .heartbeatSend s = .next (({ s with rope := { s.rope with
      hbNo := s.rope.hbNo + 1, hbSent := s.rope.hbSent ++ [(s.rope.hbNo + 1, s.time)], hbSentCnt := s.rope.hbSentCnt + 1 } } : State).sendRope 1 true
      (leBytes 8 (s.rope.hbNo + 1) ++ leBytes 8 s.rope.peerHb ++ leBytes 8 s.time.toNat ++ leBytes 1 s.pwr.mode
        ++ leBytes 1 (b2n s.pair.yielded + 2 * b2n s.cairnLease) ++ leBytes 2 s.ownedMask ++ leBytes 2 s.shadowMask ++ zeros 2)) := by
    show execHeartbeatSend s = _
    rw [execHeartbeatSend, h]
  obtain ⟨frame, x, y, hframe, hout, hrope⟩ := sendRope_priority (s := { s with rope := { s.rope with
      hbNo := s.rope.hbNo + 1, hbSent := s.rope.hbSent ++ [(s.rope.hbNo + 1, s.time)], hbSentCnt := s.rope.hbSentCnt + 1 } }) h 1
    (leBytes 8 (s.rope.hbNo + 1) ++ leBytes 8 s.rope.peerHb ++ leBytes 8 s.time.toNat ++ leBytes 1 s.pwr.mode
      ++ leBytes 1 (b2n s.pair.yielded + 2 * b2n s.cairnLease) ++ leBytes 2 s.ownedMask ++ leBytes 2 s.shadowMask ++ zeros 2)
  refine ⟨_, hexec, ?_, ?_, ?_, ?_, frame, hout, ?_, by rw [hframe]; rfl⟩
  all_goals rw [hrope]

/-- With the bookkeeping of both leases current, LEASE_EXPIRY asks only whether one is held. -/
theorem exec_leaseExpiry_noted (hr : s.rope.lease = s.ropeLease) (hc : s.crn.lease = s.cairnLease) : exec .leaseExpiry s =
    if s.ropeLease || s.cairnLease then .next s
    else if s.pwr.mode ∈ [4, 5, 6, 7] ∧ (s.time - s.pair.faultAt).toNat ≥ 100000 then .next (s.yieldHead 8) else .next s := by
  show execLeaseExpiry s = _
  unfold execLeaseExpiry
  rw [hr, hc, Bool.and_not_self, Bool.and_not_self]
  rfl

/-- The rope lease runs out while the Cairn's is not held: the outputs are held. -/
theorem exec_leaseExpiry_rope (hr : s.rope.lease = true) (hc : s.crn.lease = false) (h : s.ropeLease = false) (h' : s.cairnLease = false) :
    exec .leaseExpiry s =
      .next ({ s with rope := { s.rope with lease := false }, pair := { s.pair with faultAt := s.time } } : State).freezeSqhd := by
  have hnone : ¬ (s.ropeLease || s.cairnLease) = true := by
    rw [h, h']
    decide
  show execLeaseExpiry s = _
  unfold execLeaseExpiry
  rw [hr, hc, h, h']
  exact (if_neg hnone).trans (if_pos rfl)

/-- Every unacknowledged frame goes again, byte for byte (R316). -/
theorem exec_ropeRetransmit (h : s.rope.unacked ≠ []) (h' : 400 ≤ (s.time - s.rope.ackAt).toNat) : ∃ t, exec .ropeRetransmit s = .next t ∧
    t.out = s.out ++ s.rope.unacked.map (fun p => Out.rope p.2) ∧
    t.rope = { s.rope with ackAt := s.time, retrans := s.rope.retrans + BitVec.ofNat 64 s.rope.unacked.length } := by
  have hsend (l : List (Nat × Bytes)) (t : State) :
      l.foldl (fun t p => t.emit (.rope p.2)) t = { t with out := t.out ++ l.map (fun p => Out.rope p.2) } := by
    induction l generalizing t with
    | nil => simp
    | cons p l ih =>
      rw [List.foldl_cons, ih]
      simp [emit]
  refine ⟨_, if_neg (by rw [List.isEmpty_iff]; exact fun h0 => h0.elim h (by omega)), ?_, ?_⟩
  · dsimp only
    rw [hsend]
  · dsimp only
    rw [hsend]

/-! ### Lanes (R313) -/

section

variable {l : Nat} (hl : l < 16)
include hl

omit hl in
theorem exec_laneDown_down (h : bit s.rope.lanes l = false) : exec (.laneDown l) s = .next s := congrArg _ (if_pos (.inr h))

theorem laneDown_eq (h : bit s.rope.lanes l = true) : s.laneDown l =
    let m := s.rope.lanes - 2 ^ l
    let s1 := ({ s with rope := { s.rope with lanes := m, goodSince := if popcount m < 8 then none else s.rope.goodSince } }).raise rRopeEvents 1
    let s2 := if popcount m < 8 ∧ s.rope.degraded = false then s1.degrade else s1
    if m = 0 then { s2 with rope := { s2.rope with linkUp := false } } else s2 :=
  if_neg (by simp [h]; omega)

omit hl in
theorem popcount_zero : popcount 0 = 0 := by decide

theorem exec_laneDown_wide (h : bit s.rope.lanes l = true) (h8 : 8 ≤ popcount (s.rope.lanes - 2 ^ l)) : exec (.laneDown l) s =
    .next (({ s with rope := { s.rope with lanes := s.rope.lanes - 2 ^ l } }).raise rRopeEvents 1) := by
  have hm : s.rope.lanes - 2 ^ l ≠ 0 := by
    intro h0
    rw [h0, popcount_zero] at h8
    omega
  refine congrArg _ ((laneDown_eq hl h).trans ?_)
  dsimp only
  rw [if_neg hm, if_neg (fun h => by omega), if_neg (by omega)]

theorem exec_laneDown_degrades (h : bit s.rope.lanes l = true) (h8 : popcount (s.rope.lanes - 2 ^ l) < 8) (hm : s.rope.lanes - 2 ^ l ≠ 0)
    (hd : s.rope.degraded = false) : exec (.laneDown l) s =
      .next ((({ s with rope := { s.rope with lanes := s.rope.lanes - 2 ^ l, goodSince := none } }).raise rRopeEvents 1).degrade) := by
  refine congrArg _ ((laneDown_eq hl h).trans ?_)
  dsimp only
  rw [if_neg hm, if_pos ⟨h8, hd⟩, if_pos h8]

omit hl in
theorem exec_laneUp_up (h : bit s.rope.lanes l = true ∨ s.regBit 0xC0008 (16 + l) = true) : exec (.laneUp l) s = .next s := if_pos (.inr h)

theorem exec_laneUp (h : bit s.rope.lanes l = false) (h' : s.regBit 0xC0008 (16 + l) = false) : exec (.laneUp l) s =
    .next { s with rope := { s.rope with
      lanes := s.rope.lanes + 2 ^ l,
      goodSince := if popcount (s.rope.lanes + 2 ^ l) ≥ 8 ∧ s.rope.goodSince.isNone then some s.time else s.rope.goodSince } } :=
  if_neg (by simp [h, h']; omega)

end

theorem exec_ropeUndegrade {since : W64} (h : s.rope.goodSince = some since) : exec .ropeUndegrade s =
    if s.rope.degraded ∧ popcount s.rope.lanes ≥ 8 ∧ (s.time - since).toNat ≥ 100000000 then
      .next (({ s with rope := { s.rope with degraded := false } }).raise rRopeEvents (2 ^ 2)).anaChange
    else .next s := by
  show execRopeUndegrade s = _
  rw [execRopeUndegrade, h]
  rfl

theorem exec_ropeUndegrade_idle (h : s.rope.degraded = false ∨ popcount s.rope.lanes < 8) : exec .ropeUndegrade s = .next s := by
  cases hg : s.rope.goodSince with
  | none =>
    show execRopeUndegrade s = _
    rw [execRopeUndegrade, hg]
  | some since =>
    refine (exec_ropeUndegrade hg).trans (if_neg ?_)
    rintro ⟨hd, h8, -⟩
    rcases h with h | h
    · rw [h] at hd
      exact absurd hd (by decide)
    · omega

/-! ### Sessions (R317, R464) -/

/-- The sending direction goes on under the next session, and the receiving one awaits it (R317). -/
theorem rekeyTx_spec {tx rx : RopeKey} (h : s.sessionKeys (s.rope.linkRekeys + 1) = some (tx, rx)) :
    s.rekeyTx.rope.txKey = some tx ∧ s.rekeyTx.rope.rxKey = s.rope.rxKey ∧ s.rekeyTx.rope.rxNext = some rx ∧ s.rekeyTx.rope.txCount = 0 ∧
    s.rekeyTx.rope.unacked = [] ∧ s.rekeyTx.rope.sessionAt = s.time ∧ s.rekeyTx.rope.rekeys = s.rope.rekeys + 1 ∧
    s.rekeyTx.rope.linkRekeys = s.rope.linkRekeys + 1 := by
  have hsent : heardSide (s.sendControl 4 0 tx.session).rope = heardSide s.rope := (sendRope_onlyPosts _ _ _ _).rope
  have hrx := congrArg Rope.rxKey hsent
  unfold rekeyTx
  rw [h]
  dsimp only
  rw [ropeEvent, raise_rope]
  exact ⟨rfl, hrx, rfl, rfl, rfl, rfl, rfl, rfl⟩

theorem exec_sessionRekey_idle (ht : s.rope.txCount < 2 ^ 40) (hr : s.rope.rxCount < 2 ^ 40)
    (ha : (s.time - s.rope.sessionAt).toNat < 8640000000000) : exec .sessionRekey s = .next s :=
  if_neg (by omega)

theorem exec_sessionRekey {k : RopeKey} (hk : s.rope.txKey = some k)
    (h : 2 ^ 40 ≤ s.rope.txCount ∨ 2 ^ 40 ≤ s.rope.rxCount ∨ 8640000000000 ≤ (s.time - s.rope.sessionAt).toNat) :
    exec .sessionRekey s = .next (if s.wdn.trngOk then s.rekeyTx else s.yieldHead 7) :=
  if_pos ⟨by rw [hk]; rfl, h⟩

/-- The state of a link whose nonces and check values have crossed, before they are compared (R464). -/
def linkMet (s : State) (own a b : Bytes) : State :=
  let t := s.used.emit (.ropeNonce (s.freeBytes 32) own)
  { t with rope := { t.rope with
      linkUp := true, lanes := 0xFFFF - t.regBits 0xC0008 16 16, txKey := none, rxKey := none, rxNext := none, unacked := [], putOff := [],
      nonces := some (a, b), linkRekeys := 0, peerHb := 0, goodSince := some (t.rope.goodSince.getD s.time) } }

/-- Session 0 of a link begins (R464). -/
def linkStarted (t : State) (tx rx : RopeKey) : State :=
  { t with rope := { t.rope with
      txKey := some tx, rxKey := some rx, txCount := 0, rxCount := 0, sessionAt := t.time, rekeys := t.rope.rekeys + 1, missed := 0,
      hbNo := 0, hbSent := [] } }

section

variable {nonce check secret a b own : Bytes} {peerId : Nat} (ht : s.wdn.trngOk = true) (hsec : s.pairSecret = some secret)
  (hlen : nonce.length = 32) (hid : peerId ≠ s.headId)
  (hab : (a, b) = if s.headId = 0 then (s.freeBytes 32, nonce) else (nonce, s.freeBytes 32)) (hown : own = (hmac384 secret (a ++ b)).take 8)
include ht hsec hlen hid hab hown

theorem exec_ropeLinkHandshake : exec (.ropeLinkHandshake nonce check peerId) s =
    if check ≠ own then .next ((s.linkMet own a b).book 0x20 0x048 [])
    else match (s.linkMet own a b).sessionKeys 0 with
      | none => .next (s.linkMet own a b)
      | some (tx, rx) => .next ((s.linkMet own a b).linkStarted tx rx).releaseHeld := by
  have hpad : padTo 32 nonce = nonce := hlen ▸ padTo_length nonce
  have harea : s.areaKey 3 0 ≠ none := by
    intro h
    rw [pairSecret, h] at hsec
    exact absurd hsec (by simp)
  have hab' : (if s.used.headId = 0 then (s.freeBytes 32, padTo 32 nonce) else (padTo 32 nonce, s.freeBytes 32)) = (a, b) := by
    rw [hpad, hab]
    rfl
  have hown' : (hmac384 (s.used.pairSecret.getD []) (a ++ b)).take 8 = own := by
    rw [show s.used.pairSecret = s.pairSecret from rfl, hsec, hown]
    rfl
  show execRopeLinkHandshake nonce check peerId s = _
  unfold execRopeLinkHandshake
  rw [if_neg (by simp [ht])]
  dsimp only
  rw [hab']
  dsimp only
  rw [hown', if_neg (show peerId ≠ s.used.headId from hid)]
  by_cases hc : check = own
  · rw [if_neg (by simp [hc]; exact harea), if_neg (not_not.2 hc)]
    rfl
  · rw [if_pos (.inr hc), if_pos hc]
    rfl

theorem exec_ropeLinkHandshake_differs (hc : check ≠ own) : ∃ t, gives (.ropeLinkHandshake nonce check peerId) s t ∧ t.rope.linkUp = true ∧
    t.rope.txKey = none ∧ t.rope.rxKey = none :=
  ⟨_, (exec_ropeLinkHandshake ht hsec hlen hid hab hown).trans (if_pos hc), rfl, rfl, rfl⟩

theorem exec_ropeLinkHandshake_agrees (hc : check = own) : ∃ t tx rx, gives (.ropeLinkHandshake nonce check peerId) s t ∧
    t.rope.linkUp = true ∧ t.rope.lanes = 0xFFFF - s.regBits 0xC0008 16 16 ∧ t.sessionKeys 0 = some (tx, rx) ∧ t.rope.nonces = some (a, b) ∧
    t.rope.txKey = some tx ∧ t.rope.rxKey = some rx ∧ t.rope.rxCount = 0 ∧ t.rope.rekeys = s.rope.rekeys + 1 := by
  obtain ⟨tx, rx, hkeys⟩ : ∃ tx rx, (s.linkMet own a b).sessionKeys 0 = some (tx, rx) := by
    unfold sessionKeys
    rw [show (s.linkMet own a b).pairSecret = some secret from hsec]
    exact ⟨_, _, rfl⟩
  have hexec : exec (.ropeLinkHandshake nonce check peerId) s = .next ((s.linkMet own a b).linkStarted tx rx).releaseHeld := by
    rw [exec_ropeLinkHandshake ht hsec hlen hid hab hown, if_neg (not_not.2 hc), hkeys]
  obtain ⟨rp, hs, o, hrel, hrope⟩ := releaseHeld_onlyPosts ((s.linkMet own a b).linkStarted tx rx)
  have hnonces : rp.nonces = some (a, b) := congrArg Rope.nonces hrope
  have hkeys' : ((s.linkMet own a b).linkStarted tx rx).releaseHeld.sessionKeys 0 = some (tx, rx) := by
    rw [← hkeys, hrel]
    unfold sessionKeys
    dsimp only
    rw [hnonces]
    rfl
  refine ⟨_, tx, rx, hexec, ?_, ?_, hkeys', ?_, ?_, ?_, ?_, ?_⟩
  all_goals rw [hrel]
  · exact congrArg Rope.linkUp hrope
  · exact congrArg Rope.lanes hrope
  · exact hnonces
  · exact congrArg Rope.txKey hrope
  · exact congrArg Rope.rxKey hrope
  · exact congrArg Rope.rxCount hrope
  · exact congrArg Rope.rekeys hrope

end

/-! ### TIME (R320, R321) -/

theorem exec_timeResp {u : State} {f d : Bytes} {off ns : Int} (h : s.recvRope 3 f = (some d, u)) (hns : ns = off * 5 / 8)
    (hoff : off = (((fieldAt d 8 8 : Int) - (fieldAt d 0 8 : Int)) - ((u.stampT : Int) - (fieldAt d 16 8 : Int))) / 2) :
    exec (.timeResp f) s = .next (
      let ok := decide (-100 ≤ ns ∧ ns ≤ 100)
      let r := { u.rope with offset := BitVec.ofInt 32 ns, exchangeAt := u.time }
      if u.pwr.mode = 4 ∧ u.rope.timeSynced = false then
        if off ≥ 0 then { u with rope := { r with timeSynced := true, holdTime := false }, time := u.time + BitVec.ofNat 64 (off / 16).toNat }
        else if -off / 16 ≤ 1000000 then { u with rope := { r with holdTime := !ok, timeSynced := ok } }
        else ({ u with rope := r }).book 0x20 0x047 []
      else
        let m := u.pick 51201
        let t := { u.used with rope := { r with slew := if off ≥ 0 then BitVec.ofNat 32 m else -(BitVec.ofNat 32 m), timeSynced := ok } }
        if ok then t else t.raise rRopeEvents (2 ^ 6)) := by
  subst hns hoff
  exact congrArg _ (withFrame_some h _)

/-- A serving head slews by at most 200 ppm toward the master's TIME. -/
theorem exec_timeResp_slews {u : State} {f d : Bytes} {off ns : Int} (h : s.recvRope 3 f = (some d, u)) (hns : ns = off * 5 / 8)
    (hoff : off = (((fieldAt d 8 8 : Int) - (fieldAt d 0 8 : Int)) - ((u.stampT : Int) - (fieldAt d 16 8 : Int))) / 2)
    (hmode : u.pwr.mode ≠ 4 ∨ u.rope.timeSynced = true) : ∃ t, gives (.timeResp f) s t ∧ t.time = u.time ∧
      t.rope.offset = BitVec.ofInt 32 ns ∧ t.rope.exchangeAt = u.time ∧ t.rope.timeSynced = decide (-100 ≤ ns ∧ ns ≤ 100) ∧
      (0 ≤ off → t.rope.slew.toNat ≤ 51200) ∧ (off < 0 → (-t.rope.slew).toNat ≤ 51200) := by
  have hpick : (BitVec.ofNat 32 (u.pick 51201)).toNat ≤ 51200 := by
    have hlt : u.pick 51201 < 51201 := Nat.mod_lt _ (by decide)
    rw [BitVec.toNat_ofNat]
    omega
  have hno : ¬ (u.pwr.mode = 4 ∧ u.rope.timeSynced = false) := by
    rintro ⟨h4, hsync⟩
    rcases hmode with hmode | hmode
    · exact hmode h4
    · exact absurd (hmode.symm.trans hsync) (by decide)
  have hslew (x : BitVec 32) (hx : x = if off ≥ 0 then BitVec.ofNat 32 (u.pick 51201) else -BitVec.ofNat 32 (u.pick 51201)) :
      (0 ≤ off → x.toNat ≤ 51200) ∧ (off < 0 → (-x).toNat ≤ 51200) := by
    refine ⟨fun h0 => ?_, fun h0 => ?_⟩
    · rw [hx, if_pos h0]
      exact hpick
    · rw [hx, if_neg (by omega), neg_neg]
      exact hpick
  have hexec := (exec_timeResp h hns hoff).trans (congrArg _ (if_neg hno))
  by_cases hok : -100 ≤ ns ∧ ns ≤ 100
  · refine ⟨_, hexec.trans (congrArg _ (if_pos (decide_eq_true hok))), rfl, rfl, rfl, rfl, hslew _ rfl⟩
  · refine ⟨_, hexec.trans (congrArg _ (if_neg (by rw [decide_eq_true_iff]; exact hok))), ?_⟩
    rw [raise_time, raise_rope]
    exact ⟨rfl, rfl, rfl, rfl, hslew _ rfl⟩

/-- A joining head behind the master steps TIME; one ahead of it holds TIME; one too far ahead only reports. -/
theorem exec_timeResp_joins {u : State} {f d : Bytes} {off ns : Int} (h : s.recvRope 3 f = (some d, u)) (hns : ns = off * 5 / 8)
    (hoff : off = (((fieldAt d 8 8 : Int) - (fieldAt d 0 8 : Int)) - ((u.stampT : Int) - (fieldAt d 16 8 : Int))) / 2)
    (hmode : u.pwr.mode = 4) (hsync : u.rope.timeSynced = false) :
    (0 ≤ off → ∃ t, gives (.timeResp f) s t ∧ t.time = u.time + BitVec.ofNat 64 (off / 16).toNat ∧ t.rope.timeSynced = true ∧ t.rope.holdTime = false) ∧
    (off < 0 → -off / 16 ≤ 1000000 → ∃ t, gives (.timeResp f) s t ∧ t.time = u.time ∧ t.rope.holdTime = !decide (-100 ≤ ns)) ∧
    (1000000 < -off / 16 → ∃ t v, gives (.timeResp f) s t ∧ v = { u with rope := { u.rope with
        offset := BitVec.ofInt 32 ns, exchangeAt := u.time } } ∧ t = (v : State).book 0x20 0x047 []) := by
  have hexec := (exec_timeResp h hns hoff).trans (congrArg _ (if_pos ⟨hmode, hsync⟩))
  refine ⟨fun h0 => ⟨_, hexec.trans (congrArg _ (if_pos h0)), rfl, rfl, rfl⟩, fun h0 hfar => ?_, fun hfar => ?_⟩
  · have hns0 : decide (-100 ≤ ns ∧ ns ≤ 100) = decide (-100 ≤ ns) := decide_eq_decide.2 (by omega)
    exact ⟨_, hexec.trans (congrArg _ ((if_neg (by omega)).trans (if_pos hfar))), rfl, congrArg (! ·) hns0⟩
  · exact ⟨_, _, hexec.trans (congrArg _ ((if_neg (by omega)).trans (if_neg (by omega)))), rfl, rfl⟩

theorem masterBy_eq (s : State) (m : Nat) : (s.pwr.mode ∈ [5, 6, 7] → ¬ m ∈ [5, 6, 7] → s.masterBy m = true) ∧
    (¬ s.pwr.mode ∈ [5, 6, 7] → m ∈ [5, 6, 7] → s.masterBy m = false) ∧
    (¬ s.pwr.mode ∈ [5, 6, 7] → ¬ m ∈ [5, 6, 7] → s.masterBy m = decide (s.headId = 0)) := by
  unfold masterBy
  refine ⟨fun hs hm => ?_, fun hs hm => ?_, fun hs hm => ?_⟩
  · rw [decide_eq_true hs, decide_eq_false hm]
  · rw [decide_eq_false hs, decide_eq_true hm]
  · rw [decide_eq_false hs, decide_eq_false hm]

/-! ### Frames received (R314 to R320) -/

section

variable {i : Instr} {typ : Nat} {f : Bytes} {cap : Capsule} (hi : (i, typ) ∈ frameCommands f cap)
include hi

/-- How a frame whose framing is right is received, by the key, the tag and the COUNTER. -/
theorem exec_frame (hlen : f.length = 40 + fieldAt f 4 4) (hmark : fieldAt f 0 2 = 0x9E17) (htyp : fieldAt f 2 1 = typ)
    (hmax : fieldAt f 4 4 ≤ 16384) : (s.rope.rxKey = none → gives i s s) ∧
      (∀ k, s.rope.rxKey = some k → frameOk k f = false → s.rope.rxNext = none →
        gives i s (({ s with rope := { s.rope with badAuth := s.rope.badAuth + 1 } }).raise rRopeEvents (2 ^ 4))) ∧
      (∀ k, s.rope.rxKey = some k → frameOk k f = true → fieldAt f 8 8 ≠ s.rope.rxCount + 1 → gives i s s) ∧
      (∀ k, s.rope.rxKey = some k → frameOk k f = true → fieldAt f 8 8 = s.rope.rxCount + 1 →
        ∃ u, s.recvRope typ f = (some (gcmCrypt k.key (leBytes 4 k.session ++ leBytes 8 (s.rope.rxCount + 1)) ((f.drop 24).take (fieldAt f 4 4))), u) ∧
          u.rope.rxCount = s.rope.rxCount + 1 ∧
          (s.rope.putOff = [] → fieldAt f 0x10 8 ≤ s.rope.txCount → u.rope.unacked = s.rope.unacked.filter (fun p => decide (fieldAt f 0x10 8 < p.1))) ∧
          (s.rope.putOff = [] → s.rope.txCount < fieldAt f 0x10 8 → u.rope.unacked = s.rope.unacked)) := by
  obtain ⟨h1, h10⟩ := frameCommands_typ hi
  refine ⟨fun hk => exec_frame_none hi (recvRope_noKey hlen hmark htyp h1 h10 hmax hk),
    fun k hk hbad hn => exec_frame_none hi (recvRope_badTag hlen hmark htyp h1 h10 hmax hk hbad hn),
    fun k hk hok hc => exec_frame_none hi (recvRope_outOfOrder hlen hmark htyp h1 h10 hmax hk hok hc),
    fun k hk hok hc => ⟨_, recvRope_accepted hlen hmark htyp h1 h10 hmax hk hok hc, acceptFrame_rxCount s f, fun hp ha => ?_, fun hp ha => ?_⟩⟩
  · exact (acceptFrame_unacked hp f).trans (if_pos ha)
  · exact (acceptFrame_unacked hp f).trans (if_neg (by omega))

end

section

variable {u : State} {f d : Bytes}

/-- What a heartbeat tells of the peer, and what it does to the rope lease. -/
theorem exec_heartbeat (h : s.recvRope 1 f = (some d, u)) : ∃ t, gives (.heartbeat f) s t ∧
    t.rope.peerHb = fieldAt d 0 8 ∧ t.rope.master = (if u.rope.peerHb = 0 then u.masterBy (fieldAt d 0x18 1) else u.rope.master) ∧
    t.rope.missed = 0 ∧ t.rope.suspect = false ∧ t.rope.peerMode = fieldAt d 0x18 1 ∧
    t.rope.peerOwned = fieldAt d 0x1A 2 ∧ t.rope.peerShadowed = fieldAt d 0x1C 2 ∧
    (∀ at', u.rope.hbSent.find? (fun p => decide (p.1 = fieldAt d 8 8)) = some (fieldAt d 8 8, at') → u.rope.leaseTo.toNat < (at' + 1000).toNat →
      t.rope.leaseTo = at' + 1000) ∧
    (u.rope.hbSent.find? (fun p => decide (p.1 = fieldAt d 8 8)) = none → t.rope.leaseTo = u.rope.leaseTo) := by
  have hr := heard_rope u d
  have hlease := congrArg Rope.leaseTo hr
  refine ⟨u.heard d, congrArg _ (withFrame_some h _), congrArg Rope.peerHb hr, congrArg Rope.master hr, congrArg Rope.missed hr,
    congrArg Rope.suspect hr, congrArg Rope.peerMode hr, congrArg Rope.peerOwned hr, congrArg Rope.peerShadowed hr, fun at' hf hl => ?_, fun hf => ?_⟩
  · exact hlease.trans (hbTaken_leaseTo hf hl)
  · exact hlease.trans (hbTaken_leaseTo_none hf)

/-- A REKEY of the session in use is an answer; one of another makes this head go on too. -/
theorem exec_rekey {k : RopeKey} (h : s.recvRope 9 f = (some d, u)) : (fieldAt d 0 1 ≠ 4 → gives (.rekey f) s s) ∧
    (fieldAt d 0 1 = 4 → u.rope.txKey = some k → (k.session = fieldAt d 8 8 → gives (.rekey f) s u) ∧
      (k.session ≠ fieldAt d 8 8 → gives (.rekey f) s u.rekeyTx)) := by
  refine ⟨fun hop => congrArg _ (withControl_other h hop _), fun hop hk => ?_⟩
  have hexec : exec (.rekey f) s = .next (match u.rope.txKey with
      | some k => if k.session = fieldAt d 8 8 then u else u.rekeyTx
      | none => u) := congrArg _ (withControl_op h hop _)
  rw [hk] at hexec
  exact ⟨fun hses => hexec.trans (congrArg _ (if_pos hses)), fun hses => hexec.trans (congrArg _ (if_neg hses))⟩

end

theorem exec_missedHeartbeat (s : State) : exec .missedHeartbeat s =
    let u := { s with rope := { s.rope with
      missed := s.rope.missed + 1, hbMissed := s.rope.hbMissed + 1, suspect := s.rope.suspect || decide (3 ≤ s.rope.missed) } }
    .next (if s.rope.missed = 3 then u.raise rRopeEvents (2 ^ 3) else u) := by
  have h4 : decide (s.rope.missed + 1 ≥ 4) = decide (3 ≤ s.rope.missed) := decide_eq_decide.2 (by omega)
  show execMissedHeartbeat s = _
  unfold execMissedHeartbeat
  dsimp only
  rw [h4]
  by_cases h3 : s.rope.missed = 3
  · rw [if_pos h3, if_pos (by omega)]
    rfl
  · rw [if_neg h3, if_neg (by omega)]

end State

/-- Settles O40: the rules of a frame's reception and of the sending side, and each command's own cases. -/
theorem ropeFramesLeasesAndTime : Obligations.RopeFramesLeasesAndTime := by
  unfold Obligations.RopeFramesLeasesAndTime
  refine ⟨fun s i typ f cap hi => ⟨fun hbad => exec_frame_none hi (recvRope_badFormat hbad), exec_frame hi⟩,
    fun s k typ d hk h => sendRope_putOff hk h typ, fun s u f d h => exec_heartbeat h, fun s m => masterBy_eq s m,
    fun s k hk => exec_heartbeatSend hk, fun s hk => exec_heartbeatSend_none hk, ?missed, ?leases, ?leaseLost, ?again, ?lanes, ?undegrade, ?session,
    fun s u f d k h => exec_rekey h, ?handshake, ?timeReq, ?timeReqSend, ?timeResp, ?timeUnsync⟩
  case missed =>
    rintro s u rfl
    exact exec_missedHeartbeat s
  case leases =>
    intro s hr hc
    refine ⟨fun hheld => (exec_leaseExpiry_noted hr hc).trans (if_pos hheld), fun h h' hmode hlong => ?_⟩
    exact (exec_leaseExpiry_noted hr hc).trans ((if_neg (by rw [h, h']; decide)).trans (if_pos ⟨hmode, hlong⟩))
  case leaseLost =>
    intro s hr hc h h'
    exact ⟨_, exec_leaseExpiry_rope hr hc h h', rfl, rfl, freezeSqhd_held _⟩
  case again =>
    intro s
    refine ⟨fun h => if_pos ?_, fun h h' => exec_ropeRetransmit h h'⟩
    rw [List.isEmpty_iff]
    exact h
  case lanes =>
    intro s l hl
    refine ⟨fun h => exec_laneDown_down h, fun h => exec_laneUp_up (.inl h), fun h h8 => exec_laneDown_wide hl h h8,
      fun h h8 hm hd => exec_laneDown_degrades hl h h8 hm hd, fun _ h => exec_laneUp_up (.inr h), fun h h' => ⟨_, exec_laneUp hl h h', rfl, fun hg => ?_, fun h8 hg => ?_⟩⟩
    · refine if_neg ?_
      rintro ⟨h8, hnone⟩
      rcases hg with hg | hg
      · omega
      · exact hg (Option.isNone_iff_eq_none.1 hnone)
    · exact if_pos ⟨h8, Option.isNone_iff_eq_none.2 hg⟩
  case undegrade =>
    intro s
    refine ⟨fun h => exec_ropeUndegrade_idle h, fun since hg hd h8 => ⟨fun h => ?_, fun h => ?_⟩⟩
    · exact (exec_ropeUndegrade hg).trans (if_neg (by omega))
    · exact (exec_ropeUndegrade hg).trans (if_pos ⟨hd, h8, h⟩)
  case session =>
    intro s
    refine ⟨fun ht hr ha => exec_sessionRekey_idle ht hr ha, fun k tx rx hk hkeys h => ⟨fun htr => ?_, fun htr => ⟨_, ?_, rekeyTx_spec hkeys⟩⟩⟩
    · rw [gives, exec_sessionRekey hk h, htr]
      rfl
    · rw [gives, exec_sessionRekey hk h, htr]
      rfl
  case handshake =>
    intro s nonce check secret a b own peerId
    refine ⟨fun ht => if_pos (by simp [ht]), fun ht hsec hlen hid hab hown => ⟨fun hc => ?_, fun hc => ?_⟩⟩
    · exact exec_ropeLinkHandshake_differs ht hsec hlen hid hab hown hc
    · exact exec_ropeLinkHandshake_agrees ht hsec hlen hid hab hown hc
  case timeReq =>
    intro s u f d h
    have hexec : exec (.timeReq f) s = .next (if u.rope.master then u.sendRope 3 false
        (leBytes 8 (fieldAt d 0 8) ++ leBytes 8 u.stampT ++ leBytes 8 u.stampT) else u) := congrArg _ (withFrame_some h _)
    exact ⟨fun hm => hexec.trans (congrArg _ (if_neg (by simp [hm]))), fun hm => hexec.trans (congrArg _ (if_pos hm))⟩
  case timeReqSend =>
    intro s
    exact ⟨fun hm => if_pos hm, fun hm => if_neg (by simp [hm])⟩
  case timeResp =>
    intro s u f d off ns h hns hoff
    exact ⟨fun hmode => exec_timeResp_slews h hns hoff hmode, fun hmode hsync => exec_timeResp_joins h hns hoff hmode hsync⟩
  case timeUnsync =>
    intro s
    refine ⟨fun hs hm ht => if_pos ⟨hs, hm, ht⟩, fun h => if_neg ?_⟩
    rintro ⟨hs, hm, ht⟩
    rcases h with h | h | h
    · exact absurd (hs.symm.trans h) (by decide)
    · exact absurd (hm.symm.trans h) (by decide)
    · omega

end Sys2Proof.Machine
end

section
/-! Messages of the Cairn, votes and yields (part of O42). -/

open Sys2Proof Sys2Proof.Machine Sys2Proof.Machine.State

namespace Sys2Proof.Machine.State

/-! ### How a message is received (R325, R326) -/

/-- The commands of a received message, with its TYPE (R327). -/
def cairnCommands (m : Bytes) : List (Instr × Nat) := [(.cairnHealth m, 4), (.voteGrant m, 2)]

/-- A message that is not accepted does nothing more. -/
theorem exec_cairn_none {s u : State} {i : Instr} {typ : Nat} {m : Bytes} (hi : (i, typ) ∈ cairnCommands m)
    (h : s.recvCairn typ m = (none, u)) : exec i s = .next u := by
  simp only [cairnCommands, List.mem_cons, List.not_mem_nil, or_false, Prod.mk.injEq] at hi
  rcases hi with ⟨rfl, rfl⟩ | ⟨rfl, rfl⟩
  · show execCairnHealth m s = _
    rw [execCairnHealth, h]
  · show execVoteGrant m s = _
    rw [execVoteGrant, h]

section

variable {s : State} {typ : Nat} {m k : Bytes}

theorem recvCairn_badLength (h : m.length < 32 ∨ m.length ≠ 32 + fieldAt m 2 2) : s.recvCairn typ m = (none, s.raise rCrnEvents (2 ^ 5)) := if_pos h

variable (hshort : 32 ≤ m.length) (hlen : m.length = 32 + fieldAt m 2 2)
include hshort hlen

theorem recvCairn_badCrc (h : fieldAt m (28 + fieldAt m 2 2) 4 ≠ crc32c (m.take (28 + fieldAt m 2 2))) :
    s.recvCairn typ m = (none, s.raise rCrnEvents (2 ^ 4)) :=
  (if_neg (by omega)).trans (if_pos h)

variable (hcrc : fieldAt m (28 + fieldAt m 2 2) 4 = crc32c (m.take (28 + fieldAt m 2 2)))
include hcrc

theorem recvCairn_noKey (hk : s.areaKey 4 0 = none) : s.recvCairn typ m = (none, s) := by
  unfold recvCairn
  dsimp only
  rw [if_neg (by omega), if_neg (not_not.2 hcrc), hk]

variable (hk : s.areaKey 4 0 = some k)
include hk

theorem recvCairn_badMac (h : (hmac256 k (m.take (12 + fieldAt m 2 2))).take 16 ≠ sliceAt m (12 + fieldAt m 2 2) 16) :
    s.recvCairn typ m = (none, s.raise rCrnEvents (2 ^ 3)) := by
  unfold recvCairn
  dsimp only
  rw [if_neg (by omega), if_neg (not_not.2 hcrc), hk]
  exact if_pos h

variable (hmac : (hmac256 k (m.take (12 + fieldAt m 2 2))).take 16 = sliceAt m (12 + fieldAt m 2 2) 16) (htyp : fieldAt m 0 1 = typ)
  (hfrom : fieldAt m 1 1 = 0x0F) (hinc : fieldAt m 4 8 / 2 ^ 48 = s.crn.inc) (hheard : s.crn.inc ≠ 0)
include hmac htyp hfrom hinc hheard

/-- Of the INCARNATION in force a message is accepted whose COUNT is above every one before. -/
theorem recvCairn_inc : s.recvCairn typ m =
    let t := if typ = 4 then { s with crn := { s.crn with echo := fieldAt m 4 8 } } else s
    if s.crn.seen < fieldAt m 4 8 % 2 ^ 48 then
      (some ((m.drop 12).take (fieldAt m 2 2), fieldAt m 4 8), { t with crn := { t.crn with
        inc := fieldAt m 4 8 / 2 ^ 48, seen := fieldAt m 4 8 % 2 ^ 48, msgAccepted := t.crn.msgAccepted + 1, linkUp := true } })
    else (none, t.raise rCrnEvents (2 ^ 7)) := by
  unfold recvCairn
  dsimp only
  rw [if_neg (by omega), if_neg (not_not.2 hcrc), hk]
  dsimp only
  rw [if_neg (not_not.2 hmac), if_neg (by rw [htyp, hfrom]; simp), if_pos (And.intro hinc hheard)]
  simp only [decide_eq_true_eq, gt_iff_lt]
  rfl

theorem recvCairn_accepted (h : s.crn.seen < fieldAt m 4 8 % 2 ^ 48) :
    ∃ u, s.recvCairn typ m = (some ((m.drop 12).take (fieldAt m 2 2), fieldAt m 4 8), u) ∧ u.crn.seen = fieldAt m 4 8 % 2 ^ 48 ∧
      u.crn.msgAccepted = s.crn.msgAccepted + 1 ∧ u.crn.linkUp = true := by
  refine ⟨_, (recvCairn_inc hshort hlen hcrc hk hmac htyp hfrom hinc hheard).trans (if_pos h), rfl, ?_, rfl⟩
  dsimp only
  split <;> rfl

theorem recvCairn_replayed (h : fieldAt m 4 8 % 2 ^ 48 ≤ s.crn.seen) : s.recvCairn typ m =
    (none, ({ s with crn := { s.crn with echo := if typ = 4 then fieldAt m 4 8 else s.crn.echo } } : State).raise rCrnEvents (2 ^ 7)) := by
  refine (recvCairn_inc hshort hlen hcrc hk hmac htyp hfrom hinc hheard).trans ((if_neg (by omega)).trans ?_)
  split <;> rfl

end

/-! ### HEALTH (R318, R326, R327) -/

section

variable {s : State}

/-- The lease, the peer and the pools that an accepted HEALTH gives. -/
theorem exec_cairnHealth {u : State} {m d : Bytes} {q : Nat} (h : s.recvCairn 4 m = (some (d, q), u)) : ∃ t, gives (.cairnHealth m) s t ∧
    t.crn.peerAlive = bit (fieldAt d 1 1) 0 ∧ t.crn.owned = fieldAt d 2 2 ∧ t.crn.term = maxTerm u.crn.term (fieldAt d 16 8) ∧
    (∀ since, u.crn.sent.find? (fun p => decide (p.1 = fieldAt d 8 8)) = some (fieldAt d 8 8, since) → u.crn.leaseTo.toNat < (since + 1200).toNat →
      t.crn.leaseTo = since + 1200) := by
  have hexec : exec (.cairnHealth m) s = execCairnHealth m s := rfl
  rw [execCairnHealth, h] at hexec
  have hcrn (t : State) : t.releaseHeld.crn = t.crn := (releaseHeld_onlyPosts t).crn
  refine ⟨_, hexec, congrArg Crn.peerAlive (hcrn _), congrArg Crn.owned (hcrn _), congrArg Crn.term (hcrn _), fun since hf hl => ?_⟩
  refine (congrArg Crn.leaseTo (hcrn _)).trans ?_
  dsimp only
  rw [hf]
  exact if_pos hl

theorem sendCairn_sent {k : Bytes} (hk : s.areaKey 4 0 = some k) (h0 : s.pwr.mode ≠ 0) (h2 : s.pwr.mode ≠ 2) (typ : Nat) (d : Bytes) :
    s.sendCairn typ d = ({ s with crn := { s.crn with
      count := s.crn.count + 1, msgSent := s.crn.msgSent + 1,
      others := s.crn.others.filter (fun p => decide ((s.time - p.2).toNat ≤ 100000)) ++ (if typ = 4 then [] else [(s.nextMseq, s.time)]) } } : State).emit
        (.cairn (cairnMsg k typ s.headId s.nextMseq d)) := by
  unfold sendCairn
  rw [hk]
  exact if_neg (by omega)

/-- This head's INCARNATION: drawn before its first message (R326). -/
def incDrawn (s : State) : State :=
  if s.crn.ownInc = 0 then { s.used with crn := { s.crn with ownInc := s.pick 65535 + 1 } } else s

theorem incDrawn_spec (s : State) : ∃ n i, s.incDrawn = { s with freeCtr := n, crn := { s.crn with ownInc := i } } ∧ i ≠ 0 ∧
    (s.crn.ownInc ≠ 0 → i = s.crn.ownInc) := by
  unfold incDrawn
  by_cases h : s.crn.ownInc = 0
  · exact ⟨s.freeCtr + 1, s.pick 65535 + 1, if_pos h, by omega, fun h0 => absurd h h0⟩
  · exact ⟨s.freeCtr, s.crn.ownInc, if_neg h, h, fun _ => rfl⟩

theorem exec_cairnHealthSend (hkey : (s.areaKey 4 0).isSome = true) (h0 : s.pwr.mode ≠ 0) (h2 : s.pwr.mode ≠ 2) :
    ∃ t m, gives .cairnHealthSend s t ∧ t.crn.ownInc ≠ 0 ∧ (s.crn.ownInc ≠ 0 → t.crn.ownInc = s.crn.ownInc) ∧
      t.crn.count = s.crn.count + 1 ∧ t.crn.msgSent = s.crn.msgSent + 1 ∧ t.out = s.out ++ [.cairn m] ∧
      ((s.crn.count + 1) % 2 ^ 48 + t.crn.ownInc * 2 ^ 48, s.time) ∈ t.crn.sent := by
  obtain ⟨k, hk⟩ := Option.isSome_iff_exists.1 hkey
  obtain ⟨n, i, hdrawn, hi, hkeep⟩ := incDrawn_spec s
  have hexec : exec .cairnHealthSend s =
      let v := s.incDrawn.sendCairn 4 (leBytes 1 s.pwr.mode ++ leBytes 1 (b2n s.ropeLease + 2 * b2n s.rope.suspect + 4 * b2n s.pair.yielded)
        ++ leBytes 2 s.ownedMask ++ zeros 4 ++ leBytes 8 s.crn.echo ++ leBytes 8 s.crn.term.toNat ++ leBytes 8 s.time.toNat)
      if v.crn.count = s.incDrawn.crn.count then .next v
      else .next { v with crn := { v.crn with
        sent := v.crn.sent.filter (fun p => decide ((s.time - p.2).toNat ≤ 100000)) ++ [(s.incDrawn.nextMseq, s.time)] } } := rfl
  have hk' : s.incDrawn.areaKey 4 0 = some k := by rw [hdrawn]; exact hk
  have hmode : s.incDrawn.pwr = s.pwr := by rw [hdrawn]
  rw [sendCairn_sent hk' (by rw [hmode]; exact h0) (by rw [hmode]; exact h2), hdrawn] at hexec
  refine ⟨_, _, hexec.trans (if_neg (Nat.succ_ne_self _)), hi, hkeep, rfl, rfl, rfl, ?_⟩
  exact List.mem_append_right _ (List.mem_singleton.2 rfl)

end

end Sys2Proof.Machine.State
end

section
/-! Votes, yields and takeover (part of O42). -/

open Sys2Proof Sys2Proof.Machine Sys2Proof.Machine.State

namespace Sys2Proof.Machine.State

/-! ### Pools beside one that is changed -/

theorem pool_setPool_other (s : State) {p q : Nat} (h : q ≠ p) (x : Pool) : (s.setPool p x).pool q = s.pool q := by
  unfold pool setPool Tbl.getD
  rw [Tbl.find_set_other _ _ h]

theorem updPool_unlisted {s : State} {p : Nat} (h : Tbl.find s.pools p = none) (f : Pool → Pool) : s.updPool p f = s := by
  unfold updPool Tbl.upd
  rw [h]

theorem pool_updPool_other (s : State) {p q : Nat} (h : q ≠ p) (f : Pool → Pool) : (s.updPool p f).pool q = s.pool q := by
  cases hf : Tbl.find s.pools p with
  | none => rw [updPool_unlisted hf]
  | some x => rw [updPool_eq_setPool (by rw [hf]; rfl), pool_setPool_other _ h]

/-- A field that a change leaves alone is the same in every pool. -/
theorem pool_updPool_keeps {s : State} {α : Type} (p q : Nat) (f : Pool → Pool) (π : Pool → α) (h : ∀ x, π (f x) = π x)
    (hn : ∀ x n, π { x with num := n } = π x) : π ((s.updPool p f).pool q) = π (s.pool q) := by
  by_cases hq : q = p
  · rw [hq]
    exact pool_updPool_field f π h hn
  · rw [pool_updPool_other s hq]

/-! ### The peer is gone (R331) -/

/-- Beside what the ends of jobs change, nothing differs. -/
def onlyEnds (s t : State) : Prop :=
  t = { s with jobs := t.jobs, digs := t.digs, climbs := t.climbs, stamp := t.stamp, keySlots := t.keySlots, keyEnding := t.keyEnding }

theorem onlyEnds.trans {s t u : State} (h : onlyEnds s t) (g : onlyEnds t u) : onlyEnds s u := by
  unfold onlyEnds at h g ⊢
  rw [h] at g
  exact g

theorem onlyEnds.foldl {α : Type} {f : State → α → State} (hf : ∀ s a, onlyEnds s (f s a)) (l : List α) (s : State) : onlyEnds s (l.foldl f s) :=
  List.foldlRecOn (motive := fun t : State => onlyEnds s t) l f rfl fun _ h a _ => h.trans (hf _ a)

theorem ropeJobsDone_onlyEnds (s : State) (p : Nat) : onlyEnds s (s.ropeJobsDone p) := by
  refine .foldl (fun t j => ?_) _ s
  split
  · exact (finish_onlyJob t _ _ _ _).1
  · exact rfl

/-- The peer's part of this head's own pools ends (R331). -/
def peerGone (x : Pool) : Pool := { x with sentSeqs := [], relays := [] }

/-- `t` is `s` in its Cairn port, in its pair but for SOLO, and in the modules of each pool. -/
def soloOf (s t : State) : Prop :=
  t.crn = s.crn ∧ t.pair = { s.pair with solo := true, peerCaught := 0, joining := false } ∧ ∀ p, (t.pool p).mods = (s.pool p).mods

theorem goSolo_soloOf (s : State) : soloOf s s.goSolo := by
  obtain ⟨hcrn, hpair, hmods⟩ : soloOf s (s.pools.foldl (fun t q => t.updPool q.1 peerGone)
      { s with pair := { s.pair with solo := true, peerCaught := 0, joining := false } }) :=
    List.foldlRecOn (motive := fun t : State => soloOf s t) _ _ ⟨rfl, rfl, fun _ => rfl⟩ fun t ⟨hcrn, hpair, hmods⟩ q _ =>
      ⟨hcrn, hpair, fun p => (pool_updPool_keeps q.1 p peerGone Pool.mods (fun _ => rfl) (fun _ _ => rfl)).trans (hmods p)⟩
  have hends : onlyEnds (s.pools.foldl (fun t q => t.updPool q.1 peerGone)
      { s with pair := { s.pair with solo := true, peerCaught := 0, joining := false } }) s.goSolo :=
    .foldl (fun t (q : Nat × Pool) => ropeJobsDone_onlyEnds t q.1) _ _
  refine ⟨(congrArg State.crn hends).trans hcrn, (congrArg State.pair hends).trans hpair, fun p => ?_⟩
  exact (congrArg Pool.mods (pool_of_pools (congrArg State.pools hends) p)).trans (hmods p)

/-! ### The Cairn's answer (R330 to R332) -/

/-- A message that is accepted changes the Cairn port alone. -/
theorem recvCairn_frame {s u : State} {typ : Nat} {m : Bytes} {r : Bytes × Nat} (h : s.recvCairn typ m = (some r, u)) :
    ∃ c, u = { s with crn := c } := by
  unfold recvCairn at h
  dsimp only at h
  split at h
  · cases h
  · split at h
    · cases h
    · split at h
      · cases h
      · split at h
        · cases h
        · have hs : ∃ c, (if typ = 4 then { s with crn := { s.crn with echo := fieldAt m 4 8 } } else s) = { s with crn := c } := by
            split <;> exact ⟨_, rfl⟩
          obtain ⟨c, hs⟩ := hs
          rw [hs] at h
          split at h
          · cases h
          · split at h
            all_goals
              split at h
              · cases h
                exact ⟨_, rfl⟩
              · cases h

section

variable {s u w : State} {m d : Bytes} {q granted : Nat} {v : Vote} (h : s.recvCairn 2 m = (some (d, q), u))
  (hw : w = { u with crn := { u.crn with term := maxTerm u.crn.term (fieldAt d 0 8) } })
include h hw

/-- An answer to no request of this head, or to the other head, gives its term alone. -/
theorem exec_voteGrant_other (hno : (∀ v ∈ u.crn.votes, v.mseq ≠ fieldAt d 16 8) ∨ fieldAt d 8 1 ≠ s.headId) :
    exec (.voteGrant m) s = .next w := by
  have hid : u.headId = s.headId := by
    obtain ⟨c, rfl⟩ := recvCairn_frame h
    rfl
  have hexec : exec (.voteGrant m) s = execVoteGrant m s := rfl
  rw [execVoteGrant, h] at hexec
  refine hexec.trans ?_
  dsimp only
  rcases hno with hno | hno
  · rw [List.find?_eq_none.2 fun v hv => by simp [hno v hv], hw]
  · split
    · rw [hw]
    · exact (if_pos (show fieldAt d 8 1 ≠ u.headId from hid ▸ hno)).trans (by rw [hw])

variable (hf : u.crn.votes.find? (fun v => decide (v.mseq = fieldAt d 16 8)) = some v) (hid : fieldAt d 8 1 = s.headId)
include hf hid

/-- The state once an answer has ended its request. -/
def answered (w : State) (v : Vote) : State :=
  { w with crn := { w.crn with votes := w.crn.votes.filter (fun x => decide (x.mseq ≠ v.mseq)), retry := none } }

theorem exec_voteGrant : exec (.voteGrant m) s =
    if fieldAt d 9 1 = 0 ∧ fieldAt d 10 2 ≠ 0 then
      let a := (w.answered v).raise rCrnEvents (2 ^ 0)
      let b := if v.reason ≤ 1 then a.goSolo else a
      .next { b with pair := { b.pair with fence := some {
        pools := fieldAt d 10 2, term := BitVec.ofNat 64 (fieldAt d 0 8), reason := v.reason,
        left := ((List.range 16).flatMap (fun p => if bit (fieldAt d 10 2) p then (b.pool p).mods else [])).eraseDups,
        fenced := 0, missing := 0, since := w.time } } }
    else
      let a := ((w.answered v).raise rCrnEvents (2 ^ 1)).pairEvent v.pools v.reason
      .next (({ a with
        crn := { a.crn with retry := if fieldAt d 9 1 = 1 ∧ v.reason ≤ 1 then some (v, w.time) else none },
        pair := { a.pair with holdPools := a.pair.holdPools &&& (0xFFFF - v.pools % 2 ^ 16),
                              moves := a.pair.moves.filter (fun x => !(decide (x.2 = 1) && bit v.pools x.1)) } } : State).settleMode.releaseHeld) := by
  have hid' : fieldAt d 8 1 = u.headId := by
    obtain ⟨c, rfl⟩ := recvCairn_frame h
    exact hid
  have hexec : exec (.voteGrant m) s = execVoteGrant m s := rfl
  rw [execVoteGrant, h] at hexec
  refine hexec.trans ?_
  dsimp only
  rw [hf, hw]
  exact if_neg (not_not.2 hid')

/-- Granted pools are fenced. -/
theorem exec_voteGrant_granted (hr : fieldAt d 9 1 = 0) (hg : granted = fieldAt d 10 2) (h0 : granted ≠ 0) : ∃ t, gives (.voteGrant m) s t ∧
    t.crn.votes = u.crn.votes.filter (fun x => decide (x.mseq ≠ v.mseq)) ∧ t.crn.retry = none ∧ (v.reason ≤ 1 → t.pair.solo = true) ∧
    t.pair.fence = some {
      pools := granted, term := BitVec.ofNat 64 (fieldAt d 0 8), reason := v.reason, fenced := 0, missing := 0, since := u.time,
      left := ((List.range 16).flatMap (fun p => if bit granted p then (u.pool p).mods else [])).eraseDups } := by
  subst hg
  have hexec := (exec_voteGrant h hw hf hid).trans (if_pos ⟨hr, h0⟩)
  dsimp only at hexec
  obtain ⟨_, _, _, ha⟩ := raise_frame (w.answered v) rCrnEvents (2 ^ 0)
  have hkeep : ∀ b, (b = if v.reason ≤ 1 then ((w.answered v).raise rCrnEvents (2 ^ 0)).goSolo else (w.answered v).raise rCrnEvents (2 ^ 0)) →
      b.crn = (w.answered v).crn ∧ (v.reason ≤ 1 → b.pair.solo = true) ∧ ∀ p, (b.pool p).mods = (u.pool p).mods := by
    rintro b rfl
    obtain ⟨hcrn, hpair, hmods⟩ := goSolo_soloOf ((w.answered v).raise rCrnEvents (2 ^ 0))
    rw [ha] at hcrn hpair hmods ⊢
    subst hw
    split
    · exact ⟨hcrn, fun _ => congrArg Pair.solo hpair, hmods⟩
    · next hreason => exact ⟨rfl, fun h1 => absurd h1 hreason, fun _ => rfl⟩
  obtain ⟨hcrn, hsolo, hmods⟩ := hkeep _ rfl
  refine ⟨_, hexec, (congrArg Crn.votes hcrn).trans ?_, congrArg Crn.retry hcrn, hsolo, ?_⟩
  · rw [hw]
    rfl
  · simp only [hmods]
    rw [hw]

/-- A denial ends the request; one for a condition that lasts is repeated. -/
theorem exec_voteGrant_denied (hr : fieldAt d 9 1 ≠ 0 ∨ fieldAt d 10 2 = 0) : ∃ t, gives (.voteGrant m) s t ∧
    t.crn.votes = u.crn.votes.filter (fun x => decide (x.mseq ≠ v.mseq)) ∧ t.pair.fence = u.pair.fence ∧
    t.crn.retry = (if fieldAt d 9 1 = 1 ∧ v.reason ≤ 1 then some (v, u.time) else none) := by
  have hexec := (exec_voteGrant h hw hf hid).trans (if_neg (by omega))
  dsimp only at hexec
  obtain ⟨_, _, _, ha⟩ := raise_frame (w.answered v) rCrnEvents (2 ^ 1)
  have hcrn (t : State) : t.settleMode.releaseHeld.crn = t.crn := (releaseHeld_onlyPosts _).crn.trans (settleMode_onlyMode t).crn
  have hpair (t : State) : t.settleMode.releaseHeld.pair = t.pair := ((settleMode_sameArray t).trans (releaseHeld_sameArray _)).pair
  refine ⟨_, hexec, (congrArg Crn.votes (hcrn _)).trans ?_, (congrArg Pair.fence (hpair _)).trans ?_, (congrArg Crn.retry (hcrn _)).trans ?_⟩
  · rw [ha, hw]
    rfl
  · rw [ha, hw]
    rfl
  · rw [ha, hw]

end

section

variable {s : State}

theorem exec_voteRetry_none (h : s.crn.retry = none) : exec .voteRetry s = .next s := by
  show execVoteRetry s = _
  rw [execVoteRetry, h]

theorem exec_voteRetry {v : Vote} {since : W64} (h : s.crn.retry = some (v, since)) : exec .voteRetry s =
    if (s.time - since).toNat < 10000 then .next s
    else
      let u := { s with crn := { s.crn with retry := none } }
      if v.reason = 0 ∧ s.pwr.peerYieldN = true ∧ s.pair.solo = false then .next u
      else if v.reason = 1 ∧ s.rope.suspect = false then .next u
      else .next (u.takeover v.reason) := by
  show execVoteRetry s = _
  rw [execVoteRetry, h]

/-! ### Yields and takeover (R329 to R331) -/

theorem takeover_idle (h : ¬ s.pwr.mode ∈ [5, 6, 7] ∨ s.peerPools = 0 ∨ s.pair.fence.isSome = true) (r : Nat) : s.takeover r = s :=
  if_pos (by
    rcases h with h | h | h
    · exact .inl h
    · exact .inr (.inl h)
    · exact .inr (.inr (.inr h)))

/-- The state in which a takeover asks: HANDOVER, and the peer's pools held. -/
def asking (s : State) : State :=
  ({ s with pair := { s.pair with holdPools := s.pair.holdPools ||| s.peerPools, faultAt := s.time } } : State).freezeSqhd.setMode 7

theorem takeover_eq (hm : s.pwr.mode ∈ [5, 6, 7]) (hp : s.peerPools ≠ 0) (hf : s.pair.fence = none) (hv : s.crn.votes = []) (r : Nat) :
    s.takeover r = s.asking.voteRequest s.peerPools r (s.epochsOf s.peerPools) :=
  if_neg (by simp [hm, hp, hf, hv])

theorem voteRequest_sent {k : Bytes} (hk : s.areaKey 4 0 = some k) (h0 : s.pwr.mode ≠ 0) (h2 : s.pwr.mode ≠ 2) (ps r : Nat) (es : List (Nat × Nat)) :
    ∃ m, (s.voteRequest ps r es).out = s.out ++ [.cairn m] ∧
      (s.voteRequest ps r es).crn.votes = s.crn.votes ++ [{ mseq := s.nextMseq, pools := ps, reason := r }] := by
  unfold voteRequest
  dsimp only
  rw [sendCairn_sent hk h0 h2]
  exact ⟨_, congrArg State.out (if_neg (Nat.succ_ne_self s.crn.count)),
    congrArg (fun t : State => t.crn.votes) (if_neg (Nat.succ_ne_self s.crn.count))⟩

theorem takeover_asks (hm : s.pwr.mode ∈ [5, 6, 7]) (hp : s.peerPools ≠ 0) (hf : s.pair.fence = none) (hv : s.crn.votes = [])
    (hkey : (s.areaKey 4 0).isSome = true) (r : Nat) : ∃ t m, t = s.takeover r ∧ t.pwr.mode = 7 ∧
      t.pair.holdPools = s.pair.holdPools ||| s.peerPools ∧ t.out = s.out ++ [.cairn m] ∧
      t.crn.votes = [{ mseq := s.nextMseq, pools := s.peerPools, reason := r }] := by
  obtain ⟨k, hk⟩ := Option.isSome_iff_exists.1 hkey
  have hmode : s.asking.pwr.mode = 7 := setMode_mode _ 7
  obtain ⟨p, c, hasking, -⟩ : onlyMode _ s.asking := setMode_onlyMode _ 7
  have hk' : s.asking.areaKey 4 0 = some k := by
    rw [hasking]
    exact hk
  obtain ⟨m, hout, hvotes⟩ := voteRequest_sent hk' (by omega) (by omega) s.peerPools r (s.epochsOf s.peerPools)
  obtain ⟨⟨-, hpair, -⟩, hpwr⟩ := voteRequest_sameArray s.asking s.peerPools r (s.epochsOf s.peerPools)
  refine ⟨_, m, rfl, ?_, ?_, ?_, ?_⟩
  all_goals rw [takeover_eq hm hp hf hv]
  · rw [hpwr, hmode]
  · rw [hpair, hasking]
    rfl
  · rw [hout, hasking]
    rfl
  · rw [hvotes, hasking]
    exact congrArg (· ++ _) hv

theorem yieldHead_quarantine (h : s.pair.yielded = false) (hm : s.pwr.mode ∈ [4, 5, 6, 7, 9, 10]) (c : Nat) : ∃ t, t = s.yieldHead c ∧
    t.pair.yielded = true ∧ t.pair.yieldCause = c ∧ t.pair.holdAll = true ∧ t.pwr.yieldN = false ∧ t.pwr.mode = 8 ∧
    (∀ q ∈ t.host.queues, q.2.heldSqhd.isSome = true) := by
  obtain ⟨hpair, hyield, -, -, hhost⟩ := yieldHead_holds s h c
  obtain ⟨hmode, -⟩ := (yieldHead_mode s h c).1 hm
  refine ⟨_, rfl, ?_, ?_, ?_, hyield, hmode, ?_⟩
  · rw [hpair]
  · rw [hpair]
  · rw [hpair]
  · rw [hhost]
    exact freezeSqhd_held s

theorem exec_crnYield_open {core : Nat} {v : W64} (h : s.gate (0x20 + core % 4) 0xB0020 8 true = .open) :
    exec (.crnYield core v) s = .next (if v.getLsbD 0 then (s.setReg 0xB0020 1).yieldHead 7 else s) := by
  show execCrnYield core v s = _
  rw [execCrnYield, h]
  dsimp only
  split <;> rfl

theorem exec_crnYield_shut {core : Nat} {v : W64} {t : State} (h : s.gate (0x20 + core % 4) 0xB0020 8 true = .shut t ∨
    s.gate (0x20 + core % 4) 0xB0020 8 true = .error t ∨ s.gate (0x20 + core % 4) 0xB0020 8 true = .viol t) : exec (.crnYield core v) s = .next t := by
  show execCrnYield core v s = _
  unfold execCrnYield
  rcases h with h | h | h
  all_goals rw [h]

end

end Sys2Proof.Machine.State
end

section
/-! Fencing, adoption and the check of tags (part of O42). -/

open Sys2Proof Sys2Proof.Machine Sys2Proof.Machine.State

namespace Sys2Proof.Machine.State

/-! ### Modules changed one after another -/

section

variable {φ : State → Modu → Modu} (hstable : ∀ t m x y, φ (State.setModu t m x) y = φ t y) (hidem : ∀ t y, φ t (φ t y) = φ t y)
include hstable hidem

/-- A change that no other module's change affects is made in each listed module. -/
theorem modu_foldl_setModu (l : List Nat) (s : State) (k : Nat) :
    (l.foldl (fun t m => t.setModu m (φ t (t.modu m))) s).modu k = if k ∈ l then φ s (s.modu k) else s.modu k := by
  induction l generalizing s with
  | nil => rfl
  | cons m l ih =>
    rw [List.foldl_cons, ih, modu_setModu, hstable]
    by_cases hk : k = m
    · rw [if_pos hk, hk, hidem, ite_self, if_pos List.mem_cons_self]
    · rw [if_neg hk]
      simp only [List.mem_cons, hk, false_or]

end

theorem setModu_foldl_frame (f : State → Nat → Modu) (l : List Nat) (s : State) :
    ∃ ms, l.foldl (fun t m => t.setModu m (f t m)) s = { s with modules := ms } :=
  List.foldlRecOn (motive := fun t : State => ∃ ms, t = { s with modules := ms }) l _ ⟨_, rfl⟩ fun _ ⟨_, h⟩ m _ => by
    rw [h]
    exact ⟨_, rfl⟩

/-! ### Fencing (R332, R333) -/

section

variable {s u : State} {f g : Fence} {done : List Nat} (hfence : s.pair.fence = some f) (hpre : (u, g) = s.preempted f done)

theorem exec_fence_none (h : s.pair.fence = none) : exec (.fenceDone done) s = .next s ∧ exec (.fencingBound done) s = .next s := by
  refine ⟨?_, ?_⟩
  · show execFenceDone done s = _
    rw [execFenceDone, h]
  · show execFencingBound done s = _
    rw [execFencingBound, h]

include hpre

theorem preempted_fence : g = { f with
    left := f.left.filter (fun m => !decide (m ∈ done)), fenced := f.fenced + (f.left.filter (fun m => decide (m ∈ done))).length } :=
  (Prod.mk.inj hpre).2

/-- This head holds the reservations of the modules that have answered. -/
theorem preempted_modu (m : Nat) : u.modu m = if m ∈ f.left ∧ m ∈ done then { s.modu m with
    held := true, foreign := false, registered := true, regKey := s.resvKey } else s.modu m := by
  rw [(Prod.mk.inj hpre).1]
  refine (modu_foldl_setModu (φ := fun t x => { x with held := true, foreign := false, registered := true, regKey := t.resvKey })
    (fun _ _ _ _ => rfl) (fun _ _ => rfl) _ s m).trans ?_
  simp only [List.mem_filter, decide_eq_true_eq]

theorem preempted_frame : ∃ ms, u = { s with modules := ms } := by
  rw [(Prod.mk.inj hpre).1]
  exact setModu_foldl_frame _ _ s

include hfence

theorem exec_fenceDone : exec (.fenceDone done) s =
    if f.pools ≠ 0 ∧ g.left.isEmpty then .next (u.adopt g)
    else .next { u with pair := { u.pair with fence := if f.pools = 0 ∧ g.left.isEmpty then none else some g } } := by
  have hpools := congrArg Fence.pools (preempted_fence hpre)
  show execFenceDone done s = _
  rw [execFenceDone, hfence]
  dsimp only
  rw [← hpre]
  dsimp only
  rw [hpools]

/-- A module not yet preempted is lost, as the fencing bound finds it. -/
def lostNow (t : State) (x : Modu) : Modu := { x with lost := true, lostAt := t.time }

theorem exec_fencingBound : exec (.fencingBound done) s =
    if (s.time - f.since).toNat < (if f.pools = 0 then 100000 else 1600) then .next s
    else if f.pools ≠ 0 then
      .next (((g.left.foldl (fun t m => t.setModu m (t.lostNow (t.modu m))) u).adopt { g with missing := g.left.length }).fenceAbsent f.pools g.left)
    else
      let v := (f.left.filter (fun m => decide (m ∈ done))).foldl (fun t m => t.setModu m { t.modu m with lost := false }) u
      .next { v with pair := { v.pair with fence := if g.left.isEmpty then none else some { g with since := s.time } } } := by
  show execFencingBound done s = _
  rw [execFencingBound, hfence]
  dsimp only
  rw [← hpre]
  rfl

/-- The bound of a fencing has passed: what is left is absent, and the pools are adopted. -/
theorem exec_fencingBound_passed (h0 : f.pools ≠ 0) (hlate : 1600 ≤ (s.time - f.since).toNat) : ∃ v, gives (.fencingBound done) s
      (((v : State).adopt { g with missing := g.left.length }).fenceAbsent f.pools g.left) ∧
    ∀ m, v.modu m = if m ∈ g.left then { u.modu m with lost := true, lostAt := s.time } else u.modu m := by
  refine ⟨_, (exec_fencingBound hfence hpre).trans ((if_neg (by rw [if_neg h0]; omega)).trans (if_pos h0)), fun m => ?_⟩
  have htime : u.time = s.time := by
    obtain ⟨_, hu⟩ := preempted_frame hpre
    rw [hu]
  rw [modu_foldl_setModu (φ := lostNow) (fun _ _ _ _ => rfl) (fun _ _ => rfl), lostNow, htime]

/-- A repeated preempt: the modules that have answered are no longer lost. -/
theorem exec_fencingBound_repeated (h0 : f.pools = 0) (hlate : 100000 ≤ (s.time - f.since).toNat) : ∃ t, gives (.fencingBound done) s t ∧
    t.pair.fence = (if g.left = [] then none else some { g with since := s.time }) ∧
    ∀ m, t.modu m = if m ∈ f.left ∧ m ∈ done then { u.modu m with lost := false } else u.modu m := by
  refine ⟨_, (exec_fencingBound hfence hpre).trans ((if_neg (by rw [if_pos h0]; omega)).trans (if_neg (not_not.2 h0))), ?_, fun m => ?_⟩
  · simp only [List.isEmpty_iff]
  · refine (modu_foldl_setModu (φ := fun _ x => { x with lost := false }) (fun _ _ _ _ => rfl) (fun _ _ => rfl) _ u m).trans ?_
    simp only [List.mem_filter, decide_eq_true_eq]

end

/-! ### Superblocks keep the pools but for the wear of their slabs (R212, R252) -/

/-- `t` has the pools and the pair's state of `s`. -/
def samePools (s t : State) : Prop := t.pools = s.pools ∧ t.pair = s.pair

theorem samePools.trans {s t u : State} (h : samePools s t) (g : samePools t u) : samePools s u := ⟨g.1.trans h.1, g.2.trans h.2⟩

theorem mpcCount_samePools (s : State) (p rd wr : Nat) : samePools s (s.mpcCount p rd wr) := ⟨rfl, rfl⟩

theorem mpcEvent_samePools (s : State) (p flag : Nat) : samePools s (s.mpcEvent p flag) :=
  ⟨(raise_sameArray s _ _).pools, (raise_sameArray s _ _).pair⟩

theorem noteLength_samePools (s : State) (m : Nat) : samePools s (s.noteLength m) :=
  (show samePools s ((s.setModu m _).bump _ _ _ _) from ⟨rfl, rfl⟩).trans (mpcEvent_samePools _ _ _)

theorem writeEnd_samePools (s : State) (m len : Nat) (o : ModOut) {f : State → Nat × Nat × State} (hf : ∀ t, samePools t (f t).2.2) :
    samePools s (s.writeEnd m len o f).2.2 := by
  unfold writeEnd
  dsimp only
  split
  · exact ((show samePools s (s.setModu m _) from ⟨rfl, rfl⟩).trans (mpcEvent_samePools _ _ _)).trans (mpcCount_samePools _ _ _ _)
  · split
    · exact mpcCount_samePools _ _ _ _
    · exact ((show samePools s s.used from ⟨rfl, rfl⟩).trans (noteLength_samePools _ m)).trans (mpcCount_samePools _ _ _ _)
    · exact (((show samePools s s.used from ⟨rfl, rfl⟩).trans (hf _)).trans (noteLength_samePools _ m)).trans (mpcCount_samePools _ _ _ _)
    · exact (hf s).trans (mpcCount_samePools _ _ _ _)

theorem issued_samePools (s : State) (m : Nat) {f : State → Nat × Nat × State} (hf : samePools s (f s).2.2) : samePools s (s.issued m f).2.2 := by
  unfold issued
  dsimp only
  split
  · exact ⟨rfl, rfl⟩
  · split
    · exact ⟨rfl, rfl⟩
    · exact hf

theorem cmdErase_samePools (s : State) (sa : Nat) (o : ModOut) : samePools s (s.cmdErase sa o).2.2 := by
  refine issued_samePools s _ (writeEnd_samePools s _ _ _ fun t => ?_)
  split
  · exact ⟨rfl, rfl⟩
  · split <;> exact ⟨rfl, rfl⟩

theorem cmdProgram_samePools (s : State) (sa first mode : Nat) (pages : List Bytes) (o : ModOut) :
    samePools s (s.cmdProgram sa first mode pages o).2.2 := by
  refine issued_samePools s _ ?_
  split
  · exact ⟨rfl, rfl⟩
  · refine writeEnd_samePools s _ _ _ fun t => ?_
    dsimp only
    split <;> exact ⟨rfl, rfl⟩

/-- `t` is `s` in the pair's state and in every pool but `p`, of which the claim is the same. -/
def sameClaims (p : Nat) (s t : State) : Prop :=
  t.pair = s.pair ∧ (∀ q, q ≠ p → t.pool q = s.pool q) ∧ (t.pool p).rel = (s.pool p).rel ∧ (t.pool p).epoch = (s.pool p).epoch ∧
    (t.pool p).seq = (s.pool p).seq

section

variable {p : Nat} {s t u : State}

theorem sameClaims.trans (h : sameClaims p s t) (g : sameClaims p t u) : sameClaims p s u := by
  obtain ⟨hpair, hother, hrel, hepoch, hseq⟩ := h
  obtain ⟨hpair', hother', hrel', hepoch', hseq'⟩ := g
  exact ⟨hpair'.trans hpair, fun q hq => (hother' q hq).trans (hother q hq), hrel'.trans hrel, hepoch'.trans hepoch, hseq'.trans hseq⟩

theorem samePools.sameClaims (h : samePools s t) : sameClaims p s t := by
  have hpool := pool_of_pools h.1
  exact ⟨h.2, fun q _ => hpool q, by rw [hpool], by rw [hpool], by rw [hpool]⟩

theorem updPool_sameClaims (s : State) (p : Nat) {f : Pool → Pool} (hrel : ∀ x, (f x).rel = x.rel) (hepoch : ∀ x, (f x).epoch = x.epoch)
    (hseq : ∀ x, (f x).seq = x.seq) : sameClaims p s (s.updPool p f) :=
  ⟨rfl, fun _ hq => pool_updPool_other s hq f, pool_updPool_field f Pool.rel hrel fun _ _ => rfl,
    pool_updPool_field f Pool.epoch hepoch fun _ _ => rfl, pool_updPool_field f Pool.seq hseq fun _ _ => rfl⟩

theorem labelWrite_sameClaims (s : State) (p m : Nat) (page : Bytes) (o : ModOut) : sameClaims p s (s.labelWrite p m page o).2.2 := by
  unfold labelWrite
  generalize s.labelSpot m = spot
  obtain ⟨sa, first, erase⟩ := spot
  refine sameClaims.trans ?_ (cmdProgram_samePools _ _ _ _ _ _).sameClaims
  cases erase
  · exact ⟨rfl, fun _ _ => rfl, rfl, rfl, rfl⟩
  · rw [if_pos rfl]
    refine (cmdErase_samePools s _ _).sameClaims.trans (updPool_sameClaims _ p ?_ ?_ ?_)
    all_goals
      intro x
      rfl

theorem sbWriteAll_sameClaims (s : State) (p : Nat) (anchor : Bytes) (deleted : Bool) (owner state : Nat) :
    sameClaims p s (s.sbWriteAll p anchor deleted owner state) :=
  (List.foldlRecOn (motive := fun t : State => sameClaims p s t) _ _ ⟨rfl, fun _ _ => rfl, rfl, rfl, rfl⟩
    fun _ h m _ => h.trans (labelWrite_sameClaims _ p m _ _)).trans (updPool_sameClaims _ p (fun _ => rfl) (fun _ => rfl) fun _ => rfl)

end

/-! ### Adoption (R334) -/

theorem filter_bit_two_pow {p : Nat} (h : p < 16) : (List.range 16).filter (fun q => bit (2 ^ p) q) = [p] := by
  have hall : ∀ p < 16, (List.range 16).filter (fun q => bit (2 ^ p) q) = [p] := by decide
  exact hall p h

/-- A pool claimed for recovery: its owner, under the next epoch, with room left in SEQ. -/
theorem adoptPool_recovers (s : State) (term : W64) (p : Nat) : ∃ t, t = s.adoptPool term 2 p ∧ t.pair = s.pair ∧ (t.pool p).rel = .owner ∧
    (t.pool p).epoch = (s.pool p).epoch + 1 ∧ (t.pool p).seq = (s.pool p).seq - 1 + 2 ^ 20 ∧ (t.pool p).recovering = true ∧
    ∀ q, q ≠ p → t.pool q = s.pool q := by
  have hadopt : s.adoptPool term 2 p =
      let c := s.setPool p (adoptClaim (s.pool p) term s.time)
      (c.sbWriteAll p (c.lastAnchor p) false c.headId 0).updPool p (fun y => { y with recovering := true }) := by
    have h2 : ¬ (2 ≤ 1 ∧ s.rope.degraded = true) := fun h => absurd h.1 (by decide)
    unfold adoptPool
    rw [if_neg h2]
    exact if_pos rfl
  have hclaimed : (s.setPool p (adoptClaim (s.pool p) term s.time)).pool p = { adoptClaim (s.pool p) term s.time with num := p } := pool_setPool _ _ _
  generalize hc : s.setPool p (adoptClaim (s.pool p) term s.time) = c at hadopt hclaimed
  dsimp only at hadopt
  obtain ⟨hpair, hother, hrel, hepoch, hseq⟩ := sbWriteAll_sameClaims c p (c.lastAnchor p) false c.headId 0
  generalize c.sbWriteAll p (c.lastAnchor p) false c.headId 0 = w at hadopt hpair hother hrel hepoch hseq
  rw [hclaimed] at hrel hepoch hseq
  have hlisted : (Tbl.find w.pools p).isSome = true := listed_of_rel (by rw [hrel]; exact Rel.noConfusion)
  refine ⟨_, rfl, ?_, ?_, ?_, ?_, ?_, fun q hq => ?_⟩
  all_goals rw [hadopt]
  · rw [← hc] at hpair
    exact hpair
  · rw [pool_updPool hlisted]
    exact hrel
  · rw [pool_updPool hlisted]
    exact hepoch
  · rw [pool_updPool hlisted]
    exact hseq
  · rw [pool_updPool hlisted]
  · rw [pool_updPool_other _ hq, hother q hq, ← hc, pool_setPool_other _ hq]

theorem pairEvent_sameArray (s : State) (pools cause : Nat) : sameArray s (s.pairEvent pools cause) := ⟨rfl, rfl, rfl⟩

/-- What follows the adoption of the pools leaves them alone. -/
theorem adopt_pools (s : State) (f : Fence) (h3 : f.reason ≠ 3) : ∃ c o, (s.adopt f).pools =
    (((List.range 16).filter (fun p => bit f.pools p)).foldl (fun (t : State) p => t.adoptPool f.term f.reason p) { s with crn := c, out := o }).pools := by
  obtain ⟨c, o, hsent⟩ := sendCairn_frame s 5
    (leBytes 8 f.term.toNat ++ leBytes 2 f.pools ++ leBytes 2 f.fenced ++ leBytes 2 f.left.length ++ zeros 2)
  refine ⟨c, o, ?_⟩
  rw [← hsent]
  have hend (t : State) : ((t.anaChange.settleMode).pairEvent f.pools f.reason).releaseHeld.pools = t.pools :=
    ((anaChange_sameArray t).trans ((settleMode_sameArray _).trans ((pairEvent_sameArray _ _ _).trans (releaseHeld_sameArray _)))).pools
  unfold adopt
  refine (hend _).trans ?_
  rw [if_neg h3]
  split <;> rfl

theorem adopt_recovers {s : State} {p : Nat} {f : Fence} (hp : p < 16) (hpools : f.pools = 2 ^ p) (hreason : f.reason = 2) :
    ∃ t, t = s.adopt f ∧ (t.pool p).rel = .owner ∧ (t.pool p).epoch = (s.pool p).epoch + 1 ∧ (t.pool p).seq = (s.pool p).seq - 1 + 2 ^ 20 ∧
      (t.pool p).recovering = true ∧ (∀ q, q ≠ p → t.pool q = s.pool q) := by
  obtain ⟨c, o, htable⟩ := adopt_pools s f (by omega)
  rw [hpools, filter_bit_two_pow hp, hreason] at htable
  obtain ⟨t, rfl, -, hrel, hepoch, hseq, hrec, hother⟩ := adoptPool_recovers ({ s with crn := c, out := o } : State) f.term p
  have hpool := pool_of_pools htable
  refine ⟨_, rfl, ?_, ?_, ?_, ?_, fun q hq => ?_⟩
  all_goals rw [hpool]
  · exact hrel
  · exact hepoch
  · exact hseq
  · exact hrec
  · exact hother q hq

/-! ### The check of tags (R334 step 3) -/

/-- A pending group leaves a listed pool, which is changed by what the group does: `f` of the pool, or nothing if the group is not pending. -/
theorem pending_leaves {s t : State} {p seq : Nat} {f : Pool → Group → Pool} (hlisted : (Tbl.find s.pools p).isSome = true)
    (ht : t = match (s.pool p).waiting.find? (fun g => decide (g.seq = seq)) with
      | none => s
      | some g => s.updPool p (fun x => { f x g with waiting := x.waiting.filter (fun y => decide (y.seq ≠ seq)) })) :
    (Tbl.find t.pools p).isSome = true ∧ t.host = s.host ∧ (∀ y ∈ (t.pool p).waiting, y.seq ≠ seq) ∧
      ∀ g, (s.pool p).waiting.find? (fun g => decide (g.seq = seq)) = some g →
        t.pool p = { f (s.pool p) g with waiting := (s.pool p).waiting.filter (fun y => decide (y.seq ≠ seq)), num := p } := by
  cases hf : (s.pool p).waiting.find? (fun g => decide (g.seq = seq)) with
  | none =>
    rw [hf] at ht
    subst ht
    exact ⟨hlisted, rfl, fun y hy => by simpa using List.find?_eq_none.1 hf y hy, fun g hg => absurd hg (by simp)⟩
  | some g =>
    rw [hf] at ht
    subst ht
    have hpool := pool_updPool hlisted (fun x => { f x g with waiting := x.waiting.filter (fun y => decide (y.seq ≠ seq)) })
    refine ⟨by rw [find_updPool hlisted]; rfl, rfl, fun y hy => ?_, fun g' hg => ?_⟩
    · rw [hpool] at hy
      simpa using (List.mem_filter.1 hy).2
    · cases hg
      exact hpool

/-- What the resolution of a pending group of an owned pool leaves: neither the group nor its check nor its in-doubt locks. -/
theorem resolveGroup_spec {s t v : State} {p : Nat} {g : Group} {good : Bool} (ht : t = if good then s.markLanded p g.seq else s.unland p g.seq)
    (hgood : good = (s.groupLanded (s.pool p) g && !(s.pool p).jbuf.any (fun y => decide (g.seq ∈ cancelled [y]))))
    (href : bit (Tbl.getD (s.pool p).refs g.seq 0) 63 = false) (hlisted : (Tbl.find t.pools p).isSome = true) (hv : v = s.resolveGroup p g) :
    v.pool p = { t.pool p with checks := (t.pool p).checks.filter (fun z => decide (z.seq ≠ g.seq)), num := p } ∧
      v.host.locks = t.host.locks.filter (fun l => decide (l.doubt ≠ some (p, g.seq))) := by
  subst hv ht hgood
  have hpool := pool_updPool hlisted (fun y => { y with checks := y.checks.filter (fun z => decide (z.seq ≠ g.seq)) })
  unfold resolveGroup
  dsimp only
  rw [if_neg (by rw [href]; decide)]
  exact ⟨hpool, rfl⟩

end Sys2Proof.Machine.State
end

section
/-! Starting together, planned moves and the calls of the pair (part of O42). -/

open Sys2Proof Sys2Proof.Machine Sys2Proof.Machine.State

namespace Sys2Proof.Machine.State

/-! ### Starting together (R342) -/

theorem filterMap_range_single {α : Type} {n p : Nat} (h : p < n) (a : α) : (List.range n).filterMap (fun q => if q = p then some a else none) = [a] := by
  have hall (m : Nat) : (List.range m).filterMap (fun q => if q = p then some a else none) = if p < m then [a] else [] := by
    induction m with
    | zero => rfl
    | succ m ih =>
      rw [List.range_succ, List.filterMap_append, ih]
      by_cases hm : m = p
      · subst hm
        simp
      · have hlt : p < m + 1 ↔ p < m := by omega
        simp [hm, hlt]
  rw [hall, if_pos h]

section

variable {s : State}

/-- The pools found on the modules that this head does not know: not deleted, each with its newest anchor's superblock. -/
def foundPools (s : State) : List (Nat × Bytes) :=
  ((List.range 16).filterMap (fun p => (s.newestAnchor p).map (fun sb => (p, sb)))).filter
    (fun q => !bit (fieldAt q.2 4 4) 0 && decide ((s.pool q.1).rel = .none))

/-- A pool found is taken from its checkpoint, as its superblock names it. -/
def takeFound (t : State) (q : Nat × Bytes) : State :=
  t.setPool q.1 { Tbl.getD t.ckpts (2 ^ 64 * q.1 + fieldAt q.2 0x88 8) (t.pool q.1) with
    rel := .none, epoch := fieldAt q.2 0x2C 4, poolId := sliceAt q.2 8 16 }

/-- Does this head claim a pool found? -/
def claims (s t : State) (q : Nat × Bytes) : Bool :=
  let o := fieldAt q.2 0x28 1
  decide (s.rope.peerHb = 0 ∧ (s.time - s.pwr.modeTime).toNat ≥ 200000000) || decide (o = s.headId) || (t.pool q.1).mods.any (fun m => (t.modu m).held)
    || (decide (o > 1) && (decide (s.pwr.peerYieldN = false) || decide (s.headId = 0)))

theorem exec_startupClaim_idle (h : s.pwr.mode ≠ 3 ∨ s.wdn.routeLen = 0 ∨ s.pair.headIdClash = true ∨ s.crn.votes ≠ [] ∨ s.pair.fence ≠ none) :
    exec .startupClaim s = .next s := by
  refine if_pos ?_
  rcases h with h | h | h | h | h
  · exact .inl h
  · exact .inr (.inl h)
  · exact .inr (.inr (.inl h))
  · exact .inr (.inr (.inr (.inl (by simp [h]))))
  · exact .inr (.inr (.inr (.inr (Option.isSome_iff_ne_none.2 h))))

variable (hmode : s.pwr.mode = 3) (hroutes : s.wdn.routeLen ≠ 0) (hclash : s.pair.headIdClash = false) (hvotes : s.crn.votes = [])
  (hfence : s.pair.fence = none)
include hmode hroutes hclash hvotes hfence

theorem exec_startupClaim : exec .startupClaim s =
    let t := s.foundPools.foldl takeFound s
    let mask := sumBy (fun (q : Nat × Bytes) => 2 ^ q.1) (s.foundPools.filter (s.claims t))
    if mask ≠ 0 then .next (t.voteRequest mask 2 (t.epochsOf mask))
    else if t.pools.all (fun (q : Nat × Pool) => decide (q.2.rel = .none)) && s.foundPools.isEmpty && !decide (s.rope.peerMode ∈ [4, 5, 6, 7]) then
      .next (t.setMode 9)
    else .next t :=
  if_neg (by simp [hmode, hroutes, hclash, hvotes, hfence])

/-- The one pool found names this head: it is claimed by vote. -/
theorem exec_startupClaim_single {p : Nat} {sb : Bytes} (hp : p < 16) (hanchor : ∀ q, s.newestAnchor q = if q = p then some sb else none)
    (hdel : bit (fieldAt sb 4 4) 0 = false) (hrel : (s.pool p).rel = .none) (howner : fieldAt sb 0x28 1 = s.headId) :
    exec .startupClaim s = .next ((s.takeFound (p, sb)).voteRequest (2 ^ p) 2 ((s.takeFound (p, sb)).epochsOf (2 ^ p))) := by
  have hlist : (List.range 16).filterMap (fun q => (s.newestAnchor q).map (fun sb => (q, sb))) = [(p, sb)] := by
    rw [← filterMap_range_single hp (p, sb)]
    refine List.filterMap_congr fun q _ => ?_
    rw [hanchor]
    by_cases hq : q = p
    · rw [if_pos hq, if_pos hq, hq]
      rfl
    · rw [if_neg hq, if_neg hq]
      rfl
  have hfound : s.foundPools = [(p, sb)] := by
    rw [foundPools, hlist]
    simp [hdel, hrel]
  have hclaim : [(p, sb)].filter (s.claims (s.takeFound (p, sb))) = [(p, sb)] := by simp [claims, howner]
  have hexec := exec_startupClaim hmode hroutes hclash hvotes hfence
  rw [hfound] at hexec
  dsimp only [List.foldl_cons, List.foldl_nil] at hexec
  rw [hclaim] at hexec
  have hmask : sumBy (fun q : Nat × Bytes => 2 ^ q.1) [(p, sb)] = 2 ^ p := Nat.zero_add _
  rw [hmask] at hexec
  exact hexec.trans (if_pos (Nat.two_pow_pos p).ne')

/-- Nothing is found, nothing is known and the peer does not serve: the head has no pools to serve. -/
theorem exec_startupClaim_empty (hanchor : ∀ q, s.newestAnchor q = none) (hpools : s.pools = []) (hpeer : ¬ s.rope.peerMode ∈ [4, 5, 6, 7]) :
    exec .startupClaim s = .next (s.setMode 9) := by
  have hfound : s.foundPools = [] := by
    rw [foundPools, List.filterMap_eq_nil_iff.2 fun q _ => by rw [hanchor]; rfl]
    rfl
  have hexec := exec_startupClaim hmode hroutes hclash hvotes hfence
  rw [hfound] at hexec
  refine hexec.trans ((if_neg (not_not.2 rfl)).trans (if_pos ?_))
  simp only [List.foldl_nil, hpools, hpeer]
  rfl

end

/-! ### Planned moves (R341) -/

section

variable {s : State} {call p dst : Nat} {c : Call} (hcall : s.libCall call 60 = some c) (hp : p = callPool c.entry) (hdst : dst = callArg c.entry 0)

theorem moveBegin_spec (s : State) (p dst : Nat) : (s.moveBegin p dst).pwr.mode = 7 ∧ Tbl.find (s.moveBegin p dst).pair.moves p = some 0 ∧
    (s.moveBegin p dst).pair.holdPools = s.pair.holdPools ||| 2 ^ p := by
  unfold moveBegin
  dsimp only
  generalize hu : s.updPool p (fun x => { x with moveTo := some dst }) = u
  have hpair : (u.sbWriteAll p (u.lastAnchor p) false u.headId 1).pair = s.pair := by
    rw [(sbWriteAll_sameClaims u p (u.lastAnchor p) false u.headId 1).1, ← hu]
    rfl
  generalize u.sbWriteAll p (u.lastAnchor p) false u.headId 1 = w at hpair
  refine ⟨setMode_mode _ 7, ?_, ?_⟩
  · rw [(setMode_sameArray _ 7).pair]
    exact Tbl.find_set_same _ _ _
  · rw [(setMode_sameArray _ 7).pair]
    exact congrArg (fun x : Pair => x.holdPools ||| 2 ^ p) hpair

theorem moveDrive_busy (h : s.cutBusy p = true) (dst : Nat) : s.moveDrive p dst = s := if_pos (.inl h)

section

variable (hcut : s.cutBusy p = false) (hsvc : ∀ q ∈ s.svc, ¬ svcMod q.2 ∈ (s.pool p).mods)
include hcut hsvc

theorem moveDrive_free (dst : Nat) : s.moveDrive p dst =
    let opens := (s.pool p).segs.filter (fun (q : Nat × Seg) => decide (q.2.state = 0))
    if !opens.isEmpty then opens.foldl (fun (t : State) (q : Nat × Seg) => t.closeShort p q.1) s
    else ({ s with pair := { s.pair with moves := Tbl.set s.pair.moves p 2 } } : State).sendControl 2 (2 ^ p) dst := by
  refine if_neg ?_
  rintro (h | h)
  · exact absurd (hcut.symm.trans h) (by decide)
  · obtain ⟨q, hq, hmem⟩ := List.any_eq_true.1 h
    exact hsvc q hq (of_decide_eq_true hmem)

theorem moveDrive_closes {q : Nat} {g : Seg} (hsegs : (s.pool p).segs = [(q, g)]) (hopen : g.state = 0) (dst : Nat) :
    s.moveDrive p dst = s.closeShort p q := by
  rw [moveDrive_free hcut hsvc, hsegs]
  simp [hopen]

theorem moveDrive_releases (hclosed : ∀ q ∈ (s.pool p).segs, q.2.state ≠ 0) (dst : Nat) : s.moveDrive p dst =
    ({ s with pair := { s.pair with moves := Tbl.set s.pair.moves p 2 } } : State).sendControl 2 (2 ^ p) dst := by
  rw [moveDrive_free hcut hsvc, List.filter_eq_nil_iff.2 fun q hq => by simpa using hclosed q hq]
  rfl

end

include hcall hp hdst

theorem exec_poolMove (denied : Bool) : exec (.poolMove call denied) s =
    match Tbl.find s.pair.moves p with
    | none =>
      if p ≥ 16 ∨ dst > 1 ∨ dst = s.headId ∨ s.owns p = false then .next (s.libFail call 0x50)
      else if s.hasShadow p = false ∨ s.rope.degraded then .next (s.libFail call 0x51)
      else .next (s.moveBegin p dst)
    | some 0 => .next (s.moveDrive p dst)
    | some _ => if denied then .next ((s.moveDenied p).libFail call 0x52) else .next s := by
  subst hp hdst
  have hexec : exec (.poolMove call denied) s = execPoolMove call denied s := rfl
  rw [execPoolMove, hcall] at hexec
  exact hexec

theorem exec_poolMove_refused (hm : Tbl.find s.pair.moves p = none) (h : 16 ≤ p ∨ 1 < dst ∨ dst = s.headId ∨ s.owns p = false) (denied : Bool) :
    exec (.poolMove call denied) s = .next (s.libFail call 0x50) := by
  rw [exec_poolMove hcall hp hdst, hm]
  exact if_pos h

theorem exec_poolMove_asked (hm : Tbl.find s.pair.moves p = none) (h16 : p < 16) (h1 : dst ≤ 1) (hother : dst ≠ s.headId) (howns : s.owns p = true)
    (denied : Bool) : exec (.poolMove call denied) s =
      if s.hasShadow p = false ∨ s.rope.degraded then .next (s.libFail call 0x51) else .next (s.moveBegin p dst) := by
  rw [exec_poolMove hcall hp hdst, hm]
  exact if_neg (by rw [howns]; simp; omega)

theorem exec_poolMove_drives (hm : Tbl.find s.pair.moves p = some 0) (denied : Bool) :
    exec (.poolMove call denied) s = .next (s.moveDrive p dst) := by
  rw [exec_poolMove hcall hp hdst, hm]
  rfl

theorem exec_poolMove_waits {k : Nat} (hm : Tbl.find s.pair.moves p = some (k + 1)) (denied : Bool) : exec (.poolMove call denied) s =
    if denied then .next ((s.moveDenied p).libFail call 0x52) else .next s := by
  rw [exec_poolMove hcall hp hdst, hm]
  rfl

end

/-! ### The calls of the pair (R343) -/

theorem find_of_libCall {s : State} {n slot : Nat} {c : Call} (h : s.libCall n slot = some c) : Tbl.find s.calls n = some c := by
  unfold libCall at h
  split at h
  · next x hx =>
    split at h
    · cases h
      exact hx
    · cases h
  · cases h

/-- The record that PAIR_STATUS returns. -/
def pairRecord (s : State) : Bytes :=
  leBytes 1 s.headId ++ leBytes 1 s.pwr.mode ++ leBytes 1 s.rope.peerMode ++ leBytes 1 (popcount s.rope.lanes)
    ++ leBytes 2 (b2n s.rope.degraded + 2 * b2n (s.pools.any (fun q => !q.2.relays.isEmpty)) + 4 * b2n s.ropeLease + 8 * b2n s.cairnLease
      + 16 * b2n s.rope.timeSynced)
    ++ leBytes 2 s.ownedMask ++ leBytes 8 s.crn.term.toNat ++ leBytes 2 s.shadowMask ++ leBytes 2 s.rope.peerOwned
    ++ leBytes 4 s.rope.offset.toNat ++ leBytes 4 (sumBy (fun q => if q.2.rel = .shadow then q.2.waiting.length else 0) s.pools)
    ++ leBytes 4 s.pair.switches ++ leBytes 8 s.pair.lastSwitch.toNat ++ leBytes 4 s.pair.lastGap ++ zeros 20

theorem pairRecord_length (s : State) : s.pairRecord.length = 64 := by
  unfold pairRecord
  simp only [List.length_append, leBytes_length, zeros_length]

theorem exec_pairStatus {s : State} {call : Nat} {c : Call} (h : s.libCall call 61 = some c) : exec (.pairStatus call) s =
    let n := min 1 (callPlen c.entry / 64)
    .next ((s.setParam c (([s.pairRecord].take n).flatMap id)).libExit call 0 n) := by
  have hexec : exec (.pairStatus call) s = .next (s.libRecords call [s.pairRecord]) := by
    show execPairStatus call s = _
    rw [execPairStatus, h]
    rfl
  have hrec : ∀ r ∈ [s.pairRecord], r.length = 64 := fun r hr => by
    rw [List.mem_singleton.1 hr]
    exact pairRecord_length s
  exact hexec.trans (congrArg _ (libRecords_eq (find_of_libCall h) hrec))

theorem exec_yieldHead {s : State} {call : Nat} {c : Call} (h : s.libCall call 62 = some c) :
    exec (.yieldHead call) s = .next ((s.libDone call).yieldHead 7) := by
  show execYieldHead call s = _
  rw [execYieldHead, h]

end Sys2Proof.Machine.State
end

section
/-! What the Cairn decides: the whole of O42. -/

open Sys2Proof Sys2Proof.Machine Sys2Proof.Machine.State

namespace Sys2Proof.Machine

namespace State

/-- How a message of the right length and CRC is received, by the key, the MAC and the COUNT. -/
theorem exec_cairn {s : State} {i : Instr} {typ : Nat} {m k : Bytes} (hi : (i, typ) ∈ cairnCommands m) (hshort : 32 ≤ m.length)
    (hlen : m.length = 32 + fieldAt m 2 2) (hcrc : fieldAt m (28 + fieldAt m 2 2) 4 = crc32c (m.take (28 + fieldAt m 2 2))) :
    (s.areaKey 4 0 = none → gives i s s) ∧
    (s.areaKey 4 0 = some k → (hmac256 k (m.take (12 + fieldAt m 2 2))).take 16 ≠ sliceAt m (12 + fieldAt m 2 2) 16 →
      gives i s (s.raise rCrnEvents (2 ^ 3))) ∧
    (s.areaKey 4 0 = some k → (hmac256 k (m.take (12 + fieldAt m 2 2))).take 16 = sliceAt m (12 + fieldAt m 2 2) 16 →
      fieldAt m 0 1 = typ → fieldAt m 1 1 = 0x0F → fieldAt m 4 8 / 2 ^ 48 = s.crn.inc → s.crn.inc ≠ 0 → s.crn.seen < fieldAt m 4 8 % 2 ^ 48 →
      ∃ u, s.recvCairn typ m = (some ((m.drop 12).take (fieldAt m 2 2), fieldAt m 4 8), u) ∧ u.crn.seen = fieldAt m 4 8 % 2 ^ 48 ∧
        u.crn.msgAccepted = s.crn.msgAccepted + 1 ∧ u.crn.linkUp = true) ∧
    (s.areaKey 4 0 = some k → (hmac256 k (m.take (12 + fieldAt m 2 2))).take 16 = sliceAt m (12 + fieldAt m 2 2) 16 →
      fieldAt m 0 1 = typ → fieldAt m 1 1 = 0x0F → fieldAt m 4 8 / 2 ^ 48 = s.crn.inc → s.crn.inc ≠ 0 → fieldAt m 4 8 % 2 ^ 48 ≤ s.crn.seen →
      gives i s ({ s with crn := { s.crn with echo := if typ = 4 then fieldAt m 4 8 else s.crn.echo } }.raise rCrnEvents (2 ^ 7))) :=
  ⟨fun hk => exec_cairn_none hi (recvCairn_noKey hshort hlen hcrc hk),
    fun hk hmac => exec_cairn_none hi (recvCairn_badMac hshort hlen hcrc hk hmac),
    fun hk hmac htyp hfrom hinc hheard h => recvCairn_accepted hshort hlen hcrc hk hmac htyp hfrom hinc hheard h,
    fun hk hmac htyp hfrom hinc hheard h => exec_cairn_none hi (recvCairn_replayed hshort hlen hcrc hk hmac htyp hfrom hinc hheard h)⟩

/-- The early entries of a group are those of records and reference counts, so their reversal changes no line. -/
theorem reverseEarly_lines (x : Pool) (g : Group) : (x.reverseEarly g).lines = x.lines :=
  List.foldlRecOn (motive := fun y : Pool => y.lines = x.lines) _ _ rfl fun y h e _ => by
    dsimp only
    split
    · exact h
    · obtain ⟨_, _, _, hadd⟩ := y.refAdd_frame (fieldAt e 8 6) (-(Pool.signed32 (fieldAt e 0x10 4)))
      rw [hadd]
      exact h

section

variable {s : State} {p seq : Nat} {g : Group}

theorem exec_tagCheck_idle (h : (s.pool p).checks.find? (fun g => decide (g.seq = seq)) = none ∨ s.owns p = false) :
    exec (.tagCheck p seq) s = .next s := by
  show execTagCheck p seq s = _
  unfold execTagCheck
  rcases h with h | h
  · rw [h]
  · split
    · rw [if_neg (by rw [h]; decide)]
    · rfl

/-- A pending group that is checked is applied or reversed; its check and its in-doubt locks go. -/
theorem exec_tagCheck (hf : (s.pool p).checks.find? (fun g => decide (g.seq = seq)) = some g) (howns : s.owns p = true)
    (href : bit (Tbl.getD (s.pool p).refs seq 0) 63 = false) : ∃ t, gives (.tagCheck p seq) s t ∧
      (∀ y ∈ (t.pool p).waiting, y.seq ≠ seq) ∧ (∀ y ∈ (t.pool p).checks, y.seq ≠ seq) ∧
      t.host.locks = s.host.locks.filter (fun l => decide (l.doubt ≠ some (p, seq))) ∧
      (s.groupLanded (s.pool p) g = true → (∀ y ∈ (s.pool p).jbuf, seq ∉ cancelled [y]) →
        (s.pool p).waiting.find? (fun g => decide (g.seq = seq)) = some g → (t.pool p).lines = ((s.pool p).applyLate g).lines) ∧
      (s.groupLanded (s.pool p) g = false → (s.pool p).waiting.find? (fun g => decide (g.seq = seq)) = some g →
        (t.pool p).lines = (s.pool p).lines ∧ (t.pool p).recs = ((s.pool p).reverseEarly g).recs) := by
  have hseq : g.seq = seq := by simpa using List.find?_some hf
  subst hseq
  have howner : (s.pool p).rel = .owner := of_decide_eq_true howns
  have hlisted : (Tbl.find s.pools p).isSome = true := listed_of_rel (by rw [howner]; exact Rel.noConfusion)
  have hexec : exec (.tagCheck p g.seq) s = .next (s.resolveGroup p g) := by
    show execTagCheck p g.seq s = _
    rw [execTagCheck, hf]
    exact if_pos howns
  obtain ⟨hlisted1, hhost1, hwait1, hpool1⟩ := pending_leaves (t := s.markLanded p g.seq) (f := Pool.applyLate) hlisted rfl
  obtain ⟨hlisted2, hhost2, hwait2, hpool2⟩ := pending_leaves (t := s.unland p g.seq) (f := Pool.reverseEarly) hlisted rfl
  generalize hgood : (s.groupLanded (s.pool p) g && !(s.pool p).jbuf.any (fun y => decide (g.seq ∈ cancelled [y]))) = good
  generalize ht : (if good then s.markLanded p g.seq else s.unland p g.seq) = t
  have hleft : (Tbl.find t.pools p).isSome = true ∧ t.host = s.host ∧ ∀ y ∈ (t.pool p).waiting, y.seq ≠ g.seq := by
    rw [← ht]
    split
    · exact ⟨hlisted1, hhost1, hwait1⟩
    · exact ⟨hlisted2, hhost2, hwait2⟩
  obtain ⟨hlisted, hhost, hwait⟩ := hleft
  obtain ⟨hpool, hlocks⟩ := resolveGroup_spec ht.symm hgood.symm href hlisted rfl
  refine ⟨_, hexec, ?_, fun y hy => ?_, ?_, fun hlanded hkept hw => ?_, fun hlanded hw => ?_⟩
  · rw [hpool]
    exact hwait
  · rw [hpool] at hy
    simpa using (List.mem_filter.1 hy).2
  · rw [hlocks, hhost]
  · have hany : (s.pool p).jbuf.any (fun y => decide (g.seq ∈ cancelled [y])) = false :=
      List.any_eq_false.2 fun y hy => by simpa using hkept y hy
    rw [hlanded, hany] at hgood
    have hmark : t = s.markLanded p g.seq := by rw [← ht, ← hgood]; rfl
    rw [hpool, hmark, hpool1 g hw]
  · rw [hlanded] at hgood
    have hunland : t = s.unland p g.seq := by rw [← ht, ← hgood]; rfl
    rw [hpool, hunland, hpool2 g hw]
    exact ⟨reverseEarly_lines _ g, rfl⟩

end

end State

/-- Settles O42: the reception of messages, and each command's own cases. -/
theorem theCairnDecidesOwnership : Obligations.TheCairnDecidesOwnership := by
  unfold Obligations.TheCairnDecidesOwnership
  refine ⟨?received, fun s u m d q h => exec_cairnHealth h, fun s hkey h0 h2 => exec_cairnHealthSend hkey h0 h2, fun s => rfl, ?grant, ?retry, ?yield,
    fun s core v => ⟨fun h => exec_crnYield_open h, fun t h => exec_crnYield_shut h⟩, ?fencing,
    fun s p f hp hpools hreason _ => adopt_recovers hp hpools hreason,
    fun s p seq g => ⟨fun h => exec_tagCheck_idle h, fun hf howns href _ => exec_tagCheck hf howns href⟩, ?startup, ?move, ?status, ?yieldCall⟩
  case received =>
    intro s i typ m k hi
    exact ⟨fun h => exec_cairn_none hi (recvCairn_badLength h), fun hshort hlen =>
      ⟨fun hcrc => exec_cairn_none hi (recvCairn_badCrc hshort hlen hcrc), fun hcrc => exec_cairn hi hshort hlen hcrc⟩⟩
  case grant =>
    rintro s u w m d q granted v fl h hw hg rfl
    exact ⟨fun hno => exec_voteGrant_other h hw hno, fun hf hid =>
      ⟨fun hr h0 => exec_voteGrant_granted h hw hf hid hr hg h0, fun hr => exec_voteGrant_denied h hw hf hid (hg ▸ hr)⟩⟩
  case retry =>
    rintro s u v since rfl
    refine ⟨fun h => exec_voteRetry_none h, fun h => ⟨fun hsoon => (exec_voteRetry h).trans (if_pos hsoon), fun hlate => ?_⟩⟩
    have hexec := (exec_voteRetry h).trans (if_neg (by omega))
    dsimp only at hexec
    refine ⟨fun hr => ?_, fun hr => ?_⟩
    · rw [if_neg (by omega), hr] at hexec
      rw [gives, hexec]
      by_cases hs : s.rope.suspect = true
      · rw [if_pos hs, if_neg (by simp [hs])]
      · rw [if_neg hs, if_pos ⟨rfl, by simpa using hs⟩]
    · rw [if_neg (show ¬ (v.reason = 1 ∧ s.rope.suspect = false) by omega), hr] at hexec
      rw [gives, hexec]
      by_cases hs : s.pwr.peerYieldN = true ∧ s.pair.solo = false
      · rw [if_pos hs, if_pos ⟨rfl, hs⟩]
      · rw [if_neg hs, if_neg fun h => hs h.2]
  case yield =>
    intro s
    refine ⟨fun c hc => if_neg hc, fun c h1 h8 => if_pos ⟨h1, h8⟩, fun c h => yieldHead_yielded s h c, fun c h hm => yieldHead_quarantine h hm c, rfl, ?_,
      fun r h => takeover_idle h r, fun r hm hp hf hv hkey => takeover_asks hm hp hf hv hkey r⟩
    show execPeerSuspect s = _
    rw [execPeerSuspect]
    split <;> rfl
  case fencing =>
    intro s done
    refine ⟨exec_fence_none, fun f u g hf hpre => ⟨preempted_fence hpre, preempted_modu hpre, fun hleft h0 => ?_, fun hleft => ?_, fun h0 hsoon => ?_,
      fun h0 hsoon => ?_, fun h0 hlate => exec_fencingBound_passed hf hpre h0 hlate, fun h0 hlate => exec_fencingBound_repeated hf hpre h0 hlate⟩⟩
    · exact (exec_fenceDone hf hpre).trans (if_pos ⟨h0, List.isEmpty_iff.2 hleft⟩)
    · have hno : ¬ g.left.isEmpty = true := fun h => hleft (List.isEmpty_iff.1 h)
      rw [gives, exec_fenceDone hf hpre, if_neg fun h => hno h.2, if_neg fun h => hno h.2]
    · exact (exec_fencingBound hf hpre).trans (if_pos (by rw [if_neg h0]; exact hsoon))
    · exact (exec_fencingBound hf hpre).trans (if_pos (by rw [if_pos h0]; exact hsoon))
  case startup =>
    intro s
    refine ⟨fun h => exec_startupClaim_idle h, fun hmode hroutes hclash hvotes hfence => ⟨?_, fun hanchor hpools hpeer => ?_⟩⟩
    · rintro p sb u hp hanchor hdel hrel howner rfl
      exact exec_startupClaim_single hmode hroutes hclash hvotes hfence hp hanchor hdel hrel howner
    · exact exec_startupClaim_empty hmode hroutes hclash hvotes hfence hanchor hpools hpeer
  case move =>
    rintro s u call p dst c hcall hp hdst rfl
    refine ⟨fun b hm h => ?_, fun b hm h16 h1 hother howns => ⟨fun h => ?_, fun hsh hdeg => ⟨_, ?_, rfl, moveBegin_spec s p dst⟩⟩, fun b hm => ⟨fun h => ?_,
      fun hcut hsvc => ⟨fun q g hsegs hopen => ?_, fun hclosed => ⟨_, ?_, rfl⟩⟩⟩, fun k hm => ⟨?_, ?_⟩⟩
    · obtain ⟨x, hx⟩ := libFail_exit s call 0x50
      exact ⟨x, (exec_poolMove_refused hcall hp hdst hm h b).trans (congrArg _ hx)⟩
    · obtain ⟨x, hx⟩ := libFail_exit s call 0x51
      exact ⟨x, (exec_poolMove_asked hcall hp hdst hm h16 h1 hother howns b).trans ((if_pos h).trans (congrArg _ hx))⟩
    · exact (exec_poolMove_asked hcall hp hdst hm h16 h1 hother howns b).trans (if_neg (by simp [hsh, hdeg]))
    · exact (exec_poolMove_drives hcall hp hdst hm b).trans (congrArg _ (moveDrive_busy h dst))
    · exact (exec_poolMove_drives hcall hp hdst hm b).trans (congrArg _ (moveDrive_closes hcut hsvc hsegs hopen dst))
    · exact (exec_poolMove_drives hcall hp hdst hm b).trans (congrArg _ (moveDrive_releases hcut hsvc hclosed dst))
    · exact (exec_poolMove_waits hcall hp hdst hm false).trans (if_neg (by decide))
    · obtain ⟨x, hx⟩ := libFail_exit (s.moveDenied p) call 0x52
      exact ⟨x, _, rfl, (exec_poolMove_waits hcall hp hdst hm true).trans ((if_pos rfl).trans (congrArg _ hx))⟩
  case status =>
    rintro s call n c r hcall rfl rfl
    exact exec_pairStatus hcall
  case yieldCall =>
    rintro s u call c hcall rfl
    exact ⟨_, exec_yieldHead hcall⟩

end Sys2Proof.Machine
end

section
/-! SUPPORT for O44. Entries as their group carries them, and what a group of one entry leaves in its pool: the entries by which a round begins
(R229, R251, R345, R359). -/

open Sys2Proof Sys2Proof.Machine Sys2Proof.Machine.State

namespace Sys2Proof.Machine

/-! ### Fields of an entry in its group (R226, R229) -/

/-- A field after the spliced bytes. -/
theorem fieldAt_spliceAt_after {b x : Bytes} {o i : Nat} (h : o + x.length ≤ i) (ho : o ≤ b.length) (n : Nat) :
    fieldAt (spliceAt b o x) i n = fieldAt b i n := by
  have hlen : (b.take o ++ x).length = o + x.length := by simp [ho]
  unfold fieldAt
  rw [spliceAt_inside ho, List.drop_append, List.drop_eq_nil_of_le (by omega), hlen, List.drop_drop, List.nil_append,
    show o + x.length + (i - (o + x.length)) = i by omega]

/-- An entry with the LAST, INDEX and TIME_LO that the ROPE unit fills in: it is entry `i` of `n`. -/
def filledEntry (time : W64) (n i : Nat) (e : Bytes) : Bytes :=
  spliceAt (spliceAt (spliceAt e 1 (leBytes 1 (bits (fieldAt e 1 1) 1 1 * 2 + b2n (decide (i + 1 = n))))) 3 (leBytes 1 i)) 4
    (leBytes 4 time.toNat)

theorem filledEntry_body (s : State) (p origin : Nat) (e : Bytes) : (s.newGroup p origin [e]).body = [filledEntry s.time 2 1 e] := rfl

section

variable {e : Bytes} (he : e.length = 32) (time : W64) (n i : Nat)
include he

theorem filledEntry_length : (filledEntry time n i e).length = 32 := by
  simp only [filledEntry, length_spliceAt, leBytes_length, he]
  rfl

theorem filledEntry_typ : eTyp (filledEntry time n i e) = eTyp e := by
  unfold eTyp filledEntry
  rw [fieldAt_spliceAt_before, fieldAt_spliceAt_before, fieldAt_spliceAt_before]
  all_goals simp [length_spliceAt, he]

/-- The payload of an entry stays as it is. -/
theorem filledEntry_payload {j : Nat} (hj : 8 ≤ j) (m : Nat) : fieldAt (filledEntry time n i e) j m = fieldAt e j m := by
  unfold filledEntry
  rw [fieldAt_spliceAt_after, fieldAt_spliceAt_after, fieldAt_spliceAt_after]
  all_goals
    simp only [length_spliceAt, leBytes_length, he]
    omega

end

/-- A payload given as fields of sizes and values, read from its entry in a group. -/
theorem fieldAt_filledEntry (time : W64) (n k typ flags p : Nat) {l : List (Nat × Nat)} (hl : (l.map Prod.fst).sum ≤ 24) {i : Nat} (h : i < l.length) :
    fieldAt (filledEntry time n k (entry typ flags p (fieldBytes l))) (8 + fieldOffset l i) l[i].1 = l[i].2 % 256 ^ l[i].1 := by
  rw [filledEntry_payload (entry_length _ _ _ _) _ _ _ (by omega)]
  have hpad : padTo 24 (fieldBytes l) = fieldBytes l ++ zeros (24 - (l.map Prod.fst).sum) := by
    rw [← fieldBytes_length] at hl ⊢
    simp [padTo, sliceAt, zeros, List.take_of_length_le hl]
  have hentry : entry typ flags p (fieldBytes l) =
      fieldBytes ([(1, typ), (1, flags), (1, p), (5, 0)] ++ l) ++ zeros (24 - (l.map Prod.fst).sum) := by
    rw [entry, hpad]
    simp only [fieldBytes, List.flatMap_append, List.flatMap_cons, List.flatMap_nil, List.append_assoc, List.append_nil]
    rfl
  have hfield := fieldAt_fieldBytes ([(1, typ), (1, flags), (1, p), (5, 0)] ++ l) (zeros (24 - (l.map Prod.fst).sum)) (i := i + 4)
    (by simpa using h)
  have hoff : fieldOffset ([(1, typ), (1, flags), (1, p), (5, 0)] ++ l) (i + 4) = 8 + fieldOffset l i := by
    simp only [fieldOffset, List.cons_append, List.nil_append, List.take_succ_cons, List.map_cons, List.sum_cons]
    omega
  rw [hoff] at hfield
  rw [hentry]
  exact hfield

theorem eTyp_entry (typ flags p : Nat) (d : Bytes) : eTyp (entry typ flags p d) = typ % 256 := by
  have h := fieldAt_append [] (leBytes 1 flags ++ leBytes 1 p ++ zeros 5 ++ padTo 24 d) 1 typ
  simpa [eTyp, entry] using h

theorem eSnap_typ (p op nsid id x : Nat) : eTyp (eSnap p op nsid id x) = 0x14 := eTyp_entry _ _ _ _
theorem eRepl_typ (p pair op round value : Nat) : eTyp (eRepl p pair op round value) = 0x16 := eTyp_entry _ _ _ _

/-- The fields of a SNAP entry in its group (R345). -/
theorem filledEntry_eSnap (time : W64) (n i p op nsid id x : Nat) :
    eTyp (filledEntry time n i (eSnap p op nsid id x)) = 0x14 ∧ fieldAt (filledEntry time n i (eSnap p op nsid id x)) 8 1 = op % 256 ∧
    fieldAt (filledEntry time n i (eSnap p op nsid id x)) 0x0C 4 = nsid % 2 ^ 32 ∧
    fieldAt (filledEntry time n i (eSnap p op nsid id x)) 0x10 8 = id % 2 ^ 64 := by
  have hentry : eSnap p op nsid id x = entry 0x14 0 p (fieldBytes [(1, op), (3, 0), (4, nsid), (8, id), (6, x)]) := by
    simp only [eSnap, fieldBytes, List.flatMap_cons, List.flatMap_nil, List.append_assoc, List.append_nil]
    rfl
  have hfield {k : Nat} (h : k < 5) := fieldAt_filledEntry time n i 0x14 0 p (l := [(1, op), (3, 0), (4, nsid), (8, id), (6, x)]) (by simp) h
  refine ⟨(filledEntry_typ (entry_length _ _ _ _) _ _ _).trans (eSnap_typ _ _ _ _ _), ?_⟩
  rw [hentry]
  exact ⟨hfield (k := 0) (by decide), hfield (k := 2) (by decide), hfield (k := 3) (by decide)⟩

/-- The fields of a REPL entry in its group (R359). -/
theorem filledEntry_eRepl (time : W64) (n i p pair op round value : Nat) :
    eTyp (filledEntry time n i (eRepl p pair op round value)) = 0x16 ∧
    fieldAt (filledEntry time n i (eRepl p pair op round value)) 8 4 = pair % 2 ^ 32 ∧
    fieldAt (filledEntry time n i (eRepl p pair op round value)) 0x0C 1 = op % 256 ∧
    fieldAt (filledEntry time n i (eRepl p pair op round value)) 0x10 4 = round % 2 ^ 32 ∧
    fieldAt (filledEntry time n i (eRepl p pair op round value)) 0x18 8 = value % 2 ^ 64 := by
  have hentry : eRepl p pair op round value = entry 0x16 0 p (fieldBytes [(4, pair), (1, op), (3, 0), (4, round), (4, 0), (8, value)]) := by
    simp only [eRepl, fieldBytes, List.flatMap_cons, List.flatMap_nil, List.append_assoc, List.append_nil]
    rfl
  have hfield {k : Nat} (h : k < 6) :=
    fieldAt_filledEntry time n i 0x16 0 p (l := [(4, pair), (1, op), (3, 0), (4, round), (4, 0), (8, value)]) (by simp) h
  refine ⟨(filledEntry_typ (entry_length _ _ _ _) _ _ _).trans (eRepl_typ _ _ _ _ _), ?_⟩
  rw [hentry]
  exact ⟨hfield (k := 0) (by decide), hfield (k := 1) (by decide), hfield (k := 3) (by decide), hfield (k := 5) (by decide)⟩

/-- BEGIN of a group of one entry. -/
theorem newGroup_begin (s : State) (p origin : Nat) (e : Bytes) : ∃ y, (s.newGroup p origin [e]).begin' =
    spliceAt (spliceAt (spliceAt (filledEntry s.time 2 0 (eBegin p origin)) 8
      (leBytes 8 (s.pool p).seq ++ leBytes 4 (s.time.toNat / 2 ^ 32) ++ leBytes 4 (s.pool p).epoch ++ leBytes 2 2)) 0x1C (zeros 4)) 0x1C y := ⟨_, rfl⟩

/-- The TIME of a new group is that of its acceptance. -/
theorem newGroup_time (s : State) (p origin : Nat) (e : Bytes) : (s.newGroup p origin [e]).time = s.time := by
  obtain ⟨y, hy⟩ := newGroup_begin s p origin e
  have hbegin : (filledEntry s.time 2 0 (eBegin p origin)).length = 32 := filledEntry_length (entry_length _ _ _ _) _ _ _
  have hlow : fieldAt (s.newGroup p origin [e]).begin' 4 4 = s.time.toNat % 2 ^ 32 := by
    rw [hy, fieldAt_spliceAt_before, fieldAt_spliceAt_before, fieldAt_spliceAt_before]
    · refine (fieldAt_spliceAt_in _ 4 (leBytes 4 s.time.toNat) (j := 0) (n := 4) (by simp)).trans ?_
      simpa using fieldAt_append [] [] 4 s.time.toNat
    all_goals simp [length_spliceAt, hbegin]
  have hhigh : fieldAt (s.newGroup p origin [e]).begin' 0x10 4 = s.time.toNat / 2 ^ 32 := by
    rw [hy]
    refine (fieldAt_begin hbegin (by simp) _ (j := 8) (by simp)).trans ?_
    have h := fieldAt_append (leBytes 8 (s.pool p).seq) (leBytes 4 (s.pool p).epoch ++ leBytes 2 2) 4 (s.time.toNat / 2 ^ 32)
    rw [leBytes_length, Nat.mod_eq_of_lt (by have := s.time.isLt; omega)] at h
    simpa using h
  rw [Group.time, hlow, hhigh]
  apply BitVec.eq_of_toNat_eq
  have := s.time.isLt
  rw [BitVec.toNat_ofNat]
  omega

/-! ### A pool's snapshots and pairs -/

namespace Pool

/-- A pool's snapshots, EPOCH and replication pairs. -/
def rounds (x : Pool) : List Snap × Nat × Tbl RPair := (x.snaps, x.snapEpoch, x.pairs)

/-- SNAP with OP CREATE (R345): the snapshot, and the next EPOCH. -/
theorem applyEntry_snapCreate {e : Bytes} (ht : eTyp e = 0x14) (hop : fieldAt e 8 1 = 0) (x : Pool) (seq : Nat) (time : W64) :
    (applyEntry seq time (x, none) e).1 = { x with
      snaps := x.snaps ++ [{ id := fieldAt e 0x10 8, time := time, repl := decide (fieldAt e 0x0C 4 = 1), deleting := false }],
      snapEpoch := fieldAt e 0x10 8 + 1, snapAt := some time } := by
  simp only [applyEntry, ht, hop]

/-- REPL with OP ROUND_BEGIN (R359): the pair's round and its snapshot. -/
theorem applyEntry_roundBegin {e : Bytes} (ht : eTyp e = 0x16) (hop : fieldAt e 0x0C 1 = 1) (x : Pool) (seq : Nat) (time : W64) :
    (applyEntry seq time (x, none) e).1 = { x with pairs := Tbl.upd x.pairs (fieldAt e 8 4) fun r => { r with
      round := fieldAt e 0x10 4, curSnap := some (fieldAt e 0x18 8) } } := by
  simp only [applyEntry, ht, hop]

end Pool

namespace State

variable {s : State} {p : Nat}

theorem rounds_updPool (s : State) (p : Nat) {f : Pool → Pool} (h : ∀ x, (f x).rounds = x.rounds := by intro _; rfl) :
    ((s.updPool p f).pool p).rounds = (s.pool p).rounds :=
  pool_updPool_field f Pool.rounds h fun _ _ => rfl

/-- Snapshots and pairs after a group is accepted are those that the group leaves in the pool. -/
theorem acceptGroup_rounds (s : State) (p origin ref : Nat) (es : List Bytes) :
    ((s.acceptGroup p origin es none ref).1.pool p).rounds = (withGroup (s.pool p) origin (s.newGroup p origin es)).rounds := by
  have hsettle (x : Pool) : (((s.setPool p x).settleDying p).pool p).rounds = x.rounds := by
    obtain ⟨u, hu, h⟩ := settleDying_spec (s.setPool p x) p
    rw [h, rounds_updPool, pool_of_pools hu.pools, pool_setPool]
    rfl
  have hstream (t : State) (b : Bool) (d : Bytes) (q : Nat) :
      ((if b then (t.sendRope 0x04 false d).updPool p (fun y => { y with sentSeqs := y.sentSeqs ++ [q] }) else t).pool p).rounds = (t.pool p).rounds := by
    cases b
    · rfl
    · rw [if_pos rfl, rounds_updPool, (sendRope_sameArray t _ _ d).pool p]
  have hrelay (g : Group) (l : List Nat) (t : State) :
      ((l.foldl (fun (t : State) m => { t with svc := Tbl.set t.svc (Tbl.next t.svc) (.relay p m g) }) t).pool p).rounds = (t.pool p).rounds :=
    List.foldlRecOn (motive := fun u : State => (u.pool p).rounds = (t.pool p).rounds) l _ rfl fun u h _ _ => h
  unfold acceptGroup
  dsimp only
  split
  · exact (hrelay _ _ _).trans ((hstream _ _ _ _).trans (hsettle _))
  · exact (hstream _ _ _ _).trans (hsettle _)

/-- A group of one entry leaves in its pool what its entry leaves, once its SEQ is taken and it stands in the journal buffer. -/
theorem withGroup_one (x : Pool) {origin : Nat} (ho : origin ≠ 0) {g : Group} {e : Bytes} (hg : g.body = [e]) :
    withGroup x origin g = (Pool.applyEntry g.seq g.time ({ x with seq := x.seq + 1, jbuf := insSeq x.jbuf g }, none) e).1 := by
  rw [withGroup, if_neg ho, Pool.applyGroup, hg]
  rfl

/-- Accepting a group of the library that assigns no slab is all there is to submitting it. -/
theorem submit_one {e : Bytes} (he : eTyp e ≠ 0x0B) (s : State) (p origin : Nat) : s.submit p origin [e] = (s.acceptGroup p origin [e] none 0).1 := by
  simp [submit, he]

/-- The group that takes a round's snapshot (R345, R359). -/
theorem submit_roundSnap {id : Nat} (hid : id < 2 ^ 64) : ((s.submit p 4 [eSnap p 0 1 id 0]).pool p).rounds =
    ((s.pool p).snaps ++ [{ id := id, time := s.time, repl := true, deleting := false }], id + 1, (s.pool p).pairs) := by
  obtain ⟨htyp, hop, hnsid, hsnap⟩ := filledEntry_eSnap s.time 2 1 p 0 1 id 0
  rw [Nat.mod_eq_of_lt hid] at hsnap
  rw [submit_one (by rw [eSnap_typ]; decide), acceptGroup_rounds, withGroup_one _ (by decide) (filledEntry_body _ _ _ _),
    Pool.applyEntry_snapCreate htyp hop, newGroup_time, hnsid, hsnap]
  rfl

/-- The group that begins a round (R359). -/
theorem submit_roundBegin {n r id : Nat} (hn : n < 2 ^ 32) (hr : r < 2 ^ 32) (hid : id < 2 ^ 64) : ((s.submit p 8 [eRepl p n 1 r id]).pool p).rounds =
    ((s.pool p).snaps, (s.pool p).snapEpoch, Tbl.upd (s.pool p).pairs n fun z => { z with round := r, curSnap := some id }) := by
  obtain ⟨htyp, hpair, hop, hround, hsnap⟩ := filledEntry_eRepl s.time 2 1 p n 1 r id
  rw [Nat.mod_eq_of_lt hn] at hpair
  rw [Nat.mod_eq_of_lt hr] at hround
  rw [Nat.mod_eq_of_lt hid] at hsnap
  rw [submit_one (by rw [eRepl_typ]; decide), acceptGroup_rounds, withGroup_one _ (by decide) (filledEntry_body _ _ _ _),
    Pool.applyEntry_roundBegin htyp hop, hpair, hround, hsnap]
  rfl

end State

end Sys2Proof.Machine
end

section
/-! SUPPORT for O44. What a pair's changes, messages and reports leave alone: reports of long operations keep the pools, sending items changes the
count of items sent alone (R26 to R31, R358, R361). -/

open Sys2Proof Sys2Proof.Machine Sys2Proof.Machine.State

namespace Sys2Proof.Machine.State

/-! ### Long-operation entries keep the array (R26 to R31) -/

section

variable (s : State)

theorem emit_sameArray (o : Out) : sameArray s (s.emit o) := ⟨rfl, rfl, rfl⟩

theorem jobDone_sameArray (i : Nat) : sameArray s (s.jobDone i) := by
  unfold jobDone
  exact .foldl (fun t q => .ite ((libTurn_sameArray t _).trans (retire_sameArray _ _ _)) (.refl t)) _ s

theorem jobClimb_sameArray (i ridge : Nat) : sameArray s (s.jobClimb i ridge) := by
  unfold jobClimb allocClimb
  cases oldestFree s.used ridge with
  | none => exact .refl s
  | some cid => exact ⟨rfl, rfl, rfl⟩

theorem jobStart_sameArray (i typ pool : Nat) (ridge : Option Nat) : sameArray s (s.jobStart i typ pool ridge) := by
  have h1 : sameArray s { s.jobDone i with
      lopRetried := s.lopRetried.filter (fun j => decide (j ≠ i)), opsFailed := s.opsFailed.filter (fun o => decide (o ≠ (typ, pool))) } :=
    (jobDone_sameArray s i).trans ⟨rfl, rfl, rfl⟩
  unfold jobStart
  dsimp only
  split
  · exact h1.trans (jobClimb_sameArray _ _ _)
  · exact h1

theorem shadowLopSend_sameArray (i pool : Nat) : sameArray s (s.shadowLopSend i pool) := by
  obtain ⟨_, _, h⟩ := shadowLopSend_frame s i pool
  rw [h]
  exact ⟨rfl, rfl, rfl⟩

theorem setReg_sameArray (off : Nat) (v : W64) : sameArray s (s.setReg off v) := ⟨rfl, rfl, rfl⟩

theorem lopWrite_sameArray (i typ posUnit phase pool : Nat) (device : Bool) (done total position : Nat) (start : W64) (taken : Bool) :
    sameArray s (s.lopWrite i typ posUnit phase pool device done total position start taken) := by
  have hwords (t : State) (off : Nat) (a b c d : W64) :
      sameArray t ((((t.setReg off a).setReg (off + 8) b).setReg (off + 0x10) c).setReg (off + 0x18) d) :=
    (((setReg_sameArray t _ _).trans (setReg_sameArray _ _ _)).trans (setReg_sameArray _ _ _)).trans (setReg_sameArray _ _ _)
  have hended (t : State) (stamp : Nat) : sameArray t (if phase ∈ [3, 4, 5] then { t with lopEnded := Tbl.set t.lopEnded i stamp }.tick
      else { t with lopEnded := Tbl.del t.lopEnded i }) := .ite ⟨rfl, rfl, rfl⟩ ⟨rfl, rfl, rfl⟩
  have hraised (b : Bool) (t : State) : sameArray t (if b then (t.raise 0xF0800 (2 ^ i)).raise 0xF0808 (2 ^ i) else t) :=
    .ite ((raise_sameArray t _ _).trans (raise_sameArray _ _ _)) (.refl t)
  have hshown (t : State) : sameArray t (if device then t else t.shadowLopSend i pool) := .ite (.refl t) (shadowLopSend_sameArray t _ _)
  exact (((hwords _ _ _ _ _ _).trans (hended _ _)).trans (hraised _ _)).trans (hshown _)

theorem lopReport_sameArray (typ posUnit phase pool done total position : Nat) (start : W64) :
    sameArray s (s.lopReport typ posUnit phase pool done total position start) := by
  refine .ite (.refl s) ?_
  unfold lopReportIn
  split
  · exact (lopWrite_sameArray s _ _ _ _ _ _ _ _ _ _ _).trans (.ite (jobDone_sameArray _ _) (.refl _))
  · exact (lopWrite_sameArray s _ _ _ _ _ _ _ _ _ _ _).trans (jobStart_sameArray _ _ _ _ _)

/-- A round's report changes no pool (R361). -/
theorem replReport_sameArray (p n phase : Nat) : sameArray s (s.replReport p n phase) := by
  unfold replReport
  split
  · exact .refl s
  · exact lopReport_sameArray s _ _ _ _ _ _ _ _

theorem sendRepl_sameArray (p n typ item : Nat) (body : Bytes) : sameArray s (s.sendRepl p n typ item body) := by
  unfold sendRepl
  split
  · exact .ite (emit_sameArray s _) (.refl s)
  · exact .refl s

theorem roundEnd_sameArray (p n : Nat) : sameArray s (s.roundEnd p n) := by
  unfold roundEnd
  split
  · exact .ite (sendRepl_sameArray s _ _ _ _ _) (.refl s)
  · exact .refl s

end

/-! ### A pair after a change -/

section

variable {s t : State} {p n : Nat} {r : RPair}

theorem sameArray.pairOf (h : sameArray s t) (p n : Nat) : t.pairOf p n = s.pairOf p n := by
  rw [State.pairOf, h.pool, State.pairOf]

/-- A pool with a pair is listed. -/
theorem listed_of_pairOf (h : s.pairOf p n = some r) : (Tbl.find s.pools p).isSome = true := by
  cases hf : Tbl.find s.pools p with
  | some x => rfl
  | none => simp [pairOf, pool, Tbl.getD, hf, Pool.fresh] at h

theorem pairOf_updPair (h : s.pairOf p n = some r) (f : RPair → RPair) : (s.updPair p n f).pairOf p n = some (f r) := by
  rw [pairOf, updPair, pool_updPool (listed_of_pairOf h)]
  show Tbl.find (Tbl.upd (s.pool p).pairs n f) n = _
  rw [Tbl.upd_of_find h, Tbl.find_set_same]

/-- A message goes out on a connection that is up. -/
theorem sendRepl_connected (h : s.pairOf p n = some r) (hc : r.connected = true) (typ item : Nat) (body : Bytes) :
    s.sendRepl p n typ item body = s.emit (.repl p n (replMsg typ (wireId n r) r.round item body)) := by
  rw [sendRepl, h]
  exact if_pos hc

/-- A pool's snapshots and EPOCH. -/
def snapsOf (s : State) (p : Nat) : List Snap × Nat := ((s.pool p).snaps, (s.pool p).snapEpoch)

theorem snapsOf_updPair (s : State) (p n : Nat) (f : RPair → RPair) : (s.updPair p n f).snapsOf p = s.snapsOf p :=
  pool_updPool_field _ (fun x => (x.snaps, x.snapEpoch)) (fun _ => rfl) fun _ _ => rfl

theorem sameArray.snapsOf (h : sameArray s t) (p : Nat) : t.snapsOf p = s.snapsOf p := by
  rw [State.snapsOf, h.pool, State.snapsOf]

/-! ### Items that are sent (R358, R359) -/

theorem sendItems_snapsOf (p n f : Nat) (s : State) : (sendItems p n f s).snapsOf p = s.snapsOf p := by
  induction f generalizing s with
  | zero => rfl
  | succ f ih =>
    unfold sendItems
    repeat' split
    · rfl
    · rfl
    · rfl
    · rw [ih, snapsOf_updPair, (sendRepl_sameArray _ _ _ _ _ _).snapsOf]

/-- One more item of the round goes out: its MANIFEST, and the count. -/
def sendItem (s : State) (p n : Nat) (r : RPair) (i : RItem) : State :=
  (s.sendRepl p n 3 (r.sent + 1) (manifestBody i)).updPair p n (fun z => { z with sent := z.sent + 1 })

theorem sendItems_succ (h : s.pairOf p n = some r) (f : Nat) : sendItems p n (f + 1) s =
    if !r.connected ∨ r.sent - (r.applied + r.acked.length) ≥ 64 then s
    else (r.items[r.sent]?).elim s fun i => sendItems p n f (s.sendItem p n r i) := by
  rw [sendItems, h]
  dsimp only
  split
  · rfl
  · cases r.items[r.sent]? <;> rfl

theorem pairOf_sendItem (h : s.pairOf p n = some r) (i : RItem) : (s.sendItem p n r i).pairOf p n = some { r with sent := r.sent + 1 } :=
  pairOf_updPair (((sendRepl_sameArray s _ _ _ _ _).pairOf p n).trans h) _

/-- Sending items changes the count of items sent alone. -/
theorem sendItems_pair (f : Nat) (h : s.pairOf p n = some r) : ∃ k, (sendItems p n f s).pairOf p n = some { r with sent := k } := by
  induction f generalizing s r with
  | zero => exact ⟨_, h⟩
  | succ f ih =>
    rw [sendItems_succ h]
    split
    · exact ⟨_, h⟩
    · cases r.items[r.sent]? with
      | none => exact ⟨_, h⟩
      | some i =>
        obtain ⟨k, hk⟩ := ih (pairOf_sendItem h i)
        exact ⟨k, hk⟩

/-- With the connection down no item goes out. -/
theorem sendItems_down (h : s.pairOf p n = some r) (hc : r.connected = false) (f : Nat) : sendItems p n f s = s := by
  cases f with
  | zero => rfl
  | succ f => rw [sendItems_succ h, if_pos (.inl (by rw [hc]; rfl))]

/-- With enough turns items go out until 64 of them are unacknowledged, or none is left. -/
theorem sendItems_sent {f : Nat} (h : s.pairOf p n = some r) (hc : r.connected = true) (ha : r.acked = []) (hlow : r.applied ≤ r.sent)
    (hhigh : r.sent ≤ r.applied + 64) (hf : r.applied + 64 ≤ r.sent + f) (hl : r.sent ≤ r.items.length) :
    (sendItems p n f s).pairOf p n = some { r with sent := min (r.applied + 64) r.items.length } := by
  induction f generalizing s r with
  | zero =>
    rw [show min (r.applied + 64) r.items.length = r.sent by omega]
    exact h
  | succ f ih =>
    rw [sendItems_succ h]
    by_cases hfull : 64 ≤ r.sent - r.applied
    · rw [if_pos (.inr (by simpa [ha] using hfull)), show min (r.applied + 64) r.items.length = r.sent by omega]
      exact h
    · rw [if_neg (by simpa [ha, hc] using hfull)]
      cases hi : r.items[r.sent]? with
      | none =>
        have hlast := List.getElem?_eq_none_iff.1 hi
        rw [show min (r.applied + 64) r.items.length = r.sent by omega]
        exact h
      | some i =>
        have hlt := (List.getElem?_eq_some_iff.1 hi).1
        have hnext := ih (pairOf_sendItem h i) hc ha (by dsimp only; omega) (by dsimp only; omega) (by dsimp only; omega) hlt
        exact hnext

end

end Sys2Proof.Machine.State
end

section
/-! How messages on a pair's connection are received, and how a connection goes (part of O44). -/

open Sys2Proof Sys2Proof.Machine Sys2Proof.Machine.State

namespace Sys2Proof.Machine

theorem fieldAt_drop (m : Bytes) (k i n : Nat) : fieldAt (m.drop k) i n = fieldAt m (k + i) n := by
  rw [fieldAt, List.drop_drop, fieldAt]

namespace State

/-! ### What is wrong with a message (R357, R362) -/

section

variable {typ : Nat} {m : Bytes}

/-- A message's length, mark and type are those of its kind. -/
def replHead (typ : Nat) (m : Bytes) : Prop := 32 ≤ m.length ∧ fieldAt m 0 2 = 0x5E1A ∧ fieldAt m 2 1 = typ

theorem msgBad_head (h : m.length < 32 ∨ fieldAt m 0 2 ≠ 0x5E1A ∨ fieldAt m 2 1 ≠ typ) : msgBad typ m = some 0 := if_pos h

theorem replHead.not_bad (h : replHead typ m) : ¬ (m.length < 32 ∨ fieldAt m 0 2 ≠ 0x5E1A ∨ fieldAt m 2 1 ≠ typ) := by
  obtain ⟨hlen, hmark, htyp⟩ := h
  rintro (h | h | h)
  · omega
  · exact h hmark
  · exact h htyp

theorem msgBad_headCrc (h : replHead typ m) (hcrc : fieldAt m 0x1C 4 ≠ crc32c (m.take 0x1C)) : msgBad typ m = some 1 :=
  (if_neg h.not_bad).trans (if_pos hcrc)

theorem msgBad_length (h : replHead typ m) (hcrc : fieldAt m 0x1C 4 = crc32c (m.take 0x1C))
    (hlen : 4194304 < fieldAt m 4 4 ∨ m.length ≠ 32 + fieldAt m 4 4) : msgBad typ m = some 0 := by
  have h32 := h.1
  refine (if_neg h.not_bad).trans ((if_neg (not_not.2 hcrc)).trans (if_pos ?_))
  rw [List.length_drop]
  omega

theorem msgBad_bodyCrc (h : replHead typ m) (hcrc : fieldAt m 0x1C 4 = crc32c (m.take 0x1C)) (hmax : fieldAt m 4 4 ≤ 4194304)
    (hlen : m.length = 32 + fieldAt m 4 4) (hbody : fieldAt m 0x18 4 ≠ crc32c (m.drop 32)) : msgBad typ m = some 1 := by
  refine (if_neg h.not_bad).trans ((if_neg (not_not.2 hcrc)).trans ((if_neg ?_).trans (if_pos hbody)))
  rw [List.length_drop]
  omega

end

/-! ### Reception (R362) -/

section

variable {s : State} {p n typ : Nat} {m : Bytes} {r : RPair}

theorem recvRepl_unpaired (h : s.pairOf p n = none) (f : RPair → Nat → Bytes → Res) : s.recvRepl p n typ m f = .next s := by
  rw [recvRepl, h]

theorem recvRepl_idle (h : s.pairOf p n = some r) (hidle : r.connected = false ∨ s.owns p = false) (f : RPair → Nat → Bytes → Res) :
    s.recvRepl p n typ m f = .next s := by
  rw [recvRepl, h]
  refine if_pos ?_
  rcases hidle with h | h <;> simp [h]

theorem recvRepl_heard (h : s.pairOf p n = some r) (hc : r.connected = true) (ho : s.owns p = true) (f : RPair → Nat → Bytes → Res) :
    s.recvRepl p n typ m f = (msgBad typ m).elim (f r (fieldAt m 0x10 8) (m.drop 32)) fun code => .next (s.replError p n code 0) := by
  rw [recvRepl, h]
  refine (if_neg (by simp [hc, ho])).trans ?_
  cases msgBad typ m <;> rfl

theorem recvRepl_bad (h : s.pairOf p n = some r) (hc : r.connected = true) (ho : s.owns p = true) {code : Nat} (hm : msgBad typ m = some code)
    (f : RPair → Nat → Bytes → Res) : s.recvRepl p n typ m f = .next (s.replError p n code 0) := by
  rw [recvRepl_heard h hc ho, hm]
  rfl

theorem recvRepl_good (h : s.pairOf p n = some r) (hc : r.connected = true) (ho : s.owns p = true) (hm : msgBad typ m = none)
    (f : RPair → Nat → Bytes → Res) : s.recvRepl p n typ m f = f r (fieldAt m 0x10 8) (m.drop 32) := by
  rw [recvRepl_heard h hc ho, hm]
  rfl

/-- Each message that comes on a pair's connection is received as `recvRepl` says. -/
theorem exec_message {i : Instr} {marks : Marks} (hi : (i, typ) ∈ [(.helloAck p n m, 2), (.manifest p n m, 3), (.want p n m marks, 4),
    (.replChunks p n m, 5), (.applied p n m, 6), (.roundEnd p n m, 7), (.roundDone p n m, 8), (.fetch p n m marks, 9), (.fetchReply p n m, 10),
    (.replError p n m, 11)]) (s : State) : ∃ f, exec i s = s.recvRepl p n typ m f := by
  simp only [List.mem_cons, Prod.mk.injEq, List.not_mem_nil, or_false] at hi
  rcases hi with ⟨rfl, rfl⟩ | ⟨rfl, rfl⟩ | ⟨rfl, rfl⟩ | ⟨rfl, rfl⟩ | ⟨rfl, rfl⟩ | ⟨rfl, rfl⟩ | ⟨rfl, rfl⟩ | ⟨rfl, rfl⟩ | ⟨rfl, rfl⟩ | ⟨rfl, rfl⟩
  · exact ⟨_, show execHelloAck p n m s = _ from rfl⟩
  · exact ⟨_, show execManifest p n m s = _ from rfl⟩
  · exact ⟨_, show execWant p n m marks s = _ from rfl⟩
  · exact ⟨_, show execReplChunks p n m s = _ from rfl⟩
  · exact ⟨_, show execApplied p n m s = _ from rfl⟩
  · exact ⟨_, show execRoundEnd p n m s = _ from rfl⟩
  · exact ⟨_, show execRoundDone p n m s = _ from rfl⟩
  · exact ⟨_, show execFetch p n m marks s = _ from rfl⟩
  · exact ⟨_, show execFetchReply p n m s = _ from rfl⟩
  · exact ⟨_, show execReplError p n m s = _ from rfl⟩

end

/-! ### A connection goes (R362) -/

section

variable {s : State} {p n : Nat} {r : RPair}

/-- The seconds after which the source tries again: 1, doubling to 60. -/
def nextBackoff (r : RPair) : Nat := if r.backoff = 0 then 1 else min 60 (2 * r.backoff)

/-- A pair whose connection has gone. -/
def downPair (time : W64) (reason backoff : Nat) (r : RPair) : RPair :=
  { r with
    connected := false, reason := reason, state := if r.source then (if r.curSnap.isSome then 3 else 1) else 0,
    backoff := backoff, retryAt := time + BitVec.ofNat 64 (backoff * 100000000) }

theorem pairLost_eq (h : s.pairOf p n = some r) (reason : Nat) : s.pairLost p n reason =
    if r.source && r.curSnap.isSome then (s.updPair p n (downPair s.time reason (nextBackoff r))).replReport p n 2
    else s.updPair p n (downPair s.time reason (nextBackoff r)) := by
  rw [pairLost, h]
  rfl

theorem pairOf_pairLost (h : s.pairOf p n = some r) (reason : Nat) :
    (s.pairLost p n reason).pairOf p n = some (downPair s.time reason (nextBackoff r) r) := by
  rw [pairLost_eq h, (sameArray.ite (replReport_sameArray _ _ _ _) (.refl _)).pairOf, pairOf_updPair h]

/-- Without a round in hand nothing is reported. -/
theorem out_pairLost (h : s.pairOf p n = some r) (hs : r.curSnap = none) (reason : Nat) : (s.pairLost p n reason).out = s.out := by
  rw [pairLost_eq h, if_neg (by simp [hs])]
  rfl

/-- The body of an ERROR. -/
def errorBody (code item : Nat) : Bytes := leBytes 1 code ++ zeros 7 ++ leBytes 8 item

theorem replError_closes (h : s.pairOf p n = some r) (hc : r.connected = true) {code : Nat} (hcode : code ∈ [0, 1, 4]) (item : Nat) :
    s.replError p n code item =
      ((s.emit (.repl p n (replMsg 0x0B (wireId n r) r.round item (errorBody code item)))).emit (.replClose p n)).pairLost p n 1 := by
  rw [replError, sendRepl_connected h hc]
  exact if_pos hcode

/-- An ERROR that closes the connection: what is sent, and what the pair is then. -/
theorem replError_spec (h : s.pairOf p n = some r) (hc : r.connected = true) (hs : r.curSnap = none) {code : Nat} (hcode : code ∈ [0, 1, 4])
    (item : Nat) : (s.replError p n code item).out =
      s.out ++ [.repl p n (replMsg 0x0B (wireId n r) r.round item (errorBody code item)), .replClose p n] ∧
    (s.replError p n code item).pairOf p n = some (downPair s.time 1 (nextBackoff r) r) := by
  rw [replError_closes h hc hcode]
  have hsent : ((s.emit (.repl p n (replMsg 0x0B (wireId n r) r.round item (errorBody code item)))).emit (.replClose p n)).pairOf p n = some r := h
  refine ⟨?_, pairOf_pairLost hsent 1⟩
  rw [out_pairLost hsent hs]
  exact List.append_assoc s.out _ _

theorem exec_replConnectionLost (h : s.pairOf p n = some r) : exec (.replConnectionLost p n) s =
    if r.connected then .next (s.pairLost p n 1) else .next s := by
  show execReplConnectionLost p n s = _
  rw [execReplConnectionLost, h]

end

end State
end Sys2Proof.Machine
end

section
/-! The calls that keep a head's replication pairs (part of O44). -/

open Sys2Proof Sys2Proof.Machine Sys2Proof.Machine.State

namespace Sys2Proof.Machine

theorem Tbl.lt_next {α : Type} (t : Tbl α) : ∀ q ∈ t, q.1 < Tbl.next t := by
  have hmax (l : Tbl α) (m : Nat) : m ≤ l.foldl (fun m p => max m (p.1 + 1)) m ∧ ∀ q ∈ l, q.1 < l.foldl (fun m p => max m (p.1 + 1)) m := by
    induction l generalizing m with
    | nil => exact ⟨le_rfl, fun q hq => absurd hq List.not_mem_nil⟩
    | cons p l ih =>
      obtain ⟨hm, hl⟩ := ih (max m (p.1 + 1))
      rw [List.foldl_cons]
      refine ⟨by omega, fun q hq => ?_⟩
      rcases List.mem_cons.1 hq with rfl | hq
      · omega
      · exact hl q hq
  exact (hmax t 0).2

namespace State

section

variable {s : State} {call : Nat} {c : Call}

/-- A call that ends with a DETAIL: its RESULT is free (log entry 34). -/
theorem gives_libFail {i : Instr} {detail : Nat} (h : exec i s = .next (s.libFail call detail)) :
    ∃ v, gives i s ({ s with freeCtr := s.freeCtr + 1 }.libExit call detail v) := by
  obtain ⟨v, hv⟩ := libFail_exit s call detail
  exact ⟨v, h.trans (congrArg _ hv)⟩

/-! ### REPL_CREATE (R355, R367) -/

/-- The pairs of which this array is the source. -/
def sourcePairs (s : State) : List (Nat × Nat × RPair) := s.allPairs.filter (fun q => q.2.2.source)

/-- May a namespace be replicated: it exists, is not being deleted and exposes no snapshot? -/
def sourceNs (x : Pool) (nsid : Nat) : Bool :=
  match Tbl.find x.nss nsid with
  | some n => !n.deleting && n.snap.isNone
  | none => false

theorem sourceNs_unknown {x : Pool} {nsid : Nat} (h : Tbl.find x.nss nsid = none) : sourceNs x nsid = false := by
  rw [sourceNs, h]

theorem sourceNs_of_find {x : Pool} {nsid : Nat} {ns : Ns} (h : Tbl.find x.nss nsid = some ns) :
    sourceNs x nsid = (!ns.deleting && ns.snap.isNone) := by
  rw [sourceNs, h]

/-- The lowest pair id that no pair of a list has. -/
def freePair (l : List (Nat × Nat × RPair)) : Nat := ((List.range 257).find? (fun i => !l.any (fun q => decide (q.2.1 = i)))).getD 0

theorem freePair_eq {l : List (Nat × Nat × RPair)} {n : Nat} (hlow : ∀ k < n, ∃ q ∈ l, q.2.1 = k) (hfree : ∀ q ∈ l, q.2.1 ≠ n) (hn : n ≤ 256) :
    freePair l = n := by
  have hfind : (List.range 257).find? (fun i => !l.any (fun q => decide (q.2.1 = i))) = some n := by
    rw [List.find?_range_eq_some]
    refine ⟨?_, List.mem_range.2 (by omega), fun k hk => ?_⟩
    · simpa using hfree
    · simpa using hlow k hk
  rw [freePair, hfind, Option.getD_some]

theorem exec_replCreate (hl : s.libCall call 69 = some c) : exec (.replCreate call) s =
    if !s.owns (callPool c.entry) then .next (s.libFail call 0x23)
    else if !pairBlockOk (s.paramBytes c) then .next (s.libFail call 0x60)
    else if (s.pool (callPool c.entry)).fill = 2 then .next (s.libFail call 0x31)
    else if !sourceNs (s.pool (callPool c.entry)) (fieldAt (s.paramBytes c) 0 4) ∨ s.sourcePairs.length ≥ 256 ∨
        (s.sourcePairs.filter (fun q => decide (q.1 = callPool c.entry))).length ≥ 16 then .next (s.libFail call 0x65)
    else .next ((s.submit (callPool c.entry) 4 (pairEntries (callPool c.entry) (freePair s.sourcePairs) (s.paramBytes c))).libExit call 0
      (freePair s.sourcePairs)) := by
  show execReplCreate call s = _
  rw [execReplCreate, hl]
  rfl

section

variable {p : Nat} {x : Pool} {d : Bytes} (hl : s.libCall call 69 = some c) (hp : p = callPool c.entry)
include hl hp

theorem exec_replCreate_unowned (ho : s.owns p = false) : exec (.replCreate call) s = .next (s.libFail call 0x23) := by
  subst hp
  exact (exec_replCreate hl).trans (if_pos (by rw [ho]; rfl))

variable (hd : d = s.paramBytes c) (ho : s.owns p = true)
include hd ho

theorem exec_replCreate_block (hb : pairBlockOk d = false) : exec (.replCreate call) s = .next (s.libFail call 0x60) := by
  subst hp hd
  rw [exec_replCreate hl, ho, hb]
  rfl

variable (hx : x = s.pool p) (hb : pairBlockOk d = true)
include hx hb

theorem exec_replCreate_full (hf : x.fill = 2) : exec (.replCreate call) s = .next (s.libFail call 0x31) := by
  subst hp hd hx
  rw [exec_replCreate hl, ho, hb]
  exact if_pos hf

theorem exec_replCreate_asked (hf : x.fill ≠ 2) : exec (.replCreate call) s =
    if !sourceNs x (fieldAt d 0 4) ∨ s.sourcePairs.length ≥ 256 ∨ (s.sourcePairs.filter (fun q => decide (q.1 = p))).length ≥ 16 then
      .next (s.libFail call 0x65)
    else .next ((s.submit p 4 (pairEntries p (freePair s.sourcePairs) d)).libExit call 0 (freePair s.sourcePairs)) := by
  subst hp hd hx
  rw [exec_replCreate hl, ho, hb]
  exact if_neg hf

/-- A pair is created under the lowest pair id that no source pair has. -/
theorem exec_replCreate_new (hf : x.fill ≠ 2) (hns : sourceNs x (fieldAt d 0 4) = true) (hall : s.sourcePairs.length < 256)
    (hmine : (s.sourcePairs.filter (fun q => decide (q.1 = p))).length < 16) {n : Nat}
    (hlow : ∀ k < n, ∃ q ∈ s.allPairs, q.2.2.source = true ∧ q.2.1 = k) (hfree : ∀ q ∈ s.allPairs, q.2.2.source = true → q.2.1 ≠ n) (hn : n ≤ 256) :
    exec (.replCreate call) s = .next ((s.submit p 4 (pairEntries p n d)).libExit call 0 n) := by
  have hpair : freePair s.sourcePairs = n := by
    refine freePair_eq (fun k hk => ?_) (fun q hq => ?_) hn
    · obtain ⟨q, hq, hsrc, hid⟩ := hlow k hk
      exact ⟨q, List.mem_filter.2 ⟨hq, hsrc⟩, hid⟩
    · obtain ⟨hq, hsrc⟩ := List.mem_filter.1 hq
      exact hfree q hq hsrc
  rw [exec_replCreate_asked hl hp hd ho hx hb hf, hpair, hns, if_neg]
  rintro (h | h | h)
  · exact absurd h (by decide)
  · exact Nat.not_le.2 hall h
  · exact Nat.not_le.2 hmine h

end

/-! ### REPL_ACCEPT (R355, R365, R367) -/

/-- May a namespace take a pair as its target: it may be replicated, is no target yet, and its pool deduplicates? -/
def targetNs (x : Pool) (nsid : Nat) : Bool :=
  match Tbl.find x.nss nsid with
  | some n => !n.deleting && n.snap.isNone && !n.target && x.cfg.dedup
  | none => false

/-- The number that the next accepted pair takes: above every pair's, and none that a source's pair could have. -/
def nextTarget (s : State) : Nat := Tbl.next (s.allPairs.map (fun q => (q.2.1, ())) ++ [(Pool.targetPairs - 1, ())])

theorem nextTarget_new (s : State) : ∀ q ∈ s.allPairs, q.2.1 ≠ s.nextTarget := fun q hq =>
  (Tbl.lt_next _ (q.2.1, ()) (List.mem_append_left _ (List.mem_map.2 ⟨q, hq, rfl⟩))).ne

theorem exec_replAccept (hl : s.libCall call 70 = some c) : exec (.replAccept call) s =
    if !s.owns (callPool c.entry) then .next (s.libFail call 0x23)
    else if !pairBlockOk (s.paramBytes c) then .next (s.libFail call 0x60)
    else if !targetNs (s.pool (callPool c.entry)) (fieldAt (s.paramBytes c) 0 4) then .next (s.libFail call 0x65)
    else if fieldAt (s.paramBytes c) 0x30 4 ≠ 0 ∧ (Tbl.find s.allNs (fieldAt (s.paramBytes c) 0x30 4)).isSome then .next (s.libFail call 0x25)
    else .next ((s.submit (callPool c.entry) 4 (pairEntries (callPool c.entry) s.nextTarget (s.paramBytes c))).libDone call) := by
  show execReplAccept call s = _
  rw [execReplAccept, hl]
  rfl

section

variable {p : Nat} {x : Pool} {d : Bytes} (hl : s.libCall call 70 = some c) (hp : p = callPool c.entry)
include hl hp

theorem exec_replAccept_unowned (ho : s.owns p = false) : exec (.replAccept call) s = .next (s.libFail call 0x23) := by
  subst hp
  exact (exec_replAccept hl).trans (if_pos (by rw [ho]; rfl))

variable (hd : d = s.paramBytes c) (ho : s.owns p = true)
include hd ho

theorem exec_replAccept_block (hb : pairBlockOk d = false) : exec (.replAccept call) s = .next (s.libFail call 0x60) := by
  subst hp hd
  rw [exec_replAccept hl, ho, hb]
  rfl

variable (hx : x = s.pool p) (hb : pairBlockOk d = true)
include hx hb

theorem exec_replAccept_noNs (hn : targetNs x (fieldAt d 0 4) = false) : exec (.replAccept call) s = .next (s.libFail call 0x65) := by
  subst hp hd hx
  rw [exec_replAccept hl, ho, hb, hn]
  rfl

theorem exec_replAccept_asked (hn : targetNs x (fieldAt d 0 4) = true) : exec (.replAccept call) s =
    if fieldAt d 0x30 4 ≠ 0 ∧ (Tbl.find s.allNs (fieldAt d 0x30 4)).isSome then .next (s.libFail call 0x25)
    else .next ((s.submit p 4 (pairEntries p s.nextTarget d)).libDone call) := by
  subst hp hd hx
  rw [exec_replAccept hl, ho, hb, hn]
  rfl

end

/-! ### REPL_DELETE and REPL_STATUS (R367, R368) -/

theorem exec_replDelete_unknown {n : Nat} (hl : s.libCall call 71 = some c) (hn : n = callArg c.entry 0) (h : ∀ q ∈ s.allPairs, q.2.1 ≠ n) :
    exec (.replDelete call) s = .next (s.libFail call 0x66) := by
  have hnone : s.allPairs.find? (fun q => decide (q.2.1 = n)) = none := by simpa using h
  subst hn
  show execReplDelete call s = _
  rw [execReplDelete, hl]
  dsimp only
  rw [hnone]

theorem exec_replDelete_unowned {n p k : Nat} {r : RPair} (hl : s.libCall call 71 = some c) (hn : n = callArg c.entry 0)
    (h : s.allPairs.find? (fun q => decide (q.2.1 = n)) = some (p, k, r)) (ho : s.owns p = false) :
    exec (.replDelete call) s = .next (s.libFail call 0x23) := by
  subst hn
  show execReplDelete call s = _
  rw [execReplDelete, hl]
  dsimp only
  rw [h]
  exact if_pos (by rw [ho]; rfl)

/-- A source's pair whose connection is down: its round is stopped, and the pair goes. -/
theorem exec_replDelete_source {n p k : Nat} {r : RPair} (hl : s.libCall call 71 = some c) (hn : n = callArg c.entry 0)
    (h : s.allPairs.find? (fun q => decide (q.2.1 = n)) = some (p, k, r)) (ho : s.owns p = true) (hs : r.source = true) (hc : r.connected = false) :
    exec (.replDelete call) s = .next (((s.roundStop p n 5).submit p 4 [eRepl p n 4 r.round 0]).libDone call) := by
  subst hn
  show execReplDelete call s = _
  rw [execReplDelete, hl]
  dsimp only
  rw [h]
  dsimp only
  rw [ho, hs, hc]
  rfl

theorem pairRec_length (n : Nat) (r : RPair) : (pairRec n r).length = 64 := by
  simp only [pairRec, satBytes, List.length_append, leBytes_length, zeros_length]

theorem exec_replStatus_unknown (hl : s.libCall call 72 = some c) (h : ∀ q ∈ s.allPairs, q.2.1 ≠ callArg c.entry 0) :
    exec (.replStatus call) s = .next (s.libFail call 0x66) := by
  have hnone : s.allPairs.find? (fun q => decide (q.2.1 = callArg c.entry 0)) = none := by simpa using h
  show execReplStatus call s = _
  rw [execReplStatus, hl]
  dsimp only
  rw [hnone]

theorem exec_replStatus {p n k : Nat} {r : RPair} (hl : s.libCall call 72 = some c) (hk : k = min 1 (callPlen c.entry / 64))
    (h : s.allPairs.find? (fun q => decide (q.2.1 = callArg c.entry 0)) = some (p, n, r)) :
    exec (.replStatus call) s = .next ((s.setParam c (([pairRec n r].take k).flatMap id)).libExit call 0 k) := by
  have hrec : ∀ b ∈ [pairRec n r], b.length = 64 := fun b hb => by
    rw [List.mem_singleton.1 hb]
    exact pairRec_length n r
  show execReplStatus call s = _
  rw [execReplStatus, hl]
  dsimp only
  rw [h, hk]
  exact congrArg _ (libRecords_eq (find_of_libCall hl) hrec)

end

end State
end Sys2Proof.Machine
end

section
/-! Rounds at the source: how one goes on and begins, and how the connection is made (part of O44). -/

open Sys2Proof Sys2Proof.Machine Sys2Proof.Machine.State

namespace Sys2Proof.Machine.State

/-! ### A round goes on (R359, R361) -/

/-- The source reports its round, sends what may go out, and ROUND_END once all is applied. -/
def goOn (s : State) (p n phase : Nat) : State := (sendItems p n 64 (s.replReport p n phase)).roundEnd p n

section

variable {s : State} {p n : Nat} {r : RPair}

theorem goOn_pairOf (s : State) (p n phase : Nat) : (s.goOn p n phase).pairOf p n = (sendItems p n 64 (s.replReport p n phase)).pairOf p n :=
  (roundEnd_sameArray _ _ _).pairOf p n

theorem pairOf_replReport (h : s.pairOf p n = some r) (phase : Nat) : (s.replReport p n phase).pairOf p n = some r :=
  ((replReport_sameArray s p n phase).pairOf p n).trans h

theorem goOn_pair (h : s.pairOf p n = some r) (phase : Nat) : ∃ k, (s.goOn p n phase).pairOf p n = some { r with sent := k } := by
  rw [goOn_pairOf]
  exact sendItems_pair 64 (pairOf_replReport h phase)

/-- With none in flight, 64 items go out beyond those applied, or all that are left; with the connection down none. -/
theorem goOn_sent (h : s.pairOf p n = some r) (ha : r.acked = []) (hs : r.sent = r.applied) (hl : r.applied ≤ r.items.length) (phase : Nat) :
    (s.goOn p n phase).pairOf p n = some { r with sent := if r.connected then min (r.applied + 64) r.items.length else r.sent } := by
  have h' := pairOf_replReport h phase
  rw [goOn_pairOf]
  by_cases hc : r.connected = true
  · rw [if_pos hc]
    exact sendItems_sent h' hc ha (by omega) (by omega) (by omega) (by omega)
  · rw [if_neg hc, sendItems_down h' (by simpa using hc), h']

theorem goOn_snapsOf (s : State) (p n phase : Nat) : (s.goOn p n phase).snapsOf p = s.snapsOf p := by
  rw [goOn, (roundEnd_sameArray _ _ _).snapsOf, sendItems_snapsOf, (replReport_sameArray _ _ _ _).snapsOf]

/-! ### A round begins (R345, R359) -/

theorem exec_replRound_idle (h : s.pairOf p n = some r) (hidle : s.owns p = false ∨ r.source = false ∨ s.roundDue p n = false ∨
    s.snapSpaced p = false ∨ 65535 ≤ (s.pool p).snaps.length) : exec (.replRound p n) s = .next s := by
  show execReplRound p n s = _
  rw [execReplRound, h]
  refine if_pos ?_
  rcases hidle with h | h | h | h | h <;> simp [h]

/-- The state in which a round's snapshot is taken and the round is in the journal. -/
def roundBegun (s : State) (p n round : Nat) : State :=
  ((s.submit p 4 [eSnap p 0 1 (s.pool p).snapEpoch 0]).updPool p (fun y => { y with ckpt := { y.ckpt with cutting := false } })).submit p 8
    [eRepl p n 1 round (s.pool p).snapEpoch]

/-- A pair with the items of a new round. -/
def withItems (items : List RItem) (time : W64) (z : RPair) : RPair :=
  { z with items := items, sent := 0, applied := 0, acked := [], wantSeen := 0, roundAt := time, state := if z.connected then 2 else 3 }

theorem exec_replRound_due (h : s.pairOf p n = some r) (ho : s.owns p = true) (hs : r.source = true) (hdue : s.roundDue p n = true)
    (hspaced : s.snapSpaced p = true) (hsnaps : (s.pool p).snaps.length < 65535) : exec (.replRound p n) s = if s.cutBusy p then .next (s.cutWait p) else
    .next (((s.roundBegun p n (r.round + 1)).updPair p n (withItems (roundItems ((s.roundBegun p n (r.round + 1)).pool p) r.nsid r.prevSnap
      (s.pool p).snapEpoch) s.time)).goOn p n (if r.connected then 0 else 2)) := by
  have hlow : decide ((s.pool p).snaps.length ≥ 65535) = false := by simpa using hsnaps
  show execReplRound p n s = _
  rw [execReplRound, h]
  dsimp only
  rw [ho, hs, hdue, hspaced, hlow]
  rfl

theorem roundBegun_rounds {round : Nat} (hn : n < 2 ^ 32) (hr : round < 2 ^ 32) (he : (s.pool p).snapEpoch < 2 ^ 63) :
    ((s.roundBegun p n round).pool p).rounds =
      ((s.pool p).snaps ++ [{ id := (s.pool p).snapEpoch, time := s.time, repl := true, deleting := false }], (s.pool p).snapEpoch + 1,
        Tbl.upd (s.pool p).pairs n fun z => { z with round := round, curSnap := some (s.pool p).snapEpoch }) := by
  have hsnap : (((s.submit p 4 [eSnap p 0 1 (s.pool p).snapEpoch 0]).updPool p
      (fun y => { y with ckpt := { y.ckpt with cutting := false } })).pool p).rounds = _ :=
    (rounds_updPool _ _).trans (submit_roundSnap (by omega))
  simp only [Pool.rounds, Prod.mk.injEq] at hsnap
  obtain ⟨hsnaps, hepoch, hpairs⟩ := hsnap
  rw [roundBegun, submit_roundBegin hn hr (by omega), hsnaps, hepoch, hpairs]

/-- A pair whose round has begun. -/
def begunPair (round id : Nat) (r : RPair) : RPair := { r with round := round, curSnap := some id }

theorem exec_replRound_begins (h : s.pairOf p n = some r) (ho : s.owns p = true) (hs : r.source = true) (hdue : s.roundDue p n = true)
    (hbusy : s.cutBusy p = false) (hspaced : s.snapSpaced p = true) (hsnaps : (s.pool p).snaps.length < 65535) (hn : n < 2 ^ 32)
    (hr : r.round + 1 < 2 ^ 32) (he : (s.pool p).snapEpoch < 2 ^ 63) {q : RPair}
    (hq : q = withItems (roundItems ((s.roundBegun p n (r.round + 1)).pool p) r.nsid r.prevSnap (s.pool p).snapEpoch) s.time
      (begunPair (r.round + 1) (s.pool p).snapEpoch r)) :
    ∃ t, gives (.replRound p n) s t ∧
      t.snapsOf p = ((s.pool p).snaps ++ [{ id := (s.pool p).snapEpoch, time := s.time, repl := true, deleting := false }],
        (s.pool p).snapEpoch + 1) ∧
      t.pairOf p n = some { q with sent := if r.connected then min 64 q.items.length else 0 } := by
  have hrounds := roundBegun_rounds hn hr he
  simp only [Pool.rounds, Prod.mk.injEq] at hrounds
  obtain ⟨hsnaps', hepoch, hpairs⟩ := hrounds
  have hpair : (s.roundBegun p n (r.round + 1)).pairOf p n = some (begunPair (r.round + 1) (s.pool p).snapEpoch r) := by
    rw [pairOf, hpairs, Tbl.upd_of_find h, Tbl.find_set_same, begunPair]
  have hexec := (exec_replRound_due h ho hs hdue hspaced hsnaps).trans (if_neg (by rw [hbusy]; exact Bool.false_ne_true))
  generalize roundItems _ _ _ _ = items at hexec hq
  subst hq
  refine ⟨_, hexec, ?_, ?_⟩
  · rw [goOn_snapsOf, snapsOf_updPair, snapsOf, hsnaps', hepoch]
  · exact goOn_sent (pairOf_updPair hpair (withItems items s.time)) rfl rfl (Nat.zero_le _) _

end

/-! ### The connection (R356, R363) -/

section

variable {s : State} {p n : Nat} {r : RPair} (h : s.pairOf p n = some r)
include h

theorem exec_replReconnect_idle (hidle : s.owns p = false ∨ r.source = false ∨ s.time.toNat < r.retryAt.toNat ∨ r.connected = true ∧ r.reason ≠ 4) :
    exec (.replReconnect p n) s = .next s := by
  show execReplReconnect p n s = _
  rw [execReplReconnect, h]
  refine if_pos ?_
  rcases hidle with h | h | h | ⟨h, h'⟩
  · simp [h]
  · simp [h]
  · simp [h]
  · simp [h, h']

/-- A pair whose connection is being opened. -/
def helloPair (time : W64) (z : RPair) : RPair := { z with connected := true, state := 1, retryAt := time + 6000000000 }

/-- The body of HELLO. -/
def helloBody (poolId : Bytes) (r : RPair) : Bytes := padTo 16 poolId ++ leBytes 4 r.nsid ++ leBytes 4 r.remote ++ zeros 8

theorem exec_replReconnect_due (ho : s.owns p = true) (hs : r.source = true) (hdue : r.retryAt.toNat ≤ s.time.toNat) (hc : r.connected = false) :
    exec (.replReconnect p n) s =
      if !s.secureHif r.hif then .next (s.updPair p n (fun z => { z with connected := false, reason := 3 }))
      else .next ((s.updPair p n (helloPair s.time)).sendRepl p n 1 0 (helloBody (s.pool p).poolId r)) := by
  have hnow : decide (s.time.toNat < r.retryAt.toNat) = false := by simpa using hdue
  show execReplReconnect p n s = _
  rw [execReplReconnect, h]
  dsimp only
  rw [ho, hs, hnow, hc]
  rfl

theorem exec_replReconnect_secure (ho : s.owns p = true) (hs : r.source = true) (hdue : r.retryAt.toNat ≤ s.time.toNat) (hc : r.connected = false)
    (hsec : s.secureHif r.hif = true) : ∃ t q, gives (.replReconnect p n) s t ∧ t.pairOf p n = some q ∧ q.connected = true ∧ q.state = 1 ∧
      t.out = s.out ++ [.repl p n (replMsg 1 n r.round 0 (helloBody (s.pool p).poolId r))] := by
  have hpair := pairOf_updPair h (helloPair s.time)
  have hsend := sendRepl_connected hpair rfl 1 0 (helloBody (s.pool p).poolId r)
  refine ⟨_, helloPair s.time r, (exec_replReconnect_due h ho hs hdue hc).trans (if_neg (by rw [hsec]; exact Bool.false_ne_true)), ?_, rfl, rfl, ?_⟩
  · exact ((sendRepl_sameArray _ _ _ _ _ _).pairOf p n).trans hpair
  · rw [hsend]
    have hid : wireId n (helloPair s.time r) = n := if_pos hs
    rw [hid]
    rfl

end

end Sys2Proof.Machine.State
end

section
/-! What HELLO_ACK, WANT, APPLIED, ROUND_DONE and ERROR do at the source (part of O44). -/

open Sys2Proof Sys2Proof.Machine Sys2Proof.Machine.State

namespace Sys2Proof.Machine.State

/-- Only the item after those applied is acknowledged: the count rises by one. -/
theorem appliedUpTo_next (a k : Nat) (hk : 0 < k) : (List.range k).foldl (fun x _ => if (x + 1) ∈ [a + 1] then x + 1 else x) a = a + 1 := by
  have hstay (l : List Nat) : l.foldl (fun x _ => if (x + 1) ∈ [a + 1] then x + 1 else x) (a + 1) = a + 1 :=
    List.foldlRecOn (motive := fun x => x = a + 1) l _ rfl fun x hx _ _ => by
      rw [hx]
      exact if_neg (by simp)
  obtain ⟨j, rfl⟩ := Nat.exists_eq_succ_of_ne_zero hk.ne'
  rw [List.range_succ_eq_map, List.foldl_cons, if_pos (List.mem_singleton.2 rfl), hstay]

section

variable {s : State} {p n : Nat} {m : Bytes} {r : RPair} (h : s.pairOf p n = some r) (hc : r.connected = true) (ho : s.owns p = true)
include h hc ho

/-! ### HELLO_ACK (R363) -/

/-- A pair whose round goes on after the items that the target has applied. -/
def resumed (items : List RItem) (applied : Nat) (z : RPair) : RPair :=
  { z with state := 2, items := items, applied := min applied items.length, sent := min applied items.length, acked := [] }

theorem exec_helloAck (hs : r.source = true) (hm : msgBad 2 m = none) {u : State}
    (hu : u = s.updPair p n (fun z => { z with backoff := 0, reason := 0 })) : exec (.helloAck p n m) s =
      if fieldAt m 32 1 ≠ 0 then .next ((s.emit (.replClose p n)).pairLost p n 2)
      else r.curSnap.elim (.next (u.updPair p n (fun z => { z with state := 0 }))) fun id =>
        if fieldAt m 40 8 = 2 ^ 64 - 1 then .next (u.roundOver p n none)
        else .next ((u.updPair p n (resumed (roundItems (u.pool p) r.nsid r.prevSnap id) (fieldAt m 40 8))).goOn p n 0) := by
  subst hu
  show execHelloAck p n m s = _
  rw [execHelloAck, recvRepl_good h hc ho hm, hs, fieldAt_drop, fieldAt_drop]
  refine (if_neg (by decide)).trans ?_
  cases r.curSnap <;> rfl

/-- After a HELLO_ACK the round goes on after the target's APPLIED. -/
theorem exec_helloAck_resumes (hs : r.source = true) (hm : msgBad 2 m = none) {u : State}
    (hu : u = s.updPair p n (fun z => { z with backoff := 0, reason := 0 })) (h0 : fieldAt m 32 1 = 0) {id : Nat} (hid : r.curSnap = some id)
    (ha : fieldAt m 40 8 ≠ 2 ^ 64 - 1) : ∃ t q, gives (.helloAck p n m) s t ∧ t.pairOf p n = some q ∧
      q.items = roundItems (u.pool p) r.nsid r.prevSnap id ∧ q.applied = min (fieldAt m 40 8) q.items.length ∧ q.acked = [] ∧ q.state = 2 ∧
      q.sent = min (min (fieldAt m 40 8) q.items.length + 64) q.items.length := by
  have hexec := exec_helloAck h hc ho hs hm hu
  rw [if_neg (not_not.2 h0), hid] at hexec
  dsimp only [Option.elim] at hexec
  rw [if_neg ha] at hexec
  have hpair := pairOf_updPair h (fun z => { z with backoff := 0, reason := 0 })
  rw [← hu] at hpair
  have hgo := goOn_sent (pairOf_updPair hpair (resumed (roundItems (u.pool p) r.nsid r.prevSnap id) (fieldAt m 40 8))) rfl rfl
    (Nat.min_le_right _ _) 0
  exact ⟨_, _, hexec, hgo, rfl, rfl, rfl, rfl, if_pos hc⟩

/-! ### WANT (R359) -/

variable {marks : Marks}

theorem exec_want_unknown (hm : msgBad 4 m = none) {item : Nat} (hitem : item = fieldAt m 0x10 8) (hl : r.items.length < item) :
    exec (.want p n m marks) s = .next (s.replError p n 4 item) := by
  have hnone : r.items[item - 1]? = none := List.getElem?_eq_none_iff.2 (by omega)
  show execWant p n m marks s = _
  rw [execWant, recvRepl_good h hc ho hm, ← hitem]
  dsimp only
  rw [hnone]

theorem exec_want_length (hm : msgBad 4 m = none) {item : Nat} (hitem : item = fieldAt m 0x10 8) {it : RItem}
    (hit : r.items[item - 1]? = some it) (hl : m.length - 32 ≠ ceilDiv it.handles.length 8) :
    exec (.want p n m marks) s = .next (s.replError p n 0 item) := by
  show execWant p n m marks s = _
  rw [execWant, recvRepl_good h hc ho hm, ← hitem]
  dsimp only
  rw [hit, List.length_drop]
  exact if_pos (.inr hl)

/-- A WANT of an item's one chunk: its frame goes out. -/
theorem exec_want_one (hm : msgBad 4 m = none) {item : Nat} (hitem : item = fieldAt m 0x10 8) (h0 : item ≠ 0) {it : RItem}
    (hit : r.items[item - 1]? = some it) (hbits : m.drop 32 = [1]) (hone : it.handles.length = 1) {f : Bytes} {u : State}
    (hf : s.fetchFrame p (it.handles.getD 0 0) marks = (some f, u)) : exec (.want p n m marks) s =
      .next ((u.updPair p n (fun z => { z with
        chunksSent := z.chunksSent + 1, bytesSent := z.bytesSent + f.length, wantSeen := max z.wantSeen item })).sendRepl p n 5 item
        (chunkEntry 0 f)) := by
  have hwants : (List.range 1).filter (fun i => bit (leNat [1]) i) = [0] := by decide
  have hlen : ¬ (item = 0 ∨ [(1 : Byte)].length ≠ ceilDiv 1 8) := by
    rintro (h | h)
    · exact h0 h
    · exact h (by decide)
  show execWant p n m marks s = _
  rw [execWant, recvRepl_good h hc ho hm, ← hitem]
  dsimp only
  rw [hit, hbits]
  dsimp only
  rw [hone, hwants, if_neg hlen]
  simp only [List.foldl_cons, List.foldl_nil, hf, packBodies, List.nil_append, List.length_cons, List.length_nil, Nat.zero_add, Nat.sub_self,
    Nat.add_zero, ite_self]

/-! ### APPLIED (R359, R363) -/

theorem exec_applied_bad (hm : msgBad 6 m = none) {item : Nat} (hitem : item = fieldAt m 0x10 8) (hbad : r.source = false ∨ item = 0 ∨ r.sent < item) :
    exec (.applied p n m) s = .next (s.replError p n 4 item) := by
  show execApplied p n m s = _
  rw [execApplied, recvRepl_good h hc ho hm, ← hitem]
  refine if_pos ?_
  rcases hbad with h | h | h <;> simp [h]

theorem exec_applied_known (hm : msgBad 6 m = none) {item : Nat} (hitem : item = fieldAt m 0x10 8) (hs : r.source = true) (h0 : 0 < item)
    (hl : item ≤ r.sent) (hknown : item ≤ r.applied ∨ item ∈ r.acked) : exec (.applied p n m) s = .next s := by
  show execApplied p n m s = _
  rw [execApplied, recvRepl_good h hc ho hm, ← hitem]
  refine (if_neg ?_).trans (if_pos hknown)
  simp [hs]
  omega

/-- The next item of the round is applied. -/
theorem exec_applied_next (hm : msgBad 6 m = none) {item : Nat} (hitem : item = fieldAt m 0x10 8) (hs : r.source = true)
    (hnext : item = r.applied + 1) (hl : r.applied + 1 ≤ r.sent) (ha : r.acked = []) (hsoon : (s.time - r.appliedAt).toNat < 10000000) :
    exec (.applied p n m) s = .next ((s.updPair p n (fun z => { z with applied := item, acked := [] })).goOn p n 0) := by
  have hup := appliedUpTo_next r.applied r.sent (by omega)
  have hacked : [r.applied + 1].filter (fun i => decide (i > r.applied + 1)) = [] := by simp
  show execApplied p n m s = _
  rw [execApplied, recvRepl_good h hc ho hm, ← hitem]
  refine (if_neg (by simp [hs]; omega)).trans ((if_neg (by simp [ha]; omega)).trans ?_)
  dsimp only
  rw [ha, hnext, hup, hacked, if_neg (by omega)]
  rfl

/-! ### ROUND_DONE (R359) -/

theorem exec_roundDone (hm : msgBad 8 m = none) : exec (.roundDone p n m) s =
    if r.source && r.curSnap.isSome && decide (r.applied = r.items.length) then .next (s.roundOver p n (some (fieldAt m 32 8)))
    else .next (s.replError p n 4 0) := by
  show execRoundDone p n m s = _
  rw [execRoundDone, recvRepl_good h hc ho hm, fieldAt_drop]

/-! ### ERROR (R362) -/

theorem exec_replError_failed (hm : msgBad 11 m = none) (hcode : fieldAt m 32 1 = 2) : exec (.replError p n m) s =
    if r.source then .next ((s.roundStop p n 4).book 0x00 0x10C (leBytes 1 p ++ leBytes 4 n ++ leBytes 8 (fieldAt m 40 8)))
    else .next (s.dropWorks p n) := by
  show execReplError p n m s = _
  rw [execReplError, recvRepl_good h hc ho hm]
  dsimp only
  rw [fieldAt_drop, hcode, fieldAt_drop]
  rfl

theorem exec_replError_paused (hm : msgBad 11 m = none) (hcode : fieldAt m 32 1 = 3) {u : State}
    (hu : u = s.updPair p n (fun z => { z with state := 3, reason := 4, retryAt := s.time + 6000000000 })) :
    exec (.replError p n m) s = .next (if r.source && r.curSnap.isSome then u.replReport p n 2 else u) := by
  subst hu
  show execReplError p n m s = _
  rw [execReplError, recvRepl_good h hc ho hm]
  dsimp only
  rw [fieldAt_drop, hcode]
  rfl

theorem exec_replError_closes (hm : msgBad 11 m = none) (h2 : fieldAt m 32 1 ≠ 2) (h3 : fieldAt m 32 1 ≠ 3) :
    exec (.replError p n m) s = .next ((s.emit (.replClose p n)).pairLost p n 1) := by
  show execReplError p n m s = _
  rw [execReplError, recvRepl_good h hc ho hm]
  dsimp only
  rw [fieldAt_drop]
  split
  · next hcode => exact absurd hcode h2
  · next hcode => exact absurd hcode h3
  · rfl

end

end Sys2Proof.Machine.State
end

section
/-! Replication at the source: the whole of O44. -/

open Sys2Proof Sys2Proof.Machine Sys2Proof.Machine.State

namespace Sys2Proof.Machine

/-- Settles O44: what comes on a pair's connection is received as `recvRepl` says; the calls, rounds and messages are the cases of their commands. -/
theorem replicationAtTheSource : Obligations.ReplicationAtTheSource := by
  unfold Obligations.ReplicationAtTheSource
  refine ⟨?message, ?error, fun s p n r h hc => (exec_replConnectionLost h).trans (if_neg (by rw [hc]; exact Bool.false_ne_true)), ?create, ?accept,
    ?delete, ?status, ?round, ?reconnect, ?hello, ?want, ?applied, ?done, ?fault⟩
  case message =>
    intro s p n typ i m marks hi
    obtain ⟨f, hexec⟩ := exec_message hi s
    refine ⟨fun h => hexec.trans (recvRepl_unpaired h f), fun r h => ⟨fun hidle => hexec.trans (recvRepl_idle h hidle f), fun hc ho => ?_⟩⟩
    have hbad {code : Nat} (hm : msgBad typ m = some code) : gives i s (s.replError p n code 0) := hexec.trans (recvRepl_bad h hc ho hm f)
    refine ⟨fun hh => hbad (msgBad_head hh), fun hlen hmark htyp => ?_⟩
    have hhead : replHead typ m := ⟨hlen, hmark, htyp⟩
    exact ⟨fun hcrc => hbad (msgBad_headCrc hhead hcrc), fun hcrc => ⟨fun hl => hbad (msgBad_length hhead hcrc hl),
      fun hmax hl hbody => hbad (msgBad_bodyCrc hhead hcrc hmax hl hbody)⟩⟩
  case error =>
    intro s p n item r h hc _ _ hs
    refine ⟨fun code hcode => ?_, ?_⟩
    · obtain ⟨hout, hpair⟩ := replError_spec h hc hs hcode item
      exact ⟨_, _, rfl, hout, hpair, rfl, rfl, rfl, rfl, rfl, rfl⟩
    · rintro t q rfl hq
      rw [pairOf_pairLost h] at hq
      obtain rfl := Option.some.inj hq
      exact ⟨(exec_replConnectionLost h).trans (if_pos hc), rfl⟩
  case create =>
    rintro s u call p n c x d hl hp hx hd rfl
    refine ⟨fun ho => gives_libFail (exec_replCreate_unowned hl hp ho), fun ho hb => gives_libFail (exec_replCreate_block hl hp hd ho hb),
      fun ho hb hf => gives_libFail (exec_replCreate_full hl hp hd ho hx hb hf), fun ho hb hf => ?_⟩
    have hrefused (h : sourceNs x (fieldAt d 0 4) = false ∨ s.sourcePairs.length ≥ 256 ∨
        (s.sourcePairs.filter (fun q => decide (q.1 = p))).length ≥ 16) :=
      gives_libFail ((exec_replCreate_asked hl hp hd ho hx hb hf).trans (if_pos (h.imp_left fun h => by rw [h]; rfl)))
    refine ⟨fun hno => hrefused (hno.imp_left sourceNs_unknown), fun ns hns hno => hrefused (.inl ?_),
      fun ns hns hdel hsnap hall hmine hlow hfree hn => exec_replCreate_new hl hp hd ho hx hb hf ?_ hall hmine hlow hfree hn⟩
    · rw [sourceNs_of_find hns]
      rcases hno with hno | hno
      · simp [hno]
      · simp [Option.isNone_eq_false_iff.2 (Option.ne_none_iff_isSome.1 hno)]
    · simp [sourceNs_of_find hns, hdel, hsnap]
  case accept =>
    rintro s u call p c x d hl hp hx hd rfl
    refine ⟨fun ho => gives_libFail (exec_replAccept_unowned hl hp ho), fun ho hb => gives_libFail (exec_replAccept_block hl hp hd ho hb),
      fun ho hb => ⟨fun hno => gives_libFail (exec_replAccept_noNs hl hp hd ho hx hb ?_), fun ns hns hdel hsnap htgt hdedup => ?_⟩⟩
    · unfold targetNs
      rcases hno with hno | hno
      · rw [hno]
      · cases Tbl.find x.nss (fieldAt d 0 4) <;> simp [hno]
    · have hok : targetNs x (fieldAt d 0 4) = true := by simp [targetNs, hns, hdel, hsnap, htgt, hdedup]
      have hexec := exec_replAccept_asked hl hp hd ho hx hb hok
      refine ⟨fun h0 hview => gives_libFail (hexec.trans (if_pos ⟨h0, hview⟩)),
        fun hview => ⟨_, _, _, rfl, nextTarget_new s, hexec.trans (if_neg ?_)⟩⟩
      rintro ⟨h0, hsome⟩
      rcases hview with hview | hview
      · exact h0 hview
      · rw [hview] at hsome
        exact Bool.false_ne_true hsome
  case delete =>
    rintro s u call n p k c r hl hn rfl
    exact ⟨fun hno => gives_libFail (exec_replDelete_unknown hl hn hno), fun hf => ⟨fun ho => gives_libFail (exec_replDelete_unowned hl hn hf ho),
      fun ho hs hc => ⟨_, _, rfl, exec_replDelete_source hl hn hf ho hs hc⟩⟩⟩
  case status =>
    rintro s u call k p n c r hl rfl hk
    exact ⟨fun hno => gives_libFail (exec_replStatus_unknown hl hno), fun hf => exec_replStatus hl hk hf⟩
  case round =>
    intro s p n r h
    refine ⟨fun hidle => exec_replRound_idle h hidle, fun ho hs hdue hbusy hsp hsn => (exec_replRound_due h ho hs hdue hsp hsn).trans (if_pos hbusy),
      fun ho hs hdue hbusy hsp hsn _ _ _ hn hr he => ?_⟩
    obtain ⟨t, hexec, hsnaps, hpair⟩ := exec_replRound_begins h ho hs hdue hbusy hsp hsn hn hr he rfl
    obtain ⟨hsnaps, hepoch⟩ := Prod.mk.inj hsnaps
    exact ⟨t, _, _, hexec, rfl, hsnaps, hepoch, hpair, rfl, rfl, rfl, rfl, rfl, rfl, rfl, rfl⟩
  case reconnect =>
    intro s p n r h
    exact ⟨fun hidle => exec_replReconnect_idle h hidle, fun ho hs hdue hc =>
      ⟨fun hsec => (exec_replReconnect_due h ho hs hdue hc).trans (if_pos (by rw [hsec]; rfl)),
        fun hsec _ _ => exec_replReconnect_secure h ho hs hdue hc hsec⟩⟩
  case hello =>
    rintro s u p n a m r h hc ho hs hm rfl hu
    have hexec := exec_helloAck h hc ho hs hm hu
    refine ⟨fun h0 => hexec.trans (if_pos h0), fun h0 => ?_⟩
    have hheard := hexec.trans (if_neg (not_not.2 h0))
    refine ⟨fun hid => by rw [gives, hheard, hid]; rfl, fun id hid => ⟨fun ha => ?_, fun ha => exec_helloAck_resumes h hc ho hs hm hu h0 hid ha⟩⟩
    rw [gives, hheard, hid]
    exact if_pos ha
  case want =>
    intro s u p n item m marks r it h hc ho hm hitem h0
    exact ⟨fun hl => exec_want_unknown h hc ho hm hitem hl, fun hit => ⟨fun hl => exec_want_length h hc ho hm hitem hit hl,
      fun f hbits hone hf _ => exec_want_one h hc ho hm hitem h0 hit hbits hone hf⟩⟩
  case applied =>
    intro s p n item m r h hc ho hm hitem
    refine ⟨fun hbad => exec_applied_bad h hc ho hm hitem hbad, fun hs h0 hl hknown => exec_applied_known h hc ho hm hitem hs h0 hl hknown,
      fun hs hnext hl ha hsoon _ _ => ?_⟩
    obtain ⟨k, hk⟩ := goOn_pair (pairOf_updPair h (fun z => { z with applied := item, acked := [] })) 0
    exact ⟨_, _, exec_applied_next h hc ho hm hitem hs hnext hl ha hsoon, hk, rfl, rfl, rfl⟩
  case done =>
    intro s p n m r h hc ho hm
    have hexec := exec_roundDone h hc ho hm
    refine ⟨fun hs hcur hall => hexec.trans (if_pos ?_), fun hno => hexec.trans (if_neg ?_)⟩
    · simp [hs, hall, Option.isSome_iff_ne_none.2 hcur]
    · rcases hno with hno | hno | hno <;> simp [hno]
  case fault =>
    rintro s u p n code m r h hc ho hm rfl hu
    refine ⟨fun hcode hs => ?_, fun hcode hs => ?_, fun hcode => exec_replError_paused h hc ho hm hcode hu,
      fun h2 h3 => exec_replError_closes h hc ho hm h2 h3⟩
    · exact (exec_replError_failed h hc ho hm hcode).trans (if_pos hs)
    · exact (exec_replError_failed h hc ho hm hcode).trans (if_neg (by rw [hs]; exact Bool.false_ne_true))

end Sys2Proof.Machine
end
